-- ==== Sys2Proof/Word.lean ====
section
/-!
DEFINITION. The word types of the mover (00_scope.md R11, R12) and nothing else.
-/
namespace Sys2Proof

/-- One byte of a memory structure. -/
abbrev Byte := BitVec 8
/-- A 32-bit index or key; index arithmetic is modulo 2^32 (R12). -/
abbrev W32 := BitVec 32
/-- A register, an address or a 64-bit word of a memory structure (R473, R11). -/
abbrev W64 := BitVec 64

end Sys2Proof
end

