-- ==== Sys2Proof/Syntax.lean ====
section
/-!
DEFINITION. The commands of the mover: one constructor per row of spec/opcode_table.json, in the table's order, and the
types of their operands.
-/
namespace Sys2Proof

/-- The agents that access the control region (R475). -/
inductive Agent where
  | hostp0 | hostp1 | cob0 | cob1 | cob2 | cob3
  deriving DecidableEq, Repr

/-- The two admin streams (R255). -/
inductive Stream where
  | ring | cob
  deriving DecidableEq, Repr

/-- The kinds of context the store holds (R43). -/
inductive CtxKind where
  | queue | ring | counter
  deriving DecidableEq, Repr

/-- What background BIST or an access in use finds in an array of R426: the next row sound or faulty (R433); a correctable error in use in
array `a`; an uncorrectable one in use that hits the cached context `n`, in row `row` of its bank, or row `row` of another array (R427). -/
inductive RowReport where
  | sound
  | faulty
  | corrected (a : Nat)
  | lostContext (k : CtxKind) (n row : Nat)
  | lostRow (a row : Nat)
  deriving DecidableEq, Repr

/-- How a port answers a read: with data, with data marked poisoned or damaged, or by rejecting the address. -/
inductive ReadAns where
  | ok
  /-- these beats of 32 bytes, or words of 8 bytes on MEMP, counted from the first that the read touches, arrive damaged
  (R216, R440, R448) -/
  | poison (units : List Nat)
  | rejected
  deriving DecidableEq, Repr

/-- How NETP answers a GET request (R443): data, poisoned data, or failure with a reason. -/
inductive NetAns where
  | ok | poison
  | failed (reason : Nat)
  deriving DecidableEq, Repr

/-- An aperture access: a read, or a write with the verdict of its beats' parity (R440). -/
inductive ApAccess where
  | read
  | write (parityOk : Bool)
  deriving DecidableEq, Repr

/-- A side of an entry. -/
inductive Dir where
  | src | dst
  deriving DecidableEq, Repr

/-- The rights a remote request needs (R69). -/
inductive RemoteRight where
  | rr | rwr | rred
  deriving DecidableEq, Repr

/-- An arriving fold segment (R177, R442). -/
structure FoldSeg where
  key        : W32
  ofs        : Nat
  redType    : Nat
  redOp      : Nat
  repro      : Bool
  outCarrier : Bool
  data       : List Byte
  poison     : Bool
  /-- its segment check (R211) -/
  chk        : W32
  deriving DecidableEq, Repr

/-- A segment that the transport brings, and its check (R211). -/
structure Segment where
  bytes : List Byte
  chk   : W32
  deriving DecidableEq, Repr

/-- What the mover takes from outside at steps 1 to 3 of the startup sequence (R339, R364, R420, R426, R470). -/
structure Boot where
  role          : Bool
  fellowAlive   : Bool
  haltIn        : Bool
  memSize       : W64
  sigRequired   : Bool
  keyProgrammed : Bool
  keyHash       : List Byte
  badEngines    : List Nat
  badUnits      : List Nat
  fuseRepairs   : List Nat
  deriving DecidableEq, Repr

/-- What the flash answers to the SFDP reads: its bytes from SFDP address 0 on (R317). -/
structure Sfdp where
  table : List Byte
  deriving DecidableEq, Repr

/-- A compact mirror record (R349), without its code. -/
structure MRec where
  seq    : W32
  mt     : W64
  item   : Nat
  ccause : Nat
  qid    : BitVec 22
  a      : W32
  b      : W64
  deriving DecidableEq, Repr

/-- A halt notice (R362). -/
structure Notice where
  mt    : W64
  qid   : BitVec 22
  a     : W32
  b     : W64
  deriving DecidableEq, Repr

/-- The transactions of R439, R450 and R489 that a port can turn away. -/
inductive Txn where
  | dataRead (e src : Nat)
  | dataWrite (q : BitVec 22) (i : W32) (w : Nat)
  | tableRead (q : BitVec 22) (i : W32) (d : Dir)
  | listRead (q : BitVec 22) (i : W32)
  | entryFetch (q : BitVec 22)
  | record (c : Nat)
  | hostMessage (src : Nat)
  | queryResponse (st : Stream)
  | traceCopy
  | cobAccess (c : Nat) (hostp : Bool)
  | foldWrite (f : FoldSeg)
  | reserved (ofs : Nat)
  deriving DecidableEq, Repr

/-- A command of the mover. -/
inductive Instr where
  /-- PI_WRITE: 4- or 8-byte aperture write at slot offset 0x00 through host port `p` (R29, R30). -/
  | piWrite (p : Fin 2) (q : BitVec 21) (pi : W32) (parityOk : Bool)
  /-- RING: 1- to 8-byte write wholly within 0x08-0x0F (R30, R37). -/
  | ring (p : Fin 2) (q : BitVec 21) (parityOk : Bool)
  /-- PI_AND_RING: write of 16 to 64 bytes at 0x00 (R30). -/
  | piAndRing (p : Fin 2) (q : BitVec 21) (size : Nat) (pi : W32) (parityOk : Bool)
  /-- CQ_CI_WRITE: 4- or 8-byte write at 0x40 (R134). -/
  | cqCiWrite (p : Fin 2) (q : BitVec 21) (v : W32) (parityOk : Bool)
  /-- APERTURE_MISFORMED_ACCESS: an access of another size or offset (R31, R32). -/
  | apertureMisformedAccess (p : Fin 2) (q : BitVec 21) (write : ApAccess) (ofs size : Nat)
  /-- CONTEXT_FETCH_DONE: the context `n` arrives from the context store; `bad`: uncorrectable (R44, R417). -/
  | contextFetchDone (k : CtxKind) (n : Nat) (bad : Bool)
  /-- ENTRY_FETCH_DONE: a fetch read of up to four entries returns (R39). -/
  | entryFetchDone (q : BitVec 22) (ans : ReadAns)
  /-- HALT_NOTICE_RESEND: 1 us passed without an acknowledgement (R362). -/
  | haltNoticeResend
  /-- FRAGMENT_TABLE_READ_DONE: the next 256-byte block of a fragment table returns (R76). -/
  | fragmentTableReadDone (q : BitVec 22) (i : W32) (d : Dir) (ans : ReadAns)
  /-- SOURCE_LIST_READ_DONE: the source list returns (R77). -/
  | sourceListReadDone (q : BitVec 22) (i : W32) (ans : ReadAns)
  /-- NOP: entry `i` of queue `q` is a NOP and is taken up (R93). -/
  | nop (q : BitVec 22) (i : W32)
  /-- MOVE: the MOVE entry runs all its job bytes not yet bound (R52). -/
  | move (q : BitVec 22) (i : W32)
  /-- MOVE_SG: the MOVE_SG entry runs all its job bytes not yet bound (R75). -/
  | moveSg (q : BitVec 22) (i : W32)
  /-- FILL: the FILL entry runs all its job bytes not yet bound (R61). -/
  | fill (q : BitVec 22) (i : W32)
  /-- COMPARE: the COMPARE entry reads and judges both sides (R229). -/
  | compare (q : BitVec 22) (i : W32)
  /-- CHECK: the CHECK entry reads and judges its source (R228). -/
  | check (q : BitVec 22) (i : W32)
  /-- PUT: the PUT entry issues all its segments (R52, R55). -/
  | put (q : BitVec 22) (i : W32)
  /-- GET: the GET entry receives the remote bytes `data` and writes them (R52). -/
  | get (q : BitVec 22) (i : W32) (data : List Byte)
  /-- PUT_SG: the PUT_SG entry issues all its segments (R55). -/
  | putSg (q : BitVec 22) (i : W32)
  /-- GET_SG: the GET_SG entry receives the remote bytes `data` and writes them (R52). -/
  | getSg (q : BitVec 22) (i : W32) (data : List Byte)
  /-- REDUCE: the REDUCE entry combines its sources (R154). -/
  | reduce (q : BitVec 22) (i : W32)
  /-- REDUCE_REMOTE: the REDUCE_REMOTE entry combines its sources and issues its fold segments (R177). -/
  | reduceRemote (q : BitVec 22) (i : W32)
  /-- QUENCH: the QUENCH entry rounds its carriers (R155). -/
  | quench (q : BitVec 22) (i : W32)
  /-- TRIG_ADD: the TRIG_ADD entry is taken up and adds (R196). -/
  | trigAdd (q : BitVec 22) (i : W32)
  /-- FENCE: the FENCE entry is taken up (R108). -/
  | fence (q : BitVec 22) (i : W32)
  /-- MARK: the MARK entry is taken up (R52). -/
  | mark (q : BitVec 22) (i : W32)
  /-- ENGINE_BIND: the scheduler gives free engine `e` to the chosen queue (R87). -/
  | engineBind (e : Nat)
  /-- CUT: the scheduler cuts a running stitch for a waiting queue (R95). -/
  | cut
  /-- STITCH_END: engine `e` issues its stitch's last write and returns (R101). -/
  | stitchEnd (e : Nat)
  /-- DATA_READ_DONE: the next source burst of source `src` returns to engine `e` (R214). -/
  | dataReadDone (e src : Nat) (ans : ReadAns)
  /-- DATA_WRITE_ACK: write number `w` of the entry is accepted or acknowledged (R102). -/
  | dataWriteAck (q : BitVec 22) (i : W32) (w : Nat)
  /-- ENTRY_COMPLETE: the entry at data done completes where the ordering rules allow (R107). -/
  | entryComplete (q : BitVec 22) (i : W32)
  /-- FLUSH_READ_DONE: the entry's flushing read on port `p` returns (R103). -/
  | flushReadDone (q : BitVec 22) (i : W32) (p : Fin 2)
  /-- RECORD_WRITE_ACK: the oldest issued batch of records of ring `c` is accepted or acknowledged (R132). -/
  | recordWriteAck (c : Nat)
  /-- RING_BROKEN: a record or write-back write of ring `c` fails (R141). -/
  | ringBroken (c : Nat) (mem : Bool)
  /-- CQ_COAL_TIMER: the coalescing time of ring `c` has passed (R142). -/
  | cqCoalTimer (c : Nat)
  /-- DREQ_ASSERT: filtered request line `n` asserts (R116). -/
  | dreqAssert (n : Nat)
  /-- DREQ_DEASSERT: filtered request line `n` deasserts (R117). -/
  | dreqDeassert (n : Nat)
  /-- DACK_PULSE_END: DACK_N[n] goes high (R118). -/
  | dackPulseEnd (n : Nat)
  /-- PACEWAIT_RELEASE: 2^idle_log2 cycles passed with no request for engine `e` (R116). -/
  | pacewaitRelease (e : Nat)
  /-- TS_SAMPLE: a fabric time sample arrives (R143). -/
  | tsSample (t : W64) (valid : Bool)
  /-- TS_SAMPLE_MISSING: 11 CORE_CLK cycles passed with no sample (R145). -/
  | tsSampleMissing
  /-- TRACE_COPY: the drain copies the next 4 KiB of trace records (R151). -/
  | traceCopy
  /-- TRACE_CI_WRITE: a write to TB_TRACE_CI (R153). -/
  | traceCiWrite (v : W32)
  /-- FOLD_SEGMENT: a fold segment arrives at this mover as target (R179). -/
  | foldSegment (f : FoldSeg)
  /-- DELIVERY_REPORT: the report for segment `w`; reason 0 is delivered (R443). -/
  | deliveryReport (q : BitVec 22) (i : W32) (w : Nat) (reason : Nat)
  /-- GET_RESPONSE: the next GET response of engine `e`'s stitch, with its segment check (R211, R443). -/
  | getResponse (e : Nat) (data : Segment) (ans : NetAns)
  /-- NETP_TIMEOUT: no answer within IZ_NETP_CFG.timeout (R443). -/
  | netpTimeout (q : BitVec 22) (i : W32)
  /-- KEY_CHECK_REQUEST: the transport asks for a key check (R446). -/
  | keyCheckRequest (key : W32) (ofs len : Nat) (r : RemoteRight)
  /-- ARRIVAL_NOTIFICATION: an arrival notification word (R197, R445). -/
  | arrivalNotification (w : W64)
  /-- PARK_RELEASE: the oldest up to four waiters whose condition holds are released (R202). -/
  | parkRelease
  /-- PARK_SPILL_REFILL: the oldest spilled parked entry comes back on chip (R200). -/
  | parkSpillRefill
  /-- PARK_FULL_RETRY: the entry of `q` waiting at decode parks (R201). -/
  | parkFullRetry (q : BitVec 22)
  /-- CHK_INJ_ARM: a write of arm to IZ_CHK_INJ (R232). -/
  | chkInjArm (hop : BitVec 3)
  /-- ADM_ENABLE: a write of ADM_CFG with enable = 1; `w` is the word written (R234). -/
  | admEnable (w : W64)
  /-- ADM_DISABLE: a write of ADM_CFG with enable = 0 (R234). -/
  | admDisable (w : W64)
  /-- ADMIN_NOP: the stream's next command is NOP (R240). -/
  | adminNop (st : Stream)
  /-- CREATE_WQ: the stream's next command is CREATE_WQ (R243). -/
  | createWq (st : Stream)
  /-- DESTROY_WQ: the next stitch of DESTROY_WQ (R248). -/
  | destroyWq (st : Stream)
  /-- DESTROY_DRAIN_TIMEOUT: drain_limit passed in phase WAIT (R248). -/
  | destroyDrainTimeout (st : Stream)
  /-- MODIFY_WQ: the stream's next command is MODIFY_WQ (R244). -/
  | modifyWq (st : Stream)
  /-- RESUME_WQ: RESUME_WQ opens, or goes on when its wait has ended (R252). -/
  | resumeWq (st : Stream)
  /-- QUERY_WQ: the stream's next command is QUERY_WQ (R246). -/
  | queryWq (st : Stream)
  /-- CREATE_CQ: the stream's next command is CREATE_CQ (R243). -/
  | createCq (st : Stream)
  /-- DESTROY_CQ: the next stitch of DESTROY_CQ (R141). -/
  | destroyCq (st : Stream)
  /-- MODIFY_CQ: the stream's next command is MODIFY_CQ (R244). -/
  | modifyCq (st : Stream)
  /-- QUERY_CQ: the stream's next command is QUERY_CQ (R246). -/
  | queryCq (st : Stream)
  /-- CREATE_PD: the stream's next command is CREATE_PD (R242). -/
  | createPd (st : Stream)
  /-- DESTROY_PD: the stream's next command is DESTROY_PD (R242). -/
  | destroyPd (st : Stream)
  /-- CREATE_MR: the stream's next command is CREATE_MR (R245). -/
  | createMr (st : Stream)
  /-- DESTROY_MR: the stream's next command is DESTROY_MR (R245). -/
  | destroyMr (st : Stream)
  /-- BIND_RL: the stream's next command is BIND_RL (R113). -/
  | bindRl (st : Stream)
  /-- UNIT_OFFLINE: UNIT_OFFLINE opens, or completes when its wait has ended (R253). -/
  | unitOffline (st : Stream)
  /-- UNIT_ONLINE: UNIT_ONLINE goes to firmware (R434). -/
  | unitOnline (st : Stream)
  /-- SCRUB_CSTORE: the next 64 KiB stitch; offsets of words of the store that have decayed since they were last read, by one bit
  and by more (R250, R448). -/
  | scrubCstore (st : Stream) (single double : List Nat)
  /-- CLEAR_TRIG: the next stitch of CLEAR_TRIG (R249). -/
  | clearTrig (st : Stream)
  /-- FENCE_ALL: FENCE_ALL opens, or completes when its wait has ended (R251). -/
  | fenceAll (st : Stream)
  /-- SET_MIRROR: SET_MIRROR goes to firmware (R357). -/
  | setMirror (st : Stream)
  /-- TRACE_START: the stream's next command is TRACE_START (R254). -/
  | traceStart (st : Stream)
  /-- TRACE_STOP: TRACE_STOP opens, or completes when its wait has ended (R153). -/
  | traceStop (st : Stream)
  /-- FW_CMD: a firmware-defined command goes to firmware (R256). -/
  | fwCmd (st : Stream)
  /-- FW_TIMEOUT: firmware has not answered within timeout (R256). -/
  | fwTimeout
  /-- ADM_FW_DONE: firmware's write of ADM_FW_DONE (R256). -/
  | admFwDone (w : W64)
  /-- ADM_COB_LOCK: a core's write of ADM_COB_LOCK (R257). -/
  | admCobLock (w : W64)
  /-- ADM_COB_GO: a core's write of ADM_COB_GO (R257). -/
  | admCobGo (w : W64)
  /-- CLEAR_STITCH: the background clear zeroes the next 64 KiB block (R340). -/
  | clearStitch
  /-- ARB_PHASE: an arbitration phase (R266, R267); `cob` is the request wire of Cobbler's core, the one requester outside the
  mover's own state (R261). -/
  | arbPhase (res : Nat) (cob : Bool)
  /-- CHANNEL_TAKE: the victim of channel `c` reaches its break point (R268). -/
  | channelTake (res c : Nat)
  /-- WDOG_BITE: the idle count of channel `c` reaches its limit (R270). -/
  | wdogBite (res c : Nat)
  /-- ARB_COMMIT: a write to ARB_COMMIT (R276). -/
  | arbCommit (w : W64)
  /-- ARB_FREEZE: a write to ARB_CTL.freeze (R271). -/
  | arbFreeze (res : Nat) (on : Bool)
  /-- SLOT_ADVANCE: the current slot's time has passed (R279). -/
  | slotAdvance (res : Nat)
  /-- SLOT_COMMIT: a write of 1 to ARB_SLOT_CFG.commit (R281). -/
  | slotCommit (res : Nat)
  /-- IC_SET: a write to IC_SET (R288). -/
  | icSet (src : BitVec 10)
  /-- EXT_INT_ASSERT: filtered EXT_INT_N[n] asserts (R292). -/
  | extIntAssert (n : Nat)
  /-- EXT_INT_REARM: 2^rearm_log2 FILTER_CLK cycles of continued assertion passed (R292). -/
  | extIntRearm (n : Nat)
  /-- IC_CLAIM: a read of IC_CLAIM[t] (R295). -/
  | icClaim (t : Nat)
  /-- IC_EOI: a write to IC_EOI[t] (R296). -/
  | icEoi (t : Nat) (src : BitVec 10)
  /-- RESYNC: a write of 1 to IC_TGT_CMD[t].resync (R297). -/
  | resync (t : Nat)
  /-- IC_CNT_CLEAR: a write of 1 to IC_CNT[src].clear (R289). -/
  | icCntClear (src : Nat)
  /-- MSG_FAIL: the outstanding host message of source `src` is rejected (R305). -/
  | msgFail (src : Nat)
  /-- COB_WAIT: core `c` writes WAIT to COB_PWR[c] (R309, R310). -/
  | cobWait (c : Nat)
  /-- COB_DOZE: core `c` writes DOZE to COB_PWR[c] (R309, R310). -/
  | cobDoze (c : Nat)
  /-- COB_WAKE: a wake condition of core `c` holds (R309). -/
  | cobWake (c : Nat)
  /-- RESET_ASSERT: IZ_RST_N is asserted (R338). -/
  | resetAssert
  /-- RESET_DEASSERT: IZ_RST_N deasserts; `b` is what steps 1 to 3 of R339 take from outside (R339, R364, R420). -/
  | resetDeassert (b : Boot)
  /-- SFDP_READ_DONE: the SFDP tables are read (R317). -/
  | sfdpReadDone (i : Sfdp)
  /-- COPY_SELECT: headers, tables and trailers of both copies are judged (R324). -/
  | copySelect
  /-- COPY_READ_DONE: the candidate is read in full (R324). -/
  | copyReadDone
  /-- PATTERN_VERIFY_DONE: contents and signature are judged (R323). -/
  | patternVerifyDone
  /-- PATTERN_APPLY: the sections are applied and outputs start (R333). -/
  | patternApply
  /-- PAT_APPLY: a write of PAT_CMD with apply = 1 (R336). -/
  | patApply (w : W64)
  /-- PAT_PROGRAM: a write of PAT_CMD with program = 1 (R337). -/
  | patProgram (w : W64)
  /-- FLASH_PROGRAM_DONE: erase and program end after `written` bytes (R337). -/
  | flashProgramDone (written : Nat) (complete : Bool)
  /-- SOFT_RESET: a write of IZ_RESET with soft = 1 (R343). -/
  | softReset (w : W64)
  /-- HARD_RESET: a write of IZ_RESET with hard = 1 (R342). -/
  | hardReset (w : W64)
  /-- SNAP: the keeper applies a SNAP record (R350). -/
  | snap (r : MRec)
  /-- CI: the keeper applies a CI record (R353). -/
  | ci (r : MRec)
  /-- START: the keeper applies a START record (R353). -/
  | start (r : MRec)
  /-- COMPLETE: the keeper applies a COMPLETE record and the completion record that follows it (R353). -/
  | complete (r : MRec) (rec : List W64)
  /-- CQPI: the keeper applies a CQPI record (R350). -/
  | cqpi (r : MRec)
  /-- CQCI: the keeper applies a CQCI record (R350). -/
  | cqci (r : MRec)
  /-- CTR: the keeper applies a CTR record (R350). -/
  | ctr (r : MRec)
  /-- Q_GONE: the keeper drops a mirrored queue (R350). -/
  | qGone (r : MRec)
  /-- CQ_GONE: the keeper drops a mirrored ring (R350). -/
  | cqGone (r : MRec)
  /-- SYNC_END: the keeper applies SYNC_END (R359). -/
  | syncEnd (r : MRec)
  /-- Q_CTX: the keeper applies a queue context snapshot, words 0x00-0x4F (R350). -/
  | qCtx (r : MRec) (ctx : List W64)
  /-- CQ_CTX: the keeper applies a completion-ring context snapshot (R350). -/
  | cqCtx (r : MRec) (ctx : List W64)
  /-- CTR_CTX: the keeper applies a counter context snapshot (R350). -/
  | ctrCtx (r : MRec) (ctx : List W64)
  /-- MIRROR_ACK: a cumulative mirror acknowledgement (R352). -/
  | mirrorAck (seq : W32)
  /-- HALT_NOTICE: a halt notice is received (R365). -/
  | haltNotice (n : Notice)
  /-- HALT_ACK: the fellow acknowledges the halt notice (R362). -/
  | haltAck (qid : BitVec 22) (a : W32)
  /-- READY: the keeper announces READY (R359). -/
  | ready
  /-- SEND_STATE: the fellow announces its send state (R373). -/
  | sendState (st : BitVec 3)
  /-- FELLOW_ALIVE_CHANGE: the filtered FELLOW_ALIVE input changes to `level` (R364). -/
  | fellowAliveChange (level : Bool)
  /-- HALT_IN_CHANGE: the filtered HALT_IN_N input changes (R364). -/
  | haltInChange (asserted : Bool)
  /-- TAKEOVER_DELAY: PAIR_TAKEOVER_DELAY expires (R360, R365). -/
  | takeoverDelay
  /-- ADOPT: a write of PAIR_CMD with adopt = 1 (R366). -/
  | adopt (w : W64)
  /-- HALT_COMMAND: a write of PAIR_CMD with halt = 1 (R361). -/
  | haltCommand (w : W64)
  /-- DRAIN_LIMIT: drain_limit us passed in DRAIN (R367). -/
  | drainLimit
  /-- ADOPTION_STITCH: the next adoption stitch (R367). -/
  | adoptionStitch
  /-- PAIR_CQ_CI: a write to PAIR_CQ_CI (R371). -/
  | pairCqCi (w : W64)
  /-- PAIR_QMODE: a write to PAIR_QMODE (R357). -/
  | pairQmode (w : W64)
  /-- LACE_DETECT: signal, or in SOLO TS1, on receive lanes `lanes` (R382, R388). -/
  | laceDetect (lanes : BitVec 9)
  /-- LACE_LOCK: receive lanes whose CDR has locked, those whose comma boundary is aligned, and the words that each lane has received
  from that boundary on, lane 0 first (R382, R383). -/
  | laceLock (cdr comma : BitVec 9) (rx : List (List (BitVec 40)))
  /-- LACE_DESKEW: the words that the nine receive lanes bring over one time, lane 0 first (R382). -/
  | laceDeskew (rx : List (List (BitVec 40)))
  /-- LACE_CONFIG: the words of training sets that one receive lane has received (R382, R384 to R386). -/
  | laceConfig (rx : List (BitVec 40))
  /-- ATTEMPT_TIMEOUT: the attempt limit passes (R387). -/
  | attemptTimeout
  /-- SOLO_PROBE: solo_period ms passed in SOLO (R388). -/
  | soloProbe
  /-- PACKET: a data packet's bytes arrive, START counted as 0xFB (R391, R394, R398). -/
  | packet (b : List Byte)
  /-- FEEDBACK: a feedback packet's bytes arrive (R399). -/
  | feedback (b : List Byte)
  /-- FEEDBACK_TIMER: 256 ns passed since the feedback of VC `v` was last sent (R396). -/
  | feedbackTimer (v : Fin 3)
  /-- REPLAY_TIMEOUT: the replay timer of VC `v` expires (R400). -/
  | replayTimeout (v : Fin 3)
  /-- REPLAY_SPILL: the oldest MIRROR or BULK packet is written to the replay spill (R401). -/
  | replaySpill
  /-- REFILL: a replay of VC `v` reads a spilled packet back (R401). -/
  | refill (v : Fin 3)
  /-- RETRAIN_BLOCK: 100 us passed with no packet sent (R390). -/
  | retrainBlock
  /-- ADAPTATION_FREEZE: 4,096 consecutive idle symbols on a receive lane (R390). -/
  | adaptationFreeze (lane : Nat)
  /-- LOSS_OF_LOCK: a receive lane loses lock, or (`lost` false) TS1 or a misaligned AOS arrives on it (R403). -/
  | lossOfLock (lane : Nat) (lost : Bool)
  /-- RETRAIN: a write of LACE_CMD.retrain (R403). -/
  | retrain (w : W64)
  /-- LINK_DOWN: LACE_DOWN_TIME passed since a recovery started (R404). -/
  | linkDown
  /-- LANE_ERROR_WINDOW: a 1 ms window of a receive lane ends, in which it has received these words (R380, R405). -/
  | laneErrorWindow (lane : Nat) (rx : List (BitVec 40))
  /-- LACE_ENABLE: a write to LACE_CFG.enable (R404). -/
  | laceEnable (on : Bool)
  /-- ERR_LOG_CI: a write to ERR_LOG_CI (R414). -/
  | errLogCi (v : W32)
  /-- ERR_LOG_READ: a read of ERR_LOG_RD[w] (R414). -/
  | errLogRead (w : Fin 4)
  /-- TRIG_COUNTER_READ: a read of IZ_TRIG_VAL, or of IZ_TRIG_INFO (R205). -/
  | trigCounterRead (info : Bool)
  /-- BIST_ROW: background BIST tests the next row (R433), or an access in use meets an error in one (R427; log entry 68). -/
  | bistRow (found : RowReport)
  /-- ENGINE_SELF_TEST: a write of SPR_TEST_CMD with kind 0 (R430). -/
  | engineSelfTest (w : W64)
  /-- REDUCTION_SELF_TEST: a write of SPR_TEST_CMD with kind 1 (R430). -/
  | reductionSelfTest (w : W64)
  /-- SHADOW_START: a write of SPR_TEST_CMD with kind 2; the shadow unit's self-test outcome (R431). -/
  | shadowStart (w : W64) (selfTest : Bool)
  /-- SHADOW_STOP: a write of SPR_TEST_CMD with kind 3 (R430). -/
  | shadowStop (w : W64)
  /-- LANE_TEST: a write of SPR_TEST_CMD with kind 4 (R432). -/
  | laneTest (w : W64)
  /-- PORT_TEST: a write of SPR_TEST_CMD with kind 5 (R430). -/
  | portTest (w : W64)
  /-- TEST_DONE: the running test ends (R430). -/
  | testDone (pass : Bool) (errors : W32) (checked : W64)
  /-- TRANSACTION_REJECTED: the host interface rejects a transaction (R439). -/
  | transactionRejected (t : Txn)
  /-- MEM_WRITE_ERROR: MEMP reports a write error (R489). -/
  | memWriteError (t : Txn)
  /-- MEMP_ADDRESS_ERROR: MEMP reports an address error (R450). -/
  | mempAddressError (t : Txn)
  /-- MERGE: a merge of bytes `new` at address `a` within one word (R449). -/
  | merge (a : W64) (new : List Byte)
  /-- PPS_IN: a rising edge of the filtered PPS_IN (R453). -/
  | ppsIn
  /-- PPS_OUT: MT crosses a second boundary less lead, or 100 us have passed since (R454). -/
  | ppsOut (rise : Bool)
  /-- REGISTER_WRITE: a control-region write (R473). -/
  | registerWrite (a : Agent) (ofs size : Nat) (data : List Byte) (parityOk : Bool)
  /-- REGISTER_READ: a control-region read (R474). -/
  | registerRead (a : Agent) (ofs size : Nat)
  /-- EXT_INT_GLITCH: a pulse on EXT_INT_N[n] shorter than its filter (R292). -/
  | extIntGlitch (n : Nat)
  /-- EXT_INT_DEASSERT: filtered EXT_INT_N[n] deasserts (R292). -/
  | extIntDeassert (n : Nat)
  /-- DREQ_GLITCH: a pulse on DREQ_N[n] shorter than its filter (R115). -/
  | dreqGlitch (n : Nat)
  /-- INTERNAL_ACKNOWLEDGEMENT: the internal acknowledgement of a burst of line 32-255 (R117). -/
  | internalAcknowledgement (n : Nat)
  /-- DACK_PULSE_START: DACK_N[n] goes low for its next queued pulse (R118). -/
  | dackPulseStart (n : Nat)
  /-- LANE_LOCK_WAIT_EXPIRY: 2 us passed with at least 4 lanes locked and no further one (R382). -/
  | laneLockWaitExpiry
  /-- SYNC_CLEAR_STITCH: the keeper clears the next 64 KiB of presence bitmap and done log (R359). -/
  | syncClearStitch
  /-- CI_RECORD_INTERVAL: 64 CORE_CLK cycles passed since the last CI record of queue `n`, or CQCI record of ring `n` (R351). -/
  | ciRecordInterval (ring : Bool) (n : Nat)
  /-- CONTROL_STATE_PARITY_ERROR: a parity error in an engine's or reduction unit's control state (R421). -/
  | controlStateParityError (red : Bool) (u : Nat)
  deriving DecidableEq, Repr

end Sys2Proof
end

