-- ==== Sys2Proof/Config.lean ====
section
/-!
DEFINITION. The values the spec leaves open, as constants with no body: no proof can see one, so a statement holds for
every value of it.
-/
namespace Sys2Proof

/-- The bytes a REDUCE or QUENCH writes when its destination overlaps a source in a way R156 does not allow: not defined
by the spec. Applied to the model's counter `State.free`, which each such byte advances (log entry 7). -/
opaque Config.freeByte : Nat → Byte

/-- Values that the spec does not state, each cut to the width of its place: the accept_mt of an adopted entry whose RING the keeper
holds no SNAP record for; the section index that PAT_COPY shows for an image that lacks a section; the data that a misformed
read of CI returns (log entry 21); the job offset reported for a completion record, write-back or trace copy that fails a hop
(log entry 36); the index and offset reported for a fold that fails (log entry 27); the outcome of a shadowing unit's self-test that a register
write starts, and whether a shadowed and a shadowing unit agree on a result block (log entry 55); the way that a lost context had in its
set (log entry 68). Applied to `State.free`, which each use advances. -/
opaque Config.freeWord : Nat → W64

/-- How much of an image a flash program had written when a reset stopped it: the spec leaves the copy partly written
(11_pattern_and_startup.md R337). Applied to `State.free`, which each such reset advances (log entry 31). -/
opaque Config.freeLen : Nat → Nat

end Sys2Proof
end

