-- ==== Sys2Proof/Machine/Tbl.lean ====
section
/-!
DEFINITION. Sparse tables as plain data: a list of (key, value) pairs in one canonical form (keys strictly rising, no
entry equal to what an unlisted key reads as). Memory cells, registers, contexts and every other numbered thing of the
mover is held in one.
-/
namespace Sys2Proof.Machine

/-- A sparse table; `Tbl Byte` is a list of `Host.Cell`. -/
abbrev Tbl (α : Type) := List (Nat × α)

variable {α : Type}

/-- The value at key `k`; an unlisted key reads as `d k`. -/
def Tbl.get (d : Nat → α) : Tbl α → Nat → α
  | [], k => d k
  | (a, v) :: r, k => if k = a then v else Tbl.get d r k

/-- The table without key `k`. -/
def Tbl.erase : Tbl α → Nat → Tbl α
  | [], _ => []
  | (a, v) :: r, k => if k = a then Tbl.erase r k else (a, v) :: Tbl.erase r k

/-- Insert before the first greater key. -/
def Tbl.ins : Tbl α → Nat → α → Tbl α
  | [], k, v => [(k, v)]
  | (a, w) :: r, k, v => if k < a then (k, v) :: (a, w) :: r else (a, w) :: Tbl.ins r k v

/-- Write `v` at key `k`; writing what an unlisted key reads as removes the entry. -/
def Tbl.set [DecidableEq α] (d : Nat → α) (t : Tbl α) (k : Nat) (v : α) : Tbl α :=
  if v = d k then t.erase k else (t.erase k).ins k v

/-- Apply `f` to the value at key `k`. -/
def Tbl.upd [DecidableEq α] (d : Nat → α) (t : Tbl α) (k : Nat) (f : α → α) : Tbl α :=
  Tbl.set d t k (f (Tbl.get d t k))

/-- Keys strictly rising above `lo`. -/
def Tbl.risingFrom : Nat → Tbl α → Bool
  | _, [] => true
  | lo, (a, _) :: r => decide (lo ≤ a) && Tbl.risingFrom (a + 1) r

/-- The canonical form. -/
def Tbl.wf [DecidableEq α] (d : Nat → α) (t : Tbl α) : Bool :=
  Tbl.risingFrom 0 t && t.all (fun p => !decide (p.2 = d p.1))

end Sys2Proof.Machine
end

