-- ==== Sys2Proof/Machine/Bits.lean ====
section
/-!
DEFINITION. Bit fields, little-endian byte strings, the CRCs the mover uses and the serial arithmetic of its indices
(00_scope.md R11, R12; R71, R223, R392).
-/
namespace Sys2Proof.Machine

/-- Bits [lo + n - 1 : lo] of `v`. -/
def bits (v lo n : Nat) : Nat := v / 2 ^ lo % 2 ^ n

/-- `v` with bits [lo + n - 1 : lo] replaced by the low `n` bits of `x`. -/
def putBits (v lo n x : Nat) : Nat := v / 2 ^ (lo + n) * 2 ^ (lo + n) + x % 2 ^ n * 2 ^ lo + v % 2 ^ lo

/-- Bit `i` of `v`. -/
def bit (v i : Nat) : Bool := v / 2 ^ i % 2 == 1

/-- 0 or 1. -/
def b2n (b : Bool) : Nat := if b then 1 else 0

/-- The number whose little-endian bytes are `l` (R11). -/
def leNat : List Byte → Nat
  | [] => 0
  | b :: r => b.toNat + 256 * leNat r

/-- The `n` little-endian bytes of `v` (R11). -/
def leBytes : Nat → Nat → List Byte
  | 0, _ => []
  | n + 1, v => BitVec.ofNat 8 v :: leBytes n (v / 256)

/-- The number whose big-endian bytes are `l` (only T10 tuples use it, R223). -/
def beNat (l : List Byte) : Nat := l.foldl (fun a b => a * 256 + b.toNat) 0

/-- The `n` big-endian bytes of `v` (R223). -/
def beBytes (n v : Nat) : List Byte := (leBytes n v).reverse

/-- One shift of a reflected CRC register. -/
def crcShift (poly c : W32) : W32 := if c.getLsbD 0 then (c >>> 1) ^^^ poly else c >>> 1

/-- Apply `f` n times. -/
def iter {α : Type} (f : α → α) : Nat → α → α
  | 0, x => x
  | n + 1, x => iter f n (f x)

/-- One byte into a reflected CRC register. -/
def crcByte (poly c : W32) (b : Byte) : W32 := iter (crcShift poly) 8 (c ^^^ b.setWidth 32)

/-- A reflected CRC with initial value and final XOR 0xFFFF_FFFF. -/
def crcRef (poly : W32) (l : List Byte) : W32 := ~~~ l.foldl (crcByte poly) 0xFFFFFFFF#32

/-- CRC-32C: polynomial 0x1EDC_6F41, reflected (R71). -/
def crc32c (l : List Byte) : Nat := (crcRef 0x82F63B78#32 l).toNat

/-- The Lace packet CRC-32: polynomial 0x04C1_1DB7, reflected (R392). -/
def crc32 (l : List Byte) : Nat := (crcRef 0xEDB88320#32 l).toNat

/-- One shift of the T10 guard register. -/
def crc16Shift (c : BitVec 16) : BitVec 16 := if c.getLsbD 15 then (c <<< 1) ^^^ 0x8BB7#16 else c <<< 1

/-- One byte into the T10 guard register. -/
def crc16Byte (c : BitVec 16) (b : Byte) : BitVec 16 :=
  iter crc16Shift 8 (c ^^^ BitVec.ofNat 16 (b.toNat * 256))

/-- The T10 guard CRC-16: polynomial 0x8BB7, initial value 0, not reflected, no final XOR (R223). -/
def crc16 (l : List Byte) : Nat := (l.foldl crc16Byte 0#16).toNat

/-- (a - b) mod 2^32 for free-running indices (R12). -/
def idxDiff (a b : W32) : Nat := (a - b).toNat

/-- Serial order of two indices of one queue: `a` comes before `b` (R130). -/
def idxBefore (a b : W32) : Bool := decide (0 < idxDiff b a) && decide (idxDiff b a < 2 ^ 31)

/-- Saturating sum in `w` bits. -/
def satAdd (w a n : Nat) : Nat := min (2 ^ w - 1) (a + n)

/-- `List.findIdx?` on a predicate, as data. -/
def firstIdx {α : Type} (p : α → Bool) : List α → Nat → Option Nat
  | [], _ => none
  | x :: r, n => if p x then some n else firstIdx p r (n + 1)

/-- Keep only the last occurrence-free insert: add `x` unless present. -/
def addNew {α : Type} [DecidableEq α] (l : List α) (x : α) : List α := if x ∈ l then l else l ++ [x]

/-- Replace the elements that satisfy `p`. -/
def updWhere {α : Type} (p : α → Bool) (f : α → α) (l : List α) : List α := l.map (fun x => if p x then f x else x)

/-- The largest element by `key` (first of the largest). -/
def maxBy {α : Type} (better : α → α → Bool) : List α → Option α
  | [] => none
  | x :: r => match maxBy better r with
    | none => some x
    | some y => if better y x then some y else some x

/-- Insert a number into a rising list. -/
def insNat (x : Nat) : List Nat → List Nat
  | [] => [x]
  | y :: r => if x ≤ y then x :: y :: r else y :: insNat x r

/-- A list of numbers in rising order. -/
def sortNat (l : List Nat) : List Nat := l.foldr insNat []

end Sys2Proof.Machine
end

