-- ==== Sys2Proof/Machine/Fp.lean ====
section
/-!
DEFINITION. Element arithmetic of the reduction pool in native mode (05_reductions_and_the_alloy_carrier.md R158 to R161,
R183, R184): formats, decoding to an exact integer, the one rounding, SUM, MIN, MAX, PROD and the bitwise operations.
-/
namespace Sys2Proof.Machine

/-- A floating-point format: exponent bits, fraction bits. -/
structure Fmt where
  eb : Nat
  mb : Nat
  deriving DecidableEq, Repr

/-- The format of a floating-point red_type (R57). -/
def fmtOf (t : Nat) : Fmt :=
  match t with
  | 0 => ⟨11, 52⟩ | 1 => ⟨8, 23⟩ | 2 => ⟨8, 7⟩ | _ => ⟨5, 10⟩

/-- A floating-point red_type (R57). -/
def isFp (t : Nat) : Bool := decide (t ≤ 3)

/-- Element bytes of a red_type (R57). -/
def elemBytes (t : Nat) : Nat :=
  match t with
  | 0 => 8 | 1 => 4 | 2 => 2 | 3 => 2 | 4 => 8 | 5 => 4 | 6 => 8 | _ => 8

/-- The bias of a format. -/
def Fmt.bias (f : Fmt) : Nat := 2 ^ (f.eb - 1) - 1

/-- A decoded element (R158, R159): the finite magnitude is in units of the smallest subnormal. -/
inductive FpVal where
  | nan (signalling : Bool)
  | inf (neg : Bool)
  | fin (neg : Bool) (mag : Nat)
  deriving DecidableEq, Repr

/-- Decode an element. -/
def fpDecode (f : Fmt) (v : Nat) : FpVal :=
  let neg := bit v (f.eb + f.mb)
  let ex := bits v f.mb f.eb
  let m := bits v 0 f.mb
  if ex = 2 ^ f.eb - 1 then
    if m = 0 then .inf neg else .nan (!bit m (f.mb - 1))
  else if ex = 0 then .fin neg m
  else .fin neg ((m + 2 ^ f.mb) * 2 ^ (ex - 1))

/-- The sign bit in place. -/
def fpSign (f : Fmt) (neg : Bool) : Nat := if neg then 2 ^ (f.eb + f.mb) else 0

/-- Positive infinity of a format. -/
def fpInf (f : Fmt) : Nat := (2 ^ f.eb - 1) * 2 ^ f.mb

/-- The canonical quiet NaN (R159). -/
def fpNan (f : Fmt) : Nat := fpInf f + 2 ^ (f.mb - 1)

/-- Round the magnitude `n`, in units of the smallest subnormal divided by 2^d, to nearest with ties to even; the answer is
the encoding without sign, and whether it overflowed to infinity (R158, R172). -/
def fpRound (f : Fmt) (d n : Nat) : Nat × Bool :=
  let sh := max d (n.log2 - f.mb)
  let q := n / 2 ^ sh
  let r := n % 2 ^ sh
  let up := if 2 * r > 2 ^ sh then 1 else if 2 * r = 2 ^ sh then q % 2 else 0
  let enc := q + up + (sh - d) * 2 ^ f.mb
  if enc < fpInf f then (enc, false) else (fpInf f, true)

/-- Which exceptions of R184 an element raised. -/
structure Exc where
  carrier  : Bool
  invalid  : Bool
  overflow : Bool
  int      : Bool
  deriving DecidableEq, Repr

/-- No exception. -/
def Exc.no : Exc := ⟨false, false, false, false⟩

/-- Both elements' exceptions together. -/
def Exc.or (a b : Exc) : Exc :=
  ⟨a.carrier || b.carrier, a.invalid || b.invalid, a.overflow || b.overflow, a.int || b.int⟩

/-- The signed integer of a finite value. -/
def fpInt (neg : Bool) (mag : Nat) : Int := if neg then -(mag : Int) else (mag : Int)

/-- One native SUM step (R158, R159, R184). -/
def fpAdd (f : Fmt) (a b : Nat) : Nat × Exc :=
  match fpDecode f a, fpDecode f b with
  | .nan sa, .nan sb => (fpNan f, ⟨false, sa || sb, false, false⟩)
  | .nan sa, _ => (fpNan f, ⟨false, sa, false, false⟩)
  | _, .nan sb => (fpNan f, ⟨false, sb, false, false⟩)
  | .inf na, .inf nb =>
    if na = nb then (fpSign f na + fpInf f, Exc.no) else (fpNan f, ⟨false, true, false, false⟩)
  | .inf na, _ => (fpSign f na + fpInf f, Exc.no)
  | _, .inf nb => (fpSign f nb + fpInf f, Exc.no)
  | .fin na ma, .fin nb mb =>
    let x := fpInt na ma + fpInt nb mb
    if x = 0 then (if na && nb then fpSign f true else 0, Exc.no)
    else
      let r := fpRound f 0 x.natAbs
      (fpSign f (decide (x < 0)) + r.1, ⟨false, false, r.2, false⟩)

/-- The total order of R160 as an integer: -Inf lowest, -0 just below +0. -/
def fpKey (f : Fmt) (v : Nat) : Int :=
  let m : Int := bits v 0 (f.eb + f.mb)
  if bit v (f.eb + f.mb) then -m - 1 else m

/-- One native MIN or MAX step of a floating-point type (R159, R160). -/
def fpMinMax (f : Fmt) (wantMax : Bool) (a b : Nat) : Nat × Exc :=
  match fpDecode f a, fpDecode f b with
  | .nan sa, .nan sb => (fpNan f, ⟨false, sa || sb, false, false⟩)
  | .nan sa, _ => (fpNan f, ⟨false, sa, false, false⟩)
  | _, .nan sb => (fpNan f, ⟨false, sb, false, false⟩)
  | _, _ => (if decide (fpKey f a ≤ fpKey f b) = wantMax then b else a, Exc.no)

/-- An integer element's value: INT64 and INT32 are signed (R160, R161). -/
def intOf (t v : Nat) : Int :=
  let n := 8 * elemBytes t
  if t ≠ 6 ∧ bit v (n - 1) then (v : Int) - (2 : Int) ^ n else v

/-- Whether `x` lies in the range of an integer type (R184). -/
def intFits (t : Nat) (x : Int) : Bool :=
  let n := 8 * elemBytes t
  if t = 6 then decide (0 ≤ x) && decide (x < (2 : Int) ^ n)
  else decide (-((2 : Int) ^ (n - 1)) ≤ x) && decide (x < (2 : Int) ^ (n - 1))

/-- Reduction modulo 2^N (R161). -/
def intWrap (t : Nat) (x : Int) : Nat := (x % (2 : Int) ^ (8 * elemBytes t)).toNat

/-- One native step on raw element values: the operation red_op of R57 on type `t`. -/
def natStep (t op a b : Nat) : Nat × Exc :=
  match op with
  | 3 => (a &&& b, Exc.no)
  | 4 => (a ||| b, Exc.no)
  | 5 => (a ^^^ b, Exc.no)
  | 1 => if isFp t then fpMinMax (fmtOf t) false a b
         else (if intOf t a ≤ intOf t b then a else b, Exc.no)
  | 2 => if isFp t then fpMinMax (fmtOf t) true a b
         else (if intOf t a ≤ intOf t b then b else a, Exc.no)
  | 0 => if isFp t then fpAdd (fmtOf t) a b else (intWrap t (intOf t a + intOf t b), Exc.no)
  | _ => (intWrap t (intOf t a * intOf t b), Exc.no)

/-- Whether the exact SUM or PROD of integers `xs` leaves the type's range (R184, the integer exception). -/
def intExc (t op : Nat) (xs : List Nat) : Bool :=
  if isFp t then false
  else if op = 0 then !intFits t ((xs.map (intOf t)).foldl (· + ·) 0)
  else if op = 6 then !intFits t ((xs.map (intOf t)).foldl (· * ·) 1)
  else false

/-- A single native operand that is a signalling NaN of SUM, MIN or MAX (R159). -/
def sigNan (t op v : Nat) : Bool :=
  isFp t && decide (op ≤ 2) && (match fpDecode (fmtOf t) v with | .nan sg => sg | _ => false)

/-- Left-to-right native combination, each step rounded (R154, R158). -/
def natFold (t op : Nat) : Nat → List Nat → Nat × Exc
  | a, [] => (a, Exc.no)
  | a, b :: r =>
    let x := natStep t op a b
    let y := natFold t op x.1 r
    (y.1, x.2.or y.2)

/-- The native result of one element over all its sources (R154 row 1). One source alone is returned as it is, with the
invalid exception when it is a signalling NaN operand of SUM, MIN or MAX, and then as the canonical NaN (R159). -/
def natCombine (t op : Nat) (xs : List Nat) : Nat × Exc :=
  match xs with
  | [] => (0, Exc.no)
  | [a] =>
    if isFp t && decide (op ≤ 2) then
      match fpDecode (fmtOf t) a with
      | .nan sg => (fpNan (fmtOf t), ⟨false, sg, false, false⟩)
      | _ => (a, Exc.no)
    else (a, Exc.no)
  | a :: r =>
    let y := natFold t op a r
    (y.1, y.2.or ⟨false, false, false, intExc t op xs⟩)

end Sys2Proof.Machine
end

