-- ==== Sys2Proof/Machine/Carrier.lean ====
section
/-!
DEFINITION. The alloy carrier (05_reductions_and_the_alloy_carrier.md R162 to R173): layouts, ill-formed carriers, deposit,
realignment, merge, quench, and the fold of R177.
-/
namespace Sys2Proof.Machine

/-- The constants of a carrier width (R162, R164, R165). -/
structure Width where
  /-- grid width of a bin -/
  w      : Nat
  /-- bins kept -/
  k      : Nat
  /-- bits of a bin field -/
  bw     : Nat
  /-- contribution limit -/
  lim    : Nat
  /-- highest bin -/
  top    : Nat
  /-- bits of count -/
  cw     : Nat
  /-- bits of anchor -/
  aw     : Nat
  /-- bytes of an element -/
  bytes  : Nat
  deriving DecidableEq, Repr

/-- The wide carrier of FP64. -/
def wide : Width := ⟨40, 3, 64, 2 ^ 23, 52, 24, 6, 32⟩
/-- The narrow carrier of FP32, BF16 and FP16. -/
def narrow : Width := ⟨27, 2, 48, 2 ^ 20, 10, 21, 4, 16⟩
/-- The carrier width of a red_type (R57). -/
def widthOf (t : Nat) : Width := if t = 0 then wide else narrow

/-- Carrier bytes for each native byte (R59). DESIGN CHOICE (log entry 45): for an integer or reserved red_type, to which no carrier
belongs, the carrier element is taken to have 16 bytes. -/
def carrierFactor (t : Nat) : Nat := (widthOf t).bytes / elemBytes t

/-- A carrier; `bins` stands highest first: bin anchor, anchor - 1, … -/
structure Car where
  bins   : List Int
  count  : Nat
  anchor : Nat
  nan    : Bool
  pinf   : Bool
  ninf   : Bool
  any    : Bool
  cov    : Bool
  deriving DecidableEq, Repr

/-- The empty carrier (R166). -/
def Car.empty (w : Width) : Car := ⟨List.replicate w.k 0, 0, 0, false, false, false, false, false⟩

/-- The overflowed carrier (R167). -/
def Car.over (w : Width) : Car := ⟨List.replicate w.k 0, w.lim, 0, false, false, false, false, true⟩

/-- A two's-complement field of `n` bits. -/
def sgn (n v : Nat) : Int := if bit v (n - 1) then (v : Int) - (2 : Int) ^ n else v

/-- Bins of carrier word `v`, highest first. -/
def carBins (w : Width) (v : Nat) : List Int :=
  (List.range w.k).map (fun i => sgn w.bw (bits v (w.bw * (w.k - 1 - i)) w.bw))

/-- The carrier that the little-endian number `v` holds, field by field (R164, R165). -/
def carRead (w : Width) (v : Nat) : Car :=
  let h := v / 2 ^ (w.bw * w.k)
  let f := w.cw + w.aw
  ⟨carBins w v, bits h 0 w.cw, bits h w.cw w.aw, bit h f, bit h (f + 1), bit h (f + 2), bit h (f + 3), bit h (f + 4)⟩

/-- The number a carrier is stored as (R164, R165). -/
def carWrite (w : Width) (c : Car) : Nat :=
  let low := (c.bins.foldl (fun a b => a * 2 ^ w.bw + (b % (2 : Int) ^ w.bw).toNat) 0)
  let f := w.cw + w.aw
  let h := c.count + c.anchor * 2 ^ w.cw + b2n c.nan * 2 ^ f + b2n c.pinf * 2 ^ (f + 1) + b2n c.ninf * 2 ^ (f + 2)
    + b2n c.any * 2 ^ (f + 3) + b2n c.cov * 2 ^ (f + 4)
  low + h * 2 ^ (w.bw * w.k)

/-- Bins whose number lies below the grid: position i from the top with i > anchor. -/
def belowGrid (c : Car) : List Int := c.bins.drop (c.anchor + 1)

/-- The ill-formed carriers of R170, for the number `v` read as carrier `c`. -/
def carIll (w : Width) (v : Nat) (c : Car) : Bool :=
  decide (v / 2 ^ (w.bw * w.k) / 2 ^ (w.cw + w.aw + 5) % 2 ^ (w.bytes * 8) ≠ 0)
  || decide (w.top < c.anchor)
  || decide (w.lim < c.count)
  || (c.cov && decide (c ≠ Car.over w))
  || (decide (c.count = 0) && (c.bins.any (fun b => decide (b ≠ 0)) || c.nan || c.pinf || c.ninf || c.any || decide (c.anchor ≠ 0)))
  || (belowGrid c).any (fun b => decide (b ≠ 0))
  || c.bins.any (fun b => decide (c.count * (2 ^ w.w - 1) < b.natAbs))

/-- A carrier read as input: an ill-formed one counts as the overflowed carrier and raises the carrier exception (R171). -/
def carIn (w : Width) (v : Nat) : Car × Bool :=
  let c := carRead w v
  if carIll w v c then (Car.over w, true) else (c, false)

/-- realign of R168, for a at or above the anchor. -/
def Car.realign (w : Width) (c : Car) (a : Nat) : Car :=
  { c with bins := (List.replicate (a - c.anchor) 0 ++ c.bins).take w.k, anchor := a }

/-- add_count of R168. -/
def Car.addCount (w : Width) (c : Car) (n : Nat) : Car :=
  if c.cov || decide (w.lim < c.count + n) then Car.over w else { c with count := c.count + n }

/-- Bits between the lowest grid position and the unit of a format's smallest subnormal (R162). -/
def gridShift (t : Nat) : Nat :=
  match t with
  | 0 => 6 | 1 => 6 | 2 => 22 | _ => 131

/-- The slice of magnitude `m` (in grid units) in the bin `i` below the anchor `a` (R163); zero below the grid. -/
def slice (w : Width) (m a i : Nat) : Nat := if i ≤ a then m / 2 ^ (w.w * (a - i)) % 2 ^ w.w else 0

/-- Add the signed slices of a value to the bins. -/
def addSlices (w : Width) (neg : Bool) (m a : Nat) : Nat → List Int → List Int
  | _, [] => []
  | i, b :: r => (b + fpInt neg (slice w m a i)) :: addSlices w neg m a (i + 1) r

/-- deposit of R168: one native element of type `t`. -/
def Car.deposit (t : Nat) (c0 : Car) (v : Nat) : Car :=
  let w := widthOf t
  let c := c0.addCount w 1
  if c.cov then c
  else match fpDecode (fmtOf t) v with
    | .nan _ => { c with nan := true, any := true }
    | .inf false => { c with pinf := true, any := true }
    | .inf true => { c with ninf := true, any := true }
    | .fin neg m =>
      if m = 0 then (if neg then c else { c with any := true })
      else
        let g := m * 2 ^ gridShift t
        let b := g.log2 / w.w
        let c := if c.anchor < b then c.realign w b else c
        { c with any := true, bins := addSlices w neg g c.anchor 0 c.bins }

/-- merge of R168. -/
def Car.merge (w : Width) (c0 d : Car) : Car :=
  let c := c0.addCount w d.count
  if d.cov || c.cov then Car.over w
  else
    let a := max c.anchor d.anchor
    let c' := c.realign w a
    let d' := d.realign w a
    { c' with bins := List.zipWith (· + ·) c'.bins d'.bins, nan := c.nan || d.nan, pinf := c.pinf || d.pinf,
              ninf := c.ninf || d.ninf, any := c.any || d.any }

/-- V of R172 in grid units. -/
def binSum (w : Width) (a : Nat) : Nat → List Int → Int
  | _, [] => 0
  | i, b :: r => (if i ≤ a then b * (2 : Int) ^ (w.w * (a - i)) else 0) + binSum w a (i + 1) r

/-- quench of R172 to type `t`. -/
def quench (t : Nat) (c : Car) : Nat × Exc :=
  let f := fmtOf t
  if c.cov then (fpNan f, ⟨true, false, false, false⟩)
  else if c.nan || (c.pinf && c.ninf) then (fpNan f, ⟨false, !c.nan, false, false⟩)
  else if c.pinf then (fpInf f, Exc.no)
  else if c.ninf then (fpSign f true + fpInf f, Exc.no)
  else
    let v := binSum (widthOf t) c.anchor 0 c.bins
    if v = 0 then (if decide (1 ≤ c.count) && !c.any then fpSign f true else 0, Exc.no)
    else
      let r := fpRound f (gridShift t) v.natAbs
      (fpSign f (decide (v < 0)) + r.1, ⟨false, false, r.2, false⟩)

/-- Deposit a list of native elements into the empty carrier, in order. -/
def depositAll (t : Nat) (xs : List Nat) : Car := xs.foldl (fun c x => c.deposit t x) (Car.empty (widthOf t))

/-- Merge a list of carriers read as input; whether any of them was ill-formed. -/
def mergeAll (w : Width) : List Nat → Car × Bool
  | [] => (Car.empty w, false)
  | x :: r => r.foldl (fun a y => let d := carIn w y; (a.1.merge w d.1, a.2 || d.2)) (carIn w x)

/-- The result of one element of REDUCE, REDUCE_REMOTE's local part or QUENCH (R154, R155, R184). `remoteCarrier` keeps the
carrier for the third row of R177. -/
def reduceElem (t op : Nat) (repro inC outC : Bool) (xs : List Nat) : Nat × Exc :=
  if !repro then natCombine t op xs
  else
    let w := widthOf t
    let m := if inC then mergeAll w xs else (depositAll t xs, false)
    if outC then (carWrite w m.1, ⟨m.1.cov || m.2, false, false, false⟩)
    else
      let r := quench t m.1
      (r.1, r.2.or ⟨m.2, false, false, false⟩)

/-- The new destination element of a fold (R177): `dst` the destination element, `c` the arriving one. -/
def foldElem (t op : Nat) (repro outC : Bool) (dst c : Nat) : Nat × Exc :=
  let w := widthOf t
  if !repro then natCombine t op [dst, c]
  else
    let a := carIn w c
    if outC then
      let d := carIn w dst
      let m := d.1.merge w a.1
      (carWrite w m, ⟨m.cov || d.2 || a.2, false, false, false⟩)
    else
      let r := quench t (a.1.merge w ((Car.empty w).deposit t dst))
      (r.1, r.2.or ⟨a.2, false, false, false⟩)

/-- Element `e` of `n` bytes in a buffer. -/
def elemAt (l : List Byte) (n e : Nat) : Nat := leNat ((l.drop (e * n)).take n)

/-- Combine whole buffers, one per source, element by element: result bytes and the exceptions of each element. -/
def reduceBytes (t op : Nat) (repro inC outC : Bool) (elems : Nat) (bufs : List (List Byte)) : List Byte × List Exc :=
  let nin := if inC then (widthOf t).bytes else elemBytes t
  let nout := if outC then (widthOf t).bytes else elemBytes t
  let rs := (List.range elems).map (fun e => reduceElem t op repro inC outC (bufs.map (fun l => elemAt l nin e)))
  (rs.flatMap (fun r => leBytes nout r.1), rs.map (·.2))

/-- Fold an arriving buffer into a destination buffer (R177). -/
def foldBytes (t op : Nat) (repro outC : Bool) (dst c : List Byte) : List Byte × List Exc :=
  let carIn := repro
  let ndst := if outC then (widthOf t).bytes else elemBytes t
  let narr := if carIn then (widthOf t).bytes else elemBytes t
  let rs := (List.range (dst.length / ndst)).map (fun e => foldElem t op repro outC (elemAt dst ndst e) (elemAt c narr e))
  (rs.flatMap (fun r => leBytes ndst r.1), rs.map (·.2))

end Sys2Proof.Machine
end

