-- ==== Sys2Proof/Machine/Regs.lean ====
section
/-!
DEFINITION. The control region (16_register_address_map.md R471-R488): every register's offset, its fields with their bit
positions and access codes (R5), and its value after hard reset. One row per register; instance formulas as the spec gives
them. A register word holds every field at the spec's bit position.
-/
namespace Sys2Proof.Machine

/-- The access codes of R5. -/
inductive Acc where
  | ro | rw | wo | w1c | rc | rws | rov
  deriving DecidableEq, Repr

/-- A named field of one register: the register's control-region offset, the field's lowest bit and its width. -/
structure Fld where
  ofs : Nat
  lo  : Nat
  w   : Nat
  deriving DecidableEq, Repr

/-- A field of a register's layout. -/
structure FDef where
  lo  : Nat
  w   : Nat
  acc : Acc
  deriving DecidableEq, Repr

/-- Reset rank of requester `req` on resource `res` (R261, R283); a pair R261 does not list reads zero. -/
def resetRank (res req : Nat) : Nat :=
  if req < 68 then (if res = 5 then 0 else 8)
  else match req with
    | 68 | 69 => if res ≤ 1 ∨ res = 3 then 14 else 0
    | 70 => if res = 6 then 14 else 0
    | 71 => if res = 6 then 13 else 0
    | 72 => if res = 5 then 13 else 0
    | 73 => if res = 5 ∨ res = 6 then 15 else 0
    | 74 => if res = 5 then 4 else 0
    | 75 => if res ≤ 1 ∨ res = 3 ∨ res = 4 then 8 else 0
    | 77 => if res = 6 then 15 else 0
    | 78 => if res ≤ 1 ∨ res = 3 ∨ res = 6 then 12 else 0
    | 79 => if res = 5 then 15 else 0
    | _ => 0

/-- Crossing offsets of R148, in MT units. -/
def domOfs : Nat → Nat
  | 0 => 0 | 1 => 16 | 2 => 18 | 3 => 20 | 4 => 12 | 5 => 16 | 6 => 24 | 7 => 8 | _ => 0

/-- Rows of each on-chip array (R426). -/
def arrayRows (a : Nat) : Nat :=
  if a < 16 then 2688
  else match a with
    | 16 => 4096 | 17 => 8192 | 18 => 2048 | 19 => 2048 | 20 => 128 | 21 => 1024 | 22 => 256 | 23 => 4096 | _ => 0

/-- Channels of each resource (R259); for REDU the unit numbers (R285). -/
def arbChannels : Nat → Nat
  | 0 => 16 | 1 => 16 | 2 => 16 | 3 => 24 | 4 => 17 | 5 => 1 | 6 => 4 | _ => 0

/-- The registers of the control region. -/
inductive Reg where
  | izId | izReset | izBadAccess | izSchedCfg | izSchedStat | izSchedReady | izFillPat | izRedCfg | izRedExcept
  | izRedLast | izRedState | izTrigSel | izTrigVal | izTrigInfo | izTrigStat | izTrigReleased | izTrigArrivalBad
  | izChkCfg | izPiCfg | izChkStat | izChkLast | izChkLastOfs | izChkInj | izHostpStat | izNetpCfg | izNetpStat
  | izMempStat | izMempSize | izEngState | izEngOfs | wqDbStray | wqCtxHit | wqCtxMiss | wqIntakeLevel
  | cqCiBad | cqFullStat | cqSpill | admCfg | admWqBase | admCqBase | admCqWb | admStat | admProg | admCobLock
  | admCobGo | admCobRes | admCobCmd | admFwCfg | admFwDone | admFwCmd | arbCommit | arbWdogLast | arbCtl
  | arbStat | arbSlotCfg | arbWait | arbOwner | arbRank | arbSlot | icSet | icStorm | icMsgStat | icPend
  | icStormSrc | icTgtCfg | icClaim | icEoi | icTgtCmd | icTgtStat | icOutCfg | icMask | icStack | icLineCfg
  | icLineState | icSrcCfg | icCnt | icVecAddr | icVecData | rlCfg | rlState | tbNow | tbStat | tbDomOfs
  | tbTraceCfg | tbTracePi | tbTraceCi | tbTraceLost | tbPpsCfg | tbPpsStamp | patStat | patCmd | patFlash
  | patWinBase | patProg | patClear | patLabel | patCopy | cobPwr | pairCfg | pairTakeoverDelay | pairMirrorBase
  | pairCmd | pairQmode | pairCqCi | pairStat | pairAdopt | pairNotice | pairNoticeIdx | pairNoticeMt
  | pairHalt | pairHaltIdx | pairHaltMt | laceCfg | laceDownTime | laceTrainCfg | laceReplayCfg | laceLaneCfg
  | laceCmd | laceStat | laceErr | laceSpill | laceVcStat | laceVcErr | laceLane | errLogPi | errLogCi
  | errLogStat | errFirstValid | errLogRd | errCount | errHard0 | errHard1 | errFirst | sprPolicy | sprTestCmd
  | sprTestStat | sprTestBits | sprLaneLoop | sprSummary | sprUnitRetired | sprLaneRetired | sprEngRetired
  | sprArray | sprEngHealth | sprRedHealth
  deriving DecidableEq, Repr

/-- Where a register array lies: base offset, instances, and for two indices the stride of the first and the count of the
second. -/
structure RegRow where
  reg  : Reg
  base : Nat
  n1   : Nat
  s1   : Nat
  n2   : Nat
  deriving DecidableEq, Repr

/-- The IZ_ registers. -/
def regRowsIz : List RegRow := [
  ⟨.izId, 0x0, 1, 8, 0⟩,
  ⟨.izReset, 0x8, 1, 8, 0⟩,
  ⟨.izBadAccess, 0x10, 1, 8, 0⟩,
  ⟨.izSchedCfg, 0x100, 1, 8, 0⟩,
  ⟨.izSchedStat, 0x108, 1, 8, 0⟩,
  ⟨.izSchedReady, 0x180, 16, 8, 0⟩,
  ⟨.izFillPat, 0x200, 16, 8, 0⟩,
  ⟨.izRedCfg, 0x300, 1, 8, 0⟩,
  ⟨.izRedExcept, 0x308, 1, 8, 0⟩,
  ⟨.izRedLast, 0x310, 1, 8, 0⟩,
  ⟨.izRedState, 0x400, 17, 8, 0⟩,
  ⟨.izTrigSel, 0x500, 1, 8, 0⟩,
  ⟨.izTrigVal, 0x508, 1, 8, 0⟩,
  ⟨.izTrigInfo, 0x510, 1, 8, 0⟩,
  ⟨.izTrigStat, 0x518, 1, 8, 0⟩,
  ⟨.izTrigReleased, 0x520, 1, 8, 0⟩,
  ⟨.izTrigArrivalBad, 0x528, 1, 8, 0⟩,
  ⟨.izChkCfg, 0x600, 1, 8, 0⟩,
  ⟨.izPiCfg, 0x608, 1, 8, 0⟩,
  ⟨.izChkStat, 0x610, 1, 8, 0⟩,
  ⟨.izChkLast, 0x618, 1, 8, 0⟩,
  ⟨.izChkLastOfs, 0x620, 1, 8, 0⟩,
  ⟨.izChkInj, 0x628, 1, 8, 0⟩,
  ⟨.izHostpStat, 0x700, 2, 8, 0⟩,
  ⟨.izNetpCfg, 0x710, 1, 8, 0⟩,
  ⟨.izNetpStat, 0x718, 1, 8, 0⟩,
  ⟨.izMempStat, 0x720, 1, 8, 0⟩,
  ⟨.izMempSize, 0x728, 1, 8, 0⟩,
  ⟨.izEngState, 0x1000, 68, 8, 0⟩,
  ⟨.izEngOfs, 0x1400, 68, 8, 0⟩]

/-- The WQ_ registers. -/
def regRowsWq : List RegRow := [
  ⟨.wqDbStray, 0x10000, 1, 8, 0⟩,
  ⟨.wqCtxHit, 0x10008, 1, 8, 0⟩,
  ⟨.wqCtxMiss, 0x10010, 1, 8, 0⟩,
  ⟨.wqIntakeLevel, 0x10020, 2, 8, 0⟩]

/-- The CQ_ registers. -/
def regRowsCq : List RegRow := [
  ⟨.cqCiBad, 0x10100, 1, 8, 0⟩,
  ⟨.cqFullStat, 0x10108, 1, 8, 0⟩,
  ⟨.cqSpill, 0x10180, 16, 8, 0⟩]

/-- The ADM_ registers. -/
def regRowsAdm : List RegRow := [
  ⟨.admCfg, 0x20000, 1, 8, 0⟩,
  ⟨.admWqBase, 0x20008, 1, 8, 0⟩,
  ⟨.admCqBase, 0x20010, 1, 8, 0⟩,
  ⟨.admCqWb, 0x20018, 1, 8, 0⟩,
  ⟨.admStat, 0x20040, 2, 8, 0⟩,
  ⟨.admProg, 0x20050, 2, 8, 0⟩,
  ⟨.admCobLock, 0x20100, 1, 8, 0⟩,
  ⟨.admCobGo, 0x20108, 1, 8, 0⟩,
  ⟨.admCobRes, 0x20110, 1, 8, 0⟩,
  ⟨.admCobCmd, 0x20140, 8, 8, 0⟩,
  ⟨.admFwCfg, 0x20200, 1, 8, 0⟩,
  ⟨.admFwDone, 0x20208, 1, 8, 0⟩,
  ⟨.admFwCmd, 0x20240, 8, 8, 0⟩]

/-- The ARB_ registers. -/
def regRowsArb : List RegRow := [
  ⟨.arbCommit, 0x30000, 1, 8, 0⟩,
  ⟨.arbWdogLast, 0x30008, 1, 8, 0⟩,
  ⟨.arbCtl, 0x30040, 7, 8, 0⟩,
  ⟨.arbStat, 0x30080, 7, 8, 0⟩,
  ⟨.arbSlotCfg, 0x300c0, 7, 8, 0⟩,
  ⟨.arbWait, 0x30100, 7, 16, 2⟩,
  ⟨.arbOwner, 0x30400, 7, 256, 24⟩,
  ⟨.arbRank, 0x31000, 7, 1024, 80⟩,
  ⟨.arbSlot, 0x34000, 7, 2048, 256⟩]

/-- The IC_ registers. -/
def regRowsIc : List RegRow := [
  ⟨.icSet, 0x40000, 1, 8, 0⟩,
  ⟨.icStorm, 0x40008, 1, 8, 0⟩,
  ⟨.icMsgStat, 0x40010, 1, 8, 0⟩,
  ⟨.icPend, 0x40100, 16, 8, 0⟩,
  ⟨.icStormSrc, 0x40180, 16, 8, 0⟩,
  ⟨.icTgtCfg, 0x40200, 8, 8, 0⟩,
  ⟨.icClaim, 0x40240, 8, 8, 0⟩,
  ⟨.icEoi, 0x40280, 8, 8, 0⟩,
  ⟨.icTgtCmd, 0x402c0, 8, 8, 0⟩,
  ⟨.icTgtStat, 0x40300, 8, 8, 0⟩,
  ⟨.icOutCfg, 0x40340, 8, 8, 0⟩,
  ⟨.icMask, 0x40400, 8, 128, 16⟩,
  ⟨.icStack, 0x40800, 8, 128, 16⟩,
  ⟨.icLineCfg, 0x40c00, 16, 8, 0⟩,
  ⟨.icLineState, 0x40c80, 16, 8, 0⟩,
  ⟨.icSrcCfg, 0x42000, 1024, 8, 0⟩,
  ⟨.icCnt, 0x44000, 1024, 8, 0⟩,
  ⟨.icVecAddr, 0x48000, 4096, 8, 0⟩,
  ⟨.icVecData, 0x50000, 4096, 8, 0⟩]

/-- The RL_ registers. -/
def regRowsRl : List RegRow := [
  ⟨.rlCfg, 0x60000, 256, 8, 0⟩,
  ⟨.rlState, 0x60800, 256, 8, 0⟩]

/-- The TB_ registers. -/
def regRowsTb : List RegRow := [
  ⟨.tbNow, 0x70000, 1, 8, 0⟩,
  ⟨.tbStat, 0x70008, 1, 8, 0⟩,
  ⟨.tbDomOfs, 0x70040, 8, 8, 0⟩,
  ⟨.tbTraceCfg, 0x70100, 1, 8, 0⟩,
  ⟨.tbTracePi, 0x70108, 1, 8, 0⟩,
  ⟨.tbTraceCi, 0x70110, 1, 8, 0⟩,
  ⟨.tbTraceLost, 0x70118, 1, 8, 0⟩,
  ⟨.tbPpsCfg, 0x70200, 1, 8, 0⟩,
  ⟨.tbPpsStamp, 0x70208, 1, 8, 0⟩]

/-- The PAT_ registers. -/
def regRowsPat : List RegRow := [
  ⟨.patStat, 0x80000, 1, 8, 0⟩,
  ⟨.patCmd, 0x80008, 1, 8, 0⟩,
  ⟨.patFlash, 0x80010, 1, 8, 0⟩,
  ⟨.patWinBase, 0x80018, 1, 8, 0⟩,
  ⟨.patProg, 0x80020, 1, 8, 0⟩,
  ⟨.patClear, 0x80028, 1, 8, 0⟩,
  ⟨.patLabel, 0x80030, 1, 8, 0⟩,
  ⟨.patCopy, 0x80040, 3, 8, 0⟩]

/-- The COB_ registers. -/
def regRowsCob : List RegRow := [
  ⟨.cobPwr, 0xd0000, 4, 8, 0⟩]

/-- The PAIR_ registers. -/
def regRowsPair : List RegRow := [
  ⟨.pairCfg, 0x90000, 1, 8, 0⟩,
  ⟨.pairTakeoverDelay, 0x90008, 1, 8, 0⟩,
  ⟨.pairMirrorBase, 0x90010, 1, 8, 0⟩,
  ⟨.pairCmd, 0x90018, 1, 8, 0⟩,
  ⟨.pairQmode, 0x90020, 1, 8, 0⟩,
  ⟨.pairCqCi, 0x90028, 1, 8, 0⟩,
  ⟨.pairStat, 0x90040, 1, 8, 0⟩,
  ⟨.pairAdopt, 0x90048, 1, 8, 0⟩,
  ⟨.pairNotice, 0x90080, 1, 8, 0⟩,
  ⟨.pairNoticeIdx, 0x90088, 1, 8, 0⟩,
  ⟨.pairNoticeMt, 0x90090, 1, 8, 0⟩,
  ⟨.pairHalt, 0x900c0, 1, 8, 0⟩,
  ⟨.pairHaltIdx, 0x900c8, 1, 8, 0⟩,
  ⟨.pairHaltMt, 0x900d0, 1, 8, 0⟩]

/-- The LACE_ registers. -/
def regRowsLace : List RegRow := [
  ⟨.laceCfg, 0xa0000, 1, 8, 0⟩,
  ⟨.laceDownTime, 0xa0008, 1, 8, 0⟩,
  ⟨.laceTrainCfg, 0xa0010, 1, 8, 0⟩,
  ⟨.laceReplayCfg, 0xa0018, 1, 8, 0⟩,
  ⟨.laceLaneCfg, 0xa0020, 1, 8, 0⟩,
  ⟨.laceCmd, 0xa0028, 1, 8, 0⟩,
  ⟨.laceStat, 0xa0040, 1, 8, 0⟩,
  ⟨.laceErr, 0xa0048, 1, 8, 0⟩,
  ⟨.laceSpill, 0xa0050, 1, 8, 0⟩,
  ⟨.laceVcStat, 0xa0080, 3, 8, 0⟩,
  ⟨.laceVcErr, 0xa00a0, 3, 8, 0⟩,
  ⟨.laceLane, 0xa0100, 9, 8, 0⟩]

/-- The ERR_ registers. -/
def regRowsErr : List RegRow := [
  ⟨.errLogPi, 0xb0000, 1, 8, 0⟩,
  ⟨.errLogCi, 0xb0008, 1, 8, 0⟩,
  ⟨.errLogStat, 0xb0010, 1, 8, 0⟩,
  ⟨.errFirstValid, 0xb0018, 1, 8, 0⟩,
  ⟨.errLogRd, 0xb0020, 4, 8, 0⟩,
  ⟨.errCount, 0xb0040, 6, 8, 0⟩,
  ⟨.errHard0, 0xb0080, 1, 8, 0⟩,
  ⟨.errHard1, 0xb0088, 1, 8, 0⟩,
  ⟨.errFirst, 0xb0100, 6, 32, 4⟩]

/-- The SPR_ registers. -/
def regRowsSpr : List RegRow := [
  ⟨.sprPolicy, 0xc0000, 1, 8, 0⟩,
  ⟨.sprTestCmd, 0xc0008, 1, 8, 0⟩,
  ⟨.sprTestStat, 0xc0010, 1, 8, 0⟩,
  ⟨.sprTestBits, 0xc0018, 1, 8, 0⟩,
  ⟨.sprLaneLoop, 0xc0020, 1, 8, 0⟩,
  ⟨.sprSummary, 0xc0028, 1, 8, 0⟩,
  ⟨.sprUnitRetired, 0xc0030, 1, 8, 0⟩,
  ⟨.sprLaneRetired, 0xc0038, 1, 8, 0⟩,
  ⟨.sprEngRetired, 0xc0040, 2, 8, 0⟩,
  ⟨.sprArray, 0xc0100, 24, 8, 0⟩,
  ⟨.sprEngHealth, 0xc0400, 68, 8, 0⟩,
  ⟨.sprRedHealth, 0xc0800, 17, 8, 0⟩]

/-- Every register row of R481 to R488. -/
def regRows : List RegRow :=
  regRowsIz ++ regRowsWq ++ regRowsCq ++ regRowsAdm ++ regRowsArb ++ regRowsIc ++ regRowsRl ++ regRowsTb ++ regRowsPat ++ regRowsCob ++ regRowsPair ++ regRowsLace ++ regRowsErr ++ regRowsSpr

/-- The instance of row `r` that lies at offset `o`, if any (R473). -/
def RegRow.index (r : RegRow) (o : Nat) : Option (Nat × Nat) :=
  if o < r.base then none
  else if r.n2 = 0 then
    if (o - r.base) / 8 < r.n1 then some ((o - r.base) / 8, 0) else none
  else if (o - r.base) / r.s1 < r.n1 ∧ (o - r.base) % r.s1 / 8 < r.n2 then
    some ((o - r.base) / r.s1, (o - r.base) % r.s1 / 8)
  else none

/-- Search a list of rows for the register at offset `o`. -/
def regFind (o : Nat) : List RegRow → Option (Reg × Nat × Nat)
  | [] => none
  | r :: t => match r.index o with
    | some (i, j) =>
      if r.reg = .arbOwner ∧ ¬ j < arbChannels i then none else some (r.reg, i, j)
    | none => regFind o t

/-- The rows of the block that offset `o` falls in (R480). -/
def regBlock (o : Nat) : List RegRow :=
  match o / 0x10000 with
  | 0 => regRowsIz | 1 => regRowsWq ++ regRowsCq | 2 => regRowsAdm | 3 => regRowsArb | 4 => regRowsIc | 5 => regRowsIc
  | 6 => regRowsRl | 7 => regRowsTb | 8 => regRowsPat | 9 => regRowsPair | 10 => regRowsLace | 11 => regRowsErr
  | 12 => regRowsSpr | 13 => regRowsCob | _ => []

/-- The register and instance at an 8-byte-aligned control-region offset; `none` is reserved space (R477). -/
def regAt (o : Nat) : Option (Reg × Nat × Nat) :=
  if o % 8 = 0 then regFind o (regBlock o) else none

/-- Reset value of instance (i, j) (R481 to R488). -/
def Reg.resetNat (r : Reg) (i j : Nat) : Nat :=
  match r with
  | .izId => 0x11A64
  | .izSchedCfg => 0x5F04
  | .izSchedStat => 0x4000
  | .izRedCfg => 0x801
  | .izRedState => if i < 16 then 0x0 else 0x4
  | .izChkCfg => 1
  | .izPiCfg => 0x1FFFF0000
  | .izNetpCfg => 0x3E8
  | .izEngState => if i < 64 then 0x0 else 0x4
  | .admCfg => 0x3100
  | .arbCtl => 0x80
  | .arbSlotCfg => 0x40004
  | .arbOwner => 0x7F
  | .arbRank => resetRank i j * 0x11
  | .arbSlot => 0x7F7F
  | .icTgtStat => 0x10
  | .icMask => 0xFFFFFFFFFFFFFFFF
  | .icLineCfg => 0x20001
  | .rlCfg => 0x1471001
  | .tbDomOfs => domOfs i
  | .tbPpsCfg => 0xC
  | .pairCfg => 0x100001
  | .pairTakeoverDelay => 0x32
  | .laceCfg => 1
  | .laceDownTime => 8
  | .laceTrainCfg => 0xA8064
  | .laceReplayCfg => 0x407D0
  | .laceLaneCfg => 0x100
  | .laceLane => if i < 8 then 0xF00 + 4 * i else 0xF01
  | .sprPolicy => 0x10047
  | .sprLaneLoop => 0xF
  | .sprSummary => 0x10C240
  | .sprArray => arrayRows i
  | _ => 0 * (i + j)

/-- What an unlisted register word reads as: its value after hard reset. -/
def regReset (o : Nat) : W64 :=
  match regAt o with
  | some (r, i, j) => BitVec.ofNat 64 (r.resetNat i j)
  | none => 0

/-- The fields of each register, lowest first; reserved bits are not listed (R8). -/
def Reg.fields : Reg → List FDef
  | .izId => [⟨0, 16, .ro⟩, ⟨16, 8, .ro⟩, ⟨24, 8, .ro⟩]
  | .izReset => [⟨0, 1, .wo⟩, ⟨1, 1, .wo⟩, ⟨16, 16, .wo⟩]
  | .izBadAccess => [⟨0, 16, .rc⟩, ⟨16, 20, .rov⟩, ⟨36, 2, .rov⟩, ⟨38, 3, .rov⟩]
  | .izSchedCfg => [⟨0, 7, .rw⟩, ⟨8, 4, .rw⟩, ⟨12, 1, .rw⟩, ⟨13, 1, .rw⟩, ⟨14, 1, .rw⟩]
  | .izSchedStat => [⟨0, 7, .rov⟩, ⟨8, 7, .rov⟩, ⟨16, 32, .rc⟩]
  | .izSchedReady => [⟨0, 22, .rov⟩, ⟨32, 32, .rov⟩]
  | .izFillPat => [⟨0, 64, .rw⟩]
  | .izRedCfg => [⟨0, 1, .rw⟩, ⟨1, 1, .rw⟩, ⟨2, 1, .rw⟩, ⟨8, 4, .rw⟩, ⟨12, 1, .rw⟩]
  | .izRedExcept => [⟨0, 16, .rc⟩, ⟨16, 16, .rc⟩, ⟨32, 16, .rc⟩, ⟨48, 16, .rc⟩]
  | .izRedLast => [⟨0, 22, .rov⟩, ⟨32, 32, .rov⟩]
  | .izRedState => [⟨0, 4, .rov⟩, ⟨4, 7, .rov⟩, ⟨32, 32, .rov⟩]
  | .izTrigSel => [⟨0, 20, .rw⟩, ⟨20, 1, .rw⟩]
  | .izTrigVal => [⟨0, 64, .rov⟩]
  | .izTrigInfo => [⟨0, 16, .rov⟩, ⟨16, 1, .rov⟩, ⟨17, 1, .rov⟩, ⟨18, 20, .rov⟩]
  | .izTrigStat => [⟨0, 15, .rov⟩, ⟨16, 17, .rov⟩, ⟨48, 16, .rc⟩]
  | .izTrigReleased => [⟨0, 64, .rov⟩]
  | .izTrigArrivalBad => [⟨0, 16, .rc⟩, ⟨16, 20, .rov⟩, ⟨36, 2, .rov⟩]
  | .izChkCfg => [⟨0, 1, .rw⟩, ⟨1, 1, .rw⟩]
  | .izPiCfg => [⟨0, 16, .rw⟩, ⟨16, 16, .rw⟩, ⟨32, 1, .rw⟩]
  | .izChkStat => [⟨0, 16, .rc⟩, ⟨16, 16, .rc⟩, ⟨32, 16, .rc⟩, ⟨48, 16, .rc⟩]
  | .izChkLast => [⟨0, 22, .rov⟩, ⟨22, 3, .rov⟩, ⟨32, 32, .rov⟩]
  | .izChkLastOfs => [⟨0, 48, .rov⟩, ⟨48, 8, .rov⟩]
  | .izChkInj => [⟨0, 3, .rw⟩, ⟨3, 1, .wo⟩, ⟨4, 1, .rov⟩]
  | .izHostpStat => [⟨0, 16, .rc⟩, ⟨16, 16, .rc⟩, ⟨32, 16, .rc⟩, ⟨48, 11, .rov⟩]
  | .izNetpCfg => [⟨0, 16, .rw⟩]
  | .izNetpStat => [⟨0, 16, .rc⟩, ⟨16, 4, .rov⟩, ⟨32, 13, .rov⟩, ⟨48, 16, .rc⟩]
  | .izMempStat => [⟨0, 16, .rc⟩, ⟨16, 16, .rc⟩, ⟨32, 16, .rc⟩, ⟨48, 16, .rc⟩]
  | .izMempSize => [⟨0, 64, .rov⟩]
  | .izEngState => [⟨0, 4, .rov⟩, ⟨4, 22, .rov⟩, ⟨26, 4, .rov⟩, ⟨32, 32, .rov⟩]
  | .izEngOfs => [⟨0, 48, .rov⟩]
  | .wqDbStray => [⟨0, 16, .rc⟩, ⟨16, 21, .rov⟩, ⟨37, 2, .rov⟩]
  | .wqCtxHit => [⟨0, 64, .rov⟩]
  | .wqCtxMiss => [⟨0, 64, .rov⟩]
  | .wqIntakeLevel => [⟨0, 11, .rov⟩, ⟨16, 11, .rc⟩]
  | .cqCiBad => [⟨0, 16, .rc⟩, ⟨16, 18, .rov⟩, ⟨34, 1, .rov⟩]
  | .cqFullStat => [⟨0, 16, .rc⟩, ⟨16, 18, .rov⟩]
  | .cqSpill => [⟨0, 13, .rov⟩, ⟨16, 13, .rc⟩, ⟨29, 19, .rov⟩]
  | .admCfg => [⟨0, 1, .rw⟩, ⟨1, 1, .rw⟩, ⟨2, 1, .rw⟩, ⟨3, 1, .rw⟩, ⟨4, 1, .rw⟩, ⟨5, 1, .rw⟩, ⟨6, 5, .rw⟩, ⟨11, 5, .rw⟩, ⟨16, 1, .rw⟩, ⟨17, 10, .rw⟩, ⟨27, 1, .rov⟩]
  | .admWqBase => [⟨0, 64, .rw⟩]
  | .admCqBase => [⟨0, 64, .rw⟩]
  | .admCqWb => [⟨0, 64, .rw⟩]
  | .admStat => [⟨0, 4, .rov⟩, ⟨4, 8, .rov⟩, ⟨32, 32, .rov⟩]
  | .admProg => [⟨0, 32, .rov⟩, ⟨32, 32, .rov⟩]
  | .admCobLock => [⟨0, 3, .wo⟩, ⟨4, 3, .rov⟩]
  | .admCobGo => [⟨0, 1, .wo⟩]
  | .admCobRes => [⟨0, 1, .rov⟩, ⟨1, 1, .w1c⟩, ⟨8, 8, .rov⟩, ⟨16, 32, .rov⟩, ⟨48, 8, .rov⟩]
  | .admCobCmd => [⟨0, 64, .rw⟩]
  | .admFwCfg => [⟨0, 1, .rw⟩, ⟨1, 1, .rov⟩, ⟨2, 1, .rov⟩, ⟨16, 16, .rw⟩, ⟨32, 16, .rc⟩, ⟨48, 16, .rov⟩]
  | .admFwDone => [⟨0, 8, .wo⟩, ⟨8, 32, .wo⟩, ⟨40, 16, .wo⟩]
  | .admFwCmd => [⟨0, 64, .ro⟩]
  | .arbCommit => [⟨0, 7, .wo⟩, ⟨8, 7, .rov⟩]
  | .arbWdogLast => [⟨0, 3, .rov⟩, ⟨4, 7, .rov⟩, ⟨16, 32, .rc⟩]
  | .arbCtl => [⟨0, 1, .rw⟩, ⟨1, 1, .rw⟩, ⟨2, 1, .rov⟩, ⟨3, 5, .rw⟩]
  | .arbStat => [⟨0, 6, .rov⟩, ⟨6, 7, .rov⟩, ⟨13, 1, .rov⟩, ⟨16, 16, .rc⟩, ⟨32, 16, .rc⟩]
  | .arbSlotCfg => [⟨0, 5, .rw⟩, ⟨5, 1, .wo⟩, ⟨6, 1, .rov⟩, ⟨8, 8, .rov⟩, ⟨16, 5, .rov⟩, ⟨32, 16, .rc⟩]
  | .arbWait => [⟨0, 64, .rov⟩]
  | .arbOwner => [⟨0, 7, .rov⟩, ⟨8, 4, .rov⟩, ⟨12, 1, .rov⟩, ⟨16, 32, .rov⟩]
  | .arbRank => [⟨0, 4, .rw⟩, ⟨4, 4, .rov⟩]
  | .arbSlot => [⟨0, 7, .rw⟩, ⟨8, 7, .rov⟩]
  | .icSet => [⟨0, 10, .wo⟩]
  | .icStorm => [⟨0, 16, .rc⟩, ⟨16, 10, .rov⟩, ⟨32, 32, .rc⟩]
  | .icMsgStat => [⟨0, 32, .rov⟩, ⟨32, 16, .rc⟩, ⟨48, 12, .rov⟩]
  | .icPend => [⟨0, 64, .rw⟩]
  | .icStormSrc => [⟨0, 64, .w1c⟩]
  | .icTgtCfg => [⟨0, 4, .rw⟩]
  | .icClaim => [⟨0, 10, .rc⟩]
  | .icEoi => [⟨0, 10, .wo⟩]
  | .icTgtCmd => [⟨0, 1, .wo⟩]
  | .icTgtStat => [⟨0, 4, .rov⟩, ⟨4, 5, .rov⟩, ⟨9, 1, .rov⟩, ⟨16, 16, .rc⟩, ⟨32, 16, .rc⟩]
  | .icOutCfg => [⟨0, 3, .rw⟩, ⟨3, 1, .rw⟩]
  | .icMask => [⟨0, 64, .rw⟩]
  | .icStack => [⟨0, 10, .rov⟩, ⟨16, 4, .rov⟩]
  | .icLineCfg => [⟨0, 12, .rw⟩, ⟨12, 1, .rw⟩, ⟨13, 5, .rw⟩]
  | .icLineState => [⟨0, 1, .rov⟩, ⟨16, 16, .rc⟩]
  | .icSrcCfg => [⟨0, 4, .rw⟩, ⟨4, 3, .rw⟩, ⟨7, 1, .rw⟩, ⟨8, 12, .rw⟩, ⟨20, 1, .rw⟩]
  | .icCnt => [⟨0, 8, .rov⟩, ⟨8, 1, .rov⟩, ⟨9, 1, .rov⟩, ⟨10, 1, .wo⟩]
  | .icVecAddr => [⟨2, 62, .rw⟩]
  | .icVecData => [⟨0, 32, .rw⟩, ⟨32, 1, .rw⟩]
  | .rlCfg => [⟨0, 12, .rw⟩, ⟨12, 4, .rw⟩, ⟨16, 1, .rw⟩, ⟨17, 4, .rw⟩, ⟨21, 5, .rw⟩]
  | .rlState => [⟨0, 8, .rov⟩, ⟨8, 1, .rov⟩, ⟨9, 1, .rov⟩, ⟨10, 22, .rov⟩, ⟨32, 16, .rc⟩, ⟨48, 16, .rc⟩]
  | .tbNow => [⟨0, 64, .rov⟩]
  | .tbStat => [⟨0, 1, .rov⟩, ⟨1, 1, .rov⟩, ⟨16, 16, .rc⟩, ⟨32, 16, .rc⟩, ⟨48, 16, .rc⟩]
  | .tbDomOfs => [⟨0, 8, .ro⟩]
  | .tbTraceCfg => [⟨0, 5, .rw⟩, ⟨8, 4, .rw⟩, ⟨12, 1, .rov⟩]
  | .tbTracePi => [⟨0, 32, .rov⟩]
  | .tbTraceCi => [⟨0, 32, .rw⟩]
  | .tbTraceLost => [⟨0, 32, .rc⟩, ⟨32, 16, .rc⟩]
  | .tbPpsCfg => [⟨0, 8, .rw⟩, ⟨8, 1, .rov⟩, ⟨9, 1, .rov⟩, ⟨16, 16, .rc⟩]
  | .tbPpsStamp => [⟨0, 64, .rov⟩]
  | .patStat => [⟨0, 4, .rov⟩, ⟨4, 2, .rov⟩, ⟨6, 1, .rov⟩, ⟨7, 1, .rov⟩, ⟨8, 1, .rov⟩, ⟨9, 3, .rov⟩, ⟨12, 1, .rov⟩, ⟨13, 1, .rov⟩, ⟨32, 32, .rov⟩]
  | .patCmd => [⟨0, 1, .wo⟩, ⟨1, 1, .wo⟩, ⟨2, 1, .wo⟩, ⟨16, 16, .wo⟩]
  | .patFlash => [⟨0, 6, .rov⟩, ⟨6, 1, .rov⟩, ⟨8, 8, .rov⟩]
  | .patWinBase => [⟨22, 42, .rws⟩]
  | .patProg => [⟨0, 23, .rov⟩]
  | .patClear => [⟨0, 13, .rov⟩]
  | .patLabel => [⟨0, 64, .rov⟩]
  | .patCopy => [⟨0, 4, .rov⟩, ⟨4, 5, .rov⟩, ⟨9, 23, .rov⟩, ⟨32, 32, .rov⟩]
  | .cobPwr => [⟨0, 2, .wo⟩, ⟨4, 2, .rov⟩, ⟨16, 16, .rc⟩]
  | .pairCfg => [⟨0, 1, .rw⟩, ⟨1, 1, .rw⟩, ⟨16, 16, .rw⟩]
  | .pairTakeoverDelay => [⟨0, 16, .rw⟩]
  | .pairMirrorBase => [⟨21, 43, .rw⟩]
  | .pairCmd => [⟨0, 1, .wo⟩, ⟨1, 1, .wo⟩, ⟨16, 16, .wo⟩]
  | .pairQmode => [⟨0, 21, .wo⟩, ⟨21, 2, .wo⟩, ⟨24, 1, .rov⟩]
  | .pairCqCi => [⟨0, 18, .wo⟩, ⟨18, 32, .wo⟩]
  | .pairStat => [⟨0, 3, .rov⟩, ⟨3, 3, .rov⟩, ⟨6, 2, .rov⟩, ⟨8, 1, .rov⟩, ⟨9, 1, .rov⟩, ⟨10, 1, .rov⟩, ⟨11, 1, .rov⟩, ⟨12, 1, .rov⟩, ⟨16, 16, .rc⟩, ⟨32, 17, .rov⟩]
  | .pairAdopt => [⟨0, 22, .rov⟩, ⟨22, 18, .rov⟩, ⟨40, 16, .rc⟩]
  | .pairNotice => [⟨0, 8, .rov⟩, ⟨8, 8, .rov⟩, ⟨16, 22, .rov⟩]
  | .pairNoticeIdx => [⟨0, 32, .rov⟩, ⟨32, 32, .rov⟩]
  | .pairNoticeMt => [⟨0, 64, .rov⟩]
  | .pairHalt => [⟨0, 8, .rov⟩, ⟨8, 8, .rov⟩, ⟨16, 22, .rov⟩]
  | .pairHaltIdx => [⟨0, 32, .rov⟩, ⟨32, 32, .rov⟩]
  | .pairHaltMt => [⟨0, 64, .rov⟩]
  | .laceCfg => [⟨0, 1, .rw⟩]
  | .laceDownTime => [⟨0, 10, .rw⟩]
  | .laceTrainCfg => [⟨0, 10, .rw⟩, ⟨12, 4, .rw⟩, ⟨16, 8, .rw⟩]
  | .laceReplayCfg => [⟨0, 16, .rw⟩, ⟨16, 4, .rw⟩]
  | .laceLaneCfg => [⟨0, 16, .rw⟩]
  | .laceCmd => [⟨0, 1, .wo⟩]
  | .laceStat => [⟨0, 4, .rov⟩, ⟨4, 1, .rov⟩, ⟨5, 1, .rov⟩, ⟨6, 2, .rov⟩, ⟨8, 2, .rov⟩, ⟨10, 1, .rov⟩, ⟨16, 16, .rov⟩, ⟨32, 4, .rov⟩, ⟨48, 16, .rc⟩]
  | .laceErr => [⟨0, 16, .rc⟩, ⟨16, 16, .rc⟩, ⟨32, 16, .rc⟩, ⟨48, 16, .rc⟩]
  | .laceSpill => [⟨0, 19, .rov⟩, ⟨19, 19, .rc⟩, ⟨38, 16, .rc⟩]
  | .laceVcStat => [⟨0, 16, .rov⟩, ⟨16, 16, .rov⟩, ⟨32, 16, .rov⟩, ⟨48, 12, .rov⟩]
  | .laceVcErr => [⟨0, 16, .rc⟩, ⟨16, 16, .rc⟩, ⟨32, 16, .rc⟩, ⟨48, 16, .rc⟩]
  | .laceLane => [⟨0, 2, .rov⟩, ⟨2, 3, .rov⟩, ⟨5, 1, .rov⟩, ⟨6, 1, .rov⟩, ⟨7, 1, .rov⟩, ⟨8, 4, .rov⟩, ⟨16, 16, .rc⟩, ⟨32, 16, .rc⟩]
  | .errLogPi => [⟨0, 32, .rws⟩]
  | .errLogCi => [⟨0, 32, .rws⟩]
  | .errLogStat => [⟨0, 13, .rov⟩, ⟨16, 16, .rc⟩, ⟨32, 16, .rc⟩]
  | .errFirstValid => [⟨0, 6, .w1c⟩, ⟨8, 6, .w1c⟩]
  | .errLogRd => [⟨0, 64, .rov⟩]
  | .errCount => [⟨0, 32, .rc⟩]
  | .errHard0 => [⟨0, 8, .rws⟩, ⟨8, 8, .rws⟩, ⟨16, 8, .rws⟩, ⟨32, 1, .rws⟩]
  | .errHard1 => [⟨0, 64, .rws⟩]
  | .errFirst => [⟨0, 64, .rov⟩]
  | .sprPolicy => [⟨0, 1, .rw⟩, ⟨1, 1, .rw⟩, ⟨2, 1, .rw⟩, ⟨4, 8, .rw⟩, ⟨12, 5, .rw⟩]
  | .sprTestCmd => [⟨0, 3, .wo⟩, ⟨3, 7, .wo⟩, ⟨10, 5, .wo⟩, ⟨15, 1, .wo⟩, ⟨16, 16, .wo⟩, ⟨32, 8, .wo⟩, ⟨40, 1, .wo⟩]
  | .sprTestStat => [⟨0, 1, .rov⟩, ⟨1, 3, .rov⟩, ⟨4, 2, .rov⟩, ⟨16, 32, .rov⟩]
  | .sprTestBits => [⟨0, 64, .rov⟩]
  | .sprLaneLoop => [⟨0, 4, .rw⟩]
  | .sprSummary => [⟨0, 7, .rov⟩, ⟨7, 3, .rov⟩, ⟨10, 5, .rov⟩, ⟨15, 1, .rov⟩, ⟨16, 5, .rov⟩]
  | .sprUnitRetired => [⟨0, 17, .rws⟩]
  | .sprLaneRetired => [⟨0, 9, .rws⟩]
  | .sprEngRetired => [⟨0, 64, .rws⟩]
  | .sprArray => [⟨0, 14, .ro⟩, ⟨14, 4, .rws⟩, ⟨18, 1, .rws⟩, ⟨19, 12, .rws⟩, ⟨32, 16, .rc⟩, ⟨48, 16, .rc⟩]
  | .sprEngHealth => [⟨0, 8, .rws⟩, ⟨8, 4, .rws⟩]
  | .sprRedHealth => [⟨0, 8, .rws⟩, ⟨8, 4, .rws⟩]

/-- Offset of IZ_ID (R478). -/
def IZ_ID : Nat := 0x0
def IZ_ID_part : Fld := ⟨IZ_ID, 0, 16⟩
def IZ_ID_major : Fld := ⟨IZ_ID, 16, 8⟩
def IZ_ID_minor : Fld := ⟨IZ_ID, 24, 8⟩
/-- Offset of IZ_RESET (R344). -/
def IZ_RESET : Nat := 0x8
def IZ_RESET_soft : Fld := ⟨IZ_RESET, 0, 1⟩
def IZ_RESET_hard : Fld := ⟨IZ_RESET, 1, 1⟩
def IZ_RESET_key : Fld := ⟨IZ_RESET, 16, 16⟩
/-- Offset of IZ_BAD_ACCESS (R478). -/
def IZ_BAD_ACCESS : Nat := 0x10
def IZ_BAD_ACCESS_count : Fld := ⟨IZ_BAD_ACCESS, 0, 16⟩
def IZ_BAD_ACCESS_last_ofs : Fld := ⟨IZ_BAD_ACCESS, 16, 20⟩
def IZ_BAD_ACCESS_last_cause : Fld := ⟨IZ_BAD_ACCESS, 36, 2⟩
def IZ_BAD_ACCESS_last_agent : Fld := ⟨IZ_BAD_ACCESS, 38, 3⟩
/-- Offset of IZ_SCHED_CFG (R97). -/
def IZ_SCHED_CFG : Nat := 0x100
def IZ_SCHED_CFG_eng_per_queue : Fld := ⟨IZ_SCHED_CFG, 0, 7⟩
def IZ_SCHED_CFG_preempt_rank : Fld := ⟨IZ_SCHED_CFG, 8, 4⟩
def IZ_SCHED_CFG_preempt_en : Fld := ⟨IZ_SCHED_CFG, 12, 1⟩
def IZ_SCHED_CFG_admin_reserve : Fld := ⟨IZ_SCHED_CFG, 13, 1⟩
def IZ_SCHED_CFG_rank_follow : Fld := ⟨IZ_SCHED_CFG, 14, 1⟩
/-- Offset of IZ_SCHED_STAT (R98). -/
def IZ_SCHED_STAT : Nat := 0x108
def IZ_SCHED_STAT_busy : Fld := ⟨IZ_SCHED_STAT, 0, 7⟩
def IZ_SCHED_STAT_active : Fld := ⟨IZ_SCHED_STAT, 8, 7⟩
def IZ_SCHED_STAT_cuts : Fld := ⟨IZ_SCHED_STAT, 16, 32⟩
/-- Offset of IZ_SCHED_READY (R98). -/
def IZ_SCHED_READY (i : Nat) : Nat := 0x180 + 8 * i
def IZ_SCHED_READY_count (i : Nat) : Fld := ⟨IZ_SCHED_READY i, 0, 22⟩
def IZ_SCHED_READY_oldest (i : Nat) : Fld := ⟨IZ_SCHED_READY i, 32, 32⟩
/-- Offset of IZ_FILL_PAT (R61). -/
def IZ_FILL_PAT (i : Nat) : Nat := 0x200 + 8 * i
def IZ_FILL_PAT_pattern (i : Nat) : Fld := ⟨IZ_FILL_PAT i, 0, 64⟩
/-- Offset of IZ_RED_CFG (R185). -/
def IZ_RED_CFG : Nat := 0x300
def IZ_RED_CFG_inv_report : Fld := ⟨IZ_RED_CFG, 0, 1⟩
def IZ_RED_CFG_ovf_report : Fld := ⟨IZ_RED_CFG, 1, 1⟩
def IZ_RED_CFG_int_report : Fld := ⟨IZ_RED_CFG, 2, 1⟩
def IZ_RED_CFG_fold_rank : Fld := ⟨IZ_RED_CFG, 8, 4⟩
def IZ_RED_CFG_fold_hostp : Fld := ⟨IZ_RED_CFG, 12, 1⟩
/-- Offset of IZ_RED_EXCEPT (R185). -/
def IZ_RED_EXCEPT : Nat := 0x308
def IZ_RED_EXCEPT_carrier : Fld := ⟨IZ_RED_EXCEPT, 0, 16⟩
def IZ_RED_EXCEPT_invalid : Fld := ⟨IZ_RED_EXCEPT, 16, 16⟩
def IZ_RED_EXCEPT_overflow : Fld := ⟨IZ_RED_EXCEPT, 32, 16⟩
def IZ_RED_EXCEPT_integer : Fld := ⟨IZ_RED_EXCEPT, 48, 16⟩
/-- Offset of IZ_RED_LAST (R185). -/
def IZ_RED_LAST : Nat := 0x310
def IZ_RED_LAST_qid : Fld := ⟨IZ_RED_LAST, 0, 22⟩
def IZ_RED_LAST_index : Fld := ⟨IZ_RED_LAST, 32, 32⟩
/-- Offset of IZ_RED_STATE (R186). -/
def IZ_RED_STATE (i : Nat) : Nat := 0x400 + 8 * i
def IZ_RED_STATE_state (i : Nat) : Fld := ⟨IZ_RED_STATE i, 0, 4⟩
def IZ_RED_STATE_engine (i : Nat) : Fld := ⟨IZ_RED_STATE i, 4, 7⟩
def IZ_RED_STATE_blocks (i : Nat) : Fld := ⟨IZ_RED_STATE i, 32, 32⟩
/-- Offset of IZ_TRIG_SEL (R205). -/
def IZ_TRIG_SEL : Nat := 0x500
def IZ_TRIG_SEL_ctr : Fld := ⟨IZ_TRIG_SEL, 0, 20⟩
def IZ_TRIG_SEL_adopted : Fld := ⟨IZ_TRIG_SEL, 20, 1⟩
/-- Offset of IZ_TRIG_VAL (R205). -/
def IZ_TRIG_VAL : Nat := 0x508
def IZ_TRIG_VAL_value : Fld := ⟨IZ_TRIG_VAL, 0, 64⟩
/-- Offset of IZ_TRIG_INFO (R205). -/
def IZ_TRIG_INFO : Nat := 0x510
def IZ_TRIG_INFO_pd : Fld := ⟨IZ_TRIG_INFO, 0, 16⟩
def IZ_TRIG_INFO_valid : Fld := ⟨IZ_TRIG_INFO, 16, 1⟩
def IZ_TRIG_INFO_remote_en : Fld := ⟨IZ_TRIG_INFO, 17, 1⟩
def IZ_TRIG_INFO_waiters : Fld := ⟨IZ_TRIG_INFO, 18, 20⟩
/-- Offset of IZ_TRIG_STAT (R205). -/
def IZ_TRIG_STAT : Nat := 0x518
def IZ_TRIG_STAT_parked : Fld := ⟨IZ_TRIG_STAT, 0, 15⟩
def IZ_TRIG_STAT_spilled : Fld := ⟨IZ_TRIG_STAT, 16, 17⟩
def IZ_TRIG_STAT_park_full : Fld := ⟨IZ_TRIG_STAT, 48, 16⟩
/-- Offset of IZ_TRIG_RELEASED (R205). -/
def IZ_TRIG_RELEASED : Nat := 0x520
def IZ_TRIG_RELEASED_released : Fld := ⟨IZ_TRIG_RELEASED, 0, 64⟩
/-- Offset of IZ_TRIG_ARRIVAL_BAD (R205). -/
def IZ_TRIG_ARRIVAL_BAD : Nat := 0x528
def IZ_TRIG_ARRIVAL_BAD_count : Fld := ⟨IZ_TRIG_ARRIVAL_BAD, 0, 16⟩
def IZ_TRIG_ARRIVAL_BAD_last_ctr : Fld := ⟨IZ_TRIG_ARRIVAL_BAD, 16, 20⟩
def IZ_TRIG_ARRIVAL_BAD_last_cause : Fld := ⟨IZ_TRIG_ARRIVAL_BAD, 36, 2⟩
/-- Offset of IZ_CHK_CFG (R230). -/
def IZ_CHK_CFG : Nat := 0x600
def IZ_CHK_CFG_poison_write : Fld := ⟨IZ_CHK_CFG, 0, 1⟩
def IZ_CHK_CFG_log_pi : Fld := ⟨IZ_CHK_CFG, 1, 1⟩
/-- Offset of IZ_PI_CFG (R230). -/
def IZ_PI_CFG : Nat := 0x608
def IZ_PI_CFG_app_tag : Fld := ⟨IZ_PI_CFG, 0, 16⟩
def IZ_PI_CFG_app_mask : Fld := ⟨IZ_PI_CFG, 16, 16⟩
def IZ_PI_CFG_ref_check : Fld := ⟨IZ_PI_CFG, 32, 1⟩
/-- Offset of IZ_CHK_STAT (R231). -/
def IZ_CHK_STAT : Nat := 0x610
def IZ_CHK_STAT_ecc_corrected : Fld := ⟨IZ_CHK_STAT, 0, 16⟩
def IZ_CHK_STAT_port_fail : Fld := ⟨IZ_CHK_STAT, 16, 16⟩
def IZ_CHK_STAT_chk_fail : Fld := ⟨IZ_CHK_STAT, 32, 16⟩
def IZ_CHK_STAT_pi_fail : Fld := ⟨IZ_CHK_STAT, 48, 16⟩
/-- Offset of IZ_CHK_LAST (R231). -/
def IZ_CHK_LAST : Nat := 0x618
def IZ_CHK_LAST_qid : Fld := ⟨IZ_CHK_LAST, 0, 22⟩
def IZ_CHK_LAST_hop : Fld := ⟨IZ_CHK_LAST, 22, 3⟩
def IZ_CHK_LAST_index : Fld := ⟨IZ_CHK_LAST, 32, 32⟩
/-- Offset of IZ_CHK_LAST_OFS (R231). -/
def IZ_CHK_LAST_OFS : Nat := 0x620
def IZ_CHK_LAST_OFS_ofs : Fld := ⟨IZ_CHK_LAST_OFS, 0, 48⟩
def IZ_CHK_LAST_OFS_status : Fld := ⟨IZ_CHK_LAST_OFS, 48, 8⟩
/-- Offset of IZ_CHK_INJ (R232). -/
def IZ_CHK_INJ : Nat := 0x628
def IZ_CHK_INJ_hop : Fld := ⟨IZ_CHK_INJ, 0, 3⟩
def IZ_CHK_INJ_arm : Fld := ⟨IZ_CHK_INJ, 3, 1⟩
def IZ_CHK_INJ_armed : Fld := ⟨IZ_CHK_INJ, 4, 1⟩
/-- Offset of IZ_HOSTP_STAT (R470). -/
def IZ_HOSTP_STAT (i : Nat) : Nat := 0x700 + 8 * i
def IZ_HOSTP_STAT_parity_in (i : Nat) : Fld := ⟨IZ_HOSTP_STAT i, 0, 16⟩
def IZ_HOSTP_STAT_xlat (i : Nat) : Fld := ⟨IZ_HOSTP_STAT i, 16, 16⟩
def IZ_HOSTP_STAT_poison_in (i : Nat) : Fld := ⟨IZ_HOSTP_STAT i, 32, 16⟩
def IZ_HOSTP_STAT_reads (i : Nat) : Fld := ⟨IZ_HOSTP_STAT i, 48, 11⟩
/-- Offset of IZ_NETP_CFG (R470). -/
def IZ_NETP_CFG : Nat := 0x710
def IZ_NETP_CFG_timeout : Fld := ⟨IZ_NETP_CFG, 0, 16⟩
/-- Offset of IZ_NETP_STAT (R470). -/
def IZ_NETP_STAT : Nat := 0x718
def IZ_NETP_STAT_remote_err : Fld := ⟨IZ_NETP_STAT, 0, 16⟩
def IZ_NETP_STAT_last_reason : Fld := ⟨IZ_NETP_STAT, 16, 4⟩
def IZ_NETP_STAT_outstanding : Fld := ⟨IZ_NETP_STAT, 32, 13⟩
def IZ_NETP_STAT_keychk_fail : Fld := ⟨IZ_NETP_STAT, 48, 16⟩
/-- Offset of IZ_MEMP_STAT (R470). -/
def IZ_MEMP_STAT : Nat := 0x720
def IZ_MEMP_STAT_corrected : Fld := ⟨IZ_MEMP_STAT, 0, 16⟩
def IZ_MEMP_STAT_uncorrectable : Fld := ⟨IZ_MEMP_STAT, 16, 16⟩
def IZ_MEMP_STAT_merge_poison : Fld := ⟨IZ_MEMP_STAT, 32, 16⟩
def IZ_MEMP_STAT_addr_err : Fld := ⟨IZ_MEMP_STAT, 48, 16⟩
/-- Offset of IZ_MEMP_SIZE (R470). -/
def IZ_MEMP_SIZE : Nat := 0x728
def IZ_MEMP_SIZE_size : Fld := ⟨IZ_MEMP_SIZE, 0, 64⟩
/-- Offset of IZ_ENG_STATE (R99). -/
def IZ_ENG_STATE (i : Nat) : Nat := 0x1000 + 8 * i
def IZ_ENG_STATE_state (i : Nat) : Fld := ⟨IZ_ENG_STATE i, 0, 4⟩
def IZ_ENG_STATE_qid (i : Nat) : Fld := ⟨IZ_ENG_STATE i, 4, 22⟩
def IZ_ENG_STATE_rank (i : Nat) : Fld := ⟨IZ_ENG_STATE i, 26, 4⟩
def IZ_ENG_STATE_index (i : Nat) : Fld := ⟨IZ_ENG_STATE i, 32, 32⟩
/-- Offset of IZ_ENG_OFS (R99). -/
def IZ_ENG_OFS (i : Nat) : Nat := 0x1400 + 8 * i
def IZ_ENG_OFS_stitch_ofs (i : Nat) : Fld := ⟨IZ_ENG_OFS i, 0, 48⟩
/-- Offset of WQ_DB_STRAY (R32). -/
def WQ_DB_STRAY : Nat := 0x10000
def WQ_DB_STRAY_count : Fld := ⟨WQ_DB_STRAY, 0, 16⟩
def WQ_DB_STRAY_last_qid : Fld := ⟨WQ_DB_STRAY, 16, 21⟩
def WQ_DB_STRAY_last_cause : Fld := ⟨WQ_DB_STRAY, 37, 2⟩
/-- Offset of WQ_CTX_HIT (R47). -/
def WQ_CTX_HIT : Nat := 0x10008
def WQ_CTX_HIT_hits : Fld := ⟨WQ_CTX_HIT, 0, 64⟩
/-- Offset of WQ_CTX_MISS (R47). -/
def WQ_CTX_MISS : Nat := 0x10010
def WQ_CTX_MISS_misses : Fld := ⟨WQ_CTX_MISS, 0, 64⟩
/-- Offset of WQ_INTAKE_LEVEL (R35). -/
def WQ_INTAKE_LEVEL (i : Nat) : Nat := 0x10020 + 8 * i
def WQ_INTAKE_LEVEL_level (i : Nat) : Fld := ⟨WQ_INTAKE_LEVEL i, 0, 11⟩
def WQ_INTAKE_LEVEL_peak (i : Nat) : Fld := ⟨WQ_INTAKE_LEVEL i, 16, 11⟩
/-- Offset of CQ_CI_BAD (R135). -/
def CQ_CI_BAD : Nat := 0x10100
def CQ_CI_BAD_count : Fld := ⟨CQ_CI_BAD, 0, 16⟩
def CQ_CI_BAD_last_cqid : Fld := ⟨CQ_CI_BAD, 16, 18⟩
def CQ_CI_BAD_last_ahead : Fld := ⟨CQ_CI_BAD, 34, 1⟩
/-- Offset of CQ_FULL_STAT (R140). -/
def CQ_FULL_STAT : Nat := 0x10108
def CQ_FULL_STAT_count : Fld := ⟨CQ_FULL_STAT, 0, 16⟩
def CQ_FULL_STAT_last_cqid : Fld := ⟨CQ_FULL_STAT, 16, 18⟩
/-- Offset of CQ_SPILL (R140). -/
def CQ_SPILL (i : Nat) : Nat := 0x10180 + 8 * i
def CQ_SPILL_level (i : Nat) : Fld := ⟨CQ_SPILL i, 0, 13⟩
def CQ_SPILL_peak (i : Nat) : Fld := ⟨CQ_SPILL i, 16, 13⟩
def CQ_SPILL_waiting (i : Nat) : Fld := ⟨CQ_SPILL i, 29, 19⟩
/-- Offset of ADM_CFG (R234). -/
def ADM_CFG : Nat := 0x20000
def ADM_CFG_enable : Fld := ⟨ADM_CFG, 0, 1⟩
def ADM_CFG_wq_res : Fld := ⟨ADM_CFG, 1, 1⟩
def ADM_CFG_cq_res : Fld := ⟨ADM_CFG, 2, 1⟩
def ADM_CFG_hostp_sel : Fld := ⟨ADM_CFG, 3, 1⟩
def ADM_CFG_echk : Fld := ⟨ADM_CFG, 4, 1⟩
def ADM_CFG_wb_en : Fld := ⟨ADM_CFG, 5, 1⟩
def ADM_CFG_wq_size_log2 : Fld := ⟨ADM_CFG, 6, 5⟩
def ADM_CFG_cq_size_log2 : Fld := ⟨ADM_CFG, 11, 5⟩
def ADM_CFG_irq_en : Fld := ⟨ADM_CFG, 16, 1⟩
def ADM_CFG_irq_src : Fld := ⟨ADM_CFG, 17, 10⟩
def ADM_CFG_cfg_err : Fld := ⟨ADM_CFG, 27, 1⟩
/-- Offset of ADM_WQ_BASE (R234). -/
def ADM_WQ_BASE : Nat := 0x20008
def ADM_WQ_BASE_base : Fld := ⟨ADM_WQ_BASE, 0, 64⟩
/-- Offset of ADM_CQ_BASE (R234). -/
def ADM_CQ_BASE : Nat := 0x20010
def ADM_CQ_BASE_base : Fld := ⟨ADM_CQ_BASE, 0, 64⟩
/-- Offset of ADM_CQ_WB (R234). -/
def ADM_CQ_WB : Nat := 0x20018
def ADM_CQ_WB_wb_addr : Fld := ⟨ADM_CQ_WB, 0, 64⟩
/-- Offset of ADM_STAT (R258). -/
def ADM_STAT (i : Nat) : Nat := 0x20040 + 8 * i
def ADM_STAT_phase (i : Nat) : Fld := ⟨ADM_STAT i, 0, 4⟩
def ADM_STAT_opcode (i : Nat) : Fld := ⟨ADM_STAT i, 4, 8⟩
def ADM_STAT_index (i : Nat) : Fld := ⟨ADM_STAT i, 32, 32⟩
/-- Offset of ADM_PROG (R258). -/
def ADM_PROG (i : Nat) : Nat := 0x20050 + 8 * i
def ADM_PROG_done (i : Nat) : Fld := ⟨ADM_PROG i, 0, 32⟩
def ADM_PROG_total (i : Nat) : Fld := ⟨ADM_PROG i, 32, 32⟩
/-- Offset of ADM_COB_LOCK (R257). -/
def ADM_COB_LOCK : Nat := 0x20100
def ADM_COB_LOCK_take : Fld := ⟨ADM_COB_LOCK, 0, 3⟩
def ADM_COB_LOCK_holder : Fld := ⟨ADM_COB_LOCK, 4, 3⟩
/-- Offset of ADM_COB_GO (R257). -/
def ADM_COB_GO : Nat := 0x20108
def ADM_COB_GO_go : Fld := ⟨ADM_COB_GO, 0, 1⟩
/-- Offset of ADM_COB_RES (R257). -/
def ADM_COB_RES : Nat := 0x20110
def ADM_COB_RES_busy : Fld := ⟨ADM_COB_RES, 0, 1⟩
def ADM_COB_RES_done : Fld := ⟨ADM_COB_RES, 1, 1⟩
def ADM_COB_RES_adm_status : Fld := ⟨ADM_COB_RES, 8, 8⟩
def ADM_COB_RES_value : Fld := ⟨ADM_COB_RES, 16, 32⟩
def ADM_COB_RES_opcode : Fld := ⟨ADM_COB_RES, 48, 8⟩
/-- Offset of ADM_COB_CMD (R257). -/
def ADM_COB_CMD (i : Nat) : Nat := 0x20140 + 8 * i
def ADM_COB_CMD_word (i : Nat) : Fld := ⟨ADM_COB_CMD i, 0, 64⟩
/-- Offset of ADM_FW_CFG (R257). -/
def ADM_FW_CFG : Nat := 0x20200
def ADM_FW_CFG_ready : Fld := ⟨ADM_FW_CFG, 0, 1⟩
def ADM_FW_CFG_pending : Fld := ⟨ADM_FW_CFG, 1, 1⟩
def ADM_FW_CFG_stream : Fld := ⟨ADM_FW_CFG, 2, 1⟩
def ADM_FW_CFG_timeout : Fld := ⟨ADM_FW_CFG, 16, 16⟩
def ADM_FW_CFG_late : Fld := ⟨ADM_FW_CFG, 32, 16⟩
def ADM_FW_CFG_seq : Fld := ⟨ADM_FW_CFG, 48, 16⟩
/-- Offset of ADM_FW_DONE (R257). -/
def ADM_FW_DONE : Nat := 0x20208
def ADM_FW_DONE_status : Fld := ⟨ADM_FW_DONE, 0, 8⟩
def ADM_FW_DONE_value : Fld := ⟨ADM_FW_DONE, 8, 32⟩
def ADM_FW_DONE_tag : Fld := ⟨ADM_FW_DONE, 40, 16⟩
/-- Offset of ADM_FW_CMD (R257). -/
def ADM_FW_CMD (i : Nat) : Nat := 0x20240 + 8 * i
def ADM_FW_CMD_word (i : Nat) : Fld := ⟨ADM_FW_CMD i, 0, 64⟩
/-- Offset of ARB_COMMIT (R283). -/
def ARB_COMMIT : Nat := 0x30000
def ARB_COMMIT_commit : Fld := ⟨ARB_COMMIT, 0, 7⟩
def ARB_COMMIT_pending : Fld := ⟨ARB_COMMIT, 8, 7⟩
/-- Offset of ARB_WDOG_LAST (R285). -/
def ARB_WDOG_LAST : Nat := 0x30008
def ARB_WDOG_LAST_res : Fld := ⟨ARB_WDOG_LAST, 0, 3⟩
def ARB_WDOG_LAST_req : Fld := ⟨ARB_WDOG_LAST, 4, 7⟩
def ARB_WDOG_LAST_count : Fld := ⟨ARB_WDOG_LAST, 16, 32⟩
/-- Offset of ARB_CTL (R284). -/
def ARB_CTL (i : Nat) : Nat := 0x30040 + 8 * i
def ARB_CTL_freeze (i : Nat) : Fld := ⟨ARB_CTL i, 0, 1⟩
def ARB_CTL_mode (i : Nat) : Fld := ⟨ARB_CTL i, 1, 1⟩
def ARB_CTL_mode_active (i : Nat) : Fld := ⟨ARB_CTL i, 2, 1⟩
def ARB_CTL_wdog_log2 (i : Nat) : Fld := ⟨ARB_CTL i, 3, 5⟩
/-- Offset of ARB_STAT (R284). -/
def ARB_STAT (i : Nat) : Nat := 0x30080 + 8 * i
def ARB_STAT_owners (i : Nat) : Fld := ⟨ARB_STAT i, 0, 6⟩
def ARB_STAT_waiting (i : Nat) : Fld := ⟨ARB_STAT i, 6, 7⟩
def ARB_STAT_drained (i : Nat) : Fld := ⟨ARB_STAT i, 13, 1⟩
def ARB_STAT_wdog_bites (i : Nat) : Fld := ⟨ARB_STAT i, 16, 16⟩
def ARB_STAT_takes (i : Nat) : Fld := ⟨ARB_STAT i, 32, 16⟩
/-- Offset of ARB_SLOT_CFG (R286). -/
def ARB_SLOT_CFG (i : Nat) : Nat := 0x300c0 + 8 * i
def ARB_SLOT_CFG_slot_log2 (i : Nat) : Fld := ⟨ARB_SLOT_CFG i, 0, 5⟩
def ARB_SLOT_CFG_commit (i : Nat) : Fld := ⟨ARB_SLOT_CFG i, 5, 1⟩
def ARB_SLOT_CFG_pending (i : Nat) : Fld := ⟨ARB_SLOT_CFG i, 6, 1⟩
def ARB_SLOT_CFG_position (i : Nat) : Fld := ⟨ARB_SLOT_CFG i, 8, 8⟩
def ARB_SLOT_CFG_active_log2 (i : Nat) : Fld := ⟨ARB_SLOT_CFG i, 16, 5⟩
def ARB_SLOT_CFG_wraps (i : Nat) : Fld := ⟨ARB_SLOT_CFG i, 32, 16⟩
/-- Offset of ARB_WAIT (R285). -/
def ARB_WAIT (i j : Nat) : Nat := 0x30100 + 16 * i + 8 * j
def ARB_WAIT_req (i j : Nat) : Fld := ⟨ARB_WAIT i j, 0, 64⟩
/-- Offset of ARB_OWNER (R285). -/
def ARB_OWNER (i j : Nat) : Nat := 0x30400 + 256 * i + 8 * j
def ARB_OWNER_req (i j : Nat) : Fld := ⟨ARB_OWNER i j, 0, 7⟩
def ARB_OWNER_rank (i j : Nat) : Fld := ⟨ARB_OWNER i j, 8, 4⟩
def ARB_OWNER_slot (i j : Nat) : Fld := ⟨ARB_OWNER i j, 12, 1⟩
def ARB_OWNER_idle (i j : Nat) : Fld := ⟨ARB_OWNER i j, 16, 32⟩
/-- Offset of ARB_RANK (R283). -/
def ARB_RANK (i j : Nat) : Nat := 0x31000 + 1024 * i + 8 * j
def ARB_RANK_rank (i j : Nat) : Fld := ⟨ARB_RANK i j, 0, 4⟩
def ARB_RANK_active (i j : Nat) : Fld := ⟨ARB_RANK i j, 4, 4⟩
/-- Offset of ARB_SLOT (R286). -/
def ARB_SLOT (i j : Nat) : Nat := 0x34000 + 2048 * i + 8 * j
def ARB_SLOT_req (i j : Nat) : Fld := ⟨ARB_SLOT i j, 0, 7⟩
def ARB_SLOT_active (i j : Nat) : Fld := ⟨ARB_SLOT i j, 8, 7⟩
/-- Offset of IC_SET (R311). -/
def IC_SET : Nat := 0x40000
def IC_SET_src : Fld := ⟨IC_SET, 0, 10⟩
/-- Offset of IC_STORM (R313). -/
def IC_STORM : Nat := 0x40008
def IC_STORM_count : Fld := ⟨IC_STORM, 0, 16⟩
def IC_STORM_last_src : Fld := ⟨IC_STORM, 16, 10⟩
def IC_STORM_dropped : Fld := ⟨IC_STORM, 32, 32⟩
/-- Offset of IC_MSG_STAT (R314). -/
def IC_MSG_STAT : Nat := 0x40010
def IC_MSG_STAT_sent : Fld := ⟨IC_MSG_STAT, 0, 32⟩
def IC_MSG_STAT_failed : Fld := ⟨IC_MSG_STAT, 32, 16⟩
def IC_MSG_STAT_last_vec : Fld := ⟨IC_MSG_STAT, 48, 12⟩
/-- Offset of IC_PEND (R311). -/
def IC_PEND (i : Nat) : Nat := 0x40100 + 8 * i
def IC_PEND_pend (i : Nat) : Fld := ⟨IC_PEND i, 0, 64⟩
/-- Offset of IC_STORM_SRC (R313). -/
def IC_STORM_SRC (i : Nat) : Nat := 0x40180 + 8 * i
def IC_STORM_SRC_storm (i : Nat) : Fld := ⟨IC_STORM_SRC i, 0, 64⟩
/-- Offset of IC_TGT_CFG (R312). -/
def IC_TGT_CFG (i : Nat) : Nat := 0x40200 + 8 * i
def IC_TGT_CFG_thresh (i : Nat) : Fld := ⟨IC_TGT_CFG i, 0, 4⟩
/-- Offset of IC_CLAIM (R312). -/
def IC_CLAIM (i : Nat) : Nat := 0x40240 + 8 * i
def IC_CLAIM_src (i : Nat) : Fld := ⟨IC_CLAIM i, 0, 10⟩
/-- Offset of IC_EOI (R312). -/
def IC_EOI (i : Nat) : Nat := 0x40280 + 8 * i
def IC_EOI_src (i : Nat) : Fld := ⟨IC_EOI i, 0, 10⟩
/-- Offset of IC_TGT_CMD (R312). -/
def IC_TGT_CMD (i : Nat) : Nat := 0x402c0 + 8 * i
def IC_TGT_CMD_resync (i : Nat) : Fld := ⟨IC_TGT_CMD i, 0, 1⟩
/-- Offset of IC_TGT_STAT (R312). -/
def IC_TGT_STAT (i : Nat) : Nat := 0x40300 + 8 * i
def IC_TGT_STAT_running (i : Nat) : Fld := ⟨IC_TGT_STAT i, 0, 4⟩
def IC_TGT_STAT_depth (i : Nat) : Fld := ⟨IC_TGT_STAT i, 4, 5⟩
def IC_TGT_STAT_request (i : Nat) : Fld := ⟨IC_TGT_STAT i, 9, 1⟩
def IC_TGT_STAT_spurious (i : Nat) : Fld := ⟨IC_TGT_STAT i, 16, 16⟩
def IC_TGT_STAT_eoi_bad (i : Nat) : Fld := ⟨IC_TGT_STAT i, 32, 16⟩
/-- Offset of IC_OUT_CFG (R313). -/
def IC_OUT_CFG (i : Nat) : Nat := 0x40340 + 8 * i
def IC_OUT_CFG_target (i : Nat) : Fld := ⟨IC_OUT_CFG i, 0, 3⟩
def IC_OUT_CFG_en (i : Nat) : Fld := ⟨IC_OUT_CFG i, 3, 1⟩
/-- Offset of IC_MASK (R311). -/
def IC_MASK (i j : Nat) : Nat := 0x40400 + 128 * i + 8 * j
def IC_MASK_mask (i j : Nat) : Fld := ⟨IC_MASK i j, 0, 64⟩
/-- Offset of IC_STACK (R312). -/
def IC_STACK (i j : Nat) : Nat := 0x40800 + 128 * i + 8 * j
def IC_STACK_src (i j : Nat) : Fld := ⟨IC_STACK i j, 0, 10⟩
def IC_STACK_prio (i j : Nat) : Fld := ⟨IC_STACK i j, 16, 4⟩
/-- Offset of IC_LINE_CFG (R313). -/
def IC_LINE_CFG (i : Nat) : Nat := 0x40c00 + 8 * i
def IC_LINE_CFG_filter (i : Nat) : Fld := ⟨IC_LINE_CFG i, 0, 12⟩
def IC_LINE_CFG_mode (i : Nat) : Fld := ⟨IC_LINE_CFG i, 12, 1⟩
def IC_LINE_CFG_rearm_log2 (i : Nat) : Fld := ⟨IC_LINE_CFG i, 13, 5⟩
/-- Offset of IC_LINE_STATE (R313). -/
def IC_LINE_STATE (i : Nat) : Nat := 0x40c80 + 8 * i
def IC_LINE_STATE_level (i : Nat) : Fld := ⟨IC_LINE_STATE i, 0, 1⟩
def IC_LINE_STATE_glitches (i : Nat) : Fld := ⟨IC_LINE_STATE i, 16, 16⟩
/-- Offset of IC_SRC_CFG (R311). -/
def IC_SRC_CFG (i : Nat) : Nat := 0x42000 + 8 * i
def IC_SRC_CFG_prio (i : Nat) : Fld := ⟨IC_SRC_CFG i, 0, 4⟩
def IC_SRC_CFG_target (i : Nat) : Fld := ⟨IC_SRC_CFG i, 4, 3⟩
def IC_SRC_CFG_msg_en (i : Nat) : Fld := ⟨IC_SRC_CFG i, 7, 1⟩
def IC_SRC_CFG_vector (i : Nat) : Fld := ⟨IC_SRC_CFG i, 8, 12⟩
def IC_SRC_CFG_storm_mask (i : Nat) : Fld := ⟨IC_SRC_CFG i, 20, 1⟩
/-- Offset of IC_CNT (R311). -/
def IC_CNT (i : Nat) : Nat := 0x44000 + 8 * i
def IC_CNT_count (i : Nat) : Fld := ⟨IC_CNT i, 0, 8⟩
def IC_CNT_active (i : Nat) : Fld := ⟨IC_CNT i, 8, 1⟩
def IC_CNT_sent (i : Nat) : Fld := ⟨IC_CNT i, 9, 1⟩
def IC_CNT_clear (i : Nat) : Fld := ⟨IC_CNT i, 10, 1⟩
/-- Offset of IC_VEC_ADDR (R314). -/
def IC_VEC_ADDR (i : Nat) : Nat := 0x48000 + 8 * i
def IC_VEC_ADDR_addr (i : Nat) : Fld := ⟨IC_VEC_ADDR i, 2, 62⟩
/-- Offset of IC_VEC_DATA (R314). -/
def IC_VEC_DATA (i : Nat) : Nat := 0x50000 + 8 * i
def IC_VEC_DATA_data (i : Nat) : Fld := ⟨IC_VEC_DATA i, 0, 32⟩
def IC_VEC_DATA_hostp (i : Nat) : Fld := ⟨IC_VEC_DATA i, 32, 1⟩
/-- Offset of RL_CFG (R119). -/
def RL_CFG (i : Nat) : Nat := 0x60000 + 8 * i
def RL_CFG_filter (i : Nat) : Fld := ⟨RL_CFG i, 0, 12⟩
def RL_CFG_ack_width (i : Nat) : Fld := ⟨RL_CFG i, 12, 4⟩
def RL_CFG_ack_point (i : Nat) : Fld := ⟨RL_CFG i, 16, 1⟩
def RL_CFG_lvl_depth (i : Nat) : Fld := ⟨RL_CFG i, 17, 4⟩
def RL_CFG_idle_log2 (i : Nat) : Fld := ⟨RL_CFG i, 21, 5⟩
/-- Offset of RL_STATE (R120). -/
def RL_STATE (i : Nat) : Nat := 0x60800 + 8 * i
def RL_STATE_pending (i : Nat) : Fld := ⟨RL_STATE i, 0, 8⟩
def RL_STATE_level (i : Nat) : Fld := ⟨RL_STATE i, 8, 1⟩
def RL_STATE_bound (i : Nat) : Fld := ⟨RL_STATE i, 9, 1⟩
def RL_STATE_qid (i : Nat) : Fld := ⟨RL_STATE i, 10, 22⟩
def RL_STATE_lost (i : Nat) : Fld := ⟨RL_STATE i, 32, 16⟩
def RL_STATE_glitches (i : Nat) : Fld := ⟨RL_STATE i, 48, 16⟩
/-- Offset of TB_NOW (R146). -/
def TB_NOW : Nat := 0x70000
def TB_NOW_mt : Fld := ⟨TB_NOW, 0, 64⟩
/-- Offset of TB_STAT (R146). -/
def TB_STAT : Nat := 0x70008
def TB_STAT_valid : Fld := ⟨TB_STAT, 0, 1⟩
def TB_STAT_holdover : Fld := ⟨TB_STAT, 1, 1⟩
def TB_STAT_fwd_steps : Fld := ⟨TB_STAT, 16, 16⟩
def TB_STAT_back_steps : Fld := ⟨TB_STAT, 32, 16⟩
def TB_STAT_holdovers : Fld := ⟨TB_STAT, 48, 16⟩
/-- Offset of TB_DOM_OFS (R146). -/
def TB_DOM_OFS (i : Nat) : Nat := 0x70040 + 8 * i
def TB_DOM_OFS_ofs (i : Nat) : Fld := ⟨TB_DOM_OFS i, 0, 8⟩
/-- Offset of TB_TRACE_CFG (R153). -/
def TB_TRACE_CFG : Nat := 0x70100
def TB_TRACE_CFG_mask : Fld := ⟨TB_TRACE_CFG, 0, 5⟩
def TB_TRACE_CFG_rank : Fld := ⟨TB_TRACE_CFG, 8, 4⟩
def TB_TRACE_CFG_on : Fld := ⟨TB_TRACE_CFG, 12, 1⟩
/-- Offset of TB_TRACE_PI (R153). -/
def TB_TRACE_PI : Nat := 0x70108
def TB_TRACE_PI_pi : Fld := ⟨TB_TRACE_PI, 0, 32⟩
/-- Offset of TB_TRACE_CI (R153). -/
def TB_TRACE_CI : Nat := 0x70110
def TB_TRACE_CI_ci : Fld := ⟨TB_TRACE_CI, 0, 32⟩
/-- Offset of TB_TRACE_LOST (R153). -/
def TB_TRACE_LOST : Nat := 0x70118
def TB_TRACE_LOST_lost : Fld := ⟨TB_TRACE_LOST, 0, 32⟩
def TB_TRACE_LOST_ci_bad : Fld := ⟨TB_TRACE_LOST, 32, 16⟩
/-- Offset of TB_PPS_CFG (R470). -/
def TB_PPS_CFG : Nat := 0x70200
def TB_PPS_CFG_lead : Fld := ⟨TB_PPS_CFG, 0, 8⟩
def TB_PPS_CFG_out_en : Fld := ⟨TB_PPS_CFG, 8, 1⟩
def TB_PPS_CFG_in_en : Fld := ⟨TB_PPS_CFG, 9, 1⟩
def TB_PPS_CFG_edges : Fld := ⟨TB_PPS_CFG, 16, 16⟩
/-- Offset of TB_PPS_STAMP (R470). -/
def TB_PPS_STAMP : Nat := 0x70208
def TB_PPS_STAMP_mt : Fld := ⟨TB_PPS_STAMP, 0, 64⟩
/-- Offset of PAT_STAT (R344). -/
def PAT_STAT : Nat := 0x80000
def PAT_STAT_phase : Fld := ⟨PAT_STAT, 0, 4⟩
def PAT_STAT_chosen : Fld := ⟨PAT_STAT, 4, 2⟩
def PAT_STAT_sig_required : Fld := ⟨PAT_STAT, 6, 1⟩
def PAT_STAT_key_programmed : Fld := ⟨PAT_STAT, 7, 1⟩
def PAT_STAT_busy : Fld := ⟨PAT_STAT, 8, 1⟩
def PAT_STAT_result : Fld := ⟨PAT_STAT, 9, 3⟩
def PAT_STAT_clearing : Fld := ⟨PAT_STAT, 12, 1⟩
def PAT_STAT_strict_user : Fld := ⟨PAT_STAT, 13, 1⟩
def PAT_STAT_generation : Fld := ⟨PAT_STAT, 32, 32⟩
/-- Offset of PAT_CMD (R344). -/
def PAT_CMD : Nat := 0x80008
def PAT_CMD_apply : Fld := ⟨PAT_CMD, 0, 1⟩
def PAT_CMD_program : Fld := ⟨PAT_CMD, 1, 1⟩
def PAT_CMD_copy : Fld := ⟨PAT_CMD, 2, 1⟩
def PAT_CMD_key : Fld := ⟨PAT_CMD, 16, 16⟩
/-- Offset of PAT_FLASH (R344). -/
def PAT_FLASH : Nat := 0x80010
def PAT_FLASH_density_log2 : Fld := ⟨PAT_FLASH, 0, 6⟩
def PAT_FLASH_four_byte : Fld := ⟨PAT_FLASH, 6, 1⟩
def PAT_FLASH_clock : Fld := ⟨PAT_FLASH, 8, 8⟩
/-- Offset of PAT_WIN_BASE (R344). -/
def PAT_WIN_BASE : Nat := 0x80018
def PAT_WIN_BASE_base : Fld := ⟨PAT_WIN_BASE, 22, 42⟩
/-- Offset of PAT_PROG (R344). -/
def PAT_PROG : Nat := 0x80020
def PAT_PROG_bytes : Fld := ⟨PAT_PROG, 0, 23⟩
/-- Offset of PAT_CLEAR (R344). -/
def PAT_CLEAR : Nat := 0x80028
def PAT_CLEAR_blocks : Fld := ⟨PAT_CLEAR, 0, 13⟩
/-- Offset of PAT_LABEL (R344). -/
def PAT_LABEL : Nat := 0x80030
def PAT_LABEL_label : Fld := ⟨PAT_LABEL, 0, 64⟩
/-- Offset of PAT_COPY (R344). -/
def PAT_COPY (i : Nat) : Nat := 0x80040 + 8 * i
def PAT_COPY_status (i : Nat) : Fld := ⟨PAT_COPY i, 0, 4⟩
def PAT_COPY_sect (i : Nat) : Fld := ⟨PAT_COPY i, 4, 5⟩
def PAT_COPY_length (i : Nat) : Fld := ⟨PAT_COPY i, 9, 23⟩
def PAT_COPY_generation (i : Nat) : Fld := ⟨PAT_COPY i, 32, 32⟩
/-- Offset of COB_PWR (R315). -/
def COB_PWR (i : Nat) : Nat := 0xd0000 + 8 * i
def COB_PWR_cmd (i : Nat) : Fld := ⟨COB_PWR i, 0, 2⟩
def COB_PWR_state (i : Nat) : Fld := ⟨COB_PWR i, 4, 2⟩
def COB_PWR_wakes (i : Nat) : Fld := ⟨COB_PWR i, 16, 16⟩
/-- Offset of PAIR_CFG (R374). -/
def PAIR_CFG : Nat := 0x90000
def PAIR_CFG_auto : Fld := ⟨PAIR_CFG, 0, 1⟩
def PAIR_CFG_mirror_en : Fld := ⟨PAIR_CFG, 1, 1⟩
def PAIR_CFG_drain_limit : Fld := ⟨PAIR_CFG, 16, 16⟩
/-- Offset of PAIR_TAKEOVER_DELAY (R374). -/
def PAIR_TAKEOVER_DELAY : Nat := 0x90008
def PAIR_TAKEOVER_DELAY_delay : Fld := ⟨PAIR_TAKEOVER_DELAY, 0, 16⟩
/-- Offset of PAIR_MIRROR_BASE (R374). -/
def PAIR_MIRROR_BASE : Nat := 0x90010
def PAIR_MIRROR_BASE_base : Fld := ⟨PAIR_MIRROR_BASE, 21, 43⟩
/-- Offset of PAIR_CMD (R376). -/
def PAIR_CMD : Nat := 0x90018
def PAIR_CMD_adopt : Fld := ⟨PAIR_CMD, 0, 1⟩
def PAIR_CMD_halt : Fld := ⟨PAIR_CMD, 1, 1⟩
def PAIR_CMD_key : Fld := ⟨PAIR_CMD, 16, 16⟩
/-- Offset of PAIR_QMODE (R376). -/
def PAIR_QMODE : Nat := 0x90020
def PAIR_QMODE_qid : Fld := ⟨PAIR_QMODE, 0, 21⟩
def PAIR_QMODE_mode : Fld := ⟨PAIR_QMODE, 21, 2⟩
def PAIR_QMODE_busy : Fld := ⟨PAIR_QMODE, 24, 1⟩
/-- Offset of PAIR_CQ_CI (R376). -/
def PAIR_CQ_CI : Nat := 0x90028
def PAIR_CQ_CI_cqid : Fld := ⟨PAIR_CQ_CI, 0, 18⟩
def PAIR_CQ_CI_ci : Fld := ⟨PAIR_CQ_CI, 18, 32⟩
/-- Offset of PAIR_STAT (R375). -/
def PAIR_STAT : Nat := 0x90040
def PAIR_STAT_send_state : Fld := ⟨PAIR_STAT, 0, 3⟩
def PAIR_STAT_keep_state : Fld := ⟨PAIR_STAT, 3, 3⟩
def PAIR_STAT_phase : Fld := ⟨PAIR_STAT, 6, 2⟩
def PAIR_STAT_role : Fld := ⟨PAIR_STAT, 8, 1⟩
def PAIR_STAT_fellow_alive : Fld := ⟨PAIR_STAT, 9, 1⟩
def PAIR_STAT_halt_in : Fld := ⟨PAIR_STAT, 10, 1⟩
def PAIR_STAT_role_clash : Fld := ⟨PAIR_STAT, 11, 1⟩
def PAIR_STAT_cond : Fld := ⟨PAIR_STAT, 12, 1⟩
def PAIR_STAT_losses : Fld := ⟨PAIR_STAT, 16, 16⟩
def PAIR_STAT_tracked : Fld := ⟨PAIR_STAT, 32, 17⟩
/-- Offset of PAIR_ADOPT (R375). -/
def PAIR_ADOPT : Nat := 0x90048
def PAIR_ADOPT_adopted : Fld := ⟨PAIR_ADOPT, 0, 22⟩
def PAIR_ADOPT_unreachable : Fld := ⟨PAIR_ADOPT, 22, 18⟩
def PAIR_ADOPT_refused : Fld := ⟨PAIR_ADOPT, 40, 16⟩
/-- Offset of PAIR_NOTICE (R375). -/
def PAIR_NOTICE : Nat := 0x90080
def PAIR_NOTICE_halt_cause : Fld := ⟨PAIR_NOTICE, 0, 8⟩
def PAIR_NOTICE_cause : Fld := ⟨PAIR_NOTICE, 8, 8⟩
def PAIR_NOTICE_qid : Fld := ⟨PAIR_NOTICE, 16, 22⟩
/-- Offset of PAIR_NOTICE_IDX (R375). -/
def PAIR_NOTICE_IDX : Nat := 0x90088
def PAIR_NOTICE_IDX_index : Fld := ⟨PAIR_NOTICE_IDX, 0, 32⟩
def PAIR_NOTICE_IDX_last_seq : Fld := ⟨PAIR_NOTICE_IDX, 32, 32⟩
/-- Offset of PAIR_NOTICE_MT (R375). -/
def PAIR_NOTICE_MT : Nat := 0x90090
def PAIR_NOTICE_MT_mt : Fld := ⟨PAIR_NOTICE_MT, 0, 64⟩
/-- Offset of PAIR_HALT (R375). -/
def PAIR_HALT : Nat := 0x900c0
def PAIR_HALT_halt_cause : Fld := ⟨PAIR_HALT, 0, 8⟩
def PAIR_HALT_cause : Fld := ⟨PAIR_HALT, 8, 8⟩
def PAIR_HALT_qid : Fld := ⟨PAIR_HALT, 16, 22⟩
/-- Offset of PAIR_HALT_IDX (R375). -/
def PAIR_HALT_IDX : Nat := 0x900c8
def PAIR_HALT_IDX_index : Fld := ⟨PAIR_HALT_IDX, 0, 32⟩
def PAIR_HALT_IDX_last_seq : Fld := ⟨PAIR_HALT_IDX, 32, 32⟩
/-- Offset of PAIR_HALT_MT (R375). -/
def PAIR_HALT_MT : Nat := 0x900d0
def PAIR_HALT_MT_mt : Fld := ⟨PAIR_HALT_MT, 0, 64⟩
/-- Offset of LACE_CFG (R408). -/
def LACE_CFG : Nat := 0xa0000
def LACE_CFG_enable : Fld := ⟨LACE_CFG, 0, 1⟩
/-- Offset of LACE_DOWN_TIME (R408). -/
def LACE_DOWN_TIME : Nat := 0xa0008
def LACE_DOWN_TIME_time : Fld := ⟨LACE_DOWN_TIME, 0, 10⟩
/-- Offset of LACE_TRAIN_CFG (R408). -/
def LACE_TRAIN_CFG : Nat := 0xa0010
def LACE_TRAIN_CFG_attempt : Fld := ⟨LACE_TRAIN_CFG, 0, 10⟩
def LACE_TRAIN_CFG_attempts : Fld := ⟨LACE_TRAIN_CFG, 12, 4⟩
def LACE_TRAIN_CFG_solo_period : Fld := ⟨LACE_TRAIN_CFG, 16, 8⟩
/-- Offset of LACE_REPLAY_CFG (R408). -/
def LACE_REPLAY_CFG : Nat := 0xa0018
def LACE_REPLAY_CFG_timeout : Fld := ⟨LACE_REPLAY_CFG, 0, 16⟩
def LACE_REPLAY_CFG_max_replays : Fld := ⟨LACE_REPLAY_CFG, 16, 4⟩
/-- Offset of LACE_LANE_CFG (R408). -/
def LACE_LANE_CFG : Nat := 0xa0020
def LACE_LANE_CFG_err_limit : Fld := ⟨LACE_LANE_CFG, 0, 16⟩
/-- Offset of LACE_CMD (R408). -/
def LACE_CMD : Nat := 0xa0028
def LACE_CMD_retrain : Fld := ⟨LACE_CMD, 0, 1⟩
/-- Offset of LACE_STAT (R409). -/
def LACE_STAT : Nat := 0xa0040
def LACE_STAT_state : Fld := ⟨LACE_STAT, 0, 4⟩
def LACE_STAT_down : Fld := ⟨LACE_STAT, 4, 1⟩
def LACE_STAT_reversed : Fld := ⟨LACE_STAT, 5, 1⟩
def LACE_STAT_tx_width : Fld := ⟨LACE_STAT, 6, 2⟩
def LACE_STAT_rx_width : Fld := ⟨LACE_STAT, 8, 2⟩
def LACE_STAT_fellow_role : Fld := ⟨LACE_STAT, 10, 1⟩
def LACE_STAT_session : Fld := ⟨LACE_STAT, 16, 16⟩
def LACE_STAT_failed : Fld := ⟨LACE_STAT, 32, 4⟩
def LACE_STAT_downs : Fld := ⟨LACE_STAT, 48, 16⟩
/-- Offset of LACE_ERR (R409). -/
def LACE_ERR : Nat := 0xa0048
def LACE_ERR_crc : Fld := ⟨LACE_ERR, 0, 16⟩
def LACE_ERR_framing : Fld := ⟨LACE_ERR, 16, 16⟩
def LACE_ERR_bad_code : Fld := ⟨LACE_ERR, 32, 16⟩
def LACE_ERR_recoveries : Fld := ⟨LACE_ERR, 48, 16⟩
/-- Offset of LACE_SPILL (R409). -/
def LACE_SPILL : Nat := 0xa0050
def LACE_SPILL_level : Fld := ⟨LACE_SPILL, 0, 19⟩
def LACE_SPILL_peak : Fld := ⟨LACE_SPILL, 19, 19⟩
def LACE_SPILL_refills : Fld := ⟨LACE_SPILL, 38, 16⟩
/-- Offset of LACE_VC_STAT (R409). -/
def LACE_VC_STAT (i : Nat) : Nat := 0xa0080 + 8 * i
def LACE_VC_STAT_base (i : Nat) : Fld := ⟨LACE_VC_STAT i, 0, 16⟩
def LACE_VC_STAT_next (i : Nat) : Fld := ⟨LACE_VC_STAT i, 16, 16⟩
def LACE_VC_STAT_expected (i : Nat) : Fld := ⟨LACE_VC_STAT i, 32, 16⟩
def LACE_VC_STAT_credit (i : Nat) : Fld := ⟨LACE_VC_STAT i, 48, 12⟩
/-- Offset of LACE_VC_ERR (R409). -/
def LACE_VC_ERR (i : Nat) : Nat := 0xa00a0 + 8 * i
def LACE_VC_ERR_replays (i : Nat) : Fld := ⟨LACE_VC_ERR i, 0, 16⟩
def LACE_VC_ERR_discards (i : Nat) : Fld := ⟨LACE_VC_ERR i, 16, 16⟩
def LACE_VC_ERR_dups (i : Nat) : Fld := ⟨LACE_VC_ERR i, 32, 16⟩
def LACE_VC_ERR_ack_bad (i : Nat) : Fld := ⟨LACE_VC_ERR i, 48, 16⟩
/-- Offset of LACE_LANE (R409). -/
def LACE_LANE (i : Nat) : Nat := 0xa0100 + 8 * i
def LACE_LANE_tx_use (i : Nat) : Fld := ⟨LACE_LANE i, 0, 2⟩
def LACE_LANE_tx_logical (i : Nat) : Fld := ⟨LACE_LANE i, 2, 3⟩
def LACE_LANE_rx_good (i : Nat) : Fld := ⟨LACE_LANE i, 5, 1⟩
def LACE_LANE_rx_inverted (i : Nat) : Fld := ⟨LACE_LANE i, 6, 1⟩
def LACE_LANE_rx_locked (i : Nat) : Fld := ⟨LACE_LANE i, 7, 1⟩
def LACE_LANE_rx_from (i : Nat) : Fld := ⟨LACE_LANE i, 8, 4⟩
def LACE_LANE_sym_err (i : Nat) : Fld := ⟨LACE_LANE i, 16, 16⟩
def LACE_LANE_lock_loss (i : Nat) : Fld := ⟨LACE_LANE i, 32, 16⟩
/-- Offset of ERR_LOG_PI (R415). -/
def ERR_LOG_PI : Nat := 0xb0000
def ERR_LOG_PI_pi : Fld := ⟨ERR_LOG_PI, 0, 32⟩
/-- Offset of ERR_LOG_CI (R415). -/
def ERR_LOG_CI : Nat := 0xb0008
def ERR_LOG_CI_ci : Fld := ⟨ERR_LOG_CI, 0, 32⟩
/-- Offset of ERR_LOG_STAT (R415). -/
def ERR_LOG_STAT : Nat := 0xb0010
def ERR_LOG_STAT_level : Fld := ⟨ERR_LOG_STAT, 0, 13⟩
def ERR_LOG_STAT_lost : Fld := ⟨ERR_LOG_STAT, 16, 16⟩
def ERR_LOG_STAT_ci_bad : Fld := ⟨ERR_LOG_STAT, 32, 16⟩
/-- Offset of ERR_FIRST_VALID (R418). -/
def ERR_FIRST_VALID : Nat := 0xb0018
def ERR_FIRST_VALID_valid : Fld := ⟨ERR_FIRST_VALID, 0, 6⟩
def ERR_FIRST_VALID_multi : Fld := ⟨ERR_FIRST_VALID, 8, 6⟩
/-- Offset of ERR_LOG_RD (R415). -/
def ERR_LOG_RD (i : Nat) : Nat := 0xb0020 + 8 * i
def ERR_LOG_RD_word (i : Nat) : Fld := ⟨ERR_LOG_RD i, 0, 64⟩
/-- Offset of ERR_COUNT (R418). -/
def ERR_COUNT (i : Nat) : Nat := 0xb0040 + 8 * i
def ERR_COUNT_count (i : Nat) : Fld := ⟨ERR_COUNT i, 0, 32⟩
/-- Offset of ERR_HARD0 (R418). -/
def ERR_HARD0 : Nat := 0xb0080
def ERR_HARD0_first_cause : Fld := ⟨ERR_HARD0, 0, 8⟩
def ERR_HARD0_first_code : Fld := ⟨ERR_HARD0, 8, 8⟩
def ERR_HARD0_second_code : Fld := ⟨ERR_HARD0, 16, 8⟩
def ERR_HARD0_valid : Fld := ⟨ERR_HARD0, 32, 1⟩
/-- Offset of ERR_HARD1 (R418). -/
def ERR_HARD1 : Nat := 0xb0088
def ERR_HARD1_mt : Fld := ⟨ERR_HARD1, 0, 64⟩
/-- Offset of ERR_FIRST (R418). -/
def ERR_FIRST (i j : Nat) : Nat := 0xb0100 + 32 * i + 8 * j
def ERR_FIRST_word (i j : Nat) : Fld := ⟨ERR_FIRST i j, 0, 64⟩
/-- Offset of SPR_POLICY (R434). -/
def SPR_POLICY : Nat := 0xc0000
def SPR_POLICY_auto_spare : Fld := ⟨SPR_POLICY, 0, 1⟩
def SPR_POLICY_lane_retire : Fld := ⟨SPR_POLICY, 1, 1⟩
def SPR_POLICY_bist_en : Fld := ⟨SPR_POLICY, 2, 1⟩
def SPR_POLICY_chk_limit : Fld := ⟨SPR_POLICY, 4, 8⟩
def SPR_POLICY_bist_log2 : Fld := ⟨SPR_POLICY, 12, 5⟩
/-- Offset of SPR_TEST_CMD (R434). -/
def SPR_TEST_CMD : Nat := 0xc0008
def SPR_TEST_CMD_kind : Fld := ⟨SPR_TEST_CMD, 0, 3⟩
def SPR_TEST_CMD_unit : Fld := ⟨SPR_TEST_CMD, 3, 7⟩
def SPR_TEST_CMD_shadow : Fld := ⟨SPR_TEST_CMD, 10, 5⟩
def SPR_TEST_CMD_loop : Fld := ⟨SPR_TEST_CMD, 15, 1⟩
def SPR_TEST_CMD_key : Fld := ⟨SPR_TEST_CMD, 16, 16⟩
def SPR_TEST_CMD_dur : Fld := ⟨SPR_TEST_CMD, 32, 8⟩
def SPR_TEST_CMD_online : Fld := ⟨SPR_TEST_CMD, 40, 1⟩
/-- Offset of SPR_TEST_STAT (R434). -/
def SPR_TEST_STAT : Nat := 0xc0010
def SPR_TEST_STAT_busy : Fld := ⟨SPR_TEST_STAT, 0, 1⟩
def SPR_TEST_STAT_kind : Fld := ⟨SPR_TEST_STAT, 1, 3⟩
def SPR_TEST_STAT_result : Fld := ⟨SPR_TEST_STAT, 4, 2⟩
def SPR_TEST_STAT_errors : Fld := ⟨SPR_TEST_STAT, 16, 32⟩
/-- Offset of SPR_TEST_BITS (R434). -/
def SPR_TEST_BITS : Nat := 0xc0018
def SPR_TEST_BITS_checked : Fld := ⟨SPR_TEST_BITS, 0, 64⟩
/-- Offset of SPR_LANE_LOOP (R434). -/
def SPR_LANE_LOOP : Nat := 0xc0020
def SPR_LANE_LOOP_lane : Fld := ⟨SPR_LANE_LOOP, 0, 4⟩
/-- Offset of SPR_SUMMARY (R435). -/
def SPR_SUMMARY : Nat := 0xc0028
def SPR_SUMMARY_eng_active : Fld := ⟨SPR_SUMMARY, 0, 7⟩
def SPR_SUMMARY_eng_spare : Fld := ⟨SPR_SUMMARY, 7, 3⟩
def SPR_SUMMARY_red_active : Fld := ⟨SPR_SUMMARY, 10, 5⟩
def SPR_SUMMARY_red_spare : Fld := ⟨SPR_SUMMARY, 15, 1⟩
def SPR_SUMMARY_banks : Fld := ⟨SPR_SUMMARY, 16, 5⟩
/-- Offset of SPR_UNIT_RETIRED (R435). -/
def SPR_UNIT_RETIRED : Nat := 0xc0030
def SPR_UNIT_RETIRED_retired : Fld := ⟨SPR_UNIT_RETIRED, 0, 17⟩
/-- Offset of SPR_LANE_RETIRED (R435). -/
def SPR_LANE_RETIRED : Nat := 0xc0038
def SPR_LANE_RETIRED_retired : Fld := ⟨SPR_LANE_RETIRED, 0, 9⟩
/-- Offset of SPR_ENG_RETIRED (R435). -/
def SPR_ENG_RETIRED (i : Nat) : Nat := 0xc0040 + 8 * i
def SPR_ENG_RETIRED_retired (i : Nat) : Fld := ⟨SPR_ENG_RETIRED i, 0, 64⟩
/-- Offset of SPR_ARRAY (R435). -/
def SPR_ARRAY (i : Nat) : Nat := 0xc0100 + 8 * i
def SPR_ARRAY_rows (i : Nat) : Fld := ⟨SPR_ARRAY i, 0, 14⟩
def SPR_ARRAY_repair_used (i : Nat) : Fld := ⟨SPR_ARRAY i, 14, 4⟩
def SPR_ARRAY_retired (i : Nat) : Fld := ⟨SPR_ARRAY i, 18, 1⟩
def SPR_ARRAY_rows_out (i : Nat) : Fld := ⟨SPR_ARRAY i, 19, 12⟩
def SPR_ARRAY_corrected (i : Nat) : Fld := ⟨SPR_ARRAY i, 32, 16⟩
def SPR_ARRAY_bist_fail (i : Nat) : Fld := ⟨SPR_ARRAY i, 48, 16⟩
/-- Offset of SPR_ENG_HEALTH (R435). -/
def SPR_ENG_HEALTH (i : Nat) : Nat := 0xc0400 + 8 * i
def SPR_ENG_HEALTH_chk (i : Nat) : Fld := ⟨SPR_ENG_HEALTH i, 0, 8⟩
def SPR_ENG_HEALTH_reason (i : Nat) : Fld := ⟨SPR_ENG_HEALTH i, 8, 4⟩
/-- Offset of SPR_RED_HEALTH (R435). -/
def SPR_RED_HEALTH (i : Nat) : Nat := 0xc0800 + 8 * i
def SPR_RED_HEALTH_chk (i : Nat) : Fld := ⟨SPR_RED_HEALTH i, 0, 8⟩
def SPR_RED_HEALTH_reason (i : Nat) : Fld := ⟨SPR_RED_HEALTH i, 8, 4⟩

end Sys2Proof.Machine
end

