-- ==== Sys2Proof/Machine/State.lean ====
section
/-!
DEFINITION. The mover's state as plain data, the reasons a step can stop, and the state after reset. Control-region
registers stand in `State.regs` at the spec's offsets and bit positions; every object that no register holds (contexts,
in-flight entries, spills, stacks, owners, mirror and link state, memory images) has a field of its own.
-/
namespace Sys2Proof.Machine

/-- Queue states (R24). -/
inductive QState where
  | free | ready | stopped | quarantined | fenced | destroying
  deriving DecidableEq, Repr

/-- Queue classes (R14). -/
inductive QClass where
  | admin | kernel | user
  deriving DecidableEq, Repr

/-- Mirror modes (R26, R355). -/
inductive MirrorMode where
  | none | async | sync
  deriving DecidableEq, Repr

/-- How far DESTROY_WQ has come on a queue (R248). -/
inductive DestroyPhase where
  | none
  | wait     -- drains: fetch and starts go on
  | frozen   -- drains a queue that was QUARANTINED: what started runs on, and nothing is fetched (R252)
  | discard
  deriving DecidableEq, Repr

/-- An accepted RING that moved S: the snapshot before, after, and its MT (R124). -/
structure Accept where
  old : W32
  new : W32
  mt  : W64
  deriving DecidableEq, Repr

/-- A queue context (R26), with the mover's own scheduling state. -/
structure QCtx where
  state       : QState
  cls         : QClass
  device      : Bool
  echk        : Bool
  mirror      : MirrorMode
  sizeLog2    : Nat
  stitchLog2  : Nat
  rank        : Nat
  cqStall     : Bool
  hostpSel    : Bool
  adopted     : Bool
  rlBind      : Bool
  rlMode      : Bool
  pin         : Bool
  pasidValid  : Bool
  rlLine      : Nat
  ringBase    : W64
  pasid       : Nat
  pd          : Nat
  cqid        : Nat
  cause       : Nat
  pi          : W32
  snap        : W32
  fetch       : W32
  ci          : W32
  mirroredCi  : W32
  causeIndex  : W32
  rings       : W32
  ringIgnored : Nat
  cqStalls    : Nat
  servedMt    : W64
  createdMt   : W64
  /-- stopped by MODIFY_WQ (the other stop reason of R139) -/
  stopReq     : Bool
  accepts     : List Accept
  destroy     : DestroyPhase
  drainCut    : Bool
  /-- entries withdrawn or never started by the destroy (R248) -/
  withdrawn   : Nat
  /-- has returned an engine at least once (R87) -/
  served      : Bool
  /-- in use by the mode change of PAIR_QMODE that waits (R357) -/
  newMirror   : Option MirrorMode
  /-- a change of line or mode that waits for the next stitch boundary: none inside for no line (R113) -/
  newLine     : Option (Option (Nat × Bool))
  deriving DecidableEq, Repr

/-- The context of a queue that does not exist: it reads as all zero (R246). -/
def QCtx.zero : QCtx :=
  { state := .free, cls := .admin, device := false, echk := false, mirror := .none, sizeLog2 := 0, stitchLog2 := 0,
    rank := 0, cqStall := false, hostpSel := false, adopted := false, rlBind := false, rlMode := false, pin := false,
    pasidValid := false, rlLine := 0, ringBase := 0, pasid := 0, pd := 0, cqid := 0, cause := 0, pi := 0, snap := 0,
    fetch := 0, ci := 0, mirroredCi := 0, causeIndex := 0, rings := 0, ringIgnored := 0, cqStalls := 0, servedMt := 0,
    createdMt := 0, stopReq := false, accepts := [], destroy := .none, drainCut := false, withdrawn := 0,
    served := false, newMirror := none, newLine := none }

/-- Completion-ring states (R133). -/
inductive CqState where
  | free | active | full | broken | destroying
  deriving DecidableEq, Repr

/-- A completion-ring context (R131); `spilled` and `bound` are computed from the spill and the queues. -/
structure CqCtx where
  state      : CqState
  device     : Bool
  hostpSel   : Bool
  pasidValid : Bool
  wbEn       : Bool
  sizeLog2   : Nat
  irqEn      : Bool
  irqSrc     : Nat
  coalCount  : Nat
  coalTime   : Nat
  pd         : Nat
  ringBase   : W64
  wbAddr     : W64
  pasid      : Nat
  fullEvents : Nat
  ciErrors   : Nat
  pi         : W32
  ci         : W32
  stallMt    : W64
  createdMt  : W64
  /-- records written since the last raise (R142) -/
  uncovered  : Nat
  deriving DecidableEq, Repr

/-- The context of a ring that does not exist. -/
def CqCtx.zero : CqCtx :=
  { state := .free, device := false, hostpSel := false, pasidValid := false, wbEn := false, sizeLog2 := 0,
    irqEn := false, irqSrc := 0, coalCount := 0, coalTime := 0, pd := 0, ringBase := 0, wbAddr := 0, pasid := 0,
    fullEvents := 0, ciErrors := 0, pi := 0, ci := 0, stallMt := 0, createdMt := 0, uncovered := 0 }

/-- A trigger counter (R187); `waiters` is computed from the parked entries. -/
structure Counter where
  value    : W64
  pd       : Nat
  valid    : Bool
  remoteEn : Bool
  deriving DecidableEq, Repr

/-- A counter that belongs to no domain (R188). -/
def Counter.zero : Counter := { value := 0, pd := 0, valid := false, remoteEn := false }

/-- A memory region (R67). -/
structure Region where
  valid      : Bool
  tag        : Nat
  pd         : Nat
  hostBacked : Bool
  base       : Nat
  size       : Nat
  pasid      : Nat
  lr         : Bool
  lw         : Bool
  rr         : Bool
  rwr        : Bool
  rred       : Bool
  deriving DecidableEq, Repr

/-- A region entry of zeros (R341). -/
def Region.zero : Region :=
  { valid := false, tag := 0, pd := 0, hostBacked := false, base := 0, size := 0, pasid := 0, lr := false, lw := false,
    rr := false, rwr := false, rred := false }

/-- A work entry's fields (R49). -/
structure Entry where
  opcode     : Nat
  flags      : Nat
  opspec     : Nat
  userTag    : Nat
  src        : W64
  dst        : W64
  length     : Nat
  srcSpace   : Nat
  dstSpace   : Nat
  ordClass   : Nat
  srcKey     : Nat
  dstKey     : Nat
  waitCtr    : Nat
  threshold  : Nat
  sigCtr     : Nat
  increment  : Nat
  cqOvr      : Nat
  cqOvrEn    : Bool
  sigOnError : Bool
  rsvd6      : Nat
  redType    : Nat
  repro      : Bool
  redOp      : Nat
  rsvd7      : Bool
  fillSel    : Nat
  piOp       : Nat
  piType     : Bool
  piBlock    : Bool
  rsvdHi     : Nat
  echk       : Nat
  deriving DecidableEq, Repr

/-- A fragment, or one source of a source list (R72, R77). -/
structure Frag where
  addr : W64
  flen : Nat
  key  : Nat
  deriving DecidableEq, Repr

/-- Where an entry stands (R85). -/
inductive Phase where
  | fetched     -- read, and waiting behind an earlier entry for its decode (R79, R201)
  | waitPark    -- waits at decode for a parking slot (R201)
  | parked
  | startable
  | started
  | dataDone
  | mirrorWait  -- its COMPLETE is not yet acknowledged (R355)
  | recWait     -- its record waits for room in the spill (R138)
  | posted      -- completed; its record is issued or spilled
  | released    -- released, CI not yet past it (R21)
  deriving DecidableEq, Repr

/-- A staged byte, and whether the read that brought it failed its in-hop (R220). -/
structure SByte where
  b   : Byte
  bad : Bool
  deriving DecidableEq, Repr

/-- What a read burst brings: the bytes as they stood when it was issued, the beats of 32 bytes or words of 8, counted from the first that
it touches, that stood poisoned or uncorrectable, and how many words it corrects (R438, R447, R448). -/
structure ReadOut where
  bytes : List Byte
  bad   : List Nat
  fixes : Nat
  deriving DecidableEq, Repr

/-- A stitch bound to an engine: job offsets [lo, hi), issued for writing (or judged) below `wr`; `stage` holds, for each
reader, the bytes read from offset `wr` on. -/
structure Stitch where
  eng   : Nat
  lo    : Nat
  hi    : Nat
  wr    : Nat
  /-- its keys are checked and its fragments or sources are read and checked (R70, R76, R77) -/
  ready : Bool
  /-- cut under R95, or stopped under R137, R218 or R83: it ends at `wr` -/
  stop  : Bool
  cut   : Bool
  /-- the waiting queue that the cut serves; 2^22 for an admin stream (R95) -/
  cutFor : Option Nat
  /-- rank of the queue it runs for (R95, R262) -/
  rank  : Nat
  /-- the request line that paces it, true in level mode (R113) -/
  line  : Option (Nat × Bool)
  /-- job offset below which the line has let paced bursts be read (R116, R117) -/
  paced : Nat
  /-- the paced bursts read and not yet acknowledged: the line that let each be read, and its end (R118) -/
  ends  : List (Nat × Nat)
  /-- source offset below which GET requests are sent (R442) -/
  asked : Nat
  /-- the fill pattern as read at the stitch's start (R62) -/
  pat   : W64
  /-- order of binding, for the choice of a victim (R95) -/
  born  : Nat
  stage : List (List SByte)
  /-- the read bursts issued and not yet returned, oldest first, for each reader (R104, R264) -/
  rds   : List (List ReadOut)
  /-- CRC-32C held for each check block that is staged whole, by its first job offset, for each reader (R213) -/
  sums  : List (List (Nat × W32))
  deriving DecidableEq, Repr

/-- An issued data write that is not yet accepted, acknowledged or reported delivered (R102). -/
structure DataWrite where
  w      : Nat
  /-- the engine that issued it; 127 for an arrival sent without one -/
  eng    : Nat
  space  : Nat
  addr   : Nat
  bytes  : List Byte
  /-- the parity bit that each byte goes out with on a host port (R211) -/
  parity : List Bool
  poison : Bool
  lo     : Nat
  hi     : Nat
  /-- its place among all data writes in order of issue, and the address ranges [a, b) of it that later ones have written already
  (R438, R447) -/
  ord    : Nat
  past   : List (Nat × Nat)
  deriving DecidableEq, Repr

/-- A completion record before its ring index is known (R124, R238). -/
structure CRec where
  seq       : W32
  qid       : Nat
  status    : Nat
  replayed  : Bool
  uncertain : Bool
  adopted   : Bool
  bytesDone : Nat
  opcode    : Nat
  acceptMt  : W64
  doneDelta : Nat
  userTag   : Nat
  deriving DecidableEq, Repr

/-- A fetched entry, from decode to release (R85). -/
structure Flight where
  q          : Nat
  idx        : W32
  e          : Entry
  /-- the entry's 64 bytes as read (R39) -/
  raw        : List Byte
  phase      : Phase
  acceptMt   : W64
  stitchLog2 : Nat
  /-- first job offset of the stitch grid not yet bound -/
  next       : Nat
  /-- job ranges below `next` that a cut, a release or a failed engine left to run again (R96, R116, R422), rising -/
  redo       : List (Nat × Nat)
  stitches   : List Stitch
  /-- what a paced stitch whose pace ran out had read of the protection block under way: the stitch that goes on from there takes it
  over (R116) -/
  kept       : Option Stitch
  srcFrags   : List Frag
  dstFrags   : List Frag
  srcList    : Option (List Frag)
  writes     : List DataWrite
  wnext      : Nat
  /-- job ranges written, or read and judged (R125) -/
  done       : List (Nat × Nat)
  status     : Nat
  /-- job offset of the failure reported (R221) -/
  failOfs    : Nat
  /-- ended by an error, a check or a malformation: no further stitch is bound -/
  ended      : Bool
  malCause   : Nat
  redExc     : Bool
  /-- host ports whose flushing read is outstanding (R103) -/
  flush      : List Bool
  flushed    : Bool
  redCfg     : Nat
  chkCfg     : Nat
  piCfg      : Nat
  doneMt     : W64
  replayed   : Bool
  uncertain  : Bool
  skipSignal : Bool
  skipAdd    : Bool
  /-- seq of the START or COMPLETE record that must be acknowledged (R355) -/
  startSeq   : Option W32
  complSeq   : Option W32
  /-- entries withdrawn by the quarantine that this entry caused, which is recorded once its own record is posted (R82) -/
  quar       : Option Nat
  /-- the completion record that the done log holds for this adopted entry (R370) -/
  logged     : Option CRec
  /-- it has started (R85, R354) -/
  began      : Bool := false
  deriving DecidableEq, Repr

/-- A record on its way into ring `c`, for entry (q, idx). -/
structure Held where
  c   : Nat
  r   : CRec
  q   : Nat
  idx : W32
  /-- CORE_CLK cycle in which its write was issued: records of one cycle make a batch (R132) -/
  at_ : Nat := 0
  /-- CPOST has put its write out on a channel (R260, R264) -/
  sent : Bool := false
  deriving DecidableEq, Repr

/-- Records held and issued (R132, R136, R138). -/
structure Cqs where
  spill   : List Held
  waiting : List Held
  /-- record writes issued and not yet accepted: ring index and record -/
  issued  : List (W32 × Held)
  /-- write-backs issued and not yet accepted: ring and the pi that they carry (R132) -/
  wbs     : List (Nat × W32)
  deriving DecidableEq, Repr

/-- Parking (R200): entries in parking order. -/
structure Park where
  onChip : List (Nat × W32)
  spill  : List (Nat × W32)
  /-- the entry of the park spill in which each spilled one lies -/
  slots  : List ((Nat × W32) × Nat)
  deriving DecidableEq, Repr

/-- A register access that waits behind a waiting read of its agent; `first` unless it goes on with a longer read (R473, R475). -/
structure HeldAccess where
  c     : Instr
  first : Bool
  deriving DecidableEq, Repr

/-- A command that waits in the intake for a cold context: the MT of its arrival (R124), whether its lookup has been counted
(R47), and the contexts fetched for it that no way of the cache holds (R427). -/
structure Waiting where
  c      : Instr
  mt     : W64
  looked : Bool
  got    : List (CtxKind × Nat)
  deriving DecidableEq, Repr

/-- The context cache (R43 to R45): numbers held by each set, least recently used first, and what waits for a cold
context. -/
structure Cache where
  ways  : Tbl (List Nat)
  waits : List Waiting
  /-- aperture writes that a port with a full intake holds back, in order of arrival (R35) -/
  back  : List Instr
  /-- contexts asked for by work that does not wait in `waits`: kind, number, and whether the fetch has brought it (R44) -/
  wanted : List (CtxKind × Nat × Bool)
  /-- entries whose completion waits for a context (R44) -/
  ends  : List (Nat × W32)
  /-- contexts evicted and still to be written back to the context store (R45) -/
  backs : List (CtxKind × Nat)
  /-- register accesses that wait behind a waiting read of their agent, in order (R473, R475) -/
  accs : List HeldAccess
  deriving DecidableEq, Repr

/-- A host message that has left (R302): its posted write stands in memory once it has landed, with the four bytes that stood there
before. -/
structure HostMsg where
  src    : Nat
  vector : Nat
  hostp  : Bool
  addr   : Nat
  data   : Nat
  landed : Bool
  old    : List Byte
  deriving DecidableEq, Repr

/-- The interrupt controller: priority stacks (R293) as (source, priority), top first, the threshold entry left out; and its host
messages. -/
structure IcState where
  stk  : Tbl (List (Nat × Nat))
  /-- sources that have begun to signal and signal still, each with its target (R302) -/
  live : List (Nat × Nat)
  /-- sources whose next message must follow the writes issued on a host port: source and port (R303) -/
  owed : List (Nat × Nat)
  /-- host messages held for a flushing read (R303): source and the port to flush -/
  held : List (Nat × Nat)
  /-- those whose flushing read waits for room at its port (R437) -/
  unread : List (Nat × Nat)
  /-- the latest message of each source that has left (R302, R305) -/
  msgs : List HostMsg
  deriving DecidableEq, Repr

/-- The owner of a channel (R267 to R270). -/
structure Owner where
  req  : Nat
  slot : Bool
  age  : Nat
  idle : Nat
  /-- candidate this channel passes to at the owner's next break point -/
  take : Option Nat
  deriving DecidableEq, Repr

/-- A read burst that FETCH or CCACHE has issued and that has not yet returned (R264). -/
inductive SentRead where
  | entries (q : Nat)
  | table (q : Nat) (i : W32) (d : Dir)
  | list (q : Nat) (i : W32)
  | ctx (k : CtxKind) (n : Nat)
  deriving DecidableEq, Repr

/-- A read burst whose stitch has ended before it returned: its engine and reader, the resource, and what it reads (R96, R264). -/
structure GoneRead where
  eng   : Nat
  src   : Nat
  res   : Nat
  space : Nat
  pasid : Option Nat
  addr  : Nat
  got   : ReadOut
  deriving DecidableEq, Repr

/-- An arriving fold that waits: the segment, the answer of its read, whether its write fails, and what was judged as it arrived: the
destination that the key check returned, and the port of IZ_RED_CFG (R181, R185, R446). -/
structure WaitFold where
  seg    : FoldSeg
  ans    : ReadAns
  lost   : Bool
  region : Region
  hostp  : Nat
  deriving DecidableEq, Repr

/-- The arbiters. -/
structure ArbState where
  own     : Tbl (Option Owner)
  cand    : Tbl (List Nat)
  /-- requester after which the round-robin starts, per resource and rank -/
  rr      : Tbl Nat
  /-- order of grants and of bindings -/
  stamp   : Nat
  /-- (resource, requester) pairs refused since a watchdog bite whose fault is not yet handled (R270) -/
  refused : List (Nat × Nat)
  /-- arriving folds that wait for FOLD's channels (R181) -/
  folds   : List WaitFold
  /-- the channel of each resource whose owner is served next (R260) -/
  turn    : Tbl Nat
  /-- reads of FETCH and CCACHE that are out, each with its resource (R264) -/
  sent    : List (Nat × SentRead)
  /-- reads of stitches that have ended, not yet returned (R264) -/
  gone    : List GoneRead
  /-- data writes issued, counted (R438, R447) -/
  issued  : Nat
  deriving DecidableEq, Repr

/-- One request line (R117, R118). -/
structure Line where
  out    : Nat
  pulses : Nat
  low    : Bool
  deriving DecidableEq, Repr

/-- An idle line. -/
def Line.zero : Line := { out := 0, pulses := 0, low := false }

/-- The time base (R143 to R145). -/
structure TbState where
  mt      : W64
  /-- the latest valid sample, when no sample has been missing since -/
  prev    : Option W64
  /-- the latest applied sample, which bounds MT between samples -/
  sample  : W64
  /-- fabric time as it goes on from that sample, 2 and 3 units in turn, up to the sample + 25 -/
  fabric  : W64
  odd     : Bool
  missing : Nat
  /-- PPS_OUT: the next second boundary index not yet signalled -/
  second  : Nat
  /-- CORE_CLK cycles since reset -/
  cycle   : Nat
  deriving DecidableEq, Repr

/-- The trace ring and its drain (R151 to R153). -/
structure TraceState where
  recs     : List (List W64)
  base     : W64
  device   : Bool
  hostp    : Bool
  sizeLog2 : Nat
  failed   : Bool
  /-- a failed copy is to be reported by the next TRACE_STOP (R254) -/
  access   : Bool
  seq      : W32
  deriving DecidableEq, Repr

/-- An admin command: its index, its eight words, and the MT of the RING that handed it over. -/
structure AdmCmd where
  idx      : W32
  words    : List W64
  acceptMt : W64
  deriving DecidableEq, Repr

/-- An open admin command (R255, R258). -/
structure AdmOpen where
  cmd   : AdmCmd
  /-- its first stitch has run -/
  begun : Bool
  phase : Nat
  done  : Nat
  total : Nat
  value : Nat
  deriving DecidableEq, Repr

/-- The admin executor. -/
structure AdmState where
  fetched   : List AdmCmd
  ring      : Option AdmOpen
  cob       : Option AdmOpen
  disabling : Bool
  cobCount  : W32
  /-- the stream whose command is with firmware (R256) -/
  fw        : Option Stream
  /-- the streams that need a stitch, the one that has waited longest first: 1 ring, 2 COB, 3 the background stitches (R255,
  R340) -/
  line      : List Nat
  /-- the engine whose admin stitch waits for channels: its number, the stream's number, and the resources (R94, R263) -/
  eng       : Option (Nat × Nat × List Nat)
  deriving DecidableEq, Repr

/-- The pattern loader (R316 to R343). -/
structure PatState where
  /-- the flash answered with SFDP and a 1-1-4 read (R317) -/
  present    : Bool
  /-- the 1-1-4 read opcode and its dummy cycles (R317) -/
  readOp     : Nat
  dummy      : Nat
  /-- the copy being read or judged -/
  cand       : Option Nat
  /-- copies that passed step 6 and have not failed since -/
  passed     : List Nat
  csBase     : Nat
  mrBase     : Nat
  ssc        : Nat
  keyHash    : List Byte
  /-- blocks cleared out of turn (R341) -/
  early      : List Nat
  /-- startup follows a soft reset: fuses are not read again (R342) -/
  bySoft     : Bool
  /-- a soft reset waits for the halt to finish (R343) -/
  resetWait  : Bool
  progCopy   : Nat
  deriving DecidableEq, Repr

/-- A done log entry (R353). -/
structure DoneLog where
  started  : Bool
  signalled : Bool
  /-- the entry's own signal is applied, as against the addend of its TRIG_ADD (R209) -/
  own      : Bool
  done     : Bool
  record   : List W64
  deriving DecidableEq, Repr

/-- An empty done log entry. -/
def DoneLog.zero : DoneLog := { started := false, signalled := false, own := false, done := false, record := [] }

/-- What waits for room in the mirror queue because it must send a record (R356): an arrival, a consumer index, and what the
acknowledgement of a batch does, each with the MT of its event; and the stop of a queue whose ring is FULL or BROKEN, or its return. -/
inductive MirrorAct where
  | arrival (w : W64) (mt : W64)
  | ci (c : Nat) (v : W32) (mt : W64)
  | batch (c : Nat) (l : List (W32 × Held))
  | stall (q : Nat)
  deriving DecidableEq, Repr

/-- A mirror record waiting to be sent: code, seq, and its slots as they were stamped (R147, R350). -/
structure MirrorOut where
  code  : Nat
  seq   : W32
  slots : List (List Byte)
  deriving DecidableEq, Repr

/-- Mirroring and takeover (chapter "Pair Mirroring, Halt and Takeover"). -/
structure PairState where
  /-- seq of the next outgoing mirror record -/
  seq       : W32
  queue     : List MirrorOut
  /-- records that wait for room in the mirror queue, with their code, clock domain and MT; they take seq and context bytes as they
  enter it (R356) -/
  owed      : List (Nat × Nat × MRec)
  /-- what waits for room in the mirror queue, in order (R356) -/
  acts      : List MirrorAct
  /-- started entries that CI has passed and mirrored_ci has not: queue and index (R354) -/
  passed    : List (Nat × W32)
  /-- queues whose mode change waits for an acknowledgement (R357, R376) -/
  modeAcks  : List Nat
  /-- CTRL messages that wait for the link or for credit -/
  ctrl      : List (List Byte)
  /-- highest seq acknowledged, plus one -/
  acked     : W32
  /-- snapshots sent and not yet acknowledged: object kind, number, seq (R352) -/
  snaps     : List (CtxKind × Nat × W32)
  /-- objects with deltas held back until their snapshot is acknowledged (R352) -/
  heldBack  : List (CtxKind × Nat)
  /-- accepted RINGs that wait for room in the mirror queue: queue, S', MT (R356) -/
  ringWait  : List (Nat × W32 × W64)
  /-- queues, and rings, whose last CI or CQCI record is less than 64 CORE_CLK cycles old; true when a later index waits
  to be sent (R351) -/
  deferCi   : List (Nat × Bool)
  deferCqci : List (Nat × Bool)
  /-- seq of the last mirror record sent (R362) -/
  lastSent  : W32
  /-- contexts of the records not yet acknowledged: kind, number, seq (R45) -/
  locks     : List (CtxKind × Nat × W32)
  /-- CI records not yet acknowledged: queue, seq, CI (R26) -/
  ciSent    : List (Nat × W32 × W32)
  mq        : Tbl QCtx
  mcq       : Tbl CqCtx
  log       : Tbl DoneLog
  /-- seq of the latest record applied, plus one -/
  applied   : W32
  clears    : Nat
  /-- the fellow's READY for the present full sync has come (R359) -/
  readyIn   : Bool
  /-- seq of the SYNC_END sent (R359) -/
  endSeq    : Option W32
  /-- repeats of the halt notice sent, and whether it was acknowledged -/
  notices   : Nat
  noticeAck : Bool
  haltMt    : W64
  /-- the halt notice as it was stamped; every repeat is the same (R362) -/
  notice    : List Byte
  /-- CORE_CLK cycles left of halt processing (R418), 0 when none -/
  haltLeft  : Nat
  /-- malformation cause or fatal code of this mover's halt -/
  haltCode  : Nat
  /-- a hard halt is in force (R418) -/
  hard      : Bool
  drainTo   : Option W32
  noticed   : Bool
  scan      : Nat
  fellowSend : Nat
  deriving DecidableEq, Repr

/-- A packet kept for replay (R401). -/
structure Pkt where
  seq     : Nat
  slots   : List (List Byte)
  spilled : Bool
  /-- its first unit in the replay spill, counted from the beginning of the session over all that was spilled (R401) -/
  pos     : Nat
  /-- read back from the spill for the replay that has reached it (R401) -/
  back    : Bool
  /-- order of first transmission over all channels -/
  born    : Nat
  deriving DecidableEq, Repr

/-- One virtual channel, both directions (R395 to R400). -/
structure Vc where
  base     : Nat
  next     : Nat
  sent     : Nat
  limit    : Nat
  expected : Nat
  /-- packets accepted and not yet consumed: units, and the slots left -/
  rx       : List (Nat × List (List Byte))
  /-- units freed since the session began (R395) -/
  freed    : Nat
  store    : List Pkt
  expiries : Nat
  /-- seq of the next packet of a replay under way; one that lies in the spill stops it (R400 to R402) -/
  stalled  : Option Nat
  deriving DecidableEq, Repr

/-- A virtual channel at the start of a session with buffer size `n` (R386, R395); with `n` = 0, without a session (R409). -/
def Vc.fresh (n : Nat) : Vc :=
  { base := 0, next := 0, sent := 0, limit := n, expected := 0, rx := [], freed := 0, store := [], expiries := 0,
    stalled := none }

/-- A symbol of a lane: control or data (R380). -/
structure Sym where
  k : Bool
  b : Byte
  deriving DecidableEq, Repr

/-- A receive lane (R379, R380, R389, R390, R403). -/
structure LaneRx where
  /-- running disparity -/
  rd    : Bool
  /-- the PRBS23 checker, once it is loaded -/
  chk   : Option Nat
  /-- within a retrain block, its PRBS31 checker -/
  block : Option (Option Nat)
  /-- a packet goes on into the next stripe -/
  pkt   : Bool
  /-- stream groups of four bytes from the last START on this lane to its next symbol, while that is known -/
  since : Option Nat
  /-- place of the next symbol in a training set, or from 17 on in an AOS; 0 outside one -/
  set   : Nat
  /-- symbols received, and the numbers of the latest ones in error -/
  seen  : Nat
  errs  : List Nat
  deriving DecidableEq, Repr

/-- A lane that has received nothing. -/
def LaneRx.fresh : LaneRx :=
  { rd := false, chk := none, block := none, pkt := false, since := none, set := 0, seen := 0, errs := [] }

/-- The nine lanes of each direction: symbols of the stripe under way, PRBS23 and PRBS31 generators and running disparities of the
transmit lanes, and the receive lanes (R377, R379, R389, R390). -/
structure PhysState where
  part : List Sym
  gens : List Nat
  gens31 : List Nat
  txRd : List Bool
  rx   : List LaneRx
  deriving DecidableEq, Repr

/-- The lanes after reset: the generators, for which no value is given, all ones (log entry 2). -/
def PhysState.fresh : PhysState :=
  { part := [], gens := List.replicate 9 (2 ^ 23 - 1), gens31 := List.replicate 9 (2 ^ 31 - 1), txRd := List.replicate 9 false,
    rx := List.replicate 9 LaneRx.fresh }

/-- The Lace link (chapter "The Lace Link"). -/
structure LaceState where
  ctrl     : Vc
  mirror   : Vc
  bulk     : Vc
  fb       : Nat
  recovery : Bool
  /-- receive lanes marked bad for the rest of the session (R405) -/
  bad      : List Nat
  /-- receive lanes whose adaptation is frozen (R390) -/
  frozen   : List Nat
  fellowUse : Nat
  /-- the good map most recently received from the fellow (R385) -/
  fellowGood : Nat
  phys     : PhysState
  /-- packets sent for the first time, over all channels -/
  stamp    : Nat
  /-- channels whose feedback packet is due (R396) -/
  fbDue    : List Nat
  /-- PRBS31 stripes left of a retrain block under way, plus one for its AOS stripe; 0 when none (R390) -/
  block    : Nat
  /-- units written to the replay spill since the session began (R401) -/
  spillHead : Nat
  deriving DecidableEq, Repr

/-- An error log record before its sequence number is settled (R411, R412): what orders it among the records of its CORE_CLK cycle, and
its four words with sequence number 0. -/
structure LogRec where
  cls   : Nat
  code  : Nat
  item  : Nat
  words : List W64
  deriving DecidableEq, Repr

/-- The failure that IZ_CHK_LAST shows: its CORE_CLK cycle, its queue and index, and whether it is a fold's (R231). -/
structure ChkSeen where
  cycle : Nat
  q     : Nat
  idx   : W32
  fold  : Bool
  deriving DecidableEq, Repr

/-- The error log queue (R411), and the latest failed check (R231). -/
structure ErrState where
  log : Tbl (List W64)
  seq : W32
  /-- the records of one CORE_CLK cycle, in the order in which they enter the ring, and that cycle (R411) -/
  now : List LogRec
  nowAt : Nat
  /-- classes whose first-error capture holds a record of that cycle (R411, R416) -/
  fresh : List Nat
  /-- records of earlier cycles that wait for a channel of CSTORE (R261, R273) -/
  wait : List (List W64)
  /-- reads of ERR_LOG_RD that wait for CSTORE: the agent where it is told; word, first bit and number of bits returned (R414, R475) -/
  reads : List (Option Agent × Nat × Nat × Nat)
  /-- the failed check that was recorded last (R231) -/
  chk : Option ChkSeen
  deriving DecidableEq, Repr

/-- What the receive lane of a far-end lane test has brought: the PRBS31 checker once loaded, the bit errors and the bits checked (R432). -/
structure LaneHeard where
  chk    : Option Nat
  errors : Nat
  bits   : Nat
  deriving DecidableEq, Repr

/-- Background BIST, shadowing and the running test (R430 to R433). -/
structure SprState where
  array  : Nat
  row    : Nat
  /-- the shadowed unit, the unit that shadows it, and the state that one came from (R431) -/
  shadow : Option (Nat × Nat × Nat)
  unit   : Nat
  /-- the state of the unit before its self-test -/
  former : Nat
  online : Bool
  /-- units told to go OFFLINE at their next boundary: (reduction unit?, number) -/
  leaving : List (Bool × Nat)
  /-- context-cache banks that take no new fills and wait for their locks to clear (R427) -/
  retiring : List Nat
  /-- units that a halt stopped while they were under test, (reduction unit?, number): they read STOPPED and are not active (R363,
  R424) -/
  tested : List (Bool × Nat)
  /-- a lane test is far-end, and what its receive lane has brought (R432) -/
  far    : Bool
  heard  : LaneHeard
  deriving DecidableEq, Repr

/-- Output balls that are not computed from registers (R334, R461). -/
structure Pins where
  haltOut : Bool
  ppsOut  : Bool
  nvmWp   : Bool
  deriving DecidableEq, Repr

/-- Host memory, in-package memory and the pattern flash as the ports reach them: byte cells, poison marks of 32-byte host
beats, and ECC syndromes of 8-byte in-package words (R436, R448). -/
structure Memory where
  host    : Tbl Byte
  hpoison : Tbl Bool
  pkg     : Tbl Byte
  syn     : Tbl Byte
  flash   : Tbl Byte
  deriving DecidableEq, Repr

/-- What the mover presents at its boundary. -/
inductive Out where
  | hostMessage (hostp : Bool) (addr data : Nat) (vector : Nat)
  | flushRead (hostp : Bool)
  | put (q : Nat) (node key ofs ordClass : Nat) (bytes : List Byte) (chk : W32) (poison : Bool)
  | get (q : Nat) (node key ofs len ordClass : Nat)
  | fold (q : Nat) (node key ofs ordClass : Nat) (redType redOp : Nat) (repro outCarrier : Bool) (bytes : List Byte)
      (chk : W32) (poison : Bool)
  | foldResponse (reason : Nat)
  | keyPass (hostBacked : Bool) (addr pasid : Nat)
  | keyFail (reason : Nat)
  | ppsStamp (mt : W64)
  /-- a packet's bytes join the stream (R391) -/
  | lace (bytes : List Byte)
  /-- a stripe: the 40-bit word of each physical lane that sends (R377, R379) -/
  | stripe (words : List (Nat × BitVec 40))
  /-- what each of the nine lanes sends in training (R382, R384) -/
  | train (lanes : List (List Sym))
  | laceProbe
  | laceRetrainBlock
  /-- the access of COB core `c` ends with an error (R439); with `none` the watchdog bit COB, which the four cores share, and no
  core is named (R270; log entry 23) -/
  | cobError (c : Option Nat)
  deriving DecidableEq, Repr

/-- Why a step stops with a fault. No command of this block does: the spec gives every fault of the part an effect on its
state. The one constructor is kept so that the type names what it stands for. -/
inductive Fault where
  /-- Raised by no command; safe. -/
  | none
  deriving DecidableEq, Repr

/-- Why a step is refused. -/
inductive Refusal where
  /-- Raised by a dispatch arm that has no meaning yet; safe, since nothing is claimed of it. -/
  | notModelled (mnemonic : String)
  deriving DecidableEq, Repr

/-- The mover. -/
structure State where
  pending  : List Instr
  regs     : Tbl W64
  q        : Tbl QCtx
  cq       : Tbl CqCtx
  ctr      : Tbl Counter
  mr       : Tbl Region
  pd       : Tbl Bool
  fl       : List Flight
  park     : Park
  cqs      : Cqs
  cache    : Cache
  ic       : IcState
  arb      : ArbState
  lines    : Tbl Line
  tb       : TbState
  trace    : TraceState
  adm      : AdmState
  pat      : PatState
  pair     : PairState
  lace     : LaceState
  err      : ErrState
  spr      : SprState
  pins     : Pins
  mem      : Memory
  memSize  : W64
  out      : List Out
  /-- the words that the latest read returned, in order -/
  lastRead : List W64
  free     : Nat
  deriving DecidableEq, Repr

/-- The mover right after hard reset, before step 1 of R339 has run: register words at the values of R481 to R488, no
object, no work, outputs as R334. -/
def State.reset : State :=
  { pending := [], regs := [], q := [], cq := [], ctr := [], mr := [], pd := [], fl := [],
    park := { onChip := [], spill := [], slots := [] },
    cqs := { spill := [], waiting := [], issued := [], wbs := [] },
    cache := { ways := [], waits := [], back := [], wanted := [], ends := [], backs := [], accs := [] },
    ic := { stk := [], live := [], owed := [], held := [], unread := [], msgs := [] },
    arb := { own := [], cand := [], rr := [], stamp := 0, refused := [], folds := [], turn := [], sent := [], gone := [], issued := 0 },
    lines := [],
    tb := { mt := 0, prev := none, sample := 0, fabric := 0, odd := false, missing := 0, second := 0, cycle := 0 },
    trace := { recs := [], base := 0, device := false, hostp := false, sizeLog2 := 0, failed := false, access := false,
               seq := 0 },
    adm := { fetched := [], ring := none, cob := none, disabling := false, cobCount := 0, fw := none, line := [], eng := none },
    pat := { present := false, readOp := 0, dummy := 0, cand := none, passed := [], csBase := 0, mrBase := 0, ssc := 0, keyHash := [],
             early := [], bySoft := false, resetWait := false, progCopy := 0 },
    pair := { seq := 0, queue := [], owed := [], acts := [], passed := [], modeAcks := [], ctrl := [], acked := 0, lastSent := 0, locks := [], snaps := [], heldBack := [], ringWait := [], deferCi := [], deferCqci := [], ciSent := [], mq := [], mcq := [],
              log := [], applied := 0, clears := 0, readyIn := false, endSeq := none, notices := 0, noticeAck := false, haltMt := 0, notice := [], haltLeft := 0, haltCode := 0,
              hard := false,
              drainTo := none, noticed := false, scan := 0, fellowSend := 0 },
    lace := { ctrl := Vc.fresh 0, mirror := Vc.fresh 0, bulk := Vc.fresh 0, fb := 0, recovery := false,
              bad := [], frozen := [], fellowUse := 0, fellowGood := 0, phys := PhysState.fresh, stamp := 0, fbDue := [], block := 0, spillHead := 0 },
    err := { log := [], seq := 0, now := [], nowAt := 0, fresh := [], wait := [], reads := [], chk := none },
    spr := { array := 0, row := 0, shadow := none, unit := 0, former := 0, online := false, leaving := [], retiring := [], tested := [], far := false, heard := { chk := none, errors := 0, bits := 0 } },
    pins := { haltOut := true, ppsOut := false, nvmWp := true },
    mem := { host := [], hpoison := [], pkg := [], syn := [], flash := [] },
    memSize := 0, out := [], lastRead := [], free := 0 }

end Sys2Proof.Machine
end

