-- ==== Sys2Proof/Machine/Ops.lean ====
section
/-!
DEFINITION. The named operations every command is built from: registers and their fields, contexts, memory through the
ports, interrupt sources, the error log, the trace ring.
-/
namespace Sys2Proof.Machine

/-- The outcome of a step. -/
abbrev Res := Host.Outcome State Fault Refusal

/-! ## Replacing one component -/

/-- Replace `pending`. -/
def State.withPending (s : State) (v : List Instr) : State := { s with pending := v }
/-- Replace `regs`. -/
def State.withRegs (s : State) (v : Tbl W64) : State := { s with regs := v }
/-- Replace `q`. -/
def State.withQ (s : State) (v : Tbl QCtx) : State := { s with q := v }
/-- Replace `cq`. -/
def State.withCq (s : State) (v : Tbl CqCtx) : State := { s with cq := v }
/-- Replace `ctr`. -/
def State.withCtr (s : State) (v : Tbl Counter) : State := { s with ctr := v }
/-- Replace `mr`. -/
def State.withMr (s : State) (v : Tbl Region) : State := { s with mr := v }
/-- Replace `pd`. -/
def State.withPd (s : State) (v : Tbl Bool) : State := { s with pd := v }
/-- Replace `fl`. -/
def State.withFl (s : State) (v : List Flight) : State := { s with fl := v }
/-- Replace `park`. -/
def State.withPark (s : State) (v : Park) : State := { s with park := v }
/-- Replace `cqs`. -/
def State.withCqs (s : State) (v : Cqs) : State := { s with cqs := v }
/-- Replace `cache`. -/
def State.withCache (s : State) (v : Cache) : State := { s with cache := v }
/-- Replace `ic`. -/
def State.withIc (s : State) (v : IcState) : State := { s with ic := v }
/-- Replace `arb`. -/
def State.withArb (s : State) (v : ArbState) : State := { s with arb := v }
/-- Replace `lines`. -/
def State.withLines (s : State) (v : Tbl Line) : State := { s with lines := v }
/-- Replace `tb`. -/
def State.withTb (s : State) (v : TbState) : State := { s with tb := v }
/-- Replace `trace`. -/
def State.withTrace (s : State) (v : TraceState) : State := { s with trace := v }
/-- Replace `adm`. -/
def State.withAdm (s : State) (v : AdmState) : State := { s with adm := v }
/-- Replace `pat`. -/
def State.withPat (s : State) (v : PatState) : State := { s with pat := v }
/-- Replace `pair`. -/
def State.withPair (s : State) (v : PairState) : State := { s with pair := v }
/-- Replace `lace`. -/
def State.withLace (s : State) (v : LaceState) : State := { s with lace := v }
/-- Replace `err`. -/
def State.withErr (s : State) (v : ErrState) : State := { s with err := v }
/-- Replace `spr`. -/
def State.withSpr (s : State) (v : SprState) : State := { s with spr := v }
/-- Replace `pins`. -/
def State.withPins (s : State) (v : Pins) : State := { s with pins := v }
/-- Replace `mem`. -/
def State.withMem (s : State) (v : Memory) : State := { s with mem := v }
/-- Replace `memSize`. -/
def State.withMemSize (s : State) (v : W64) : State := { s with memSize := v }
/-- Replace `out`. -/
def State.withOut (s : State) (v : List Out) : State := { s with out := v }
/-- Replace `lastRead`. -/
def State.withLastRead (s : State) (v : List W64) : State := { s with lastRead := v }
/-- Replace `free`. -/
def State.withFree (s : State) (v : Nat) : State := { s with free := v }

/-! ## Registers -/

/-- The register word at offset `o`. -/
def State.reg (s : State) (o : Nat) : W64 := Tbl.get regReset s.regs o
/-- Replace the register word at offset `o`. -/
def State.setReg (s : State) (o : Nat) (v : W64) : State := (s.withRegs (Tbl.set regReset s.regs o v))
/-- A read begins: nothing is returned yet. -/
def State.beginRead (s : State) : State := (s.withLastRead [])
/-- A read returns the word `v`. -/
def State.ret (s : State) (v : W64) : State := (s.withLastRead (s.lastRead ++ [v]))
/-- The value of a field. -/
def State.f (s : State) (d : Fld) : Nat := bits (s.reg d.ofs).toNat d.lo d.w
/-- Whether a field is nonzero. -/
def State.fb (s : State) (d : Fld) : Bool := decide (s.f d ≠ 0)
/-- Replace a field. -/
def State.setF (s : State) (d : Fld) (n : Nat) : State :=
  s.setReg d.ofs (BitVec.ofNat 64 (putBits (s.reg d.ofs).toNat d.lo d.w n))
/-- Add `n` to a field that saturates. -/
def State.sat (s : State) (d : Fld) (n : Nat) : State := s.setF d (satAdd d.w (s.f d) n)
/-- Add one to a field that saturates. -/
def State.cnt (s : State) (d : Fld) : State := s.sat d 1
/-- Add `n` to a field that wraps. -/
def State.wrapAdd (s : State) (d : Fld) (n : Nat) : State := s.setF d (s.f d + n)
/-- Raise a field that holds a peak. -/
def State.peak (s : State) (d : Fld) (n : Nat) : State := s.setF d (max (s.f d) n)

/-! ## Contexts -/

/-- The context of queue `q` (22-bit extended QID). -/
def State.qctx (s : State) (q : Nat) : QCtx := Tbl.get (fun _ => QCtx.zero) s.q q
/-- Replace a queue context. -/
def State.setQ (s : State) (q : Nat) (c : QCtx) : State := (s.withQ (Tbl.set (fun _ => QCtx.zero) s.q q c))
/-- Change a queue context. -/
def State.updQ (s : State) (q : Nat) (g : QCtx → QCtx) : State := s.setQ q (g (s.qctx q))
/-- The context of completion ring `c` (bit 18 set for an adopted ring). -/
def State.cctx (s : State) (c : Nat) : CqCtx := Tbl.get (fun _ => CqCtx.zero) s.cq c
/-- Replace a completion-ring context. -/
def State.setC (s : State) (c : Nat) (x : CqCtx) : State := (s.withCq (Tbl.set (fun _ => CqCtx.zero) s.cq c x))
/-- Change a completion-ring context. -/
def State.updC (s : State) (c : Nat) (g : CqCtx → CqCtx) : State := s.setC c (g (s.cctx c))
/-- The context of trigger counter `n` (bit 20 set for an adopted counter). -/
def State.ctrOf (s : State) (n : Nat) : Counter := Tbl.get (fun _ => Counter.zero) s.ctr n
/-- Replace a counter. -/
def State.setCtr (s : State) (n : Nat) (x : Counter) : State :=
  (s.withCtr (Tbl.set (fun _ => Counter.zero) s.ctr n x))
/-- The memory region of index `n`. -/
def State.mrOf (s : State) (n : Nat) : Region := Tbl.get (fun _ => Region.zero) s.mr n
/-- Replace a memory region. -/
def State.setMr (s : State) (n : Nat) (x : Region) : State := (s.withMr (Tbl.set (fun _ => Region.zero) s.mr n x))
/-- Whether protection domain `n` exists. -/
def State.pdOf (s : State) (n : Nat) : Bool := Tbl.get (fun _ => false) s.pd n
/-- Replace a domain's existence. -/
def State.setPd (s : State) (n : Nat) (b : Bool) : State := (s.withPd (Tbl.set (fun _ => false) s.pd n b))
/-- Request line `n`. -/
def State.line (s : State) (n : Nat) : Line := Tbl.get (fun _ => Line.zero) s.lines n
/-- Change request line `n`. -/
def State.updLine (s : State) (n : Nat) (g : Line → Line) : State :=
  (s.withLines (Tbl.set (fun _ => Line.zero) s.lines n (g (s.line n))))

/-- The flight of entry `i` of queue `q`. -/
def State.flight? (s : State) (q : Nat) (i : W32) : Option Flight :=
  s.fl.find? (fun f => decide (f.q = q) && decide (f.idx = i))
/-- Change the flight of entry `i` of queue `q`. -/
def State.updFl (s : State) (q : Nat) (i : W32) (g : Flight → Flight) : State :=
  (s.withFl (updWhere (fun f => decide (f.q = q) && decide (f.idx = i)) g s.fl))
/-- Remove the flight of entry `i` of queue `q`. -/
def State.dropFl (s : State) (q : Nat) (i : W32) : State :=
  (s.withFl (s.fl.filter (fun f => !(decide (f.q = q) && decide (f.idx = i)))))
/-- The flights of a queue, in the order they were fetched. -/
def State.flsOf (s : State) (q : Nat) : List Flight := s.fl.filter (fun f => decide (f.q = q))

/-- The stitch of a flight on engine `e`. -/
def Flight.stitch? (f : Flight) (e : Nat) : Option Stitch := f.stitches.find? (fun x => decide (x.eng = e))
/-- The entry and stitch on engine `e`. -/
def State.onEngine (s : State) (e : Nat) : Option (Flight × Stitch) :=
  match s.fl.find? (fun f => (f.stitch? e).isSome) with
  | some f => (f.stitch? e).map (fun x => (f, x))
  | none => none

/-- Present something at the boundary. -/
def State.emit (s : State) (o : Out) : State := (s.withOut (s.out ++ [o]))

/-- Apply an operation for each element of a list, in order. -/
def forEach {α : Type} (l : List α) (g : α → State → State) (s : State) : State := l.foldl (fun s x => g x s) s

/-! ## Phases and identity -/

/-- PAT_STAT.phase (11_pattern_and_startup.md). -/
def State.phase (s : State) : Nat := s.f PAT_STAT_phase
/-- Phase RUN. -/
def State.run (s : State) : Bool := decide (s.phase = 7)
/-- Phase HALTED. -/
def State.halted (s : State) : Bool := decide (s.phase = 8)
/-- Registers are served: from step 2 of R339 on (R441). -/
def State.served (s : State) : Bool := decide (s.phase ≠ 0)
/-- The level of PAIR_ROLE. -/
def State.role (s : State) : Bool := s.fb PAIR_STAT_role
/-- Mover Time. -/
def State.mt (s : State) : W64 := s.tb.mt
/-- Mover Time stamped in domain `d` (R148). -/
def State.mtIn (s : State) (d : Nat) : W64 := s.tb.mt - BitVec.ofNat 64 (domOfs d)

/-- An extended QID names an adopted queue (R347). -/
def isAdopted (q : Nat) : Bool := bit q 21
/-- The completion ring that a queue's `cqid` field names: an adopted queue names an adopted ring (R347, R371). -/
def ringOf (q cqid : Nat) : Nat := cqid + (if isAdopted q then 2 ^ 18 else 0)
/-- The counter that an entry of `q` names by index `n` (R207). -/
def ctrIdx (q n : Nat) : Nat := n + (if isAdopted q then 2 ^ 20 else 0)

/-! ## Channels of the shared resources (R259, R260) -/

/-- Key of a channel, and of a rank's round-robin place. -/
def arbKey (res c : Nat) : Nat := res * 32 + c
/-- The owner of channel `c` of resource `res`. -/
def State.ownerOf (s : State) (res c : Nat) : Option Owner := Tbl.get (fun _ => none) s.arb.own (arbKey res c)
/-- Set the owner of a channel. -/
def State.setOwner (s : State) (res c : Nat) (o : Option Owner) : State :=
  (s.withArb { s.arb with own := Tbl.set (fun _ => none) s.arb.own (arbKey res c) o })
/-- Requester `req` owns a channel of resource `res` (R260). -/
def State.holds (s : State) (res req : Nat) : Bool :=
  s.arb.own.any (fun x => decide (x.1 / 32 = res) && (match x.2 with | some o => decide (o.req = req) | none => false))
/-- It may issue a burst there: it owns a channel that no take waits for. A victim issues nothing past its next break point (R259,
R268). -/
def State.owns (s : State) (res req : Nat) : Bool :=
  s.arb.own.any (fun x => decide (x.1 / 32 = res)
    && (match x.2 with | some o => decide (o.req = req) && o.take.isNone | none => false))
/-- A burst of a requester on a resource returns the idle count of its channel to zero (R269). -/
def State.arbBusy (s : State) (res req : Nat) : State :=
  (s.withArb { s.arb with own := s.arb.own.map (fun x => match x.2 with
    | some o => if x.1 / 32 = res ∧ o.req = req then (x.1, some { o with idle := 0 }) else x
    | none => x) })
/-- A read of FETCH or CCACHE is out on a resource (R264). -/
def State.isOut (s : State) (res : Nat) (w : SentRead) : Bool := decide ((res, w) ∈ s.arb.sent)
/-- It has come back. -/
def State.backRead (s : State) (res : Nat) (w : SentRead) : State :=
  (s.withArb { s.arb with sent := s.arb.sent.filter (fun x => !decide (x = (res, w))) })
/-- The resource that an access to a space uses: the host port `p` for space 0, MEMP for space 1, NETP for space 2 (R259). -/
def portRes (space p : Nat) : Nat := if space = 0 then p % 2 else if space = 1 then 3 else 2
/-- Resource numbers of the context store and of the Lace transmitter (R259). -/
def resCstore : Nat := 6
def resLace : Nat := 5

/-! ## Memory (R436 to R450) -/

/-- Check byte column of data bit `i` (R448). -/
def eccCol (i : Nat) : Nat :=
  let pop (v : Nat) : Nat := ((List.range 8).filter (bit v)).length
  (((List.range 256).filter (fun v => decide (pop v = 3))).take 56
    ++ ((List.range 256).filter (fun v => decide (pop v = 5))).take 8).getD i 0

/-- The check byte of an 8-byte word (R448). -/
def eccByte (w : Nat) : Nat := ((List.range 64).filter (bit w)).foldl (fun a i => a ^^^ eccCol i) 0

/-- What the decoder makes of a stored word (R448). -/
inductive WordRead where
  | sound
  | corrected (flip : Option Nat)
  | poisoned
  | bad
  deriving DecidableEq, Repr

/-- Judge a syndrome (R448). -/
def judgeSyn (y : Nat) : WordRead :=
  if y = 0 then .sound
  else if y = 0xFF then .poisoned
  else if ((List.range 8).any (fun j => decide (y = 2 ^ j))) then .corrected none
  else match firstIdx (fun i => decide (eccCol i = y)) (List.range 64) 0 with
    | some i => .corrected (some i)
    | none => .bad

/-- A byte of in-package memory as stored. -/
def State.pkgByte (s : State) (a : Nat) : Byte := Tbl.get (fun _ => 0) s.mem.pkg a
/-- The syndrome of the 8-byte word that holds address `a`. -/
def State.synOf (s : State) (a : Nat) : Nat := (Tbl.get (fun _ => 0#8) s.mem.syn (a / 8)).toNat
/-- The stored word at word index `k`. -/
def State.pkgWord (s : State) (k : Nat) : Nat := leNat ((List.range 8).map (fun j => s.pkgByte (8 * k + j)))
/-- A byte of in-package memory after single-bit correction (R214). -/
def State.pkgFixed (s : State) (a : Nat) : Byte :=
  match judgeSyn (s.synOf a) with
  | .corrected (some i) => if i / 8 = a % 8 then s.pkgByte a ^^^ BitVec.ofNat 8 (2 ^ (i % 8)) else s.pkgByte a
  | _ => s.pkgByte a
/-- A word of in-package memory reads poisoned or uncorrectable (R220, R448). -/
def State.wordBad (s : State) (k : Nat) : Bool :=
  match judgeSyn (s.synOf (8 * k)) with
  | .poisoned | .bad => true
  | _ => false
/-- A word of in-package memory is corrected on a read. -/
def State.wordFixed (s : State) (k : Nat) : Bool :=
  match judgeSyn (s.synOf (8 * k)) with
  | .corrected _ => true
  | _ => false

/-- The word indices that [a, a + n) touches. -/
def wordsOf (a n : Nat) : List Nat := if n = 0 then [] else (List.range ((a + n - 1) / 8 - a / 8 + 1)).map (· + a / 8)

/-- Outside the in-package memory that the T7 reports (R450). -/
def State.pkgOut (s : State) (a n : Nat) : Bool := decide (0 < n) && decide (s.memSize.toNat < a + n)

/-- Bytes of in-package memory, corrected. -/
def State.pkgBytes (s : State) (a n : Nat) : List Byte := (List.range n).map (fun j => s.pkgFixed (a + j))
/-- A read of [a, a + n) returns a poisoned or uncorrectable word. -/
def State.pkgBad (s : State) (a n : Nat) : Bool := (wordsOf a n).any s.wordBad
/-- Words of [a, a + n) that a read corrects. -/
def State.pkgFixes (s : State) (a n : Nat) : Nat := ((wordsOf a n).filter s.wordFixed).length
/-- Count a MEMP read in IZ_MEMP_STAT (R470). -/
def State.memStat (s : State) (a n : Nat) : State :=
  (s.sat IZ_MEMP_STAT_corrected (s.pkgFixes a n)).sat IZ_MEMP_STAT_uncorrectable ((wordsOf a n).filter s.wordBad).length

/-- Every memory image is in canonical form. -/
def Memory.wf (m : Memory) : Bool :=
  Tbl.wf (fun _ => 0) m.host && Tbl.wf (fun _ => false) m.hpoison && Tbl.wf (fun _ => 0) m.pkg
    && Tbl.wf (fun _ => 0) m.syn && Tbl.wf (fun _ => 0xFF) m.flash

/-- Write one byte of in-package memory as it stands. -/
def State.putPkg (s : State) (a : Nat) (b : Byte) : State :=
  (s.withMem { s.mem with pkg := Tbl.set (fun _ => 0) s.mem.pkg a b })
/-- Set the syndrome of a word. -/
def State.putSyn (s : State) (k y : Nat) : State :=
  (s.withMem { s.mem with syn := Tbl.set (fun _ => 0#8) s.mem.syn k (BitVec.ofNat 8 y) })

/-- Write consecutive bytes of in-package memory as they stand. -/
def State.putPkgs (s : State) : Nat → List Byte → State
  | _, [] => s
  | a, b :: r => (s.putPkg a b).putPkgs (a + 1) r

/-- The part of a MEMP write that falls in one word: a whole word gets a fresh check byte; part of a word is a merge
(R447, R449). -/
def State.writeWord (s : State) (a : Nat) (b : List Byte) (poison : Bool) : State :=
  let k := a / 8
  if b.length = 8 then (s.putPkgs a b).putSyn k (if poison then 0xFF else 0)
  else
    let fixed := s.pkgBytes (8 * k) 8
    let bad := s.wordBad k
    let s := s.memStat (8 * k) 8
    let s := if bad then s.cnt IZ_MEMP_STAT_merge_poison else s
    ((s.putPkgs (8 * k) fixed).putPkgs a b).putSyn k (if poison || bad then 0xFF else 0)

/-- A MEMP write, word by word. The first argument bounds the number of words. -/
def State.pkgWrite : Nat → State → Nat → List Byte → Bool → State
  | 0, s, _, _, _ => s
  | n + 1, s, a, b, poison =>
    if b.isEmpty then s
    else
      let m := 8 - a % 8
      State.pkgWrite n (s.writeWord a (b.take m) poison) (a + m) (b.drop m) poison

/-- Write in-package memory. -/
def State.writePkg (s : State) (a : Nat) (b : List Byte) (poison : Bool) : State :=
  s.pkgWrite (b.length / 8 + 2) a b poison

/-- The key of a host byte: an address under a PASID, or under none (R64, R302). -/
def hostKey (pasid : Option Nat) (a : Nat) : Nat :=
  a % 2 ^ 64 + (match pasid with | none => 0 | some p => 2 ^ 64 * (p + 1))

/-- A byte of host memory. -/
def State.hostByte (s : State) (p : Option Nat) (a : Nat) : Byte := Tbl.get (fun _ => 0) s.mem.host (hostKey p a)
/-- Bytes of host memory. -/
def State.hostBytes (s : State) (p : Option Nat) (a n : Nat) : List Byte :=
  (List.range n).map (fun j => s.hostByte p (a + j))
/-- The 32-byte beat that holds address `a` is marked poisoned. -/
def State.beatBad (s : State) (p : Option Nat) (a : Nat) : Bool :=
  Tbl.get (fun _ => false) s.mem.hpoison (hostKey p a / 32)
/-- A read of [a, a + n) returns a poisoned beat (R440). -/
def State.hostBad (s : State) (p : Option Nat) (a n : Nat) : Bool :=
  (List.range n).any (fun j => s.beatBad p (a + j))
/-- Write one byte of host memory. -/
def State.putHost (s : State) (p : Option Nat) (a : Nat) (b : Byte) : State :=
  (s.withMem { s.mem with host := Tbl.set (fun _ => 0) s.mem.host (hostKey p a) b })
/-- Mark a beat. -/
def State.putBeat (s : State) (p : Option Nat) (a : Nat) (bad : Bool) : State :=
  (s.withMem { s.mem with hpoison := Tbl.set (fun _ => false) s.mem.hpoison (hostKey p a / 32) bad })
/-- Write consecutive host bytes: a poisoned write marks every beat it touches, a sound write clears every beat it covers
whole (R219, R220, R440). -/
def State.writeHost (s : State) (p : Option Nat) (a : Nat) (b : List Byte) (poison : Bool) : State :=
  let s := ((List.range b.length).zip b).foldl (fun s x => s.putHost p (a + x.1) x.2) s
  let beats := ((List.range (b.length + 31)).filter (fun j => decide ((a + j) % 32 = 0) && decide (j + 32 ≤ b.length)))
  if poison then (List.range b.length).foldl (fun s j => s.putBeat p (a + j) true) s
  else beats.foldl (fun s j => s.putBeat p (a + j) false) s

/-- The PASID of a queue's host accesses (R18). -/
def QCtx.pasidOf (c : QCtx) : Option Nat := if c.pasidValid then some c.pasid else none

/-- The host port of a queue's accesses. -/
def QCtx.port (c : QCtx) : Nat := b2n c.hostpSel

/-- Read one burst of a side: space 0 is host memory under `p`, space 1 in-package memory. -/
def State.readBytes (s : State) (space : Nat) (p : Option Nat) (a n : Nat) : List Byte :=
  if space = 0 then s.hostBytes p a n else s.pkgBytes a n
/-- Whether that read returns poisoned or uncorrectable data. -/
def State.readBad (s : State) (space : Nat) (p : Option Nat) (a n : Nat) : Bool :=
  if space = 0 then s.hostBad p a n else s.pkgBad a n
/-- Write one burst of a side. -/
def State.writeBytes (s : State) (space : Nat) (p : Option Nat) (a : Nat) (b : List Byte) (poison : Bool) : State :=
  if space = 0 then s.writeHost p a b poison else s.writePkg a b poison

/-! ## The context store's layout, and blocks of the background clear (R330, R340, R341) -/

/-- Offset of a context in the context store or the mirror area, which are laid out alike (R330, R346). -/
def ctxOffset (k : CtxKind) (n : Nat) : Nat :=
  match k with
  | .queue => n % 2 ^ 21 * 128
  | .ring => 0x10000000 + n % 2 ^ 18 * 64
  | .counter => 0x11000000 + n % 2 ^ 20 * 16
/-- Offset of 64-byte unit `u` of the Lace replay spill in the context store (R330, R401). -/
def replayOffset (u : Nat) : Nat := 0x12000000 + u % 262144 * 64
/-- Offset of record slot `n` of the error log queue (R330, R411). -/
def errOffset (n : Nat) : Nat := 0x13000000 + n % 4096 * 32
/-- Offset of entry `n` of the park spill (R200, R330). -/
def parkOffset (n : Nat) : Nat := 0x13020000 + n % 65536 * 64
/-- Offset of record slot `n` of the trace ring (R151, R330). -/
def traceOffset (n : Nat) : Nat := 0x13420000 + n % 262144 * 32

/-- Blocks of the context store and of the region table. -/
def clearBlocks : Nat := 5632
/-- The block of the context store at offset `o`. -/
def storeBlock (o : Nat) : Nat := o / 65536
/-- The block of region `i`. -/
def regionBlock (i : Nat) : Nat := 5120 + i * 32 / 65536
/-- The next block in address order. -/
def State.clearNext (s : State) : Nat := s.f PAT_CLEAR_blocks - s.pat.early.length
/-- The address of a block (R340). -/
def State.blockAddr (s : State) (n : Nat) : Nat :=
  if n < 5120 then s.pat.csBase + 65536 * n else s.pat.mrBase + 65536 * (n - 5120)
/-- Every byte of the block reads zero with valid ECC; those of the error log queue are kept after a soft reset (R340, R342). -/
def State.wipe (s : State) (n : Nat) : State :=
  let a := s.blockAddr n
  let inB (k : Nat) : Bool := decide (a ≤ k) && decide (k < a + 65536)
  if s.pat.bySoft && decide (storeBlock (errOffset 0) ≤ n) && decide (n ≤ storeBlock (errOffset 4095)) then s
  else s.withMem { s.mem with pkg := s.mem.pkg.filter (fun x => !inB x.1), syn := s.mem.syn.filter (fun x => !inB (8 * x.1)) }
/-- A write into block `n` clears it out of turn first (R341). -/
def State.touchBlock (s : State) (n : Nat) : State :=
  if s.fb PAT_STAT_clearing && decide (s.clearNext ≤ n) && decide (n ∉ s.pat.early) then
    let s := (s.wipe n).wrapAdd PAT_CLEAR_blocks 1
    s.withPat { s.pat with early := n :: s.pat.early }
  else s

/-! ## Hallmarks and the trace ring (R147, R151, R152) -/

/-- The two words of a hallmark (R147). -/
def State.hallmark (s : State) (mt : W64) (seq : W32) (item kind dom : Nat) : List W64 :=
  [mt, BitVec.ofNat 64 (seq.toNat + item % 2 ^ 22 * 2 ^ 32 + kind * 2 ^ 54 + b2n s.role * 2 ^ 58
    + s.f TB_STAT_holdover * 2 ^ 59 + dom * 2 ^ 60)]

/-- The last two words of a trace or error record (R152, R412). -/
def eventWords (code b17 aux arg32 arg64 : Nat) : List W64 :=
  [BitVec.ofNat 64 (code + b17 * 2 ^ 8 + aux % 2 ^ 16 * 2 ^ 16 + arg32 % 2 ^ 32 * 2 ^ 32), BitVec.ofNat 64 arg64]

/-- Records the trace ring holds. -/
def traceCap : Nat := 262144

/-- Write a trace record of an event in clock domain `dom` when trace is on and mask bit `m` is set (R151, R152). Its
hallmark's item is the unit, and a record dropped for want of room uses a sequence number too (log entry 22). -/
def State.traceIn (s : State) (dom m code unit aux arg32 arg64 : Nat) : State :=
  if s.fb TB_TRACE_CFG_on && bit (s.f TB_TRACE_CFG_mask) m then
    let r := s.hallmark (s.mtIn dom) s.trace.seq unit 3 dom ++ eventWords code unit aux arg32 arg64
    let t := { s.trace with seq := s.trace.seq + 1 }
    if s.trace.recs.length < traceCap then
      (s.touchBlock (storeBlock (traceOffset (s.f TB_TRACE_PI_pi + t.recs.length)))).withTrace { t with recs := t.recs ++ [r] }
    else State.cnt (s.withTrace t) TB_TRACE_LOST_lost
  else s

/-- A trace record of an event in CORE_CLK. -/
def State.traceEv (s : State) (m code unit aux arg32 arg64 : Nat) : State := s.traceIn 0 m code unit aux arg32 arg64

/-! ## Interrupt sources (10_interrupt_controller.md) -/

/-- Pending bit of source `n`. -/
def State.pend (s : State) (n : Nat) : Bool := bit (s.f (IC_PEND_pend (n / 64))) (n % 64)
/-- Set or clear the pending bit of source `n`. -/
def State.setPend (s : State) (n : Nat) (b : Bool) : State :=
  s.setF ⟨IC_PEND (n / 64), n % 64, 1⟩ (b2n b)
/-- The target source `n` is routed to. -/
def State.srcTgt (s : State) (n : Nat) : Nat := s.f (IC_SRC_CFG_target n)
/-- Mask bit of source `n` at its target. -/
def State.masked (s : State) (n : Nat) : Bool := bit (s.f (IC_MASK_mask (s.srcTgt n) (n / 64))) (n % 64)
/-- Source `n` is claimed and not yet ended. -/
def State.srcActive (s : State) (n : Nat) : Bool := s.fb (IC_CNT_active n)
/-- The pushed entries of target `t`, top first. -/
def State.stack (s : State) (t : Nat) : List (Nat × Nat) := Tbl.get (fun _ => []) s.ic.stk t
/-- Replace the stack of target `t`. -/
def State.setStack (s : State) (t : Nat) (l : List (Nat × Nat)) : State :=
  (s.withIc { s.ic with stk := Tbl.set (fun _ => []) s.ic.stk t l })
/-- Running priority of target `t` (R293). -/
def State.running (s : State) (t : Nat) : Nat :=
  match s.stack t with
  | [] => s.f (IC_TGT_CFG_thresh t)
  | x :: _ => x.2
/-- Source `n` signals at its target (R294). -/
def State.signals (s : State) (n : Nat) : Bool :=
  s.pend n && !s.masked n && !s.srcActive n && decide (s.running (s.srcTgt n) < s.f (IC_SRC_CFG_prio n))

/-- Outputs have started and have not stopped (R308, R339). -/
def State.outputsOn (s : State) : Bool := s.run

/-- Issue the host message of source `n`: a posted 4-byte write without PASID, which lands as its port takes it (R302). It follows
what its port has carried (R303). -/
def State.sendMsg (s : State) (n : Nat) : State :=
  let v := s.f (IC_SRC_CFG_vector n)
  let h := s.f (IC_VEC_DATA_hostp v)
  let a := s.f (IC_VEC_ADDR_addr v) * 4
  let d := s.f (IC_VEC_DATA_data v)
  let m : HostMsg := { src := n, vector := v, hostp := decide (h = 1), addr := a, data := d, landed := false, old := [] }
  let s := s.withIc { s.ic with owed := s.ic.owed.filter (fun x => !decide (x = (n, h))),
                                msgs := s.ic.msgs.filter (fun x => decide (x.src ≠ n)) ++ [m] }
  (s.emit (.hostMessage m.hostp a d v)).wrapAdd IC_MSG_STAT_sent 1

/-- The posted write of a host message lands in host memory (R302). -/
def State.landMsg (s : State) (m : HostMsg) : State :=
  let old := s.hostBytes none m.addr 4
  (s.writeHost none m.addr (leBytes 4 m.data) false).withIc { s.ic with
    msgs := s.ic.msgs.map (fun x => if x = m then { m with landed := true, old := old } else x) }
/-- The writes of the messages that have left land, in the order in which they left. -/
def State.landMsgs (s : State) : State := forEach (s.ic.msgs.filter (fun m => !m.landed)) (fun m s => s.landMsg m) s

/-- A flushing read is owed before the message of source `n`: the writes it must follow went through port `p`, which is not its
own (R303). -/
def State.owedFlush (s : State) (n : Nat) : Option (Nat × Nat) :=
  s.ic.owed.find? (fun x => decide (x.1 = n) && decide (x.2 ≠ s.f (IC_VEC_DATA_hostp (s.f (IC_SRC_CFG_vector n)))))

/-- The message of source `n` leaves, or is held for a flushing read of the other port, which goes out in the next CORE_CLK cycle in
which that port has room for it (R302, R303, R437). -/
def State.leaveMsg (s : State) (n : Nat) : State :=
  let s := s.setF (IC_CNT_sent n) 1
  match s.owedFlush n with
  | some x =>
    s.withIc { s.ic with owed := s.ic.owed.filter (fun y => !decide (y = x)), held := s.ic.held ++ [x], unread := s.ic.unread ++ [x] }
  | none => s.sendMsg n

/-- Source `n` signals no more: a message that is held is given up, and its flushing read is owed again (R302, R303). -/
def State.endSignal (s : State) (n : Nat) : State :=
  let mine := s.ic.held.filter (fun x => decide (x.1 = n))
  (s.withIc { s.ic with live := s.ic.live.filter (fun x => decide (x.1 ≠ n)), owed := s.ic.owed ++ mine,
                        held := s.ic.held.filter (fun x => decide (x.1 ≠ n)),
                        unread := s.ic.unread.filter (fun x => decide (x.1 ≠ n)) }).setF (IC_CNT_sent n) 0

/-- Judge the host message of source `n` (R302, order 5 of R298): it is sent when the source begins to signal at its target, and
sent clears when the source stops signalling. -/
def State.judgeMsg (s : State) (n : Nat) : State :=
  if s.signals n then
    if s.outputsOn && decide ((n, s.srcTgt n) ∉ s.ic.live) then
      let s := s.withIc { s.ic with live := s.ic.live.filter (fun x => decide (x.1 ≠ n)) ++ [(n, s.srcTgt n)] }
      if decide (4 ≤ s.srcTgt n) && s.fb (IC_SRC_CFG_msg_en n) && !s.fb (IC_CNT_sent n) then s.leaveMsg n else s
    else s
  else if s.fb (IC_CNT_sent n) || s.ic.live.any (fun x => decide (x.1 = n)) then s.endSignal n
  else s

/-- Sources that any listed register of the controller concerns: those with a count word, and those of listed pending
words. Every other source has count 0, is not pending and has no message outstanding. -/
def State.liveSrcs (s : State) : List Nat :=
  s.regs.flatMap (fun x =>
    if 0x44000 ≤ x.1 ∧ x.1 < 0x46000 then [(x.1 - 0x44000) / 8]
    else if 0x40100 ≤ x.1 ∧ x.1 < 0x40180 then (List.range 64).map (· + (x.1 - 0x40100) / 8 * 64)
    else [])

/-- Judge the messages of every source after a change of masks, stacks or routing. -/
def State.judgeAll (s : State) : State :=
  let l := s.liveSrcs
  forEach (l ++ (s.ic.live.map (·.1)).filter (fun n => decide (n ∉ l))) (fun n s => s.judgeMsg n) s

/-- Add one event to source `n` below storm handling (R289, R291). -/
def State.addEvent (s : State) (n : Nat) : State :=
  let s := s.setF (IC_CNT_count n) (s.f (IC_CNT_count n) + 1)
  if s.srcActive n then s else s.setPend n true

/-- The storm of source `n` (R290), without the raise of source 54. -/
def State.storm (s : State) (n : Nat) : State :=
  let s := (s.cnt IC_STORM_count).setF IC_STORM_last_src n
  let s := s.setF ⟨IC_STORM_SRC (n / 64), n % 64, 1⟩ 1
  if s.fb (IC_SRC_CFG_storm_mask n) then s.setF ⟨IC_MASK (s.srcTgt n) (n / 64), n % 64, 1⟩ 1 else s

/-- One event on source `n` that makes no storm (R289, R290). -/
def State.event1 (s : State) (n : Nat) : State :=
  if s.f (IC_CNT_count n) = 255 then s.cnt IC_STORM_dropped else s.addEvent n

/-- The message that source `n` sends next follows the writes issued on port `flush`, if one is given (R303). -/
def State.owe (s : State) (n : Nat) (flush : Option Nat) : State :=
  match flush with
  | some p => s.withIc { s.ic with owed := addNew s.ic.owed (n, p) }
  | none => s

/-- One event on source `n` (R289 to R291): counts, pending bits and storm masks first, then the messages (R298). `flush` is the host
port that carried the records which the event counts (R303). Source 0 is never raised. -/
def State.raiseVia (s : State) (flush : Option Nat) (n : Nat) : State :=
  if n = 0 then s
  else
    let s := s.owe n flush
    if s.f (IC_CNT_count n) = 254 ∧ n ≠ 54 then ((((s.addEvent n).storm n).event1 54).judgeMsg n).judgeMsg 54
    else (s.event1 n).judgeMsg n

/-- One event on source `n`. -/
def State.raise (s : State) (n : Nat) : State := s.raiseVia none n

/-! ## The error log (R411 to R416) -/

/-- Set ERR_FIRST[c] (R416). -/
def State.setFirst (s : State) (c : Nat) (r : List W64) : State :=
  (List.range 4).foldl (fun s w => s.setReg (ERR_FIRST c w) (r.getD w 0)) s

/-- Records in the error log queue: PI less CI (R414, R415). -/
def State.logLevel (s : State) : Nat := idxDiff (BitVec.ofNat 32 (s.f ERR_LOG_PI_pi)) (BitVec.ofNat 32 (s.f ERR_LOG_CI_ci))
/-- The error log queue is full (R414). -/
def State.logFull (s : State) : Bool := decide (s.logLevel = 4096)

/-- ELOG reaches the context store: it owns a channel of CSTORE, and no hard halt is in force (R260, R261, R418). -/
def State.elogOpen (s : State) : Bool := s.owns resCstore 77 && !s.pair.hard

/-- Write a record into the error log queue, or drop it when the queue is full (R411, R414). -/
def State.putLog (s : State) (r : List W64) : State :=
  if s.logFull then s.cnt ERR_LOG_STAT_lost
  else
    let s := (s.touchBlock (storeBlock (errOffset (s.f ERR_LOG_PI_pi)))).arbBusy resCstore 77
    let s := s.withErr { s.err with log := Tbl.set (fun _ => []) s.err.log (s.f ERR_LOG_PI_pi % 4096) r }
    (s.wrapAdd ERR_LOG_PI_pi 1).raise 44

/-- Record `x` goes before `y` among those of one CORE_CLK cycle: by class, highest first, then by code and then by item (R411). -/
def LogRec.before (x y : LogRec) : Bool :=
  decide (y.cls < x.cls) || (decide (x.cls = y.cls)
    && (decide (x.code < y.code) || (decide (x.code = y.code) && decide (x.item < y.item))))

/-- Put a record into its place among those of its cycle, behind its equals. -/
def LogRec.place (r : LogRec) : List LogRec → List LogRec
  | [] => [r]
  | x :: l => if r.before x then r :: x :: l else x :: r.place l

/-- The words of a record with its sequence number (R147, R412). -/
def LogRec.seal (r : LogRec) (seq : W32) : List W64 :=
  match r.words with
  | m :: h :: l => m :: BitVec.ofNat 64 (h.toNat + seq.toNat) :: l
  | l => l

/-- The sequence number of the first record of the cycle under way. -/
def State.nowSeq (s : State) : W32 := s.err.seq - BitVec.ofNat 32 s.err.now.length

/-- The records of the cycle under way, sealed in their order. -/
def State.sealedNow (s : State) : List (List W64) :=
  s.err.now.zipIdx.map (fun x => x.1.seal (s.nowSeq + BitVec.ofNat 32 x.2))

/-- The record of class `c` that is first in its cycle. -/
def State.firstNow (s : State) (c : Nat) : List W64 :=
  match s.err.now.zipIdx.find? (fun x => decide (x.1.cls = c)) with
  | some x => x.1.seal (s.nowSeq + BitVec.ofNat 32 x.2)
  | none => []

/-- The cycle of the records under way is over: they wait for ELOG behind those of earlier cycles (R411). -/
def State.rollLog (s : State) : State :=
  s.withErr { s.err with wait := s.err.wait ++ s.sealedNow, now := [], nowAt := s.tb.cycle, fresh := [],
                         chk := s.err.chk.filter (fun x => decide (x.cycle = s.tb.cycle)) }

/-- The first-error capture of class `c` on a record of this cycle (R416): a free one takes the record, and one that holds a record of this
very cycle takes the first of the class in the order of R411. -/
def State.capture (s : State) (c : Nat) (r : LogRec) : State :=
  let s := (s.cnt (ERR_COUNT_count c))
  if bit (s.f ERR_FIRST_VALID_valid) c then
    let s := s.setF ⟨ERR_FIRST_VALID, 8 + c, 1⟩ 1
    if c ∈ s.err.fresh then s.setFirst c (s.firstNow c) else s
  else
    let n := s.err.now.idxOf r
    let s := s.withErr { s.err with fresh := c :: s.err.fresh }
    (s.setFirst c (r.seal (s.nowSeq + BitVec.ofNat 32 n))).setF ⟨ERR_FIRST_VALID, c, 1⟩ 1

/-- Make an error log record (R411, R412, R416): it takes its place among the records of its CORE_CLK cycle and is captured at once. ELOG
writes it in a later cycle, when it owns a channel of CSTORE (R260, R261); nothing in a hard halt (R418). -/
def State.logIn (s : State) (dom code cls item aux arg32 arg64 : Nat) : State :=
  if s.pair.hard then s
  else
    let s := if s.err.nowAt = s.tb.cycle then s else s.rollLog
    let r : LogRec := { cls := cls, code := code, item := item,
                        words := s.hallmark (s.mtIn dom) 0 item 1 dom ++ eventWords code cls aux arg32 arg64 }
    (s.withErr { s.err with seq := s.err.seq + 1, now := r.place s.err.now }).capture cls r

/-- An error log record of a fault detected in CORE_CLK. -/
def State.log (s : State) (code cls item aux arg32 arg64 : Nat) : State := s.logIn 0 code cls item aux arg32 arg64

/-- ELOG writes the records of earlier cycles, oldest first (R411). -/
def State.flushLog (s : State) : State :=
  let s := if s.err.now = [] ∨ s.err.nowAt = s.tb.cycle then s else s.rollLog
  forEach s.err.wait (fun r s => s.putLog r) (s.withErr { s.err with wait := [] })

/-- Word `w` of the record at CI: zero when there is none, and in a hard halt (R414, R418). -/
def State.errWord (s : State) (w : Nat) : W64 :=
  if s.pair.hard ∨ s.f ERR_LOG_CI_ci = s.f ERR_LOG_PI_pi then 0
  else (Tbl.get (fun _ => []) s.err.log (s.f ERR_LOG_CI_ci % 4096)).getD w 0

/-- What a read of bits [lo, lo + n) of a log word returns. -/
def State.errBits (s : State) (x : Nat × Nat × Nat) : W64 := BitVec.ofNat 64 (bits (s.errWord x.1).toNat x.2.1 x.2.2)

/-- A read by agent `a` of bits [lo, lo + n) of word `w` of the oldest record: answered through CSTORE, as soon as ELOG owns a
channel, or at once with zero in a hard halt (R273, R414, R418). -/
def State.readErrWord (s : State) (a : Option Agent) (w lo n : Nat) : State :=
  if s.pair.hard then s.ret 0
  else if s.elogOpen && s.err.reads.isEmpty then State.ret (s.arbBusy resCstore 77) (s.errBits (w, lo, n))
  else s.withErr { s.err with reads := s.err.reads ++ [(a, w, lo, n)] }

/-- ELOG has a channel of CSTORE: records that waited are written, and reads that waited are answered (R261, R273). -/
def State.serveElog (s : State) : State :=
  if s.elogOpen then
    let l := s.err.reads
    forEach l (fun x s => State.ret (s.arbBusy resCstore 77) (s.errBits x.2)) (State.flushLog (s.withErr { s.err with reads := [] }))
  else s

/-! ## Reserved areas (R330, R331, R346) -/

/-- Whether [a, a + n) touches [b, b + m). -/
def overlaps (a n b m : Nat) : Bool := decide (0 < n) && decide (0 < m) && decide (a < b + m) && decide (b < a + n)

/-- Size of the context store. -/
def csSize : Nat := 320 * 2 ^ 20
/-- Size of the memory-region table. -/
def mrSize : Nat := 32 * 2 ^ 20
/-- Size of the mirror area. -/
def mirrorSize : Nat := 294 * 2 ^ 20
/-- Base of the mirror area; 0 when there is none. -/
def State.mirrorBase (s : State) : Nat := s.f PAIR_MIRROR_BASE_base * 2 ^ 21

/-- Whether [a, a + n) touches a reserved area: the context store, the region table or the mirror area. -/
def State.reserved (s : State) (a n : Nat) : Bool :=
  decide (7 ≤ s.phase) &&
    (overlaps a n s.pat.csBase csSize || overlaps a n s.pat.mrBase mrSize
      || (decide (s.mirrorBase ≠ 0) && overlaps a n s.mirrorBase mirrorSize))

/-- How a command that cannot occur in this state ends: nothing changes (log entry 4). -/
def guarded (b : Bool) (s t : State) : Res := .next (if b then t else s)

end Sys2Proof.Machine
end

