-- ==== Sys2Proof/Machine/Phys.lean ====
section
/-!
DEFINITION. The Lace lanes (13_lace_link.md R377 to R390): the 8b/10b code of a lane, stripes, training and idle ordered sets, the
PRBS generators and checkers, and what a receive lane counts as a symbol error.
-/
namespace Sys2Proof.Machine

/-! ## Symbols (R380, R384) -/

/-- A data symbol. -/
def dsym (b : Nat) : Sym := { k := false, b := BitVec.ofNat 8 b }
/-- A control symbol. -/
def ksym (b : Nat) : Sym := { k := true, b := BitVec.ofNat 8 b }
/-- K28.5. -/
def symCom : Sym := ksym 0xBC
/-- K28.1. -/
def symAln : Sym := ksym 0x3C
/-- K28.0. -/
def symIdl : Sym := ksym 0x1C
/-- K23.7. -/
def symPad : Sym := ksym 0xF7
/-- K27.7. -/
def symStart : Sym := ksym 0xFB
/-- K28.3. -/
def symRtb : Sym := ksym 0x7C
/-- The control symbols of R380. -/
def listedSyms : List Sym := [symCom, symAln, symIdl, symPad, symStart, symRtb]

/-! ## 8b/10b (R377; the tables of IEEE 802.3 Clause 36, log entry 37) -/

/-- The 5b/6b code of D.x at negative running disparity, first bit highest. -/
def code6 (x : Nat) : Nat :=
  [0b100111, 0b011101, 0b101101, 0b110001, 0b110101, 0b101001, 0b011001, 0b111000, 0b111001, 0b100101, 0b010101, 0b110100,
   0b001101, 0b101100, 0b011100, 0b010111, 0b011011, 0b100011, 0b010011, 0b110010, 0b001011, 0b101010, 0b011010, 0b111010,
   0b110011, 0b100110, 0b010110, 0b110110, 0b001110, 0b101110, 0b011110, 0b101011].getD x 0
/-- The 3b/4b code of D.x.y at negative running disparity; y = 7 in its primary form. -/
def code4 (y : Nat) : Nat := [0b1011, 0b1001, 0b0101, 0b1100, 0b1101, 0b1010, 0b0110, 0b1110].getD y 0
/-- The 3b/4b code of K.x.y at negative running disparity. -/
def codeK4 (y : Nat) : Nat := [0b1011, 0b0110, 0b1010, 0b1100, 0b1101, 0b0101, 0b1001, 0b0111].getD y 0

/-- Ones among the low `n` bits. -/
def ones (n v : Nat) : Nat := ((List.range n).filter (bit v)).length

/-- Running disparity after a 6-bit sub-block, true positive. -/
def disp6 (rd : Bool) (v : Nat) : Bool :=
  let n := ones 6 v
  if 3 < n ∨ v = 0b000111 then true else if n < 3 ∨ v = 0b111000 then false else rd
/-- Running disparity after a 4-bit sub-block. -/
def disp4 (rd : Bool) (v : Nat) : Bool :=
  let n := ones 4 v
  if 2 < n ∨ v = 0b0011 then true else if n < 2 ∨ v = 0b1100 then false else rd
/-- Running disparity after a code group. -/
def dispAfter (rd : Bool) (g : Nat) : Bool := disp4 (disp6 rd (g / 16)) (g % 16)

/-- The 6-bit sub-block of a symbol. -/
def enc6 (rd : Bool) (c : Sym) : Nat :=
  let x := c.b.toNat % 32
  let v := if c.k ∧ x = 28 then 0b001111 else code6 x
  if rd && (decide (ones 6 v ≠ 3) || decide (x = 7)) then 63 - v else v
/-- The 4-bit sub-block of a symbol, `rd` the running disparity after its 6-bit one. -/
def enc4 (rd : Bool) (c : Sym) : Nat :=
  let x := c.b.toNat % 32
  let y := c.b.toNat / 32
  if c.k then (if rd then 15 - codeK4 y else codeK4 y)
  else if y = 7 then
    let alt := if rd then decide (x ∈ [11, 13, 14]) else decide (x ∈ [17, 18, 20])
    let v := if alt then 0b0111 else 0b1110
    if rd then 15 - v else v
  else if rd && (decide (ones 4 (code4 y) ≠ 2) || decide (y = 3)) then 15 - code4 y
  else code4 y
/-- The code group of a symbol at running disparity `rd`, first bit highest. -/
def encode10 (rd : Bool) (c : Sym) : Nat := enc6 rd c * 16 + enc4 (disp6 rd (enc6 rd c)) c

/-- The twelve controls of 8b/10b. -/
def ctlSyms : List Sym := (List.range 8).map (fun y => ksym (28 + 32 * y)) ++ [ksym 0xF7, ksym 0xFB, ksym 0xFD, ksym 0xFE]

/-- The symbol whose code group at running disparity `rd` is `g`, if there is one: data, sought by its 6-bit sub-block first, or a
control. -/
def symFor (rd : Bool) (g : Nat) : Option Sym :=
  let xs := (List.range 32).filter (fun x => decide (enc6 rd (dsym x) = g / 16))
  (xs.flatMap (fun x => (List.range 8).map (fun y => dsym (x + 32 * y))) ++ ctlSyms).find? (fun c => decide (encode10 rd c = g))

/-- What a receiver makes of a code group (R380). -/
inductive RxSym where
  | ok (c : Sym)
  | disparity (c : Sym)
  | invalid
  deriving DecidableEq, Repr

/-- Decode a code group at running disparity `rd`. -/
def decode10 (rd : Bool) (g : Nat) : RxSym :=
  match symFor rd g with
  | some c => .ok c
  | none => match symFor (!rd) g with
    | some c => .disparity c
    | none => .invalid

/-- The four code groups of a word, the first in the low bits. -/
def groupsOf (w : BitVec 40) : List Nat := (List.range 4).map (fun k => bits w.toNat (10 * k) 10)
/-- Four symbols as a word, and the running disparity after them. -/
def encodeWord (rd : Bool) (l : List Sym) : BitVec 40 × Bool :=
  let r := l.foldl (fun (a : List Nat × Bool) c =>
    let g := encode10 a.2 c
    (a.1 ++ [g], dispAfter a.2 g)) ([], rd)
  (BitVec.ofNat 40 (r.1.foldr (fun g n => g + 2 ^ 10 * n) 0), r.2)
/-- A word's four symbols as received, and the running disparity after them. -/
def decodeWord (rd : Bool) (w : BitVec 40) : List RxSym × Bool :=
  (groupsOf w).foldl (fun a g => (a.1 ++ [decode10 a.2 g], dispAfter a.2 g)) ([], rd)

/-! ## Generators (R389, R390) -/

/-- One step of a PRBS register of `n` bits with taps n and t: the bit that leaves is shifted in again. -/
def prbsStep (n t st : Nat) : Nat × Bool :=
  let b := bit st (n - 1) != bit st (t - 1)
  (st * 2 % 2 ^ n + b2n b, b)
/-- The next byte of a PRBS, first bit lowest, and the register after it. -/
def prbsByte (n t st : Nat) : Nat × Nat :=
  (List.range 8).foldl (fun a k => let r := prbsStep n t a.1; (r.1, a.2 + b2n r.2 * 2 ^ k)) (st, 0)
/-- The next `m` bytes of a PRBS. -/
def prbsBytes (n t : Nat) : Nat → Nat → Nat × List Nat
  | 0, st => (st, [])
  | m + 1, st =>
    let r := prbsByte n t st
    let x := prbsBytes n t m r.1
    (x.1, r.2 :: x.2)
/-- The register that has just produced these bytes: their last `n` bits (R389). -/
def prbsLoad (n : Nat) (l : List Nat) : Nat :=
  l.foldl (fun st b => (List.range 8).foldl (fun st k => (st * 2 + b2n (bit b k)) % 2 ^ n) st) 0

/-! ## Lanes and maps (R383 to R385) -/

/-- The nine lanes of a direction. -/
def lanes : List Nat := List.range 9
/-- Lanes of a map. -/
def laneCount (m : Nat) : Nat := (lanes.filter (bit m)).length
/-- The lowest `n` lanes of a map, as a map. -/
def lowLanes (n m : Nat) : Nat := ((lanes.filter (bit m)).take n).foldl (fun a i => a + 2 ^ i) 0
/-- The use map that a transmitter builds from a good map; 0 when fewer than 4 lanes are good (R385). -/
def useOf (good : Nat) : Nat :=
  if 8 ≤ laneCount good then lowLanes 8 good else if 4 ≤ laneCount good then lowLanes 4 good else 0
/-- The good map that this mover sends: the fellow's transmit lanes received good (R384). -/
def State.goodMap (s : State) : Nat :=
  (lanes.filter (fun n => lanes.any (fun i => s.fb (LACE_LANE_rx_good i) && decide (s.f (LACE_LANE_rx_from i) = n)))).foldl
    (fun a n => a + 2 ^ n) 0
/-- tx_width and rx_width code of a use map (R409). -/
def widthCode (use : Nat) : Nat := if laneCount use = 8 then 2 else if laneCount use = 4 then 1 else 0
/-- A receive lane carries a data lane of the fellow. -/
def State.rxData (s : State) (i : Nat) : Bool := bit s.lace.fellowUse (s.f (LACE_LANE_rx_from i))

/-! ## Sending -/

/-- Physical transmit lanes in data use, by logical lane: 8, or 4; none while the lanes' use makes no width (R377, R379). -/
def State.txLanes (s : State) : List Nat :=
  let l := lanes.filter (fun i => decide (s.f (LACE_LANE_tx_use i) = 0))
  if l.length = 8 ∨ l.length = 4 then l else []
/-- The spare transmit lane, when it is neither in use nor under test (R389). -/
def State.txSpare (s : State) : List Nat := lanes.filter (fun i => decide (s.f (LACE_LANE_tx_use i) = 1))

/-- A lane's IOS: IDL and three bytes of its generator, which advances only with them (R389). -/
def State.iosOf (s : State) (i : Nat) : State × List Sym :=
  let r := prbsBytes 23 18 3 (s.lace.phys.gens.getD i 0)
  (s.withLace { s.lace with phys := { s.lace.phys with gens := s.lace.phys.gens.set i r.1 } }, symIdl :: r.2.map dsym)

/-- Send one stripe: four symbols on each of the lanes named, as one 40-bit word each; the lane that SPR_LANE_LOOP names sends back what
it receives instead (R432). -/
def State.sendStripe (s : State) (m : List (Nat × List Sym)) : State :=
  let p := s.lace.phys
  let l := m.filter (fun x => decide (x.1 ≠ s.f SPR_LANE_LOOP_lane))
  let r := l.foldl (fun (a : List (Nat × BitVec 40) × List Bool) x =>
    let e := encodeWord (a.2.getD x.1 false) x.2
    (a.1 ++ [(x.1, e.1)], a.2.set x.1 e.2)) ([], p.txRd)
  (s.withLace { s.lace with phys := { p with txRd := r.2 } }).emit (.stripe r.1)

/-- The transmit lane under test (R432). -/
def State.txTest (s : State) : List Nat := lanes.filter (fun i => decide (s.f (LACE_LANE_tx_use i) = 3))

/-- Four bytes of a lane's PRBS31 generator (R390, R432). -/
def State.prbsOf (s : State) (i : Nat) : State × List Sym :=
  let r := prbsBytes 31 28 4 (s.lace.phys.gens31.getD i 0)
  (s.withLace { s.lace with phys := { s.lace.phys with gens31 := s.lace.phys.gens31.set i r.1 } }, r.2.map dsym)

/-- A stripe in which the data lanes carry `l`, the spare lane its IOS, and a lane under test PRBS31 (R389, R432). -/
def State.sendWithSpare (s : State) (l : List (Nat × List Sym)) : State :=
  let t := s.txTest.foldl (fun (a : State × List (Nat × List Sym)) i =>
    let x := a.1.prbsOf i
    (x.1, a.2 ++ [(i, x.2)])) (s, l)
  let s := t.1
  let l := t.2
  let r := s.txSpare.foldl (fun (a : State × List (Nat × List Sym)) i =>
    let x := a.1.iosOf i
    (x.1, a.2 ++ [(i, x.2)])) (s, l)
  r.1.sendStripe r.2

/-- The symbols that logical lane `k` of `w` sends of a stripe: byte j goes on lane j mod w (R379). -/
def spread (w k : Nat) (l : List Sym) : List Sym := (List.range 4).map (fun j => l.getD (j * w + k) symPad)

/-- Send the whole stripes of the stream; what is left stays for the next ones. The first argument bounds the stripes. -/
def State.sendStream : Nat → State → State
  | 0, s => s
  | n + 1, s =>
    let t := s.txLanes
    let w := t.length
    let p := s.lace.phys
    if w = 0 then s.withLace { s.lace with phys := { p with part := [] } }
    else if p.part.length < 4 * w then s
    else
      let now := p.part.take (4 * w)
      let s := s.withLace { s.lace with phys := { p with part := p.part.drop (4 * w) } }
      State.sendStream n (s.sendWithSpare (((List.range w).zip t).map (fun x => (x.2, spread w x.1 now))))

/-- One stripe of PRBS31 data on all nine lanes (R390). -/
def State.prbsStripe (s : State) : State :=
  let r := lanes.foldl (fun (a : State × List (Nat × List Sym)) i =>
    let x := a.1.prbsOf i
    (x.1, a.2 ++ [(i, x.2)])) (s, [])
  r.1.sendStripe r.2

/-- An AOS on one lane. -/
def aos : List Sym := [symCom, symAln, symAln, symAln]

/-- The AOS stripe that ends a retrain block (R390). -/
def State.endBlock (s : State) : State :=
  if s.lace.block = 0 then s else State.sendStripe (s.withLace { s.lace with block := 0 }) (lanes.map (fun i => (i, aos)))

/-- The next stripe of a retrain block: PRBS31 data, and the AOS stripe at its end (R390). -/
def State.blockStripe (s : State) : State :=
  if s.lace.block ≤ 1 then s.endBlock else (s.withLace { s.lace with block := s.lace.block - 1 }).prbsStripe

/-- A packet joins the stream, its first byte as START, and a retrain block under way ends with its AOS stripe (R379, R390, R391). -/
def State.drive (s : State) (b : List Byte) : State :=
  let s := s.endBlock
  let syms := symStart :: (b.drop 1).map (fun x => { k := false, b := x })
  let p := s.lace.phys
  State.sendStream (p.part.length + b.length) (s.withLace { s.lace with phys := { p with part := p.part ++ syms } })

/-- A packet on the wire: its bytes, and the stripes that they fill. -/
def State.sendBytes (s : State) (b : List Byte) : State := (s.emit (.lace b)).drive b

/-- The rest of a stripe under way is filled with PAD (R379). -/
def State.endPart (s : State) : State :=
  let p := s.lace.phys
  if p.part.isEmpty then s
  else State.sendStream 1 (s.withLace { s.lace with phys := { p with part := p.part ++ List.replicate (4 * s.txLanes.length - p.part.length) symPad } })

/-- No packet is ready: a retrain block goes on; else the rest of the stripe is filled with PAD, and then IOS stripes follow (R379, R389,
R390). -/
def State.idleStripe (s : State) : State :=
  let t := s.txLanes
  let p := s.lace.phys
  if s.lace.block ≠ 0 then s.blockStripe
  else if t.isEmpty then s
  else if p.part.isEmpty then
    let r := t.foldl (fun (a : State × List (Nat × List Sym)) i =>
      let x := a.1.iosOf i
      (x.1, a.2 ++ [(i, x.2)])) (s, [])
    r.1.sendWithSpare r.2
  else s.endPart

/-- A receive lane as the state of the link changes: no stripe, block or set is under way, and the checker is not loaded. -/
def LaneRx.quiet (x : LaneRx) : LaneRx := { x with chk := none, block := none, pkt := false, since := none, set := 0 }

/-- Nothing of a stripe or of a retrain block is under way: the link has left UP, or comes up. -/
def State.clearPart (s : State) : State :=
  let p := s.lace.phys
  s.withLace { s.lace with phys := { p with part := [], rx := p.rx.map LaneRx.quiet }, block := 0 }

/-! ## Training sets (R384) -/

/-- TS1 of a lane. -/
def ts1 (lane : Nat) (role recov : Bool) : List Sym :=
  [symCom, dsym 0x4A, dsym lane, dsym (b2n role + 2 * b2n recov), dsym 0, dsym 0] ++ List.replicate 10 (dsym 0x4A)
/-- TS2 of a lane. -/
def ts2 (lane : Nat) (role recov : Bool) (session good use : Nat) : List Sym :=
  [symCom, dsym 0x45, dsym lane, dsym (b2n role + 2 * b2n recov), dsym session, dsym (session / 256), dsym good, dsym (good / 256),
   dsym use, dsym (use / 256)] ++ List.replicate 6 (dsym 0x45)
/-- What lane `i` sends in training state `st`, again and again until the phase ends (R382): TS1; with an AOS stripe after every 16;
TS2. -/
def State.trainLane (s : State) (st i : Nat) : List Sym :=
  let t := ts1 i s.role s.lace.recovery
  if st = 3 then (List.replicate 16 t).flatten ++ aos
  else if st = 4 then ts2 i s.role s.lace.recovery (s.f LACE_STAT_session) s.goodMap (useOf s.lace.fellowGood)
  else t
/-- The nine lanes send their training sets. -/
def State.train (s : State) (st : Nat) : State := s.emit (.train (lanes.map (s.trainLane st)))
/-- The 16 TS2 that end CONFIG, on each lane (R382). -/
def State.lastTs2 (s : State) : State :=
  s.emit (.train (lanes.map (fun i => (List.replicate 16 (s.trainLane 4 i)).flatten)))

/-- A training set as received. -/
structure TsIn where
  two     : Bool
  lane    : Nat
  role    : Bool
  recov   : Bool
  session : Nat
  good    : Nat
  use     : Nat
  deriving DecidableEq, Repr

/-- The training set that 16 symbols are (R384). -/
def tsOf (l : List Sym) : Option TsIn :=
  let b (k : Nat) : Nat := (l.getD k symCom).b.toNat
  let n := b 2
  let fl := b 3
  let role := bit fl 0
  let again := bit fl 1
  if l = ts1 n role again ∧ n < 9 then
    some { two := false, lane := n, role := role, recov := again, session := 0, good := 0, use := 0 }
  else
    let session := b 4 + 256 * b 5
    let good := b 6 + 256 * b 7
    let use := b 8 + 256 * b 9
    if l = ts2 n role again session good use ∧ n < 9 ∧ good < 512 ∧ use < 512 then
      some { two := true, lane := n, role := role, recov := again, session := session, good := good, use := use }
    else none

/-- The symbols of a run of words, when no one of them is in error. -/
def symsOf (rd : Bool) : List (BitVec 40) → Option (List Sym)
  | [] => some []
  | w :: r =>
    let d := decodeWord rd w
    let l := d.1.filterMap (fun x => match x with | .ok c => some c | _ => none)
    if l.length = 4 then (symsOf d.2 r).map (l ++ ·) else none

/-- The symbols of words that begin with a comma, whose form shows the running disparity. -/
def commaSyms (l : List (BitVec 40)) : Option (List Sym) :=
  match l with
  | [] => none
  | w :: _ =>
    if decode10 false (bits w.toNat 0 10) = .ok symCom then symsOf false l
    else if decode10 true (bits w.toNat 0 10) = .ok symCom then symsOf true l
    else none

/-- A list in pieces of 16. The first argument bounds them. -/
def sixteens : Nat → List Sym → List (List Sym)
  | 0, _ => []
  | n + 1, l => if l.isEmpty then [] else l.take 16 :: sixteens n (l.drop 16)

/-- The training sets that a run of words is, every one sound. -/
def setsOf (l : List (BitVec 40)) : Option (List TsIn) :=
  match commaSyms l with
  | none => none
  | some c =>
    let t := (sixteens c.length c).map tsOf
    if t.all Option.isSome then some (t.filterMap id) else none

/-- The last eight sets of a run on one lane, and whether the lane is inverted: its identifiers arrive as their complements (R382,
R383). -/
def eightSets (l : List (BitVec 40)) : Option (Bool × List TsIn) :=
  let last := l.drop (l.length - 32)
  if last.length < 32 then none
  else match setsOf last with
    | some t => some (false, t)
    | none => (setsOf (last.map (~~~ ·))).map (fun t => (true, t))

/-! ## Deskew (R382) -/

/-- Symbols from one AOS to the next in DESKEW: the AOS and the 16 TS1 after it (R382). -/
def aosPeriod : Nat := 4 + 16 * 16

/-- Where, counted from `k`, the AOS among a lane's symbols stand. -/
def aosFrom : Nat → List Sym → List Nat
  | _, [] => []
  | k, x :: r => if (x :: r).take 4 = aos then k :: aosFrom (k + 1) r else aosFrom (k + 1) r

/-- Four consecutive AOS have arrived on a lane, the last of them at the symbol answered (R382). -/
def fourAos (l : List (BitVec 40)) : Option Nat :=
  let c := match symsOf false l with
    | some c => c
    | none => (symsOf true l).getD []
  match (aosFrom 0 c).reverse with
  | d :: e :: f :: g :: _ => if d = e + aosPeriod ∧ e = f + aosPeriod ∧ f = g + aosPeriod then some d else none
  | _ => none

/-- The AOS of a lane lies in the 8 symbols that the deskew buffer absorbs from `b` on (R382). -/
def inSkew (b : Nat) (p : Option Nat) : Bool := match p with | some d => decide (b ≤ d) && decide (d ≤ b + 8) | none => false

/-- The lanes that the deskew buffer aligns, as a map: those whose AOS lie within 8 symbols, where most of them do (R382). -/
def alignedMap (p : List (Option Nat)) : Nat :=
  let n (b : Nat) : Nat := (p.filter (inSkew b)).length
  match maxBy (fun a b => decide (n b < n a)) (p.filterMap id) with
  | none => 0
  | some b => (lanes.filter (fun i => inSkew b (p.getD i none))).foldl (fun a i => a + 2 ^ i) 0

/-! ## What a receive lane counts (R380, R389, R390) -/

/-- A symbol outside the stripes of an UP link: its place in a training set or AOS goes on, and it is an error when it is no sound symbol,
or a control symbol in a place that is not its own (R380, R382, R384). -/
def setSym (p : Nat) (c : RxSym) : Nat × Bool :=
  let next := if p = 0 ∨ p = 15 ∨ p = 18 then 0 else p + 1
  match c with
  | .ok c =>
    if c = symCom then (1, decide (p ≠ 0))
    else if c = symAln ∧ p = 1 then (17, false)
    else (next, c.k && !(decide (c = symAln) && decide (17 ≤ p)))
  | _ => (next, true)

/-- Symbols judged by their places in training sets. -/
def setSyms (p : Nat) (l : List RxSym) : Nat × List Bool :=
  l.foldl (fun a c => let r := setSym a.1 c; (r.1, a.2 ++ [r.2])) (p, [])

/-- A PRBS generator of `n` bits that has just produced the first `n` bits of these bytes, and goes on to their end (R389). -/
def prbsSync (n t : Nat) (l : List Nat) : Nat :=
  let bitsOf := l.flatMap (fun b => (List.range 8).map (bit b))
  let st := (bitsOf.take n).foldl (fun st b => (st * 2 + b2n b) % 2 ^ n) 0
  (List.range (bitsOf.length - n)).foldl (fun st _ => (prbsStep n t st).1) st

/-- Check the PRBS symbols of a stripe: the first ones after a packet load the checker, once they are all sound; each later one that is
not the byte due is an error (R389, R390). -/
def checkPrbs (n t : Nat) (chk : Option Nat) (l : List RxSym) : Option Nat × List Bool :=
  match chk with
  | none =>
    let d := l.filterMap (fun c => match c with | .ok c => if c.k then none else some c.b.toNat | _ => none)
    (if d.length = l.length then some (prbsSync n t d) else none, l.map (fun c => match c with | .ok c => c.k | _ => true))
  | some st =>
    let r := prbsBytes n t l.length st
    (some r.1, (r.2.zip l).map (fun x => decide (x.2 ≠ .ok (dsym x.1))))

/-- Distances, in groups of four stream bytes, from one START of a lane of `w` to the next when packets follow one another (R379, R391). -/
def startAt (w d : Nat) : Bool := if w = 8 then decide (d % 16 = 6) && decide (d ≤ 134) else decide (d % 16 = 3) && decide (d ≤ 67)
/-- Distances from a START of a lane of `w` to the first PAD after it. -/
def padAt (w d : Nat) : Bool := startAt w d || (decide (w = 8) && decide (d % 16 = 4) && decide (d ≤ 68))

/-- The symbols of a packet stripe on a lane of `w`, in order; `start` whether START may stand on this lane. `pad`: PAD has begun;
`pkt`: a packet is under way. An error is a symbol that is not sound, a PAD or START within a packet, a PAD with no packet before it, and any
other control symbol (R379, R380). -/
def pktSyms (start : Bool) (w : Nat) : List RxSym → Bool → Bool → Option Nat → List Bool × Bool × Option Nat
  | [], pad, pkt, since => ([], pkt && !pad, since)
  | c :: r, pad, pkt, since =>
    let later := r.any (fun y => match y with | .ok z => decide (z ≠ symPad) | _ => false)
    match c with
    | .ok c =>
      if c = symPad then
        let e := !pkt || later || since.any (fun d => !padAt w d)
        let x := pktSyms start w r true pkt none
        (e :: x.1, x.2)
      else if c = symStart then
        let e := !start || pad || since.any (fun d => !startAt w d)
        let x := pktSyms start w r false true (if start then some (w / 4) else none)
        (e :: x.1, x.2)
      else
        let x := pktSyms start w r false true (since.map (· + w / 4))
        (c.k :: x.1, x.2)
    | _ =>
      let x := pktSyms start w r pad pkt none
      (true :: x.1, x.2)

/-- A symbol of an RTB stripe in error. -/
def rtbErr : RxSym → Bool
  | .ok c => c.k && decide (c ≠ symRtb)
  | _ => true

/-- One stripe of a lane of an UP link, which is no training set: which of its symbols are errors (R379, R380, R389, R390). -/
def laneStripe (x : LaneRx) (start : Bool) (w : Nat) (l : List RxSym) : LaneRx × List Bool :=
  let head := l.getD 0 .invalid
  if head = .ok symRtb then ({ x with block := some none, pkt := false, since := none }, l.map rtbErr)
  else match x.block with
    | some c =>
      let r := checkPrbs 31 28 c l
      ({ x with block := some r.1 }, r.2)
    | none =>
      if head = .ok symIdl ∨ (head = .invalid ∧ x.chk.isSome) then
        let r := checkPrbs 23 18 x.chk (l.drop 1)
        ({ x with chk := r.1, pkt := false, since := none }, decide (head ≠ .ok symIdl) :: r.2)
      else
        let r := pktSyms start w l false x.pkt x.since
        ({ x with chk := none, pkt := r.2.1, since := r.2.2 }, r.1)

/-- Count symbols, and whether 16 of any 256 consecutive ones are errors (R403). -/
def LaneRx.note (x : LaneRx) (l : List Bool) : LaneRx × Bool :=
  l.foldl (fun (a : LaneRx × Bool) e =>
    let n := a.1.seen + 1
    let k := if e then a.1.errs.filter (fun m => decide (n < m + 256)) ++ [n] else a.1.errs
    let lost := decide (16 ≤ k.length)
    ({ a.1 with seen := n, errs := if lost then [] else k }, a.2 || lost)) (x, false)

/-- One word of a receive lane of `w`: the lane after it, its symbol errors, and whether it has lost lock by them (R377, R380, R403). -/
def laneWord (x : LaneRx) (start up : Bool) (w : Nat) (word : BitVec 40) : LaneRx × Nat × Bool :=
  let d := decodeWord x.rd word
  let x := { x with rd := d.2 }
  let r := if !up || decide (x.set ≠ 0) || decide (d.1.getD 0 .invalid = .ok symCom) then
      let y := setSyms x.set d.1
      ({ x with set := y.1, block := none, pkt := false, since := none }, y.2)
    else laneStripe x start w d.1
  let y := r.1.note r.2
  (y.1, (r.2.filter id).length, y.2)

/-- The lane of the fellow's that receive lane `i` carries may bring START: it is logical lane 0, or lane 4 of 8 (R379). -/
def State.startLane (s : State) (i : Nat) : Bool :=
  let n := s.f (LACE_LANE_rx_from i)
  s.rxData i && decide (laneCount (s.lace.fellowUse % 2 ^ n) % 4 = 0)

/-- A retrain block begins among these words, or a packet: the lane adapts again (R390). -/
def wakes (rd : Bool) (l : List (BitVec 40)) : Bool :=
  (l.foldl (fun (a : Bool × Bool) w =>
    let d := decodeWord a.1 w
    (d.2, a.2 || d.1.any (fun c => decide (c = .ok symRtb) || decide (c = .ok symStart)))) (rd, false)).2

/-- Ones in which two bytes differ. -/
def bitErrors (a b : Nat) : Nat := ((List.range 8).filter (fun k => decide (bit a k ≠ bit b k))).length

/-- Symbols of the receive lane of a far-end lane test: four sound ones load the PRBS31 checker, and then each bit that is not the one due is
an error, all eight of a symbol that is not sound (R432). -/
def LaneHeard.stripe (h : LaneHeard) (l : List RxSym) : LaneHeard :=
  match h.chk with
  | none => { h with chk := (checkPrbs 31 28 none l).1 }
  | some st =>
    let r := prbsBytes 31 28 l.length st
    let wrong (x : Nat × RxSym) : Nat := match x.2 with | .ok c => if c.k then 8 else bitErrors x.1 c.b.toNat | _ => 8
    { chk := some r.1, errors := h.errors + (r.2.zip l).foldl (fun n x => n + wrong x) 0, bits := h.bits + 8 * l.length }

/-- The running lane test is far-end and checks on receive lane `i`: the one whose rx_from names the lane under test (R432). -/
def State.testHears (s : State) (i : Nat) : Bool :=
  s.fb SPR_TEST_STAT_busy && decide (s.f SPR_TEST_STAT_kind = 4) && s.spr.far && decide (s.f (LACE_LANE_rx_from i) = s.spr.unit)

/-- A far-end lane test hears words from running disparity `rd` on. -/
def State.hearTest (s : State) (rd : Bool) (m : List (BitVec 40)) : State :=
  let r := m.foldl (fun (a : Bool × LaneHeard) w => let d := decodeWord a.1 w; (d.2, a.2.stripe d.1)) (rd, s.spr.heard)
  s.withSpr { s.spr with heard := r.2 }

/-- Words that a lane has received, turned round where the lane is inverted (R383): the lane after them, its errors, and whether it lost
lock. What the lane that SPR_LANE_LOOP names receives goes out again on the transmit lane of its number (R432). -/
def State.laneWords (s : State) (i : Nat) (l : List (BitVec 40)) : State × Nat × Bool :=
  let inv := s.fb (LACE_LANE_rx_inverted i)
  let x0 := s.lace.phys.rx.getD i LaneRx.fresh
  let up := decide (s.f LACE_STAT_state = 5)
  let m := if inv then l.map (~~~ ·) else l
  let r := m.foldl (fun (a : LaneRx × Nat × Bool) w =>
    let y := laneWord a.1 (s.startLane i) up (laneCount s.lace.fellowUse) w
    (y.1, a.2.1 + y.2.1, a.2.2 || y.2.2)) (x0, 0, false)
  let frozen := if wakes x0.rd m then s.lace.frozen.filter (fun j => decide (j ≠ i)) else s.lace.frozen
  let s := s.withLace { s.lace with phys := { s.lace.phys with rx := s.lace.phys.rx.set i r.1 }, frozen := frozen }
  let s := if s.testHears i then s.hearTest x0.rd m else s
  (if s.f SPR_LANE_LOOP_lane = i then m.foldl (fun s w => s.emit (.stripe [(i, w)])) s else s, r.2)

end Sys2Proof.Machine
end

