-- ==== Sys2Proof/Machine/LinkOps.lean ====
section
/-!
DEFINITION. What the link carries: compact records and their slots (12_pair_mirroring_and_takeover.md R349), packets,
credits, storage and feedback (13_lace_link.md R391 to R401), and the mirror queue that feeds them (R351, R352, R356).
-/
namespace Sys2Proof.Machine

/-- Virtual channel `v`: 0 CTRL, 1 MIRROR, 2 BULK. -/
def State.vc (s : State) (v : Nat) : Vc :=
  match v with
  | 0 => s.lace.ctrl
  | 1 => s.lace.mirror
  | _ => s.lace.bulk
/-- Replace a virtual channel. -/
def State.setVc (s : State) (v : Nat) (x : Vc) : State :=
  match v with
  | 0 => s.withLace { s.lace with ctrl := x }
  | 1 => s.withLace { s.lace with mirror := x }
  | _ => s.withLace { s.lace with bulk := x }

/-- Receive buffer of a channel in units (R395). -/
def vcBuf (v : Nat) : Nat := if v = 0 then 32 else 1024

/-- The state LACE_STAT shows (R381). -/
def State.laceSt (s : State) : Nat := s.f LACE_STAT_state
/-- "The link is up" (R381); a hard halt puts the transmitters in electrical idle (R418). -/
def State.laceUp (s : State) : Bool := decide (s.laceSt = 5) && !s.pair.hard

/-- Change the link state: source 50 and trace event 0x21, stamped where the change comes from: the receive lanes, but for DISABLED
and DETECT (R148, R381); and in training what the lanes send (R382). -/
def State.setLace (s : State) (st : Nat) : State :=
  if s.laceSt = st then s
  else
    let s := (((s.setF LACE_STAT_state st).raise 50).traceIn (if st ≤ 1 then 0 else 6) 3 0x21 0 st 0 0).clearPart
    if 1 ≤ st ∧ st ≤ 4 then s.train st else s

/-- Count in LACE_ERR or LACE_VC_ERR; a count that rises from 0 raises source 51 (R405). -/
def State.laceCnt (s : State) (d : Fld) : State :=
  if s.f d = 0 then (s.cnt d).raise 51 else s.cnt d

/-- Outstanding packets O (R397). -/
def Vc.outst (c : Vc) : Nat := (c.next + 65536 - c.base) % 65536
/-- Units that may still be sent (R395). -/
def Vc.credit (c : Vc) : Nat := (c.limit + 4096 - c.sent % 4096) % 4096
/-- Units of a packet's payload. -/
def unitsOf (slots : List (List Byte)) : Nat := (slots.length + 1) / 2

/-- 64-byte units that MIRROR and BULK packets hold on chip (R401). -/
def State.chipUnits (s : State) : Nat :=
  ((s.lace.mirror.store ++ s.lace.bulk.store).filter (fun p => !p.spilled)).foldl (fun a p => a + unitsOf p.slots + 1) 0
/-- Units that the on-chip buffer leaves to MIRROR and BULK (R401, R427). -/
def State.chipRoom (s : State) : Nat := 8192 - 512 - 4 * s.f (SPR_ARRAY_rows_out 18)
/-- Units in the replay spill (R401). -/
def State.spillUnits (s : State) : Nat :=
  ((s.lace.mirror.store ++ s.lace.bulk.store).filter (fun p => p.spilled)).foldl (fun a p => a + unitsOf p.slots + 1) 0

/-- The feedback fields of a header (R391, R395). -/
def State.fbWord (s : State) (fv : Nat) : Nat :=
  let c := s.vc fv
  (c.expected + 65535) % 65536 + (fv + (c.freed + vcBuf fv) % 4096 * 4) * 2 ^ 16

/-- The bytes of a packet: header, payload, CRC trailer (R391, R392). -/
def packetBytes (v u sq fb : Nat) (payload : List Byte) : List Byte :=
  let h := leBytes 8 (0xFB + (v + u * 4) * 2 ^ 8 + sq % 65536 * 2 ^ 16 + fb * 2 ^ 32)
  h ++ payload ++ leBytes 4 (crc32 (h ++ payload))

/-- A slot of padding (R393). -/
def padSlot : List Byte := List.replicate 32 0

/-- The payload of a packet with these slots, padded to whole units. -/
def payloadOf (slots : List (List Byte)) : List Byte :=
  (slots ++ (if slots.length % 2 = 1 then [padSlot] else [])).flatten

/-- Put a packet on the wire with fresh feedback for the next channel in rotation (R396). -/
def State.wire (s : State) (v sq : Nat) (slots : List (List Byte)) : State :=
  let s := s.sendBytes (packetBytes v (unitsOf slots) sq (s.fbWord s.lace.fb) (payloadOf slots))
  (s.withLace { s.lace with fb := (s.lace.fb + 1) % 3 })

/-- A new packet may be sent on channel `v` (R395, R397, R401). -/
def State.canSend (s : State) (v : Nat) (slots : List (List Byte)) : Bool :=
  let c := s.vc v
  s.laceUp && c.stalled.isNone && decide (unitsOf slots ≤ c.credit) && decide (c.outst < 32767)
    && (decide (v = 0) || decide (s.chipUnits + unitsOf slots + 1 ≤ s.chipRoom))

/-- Send a new packet (R395, R397, R401). -/
def State.sendPkt (s : State) (v : Nat) (slots : List (List Byte)) : State :=
  let c := s.vc v
  let s := s.wire v c.next slots
  let p : Pkt := { seq := c.next, slots := slots, spilled := false, pos := 0, back := false, born := s.lace.stamp }
  let s := s.withLace { s.lace with stamp := s.lace.stamp + 1 }
  s.setVc v { c with next := (c.next + 1) % 65536, sent := (c.sent + unitsOf slots) % 4096, store := c.store ++ [p] }

/-! ## Records -/

/-- The 32 bytes of a compact record of an event in clock domain `dom` (R148, R349). -/
def State.recSlot (s : State) (code dom : Nat) (r : MRec) : List Byte :=
  let h := s.hallmark r.mt r.seq r.item 2 dom
  let w2 := code + r.ccause % 4 * 2 ^ 8 + r.qid.toNat * 2 ^ 10 + r.a.toNat * 2 ^ 32
  (h ++ [BitVec.ofNat 64 w2, r.b]).flatMap (fun w => leBytes 8 w.toNat)

/-- The code and the record that a slot holds (R349). -/
def slotRec (b : List Byte) : Nat × MRec :=
  let w (k : Nat) : Nat := leNat ((b.drop (8 * k)).take 8)
  (bits (w 2) 0 8,
   { seq := BitVec.ofNat 32 (w 1), mt := BitVec.ofNat 64 (w 0), item := bits (w 1) 32 22, ccause := bits (w 2) 8 2,
     qid := BitVec.ofNat 22 (bits (w 2) 10 22), a := BitVec.ofNat 32 (bits (w 2) 32 32), b := BitVec.ofNat 64 (w 3) })

/-- Cut a byte string into 32-byte slots, the last one filled with zero bytes. The first argument bounds the slots. -/
def slotsOf : Nat → List Byte → List (List Byte)
  | 0, _ => []
  | n + 1, l => if l.isEmpty then [] else (l.take 32 ++ List.replicate (32 - l.length) 0) :: slotsOf n (l.drop 32)

/-- The slots a mirror record occupies, context bytes or completion record included, stamped as the mover stands now (R147,
R350, R393). -/
def State.outSlots (s : State) (code dom : Nat) (r : MRec) (words : List W64) : List (List Byte) :=
  let ctx := words.flatMap (fun w => leBytes 8 w.toNat)
  s.recSlot code dom r :: (if code = 0x20 then slotsOf 4 (ctx ++ List.replicate 48 0) else slotsOf 8 ctx)

/-- The channel of a record code (R350). -/
def chanOf (code : Nat) : Nat := if 0x30 ≤ code then 0 else if 0x20 ≤ code then 2 else 1

/-- The requester that sends on channel `v` (R261). -/
def vcReq (v : Nat) : Nat := if v = 0 then 79 else if v = 1 then 72 else 74

/-- The first channel with a replay under way whose next packet lies on chip (R400, R401). -/
def State.replayVc (s : State) : Option (Nat × Pkt × List Pkt) :=
  [0, 1, 2].findSome? (fun v =>
    match (s.vc v).stalled with
    | none => none
    | some sq => match (s.vc v).store.dropWhile (fun p => decide (p.seq ≠ sq)) with
      | [] => none
      | p :: r => if p.spilled && !p.back then none else some (v, p, r))

/-- Send the next packet of a replay (R400); a copy read back from the spill is used once. -/
def State.sendReplay (s : State) (v : Nat) (p : Pkt) (r : List Pkt) : State :=
  let c := s.vc v
  (s.wire v p.seq p.slots).setVc v
    { c with stalled := r.head?.map (·.seq), store := updWhere (fun (x : Pkt) => decide (x.seq = p.seq)) (fun x => { x with back := false }) c.store }

/-- The next thing that CTRL sends: due feedback, then the messages in order (R396). -/
def State.ctrlNext (s : State) : Option State :=
  match s.lace.fbDue with
  | v :: r => some ((s.withLace { s.lace with fbDue := r }).sendBytes (packetBytes 3 0 0 (s.fbWord v) []))
  | [] => match s.pair.ctrl with
    | [] => none
    | m :: r => if s.canSend 0 [m] then some (State.sendPkt (s.withPair { s.pair with ctrl := r }) 0 [m]) else none

/-- The record at the head of the mirror queue, when channel `v` is the one that carries it and takes it (R356). -/
def State.mirrorNext (s : State) (v : Nat) : Option State :=
  match s.pair.queue with
  | [] => none
  | m :: r =>
    if decide (chanOf m.code = v) && s.canSend v m.slots then
      some (State.sendPkt (s.withPair { s.pair with queue := r, lastSent := m.seq }) v m.slots)
    else none

/-- The next packet that LACETX requester `req` sends; none when it has none, no credit, or the link is not up (R263). -/
def State.laceNext (s : State) (req : Nat) : Option State :=
  if !s.laceUp then none
  else match req with
    | 79 => s.ctrlNext
    | 73 => s.replayVc.map (fun x => s.sendReplay x.1 x.2.1 x.2.2)
    | 72 => s.mirrorNext 1
    | 74 => s.mirrorNext 2
    | _ => none

/-- Requesters of the Lace transmitter (R261). -/
def laceReqs : List Nat := [72, 73, 74, 79]

/-- The owner of the Lace transmitter sends what it has, packet by packet (R259, R263). The first argument bounds the
packets. -/
def State.pumpN : Nat → State → State
  | 0, s => s
  | n + 1, s =>
    match (laceReqs.filter (s.owns resLace)).findSome? (fun r => (s.laceNext r).map (fun t => (r, t))) with
    | some (r, t) => State.pumpN n (t.arbBusy resLace r)
    | none => s

/-- Packets that wait for the link at most. -/
def State.pumpBound (s : State) : Nat :=
  s.lace.fbDue.length + s.pair.ctrl.length + s.pair.queue.length + s.lace.ctrl.store.length + s.lace.mirror.store.length
    + s.lace.bulk.store.length

/-- Send what waits for the link, as far as the owner of the transmitter goes. -/
def State.pump (s : State) : State := s.pumpN s.pumpBound

/-- A CTRL message (R393). -/
def State.ctrlMsg (s : State) (code : Nat) (qid : BitVec 22) (a : W32) (b : W64) : State :=
  let m := s.recSlot code 0 { seq := 0, mt := s.mt, item := 0, ccause := 0, qid := qid, a := a, b := b }
  State.pump (s.withPair { s.pair with ctrl := s.pair.ctrl ++ [m] })

/-- Records are sent (R358). -/
def State.mirrorOn (s : State) : Bool := decide (s.f PAIR_STAT_send_state = 1) || decide (s.f PAIR_STAT_send_state = 2)

/-- Records may leave: from the fellow's READY on (R359). -/
def State.mirrorLive (s : State) : Bool := s.mirrorOn && (s.pair.readyIn || decide (s.f PAIR_STAT_send_state = 2))

/-! ## Context words (R26, R131, R187) -/

/-- Number of a queue state (R24). -/
def QState.num : QState → Nat
  | .free => 0 | .ready => 1 | .stopped => 2 | .quarantined => 3 | .fenced => 4 | .destroying => 5
/-- The queue state of a number; a reserved value reads as FREE. -/
def QState.ofNum : Nat → QState
  | 1 => .ready | 2 => .stopped | 3 => .quarantined | 4 => .fenced | 5 => .destroying | _ => .free
/-- Number of a class (R14). -/
def QClass.num : QClass → Nat
  | .admin => 0 | .kernel => 1 | .user => 2
/-- The class of a number. -/
def QClass.ofNum : Nat → QClass
  | 1 => .kernel | 2 => .user | _ => .admin
/-- Number of a mirror mode (R26). -/
def MirrorMode.num : MirrorMode → Nat
  | .none => 0 | .async => 1 | .sync => 2
/-- The mirror mode of a number. -/
def MirrorMode.ofNum : Nat → MirrorMode
  | 1 => .async | 2 => .sync | _ => .none
/-- Number of a ring state (R133). -/
def CqState.num : CqState → Nat
  | .free => 0 | .active => 1 | .full => 2 | .broken => 3 | .destroying => 4
/-- The ring state of a number. -/
def CqState.ofNum : Nat → CqState
  | 1 => .active | 2 => .full | 3 => .broken | 4 => .destroying | _ => .free

/-- Bytes 0x00 to 0x4F of a queue context, as ten words (R26). -/
def QCtx.words (c : QCtx) : List W64 :=
  [BitVec.ofNat 64 (c.state.num + c.cls.num * 2 ^ 4 + b2n c.device * 2 ^ 6 + b2n c.echk * 2 ^ 7 + c.mirror.num * 2 ^ 8
     + c.sizeLog2 * 2 ^ 10 + c.stitchLog2 * 2 ^ 15 + c.rank * 2 ^ 20 + b2n c.cqStall * 2 ^ 24 + b2n c.hostpSel * 2 ^ 25
     + b2n c.adopted * 2 ^ 26 + b2n c.rlBind * 2 ^ 27 + b2n c.rlMode * 2 ^ 28 + b2n c.pin * 2 ^ 29
     + b2n c.pasidValid * 2 ^ 30 + c.rlLine * 2 ^ 32),
   c.ringBase,
   BitVec.ofNat 64 (c.pasid + c.pd * 2 ^ 32),
   BitVec.ofNat 64 (c.cqid + c.cause * 2 ^ 32),
   BitVec.ofNat 64 (c.pi.toNat + c.snap.toNat * 2 ^ 32),
   BitVec.ofNat 64 (c.fetch.toNat + c.ci.toNat * 2 ^ 32),
   BitVec.ofNat 64 (c.mirroredCi.toNat + c.causeIndex.toNat * 2 ^ 32),
   BitVec.ofNat 64 (c.rings.toNat + c.ringIgnored * 2 ^ 32 + c.cqStalls * 2 ^ 48),
   c.servedMt,
   c.createdMt]

/-- The queue context that ten words hold (R26). -/
def QCtx.ofWords (l : List W64) : QCtx :=
  let w (k : Nat) : Nat := (l.getD k 0).toNat
  { QCtx.zero with
    state := QState.ofNum (bits (w 0) 0 4), cls := QClass.ofNum (bits (w 0) 4 2), device := bit (w 0) 6, echk := bit (w 0) 7,
    mirror := MirrorMode.ofNum (bits (w 0) 8 2), sizeLog2 := bits (w 0) 10 5, stitchLog2 := bits (w 0) 15 5,
    rank := bits (w 0) 20 4, cqStall := bit (w 0) 24, hostpSel := bit (w 0) 25, adopted := bit (w 0) 26,
    rlBind := bit (w 0) 27, rlMode := bit (w 0) 28, pin := bit (w 0) 29, pasidValid := bit (w 0) 30,
    rlLine := bits (w 0) 32 8, ringBase := l.getD 1 0, pasid := bits (w 2) 0 20, pd := bits (w 2) 32 16,
    cqid := bits (w 3) 0 18, cause := bits (w 3) 32 8, pi := BitVec.ofNat 32 (w 4), snap := BitVec.ofNat 32 (w 4 / 2 ^ 32),
    fetch := BitVec.ofNat 32 (w 5), ci := BitVec.ofNat 32 (w 5 / 2 ^ 32), mirroredCi := BitVec.ofNat 32 (w 6),
    causeIndex := BitVec.ofNat 32 (w 6 / 2 ^ 32), rings := BitVec.ofNat 32 (w 7), ringIgnored := bits (w 7) 32 16,
    cqStalls := bits (w 7) 48 16, servedMt := l.getD 8 0, createdMt := l.getD 9 0 }

/-- The 64-byte completion-ring context, as eight words; `spilled` and `bound` are given (R131). -/
def CqCtx.words (c : CqCtx) (spilled bound : Nat) : List W64 :=
  [BitVec.ofNat 64 (c.state.num + b2n c.device * 2 ^ 4 + b2n c.hostpSel * 2 ^ 5 + b2n c.pasidValid * 2 ^ 6
     + b2n c.wbEn * 2 ^ 7 + c.sizeLog2 * 2 ^ 8 + b2n c.irqEn * 2 ^ 13 + c.irqSrc * 2 ^ 14 + c.coalCount * 2 ^ 24
     + c.coalTime * 2 ^ 32 + c.pd * 2 ^ 48),
   c.ringBase, c.wbAddr,
   BitVec.ofNat 64 (c.pasid + c.fullEvents * 2 ^ 32 + c.ciErrors * 2 ^ 48),
   BitVec.ofNat 64 (c.pi.toNat + c.ci.toNat * 2 ^ 32),
   BitVec.ofNat 64 (spilled + bound * 2 ^ 16),
   c.stallMt, c.createdMt]

/-- The completion-ring context that eight words hold (R131). -/
def CqCtx.ofWords (l : List W64) : CqCtx :=
  let w (k : Nat) : Nat := (l.getD k 0).toNat
  { CqCtx.zero with
    state := CqState.ofNum (bits (w 0) 0 4), device := bit (w 0) 4, hostpSel := bit (w 0) 5, pasidValid := bit (w 0) 6,
    wbEn := bit (w 0) 7, sizeLog2 := bits (w 0) 8 5, irqEn := bit (w 0) 13, irqSrc := bits (w 0) 14 10,
    coalCount := bits (w 0) 24 8, coalTime := bits (w 0) 32 16, pd := bits (w 0) 48 16, ringBase := l.getD 1 0,
    wbAddr := l.getD 2 0, pasid := bits (w 3) 0 20, fullEvents := bits (w 3) 32 16, ciErrors := bits (w 3) 48 16,
    pi := BitVec.ofNat 32 (w 4), ci := BitVec.ofNat 32 (w 4 / 2 ^ 32), stallMt := l.getD 6 0, createdMt := l.getD 7 0 }

/-- Records of ring `c` in its group's spill (R131). -/
def State.spilledOf (s : State) (c : Nat) : Nat := (s.cqs.spill.filter (fun h => decide (h.c = c))).length

/-- Queues that exist: not FREE. -/
def State.queues (s : State) : List Nat :=
  (s.q.filter (fun x => decide (x.2.state ≠ .free))).map (·.1)

/-- Queues whose cqid names ring `c` (R131). -/
def State.boundTo (s : State) (c : Nat) : List Nat :=
  s.queues.filter (fun q => decide (ringOf q (s.qctx q).cqid = c))

/-- Parked entries that wait on counter `n` (R187). -/
def State.waitersOf (s : State) (n : Nat) : List (Nat × W32) :=
  (s.park.onChip ++ s.park.spill).filter (fun x =>
    match s.flight? x.1 x.2 with
    | some f => decide (ctrIdx x.1 f.e.waitCtr = n)
    | none => false)

/-- The 16-byte counter context, as two words (R187). -/
def Counter.words (c : Counter) (waiters : Nat) : List W64 :=
  [c.value, BitVec.ofNat 64 (c.pd + b2n c.valid * 2 ^ 16 + b2n c.remoteEn * 2 ^ 17 + waiters * 2 ^ 18)]

/-- The counter that two words hold (R187). -/
def Counter.ofWords (l : List W64) : Counter :=
  let w := (l.getD 1 0).toNat
  { value := l.getD 0 0, pd := bits w 0 16, valid := bit w 16, remoteEn := bit w 17 }

/-! ## Which objects are mirrored, and their snapshots (R345, R351) -/

/-- Queue `q` is mirrored: its own, with mirror_mode ASYNC or SYNC. -/
def State.qMirrored (s : State) (q : Nat) : Bool :=
  !isAdopted q && decide (q ≠ 0) && decide ((s.qctx q).mirror ≠ .none) && decide ((s.qctx q).state ≠ .free)
/-- Ring `c` is named by the cqid of a mirrored queue. -/
def State.cMirrored (s : State) (c : Nat) : Bool := (s.boundTo c).any s.qMirrored

/-! ## Sending records (R349 to R352, R356) -/

/-- Records that the mirror queue holds (R356). -/
def mirrorCap : Nat := 16384

/-- The mirror queue takes `n` more records (R356). -/
def State.mirrorRoom (s : State) (n : Nat) : Bool := s.pair.owed.isEmpty && decide (s.pair.queue.length + n ≤ mirrorCap)

/-- The context that a record concerns, which its way holds until the record is acknowledged (R45). -/
def lockOf (code item qid : Nat) : Option (CtxKind × Nat) :=
  if code ≤ 0x05 then some (.queue, qid) else if code = 0x06 ∨ code = 0x07 then some (.ring, item)
  else if code = 0x08 then some (.counter, item) else none

/-- The object whose snapshot a record code carries (R350). -/
def snapOf (code item : Nat) : Option (CtxKind × Nat) :=
  if code = 0x20 then some (.queue, item) else if code = 0x21 then some (.ring, item)
  else if code = 0x22 then some (.counter, item) else none

/-- The context bytes that follow a snapshot's record, as words (R350). -/
def State.ctxWords (s : State) (code n : Nat) : List W64 :=
  match snapOf code n with
  | some (.queue, _) => (s.qctx n).words
  | some (.ring, _) => (s.cctx n).words (s.spilledOf n) (s.boundTo n).length
  | some (.counter, _) => (s.ctrOf n).words (s.waitersOf n).length
  | none => []

/-- A record of an event in clock domain `dom` at the MT it carries enters the mirror queue (R147, R148, R349): it takes the next seq, and what its acknowledgement will say is
noted. `words` is the completion record of a COMPLETE; a snapshot's bytes are those of the context as it is now. -/
def State.mirrorNow (s : State) (code dom : Nat) (x : MRec) (words : List W64) : State :=
  let p := s.pair
  let r := { x with seq := p.seq }
  let q := r.qid.toNat
  let m : MirrorOut := { code := code, seq := r.seq, slots := s.outSlots code dom r (if code = 0x05 then words else s.ctxWords code r.item) }
  let snap := snapOf code r.item
  let isIt (k : CtxKind × Nat) : Bool := decide (snap = some k)
  State.pump (s.withPair { p with
    seq := p.seq + 1, queue := p.queue ++ [m],
    locks := p.locks ++ ((lockOf code r.item q).map (fun k => (k.1, k.2, r.seq))).toList,
    snaps := p.snaps.filter (fun y => !isIt (y.1, y.2.1)) ++ (snap.map (fun k => (k.1, k.2, r.seq))).toList,
    heldBack := p.heldBack.filter (fun k => !isIt k),
    ciSent := if code = 0x02 then p.ciSent ++ [(q, r.seq, r.a)] else if code = 0x20 then p.ciSent ++ [(q, r.seq, (s.qctx q).ci)] else p.ciSent,
    endSeq := if code = 0x0B then some r.seq else p.endSeq })

/-- The snapshot of an object waits for room in the mirror queue. -/
def State.snapOwed (s : State) (k : CtxKind × Nat) : Bool := s.pair.owed.any (fun x => decide (snapOf x.1 x.2.2.item = some k))

/-- Send one mirror record of an event in clock domain `dom` at Mover Time `t` (R148), or let it wait for room in the mirror queue
(R356); one snapshot that waits serves for all. -/
def State.mirrorRecAt (s : State) (t : W64) (dom code item ccause qid : Nat) (a : W32) (b : W64) (words : List W64) : State :=
  if s.mirrorLive && !s.halted then
    let r : MRec := { seq := 0, mt := t, item := item, ccause := ccause, qid := BitVec.ofNat 22 qid, a := a, b := b }
    if s.mirrorRoom 1 then s.mirrorNow code dom r words
    else if (match snapOf code item with | some k => s.snapOwed k | none => false) then s
    else s.withPair { s.pair with owed := s.pair.owed ++ [(code, dom, r)] }
  else s

/-- Send one mirror record of an event in CORE_CLK. -/
def State.mirrorRec (s : State) (code item ccause : Nat) (qid : Nat) (a : W32) (b : W64) (words : List W64) : State :=
  s.mirrorRecAt s.mt 0 code item ccause qid a b words

/-- Records that waited for room enter the mirror queue in order. The first argument bounds them. -/
def State.serveOwed : Nat → State → State
  | 0, s => s
  | n + 1, s =>
    match s.pair.owed with
    | [] => s
    | (code, dom, r) :: l =>
      if s.pair.queue.length < mirrorCap then
        State.serveOwed n (State.mirrorNow (s.withPair { s.pair with owed := l }) code dom r [])
      else s

/-- What an action leads to, unless records that it must send find no room in the mirror queue: then it waits (R356). -/
def State.orWait (s t : State) : State :=
  if s.pair.owed.length < t.pair.owed.length ∧ s.pair.queue ≠ [] then s else t

/-- The snapshot of an object is sent and not yet acknowledged (R352). -/
def State.snapSent (s : State) (k : CtxKind) (n : Nat) : Bool :=
  s.pair.snaps.any (fun x => decide (x.1 = k) && decide (x.2.1 = n))

/-- The object's snapshot is not yet acknowledged, sent or still to be sent (R352, R359). -/
def State.snapOpen (s : State) (k : CtxKind) (n : Nat) : Bool :=
  s.snapSent k n || s.snapOwed (k, n) || (s.mirrorOn && !s.mirrorLive)

/-- A delta for an object, of an event in clock domain `dom` at Mover Time `t`: held back while the object's snapshot is not
acknowledged (R148, R352). -/
def State.mirrorDeltaAt (s : State) (t : W64) (dom : Nat) (k : CtxKind) (n : Nat) (code ccause qid : Nat) (a : W32) (b : W64)
    (words : List W64) : State :=
  if s.mirrorLive && !s.halted then
    if s.snapOpen k n then (s.withPair { s.pair with heldBack := addNew s.pair.heldBack (k, n) })
    else s.mirrorRecAt t dom code n ccause qid a b words
  else s

/-- A delta of an event in CORE_CLK. -/
def State.mirrorDelta (s : State) (k : CtxKind) (n : Nat) (code ccause qid : Nat) (a : W32) (b : W64)
    (words : List W64) : State :=
  s.mirrorDeltaAt s.mt 0 k n code ccause qid a b words

/-- A delta for the object would be sent now (R352, R358). -/
def State.deltaDue (s : State) (k : CtxKind) (n : Nat) : Bool := s.mirrorLive && !s.halted && !s.snapOpen k n

/-- An action that sends a record waits for room in the mirror queue, and behind what waits already (R356). -/
def State.actWaits (s : State) (sends : Bool) : Bool := sends && (!s.mirrorRoom 1 || !s.pair.acts.isEmpty)

/-- Let an action wait for room in the mirror queue (R356). -/
def State.addAct (s : State) (a : MirrorAct) : State := s.withPair { s.pair with acts := addNew s.pair.acts a }

/-- Send an object's snapshot (R351). -/
def State.snapObj (s : State) (k : CtxKind) (n : Nat) : State :=
  match k with
  | .queue => s.mirrorRec 0x20 n 0 n 0 0 []
  | .ring => s.mirrorRec 0x21 n 0 0 0 0 []
  | .counter => s.mirrorRec 0x22 n 0 0 0 0 []

/-- Q_CTX after a change of queue `q` (R351). -/
def State.snapQ (s : State) (q : Nat) : State := if s.qMirrored q then s.snapObj .queue q else s
/-- CQ_CTX after a change of ring `c` (R351). -/
def State.snapC (s : State) (c : Nat) : State := if s.cMirrored c then s.snapObj .ring c else s

/-- CTR after a change of counter `n` in clock domain `dom` at Mover Time `t`, own counters only (R148, R351). -/
def State.mirrorCtrAt (s : State) (t : W64) (dom n ccause qid : Nat) (idx : W32) : State :=
  if n < 2 ^ 20 ∧ (s.ctrOf n).valid then s.mirrorDeltaAt t dom .counter n 0x08 ccause qid idx (s.ctrOf n).value [] else s

/-- CTR after a change of counter `n` in CORE_CLK. -/
def State.mirrorCtr (s : State) (n ccause qid : Nat) (idx : W32) : State := s.mirrorCtrAt s.mt 0 n ccause qid idx

end Sys2Proof.Machine
end

