-- ==== Sys2Proof/Machine/Units.lean ====
section
/-!
DEFINITION. Engines and reduction units, halts and fatal errors, failing units and spares
(12_pair_mirroring_and_takeover.md R361 to R363, 14_faults_spares_and_in_service_test.md R417 to R425).
-/
namespace Sys2Proof.Machine

/-! ## Units (R419 to R425) -/

/-- Engine state (R99). -/
def State.engSt (s : State) (e : Nat) : Nat := s.f (IZ_ENG_STATE_state e)
/-- Set an engine's state. -/
def State.setEng (s : State) (e st : Nat) : State := s.setF (IZ_ENG_STATE_state e) st
/-- Reduction unit state (R186). -/
def State.redSt (s : State) (u : Nat) : Nat := s.f (IZ_RED_STATE_state u)
/-- An engine in service: IDLE, BOUND, PACEWAIT, ADMIN or STOPPED. -/
def engInService (st : Nat) : Bool := decide (st ≤ 3) || decide (st = 8)
/-- A reduction unit in service: IDLE, BOUND, FOLD or STOPPED. -/
def redInService (st : Nat) : Bool := decide (st ≤ 2) || decide (st = 8)
/-- Set a reduction unit's state; one that leaves service is no channel any more (R260). -/
def State.setRed (s : State) (u st : Nat) : State :=
  (if redInService st then s else s.setOwner 4 u none).setF (IZ_RED_STATE_state u) st
/-- Active engines (R98). -/
def State.engActive (s : State) : Nat :=
  ((List.range 68).filter (fun e => engInService (s.engSt e) && decide ((false, e) ∉ s.spr.tested))).length
/-- Active reduction units. -/
def State.redActive (s : State) : Nat :=
  ((List.range 17).filter (fun u => redInService (s.redSt u) && decide ((true, u) ∉ s.spr.tested))).length
/-- Lowest-numbered engine in state `st`. -/
def State.engIn (s : State) (st : Nat) : Option Nat := (List.range 68).find? (fun e => decide (s.engSt e = st))
/-- Lowest-numbered reduction unit in state `st`. -/
def State.redIn (s : State) (st : Nat) : Option Nat := (List.range 17).find? (fun u => decide (s.redSt u = st))

/-! ## Halt (R361 to R363, R417, R418) -/

/-- Step 2 of R363 on the engines and reduction units: those in service or under test read STOPPED, the latter
without becoming active (R424). -/
def State.stopUnits (s : State) : State :=
  let l := ((List.range 68).filter (fun e => decide (s.engSt e = 6))).map (fun e => (false, e))
    ++ ((List.range 17).filter (fun u => decide (s.redSt u = 6))).map (fun u => (true, u))
  let s := (s.withSpr { s.spr with tested := l }).withAdm { s.adm with eng := none }
  let s := (List.range 68).foldl (fun s e =>
    if s.engSt e ≤ 3 ∨ s.engSt e = 6 then s.setEng e 8 else s) s
  (List.range 17).foldl (fun s u => if s.redSt u ≤ 2 ∨ s.redSt u = 6 then s.setRed u 8 else s) s

/-- The halt notice, stamped as the mover stands now (R362). -/
def State.noticeSlot (s : State) : List Byte :=
  let b := s.f PAIR_HALT_halt_cause + s.f PAIR_HALT_cause * 2 ^ 8 + s.f PAIR_HALT_IDX_last_seq * 2 ^ 16
  s.recSlot 0x30 0 { seq := 0, mt := s.pair.haltMt, item := 0, ccause := 0, qid := BitVec.ofNat 22 (s.f PAIR_HALT_qid),
                     a := BitVec.ofNat 32 (s.f PAIR_HALT_IDX_index), b := BitVec.ofNat 64 b }

/-- Send the halt notice once more (R362): every repeat is the same. -/
def State.sendNotice (s : State) : State :=
  State.pump (s.withPair { s.pair with ctrl := s.pair.ctrl ++ [s.pair.notice], notices := s.pair.notices + 1 })

/-- The halt sequence of R363, steps 1 to 3: `hc` the halt cause, `cause` the malformation cause or fatal code, `q` the
extended QID named, `idx` cause_index. A halt under way changes nothing. The halt record of step 5 is
written when halt processing ends (log entry 3). -/
def State.halt (s : State) (hc cause q : Nat) (idx : W32) : State :=
  if s.halted then s
  else
    let s := s.raise 45
    let s := (s.setF PAIR_HALT_halt_cause hc).setF PAIR_HALT_cause (if hc = 1 then cause else 0)
    let s := (s.setF PAIR_HALT_qid q).setF PAIR_HALT_IDX_index idx.toNat
    let s := (s.setF PAIR_HALT_IDX_last_seq s.pair.lastSent.toNat).setReg PAIR_HALT_MT s.mt
    let s := s.stopUnits
    let s := s.setF PAT_STAT_phase 8
    let s := (s.withPins { s.pins with haltOut := true, ppsOut := false }).withLines (s.lines.map (fun x => (x.1, { x.2 with low := false })))
    let s := s.withArb { s.arb with folds := [] }
    let s := s.withPair { s.pair with queue := [], owed := [], acts := [], haltMt := s.mt, haltLeft := 480, haltCode := cause, notices := 0, noticeAck := false }
    State.sendNotice (s.withPair { s.pair with notice := s.noticeSlot })

/-- Step 5 of R363: the halt record (R413). -/
def State.haltRecord (s : State) : State :=
  let p := s.pair
  let s := s.withPair { p with haltLeft := 0 }
  s.log 0x02 5 (s.f PAIR_HALT_qid) (s.f PAIR_HALT_halt_cause + p.haltCode * 256) (s.f PAIR_HALT_IDX_index)
    (s.f PAIR_HALT_IDX_last_seq)

/-- A waiting read of the counter window (R205). -/
def waitsToRead : Instr → Bool
  | .trigCounterRead _ => true
  | .registerRead _ _ _ => true
  | _ => false

/-- Reads that wait for the context store return zero (R418). -/
def State.zeroReads (s : State) : State :=
  let l := s.cache.waits
  let n := s.err.reads
  let s := (s.withCache { s.cache with waits := l.filter (fun w => !waitsToRead w.c) }).withErr { s.err with reads := [] }
  forEach n (fun _ s => s.ret 0) (forEach (l.filter (fun w => waitsToRead w.c)) (fun _ s => s.ret 0) s)

/-- A hard halt (R418): `code` the fatal code of the second fault, 0xFF for a watchdog bite. -/
def State.hardHalt (s : State) (code : Nat) : State :=
  let s := (s.setF ERR_HARD0_first_cause (s.f PAIR_HALT_halt_cause)).setF ERR_HARD0_first_code s.pair.haltCode
  let s := (s.setF ERR_HARD0_second_code code).setF ERR_HARD0_valid 1
  let s := (s.setReg ERR_HARD1 s.mt).zeroReads
  (s.withPair { s.pair with hard := true, haltLeft := 0, noticeAck := true })

/-- A fatal error (R417, R418): recorded, raised, and the mover halts with cause FATAL; during halt processing it forces a
hard halt. -/
def State.fatal (s : State) (code item arg32 arg64 : Nat) : State :=
  if s.pair.hard then s
  else if s.halted && decide (0 < s.pair.haltLeft) then (s.raise 45).hardHalt code
  else
    let s := s.log 0x30 5 item code arg32 arg64
    if s.halted then s.raise 45 else s.halt 4 code 0 0

/-! ## Failed units and spares (R419 to R425) -/

/-- The spare that takes a unit's place: the lowest-numbered SPARE one, or a spare that shadows (R424). -/
def State.spareOf (s : State) (red : Bool) : Option Nat :=
  if red then
    match s.redIn 4, s.spr.shadow with
    | some x, _ => some x
    | none, some (_, x, former) => if former = 4 then some x else none
    | none, none => none
  else s.engIn 4

/-- A shadow ends because its unit is needed (R424). -/
def State.dropShadow (s : State) (x : Nat) : State :=
  match s.spr.shadow with
  | some (_, y, _) => if y = x then (s.withSpr { s.spr with shadow := none }) else s
  | none => s

/-- R424 on a unit that leaves service without failing: the spare takes its place when auto_spare = 1. `red`: a reduction
unit. The state the unit takes is set first by the caller. -/
def State.spareIn (s : State) (red : Bool) (u : Nat) : State :=
  if s.fb SPR_POLICY_auto_spare then
    match s.spareOf red with
    | some x =>
      let s := if red then (s.dropShadow x).setRed x 0 else s.setEng x 0
      (s.log 0x21 0 x (b2n red) u 0).raise 46
    | none => s
  else s

/-- A spare of the kind is at hand and auto_spare = 1. -/
def State.hasSpare (s : State) (red : Bool) : Bool := s.fb SPR_POLICY_auto_spare && (s.spareOf red).isSome

/-- Spares of the kind that would take the place of a unit that leaves, a shadowing one among them (R424). -/
def State.sparesFor (s : State) (red : Bool) : Nat :=
  if s.fb SPR_POLICY_auto_spare then
    if red then
      ((List.range 17).filter (fun u => decide (s.redSt u = 4))).length
        + (match s.spr.shadow with | some (_, _, former) => b2n (decide (former = 4)) | none => 0)
    else ((List.range 68).filter (fun u => decide (s.engSt u = 4))).length
  else 0

/-- Active units that UNIT_OFFLINE must leave of a kind (R242). -/
def State.leastActive (s : State) (red : Bool) : Nat := if !red && s.fb IZ_SCHED_CFG_admin_reserve then 2 else 1

/-- A unit told to go OFFLINE reaches its boundary, and enough active units are left when it goes (R242, R425). -/
def State.mayLeave (s : State) (red : Bool) : Bool :=
  decide (s.leastActive red < (if red then s.redActive else s.engActive) + min 1 (s.sparesFor red))

/-- R424, R425 after a failure: a spare takes the unit's place, or capacity is retired; the last unit's failure is fatal
error 0x05. -/
def State.replaceFailed (s : State) (red : Bool) (u : Nat) : State :=
  if s.hasSpare red then s.spareIn red u
  else
    let left := if red then s.redActive else s.engActive
    let s := (s.log 0x22 4 u (b2n red) left 0).raise 46
    if left = 0 then s.fatal 0x05 u (b2n red) 0 else s

/-- A unit told to go OFFLINE does so no more (R253). -/
def State.noLeave (s : State) (red : Bool) (u : Nat) : State :=
  s.withSpr { s.spr with leaving := s.spr.leaving.filter (fun x => !decide (x = (red, u))) }
/-- Mark engine `e` RETIRED with its reason (R415, R424). -/
def State.retireEng (s : State) (e reason : Nat) : State :=
  let s := (s.setEng e 7).setF (SPR_ENG_HEALTH_reason e) reason
  s.setF ⟨SPR_ENG_RETIRED (e / 64), e % 64, 1⟩ 1
/-- Mark reduction unit `u` RETIRED with its reason. -/
def State.retireRed (s : State) (u reason : Nat) : State :=
  let s := (s.setRed u 7).setF (SPR_RED_HEALTH_reason u) reason
  s.setF ⟨SPR_UNIT_RETIRED, u, 1⟩ 1

/-- R91: at most one stitch of the entry may be bound. -/
def boundByR91 (c : QCtx) (e : Entry) : Bool :=
  decide (e.ordClass ≠ 0) || c.rlBind || bit e.flags 6 || (decide (e.opcode = 0x21) && e.repro && !bit e.opspec 5)

/-- Insert a range into a list of ranges rising by their first offset. -/
def insRange (x : Nat × Nat) : List (Nat × Nat) → List (Nat × Nat)
  | [] => [x]
  | y :: r => if x.1 ≤ y.1 then x :: y :: r else y :: insRange x r

/-- The entry has still work below job offset `goal`: all of it, or once it has ended what a COMPARE or CHECK judges below its
failure, which may hold a lower one (R221, R228, R229). -/
def Flight.goal (f : Flight) : Nat :=
  if !f.ended then f.e.length
  else if (f.e.opcode = 0x04 ∨ f.e.opcode = 0x05) ∧ f.status ≠ 2 then f.failOfs else 0

/-- End a stitch at the offset it issued below, and leave the rest of it to the entry's next stitches (R96, R422). -/
def Flight.unbind (f : Flight) (e : Nat) : Flight :=
  match f.stitch? e with
  | none => f
  | some x =>
    let f := { f with stitches := f.stitches.filter (fun y => decide (y.eng ≠ e)) }
    if min x.hi f.goal ≤ x.wr then f
    else { f with redo := insRange (x.wr, min x.hi f.goal) f.redo }

end Sys2Proof.Machine
end

