-- ==== Sys2Proof/Machine/Operands.lean ====
section
/-!
DEFINITION. A work entry and everything its fields name (02_work_entries_and_fragment_tables.md): decoding its 64 bytes,
the decode checks of R79 in cause order, the geometry of its sides (R59, R75, R224), fragment tables and source lists
(R72 to R77), and key checks (R68 to R70).
-/
namespace Sys2Proof.Machine

/-! ## Layout (R49) -/

/-- The entry that 64 bytes hold (R49). -/
def decodeEntry (b : List Byte) : Entry :=
  let w (k : Nat) : Nat := leNat ((b.drop (8 * k)).take 8)
  { opcode := bits (w 0) 0 8, flags := bits (w 0) 8 8, opspec := bits (w 0) 16 16, userTag := bits (w 0) 32 32,
    src := BitVec.ofNat 64 (w 1), dst := BitVec.ofNat 64 (w 2), length := bits (w 3) 0 48, srcSpace := bits (w 3) 48 4,
    dstSpace := bits (w 3) 52 4, ordClass := bits (w 3) 56 8, srcKey := bits (w 4) 0 32, dstKey := bits (w 4) 32 32,
    waitCtr := bits (w 5) 0 20, threshold := bits (w 5) 20 44, sigCtr := bits (w 6) 0 20, increment := bits (w 6) 20 12,
    cqOvr := bits (w 6) 32 18, cqOvrEn := bit (w 6) 50, sigOnError := bit (w 6) 51, rsvd6 := bits (w 6) 52 12,
    redType := bits (w 7) 0 3, repro := bit (w 7) 3, redOp := bits (w 7) 4 3, rsvd7 := bit (w 7) 7,
    fillSel := bits (w 7) 8 8, piOp := bits (w 7) 16 3, piType := bit (w 7) 19, piBlock := bit (w 7) 20,
    rsvdHi := bits (w 7) 21 11, echk := bits (w 7) 32 32 }

/-- Flag bits (R50). -/
def Entry.ordered (e : Entry) : Bool := bit e.flags 0
def Entry.srcFt (e : Entry) : Bool := bit e.flags 1
def Entry.dstFt (e : Entry) : Bool := bit e.flags 2
def Entry.noCqe (e : Entry) : Bool := bit e.flags 3
def Entry.waitEn (e : Entry) : Bool := bit e.flags 4
def Entry.signalEn (e : Entry) : Bool := bit e.flags 5
def Entry.nonidem (e : Entry) : Bool := bit e.flags 6

/-- Opcode groups of R52. -/
def Entry.isSg (e : Entry) : Bool := decide (e.opcode = 0x02) || decide (e.opcode = 0x12) || decide (e.opcode = 0x13)
def Entry.isPut (e : Entry) : Bool := decide (e.opcode = 0x10) || decide (e.opcode = 0x12)
def Entry.isGet (e : Entry) : Bool := decide (e.opcode = 0x11) || decide (e.opcode = 0x13)
/-- REDUCE and REDUCE_REMOTE: their source is a list (R77). -/
def Entry.hasList (e : Entry) : Bool := decide (e.opcode = 0x20) || decide (e.opcode = 0x21)
/-- REDUCE, REDUCE_REMOTE and QUENCH. -/
def Entry.isRed (e : Entry) : Bool := e.hasList || decide (e.opcode = 0x22)
def Entry.isFill (e : Entry) : Bool := decide (e.opcode = 0x03)
def Entry.isCompare (e : Entry) : Bool := decide (e.opcode = 0x04)
def Entry.isCheck (e : Entry) : Bool := decide (e.opcode = 0x05)
/-- NOP, FENCE and MARK. -/
def Entry.isPlain (e : Entry) : Bool := decide (e.opcode = 0x00) || decide (e.opcode = 0x31) || decide (e.opcode = 0x32)
def Entry.isTrigAdd (e : Entry) : Bool := decide (e.opcode = 0x30)
/-- Taken up without an engine (R93). -/
def Entry.noEngine (e : Entry) : Bool := e.isPlain || e.isTrigAdd || decide (e.length = 0)
/-- in_carrier, out_carrier and the number of sources (R60); the source of QUENCH is always in carrier form (R59). -/
def Entry.inCarrier (e : Entry) : Bool := if e.hasList then bit e.opspec 4 else decide (e.opcode = 0x22)
def Entry.outCarrier (e : Entry) : Bool := e.hasList && bit e.opspec 5
def Entry.nsrc (e : Entry) : Nat := if e.hasList then bits e.opspec 0 4 + 1 else 1
/-- Writes a destination (COMPARE and CHECK write nothing, R52). -/
def Entry.writes (e : Entry) : Bool := !e.isPlain && !e.isTrigAdd && !e.isCompare && !e.isCheck

/-- Opcodes of R52. -/
def opcodes : List Nat :=
  [0x00, 0x01, 0x02, 0x03, 0x04, 0x05, 0x10, 0x11, 0x12, 0x13, 0x20, 0x21, 0x22, 0x30, 0x31, 0x32]

/-! ## Geometry -/

/-- The protection block B (R63, R224). -/
def Entry.piB (e : Entry) : Nat := if e.piBlock then 4096 else 512
/-- Whether a side carries protection information (R63, R224). -/
def Entry.piSide (e : Entry) : Dir → Bool
  | .src => decide (e.piOp = 2) || decide (e.piOp = 3)
  | .dst => decide (e.piOp = 1) || (decide (e.piOp = 3) && e.writes)
/-- Bytes of a side for each job byte: carrier form (R59). -/
def Entry.factor (e : Entry) : Dir → Nat
  | .src => if e.isRed && e.inCarrier then carrierFactor e.redType else 1
  | .dst => if e.outCarrier then carrierFactor e.redType else 1
/-- Where job offset `x` lies on a side (R59, R224). -/
def Entry.sideOfs (e : Entry) (d : Dir) (x : Nat) : Nat :=
  if e.piSide d then x + 8 * (x / e.piB) else x * e.factor d
/-- Bytes a side occupies: length, L' or carrier bytes (R59, R224). -/
def Entry.sideLen (e : Entry) (d : Dir) : Nat := e.sideOfs d e.length
def Entry.space (e : Entry) : Dir → Nat
  | .src => e.srcSpace
  | .dst => e.dstSpace
def Entry.addr (e : Entry) : Dir → W64
  | .src => e.src
  | .dst => e.dst
def Entry.key (e : Entry) : Dir → Nat
  | .src => e.srcKey
  | .dst => e.dstKey
def Entry.ft (e : Entry) : Dir → Bool
  | .src => e.srcFt
  | .dst => e.dstFt
/-- The opcode has the side as data: reads it or writes it. -/
def Entry.hasSide (e : Entry) : Dir → Bool
  | .src => !e.isPlain && !e.isTrigAdd && !e.isFill
  | .dst => e.writes || e.isCompare

/-- A range of R65: `a` an address of a side in `space`, `n` bytes. -/
def rangeOk (space : Nat) (a n : Nat) : Bool :=
  if space = 2 then decide (bits a 0 46 + n ≤ 2 ^ 46) else decide (a + n ≤ 2 ^ 64)

/-! ## Decode checks (R79) -/

/-- 0x12 BAD_FLAG (R54). -/
def badFlag (e : Entry) : Bool :=
  bit e.flags 7 || (if e.isSg then !(e.srcFt || e.dstFt) else e.srcFt || e.dstFt)
    || (decide (e.opcode = 0x32) && e.noCqe)

/-- The opcodes that use the reduction byte, the guard bits or ord_class (R53). -/
def usesGuard (e : Entry) : Bool :=
  decide (e.opcode = 0x01) || e.isSg || e.isCheck || e.isPut || e.isGet
def usesOrd (e : Entry) : Bool := e.isPut || e.isGet || decide (e.opcode = 0x21)

/-- 0x13 RSVD_FIELD: reserved bits, fields that R53 marks 0, a key on a host side. -/
def rsvdField (e : Entry) : Bool :=
  decide (e.rsvd6 ≠ 0) || e.rsvd7 || decide (e.rsvdHi ≠ 0)
  || (if e.hasList then decide (bits e.opspec 6 10 ≠ 0) else decide (e.opspec ≠ 0))
  || ((e.isPlain || e.isFill) && decide (e.src ≠ 0))
  || (e.isTrigAdd && decide (2 ^ 20 ≤ e.src.toNat))
  || ((e.isPlain || e.isCheck) && decide (e.dst ≠ 0))
  || ((e.isPlain || e.isTrigAdd) && decide (e.length ≠ 0))
  || (!usesOrd e && decide (e.ordClass ≠ 0))
  || (decide (e.srcKey ≠ 0) && (!e.hasSide .src || decide (e.srcSpace = 0)))
  || (decide (e.dstKey ≠ 0) && (!e.hasSide .dst || decide (e.dstSpace = 0)))
  || (!e.isRed && (decide (e.redType ≠ 0) || e.repro || decide (e.redOp ≠ 0)))
  || (!e.isFill && decide (e.fillSel ≠ 0))
  || (!usesGuard e && (decide (e.piOp ≠ 0) || e.piType || e.piBlock))

/-- The legal space values of a side (R53). -/
def spacesOf (e : Entry) : Dir → List Nat
  | .src => if !e.hasSide .src then [0] else if e.isGet then [2] else [0, 1]
  | .dst => if !e.hasSide .dst then [0] else if e.isPut ∨ e.opcode = 0x21 then [2] else [0, 1]

/-- 0x14 BAD_SPACE. -/
def badSpace (e : Entry) : Bool := !decide (e.srcSpace ∈ spacesOf e .src) || !decide (e.dstSpace ∈ spacesOf e .dst)

/-- 0x15 BAD_RANGE at decode: sides that no table and no list describes. -/
def badRange (e : Entry) : Bool :=
  let bad (d : Dir) : Bool := e.hasSide d && !e.ft d && !rangeOk (e.space d) (e.addr d).toNat (e.sideLen d)
  (!e.hasList && bad .src) || bad .dst

/-- 0x16 BAD_RED (R58, R60). -/
def badRed (e : Entry) : Bool :=
  e.isRed &&
    (decide (e.redType = 7) || decide (e.redOp = 7)
     || (decide (e.redOp = 6) && isFp e.redType)
     || (e.repro && (!isFp e.redType || decide (e.redOp ≠ 0)))
     || (!e.repro && (e.inCarrier || e.outCarrier))
     || (decide (e.opcode = 0x22) && (!e.repro || !isFp e.redType || decide (e.redOp ≠ 0)))
     || (decide (e.opcode = 0x20) && decide (bits e.opspec 0 4 = 0)))

/-- Alignment a side of a reduction needs (R59). -/
def Entry.alignOf (e : Entry) (d : Dir) : Nat :=
  if e.factor d = 1 then elemBytes e.redType else (widthOf e.redType).bytes

/-- 0x17 BAD_ALIGN at decode (R59). -/
def badAlign (e : Entry) : Bool :=
  e.isRed &&
    (decide (e.length % elemBytes e.redType ≠ 0)
     || (!e.hasList && decide (e.src.toNat % e.alignOf .src ≠ 0))
     || decide ((if e.dstSpace = 2 then bits e.dst.toNat 0 46 else e.dst.toNat) % e.alignOf .dst ≠ 0))

/-- 0x18 BAD_FILL (R61). -/
def badFill (e : Entry) : Bool :=
  e.isFill && !(decide (e.fillSel ≤ 1) || (decide (0x10 ≤ e.fillSel) && decide (e.fillSel ≤ 0x20)))

/-- 0x19 BAD_GUARD (R63). -/
def badGuard (e : Entry) : Bool :=
  usesGuard e &&
    (decide (4 ≤ e.piOp)
     || (decide (e.piOp = 0) && (e.piType || e.piBlock))
     || (decide (e.piOp = 1) && decide (e.dstSpace ≠ 0))
     || ((decide (e.piOp = 2) || decide (e.piOp = 3)) && decide (e.srcSpace ≠ 0))
     || (e.isCheck && (decide (e.piOp = 1) || decide (e.piOp = 2)))
     || (decide (e.piOp ≠ 0) && decide (e.length % e.piB ≠ 0)))

/-- 0x1A BAD_TRIG (R51). -/
def badTrig (e : Entry) : Bool :=
  (!e.waitEn && (decide (e.waitCtr ≠ 0) || decide (e.threshold ≠ 0)))
  || (!e.signalEn && (decide (e.sigCtr ≠ 0) || decide (e.increment ≠ 0)))
  || (e.signalEn && decide (e.increment = 0))

/-- 0x1B BAD_CQ (R51, R79, R233). An adopted queue's cq_ovr that names no mirrored ring is not malformed: its record goes to the
queue's cqid (R371). -/
def State.badCq (s : State) (q : Nat) (e : Entry) : Bool :=
  (!e.cqOvrEn && decide (e.cqOvr ≠ 0)) || (e.cqOvrEn && decide (e.cqOvr = 0))
  || (e.cqOvrEn && !(isAdopted q && (decide ((s.cctx (ringOf q e.cqOvr)).state = .free) || (s.cctx (ringOf q e.cqOvr)).device))
      && (decide ((s.cctx (ringOf q e.cqOvr)).state = .free) || decide ((s.cctx (ringOf q e.cqOvr)).pd ≠ (s.qctx q).pd)))

/-- 0x1C FT_ALIGN (R73, R77). -/
def ftAlign (e : Entry) : Bool :=
  ((e.srcFt || e.hasList) && decide (e.src.toNat % 64 ≠ 0)) || (e.dstFt && decide (e.dst.toNat % 64 ≠ 0))

/-- The first cause a decode check finds, in cause-code order (R79); `b` the entry's bytes as read. -/
def State.decodeCause (s : State) (q : Nat) (b : List Byte) (e : Entry) : Option Nat :=
  if (s.qctx q).echk && decide (crc32c (b.take 60) ≠ e.echk) then some 0x10
  else if !decide (e.opcode ∈ opcodes) then some 0x11
  else if badFlag e then some 0x12
  else if rsvdField e then some 0x13
  else if badSpace e then some 0x14
  else if badRange e then some 0x15
  else if badRed e then some 0x16
  else if badAlign e then some 0x17
  else if badFill e then some 0x18
  else if badGuard e then some 0x19
  else if badTrig e then some 0x1A
  else if s.badCq q e then some 0x1B
  else if ftAlign e then some 0x1C
  else none

/-- A counter that an entry of `q` names passes R189. -/
def State.ctrOk (s : State) (q n : Nat) : Bool :=
  (s.ctrOf (ctrIdx q n)).valid && decide ((s.ctrOf (ctrIdx q n)).pd = (s.qctx q).pd)

/-- TRIG_PD (R189): some counter that the entry names fails. -/
def State.trigPd (s : State) (q : Nat) (e : Entry) : Bool :=
  (e.waitEn && !s.ctrOk q e.waitCtr) || (e.signalEn && !s.ctrOk q e.sigCtr)
    || (e.isTrigAdd && !s.ctrOk q e.src.toNat)

/-! ## Keys (R66 to R70) -/

/-- Judge a local key for [a, a + n): the status of the first condition of R68 that fails. An adopted queue's local side
ends with KEY_INVALID without a lookup (R368). -/
def State.keyCheck (s : State) (q key a n : Nat) (write : Bool) : Option Nat :=
  let r := s.mrOf (key % 2 ^ 20)
  if isAdopted q then some 0x10
  else if !r.valid || decide (r.tag ≠ key / 2 ^ 20) || decide (key / 2 ^ 20 = 0) then some 0x10
  else if r.pd ≠ (s.qctx q).pd then some 0x11
  else if r.hostBacked || !(if write then r.lw else r.lr) then some 0x12
  else if a < r.base ∨ r.base + r.size < a + n ∨ s.reserved a n then some 0x13
  else none

/-- What a remote key check answers (R69, R446): the region's kind, absolute address and PASID, or a reason of R443. -/
def State.remoteKey (s : State) (key ofs n : Nat) (right : RemoteRight) : Region × Nat :=
  let r := s.mrOf (key % 2 ^ 20)
  let has := match right with | .rr => r.rr | .rwr => r.rwr | .rred => r.rred
  if !r.valid || decide (r.tag ≠ key / 2 ^ 20) || decide (key / 2 ^ 20 = 0) then (r, 1)
  else if !has then (r, 2)
  else if r.size < ofs + n then (r, 3)
  else (r, 0)

/-! ## Fragments and source lists (R72 to R77) -/

/-- A fragment from its 16 bytes (R72). -/
def fragOf (b : List Byte) : Frag :=
  { addr := BitVec.ofNat 64 (leNat (b.take 8)), flen := leNat ((b.drop 8).take 4), key := leNat ((b.drop 12).take 4) }

/-- The fragments in a byte string. The first argument bounds their number. -/
def fragsOf : Nat → List Byte → List Frag
  | 0, _ => []
  | n + 1, b => if b.length < 16 then [] else fragOf (b.take 16) :: fragsOf n (b.drop 16)

/-- The space a table or list of a side lies in (R74). -/
def tableSpace (space : Nat) : Nat := if space = 1 then 1 else 0

/-- The next table read of a side: to the end of the 256-byte block it starts in (R76). -/
def tableRead (e : Entry) (d : Dir) (have_ : List Frag) : Nat × Nat :=
  let a := (e.addr d).toNat + 16 * have_.length
  (a, 256 - a % 256)

/-- The fragments of a side that a flight knows; a side without a table is one fragment under the entry key. -/
def Flight.fragsOf (f : Flight) (d : Dir) : List Frag :=
  if f.e.ft d then (match d with | .src => f.srcFrags | .dst => f.dstFrags)
  else [{ addr := f.e.addr d, flen := f.e.sideLen d, key := f.e.key d }]

/-- How a walk ends. -/
inductive Walk where
  | ok
  | more
  | mal (cause : Nat)
  | err (status : Nat)
  deriving DecidableEq, Repr

/-- The malformation of one fragment, `sum` bytes before it and `j` its number (R65, R72, R73, R79). -/
def fragCause (space len sum j : Nat) (g : Frag) : Option Nat :=
  if !rangeOk space g.addr.toNat g.flen then some 0x15
  else if g.flen = 0 ∨ (space = 0 ∧ g.key ≠ 0) then some 0x1D
  else if len < sum + g.flen then some 0x1E
  else if j = 65535 ∧ sum + g.flen < len then some 0x1F
  else none

/-- Walk the fragments of a side that side offsets [lo, hi) use, checking each one and its key (R70, R76). -/
def State.walkFrags (s : State) (q : Nat) (e : Entry) (d : Dir) (lo hi : Nat) : Nat → Nat → List Frag → Walk
  | _, sum, [] => if hi ≤ sum then .ok else .more
  | j, sum, g :: r =>
    if hi ≤ sum then .ok
    else if 0 < g.flen ∧ sum + g.flen ≤ lo then s.walkFrags q e d lo hi (j + 1) (sum + g.flen) r
    else match fragCause (e.space d) (e.sideLen d) sum j g with
      | some c => .mal c
      | none =>
        let chk := if e.space d = 1 then
            s.keyCheck q (if g.key = 0 then e.key d else g.key) g.addr.toNat g.flen (decide (d = .dst) && e.writes)
          else none
        match chk with
        | some st => .err st
        | none => s.walkFrags q e d lo hi (j + 1) (sum + g.flen) r

/-- Check the key of a side that no table and no list describes (R70). -/
def State.plainKey (s : State) (f : Flight) (d : Dir) : Walk :=
  let e := f.e
  if e.hasSide d && !e.ft d && !(e.hasList && decide (d = .src)) && decide (e.space d = 1) then
    match s.keyCheck f.q (e.key d) (e.addr d).toNat (e.sideLen d) (decide (d = .dst) && e.writes) with
    | some st => .err st
    | none => .ok
  else .ok

/-- Walk the table of a side, if it has one, for job offsets [lo, hi) (R70, R76). -/
def State.checkTable (s : State) (f : Flight) (d : Dir) (lo hi : Nat) : Walk :=
  let e := f.e
  if e.hasSide d && e.ft d then s.walkFrags f.q e d (e.sideOfs d lo) (e.sideOfs d hi) 0 0 (f.fragsOf d) else .ok

/-- The first check that does not pass. -/
def Walk.andThen (w : Walk) (v : Walk) : Walk :=
  match w with
  | .ok => v
  | w => w

/-- Check the sources of a list at a stitch's start (R70, R77). -/
def State.checkSources (s : State) (f : Flight) : List Frag → Walk
  | [] => .ok
  | g :: r =>
    let chk := if f.e.srcSpace = 1 then
        s.keyCheck f.q (if g.key = 0 then f.e.srcKey else g.key) g.addr.toNat (f.e.sideLen .src) false
      else none
    match chk with
    | some st => .err st
    | none => s.checkSources f r

/-- The lowest cause over all sources of a list (R77). -/
def listCause (e : Entry) (l : List Frag) : Option Nat :=
  if l.any (fun g => !rangeOk e.srcSpace g.addr.toNat (e.sideLen .src)) then some 0x15
  else if l.any (fun g => decide (g.addr.toNat % e.alignOf .src ≠ 0)) then some 0x17
  else if l.any (fun g => decide (g.flen ≠ 0) || (decide (e.srcSpace = 0) && decide (g.key ≠ 0))) then some 0x1D
  else none

/-- The start of a stitch over [lo, hi): the entry's own keys, which need no table, then the sources of a list or the
fragments, source side first (R70, R76, R77, R101). -/
def State.startChecks (s : State) (f : Flight) (lo hi : Nat) : Walk :=
  let list := if f.e.hasList then
      match f.srcList with
      | none => .more
      | some l => s.checkSources f l
    else .ok
  ((((s.plainKey f .src).andThen (s.plainKey f .dst)).andThen list).andThen (s.checkTable f .src lo hi)).andThen
    (s.checkTable f .dst lo hi)

/-! ## Runs: where side offsets lie, cut at fragment and 256-byte boundaries (R75) -/

/-- A run of one side: address, first side offset, bytes. -/
structure Run where
  addr : Nat
  ofs  : Nat
  n    : Nat
  deriving DecidableEq, Repr

/-- The fragment that holds side offset `o`, with the bytes left in it from there. -/
def locate : List Frag → Nat → Option (Nat × Nat)
  | [], _ => none
  | g :: r, o => if o < g.flen then some (g.addr.toNat + o, g.flen - o) else locate r (o - g.flen)

/-- The run at side offset `o`, at most `n` bytes. -/
def runAt (fr : List Frag) (o n : Nat) : Option Run :=
  match locate fr o with
  | none => none
  | some (a, left) => some { addr := a, ofs := o, n := min n (min left (256 - a % 256)) }

/-- The runs of [o, o + n). The first argument bounds their number. -/
def runsN : Nat → List Frag → Nat → Nat → List Run
  | 0, _, _, _ => []
  | k + 1, fr, o, n =>
    if n = 0 then []
    else match runAt fr o n with
      | none => []
      | some r => if r.n = 0 then [] else r :: runsN k fr (o + r.n) (n - r.n)

/-- The runs of [o, o + n) of a side. -/
def runs (fr : List Frag) (o n : Nat) : List Run := runsN n fr o n

/-- The frags of source `k` of an entry: the list's source, or the source side. -/
def Flight.srcRuns (f : Flight) (k : Nat) : List Frag :=
  if f.e.hasList then
    match f.srcList with
    | some l => [{ addr := (l.getD k ⟨0, 0, 0⟩).addr, flen := f.e.sideLen .src, key := 0 }]
    | none => []
  else f.fragsOf .src

/-- Sources of an entry: FILL has none, COMPARE reads its destination as a second one. -/
def Entry.readers (e : Entry) : Nat := if e.isFill then 0 else if e.isCompare then 2 else e.nsrc

/-- The side and fragments that reader `k` reads. -/
def Flight.reader (f : Flight) (k : Nat) : Dir × List Frag :=
  if f.e.isCompare && decide (k = 1) then (.dst, f.fragsOf .dst) else (.src, f.srcRuns k)

/-- Bytes of the reads that a stitch has out for reader `k`. -/
def Stitch.outBytes (x : Stitch) (k : Nat) : Nat := (x.rds.getD k []).foldl (fun n r => n + r.bytes.length) 0

end Sys2Proof.Machine
end

