-- ==== Sys2Proof/Machine/Flags.lean ====
section
/-!
DEFINITION. What an entry reports: completion statuses (04_completion_rings_and_hallmarks.md R124 to R126), bytes_done,
the record's bytes, and which exceptions a reduction reports (05_reductions_and_the_alloy_carrier.md R183 to R185).
-/
namespace Sys2Proof.Machine

/-- Status values of R126. -/
def stOk : Nat := 0x00
def stMiscompare : Nat := 0x01
def stMalformed : Nat := 0x02
def stDiscarded : Nat := 0x03
def stKeyBounds : Nat := 0x13
def stXlat : Nat := 0x14
def stPoison : Nat := 0x15
def stRemote : Nat := 0x16
def stTrigPd : Nat := 0x17
def stMemWrite : Nat := 0x18
def stChk : Nat := 0x20
def stPiGuard : Nat := 0x21
def stPiRef : Nat := 0x22
def stPiApp : Nat := 0x23
def stRedExcept : Nat := 0x28

/-- The end of the unbroken prefix that starts below `c`, over a list of job ranges; the first argument bounds the steps
(R125). -/
def prefixFrom : Nat → List (Nat × Nat) → Nat → Nat
  | 0, _, c => c
  | n + 1, l, c =>
    match l.find? (fun r => decide (r.1 ≤ c) && decide (c < r.2)) with
    | some r => prefixFrom n l r.2
    | none => c

/-- bytes_done (R125). -/
def Flight.bytesDone (f : Flight) : Nat := prefixFrom f.done.length f.done 0

/-- The status a flight completes with: RED_EXCEPT when a reported exception occurred and nothing else failed (R183); that
of the logged record for an entry that the fellow had completed (R370). -/
def Flight.finalStatus (f : Flight) : Nat :=
  match f.logged with
  | some r => r.status
  | none => if f.status = stOk ∧ f.redExc then stRedExcept else f.status

/-- Whether the entry signals at this completion (R194). -/
def Flight.signalsAt (f : Flight) : Bool :=
  let st := f.finalStatus
  f.e.signalEn && !f.skipSignal && decide (st ≠ stMalformed) && decide (st ≠ stDiscarded) && decide (st ≠ stTrigPd)
    && (decide (st = stOk) || decide (st = stRedExcept) || f.e.sigOnError)

/-- Whether it posts a record (R127). -/
def Flight.postsRecord (f : Flight) : Bool := !(f.e.noCqe && decide (f.finalStatus = stOk))

/-- Exceptions that IZ_RED_CFG reports (R184, R185); `cfg` is the register as it stood when the entry started. -/
def reported (cfg : Nat) (x : Exc) : Bool := x.carrier || (x.invalid && bit cfg 0) || (x.overflow && bit cfg 1) || (x.int && bit cfg 2)

/-- Count the exceptions of result elements in IZ_RED_EXCEPT (R184). DESIGN CHOICE (log entry 48): each kind counts once for a result
element, however many of its inputs show it. -/
def State.countExc (s : State) (l : List Exc) : State :=
  let n (p : Exc → Bool) : Nat := (l.filter p).length
  (((s.sat IZ_RED_EXCEPT_carrier (n (·.carrier))).sat IZ_RED_EXCEPT_invalid (n (·.invalid))).sat IZ_RED_EXCEPT_overflow
    (n (·.overflow))).sat IZ_RED_EXCEPT_integer (n (·.int))

/-- The record of a flight (R124, R150); the logged record of an entry that the fellow had completed (R370). -/
def Flight.record (f : Flight) : CRec :=
  let dd := (f.doneMt - f.acceptMt).toNat
  match f.logged with
  | some r => { r with adopted := true }
  | none =>
  { seq := f.idx, qid := f.q % 2 ^ 21, status := f.finalStatus, replayed := f.replayed, uncertain := f.uncertain,
    adopted := isAdopted f.q, bytesDone := f.bytesDone, opcode := f.e.opcode, acceptMt := f.acceptMt,
    doneDelta := min dd 0xFFFFFFFF, userTag := f.e.userTag }

/-- lap of ring index `i` in a ring of 2^k records (R124, R129). -/
def lapOf (i : W32) (k : Nat) : Nat := (i.toNat / 2 ^ k + 1) % 256

/-- The four words of a record at ring index `i` (R124). -/
def CRec.words (r : CRec) (i : W32) (k : Nat) : List W64 :=
  [BitVec.ofNat 64 (r.seq.toNat + r.qid % 2 ^ 21 * 2 ^ 32 + r.status % 256 * 2 ^ 53 + b2n r.replayed * 2 ^ 61
     + b2n r.uncertain * 2 ^ 62 + b2n r.adopted * 2 ^ 63),
   BitVec.ofNat 64 (r.bytesDone % 2 ^ 48 + r.opcode % 256 * 2 ^ 48 + lapOf i k * 2 ^ 56),
   r.acceptMt,
   BitVec.ofNat 64 (r.doneDelta + r.userTag % 2 ^ 32 * 2 ^ 32)]

/-- The record that four words hold (R124); its lap is set again when it is written. -/
def CRec.ofWords (l : List W64) : CRec :=
  let w (k : Nat) : Nat := (l.getD k 0).toNat
  { seq := BitVec.ofNat 32 (w 0), qid := bits (w 0) 32 21, status := bits (w 0) 53 8, replayed := bit (w 0) 61,
    uncertain := bit (w 0) 62, adopted := bit (w 0) 63, bytesDone := bits (w 1) 0 48, opcode := bits (w 1) 48 8,
    acceptMt := l.getD 2 0, doneDelta := bits (w 3) 0 32, userTag := bits (w 3) 32 32 }

/-- The bytes of words. -/
def wordBytes (l : List W64) : List Byte := l.flatMap (fun w => leBytes 8 w.toNat)

/-- A phase that counts as completed (R107, R108): its record is posted or none is due. -/
def Phase.completed : Phase → Bool
  | .posted | .released => true
  | _ => false

/-- A phase of an entry that has started and not completed. -/
def Phase.inRun : Phase → Bool
  | .started | .dataDone | .mirrorWait | .recWait => true
  | _ => false

/-- A phase of an entry that has started (R86). -/
def Phase.hasStarted : Phase → Bool
  | .fetched | .waitPark | .parked | .startable => false
  | _ => true

end Sys2Proof.Machine
end

