-- ==== Sys2Proof/Machine/AdmDecode.lean ====
section
/-!
DEFINITION. Admin entries (08_admin_queue.md R235 to R241): opcodes, the fields each format names, and the causes that make
an entry malformed.
-/
namespace Sys2Proof.Machine

/-- Admin opcodes below FW_CMD (R240). -/
def admOpcodes : List Nat :=
  [0x00, 0x01, 0x02, 0x03, 0x04, 0x05, 0x08, 0x09, 0x0A, 0x0B, 0x10, 0x11, 0x12, 0x13, 0x18, 0x20, 0x21, 0x22, 0x23, 0x28,
   0x29, 0x30, 0x31]

/-- The bits of words 8, 16, 24, 32 and 40 that a format names (R241). -/
def admMasks : Nat → List W64
  | 0x01 => [0xFFFFFFFFFFFFFFFF, 0xFFFFFFFF001FFFFF, 0x000FFFFF0003FFFF, 0x0000007FFFFFFFFF, 0]
  | 0x02 => [0, 0x00000001003FFFFF, 0x00000000FFFFFFFF, 0, 0]
  | 0x03 => [0, 0x00000000003FFFFF, 0x0000000000031FFF, 0, 0]
  | 0x04 => [0, 0x00000001003FFFFF, 0, 0, 0]
  | 0x05 => [0xFFFFFFFFFFFFFFFF, 0x00000001003FFFFF, 0, 0, 0]
  | 0x08 => [0xFFFFFFFFFFFFFFFF, 0xFFFFFFFFFFFFFFFF, 0xFFFFFFFF0003FFFF, 0xFFFFFFFF000FFFFF, 0x000000000FFFFFFF]
  | 0x09 => [0, 0, 0x000000000003FFFF, 0, 0]
  | 0x0A => [0, 0, 0x000000000003FFFF, 0xFFFF000000000000, 0x000000000FFFFE00]
  | 0x0B => [0xFFFFFFFFFFFFFFFF, 0, 0x000000010003FFFF, 0, 0]
  | 0x10 => [0, 0, 0x000000000000FFFF, 0, 0]
  | 0x11 => [0, 0, 0x000000000000FFFF, 0, 0]
  | 0x12 => [0xFFFFFFFFFFFFFFFF, 0x0000FFFFFFFFFFFF, 0x000003FFFFFFFFFF, 0x00000000000FFFFF, 0]
  | 0x13 => [0, 0, 0x00000000FFFFFFFF, 0, 0]
  | 0x18 => [0, 0x00000000003FFFFF, 0x00000000000003FF, 0, 0]
  | 0x20 => [0, 0, 0x000000000000017F, 0, 0]
  | 0x21 => [0, 0, 0x000000000000017F, 0, 0]
  | 0x22 => [0, 0, 0xFFFFFFFFFFFFFFFF, 0x0000000000000001, 0]
  | 0x23 => [0, 0, 0x000001FFFFFFFFFF, 0x000000000007FFFF, 0]
  | 0x28 => [0, 0, 0x0000000000000003, 0, 0]
  | 0x29 => [0, 0x00000000003FFFFF, 0x0000000000000003, 0, 0]
  | 0x30 => [0xFFFFFFFFFFFFFFFF, 0, 0x000000000000003F, 0, 0]
  | _ => [0, 0, 0, 0, 0]

/-- The eight words of 64 bytes. -/
def wordsOf64 (b : List Byte) : List W64 := (List.range 8).map (fun k => BitVec.ofNat 64 (leNat ((b.drop (8 * k)).take 8)))

/-- The opcode of an admin command. -/
def admOp (w : List W64) : Nat := bits (w.getD 0 0).toNat 0 8

/-- A field of a command word: word `k` (byte offset 8k), bits [lo + n - 1 : lo]. -/
def admF (w : List W64) (k lo n : Nat) : Nat := bits (w.getD k 0).toNat lo n

/-- A firmware-defined command. -/
def isFwCmd (op : Nat) : Bool := decide (0xC0 ≤ op)

/-- A reserved bit of an admin entry is set (R235, R241). -/
def admReserved (w : List W64) : Bool :=
  decide (admF w 0 16 16 ≠ 0)
    || (!isFwCmd (admOp w) &&
        ((((List.range 5).zip (admMasks (admOp w))).any (fun x => decide (w.getD (x.1 + 1) 0 &&& ~~~ x.2 ≠ 0)))
          || decide (w.getD 6 0 ≠ 0) || decide (admF w 7 0 32 ≠ 0)))

/-- The cause that makes an admin entry malformed (R236); `echk` whether the entry check is on. -/
def admCause (echk : Bool) (w : List W64) : Option Nat :=
  if echk && decide (crc32c ((wordBytes w).take 60) ≠ admF w 7 32 32) then some 0x10
  else if !(decide (admOp w ∈ admOpcodes) || isFwCmd (admOp w)) then some 0x11
  else if admF w 0 8 8 ≠ 0 then some 0x12
  else if admReserved w then some 0x13
  else none

end Sys2Proof.Machine
end

