-- ==== Sys2Proof/Machine/ArbOps.lean ====
section
/-!
DEFINITION. Channels, ranks and arbitration phases (09_arbitration.md R259 to R281).
-/
namespace Sys2Proof.Machine

/-- A requester may request a resource (R261). -/
def arbListed (res req : Nat) : Bool :=
  let host := decide (res ≤ 1)
  if req < 68 then decide (res ≤ 4) || decide (res = 6)
  else match req with
    | 68 | 69 => host || decide (res = 3)
    | 70 | 71 | 77 => decide (res = 6)
    | 72 | 74 | 79 => decide (res = 5)
    | 73 => decide (res = 5) || decide (res = 6)
    | 75 => host || decide (res = 3) || decide (res = 4)
    | 76 | 78 => host || decide (res = 3) || decide (res = 6)
    | _ => false

/-- The candidates of a resource. -/
def State.candOf (s : State) (res : Nat) : List Nat := Tbl.get (fun _ => []) s.arb.cand res
/-- Set the candidates of a resource. -/
def State.setCand (s : State) (res : Nat) (l : List Nat) : State :=
  (s.withArb { s.arb with cand := Tbl.set (fun _ => []) s.arb.cand res l })

/-- Channels that exist now: for REDU, the reduction units in service (R259, R260). -/
def State.channels (s : State) (res : Nat) : List Nat :=
  (List.range (arbChannels res)).filter (fun c => decide (res ≠ 4) || redInService (s.redSt c))

/-- Channels with an owner. -/
def State.owned (s : State) (res : Nat) : List (Nat × Owner) :=
  (s.channels res).filterMap (fun c => (s.ownerOf res c).map (fun o => (c, o)))

/-- The rank of engine `e` on a resource (R97, R262): with rank_follow = 1 that of the queue it serves, taken as its stitch was bound, and
15 for an admin stitch; with rank_follow = 0 its own setting. An engine that serves nothing keeps its last. -/
def State.engRank (s : State) (res e : Nat) : Nat :=
  if !s.fb IZ_SCHED_CFG_rank_follow then s.f (ARB_RANK_active res e)
  else match s.onEngine e with
    | some (_, x) => x.rank
    | none => if s.engSt e = 3 then 15 else s.f (IZ_ENG_STATE_rank e)

/-- The rank of a requester on a resource (R262). -/
def State.rankOf (s : State) (res req : Nat) : Nat :=
  if req < 68 then s.engRank res req
  else if req = 76 then s.f TB_TRACE_CFG_rank
  else if req = 75 ∧ res = 4 then s.f IZ_RED_CFG_fold_rank
  else s.f (ARB_RANK_active res req)

/-- The requester that the current slot names, in slot mode (R280). -/
def State.slotReq (s : State) (res : Nat) : Option Nat :=
  let r := s.f (ARB_SLOT_active res (s.f (ARB_SLOT_CFG_position res)))
  if s.fb (ARB_CTL_mode_active res) ∧ arbListed res r then some r else none

/-- A channel is held through the current slot (R280, R285). -/
def State.bySlot (s : State) (res : Nat) (o : Owner) : Bool := o.slot && decide (s.slotReq res = some o.req)

/-- Effective rank of an owner. -/
def State.ownerRank (s : State) (res : Nat) (o : Owner) : Nat := if s.bySlot res o then 16 else s.rankOf res o.req
/-- Effective rank of a candidate (R267, R280). -/
def State.candRank (s : State) (res req : Nat) : Nat := if s.slotReq res = some req then 16 else s.rankOf res req

/-- Requesters that a halt leaves (R273); a hard halt makes no context-store read (R418). -/
def State.haltGrants (s : State) (res req : Nat) : Bool :=
  (decide (res = 5) && (decide (req = 79) || decide (req = 73)) && !s.pair.hard)
    || (decide (res = 6) && (decide (req = 77) || decide (req = 70)) && !s.pair.hard)

/-- Where the round-robin of a rank starts: after the requester last granted at it (R267). -/
def State.rrStart (s : State) (res rank : Nat) : Nat := Tbl.get (fun _ => 0) s.arb.rr (arbKey res rank)

/-- Candidate `a` goes before candidate `b`. -/
def State.candBefore (s : State) (res a b : Nat) : Bool :=
  let ra := s.candRank res a
  let rb := s.candRank res b
  let turn (x r : Nat) : Nat := (x + 80 - s.rrStart res r) % 80
  decide (rb < ra) || (decide (ra = rb) && decide (turn a ra < turn b rb))

/-- Insert a candidate into an ordered list. -/
def State.insCand (s : State) (res x : Nat) : List Nat → List Nat
  | [] => [x]
  | y :: r => if s.candBefore res x y then x :: y :: r else y :: s.insCand res x r

/-- The candidates in the order of R267. -/
def State.orderCands (s : State) (res : Nat) (l : List Nat) : List Nat := l.foldl (fun a x => s.insCand res x a) []

/-- A reduction unit shows what its REDU channel's owner makes of it (R186). DESIGN CHOICE (log entry 73): an IDLE one keeps the engine that
it served last in IZ_RED_STATE.engine. -/
def State.showUnit (s : State) (res c : Nat) (o : Option Nat) : State :=
  if res ≠ 4 ∨ ¬ redInService (s.redSt c) ∨ s.redSt c = 8 then s
  else match o with
    | none => s.setRed c 0
    | some 75 => (s.setRed c 2).setF (IZ_RED_STATE_engine c) 0x7F
    | some e => (s.setRed c 1).setF (IZ_RED_STATE_engine c) e

/-- Channel `c` goes to `req` (R267). -/
def State.giveChannel (s : State) (res c req : Nat) : State :=
  let rank := s.candRank res req
  let s := s.setOwner res c (some { req := req, slot := decide (rank = 16), age := s.arb.stamp, idle := 0, take := none })
  let s := s.withArb { s.arb with stamp := s.arb.stamp + 1, rr := Tbl.set (fun _ => 0) s.arb.rr (arbKey res rank) ((req + 1) % 80) }
  let s := s.setCand res ((s.candOf res).filter (fun x => decide (x ≠ req)))
  s.showUnit res c (some req)

/-- Grant a free channel `c` to `req` (R267); trace event 0x10. -/
def State.grant (s : State) (res c req : Nat) : State :=
  (s.giveChannel res c req).traceEv 2 0x10 res (s.rankOf res req) req 0

/-- Free channel `c`. -/
def State.freeChannel (s : State) (res c : Nat) : State := (s.setOwner res c none).showUnit res c none

/-- A pending commit of the resource is applied (R276, R277). -/
def State.applyCommit (s : State) (res : Nat) : State :=
  if bit (s.f ARB_COMMIT_pending) res then
    let s := (List.range 80).foldl (fun s r =>
      if arbListed res r then s.setF (ARB_RANK_active res r) (s.f (ARB_RANK_rank res r)) else s) s
    let s := s.setF (ARB_CTL_mode_active res) (s.f (ARB_CTL_mode res))
    s.setF ⟨ARB_COMMIT, 8 + res, 1⟩ 0
  else s

/-- An owner drops its request: its channel is free, or passes as a free channel to the candidate that was to take it and still
requests (R268, R272). -/
def State.dropOwner (s : State) (res c : Nat) (o : Owner) (still : Nat → Bool) : State :=
  match o.take with
  | some x => if still x then (s.freeChannel res c).grant res c x else s.freeChannel res c
  | none => s.freeChannel res c

/-- Owners that no longer request lose their channels; in a halt one with a burst in flight keeps its channel up to its next break
point (R268, R273). -/
def State.dropOwners (s : State) (res : Nat) (raised : List Nat) (busy : Nat → Bool) : State :=
  forEach (s.owned res) (fun x s =>
    if decide (x.2.req ∈ raised) || (s.halted && busy x.2.req) then s else s.dropOwner res x.1 x.2 (fun c => decide (c ∈ raised))) s

/-- A requester drops its request on a resource (R263). -/
def State.dropReq (s : State) (res req : Nat) : State :=
  let s := s.setCand res ((s.candOf res).filter (fun x => decide (x ≠ req)))
  forEach ((s.owned res).filter (fun x => decide (x.2.req = req))) (fun x s =>
    s.dropOwner res x.1 x.2 (fun c => decide (c ∈ s.candOf res))) s

/-- A requester drops every request: its stitch ends, or waits in PACEWAIT (R263). -/
def State.dropChannels (s : State) (req : Nat) : State := forEach (List.range 7) (fun res s => s.dropReq res req) s

/-- Step 3 of R267: free channels to the candidates in order. -/
def State.grantFree (s : State) (res : Nat) : List Nat → State
  | [] => s
  | x :: r =>
    match (s.channels res).find? (fun c => (s.ownerOf res c).isNone) with
    | none => s
    | some c => (s.grant res c x).grantFree res r

/-- The victim for a candidate (R267, R280): the lowest rank below its own, the oldest grant among those. -/
def State.victimFor (s : State) (res x : Nat) : Option Nat :=
  let ok (o : Owner) : Bool := o.take.isNone
    && (if s.halted then !s.haltGrants res o.req
        else decide (s.ownerRank res o < s.candRank res x) && !(decide (s.candRank res x = 16) && s.bySlot res o))
  let l := (s.owned res).filter (fun y => ok y.2)
  let better (a b : Nat × Owner) : Bool :=
    let ra := s.ownerRank res a.2
    let rb := s.ownerRank res b.2
    decide (ra < rb) || (decide (ra = rb) && decide (a.2.age < b.2.age))
  (maxBy better l).map (·.1)

/-- Step 4 of R267: a victim for each remaining candidate, until none remains. -/
def State.chooseVictims (s : State) (res : Nat) : List Nat → State
  | [] => s
  | x :: r =>
    match s.victimFor res x with
    | none => s
    | some c =>
      (s.setOwner res c ((s.ownerOf res c).map (fun (o : Owner) => { o with take := some x }))).chooseVictims res r

/-- Takes chosen by an earlier phase are judged again; those whose candidate dropped its request lapse also while the
resource is frozen (R268, R272). DESIGN CHOICE (log entry 60): a take held over a freeze is judged again by the first phase after
freeze clears, as any other. -/
def State.clearTakes (s : State) (res : Nat) (raised : List Nat) (frozen : Bool) : State :=
  forEach (s.owned res) (fun x s =>
    let keep : Option Nat := match x.2.take with
      | some c => if frozen && decide (c ∈ raised) then some c else none
      | none => none
    s.setOwner res x.1 (some { x.2 with take := keep })) s

/-- Reduction units told to go OFFLINE leave at the next phase of REDU, their owners' break point, unless one has become the last (R242,
R253, R425). -/
def State.leaveUnits (s : State) (res : Nat) : State :=
  if res = 4 then
    forEach (s.spr.leaving.filter (fun x => x.1)) (fun x s =>
      let s := s.noLeave true x.2
      if redInService (s.redSt x.2) && s.mayLeave true then (s.setRed x.2 5).spareIn true x.2 else s) s
  else s

/-- Requesters of a phase: those that request, may, and are not refused since a bite (R261, R270, R273). -/
def State.heard (s : State) (res : Nat) (raised : List Nat) : List Nat :=
  (raised.filter (fun r => arbListed res r && (!s.halted || s.haltGrants res r) && !decide ((res, r) ∈ s.arb.refused))).dedup

/-- A refusal that stands past the bite is that of COB, whose fault Cobbler firmware handles: it lasts until the request is dropped
(R270; log entry 23). -/
def State.endRefusals (s : State) (res : Nat) (raised : List Nat) : State :=
  (s.withArb { s.arb with refused := s.arb.refused.filter (fun x => decide (x.1 ≠ res) || decide (x.2 ∈ raised)) })

/-- An arbitration phase with the requests `raised`; `busy` tells which requesters have a burst in flight on the resource (R266, R267,
R271, R273). -/
def State.arbPhase (s : State) (res : Nat) (raised : List Nat) (busy : Nat → Bool) : State :=
  let s := (s.applyCommit res).leaveUnits res
  let req := s.heard res raised
  let s := (s.endRefusals res raised).dropOwners res req busy
  let own := (s.owned res).map (fun x => x.2.req)
  let cands := s.orderCands res (req.filter (fun r => !decide (r ∈ own)))
  let s := s.setCand res cands
  let frozen := s.fb (ARB_CTL_freeze res) && !s.halted
  let s := s.clearTakes res req frozen
  if frozen then s
  else
    let s := s.grantFree res cands
    s.chooseVictims res (s.candOf res)

end Sys2Proof.Machine
end

