-- ==== Sys2Proof/Machine/Cache.lean ====
section
/-!
DEFINITION. The context cache (01_work_queues_and_doorbells.md R43 to R47, R191): which contexts are hot, what a lookup
counts, and how a way is evicted.
-/
namespace Sys2Proof.Machine

/-- The set of a counter in the context cache (R191). -/
def ctrSet (n : Nat) : Nat × Nat := (n % 16, n / 16 % 512)

/-- Counters with a waiter held on chip. -/
def State.lockedCtrs (s : State) : List Nat :=
  s.park.onChip.foldl (fun l x => match s.flight? x.1 x.2 with
    | some f => addNew l (ctrIdx x.1 f.e.waitCtr)
    | none => l) []

/-- Context-cache bank `b` is retired (R427). -/
def State.bankRetired (s : State) (b : Nat) : Bool := s.fb (SPR_ARRAY_retired b)

/-- Number of a context kind in a cache key. -/
def kindNum : CtxKind → Nat
  | .queue => 0 | .ring => 1 | .counter => 2
/-- Sets of a bank for a kind (R43). -/
def cacheSets : CtxKind → Nat
  | .queue => 256 | .ring => 32 | .counter => 512
/-- Bank and set of a context, as one key (R43, R191). -/
def cacheKey (k : CtxKind) (n : Nat) : Nat := kindNum k * 65536 + n % 16 * 4096 + n / 16 % cacheSets k
/-- The kind of a cache key. -/
def kindOfKey (key : Nat) : CtxKind := if key / 65536 = 0 then .queue else if key / 65536 = 1 then .ring else .counter
/-- The bank of a cache key. -/
def bankOfKey (key : Nat) : Nat := key % 65536 / 4096
/-- Contexts of a kind: the mover's own, and the adopted or mirrored ones (R347). -/
def ctxCount : CtxKind → Nat
  | .queue => 2 ^ 22 | .ring => 2 ^ 19 | .counter => 2 ^ 21

/-- The ways in use of a context's set, least recently used first. -/
def State.waysOf (s : State) (k : CtxKind) (n : Nat) : List Nat := Tbl.get (fun _ => []) s.cache.ways (cacheKey k n)
/-- Replace the ways of a context's set. -/
def State.setWays (s : State) (k : CtxKind) (n : Nat) (l : List Nat) : State :=
  (s.withCache { s.cache with ways := Tbl.set (fun _ => []) s.cache.ways (cacheKey k n) l })
/-- The context is hot: found in its set, its bank not retired (R43, R427). -/
def State.hot (s : State) (k : CtxKind) (n : Nat) : Bool := decide (n ∈ s.waysOf k n) && !s.bankRetired (n % 16)
/-- Make a context that its set holds the most recently used way. -/
def State.touch (s : State) (k : CtxKind) (n : Nat) : State :=
  if n ∈ s.waysOf k n then s.setWays k n ((s.waysOf k n).filter (fun m => decide (m ≠ n)) ++ [n]) else s

/-- The object exists: a FREE queue or ring and an unassigned counter are judged at once (log entry 11). Numbers above the
mover's own are those of mirrored or adopted objects (R347). -/
def State.ctxExists (s : State) (k : CtxKind) (n : Nat) : Bool :=
  match k with
  | .queue => decide ((s.qctx n).state ≠ .free)
      || (isAdopted n && decide ((Tbl.get (fun _ => QCtx.zero) s.pair.mq (n % 2 ^ 21)).state ≠ .free))
  | .ring => decide ((s.cctx n).state ≠ .free)
      || (bit n 18 && decide ((Tbl.get (fun _ => CqCtx.zero) s.pair.mcq (n % 2 ^ 18)).state ≠ .free))
  | .counter => (s.ctrOf n).valid

/-- A way is locked by an engine, by a mirror record not yet acknowledged, or by a waiter (R45, R191). -/
def State.wayLocked (s : State) (k : CtxKind) (n : Nat) : Bool :=
  s.snapSent k n || s.pair.locks.any (fun x => decide (x.1 = k) && decide (x.2.1 = n)) ||
    match k with
    | .queue => (s.flsOf n).any (fun f => !f.stitches.isEmpty)
    | .ring => false
    | .counter => decide (n ∈ s.lockedCtrs)

/-- A way may not be evicted: locked, or pinned (R45, R46). -/
def State.wayHeld (s : State) (k : CtxKind) (n : Nat) : Bool := s.wayLocked k n || (decide (k = .queue) && (s.qctx n).pin)

/-- Put a context into its set, evicting the least recently used way that may go, which is then to be written back; nothing when every
way is held (R45). A bank that is retired, or about to be, takes no fill (R427). -/
def State.insertCtx (s : State) (k : CtxKind) (n : Nat) : Option State :=
  if s.bankRetired (n % 16) || decide (n % 16 ∈ s.spr.retiring) then some s
  else if n ∈ s.waysOf k n then some (s.touch k n)
  else if (s.waysOf k n).length < 16 then some (s.setWays k n (s.waysOf k n ++ [n]))
  else match (s.waysOf k n).find? (fun m => !s.wayHeld k m) with
    | some m =>
      let t := s.setWays k n ((s.waysOf k n).filter (fun x => decide (x ≠ m)) ++ [n])
      some (t.withCache { t.cache with backs := t.cache.backs ++ [(k, m)] })
    | none => none

/-- A way is to be had for a context: it is hot, or its set has one that is free or may be evicted, or its bank takes no fills
(R45, R427). -/
def State.wayFor (s : State) (k : CtxKind) (n : Nat) : Bool := (s.insertCtx k n).isSome

/-- A context that a command has just written is hot where a way is to be had. -/
def State.warm (s : State) (k : CtxKind) (n : Nat) : State := (s.insertCtx k n).getD s

/-! ## Lookups (R44, R45, R47) -/

/-- A context that work asked for has been brought by its fetch, and the work has not gone on yet (R44). -/
def State.brought (s : State) (k : CtxKind) (n : Nat) : Bool := decide ((k, n, true) ∈ s.cache.wanted)
/-- The fetch of a context is asked for and has not come. -/
def State.asked (s : State) (k : CtxKind) (n : Nat) : Bool := decide ((k, n, false) ∈ s.cache.wanted)

/-- Count a lookup: hits and misses count queue contexts only (R47). -/
def State.countCtx (s : State) (k : CtxKind) (hit : Bool) : State :=
  if k = .queue then (if hit then s.wrapAdd WQ_CTX_HIT_hits 1 else s.wrapAdd WQ_CTX_MISS_misses 1) else s

/-- Look one context up for work that is not an aperture write (R44): found hot, it is the most recently used way; found cold,
the fetch is asked for and the work waits. A lookup that fetched counts once, when it found the context cold. -/
def State.demandOne (s : State) (k : CtxKind) (n : Nat) : State × Bool :=
  if !s.ctxExists k n then (s, true)
  else if s.brought k n then
    let s := s.withCache { s.cache with wanted := s.cache.wanted.filter (fun x => !decide (x = (k, n, true))) }
    (if s.hot k n then s.touch k n else s, true)
  else if s.hot k n then ((s.touch k n).countCtx k true, true)
  else if s.asked k n then (s, false)
  else (State.countCtx (s.withCache { s.cache with wanted := s.cache.wanted ++ [(k, n, false)] }) k false, false)

/-- Every context of the list is at hand: hot, or just fetched. -/
def State.atHand (s : State) (l : List (CtxKind × Nat)) : Bool :=
  l.all (fun x => !s.ctxExists x.1 x.2 || s.hot x.1 x.2 || s.brought x.1 x.2)

/-- Look up the contexts that a piece of work needs (R44): each one that is cold is asked for, and the work goes on only when
all are at hand. While one is missing, those at hand are not looked up. -/
def State.demand (s : State) (l : List (CtxKind × Nat)) : State × Bool :=
  if s.atHand l then (l.foldl (fun s x => (s.demandOne x.1 x.2).1) s, true)
  else (l.foldl (fun s x => if s.ctxExists x.1 x.2 && !s.hot x.1 x.2 && !s.brought x.1 x.2 then (s.demandOne x.1 x.2).1 else s) s, false)

/-- A fetched context was asked for by work outside the intake: that work goes on with it (R44). -/
def State.bring (s : State) (k : CtxKind) (n : Nat) : State :=
  (s.withCache { s.cache with wanted := s.cache.wanted.map (fun x => if x = (k, n, false) then (k, n, true) else x) })

/-- Ask for a context ahead of need, uncounted: the ring of a queue whose context arrives (R44). -/
def State.prefetch (s : State) (k : CtxKind) (n : Nat) : State :=
  if s.ctxExists k n && !s.hot k n && !s.brought k n && !s.asked k n then
    (s.withCache { s.cache with wanted := s.cache.wanted ++ [(k, n, false)] })
  else s

/-- A context leaves the cache: it no longer exists, or its way is lost. -/
def State.chill (s : State) (k : CtxKind) (n : Nat) : State :=
  s.setWays k n ((s.waysOf k n).filter (fun m => decide (m ≠ n)))

end Sys2Proof.Machine
end

