-- ==== Sys2Proof/Machine/Post.lean ====
section
/-!
DEFINITION. What several families share about an entry's end: counters and parking, release and CI, records, spills and
full rings, and the malformation of a queue (R21, R82, R107, R130 to R142, R190 to R202).
-/
namespace Sys2Proof.Machine

/-! ## Contexts written back -/

/-- The stored bytes of a context (R26, R131, R187, R330). -/
def State.ctxBytes (s : State) (k : CtxKind) (n : Nat) : List Byte :=
  match k with
  | .queue => wordBytes (s.qctx n).words ++ List.replicate 48 0
  | .ring => wordBytes ((s.cctx n).words (s.spilledOf n) (s.boundTo n).length)
  | .counter => wordBytes ((s.ctrOf n).words (s.waitersOf n).length)

/-- Write a context back: the mover's own to the context store, one of the fellow's to the mirror area (R45, R330, R346). -/
def State.writeCtx (s : State) (x : CtxKind × Nat) : State :=
  if x.2 < ctxCount x.1 / 2 then
    (s.touchBlock (storeBlock (ctxOffset x.1 x.2))).writePkg (s.pat.csBase + ctxOffset x.1 x.2) (s.ctxBytes x.1 x.2) false
  else if s.mirrorBase = 0 then s
  else s.writePkg (s.mirrorBase + ctxOffset x.1 x.2) (s.ctxBytes x.1 x.2) false

/-- CCACHE writes the evicted contexts back through its channel of CSTORE (R45, R261). -/
def State.serveBacks (s : State) : State :=
  if !s.cache.backs.isEmpty && s.owns resCstore 70 && !s.pair.hard then
    forEach s.cache.backs (fun x s => s.writeCtx x) (State.arbBusy (s.withCache { s.cache with backs := [] }) resCstore 70)
  else s

/-! ## Counters and parking -/

/-- The wait condition (R192): serial comparison in 44 bits. -/
def condHolds (value : W64) (threshold : Nat) : Bool :=
  decide ((value.toNat % 2 ^ 44 + 2 ^ 44 - threshold % 2 ^ 44) % 2 ^ 44 < 2 ^ 43)

/-- Add to counter `n` (R190) and mirror the change with its cause (R351). `sync`: the signal of a SYNC entry, which its
COMPLETE carried. -/
def State.addCtr (s : State) (n : Nat) (v : W64) (sync : Bool) (ccause q : Nat) (idx : W32) : State :=
  let c := s.ctrOf n
  let s := s.setCtr n { c with value := c.value + v }
  if sync then s else s.mirrorCtr n ccause q idx

/-- A newly parked entry that waits on counter `n` must go to the spill (R191, R427); so it does behind a spilled waiter of
the same counter, which keeps the waiters of a counter in parking order (R202). -/
def State.mustSpill (s : State) (n : Nat) : Bool :=
  let l := s.lockedCtrs
  s.bankRetired (n % 16)
    || s.park.spill.any (fun x => match s.flight? x.1 x.2 with
        | some f => decide (ctrIdx x.1 f.e.waitCtr = n)
        | none => false)
    || (!decide (n ∈ l) && decide (16 ≤ (l.filter (fun m => decide (ctrSet m = ctrSet n))).length))

/-- On-chip parking slots and park-spill entries (R200). -/
def parkSlots : Nat := 16384
def parkSpillSlots : Nat := 65536

/-- An entry that waits on counter `n` finds a slot on chip. -/
def State.chipSlot (s : State) (n : Nat) : Bool := decide (s.park.onChip.length < parkSlots) && !s.mustSpill n
/-- Room for one more parked entry that waits on counter `n`. DESIGN CHOICE (log entry 64): one that may only go to the spill finds no room
while the spill is full, though slots on chip are free. -/
def State.parkRoom (s : State) (n : Nat) : Bool := s.chipSlot n || decide (s.park.spill.length < parkSpillSlots)
/-- It may park now: a slot on chip, or one in the spill that PSPILL can write (R200, R261). -/
def State.parkOpen (s : State) (n : Nat) : Bool :=
  s.chipSlot n || (decide (s.park.spill.length < parkSpillSlots) && s.owns resCstore 71)

/-- The lowest entry of the park spill that is free (log entry 69). -/
def State.freeSlot (s : State) : Nat :=
  ((List.range (s.park.slots.length + 1)).find? (fun n => s.park.slots.all (fun x => decide (x.2 ≠ n)))).getD 0

/-- Where in the park spill an entry lies. -/
def State.spillSlot (s : State) (x : Nat × W32) : Nat := ((s.park.slots.find? (fun y => decide (y.1 = x))).map (·.2)).getD 0

/-- Write an entry's 64 bytes to the park spill, through PSPILL's channel of CSTORE (R200, R330). -/
def State.spillEntry (s : State) (q : Nat) (i : W32) : State :=
  let n := s.freeSlot
  let raw := match s.flight? q i with | some f => f.raw | none => []
  let s := ((s.touchBlock (storeBlock (parkOffset n))).writePkg (s.pat.csBase + parkOffset n) raw false).arbBusy resCstore 71
  s.withPark { s.park with spill := s.park.spill ++ [(q, i)], slots := s.park.slots ++ [((q, i), n)] }

/-- Park an entry: on chip, or in the spill (R200, R191). -/
def State.parkEntry (s : State) (q : Nat) (i : W32) (n : Nat) : State :=
  let chip := s.chipSlot n
  let s := s.updFl q i (fun f => { f with phase := .parked })
  if chip then s.withPark { s.park with onChip := s.park.onChip ++ [(q, i)] } else s.spillEntry q i

/-- Take an entry out of parking. -/
def State.unpark (s : State) (q : Nat) (i : W32) : State :=
  s.withPark { onChip := s.park.onChip.filter (fun x => !decide (x = (q, i))),
               spill := s.park.spill.filter (fun x => !decide (x = (q, i))),
               slots := s.park.slots.filter (fun x => !decide (x.1 = (q, i))) }

/-- Release an entry from parking (R202, R203). -/
def State.releasePark (s : State) (q : Nat) (i : W32) : State :=
  let s := (s.unpark q i).updFl q i (fun f => { f with phase := .startable })
  (s.wrapAdd IZ_TRIG_RELEASED_released 1).traceEv 1 0x03 0 0 q i.toNat

/-- Park an entry at decode, or release it in the same decision when its condition holds; let it wait for a slot, for
PSPILL's channel, or for its cold counter (R191, R193, R200, R201). -/
def State.parkOrWait (s : State) (q : Nat) (i : W32) (e : Entry) : State :=
  let n := ctrIdx q e.waitCtr
  if s.parkRoom n then
    let d := if s.mustSpill n then (s, true) else s.demand [(.counter, n)]
    if !d.2 || !d.1.parkOpen n then d.1
    else
      let s := d.1.parkEntry q i n
      if condHolds (s.ctrOf n).value e.threshold then s.releasePark q i else s
  else ((s.updFl q i (fun f => { f with phase := .waitPark })).cnt IZ_TRIG_STAT_park_full).raise 38

/-! ## Release and CI (R21, R351) -/

/-- Records are being sent for queue `q`'s objects. -/
def State.sending (s : State) (q : Nat) : Bool := s.qMirrored q && s.mirrorOn

/-- CI passes a released entry; one with writes that their port has not taken yet is kept for them (R83, R102). -/
def State.ciStep (s : State) (q : Nat) : Option State :=
  let c := s.qctx q
  match s.flight? q c.ci with
  | some f =>
    if f.phase = .released then
      let s := if f.began && s.sending q then s.withPair { s.pair with passed := s.pair.passed ++ [(q, c.ci)] } else s
      some ((if f.writes.isEmpty then s.dropFl q c.ci else s).updQ q (fun c => { c with ci := c.ci + 1 }))
    else none
  | none => none

/-- CI passes every released entry at its head. The first argument bounds the steps. -/
def State.ciRun : Nat → State → Nat → State
  | 0, s, _ => s
  | n + 1, s, q =>
    match s.ciStep q with
    | some s' => State.ciRun n s' q
    | none => s

/-- Send the CI record of queue `q` (R351). -/
def State.sendCi (s : State) (q : Nat) : State :=
  s.mirrorDelta .queue q 0x02 0 q (s.qctx q).ci 0 []

/-- The mirror side of a CI advance: SYNC sends each CI, ASYNC one per 64 cycles carrying the latest (R351). -/
def State.mirrorCi (s : State) (q : Nat) : State :=
  if s.qMirrored q && s.mirrorOn then
    if (s.qctx q).mirror = .sync then s.sendCi q
    else if s.pair.deferCi.any (fun x => decide (x.1 = q)) then
      (s.withPair { s.pair with deferCi := updWhere (fun x => decide (x.1 = q)) (fun x => (x.1, true)) s.pair.deferCi })
    else State.sendCi (s.withPair { s.pair with deferCi := s.pair.deferCi ++ [(q, false)] }) q
  else s.updQ q (fun c => { c with mirroredCi := c.ci })

/-- Advance CI of queue `q` (R21); a mirrored queue's CI waits while the mirror queue is full (R356). -/
def State.advanceCi (s : State) (q : Nat) : State :=
  if s.qMirrored q && s.mirrorOn && !s.mirrorRoom 1 then s
  else
    let s' := State.ciRun (s.flsOf q).length s q
    if (s'.qctx q).ci = (s.qctx q).ci then s else s'.mirrorCi q

/-- Mark an entry released and advance CI (R21). The records of the admin queue follow index order (R238). Numbers from 2^22
on name what is left of destroyed queues. -/
def State.release (s : State) (q : Nat) (i : W32) : State :=
  if q = 0 then s.updQ 0 (fun c => { c with ci := i + 1, mirroredCi := i + 1 })
  else if 2 ^ 22 ≤ q then s.dropFl q i
  else (s.updFl q i (fun f => { f with phase := .released })).advanceCi q

/-- Withdraw the entries of queue `q` for which `p` holds: they never run, post nothing and are released (R82, R248). The
answer's second part counts them. -/
def State.withdraw (s : State) (q : Nat) (p : Flight → Bool) : State × Nat :=
  let l := (s.flsOf q).filter p
  (forEach l (fun f s => (s.unpark q f.idx).release q f.idx) s, l.length)

/-! ## Records and full rings (R127 to R142) -/

/-- CQ group of a ring. -/
def cqGroup (c : Nat) : Nat := c % 16
/-- Records in a group's spill. -/
def State.spillLevel (s : State) (g : Nat) : Nat := (s.cqs.spill.filter (fun h => decide (cqGroup h.c = g))).length
/-- Records a group's spill holds (R138). -/
def spillCap : Nat := 4096

/-- The context of the fellow's ring `c` as mirrored. -/
def State.mcqOf (s : State) (c : Nat) : CqCtx := Tbl.get (fun _ => CqCtx.zero) s.pair.mcq c
/-- The later of two ring indices in serial order (R371). -/
def laterIdx (a b : W32) : W32 := if idxBefore a b then b else a

/-- Adopt the fellow's ring `c` (R371). One without a free slot enters FULL with the first record that finds it so, as any ring does
(R136, R137). -/
def State.adoptRing (s : State) (c : Nat) : State :=
  let x := s.mcqOf c
  if (s.cctx (c + 2 ^ 18)).state ≠ CqState.free ∨ x.state = CqState.free then s
  else
    let p := laterIdx x.pi x.ci
    let st := if x.state = .broken then CqState.broken else .active
    s.setC (c + 2 ^ 18) { x with state := st, pi := p, uncovered := 0 }

/-- The ring that takes a flight's record (R127, R371). For an adopted entry a cq_ovr ring in the fellow's memory, which this mover
cannot reach (R368), stands like an unmirrored one (log entry 41). -/
def State.recRing (s : State) (f : Flight) : Nat :=
  let own := ringOf f.q (s.qctx f.q).cqid
  if f.e.cqOvrEn && decide (f.finalStatus ≠ stMalformed) then
    let c := ringOf f.q f.e.cqOvr
    if isAdopted f.q && (decide ((s.cctx c).state = .free) || (s.cctx c).device) then own else c
  else own

/-- Stop a queue's bound stitches at their next break point; one of an entry bound by R91 runs to its end (R137). -/
def State.stopStitches (s : State) (q : Nat) : State :=
  let mine (f : Flight) : Bool := decide (f.q = q) && !boundByR91 (s.qctx q) f.e
  (s.withFl (updWhere mine (fun f => { f with stitches := f.stitches.map (fun x => { x with stop := true }) }) s.fl))

/-- Stop a queue whose ring is FULL or BROKEN (R137, R141). -/
def State.stallNow (s : State) (q : Nat) : State :=
  let x := s.qctx q
  if x.cqStall then s
  else match x.state with
    | .ready =>
      ((s.setQ q { x with cqStall := true, state := .stopped, cqStalls := satAdd 16 x.cqStalls 1 }).stopStitches q).snapQ q
    | .stopped | .fenced | .quarantined => s.setQ q { x with cqStall := true }
    | _ => s

/-- The Q_CTX record of queue `q` would be sent now (R351, R358). -/
def State.snapDue (s : State) (q : Nat) : Bool := s.qMirrored q && s.mirrorLive && !s.halted

/-- Stop the queues of a ring that entered FULL or BROKEN (R137, R141); the stop of a mirrored queue waits for room for its record
(R351, R356). -/
def State.stallQueues (s : State) (c : Nat) : State :=
  forEach (s.boundTo c) (fun q s =>
    let x := s.qctx q
    if s.actWaits (s.snapDue q && !x.cqStall && decide (x.state = .ready)) then s.addAct (.stall q) else s.stallNow q) s

/-- A ring enters FULL (R136). DESIGN CHOICE (log entry 62): arg32 of the trace events of an adopted ring is its number with bit 18 set. -/
def State.enterFull (s : State) (c : Nat) : State :=
  let x := s.cctx c
  let s := s.setC c { x with state := .full, fullEvents := satAdd 16 x.fullEvents 1, stallMt := s.mt }
  let s := ((s.cnt CQ_FULL_STAT_count).setF CQ_FULL_STAT_last_cqid (c % 2 ^ 18)).raise 34
  (s.traceEv 4 0x30 0 0 c x.pi.toNat).stallQueues c

/-- Put a held record in its group's spill (R136). -/
def State.spillRec (s : State) (h : Held) : State :=
  let s := s.withCqs { s.cqs with spill := s.cqs.spill ++ [h] }
  let s := s.peak (CQ_SPILL_peak (cqGroup h.c)) (s.spillLevel (cqGroup h.c))
  if (s.cctx h.c).state = .active then s.enterFull h.c else s

/-- Free slots of a ring. -/
def CqCtx.free (x : CqCtx) : Nat := 2 ^ x.sizeLog2 - idxDiff x.pi x.ci

/-- Issue a record's write (R139): pi advances as it is issued. -/
def State.issueRec (s : State) (h : Held) : State :=
  let x := s.cctx h.c
  (((s.setC h.c { x with pi := x.pi + 1 })).withCqs { s.cqs with issued := s.cqs.issued ++ [(x.pi, { h with at_ := s.tb.cycle, sent := false })] })

/-- What completing does once the record is written or spilled, or none is due (R195): the signal, and the registers that
count completed entries (R185, R470). Nothing more for an entry that has completed. -/
def State.completed (s : State) (q : Nat) (i : W32) : State :=
  match s.flight? q i with
  | none => s
  | some f =>
    if f.phase.completed then s
    else
    let s := s.updFl q i (fun f => { f with phase := .posted })
    let s := if f.signalsAt then
        s.addCtr (ctrIdx q f.e.sigCtr) (BitVec.ofNat 64 f.e.increment) f.complSeq.isSome 0 q i
      else s
    let s := if f.finalStatus = stRedExcept then (s.setF IZ_RED_LAST_qid q).setF IZ_RED_LAST_index i.toNat else s
    if f.finalStatus = stRemote then s.cnt IZ_NETP_STAT_remote_err else s

/-- Records of ring `c` that wait for room in the spill (R138). -/
def State.waitsFor (s : State) (c : Nat) : Bool := s.cqs.waiting.any (fun h => decide (h.c = c))

/-- A record may go straight to its ring: one that takes records and has a slot, and behind which none is held (R130, R136). -/
def State.direct (s : State) (c : Nat) : Bool :=
  let x := s.cctx c
  (decide (x.state = .active) || decide (x.state = .full) || decide (x.state = .destroying)) && decide (s.spilledOf c = 0)
    && !s.waitsFor c && decide (0 < x.free)

/-- Place a record: written to a ring with room, held in the spill of a full or broken one, or waiting when the group's spill
is full (R136, R138, R141). A record for a ring that is no longer there is dropped and its entry released. -/
def State.placeRec (s : State) (h : Held) : State :=
  if (s.cctx h.c).state = .free then (s.completed h.q h.idx).release h.q h.idx
  else if s.direct h.c then (s.completed h.q h.idx).issueRec h
  else if s.spillLevel (cqGroup h.c) < spillCap && !s.waitsFor h.c then (s.completed h.q h.idx).spillRec h
  else
    let s := s.withCqs { s.cqs with waiting := s.cqs.waiting ++ [h] }
    s.updFl h.q h.idx (fun f => { f with phase := .recWait })

/-- Step 6 of R82: the quarantine of queue `q` is recorded, with its cause and the `n` entries withdrawn, and raised. -/
def State.quarNote (s : State) (q cause : Nat) (cidx : W32) (n : Nat) : State := (s.log 0x01 2 q cause cidx.toNat n).raise 33

/-- The record of entry `f` is posted or spilled: the quarantine that the entry caused is recorded after it (R82). -/
def State.noteAfter (s : State) (f : Option Flight) : State :=
  match f with
  | none => s
  | some f => match f.quar with
    | some n => s.quarNote f.q f.malCause f.idx n
    | none => s

/-- The record of an entry waits for room in the spill (R138). -/
def State.recWaiting (s : State) (q : Nat) (i : W32) : Bool :=
  match s.flight? q i with
  | some f => decide (f.phase = .recWait)
  | none => false

/-- Post the completion of an entry (R127, R195); the quarantine that it caused is recorded once its record is posted or spilled
(R82). -/
def State.postEntry (s : State) (q : Nat) (i : W32) : State :=
  match s.flight? q i with
  | none => s
  | some f =>
    let t := if f.postsRecord then s.placeRec { c := s.recRing f, r := f.record, q := q, idx := i }
      else (s.completed q i).release q i
    if t.recWaiting q i then t else t.noteAfter (some f)

/-- The counter that a held record's entry signals as it completes (R138, R191, R195). -/
def State.signalNeeds (s : State) (h : Held) : List (CtxKind × Nat) :=
  match s.flight? h.q h.idx with
  | some f => if f.signalsAt && !f.phase.completed then [(.counter, ctrIdx f.q f.e.sigCtr)] else []
  | none => []

/-- Waiting records of a group enter the spill, oldest first, as far as the room allows; each entry completes then, once the counter it
signals is at hand (R138, R191). The first argument bounds them. -/
def State.refillSpill : Nat → State → Nat → State
  | 0, s, _ => s
  | n + 1, s, g =>
    if s.spillLevel g < spillCap then
      match s.cqs.waiting.find? (fun h => decide (cqGroup h.c = g)) with
      | none => s
      | some h =>
        let d := s.demand (s.signalNeeds h)
        if !d.2 then d.1
        else
          let f := d.1.flight? h.q h.idx
          let s := d.1.withCqs { d.1.cqs with waiting := d.1.cqs.waiting.erase h }
          State.refillSpill n (((s.completed h.q h.idx).spillRec h).noteAfter f) g
    else s

/-- Write the held records of ring `c` while it has room: the spilled ones first, oldest first, then those that wait, whose
entries complete so once the counters they signal are at hand (R139, R191). The first argument bounds them. -/
def State.drainHeld : Nat → State → Nat → State
  | 0, s, _ => s
  | n + 1, s, c =>
    if 0 < (s.cctx c).free then
      match s.cqs.spill.find? (fun h => decide (h.c = c)) with
      | some h =>
        let s := State.issueRec (s.withCqs { s.cqs with spill := s.cqs.spill.erase h }) h
        State.drainHeld n (State.refillSpill s.cqs.waiting.length s (cqGroup c)) c
      | none =>
        match s.cqs.waiting.find? (fun h => decide (h.c = c)) with
        | none => s
        | some h =>
          let d := s.demand (s.signalNeeds h)
          if !d.2 then d.1
          else
            let f := d.1.flight? h.q h.idx
            let s := d.1.withCqs { d.1.cqs with waiting := d.1.cqs.waiting.erase h }
            State.drainHeld n (((s.completed h.q h.idx).issueRec h).noteAfter f) c
    else s

/-- A queue whose ring has left FULL goes on (R139). -/
def State.unstallNow (s : State) (q : Nat) : State :=
  let x := s.qctx q
  if x.cqStall then
    let st := if x.state = .stopped ∧ ¬ x.stopReq then QState.ready else x.state
    (s.setQ q { x with cqStall := false, state := st }).snapQ q
  else s

/-- A queue whose ring has left FULL; a mirrored one waits for room for its record (R139, R351, R356). -/
def State.unstall (s : State) (q : Nat) : State :=
  if s.actWaits (s.snapDue q && (s.qctx q).cqStall) then s.addAct (.stall q) else s.unstallNow q

/-- A FULL ring with no held record and an eighth of its slots free returns to ACTIVE (R139). -/
def State.leaveFull (s : State) (c : Nat) : State :=
  let x := s.cctx c
  if x.state = .full ∧ s.spilledOf c = 0 ∧ ¬ s.waitsFor c
      ∧ idxDiff x.pi x.ci ≤ 2 ^ x.sizeLog2 - 2 ^ (x.sizeLog2 - 3) then
    let s := (s.setC c { x with state := .active }).traceEv 4 0x31 0 0 c x.pi.toNat
    forEach (s.boundTo c) (fun q s => s.unstall q) s
  else s

/-- What a legal consumer index does beyond ci (R139). -/
def State.drainRing (s : State) (c : Nat) : State :=
  if (s.cctx c).state = .full ∨ (s.cctx c).state = .active then
    (State.drainHeld (s.cqs.spill.length + s.cqs.waiting.length) s c).leaveFull c
  else s

/-- CQCI of a mirrored ring for an index written at Mover Time `t`, at most one per 64 cycles (R148, R351). -/
def State.mirrorCqci (s : State) (c : Nat) (t : W64) : State :=
  if s.cMirrored c && s.mirrorOn then
    if s.pair.deferCqci.any (fun x => decide (x.1 = c)) then
      (s.withPair { s.pair with deferCqci := updWhere (fun x => decide (x.1 = c)) (fun x => (x.1, true)) s.pair.deferCqci })
    else
      State.mirrorDeltaAt (s.withPair { s.pair with deferCqci := s.pair.deferCqci ++ [(c, false)] }) t 1
        .ring c 0x07 0 0 (s.cctx c).ci 0 []
  else s

/-- A consumer index of ring `c` is legal (R134). -/
def CqCtx.ciLegal (x : CqCtx) (v : W32) : Bool := decide (idxDiff x.pi v ≤ idxDiff x.pi x.ci)

/-- Judge a consumer index for ring `c`, written at Mover Time `t` (R134, R135, R139). -/
def State.judgeCiNow (s : State) (c : Nat) (v : W32) (t : W64) : State :=
  let x := s.cctx c
  if x.ciLegal v then
    ((s.setC c { x with ci := v }).drainRing c).mirrorCqci c t
  else
    let s := s.setC c { x with ciErrors := satAdd 16 x.ciErrors 1 }
    let s := ((s.cnt CQ_CI_BAD_count).setF CQ_CI_BAD_last_cqid (c % 2 ^ 18)).setF CQ_CI_BAD_last_ahead
      (if idxDiff v x.pi < 2 ^ 31 then 1 else 0)
    s.raise 35

/-- A consumer index for ring `c` is judged, or waits for room for its record, or behind one that does (R356). -/
def State.judgeCi (s : State) (c : Nat) (v : W32) (t : W64) : State :=
  let mine (a : MirrorAct) : Bool := match a with | .ci d _ _ => decide (d = c) | _ => false
  let sends := (s.cctx c).ciLegal v && s.cMirrored c && !s.pair.deferCqci.any (fun x => decide (x.1 = c)) && s.deltaDue .ring c
  if s.pair.acts.any mine || s.actWaits sends then s.withPair { s.pair with acts := s.pair.acts ++ [.ci c v t] } else s.judgeCiNow c v t

/-- The host port a ring's records go through; none for a device-resident ring (R128). -/
def CqCtx.port (x : CqCtx) : Option Nat := if x.device then none else some (b2n x.hostpSel)

/-- Raise a ring's source for records newly accepted (R142): one raise for each full group. -/
def State.coalesce (s : State) (c n : Nat) : State :=
  let x := s.cctx c
  if x.irqEn then
    let u := x.uncovered + n
    let g := x.coalCount + 1
    let s := s.setC c { x with uncovered := u % g }
    (List.range (u / g)).foldl (fun s _ => s.raiseVia x.port x.irqSrc) s
  else s

/-- A ring enters BROKEN (R141): its records not yet accepted are held again, before those held already, in the spill as far
as it has room, and its write-backs are given up. One that was FULL has left it (R152). -/
def State.breakRing (s : State) (c : Nat) (mem : Bool) : State :=
  let x := s.cctx c
  let g := cqGroup c
  let mine := (s.cqs.issued.filter (fun y => decide (y.2.c = c))).map (·.2)
  let k := spillCap - s.spillLevel g
  let s := s.withCqs { issued := s.cqs.issued.filter (fun y => decide (y.2.c ≠ c)), spill := mine.take k ++ s.cqs.spill,
                       waiting := mine.drop k ++ s.cqs.waiting, wbs := s.cqs.wbs.filter (fun y => decide (y.1 ≠ c)) }
  let s := (s.setC c { x with state := .broken }).peak (CQ_SPILL_peak g) (s.spillLevel g)
  let s := if x.state = .full then s.traceEv 4 0x31 0 0 c x.pi.toNat else s
  let s := (s.logIn (if mem then 3 else 1) 0x08 3 c (b2n mem) 0 x.pi.toNat).raise 36
  s.stallQueues c

/-! ## Ordering of completion (R107, R108) -/

/-- Every earlier entry of the queue has completed. -/
def State.earlierDone (s : State) (q : Nat) (i : W32) : Bool :=
  (s.flsOf q).all (fun f => !idxBefore f.idx i || f.phase.completed)

/-- The entry may complete (R107, R83): a MALFORMED record is never held. -/
def State.mayFinish (s : State) (f : Flight) : Bool :=
  decide (f.finalStatus = stMalformed) || !f.e.ordered || s.earlierDone f.q f.idx

/-- The seq of a record is acknowledged, or the mirror no longer runs and the entry completes as in mode NONE (R352,
R358). -/
def State.seqAcked (s : State) (x : Option W32) : Bool :=
  match x with
  | none => true
  | some sq => idxBefore sq s.pair.acked || !s.mirrorOn

/-- The resource that reader `k` of an entry reads through. -/
def State.readRes (s : State) (f : Flight) (k : Nat) : Nat := portRes (f.e.space (f.reader k).1) (s.qctx f.q).port
/-- Read requests outstanding on host port `p`: those of stitches, the ones of stitches that have ended among them, entry, table and
list reads, and flushing reads (R437, R470). -/
def State.hostReads (s : State) (p : Nat) : Nat :=
  let one (f : Flight) (x : Stitch) : Nat :=
    (List.range f.e.readers).foldl (fun n k => if s.readRes f k = p then n + (x.rds.getD k []).length else n) 0
  s.fl.foldl (fun n f => f.stitches.foldl (fun n x => n + one f x) n + b2n (f.flush.getD p false)) 0
    + (s.ic.held.filter (fun x => decide (x.2 = p) && decide (x ∉ s.ic.unread))).length
    + (s.arb.gone.filter (fun x => decide (x.res = p))).length + (s.arb.sent.filter (fun x => decide (x.1 = p))).length

/-- Port `p` holds one more read request (R437); the other resources set no such limit. -/
def State.readRoom (s : State) (res : Nat) : Bool := decide (1 < res) || decide (s.hostReads res < 1024)

/-- The port to flush before the record of `f` (R103): that of its host writes, when the record goes to a host-resident
ring through the other one. Writes that are issued count, accepted or not, sound or poisoned. -/
def State.flushPort (s : State) (f : Flight) : Option Nat :=
  let c := s.qctx f.q
  let x := s.cctx (s.recRing f)
  if f.postsRecord ∧ f.e.writes ∧ f.e.dstSpace = 0 ∧ 0 < f.wnext ∧ ¬ x.device ∧ x.hostpSel ≠ c.hostpSel then
    some (b2n c.hostpSel)
  else none

/-- b of a COMPLETE record (R350). -/
def State.complB (s : State) (f : Flight) : W64 :=
  BitVec.ofNat 64 (s.recRing f % 2 ^ 18 + f.e.sigCtr * 2 ^ 18 + f.e.increment * 2 ^ 38 + b2n f.signalsAt * 2 ^ 50)

/-- The entries for which `p` holds, in the order of R130: by extended QID, and within a queue in serial order. -/
def State.inOrder (s : State) (p : Flight → Bool) : List Flight :=
  (sortNat ((s.fl.filter p).map (·.q)).dedup).flatMap (fun q => (s.flsOf q).filter p)

/-- The completion of an entry waits for a context that is being fetched (R44). -/
def State.endLater (s : State) (q : Nat) (i : W32) : State :=
  s.withCache { s.cache with ends := addNew s.cache.ends (q, i) }

/-- The contexts that posting a completion needs: its ring's, and that of the counter it signals (R44, R191). -/
def State.endNeeds (s : State) (f : Flight) : List (CtxKind × Nat) :=
  (if f.postsRecord then [(.ring, s.recRing f)] else []) ++ (if f.signalsAt then [(.counter, ctrIdx f.q f.e.sigCtr)] else [])

/-- Post a decided completion once its COMPLETE is acknowledged, its flushing read has returned and its contexts are at hand
(R44, R103, R355), and the records that it sends find room (R356). -/
def State.finish (s : State) (q : Nat) (i : W32) : State :=
  match s.flight? q i with
  | none => s
  | some f =>
    if f.phase = .mirrorWait && s.seqAcked f.complSeq && !f.flush.any id && s.run then
      let d := s.demand (s.endNeeds f)
      if !d.2 then d.1.endLater q i
      else if s.sending q then s.orWait (d.1.postEntry q i)
      else d.1.postEntry q i
    else s

/-- The flushing read that the entry's record needs finds no room at its port (R103, R437). -/
def State.flushWaits (s : State) (f : Flight) : Bool :=
  match s.flushPort f with
  | some p => !s.readRoom p
  | none => false

/-- Decide the completion of an entry at data done as far as the ordering rules, its queue's context, the mirror queue and its
snapshot allow, and the port has room for the flushing read (R44, R107, R355, R356, R437); SYNC sends COMPLETE first. -/
def State.tryComplete (s : State) (q : Nat) (i : W32) : State :=
  match s.flight? q i with
  | none => s
  | some f =>
    let m := (s.qctx q).mirror
    if f.phase ≠ .dataDone ∨ ¬ s.run ∨ ¬ s.mayFinish f ∨ s.flushWaits f then s
    else if s.sending q && (!s.mirrorRoom 1 || (decide (m = .sync) && s.snapOpen .queue q)) then s
    else
      let d := s.demand [(.queue, q)]
      if !d.2 then d.1.endLater q i
      else
        let s := d.1
        let sync := s.sending q && decide (m = .sync)
        let f := { f with doneMt := s.mt }
        let sq := s.pair.seq
        let s := if sync then
            s.mirrorRec 0x05 q 0 q i (s.complB f) (f.record.words (s.cctx (s.recRing f)).pi (s.cctx (s.recRing f)).sizeLog2)
          else s
        let s := match s.flushPort f with
          | some p => s.emit (.flushRead (decide (p = 1)))
          | none => s
        let fl := match s.flushPort f with
          | some p => [decide (p = 0), decide (p = 1)]
          | none => [false, false]
        let s := s.updFl q i (fun (g : Flight) =>
          { g with phase := .mirrorWait, doneMt := f.doneMt, flush := fl, flushed := true,
                   complSeq := if sync then some sq else none })
        s.finish q i

/-- Paced bursts are no longer outstanding on their lines (R117). -/
def State.freeBursts (s : State) (l : List (Nat × Nat)) : State :=
  l.foldl (fun s b => s.updLine b.1 (fun y => { y with out := y.out - 1 })) s

/-- What an entry has kept of a paced stitch is given up with the rest of its data: its bursts are no longer outstanding (R117). -/
def State.dropKept (s : State) (q : Nat) (i : W32) : State :=
  match s.flight? q i with
  | none => s
  | some f => match f.kept with
    | none => s
    | some x => (s.freeBursts x.ends).updFl q i (fun f => { f with kept := none })

/-- An entry with nothing left to do reaches data done (R102); a malformed one posts its record once no stitch of it is bound
(R83). -/
def State.settle (s : State) (q : Nat) (i : W32) : State :=
  match s.flight? q i with
  | none => s
  | some f =>
    let early := decide (f.phase = .fetched) || decide (f.phase = .startable) || decide (f.phase = .started)
    let nothingLeft := (f.ended || (decide (f.phase = .started) && decide (f.e.length ≤ f.next))) && f.redo.all (fun r => decide (f.goal ≤ r.1))
    if early && nothingLeft && f.stitches.isEmpty && (f.writes.isEmpty || decide (f.status = stMalformed)) then
      let s := (s.dropKept q i).updFl q i (fun (g : Flight) => { g with phase := .dataDone })
      if f.status = stMalformed then s.tryComplete q i else s
    else s

/-! ## Malformation of a queue (R81, R82) -/

/-- STRICT_USER in force (R81). -/
def State.strict (s : State) : Bool := s.fb PAT_STAT_strict_user

/-- Quarantine (R82). DESIGN CHOICE (log entry 63): a second entry of a queue that is QUARANTINED already, found malformed as it runs, runs
the quarantine again: its cause and index replace the first ones, and the log record and source 33 follow its own record. `entry` is the
offending entry for an entry cause. Withdrawn are the parked entries, and those released from parking that an entry cause finds unstarted
before its entry (log entry 33). -/
def State.quarantine (s : State) (q cause : Nat) (cidx : W32) (entry : Option W32) : State :=
  let s := s.updQ q (fun c => { c with cause := cause, causeIndex := cidx, state := .quarantined })
  let goes (f : Flight) : Bool := decide (some f.idx ≠ entry) &&
    (decide (f.phase = .parked) || (decide (f.phase = .startable) && (match entry with | some i => idxBefore f.idx i | none => false)))
  let w := s.withdraw q goes
  match entry with
  | some i =>
    let s := w.1.updFl q i (fun (f : Flight) =>
      { f with status := stMalformed, malCause := cause, ended := true, redExc := false, quar := some w.2,
               stitches := f.stitches.map (fun (x : Stitch) => { x with stop := true }) })
    (s.settle q i).snapQ q
  | none => (w.1.quarNote q cause cidx w.2).snapQ q

/-- The consequence of a malformation, by class (R81, R84). -/
def State.malformed (s : State) (q cause : Nat) (cidx : W32) (entry : Option W32) : State :=
  if (s.qctx q).cls = .user ∧ ¬ s.strict then s.quarantine q cause cidx entry
  else (s.updQ q (fun c => { c with cause := cause, causeIndex := cidx })).halt 1 cause q cidx

end Sys2Proof.Machine
end

