-- ==== Sys2Proof/Machine/Transfer.lean ====
section
/-!
DEFINITION. What a port makes of a read or a write, and what it counts (15_boundary_ports_clocks_and_balls.md R439, R440,
R450, R470).
-/
namespace Sys2Proof.Machine

/-- How a read or write fails at its port. -/
inductive PortFail where
  /-- the host interface rejects the translation (R439) -/
  | xlat
  /-- an address outside in-package memory (R450) -/
  | addr
  /-- poisoned or uncorrectable data (R440, R448) -/
  | poison
  deriving DecidableEq, Repr

/-- The beats or words of a read that arrive damaged though they are stored sound. -/
def damagedUnits : ReadAns → List Nat
  | .poison l => l
  | _ => []

/-! ## Beat parity (R211, R440) -/

/-- Ones in a byte. -/
def onesOf (b : Byte) : Nat := (List.range 8).foldl (fun n k => n + b2n (bit b.toNat k)) 0
/-- The parity bit that a byte is sent with: the two hold an even number of ones (R211). -/
def parityBit (b : Byte) : Bool := decide (onesOf b % 2 = 1)
/-- A byte and its parity bit hold an even number of ones. -/
def evenOnes (b : Byte) (p : Bool) : Bool := decide ((onesOf b + b2n p) % 2 = 0)
/-- A host-port write passes its parity at the receiving end. -/
def DataWrite.parityOk (x : DataWrite) : Bool := decide (x.space ≠ 0) || (x.bytes.zip x.parity).all (fun y => evenOnes y.1 y.2)

/-! ## Order of issue (R438, R447) -/

/-- What of range `r` lies outside range `c`. -/
def cutOut (c r : Nat × Nat) : List (Nat × Nat) :=
  [(r.1, min r.2 c.1), (max r.1 c.2, r.2)].filter (fun x => decide (x.1 < x.2))

/-- The address ranges of a write that no later one has written. -/
def DataWrite.pieces (x : DataWrite) : List (Nat × Nat) :=
  x.past.foldl (fun l c => l.flatMap (cutOut c)) [(x.addr, x.addr + x.bytes.length)]

/-- A data write stands in memory, as far as no later one has written there; poisoned where it is marked, and where its parity fails. -/
def State.land (s : State) (pasid : Option Nat) (x : DataWrite) (poison : Bool) : State :=
  forEach x.pieces (fun r s =>
    s.writeBytes x.space pasid r.1 ((x.bytes.drop (r.1 - x.addr)).take (r.2 - r.1)) (poison || !x.parityOk)) s

/-- Two accesses go the same way, and so in the order of their issue: through MEMP, or through one host port under one PASID (R438,
R447). -/
def State.sameWay (s : State) (space p : Nat) (pasid : Option Nat) (q : Nat) (x : DataWrite) : Bool :=
  decide (x.space = space) && (decide (space = 1) || (decide ((s.qctx q).port = p) && decide ((s.qctx q).pasidOf = pasid)))

/-- Put a write into a list in order of issue. -/
def insWrite (x : DataWrite) : List DataWrite → List DataWrite
  | [] => [x]
  | y :: l => if x.ord < y.ord then x :: y :: l else y :: insWrite x l

/-- The data writes issued on a way and not yet accepted, in order of issue; those outside in-package memory never stand anywhere. -/
def State.outWrites (s : State) (space p : Nat) (pasid : Option Nat) : List DataWrite :=
  (s.fl.flatMap (fun f => f.writes.filter (fun x => s.sameWay space p pasid f.q x
    && !(decide (space = 1) && s.pkgOut x.addr x.bytes.length)))).foldr insWrite []

/-- What a read issued now on a way sees: memory with every write that was issued on it before (R438, R447). -/
def State.seen (s : State) (space p : Nat) (pasid : Option Nat) : State :=
  forEach (s.outWrites space p pasid) (fun x s => s.land pasid x x.poison) s

/-- [a, a + n) is written on a way now, after every write of order below `ord` there: what those still hold for it is spent. -/
def State.cover (s : State) (space p : Nat) (pasid : Option Nat) (ord a n : Nat) : State :=
  let hits (q : Nat) (x : DataWrite) : Bool := decide (x.ord < ord) && s.sameWay space p pasid q x && overlaps x.addr x.bytes.length a n
  s.withFl (s.fl.map (fun f =>
    if f.writes.any (hits f.q) then
      { f with writes := f.writes.map (fun x => if hits f.q x then { x with past := (a, a + n) :: x.past } else x) }
    else f))

/-! ## Reads -/

/-- Bytes of a beat of a host port, or of a word of MEMP. -/
def unitLen (space : Nat) : Nat := if space = 0 then 32 else 8

/-- Issue a read of [a, a + n) on a way: what it will bring (R438, R447). -/
def State.catchRead (s : State) (space p : Nat) (pasid : Option Nat) (a n : Nat) : ReadOut :=
  let v := s.seen space p pasid
  let u := unitLen space
  let units := if n = 0 then [] else List.range ((a + n - 1) / u - a / u + 1)
  let stored (k : Nat) : Bool := if space = 0 then v.beatBad pasid ((a / u + k) * u) else v.wordBad (a / u + k)
  { bytes := v.readBytes space pasid a n, bad := units.filter stored, fixes := if space = 1 then v.pkgFixes a n else 0 }

/-- Byte `j` of a read from address `a` arrives damaged: its beat or word stood poisoned or uncorrectable, fails its parity, or is
damaged on the way (R216, R440, R448). -/
def ReadOut.markAt (g : ReadOut) (space a : Nat) (ans : ReadAns) (j : Nat) : Bool :=
  let u := (a + j) / unitLen space - a / unitLen space
  let hit := decide (u ∈ damagedUnits ans)
  let b := g.bytes.getD j 0
  decide (u ∈ g.bad) || (if space = 0 then !evenOnes b (parityBit b != hit) else hit)

/-- Which bytes of a read arrive damaged. -/
def ReadOut.marks (g : ReadOut) (space a : Nat) (ans : ReadAns) : List Bool :=
  (List.range g.bytes.length).map (g.markAt space a ans)

/-- A read of what `g` holds from address `a` returns, through host port `p` for space 0, through MEMP otherwise. The port counts what
R470 says. -/
def State.answer (s : State) (space p a : Nat) (g : ReadOut) (ans : ReadAns) : State × Option PortFail :=
  let bad := (g.marks space a ans).any id
  if space = 0 then
    match ans with
    | .rejected => (s.cnt (IZ_HOSTP_STAT_xlat p), some .xlat)
    | _ => if bad then (s.cnt (IZ_HOSTP_STAT_poison_in p), some .poison) else (s, none)
  else if ans = .rejected ∨ s.pkgOut a g.bytes.length then (s.cnt IZ_MEMP_STAT_addr_err, some .addr)
  else
    let hit := (wordsOf a g.bytes.length).filter (fun k => decide (k - a / 8 ∉ g.bad) && decide (k - a / 8 ∈ damagedUnits ans))
    let s := (s.sat IZ_MEMP_STAT_corrected g.fixes).sat IZ_MEMP_STAT_uncorrectable (g.bad.length + hit.length)
    (s, if bad then some .poison else none)

/-- Which bytes of a read of [a, a + n) that is issued and returns now arrive damaged. -/
def State.readMarks (s : State) (space p : Nat) (pasid : Option Nat) (a n : Nat) (ans : ReadAns) : List Bool :=
  (s.catchRead space p pasid a n).marks space a ans

/-- Read [a, a + n): issued and returned in one. -/
def State.portRead (s : State) (space p : Nat) (pasid : Option Nat) (a n : Nat) (ans : ReadAns) : State × Option PortFail :=
  s.answer space p a (s.catchRead space p pasid a n) ans

/-- A rejection or an address error of a transaction that another command reports (R439, R450). -/
def State.portReject (s : State) (space p : Nat) : State :=
  if space = 0 then s.cnt (IZ_HOSTP_STAT_xlat p) else s.cnt IZ_MEMP_STAT_addr_err

/-- The status of an entry whose access fails so (R80). -/
def PortFail.status : PortFail → Nat
  | .xlat => stXlat
  | .addr => stKeyBounds
  | .poison => stPoison

/-- The space a queue's or ring's own structures lie in. -/
def spaceOf (device : Bool) : Nat := if device then 1 else 0

/-- The resource that a ring's records go through, by CPOST (R128, R261). -/
def CqCtx.res (x : CqCtx) : Nat := portRes (spaceOf x.device) (b2n x.hostpSel)

/-- End an entry with an access error or a failed check: it reports `st` for job offset `ofs`, its stitches stop at their
next break point and nothing further is bound (R80, R218). The failure at the lowest offset stands (R221); what a COMPARE or
CHECK has left below it is still judged (R228, R229). -/
def State.endEntry (s : State) (q : Nat) (i : W32) (st ofs : Nat) : State :=
  s.updFl q i (fun (f : Flight) =>
    if f.ended && (decide (f.status = stMalformed) || decide (f.failOfs ≤ ofs)) then f
    else
      let goesOn (x : Stitch) : Bool := (f.e.isCompare || f.e.isCheck) && decide (x.hi ≤ ofs)
      let l := f.stitches.map (fun (x : Stitch) => if goesOn x then x else { x with stop := true })
      { f with status := st, failOfs := ofs, ended := true, stitches := l, redExc := false })

end Sys2Proof.Machine
end

