-- ==== Sys2Proof/Machine/Judge.lean ====
section
/-!
DEFINITION. Check blocks and what a stitch makes of its staged bytes (07_integrity_chain.md R211 to R229): units of judgement,
hops, protection information, the bytes written, and the handling of a failed check.
-/
namespace Sys2Proof.Machine

/-! ## Offsets -/

/-- The job offset at side offset `y`: tuples have none of their own (R59, R224). -/
def Entry.jobOf (e : Entry) (d : Dir) (y : Nat) : Nat :=
  if e.piSide d then y / (e.piB + 8) * e.piB + min (y % (e.piB + 8)) e.piB else y / e.factor d

/-- The side that paces a data opcode (R114): the destination, or the source of CHECK. -/
def Entry.paceSide (e : Entry) : Dir := if e.isCheck then .src else .dst

/-- The job offset at which the paced burst that begins at job offset `x` ends (R114). -/
def Flight.burstEnd (f : Flight) (x : Nat) : Nat :=
  let d := f.e.paceSide
  match runAt (f.fragsOf d) (f.e.sideOfs d x) (f.e.sideLen d - f.e.sideOfs d x) with
  | some r => max (x + 1) (f.e.jobOf d (r.ofs + r.n))
  | none => x + 1

/-- Job bytes of a result block: 256 bytes of the result (R157). -/
def Entry.blockBytes (e : Entry) : Nat := if e.isRed then 256 / e.factor .dst else 512

/-- The end of the unit that is judged and issued together from job offset `a`: a check block, or a whole protection block,
whatever paces the stitch (R212, R226; log entry 34). -/
def Flight.unitEnd (f : Flight) (a hi : Nat) : Nat :=
  let n := if f.e.piOp ≠ 0 then f.e.piB else 512
  min hi ((a / n + 1) * n)

/-- [a, b) cut at multiples of `n`. The first argument bounds the pieces. -/
def cutsN : Nat → Nat → Nat → Nat → List (Nat × Nat)
  | 0, _, _, _ => []
  | k + 1, n, a, b => if b ≤ a then [] else (a, min b ((a / n + 1) * n)) :: cutsN k n (min b ((a / n + 1) * n)) b

/-- [a, b) cut at multiples of `n` (R212). -/
def cuts (n a b : Nat) : List (Nat × Nat) := cutsN (b - a) n a b

/-- The read bursts that a stitch has out, oldest first for each reader, with what each reads. -/
def Flight.goneReads (f : Flight) (c : QCtx) (x : Stitch) : List GoneRead :=
  (List.range f.e.readers).flatMap (fun k =>
    let d := (f.reader k).1
    let sp := f.e.space d
    let one (a : Nat × List GoneRead) (g : ReadOut) : Nat × List GoneRead :=
      (a.1 + g.bytes.length, match runAt (f.reader k).2 a.1 g.bytes.length with
        | some r => a.2 ++ [{ eng := x.eng, src := k, res := portRes sp c.port, space := sp, pasid := c.pasidOf, addr := r.addr, got := g }]
        | none => a.2)
    ((x.rds.getD k []).foldl one (f.e.sideOfs d x.wr + (x.stage.getD k []).length, [])).2)

/-! ## Hops (R216) -/

/-- The in-hop and the out-hop of a space. -/
def inHop (space : Nat) : Nat := space
def outHop (space : Nat) : Nat := 4 + space

/-- A failed check: hop, status, first job offset of the block, end of the bytes written poisoned, and the offset below which
what comes before it in the unit has passed all its hops and is issued (R214). -/
structure ChkFail where
  hop    : Nat
  status : Nat
  ofs    : Nat
  till   : Nat
  sound  : Nat
  /-- a shadowing unit produced another result (R431) -/
  shadow : Bool := false
  deriving DecidableEq, Repr

/-- A block crosses hop `h`: an injection armed for it makes its check fail, and is spent (R232). -/
def State.crossHop (s : State) (h : Nat) : State × Bool :=
  if s.fb IZ_CHK_INJ_armed && decide (s.f IZ_CHK_INJ_hop = h) then (s.setF IZ_CHK_INJ_armed 0, true) else (s, false)

/-- A check block is verified at hop `h`: the CRC over its bytes as they are now against the one held for it, of which an
injection inverts one bit (R213, R214, R232). -/
def State.verify (s : State) (h : Nat) (held : W32) (bytes : List Byte) : State × Bool :=
  let x := s.crossHop h
  (x.1, decide (BitVec.ofNat 32 (crc32c bytes) ≠ (if x.2 then held ^^^ 1 else held)))

/-- Blocks cross hop `h` in order until one fails `judge`. -/
def State.crossAll (s : State) (h st : Nat) (judge : State → Nat × Nat → State × Bool) :
    List (Nat × Nat) → State × Option ChkFail
  | [] => (s, none)
  | b :: r =>
    let x := judge s b
    if x.2 then (x.1, some { hop := h, status := st, ofs := b.1, till := b.2, sound := b.1 }) else x.1.crossAll h st judge r

/-! ## Staged bytes -/

/-- The bytes that reader `k` has staged for side offsets [x, y), as staged from `base`. -/
def Stitch.part (st : Stitch) (k base x y : Nat) : List SByte := ((st.stage.getD k []).drop (x - base)).take (y - x)

/-- The staged bytes of reader `k` for job offsets [a, b). -/
def Flight.stagedFor (f : Flight) (st : Stitch) (k a b : Nat) : List SByte :=
  let d := (f.reader k).1
  st.part k (f.e.sideOfs d st.wr) (f.e.sideOfs d a) (f.e.sideOfs d b)

/-- Reader `k` has staged everything below job offset `b`. -/
def Flight.hasStaged (f : Flight) (st : Stitch) (b k : Nat) : Bool :=
  let d := (f.reader k).1
  decide (f.e.sideOfs d b - f.e.sideOfs d st.wr ≤ (st.stage.getD k []).length)

/-- Some byte arrived damaged. -/
def anyBad (l : List SByte) : Bool := l.any (·.bad)

/-- The bytes that the CRC of the check block [a, b) of reader `k` covers: under pi_op 3 a protection block's tuple rides with
its last bytes, under pi_op 2 it is no part of a check block (R213). -/
def Flight.blockBytes (f : Flight) (st : Stitch) (k a b : Nat) : List Byte :=
  let l := (f.stagedFor st k a b).map (·.b)
  if f.e.piOp = 2 then l.take (b - a) else l

/-- The check blocks of reader `k` from job offset `a` on that are staged whole, each with its CRC (R213). The first argument
bounds them. -/
def Flight.sumsFrom (f : Flight) (st : Stitch) (k : Nat) : Nat → Nat → List (Nat × W32)
  | 0, _ => []
  | n + 1, a =>
    let b := min st.hi ((a / 512 + 1) * 512)
    if decide (a < b) && f.hasStaged st b k then
      (a, BitVec.ofNat 32 (crc32c (f.blockBytes st k a b))) :: f.sumsFrom st k n b
    else []

/-- Bring the held CRCs of a stitch up to what is staged: those of whole blocks are kept, the rest are computed (R213). -/
def Flight.sumUp (f : Flight) (st : Stitch) : Stitch :=
  let one (k : Nat) : List (Nat × W32) :=
    let old := (st.sums.getD k []).filter (fun x => decide (st.wr ≤ x.1) && f.hasStaged st (min st.hi ((x.1 / 512 + 1) * 512)) k)
    let a := match old.getLast? with
      | some x => min st.hi ((x.1 / 512 + 1) * 512)
      | none => st.wr
    old ++ f.sumsFrom st k (st.stage.getD k []).length a
  { st with sums := (List.range f.e.readers).map one }

/-- The CRC held for the check block of reader `k` at job offset `a` (R213). -/
def Stitch.heldSum (st : Stitch) (k a : Nat) : W32 :=
  match (st.sums.getD k []).find? (fun x => decide (x.1 = a)) with
  | some x => x.2
  | none => 0

/-- The in-hops of the input check blocks of [a, b): every reader in turn within a block (R217). -/
def State.inHops (s : State) (f : Flight) (st : Stitch) : List (Nat × Nat) → State × Option ChkFail
  | [] => (s, none)
  | b :: r =>
    let one (x : State × Option ChkFail) (k : Nat) : State × Option ChkFail :=
      match x.2 with
      | some _ => x
      | none =>
        let h := inHop (f.e.space (f.reader k).1)
        x.1.crossAll h stPoison (fun s c => ((s.crossHop h).1, (s.crossHop h).2 || anyBad (f.stagedFor st k c.1 c.2))) [b]
    let x := (List.range f.e.readers).foldl one (s, none)
    match x.2 with
    | some _ => x
    | none => x.1.inHops f st r

/-! ## Protection information (R223 to R227) -/

/-- The reference tag of protection block `j` (R225). -/
def Entry.refTag (e : Entry) (j : Nat) : Nat := if e.piType then e.userTag else (e.userTag + j) % 2 ^ 32

/-- The tuple that an insert writes behind protection block `j` (R223, R225). -/
def Flight.tuple (f : Flight) (j : Nat) (data : List Byte) : List Byte :=
  beBytes 2 (crc16 data) ++ beBytes 2 (bits f.piCfg 0 16) ++ beBytes 4 (f.e.refTag j)

/-- R226 on one protection block: the status of the check that fails. -/
def Flight.verifyPi (f : Flight) (j : Nat) (data tup : List Byte) : Option Nat :=
  let guard := beNat (tup.take 2)
  let app := beNat ((tup.drop 2).take 2)
  let ref := beNat ((tup.drop 4).take 4)
  let mask := bits f.piCfg 16 16
  if app = 0xFFFF ∧ (¬ f.e.piType ∨ ref = 0xFFFFFFFF) then none
  else if guard ≠ crc16 data then some stPiGuard
  else if app &&& mask ≠ bits f.piCfg 0 16 &&& mask then some stPiApp
  else if ¬ f.e.piType ∧ bit f.piCfg 32 ∧ ref ≠ f.e.refTag j then some stPiRef
  else none

/-- The verification of the protection block that a unit holds; nothing for other entries. -/
def Flight.piCheck (f : Flight) (st : Stitch) (a b : Nat) : Option ChkFail :=
  if f.e.piOp = 2 ∨ f.e.piOp = 3 then
    let l := (f.stagedFor st 0 a b).map (·.b)
    (f.verifyPi (a / f.e.piB) (l.take (b - a)) (l.drop (b - a))).map (fun x => { hop := 0, status := x, ofs := a, till := b, sound := a })
  else none

/-! ## The bytes a unit produces -/

/-- Pattern byte at job offset `x` (R61). -/
def Flight.fillByte (f : Flight) (st : Stitch) (x : Nat) : Byte :=
  if f.e.fillSel = 0 then 0
  else if f.e.fillSel = 1 then 0xFF
  else if f.e.fillSel = 0x20 then BitVec.ofNat 8 (f.e.userTag / 256 ^ (x % 4))
  else BitVec.ofNat 8 (st.pat.toNat / 256 ^ (x % 8))

/-- The result goes over NETP in carrier form: the third row of R177 sends the carrier of the local result. -/
def Entry.wireCarrier (e : Entry) : Bool := decide (e.opcode = 0x21) && e.repro
/-- Bytes on the wire for each job byte. -/
def Entry.wireFactor (e : Entry) : Nat := if e.wireCarrier then carrierFactor e.redType else e.factor .dst

/-- A destination overlaps a source in a way that R156 does not allow: in the same memory, sharing bytes, and not the same
address and form. -/
def Flight.badOverlap (f : Flight) : Bool :=
  let e := f.e
  e.isRed && decide (e.opcode ≠ 0x21) && decide (e.srcSpace = e.dstSpace) &&
    (List.range e.nsrc).any (fun k =>
      match f.srcRuns k with
      | g :: _ => overlaps g.addr.toNat (e.sideLen .src) e.dst.toNat (e.sideLen .dst)
          && !(decide (g.addr = e.dst) && decide (e.inCarrier = e.outCarrier))
      | [] => false)

/-- `n` undefined bytes (R156). -/
def State.freeBytes (s : State) (n : Nat) : State × List Byte :=
  ((s.withFree (s.free + n)), (List.range n).map (fun k => Config.freeByte (s.free + k)))

/-- The bytes that a unit over [a, b) writes, in the order of the destination side, and its exceptions. -/
def State.produce (s : State) (f : Flight) (st : Stitch) (a b : Nat) : State × List Byte × List Exc :=
  let e := f.e
  if e.isFill then (s, (List.range (b - a)).map (fun k => f.fillByte st (a + k)), [])
  else if e.isRed then
    let n := (b - a) / elemBytes e.redType
    let bufs := (List.range e.nsrc).map (fun k => (f.stagedFor st k a b).map (·.b))
    let r := reduceBytes e.redType e.redOp e.repro e.inCarrier (e.outCarrier || e.wireCarrier) n bufs
    if f.badOverlap then
      let x := s.freeBytes r.1.length
      (x.1, x.2, r.2)
    else (s, r.1, r.2)
  else
    let l := (f.stagedFor st 0 a b).map (·.b)
    if e.piOp = 1 then (s, l ++ f.tuple (a / e.piB) l, [])
    else if e.piOp = 2 then (s, l.take (b - a), [])
    else (s, l, [])

/-- The first offset at which the two sides of a COMPARE differ in [a, b). -/
def Flight.firstDiff (f : Flight) (st : Stitch) (a b : Nat) : Option Nat :=
  let x := ((f.stagedFor st 0 a b).map (·.b)).zip ((f.stagedFor st 1 a b).map (·.b))
  (firstIdx (fun (p : Byte × Byte) => decide (p.1 ≠ p.2)) x 0).map (a + ·)

/-! ## Judging a unit -/

/-- The reduction unit bound to engine `e`. -/
def State.unitOf (s : State) (e : Nat) : Option Nat :=
  (List.range 17).find? (fun u => decide (s.redSt u = 1) && decide (s.f (IZ_RED_STATE_engine u) = e))

/-- Count the result blocks that the unit of engine `e` produced (R186). -/
def State.countBlocks (s : State) (e n : Nat) : State :=
  match s.unitOf e with
  | some u => s.wrapAdd (IZ_RED_STATE_blocks u) n
  | none => s

/-- The checks of the staged bytes of [a, b) up to the tuple, in hop order (R217, R221). When one fails, no byte of the unit is
issued as sound: its first check block failed, or its protection block is not judged (R226). A COMPARE or CHECK stands up to the block
that failed (R228, R229). -/
def State.judgeIn (s : State) (f : Flight) (st : Stitch) (a b : Nat) : State × Option ChkFail :=
  let x := s.inHops f st (cuts 512 a b)
  let first := match cuts f.e.blockBytes a b with | x :: _ => x.2 | [] => b
  match x.2 with
  | some c => (x.1, some { c with till := if f.e.isRed then first else c.till, sound := if f.e.writes then a else c.ofs })
  | none => (x.1, f.piCheck st a b)

/-- The bytes of [lo, hi) among those that a unit from `a` on produced (R156, R214). -/
def Entry.madeBytes (e : Entry) (bytes : List Byte) (a lo hi : Nat) : List Byte :=
  if e.wireCarrier then (bytes.drop ((lo - a) * e.wireFactor)).take ((hi - lo) * e.wireFactor)
  else (bytes.drop (e.sideOfs .dst lo - e.sideOfs .dst a)).take (e.sideOfs .dst hi - e.sideOfs .dst lo)

/-- The check blocks that a unit over [a, b) forms on its way out: result blocks of a reduction, else the spans (R212). -/
def Entry.outBlocks (e : Entry) (a b : Nat) : List (Nat × Nat) := if e.isRed then cuts e.blockBytes a b else cuts 512 a b

/-- A check block leaves the mover: its held CRC is verified over the bytes it stands for (R214, R216). The CRC of a result or
of a fill is the one computed as the bytes were produced (R213). -/
def State.leaveHop (s : State) (f : Flight) (st : Stitch) (a : Nat) (bytes : List Byte) (c : Nat × Nat) : State × Bool :=
  let h := outHop f.e.dstSpace
  if f.e.isRed || f.e.isFill then
    let l := f.e.madeBytes bytes a c.1 c.2
    s.verify h (BitVec.ofNat 32 (crc32c l)) l
  else s.verify h (st.heldSum 0 c.1) (f.blockBytes st 0 c.1 c.2)

/-- An input check block is consumed by the reduction unit, which verifies it after its result block is produced (R216). -/
def State.redHop (s : State) (f : Flight) (st : Stitch) (a b : Nat) (c : Nat × Nat) : State × Bool :=
  let x := s.crossHop 3
  let bad (k : Nat) : Bool := (cuts 512 a b).any (fun y =>
    decide (c.1 < y.2) && decide (y.1 < c.2)
      && decide (BitVec.ofNat 32 (crc32c (f.blockBytes st k y.1 y.2)) ≠ st.heldSum k y.1))
  (x.1, x.2 || (List.range f.e.readers).any bad)

/-- Unit `u` has produced a result block while another shadows it: hop 3 is passed only where the two results agree, and a mismatch is
counted (R431). Whether two units agree the spec leaves to the hardware: it is a free value (log entry 55). -/
def State.shadowHop (s : State) (u : Option Nat) : State × Bool :=
  match s.spr.shadow, u with
  | some (y, _, _), some x =>
    if y = x then
      let t := s.withFree (s.free + 1)
      if (Config.freeWord s.free).toNat % 2 = 1 then (t.cnt SPR_TEST_STAT_errors, true) else (t, false)
    else (s, false)
  | _, _ => (s, false)

/-- The result blocks of a reduction stitch cross hop 3 (R214, R216, R431). -/
def State.judgeRed (s : State) (f : Flight) (st : Stitch) (a b : Nat) (blocks : List (Nat × Nat)) : State × Option ChkFail :=
  let x := (s.countBlocks st.eng blocks.length).crossAll 3 stChk (fun s c => s.redHop f st a b c) blocks
  let u := s.unitOf st.eng
  let passed := match x.2 with | some c => blocks.filter (fun y => decide (y.1 < c.ofs)) | none => blocks
  let y := x.1.crossAll 3 stChk (fun s _ => s.shadowHop u) passed
  (y.1, match y.2 with | some c => some { c with shadow := true } | none => x.2)

/-- A COMPARE or CHECK verifies a check block of each source against itself, at a hop that writes nothing (R228, R229). -/
def State.selfHop (s : State) (f : Flight) (st : Stitch) (c : Nat × Nat) : State × Bool :=
  (s, (List.range f.e.readers).any (fun k => decide (BitVec.ofNat 32 (crc32c (f.blockBytes st k c.1 c.2)) ≠ st.heldSum k c.1)))

/-- The checks between the bytes that a unit over [a, b) produced and their issue, in hop order (R217, R221). DESIGN CHOICE (log entry
71): the hop of R228 bears the number of the source's in-hop, for R216 gives it none. -/
def State.judgeOut (s : State) (f : Flight) (st : Stitch) (a b : Nat) (bytes : List Byte) : State × Option ChkFail :=
  let e := f.e
  let blocks := e.outBlocks a b
  let x := if e.isRed then s.judgeRed f st a b blocks
    else if e.isFill then s.crossAll 7 stChk (fun s _ => s.crossHop 7) blocks
    else (s, none)
  let before := match x.2 with | some c => blocks.filter (fun y => decide (y.1 < c.ofs)) | none => blocks
  if e.writes then
    let y := x.1.crossAll (outHop e.dstSpace) stChk (fun s c => s.leaveHop f st a bytes c) before
    (y.1, match y.2 with | some c => some c | none => x.2)
  else if e.isCompare || e.isCheck then x.1.crossAll (inHop (e.space (f.reader 0).1)) stChk (fun s c => s.selfHop f st c) blocks
  else x

/-! ## A failed check (R218 to R222) -/

/-- A T10 failure. -/
def ChkFail.isPi (c : ChkFail) : Bool := decide (c.status = stPiGuard) || decide (c.status = stPiRef) || decide (c.status = stPiApp)

/-- A failure goes behind the one recorded last: it falls in a later cycle, or comes later in the order of R130, a fold first (R231). -/
def State.chkLater (s : State) (q : Nat) (i : W32) (fold : Bool) : Bool :=
  match s.err.chk with
  | none => true
  | some x => decide (x.cycle ≠ s.tb.cycle) || x.fold
      || (!fold && (decide (x.q < q) || (decide (x.q = q) && !idxBefore i x.idx)))

/-- Show a failure in IZ_CHK_LAST and IZ_CHK_LAST_OFS, unless one of the same cycle goes behind it (R231). -/
def State.showChk (s : State) (q i : Nat) (c : ChkFail) (fold : Bool) : State :=
  if s.chkLater q (BitVec.ofNat 32 i) fold then
    let s := ((s.setF IZ_CHK_LAST_qid q).setF IZ_CHK_LAST_hop c.hop).setF IZ_CHK_LAST_index i
    let s := (s.setF IZ_CHK_LAST_OFS_ofs c.ofs).setF IZ_CHK_LAST_OFS_status c.status
    s.withErr { s.err with chk := some { cycle := s.tb.cycle, q := q, idx := BitVec.ofNat 32 i, fold := fold } }
  else s

/-- Count, record, log and raise a failed check of entry `i` of queue `q`, or of a fold at the target (R222, R231); `cfg` is IZ_CHK_CFG as
captured. -/
def State.noteFail (s : State) (q i cfg : Nat) (c : ChkFail) (fold : Bool := false) : State :=
  let s := if c.isPi then s.cnt IZ_CHK_STAT_pi_fail
    else if c.hop ≤ 2 then s.cnt IZ_CHK_STAT_port_fail else s.cnt IZ_CHK_STAT_chk_fail
  let s := s.showChk q i c fold
  let s := if !c.isPi || bit cfg 1 then s.log 0x10 1 q (c.hop + c.status * 256) i c.ofs else s
  s.raise (if c.hop ≤ 2 then 40 else 39)

/-! ## Failing units (R421 to R423) -/

/-- The reads that the stitch on engine `e` has out are nobody's from now on: they return and are discarded (R96, R264). -/
def State.looseReads (s : State) (f : Flight) (e : Nat) : State :=
  match f.stitch? e with
  | none => s
  | some x => s.withArb { s.arb with gone := s.arb.gone ++ f.goneReads (s.qctx f.q) x }

/-- The paced bursts of engine `e`'s stitch that have reached no acknowledgement are no longer outstanding on their lines (R117). -/
def State.giveBack (s : State) (f : Flight) (e : Nat) : State :=
  match f.stitch? e with
  | none => s
  | some x => s.freeBursts x.ends

/-- Engine `e` fails (R421, R422): it is retired, the stitch it held continues from its offset on another engine, and a
spare takes its place or capacity is retired. -/
def State.failEng (s : State) (e reason : Nat) : State :=
  if s.engSt e = 7 then s
  else
  let held := s.fl.find? (fun f => f.stitches.any (fun x => decide (x.eng = e)))
  let q := match held with | some f => f.q | none => 0
  let i := match held with | some f => f.idx.toNat | none => 0
  let s := s.log 0x20 4 e (reason * 16) q i
  let s := (s.withAdm { s.adm with eng := s.adm.eng.filter (fun x => decide (x.1 ≠ e)) }).noLeave false e
  let s := (s.retireEng e reason).replaceFailed false e
  match held with
  | none => s
  | some f =>
    let s := (s.looseReads f e).giveBack f e
    let s := s.updFl f.q f.idx (fun f => f.unbind e)
    let s := if boundByR91 (s.qctx f.q) f.e then s.fatal 0x04 e q i else s
    s.settle f.q f.idx

/-- A fold that FOLD has in hand is refused with its unit (R179, R423). -/
def State.refuseHand (s : State) : State :=
  match s.arb.folds with
  | [] => s
  | _ :: r => State.emit (s.withArb { s.arb with folds := r }) (.foldResponse 5)

/-- Reduction unit `u` fails (R421, R423); the caller has refused the fold that it had in hand. -/
def State.failRed (s : State) (u reason : Nat) : State :=
  let e := s.f (IZ_RED_STATE_engine u)
  let held := if s.redSt u = 1 then s.fl.find? (fun f => f.stitches.any (fun x => decide (x.eng = e))) else none
  let q := match held with | some f => f.q | none => 0
  let i := match held with | some f => f.idx.toNat | none => 0
  let s := s.log 0x20 4 u (1 + reason * 16) q i
  ((s.noLeave true u).retireRed u reason).replaceFailed true u

/-- Count a failed check against engine `e` or unit `u` (R421 reason 3). -/
def State.chargeEng (s : State) (e : Nat) : State :=
  let s := s.cnt (SPR_ENG_HEALTH_chk e)
  if s.f SPR_POLICY_chk_limit ≠ 0 ∧ s.f SPR_POLICY_chk_limit ≤ s.f (SPR_ENG_HEALTH_chk e) ∧ engInService (s.engSt e) then
    s.failEng e 3
  else s
/-- Count a failed check or a mismatch against reduction unit `u`. -/
def State.chargeRed (s : State) (u reason : Nat) : State :=
  let s := s.cnt (SPR_RED_HEALTH_chk u)
  if s.f SPR_POLICY_chk_limit ≠ 0 ∧ s.f SPR_POLICY_chk_limit ≤ s.f (SPR_RED_HEALTH_chk u) ∧ redInService (s.redSt u) then
    s.failRed u reason
  else s

/-- The unit against which a failure counts (R421, R431): the reduction unit at hop 3, the engine at hops 4 to 7. -/
def State.chargeFail (s : State) (e : Nat) (c : ChkFail) : State :=
  if c.hop ≤ 2 then s
  else if c.hop = 3 then
    match s.unitOf e with
    | some u => s.chargeRed u (if c.shadow then 5 else 3)
    | none => s
  else if e < 68 then s.chargeEng e
  else s

/-- A record, write-back or trace copy of entry `i` of queue `q` crosses hop `h` (R217). One that fails is counted and recorded as
any failed check (R222), and built again; the spec states no job offset for it, which is a free value (log entry 36). -/
def State.ctlHop (s : State) (q i h : Nat) : State :=
  let x := s.crossHop h
  if x.2 then
    let o := (Config.freeWord s.free).toNat % 2 ^ 48
    (x.1.withFree (s.free + 1)).noteFail q i (s.reg IZ_CHK_CFG).toNat { hop := h, status := stChk, ofs := o, till := o, sound := o }
  else x.1

/-- It crosses hop 7 and the out-hop of its space. -/
def State.ctlHops (s : State) (q i space : Nat) : State := (s.ctlHop q i 7).ctlHop q i (outHop space)

end Sys2Proof.Machine
end

