-- ==== Sys2Proof/Machine/Stitch.lean ====
section
/-!
DEFINITION. What a stitch does between its binding and its end (03_execution_stitches_and_request_lines.md R91 to R118):
pacing, reads into staging, units judged and issued, the ordering class, and the return of its engine.
-/
namespace Sys2Proof.Machine

/-- Change the stitch on engine `e`. -/
def Flight.updStitch (f : Flight) (e : Nat) (g : Stitch → Stitch) : Flight :=
  { f with stitches := updWhere (fun x => decide (x.eng = e)) g f.stitches }
/-- Change the stitch of an entry on engine `e`. -/
def State.updStitch (s : State) (q : Nat) (i : W32) (e : Nat) (g : Stitch → Stitch) : State :=
  s.updFl q i (fun f => f.updStitch e g)

/-! ## Mirroring of a queue and its ring (R345, R351, R357) -/

/-- Forget what the mirror stream owes a queue. -/
def State.forgetQ (s : State) (q : Nat) : State :=
  let p := s.pair
  (s.withPair { p with ciSent := p.ciSent.filter (fun x => decide (x.1 ≠ q)), deferCi := p.deferCi.filter (fun x => decide (x.1 ≠ q)), snaps := p.snaps.filter (fun x => !(decide (x.1 = .queue) && decide (x.2.1 = q))), heldBack := p.heldBack.filter (fun x => !decide (x = (.queue, q))), owed := p.owed.filter (fun x => decide (snapOf x.1 x.2.2.item ≠ some (.queue, q))), passed := p.passed.filter (fun x => decide (x.1 ≠ q)), modeAcks := p.modeAcks.filter (fun x => decide (x ≠ q)) })

/-- Change a queue's context and send what the change of mirroring asks: snapshots for objects newly mirrored, Q_GONE and
CQ_GONE for those no longer mirrored (R351, R357). -/
def State.changeMirror (s : State) (q : Nat) (g : QCtx → QCtx) : State :=
  let c := ringOf q (s.qctx q).cqid
  let t := s.updQ q g
  let c' := ringOf q (t.qctx q).cqid
  let qb := s.qMirrored q
  let qa := t.qMirrored q
  let t := if qa && !qb then t.snapObj .queue q
    else if qb && !qa then ((t.mirrorRec 0x09 q 0 q 0 0 []).forgetQ q).updQ q (fun c => { c with mirroredCi := c.ci }) else t
  let t := if t.cMirrored c' && !s.cMirrored c' then t.snapObj .ring c' else t
  if s.cMirrored c && !t.cMirrored c then t.mirrorRec 0x0A c 0 0 0 0 [] else t

/-- The mode change of PAIR_QMODE takes effect at a stitch boundary of the queue, or at once when none of its stitches is bound
(R357); a queue that stays mirrored sends its context, which holds the mode (R351, log entry 42). -/
def State.applyMode (s : State) (q : Nat) : State :=
  match (s.qctx q).newMirror with
  | none => s
  | some m =>
    let t := s.changeMirror q (fun c => { c with mirror := m, newMirror := none })
    let t := if s.qMirrored q && t.qMirrored q then t.snapObj .queue q else t
    if t.snapOpen .queue q && t.qMirrored q then t.withPair { t.pair with modeAcks := addNew t.pair.modeAcks q } else t

/-- A stitch of the queue is bound. -/
def State.hasStitch (s : State) (q : Nat) : Bool := (s.flsOf q).any (fun f => !f.stitches.isEmpty)

/-! ## The request line of a queue (R113) -/

/-- Job offset up to which a stitch has issued its reads, or written. -/
def Flight.readTo (f : Flight) (x : Stitch) : Nat :=
  (List.range f.e.readers).foldl (fun n k =>
    let d := (f.reader k).1
    max n (f.e.jobOf d (f.e.sideOfs d x.wr + (x.stage.getD k []).length + x.outBytes k))) x.wr

/-- A queue has line `l` from now on, or none, and so have its bound stitches; a line starts with no request pending, and counts
as of a stitch that it did not pace what that stitch has still to read (R113). Bursts that were read before stay with the line that let
them be read (R118). -/
def State.setLine (s : State) (q : Nat) (l : Option (Nat × Bool)) : State :=
  let c := s.qctx q
  let s := if c.rlBind then (s.setF (RL_STATE_bound c.rlLine) 0).setF (RL_STATE_qid c.rlLine) 0 else s
  let s := match l with
    | some y => ((s.setF (RL_STATE_pending y.1) 0).setF (RL_STATE_bound y.1) 1).setF (RL_STATE_qid y.1) q
    | none => s
  let s := s.updQ q (fun c => { c with rlBind := l.isSome, rlLine := (l.map (·.1)).getD 0, rlMode := (l.map (·.2)).getD false, newLine := none })
  s.withFl (updWhere (fun f => decide (f.q = q)) (fun (f : Flight) =>
    { f with stitches := f.stitches.map (fun x => { x with line := l, paced := if x.line.isSome then x.paced else f.readTo x }) }) s.fl)

/-- A change of line or mode that waited takes effect (R113). -/
def State.applyLine (s : State) (q : Nat) : State :=
  match (s.qctx q).newLine with
  | none => s
  | some l => (s.setLine q l).snapQ q

/-! ## The end of a stitch (R96, R99, R101) -/

/-- An engine returns to the scheduler, or leaves service as it was told to, unless it has become the last (R101, R242, R253, R425). -/
def State.freeEngine (s : State) (e : Nat) : State :=
  if (false, e) ∈ s.spr.leaving then
    let s := s.noLeave false e
    if s.mayLeave false then (s.setEng e 5).spareIn false e else s.setEng e 0
  else if s.engSt e = 1 ∨ s.engSt e = 2 then s.setEng e 0 else s

/-- The stitch on engine `e` ends: the rest of it goes to later stitches, the engine drops its requests and returns, served_mt is
set, pending changes of the queue take effect and the event is traced (R96, R101, R263). The reads that it has out return to nobody;
where its pace ran out within a protection block, what is read of that block is kept for the stitch that goes on (R116). -/
def State.endStitch (s : State) (q : Nat) (i : W32) (e : Nat) : State :=
  match s.flight? q i with
  | none => s
  | some f =>
    match f.stitch? e with
    | none => s
    | some x =>
      let keeps := !x.stop && decide (x.hi ≤ x.wr) && decide (x.hi < x.paced)
      let s := if keeps then s.updFl q i (fun f => { f with kept := some x }) else (s.looseReads f e).freeBursts x.ends
      let s := (s.updFl q i (fun f => f.unbind e)).setF (IZ_ENG_STATE_rank e) (s.engRank 3 e)
      let s := (s.dropChannels e).freeEngine e
      let s := s.updQ q (fun c => { c with servedMt := s.mt, served := true })
      let s := (((s.applyLine q).orWait ((s.applyLine q).applyMode q))).traceEv 0 0x02 e (b2n x.cut) q (x.wr - x.lo)
      s.settle q i

/-! ## What a stitch needs of the arbiters (R259, R260, R263) -/

/-- The resource that an entry writes through. -/
def State.writeRes (s : State) (f : Flight) : Nat := portRes f.e.dstSpace (s.qctx f.q).port

/-- Engine `e` owns what a read of each of the entry's sources goes through, or for a FILL its writes. -/
def State.ownsReads (s : State) (f : Flight) (e : Nat) : Bool :=
  if f.e.isFill then s.owns (s.writeRes f) e else (List.range f.e.readers).all (fun k => s.owns (s.readRes f k) e)

/-- Engine `e` owns what issuing a unit needs: a channel of the destination, and a reduction unit for a reduction (R182). -/
def State.ownsIssue (s : State) (f : Flight) (e : Nat) : Bool :=
  (!f.e.writes || s.owns (s.writeRes f) e) && (!f.e.isRed || s.owns 4 e)

/-- FETCH may put a read out on a resource now: it owns a channel, and the port holds one more read (R260, R437). -/
def State.fetchMay (s : State) (res : Nat) : Bool := s.owns res 68 && s.readRoom res

/-- FETCH has a read out, or CCACHE: which of the two a read belongs to (R261). -/
def SentRead.req : SentRead → Nat
  | .ctx _ _ => 70
  | _ => 68

/-- A requester has a burst in flight on a resource: a read not yet returned, a write not yet taken, a NETP request not yet
answered (R264). The requests of FOLD, TRACE, ELOG, COB, PSPILL and the Lace requesters are whole in one command. -/
def State.inFlight (s : State) (res req : Nat) : Bool :=
  s.arb.sent.any (fun x => decide (x.1 = res) && decide (x.2.req = req))
    || s.arb.gone.any (fun x => decide (x.res = res) && decide (x.eng = req))
    || (decide (req = 69) && (s.cqs.issued.any (fun y => y.2.sent && decide ((s.cctx y.2.c).res = res))
      || s.cqs.wbs.any (fun y => decide ((s.cctx y.1).res = res))))
    || s.fl.any (fun f =>
      let p := (s.qctx f.q).port
      f.writes.any (fun w => decide (w.eng = req) && decide (portRes w.space p = res))
        || f.stitches.any (fun x => decide (x.eng = req)
            && ((decide (res = 2) && f.e.isGet && decide (x.wr + (x.stage.getD 0 []).length < x.asked))
              || (List.range f.e.readers).any (fun k =>
                  !(x.rds.getD k []).isEmpty && decide (portRes (f.e.space (f.reader k).1) p = res)))))

/-- One CORE_CLK cycle of the hold watchdogs: a cycle in which the owner has a burst in flight is not counted (R269). -/
def State.arbTick (s : State) : State :=
  (s.withArb { s.arb with own := s.arb.own.map (fun x => (x.1, x.2.map (fun (o : Owner) =>
    if s.inFlight (x.1 / 32) o.req then o else { o with idle := satAdd 32 o.idle 1 }))) })

/-! ## Pacing (R114 to R118) -/

/-- The line lets one more paced burst be read (R116 to R118): no more than 16 pulses can then come to wait (R118). DESIGN CHOICE (log
entry 47): bursts that are read and have not come to the point of their acknowledgement count among the 16, for each will queue a
pulse; so a burst waits already while fewer are queued. -/
def State.lineGrants (s : State) (l : Nat × Bool) : Bool :=
  let n := l.1
  (decide (32 ≤ n) || decide ((s.line n).out - b2n (s.line n).low < 16))
    && (if l.2 then s.fb (RL_STATE_level n) && decide ((s.line n).out < s.f (RL_CFG_lvl_depth n) + 1)
        else s.fb (RL_STATE_pending n))

/-- The state of a paced queue lets its bursts be issued (R120). -/
def QCtx.bursting (c : QCtx) : Bool := decide (c.state = .ready) || (decide (c.state = .destroying) && decide (c.destroy = .wait))

/-- A paced burst is read: it is outstanding, and in edge mode uses one request (R116, R117). -/
def State.takeBurst (s : State) (l : Nat × Bool) : State :=
  let s := s.updLine l.1 (fun y => { y with out := y.out + 1 })
  if l.2 then s else s.setF (RL_STATE_pending l.1) (s.f (RL_STATE_pending l.1) - 1)

/-- Bytes of staging that each reader has (R104). DESIGN CHOICE (log entry 59): the two sides of a COMPARE share the buffer equally, as
the sources of a reduction do. -/
def Entry.stageCap (e : Entry) : Nat := 131072 / max 1 e.readers / 256 * 256

/-- Job bytes that staging takes ahead of the writes (R104). -/
def Flight.room (f : Flight) (x : Stitch) : Bool :=
  (List.range (max 1 f.e.readers)).all (fun k =>
    let d := (f.reader k).1
    decide (f.e.sideOfs d x.paced - f.e.sideOfs d x.wr + 256 ≤ f.e.stageCap))

/-- The line lets as many paced bursts be read as it may; each is let through as its engine can issue it. DESIGN CHOICE (log entry
46): a burst ends at the stitch boundary too, so that a destination block across it is paced as two bursts. The first argument
bounds them. -/
def State.letBursts : Nat → State → Nat → W32 → Nat → State
  | 0, s, _, _, _ => s
  | n + 1, s, q, i, e =>
    match s.flight? q i with
    | none => s
    | some f =>
      match f.stitch? e with
      | none => s
      | some x =>
        match x.line with
        | none => s
        | some l =>
          if x.ready && !x.stop && s.run && (s.qctx q).bursting && s.ownsReads f e && decide (x.paced < x.hi) && f.room x
              && s.lineGrants l then
            let b := min x.hi (f.burstEnd x.paced)
            let s := (s.takeBurst l).updStitch q i e (fun x => { x with paced := b, ends := x.ends ++ [(l.1, b)] })
            State.letBursts n s q i e
          else s

/-- Paced bursts that have reached the point set by ack_point get their acknowledgement: a DACK_N pulse for an external
line (R118). -/
def State.ackBursts (s : State) (q : Nat) (i : W32) (e : Nat) : State :=
  match s.flight? q i with
  | none => s
  | some f =>
    match f.stitch? e with
    | none => s
    | some x =>
      let reached (b : Nat × Nat) : Bool :=
        if s.fb (RL_CFG_ack_point b.1) then decide (b.2 ≤ x.wr) else (List.range f.e.readers).all (f.hasStaged x b.2)
      (x.ends.filter reached).foldl (fun s b => if b.1 < 32 then s.updLine b.1 (fun y => { y with pulses := y.pulses + 1 }) else s)
        (s.updStitch q i e (fun x => { x with ends := x.ends.filter (fun b => !reached b) }))

/-- The line asks for nothing: no request is pending, or in level mode it is deasserted (R116, R117). -/
def State.lineIdle (s : State) (l : Nat × Bool) : Bool :=
  if l.2 then !s.fb (RL_STATE_level l.1) else !s.fb (RL_STATE_pending l.1)

/-- A paced engine reads PACEWAIT, and requests nothing, while every burst let through has been read and the line asks for no
further one (R99, R116, R117, R263). -/
def State.showPace (s : State) (q : Nat) (i : W32) (e : Nat) : State :=
  match s.flight? q i with
  | none => s
  | some f =>
    match f.stitch? e with
    | none => s
    | some x =>
      match x.line with
      | none => if s.engSt e = 2 then s.setEng e 1 else s
      | some l =>
        let waits := x.ready && !x.stop && decide (x.paced < x.hi) && (List.range f.e.readers).all (f.hasStaged x x.paced) && s.lineIdle l
        if s.engSt e = 1 ∨ s.engSt e = 2 then (if waits then (s.setEng e 2).dropChannels e else s.setEng e 1) else s

/-! ## The ordering class (R111, R112) -/

/-- Node of a remote address (R64). -/
def nodeOf (a : Nat) : Nat := bits a 46 18
/-- Offset in the target region of a remote address (R64). -/
def remOfs (a : Nat) : Nat := bits a 0 46

/-- The remote side of an entry. -/
def Entry.remoteSide (e : Entry) : Dir := if e.isGet then .src else .dst

/-- Some fragment that side offsets [lo, hi) use names node `n`, or is not known; the first argument is the offset of the
list's first fragment. -/
def fragsReach (n lo hi : Nat) : Nat → List Frag → Bool
  | o, [] => decide (max o lo < hi)
  | o, g :: r =>
    (decide (nodeOf g.addr.toNat = n) && decide (lo < o + g.flen) && decide (o < hi)) || fragsReach n lo hi (o + g.flen) r

/-- The nodes that job offsets [a, b) of an entry reach; none when a fragment of them is not read yet. -/
def Flight.nodesOf (f : Flight) (a b : Nat) : Option (List Nat) :=
  let d := f.e.remoteSide
  let l := f.fragsOf d
  if f.e.sideOfs d b ≤ l.foldl (fun n g => n + g.flen) 0 then
    some ((runs l (f.e.sideOfs d a) (f.e.sideOfs d b - f.e.sideOfs d a)).map (fun r => nodeOf r.addr)).dedup
  else none

/-- Job ranges for which an entry has sent no request yet. -/
def Flight.unsent (f : Flight) : List (Nat × Nat) :=
  let sent (x : Stitch) : Nat := if f.e.isGet then x.asked else x.wr
  f.redo ++ f.stitches.map (fun x => (sent x, x.hi)) ++ [(f.next, f.e.length)]

/-- An entry has still to send a request to node `n` (R112). -/
def Flight.owes (f : Flight) (n : Nat) : Bool :=
  let d := f.e.remoteSide
  if f.ended || f.phase.completed then false
  else if f.e.length = 0 then
    f.e.isPut && !f.e.dstFt && !f.phase.hasStarted && decide (nodeOf f.e.dst.toNat = n)
  else f.unsent.any (fun r => decide (r.1 < r.2) && fragsReach n (f.e.sideOfs d r.1) (f.e.sideOfs d r.2) 0 (f.fragsOf d))

/-- The requests of an entry to nodes `l` may be issued now: every earlier entry of its queue and class has sent its last
request to each (R112). -/
def State.ordReady (s : State) (f : Flight) (l : List Nat) : Bool :=
  decide (f.e.ordClass = 0) ||
    (s.flsOf f.q).all (fun g => !(idxBefore g.idx f.idx && decide (g.e.ordClass = f.e.ordClass)
      && (g.e.isPut || g.e.isGet || decide (g.e.opcode = 0x21)) && l.any g.owes))

/-- An ordering class lets job offsets [a, b) be bound: it is their turn at every node they reach, so that no engine waits for
it (R85, R112). -/
def State.ordTurn (s : State) (f : Flight) (a b : Nat) : Bool :=
  decide (f.e.ordClass = 0) || (match f.nodesOf a b with | some l => s.ordReady f l | none => false)

/-! ## Issuing a unit -/

/-- The key of the fragment at side offset `o` (R72). -/
def keyAt (dflt : Nat) : List Frag → Nat → Nat
  | [], _ => dflt
  | g :: r, o => if o < g.flen then (if g.key = 0 then dflt else g.key) else keyAt dflt r (o - g.flen)

/-- The segment check of data crossing NETP (R211). -/
def segCheck (b : List Byte) : W32 := BitVec.ofNat 32 (crc32c b)

/-- Engine `eng` issues the write of one run: a burst to a port, or a PUT or fold segment with its check (R211). `bytes` are those
of the whole unit from job offset `a`. -/
def State.issueRun (s : State) (q : Nat) (i : W32) (eng a : Nat) (bytes : List Byte) (poison : Bool) (r : Run) : State :=
  match s.flight? q i with
  | none => s
  | some f =>
    let e := f.e
    let lo := e.jobOf .dst r.ofs
    let hi := e.jobOf .dst (r.ofs + r.n)
    let b := if e.wireCarrier then e.madeBytes bytes a lo hi else (bytes.drop (r.ofs - e.sideOfs .dst a)).take r.n
    let key := keyAt e.dstKey (f.fragsOf .dst) r.ofs
    let s := if e.dstSpace ≠ 2 then s
      else if e.opcode = 0x21 then
        s.emit (.fold q (nodeOf r.addr) key (remOfs r.addr) e.ordClass e.redType e.redOp e.repro e.outCarrier b (segCheck b) poison)
      else s.emit (.put q (nodeOf r.addr) key (remOfs r.addr) e.ordClass b (segCheck b) poison)
    let w : DataWrite := { w := f.wnext, eng := eng, space := e.dstSpace, addr := r.addr, bytes := b,
                           parity := if e.dstSpace = 0 then b.map parityBit else [], poison := poison, lo := lo,
                           hi := if poison then lo else hi, ord := s.arb.issued, past := [] }
    let s := s.withArb { s.arb with issued := s.arb.issued + 1 }
    s.updFl q i (fun f => { f with writes := f.writes ++ [w], wnext := f.wnext + 1 })

/-- A run cut into pieces of `n` bytes. The first argument bounds them. -/
def cutRun : Nat → Nat → Run → List Run
  | 0, _, _ => []
  | k + 1, n, r =>
    if r.n ≤ n then [r]
    else { r with n := n } :: cutRun k n { r with ofs := r.ofs + n, addr := r.addr + n, n := r.n - n }

/-- The writes that a run of the destination side makes: one, or segments that carry at most 256 bytes where a native destination is
folded into in carrier form (R211, R442; DESIGN CHOICE, log entry 61). -/
def Entry.segRuns (e : Entry) (r : Run) : List Run :=
  if e.wireCarrier then cutRun (r.n + 1) (max 1 (256 * e.factor .dst / e.wireFactor)) r else [r]

/-- Issue the writes of job offsets [x, y) of a unit (R75, R105). -/
def State.issueBytes (s : State) (q : Nat) (i : W32) (f : Flight) (eng a : Nat) (bytes : List Byte) (poison : Bool)
    (x y : Nat) : State :=
  let o := f.e.sideOfs .dst x
  ((runs (f.fragsOf .dst) o (f.e.sideOfs .dst y - o)).flatMap f.e.segRuns).foldl (fun s r => s.issueRun q i eng a bytes poison r) s

/-- Drop what a unit has used from the staging of every reader, with the CRCs held for it. -/
def Flight.consume (f : Flight) (x : Stitch) (b : Nat) : Stitch :=
  let used (k : Nat) : Nat := f.e.sideOfs (f.reader k).1 b - f.e.sideOfs (f.reader k).1 x.wr
  f.sumUp { x with wr := b, stage := (List.range f.e.readers).map (fun k => (x.stage.getD k []).drop (used k)) }

/-- Judge the unit [wr, b) of a stitch and issue it, as far as its checks pass (R214 to R222, R228, R229). DESIGN CHOICE (log entry
49): the exceptions of every result element of the unit count, those of elements that a failed check keeps from being written
too. -/
def State.issueUnit (s : State) (q : Nat) (i : W32) (e : Nat) (f : Flight) (x : Stitch) (b : Nat) : State :=
  let a := x.wr
  let j := s.judgeIn f x a b
  let p := j.1.produce f x a b
  let k : State × Option ChkFail := match j.2 with
    | some c => (p.1, some c)
    | none => p.1.judgeOut f x a b p.2.1
  let g := match k.2 with | some c => min c.sound b | none => b
  let s := (k.1.arbBusy (s.writeRes f) e).arbBusy 4 e
  let diff := if f.e.isCompare then (f.firstDiff x a b).filter (fun d => decide (d < g)) else none
  let s := if f.e.writes then s.issueBytes q i f e a p.2.1 false a g
    else s.updFl q i (fun f => { f with done := f.done ++ [(a, diff.getD g)] })
  let s := (s.countExc p.2.2).updFl q i (fun f => { f with redExc := f.redExc || p.2.2.any (reported f.redCfg) })
  let s := s.updStitch q i e (fun y => f.consume y (if f.e.writes then g else b))
  let s := match diff with
    | some d => s.endEntry q i stMiscompare d
    | none => s
  match k.2 with
  | none => s
  | some c =>
    let s := (s.noteFail q i.toNat f.chkCfg c).endEntry q i c.status c.ofs
    let s := if f.e.writes && bit f.chkCfg 0 then s.issueBytes q i f e a p.2.1 true c.ofs (min c.till b) else s
    s.chargeFail e c

/-- Judge and issue every unit whose bytes are staged, as far as the engine owns what that needs; the stitch's last unit only
when `final`. The first argument bounds the units. -/
def State.issueUnits : Nat → State → Nat → W32 → Nat → Bool → State
  | 0, s, _, _, _, _ => s
  | n + 1, s, q, i, e, final =>
    match s.flight? q i with
    | none => s
    | some f =>
      match f.stitch? e with
      | none => s
      | some x =>
        let b := f.unitEnd x.wr x.hi
        if x.ready && !x.stop && decide (x.wr < x.hi) && (final || decide (b < x.hi)) && (x.line.isNone || decide (b ≤ x.paced))
            && (List.range f.e.readers).all (f.hasStaged x b) && s.ownsIssue f e && s.run then
          State.issueUnits n (s.issueUnit q i e f x b) q i e final
        else s

/-- Bound on the units of a stitch. -/
def Stitch.units (x : Stitch) : Nat := x.hi - x.wr

/-! ## Requests and reads -/

/-- Send the next GET request of a stitch when none is unanswered (R442). -/
def State.askGet (s : State) (q : Nat) (i : W32) (e : Nat) : State :=
  match s.flight? q i with
  | none => s
  | some f =>
    match f.stitch? e with
    | none => s
    | some x =>
      let lim := if x.line.isSome then x.paced else x.hi
      let y := f.e.sideOfs .dst x.asked
      if f.e.isGet && x.ready && !x.stop && s.run && s.owns 2 e && decide (x.asked < lim)
          && decide (x.asked = x.wr + (x.stage.getD 0 []).length) then
        match runAt (f.fragsOf .src) x.asked (lim - x.asked), runAt (f.fragsOf .dst) y (f.e.sideLen .dst - y) with
        | some r, some d =>
          let n := min r.n (f.e.jobOf .dst (y + d.n) - x.asked)
          if 0 < n then
            let s := s.emit (.get q (nodeOf r.addr) (keyAt f.e.srcKey (f.fragsOf .src) x.asked) (remOfs r.addr) n f.e.ordClass)
            (s.arbBusy 2 e).updStitch q i e (fun x => { x with asked := x.asked + n })
          else s
        | _, _ => s
      else s

/-- The list of reader `k` changes. -/
def onReader {α : Type} (n k : Nat) (g : List α → List α) (l : List (List α)) : List (List α) :=
  (List.range n).map (fun j => if j = k then g (l.getD j []) else l.getD j [])

/-- The next read burst of reader `k`: it starts behind what is staged and outstanding, and staging has room for it (R104,
R105). -/
def Flight.nextRead (f : Flight) (x : Stitch) (k : Nat) : Option Run :=
  let d := (f.reader k).1
  let n := (x.stage.getD k []).length + x.outBytes k
  let o := f.e.sideOfs d x.wr + n
  let lim := f.e.sideOfs d (if x.line.isSome then x.paced else x.hi)
  if decide (o < lim) && decide (f.e.space d ≠ 2) then
    (runAt (f.reader k).2 o (lim - o)).filter (fun r => decide (n + r.n ≤ f.e.stageCap))
  else none

/-- The engine issues the read bursts that it may: it owns a channel of the source, and the port holds one more read (R104, R260,
R437). The first argument bounds them. -/
def State.issueReads : Nat → State → Nat → W32 → Nat → State
  | 0, s, _, _, _ => s
  | n + 1, s, q, i, e =>
    match s.flight? q i with
    | none => s
    | some f =>
      match f.stitch? e with
      | none => s
      | some x =>
        let may (k : Nat) : Bool := (f.nextRead x k).isSome && s.owns (s.readRes f k) e && s.readRoom (s.readRes f k)
        if x.ready && !x.stop && s.run then
          match (List.range f.e.readers).find? may with
          | none => s
          | some k =>
            let c := s.qctx q
            let l := match f.nextRead x k with
              | some r => [s.catchRead (f.e.space (f.reader k).1) c.port c.pasidOf r.addr r.n]
              | none => []
            let s := (s.arbBusy (s.readRes f k) e).updStitch q i e (fun x => { x with rds := onReader f.e.readers k (· ++ l) x.rds })
            State.issueReads n s q i e
        else s

/-- Bursts that fill the staging. -/
def stageBursts : Nat := 131072

/-- What a stitch does next by itself: paced bursts are let through, up to `m` reads and a GET request are issued, a paced FILL writes
what its line allows, acknowledgements follow. -/
def State.goBy (m : Nat) (s : State) (q : Nat) (i : W32) (e : Nat) : State :=
  let s := s.letBursts 256 q i e
  let s := match s.flight? q i with
    | some f =>
      (match f.stitch? e with
       | some x => if f.e.isFill && x.line.isSome then s.issueUnits x.units q i e false else s
       | none => s)
    | none => s
  let s := ((s.issueReads m q i e).askGet q i e).ackBursts q i e
  ((s.letBursts 256 q i e).issueReads (m - 1) q i e).showPace q i e

/-- A stitch goes on as far as what its engine owns lets it. -/
def State.goOn (s : State) (q : Nat) (i : W32) (e : Nat) : State := s.goBy stageBursts q i e

/-! ## Ports in turn (R260) -/

/-- How far the stitch on engine `e` has come: bursts let through, requests sent, staged bytes, reads outstanding, issued offset, stopped.
-/
def State.progress (s : State) (e : Nat) : List Nat × Nat × Bool :=
  match s.onEngine e with
  | none => ([], 0, true)
  | some (_, x) => (x.paced :: x.asked :: (x.stage.map (·.length) ++ x.rds.map (·.length)), x.wr, x.stop)

/-- Engine `e` takes one turn: it issues the next unit that is staged whole, else its next read. -/
def State.engineTurn (s : State) (e : Nat) : State :=
  match s.onEngine e with
  | none => s
  | some (f, _) =>
    let t := s.issueUnits 1 f.q f.idx e false
    if t.progress e = s.progress e then s.goBy 1 f.q f.idx e else (t.ackBursts f.q f.idx e).showPace f.q f.idx e

/-- The channel of a resource that is served next, and its engine: from the one after the last served on, the first whose owner has a
burst ready (R260). -/
def State.nextTurn (s : State) (res : Nat) : Option (Nat × Nat) :=
  let from_ := Tbl.get (fun _ => 0) s.arb.turn res
  let l := s.owned res
  let ready (x : Nat × Owner) : Bool := decide (x.2.req < 68) && decide ((s.engineTurn x.2.req).progress x.2.req ≠ s.progress x.2.req)
  ((l.filter (fun x => decide (from_ ≤ x.1)) ++ l.filter (fun x => decide (x.1 < from_))).find? ready).map (fun x => (x.1, x.2.req))

/-- A resource serves the engines that own its channels in turn, one burst each, as long as one has a burst ready (R260). The first
argument bounds the bursts. -/
def State.turns : Nat → State → Nat → State
  | 0, s, _ => s
  | n + 1, s, res =>
    match s.nextTurn res with
    | none => s
    | some (c, e) =>
      let t := s.engineTurn e
      State.turns n (t.withArb { t.arb with turn := Tbl.set (fun _ => 0) t.arb.turn res (c + 1) }) res

/-- The stitch on engine `e` goes on as far as what the engine owns lets it: it issues what is staged whole, and then the ports that it
reads through serve their owners in turn (R260). -/
def State.engineGo (s : State) (e : Nat) : State :=
  match s.onEngine e with
  | none => s
  | some (f, x) =>
    let t := (s.issueUnits (x.units + 1) f.q f.idx e false).goBy 0 f.q f.idx e
    (List.range f.e.readers).foldl (fun t k => t.turns stageBursts (s.readRes f k)) t

/-- Bytes join the staging of reader `k`, and the CRCs of the blocks that they complete are held (R213). -/
def State.stageBytes (s : State) (q : Nat) (i : W32) (e k : Nat) (f : Flight) (l : List SByte) : State :=
  s.updStitch q i e (fun x => f.sumUp { x with stage := onReader f.e.readers k (· ++ l) x.stage })

/-- The oldest outstanding read of reader `k` returns, and its port counts it (R470): staged, or the entry ends (R80, R105, R214); data
that returns to a stitch that was stopped is discarded (R96). Nothing when no read is outstanding. -/
def State.stageRead (s : State) (q : Nat) (i : W32) (e k : Nat) (ans : ReadAns) : State :=
  match s.flight? q i with
  | none => s
  | some f =>
    match f.stitch? e with
    | none => s
    | some x =>
      match x.rds.getD k [] with
      | [] => s
      | g :: _ =>
        let d := (f.reader k).1
        let o := f.e.sideOfs d x.wr + (x.stage.getD k []).length
        let s := s.updStitch q i e (fun x => { x with rds := onReader f.e.readers k (·.drop 1) x.rds })
        match runAt (f.reader k).2 o g.bytes.length with
        | none => s
        | some r =>
          let c := s.qctx q
          let sp := f.e.space d
          let z := s.answer sp c.port r.addr g ans
          let l := (g.bytes.zip (g.marks sp r.addr ans)).map (fun y => SByte.mk y.1 y.2)
          if x.stop || !s.run then z.1
          else match z.2 with
            | some .xlat => z.1.endEntry q i stXlat (f.e.jobOf d o)
            | some .addr => z.1.endEntry q i stKeyBounds (f.e.jobOf d o)
            | _ => (z.1.sat IZ_CHK_STAT_ecc_corrected g.fixes).stageBytes q i e k f l

/-- The oldest read of reader `k` that a stitch which has ended left with engine `e` returns: its port counts it, and the data is
discarded (R96, R470). -/
def State.goneRead (s : State) (x : GoneRead) (ans : ReadAns) : State :=
  ((s.withArb { s.arb with gone := s.arb.gone.erase x }).answer x.space x.res x.addr x.got ans).1

end Sys2Proof.Machine
end

