-- ==== Sys2Proof/Machine/Streams.lean ====
section
/-!
DEFINITION. The admin streams as the scheduler sees them (08_admin_queue.md R234, R255 to R257; 11_pattern_and_startup.md R340):
which command a stream has open or would open, whether it needs a stitch, and in which order the streams take their turns.
-/
namespace Sys2Proof.Machine

/-- A command that Cobbler firmware serves (R240). -/
def isFw (op : Nat) : Bool := decide (op = 0x21) || decide (op = 0x29) || isFwCmd op

/-! ## The command of a stream -/

/-- The open command of a stream. -/
def State.admOf (s : State) : Stream → Option AdmOpen
  | .ring => s.adm.ring
  | .cob => s.adm.cob

/-- A command about to open. -/
def openCmd (c : AdmCmd) : AdmOpen := { cmd := c, begun := false, phase := 1, done := 0, total := 0, value := 0 }

/-- The command that stream `st` has open, or would open next (R255); the ring stream opens none while a disable waits, nor while
its completion ring holds the admin queue stopped (R137, R234). -/
def State.admNext (s : State) (st : Stream) : Option AdmOpen :=
  match s.admOf st with
  | some o => some o
  | none => match st with
    | .cob => none
    | .ring =>
      if s.fb ADM_CFG_enable && !s.adm.disabling && decide ((s.qctx 0).state = .ready) then s.adm.fetched.head?.map openCmd else none

/-! ## Whether a command needs a stitch -/

/-- Parked entries of a queue, those on chip first (R248). -/
def State.parkedOf (s : State) (q : Nat) : List W32 :=
  ((s.park.onChip ++ s.park.spill).filter (fun x => decide (x.1 = q))).map (·.2)

/-- The last stitch of DESTROY_WQ may run: no entry of the queue holds an engine, and each that started has posted or waits for
room (R248, step 4). -/
def State.mayFree (s : State) (q : Nat) : Bool :=
  (s.parkedOf q).isEmpty && (s.flsOf q).all (fun f =>
    f.stitches.isEmpty && (decide (f.phase = .recWait) || decide (f.phase = .posted) || decide (f.phase = .released)))

/-- A begun DESTROY_WQ has work for a stitch: parked entries to withdraw, or the queue to free (R248). -/
def State.destroyReady (s : State) (q : Nat) : Bool :=
  if (s.qctx q).destroy = .discard then !(s.parkedOf q).isEmpty || s.mayFree q
  else decide ((s.qctx q).ci = (s.qctx q).snap) && s.mayFree q

/-- A started entry of the queue is not yet released. -/
def State.stillRuns (s : State) (q : Nat) : Bool := (s.flsOf q).any (fun f => f.phase.hasStarted && decide (f.phase ≠ .released))

/-- RESUME_WQ of queue `q` still waits for what runs (R252). -/
def State.resumeWaits (s : State) (q : Nat) : Bool := decide ((s.qctx q).state = .quarantined) && s.stillRuns q

/-- Records held for ring `c` (R141). -/
def State.heldOf (s : State) (c : Nat) : List Held := (s.cqs.spill ++ s.cqs.waiting).filter (fun h => decide (h.c = c))

/-- No write of ring `c` is issued and not yet accepted. -/
def State.ringQuiet (s : State) (c : Nat) : Bool :=
  !s.cqs.issued.any (fun y => decide (y.2.c = c)) && !s.cqs.wbs.any (fun y => decide (y.1 = c))

/-- A begun DESTROY_CQ has work for a stitch: held records to discard, or the ring to free (R141). -/
def State.destroyCqReady (s : State) (c : Nat) : Bool := !(s.heldOf c).isEmpty || s.ringQuiet c

/-- The command needs a stitch now: one that waits, or is with firmware, needs none (R255). -/
def State.needsStitch (s : State) (o : AdmOpen) : Bool :=
  let op := admOp o.cmd.words
  let q := admF o.cmd.words 2 0 22
  if isFw op then false
  else if op = 0x02 then !o.begun || s.destroyReady q
  else if op = 0x04 then !s.resumeWaits q
  else if op = 0x09 then !o.begun || s.destroyCqReady (admF o.cmd.words 3 0 18)
  else decide (o.phase = 1)

/-! ## Turns (R255, R340) -/

/-- A stream's number in AdmState.line, and its index in ADM_STAT plus one (R258). -/
def streamNo : Stream → Nat
  | .ring => 1
  | .cob => 2

/-- A stream has a command that needs an admin stitch (R255); while the admin queue is stopped by its completion ring the ring
stream's stitches wait (R137, R234). -/
def State.streamReady (s : State) (st : Stream) : Bool :=
  (match s.admNext st with
    | some o => s.needsStitch o
    | none => false) && (decide (st = .cob) || decide ((s.qctx 0).state = .ready))

/-- A stream has a command that needs an admin stitch (R255). -/
def State.adminReady (s : State) : Bool := s.run && (s.streamReady .ring || s.streamReady .cob)

/-- The third stream has a stitch to run: the clear after startup, the clearing of the mirror, or an adoption (R340, R359, R367;
the last two are taken to share its turns). -/
def State.backReady (s : State) : Bool :=
  s.fb PAT_STAT_clearing || (decide (s.f PAIR_STAT_keep_state = 1) && decide (s.pair.clears < 68)) || decide (s.f PAIR_STAT_phase = 2)

/-- The streams that need a stitch: 1 the ring stream, 2 the COB stream, 3 the third one. -/
def State.readyStreams (s : State) : List Nat :=
  (if s.streamReady .ring then [1] else []) ++ (if s.streamReady .cob then [2] else []) ++ (if s.backReady then [3] else [])

/-- The streams in the order in which they take their turns: those that wait longer first (R255). -/
def State.lineNow (s : State) : List Nat :=
  let r := s.readyStreams
  s.adm.line.filter (fun x => decide (x ∈ r)) ++ r.filter (fun x => decide (x ∉ s.adm.line))

/-- The streams that have come to need a stitch take their places. -/
def State.lineUp (s : State) : State := s.withAdm { s.adm with line := s.lineNow }

/-- It is the turn of stream `n`. -/
def State.turnOf (s : State) (n : Nat) : Bool := decide (s.lineNow.head? = some n)

/-- After its stitch a stream that needs another takes the last place, so that the streams alternate (R255). -/
def State.lineEnd (s : State) (n : Nat) : State :=
  let l := s.lineNow
  s.withAdm { s.adm with line := l.filter (fun x => decide (x ≠ n)) ++ l.filter (fun x => decide (x = n)) }

end Sys2Proof.Machine
end

