-- ==== Sys2Proof/Machine/Fetch.lean ====
section
/-!
DEFINITION. Entry fetch and decode (01_work_queues_and_doorbells.md R20, R38, R39, R42; 02_work_entries_and_fragment_tables.md
R79 to R82; 06_triggered_graphs.md R189, R201; adopted entries R370).
-/
namespace Sys2Proof.Machine

/-- The queue is fetched from: READY, or draining before its discard (R24, R248). -/
def QCtx.fetching (c : QCtx) : Bool :=
  decide (c.state = .ready) || (decide (c.state = .destroying) && decide (c.destroy = .wait))

/-- No entry of the queue waits at decode (R201). -/
def State.decodeClear (s : State) (q : Nat) : Bool :=
  (s.flsOf q).all (fun f => decide (f.phase ≠ .waitPark) && decide (f.phase ≠ .fetched))

/-- Entries that the next fetch read takes (R39): at most four, up to S, to the ring's end and to a 256-byte boundary. -/
def QCtx.fetchLen (c : QCtx) : Nat :=
  min (min 4 (idxDiff c.snap c.fetch)) (min (4 - c.fetch.toNat % 4) (2 ^ c.sizeLog2 - c.fetch.toNat % 2 ^ c.sizeLog2))

/-- The address of entry `i` in its ring. -/
def QCtx.slotAddr (c : QCtx) (i : W32) : Nat := c.ringBase.toNat + i.toNat % 2 ^ c.sizeLog2 * 64

/-- The accepted RING that first moved S past entry `i` (R124). -/
def QCtx.acceptOf (c : QCtx) (i : W32) : Option W64 :=
  (c.accepts.find? (fun a => decide (idxDiff i a.old < idxDiff a.new a.old))).map (·.mt)

/-- A flight just read. -/
def freshFlight (q : Nat) (i : W32) (raw : List Byte) (mt : W64) (stitchLog2 : Nat) : Flight :=
  { q := q, idx := i, e := decodeEntry raw, raw := raw, phase := .fetched, acceptMt := mt, stitchLog2 := stitchLog2,
    next := 0, redo := [], stitches := [], kept := none, srcFrags := [], dstFrags := [], srcList := none, writes := [], wnext := 0,
    done := [], status := stOk, failOfs := 0, ended := false, malCause := 0, redExc := false, flush := [false, false],
    flushed := false, redCfg := 0, chkCfg := 0, piCfg := 0, doneMt := 0, replayed := false, uncertain := false,
    skipSignal := false, skipAdd := false, startSeq := none, complSeq := none, quar := none, logged := none }

/-- Key of a done log entry (R353). -/
def logKey (q : Nat) (i : W32) : Nat := q % 2 ^ 21 * 2 ^ 32 + i.toNat
/-- A done log entry. -/
def State.logOf (s : State) (q : Nat) (i : W32) : DoneLog := Tbl.get (fun _ => DoneLog.zero) s.pair.log (logKey q i)

/-- What an adopted entry's done log entry makes of it (R209, R370): a signal that a record of the fellow shows is skipped in every
mode, so an entry of a SYNC queue that signalled while the queue was ASYNC does not signal again. -/
def Flight.adopt (f : Flight) (m : MirrorMode) (l : DoneLog) : Flight :=
  let e := f.e
  match m with
  | .sync =>
    if l.done then { f with logged := some (CRec.ofWords l.record), skipSignal := true, skipAdd := true, ended := true }
    else { f with replayed := true, uncertain := (l.started || l.signalled) && e.nonidem && !e.isTrigAdd, skipSignal := l.own,
                  skipAdd := l.signalled || (l.started && e.isTrigAdd) }
  | _ =>
    if l.signalled then { f with replayed := true, uncertain := e.nonidem, skipSignal := true, skipAdd := true }
    else { f with replayed := true, uncertain := e.nonidem || e.isTrigAdd || e.signalEn }

/-- Decode one fetched entry (R79, R81, R189, R193, R201). -/
def State.decodeOne (s : State) (q : Nat) (i : W32) : State :=
  match s.flight? q i with
  | none => s
  | some f =>
    match s.decodeCause q f.raw f.e with
    | some cause => (s.updFl q i (fun f => { f with phase := .startable })).malformed q cause i (some i)
    | none =>
      if f.logged.isSome then s.updFl q i (fun f => { f with phase := .dataDone })
      else if s.trigPd q f.e then
        s.updFl q i (fun f => { f with phase := .dataDone, status := stTrigPd, ended := true })
      else if f.e.waitEn then s.parkOrWait q i f.e
      else s.updFl q i (fun f => { f with phase := .startable })

/-- A malformed entry is judged once no entry before it waits to start: entries before it are started as usual (R82,
R84; log entry 13). -/
def State.judgedNow (s : State) (q : Nat) (f : Flight) : Bool :=
  (s.decodeCause q f.raw f.e).isNone ||
    (s.flsOf q).all (fun g => !(idxBefore g.idx f.idx && decide (g.phase = .startable) && !g.ended))

/-- Decode the fetched entries of a queue in index order, until one waits for a parking slot, one is malformed behind an
entry that has yet to start, or the queue stops. The first argument bounds them. -/
def State.decodeRun : Nat → State → Nat → State
  | 0, s, _ => s
  | n + 1, s, q =>
    if s.run && (s.qctx q).fetching && (s.flsOf q).all (fun f => decide (f.phase ≠ .waitPark)) then
      match (s.flsOf q).find? (fun f => decide (f.phase = .fetched)) with
      | none => s
      | some f => if s.judgedNow q f then State.decodeRun n (s.decodeOne q f.idx) q else s
    else s

/-- Decode goes on in every queue that has fetched entries left (R79). -/
def State.decodeTick (s : State) : State := forEach s.queues (fun q s => s.decodeRun 4 q) s

/-- The accept_mt of the next fetched entry; for an adopted entry whose RING no SNAP record told the keeper of, a free
value. -/
def State.acceptMtOf (s : State) (q : Nat) (i : W32) : State × W64 :=
  match (s.qctx q).acceptOf i with
  | some t => (s, t)
  | none => ((s.withFree (s.free + 1)), Config.freeWord s.free)

/-- Take one entry that a fetch read brought (R20): F passes it. A mirrored ring that an adopted entry's cq_ovr names is adopted by
then (R371). -/
def State.takeEntry (s : State) (q : Nat) (raw : List Byte) : State :=
  let c := s.qctx q
  let i := c.fetch
  let a := s.acceptMtOf q i
  let kept := c.accepts.filter (fun x => idxBefore (i + 1) x.new)
  let s := a.1.updQ q (fun c => { c with fetch := c.fetch + 1, accepts := kept })
  let f := freshFlight q i raw a.2 c.stitchLog2
  let f := if isAdopted q then f.adopt c.mirror (s.logOf q i) else f
  let s := if isAdopted q && f.e.cqOvrEn then s.adoptRing f.e.cqOvr else s
  (s.withFl (s.fl ++ [f]))

/-- Take one admin entry: it joins the ring stream, or halts the mover (R236). -/
def State.takeAdmin (s : State) (raw : List Byte) : State :=
  let c := s.qctx 0
  let i := c.fetch
  let w := wordsOf64 raw
  match admCause c.echk w with
  | some cause => (s.updQ 0 (fun c => { c with fetch := c.fetch + 1 })).malformed 0 cause i (some i)
  | none =>
    let a := s.acceptMtOf 0 i
    let kept := c.accepts.filter (fun x => idxBefore (i + 1) x.new)
    let s := a.1.updQ 0 (fun c => { c with fetch := c.fetch + 1, accepts := kept })
    State.lineUp (s.withAdm { s.adm with fetched := s.adm.fetched ++ [{ idx := i, words := w, acceptMt := a.2 }] })

/-- Take entries one by one while the mover runs. -/
def State.takeAll (s : State) (q : Nat) : List (List Byte) → State
  | [] => s
  | b :: r => if s.run then (if q = 0 then s.takeAdmin b else s.takeEntry q b).takeAll q r else s

/-- A byte string in pieces of 64 bytes. The first argument bounds them. -/
def entriesOf : Nat → List Byte → List (List Byte)
  | 0, _ => []
  | n + 1, b => b.take 64 :: entriesOf n (b.drop 64)

/-- A fetch may be outstanding on this queue. -/
def State.canFetch (s : State) (q : Nat) : Bool :=
  let c := s.qctx q
  s.run && c.fetching && decide (c.fetch ≠ c.snap) && s.decodeClear q && (decide (q ≠ 0) || s.fb ADM_CFG_enable)

/-- A fetch read fails (R42): the queue is malformed with the read's first index. -/
def State.fetchFail (s : State) (q : Nat) (f : PortFail) : State :=
  let c := s.qctx q
  s.malformed q (match f with | .xlat => 0x03 | _ => 0x04) c.fetch none

/-- ENTRY_FETCH_DONE: a read that FETCH makes on a channel of the ring's port returns, one that is out or one that goes out at once
(log entry 60): F passes the entries read, and they are decoded, or the read fails (R39, R42, R79, R261). One whose queue is no longer
fetched from is counted by its port and discarded. -/
def execEntryFetchDone (q : BitVec 22) (ans : ReadAns) (s : State) : Res :=
  let n := q.toNat
  let res := portRes (spaceOf (s.qctx n).device) (s.qctx n).port
  let c := s.qctx n
  let k := c.fetchLen
  let a := c.slotAddr c.fetch
  let out := s.isOut res (.entries n)
  if s.canFetch n && (out || s.fetchMay res) then
    let s := if out then s.backRead res (.entries n) else s.arbBusy res 68
    let r := s.portRead (spaceOf c.device) c.port c.pasidOf a (64 * k) ans
    match r.2 with
    | some f => .next (r.1.fetchFail n f)
    | none =>
      let s' := r.1.takeAll n (entriesOf k (s.catchRead (spaceOf c.device) c.port c.pasidOf a (64 * k)).bytes)
      .next (s'.decodeRun 4 n)
  else if out then .next ((s.backRead res (.entries n)).portRead (spaceOf c.device) c.port c.pasidOf a (64 * k) ans).1
  else .next s

/-- PARK_FULL_RETRY: the entry of `q` that waits at decode parks once there is room, and decode goes on behind it (R201). DESIGN CHOICE
(log entry 65): it parks only in a state of the queue that decodes entries, so that one of a QUARANTINED or FENCED queue stays at
decode, unstarted and unparked. -/
def execParkFullRetry (q : BitVec 22) (s : State) : Res :=
  let n := q.toNat
  match (s.flsOf n).find? (fun f => decide (f.phase = .waitPark)) with
  | some f =>
    if s.run && (s.qctx n).fetching && s.parkRoom (ctrIdx n f.e.waitCtr) then .next (State.decodeRun 4 (s.parkOrWait n f.idx f.e) n)
    else .next s
  | none => .next s

end Sys2Proof.Machine
end

