-- ==== Sys2Proof/Machine/Completion.lean ====
section
/-!
DEFINITION. Commands of the completion rings (04_completion_rings_and_hallmarks.md R128 to R142).
-/
namespace Sys2Proof.Machine

/-- The PASID of a ring's host writes. -/
def CqCtx.pasidOf (x : CqCtx) : Option Nat := if x.pasidValid then some x.pasid else none

/-- The address of the record at ring index `i` (R128). -/
def CqCtx.slotAddr (x : CqCtx) (i : W32) : Nat := x.ringBase.toNat + i.toNat % 2 ^ x.sizeLog2 * 32

/-- The oldest batch of issued records of ring `c`: those issued in one CORE_CLK cycle, at most 8 (R132). -/
def State.batchOf (s : State) (c : Nat) : List (W32 × Held) :=
  let l := s.cqs.issued.filter (fun y => decide (y.2.c = c))
  match l with
  | [] => []
  | y :: _ => (l.takeWhile (fun z => decide (z.2.at_ = y.2.at_))).take 8

/-- Write the records of a batch into the ring (R128, R129), each over hop 7 and the port's out-hop (R217), poisoned in a hard halt
(R418). -/
def State.writeRecs (s : State) (x : CqCtx) (l : List (W32 × Held)) : State :=
  l.foldl (fun s y =>
    (s.ctlHops y.2.r.qid y.2.idx.toNat (spaceOf x.device)).writeBytes (spaceOf x.device) x.pasidOf (x.slotAddr y.1)
      (wordBytes (y.2.r.words y.1 x.sizeLog2)) s.pair.hard) s

/-- The write-back that follows a batch whose last record has index `i` is built and issued (R132, R217). -/
def State.writeBack (s : State) (c : Nat) (x : CqCtx) (last : W32 × Held) : State :=
  let s := s.ctlHops last.2.r.qid last.2.idx.toNat (spaceOf x.device)
  s.withCqs { s.cqs with wbs := s.cqs.wbs ++ [(c, last.1 + 1)] }

/-- The oldest write-back of ring `c` is accepted, and stands at wb_addr; one that finds no memory breaks the ring (R132, R141, R450). -/
def State.landBack (s : State) (c : Nat) : State :=
  match s.cqs.wbs.find? (fun y => decide (y.1 = c)) with
  | none => s
  | some y =>
    let x := s.cctx c
    let s := s.withCqs { s.cqs with wbs := s.cqs.wbs.erase y }
    if x.device && s.pkgOut x.wbAddr.toNat 8 then
      let s := s.cnt IZ_MEMP_STAT_addr_err
      if s.run then s.breakRing c true else s
    else s.writeBytes (spaceOf x.device) x.pasidOf x.wbAddr.toNat (leBytes 8 y.2.toNat) s.pair.hard

/-- The write-backs that are out are accepted, in the order of their issue. -/
def State.landBacks (s : State) : State := forEach (s.cqs.wbs.map (·.1)) (fun c s => s.landBack c) s

/-- What an accepted batch does: the mirror hears of it, its entries are released, the ring's source is raised, and the write-back is
issued (R21, R132, R142, R351). -/
def State.batchNow (s : State) (c : Nat) (l : List (W32 × Held)) (last : W32 × Held) : State :=
  let s := if s.cMirrored c then s.mirrorDelta .ring c 0x06 0 0 (last.1 + 1) 0 [] else s
  let s := forEach l (fun y s => s.release y.2.q y.2.idx) s
  let s := s.coalesce c l.length
  if (s.cctx c).wbEn then s.writeBack c (s.cctx c) last else s

/-- What an accepted batch does waits for room for its CQPI record, and behind an earlier batch of the ring that does (R356). -/
def State.batchDone (s : State) (c : Nat) (l : List (W32 × Held)) (last : W32 × Held) : State :=
  let mine (a : MirrorAct) : Bool := match a with | .batch d _ => decide (d = c) | _ => false
  if s.pair.acts.any mine || s.actWaits (s.cMirrored c && s.deltaDue .ring c) then s.withPair { s.pair with acts := s.pair.acts ++ [.batch c l] }
  else s.batchNow c l last

/-- CPOST has put the batch out, or puts it out now on a channel that it owns (R260, R261; log entry 60). -/
def State.batchOut (s : State) (x : CqCtx) (l : List (W32 × Held)) : Bool := l.all (fun y => y.2.sent) || s.owns x.res 69

/-- The oldest batch is accepted or acknowledged: it stands in the ring, its entries are released, and the write-back is issued (R21,
R132). What stands earlier at the port lands first. After a halt no write-back follows (R84); in a hard halt a write that is out ends
poisoned (R418). -/
def State.ackRecs (s : State) (c : Nat) : State :=
  let s := s.landBack c
  let l := s.batchOf c
  match l.getLast? with
  | none => s
  | some last =>
    let x := s.cctx c
    if !s.batchOut x l || (s.pair.hard && !l.all (fun y => y.2.sent)) then s
    else
      let s := (s.arbBusy x.res 69).withCqs { s.cqs with issued := s.cqs.issued.filter (fun y => !decide (y ∈ l)) }
      if x.device && l.any (fun y => s.pkgOut (x.slotAddr y.1) 32) then
        let s := (s.cnt IZ_MEMP_STAT_addr_err).withCqs { s.cqs with issued := l ++ s.cqs.issued }
        if s.run then s.breakRing c true else s
      else
        let s := s.writeRecs x l
        if s.run then s.batchDone c l last else s

/-- Every issued write of ring `c` that is out reaches it. The first argument bounds the batches. -/
def State.settleRing : Nat → State → Nat → State
  | 0, s, c => s.landBack c
  | n + 1, s, c => if s.cqs.issued.any (fun y => decide (y.2.c = c)) then State.settleRing n (s.ackRecs c) c else s.landBack c

/-- RECORD_WRITE_ACK. -/
def execRecordWriteAck (c : Nat) (s : State) : Res := .next (s.ackRecs c)

/-- RING_BROKEN: a record or write-back write of the ring fails, at its host port or, with `mem`, in memory (R141, R439). -/
def execRingBroken (c : Nat) (mem : Bool) (s : State) : Res :=
  let x := s.cctx c
  if (x.state = .active ∨ x.state = .full) ∧ s.run ∧ (x.device ↔ mem = true) then
    .next ((if mem then s else s.cnt (IZ_HOSTP_STAT_xlat (b2n x.hostpSel))).breakRing c mem)
  else .next s

/-- CQ_COAL_TIMER: coal_time × 256 ns have passed since the first record that no raise covers (R142). -/
def execCqCoalTimer (c : Nat) (s : State) : Res :=
  let x := s.cctx c
  guarded (x.irqEn && decide (x.coalTime ≠ 0) && decide (0 < x.uncovered) && s.run) s
    ((s.setC c { x with uncovered := 0 }).raiseVia x.port x.irqSrc)

end Sys2Proof.Machine
end

