-- ==== Sys2Proof/Machine/Arrive.lean ====
section
/-!
DEFINITION. Arrival notifications and the counter window (06_triggered_graphs.md R197, R205, R207; R445).
-/
namespace Sys2Proof.Machine

/-- The counter an arrival notification names; bit 20 for an adopted one (R207, R445). -/
def State.arrivalCtr (_s : State) (w : W64) : Nat := bits w.toNat 0 20 + b2n (bit w.toNat 48) * 2 ^ 20

/-- The mover holds adopted counters: it has taken over (R207). -/
def State.holdsAdopted (s : State) : Bool := decide (2 ≤ s.f PAIR_STAT_phase)

/-- Count a dropped notification (R197). -/
def State.arrivalBad (s : State) (w : W64) (cause : Nat) : State :=
  (((s.cnt IZ_TRIG_ARRIVAL_BAD_count).setF IZ_TRIG_ARRIVAL_BAD_last_ctr (bits w.toNat 0 20)).setF
    IZ_TRIG_ARRIVAL_BAD_last_cause cause).raise 37

/-- Judge and apply an arrival notification of Mover Time `t`, in NET_CLK (R148, R197, R445); nothing is applied after a halt (R84),
and an increment of 0 changes nothing. -/
def State.arriveNow (s : State) (w : W64) (t : W64) : State :=
  let n := s.arrivalCtr w
  let c := s.ctrOf n
  let inc := bits w.toNat 20 12
  if !s.run || decide (inc = 0) then s
  else if !c.valid || (bit w.toNat 48 && !s.holdsAdopted) then s.arrivalBad w 1
  else if c.pd ≠ bits w.toNat 32 16 then s.arrivalBad w 0
  else if !c.remoteEn then s.arrivalBad w 2
  else (s.setCtr n { c with value := c.value + BitVec.ofNat 64 inc }).mirrorCtrAt t 2 n 2 0 0

/-- The notification will be applied, and its CTR record sent (R197, R351). -/
def State.arrivalSends (s : State) (w : W64) : Bool :=
  let n := s.arrivalCtr w
  let c := s.ctrOf n
  s.run && decide (bits w.toNat 20 12 ≠ 0) && decide (n < 2 ^ 20) && c.valid && decide (c.pd = bits w.toNat 32 16) && c.remoteEn
    && s.deltaDue .counter n

/-- An arrival notification takes effect, or waits for room for its record (R356). -/
def State.applyArrival (s : State) (w : W64) (t : W64) : State :=
  if s.actWaits (s.arrivalSends w) then s.withPair { s.pair with acts := s.pair.acts ++ [.arrival w t] } else s.arriveNow w t

/-- The counter that the window shows (R205). -/
def State.trigSel (s : State) : Nat := s.f IZ_TRIG_SEL_ctr + s.f IZ_TRIG_SEL_adopted * 2 ^ 20

/-- The counter window (R205): the value, or the fields of R187. -/
def State.trigWord (s : State) (info : Bool) : W64 :=
  ((s.ctrOf s.trigSel).words (s.waitersOf s.trigSel).length).getD (b2n info) 0

/-- The counter window's answer: the whole word, or the half that a 4-byte read at `ofs` takes (R473). -/
def State.applyTrigRead (s : State) (ofs size : Nat) : State :=
  s.ret (BitVec.ofNat 64 (bits (s.trigWord (decide (ofs / 8 * 8 = IZ_TRIG_INFO))).toNat (8 * (ofs % 8)) (8 * size)))

end Sys2Proof.Machine
end

