-- ==== Sys2Proof/Machine/Doorbell.lean ====
section
/-!
DEFINITION. The doorbell aperture and its intake (01_work_queues_and_doorbells.md R29 to R42): PI and RING writes, CQ_CI
writes through a slot, stray and misformed accesses, and commands that wait for a cold context (R34, R44).
-/
namespace Sys2Proof.Machine

/-! ## Stray accesses -/

/-- Slot `q` takes nothing: its queue is FREE, or it is slot 0 while the ring stream is disabled (R31). -/
def State.slotClosed (s : State) (q : Nat) : Bool :=
  decide ((s.qctx q).state = .free) || (decide (q = 0) && !s.fb ADM_CFG_enable)

/-- Discard an aperture access and count it (R31, R32). -/
def State.stray (s : State) (q cause : Nat) : State :=
  (((s.cnt WQ_DB_STRAY_count).setF WQ_DB_STRAY_last_qid q).setF WQ_DB_STRAY_last_cause cause).raise 32

/-- Whether a write of `size` bytes at slot offset `ofs` is one of the accepted forms of R30. -/
def writeForm (ofs size : Nat) : Bool :=
  (decide (ofs = 0) && decide (size ∈ [4, 8, 16, 32, 64]))
  || (decide (8 ≤ ofs) && decide (1 ≤ size) && decide (size ≤ 8) && decide (ofs + size ≤ 16))
  || (decide (ofs = 0x40) && (decide (size = 4) || decide (size = 8)))

/-- The cause of a discarded access to an open slot (R32). -/
def strayCause (write : Bool) (ofs size : Nat) : Nat := if write && overlaps ofs size 0x10 8 then 2 else 1

/-! ## PI and RING -/

/-- Store a producer index (R24, R29). -/
def State.applyPi (s : State) (q : Nat) (v : W32) : State :=
  match (s.qctx q).state with
  | .ready | .stopped | .quarantined | .fenced => s.updQ q (fun c => { c with pi := v })
  | .free | .destroying => s

/-- The snapshot that the next RING is judged against: that of the latest accepted RING, which may still wait to set S (R41, R356). -/
def State.snapOf (s : State) (q : Nat) : W32 :=
  match (s.pair.ringWait.filter (fun x => decide (x.1 = q))).getLast? with
  | some x => x.2.1
  | none => (s.qctx q).snap

/-- Accept the snapshot `v` that a RING at Mover Time `t` handed over: S, the RING count, and SNAP for a mirrored queue
(R37, R351). -/
def State.acceptSnap (s : State) (q : Nat) (v : W32) (t : W64) : State :=
  let c := s.qctx q
  let moved := decide (v ≠ c.snap)
  let c' := { c with snap := v, rings := c.rings + 1,
                     accepts := if moved then c.accepts ++ [{ old := c.snap, new := v, mt := t }] else c.accepts }
  let s := s.setQ q c'
  if moved && s.qMirrored q then s.mirrorDeltaAt t 1 .queue q 0x01 0 q v 0 [] else s

/-- An accepted RING of Mover Time `t` waits for room in the mirror queue before it sets S (R356). -/
def State.snapOrWait (s : State) (q : Nat) (v : W32) (t : W64) : State :=
  if s.qMirrored q && s.mirrorOn
      && (!s.mirrorRoom 1 || s.pair.ringWait.any (fun x => decide (x.1 = q))) then
    (s.withPair { s.pair with ringWait := s.pair.ringWait ++ [(q, v, t)] })
  else s.acceptSnap q v t

/-- Apply a RING that arrived at Mover Time `t` (R24, R37, R41, R42). -/
def State.applyRing (s : State) (q : Nat) (t : W64) : State :=
  let c := s.qctx q
  match c.state with
  | .ready | .stopped =>
    let n := idxDiff c.pi c.ci
    let m := idxDiff (s.snapOf q) c.ci
    if 2 ^ c.sizeLog2 < n then s.malformed q 0x01 c.pi none
    else if n < m then s.malformed q 0x02 c.pi none
    else s.snapOrWait q c.pi t
  | .quarantined | .fenced | .destroying => s.updQ q (fun c => { c with ringIgnored := satAdd 16 c.ringIgnored 1 })
  | .free => s

/-! ## Waiting for cold contexts -/

/-- The port and the queue slot that an aperture access is for. -/
def slotOf : Instr → Option (Nat × Nat)
  | .piWrite p q _ _ => some (p.val, q.toNat)
  | .ring p q _ => some (p.val, q.toNat)
  | .piAndRing p q _ _ _ => some (p.val, q.toNat)
  | .cqCiWrite p q _ _ => some (p.val, q.toNat)
  | .apertureMisformedAccess p q _ _ _ => some (p.val, q.toNat)
  | _ => none

/-- An aperture write of an accepted form: it uses an intake entry (R35). -/
def isDoorbell : Instr → Bool
  | .piWrite _ _ _ _ => true
  | .ring _ _ _ => true
  | .piAndRing _ _ _ _ _ => true
  | .cqCiWrite _ _ _ _ => true
  | _ => false

/-- The contexts that a command of the intake, or a mirror record at its keeper, needs (R44, R197, R205). -/
def State.needs (s : State) : Instr → List (CtxKind × Nat)
  | .piWrite _ q _ _ => [(.queue, q.toNat)]
  | .ring _ q _ => [(.queue, q.toNat)]
  | .piAndRing _ q _ _ _ => [(.queue, q.toNat)]
  | .cqCiWrite _ q _ _ => [(.queue, q.toNat), (.ring, (s.qctx q.toNat).cqid)]
  | .apertureMisformedAccess _ q _ _ _ => [(.queue, q.toNat)]
  | .arrivalNotification w => [(.counter, s.arrivalCtr w)]
  | .trigCounterRead _ => [(.counter, s.trigSel)]
  | .registerRead _ o _ => if o / 8 * 8 = IZ_TRIG_VAL ∨ o / 8 * 8 = IZ_TRIG_INFO then [(.counter, s.trigSel)] else []
  | .snap r | .ci r | .qCtx r _ => [(.queue, r.qid.toNat % 2 ^ 21 + 2 ^ 21)]
  | .cqpi r | .cqci r | .cqCtx r _ => [(.ring, r.item % 2 ^ 18 + 2 ^ 18)]
  | .ctr r | .ctrCtx r _ => [(.counter, r.item % 2 ^ 20 + 2 ^ 20)]
  | .start r => if r.b = 0 then [] else [(.counter, r.item % 2 ^ 20 + 2 ^ 20)]
  | .complete r _ => if bit r.b.toNat 50 then [(.counter, bits r.b.toNat 18 20 + 2 ^ 20)] else []
  | _ => []

/-- A context the command needs exists and is cold; those of `also` have been fetched for it. -/
def State.cold (s : State) (also : List (CtxKind × Nat)) (c : Instr) : Bool :=
  (s.needs c).any (fun x => s.ctxExists x.1 x.2 && !s.hot x.1 x.2 && decide (x ∉ also))

/-- An earlier access to the same slot waits (R33). -/
def blocked (w : List Waiting) (c : Instr) : Bool :=
  match slotOf c with
  | some (_, q) => w.any (fun d => match slotOf d.c with | some (_, q') => decide (q = q') | none => false)
  | none => false

/-- The data of a read of CI (R29, R30): one of another size than 4 or 8 is discarded and counted, and the spec does not say
what it returns: a free value (log entry 21). DESIGN CHOICE (log entry 21): such a read of a FREE queue's CI is counted with
cause 0 like every misformed access (R31), and the uncounted zero under R32 is for reads of 4 or 8 bytes. -/
def State.readCi (s : State) (q size : Nat) : State :=
  if size = 4 ∨ size = 8 then s.ret (BitVec.ofNat 64 (s.qctx q).ci.toNat)
  else State.ret ((s.stray q (if s.slotClosed q then 0 else 1)).withFree (s.free + 1)) (Config.freeWord s.free)

/-- Apply a command whose contexts are at hand and which arrived at Mover Time `t`. -/
def State.applyIntake (s : State) (c : Instr) (t : W64) : State :=
  if s.halted && isDoorbell c then s else
  let s := (s.needs c).foldl (fun s x => if s.hot x.1 x.2 then s.touch x.1 x.2 else s) s
  match c with
  | .piWrite _ q v _ => if s.slotClosed q.toNat then s.stray q.toNat 0 else s.applyPi q.toNat v
  | .ring _ q _ => if s.slotClosed q.toNat then s.stray q.toNat 0 else s.applyRing q.toNat t
  | .piAndRing _ q _ v _ =>
    if s.slotClosed q.toNat then s.stray q.toNat 0 else (s.applyPi q.toNat v).applyRing q.toNat t
  | .cqCiWrite _ q v _ =>
    if s.slotClosed q.toNat then s.stray q.toNat 0
    else if (s.cctx (s.qctx q.toNat).cqid).state = .free then s else s.judgeCi (s.qctx q.toNat).cqid v t
  | .apertureMisformedAccess _ q _ _ n => s.readCi q.toNat n
  | .arrivalNotification w => s.applyArrival w t
  | .trigCounterRead info => s.applyTrigRead (if info then IZ_TRIG_INFO else IZ_TRIG_VAL) 8
  | .registerRead _ o n => s.applyTrigRead o n
  | _ => s

/-- Intake entries that port `p` has in use (R35). -/
def State.intakeLevel (s : State) (p : Nat) : Nat :=
  (s.cache.waits.filter (fun w => isDoorbell w.c && (match slotOf w.c with | some (p', _) => decide (p' = p) | none => false))).length

/-- Count the queue-context lookup of a command (R47). -/
def State.countLookup (s : State) (c : Instr) : State :=
  match s.needs c with
  | (.queue, q) :: _ => if s.ctxExists .queue q then s.countCtx .queue (s.hot .queue q) else s
  | _ => s

/-- A write of an accepted form to a slot that takes nothing (R31). -/
def State.discards (s : State) (c : Instr) : Bool :=
  isDoorbell c && (match slotOf c with | some (_, q) => s.slotClosed q | none => false)

/-- Apply a command that arrived at Mover Time `t`, or let it wait behind an earlier access to its slot or for a cold context
(R33, R34, R44). A write to a slot that takes nothing is discarded at once (R31). One that waits behind another has not looked its
context up yet. -/
def State.intakeAt (s : State) (c : Instr) (t : W64) : State :=
  if s.discards c then s.stray ((slotOf c).getD (0, 0)).2 0
  else if blocked s.cache.waits c then
    (s.withCache { s.cache with waits := s.cache.waits ++ [{ c := c, mt := t, looked := false, got := [] }] })
  else
    let s := s.countLookup c
    if s.cold [] c then (s.withCache { s.cache with waits := s.cache.waits ++ [{ c := c, mt := t, looked := true, got := [] }] })
    else s.applyIntake c t

/-- A command arrives at the intake now, from HOST_CLK (R124, R148). -/
def State.intake (s : State) (c : Instr) : State := s.intakeAt c (s.mtIn 1)

/-- An arrival notification reaches the intake now, from NET_CLK (R148, R191). -/
def State.arrivalIn (s : State) (w : W64) : State := s.intakeAt (.arrivalNotification w) (s.mtIn 2)

/-- A read of the counter window: it waits while a cold counter is fetched, and in a hard halt returns zero at once instead
(R205, R418). -/
def State.readTrig (s : State) (c : Instr) : State :=
  if s.pair.hard && s.cold [] c then s.ret 0 else s.intake c

/-- An aperture write that its port accepts (R30 to R35, R440, R441): accepted and discarded while the mover is halted,
discarded and counted when a beat fails parity; a misformed one is discarded and counted, and takes no intake entry. -/
def State.accept (s : State) (p : Nat) (parityOk : Bool) (c : Instr) : State :=
  if s.halted then s
  else
    let s := if isDoorbell c then s.peak (WQ_INTAKE_LEVEL_peak p) (s.intakeLevel p + 1) else s
    if !parityOk then (s.cnt (IZ_HOSTP_STAT_parity_in p)).raise 40
    else match c with
      | .apertureMisformedAccess _ q _ ofs n => s.stray q.toNat (if s.slotClosed q.toNat then 0 else strayCause true ofs n)
      | _ => s.intake c

/-- Port and parity of an aperture write. -/
def parityOf : Instr → Nat × Bool
  | .piWrite p _ _ k => (p.val, k)
  | .ring p _ k => (p.val, k)
  | .piAndRing p _ _ _ k => (p.val, k)
  | .cqCiWrite p _ _ k => (p.val, k)
  | .apertureMisformedAccess p _ (.write k) _ _ => (p.val, k)
  | _ => (0, true)

/-- Writes that port `p` holds back. -/
def State.heldBack (s : State) (p : Nat) : Bool := s.cache.back.any (fun d => decide ((parityOf d).1 = p))

/-- Port `p` takes aperture writes: its intake has an entry free, or the mover is halted (R35, R441). -/
def State.portOpen (s : State) (p : Nat) : Bool := s.halted || decide (s.intakeLevel p < 1024)

/-- An aperture write reaches its port: it is taken, or held back in order while the port's intake is full
(R35). -/
def State.aperture (s : State) (p : Nat) (parityOk : Bool) (c : Instr) : State :=
  if !s.served then s
  else if s.portOpen p && !s.heldBack p then s.accept p parityOk c
  else (s.withCache { s.cache with back := s.cache.back ++ [c] })

/-- Entries have drained: the ports take the writes they held back, each in its order, as far as the intake has room (R35).
The first argument bounds them. -/
def State.takeBack : Nat → State → State
  | 0, s => s
  | n + 1, s =>
    match s.cache.back.find? (fun d => s.portOpen (parityOf d).1) with
    | none => s
    | some d =>
      State.takeBack n (State.accept (s.withCache { s.cache with back := s.cache.back.erase d }) (parityOf d).1 (parityOf d).2 d)

/-! ## Meanings -/

/-- PI_WRITE. -/
def execPiWrite (p : Fin 2) (q : BitVec 21) (pi : W32) (parityOk : Bool) (s : State) : Res :=
  .next (s.aperture p.val parityOk (.piWrite p q pi parityOk))

/-- RING. -/
def execRing (p : Fin 2) (q : BitVec 21) (parityOk : Bool) (s : State) : Res :=
  .next (s.aperture p.val parityOk (.ring p q parityOk))

/-- PI_AND_RING: a write of 16, 32 or 64 bytes at offset 0, which are the sizes aligned to themselves (log entry 20). -/
def execPiAndRing (p : Fin 2) (q : BitVec 21) (size : Nat) (pi : W32) (parityOk : Bool) (s : State) : Res :=
  guarded (decide (size ∈ [16, 32, 64])) s (s.aperture p.val parityOk (.piAndRing p q size pi parityOk))

/-- CQ_CI_WRITE. -/
def execCqCiWrite (p : Fin 2) (q : BitVec 21) (v : W32) (parityOk : Bool) (s : State) : Res :=
  .next (s.aperture p.val parityOk (.cqCiWrite p q v parityOk))

/-- APERTURE_MISFORMED_ACCESS: any access that is not an accepted write. A read of CI, which waits for a cold queue context, and
a read elsewhere are answered (R30, R31, R44); a write is discarded (R31, R440). -/
def execApertureMisformedAccess (p : Fin 2) (q : BitVec 21) (write : ApAccess) (ofs size : Nat) (s : State) : Res :=
  match write with
  | .write k => guarded (!writeForm ofs size) s (s.aperture p.val k (.apertureMisformedAccess p q (.write k) ofs size))
  | .read =>
    if ofs = 0x10 then
      if s.halted then .next (s.beginRead.readCi q.toNat size)
      else .next (s.beginRead.intake (.apertureMisformedAccess p q .read ofs size))
    else .next (s.beginRead.ret 0)

end Sys2Proof.Machine
end

