-- ==== Sys2Proof/Machine/Sched.lean ====
section
/-!
DEFINITION. Starting and binding (03_execution_stitches_and_request_lines.md R85 to R101, R106 to R108): which entries may
start, which unit is bound next, which queue the scheduler chooses, and an entry run from its first unbound byte on.
-/
namespace Sys2Proof.Machine

/-! ## Starting an entry -/

/-- New starts are allowed (R86). -/
def QCtx.mayStart (c : QCtx) : Bool := decide (c.state = .ready) || (decide (c.state = .destroying) && decide (c.destroy = .wait))
/-- Further stitches of started entries are bound (R86). -/
def QCtx.mayContinue (c : QCtx) : Bool := c.mayStart || decide (c.state = .quarantined) || decide (c.state = .fenced)
  || (decide (c.state = .destroying) && decide (c.destroy = .frozen))

/-- Started entries of mirrored queues at or above their queue's mirrored_ci (R354): those that CI has passed, and those at or above
CI. -/
def State.tracked (s : State) : Nat :=
  (s.queues.filter s.qMirrored).foldl (fun n q =>
    n + ((s.flsOf q).filter (fun f => f.began && !idxBefore f.idx (s.qctx q).ci)).length) s.pair.passed.length

/-- The start rules (R106, R108, R354). -/
def State.startOk (s : State) (f : Flight) : Bool :=
  let before := (s.flsOf f.q).filter (fun g => idxBefore g.idx f.idx)
  let left (g : Flight) : Bool := g.e.waitEn && (decide (g.phase = .parked) || decide (g.phase = .startable))
  let fenced (g : Flight) : Bool := decide (g.e.opcode = 0x31) && !g.phase.completed && !decide (g.phase = .parked)
  before.all (fun g => !fenced g)
    && (f.e.waitEn || before.all (fun g => g.phase.hasStarted || left g))
    && (!decide (f.e.opcode = 0x31) || s.earlierDone f.q f.idx)
    && (!s.sending f.q || decide (s.tracked < 65536))

/-- The entry's START must be acknowledged before it starts (R355). -/
def State.needsStart (s : State) (f : Flight) : Bool :=
  s.sending f.q && decide ((s.qctx f.q).mirror = .sync) && (f.e.nonidem || f.e.isTrigAdd)

/-- The entry may start as soon as the scheduler takes it (R86, R106). -/
def State.canStart (s : State) (f : Flight) : Bool :=
  decide (f.phase = .startable) && !f.ended && s.run && (s.qctx f.q).mayStart && s.startOk f
    && (!s.needsStart f || (!s.snapOpen .queue f.q && (match f.startSeq with
          | none => s.mirrorRoom 1
          | some _ => s.seqAcked f.startSeq)))

/-- Start an entry that may start; the answer's second part is false where its START is sent first (R85, R100, R185, R230,
R355). -/
def State.beginEntry (s : State) (q : Nat) (i : W32) : State × Bool :=
  match s.flight? q i with
  | none => (s, false)
  | some f =>
    if !s.canStart f then (s, false)
    else if s.needsStart f && f.startSeq.isNone then
      let sq := s.pair.seq
      let item := if f.e.isTrigAdd then f.e.src.toNat else q
      let s := s.mirrorRec 0x04 item 0 q i (if f.e.isTrigAdd then f.e.dst else 0) []
      (s.updFl q i (fun f => { f with startSeq := some sq }), false)
    else
      let l := (s.qctx q).stitchLog2
      let red := (s.reg IZ_RED_CFG).toNat
      let chk := (s.reg IZ_CHK_CFG).toNat
      let pi := (s.reg IZ_PI_CFG).toNat
      (s.updFl q i (fun (f : Flight) => { f with phase := .started, began := true, stitchLog2 := l, redCfg := red, chkCfg := chk, piCfg := pi }), true)

/-! ## The next unit (R89, R96, R100) -/

/-- The next job range to bind: what a cut or a release left, else the next stitch of the grid; none at or above the goal of an
entry that has ended. -/
def Flight.nextUnit (f : Flight) : Option (Nat × Nat) :=
  let g (a : Nat) : Nat := (a / 2 ^ f.stitchLog2 + 1) * 2 ^ f.stitchLog2
  match f.redo with
  | (a, b) :: _ => if a < min b f.goal then some (a, min (min b f.goal) (g a)) else none
  | [] => if f.next < f.goal then some (f.next, min f.goal (g f.next)) else none

/-- Take the next unit out of what is left to bind. -/
def Flight.takeUnit (f : Flight) (hi : Nat) : Flight :=
  match f.redo with
  | (_, b) :: r => { f with redo := if hi < b then (hi, b) :: r else r }
  | [] => { f with next := hi }

/-- It is the next unit's turn in its ordering class (R85, R112). -/
def State.unitTurn (s : State) (f : Flight) : Bool :=
  match f.nextUnit with
  | some u => s.ordTurn f u.1 u.2
  | none => false

/-- The entry is bindable (R86, R89, R91, R93). One with a source list starts first, and is bound once its list is read (R77). -/
def State.bindable (s : State) (f : Flight) : Bool :=
  let c := s.qctx f.q
  match f.phase with
  | .started => s.run && c.mayContinue && s.unitTurn f && (!boundByR91 c f.e || f.stitches.isEmpty)
      && (!f.e.hasList || f.srcList.isSome)
  | .startable => s.canStart f && !f.e.noEngine && (f.e.hasList || s.unitTurn f)
  | _ => false

/-- Engines that a queue holds. -/
def State.enginesOf (s : State) (q : Nat) : Nat := (s.flsOf q).foldl (fun n f => n + f.stitches.length) 0

/-- The pacing rule allows a burst of a paced queue (R86, R120). -/
def State.paceAllows (s : State) (q : Nat) : Bool :=
  let c := s.qctx q
  !c.rlBind || (c.bursting && s.lineGrants (c.rlLine, c.rlMode))

/-- The queue may hold one more engine and its line allows a burst (R86). -/
def State.mayHold (s : State) (q : Nat) : Bool :=
  decide (s.enginesOf q < s.f IZ_SCHED_CFG_eng_per_queue) && s.paceAllows q

/-- Whether a queue is eligible (R86). -/
def State.eligible (s : State) (q : Nat) : Bool :=
  decide (q ≠ 0) && s.mayHold q && (s.flsOf q).any s.bindable

/-- The MT by which a queue is ranked (R87). -/
def QCtx.lastMt (c : QCtx) : Nat := if c.served then c.servedMt.toNat else c.createdMt.toNat

/-- Queue `a` goes before queue `b` (R87). -/
def State.queueBefore (s : State) (a b : Nat) : Bool :=
  let x := s.qctx a
  let y := s.qctx b
  if x.rank ≠ y.rank then decide (y.rank < x.rank)
  else if s.enginesOf a ≠ s.enginesOf b then decide (s.enginesOf a < s.enginesOf b)
  else if x.lastMt ≠ y.lastMt then decide (x.lastMt < y.lastMt)
  else decide (a < b)

/-- The work queue that R87 chooses. -/
def State.chooseQueue (s : State) : Option Nat := maxBy s.queueBefore (s.queues.filter s.eligible)

/-- Engines bound to a stitch or in PACEWAIT (R98). -/
def State.engBusy (s : State) : Nat := ((List.range 68).filter (fun e => decide (s.engSt e = 1) || decide (s.engSt e = 2))).length

/-- One more engine may serve a work queue: with admin_reserve = 1 one is kept for the admin queue (R97). -/
def State.engForWork (s : State) : Bool := !s.fb IZ_SCHED_CFG_admin_reserve || decide (s.engBusy + 1 < s.engActive)

/-! ## Binding (R70, R76, R87, R99) -/

/-- A stitch starts: keys and fragments are checked, and what fails ends the entry or makes its queue malformed; a stitch
whose fragments are not all read yet waits (R70, R76, R101). -/
def State.openStitch (s : State) (q : Nat) (i : W32) (e : Nat) : State :=
  match s.flight? q i with
  | none => s
  | some f =>
    match f.stitch? e with
    | none => s
    | some x =>
      if x.ready || x.stop then s
      else match s.startChecks f x.lo x.hi with
        | .ok =>
          let pat := if f.e.isFill ∧ 0x10 ≤ f.e.fillSel then s.reg (IZ_FILL_PAT (f.e.fillSel - 0x10)) else 0
          (s.updStitch q i e (fun x => { x with ready := true, pat := pat })).goOn q i e
        | .more => s
        | .mal c => (s.endStitch q i e).malformed q c i (some i)
        | .err st => (s.endEntry q i st x.lo).endStitch q i e

/-- Bind the next unit of a started entry to engine `e`, which takes the rank of the queue; what an earlier paced stitch has kept is staged
(R87, R89, R99, R101, R116). The rank that it shows is that for MEMP where rank_follow is 0 (log entry 35). -/
def State.bindUnit (s : State) (q : Nat) (i : W32) (e : Nat) : State :=
  match s.flight? q i with
  | none => s
  | some f =>
    match f.nextUnit with
    | none => s
    | some (lo, hi) =>
      let c := s.qctx q
      let x : Stitch := { eng := e, lo := lo, hi := hi, wr := lo, ready := false, stop := false, cut := false, cutFor := none,
                          rank := c.rank, line := if c.rlBind then some (c.rlLine, c.rlMode) else none, paced := lo, ends := [],
                          asked := lo, pat := 0, born := s.arb.stamp, stage := List.replicate f.e.readers [],
                          rds := List.replicate f.e.readers [], sums := List.replicate f.e.readers [] }
      let x := match f.kept with
        | some k => if k.wr = lo then f.sumUp { x with paced := k.paced, ends := k.ends, asked := k.asked, stage := k.stage } else x
        | none => x
      let kept := f.kept.filter (fun k => decide (k.wr ≠ lo))
      let s := s.updFl q i (fun f => { f.takeUnit hi with stitches := f.stitches ++ [x], kept := kept })
      let s := s.withArb { s.arb with stamp := s.arb.stamp + 1 }
      let s := ((s.setEng e 1).setF (IZ_ENG_STATE_qid e) q).setF (IZ_ENG_STATE_index e) i.toNat
      let r := s.engRank 3 e
      let s := (s.setF (IZ_ENG_STATE_rank e) r).setF (IZ_ENG_OFS_stitch_ofs e) lo
      let s := s.traceEv 0 0x01 e r q (i.toNat + lo % 2 ^ 32 * 2 ^ 32)
      s.openStitch q i e

/-- Give engine `e` to entry `i`, once the queue's context is at hand (R44): it starts if it has not, and its next unit is bound,
after its source list where it has one, whose read waits for the destination's key (R70, R77, R89). -/
def State.bindEntry (s : State) (q : Nat) (i : W32) (e : Nat) : State :=
  match s.flight? q i with
  | none => s
  | some f =>
    let d := s.demand [(.queue, q)]
    if !d.2 then d.1
    else if f.phase = .startable then
      let x := d.1.beginEntry q i
      if !x.2 then x.1
      else if !f.e.hasList then x.1.bindUnit q i e
      else match x.1.plainKey f .dst with
        | .err st => (x.1.endEntry q i st 0).settle q i
        | _ => x.1
    else d.1.bindUnit q i e

/-! ## Entries taken up without an engine (R93) -/

/-- The contexts that taking up an entry needs: its queue's, and the counter of a TRIG_ADD (R44, R191). -/
def upNeeds (q : Nat) (f : Flight) : List (CtxKind × Nat) :=
  (.queue, q) :: (if f.e.isTrigAdd && !f.skipAdd then [(.counter, ctrIdx q f.e.src.toNat)] else [])

/-- Take up an entry that needs no engine (R93, R108, R196); a zero-length PUT sends its arrival (R55). -/
def State.takeNow (s : State) (q : Nat) (i : W32) : State :=
  match s.flight? q i with
  | none => s
  | some f =>
    let arrives := f.e.isPut && !f.e.dstFt
    if !s.canStart f || (arrives && !s.ordReady f [nodeOf f.e.dst.toNat]) then s
    else
      let d := s.demand (upNeeds q f)
      if !d.2 then d.1
      else
        let x := d.1.beginEntry q i
        if !x.2 then x.1
        else
          let s := if f.e.isTrigAdd && !f.skipAdd then x.1.addCtr (ctrIdx q f.e.src.toNat) f.e.dst false 1 q i else x.1
          let s := if arrives then
              let a := f.e.dst.toNat
              let w : DataWrite := { w := f.wnext, eng := 127, space := 2, addr := a, bytes := [], parity := [], poison := false, lo := 0, hi := 0, ord := 0, past := [] }
              (s.emit (.put q (nodeOf a) f.e.dstKey (remOfs a) f.e.ordClass [] (segCheck []) false)).updFl q i
                (fun f => { f with writes := f.writes ++ [w], wnext := f.wnext + 1 })
            else s
          let s := s.settle q i
          if f.e.opcode = 0x31 then s.tryComplete q i else s

/-- Take up an entry that needs no engine, once the records that it sends find room in the mirror queue (R356). -/
def State.takeUp (s : State) (q : Nat) (i : W32) : State :=
  if s.sending q then s.orWait (s.takeNow q i) else s.takeNow q i

end Sys2Proof.Machine
end

