-- ==== Sys2Proof/Machine/PairOps.lean ====
section
/-!
DEFINITION. Mirroring at both ends and takeover (12_pair_mirroring_and_takeover.md R345 to R373): what waits for the mirror
stream, the send and keep states, a full sync, acknowledgements, and the adoption of the fellow's queues.
-/
namespace Sys2Proof.Machine

/-! ## What waits for the mirror stream (R352, R355, R356) -/

/-- Accepted RINGs that waited for room set S, oldest first. The first argument bounds them. -/
def State.serveRings : Nat → State → State
  | 0, s => s
  | n + 1, s =>
    match s.pair.ringWait with
    | [] => s
    | (q, v, t) :: r =>
      if s.qMirrored q && s.mirrorOn && !s.mirrorRoom 1 then s
      else State.serveRings n (State.acceptSnap (s.withPair { s.pair with ringWait := r }) q v t)

/-- A mode change that no stitch delays is made, where the records that it sends find room (R356, R357). -/
def State.retryMode (s : State) (q : Nat) : State := if s.hasStitch q then s else s.orWait (s.applyMode q)

/-- What waited for room in the mirror queue takes effect: an arrival, a consumer index, what an acknowledged batch does, and the stop of
a queue or its return, as its ring then stands (R137, R139, R356). -/
def State.doAct (s : State) : MirrorAct → State
  | .arrival w t => s.arriveNow w t
  | .ci c v t => s.judgeCiNow c v t
  | .batch c l => match l.getLast? with
    | some last => s.batchNow c l last
    | none => s
  | .stall q =>
    let x := (s.cctx (ringOf q (s.qctx q).cqid)).state
    if x = .full ∨ x = .broken then s.stallNow q else s.unstallNow q

/-- What waits for room goes on in order, as far as there is room or no record is sent any more. The first argument bounds the actions. -/
def State.serveActs : Nat → State → State
  | 0, s => s
  | n + 1, s =>
    match s.pair.acts with
    | [] => s
    | a :: r => if s.mirrorLive && !s.mirrorRoom 1 then s else State.serveActs n (State.doAct (s.withPair { s.pair with acts := r }) a)

/-- Whatever waited for room, for an acknowledgement or for the mirror goes on as far as it can: the records first, then what waits
for room, RINGs, CIs, mode changes, and completions in the order of R130. -/
def State.mirrorRetry (s : State) : State :=
  let s := s.serveOwed s.pair.owed.length
  let s := s.serveActs s.pair.acts.length
  let s := s.serveRings s.pair.ringWait.length
  let s := forEach (s.queues.filter s.qMirrored) (fun q s => s.advanceCi q) s
  let s := forEach s.queues (fun q s => s.retryMode q) s
  forEach (s.inOrder (fun f => decide (f.phase = .mirrorWait))) (fun f s => s.finish f.q f.idx) s

/-- The mirror queue has room again for something that waited for it (R356). -/
def State.mirrorTick (s : State) : State :=
  let p := s.pair
  if s.mirrorRoom 1 && s.run && (!p.acts.isEmpty || !p.ringWait.isEmpty || s.fl.any (fun f => decide (f.phase = .mirrorWait) && s.sending f.q)
      || s.queues.any (fun q => s.qMirrored q && (match s.flight? q (s.qctx q).ci with | some f => decide (f.phase = .released) | none => false)))
  then s.mirrorRetry else s

/-- The records of a stream that ends are dropped: mirrored_ci follows CI again (R358, R360). -/
def State.dropMirror (s : State) : State :=
  let p := s.pair
  let s := s.withPair { p with queue := [], owed := [], passed := [], modeAcks := [], snaps := [], heldBack := [], deferCi := [], deferCqci := [], ciSent := [], locks := [], readyIn := false, endSeq := none }
  forEach s.queues (fun q s => s.updQ q (fun c => { c with mirroredCi := c.ci })) s

/-! ## Send and keep states (R358) -/

/-- Announce the send state on CTRL (R373, R393). -/
def State.announce (s : State) : State :=
  if s.laceUp then s.ctrlMsg 0x34 0 0 (BitVec.ofNat 64 (s.f PAIR_STAT_send_state)) else s

/-- Change the send state; a state that sends no records drops those that wait (R358). -/
def State.setSend (s : State) (st : Nat) : State :=
  if s.f PAIR_STAT_send_state = st then s
  else
    let s := s.setF PAIR_STAT_send_state st
    let s := if st = 1 ∨ st = 2 then s else s.dropMirror.mirrorRetry
    s.announce

/-- Change the keep state. -/
def State.setKeep (s : State) (st : Nat) : State := s.setF PAIR_STAT_keep_state st

/-- Count an entry into LOST or BLOCKED (R358). -/
def State.countLoss (s : State) : State := (s.cnt PAIR_STAT_losses).raise 50

/-- Both states of a running mirror become LOST (R360, R386). -/
def State.enterLost (s : State) : State :=
  let live (n : Nat) : Bool := decide (n = 1) || decide (n = 2)
  let a := live (s.f PAIR_STAT_send_state)
  let b := live (s.f PAIR_STAT_keep_state)
  if a || b then
    let s := if b then s.setKeep 3 else s
    (if a then s.setSend 3 else s).countLoss
  else s

/-- This mover can have no mirror: none enabled, no mirror area, or both movers show the same role (R346, R358). -/
def State.mirrorBarred (s : State) : Bool :=
  !s.fb PAIR_CFG_mirror_en || decide (s.mirrorBase = 0) || s.fb PAIR_STAT_role_clash

/-- No mirror is sent or kept, and the fellow hears of it (R358, R373). -/
def State.goOff (s : State) : State :=
  let s := s.setKeep 0
  if s.f PAIR_STAT_send_state = 0 then s.announce else s.setSend 0

/-- Start a full sync where one may run (R359); a mover that holds adopted queues starts none (R373), and with the link not up,
or a fellow that has halted, as its notice or HALT_IN_N tells, the states stay as they are. -/
def State.startSync (s : State) : State :=
  if s.f PAIR_STAT_phase ≠ 0 then s.announce
  else if s.mirrorBarred then s.goOff
  else if s.run ∧ s.laceUp ∧ ¬ s.pair.noticed ∧ ¬ s.fb PAIR_STAT_halt_in then
    let s := s.dropMirror
    let s := s.withPair { s.pair with seq := 0, acked := 0, applied := 0, clears := 0, lastSent := 0 }
    let s := s.setKeep 1
    if s.f PAIR_STAT_send_state = 1 then s.announce else s.setSend 1
  else s

/-! ## The owner's side -/

/-- Send every snapshot of a full sync and SYNC_END, as the mirror queue has room (R356, R359). -/
def State.sendSnapshots (s : State) : State :=
  let below (n : Nat) (l : List Nat) : List Nat := l.filter (fun x => decide (x < n))
  let qs := (below (2 ^ 21) s.queues).filter s.qMirrored
  let cs := (below (2 ^ 18) (s.cq.map (·.1))).filter s.cMirrored
  let ns := (below (2 ^ 20) (s.ctr.map (·.1))).filter (fun n => (s.ctrOf n).valid)
  let s := forEach qs (fun q s => s.snapObj .queue q) s
  let s := forEach cs (fun c s => s.snapObj .ring c) s
  let s := forEach ns (fun n s => s.snapObj .counter n) s
  s.mirrorRec 0x0B 0 0 0 0 0 []

/-- The fellow's mirror of queue `q` has reached CI `v`: the started entries below it are tracked no more (R26, R354). -/
def State.mirroredTo (s : State) (q : Nat) (v : W32) : State :=
  let s := s.updQ q (fun c => { c with mirroredCi := v })
  s.withPair { s.pair with passed := s.pair.passed.filter (fun x => !(decide (x.1 = q) && idxBefore x.2 v)) }

/-- A cumulative acknowledgement of seq `a` (R352): the ways of the records' contexts are let go (R45), snapshots with held-back
deltas are sent again, mirrored_ci follows the CIs that CI records and snapshots carried (R26, R354), and a covered SYNC_END ends
the full sync. -/
def State.takeAck (s : State) (a : W32) : State :=
  let k := a + 1
  let cov (sq : W32) : Bool := idxBefore sq k
  let p := s.pair
  let told := (p.snaps.filter (fun x => cov x.2.2)).map (fun x => (x.1, x.2.1))
  let again := told.filter (fun x => decide (x ∈ p.heldBack))
  let cis := p.ciSent.filter (fun x => cov x.2.1)
  let done := match p.endSeq with | some sq => cov sq | none => false
  let s := s.withPair { p with acked := k, snaps := p.snaps.filter (fun x => !cov x.2.2), heldBack := p.heldBack.filter (fun x => !decide (x ∈ again)), ciSent := p.ciSent.filter (fun x => !cov x.2.1), locks := p.locks.filter (fun x => !cov x.2.2), endSeq := if done then none else p.endSeq }
  let s := forEach cis (fun x s => s.mirroredTo x.1 x.2.2) s
  let s := forEach again (fun x s => s.snapObj x.1 x.2) s
  let s := s.withPair { s.pair with modeAcks := s.pair.modeAcks.filter (fun q => s.snapOpen .queue q) }
  let s := if done then (s.setSend 2).raise 50 else s
  s.mirrorRetry

/-! ## The keeper's side -/

/-- The context of the fellow's queue `q` as mirrored. -/
def State.mqOf (s : State) (q : Nat) : QCtx := Tbl.get (fun _ => QCtx.zero) s.pair.mq q
/-- Change a mirrored queue context. -/
def State.setMq (s : State) (q : Nat) (c : QCtx) : State :=
  (s.withPair { s.pair with mq := Tbl.set (fun _ => QCtx.zero) s.pair.mq q c })
/-- Change a mirrored ring context. -/
def State.setMcq (s : State) (c : Nat) (x : CqCtx) : State :=
  (s.withPair { s.pair with mcq := Tbl.set (fun _ => CqCtx.zero) s.pair.mcq c x })
/-- The presence bit of the fellow's queue `q` (R346). -/
def State.present (s : State) (q : Nat) : Bool := decide ((s.mqOf q).state ≠ .free)
/-- Change a done log entry (R353). -/
def State.updLog (s : State) (q : Nat) (i : W32) (g : DoneLog → DoneLog) : State :=
  (s.withPair { s.pair with log := Tbl.upd (fun _ => DoneLog.zero) s.pair.log (logKey q i) g })
/-- Add to a mirrored counter (R353). -/
def State.addMirror (s : State) (n : Nat) (v : W64) : State :=
  let c := s.ctrOf (n % 2 ^ 20 + 2 ^ 20)
  s.setCtr (n % 2 ^ 20 + 2 ^ 20) { c with value := c.value + v }

/-- The slots of a packet without the `n` that begin with the first one that `p` finds; none where it finds none. -/
def cutSlots (p : List Byte → Bool) (n : Nat) : List (List Byte) → Option (List (List Byte))
  | [] => none
  | b :: r => if p b then some (r.drop (n - 1)) else (cutSlots p n r).map (fun l => b :: l)

/-- Take a record's slots out of the packet that holds it, padding with them; the units freed are those of a packet of which nothing
is left (R393, R395). -/
def consumeRx (p : List Byte → Bool) (n : Nat) : List (Nat × List (List Byte)) → List (Nat × List (List Byte)) × Nat
  | [] => ([], 0)
  | (u, l) :: t =>
    match cutSlots p n l with
    | some rest => if rest.all (fun b => decide (b = padSlot)) then (t, u) else ((u, rest) :: t, 0)
    | none => let x := consumeRx p n t; ((u, l) :: x.1, x.2)

/-- What the content of one record does to a receive buffer as it is consumed (R395). -/
def Vc.consume (c : Vc) (p : List Byte → Bool) (n : Nat) : Vc :=
  let x := consumeRx p n c.rx
  { c with rx := x.1, freed := c.freed + x.2 }

/-- A record or message that was applied leaves channel `v`'s receive buffer, with the `n` slots it fills. -/
def State.consume (s : State) (v n : Nat) (p : List Byte → Bool) : State := s.setVc v ((s.vc v).consume p n)

/-- The slot holds this record (R349). -/
def slotIs (code : Nat) (r : MRec) (b : List Byte) : Bool := decide (slotRec b = (code, r))
/-- The slot holds a message with this code, qid, a and b. -/
def slotMsg (code : Nat) (q : BitVec 22) (a : W32) (b : W64) (l : List Byte) : Bool :=
  let x := slotRec l
  decide (x.1 = code) && decide (x.2.qid = q) && decide (x.2.a = a) && decide (x.2.b = b)

/-! ## Takeover (R365 to R371) -/

/-- The state a mirrored queue is adopted in (R368). -/
def adoptState (m : QCtx) (unreachable fenced : Bool) : QState :=
  if fenced || unreachable then .fenced
  else match m.state with
    | .ready | .stopped => .ready
    | .quarantined => .quarantined
    | _ => .fenced

/-- Adopt the fellow's queue `q` (R367, R368); `fence`: the cause and cause_index of the notice that names it. DESIGN CHOICE (log entry
72): it keeps its pin though its set may hold 8 pinned queues, for which R46 and R368 have no word. -/
def State.adoptQueue (s : State) (q : Nat) (fence : Option (Nat × W32)) : State :=
  let m := s.mqOf q
  if m.state = .free ∨ (s.qctx (q + 2 ^ 21)).state ≠ .free then s
  else
    let s := s.adoptRing m.cqid
    let un := m.device || (s.mcqOf m.cqid).device
    let c := { m with state := adoptState m un fence.isSome, adopted := true, pi := m.snap, fetch := m.ci, mirroredCi := m.ci }
    let c := { c with cqStall := false, stopReq := false, rlBind := false, destroy := .none, newMirror := none }
    let c := match fence with
      | some (cause, i) => { c with cause := cause, causeIndex := i }
      | none => c
    let s := (s.setQ (q + 2 ^ 21) c).wrapAdd PAIR_ADOPT_adopted 1
    if un then s.wrapAdd PAIR_ADOPT_unreachable 1 else s

/-- DRAIN ends: the queue that the notice names is fenced, and the adoption stitches begin (R367). -/
def State.startAdopt (s : State) : State :=
  let q := s.f PAIR_NOTICE_qid
  let s := s.setF PAIR_STAT_phase 2
  let s := s.withPair { s.pair with scan := 0, drainTo := none }
  if s.pair.noticed ∧ s.f PAIR_NOTICE_halt_cause = 1 ∧ q < 2 ^ 21 ∧ s.present q then
    s.adoptQueue q (some (s.f PAIR_NOTICE_cause, BitVec.ofNat 32 (s.f PAIR_NOTICE_IDX_index)))
  else s

/-- The keeper has applied the record that the notice names last (R367). -/
def State.drained (s : State) : Bool :=
  match s.pair.drainTo with
  | some sq => idxBefore sq s.pair.applied
  | none => false

/-- Adopt as soon as the records named are applied. -/
def State.checkDrain (s : State) : State :=
  if s.f PAIR_STAT_phase = 1 ∧ s.drained then s.startAdopt else s

/-- Take over (R366, R367): DRAIN, without a wait where no notice came but the condition of the link and the sign holds. -/
def State.takeOver (s : State) : State :=
  if s.f PAIR_STAT_phase ≠ 0 then s
  else
    let s := (if s.f PAIR_STAT_send_state = 3 then s else (s.setSend 3).countLoss).setF PAIR_STAT_phase 1
    let to_ := if s.pair.noticed then some (BitVec.ofNat 32 (s.f PAIR_NOTICE_IDX_last_seq)) else none
    let s := s.withPair { s.pair with drainTo := to_ }
    if s.fb PAIR_STAT_cond ∧ ¬ s.pair.noticed then s.startAdopt
    else if s.f PAIR_CFG_drain_limit = 0 then s.startAdopt
    else s.checkDrain

/-- A takeover condition holds (R366). -/
def State.condition (s : State) : State :=
  let s := (s.setF PAIR_STAT_cond 1).raise 49
  if s.f PAIR_STAT_keep_state ≠ 2 then s.cnt PAIR_ADOPT_refused
  else if s.fb PAIR_CFG_auto then s.takeOver
  else s

/-- The last adopted queue is gone: every adopted ring and counter goes with it, once the writes that are out for those rings stand in
them; the records held for them are discarded, others enter the spill in their place, and a full sync starts (R138, R372, R373). -/
def State.endAdoption (s : State) : State :=
  let own (h : Held) : Bool := decide (h.c < 2 ^ 18)
  let s := forEach ((s.cqs.issued.map (fun y => y.2.c) ++ s.cqs.wbs.map (·.1)).dedup.filter (fun c => decide (2 ^ 18 ≤ c)))
    (fun c s => s.settleRing s.cqs.issued.length c) s
  let k := s.cqs
  let s := (((s.withCq (s.cq.filter (fun x => decide (x.1 < 2 ^ 18)))).withCtr (s.ctr.filter (fun x => decide (x.1 < 2 ^ 20)))).withCqs { spill := k.spill.filter own, waiting := k.waiting.filter own, issued := k.issued.filter (fun x => own x.2), wbs := k.wbs.filter (fun x => decide (x.1 < 2 ^ 18)) })
  let s := s.withFl (s.fl.filter (fun f => !(isAdopted f.q)))
  let s := forEach (List.range 16) (fun g s => s.refillSpill s.cqs.waiting.length g) s
  ((s.setF PAIR_STAT_phase 0).setF PAIR_ADOPT_unreachable 0).startSync

/-- The adopted queue `q` is destroyed (R372); the scan does not adopt it again (R367). -/
def State.dropAdopted (s : State) (q : Nat) : State :=
  let s := s.setMq (q % 2 ^ 21) QCtx.zero
  let s := s.setF PAIR_ADOPT_adopted (s.f PAIR_ADOPT_adopted - 1)
  if s.f PAIR_ADOPT_adopted = 0 ∧ s.f PAIR_STAT_phase = 3 then s.endAdoption else s

end Sys2Proof.Machine
end

