-- ==== Sys2Proof/Machine/AdmOps.lean ====
section
/-!
DEFINITION. The admin executor (08_admin_queue.md R233 to R258): which command a stream has next, its stitches, its end, and
the hand-off to Cobbler firmware; and the background clear's blocks that a command touches (11_pattern_and_startup.md R340,
R341).
-/
namespace Sys2Proof.Machine

/-! ## Streams -/

/-- Replace the open command of a stream. -/
def State.setAdm (s : State) (st : Stream) (o : Option AdmOpen) : State :=
  match st with
  | .ring => s.withAdm { s.adm with ring := o }
  | .cob => s.withAdm { s.adm with cob := o }
/-- The other stream. -/
def otherStream : Stream → Stream
  | .ring => .cob
  | .cob => .ring

/-- The command that stream `st` has open or would open next, where its opcode is `op`. -/
def State.admCmd (s : State) (st : Stream) (op : Nat) : Option AdmOpen :=
  (s.admNext st).filter (fun o => decide (admOp o.cmd.words = op))

/-- Open a command: it leaves the fetched entries of the ring stream. -/
def State.openAdm (s : State) (st : Stream) (o : AdmOpen) : State :=
  match s.admOf st with
  | some _ => s.setAdm st (some o)
  | none => State.setAdm (s.withAdm { s.adm with fetched := s.adm.fetched.drop 1 }) st (some o)

/-- The ring stream is disabled: its entries not opened are lost (R234). -/
def State.stopRing (s : State) : State :=
  let s := s.withAdm { s.adm with fetched := [], disabling := false }
  (s.setF ADM_CFG_enable 0).updQ 0 (fun c => { c with state := .stopped })

/-- A command ends: its record is posted, or ADM_COB_RES shows it; a waiting disable takes effect (R234, R238, R257). -/
def State.admDone (s : State) (st : Stream) (o : AdmOpen) (status value : Nat) : State :=
  let op := admOp o.cmd.words
  let s := s.setAdm st none
  match st with
  | .ring =>
    let r : CRec := { seq := o.cmd.idx, qid := 0, status := stOk, replayed := false, uncertain := false, adopted := false,
                      bytesDone := status + value % 2 ^ 32 * 256, opcode := op, acceptMt := o.cmd.acceptMt,
                      doneDelta := min (s.mt - o.cmd.acceptMt).toNat 0xFFFFFFFF, userTag := admF o.cmd.words 0 32 32 }
    let s := s.placeRec { c := 0, r := r, q := 0, idx := o.cmd.idx }
    if s.adm.disabling then s.stopRing else s
  | .cob =>
    let s := ((s.setF ADM_COB_RES_busy 0).setF ADM_COB_RES_done 1).setF ADM_COB_RES_adm_status status
    ((s.setF ADM_COB_RES_value value).setF ADM_COB_RES_opcode op).raise 43

/-! ## Admin stitches (R94, R255) -/

/-- An engine is at hand for a stitch of stream `n`: an idle one, or the one that already waits for channels with such a stitch. -/
def State.admEngine (s : State) (n : Nat) : Option Nat :=
  match s.adm.eng with
  | some (e, w, _) => if w = n then some e else none
  | none => s.engIn 0

/-- A stitch of stream `st` may run: the mover in RUN, an engine at hand, and the turn the stream's (R255). -/
def State.admMay (s : State) (st : Stream) : Bool := s.run && (s.admEngine (streamNo st)).isSome && s.turnOf (streamNo st)

/-- An adoption, clearing or background stitch may run: an engine is at hand, and it is the third stream's turn (R255, R340). -/
def State.mayBackground (s : State) : Bool :=
  s.run && (s.admEngine 3).isSome && s.turnOf 3

/-- Engine `e` requests resource `res` for an admin stitch: a phase hears it beside those that request there already (R263, R266; log entry
6). -/
def State.askFor (s : State) (res e : Nat) : State :=
  if s.holds res e then s
  else s.arbPhase res (addNew ((s.owned res).map (·.2.req) ++ s.candOf res) e) (s.inFlight res)

/-- Engine `e` is bound to an admin stitch (R94, R99, R151). -/
def State.admBind (s : State) (e idx : Nat) : State :=
  let s := (s.setEng e 3).setF (IZ_ENG_STATE_qid e) 0
  let r := s.engRank 3 e
  let s := ((s.setF (IZ_ENG_STATE_rank e) r).setF (IZ_ENG_STATE_index e) idx).setF (IZ_ENG_OFS_stitch_ofs e) 0
  s.traceEv 0 0x01 e r 0 idx

/-- The admin stitch of engine `e` ends: its channels are free, and it returns (R101, R263). -/
def State.admReturn (s : State) (who e : Nat) : State :=
  let s := (s.updQ 0 (fun c => { c with servedMt := s.mt, served := true })).setF (IZ_ENG_STATE_rank e) (s.engRank 3 e)
  let s := s.dropChannels e
  let s := if s.engSt e = 3 then s.setEng e 0 else s
  (s.traceEv 0 0x02 e 0 0 0).lineEnd who

/-- An engine runs an admin stitch (R94, R99, R151, R262): it reads ADMIN while it does, and returns. It reads and writes the resources
`needs` through channels that it owns; where it is not granted one, it stays bound and waits (R260, R263). -/
def State.admStitch (s : State) (who idx : Nat) (needs : List Nat) (g : State → State) : State :=
  match s.admEngine who with
  | none => s
  | some e =>
    let s := if s.adm.eng.isSome then s else s.admBind e idx
    let s := needs.foldl (fun s r => s.askFor r e) s
    if needs.all (fun r => s.owns r e) then
      let s := needs.foldl (fun s r => s.arbBusy r e) (s.withAdm { s.adm with eng := none })
      (g s).admReturn who e
    else s.withAdm { s.adm with eng := some (e, who, needs) }

/-- A stitch of the stream's command `o`; it waits while records that it must send find no room in the mirror queue (R356). -/
def State.cmdStitch (s : State) (st : Stream) (o : AdmOpen) (needs : List Nat) (g : State → State) : State :=
  s.orWait (s.admStitch (streamNo st) o.cmd.idx.toNat needs g)

/-- The lowest code among the refusals that apply (R239). -/
def refuse (l : List (Bool × Nat)) : Option Nat := ((l.filter (·.1)).map (·.2)).min?

/-- A command of one stitch: refused with the lowest code that applies, or carried out, through the resources `needs` (R239, R240). -/
def State.oneStitch (s : State) (st : Stream) (op : Nat) (judge : State → List W64 → List (Bool × Nat))
    (act : State → List W64 → State × Nat) (needs : List Nat := []) : State :=
  match s.admCmd st op with
  | none => s
  | some o =>
    if s.admMay st then
      (s.openAdm st o).cmdStitch st o (if (refuse (judge s o.cmd.words)).isNone then needs else []) (fun s =>
        match refuse (judge s o.cmd.words) with
        | some c => s.admDone st o c 0
        | none =>
          let r := act s o.cmd.words
          r.1.admDone st o 0 r.2)
    else s

/-! ## Commands that firmware serves (R256) -/

/-- Hand a command to Cobbler firmware, or let it wait while another one is with it (R256). -/
def State.fwHand (s : State) (st : Stream) (o : AdmOpen) : State :=
  if !s.fb ADM_FW_CFG_ready then s.admDone st o 0x0F 0
  else if s.adm.fw.isSome then s.setAdm st (some { o with phase := 2 })
  else
    let s := (List.range 8).foldl (fun s k => s.setReg (ADM_FW_CMD k) (o.cmd.words.getD k 0)) s
    let s := ((s.wrapAdd ADM_FW_CFG_seq 1).setF ADM_FW_CFG_pending 1).setF ADM_FW_CFG_stream (streamNo st - 1)
    (State.setAdm (s.withAdm { s.adm with fw := some st }) st (some { o with phase := 3, begun := true })).raise 42

/-- A firmware-served command opens: it is refused with the lowest code that applies, or handed over once the firmware is free
(R239, R256). -/
def State.fwOpen (s : State) (st : Stream) (is : Nat → Bool) (judge : State → List W64 → List (Bool × Nat)) : State :=
  match (s.admNext st).filter (fun o => is (admOp o.cmd.words)) with
  | none => s
  | some o =>
    if s.run && decide (o.phase ≠ 3) then
      let t := s.openAdm st o
      (match refuse ((!s.fb ADM_FW_CFG_ready, 0x0F) :: judge s o.cmd.words) with
        | some c => t.admDone st o c 0
        | none => t.fwHand st o).lineUp
    else s

/-- The command with firmware ends, and one of the other stream that waits for firmware is handed over (R256). -/
def State.fwEnd (s : State) (status value : Nat) : State :=
  match s.adm.fw with
  | none => s
  | some st =>
    let s := State.setF (s.withAdm { s.adm with fw := none }) ADM_FW_CFG_pending 0
    let s := match s.admOf st with
      | some o => s.admDone st o status value
      | none => s
    match s.admOf (otherStream st) with
    | some o => if isFw (admOp o.cmd.words) && decide (o.phase = 2) then s.fwHand (otherStream st) o else s
    | none => s

/-! ## Blocks of the background clear (R340, R341) -/

/-- Blocks cleared out of turn that the clear has reached are passed. The first argument bounds them. -/
def State.passEarly : Nat → State → State
  | 0, s => s
  | n + 1, s =>
    if s.clearNext ∈ s.pat.early then
      let b := s.clearNext
      State.passEarly n (s.withPat { s.pat with early := s.pat.early.filter (fun x => decide (x ≠ b)) })
    else s
/-- The clear ends with its last block. -/
def State.clearEnd (s : State) : State :=
  if s.f PAT_CLEAR_blocks = clearBlocks ∧ s.pat.early = [] then s.setF PAT_STAT_clearing 0 else s
/-- The clear zeroes the next block in address order that is not cleared yet. -/
def State.clearStep (s : State) : State :=
  let s := s.passEarly (s.pat.early.length + 1)
  let s := if s.clearNext < clearBlocks then (s.wipe s.clearNext).wrapAdd PAT_CLEAR_blocks 1 else s
  (s.passEarly (s.pat.early.length + 1)).clearEnd

end Sys2Proof.Machine
end

