-- ==== Sys2Proof/Machine/Mirror.lean ====
section
/-!
DEFINITION. Commands of the mirror records at the keeper (12_pair_mirroring_and_takeover.md R349 to R353, R359).
-/
namespace Sys2Proof.Machine

/-- A mirror record's command: its channel, code, slots and record (R349, R350). -/
def recShape : Instr → Option (Nat × Nat × Nat × MRec)
  | .snap r => some (1, 0x01, 1, r)
  | .ci r => some (1, 0x02, 1, r)
  | .start r => some (1, 0x04, 1, r)
  | .complete r _ => some (1, 0x05, 2, r)
  | .cqpi r => some (1, 0x06, 1, r)
  | .cqci r => some (1, 0x07, 1, r)
  | .ctr r => some (1, 0x08, 1, r)
  | .qGone r => some (1, 0x09, 1, r)
  | .cqGone r => some (1, 0x0A, 1, r)
  | .syncEnd r => some (1, 0x0B, 1, r)
  | .qCtx r _ => some (2, 0x20, 5, r)
  | .cqCtx r _ => some (2, 0x21, 3, r)
  | .ctrCtx r _ => some (2, 0x22, 2, r)
  | _ => none

/-- Mirror records that wait for a cold context. -/
def State.recWaits (s : State) : Nat := (s.cache.waits.filter (fun w => (recShape w.c).isSome)).length

/-- The keeper applies records: its mirror is being filled or complete, and not yet adopted from (R352,
R358, R359, R367). -/
def State.keeps (s : State) : Bool :=
  s.run && (decide (s.f PAIR_STAT_keep_state = 2) || (decide (s.f PAIR_STAT_keep_state = 1) && decide (s.pair.clears = 68)))
    && decide (s.f PAIR_STAT_phase < 2)

/-- The queue that a record concerns, as its owner numbers it. -/
def mQueue (r : MRec) : Nat := r.qid.toNat % 2 ^ 21
/-- The ring that a record concerns. -/
def mRing (r : MRec) : Nat := r.item % 2 ^ 18

/-- Change a mirrored queue that is present; a delta for one that is not changes nothing (R352). -/
def State.updMq (s : State) (q : Nat) (g : QCtx → QCtx) : State :=
  if s.present q then (s.setMq q (g (s.mqOf q))).warm .queue (q + 2 ^ 21) else s
/-- Change a mirrored ring that is present. -/
def State.updMcq (s : State) (c : Nat) (g : CqCtx → CqCtx) : State :=
  if (s.mcqOf c).state = .free then s else (s.setMcq c (g (s.mcqOf c))).warm .ring (c + 2 ^ 18)

/-! ## What each record does (R350, R353) -/

/-- SNAP: the mirrored S moves, and the MT of its RING is kept for the entries it handed over (R124). -/
def State.recSnap (s : State) (r : MRec) : State :=
  s.updMq (mQueue r) (fun c => { c with snap := r.a, accepts := c.accepts ++ [{ old := c.snap, new := r.a, mt := r.mt }] })

/-- CI: the mirrored CI moves, and the done log entries that it passes are freed. -/
def State.recCi (s : State) (r : MRec) : State :=
  let s := s.updMq (mQueue r) (fun c =>
    { c with ci := r.a, mirroredCi := r.a, accepts := c.accepts.filter (fun x => idxBefore r.a x.new) })
  let passed (k : Nat) : Bool := decide (k / 2 ^ 32 = mQueue r) && idxBefore (BitVec.ofNat 32 k) r.a
  s.withPair { s.pair with log := s.pair.log.filter (fun x => !passed x.1) }

/-- START: the entry is marked started, and a TRIG_ADD's addend is applied and marked. -/
def State.recStart (s : State) (r : MRec) : State :=
  let s := s.updLog (mQueue r) r.a (fun (g : DoneLog) => { g with started := true, signalled := g.signalled || decide (r.b ≠ 0) })
  if r.b = 0 then s else s.addMirror r.item r.b

/-- COMPLETE: the entry is marked done with its record, and its signal is applied and marked. -/
def State.recComplete (s : State) (r : MRec) (rec : List W64) : State :=
  let sig := bit r.b.toNat 50
  let s := s.updLog (mQueue r) r.a (fun (g : DoneLog) => { g with done := true, record := rec, signalled := g.signalled || sig, own := g.own || sig })
  if sig then s.addMirror (bits r.b.toNat 18 20) (BitVec.ofNat 64 (bits r.b.toNat 38 12)) else s

/-- CTR: the mirrored counter's value; a signal or TRIG_ADD marks its entry signalled, and a signal shows that it is the entry's own
(R353). -/
def State.recCtr (s : State) (r : MRec) : State :=
  let n := r.item % 2 ^ 20 + 2 ^ 20
  let s := if (s.ctrOf n).valid then (s.setCtr n { s.ctrOf n with value := r.b }).warm .counter n else s
  if r.ccause < 2 then s.updLog (mQueue r) r.a (fun (g : DoneLog) => { g with signalled := true, own := g.own || decide (r.ccause = 0) }) else s

/-- Q_CTX: the mirrored context of a queue; the MTs of its RINGs stay known. -/
def State.recQCtx (s : State) (r : MRec) (ctx : List W64) : State :=
  let c := QCtx.ofWords ctx
  let kept := (s.mqOf (mQueue r)).accepts.filter (fun x => idxBefore c.ci x.new)
  (s.setMq (mQueue r) { c with accepts := kept }).warm .queue ((mQueue r) + 2 ^ 21)

/-- What a record's command does to the mirror. -/
def State.recEffect (s : State) : Instr → State
  | .snap r => s.recSnap r
  | .ci r => s.recCi r
  | .start r => s.recStart r
  | .complete r rec => s.recComplete r rec
  | .cqpi r => s.updMcq (mRing r) (fun c => { c with pi := r.a })
  | .cqci r => s.updMcq (mRing r) (fun c => { c with ci := r.a })
  | .ctr r => s.recCtr r
  | .qGone r => (s.setMq (mQueue r) QCtx.zero).chill .queue ((mQueue r) + 2 ^ 21)
  | .cqGone r => (s.setMcq (mRing r) CqCtx.zero).chill .ring ((mRing r) + 2 ^ 18)
  | .syncEnd _ => if s.f PAIR_STAT_keep_state = 1 then (s.setKeep 2).raise 50 else s
  | .qCtx r ctx => s.recQCtx r ctx
  | .cqCtx r ctx => (s.setMcq (mRing r) (CqCtx.ofWords ctx)).warm .ring ((mRing r) + 2 ^ 18)
  | .ctrCtx r ctx => (s.setCtr (r.item % 2 ^ 20 + 2 ^ 20) (Counter.ofWords ctx)).warm .counter (r.item % 2 ^ 20 + 2 ^ 20)
  | _ => s

/-- Apply a record that is next in order: it takes effect, is acknowledged, and leaves its channel's receive buffer with its slots
(R352, R395). -/
def State.applyRec (s : State) (c : Instr) : State :=
  match recShape c with
  | none => s
  | some (v, code, n, r) =>
    if s.keeps && decide (r.seq = s.pair.applied) then
      let s := s.recEffect c
      let s := s.withPair { s.pair with applied := s.pair.applied + 1 }
      State.checkDrain ((s.consume v n (slotIs code r)).ctrlMsg 0x32 0 r.seq 0)
    else s.consume v n (slotIs code r)

/-- A record arrives: next in order it is applied, or waits for a cold context, or behind one that does (R44, R346, R352); any other is
not applied, and only leaves its receive buffer (R395). -/
def State.takeRec (s : State) (c : Instr) : State :=
  match recShape c with
  | none => s
  | some (v, code, n, r) =>
    let k := s.recWaits
    if s.keeps && decide (r.seq = s.pair.applied + BitVec.ofNat 32 k) then
      if k = 0 then
        let s := s.countLookup c
        if s.cold [] c then (s.withCache { s.cache with waits := s.cache.waits ++ [{ c := c, mt := s.mt, looked := true, got := [] }] })
        else s.applyRec c
      else s.withCache { s.cache with waits := s.cache.waits ++ [{ c := c, mt := s.mt, looked := false, got := [] }] }
    else s.consume v n (slotIs code r)

/-! ## Meanings -/

/-- SNAP. -/
def execSnap (r : MRec) (s : State) : Res := .next (s.takeRec (.snap r))
/-- CI. -/
def execCi (r : MRec) (s : State) : Res := .next (s.takeRec (.ci r))
/-- START. -/
def execStart (r : MRec) (s : State) : Res := .next (s.takeRec (.start r))
/-- COMPLETE. -/
def execComplete (r : MRec) (rec : List W64) (s : State) : Res := .next (s.takeRec (.complete r rec))
/-- CQPI: the mirrored ring's pi (R350). -/
def execCqpi (r : MRec) (s : State) : Res := .next (s.takeRec (.cqpi r))
/-- CQCI: the mirrored ring's ci (R350). -/
def execCqci (r : MRec) (s : State) : Res := .next (s.takeRec (.cqci r))
/-- CTR. -/
def execCtr (r : MRec) (s : State) : Res := .next (s.takeRec (.ctr r))
/-- Q_GONE: the mirrored queue is dropped (R350). -/
def execQGone (r : MRec) (s : State) : Res := .next (s.takeRec (.qGone r))
/-- CQ_GONE: the mirrored ring is dropped (R350). -/
def execCqGone (r : MRec) (s : State) : Res := .next (s.takeRec (.cqGone r))
/-- SYNC_END: the mirror is complete (R359). -/
def execSyncEnd (r : MRec) (s : State) : Res := .next (s.takeRec (.syncEnd r))
/-- Q_CTX. -/
def execQCtx (r : MRec) (ctx : List W64) (s : State) : Res := .next (s.takeRec (.qCtx r ctx))
/-- CQ_CTX: the mirrored context of a ring (R350). -/
def execCqCtx (r : MRec) (ctx : List W64) (s : State) : Res := .next (s.takeRec (.cqCtx r ctx))
/-- CTR_CTX: the mirrored context of a counter (R350). -/
def execCtrCtx (r : MRec) (ctx : List W64) (s : State) : Res := .next (s.takeRec (.ctrCtx r ctx))

/-- The presence bits, and with the last stitch the done log, that clearing stitch `k` zeroes (R346, R359). -/
def State.clearMirror (s : State) (k : Nat) : State :=
  let p := s.pair
  if k < 4 then
    (s.withPair { p with mq := p.mq.filter (fun x => decide (x.1 / 2 ^ 19 ≠ k)), clears := k + 1 })
  else s.withPair { p with log := if k = 67 then [] else p.log, clears := k + 1 }

/-- SYNC_CLEAR_STITCH: the keeper clears the next 64 KiB, and announces READY after the last (R359). -/
def execSyncClearStitch (s : State) : Res :=
  if s.mayBackground ∧ s.f PAIR_STAT_keep_state = 1 ∧ s.pair.clears < 68 then
    let s := s.admStitch 3 0 [3] (fun s => s.clearMirror s.pair.clears)
    .next (if s.pair.clears = 68 then s.ctrlMsg 0x33 0 0 0 else s)
  else .next s

end Sys2Proof.Machine
end

