-- ==== Sys2Proof/Machine/ContextOps.lean ====
section
/-!
DEFINITION. The fetch of a cold context, and what goes on with it (01_work_queues_and_doorbells.md R44, R45;
06_triggered_graphs.md R191; 12_pair_mirroring_and_takeover.md R346).
-/
namespace Sys2Proof.Machine

/-- A waiting command that still needs a cold context: after a halt only register reads are served (R205, R273), and in a hard
halt none (R418). -/
def State.seeks (s : State) (c : Instr) : Bool := (!s.halted || waitsToRead c) && !s.pair.hard

/-- The contexts that a waiting command's fetches bring: those it lacks, and where all have become hot by other work, the ones that
were fetched for it all the same. -/
def State.lacks (s : State) (w : Waiting) : List (CtxKind × Nat) :=
  let l := (s.needs w.c).filter (fun x => s.ctxExists x.1 x.2)
  if s.cold w.got w.c then l.filter (fun x => !s.hot x.1 x.2 && decide (x ∉ w.got)) else l

/-- The contexts that a fetch is to bring: those asked for by work, and those that waiting commands need. -/
def State.sought (s : State) : List (CtxKind × Nat) :=
  (if s.halted then [] else (s.cache.wanted.filter (fun x => !x.2.2)).map (fun x => (x.1, x.2.1)))
    ++ (s.cache.waits.filter (fun w => s.seeks w.c)).flatMap s.lacks

/-- A waiting command is behind another: one to the same slot, or a mirror record behind a record (R33, R352). -/
def behind (w : List Waiting) (c : Instr) : Bool :=
  blocked w c || ((recShape c).isSome && w.any (fun d => (recShape d.c).isSome))

/-- A command that waited is applied. -/
def State.applyWaiting (s : State) (w : Waiting) : State :=
  if (recShape w.c).isSome then s.applyRec w.c else s.applyIntake w.c w.mt

/-- One waiting command, in order: applied, or kept behind another or for a context that is still cold. Its lookup counts when it
is made (R47). A context fetched for it that no way holds stays at its hand (R427). -/
def State.replayOne (also : CtxKind × Nat) (s : State) (w : Waiting) : State :=
  let keep (s : State) (w : Waiting) : State := s.withCache { s.cache with waits := s.cache.waits ++ [w] }
  if behind s.cache.waits w.c then keep s w
  else
    let s := if w.looked then s else s.countLookup w.c
    let w := { w with looked := true, got := if also ∈ s.needs w.c then addNew w.got also else w.got }
    if s.cold w.got w.c then keep s w else s.applyWaiting w

/-- Commands that waited are looked at again, in order (R33, R34, R44). -/
def State.replay (s : State) (also : CtxKind × Nat) : State :=
  let l := s.cache.waits
  l.foldl (fun s w => s.replayOne also w) (s.withCache { s.cache with waits := [] })

/-- Completions that waited for a context go on, in the order of R130. -/
def State.retryEnds (s : State) : State :=
  let l := s.cache.ends
  forEach (s.inOrder (fun f => decide ((f.q, f.idx) ∈ l))) (fun f s => (s.tryComplete f.q f.idx).finish f.q f.idx)
    (s.withCache { s.cache with ends := [] })

/-- Records that waited for the counter that their entries signal go on (R138, R191). -/
def State.retryHeld (s : State) : State :=
  forEach (s.cqs.waiting.map (·.c)).dedup (fun c s => (State.refillSpill s.cqs.waiting.length s (cqGroup c)).drainRing c) s

/-- The ring that a queue's arriving context names is fetched ahead (R44). -/
def State.fetchAhead (s : State) (k : CtxKind) (n : Nat) : State :=
  match k with
  | .queue => s.prefetch .ring (ringOf n (s.qctx n).cqid)
  | _ => s

/-- CONTEXT_FETCH_DONE: CCACHE brings a context that is sought: it enters its set, a way is evicted if needed, and what waited for
it goes on (R44, R45, R261): one whose read is out, or goes out at once (log entry 60); one that is sought no more is
discarded. An uncorrectable context is fatal (R417). With every way of the set held, it waits. -/
def execContextFetchDone (k : CtxKind) (n : Nat) (bad : Bool) (s : State) : Res :=
  let w := SentRead.ctx k n
  let out := s.isOut resCstore w
  if (k, n) ∈ s.sought ∧ (out ∨ s.owns resCstore 70) ∧ 7 ≤ s.phase then
    let s := if out then s.backRead resCstore w else s.arbBusy resCstore 70
    if bad then .next ((s.cnt IZ_MEMP_STAT_uncorrectable).fatal 0x03 0 0 (ctxOffset k n))
    else match s.insertCtx k n with
      | none => .next s
      | some t =>
        let t := ((t.bring k n).fetchAhead k n).replay (k, n)
        .next (((t.takeBack t.cache.back.length).retryEnds.retryHeld).serveBacks).decodeTick
  else .next (s.backRead resCstore w)

end Sys2Proof.Machine
end

