-- ==== Sys2Proof/Machine/DataPath.lean ====
section
/-!
DEFINITION. Commands of the data path: table and list reads (02_work_entries_and_fragment_tables.md R74 to R77), data reads
and writes (03_execution_stitches_and_request_lines.md R102, 07_integrity_chain.md R214), responses and reports of NETP
(15_boundary_ports_clocks_and_balls.md R443), and completion (R103, R107).
-/
namespace Sys2Proof.Machine

/-! ## Tables and lists -/

/-- The table of a side is read whole: its fragments reach the side's length, or 65,536 have been read (R73, R76). -/
def Flight.tableDone (f : Flight) (d : Dir) : Bool :=
  let l := f.fragsOf d
  decide (f.e.sideLen d ≤ l.foldl (fun n g => n + g.flen) 0) || decide (65536 ≤ l.length)

/-- A table or list may be read for this entry now: it runs, or may start. -/
def State.mayRead (s : State) (f : Flight) : Bool :=
  s.run && !f.ended && decide (0 < f.e.length)
    && ((decide (f.phase = .started) && (s.qctx f.q).mayContinue) || s.canStart f)

/-- The resource that a table or list of side `d` is read through, by FETCH (R74, R261). -/
def State.tableRes (s : State) (f : Flight) (d : Dir) : Nat := portRes (tableSpace (f.e.space d)) (s.qctx f.q).port

/-- A table or list read returns that is out, or that may go out at once (R260, R264; log entry 60). -/
def State.readHere (s : State) (res : Nat) (w : SentRead) : Bool := s.isOut res w || s.fetchMay res
/-- It is no longer out, or it has used its channel. -/
def State.readBack (s : State) (res : Nat) (w : SentRead) : State := if s.isOut res w then s.backRead res w else s.arbBusy res 68

/-- The key check and the read of table bytes [a, a + n) (R68, R74, R80). Bytes past 2^64 of a host-space table are those from 0
on: the spec bounds entry and fragment ranges only (log entry 16). -/
def State.readTable (s : State) (f : Flight) (d : Dir) (a n : Nat) (ans : ReadAns) : State × Option Nat :=
  let sp := tableSpace (f.e.space d)
  let c := s.qctx f.q
  match (if sp = 1 then s.keyCheck f.q (f.e.key d) a n false else none) with
  | some st => (s, some st)
  | none =>
    let one (x : State × Option Nat) (r : Run) : State × Option Nat :=
      match x.2 with
      | some _ => x
      | none =>
        let z := x.1.portRead sp c.port c.pasidOf r.addr r.n ans
        (z.1, z.2.map PortFail.status)
    (runs [{ addr := BitVec.ofNat 64 a, flen := n, key := 0 }] 0 n).foldl one (s, none)

/-- The bytes of a table read. -/
def State.tableBytes (s : State) (f : Flight) (d : Dir) (a n : Nat) : List Byte :=
  (s.catchRead (tableSpace (f.e.space d)) (s.qctx f.q).port (s.qctx f.q).pasidOf a n).bytes

/-- An access error found outside a data read: the entry ends at the offset of its first unissued byte (R80). -/
def State.endUnread (s : State) (f : Flight) (st : Nat) : State :=
  let o := match f.stitches.find? (fun x => !x.ready) with
    | some x => x.lo
    | none => match f.nextUnit with | some (a, _) => a | none => f.next
  (s.endEntry f.q f.idx st o).settle f.q f.idx

/-- FRAGMENT_TABLE_READ_DONE: the fragments read join those known, and stitches that waited for them are judged (R76); those of
an entry that needs them no more are discarded. -/
def execFragmentTableReadDone (q : BitVec 22) (i : W32) (d : Dir) (ans : ReadAns) (s : State) : Res :=
  match s.flight? q.toNat i with
  | none => .next s
  | some f =>
    let res := s.tableRes f d
    let w := SentRead.table f.q i d
    let l := f.fragsOf d
    let t := tableRead f.e d l
    if s.mayRead f && f.e.ft d && !f.tableDone d && s.readHere res w then
      let z := (s.readBack res w).readTable f d t.1 t.2 ans
      match z.2 with
      | some st => .next (z.1.endUnread f st)
      | none =>
        let new := (l ++ Sys2Proof.Machine.fragsOf 16 (z.1.tableBytes f d t.1 t.2)).take 65536
        let s := z.1.updFl f.q i (fun (f : Flight) => match d with
          | .src => { f with srcFrags := new }
          | .dst => { f with dstFrags := new })
        .next (forEach f.stitches (fun x s => s.openStitch f.q i x.eng) s)
    else if s.isOut res w then .next ((s.backRead res w).readTable f d t.1 t.2 ans).1
    else .next s

/-- The source list of an entry is to be read: the entry has started, and no stitch is bound before its sources are judged
(R77). -/
def State.listDue (s : State) (f : Flight) : Bool :=
  s.mayRead f && decide (f.phase = .started) && f.e.hasList && f.srcList.isNone

/-- SOURCE_LIST_READ_DONE: the whole list of an entry that has started is read, and every source is judged (R77). -/
def execSourceListReadDone (q : BitVec 22) (i : W32) (ans : ReadAns) (s : State) : Res :=
  match s.flight? q.toNat i with
  | none => .next s
  | some f =>
    let res := s.tableRes f .src
    let w := SentRead.list f.q i
    let n := 16 * f.e.nsrc
    if s.listDue f && s.readHere res w then
      let z := (s.readBack res w).readTable f .src f.e.src.toNat n ans
      match z.2 with
      | some st => .next (z.1.endUnread f st)
      | none =>
        let l := Sys2Proof.Machine.fragsOf 16 (z.1.tableBytes f .src f.e.src.toNat n)
        match listCause f.e l with
        | some c => .next (z.1.malformed f.q c i (some i))
        | none => .next (z.1.updFl f.q i (fun f => { f with srcList := some l }))
    else if s.isOut res w then .next ((s.backRead res w).readTable f .src f.e.src.toNat n ans).1
    else .next s

/-! ## Data -/

/-- DATA_READ_DONE: the oldest outstanding read of source `src` returns to engine `e`; units whose bytes are complete are judged and
issued (R214). A read that a stitch now ended left with the engine returns first (R96). -/
def execDataReadDone (e src : Nat) (ans : ReadAns) (s : State) : Res :=
  match s.arb.gone.find? (fun x => decide (x.eng = e) && decide (x.src = src)) with
  | some x => .next (s.goneRead x ans)
  | none =>
    match s.onEngine e with
    | none => .next s
    | some (f, _) => .next ((s.stageRead f.q f.idx e src ans).engineGo e)

/-- What is left of an entry that CI has passed goes with its last write (R83, R102). -/
def State.reap (s : State) (q : Nat) (i : W32) : State :=
  match s.flight? q i with
  | none => s
  | some f =>
    if decide (f.phase = .released) && f.writes.isEmpty && idxBefore i (s.qctx q).ci then s.dropFl q i else s

/-- A data write fails: the entry ends with `st` (R80, R439, R450, R489). -/
def State.failWrite (s : State) (q : Nat) (i : W32) (w st : Nat) : State :=
  match s.flight? q i with
  | none => s
  | some f =>
    match f.writes.find? (fun x => decide (x.w = w)) with
    | none => s
    | some x =>
      let s := s.updFl q i (fun f => { f with writes := f.writes.filter (fun y => decide (y.w ≠ w)) })
      ((s.endEntry q i st x.lo).settle q i).reap q i

/-- A write is complete (R102): its job bytes are written. -/
def State.wroteData (s : State) (q : Nat) (i : W32) (x : DataWrite) : State :=
  let s := s.updFl q i (fun (f : Flight) =>
    let d := if x.lo < x.hi then f.done ++ [(x.lo, x.hi)] else f.done
    { f with writes := f.writes.filter (fun y => decide (y.w ≠ x.w)), done := d })
  (s.settle q i).reap q i

/-- Data write `x` of queue `q` takes effect, in the order of issue (R438, R447). -/
def State.acceptWrite (s : State) (q : Nat) (x : DataWrite) (poison : Bool) : State :=
  let c := s.qctx q
  (s.cover x.space c.port c.pasidOf x.ord x.addr x.bytes.length).land c.pasidOf x poison

/-- DATA_WRITE_ACK: a data write is accepted by its host port or acknowledged by MEMP, and stands in memory
(R102, R447), as far as no later one to the same bytes stands there; in a hard halt a write that is out ends poisoned (R418). -/
def execDataWriteAck (q : BitVec 22) (i : W32) (w : Nat) (s : State) : Res :=
  match s.flight? q.toNat i with
  | none => .next s
  | some f =>
    match f.writes.find? (fun x => decide (x.w = w)) with
    | none => .next s
    | some x =>
      if x.space = 2 then .next s
      else if s.pair.hard then
        let s := s.acceptWrite f.q x true
        .next (s.updFl f.q i (fun f => { f with writes := f.writes.filter (fun y => decide (y.w ≠ w)) }))
      else if x.space = 1 ∧ s.pkgOut x.addr x.bytes.length then
        .next ((s.cnt IZ_MEMP_STAT_addr_err).failWrite f.q i w stKeyBounds)
      else
        .next ((s.acceptWrite f.q x x.poison).wroteData f.q i x)

/-- ENTRY_COMPLETE: an entry at data done completes as far as the ordering rules and the mirror allow (R107, R355). -/
def execEntryComplete (q : BitVec 22) (i : W32) (s : State) : Res := .next (s.tryComplete q.toNat i)

/-- A host message held for a flushing read on port `p` leaves (R303). -/
def State.releaseHeld (s : State) (p : Nat) : State :=
  let l := s.ic.held.filter (fun x => decide (x.2 = p) && decide (x ∉ s.ic.unread))
  let s := s.withIc { s.ic with held := s.ic.held.filter (fun x => !decide (x ∈ l)) }
  forEach l (fun x s => if s.outputsOn then s.sendMsg x.1 else s) s

/-- The flushing reads that host messages wait for go out, as their ports have room (R303, R437). -/
def State.sendFlushes (s : State) : State :=
  forEach s.ic.unread (fun x s =>
    if s.readRoom x.2 then
      State.emit (s.withIc { s.ic with unread := s.ic.unread.erase x }) (.flushRead (decide (x.2 = 1)))
    else s) s

/-- FLUSH_READ_DONE: every posted write issued earlier on port `p` is visible; the record, or the host message, that waited
for it follows (R103, R303). -/
def execFlushReadDone (q : BitVec 22) (i : W32) (p : Fin 2) (s : State) : Res :=
  let s := s.releaseHeld p.val
  let s := s.updFl q.toNat i (fun (f : Flight) => { f with flush := f.flush.set p.val false })
  .next (if s.run then s.finish q.toNat i else s)

/-! ## NETP -/

/-- A request fails: the entry ends with REMOTE_ERR at job offset `ofs` (R443). -/
def State.remoteFail (s : State) (q : Nat) (i : W32) (reason ofs : Nat) : State :=
  (((s.setF IZ_NETP_STAT_last_reason reason).endEntry q i stRemote ofs).settle q i).reap q i

/-- DELIVERY_REPORT: segment `w` is delivered, or failed with a reason (R443). -/
def execDeliveryReport (q : BitVec 22) (i : W32) (w : Nat) (reason : Nat) (s : State) : Res :=
  match s.flight? q.toNat i with
  | none => .next s
  | some f =>
    match f.writes.find? (fun x => decide (x.w = w)) with
    | none => .next s
    | some x =>
      if x.space ≠ 2 then .next s
      else if reason % 16 = 0 then .next (s.wroteData f.q i x)
      else
        let s := s.updFl f.q i (fun f => { f with writes := f.writes.filter (fun y => decide (y.w ≠ w)) })
        .next (s.remoteFail f.q i (reason % 16) x.lo)

/-- Bytes of the GET request of a stitch that is not answered yet. -/
def Stitch.unanswered (x : Stitch) : Nat := x.asked - (x.wr + (x.stage.getD 0 []).length)

/-- The unanswered GET request of a stitch is given up. -/
def State.dropGet (s : State) (q : Nat) (i : W32) (e : Nat) : State :=
  s.updStitch q i e (fun x => { x with asked := x.asked - x.unanswered })

/-- GET_RESPONSE: the answer to the stitch's request arrives as one segment under its check (R211, R216, R443). -/
def execGetResponse (e : Nat) (data : Segment) (ans : NetAns) (s : State) : Res :=
  match s.onEngine e with
  | none => .next s
  | some (f, x) =>
    let n := x.unanswered
    if !f.e.isGet || decide (n = 0) then .next s
    else match ans with
      | .failed r => .next ((s.dropGet f.q f.idx e).remoteFail f.q f.idx (r % 16) (x.asked - n))
      | _ =>
        if data.bytes.length ≠ n then .next s
        else if x.stop || !s.run then .next (s.dropGet f.q f.idx e)
        else
          let l := data.bytes.map (fun b => SByte.mk b (decide (ans = .poison) || decide (segCheck data.bytes ≠ data.chk)))
          .next ((s.stageBytes f.q f.idx e 0 f l).engineGo e)

/-- NETP_TIMEOUT: the entry's oldest request was not answered in time: reason 6 (R443). -/
def execNetpTimeout (q : BitVec 22) (i : W32) (s : State) : Res :=
  match s.flight? q.toNat i with
  | none => .next s
  | some f =>
    match f.writes.find? (fun x => decide (x.space = 2)) with
    | some x =>
      let s := s.updFl f.q i (fun f => { f with writes := f.writes.filter (fun y => decide (y.w ≠ x.w)) })
      .next (s.remoteFail f.q i 6 x.lo)
    | none =>
      match f.stitches.find? (fun x => f.e.isGet && decide (0 < x.unanswered)) with
      | some x => .next ((s.dropGet f.q i x.eng).remoteFail f.q i 6 (x.asked - x.unanswered))
      | none => .next s

/-- CHK_INJ_ARM: one injection is armed at `hop`; nothing changes while one is armed (R232). -/
def execChkInjArm (hop : BitVec 3) (s : State) : Res :=
  guarded (s.served && !s.fb IZ_CHK_INJ_armed) s ((s.setF IZ_CHK_INJ_hop hop.toNat).setF IZ_CHK_INJ_armed 1)

/-- MERGE: new bytes of one word are put into it: the word is read, corrected if it can be, and written back with a new check
byte, or with the poison marker when it could not be (R449). -/
def execMerge (a : W64) (new : List Byte) (s : State) : Res :=
  guarded (decide (0 < new.length) && decide (a.toNat % 8 + new.length < 9) && decide (new.length < 8) && !s.pkgOut a.toNat new.length)
    s (s.writeWord a.toNat new false)

end Sys2Proof.Machine
end

