-- ==== Sys2Proof/Machine/LaceOps.lean ====
section
/-!
DEFINITION. The Lace link below its records: training results, sessions, packets and feedback received, acknowledgement and
replay, recoveries (13_lace_link.md R377 to R405), and how an in-service test ends (14_faults_spares_and_in_service_test.md
R430).
-/
namespace Sys2Proof.Machine

/-- An in-service test ends: its result is shown, TEST is recorded and source 47 is raised (R413, R430). -/
def State.endTest (s : State) (result errors : Nat) (checked : W64) : State :=
  let kind := s.f SPR_TEST_STAT_kind
  let s := (((s.setF SPR_TEST_STAT_busy 0).setF SPR_TEST_STAT_result result).setF SPR_TEST_STAT_errors errors).setReg SPR_TEST_BITS checked
  (s.log 0x24 (if result = 2 then 4 else 0) s.spr.unit (kind + result * 256) errors checked.toNat).raise 47

/-! ## Lanes (R383, R385) -/

/-- Receive lanes that are locked. -/
def State.locked (s : State) : Nat := (lanes.filter (fun i => s.fb (LACE_LANE_rx_locked i))).length
/-! ## Attempts (R382, R387) -/

/-- The link has left reset and HELD and is enabled: outputs have started (R381). -/
def State.laceMay (s : State) : Bool := s.fb LACE_CFG_enable && decide (7 ≤ s.phase) && !s.pair.hard

/-- No lane is locked yet. -/
def State.unlock (s : State) : State := lanes.foldl (fun s i => s.setF (LACE_LANE_rx_locked i) 0) s

/-- An attempt starts at DETECT (R382). -/
def State.attempt (s : State) : State := (s.setLace 1).unlock

/-- The session, replay storage, receive state and credits are discarded (R386, R404); a session begins with the buffer sizes as its
credits, and without one there are none (R395, R409). -/
def State.dropSession (s : State) (n : Nat) : State :=
  let s := s.setF LACE_STAT_session n
  let f (v : Nat) : Vc := Vc.fresh (if n = 0 then 0 else vcBuf v)
  (s.withLace { s.lace with ctrl := f 0, mirror := f 1, bulk := f 2, bad := [], spillHead := 0 })

/-- The link goes down, where it is not down already (R387, R404). -/
def State.goDown (s : State) : State :=
  if s.fb LACE_STAT_down then s else (((s.setF LACE_STAT_down 1).cnt LACE_STAT_downs).setF LACE_STAT_failed 0).raise 50

/-- An attempt fails: the next one, or SOLO, which holds no session (R386, R387). -/
def State.failAttempt (s : State) : State :=
  let s := s.cnt LACE_STAT_failed
  if s.f LACE_TRAIN_CFG_attempts ≤ s.f LACE_STAT_failed then (s.setLace 6).dropSession 0 else s.attempt

/-! ## Replay (R400 to R402) -/

/-- A replay starts at base: counted and traced in the transmitter's domain (R148, R152); nothing leaves while the link is not
up (R400). -/
def State.startReplay (s : State) (v : Nat) : State :=
  let c := s.vc v
  let s := (s.laceCnt (LACE_VC_ERR_replays v)).traceIn 5 3 0x20 v c.outst c.base 0
  if s.laceUp then State.pump (s.setVc v { c with stalled := c.store.head?.map (·.seq) }) else s

/-- An ack for channel `v` (R399): packets up to it are freed, and a replay that had stopped at one of them goes on. -/
def State.takeAckNo (s : State) (v a : Nat) : State :=
  let c := s.vc v
  let x := (a + 65536 - c.base) % 65536
  if x < c.outst then
    let gone := c.store.take (x + 1)
    let c := { c with base := (a + 1) % 65536, store := c.store.drop (x + 1), expiries := 0 }
    match c.stalled with
    | some sq => s.setVc v (if gone.any (fun p => decide (p.seq = sq)) then { c with stalled := c.store.head?.map (·.seq) } else c)
    | none => s.setVc v c
  else if x < 32768 then s.laceCnt (LACE_VC_ERR_ack_bad v)
  else s

/-- Apply a header's feedback (R395, R399), and send what it lets go. -/
def State.applyFeedback (s : State) (v a lim : Nat) : State :=
  let s := s.takeAckNo v a
  let c := s.vc v
  let s := if (lim + 4096 - c.limit) % 4096 < 2048 then s.setVc v { c with limit := lim } else s
  s.pump

/-- A feedback packet for channel `v` is due: CTRL sends it when it has the transmitter (R396). -/
def State.sendFeedback (s : State) (v : Nat) : State :=
  if s.laceUp then State.pump (s.withLace { s.lace with fbDue := addNew s.lace.fbDue v }) else s

/-! ## Recovery (R403) -/

/-- A lane test that runs stops with result 3, and its lane is the spare again (R432). -/
def State.stopLaneTest (s : State) : State :=
  if s.fb SPR_TEST_STAT_busy ∧ s.f SPR_TEST_STAT_kind = 4 then
    (s.setF (LACE_LANE_tx_use s.spr.unit) 1).endTest 3 (s.f SPR_TEST_STAT_errors) (s.reg SPR_TEST_BITS)
  else s

/-- A recovery starts from UP: LOCK at once, the session kept, and a replay under way stopped (R400, R403). -/
def State.recover (s : State) : State :=
  if s.laceSt = 5 then
    let quiet (c : Vc) : Vc := { c with stalled := none, expiries := 0 }
    let l := s.lace
    let s := s.withLace { l with recovery := true, ctrl := quiet l.ctrl, mirror := quiet l.mirror, bulk := quiet l.bulk }
    (((s.setLace 2).unlock).laceCnt LACE_ERR_recoveries).stopLaneTest
  else s

/-! ## The link comes up (R385, R386) -/

/-- Lane use, as the fellow's good map gives it (R385, R409). -/
def State.useLanes (s : State) (good : Nat) : State :=
  let use := useOf good
  lanes.foldl (fun s i =>
    if bit use i then
      (s.setF (LACE_LANE_tx_use i) 0).setF (LACE_LANE_tx_logical i) ((lanes.filter (fun j => bit use j && decide (j < i))).length)
    else (s.setF (LACE_LANE_tx_use i) (if bit good i then 1 else 2)).setF (LACE_LANE_tx_logical i) 0) s

/-- The session after a CONFIG: kept when both sides hold the same, else a new one (R386). -/
def nextSession (own fellow : Nat) : Nat := let m := max own fellow; if m = 65535 then 1 else m + 1

/-- Whether the link resumes its session (R386). -/
def resumes (own fellow : Nat) : Bool := decide (own = fellow) && decide (own ≠ 0)

/-- What a new session drops: the mirrors are lost, messages of the old session go, and what was known of the fellow's halt
(R386). -/
def State.newSession (s : State) (fellow : Nat) : State :=
  let s := s.enterLost
  let notice (m : List Byte) : Bool := decide ((slotRec m).1 = 0x30) || decide ((slotRec m).1 = 0x31)
  let s := s.withPair { s.pair with ctrl := s.pair.ctrl.filter notice, noticed := false }
  (s.setF PAIR_STAT_cond 0).dropSession (nextSession (s.f LACE_STAT_session) fellow)

/-- The mirror states as the link comes up (R358, R359, R373). -/
def State.syncUp (s : State) (fresh : Bool) : State :=
  if s.run then
    if s.fb PAIR_STAT_role_clash then s.goOff
    else if fresh ∨ s.f PAIR_STAT_send_state = 3 ∨ s.f PAIR_STAT_keep_state = 3 then s.startSync
    else s.announce
  else s

/-- The link comes up, which ends a takeover condition that rests on its being down (R365, R381, R386, R396, R400). -/
def State.linkUp (s : State) (role : Bool) (fellow : Nat) : State :=
  let same := resumes (s.f LACE_STAT_session) fellow
  let s := if same then s else s.newSession fellow
  let s := (s.setF LACE_STAT_fellow_role (b2n role)).setF PAIR_STAT_role_clash (b2n (role == s.role))
  let s := if s.pair.noticed then s else s.setF PAIR_STAT_cond 0
  let s := s.withLace { s.lace with recovery := false, frozen := [] }
  let s := ((s.setF LACE_STAT_down 0).setF LACE_STAT_failed 0).setLace 5
  let s := (List.range 3).foldl (fun s v => if (s.vc v).outst = 0 then s else s.startReplay v) s
  let s := (List.range 3).foldl (fun s v => s.sendFeedback v) s
  (s.syncUp !same).pump

/-! ## Packets received (R391 to R394, R398) -/

/-- Slots that a record or message of this code fills on channel `v`; none for a code that is reserved or belongs elsewhere
(R350, R393). -/
def slotSpan (v code : Nat) : Option Nat :=
  match v with
  | 0 => if 0x30 ≤ code ∧ code ≤ 0x34 then some 1 else none
  | 1 => if code = 5 then some 2 else if 1 ≤ code ∧ code ≤ 0x0B ∧ code ≠ 3 then some 1 else none
  | _ => if code = 0x20 then some 5 else if code = 0x21 then some 3 else if code = 0x22 then some 2 else none

/-- The slots of a payload that hold records, and how many slots were discarded for their code. The first argument bounds the
slots. -/
def sortSlots (v : Nat) : Nat → List (List Byte) → List (List Byte) × Nat
  | 0, _ => ([], 0)
  | _ + 1, [] => ([], 0)
  | n + 1, sl :: r =>
    if sl = padSlot then sortSlots v n r
    else match slotSpan v (slotRec sl).1 with
      | none => let x := sortSlots v n r; (x.1, x.2 + 1)
      | some k => let x := sortSlots v n (r.drop (k - 1)); (sl :: r.take (k - 1) ++ x.1, x.2)

/-- A data packet of channel `v` is judged by its seq (R398); an accepted one enters the receive buffer (R395). -/
def State.acceptPkt (s : State) (v u sq : Nat) (payload : List Byte) : State :=
  let c := s.vc v
  let d := (sq + 65536 - c.expected) % 65536
  if d = 0 then
    let x := sortSlots v 8 (slotsOf 8 payload)
    let c := { c with expected := (c.expected + 1) % 65536 }
    let c := if x.1.isEmpty then { c with freed := c.freed + u } else { c with rx := c.rx ++ [(u, x.1)] }
    (List.range x.2).foldl (fun s _ => s.laceCnt LACE_ERR_bad_code) (s.setVc v c)
  else if d < 32768 then s.laceCnt (LACE_VC_ERR_discards v)
  else s.laceCnt (LACE_VC_ERR_dups v)

/-- The framing checks of R394 on a header whose CRC passed. -/
def headerOk (h : Nat) : Bool :=
  let v := bits h 8 2
  let u := bits h 10 3
  decide (bits h 13 3 = 0) && decide (bits h 62 2 = 0) && decide (bits h 48 2 ≠ 3)
    && (if v = 3 then decide (u = 0) && decide (bits h 16 16 = 0) else decide (1 ≤ u) && decide (u ≤ 4))

/-- The bytes of a packet are whole and their CRC holds (R391, R392). -/
def packetSound (b : List Byte) : Bool :=
  let n := b.length
  decide (12 ≤ n) && decide (n = 12 + 64 * bits (leNat (b.take 8)) 10 3) && decide (bits (leNat (b.take 8)) 0 8 = 0xFB)
    && decide (leNat (b.drop (n - 4)) = crc32 (b.take (n - 4)))

/-- A packet arrives while the link is up (R390, R394, R398, R399). -/
def State.receive (s : State) (b : List Byte) : State :=
  let s := s.withLace { s.lace with frozen := [] }
  let h := leNat (b.take 8)
  if !packetSound b then s.laceCnt LACE_ERR_crc
  else if !headerOk h then s.laceCnt LACE_ERR_framing
  else
    let s := s.applyFeedback (bits h 48 2) (bits h 32 16) (bits h 50 12)
    if bits h 8 2 = 3 then s else s.acceptPkt (bits h 8 2) (bits h 10 3) (bits h 16 16) ((b.drop 8).take (64 * bits h 10 3))

end Sys2Proof.Machine
end

