-- ==== Sys2Proof/Machine/Lace.lean ====
section
/-!
DEFINITION. Commands of the Lace link (13_lace_link.md R381 to R405; lanes R428).
-/
namespace Sys2Proof.Machine

/-! ## Training -/

/-- LACE_DETECT: signal on at least 4 receive lanes ends DETECT; TS1 on at least 4 ends SOLO (R382, R388). -/
def execLaceDetect (l : BitVec 9) (s : State) : Res :=
  if 4 ≤ laneCount l.toNat then
    if s.laceSt = 1 then .next (s.setLace 2) else if s.laceSt = 6 then .next s.attempt else .next s
  else .next s

/-- A receive lane locks (R383): its source lane is known, and its polarity, which a recovery keeps (R403). -/
def State.lockLane (s : State) (inverted : Bool) (src i : Nat) : State :=
  let s := (s.setF (LACE_LANE_rx_locked i) 1).setF (LACE_LANE_rx_from i) src
  if s.lace.recovery then s else s.setF (LACE_LANE_rx_inverted i) (b2n inverted)

/-- A lane with CDR locked and comma boundary aligned has received words since: with eight consecutive TS1 or TS2 free of symbol
errors it locks (R382, R383). -/
def State.lockBy (s : State) (i : Nat) (l : List (BitVec 40)) : State :=
  match eightSets l with
  | some (inv, t) => if i < 9 then s.lockLane inv ((t.getLast?.map (·.lane)).getD 15) i else s
  | none => s

/-- LACE_LOCK: receive lanes take training sets, and lock; with all nine locked DESKEW begins (R382). -/
def execLaceLock (cdr comma : BitVec 9) (rx : List (List (BitVec 40))) (s : State) : Res :=
  if s.laceSt = 2 then
    let s := lanes.foldl (fun s i => if bit cdr.toNat i && bit comma.toNat i then s.lockBy i (rx.getD i []) else s) s
    .next (if s.locked = 9 then s.setLace 3 else s)
  else .next s

/-- LANE_LOCK_WAIT_EXPIRY: at least 4 lanes are locked, and no further one for 2 us (R382). -/
def execLaneLockWaitExpiry (s : State) : Res := guarded (decide (s.laceSt = 2) && decide (4 ≤ s.locked)) s (s.setLace 3)

/-- The lane order that most locked lanes show (R383). -/
def State.reversedOrder (s : State) : Bool :=
  let n (g : Nat → Nat) : Nat :=
    (lanes.filter (fun i => s.fb (LACE_LANE_rx_locked i) && decide (s.f (LACE_LANE_rx_from i) = g i))).length
  decide (n (fun i => i) < n (fun i => 8 - i))

/-- A locked and aligned lane is good when it agrees with the lane order and is neither marked bad nor retired (R382, R383,
R385, R405, R428). -/
def State.laneGood (s : State) (rev : Bool) (aligned i : Nat) : Bool :=
  s.fb (LACE_LANE_rx_locked i) && bit aligned i && decide (s.f (LACE_LANE_rx_from i) = if rev then 8 - i else i)
    && decide (i ∉ s.lace.bad) && !bit (s.f SPR_LANE_RETIRED_retired) i

/-- Where the fourth of four consecutive AOS stands on each lane, of the words that the nine lanes have received over the same time; none for
a lane that is not locked (R382, R383). -/
def State.aosOf (s : State) (rx : List (List (BitVec 40))) : List (Option Nat) :=
  lanes.map (fun i =>
    let l := rx.getD i []
    if s.fb (LACE_LANE_rx_locked i) then fourAos (if s.fb (LACE_LANE_rx_inverted i) then l.map (~~~ ·) else l) else none)

/-- LACE_DESKEW: words arrive on the nine lanes; with four consecutive AOS on every locked lane the lanes are aligned as far as the deskew
buffer reaches, their order is judged, and CONFIG begins (R382, R383; log entry 66). -/
def execLaceDeskew (rx : List (List (BitVec 40))) (s : State) : Res :=
  let p := s.aosOf rx
  if s.laceSt = 3 ∧ 0 < s.locked ∧ (lanes.all (fun i => !s.fb (LACE_LANE_rx_locked i) || (p.getD i none).isSome)) then
    let rev := s.reversedOrder
    let t := lanes.foldl (fun t i => t.setF (LACE_LANE_rx_good i) (b2n (s.laneGood rev (alignedMap p) i))) s
    .next ((t.setF LACE_STAT_reversed (b2n rev)).setLace 4)
  else .next s

/-- The TS2 that a run of words on one lane brings eight times over, all alike (R382). -/
def sameTs2 (l : List (BitVec 40)) : Option TsIn :=
  match eightSets l with
  | some (_, t :: r) => if t.two && r.all (fun y => decide (y = t)) then some t else none
  | _ => none

/-- LACE_CONFIG: eight identical TS2 are taken on a receive lane: their good map is the latest of the fellow's. Where their use map
agrees with this mover's own good map, 16 TS2 are sent, width, lane use and session are settled and the link comes up; with fewer
than 4 good lanes in a direction the attempt fails (R382, R385, R386). -/
def execLaceConfig (rx : List (BitVec 40)) (s : State) : Res :=
  match sameTs2 rx with
  | none => .next s
  | some t =>
    if s.laceSt ≠ 4 then .next s
    else
      let s := s.withLace { s.lace with fellowGood := t.good }
      if t.use ≠ useOf s.goodMap then .next (s.train 4)
      else if useOf t.good = 0 ∨ t.use = 0 then .next s.failAttempt
      else
        let s := (s.lastTs2.useLanes t.good).setF LACE_STAT_tx_width (widthCode (useOf t.good))
        let s := s.setF LACE_STAT_rx_width (widthCode t.use)
        .next (State.linkUp (s.withLace { s.lace with fellowUse := t.use }) t.role t.session)

/-- ATTEMPT_TIMEOUT: an attempt that is not UP fails (R387). -/
def execAttemptTimeout (s : State) : Res := guarded (decide (1 ≤ s.laceSt) && decide (s.laceSt ≤ 4)) s s.failAttempt

/-- SOLO_PROBE: TS1 for 20 us (R388). -/
def execSoloProbe (s : State) : Res := guarded (decide (s.laceSt = 6) && !s.pair.hard) s ((s.emit .laceProbe).train 1)

/-! ## Packets -/

/-- PACKET: a data packet arrives (R394, R398). -/
def execPacket (b : List Byte) (s : State) : Res := guarded s.laceUp s (s.receive b)

/-- FEEDBACK: a feedback packet arrives (R394, R399). -/
def execFeedback (b : List Byte) (s : State) : Res := guarded s.laceUp s (s.receive b)

/-- FEEDBACK_TIMER: 256 ns since the channel's last feedback (R396). -/
def execFeedbackTimer (v : Fin 3) (s : State) : Res := .next (s.sendFeedback v.val)

/-- REPLAY_TIMEOUT: the channel replays from base; after max_replays expiries with no progress a recovery starts (R400). -/
def execReplayTimeout (v : Fin 3) (s : State) : Res :=
  let c := s.vc v.val
  if s.laceUp ∧ c.outst ≠ 0 then
    let s := s.setVc v.val { c with expiries := c.expiries + 1 }
    if s.f LACE_REPLAY_CFG_max_replays ≤ c.expiries + 1 then .next ((s.startReplay v.val).recover.raise 51)
    else .next (s.startReplay v.val)
  else .next s

/-- The on-chip replay buffer has no room for a packet of the largest size (R401). -/
def State.chipFull (s : State) : Bool := decide (s.chipRoom < s.chipUnits + 5)

/-- The oldest packet of a data channel that lies on chip, in sending order (R401). -/
def State.oldestOnChip (s : State) : Option (Nat × Pkt) :=
  let on (v : Nat) : List (Nat × Pkt) := ((s.vc v).store.filter (fun p => !p.spilled)).map (fun p => (v, p))
  maxBy (fun a b => decide (a.2.born < b.2.born)) (on 1 ++ on 2)

/-- Units of the replay spill (R401). -/
def spillUnitsMax : Nat := 262144

/-- The units that a packet fills in the replay spill: its header's fields and its payload. DESIGN CHOICE (log entry 67): the unit beside
the payload holds the seq, the channel and the count of units, and is first. -/
def spillBytes (v : Nat) (p : Pkt) : List Byte :=
  leBytes 64 (p.seq + v * 2 ^ 16 + unitsOf p.slots * 2 ^ 24) ++ payloadOf p.slots

/-- The first unit of the oldest packet in the replay spill; the ring's end where it is empty (R401). -/
def State.spillTail (s : State) : Nat :=
  ((s.lace.mirror.store ++ s.lace.bulk.store).filter (fun p => p.spilled)).foldl (fun a p => min a p.pos) s.lace.spillHead

/-- Write units of 64 bytes to the replay spill from unit `n` on, round its ring (R401). -/
def State.writeSpill (s : State) (n : Nat) (b : List Byte) : State :=
  (List.range (b.length / 64)).foldl (fun s k =>
    let o := replayOffset (n + k)
    (s.touchBlock (storeBlock o)).writePkg (s.pat.csBase + o) ((b.drop (64 * k)).take 64) false) s

/-- REPLAY_SPILL: the oldest MIRROR or BULK packet goes to the replay spill (R401); never in a halt (R402). -/
def execReplaySpill (s : State) : Res :=
  match s.oldestOnChip with
  | some (v, p) =>
    let u := unitsOf p.slots + 1
    if s.run ∧ s.owns resCstore 73 ∧ s.chipFull ∧ s.lace.spillHead + u ≤ s.spillTail + spillUnitsMax then
      let c := s.vc v
      let at_ := s.lace.spillHead
      let s := s.writeSpill at_ (spillBytes v p)
      let s := s.withLace { s.lace with spillHead := at_ + u }
      let s := s.setVc v { c with store := updWhere (fun (x : Pkt) => decide (x.seq = p.seq)) (fun x => { x with spilled := true, pos := at_ }) c.store }
      .next (((s.peak LACE_SPILL_peak s.spillUnits).arbBusy resCstore 73).pump)
    else .next s
  | none => .next s

/-- The spilled packet that a replay of channel `v` has reached (R401). -/
def State.refillNext (s : State) (v : Nat) : Option Pkt :=
  match (s.vc v).stalled with
  | none => none
  | some sq => (s.vc v).store.find? (fun p => decide (p.seq = sq) && p.spilled && !p.back)

/-- The bytes of `u` units of the replay spill from unit `n` on, and whether every word of them can be read (R401, R448). -/
def State.readSpill (s : State) (n u : Nat) : List Byte × Bool :=
  (List.range u).foldl (fun a k =>
    let o := s.pat.csBase + replayOffset (n + k)
    (a.1 ++ s.pkgBytes o 64, a.2 && !s.pkgBad o 64)) ([], true)

/-- REFILL: LREPLAY reads the spilled packet that a replay has reached, and the replay goes on (R401); never in a halt
(R402). -/
def execRefill (v : Fin 3) (s : State) : Res :=
  match s.refillNext v with
  | some p =>
    if s.run ∧ s.laceUp ∧ s.owns resCstore 73 then
      let c := s.vc v
      let d := s.readSpill p.pos (unitsOf p.slots + 1)
      let s := (s.cnt LACE_SPILL_refills).arbBusy resCstore 73
      if !d.2 then .next (s.fatal 0x03 0 0 (replayOffset p.pos))
      else
        let l := slotsOf 8 (d.1.drop 64)
        let back (x : Pkt) : Pkt := { x with back := true, slots := l.take x.slots.length }
        .next (State.pump (s.setVc v { c with store := updWhere (fun (x : Pkt) => decide (x.seq = p.seq)) back c.store }))
    else .next s
  | none => .next s

/-- RETRAIN_BLOCK: a retrain block begins on all nine lanes with its RTB stripe; 1,024 stripes of PRBS31 data and an AOS stripe follow, one
a cycle, unless a packet becomes ready (R390). -/
def execRetrainBlock (s : State) : Res :=
  guarded (s.laceUp && decide (s.lace.block = 0)) s
    (let s := State.endPart s
     let s := (s.emit .laceRetrainBlock).sendStripe (lanes.map (fun i => (i, List.replicate 4 symRtb)))
     s.withLace { s.lace with block := 1025 })

/-- ADAPTATION_FREEZE: the lane holds its adaptation until the next packet or retrain block (R390). -/
def execAdaptationFreeze (lane : Nat) (s : State) : Res :=
  guarded (s.laceUp && decide (lane < 9)) s (s.withLace { s.lace with frozen := addNew s.lace.frozen lane })

/-! ## Recovery and going down -/

/-- A lane loses lock: it is counted, and a data lane's loss starts a recovery (R403). -/
def State.loseLock (s : State) (lane : Nat) : State :=
  let s := (s.cnt (LACE_LANE_lock_loss lane)).setF (LACE_LANE_rx_locked lane) 0
  if s.rxData lane then s.recover else s

/-- LOSS_OF_LOCK: a data lane loses lock, or TS1 or a misaligned AOS arrives on it: a recovery starts; on the spare lane and on
one under test none does (R403). -/
def execLossOfLock (lane : Nat) (lost : Bool) (s : State) : Res :=
  if lane < 9 ∧ s.laceSt ≠ 0 then
    .next (if lost then s.loseLock lane else if s.rxData lane then s.recover else s)
  else .next s

/-- RETRAIN: a recovery from UP, a new attempt during training, or the end of SOLO (R388, R403, R408). -/
def execRetrain (w : W64) (s : State) : Res :=
  if bit w.toNat 0 ∧ s.laceMay then
    .next (if s.laceSt = 5 then s.recover else if s.laceSt = 0 then s else s.attempt)
  else .next s

/-- LINK_DOWN: LACE_DOWN_TIME has passed since a recovery started (R404). -/
def execLinkDown (s : State) : Res :=
  if s.lace.recovery ∧ s.laceSt ≠ 5 then
    .next (State.goDown (s.withLace { s.lace with recovery := false }))
  else .next s

/-- A receive lane that is good and carries no data lane: it takes a retired lane's place at the recovery (R385, R428). -/
def State.rxSpare (s : State) (i : Nat) : Option Nat :=
  lanes.find? (fun j => decide (j ≠ i) && s.fb (LACE_LANE_rx_good j) && !s.rxData j && decide (j ∉ s.lace.bad)
    && !bit (s.f SPR_LANE_RETIRED_retired) j)

/-- Good receive lanes that are not retired. -/
def State.goodLanes (s : State) : Nat :=
  (lanes.filter (fun j => s.fb (LACE_LANE_rx_good j) && !bit (s.f SPR_LANE_RETIRED_retired) j)).length

/-- Retire a lane (R421, R428): with a data lane a spare one is taken into use, or the width goes, and source 46 is raised (R287; log
entry 38). -/
def State.retireLane (s : State) (i : Nat) : State :=
  let s := (s.logIn 6 0x20 4 i (2 + 6 * 16) 0 0).setF ⟨SPR_LANE_RETIRED, i, 1⟩ 1
  if s.rxData i then
    match s.rxSpare i with
    | some j => (s.logIn 6 0x21 0 j 2 i 0).raise 46
    | none => (s.logIn 6 0x22 4 i 2 s.goodLanes 0).raise 46
  else s

/-- A lane over err_limit is marked bad for the session, and retired when lane_retire = 1 (R405, R421). -/
def State.markBad (s : State) (lane : Nat) : State :=
  let s := State.raise (s.withLace { s.lace with bad := s.lace.bad ++ [lane] }) 51
  let s := if s.fb SPR_POLICY_lane_retire ∧ ¬ bit (s.f SPR_LANE_RETIRED_retired) lane then s.retireLane lane else s
  if s.rxData lane then s.recover else s

/-- LANE_ERROR_WINDOW: a 1 ms window ends in which the lane has received these words: their symbol errors are counted, a lane over
err_limit is marked bad, and a locked one with 16 errors among 256 consecutive symbols has lost lock (R380, R403, R405). -/
def execLaneErrorWindow (lane : Nat) (rx : List (BitVec 40)) (s : State) : Res :=
  if lane < 9 ∧ s.laceSt ≠ 0 then
    let r := s.laneWords lane rx
    let s := r.1.sat (LACE_LANE_sym_err lane) r.2.1
    let s := if r.2.2 ∧ s.fb (LACE_LANE_rx_locked lane) then s.loseLock lane else s
    .next (if s.f LACE_LANE_CFG_err_limit ≠ 0 ∧ s.f LACE_LANE_CFG_err_limit < r.2.1 ∧ lane ∉ s.lace.bad then s.markBad lane else s)
  else .next s

/-- The link is disabled (R386, R404). -/
def State.laceOff (s : State) : State :=
  let s := s.goDown
  let s := s.withLace { s.lace with recovery := false }
  ((s.setLace 0).dropSession 0).stopLaneTest

/-- LACE_ENABLE: a write to LACE_CFG.enable (R404). -/
def execLaceEnable (on : Bool) (s : State) : Res :=
  let t := s.setF LACE_CFG_enable (b2n on)
  guarded s.served s (if on then (if t.laceMay ∧ t.laceSt = 0 then t.attempt else t) else t.laceOff)

end Sys2Proof.Machine
end

