-- ==== Sys2Proof/Machine/Net.lean ====
section
/-!
DEFINITION. What the network port asks of the mover as target: arriving folds (05_reductions_and_the_alloy_carrier.md R177 to
R181, 07_integrity_chain.md R217) and key checks (15_boundary_ports_clocks_and_balls.md R446).
-/
namespace Sys2Proof.Machine

/-- KEY_CHECK_REQUEST: pass with the region's kind and address, or fail with a reason; a mover that is halted or held answers
none (R69, R446). -/
def execKeyCheckRequest (key : W32) (ofs len : Nat) (r : RemoteRight) (s : State) : Res :=
  if s.run then
    let x := s.remoteKey key.toNat ofs len r
    if x.2 = 0 then .next (s.emit (.keyPass x.1.hostBacked (x.1.base + ofs) x.1.pasid))
    else .next ((s.cnt IZ_NETP_STAT_keychk_fail).emit (.keyFail x.2))
  else .next s

/-! ## Arrival folds -/

/-- The combinations of R177 that R58 allows. -/
def foldLegal (f : FoldSeg) : Bool :=
  decide (f.redType < 7) && decide (f.redOp < 7)
    && (if f.repro then isFp f.redType && decide (f.redOp = 0) else !f.outCarrier && !(isFp f.redType && decide (f.redOp = 6)))

/-- Arriving bytes of an element: carrier form in reproducible mode (R177). -/
def foldIn (f : FoldSeg) : Nat := if f.repro then (widthOf f.redType).bytes else elemBytes f.redType
/-- Destination bytes of an element. -/
def foldDst (f : FoldSeg) : Nat := if f.outCarrier then (widthOf f.redType).bytes else elemBytes f.redType
/-- Elements in the segment. -/
def foldCount (f : FoldSeg) : Nat := f.data.length / foldIn f
/-- Destination bytes that the segment folds into. -/
def foldLen (f : FoldSeg) : Nat := foldCount f * foldDst f

/-- A failed check of a fold (R222, R231): qid 0; the spec states no job offset and no index for it, so both are free values.
It counts against the folding unit at hop 3, for `reason` (R421, R431). -/
def State.foldFail (s : State) (hop st : Nat) (reason : Nat := 3) : State :=
  let i := (Config.freeWord s.free).toNat % 2 ^ 32
  let o := (Config.freeWord (s.free + 1)).toNat % 2 ^ 48
  let s := s.withFree (s.free + 2)
  let s := (s.noteFail 0 i (s.reg IZ_CHK_CFG).toNat { hop := hop, status := st, ofs := o, till := o, sound := o } true).emit (.foldResponse 5)
  if hop = 3 then
    match s.redIn 2 with
    | some u => s.chargeRed u reason
    | none => s
  else s

/-- The resource through which a fold reads and writes (R181). -/
def WaitFold.res (w : WaitFold) : Nat := portRes (if w.region.hostBacked then 0 else 1) w.hostp

/-- Refuse a fold with a reason (R179, R443). -/
def State.refuseFold (s : State) (reason : Nat) : State := s.emit (.foldResponse reason)

/-- FOLD owns what a fold needs: a reduction unit, and a channel of the destination's port (R181, R261). -/
def State.foldOpen (s : State) (w : WaitFold) : Bool := s.owns 4 75 && s.owns w.res 75

/-- Read, fold and write the destination of a segment whose key and form are judged, at the address, PASID and port that were taken as it
arrived (R177, R178, R181, R185, R214, R446). DESIGN CHOICE (log entry 49): the exceptions of every result element count, whether or
not the write then succeeds. -/
def State.applyFold (s : State) (w : WaitFold) : State :=
  let f := w.seg
  let r := w.region
  let a := r.base + f.ofs
  let sp := if r.hostBacked then 0 else 1
  let port := w.hostp
  let ans := w.ans
  let lost := w.lost
  let pasid := if r.hostBacked then some r.pasid else none
  let s := (s.arbBusy 4 75).arbBusy w.res 75
  let x := s.crossHop 2
  if x.2 || f.poison || decide (segCheck f.data ≠ f.chk) then x.1.foldFail 2 stPoison
  else
    let g := x.1.catchRead sp port pasid a (foldLen f)
    let z := x.1.answer sp port a g ans
    match z.2 with
    | some .xlat | some .addr => z.1.refuseFold 8
    | bad =>
      let h1 := State.crossHop (z.1.sat IZ_CHK_STAT_ecc_corrected g.fixes) sp
      if h1.2 || bad.isSome then h1.1.foldFail sp stPoison
      else
        let h3 := h1.1.crossHop 3
        if h3.2 then h3.1.foldFail 3 stChk
        else
          let n := foldBytes f.redType f.redOp f.repro f.outCarrier g.bytes f.data
          let s := match h3.1.redIn 2 with
            | some u => h3.1.wrapAdd (IZ_RED_STATE_blocks u) 1
            | none => h3.1
          let s := s.countExc n.2
          let sh := s.shadowHop (s.redIn 2)
          if sh.2 then sh.1.foldFail 3 stChk 5
          else
          let s := sh.1
          let h4 := s.verify (outHop sp) (segCheck n.1) n.1
          if h4.2 then h4.1.foldFail (outHop sp) stChk
          else if lost then h4.1.refuseFold 8
          else ((h4.1.cover sp port pasid h4.1.arb.issued a n.1.length).writeBytes sp pasid a n.1 false).emit (.foldResponse 0)

/-- A fold segment arrives: it is folded whole into its destination and answered applied, or nothing of it is applied and it is
refused (R177 to R179); a key check that fails is counted like any other (R446). One that FOLD has no channels for yet waits
(R181, R263). -/
def State.fold (s : State) (f : FoldSeg) (ans : ReadAns) (lost : Bool) : State :=
  if s.run then
    let x := s.remoteKey f.key.toNat f.ofs (foldLen f) .rred
    if x.2 ≠ 0 then (s.cnt IZ_NETP_STAT_keychk_fail).refuseFold x.2
    else if !foldLegal f || decide (f.data.length % foldIn f ≠ 0) || decide ((x.1.base + f.ofs) % foldDst f ≠ 0) then
      s.refuseFold 5
    else
      let w : WaitFold := { seg := f, ans := ans, lost := lost, region := x.1, hostp := s.f IZ_RED_CFG_fold_hostp }
      if s.foldOpen w && s.arb.folds.isEmpty then s.applyFold w else s.withArb { s.arb with folds := s.arb.folds ++ [w] }
  else s

/-- Folds that wait are applied in the order of their arrival, port by port, as far as FOLD's channels go. The first argument
bounds them. -/
def State.serveFolds : Nat → State → State
  | 0, s => s
  | n + 1, s =>
    match s.arb.folds.find? s.foldOpen with
    | none => s
    | some y => State.serveFolds n (State.applyFold (s.withArb { s.arb with folds := s.arb.folds.erase y }) y)

/-- FOLD_SEGMENT. -/
def execFoldSegment (f : FoldSeg) (s : State) : Res := .next (s.fold f .ok false)

end Sys2Proof.Machine
end

