-- ==== Sys2Proof/Machine/TimeTrace.lean ====
section
/-!
DEFINITION. Commands of Mover Time, the trace drain and the second pulses (04_completion_rings_and_hallmarks.md R143 to R153,
08_admin_queue.md R254, 15_boundary_ports_clocks_and_balls.md R451 to R454).
-/
namespace Sys2Proof.Machine

/-- The mover enters holdover (R145). -/
def State.enterHoldover (s : State) : State :=
  let s := if s.fb TB_STAT_holdover then s else (s.cnt TB_STAT_holdovers).raise 52
  (s.setF TB_STAT_holdover 1).setF TB_STAT_valid 0

/-- Count the step that a valid sample shows against the sample before it (R144). -/
def State.judgeStep (s : State) (t : W64) : State :=
  match s.tb.prev with
  | none => s
  | some p =>
    if p.toNat + 52 ≤ t.toNat then s.cnt TB_STAT_fwd_steps
    else if t.toNat < p.toNat then s.cnt TB_STAT_back_steps
    else s

/-- TS_SAMPLE: MT becomes the larger of its value and a valid sample; a sample with valid low starts holdover (R143 to
R145). -/
def execTsSample (t : W64) (valid : Bool) (s : State) : Res :=
  if valid then
    let s := if s.fb TB_STAT_holdover then s.raise 52 else s
    let s := (s.judgeStep t).setF TB_STAT_holdover 0
    let s := s.setF TB_STAT_valid 1
    let m := if s.tb.mt.toNat < t.toNat then t else s.tb.mt
    .next (s.withTb { s.tb with mt := m, prev := some t, sample := t, fabric := t, odd := false, missing := 0 })
  else .next (State.enterHoldover (s.withTb { s.tb with prev := none }))

/-- TS_SAMPLE_MISSING: the fourth missing sample in a row starts holdover (R145). -/
def execTsSampleMissing (s : State) : Res :=
  let s := s.withTb { s.tb with prev := none, missing := min 4 (s.tb.missing + 1) }
  .next (if s.tb.missing = 4 ∧ ¬ s.fb TB_STAT_holdover then s.enterHoldover else s)

/-! ## The trace drain -/

/-- Records the drain buffer holds (R254). -/
def State.drainRecs (s : State) : Nat := 2 ^ s.trace.sizeLog2 / 32

/-- Free records of the drain buffer (R153). -/
def State.drainFree (s : State) : Nat :=
  s.drainRecs - idxDiff (BitVec.ofNat 32 (s.f TB_TRACE_PI_pi)) (BitVec.ofNat 32 (s.f TB_TRACE_CI_ci))

/-- The drain buffer is full, and copying waits (R153). -/
def State.drainFull (s : State) : Bool := decide (s.drainFree = 0)

/-- Records the next copy takes: the rest of a 4 KiB block once it is there whole and the buffer has room for it, and after
TRACE_STOP what is left of one (R151, R153). -/
def State.copyLen (s : State) : Nat :=
  let room := 128 - s.f TB_TRACE_PI_pi % 128
  if s.fb TB_TRACE_CFG_on then (if room ≤ s.trace.recs.length ∧ room ≤ s.drainFree then room else 0)
  else min (min room s.trace.recs.length) s.drainFree

/-- The resource that the drain writes through (R151, R261). -/
def State.traceRes (s : State) : Nat := portRes (spaceOf s.trace.device) (b2n s.trace.hostp)

/-- A copy fails: trace stops, and the next TRACE_STOP reports ACCESS (R254). -/
def State.traceFail (s : State) : State :=
  (((s.setF TB_TRACE_CFG_on 0)).withTrace { s.trace with failed := true, access := true })

/-- TRACE_COPY: the oldest records leave for the drain buffer, over hop 7 and the port's out-hop, through channels that TRACE owns
(R151, R217, R261). -/
def execTraceCopy (s : State) : Res :=
  let n := s.copyLen
  if 0 < n ∧ s.run ∧ ¬ s.trace.failed ∧ s.owns resCstore 76 ∧ s.owns s.traceRes 76 then
    let a := s.trace.base.toNat + s.f TB_TRACE_PI_pi % s.drainRecs * 32
    let sp := spaceOf s.trace.device
    if s.trace.device ∧ s.pkgOut a (32 * n) then .next (s.cnt IZ_MEMP_STAT_addr_err).traceFail
    else
      let s := ((s.arbBusy resCstore 76).arbBusy s.traceRes 76).ctlHops 0 0 sp
      let s := s.writeBytes sp none a ((s.trace.recs.take n).flatMap wordBytes) false
      .next ((s.withTrace { s.trace with recs := s.trace.recs.drop n }).wrapAdd TB_TRACE_PI_pi n)
  else .next s

/-- Judge a write of TB_TRACE_CI (R153). -/
def State.writeTraceCi (s : State) (v : W32) : State :=
  let p := BitVec.ofNat 32 (s.f TB_TRACE_PI_pi)
  let c := BitVec.ofNat 32 (s.f TB_TRACE_CI_ci)
  if idxDiff p v ≤ idxDiff p c then s.setF TB_TRACE_CI_ci v.toNat else s.cnt TB_TRACE_LOST_ci_bad

/-- TRACE_CI_WRITE. -/
def execTraceCiWrite (v : W32) (s : State) : Res :=
  guarded s.served s (s.writeTraceCi v)

/-! ## Second pulses -/

/-- PPS_IN: a rising edge is stamped and passed to the fabric time unit (R453). -/
def execPpsIn (s : State) : Res :=
  if s.fb TB_PPS_CFG_in_en ∧ 7 ≤ s.phase then
    let t := s.mtIn 7 - 80
    .next (((s.setReg TB_PPS_STAMP t).cnt TB_PPS_CFG_edges).emit (.ppsStamp t))
  else .next s

/-- MT units in a second. -/
def secondMt : Nat := 4000000000

/-- The first second boundary, as a number of seconds, that MT plus lead has not reached (R454). -/
def State.nextSecond (s : State) : Nat := (s.mt.toNat + s.f TB_PPS_CFG_lead) / secondMt + 1

/-- PPS_OUT: the ball rises when MT plus lead has reached the next second boundary, and falls 100 us later (R454). -/
def execPpsOut (rise : Bool) (s : State) : Res :=
  if s.fb TB_PPS_CFG_out_en ∧ s.run then
    if rise then
      if s.tb.second * secondMt ≤ s.mt.toNat + s.f TB_PPS_CFG_lead ∧ ¬ s.pins.ppsOut then
        .next ((s.withPins { s.pins with ppsOut := true }).withTb { s.tb with second := s.nextSecond })
      else .next s
    else .next (s.withPins { s.pins with ppsOut := false })
  else .next s

end Sys2Proof.Machine
end

