-- ==== Sys2Proof/Machine/Trigger.lean ====
section
/-!
DEFINITION. Commands of the trigger counters and of parking (06_triggered_graphs.md R197 to R205).
-/
namespace Sys2Proof.Machine

/-- ARRIVAL_NOTIFICATION: applied, or kept until its cold counter arrives (R191, R197, R445). -/
def execArrivalNotification (w : W64) (s : State) : Res := .next (s.arrivalIn w)

/-- TRIG_COUNTER_READ: a read of IZ_TRIG_VAL, or of IZ_TRIG_INFO; it waits for a cold counter (R205). -/
def execTrigCounterRead (info : Bool) (s : State) : Res :=
  guarded s.served s (s.beginRead.readTrig (.trigCounterRead info))

/-- The condition of a parked entry holds (R192). -/
def State.waiterHolds (s : State) (x : Nat × W32) : Bool :=
  match s.flight? x.1 x.2 with
  | some f => condHolds (s.ctrOf (ctrIdx x.1 f.e.waitCtr)).value f.e.threshold
  | none => false

/-- Read a spilled entry back from the park spill, through PSPILL's channel of CSTORE: an uncorrectable word is fatal (R200, R417). -/
def State.readParked (s : State) (x : Nat × W32) : State × Bool :=
  let o := parkOffset (s.spillSlot x)
  let bad := s.pkgBad (s.pat.csBase + o) 64
  let s := (s.memStat (s.pat.csBase + o) 64).arbBusy resCstore 71
  if bad then (s.fatal 0x03 0 0 o, false) else (s, true)

/-- A waiter is released: a spilled one once it is read back (R202). -/
def State.releaseWaiter (s : State) (x : Nat × W32) : State :=
  if x ∈ s.park.spill then
    let d := s.readParked x
    if d.2 then d.1.releasePark x.1 x.2 else d.1
  else s.releasePark x.1 x.2

/-- Waiters that may be released: their condition holds, and no DESTROY_WQ discards them (R202, R248), on-chip ones
first (DESIGN CHOICE, log entry 29: R202 orders the waiters of one counter only); spilled ones only while PSPILL can
read (R261). -/
def State.releasable (s : State) : List (Nat × W32) :=
  (s.park.onChip ++ (if s.owns resCstore 71 then s.park.spill else [])).filter (fun x =>
    s.waiterHolds x && decide ((s.qctx x.1).destroy ≠ .discard))

/-- PARK_RELEASE: up to four parked entries whose condition holds are released, oldest parked first (R202, R203); those of a queue
whose DESTROY_WQ discards are withdrawn instead (R248). -/
def execParkRelease (s : State) : Res :=
  if s.run then .next (forEach (s.releasable.take 4) (fun x s => if s.run then s.releaseWaiter x else s) s) else .next s

/-- A spilled entry may come back on chip: its counter is locked already, or its counter's set has a way to lock (R191,
R200, R427). -/
def State.mayComeBack (s : State) (x : Nat × W32) : Bool :=
  match s.flight? x.1 x.2 with
  | none => false
  | some f =>
    let n := ctrIdx x.1 f.e.waitCtr
    let l := s.lockedCtrs
    !s.bankRetired (n % 16) && (decide (n ∈ l) || decide ((l.filter (fun m => decide (ctrSet m = ctrSet n))).length < 16))

/-- PARK_SPILL_REFILL: with an on-chip slot free, PSPILL reads back the oldest spilled entry that may come back, through its channel of
CSTORE, once its counter is hot, whose way it then locks (R191, R200, R261); an uncorrectable one is fatal (R417). -/
def execParkSpillRefill (s : State) : Res :=
  if s.run && decide (s.park.onChip.length < parkSlots) && s.owns resCstore 71 then
    match s.park.spill.find? s.mayComeBack with
    | none => .next s
    | some x =>
      let d := s.demand (match s.flight? x.1 x.2 with | some f => [(.counter, ctrIdx x.1 f.e.waitCtr)] | none => [])
      if !d.2 then .next d.1
      else
        let r := d.1.readParked x
        if !r.2 then .next r.1
        else
          let s := r.1.unpark x.1 x.2
          .next (s.withPark { s.park with onChip := s.park.onChip ++ [x] })
  else .next s

end Sys2Proof.Machine
end

