-- ==== Sys2Proof/Machine/Arb.lean ====
section
/-!
DEFINITION. Who requests which resource (09_arbitration.md R261, R263), what goes on after a grant, and the arbiters' commands
(R266 to R281).
-/
namespace Sys2Proof.Machine

/-! ## Requests (R263) -/

/-- The line of a paced stitch lets its next burst be read now. -/
def State.paceNow (s : State) (f : Flight) (x : Stitch) : Bool :=
  match x.line with
  | none => false
  | some l => (s.qctx f.q).bursting && decide (x.paced < x.hi) && f.room x && s.lineGrants l

/-- The next unit of a stitch is staged whole. -/
def Flight.unitStaged (f : Flight) (x : Stitch) : Bool :=
  let b := f.unitEnd x.wr x.hi
  decide (x.wr < x.hi) && (x.line.isNone || decide (b ≤ x.paced)) && (List.range f.e.readers).all (f.hasStaged x b)

/-- A stitch has a burst to issue on resource `res` now: a read, a GET request, a write, or a result block (R263). -/
def State.burstNow (s : State) (f : Flight) (x : Stitch) (res : Nat) : Bool :=
  let reads := (List.range f.e.readers).any (fun k =>
    decide (s.readRes f k = res) && ((f.nextRead x k).isSome || s.paceNow f x))
  let lim := if x.line.isSome then x.paced else x.hi
  let asks := f.e.isGet && decide (res = 2) && (decide (x.asked < lim) || s.paceNow f x)
  let writes := f.e.writes && decide (s.writeRes f = res) && (f.unitStaged x || (f.e.isFill && s.paceNow f x))
  reads || asks || writes || (f.e.isRed && decide (res = 4) && f.unitStaged x)

/-- A stitch has further bursts for resource `res` (R263): reads up to its end, requests and their responses, writes up to its
end. -/
def State.burstLeft (s : State) (f : Flight) (x : Stitch) (res : Nat) : Bool :=
  (List.range f.e.readers).any (fun k =>
      let d := (f.reader k).1
      decide (s.readRes f k = res)
        && decide (f.e.sideOfs d x.wr + (x.stage.getD k []).length + x.outBytes k < f.e.sideOfs d x.hi))
    || (((f.e.writes && decide (s.writeRes f = res)) || (f.e.isGet && decide (res = 2)) || (f.e.isRed && decide (res = 4)))
        && decide (x.wr < x.hi))

/-- Engine `e` requests resource `res`: it has a burst to issue, or keeps the request while its stitch has further ones; not when
the stitch is to end or waits in PACEWAIT (R263). One with an admin stitch requests what that stitch needs. -/
def State.engWants (s : State) (res e : Nat) : Bool :=
  match s.onEngine e with
  | none => match s.adm.eng with
    | some (a, _, l) => decide (a = e) && decide (res ∈ l) && s.run
    | none => false
  | some (f, x) =>
    x.ready && !x.stop && s.run && decide (s.engSt e ≠ 2)
      && (s.burstNow f x res || ((s.holds res e || decide (e ∈ s.candOf res)) && s.burstLeft f x res))

/-- A fragment table of side `d` is to be read: a stitch waits for it, or the entry's turn in its ordering class depends on it
(R76, R112). -/
def State.tableDue (s : State) (f : Flight) (d : Dir) : Bool :=
  s.mayRead f && f.e.ft d && !f.tableDone d
    && (f.stitches.any (fun x => !x.ready && !x.stop)
        || (decide (f.e.ordClass ≠ 0) && decide (f.e.remoteSide = d)
            && (match f.nextUnit with | some u => (f.nodesOf u.1 u.2).isNone | none => false)))

/-- The reads that FETCH has to make: entry fetches, tables and lists, each with its resource (R261). -/
def State.fetchDue (s : State) : List (Nat × SentRead) :=
  (s.queues.filter s.canFetch).map (fun q => (portRes (spaceOf (s.qctx q).device) (s.qctx q).port, .entries q))
    ++ s.fl.flatMap (fun f =>
        (if s.tableDue f .src then [(s.tableRes f .src, .table f.q f.idx .src)] else [])
          ++ (if s.tableDue f .dst then [(s.tableRes f .dst, .table f.q f.idx .dst)] else [])
          ++ (if s.listDue f then [(s.tableRes f .src, .list f.q f.idx)] else []))

/-- FETCH requests: it has a read to make through `res` that is not out yet (R261, R263). -/
def State.fetchWants (s : State) (res : Nat) : Bool := s.fetchDue.any (fun x => decide (x.1 = res) && decide (x ∉ s.arb.sent))

/-- The context fills that CCACHE has to make (R261). -/
def State.fillDue (s : State) : List (Nat × SentRead) := s.sought.map (fun x => (resCstore, .ctx x.1 x.2))

/-- A read goes out if its requester may issue it: it owns a channel, and the port holds one more read (R260, R264, R437). -/
def State.sendRead (s : State) (x : Nat × SentRead) : State :=
  if decide (x ∉ s.arb.sent) && s.owns x.1 x.2.req && s.readRoom x.1 then
    (s.withArb { s.arb with sent := s.arb.sent ++ [x] }).arbBusy x.1 x.2.req
  else s

/-- CPOST puts the record writes out that it may (R260, R264). -/
def State.sendRecs (s : State) : State :=
  forEach ((s.cqs.issued.map (fun y => (s.cctx y.2.c).res)).dedup.filter (fun r => s.owns r 69)) (fun r s =>
    State.arbBusy (s.withCqs { s.cqs with issued := s.cqs.issued.map (fun y =>
      if (s.cctx y.2.c).res = r then (y.1, { y.2 with sent := true }) else y) }) r 69) s

/-- FETCH, CCACHE and CPOST issue the bursts that their channels let them, in every cycle (R260). -/
def State.sendOwn (s : State) : State :=
  if s.run then (forEach (s.fetchDue ++ s.fillDue) (fun x s => s.sendRead x) s).sendRecs else forEach s.fillDue (fun x s => s.sendRead x) s

/-- PSPILL requests: an entry is to park in the spill, or a spilled one may come back or is to be released (R200, R202). -/
def State.parkWants (s : State) : Bool :=
  s.run && (s.fl.any (fun f => (decide (f.phase = .fetched) || decide (f.phase = .waitPark)) && f.e.waitEn
      && !s.chipSlot (ctrIdx f.q f.e.waitCtr) && decide (s.park.spill.length < parkSpillSlots))
    || (decide (s.park.onChip.length < parkSlots) && s.park.spill.any s.mayComeBack) || s.park.spill.any s.waiterHolds)

/-- Requester `req` requests resource `res` (R261, R263); `cob` is the wire of Cobbler's core. -/
def State.requests (s : State) (res : Nat) (cob : Bool) (req : Nat) : Bool :=
  if req < 68 then s.engWants res req
  else match req with
    | 68 => s.fetchWants res
    | 69 => s.cqs.issued.any (fun y => decide ((s.cctx y.2.c).res = res)) && !s.pair.hard
    | 70 => !s.sought.isEmpty || !s.cache.backs.isEmpty
    | 71 => s.parkWants
    | 73 => if res = resLace then (s.laceNext 73).isSome
        else s.run && ((s.chipFull && s.oldestOnChip.isSome) || (s.laceUp && (List.range 3).any (fun v => (s.refillNext v).isSome)))
    | 75 => if res = 4 then !s.arb.folds.isEmpty else s.arb.folds.any (fun y => decide (y.res = res))
    | 76 => s.run && !s.trace.failed && decide (0 < s.copyLen) && (decide (res = resCstore) || decide (s.traceRes = res))
    | 77 => !s.err.now.isEmpty || !s.err.wait.isEmpty || !s.err.reads.isEmpty
    | 78 => cob
    | _ => (s.laceNext req).isSome

/-- The requests that a phase of resource `res` samples (R266). -/
def State.raised (s : State) (res : Nat) (cob : Bool) : List Nat :=
  (List.range 80).filter (fun r => arbListed res r && s.requests res cob r)

/-! ## What a grant sets going -/

/-- Owners of a resource use their channels: the engines in turn, one burst each (R260); FETCH, CCACHE and CPOST issue theirs, the error
log is served, contexts are written back, the link's owner sends. -/
def State.wake (s : State) (res : Nat) : State :=
  let s := (s.turns stageBursts res).sendOwn
  let s := if res = resCstore then s.serveElog.serveBacks else s
  if res = resLace then s.pump else s

/-- All owners of a resource use their channels, FOLD with what waits for it. -/
def State.wakeAll (s : State) (res : Nat) : State :=
  let s := s.wake res
  s.serveFolds s.arb.folds.length

/-- A phase of a resource within a work entry's own command, which leaves FOLD to the next phase that is commanded (log entry
6). -/
def State.phaseOf (s : State) (res : Nat) (cob : Bool) : State := (s.arbPhase res (s.raised res cob) (s.inFlight res)).wake res

/-- ARB_PHASE. -/
def execArbPhase (res : Nat) (cob : Bool) (s : State) : Res :=
  guarded (decide (res < 7)) s ((s.arbPhase res (s.raised res cob) (s.inFlight res)).wakeAll res)

/-- The channel passes to its candidate `x`, and the victim becomes a candidate (R268); trace event 0x11 stands for the grant
(R152). -/
def State.takeChannel (s : State) (res c : Nat) (o : Owner) (x : Nat) : State :=
  let s := (s.freeChannel res c).giveChannel res c x
  let s := s.setCand res (s.candOf res ++ (if s.halted then [] else [o.req]))
  (s.cnt (ARB_STAT_takes res)).traceEv 2 0x11 res (s.rankOf res x) o.req x

/-- CHANNEL_TAKE: the victim is at a break point, with no burst in flight on the resource, and the channel passes (R259, R264,
R268). -/
def execChannelTake (res c : Nat) (s : State) : Res :=
  match s.ownerOf res c with
  | some o =>
    match o.take with
    | some x =>
      if x ∈ s.candOf res ∧ c ∈ s.channels res ∧ ¬ s.inFlight res o.req then .next ((s.takeChannel res c o x).wakeAll res)
      else .next s
    | none => .next s
  | none => .next s

/-- The fold that FOLD has in hand on a resource: the oldest that waits, on a port the oldest that goes through it. -/
def State.foldInHand (s : State) (res : Nat) : Option WaitFold := s.arb.folds.find? (fun w => decide (res = 4) || decide (w.res = res))

/-- The fault that a watchdog bite on resource `res` brings its requester (R270). -/
def State.faultRequester (s : State) (res req : Nat) : State :=
  if req < 68 then s.failEng req 1
  else match req with
    | 75 => match s.foldInHand res with
      | none => s
      | some w => State.refuseFold (s.withArb { s.arb with folds := s.arb.folds.erase w }) 5
    | 76 => (((s.setF TB_TRACE_CFG_on 0)).withTrace { s.trace with failed := true, access := true })
    | 78 => s.emit (.cobError none)
    | _ => if s.halted && decide (0 < s.pair.haltLeft) then s.hardHalt 0xFF else s.halt 2 0 0 0

/-- WDOG_BITE: the idle count of a channel has reached its limit: the channel is taken, and its owner is faulted (R269, R270). Every fault
but COB's is handled with the bite; COB is refused until its request drops (log entry 23). -/
def execWdogBite (res c : Nat) (s : State) : Res :=
  match s.ownerOf res c with
  | some o =>
    if 2 ^ s.f (ARB_CTL_wdog_log2 res) ≤ o.idle ∧ res < 7 ∧ ¬ s.pair.hard then
      let s := (s.freeChannel res c).cnt (ARB_STAT_wdog_bites res)
      let s := if o.req = 78 then s.withArb { s.arb with refused := s.arb.refused ++ [(res, o.req)] } else s
      let s := ((s.setF ARB_WDOG_LAST_res res).setF ARB_WDOG_LAST_req o.req).cnt ARB_WDOG_LAST_count
      let s := s.traceEv 2 0x12 res 0 o.req o.idle
      let s := (s.log 0x0A 3 res 0 o.req o.idle).raise 41
      .next (s.faultRequester res o.req)
    else .next s
  | none => .next s

/-- ARB_COMMIT: a write of commit bits (R276). -/
def execArbCommit (w : W64) (s : State) : Res :=
  guarded s.served s (s.setF ARB_COMMIT_pending (s.f ARB_COMMIT_pending ||| bits w.toNat 0 7))

/-- ARB_FREEZE: a write of ARB_CTL.freeze (R271). -/
def execArbFreeze (res : Nat) (on : Bool) (s : State) : Res :=
  guarded (s.served && decide (res < 7)) s (s.setF (ARB_CTL_freeze res) (b2n on))

/-- The shadow slot table and slot_log2 become active (R281). -/
def State.applySlots (s : State) (res : Nat) : State :=
  let s := (List.range 256).foldl (fun s i => s.setF (ARB_SLOT_active res i) (s.f (ARB_SLOT_req res i))) s
  (s.setF (ARB_SLOT_CFG_active_log2 res) (s.f (ARB_SLOT_CFG_slot_log2 res))).setF (ARB_SLOT_CFG_pending res) 0

/-- SLOT_ADVANCE: the next slot becomes current; at slot 0 a pending table becomes active (R279 to R281). -/
def execSlotAdvance (res : Nat) (s : State) : Res :=
  if res < 7 then
    let p := s.f (ARB_SLOT_CFG_position res)
    let s := s.setF (ARB_SLOT_CFG_position res) ((p + 1) % 256)
    let s := if p = 255 then
        let s := s.cnt (ARB_SLOT_CFG_wraps res)
        if s.fb (ARB_SLOT_CFG_pending res) then s.applySlots res else s
      else s
    .next (forEach (s.owned res) (fun x s =>
      s.setOwner res x.1 (some { x.2 with slot := s.bySlot res x.2 })) s)
  else .next s

/-- SLOT_COMMIT: a write of 1 to ARB_SLOT_CFG.commit (R281). -/
def execSlotCommit (res : Nat) (s : State) : Res := guarded (s.served && decide (res < 7)) s (s.setF (ARB_SLOT_CFG_pending res) 1)

end Sys2Proof.Machine
end

