-- ==== Sys2Proof/Machine/InService.lean ====
section
/-!
DEFINITION. The error log's registers, background BIST and repair rows, unit failures, and testing in service
(14_faults_spares_and_in_service_test.md R414, R421 to R433).
-/
namespace Sys2Proof.Machine

/-! ## The error log (R414) -/

/-- Consume records; a value that R134 would refuse is discarded and counted. -/
def State.writeErrCi (s : State) (v : W32) : State :=
  let p := BitVec.ofNat 32 (s.f ERR_LOG_PI_pi)
  let c := BitVec.ofNat 32 (s.f ERR_LOG_CI_ci)
  if idxDiff p v ≤ idxDiff p c then s.setF ERR_LOG_CI_ci v.toNat else s.cnt ERR_LOG_STAT_ci_bad

/-- ERR_LOG_CI: a write to ERR_LOG_CI. -/
def execErrLogCi (v : W32) (s : State) : Res :=
  guarded s.served s (s.writeErrCi v)

/-- ERR_LOG_READ: a read of ERR_LOG_RD[w]; it waits while CSTORE is frozen (R273, R414). -/
def execErrLogRead (w : Fin 4) (s : State) : Res :=
  guarded s.served s (s.beginRead.readErrWord none w.val 0 64)

/-! ## Arrays and repair rows (R426, R427, R433) -/

/-- Context-cache banks in service. -/
def State.banksIn (s : State) : Nat := ((List.range 16).filter (fun b => !s.bankRetired b)).length

/-- Write the ways of bank `b` back whose locks have cleared: they leave the cache. A pin holds none (R45, R427). -/
def State.emptyBank (s : State) (b : Nat) : State :=
  let stay (x : Nat × List Nat) : List Nat := x.2.filter (s.wayLocked (kindOfKey x.1))
  let go (x : Nat × List Nat) : List (CtxKind × Nat) :=
    (x.2.filter (fun n => !s.wayLocked (kindOfKey x.1) n)).map (fun n => (kindOfKey x.1, n))
  let l := s.cache.ways.filter (fun x => decide (bankOfKey x.1 = b))
  let t := s.withCache { s.cache with backs := s.cache.backs ++ l.flatMap go }
  forEach l (fun x s => s.withCache { s.cache with ways := Tbl.set (fun _ => []) s.cache.ways x.1 (stay x) }) t

/-- Bank `b` holds no context, and none of its contexts is still to be written back. -/
def State.bankEmpty (s : State) (b : Nat) : Bool :=
  s.cache.ways.all (fun x => decide (bankOfKey x.1 ≠ b)) && s.cache.backs.all (fun x => decide (x.2 % 16 ≠ b))

/-- Banks that are to retire: their ways are written back as the locks clear, and a bank with none left reads retired (R427). -/
def State.retireBanks (s : State) : State :=
  forEach s.spr.retiring (fun b s =>
    let s := s.emptyBank b
    if s.bankEmpty b then
      let s := (s.withSpr { s.spr with retiring := s.spr.retiring.filter (fun x => decide (x ≠ b)) }).setF (SPR_ARRAY_retired b) 1
      (s.log 0x22 4 b 3 s.banksIn 0).raise 46
    else s) s

/-- A row of array 18 is taken out of use (R427). -/
def State.rowOut (s : State) : State := s.setF (SPR_ARRAY_rows_out 18) (s.f (SPR_ARRAY_rows_out 18) + 1)
/-- Only 128 rows of array 18 are left in use (R427). -/
def State.lastRows (s : State) : Bool := decide (arrayRows 18 - s.f (SPR_ARRAY_rows_out 18) ≤ 128)

/-- A row fails (R427): repaired while a repair row is left; then an array runs on under ECC, the replay buffer shrinks, or the
bank is retired. `fatal`: the row's failure is not a fatal error already. -/
def State.rowFails (s : State) (a row : Nat) (fatal : Bool := true) : State :=
  let used := s.f (SPR_ARRAY_repair_used a)
  if used < 8 then (s.setF (SPR_ARRAY_repair_used a) (used + 1)).log 0x23 0 a 0 row (used + 1)
  else if a < 16 then
    if s.bankRetired a ∨ a ∈ s.spr.retiring then s
    else
      let s := s.log 0x20 4 a (3 + 7 * 16) 0 0
      State.retireBanks (s.withSpr { s.spr with retiring := s.spr.retiring ++ [a] })
  else if a = 18 then
    if !s.lastRows then s.rowOut else if fatal then s.fatal 0x02 18 row 0 else s
  else s

/-- The stored copy of a context differs from the cached one (R417). DEDUCED (log entry 68): that is what dirty means. -/
def State.dirty (s : State) (k : CtxKind) (n : Nat) : Bool :=
  if n < ctxCount k / 2 then
    let b := s.ctxBytes k n
    decide (s.pkgBytes (s.pat.csBase + ctxOffset k n) b.length ≠ b)
  else
    let b := s.ctxBytes k n
    decide (s.mirrorBase = 0) || decide (s.pkgBytes (s.mirrorBase + ctxOffset k n) b.length ≠ b)

/-- An uncorrectable error in use in the way of a cached context (R417, R427): fatal where the way is dirty, else it is discarded, counted
as corrected, and fetched again; then its row fails. The way's number is a free value (log entry 68). -/
def State.lostContext (s : State) (k : CtxKind) (n row : Nat) : State :=
  let b := n % 16
  if s.hot k n then
    let t := if s.dirty k n then
        State.fatal (s.withFree (s.free + 1)) 0x01 b (n / 16 % cacheSets k) ((Config.freeWord s.free).toNat % 16)
      else ((s.chill k n).cnt (SPR_ARRAY_corrected b)).prefetch k n
    t.rowFails b row
  else s

/-- An uncorrectable error in use in row `row` of array `a` of 16 to 23: fatal, and then its row fails (R417, R427). -/
def State.lostRow (s : State) (a row : Nat) : State := (s.fatal 0x02 a row 0).rowFails a row false

/-- The array after `a` whose rows BIST tests: rows of a retired bank are skipped (R433). -/
def State.nextArray (s : State) (a : Nat) : Nat :=
  (((List.range 24).map (fun k => (a + 1 + k) % 24)).find? (fun x => !(decide (x < 16) && s.bankRetired x))).getD 16

/-- Background BIST tests the next row (R433); not in HELD, nor from the start of a halt (R335). -/
def State.bistNext (s : State) (faulty : Bool) : State :=
  if s.fb SPR_POLICY_bist_en ∧ s.run then
    let a0 := s.spr.array
    let skip := decide (a0 < 16) && s.bankRetired a0
    let a := if skip then s.nextArray a0 else a0
    let row := if skip then 0 else s.spr.row
    let s := if row + 1 < arrayRows a then (s.withSpr { s.spr with array := a, row := row + 1 })
      else s.withSpr { s.spr with array := s.nextArray a, row := 0 }
    if faulty then (s.cnt (SPR_ARRAY_bist_fail a)).rowFails a row else s
  else s

/-- BIST_ROW: BIST tests the next row, or an access in use meets an error in a row (R417, R427, R433; log entry 68). -/
def execBistRow (found : RowReport) (s : State) : Res :=
  if 7 ≤ s.phase then
    match found with
    | .sound => .next (s.bistNext false)
    | .faulty => .next (s.bistNext true)
    | .corrected a => .next (s.cnt (SPR_ARRAY_corrected a))
    | .lostContext k n row => .next (s.lostContext k n row)
    | .lostRow a row => .next (s.lostRow a row)
  else .next s

/-! ## Unit failures -/

/-- A unit that is not in service fails: it is retired, and no capacity is lost with it (R421, R424). -/
def State.failOut (s : State) (red : Bool) (u reason : Nat) : State :=
  let s := s.log 0x20 4 u (b2n red + reason * 16) 0 0
  if red then (s.dropShadow u).retireRed u reason else s.retireEng u reason

/-- CONTROL_STATE_PARITY_ERROR: the unit fails with reason 2 (R421); the fold that a folding unit has in hand is refused (R423). -/
def execControlStateParityError (red : Bool) (u : Nat) (s : State) : Res :=
  let n := if red then 17 else 68
  let st := if red then s.redSt u else s.engSt u
  if s.run ∧ u < n ∧ st ≠ 7 then
    .next (if (if red then redInService st else engInService st) then
        (if red then (if st = 2 then s.refuseHand else s).failRed u 2 else s.failEng u 2)
      else s.failOut red u 2)
  else .next s

/-! ## Tests in service (R430 to R432) -/

/-- Accept a write of SPR_TEST_CMD when the key is right, no test runs and the precondition `pre` holds; else it is refused
(R430). -/
def State.testCmd (s : State) (w : W64) (pre : Bool) (start : State → State) : State :=
  if decide (bits w.toNat 16 16 = 0x5A17) && !s.fb SPR_TEST_STAT_busy && s.run && pre then start s
  else s.setF SPR_TEST_STAT_result 3

/-- A test starts on `unit`. -/
def State.testBegin (s : State) (kind unit former : Nat) (online : Bool) : State :=
  let s := ((s.setF SPR_TEST_STAT_busy 1).setF SPR_TEST_STAT_kind kind).setF SPR_TEST_STAT_result 0
  let s := if kind = 3 then s else (s.setF SPR_TEST_STAT_errors 0).setReg SPR_TEST_BITS 0
  (s.withSpr { s.spr with unit := unit, former := former, online := online })

/-- The unit field of SPR_TEST_CMD. -/
def testUnit (w : W64) : Nat := bits w.toNat 3 7
/-- The online bit of SPR_TEST_CMD. -/
def testOnline (w : W64) : Bool := bit w.toNat 40

/-- A write of kind 0: an OFFLINE engine tests itself. -/
def State.engTest (s : State) (w : W64) : State :=
  let u := testUnit w
  s.testCmd w (decide (u < 68) && decide (s.engSt u = 5)) (fun s => (s.setEng u 6).testBegin 0 u 5 (testOnline w))

/-- A write of kind 1: an OFFLINE or SPARE reduction unit tests itself. -/
def State.redTest (s : State) (w : W64) : State :=
  let u := testUnit w
  let st := s.redSt u
  s.testCmd w (decide (u < 17) && (decide (st = 5) || decide (st = 4))) (fun s => (s.setRed u 6).testBegin 1 u st (testOnline w))

/-- The shadow of SPR_TEST_CMD. -/
def testShadow (w : W64) : Nat := bits w.toNat 10 5

/-- A write of kind 2: a shadow starts when the self-test of its unit passes (R431). -/
def State.shadowTest (s : State) (w : W64) (selfTest : Bool) : State :=
  let u := testUnit w
  let x := testShadow w
  let st := s.redSt x
  let pre := decide (u < 17) && decide (s.redSt u ≤ 2) && decide (x < 17) && (decide (st = 4) || decide (st = 5)) && s.spr.shadow.isNone
  s.testCmd w pre (fun s =>
    let s := s.testBegin 2 u st false
    if selfTest then
      let s := (s.setF SPR_TEST_STAT_busy 0).setRed x 6
      (s.withSpr { s.spr with shadow := some (u, x, st) })
    else s.endTest 2 0 0)

/-- A write of kind 3: the running shadow stops (R430). -/
def State.shadowEnd (s : State) (w : W64) : State :=
  let u := match s.spr.shadow with | some x => x.1 | none => 0
  s.testCmd w s.spr.shadow.isSome (fun s => s.testBegin 3 u 0 false)

/-- A write of kind 4: the spare lane is tested, near-end or far-end (R432). -/
def State.laneTestCmd (s : State) (w : W64) : State :=
  let u := testUnit w
  s.testCmd w (decide (u < 9) && decide (s.f (LACE_LANE_tx_use u) = 1) && decide (bits w.toNat 32 8 ≠ 0)) (fun s =>
    let s := (s.setF (LACE_LANE_tx_use u) 3).testBegin 4 u 1 false
    s.withSpr { s.spr with far := bit w.toNat 15, heard := { chk := none, errors := 0, bits := 0 } })

/-- The resource is frozen and drained (R284). -/
def State.drainedRes (s : State) (r : Nat) : Bool := s.fb (ARB_CTL_freeze r) && (s.owned r).isEmpty

/-- A write of kind 5: a frozen, drained resource is looped back. -/
def State.portTestCmd (s : State) (w : W64) : State :=
  let u := testUnit w
  s.testCmd w (decide (u < 7) && s.drainedRes u) (fun s => s.testBegin 5 u 0 false)

/-- A write of SPR_TEST_CMD whose kind is `k`. -/
def testKind (w : W64) (k : Nat) : Bool := decide (bits w.toNat 0 3 = k)

/-- ENGINE_SELF_TEST. -/
def execEngineSelfTest (w : W64) (s : State) : Res := guarded (s.served && testKind w 0) s (s.engTest w)
/-- REDUCTION_SELF_TEST. -/
def execReductionSelfTest (w : W64) (s : State) : Res := guarded (s.served && testKind w 1) s (s.redTest w)
/-- SHADOW_START. -/
def execShadowStart (w : W64) (selfTest : Bool) (s : State) : Res := guarded (s.served && testKind w 2) s (s.shadowTest w selfTest)
/-- SHADOW_STOP. -/
def execShadowStop (w : W64) (s : State) : Res := guarded (s.served && testKind w 3) s (s.shadowEnd w)
/-- LANE_TEST. -/
def execLaneTest (w : W64) (s : State) : Res := guarded (s.served && testKind w 4) s (s.laneTestCmd w)
/-- PORT_TEST. -/
def execPortTest (w : W64) (s : State) : Res := guarded (s.served && testKind w 5) s (s.portTestCmd w)

/-- The state of a unit that a test brings into service: IDLE while its kind has room, else SPARE (R424). -/
def State.backState (s : State) (red : Bool) : Nat :=
  if (if red then decide (s.redActive < 16) else decide (s.engActive < 64)) then 0 else 4

/-- What the end of a test does to its unit (R430). -/
def State.testUnitEnd (s : State) (pass : Bool) : State :=
  let u := s.spr.unit
  match s.f SPR_TEST_STAT_kind with
  | 0 =>
    if s.engSt u ≠ 6 then s
    else if pass then s.setEng u (if s.spr.online then s.backState false else 5)
    else s.failOut false u 4
  | 1 =>
    if s.redSt u ≠ 6 then s
    else if pass then s.setRed u (if s.spr.online then s.backState true else s.spr.former)
    else s.failOut true u 4
  | 3 => match s.spr.shadow with
    | some (_, x, former) => State.setRed (s.withSpr { s.spr with shadow := none }) x former
    | none => s
  | 4 =>
    if pass ∨ ¬ s.fb SPR_POLICY_lane_retire then s.setF (LACE_LANE_tx_use u) 1
    else (s.retireLane u).setF (LACE_LANE_tx_use u) 2
  | _ => s

/-- Bit errors and bits checked that a lane test reports: those of the near end are the row's; those of the far end, whose symbols pass
through the receive lane, are counted as they come, and the row's are added (R432; log entry 55). -/
def State.laneReport (s : State) (errors : W32) (checked : W64) : Nat × W64 :=
  if s.spr.far then (min (2 ^ 32 - 1) (errors.toNat + s.spr.heard.errors), checked + BitVec.ofNat 64 s.spr.heard.bits)
  else (errors.toNat, checked)

/-- A lane test ends, and passes when no bit error was found; a lane that it retires and that carries data is recovered from (R428,
R430, R432). -/
def State.laneTestEnd (s : State) (errors : Nat) (checked : W64) : State :=
  let pass := decide (errors = 0)
  let t := (s.testUnitEnd pass).endTest (if pass then 1 else 2) errors checked
  if !pass && s.fb SPR_POLICY_lane_retire && s.rxData s.spr.unit then t.recover else t

/-- TEST_DONE: the running test ends (R430). Shadow stop reports the mismatches counted. -/
def execTestDone (pass : Bool) (errors : W32) (checked : W64) (s : State) : Res :=
  if s.fb SPR_TEST_STAT_busy ∧ s.run then
    match s.f SPR_TEST_STAT_kind with
    | 3 => .next ((s.testUnitEnd pass).endTest 1 (s.f SPR_TEST_STAT_errors) checked)
    | 4 =>
      let r := s.laneReport errors checked
      .next (s.laneTestEnd r.1 r.2)
    | _ => .next ((s.testUnitEnd pass).endTest (if pass then 1 else 2) errors.toNat checked)
  else .next s

end Sys2Proof.Machine
end

