-- ==== Sys2Proof/Machine/AdmWq.lean ====
section
/-!
DEFINITION. Admin commands on work queues (08_admin_queue.md R242 to R248, R252).
-/
namespace Sys2Proof.Machine

/-! ## CREATE_WQ, MODIFY_WQ, QUERY_WQ -/

/-- Pinned queue contexts in the set of queue `q`, itself left out (R46). -/
def State.pinsBeside (s : State) (q : Nat) : Nat :=
  (s.queues.filter (fun x => decide (cacheKey .queue x = cacheKey .queue q) && decide (x ≠ q) && (s.qctx x).pin)).length

/-- What refuses CREATE_WQ (R242). -/
def State.judgeCreateWq (s : State) (w : List W64) : List (Bool × Nat) :=
  let q := admF w 2 0 21
  let base := admF w 1 0 64
  let cqid := admF w 3 0 18
  let pd := admF w 4 0 16
  let cls := admF w 4 16 2
  let dev := bit (w.getD 4 0).toNat 18
  let k := admF w 4 22 5
  let l := admF w 4 27 5
  let x := s.cctx cqid
  [ (decide (q = 0) || (decide (cls = 2) && decide (q < 8)) || decide (cqid = 0), 0x01),
    (decide (cls = 0) || decide (cls = 3) || decide (admF w 4 20 2 = 3) || decide (k < 4) || decide (20 < k)
      || decide (l < 12) || decide (20 < l) || decide (base % 4096 ≠ 0) || (dev && s.reserved base (2 ^ k * 64))
      || (decide (cls = 2) && !bit (w.getD 4 0).toNat 38), 0x02),
    (decide ((s.qctx q).state ≠ .free), 0x03),
    (!s.pdOf pd || decide (x.state = .free) || decide (x.state = .broken) || decide (x.state = .destroying), 0x04),
    (decide (x.state ≠ .free) && decide (x.pd ≠ pd), 0x07),
    (bit (w.getD 4 0).toNat 37 && decide (8 ≤ s.pinsBeside q), 0x08),
    (decide (admF w 4 20 2 ≠ 0) && !s.laceUp, 0x0B) ]

/-- The context that CREATE_WQ sets up (R19, R26, R241). -/
def newQueue (w : List W64) (mt : W64) : QCtx :=
  let i := BitVec.ofNat 32 (admF w 2 32 32)
  { QCtx.zero with
    state := .ready, cls := QClass.ofNum (admF w 4 16 2), device := bit (w.getD 4 0).toNat 18, echk := bit (w.getD 4 0).toNat 19,
    mirror := MirrorMode.ofNum (admF w 4 20 2), sizeLog2 := admF w 4 22 5, stitchLog2 := admF w 4 27 5, rank := admF w 4 32 4,
    hostpSel := bit (w.getD 4 0).toNat 36, pin := bit (w.getD 4 0).toNat 37, pasidValid := bit (w.getD 4 0).toNat 38,
    ringBase := w.getD 1 0, pasid := admF w 3 32 20, pd := admF w 4 0 16, cqid := admF w 3 0 18,
    pi := i, snap := i, fetch := i, ci := i, mirroredCi := i, createdMt := mt }

/-- Carry out CREATE_WQ (R243, R341, R351). -/
def State.doCreateWq (s : State) (w : List W64) : State × Nat :=
  let q := admF w 2 0 21
  let s := s.touchBlock (storeBlock (ctxOffset .queue q))
  ((s.changeMirror q (fun _ => newQueue w s.mt)).warm .queue q, 0)

/-- CREATE_WQ. -/
def execCreateWq (st : Stream) (s : State) : Res := .next (s.oneStitch st 0x01 State.judgeCreateWq State.doCreateWq)

/-- What refuses MODIFY_WQ (R242, R348). -/
def State.judgeModifyWq (s : State) (w : List W64) : List (Bool × Nat) :=
  let q := admF w 2 0 22
  let c := s.qctx q
  let l := admF w 3 8 5
  let m := (w.getD 3 0).toNat
  [ (decide (q = 0), 0x01),
    (bit m 1 && (decide (l < 12) || decide (20 < l)), 0x02),
    (decide (c.state = .free), 0x04),
    (decide (c.state = .destroying), 0x06),
    (bit m 2 && bit m 16 && !c.pin && decide (8 ≤ s.pinsBeside q), 0x08) ]

/-- The stop field of MODIFY_WQ (R244). -/
def QCtx.setStop (c : QCtx) (stop : Bool) : QCtx :=
  match c.state with
  | .ready => if stop then { c with state := .stopped, stopReq := true } else c
  | .stopped => if stop then c else { c with stopReq := false, state := if c.cqStall then .stopped else .ready }
  | _ => c

/-- Carry out MODIFY_WQ (R244, R351). -/
def State.doModifyWq (s : State) (w : List W64) : State × Nat :=
  let q := admF w 2 0 22
  let m := (w.getD 3 0).toNat
  let s := s.updQ q (fun c =>
    let c := if bit m 0 then { c with rank := admF w 3 4 4 } else c
    let c := if bit m 1 then { c with stitchLog2 := admF w 3 8 5 } else c
    let c := if bit m 2 then { c with pin := bit m 16 } else c
    if bit m 3 then c.setStop (bit m 17) else c)
  (s.snapQ q, 0)

/-- MODIFY_WQ. -/
def execModifyWq (st : Stream) (s : State) : Res := .next (s.oneStitch st 0x03 State.judgeModifyWq State.doModifyWq)

/-- `q` is a mirrored queue of the fellow before takeover (R348). -/
def State.fellowQueue (s : State) (q : Nat) : Bool :=
  isAdopted q && decide ((s.qctx q).state = .free) && decide (s.f PAIR_STAT_phase < 2) && s.present (q % 2 ^ 21)

/-- The bytes that QUERY_WQ writes: a mirrored queue of the fellow before takeover shows its mirrored context, and one that was
adopted and destroyed since reads as zero (R246, R348). -/
def State.queryWqBytes (s : State) (w : List W64) : List Byte :=
  let q := admF w 2 0 22
  let c := if s.fellowQueue q then { s.mqOf (q % 2 ^ 21) with adopted := true } else s.qctx q
  wordBytes c.words ++ List.replicate 48 0

/-- Run a QUERY command: one stitch, with the response written to resp_addr through a channel of its port, or failing: `some true` is
turned away by its port and counted there, `some false` is a write error (R242, R246, R260, R489). -/
def State.query (s : State) (st : Stream) (op : Nat) (judge : List W64 → List (Bool × Nat)) (bytes : State → List W64 → List Byte)
    (space : List W64 → Nat) (fail : Option Bool) : State :=
  match s.admCmd st op with
  | none => s
  | some o =>
    if s.admMay st then
      let w := o.cmd.words
      let needs := if (refuse (judge w)).isNone then [portRes (space w) (s.f ADM_CFG_hostp_sel)] else []
      (s.openAdm st o).cmdStitch st o needs (fun s =>
        match refuse (judge w) with
        | some c => s.admDone st o c 0
        | none =>
          let b := bytes s w
          let a := admF w 1 0 64
          match fail with
          | some true => (s.portReject (space w) (s.f ADM_CFG_hostp_sel)).admDone st o 0x0D 0
          | some false => s.admDone st o 0x0D 0
          | none =>
          if space w = 1 ∧ s.pkgOut a b.length then (s.cnt IZ_MEMP_STAT_addr_err).admDone st o 0x0D 0
          else (s.writeBytes (space w) none a b false).admDone st o 0 0)
    else s

/-- What refuses QUERY_WQ. -/
def judgeQueryWq (w : List W64) : List (Bool × Nat) := [(decide (admF w 1 0 64 % 64 ≠ 0), 0x02)]

/-- QUERY_WQ, its response stored, or failing: turned away at its port, or not stored by memory. -/
def State.queryWq (s : State) (st : Stream) (fail : Option Bool) : State :=
  s.query st 0x05 judgeQueryWq State.queryWqBytes (fun w => admF w 2 32 1) fail

/-- QUERY_WQ. -/
def execQueryWq (st : Stream) (s : State) : Res := .next (s.queryWq st none)

/-! ## DESTROY_WQ (R248) -/

/-- What refuses DESTROY_WQ (R242). -/
def State.judgeDestroyWq (s : State) (w : List W64) : List (Bool × Nat) :=
  let q := admF w 2 0 22
  [ (decide (q = 0), 0x01),
    (decide ((s.qctx q).state = .free), 0x04),
    (decide ((s.qctx q).state = .destroying), 0x06) ]

/-- A flight that has not started, parked entries left out. -/
def Phase.unstarted : Phase → Bool
  | .fetched | .waitPark | .startable => true
  | _ => false

/-- Discard takes effect (R248, step 3): started entries not at data done are to post DISCARDED, entries not yet started are
gone, and [F, S) is never fetched. -/
def State.discard (s : State) (q : Nat) (cut : Bool) : State :=
  let c := s.qctx q
  let n := ((s.flsOf q).filter (fun f => f.phase.unstarted)).length + idxDiff c.snap c.fetch
  let s := s.setQ q { c with destroy := .discard, drainCut := cut, withdrawn := c.withdrawn + n }
  let l := (s.flsOf q).filter (fun f => decide (f.phase = .started))
  let s := s.withFl (updWhere (fun f => decide (f.q = q) && f.phase.unstarted) (fun (f : Flight) => { f with phase := .released }) s.fl)
  let s := forEach l (fun f s =>
    let stop (x : Stitch) : Stitch := if boundByR91 c f.e then x else { x with stop := true }
    let s := s.updFl q f.idx (fun (g : Flight) =>
      if g.status = stMalformed then g
      else { g with status := stDiscarded, failOfs := 0, ended := true, redExc := false, stitches := g.stitches.map stop })
    s.settle q f.idx) s
  s.advanceCi q

/-- What is left of a destroyed queue's entries and records stays under a number that no queue has. -/
def State.detach (s : State) (q : Nat) : State :=
  let d := q + 2 ^ 22 * (s.arb.stamp + 1)
  let re (h : Held) : Held := if h.q = q then { h with q := d } else h
  let k := s.cqs
  let fl := (s.fl.filter (fun f => !(decide (f.q = q) && decide (f.phase ≠ .recWait)))).map (fun (f : Flight) =>
    if f.q = q then { f with q := d } else f)
  let rings := s.pair.ringWait.filter (fun x => decide (x.1 ≠ q))
  ((((s.withFl fl).withArb { s.arb with stamp := s.arb.stamp + 1 }).withPair { s.pair with ringWait := rings }).withCqs { spill := k.spill.map re, waiting := k.waiting.map re, issued := k.issued.map (fun x => (x.1, re x.2)), wbs := k.wbs })

/-- Unbind the line of queue `q`, which has no stitch bound, if it has one (R113, R247). -/
def State.unbindLine (s : State) (q : Nat) : State := if (s.qctx q).rlBind then s.setLine q none else s

/-- The queue becomes FREE (R247, R248, R351, R372). -/
def State.freeQueue (s : State) (q : Nat) : State :=
  let s := (s.unbindLine q).detach q
  let s := (s.changeMirror q (fun _ => QCtx.zero)).setQ q QCtx.zero
  let s := s.chill .queue q
  if isAdopted q then s.dropAdopted q else s

/-- The last stitch of DESTROY_WQ. -/
def State.destroyEnd (s : State) (st : Stream) (o : AdmOpen) : State :=
  let q := admF o.cmd.words 2 0 22
  let c := s.qctx q
  s.cmdStitch st o [] (fun s => (s.freeQueue q).admDone st o (if c.drainCut then 0x0E else 0) c.withdrawn)

/-- The first stitch of DESTROY_WQ (R248, steps 1 to 3). DESIGN CHOICE (log entry 74): with drain_limit 0 and CI = S already, step 4
follows with SUCCESS. -/
def State.destroyBegin (s : State) (st : Stream) (o : AdmOpen) : State :=
  let w := o.cmd.words
  let q := admF w 2 0 22
  match refuse (s.judgeDestroyWq w) with
  | some c => s.admDone st o c 0
  | none =>
    let c := s.qctx q
    let now := bit (w.getD 2 0).toNat 32
    let cut := !now && decide (admF w 3 0 32 = 0) && decide (c.ci ≠ c.snap)
    let s := s.setQ q { c with state := .destroying, destroy := if c.state = .quarantined then .frozen else .wait, withdrawn := 0,
                               drainCut := false }
    if now || cut then
      let s := s.discard q cut
      s.setAdm st (some { o with begun := true, phase := 1, total := (s.parkedOf q).length })
    else s.setAdm st (some { o with begun := true, phase := 2 })

/-- A later stitch: withdraw up to 2,048 parked entries, or free the queue (R248). -/
def State.destroyNext (s : State) (st : Stream) (o : AdmOpen) : State :=
  let q := admF o.cmd.words 2 0 22
  let c := s.qctx q
  if c.destroy = .discard then
    let l := (s.parkedOf q).take 2048
    if !l.isEmpty then
      s.cmdStitch st o [] (fun s =>
        let s := forEach l (fun i s => (s.unpark q i).updFl q i (fun f => { f with phase := .released })) s
        let s := (s.updQ q (fun c => { c with withdrawn := c.withdrawn + l.length })).advanceCi q
        s.setAdm st (some { o with done := o.done + l.length }))
    else if s.mayFree q then s.destroyEnd st o else s
  else if c.ci = c.snap ∧ s.mayFree q then s.destroyEnd st o
  else s

/-- DESTROY_WQ: its next stitch. -/
def execDestroyWq (st : Stream) (s : State) : Res :=
  match s.admCmd st 0x02 with
  | none => .next s
  | some o =>
    if s.admMay st then
      .next (if o.begun then s.destroyNext st o else (s.openAdm st o).cmdStitch st o [] (fun s => s.destroyBegin st o))
    else .next s

/-- DESTROY_DRAIN_TIMEOUT: drain_limit has passed with entries left, and discard takes effect (R248). -/
def execDestroyDrainTimeout (st : Stream) (s : State) : Res :=
  match s.admCmd st 0x02 with
  | none => .next s
  | some o =>
    let q := admF o.cmd.words 2 0 22
    if s.run ∧ o.phase = 2 ∧ (s.qctx q).ci ≠ (s.qctx q).snap then
      let t := s.discard q true
      .next (t.setAdm st (some { o with phase := 1, total := (t.parkedOf q).length }))
    else .next s

/-! ## RESUME_WQ (R252) -/

/-- What refuses RESUME_WQ (R242); a mirrored queue of the fellow is no object before takeover (R348). -/
def State.judgeResumeWq (s : State) (w : List W64) : List (Bool × Nat) :=
  let c := s.qctx (admF w 2 0 22)
  [ (bit (w.getD 2 0).toNat 32 && decide (c.state = .fenced), 0x02),
    (s.fellowQueue (admF w 2 0 22), 0x04),
    (decide (c.state ≠ .quarantined) && decide (c.state ≠ .fenced), 0x06) ]

/-- READY, or STOPPED while the ring stalls the queue (R251, R252). -/
def QCtx.release (c : QCtx) : QCtx := { c with state := if c.cqStall then .stopped else .ready, stopReq := false }

/-- Carry out RESUME_WQ (R252): entries fetched and never started are read again, or skipped. -/
def State.doResumeWq (s : State) (w : List W64) : State × Nat :=
  let q := admF w 2 0 22
  let c := s.qctx q
  if c.state = .quarantined then
    let mine := s.flsOf q
    let s := s.withFl (s.fl.filter (fun f => decide (f.q ≠ q)))
    if bit (w.getD 2 0).toNat 32 then
      let n := idxDiff c.snap c.ci
      let ran := ((mine.filter (fun f => f.began && !idxBefore f.idx c.ci)).map (fun f => (q, f.idx)))
      let s := if s.sending q then s.withPair { s.pair with passed := s.pair.passed ++ ran } else s
      let s := s.setQ q { c.release with cause := 0, causeIndex := 0, ci := c.snap, fetch := c.snap, accepts := [] }
      (((if n = 0 then s else s.mirrorCi q)).snapQ q, n)
    else
      let old := mine.map (fun f => Accept.mk f.idx (f.idx + 1) f.acceptMt)
      let s := s.setQ q { c.release with cause := 0, causeIndex := 0, fetch := c.ci, accepts := old ++ c.accepts }
      (s.snapQ q, 0)
  else ((s.setQ q c.release).snapQ q, 0)

/-- RESUME_WQ: on a QUARANTINED queue it waits until every started entry is released; then its stitch runs. -/
def execResumeWq (st : Stream) (s : State) : Res :=
  match s.admCmd st 0x04 with
  | none => .next s
  | some o =>
    let q := admF o.cmd.words 2 0 22
    if s.resumeWaits q then
      .next (if s.run ∧ ¬ o.begun then (s.openAdm st { o with begun := true, phase := 2 }).lineUp else s)
    else .next (s.oneStitch st 0x04 State.judgeResumeWq State.doResumeWq)

end Sys2Proof.Machine
end

