-- ==== Sys2Proof/Machine/AdmObj.lean ====
section
/-!
DEFINITION. Admin commands on completion rings, protection domains, memory regions, counters and request lines
(08_admin_queue.md R242 to R247, R249; 04_completion_rings_and_hallmarks.md R141).
-/
namespace Sys2Proof.Machine

/-- ADMIN_NOP (R240). -/
def execAdminNop (st : Stream) (s : State) : Res := .next (s.oneStitch st 0x00 (fun _ _ => []) (fun s _ => (s, 0)))

/-! ## Completion rings -/

/-- What refuses CREATE_CQ (R129, R242). -/
def State.judgeCreateCq (s : State) (w : List W64) : List (Bool × Nat) :=
  let c := admF w 3 0 18
  let k := admF w 5 4 5
  let base := admF w 1 0 64
  let lap := admF w 3 32 32 / 2 ^ k % 256
  [ (decide (c = 0), 0x01),
    (decide (k < 6) || decide (22 < k) || decide (base % 4096 ≠ 0) || decide (admF w 2 0 64 % 8 ≠ 0)
      || (bit (w.getD 5 0).toNat 0 && s.reserved base (2 ^ k * 32)) || decide (254 ≤ lap)
      || (bit (w.getD 5 0).toNat 9 && decide (admF w 5 10 10 = 0)), 0x02),
    (decide ((s.cctx c).state ≠ .free), 0x03),
    (!s.pdOf (admF w 4 32 16), 0x04) ]

/-- The context that CREATE_CQ sets up (R131, R243). -/
def newRing (w : List W64) (mt : W64) : CqCtx :=
  let m := (w.getD 5 0).toNat
  let i := BitVec.ofNat 32 (admF w 3 32 32)
  { CqCtx.zero with
    state := .active, device := bit m 0, hostpSel := bit m 1, pasidValid := bit m 2, wbEn := bit m 3, sizeLog2 := admF w 5 4 5,
    irqEn := bit m 9, irqSrc := admF w 5 10 10, coalCount := admF w 5 20 8, coalTime := admF w 4 48 16, pd := admF w 4 32 16,
    ringBase := w.getD 1 0, wbAddr := w.getD 2 0, pasid := admF w 4 0 20, pi := i, ci := i, createdMt := mt }

/-- Carry out CREATE_CQ. -/
def State.doCreateCq (s : State) (w : List W64) : State × Nat :=
  let c := admF w 3 0 18
  let s := s.touchBlock (storeBlock (ctxOffset .ring c))
  ((s.setC c (newRing w s.mt)).warm .ring c, 0)

/-- CREATE_CQ. -/
def execCreateCq (st : Stream) (s : State) : Res := .next (s.oneStitch st 0x08 State.judgeCreateCq State.doCreateCq)

/-- What refuses MODIFY_CQ (R131, R233, R242). DESIGN CHOICE (log entry 40): a FREE ring is NO_OBJECT, though R242 has no row for the
command. -/
def State.judgeModifyCq (s : State) (w : List W64) : List (Bool × Nat) :=
  [ (decide (admF w 3 0 18 = 0), 0x01),
    (bit (w.getD 5 0).toNat 9 && decide (admF w 5 10 10 = 0), 0x02),
    (decide ((s.cctx (admF w 3 0 18)).state = .free), 0x04) ]

/-- Carry out MODIFY_CQ (R244). -/
def State.doModifyCq (s : State) (w : List W64) : State × Nat :=
  let c := admF w 3 0 18
  let en := bit (w.getD 5 0).toNat 9
  let s := s.updC c (fun (x : CqCtx) =>
    { x with irqEn := en, irqSrc := admF w 5 10 10, coalCount := admF w 5 20 8, coalTime := admF w 4 48 16 })
  (s.snapC c, 0)

/-- MODIFY_CQ. -/
def execModifyCq (st : Stream) (s : State) : Res := .next (s.oneStitch st 0x0A State.judgeModifyCq State.doModifyCq)

/-- What refuses QUERY_CQ (R233, R242). -/
def judgeQueryCq (w : List W64) : List (Bool × Nat) :=
  [(decide (admF w 3 0 18 = 0), 0x01), (decide (admF w 1 0 64 % 64 ≠ 0), 0x02)]

/-- The bytes that QUERY_CQ writes (R131, R246). -/
def State.queryCqBytes (s : State) (w : List W64) : List Byte :=
  let c := admF w 3 0 18
  wordBytes ((s.cctx c).words (s.spilledOf c) (s.boundTo c).length)

/-- QUERY_CQ, its response stored or failing. -/
def State.queryCq (s : State) (st : Stream) (fail : Option Bool) : State :=
  s.query st 0x0B judgeQueryCq State.queryCqBytes (fun w => admF w 3 32 1) fail

/-- QUERY_CQ. -/
def execQueryCq (st : Stream) (s : State) : Res := .next (s.queryCq st none)

/-- An entry not yet completed names ring `c` by cq_ovr (R242). -/
def State.ovrNames (s : State) (c : Nat) : Bool :=
  s.fl.any (fun f => f.e.cqOvrEn && decide (ringOf f.q f.e.cqOvr = c) && !f.phase.completed)

/-- What refuses DESTROY_CQ (R233, R242). -/
def State.judgeDestroyCq (s : State) (w : List W64) : List (Bool × Nat) :=
  let c := admF w 3 0 18
  let x := s.cctx c
  let held := decide (s.spilledOf c ≠ 0) || s.cqs.waiting.any (fun h => decide (h.c = c))
  [ (decide (c = 0), 0x01),
    (decide (x.state = .free), 0x04),
    (decide (x.state ≠ .free) && (!(s.boundTo c).isEmpty || s.ovrNames c), 0x05),
    (held && decide (x.state ≠ .broken), 0x06) ]

/-- The ring is gone. -/
def State.freeRing (s : State) (c : Nat) : State := (s.setC c CqCtx.zero).chill .ring c

/-- Discard up to 2,048 held records, those spilled first, oldest first; their entries are released (R141), and records of the
group's other rings enter the spill in their place (R138). -/
def State.dropHeld (s : State) (c : Nat) : State × Nat :=
  let mine (h : Held) : Bool := decide (h.c = c)
  let a := (s.cqs.spill.filter mine).take 2048
  let b := (s.cqs.waiting.filter mine).take (2048 - a.length)
  let s := s.withCqs { s.cqs with spill := a.foldl (fun l h => l.erase h) s.cqs.spill, waiting := b.foldl (fun l h => l.erase h) s.cqs.waiting }
  let s := forEach b (fun h s => s.completed h.q h.idx) s
  let s := forEach (a ++ b) (fun h s => s.release h.q h.idx) s
  (s.refillSpill s.cqs.waiting.length (cqGroup c), (a ++ b).length)

/-- The first stitch of DESTROY_CQ. A ring goes only once the writes issued for it are accepted (R128; log entry 25). -/
def State.destroyCqBegin (s : State) (st : Stream) (o : AdmOpen) : State :=
  let c := admF o.cmd.words 3 0 18
  match refuse (s.judgeDestroyCq o.cmd.words) with
  | some x => s.admDone st o x 0
  | none =>
    let n := (s.heldOf c).length
    if n = 0 ∧ s.ringQuiet c then (s.freeRing c).admDone st o 0 0
    else (s.updC c (fun x => { x with state := .destroying })).setAdm st (some { o with begun := true, total := n })

/-- A later stitch of DESTROY_CQ: held records are discarded, and with the last of them the ring is gone. -/
def State.destroyCqNext (s : State) (st : Stream) (o : AdmOpen) : State :=
  let c := admF o.cmd.words 3 0 18
  let r := s.dropHeld c
  if (r.1.heldOf c).isEmpty ∧ r.1.ringQuiet c then (r.1.freeRing c).admDone st o 0 0
  else r.1.setAdm st (some { o with done := o.done + r.2 })

/-- DESTROY_CQ: its next stitch. -/
def execDestroyCq (st : Stream) (s : State) : Res :=
  match s.admCmd st 0x09 with
  | none => .next s
  | some o =>
    if s.admMay st then
      .next (if o.begun then s.cmdStitch st o [] (fun s => s.destroyCqNext st o)
        else (s.openAdm st o).cmdStitch st o [] (fun s => s.destroyCqBegin st o))
    else .next s

/-! ## Protection domains and memory regions -/

/-- CREATE_PD (R242). -/
def execCreatePd (st : Stream) (s : State) : Res :=
  .next (s.oneStitch st 0x10 (fun s w => [(s.pdOf (admF w 3 0 16), 0x03)]) (fun s w => (s.setPd (admF w 3 0 16) true, 0)))

/-- A queue, ring, valid region or valid counter of this mover belongs to the domain (R242). -/
def State.pdUsed (s : State) (n : Nat) : Bool :=
  s.q.any (fun x => decide (x.1 ≠ 0) && !isAdopted x.1 && decide (x.2.state ≠ .free) && decide (x.2.pd = n))
    || s.cq.any (fun x => decide (x.1 ≠ 0) && decide (x.1 < 2 ^ 18) && decide (x.2.state ≠ .free) && decide (x.2.pd = n))
    || s.mr.any (fun x => x.2.valid && decide (x.2.pd = n))
    || s.ctr.any (fun x => decide (x.1 < 2 ^ 20) && x.2.valid && decide (x.2.pd = n))

/-- DESTROY_PD (R242). -/
def execDestroyPd (st : Stream) (s : State) : Res :=
  .next (s.oneStitch st 0x11
    (fun s w => [(!s.pdOf (admF w 3 0 16), 0x04), (s.pdOf (admF w 3 0 16) && s.pdUsed (admF w 3 0 16), 0x05)])
    (fun s w => (s.setPd (admF w 3 0 16) false, 0)))

/-- What refuses CREATE_MR (R242). -/
def State.judgeCreateMr (s : State) (w : List W64) : List (Bool × Nat) :=
  [ (decide (admF w 2 0 48 = 0) || decide (2 ^ 64 < admF w 1 0 64 + admF w 2 0 48), 0x02),
    ((s.mrOf (admF w 3 0 20)).valid, 0x03),
    (!s.pdOf (admF w 3 20 16), 0x04) ]

/-- The tag that follows (R245). -/
def nextTag (t : Nat) : Nat := if t = 4095 then 1 else t + 1

/-- Carry out CREATE_MR: the region with its new tag, and its key (R66, R67, R245). -/
def State.doCreateMr (s : State) (w : List W64) : State × Nat :=
  let i := admF w 3 0 20
  let m := (w.getD 3 0).toNat
  let s := s.touchBlock (regionBlock i)
  let t := nextTag (s.mrOf i).tag
  let r : Region := { valid := true, tag := t, pd := admF w 3 20 16, hostBacked := bit m 36, base := admF w 1 0 64,
                      size := admF w 2 0 48, pasid := admF w 4 0 20, lr := bit m 37, lw := bit m 38, rr := bit m 39,
                      rwr := bit m 40, rred := bit m 41 }
  (s.setMr i r, i + t * 2 ^ 20)

/-- CREATE_MR. -/
def execCreateMr (st : Stream) (s : State) : Res := .next (s.oneStitch st 0x12 State.judgeCreateMr State.doCreateMr [3])

/-- What refuses DESTROY_MR (R242). -/
def State.judgeDestroyMr (s : State) (w : List W64) : List (Bool × Nat) :=
  let r := s.mrOf (admF w 3 0 20)
  [(!r.valid || decide (r.tag ≠ admF w 3 20 12), 0x04)]

/-- DESTROY_MR (R245). -/
def execDestroyMr (st : Stream) (s : State) : Res :=
  .next (s.oneStitch st 0x13 State.judgeDestroyMr
    (fun s w => (s.setMr (admF w 3 0 20) { s.mrOf (admF w 3 0 20) with valid := false }, 0)))

/-! ## Counters (R249, R204) -/

/-- End the waiters of a counter: each completes with DISCARDED (R204), in the order of R130. -/
def State.endWaiters (s : State) (n : Nat) : State :=
  let l := s.waitersOf n
  forEach (s.inOrder (fun f => decide ((f.q, f.idx) ∈ l))) (fun x s =>
    let s := (s.unpark x.q x.idx).updFl x.q x.idx (fun (f : Flight) => { f with phase := .dataDone, status := stDiscarded, ended := true })
    s.tryComplete x.q x.idx) s

/-- Clear one counter (R249), and tell the mirror (R351): its context where the assignment changed, its value otherwise. -/
def State.clearOne (s : State) (n : Nat) (x : Counter) : State :=
  let old := s.ctrOf n
  let s := s.setCtr n x
  if old = { x with value := old.value } then s.mirrorCtr n 3 0 0
  else if old.valid || x.valid then s.snapObj .counter n else s

/-- Clear the counters of a list in order: what was cleared, how many waiters ended, and whether one with waiters stopped
the command (R249). -/
def State.clearRun (s : State) (g : Counter → Counter) (discard : Bool) (done ended : Nat) : List Nat → State × Nat × Nat × Bool
  | [] => (s, done, ended, false)
  | n :: r =>
    let k := (s.waitersOf n).length
    if k ≠ 0 ∧ ¬ discard then (s, done, ended, true)
    else ((s.clearOne n (g (s.ctrOf n))).endWaiters n).clearRun g discard (done + 1) (ended + k) r

/-- What refuses CLEAR_TRIG at its first stitch (R242). -/
def State.judgeClearTrig (s : State) (w : List W64) : List (Bool × Nat) :=
  [ (decide (admF w 3 20 21 = 0) || decide (2 ^ 20 < admF w 3 0 20 + admF w 3 20 21), 0x02),
    (!bit (w.getD 4 0).toNat 18 && !s.pdOf (admF w 4 0 16), 0x04) ]

/-- The counter context that CLEAR_TRIG writes (R188, R249). -/
def clearedCounter (w : List W64) (old : Counter) : Counter :=
  if bit (w.getD 4 0).toNat 18 then { old with valid := false, value := 0 }
  else { value := 0, pd := admF w 4 0 16, valid := true, remoteEn := bit (w.getD 4 0).toNat 16 }

/-- One stitch of CLEAR_TRIG: the next 1,024 counters (R249). `done` counts the counters cleared, `value` the waiters
ended. -/
def State.clearTrigStitch (s : State) (st : Stream) (o : AdmOpen) : State :=
  let w := o.cmd.words
  let first := admF w 3 0 20
  let count := admF w 3 20 21
  let l := (List.range (min 1024 (count - o.done))).map (fun k => first + o.done + k)
  let s := forEach (l.map (fun n => storeBlock (ctxOffset .counter n))).dedup (fun b s => s.touchBlock b) s
  let r := s.clearRun (clearedCounter w) (bit (w.getD 4 0).toNat 17) o.done o.value l
  if r.2.2.2 then r.1.admDone st o 0x09 r.2.1
  else if count ≤ r.2.1 then r.1.admDone st o 0 r.2.2.1
  else r.1.setAdm st (some { o with begun := true, done := r.2.1, total := count, value := r.2.2.1 })

/-- CLEAR_TRIG: its next stitch. -/
def execClearTrig (st : Stream) (s : State) : Res :=
  match s.admCmd st 0x23 with
  | none => .next s
  | some o =>
    if s.admMay st then
      .next ((s.openAdm st o).cmdStitch st o [] (fun s =>
        if o.begun then s.clearTrigStitch st o
        else match refuse (s.judgeClearTrig o.cmd.words) with
          | some c => s.admDone st o c 0
          | none => s.clearTrigStitch st o))
    else .next s

/-! ## Request lines (R113, R247) -/

/-- Line `n` is bound, or a binding of it waits for a stitch boundary (R113). -/
def State.lineTaken (s : State) (n : Nat) : Bool :=
  s.fb (RL_STATE_bound n) || s.queues.any (fun q => match (s.qctx q).newLine with
    | some (some l) => decide (l.1 = n)
    | _ => false)

/-- The queue is bound to line `n`, as its latest BIND_RL leaves it. -/
def QCtx.boundTo (c : QCtx) (n : Nat) : Bool :=
  match c.newLine with
  | some l => decide (l.map (·.1) = some n)
  | none => c.rlBind && decide (c.rlLine = n)

/-- What refuses BIND_RL (R242). -/
def State.judgeBindRl (s : State) (w : List W64) : List (Bool × Nat) :=
  let q := admF w 2 0 22
  let c := s.qctx q
  let n := admF w 3 0 8
  let un := bit (w.getD 3 0).toNat 9
  [ (decide (q = 0), 0x01),
    (decide (c.state = .free), 0x04),
    (!un && (s.lineTaken n || c.rlBind || (match c.newLine with | some (some _) => true | _ => false)), 0x05),
    (un && !c.boundTo n, 0x06) ]

/-- Carry out BIND_RL: the change takes effect at the queue's next stitch boundary, at once where no stitch is bound (R113). -/
def State.doBindRl (s : State) (w : List W64) : State × Nat :=
  let q := admF w 2 0 22
  let m := (w.getD 3 0).toNat
  let l := if bit m 9 then none else some (admF w 3 0 8, bit m 8)
  (if s.hasStitch q then s.updQ q (fun c => { c with newLine := some l }) else (s.setLine q l).snapQ q, 0)

/-- BIND_RL. -/
def execBindRl (st : Stream) (s : State) : Res := .next (s.oneStitch st 0x18 State.judgeBindRl State.doBindRl)

end Sys2Proof.Machine
end

