-- ==== Sys2Proof/Machine/RegOps.lean ====
section
/-!
DEFINITION. Which values a register field takes (00_scope.md R8, R9; the field tables of every chapter) and which instances of
the rank registers can be written (09_arbitration.md R283).
-/
namespace Sys2Proof.Machine

/-- A value of the field that starts at bit `lo` of register `r` is not reserved (R9). -/
def valueOk (r : Reg) (lo v : Nat) : Bool :=
  match r, lo with
  | .izSchedCfg, 0 => decide (1 ≤ v) && decide (v ≤ 64)
  | .rlCfg, 0 => decide (v ≠ 0)
  | .rlCfg, 21 => decide (6 ≤ v) && decide (v ≤ 20)
  | .arbCtl, 3 => decide (6 ≤ v)
  | .arbSlot, 0 => decide (v ≤ 79) || decide (v = 0x7F)
  | .arbSlotCfg, 0 => decide (3 ≤ v) && decide (v ≤ 16)
  | .icLineCfg, 0 => decide (v ≠ 0)
  | .icLineCfg, 13 => decide (6 ≤ v) && decide (v ≤ 20)
  | .pairTakeoverDelay, 0 => decide (v ≠ 0)
  | .laceDownTime, 0 => decide (1 ≤ v) && decide (v ≤ 1000)
  | .laceTrainCfg, _ => decide (v ≠ 0)
  | .laceReplayCfg, 0 => decide (256 ≤ v)
  | .laceReplayCfg, 16 => decide (v ≠ 0)
  | .sprPolicy, 12 => decide (10 ≤ v) && decide (v ≤ 24)
  | .sprLaneLoop, 0 => decide (v ≤ 8) || decide (v = 0xF)
  | .izNetpCfg, 0 => decide (v ≠ 0)
  | _, _ => true

/-- The instance takes writes: a rank register exists for the pairs of R261, and those of R283 only show a rank; source 0 of the
interrupt controller ignores writes (R311). -/
def instanceOk (r : Reg) (i j : Nat) : Bool :=
  match r with
  | .arbRank => arbListed i j && decide (j ≠ 76) && !(decide (i = 4) && decide (j = 75))
  | .icSrcCfg => decide (i ≠ 0)
  | _ => true

/-- Set the fields `l` of the register word at offset `o` from `w`; a reserved value leaves its field as it was (R9). -/
def State.setFields (s : State) (r : Reg) (o : Nat) (l : List FDef) (w : Nat) : State :=
  l.foldl (fun s d => if valueOk r d.lo (bits w d.lo d.w) then s.setF ⟨o, d.lo, d.w⟩ (bits w d.lo d.w) else s) s

end Sys2Proof.Machine
end

