-- ==== Sys2Proof/Machine/Pattern.lean ====
section
/-!
DEFINITION. The pattern image: its layout, how a copy or the window is judged, and what its sections set
(11_pattern_and_startup.md R318 to R333).
-/
namespace Sys2Proof.Machine

/-! ## The image (R318 to R322) -/

/-- `n` bytes of an image from offset `o`. -/
def imgBytes (rd : Nat → Byte) (o n : Nat) : List Byte := (List.range n).map (fun k => rd (o + k))
/-- A little-endian field of `n` bytes. -/
def imgNum (rd : Nat → Byte) (o n : Nat) : Nat := leNat (imgBytes rd o n)
/-- `n` bytes from offset `o` are zero. -/
def imgZero (rd : Nat → Byte) (o n : Nat) : Bool := (imgBytes rd o n).all (fun b => decide (b = 0))

/-- A section-table entry (R320). -/
structure Section where
  kind : Nat
  rsvd : Nat
  ofs  : Nat
  slen : Nat
  scrc : Nat
  deriving DecidableEq, Repr

/-- Number of sections. -/
def imgSects (rd : Nat → Byte) : Nat := imgNum rd 6 2
/-- Image length. -/
def imgLen (rd : Nat → Byte) : Nat := imgNum rd 0x0C 4
/-- Generation. -/
def imgGen (rd : Nat → Byte) : Nat := imgNum rd 8 4
/-- Offset of the commit trailer. -/
def imgTrailer (rd : Nat → Byte) : Nat := imgLen rd - 256

/-- Section-table entry `i`. -/
def imgSect (rd : Nat → Byte) (i : Nat) : Section :=
  let a := 0x40 + 16 * i
  { kind := imgNum rd a 2, rsvd := imgNum rd (a + 2) 2, ofs := imgNum rd (a + 4) 4, slen := imgNum rd (a + 8) 4,
    scrc := imgNum rd (a + 12) 4 }
/-- The whole section table, with indices. -/
def imgTable (rd : Nat → Byte) : List (Nat × Section) := (List.range (imgSects rd)).map (fun i => (i, imgSect rd i))

/-- The header passes (R319, R324). -/
def headerSound (rd : Nat → Byte) : Bool :=
  decide (imgNum rd 0 4 = 0x54505A49) && decide (imgNum rd 4 2 = 1) && decide (2 ≤ imgSects rd) && decide (imgSects rd ≤ 32)
    && decide (imgNum rd 0x3C 4 = crc32c (imgBytes rd 0 0x3C)) && imgZero rd 0x10 0x2C && decide (imgLen rd % 64 = 0)
    && decide (imgLen rd ≤ 4194304) && decide (0x40 + 16 * imgSects rd + 256 ≤ imgLen rd)

/-- The trailer agrees with the header and its CRC holds (R322, R324). -/
def trailerSound (rd : Nat → Byte) : Bool :=
  let t := imgTrailer rd
  decide (imgNum rd t 4 = 0x4D435A49) && decide (imgNum rd (t + 4) 4 = imgGen rd) && decide (imgNum rd (t + 8) 4 = imgLen rd)
    && decide (imgNum rd (t + 0x3C) 4 = crc32c (imgBytes rd t 0x3C))

/-- A section type that may appear (R327). -/
def kindOk (k : Nat) : Bool :=
  decide (k ∈ [0x0001, 0x0002, 0x0003, 0x0010, 0x0011, 0x0012, 0x0013, 0x0014, 0x0015]) || (decide (0x80 ≤ k) && decide (k ≤ 0xFF))

/-- Entry `x` of the table keeps R321 against the entries before it. DESIGN CHOICE (log entry 44): a nonzero reserved field, for which
no consequence is stated, breaks the table like any other breach of R321. -/
def entrySound (rd : Nat → Byte) (before : List (Nat × Section)) (x : Section) : Bool :=
  decide (x.rsvd = 0) && kindOk x.kind && decide (x.ofs % 64 = 0) && decide (0x40 + 16 * imgSects rd ≤ x.ofs)
    && decide (x.ofs + x.slen ≤ imgLen rd - 256)
    && before.all (fun y => decide (y.2.kind ≠ x.kind) && !overlaps x.ofs x.slen y.2.ofs y.2.slen)

/-- Stands for the index of a table that lacks GLOBAL or CSTORE: no entry is at fault, and the spec gives no index. -/
def noEntry : Nat := 32

/-- The first entry that breaks R321. -/
def badEntry (rd : Nat → Byte) : Option Nat :=
  let t := imgTable rd
  match t.find? (fun x => !entrySound rd (t.take x.1) x.2) with
  | some x => some x.1
  | none => if t.any (fun x => decide (x.2.kind = 1)) && t.any (fun x => decide (x.2.kind = 2)) then none else some noEntry

/-- Header, section table and trailer are judged (R324): status 0 and index 0 when they pass. -/
def judgeHead (rd : Nat → Byte) : Nat × Nat :=
  if imgNum rd 0 4 = 0xFFFFFFFF then (3, 0)
  else if !headerSound rd then (4, 0)
  else if !trailerSound rd then (5, 0)
  else match badEntry rd with
    | some i => (6, i)
    | none => (0, 0)

/-! ## Section contents (R327 to R332) -/

/-- The fields of a register that sections of type `k` may set (R327). -/
def sectFields (k : Nat) (r : Reg) : List FDef :=
  let rw := r.fields.filter (fun d => decide (d.acc = .rw))
  let only (l : List Nat) : List FDef := rw.filter (fun d => decide (d.lo ∈ l))
  match k with
  | 0x0013 => if r ∈ [.izSchedCfg, .izRedCfg, .izChkCfg, .izPiCfg, .izFillPat] then rw else []
  | 0x0010 => if r = .rlCfg then rw else []
  | 0x0011 => if r ∈ [.icSrcCfg, .icLineCfg, .icTgtCfg, .icMask, .icOutCfg, .icVecAddr, .icVecData] then rw else []
  | 0x0012 => match r with
    | .arbRank => only [0]
    | .arbCtl => only [1, 3]
    | .arbSlot => only [0]
    | .arbSlotCfg => only [0]
    | _ => []
  | 0x0014 =>
    if r ∈ [.pairCfg, .pairTakeoverDelay, .pairMirrorBase, .laceCfg, .laceDownTime, .laceTrainCfg, .laceReplayCfg, .laceLaneCfg]
    then rw else []
  | 0x0015 => if r = .sprPolicy then rw else []
  | _ => []

/-- A register-list section type. -/
def isList (k : Nat) : Bool := decide (0x0010 ≤ k) && decide (k ≤ 0x0015)

/-- The entries of a register list: offset, reserved word, value (R328). -/
def listEntries (rd : Nat → Byte) (x : Section) : List (Nat × Nat × Nat) :=
  (List.range (x.slen / 16)).map (fun n =>
    let a := x.ofs + 16 * n
    (imgNum rd a 4, imgNum rd (a + 4) 4, imgNum rd (a + 8) 8))

/-- One entry keeps R328. -/
def listEntryOk (k : Nat) (e : Nat × Nat × Nat) : Bool :=
  match regAt e.1 with
  | none => false
  | some (r, i, j) =>
    let l := sectFields k r
    let kept := l.foldl (fun v d => putBits v d.lo d.w 0) e.2.2
    decide (e.2.1 = 0) && !l.isEmpty && instanceOk r i j && decide (kept = 0) && l.all (fun d => valueOk r d.lo (bits e.2.2 d.lo d.w))

/-- A section's contents keep R328 to R332; `mem` is the size of in-package memory. -/
def contentsOk (mem : Nat) (rd : Nat → Byte) (x : Section) : Bool :=
  let a := x.ofs
  match x.kind with
  | 0x0001 => decide (x.slen = 64) && decide (imgNum rd a 8 < 2) && imgZero rd (a + 16) 48
  | 0x0002 =>
    let cs := imgNum rd a 8
    let mr := imgNum rd (a + 8) 8
    decide (x.slen = 64) && decide (cs % 2097152 = 0) && decide (mr % 2097152 = 0) && decide (cs + csSize ≤ mem)
      && decide (mr + mrSize ≤ mem) && !overlaps cs csSize mr mrSize && imgZero rd (a + 16) 48
  | 0x0003 => decide (x.slen = 64) && decide (imgNum rd a 8 < 64) && decide (imgNum rd a 8 % 16 ≤ 10) && imgZero rd (a + 8) 56
  | k => if isList k then decide (x.slen % 16 = 0) && (listEntries rd x).all (listEntryOk k) else true

/-- The scrc of a section holds (R320). -/
def scrcOk (rd : Nat → Byte) (x : Section) : Bool := decide (crc32c (imgBytes rd x.ofs x.slen) = x.scrc)

/-- The image CRC holds (R322). -/
def imageCrcOk (rd : Nat → Byte) : Bool :=
  decide (imgNum rd (imgTrailer rd + 0x0C) 4 = crc32c (imgBytes rd 0 (imgTrailer rd)))

/-- What the full read finds (R324): every scrc and the image CRC. -/
def readSound (rd : Nat → Byte) : Bool := (imgTable rd).all (fun x => scrcOk rd x.2) && imageCrcOk rd

/-- The image is signed. -/
def imgSigned (rd : Nat → Byte) : Bool := bit (imgNum rd (imgTrailer rd + 0x10) 4) 0

/-- The zero rules of the trailer (R322). -/
def trailerZero (rd : Nat → Byte) : Bool :=
  let t := imgTrailer rd
  decide (imgNum rd (t + 0x10) 4 < 2) && imgZero rd (t + 0x14) 0x28 && (imgSigned rd || imgZero rd (t + 0x40) 0xC0)

/-- The key hash and the signature of a signed image (R323). -/
def signatureOk (rd : Nat → Byte) (programmed : Bool) (keyHash : List Byte) : Bool :=
  let t := imgTrailer rd
  let num (o : Nat) : Nat := imgNum rd (t + o) 48
  programmed && decide (sha384 (imgBytes rd (t + 0x40) 96) = keyHash)
    && ecdsaOk (imgBytes rd 0 t ++ imgBytes rd t 0x40) (num 0x40) (num 0x70) (num 0xA0) (num 0xD0)

/-- What PAT_COPY records of a judgement: status and section index (R324, R344). The checks are made in the order of R324's
table. -/
def State.judgeImage (s : State) (rd : Nat → Byte) : Nat × Nat :=
  let h := judgeHead rd
  if h.1 ≠ 0 then h
  else match (imgTable rd).find? (fun x => !scrcOk rd x.2 || !contentsOk s.memSize.toNat rd x.2) with
    | some x => (6, x.1)
    | none =>
      if !imageCrcOk rd then (7, 0)
      else if !trailerZero rd || (imgSigned rd && !signatureOk rd (s.fb PAT_STAT_key_programmed) s.pat.keyHash) then (8, 0)
      else if !imgSigned rd && s.fb PAT_STAT_sig_required then (9, 0)
      else (1, 0)

/-! ## Copies and the window (R316, R324, R336) -/

/-- A byte of the flash; an erased byte reads 0xFF. -/
def State.flashByte (s : State) (a : Nat) : Byte := Tbl.get (fun _ => 0xFF#8) s.mem.flash a
/-- First flash address of copy `c` (R316). -/
def copyBase (c : Nat) : Nat := if c = 0 then 0 else 0x1000000
/-- The bytes of copy 0 or 1, or of the window (2). -/
def State.imgRead (s : State) (c : Nat) : Nat → Byte :=
  if c = 2 then fun k => s.pkgFixed (s.f PAT_WIN_BASE_base * 2 ^ 22 + k) else fun k => s.flashByte (copyBase c + k)
/-- A copy is absent: no usable flash, or copy B on a flash of 16 MiB or less (R316, R317). -/
def State.absent (s : State) (c : Nat) : Bool :=
  !s.pat.present || (decide (c = 1) && decide (s.f PAT_FLASH_density_log2 ≤ 24))

/-- Record a judgement in PAT_COPY (R344); the index of a table that lacks a section is a free value (log entry 21). -/
def State.recordCopy (s : State) (c : Nat) (r : Nat × Nat) : State :=
  let rd := s.imgRead c
  let here := decide (r.1 ≠ 2)
  let i := if r.2 = noEntry then (Config.freeWord s.free).toNat % 32 else r.2
  let s := if r.2 = noEntry then (s.withFree (s.free + 1)) else s
  let s := (s.setF (PAT_COPY_status c) r.1).setF (PAT_COPY_sect c) i
  (s.setF (PAT_COPY_length c) (if here then imgLen rd else 0)).setF (PAT_COPY_generation c) (if here then imgGen rd else 0)

/-- Copy B is newer than copy A (R325). -/
def newerB (a b : Nat) : Bool :=
  let d := (b + 2 ^ 32 - a) % 2 ^ 32
  decide (0 < d) && decide (d < 2 ^ 31)

/-! ## The apply (R333) -/

/-- Sections in the order of R327, with the image's table. -/
def applyOrder : List Nat := [0x0013, 0x0010, 0x0011, 0x0012, 0x0014, 0x0015]

/-- The section of a type. -/
def findSect (rd : Nat → Byte) (k : Nat) : Option Section := ((imgTable rd).find? (fun x => decide (x.2.kind = k))).map (·.2)

/-- Apply one register list, entry by entry, each as a write of its whole register, so that a RW field it may not set reads zero (R328, R479). -/
def State.applyList (s : State) (rd : Nat → Byte) (k : Nat) : State :=
  match findSect rd k with
  | none => s
  | some x =>
    forEach (listEntries rd x) (fun e s =>
      match regAt e.1 with
      | some (r, _, _) => s.setFields r e.1 (r.fields.filter (fun d => decide (d.acc = .rw))) e.2.2
      | none => s) s

/-- The startup commit (R275, R333): every shadow rank, mode, slot and slot_log2 becomes active. A register that is not listed
holds the same shadow and active value. -/
def State.startupCommit (s : State) : State :=
  forEach (s.regs.map (·.1)) (fun o s =>
    match regAt o with
    | some (.arbRank, i, j) => s.setF (ARB_RANK_active i j) (s.f (ARB_RANK_rank i j))
    | some (.arbCtl, i, _) => s.setF (ARB_CTL_mode_active i) (s.f (ARB_CTL_mode i))
    | some (.arbSlot, i, j) => s.setF (ARB_SLOT_active i j) (s.f (ARB_SLOT_req i j))
    | some (.arbSlotCfg, i, _) => s.setF (ARB_SLOT_CFG_active_log2 i) (s.f (ARB_SLOT_CFG_slot_log2 i))
    | _ => s) s

/-- GLOBAL, CSTORE and CLOCK (R329, R330, R332). -/
def State.applyFixed (s : State) (rd : Nat → Byte) : State :=
  let word (k o : Nat) : Nat := match findSect rd k with
    | some x => imgNum rd (x.ofs + o) 8
    | none => 0
  let c := word 3 0
  let s := (s.setF PAT_STAT_strict_user (word 1 0 % 2)).setF PAT_LABEL_label (word 1 8)
  let s := (s.setF TB_PPS_CFG_out_en (b2n (bit c 4))).setF TB_PPS_CFG_in_en (b2n (bit c 5))
  (s.withPat { s.pat with csBase := word 2 0, mrBase := word 2 8, ssc := c % 16 })

/-- Apply the image `c` (R333). -/
def State.applyPattern (s : State) (c : Nat) : State :=
  let rd := s.imgRead c
  let s := s.applyFixed rd
  let s := forEach applyOrder (fun k s =>
    let s := s.applyList rd k
    if k = 0x0012 then s.startupCommit else s) s
  (s.setF PAT_STAT_chosen (c + 1)).setF PAT_STAT_generation (imgGen rd)

end Sys2Proof.Machine
end

