-- ==== Sys2Proof/Machine/Startup.lean ====
section
/-!
DEFINITION. Reset and the startup sequence (11_pattern_and_startup.md R338 to R343; 14_faults_spares_and_in_service_test.md
R420, R426).
-/
namespace Sys2Proof.Machine

/-! ## Reset (R334, R338, R342, R343) -/

/-- Erase the region of copy `c` and write the first `n` bytes `l` of an image (R326, R337). -/
def State.programCopy (s : State) (c : Nat) (l : List Byte) : State :=
  let b := copyBase c
  let kept := s.mem.flash.filter (fun x => !(decide (b ≤ x.1) && decide (x.1 < b + 4194304)))
  let s := s.withMem { s.mem with flash := kept }
  ((List.range l.length).zip l).foldl (fun s x =>
    (s.withMem { s.mem with flash := Tbl.set (fun _ => 0xFF#8) s.mem.flash (b + x.1) x.2 })) s

/-- A reset stops a running program: the copy holds some whole pages of the image's bytes before its trailer, or all of them, and
nothing of the trailer, which comes last (R326, R337, R343). -/
def State.stopProgram (s : State) : State :=
  if s.fb PAT_STAT_busy then
    let rd := s.imgRead 2
    let body := imgLen rd - 256
    let n := min body (256 * (Config.freeLen s.free % (body / 256 + 2)))
    State.programCopy (s.withFree (s.free + 1)) s.pat.progCopy (imgBytes rd 0 n)
  else s

/-- What any reset leaves: memory, the queue of commands, and the model's own fields. -/
def State.afterReset (s : State) : State :=
  ((((((State.reset.withPending s.pending).withMem s.mem).withMemSize s.memSize).withOut s.out).withLastRead s.lastRead).withFree s.free)

/-- Hard reset (R342): phase RESET, outputs as R334. -/
def State.hardReset (s : State) : State := s.stopProgram.afterReset

/-- The RWS fields of a register word, the rest at its reset value (R342). -/
def keepRws (o : Nat) (v : W64) : W64 :=
  match regAt o with
  | some (r, i, j) =>
    let l := r.fields.filter (fun d => decide (d.acc = .rws))
    BitVec.ofNat 64 (l.foldl (fun x d => putBits x d.lo d.w (bits v.toNat d.lo d.w)) (r.resetNat i j))
  | none => 0

/-- Soft reset (R342): RWS fields, the error log queue, the region tags, fuses and the levels of the pair's inputs are kept. -/
def State.softReset (s : State) : State :=
  let s := s.stopProgram
  let t := s.afterReset
  let regs := s.regs.foldl (fun l x => Tbl.set regReset l x.1 (keepRws x.1 (s.reg x.1))) []
  let tags := s.mr.foldl (fun l x => Tbl.set (fun _ => Region.zero) l x.1 { Region.zero with tag := (s.mrOf x.1).tag }) []
  let t := ((((t.withRegs regs).withMr tags).withErr { s.rollLog.err with chk := none }).withPat { t.pat with keyHash := s.pat.keyHash, bySoft := true })
  let t := (t.setF PAT_STAT_sig_required (s.f PAT_STAT_sig_required)).setF PAT_STAT_key_programmed (s.f PAT_STAT_key_programmed)
  let t := (t.setF PAIR_STAT_role (s.f PAIR_STAT_role)).setF PAIR_STAT_fellow_alive (s.f PAIR_STAT_fellow_alive)
  t.setF PAIR_STAT_halt_in (s.f PAIR_STAT_halt_in)

/-- Halt processing ends: the halt record is written (R363, R413), and a soft reset that waited for the halt follows (R343). -/
def State.haltTick (s : State) : State :=
  match s.pair.haltLeft with
  | 0 => if s.halted && s.pat.resetWait then s.softReset else s
  | 1 => let s := s.haltRecord; if s.pat.resetWait then s.softReset else s
  | n + 2 => s.withPair { s.pair with haltLeft := n + 1 }

/-- RESET_ASSERT: IZ_RST_N is asserted (R338, R342, R364). -/
def execResetAssert (s : State) : Res := .next s.hardReset

/-- IZ_RESET carries the key (R344). -/
def resetKey (w : W64) : Bool := decide (bits w.toNat 16 16 = 0x5A17)

/-- A write of IZ_RESET (R343, R344): hard goes before soft; in RUN a soft reset first halts the mover. -/
def State.resetCmd (s : State) (soft hard : Bool) : State :=
  if hard then s.hardReset
  else if soft then
    if s.run then
      let s := s.halt 3 0 0 0
      (s.withPat { s.pat with resetWait := true })
    else s.softReset
  else s

/-- SOFT_RESET: a write of IZ_RESET with soft = 1. -/
def execSoftReset (w : W64) (s : State) : Res := guarded (s.served && resetKey w && bit w.toNat 0) s (s.resetCmd true (bit w.toNat 1))

/-- HARD_RESET: a write of IZ_RESET with hard = 1. -/
def execHardReset (w : W64) (s : State) : Res := guarded (s.served && resetKey w && bit w.toNat 1) s (s.resetCmd (bit w.toNat 0) true)

/-! ## Steps 1 to 3 of R339 -/

/-- The state in which a unit leaves its power-on self-test (R420): retired, active while fewer than `most` lower-numbered ones
are, or spare. -/
def startState (bad : List Nat) (most u : Nat) : Nat :=
  if u ∈ bad then 7 else if ((List.range u).filter (fun x => decide (x ∉ bad))).length < most then 0 else 4

/-- Power-on self-tests (R420): units that fail, and those retired before a soft reset, are retired. -/
def State.selfTests (s : State) (engs reds : List Nat) : State :=
  let e := (List.range 68).filter (fun x => decide (x ∈ engs) || s.fb ⟨SPR_ENG_RETIRED (x / 64), x % 64, 1⟩)
  let r := (List.range 17).filter (fun x => decide (x ∈ reds) || s.fb ⟨SPR_UNIT_RETIRED, x, 1⟩)
  let s := (engs.filter (fun x => decide (x < 68))).foldl (fun s x => if s.fb ⟨SPR_ENG_RETIRED (x / 64), x % 64, 1⟩ then s else s.retireEng x 4) s
  let s := (reds.filter (fun x => decide (x < 17))).foldl (fun s x => if s.fb ⟨SPR_UNIT_RETIRED, x, 1⟩ then s else s.retireRed x 4) s
  let s := (List.range 68).foldl (fun s x => s.setEng x (startState e 64 x)) s
  (List.range 17).foldl (fun s x => s.setRed x (startState r 16 x)) s

/-- What the fuses say, read again only after a hard reset (R323, R342, R426). -/
def State.readFuses (s : State) (b : Boot) : State :=
  if s.pat.bySoft then s
  else
    let s := (s.setF PAT_STAT_sig_required (b2n b.sigRequired)).setF PAT_STAT_key_programmed (b2n b.keyProgrammed)
    let s := s.withPat { s.pat with keyHash := b.keyHash }
    (List.range 24).foldl (fun s a => s.setF (SPR_ARRAY_repair_used a) (min 8 (b.fuseRepairs.getD a 0))) s

/-- RESET_DEASSERT: steps 1 to 4 of R339: PAIR_ROLE and the pair's inputs are sampled, fuses are read, units test themselves, and
the boot ROM starts. -/
def execResetDeassert (b : Boot) (s : State) : Res :=
  if s.phase = 0 then
    let s := ((s.setF PAIR_STAT_role (b2n b.role)).setF PAIR_STAT_fellow_alive (b2n b.fellowAlive)).setF PAIR_STAT_halt_in (b2n b.haltIn)
    let s := (State.readFuses (s.withMemSize b.memSize) b).selfTests b.badEngines b.badUnits
    .next (s.setF PAT_STAT_phase 1)
  else .next s

/-! ## Steps 5 to 8 of R339 -/

/-- Double word `k`, from 1, of the basic flash parameter table, which the first parameter header locates (JESD216; log entry 39). -/
def sfdpDword (i : Sfdp) (k : Nat) : Nat :=
  let a := leNat ((i.table.drop 12).take 3) + 4 * (k - 1)
  leNat ((i.table.drop a).take 4)
/-- Double words of the basic flash parameter table. -/
def sfdpDwords (i : Sfdp) : Nat := leNat ((i.table.drop 11).take 1)
/-- The flash has an SFDP signature, its first header is that of the basic table, and it has a 1-1-4 read (R317). -/
def sfdpPresent (i : Sfdp) : Bool :=
  decide (leNat (i.table.take 4) = 0x50444653) && decide (leNat ((i.table.drop 8).take 1) = 0)
    && decide (leNat ((i.table.drop 15).take 1) = 0xFF) && decide (3 ≤ sfdpDwords i) && bit (sfdpDword i 1) 22
/-- log2 of the density in bytes. -/
def sfdpDensity (i : Sfdp) : Nat :=
  let d := sfdpDword i 2
  if bit d 31 then bits d 0 31 - 3 else Nat.log2 ((d + 1) / 8)
/-- The flash has a 4-byte read opcode; else it is put into 4-byte mode (R317, R344). -/
def sfdpFourByte (i : Sfdp) : Bool := decide (16 ≤ sfdpDwords i) && bit (sfdpDword i 16) 29

/-- The highest read clock in MHz that a speed code of JESD216 names; a code it does not define names none. -/
def sfdpSpeed (c : Nat) : Option Nat :=
  if c = 0 ∨ 12 < c then none else some ([0, 33, 50, 66, 80, 100, 133, 166, 200, 250, 266, 333, 400].getD c 0)
/-- The highest read clock of four data lines that the table names, in its double word 20 (R317; JESD216, log entry 39). -/
def sfdpClock (i : Sfdp) : Option Nat := if 20 ≤ sfdpDwords i then sfdpSpeed (bits (sfdpDword i 20) 0 4) else none

/-- SFDP_READ_DONE: density, the 1-1-4 read, addressing and clock, capped at 133 MHz; where the table names no clock the spec says nothing of
the one taken, and it is a free value (R317; log entry 39). -/
def execSfdpReadDone (i : Sfdp) (s : State) : Res :=
  if s.phase = 1 then
    let s := s.withPat { s.pat with
      present := sfdpPresent i, readOp := if sfdpPresent i then bits (sfdpDword i 3) 24 8 else 0,
      dummy := if sfdpPresent i then bits (sfdpDword i 3) 16 5 + bits (sfdpDword i 3) 21 3 else 0 }
    let s := if sfdpPresent i then
        ((s.setF PAT_FLASH_density_log2 (sfdpDensity i)).setF PAT_FLASH_four_byte (b2n (sfdpFourByte i))).setF PAT_FLASH_clock
          (min 133 ((sfdpClock i).getD (Config.freeLen s.free)))
      else s
    let s := if (sfdpClock i).isNone then s.withFree (s.free + 1) else s
    .next (s.setF PAT_STAT_phase 2)
  else .next s

/-- The candidate of two copies that passed (R324, R325). -/
def State.chooseCopy (s : State) (passed : List Nat) : Option Nat :=
  match passed with
  | [0, 1] => some (if newerB (imgGen (s.imgRead 0)) (imgGen (s.imgRead 1)) then 1 else 0)
  | l => l.head?

/-- Go on with the copy chosen among those that passed, or enter HELD (R334, R339). -/
def State.nextCopy (s : State) (passed : List Nat) : State :=
  let c := s.chooseCopy passed
  let s := s.withPat { s.pat with passed := passed, cand := c }
  s.setF PAT_STAT_phase (if c.isSome then 3 else 6)

/-- Header, table and trailer of copy `c` are judged (R324). -/
def State.judgeCopyHead (s : State) (c : Nat) : State :=
  s.recordCopy c (if s.absent c then (2, 0) else judgeHead (s.imgRead c))

/-- COPY_SELECT (R324, R325). -/
def execCopySelect (s : State) : Res :=
  if s.phase = 2 then
    let s := (s.judgeCopyHead 0).judgeCopyHead 1
    .next (s.nextCopy ((List.range 2).filter (fun c => decide (s.f (PAT_COPY_status c) = 0))))
  else .next s

/-- The candidate fails: its status is recorded, and the other copy is tried if it passed (R339). -/
def State.copyFails (s : State) (c : Nat) : State :=
  (s.recordCopy c (s.judgeImage (s.imgRead c))).nextCopy (s.pat.passed.filter (fun x => decide (x ≠ c)))

/-- COPY_READ_DONE: the candidate's CRCs are judged (R324). -/
def execCopyReadDone (s : State) : Res :=
  match s.pat.cand with
  | some c =>
    if s.phase = 3 then .next (if readSound (s.imgRead c) then s.setF PAT_STAT_phase 4 else s.copyFails c) else .next s
  | none => .next s

/-- PATTERN_VERIFY_DONE: contents and signature are judged (R323, R324). -/
def execPatternVerifyDone (s : State) : Res :=
  match s.pat.cand with
  | some c =>
    if s.phase = 4 then
      let r := s.judgeImage (s.imgRead c)
      .next (if r.1 = 1 then (s.recordCopy c r).setF PAT_STAT_phase 5 else s.copyFails c)
    else .next s
  | none => .next s

/-! ## Steps 9 and 10 of R339 -/

/-- Outputs start (R334, R339): phase RUN, the admin queue comes into being, the background clear and Lace training begin, and
PAT_DONE is raised. -/
def State.startOutputs (s : State) : State :=
  let s := (s.setF PAT_STAT_phase 7).setQ 0 { QCtx.zero with state := .stopped, stitchLog2 := 16, createdMt := s.mt }
  let s := (s.setF PAT_STAT_clearing 1).setF PAT_CLEAR_blocks 0
  let s := (((s.withPins { s.pins with haltOut := false }).withTb { s.tb with second := s.nextSecond }).withPat { s.pat with early := [] })
  let s := if s.laceMay then s.attempt else s
  (s.raise 53).judgeAll

/-- PATTERN_APPLY: the candidate is applied and outputs start (R333, R339). -/
def execPatternApply (s : State) : Res :=
  match s.pat.cand with
  | some c => guarded (decide (s.phase = 5)) s (s.applyPattern c).startOutputs
  | none => .next s

/-! ## The window (R336, R337) -/

/-- The end of a PAT_CMD command (R344). -/
def State.patResult (s : State) (r : Nat) : State := ((s.setF PAT_STAT_busy 0).setF PAT_STAT_result r).raise 53

/-- Apply the window in HELD (R336). -/
def State.applyWindow (s : State) : State :=
  let r := s.judgeImage (s.imgRead 2)
  let s := s.recordCopy 2 r
  if r.1 = 1 then ((s.applyPattern 2).startOutputs).patResult 1 else s.patResult 4

/-- The copy is the only VALID one (R337). -/
def State.onlyValid (s : State) (c : Nat) : Bool :=
  decide (s.f (PAT_COPY_status c) = 1) && decide (s.f (PAT_COPY_status (1 - c)) ≠ 1)

/-- Judge the window and begin to program copy `c` (R337). -/
def State.programWindow (s : State) (c : Nat) : State :=
  let r := s.judgeImage (s.imgRead 2)
  let s := s.recordCopy 2 r
  if r.1 ≠ 1 then s.patResult 4
  else if s.reserved (s.f PAT_WIN_BASE_base * 2 ^ 22) 4194304 then s.patResult 7
  else if s.onlyValid c ∨ s.absent c then s.patResult 5
  else
    let s := (s.setF PAT_STAT_busy 1).setF PAT_PROG_bytes 0
    ((s.withPat { s.pat with progCopy := c }).withPins { s.pins with nvmWp := false })

/-- A write of PAT_CMD (R336, R337, R344). -/
def State.patCmd (s : State) (w : W64) : State :=
  let a := bit w.toNat 0
  let p := bit w.toNat 1
  if bits w.toNat 16 16 ≠ 0x5A17 ∨ (!a && !p) then s.setF PAT_STAT_result 3
  else if (a && p) || s.fb PAT_STAT_busy then s.setF PAT_STAT_result 2
  else if a then if s.phase = 6 then s.applyWindow else s.setF PAT_STAT_result 2
  else if s.phase = 6 ∨ s.phase = 7 then s.programWindow (b2n (bit w.toNat 2))
  else s.setF PAT_STAT_result 2

/-- PAT_APPLY: a write of PAT_CMD with apply = 1. -/
def execPatApply (w : W64) (s : State) : Res := guarded (s.served && bit w.toNat 0) s (s.patCmd w)

/-- PAT_PROGRAM: a write of PAT_CMD with program = 1. -/
def execPatProgram (w : W64) (s : State) : Res := guarded (s.served && bit w.toNat 1) s (s.patCmd w)

/-- What stands in the copy once `n` bytes of an image of `len` were written and no more: whole pages before the trailer, which comes last and
is one page, so that a cut leaves none of it (R316, R326). -/
def pagesOf (n len : Nat) : Nat := if n = len then n else min (len - 256) (n / 256 * 256)

/-- FLASH_PROGRAM_DONE: the flash has taken `written` bytes of the image; the copy is judged again (R326, R337). -/
def execFlashProgramDone (written : Nat) (complete : Bool) (s : State) : Res :=
  if s.fb PAT_STAT_busy then
    let rd := s.imgRead 2
    let n := pagesOf (min written (imgLen rd)) (imgLen rd)
    let c := s.pat.progCopy
    let s := (s.programCopy c (imgBytes rd 0 n)).setF PAT_PROG_bytes n
    let s := s.withPins { s.pins with nvmWp := true }
    let s := s.recordCopy c (s.judgeImage (s.imgRead c))
    .next (s.patResult (if complete ∧ n = imgLen rd then 1 else 6))
  else .next s

end Sys2Proof.Machine
end

