-- ==== Sys2Proof/Machine/AdmSys.lean ====
section
/-!
DEFINITION. The remaining admin commands (08_admin_queue.md R250 to R256) and the registers of the admin streams (R234, R256,
R257), with the background clear's stitch (11_pattern_and_startup.md R340).
-/
namespace Sys2Proof.Machine

/-! ## FENCE_ALL (R251) -/

/-- The work queues that FENCE_ALL covers. -/
def State.fenceScope (s : State) (adopted : Bool) : List Nat := s.queues.filter (fun q => decide (q ≠ 0) && (adopted || !isAdopted q))

/-- Fence the READY and STOPPED queues; they keep cq_stall (R251). -/
def State.fenceQueues (s : State) (adopted : Bool) : State :=
  forEach (s.fenceScope adopted) (fun q s =>
    let c := s.qctx q
    if c.state = .ready ∨ c.state = .stopped then (s.setQ q { c with state := .fenced, stopReq := false }).snapQ q else s) s

/-- Release the FENCED queues (R251). -/
def State.releaseFenced (s : State) (adopted : Bool) : State :=
  forEach (s.fenceScope adopted) (fun q s =>
    let c := s.qctx q
    if c.state = .fenced then (s.setQ q c.release).snapQ q else s) s

/-- No entry of a fenced queue is between started and data done. -/
def State.fenceQuiet (s : State) (adopted : Bool) : Bool :=
  s.fl.all (fun f => !(decide (f.phase = .started) && decide ((s.qctx f.q).state = .fenced) && (adopted || !isAdopted f.q)))

/-- The stitch of FENCE_ALL. -/
def State.fenceBegin (s : State) (st : Stream) (o : AdmOpen) : State :=
  let adopted := bit (o.cmd.words.getD 3 0).toNat 1
  if bit (o.cmd.words.getD 3 0).toNat 0 then (s.releaseFenced adopted).admDone st o 0 0
  else
    let s := s.fenceQueues adopted
    if s.fenceQuiet adopted then s.admDone st o 0 0 else s.setAdm st (some { o with begun := true, phase := 2 })

/-- FENCE_ALL opens, or completes when its wait has ended. -/
def execFenceAll (st : Stream) (s : State) : Res :=
  match s.admCmd st 0x28 with
  | none => .next s
  | some o =>
    if o.begun then
      .next (if s.run && s.fenceQuiet (bit (o.cmd.words.getD 3 0).toNat 1) then s.admDone st o 0 0 else s)
    else if s.admMay st then .next ((s.openAdm st o).cmdStitch st o [] (fun s => s.fenceBegin st o))
    else .next s

/-! ## UNIT_OFFLINE (R253) -/

/-- State of an engine or reduction unit. -/
def State.unitSt (s : State) (red : Bool) (u : Nat) : Nat := if red then s.redSt u else s.engSt u

/-- The state in which UNIT_OFFLINE finds a unit: the engine that runs the command's own stitch was IDLE, and goes with the end of
that stitch. -/
def State.offlineSt (s : State) (red : Bool) (u : Nat) : Nat :=
  if !red && decide (s.engSt u = 3) then 0 else s.unitSt red u

/-- Active units of the kind that are left once unit `u` and every unit told to leave have gone, and spares have taken their places as far
as there are spares, a shadowing one among them (R242, R253, R424). A spare that leaves takes no place. -/
def State.leftActive (s : State) (red : Bool) (u : Nat) : Nat :=
  let spare := decide (s.offlineSt red u = 4)
  let l := s.spr.leaving.filter (fun x => decide (x.1 = red))
  let gone := if spare then l else addNew l (red, u)
  (if red then s.redActive else s.engActive) - (gone.length - (s.sparesFor red - b2n spare))

/-- Units told to leave are left of the kind. -/
def State.someLeave (s : State) (red : Bool) : Bool := s.spr.leaving.any (fun x => decide (x.1 = red))

/-- What refuses UNIT_OFFLINE (R242). DESIGN CHOICE (log entry 40): a SPARE unit is refused with LAST_UNIT while a unit told to leave
counts on it. -/
def State.judgeOffline (s : State) (w : List W64) : List (Bool × Nat) :=
  let u := admF w 3 0 7
  let red := bit (w.getD 3 0).toNat 8
  let x := s.offlineSt red u
  let inRange := decide (u ≤ if red then 16 else 67)
  let active := decide (x = 0) || decide (x = 1)
  [ (!inRange, 0x02),
    (inRange && !(active || decide (x = 4)), 0x06),
    (inRange && (active || (decide (x = 4) && s.someLeave red)) && decide (s.leftActive red u < s.leastActive red), 0x0A) ]

/-- Set a unit OFFLINE. -/
def State.setOffline (s : State) (red : Bool) (u : Nat) : State := if red then s.setRed u 5 else s.setEng u 5

/-- The stitch of UNIT_OFFLINE: an IDLE or SPARE unit goes at once, a BOUND one at its next boundary (R253, R424). -/
def State.offlineBegin (s : State) (st : Stream) (o : AdmOpen) : State :=
  let w := o.cmd.words
  let u := admF w 3 0 7
  let red := bit (w.getD 3 0).toNat 8
  match refuse (s.judgeOffline w) with
  | some c => s.admDone st o c 0
  | none =>
    let x := s.offlineSt red u
    if x = 4 then (s.setOffline red u).admDone st o 0 0
    else if x = 0 then ((s.setOffline red u).spareIn red u).admDone st o 0 0
    else
      let s := s.withSpr { s.spr with leaving := addNew s.spr.leaving (red, u) }
      s.setAdm st (some { o with begun := true, phase := 2 })

/-- UNIT_OFFLINE opens, or completes once the unit reads OFFLINE, has failed, or stays as the last of its kind (R242, R253, R425). -/
def execUnitOffline (st : Stream) (s : State) : Res :=
  match s.admCmd st 0x20 with
  | none => .next s
  | some o =>
    if o.begun then
      let red := bit (o.cmd.words.getD 3 0).toNat 8
      let u := admF o.cmd.words 3 0 7
      let x := s.unitSt red u
      .next (if !s.run then s else if x = 5 then s.admDone st o 0 0 else if x = 7 then s.admDone st o 0x06 0
        else if (red, u) ∈ s.spr.leaving then s else s.admDone st o 0x0A 0)
    else if s.admMay st then .next ((s.openAdm st o).cmdStitch st o [] (fun s => s.offlineBegin st o))
    else .next s

/-! ## SCRUB_CSTORE (R250) -/

/-- What refuses SCRUB_CSTORE (R242). -/
def judgeScrub (w : List W64) : List (Bool × Nat) :=
  let a := admF w 3 0 32
  let n := admF w 3 32 32
  [(decide (n = 0) || decide (a % 65536 ≠ 0) || decide (n % 65536 ≠ 0) || decide (csSize < a + n), 0x02)]

/-- Words of the context store that have decayed since they were last read: a single bit, or more than one (R448). -/
def State.decay (s : State) (single double : List Nat) : State :=
  let put (y : Nat) (s : State) (o : Nat) : State :=
    if o % 8 = 0 ∧ o < csSize ∧ s.synOf (s.pat.csBase + o) = 0 then s.putSyn ((s.pat.csBase + o) / 8) y else s
  double.foldl (put 3) (single.foldl (put 1) s)

/-- The mover's own contexts in the cache that lie in the block at offset `a` of the context store. -/
def State.cachedIn (s : State) (a : Nat) : List (CtxKind × Nat) :=
  (s.cache.ways.flatMap (fun x => x.2.map (fun n => (kindOfKey x.1, n)))).filter (fun y =>
    decide (y.2 < ctxCount y.1 / 2) && decide (a ≤ ctxOffset y.1 y.2) && decide (ctxOffset y.1 y.2 < a + 65536))

/-- Write the cached contexts of a block back to the context store (R250). -/
def State.flushBlock (s : State) (a : Nat) : State :=
  forEach (s.cachedIn a) (fun y s => s.writePkg (s.pat.csBase + ctxOffset y.1 y.2) (s.ctxBytes y.1 y.2) false) s

/-- Words of a block of the context store whose syndrome is not zero. -/
def State.faultyIn (s : State) (a : Nat) : List Nat :=
  (s.mem.syn.map (·.1)).filter (fun k => decide (s.pat.csBase + a ≤ 8 * k) && decide (8 * k < s.pat.csBase + a + 65536))

/-- Rewrite a word with its single-bit correction (R250, R448). -/
def State.rewriteWord (s : State) (k : Nat) : State := (s.putPkgs (8 * k) (s.pkgBytes (8 * k) 8)).putSyn k 0

/-- Read every word of the block at offset `a`: corrected words are counted and rewritten, uncorrectable ones counted and logged;
the answer is their number (R250, R413, R470). -/
def State.scrubBlock (s : State) (a : Nat) : State × Nat :=
  let l := s.faultyIn a
  let fix := l.filter s.wordFixed
  let bad := l.filter s.wordBad
  let s := (s.sat IZ_MEMP_STAT_corrected fix.length).sat IZ_MEMP_STAT_uncorrectable bad.length
  let s := forEach bad (fun k s => s.log 0x0B 3 0 0 0 (8 * k - s.pat.csBase)) s
  (forEach fix (fun k s => s.rewriteWord k) s, bad.length)

/-- One stitch of SCRUB_CSTORE over the next 64 KiB; a block that the background clear has not reached is cleared instead
(R250, R341). -/
def State.scrubStitch (s : State) (st : Stream) (o : AdmOpen) : State :=
  let w := o.cmd.words
  let a := admF w 3 0 32 + o.done
  let b := storeBlock a
  let fresh := s.fb PAT_STAT_clearing && decide (s.clearNext ≤ b) && decide (b ∉ s.pat.early)
  let r := if fresh then (s.touchBlock b, 0)
    else (if bit (w.getD 4 0).toNat 0 then s.flushBlock a else s).scrubBlock a
  let o := { o with begun := true, done := o.done + 65536, total := admF w 3 32 32, value := o.value + r.2 }
  if o.total ≤ o.done then r.1.admDone st o 0 o.value else r.1.setAdm st (some o)

/-- SCRUB_CSTORE: its next stitch; `single` and `double` are the offsets of words that have decayed before it. -/
def execScrubCstore (st : Stream) (single double : List Nat) (s : State) : Res :=
  match s.admCmd st 0x22 with
  | none => .next s
  | some o =>
    if s.admMay st then
      .next (((s.decay single double).openAdm st o).cmdStitch st o (if (refuse (judgeScrub o.cmd.words)).isNone then [resCstore] else []) (fun s =>
        match refuse (judgeScrub o.cmd.words) with
        | some c => s.admDone st o c 0
        | none => s.scrubStitch st o))
    else .next s

/-! ## The trace (R153, R254) -/

/-- What refuses TRACE_START (R242, R331). -/
def State.judgeTraceStart (s : State) (w : List W64) : List (Bool × Nat) :=
  let k := admF w 3 1 5
  let a := admF w 1 0 64
  [ (decide (k < 12) || decide (30 < k) || decide (a % 4096 ≠ 0) || (bit (w.getD 3 0).toNat 0 && s.reserved a (2 ^ k)), 0x02),
    (s.fb TB_TRACE_CFG_on, 0x06) ]

/-- Carry out TRACE_START (R254). -/
def State.doTraceStart (s : State) (w : List W64) : State × Nat :=
  let t := s.trace
  let t := { t with base := w.getD 1 0, device := bit (w.getD 3 0).toNat 0, hostp := s.fb ADM_CFG_hostp_sel,
                    sizeLog2 := admF w 3 1 5, failed := false, recs := [] }
  let s := ((s.withTrace t).setF TB_TRACE_PI_pi 0).setF TB_TRACE_CI_ci 0
  (s.setF TB_TRACE_CFG_on 1, 0)

/-- TRACE_START. -/
def execTraceStart (st : Stream) (s : State) : Res := .next (s.oneStitch st 0x30 State.judgeTraceStart State.doTraceStart)

/-- TRACE_STOP has nothing left to wait for: every record is copied, or a failed copy drops it (R153, R254). -/
def State.traceQuiet (s : State) : Bool := s.trace.recs.isEmpty || s.trace.failed

/-- The end of TRACE_STOP, which reports a failed copy and drops what is left (R153, R254). -/
def State.traceEnd (s : State) (st : Stream) (o : AdmOpen) : State :=
  let code := if s.trace.access then 0x0D else 0
  let s := s.sat TB_TRACE_LOST_lost s.trace.recs.length
  State.admDone (s.withTrace { s.trace with access := false, recs := [] }) st o code 0

/-- The stitch of TRACE_STOP. -/
def State.traceStopBegin (s : State) (st : Stream) (o : AdmOpen) : State :=
  if !s.fb TB_TRACE_CFG_on && !s.trace.access then s.admDone st o 0x06 0
  else
    let s := s.setF TB_TRACE_CFG_on 0
    if s.traceQuiet then s.traceEnd st o else s.setAdm st (some { o with begun := true, phase := 2 })

/-- TRACE_STOP opens, or completes when its wait has ended: records for which the drain buffer stayed full, from before the command
waited until it is looked at again, are dropped (R153; log entry 17). -/
def execTraceStop (st : Stream) (s : State) : Res :=
  match s.admCmd st 0x31 with
  | none => .next s
  | some o =>
    if o.begun then .next (if s.run && (s.traceQuiet || s.drainFull) then s.traceEnd st o else s)
    else if s.admMay st then .next ((s.openAdm st o).cmdStitch st o [] (fun s => s.traceStopBegin st o))
    else .next s

/-! ## Firmware-served commands (R256) -/

/-- What refuses UNIT_ONLINE (R239, R242). -/
def State.judgeOnline (s : State) (w : List W64) : List (Bool × Nat) :=
  let u := admF w 3 0 7
  let red := bit (w.getD 3 0).toNat 8
  let inRange := decide (u ≤ if red then 16 else 67)
  [(!inRange, 0x02), (inRange && decide (s.unitSt red u ≠ 5), 0x06)]

/-- What refuses SET_MIRROR (R239, R242, R348). -/
def State.judgeSetMirror (s : State) (w : List W64) : List (Bool × Nat) :=
  let q := admF w 2 0 22
  let m := admF w 3 0 2
  let free := decide ((s.qctx q).state = .free)
  [ (decide (q = 0), 0x01),
    (decide (m = 3), 0x02),
    (free, 0x04),
    (isAdopted q && !free, 0x06),
    (decide (m ≠ 0) && !s.laceUp, 0x0B) ]

/-- UNIT_ONLINE goes to firmware (R240, R434). -/
def execUnitOnline (st : Stream) (s : State) : Res := .next (s.fwOpen st (fun op => decide (op = 0x21)) State.judgeOnline)
/-- SET_MIRROR goes to firmware (R240, R357). -/
def execSetMirror (st : Stream) (s : State) : Res := .next (s.fwOpen st (fun op => decide (op = 0x29)) State.judgeSetMirror)
/-- A firmware-defined command goes to firmware (R240). -/
def execFwCmd (st : Stream) (s : State) : Res := .next (s.fwOpen st isFwCmd (fun _ _ => []))
/-- FW_TIMEOUT: firmware has not answered within timeout µs; a timeout of 0 never passes (R256). -/
def execFwTimeout (s : State) : Res :=
  guarded (s.run && s.adm.fw.isSome && decide (s.f ADM_FW_CFG_timeout ≠ 0)) s (s.fwEnd 0x10 0)
/-- ADM_FW_DONE: the answer to the command with firmware, or a late one (R256). -/
def execAdmFwDone (w : W64) (s : State) : Res :=
  if s.adm.fw.isSome ∧ bits w.toNat 40 16 = s.f ADM_FW_CFG_seq then
    .next (if s.run then s.fwEnd (bits w.toNat 0 8) (bits w.toNat 8 32) else s)
  else guarded s.served s (s.cnt ADM_FW_CFG_late)

/-! ## The registers of the streams -/

/-- The other fields of a write to ADM_CFG, taken while enable is 0 (R234). -/
def State.admFields (s : State) (w : W64) : State :=
  s.setReg ADM_CFG (BitVec.ofNat 64 (bits w.toNat 1 26 * 2 + s.f ADM_CFG_cfg_err * 2 ^ 27))

/-- The checks of an enabling write (R234). -/
def State.admFieldsOk (s : State) : Bool :=
  let wq := (s.reg ADM_WQ_BASE).toNat
  let cq := (s.reg ADM_CQ_BASE).toNat
  let a := s.f ADM_CFG_wq_size_log2
  let b := s.f ADM_CFG_cq_size_log2
  decide (wq % 4096 = 0) && decide (cq % 4096 = 0) && decide (4 ≤ a) && decide (a ≤ 20) && decide (6 ≤ b) && decide (b ≤ 22)
    && !(s.fb ADM_CFG_wq_res && s.reserved wq (2 ^ a * 64)) && !(s.fb ADM_CFG_cq_res && s.reserved cq (2 ^ b * 32))
    && decide ((s.reg ADM_CQ_WB).toNat % 8 = 0) && !(s.fb ADM_CFG_irq_en && decide (s.f ADM_CFG_irq_src = 0))

/-- The ring stream is enabled: every index is 0, the admin queue READY and CQID 0 ACTIVE (R233, R234). The queue keeps the
created_mt of outputs start; CQID 0, which no command creates, has created_mt 0 (log entry 18). -/
def State.startRing (s : State) : State :=
  let own (h : Held) : Bool := decide (h.c ≠ 0)
  let k := s.cqs
  let q : QCtx := { QCtx.zero with
    state := .ready, device := s.fb ADM_CFG_wq_res, echk := s.fb ADM_CFG_echk, sizeLog2 := s.f ADM_CFG_wq_size_log2,
    stitchLog2 := 16, hostpSel := s.fb ADM_CFG_hostp_sel, ringBase := s.reg ADM_WQ_BASE, servedMt := (s.qctx 0).servedMt,
    createdMt := (s.qctx 0).createdMt, served := (s.qctx 0).served }
  let x : CqCtx := { CqCtx.zero with
    state := .active, device := s.fb ADM_CFG_cq_res, hostpSel := s.fb ADM_CFG_hostp_sel, wbEn := s.fb ADM_CFG_wb_en,
    sizeLog2 := s.f ADM_CFG_cq_size_log2, irqEn := s.fb ADM_CFG_irq_en, irqSrc := s.f ADM_CFG_irq_src,
    ringBase := s.reg ADM_CQ_BASE, wbAddr := s.reg ADM_CQ_WB }
  let s := ((s.withAdm { s.adm with fetched := [], ring := none, disabling := false }).withCqs { spill := k.spill.filter own, waiting := k.waiting.filter own, issued := k.issued.filter (fun y => own y.2), wbs := k.wbs.filter (fun y => decide (y.1 ≠ 0)) })
  let s := (s.touchBlock (storeBlock (ctxOffset .queue 0))).touchBlock (storeBlock (ctxOffset .ring 0))
  let s := ((s.setQ 0 q).setC 0 x).setF ADM_CFG_cfg_err 0
  ((s.setF ADM_CFG_enable 1).warm .queue 0).warm .ring 0

/-- ADM_ENABLE: a write of ADM_CFG with enable = 1 (R234, R335). -/
def execAdmEnable (w : W64) (s : State) : Res :=
  if s.fb ADM_CFG_enable then .next (s.withAdm { s.adm with disabling := false })
  else
    let t := s.admFields w
    guarded s.served s (if t.run && t.admFieldsOk then t.startRing else t.setF ADM_CFG_cfg_err 1)

/-- ADM_DISABLE: a write of ADM_CFG with enable = 0 (R234). -/
def execAdmDisable (w : W64) (s : State) : Res :=
  if s.fb ADM_CFG_enable then
    .next (if s.adm.ring.isSome then (s.withAdm { s.adm with disabling := true }) else s.stopRing)
  else guarded s.served s (s.admFields w)

/-- ADM_COB_LOCK (R257). -/
def execAdmCobLock (w : W64) (s : State) : Res :=
  let n := bits w.toNat 0 3
  if n = 0 then guarded s.served s (s.setF ADM_COB_LOCK_holder 0)
  else guarded (s.served && decide (n ≤ 4) && !s.fb ADM_COB_LOCK_holder) s (s.setF ADM_COB_LOCK_holder n)

/-- ADM_COB_GO: the command in ADM_COB_CMD opens in the COB stream, or is refused with BAD_CMD; a write while busy is 1 or
outside RUN does nothing (R237, R257, R335). -/
def execAdmCobGo (w : W64) (s : State) : Res :=
  if bit w.toNat 0 ∧ s.run ∧ ¬ s.fb ADM_COB_RES_busy then
    let l := (List.range 8).map (fun k => s.reg (ADM_COB_CMD k))
    let o := openCmd { idx := s.adm.cobCount, words := l, acceptMt := s.mt }
    let s := (s.withAdm { s.adm with cobCount := s.adm.cobCount + 1 }).setF ADM_COB_RES_busy 1
    match admCause false l with
    | some _ => .next (s.admDone .cob o 0x11 0)
    | none => .next (s.setAdm .cob (some { o with phase := if isFw (admOp l) then 2 else 1 })).lineUp
  else .next s

/-! ## The background clear (R340) -/

/-- What the clear's next block is written through: CSTORE, or MEMP for the region table (R259, R340). -/
def State.clearNeeds (s : State) : List Nat := if s.clearNext < 5120 then [resCstore] else [3]

/-- CLEAR_STITCH: in its turn, an engine clears the next block (R255, R340). -/
def execClearStitch (s : State) : Res :=
  if s.fb PAT_STAT_clearing ∧ s.mayBackground then
    .next (s.admStitch 3 0 s.clearNeeds (fun s => s.clearStep))
  else .next s

end Sys2Proof.Machine
end

