-- ==== Sys2Proof/Machine/Irq.lean ====
section
/-!
DEFINITION. Commands of the interrupt controller (10_interrupt_controller.md R287 to R315).
-/
namespace Sys2Proof.Machine

/-- The pending bits of a target's sources that are not active become what their counts say (R296, R297). -/
def State.rederive (s : State) (t : Nat) : State :=
  forEach (s.liveSrcs.filter (fun n => decide (n ≠ 0))) (fun n s =>
    if s.srcTgt n = t ∧ ¬ s.srcActive n then s.setPend n (s.fb (IC_CNT_count n)) else s) s

/-- IC_SET: one event on the named source; a write of 0 has no effect (R288). -/
def execIcSet (src : BitVec 10) (s : State) : Res :=
  guarded s.served s (s.raise src.toNat)

/-- EXT_INT_ASSERT: the filtered line asserts and makes an event (R292). -/
def execExtIntAssert (n : Nat) (s : State) : Res :=
  guarded (s.served && decide (n < 16) && !s.fb (IC_LINE_STATE_level n)) s ((s.setF (IC_LINE_STATE_level n) 1).raise (n + 1))

/-- EXT_INT_REARM: in level mode a line that stays asserted makes another event (R292). -/
def execExtIntRearm (n : Nat) (s : State) : Res :=
  guarded (decide (n < 16) && s.fb (IC_LINE_STATE_level n) && s.fb (IC_LINE_CFG_mode n)) s (s.raise (n + 1))

/-- EXT_INT_GLITCH: a pulse shorter than the filter is only counted; the first one raises source 55 (R292). -/
def execExtIntGlitch (n : Nat) (s : State) : Res :=
  let t := s.cnt (IC_LINE_STATE_glitches n)
  guarded (s.served && decide (n < 16)) s (if s.f (IC_LINE_STATE_glitches n) = 0 then t.raise 55 else t)

/-- EXT_INT_DEASSERT (R292). -/
def execExtIntDeassert (n : Nat) (s : State) : Res := guarded (s.served && decide (n < 16)) s (s.setF (IC_LINE_STATE_level n) 0)

/-- Source `a` is claimed before source `b` (R295). -/
def State.claimBefore (s : State) (a b : Nat) : Bool :=
  let x := s.f (IC_SRC_CFG_prio a)
  let y := s.f (IC_SRC_CFG_prio b)
  decide (y < x) || (decide (x = y) && decide (a < b))

/-- The source that a claim at target `t` returns (R295). -/
def State.claimable (s : State) (t : Nat) : Option Nat :=
  maxBy s.claimBefore (s.liveSrcs.filter (fun n => s.signals n && decide (s.srcTgt n = t) && decide (n ≠ 0)))

/-- Claim at target `t` (R295). -/
def State.claim (s : State) (t : Nat) : State :=
  match s.claimable t with
  | none => (s.cnt (IC_TGT_STAT_spurious t)).ret 0
  | some n =>
    let p := s.f (IC_SRC_CFG_prio n)
    let s := (s.setF (IC_CNT_active n) 1).setF (IC_CNT_count n) (s.f (IC_CNT_count n) - 1)
    let s := (s.setPend n false).endSignal n
    ((s.setStack t ((n, p) :: s.stack t)).judgeAll).ret (BitVec.ofNat 64 n)

/-- Ball IRQ_OUT_N[j] is asserted: its target has a request, and outputs are on (R306, R308). -/
def State.irqOut (s : State) (j : Nat) : Bool :=
  s.outputsOn && s.fb (IC_OUT_CFG_en j) && s.liveSrcs.any (fun n => s.signals n && decide (s.srcTgt n = s.f (IC_OUT_CFG_target j)))

/-- IC_CLAIM: a read of IC_CLAIM[t]. -/
def execIcClaim (t : Nat) (s : State) : Res := guarded (s.served && decide (t < 8)) s (s.beginRead.claim t)

/-- End of interrupt at target `t` (R296). -/
def State.eoi (s : State) (t src : Nat) : State :=
  match s.stack t with
  | [] => s.cnt (IC_TGT_STAT_eoi_bad t)
  | x :: r =>
    let s := (s.setStack t r).setF (IC_CNT_active x.1) 0
    let s := if src = x.1 then s else s.cnt (IC_TGT_STAT_eoi_bad t)
    (s.rederive t).judgeAll

/-- IC_EOI: a write to IC_EOI[t]. -/
def execIcEoi (t : Nat) (src : BitVec 10) (s : State) : Res := guarded (s.served && decide (t < 8)) s (s.eoi t src.toNat)

/-- RESYNC: a write of 1 to IC_TGT_CMD[t].resync (R297). -/
def execResync (t : Nat) (s : State) : Res := guarded (s.served && decide (t < 8)) s (s.rederive t).judgeAll

/-- IC_CNT_CLEAR: count and pending bit of a source to 0 (R289, R311). -/
def execIcCntClear (src : Nat) (s : State) : Res :=
  guarded (s.served && decide (0 < src) && decide (src < 1024)) s (((s.setF (IC_CNT_count src) 0).setPend src false).judgeMsg src)

/-- The latest message of source `src` that has left and has not failed. -/
def State.msgOf (s : State) (src : Nat) : Option HostMsg := s.ic.msgs.find? (fun m => decide (m.src = src))

/-- A message fails at its host port: it is counted, logged with its own vector, port and address, and raises source 56 unless it
was that source's (R305, R413). A write that fails has stored nothing: what stood at its address stands there. -/
def State.msgFail (s : State) (m : HostMsg) : State :=
  let s := s.withIc { s.ic with msgs := s.ic.msgs.filter (fun x => decide (x.src ≠ m.src)) }
  let s := ((if m.landed then s.writeHost none m.addr m.old false else s).cnt IC_MSG_STAT_failed).setF IC_MSG_STAT_last_vec m.vector
  let s := s.logIn 1 0x09 3 m.vector (b2n m.hostp) m.src m.addr
  if m.src = 56 then s else s.raise 56

/-- MSG_FAIL: the write of the latest message of source `src` fails. -/
def execMsgFail (src : Nat) (s : State) : Res :=
  match s.msgOf src with
  | some m => .next (s.msgFail m)
  | none => .next s

/-! ## Cobbler cores (R309, R310, R315) -/

/-- The wake condition of core `c` (R309). -/
def State.wakes (s : State) (c : Nat) : Bool :=
  s.liveSrcs.any (fun n => decide (s.srcTgt n = c) && s.fb (IC_SRC_CFG_prio n) && s.pend n && !s.srcActive n)

/-- A write of WAIT or DOZE: the core sleeps unless its wake condition holds, and then the wake is counted (R310). -/
def State.cobSleep (s : State) (c st : Nat) : State :=
  if s.wakes c then s.cnt (COB_PWR_wakes c) else s.setF (COB_PWR_state c) st

/-- COB_WAIT. -/
def execCobWait (c : Nat) (s : State) : Res := guarded (s.served && decide (c < 4)) s (s.cobSleep c 1)

/-- COB_DOZE. -/
def execCobDoze (c : Nat) (s : State) : Res := guarded (s.served && decide (c < 4)) s (s.cobSleep c 2)

/-- COB_WAKE: a sleeping core whose wake condition holds resumes (R309). -/
def execCobWake (c : Nat) (s : State) : Res :=
  guarded (decide (c < 4) && s.fb (COB_PWR_state c) && s.wakes c) s ((s.setF (COB_PWR_state c) 0).cnt (COB_PWR_wakes c))

end Sys2Proof.Machine
end

