-- ==== Sys2Proof/Machine/Ports.lean ====
section
/-!
DEFINITION. Transactions that a port turns away (15_boundary_ports_clocks_and_balls.md R439, R450, R489).
-/
namespace Sys2Proof.Machine

/-- The state that an outcome leaves; a step that gives none leaves the state as it was. -/
def State.after (s : State) : Res → State
  | .next t => t
  | _ => s

/-- The next burst of source `src` on engine `e` lies in space `sp`. -/
def State.burstIn (s : State) (e src sp : Nat) : Bool :=
  match s.onEngine e with
  | some (f, _) => decide (f.e.space (f.reader src).1 = sp)
  | none => false

/-- An entry's table on side `d` lies in space `sp`. -/
def State.tableIn (s : State) (q : Nat) (i : W32) (d : Dir) (sp : Nat) : Bool :=
  match s.flight? q i with
  | some f => decide (tableSpace (f.e.space d) = sp)
  | none => false

/-- A data write in space `sp` fails with entry status `st` (R80). -/
def State.lostWrite (s : State) (q : Nat) (i : W32) (w sp st : Nat) (count : State → State) : State :=
  match s.flight? q i with
  | none => s
  | some f =>
    match f.writes.find? (fun x => decide (x.w = w)) with
    | none => s
    | some x => if x.space = sp ∧ s.run then (count s).failWrite q i w st else s

/-- A record or write-back write of ring `c` in space `sp` fails (R141). -/
def State.lostRecord (s : State) (c sp : Nat) (count : State → State) : State :=
  let x := s.cctx c
  if (x.state = .active ∨ x.state = .full) ∧ s.run ∧ spaceOf x.device = sp then
    State.breakRing (count s) c (decide (sp = 1))
  else s

/-- The response of the stream's QUERY command, when it goes to space `sp`, is lost (R239). -/
def State.lostResponse (s : State) (st : Stream) (sp : Nat) (counted : Bool) : State :=
  match s.admCmd st 0x05, s.admCmd st 0x0B with
  | some o, _ => if admF o.cmd.words 2 32 1 = sp then s.queryWq st (some counted) else s
  | none, some o => if admF o.cmd.words 3 32 1 = sp then s.queryCq st (some counted) else s
  | none, none => s

/-- The next trace copy, to a drain buffer in space `sp`, fails (R254). -/
def State.lostCopy (s : State) (sp : Nat) (count : State → State) : State :=
  if 0 < s.copyLen ∧ s.run ∧ ¬ s.trace.failed ∧ spaceOf s.trace.device = sp then (count s).traceFail else s

/-- The region that a fold names is backed by host memory. -/
def State.foldHost (s : State) (f : FoldSeg) : Bool := (s.remoteKey f.key.toNat f.ofs (foldLen f) .rred).1.hostBacked

/-- A failed access to the context store, the region table or the mirror area is fatal (R417). -/
def State.lostReserved (s : State) (ofs : Nat) (count : State → State) : State :=
  if 7 ≤ s.phase then (count s).fatal 0x03 0 0 ofs else s

/-- TRANSACTION_REJECTED: the host interface turns a transaction away (R439). -/
def execTransactionRejected (t : Txn) (s : State) : Res :=
  match t with
  | .dataRead e k => .next (if s.burstIn e k 0 then s.after (execDataReadDone e k .rejected s) else s)
  | .dataWrite q i w => .next (s.lostWrite q.toNat i w 0 stXlat (fun s => s.portReject 0 (s.qctx q.toNat).port))
  | .tableRead q i d => .next (if s.tableIn q.toNat i d 0 then s.after (execFragmentTableReadDone q i d .rejected s) else s)
  | .listRead q i => .next (if s.tableIn q.toNat i .src 0 then s.after (execSourceListReadDone q i .rejected s) else s)
  | .entryFetch q => .next (if (s.qctx q.toNat).device then s else s.after (execEntryFetchDone q .rejected s))
  | .record c => .next (s.lostRecord c 0 (fun s => s.portReject 0 (b2n (s.cctx c).hostpSel)))
  | .hostMessage n =>
    match s.msgOf n with
    | some m => .next ((s.portReject 0 (b2n m.hostp)).msgFail m)
    | none => .next s
  | .queryResponse st => .next (s.lostResponse st 0 true)
  | .traceCopy => .next (s.lostCopy 0 (fun s => s.portReject 0 (b2n s.trace.hostp)))
  | .cobAccess c p => guarded s.served s ((s.portReject 0 (b2n p)).emit (.cobError (some c)))
  | .foldWrite f => .next (if s.foldHost f then s.fold f .rejected false else s)
  | .reserved _ => .next s

/-- MEM_WRITE_ERROR: in-package memory fails to store a write (R489). -/
def execMemWriteError (t : Txn) (s : State) : Res :=
  match t with
  | .dataWrite q i w => .next (s.lostWrite q.toNat i w 1 stMemWrite (fun s => s))
  | .record c => .next (s.lostRecord c 1 (fun s => s))
  | .queryResponse st => .next (s.lostResponse st 1 false)
  | .traceCopy => .next (s.lostCopy 1 (fun s => s))
  | .foldWrite f => .next (if s.foldHost f then s else s.fold f .ok true)
  | .reserved o => .next (s.lostReserved o (fun s => s))
  | _ => .next s

/-- MEMP_ADDRESS_ERROR: an address outside in-package memory (R450). -/
def execMempAddressError (t : Txn) (s : State) : Res :=
  match t with
  | .dataRead e k => .next (if s.burstIn e k 1 then s.after (execDataReadDone e k .rejected s) else s)
  | .dataWrite q i w => .next (s.lostWrite q.toNat i w 1 stKeyBounds (fun s => s.portReject 1 0))
  | .tableRead q i d => .next (if s.tableIn q.toNat i d 1 then s.after (execFragmentTableReadDone q i d .rejected s) else s)
  | .listRead q i => .next (if s.tableIn q.toNat i .src 1 then s.after (execSourceListReadDone q i .rejected s) else s)
  | .entryFetch q => .next (if (s.qctx q.toNat).device then s.after (execEntryFetchDone q .rejected s) else s)
  | .record c => .next (s.lostRecord c 1 (fun s => s.portReject 1 0))
  | .queryResponse st => .next (s.lostResponse st 1 true)
  | .traceCopy => .next (s.lostCopy 1 (fun s => s.portReject 1 0))
  | .foldWrite f => .next (if s.foldHost f then s else s.fold f .rejected false)
  | .reserved o => .next (s.lostReserved o (fun s => s.portReject 1 0))
  | .hostMessage _ => .next s
  | .cobAccess _ _ => .next s

end Sys2Proof.Machine
end

