-- ==== Sys2Proof/Machine/Takeover.lean ====
section
/-!
DEFINITION. Commands of the pair: what the owner hears from its keeper, halt notices, the fellow's signs, takeover and
adoption (12_pair_mirroring_and_takeover.md R352, R357 to R373).
-/
namespace Sys2Proof.Machine

/-! ## What the owner hears -/

/-- MIRROR_ACK: every record up to `seq` is acknowledged; an older acknowledgement says nothing new (R352). -/
def execMirrorAck (seq : W32) (s : State) : Res :=
  let s := s.consume 0 1 (slotMsg 0x32 0 seq 0)
  if s.mirrorOn ∧ s.run ∧ idxDiff seq s.pair.acked < idxDiff s.pair.seq s.pair.acked then .next (s.takeAck seq) else .next s

/-- READY: the owner sends its snapshots and SYNC_END (R359). -/
def execReady (s : State) : Res :=
  let s := s.consume 0 1 (slotMsg 0x33 0 0 0)
  if s.run ∧ s.f PAIR_STAT_send_state = 1 ∧ ¬ s.pair.readyIn then
    .next (State.sendSnapshots (s.withPair { s.pair with readyIn := true, heldBack := [] }))
  else .next s

/-- SEND_STATE: a fellow whose send state is LOST while the link is up holds this mover's former queues: this mover's send
state is BLOCKED until it ends, and a full sync follows (R358, R373). A fellow whose send state is OFF keeps no mirror either
(R346, R359), and one that starts a full sync starts it at both ends. -/
def execSendState (st : BitVec 3) (s : State) : Res :=
  let v := st.toNat
  let s := s.consume 0 1 (slotMsg 0x34 0 0 (BitVec.ofNat 64 v))
  let s := s.withPair { s.pair with fellowSend := v }
  if ¬ s.run then .next s
  else if v = 3 ∧ s.f PAIR_STAT_send_state ≠ 4 ∧ s.f PAIR_STAT_phase = 0 then .next (s.setSend 4).countLoss
  else if v = 0 ∧ s.f PAIR_STAT_phase = 0 then .next (if s.f PAIR_STAT_send_state = 0 then s else s.goOff)
  else if v ≠ 3 ∧ s.f PAIR_STAT_send_state = 4 then .next s.startSync
  else if v = 1 ∧ (s.f PAIR_STAT_send_state = 0 ∨ s.f PAIR_STAT_send_state = 2) then .next s.startSync
  else .next s

/-! ## Halt notices (R362, R365) -/

/-- Load PAIR_NOTICE from a halt notice (R375). -/
def State.loadNotice (s : State) (n : Notice) : State :=
  let b := n.b.toNat
  let s := ((s.setF PAIR_NOTICE_halt_cause (bits b 0 8)).setF PAIR_NOTICE_cause (bits b 8 8)).setF PAIR_NOTICE_qid n.qid.toNat
  ((s.setF PAIR_NOTICE_IDX_index n.a.toNat).setF PAIR_NOTICE_IDX_last_seq (bits b 16 32)).setReg PAIR_NOTICE_MT n.mt

/-- A halt notice is received: loaded, source 48 raised, and a takeover condition unless this mover is halted too (R365, R366).
A repeat, which its hallmark shows, is only acknowledged again (R362). -/
def State.takeNotice (s : State) (n : Notice) : State :=
  if s.pair.noticed ∧ s.reg PAIR_NOTICE_MT = n.mt then s
  else
    let s := (s.loadNotice n).raise 48
    let s := s.withPair { s.pair with noticed := true }
    if s.run then s.condition else s

/-- HALT_NOTICE: a halt notice arrives and is acknowledged on CTRL. -/
def execHaltNotice (n : Notice) (s : State) : Res :=
  let s := s.consume 0 1 (slotMsg 0x30 n.qid n.a n.b)
  guarded (s.run || s.halted) s ((s.takeNotice n).ctrlMsg 0x31 n.qid n.a 0)

/-- HALT_ACK: the fellow has the notice, and its repeats stop (R362). -/
def execHaltAck (qid : BitVec 22) (a : W32) (s : State) : Res :=
  let s := s.consume 0 1 (slotMsg 0x31 qid a 0)
  guarded (s.halted && decide (qid.toNat = s.f PAIR_HALT_qid) && decide (a.toNat = s.f PAIR_HALT_IDX_index)) s
    (s.withPair { s.pair with noticeAck := true })

/-- HALT_NOTICE_RESEND: 1 us without an acknowledgement: the notice goes again, at most 16 times in all (R362). -/
def execHaltNoticeResend (s : State) : Res :=
  guarded (s.halted && !s.pair.noticeAck && decide (s.pair.notices < 16)) s s.sendNotice

/-! ## Signs, the takeover delay and commands (R360, R364 to R366) -/

/-- A sign of a halted or unpowered fellow: FELLOW_ALIVE low or HALT_IN_N asserted (R360). -/
def State.sign (s : State) : Bool := !s.fb PAIR_STAT_fellow_alive || s.fb PAIR_STAT_halt_in

/-- A filtered input of the pair changes: source 48, and the condition of link and sign ends with the sign (R364, R365). -/
def State.signChange (s : State) (d : Fld) (v : Nat) : State :=
  let s := (s.setF d v).raise 48
  if s.sign ∨ s.pair.noticed then s else s.setF PAIR_STAT_cond 0

/-- FELLOW_ALIVE_CHANGE. -/
def execFellowAliveChange (level : Bool) (s : State) : Res :=
  guarded (decide (s.phase ≠ 0) && decide (s.f PAIR_STAT_fellow_alive ≠ b2n level)) s
    (s.signChange PAIR_STAT_fellow_alive (b2n level))

/-- HALT_IN_CHANGE; with its end the fellow may be in RUN, and a full sync that waited for that starts (R359). -/
def execHaltInChange (asserted : Bool) (s : State) : Res :=
  guarded (decide (s.phase ≠ 0) && decide (s.f PAIR_STAT_halt_in ≠ b2n asserted)) s
    (let t := s.signChange PAIR_STAT_halt_in (b2n asserted)
     if !asserted && t.laceUp && t.run && !t.mirrorOn && decide (t.f PAIR_STAT_send_state ≠ 4) then t.startSync else t)

/-- TAKEOVER_DELAY: PAIR_TAKEOVER_DELAY has passed with the link down: with a sign held all the time, a takeover condition
holds unless the mirror is already LOST; with none, the mirror is lost (R360, R365). -/
def execTakeoverDelay (s : State) : Res :=
  if s.fb LACE_STAT_down ∧ s.run then
    if s.sign then
      .next (if s.f PAIR_STAT_keep_state = 3 ∨ s.fb PAIR_STAT_cond then s else s.condition)
    else .next s.enterLost
  else .next s

/-- The key of PAIR_CMD (R376). -/
def pairKey (w : W64) : Bool := decide (bits w.toNat 16 16 = 0x5A17)

/-- PAIR_CMD.adopt: take over, which raises source 49 as it starts, or count the refusal where the mirror is not SYNCED (R287,
R366). -/
def State.adoptCmd (s : State) : State :=
  if s.f PAIR_STAT_keep_state = 2 then
    if s.f PAIR_STAT_phase = 0 then (s.raise 49).takeOver else s
  else s.cnt PAIR_ADOPT_refused

/-- ADOPT: a write of PAIR_CMD with adopt = 1. -/
def execAdopt (w : W64) (s : State) : Res := guarded (pairKey w && bit w.toNat 0 && s.run) s s.adoptCmd

/-- HALT_COMMAND: a write of PAIR_CMD with halt = 1 (R361). -/
def execHaltCommand (w : W64) (s : State) : Res := guarded (pairKey w && bit w.toNat 1 && s.run) s (s.halt 5 0 0 0)

/-! ## Adoption (R367, R368) -/

/-- DRAIN_LIMIT: drain_limit us have passed in DRAIN (R367). -/
def execDrainLimit (s : State) : Res := guarded (s.run && decide (s.f PAIR_STAT_phase = 1)) s s.startAdopt

/-- Bits that one adoption stitch scans at most, and queues it adopts at most (R367). -/
def scanBits : Nat := 524288
/-- Queues that one adoption stitch adopts at most (R367). -/
def scanQueues : Nat := 256

/-- The scan is over: phase ADOPTED, source 49, and no mirror is kept (R367). With no adopted queue left, or none found, the
adoption ends at once (R372, log entry 43). -/
def State.scanEnd (s : State) : State :=
  if s.pair.scan = 2 ^ 21 then
    let s := ((s.setF PAIR_STAT_phase 3).setKeep 0).raise 49
    if s.f PAIR_ADOPT_adopted = 0 then s.endAdoption else s
  else s

/-- The bit after the last that the next adoption stitch may scan. -/
def State.adoptEnd (s : State) : Nat := min (2 ^ 21) (s.pair.scan + scanBits)

/-- The queues that the next adoption stitch adopts: those present among its bits and not adopted yet, 256 at most (R367). -/
def State.adoptList (s : State) : List Nat :=
  ((s.pair.mq.map (·.1)).filter (fun q =>
    decide (s.pair.scan ≤ q) && decide (q < s.adoptEnd) && s.present q && decide ((s.qctx (q + 2 ^ 21)).state = .free))).take scanQueues

/-- The bit at which the stitch after it resumes (R367). -/
def State.adoptNext (s : State) : Nat :=
  if s.adoptList.length = scanQueues then s.adoptList.getLast?.getD s.adoptEnd + 1 else s.adoptEnd

/-- One adoption stitch (R367). -/
def State.adoptScan (s : State) : State :=
  let next := s.adoptNext
  let s := forEach s.adoptList (fun q s => s.adoptQueue q none) s
  State.scanEnd (s.withPair { s.pair with scan := next })

/-- ADOPTION_STITCH: the next adoption stitch (R255, R367). -/
def execAdoptionStitch (s : State) : Res :=
  if s.mayBackground ∧ s.f PAIR_STAT_phase = 2 then .next (s.admStitch 3 0 [3] State.adoptScan) else .next s

/-! ## Registers of the pair (R357, R371, R376) -/

/-- PAIR_CQ_CI: the consumer index of an adopted ring, judged as R134 says (R371). -/
def execPairCqCi (w : W64) (s : State) : Res :=
  let c := bits w.toNat 0 18 + 2 ^ 18
  guarded (s.run && decide ((s.cctx c).state ≠ CqState.free)) s (s.judgeCi c (BitVec.ofNat 32 (bits w.toNat 18 32)) s.mt)

/-- The mirror mode of a number; 3 is reserved (R376). -/
def modeOf : Nat → Option MirrorMode
  | 0 => some .none
  | 1 => some .async
  | 2 => some .sync
  | _ => none

/-- PAIR_QMODE: the mode of an own queue changes at its next stitch boundary, or at once (R357). Nothing for a queue that does
not exist, for QID 0, which is never mirrored, and for the reserved mode. -/
def execPairQmode (w : W64) (s : State) : Res :=
  let q := bits w.toNat 0 21
  match modeOf (bits w.toNat 21 2) with
  | none => .next s
  | some m =>
    guarded (s.run && decide (q ≠ 0) && decide ((s.qctx q).state ≠ .free)) s
      (let s := s.updQ q (fun c => { c with newMirror := some m })
       (s.retryMode q).mirrorRetry)

/-- The deferred CI record of queue `n` (R351). -/
def State.ciInterval (s : State) (n : Nat) : State :=
  let p := s.pair
  match p.deferCi.find? (fun x => decide (x.1 = n)) with
  | none => s
  | some x =>
    if x.2 then
      if s.mirrorRoom 1 then
        State.sendCi (s.withPair { p with deferCi := updWhere (fun y => decide (y.1 = n)) (fun y => (y.1, false)) p.deferCi }) n
      else s
    else s.withPair { p with deferCi := p.deferCi.filter (fun y => decide (y.1 ≠ n)) }

/-- The deferred CQCI record of ring `n` (R351). -/
def State.cqciInterval (s : State) (n : Nat) : State :=
  let p := s.pair
  match p.deferCqci.find? (fun x => decide (x.1 = n)) with
  | none => s
  | some x =>
    if x.2 then
      if s.mirrorRoom 1 then
        State.mirrorDelta
          (s.withPair { p with deferCqci := updWhere (fun y => decide (y.1 = n)) (fun y => (y.1, false)) p.deferCqci })
          .ring n 0x07 0 0 (s.cctx n).ci 0 []
      else s
    else s.withPair { p with deferCqci := p.deferCqci.filter (fun y => decide (y.1 ≠ n)) }

/-- CI_RECORD_INTERVAL: 64 CORE_CLK cycles have passed since the last record. -/
def execCiRecordInterval (ring : Bool) (n : Nat) (s : State) : Res :=
  guarded s.run s (if ring then s.cqciInterval n else s.ciInterval n)

end Sys2Proof.Machine
end

