-- ==== Sys2Proof/Machine/RegAccess.lean ====
section
/-!
DEFINITION. Reads and writes of the control region (00_scope.md R5 to R9, 16_register_address_map.md R471 to R479,
15_boundary_ports_clocks_and_balls.md R440, R441).
-/
namespace Sys2Proof.Machine

/-- The number of an agent in IZ_BAD_ACCESS (R478). -/
def agentNo : Agent → Nat
  | .hostp0 => 0 | .hostp1 => 1 | .cob0 => 2 | .cob1 => 3 | .cob2 => 4 | .cob3 => 5

/-- The host port of an agent. -/
def portOf : Agent → Option Nat
  | .hostp0 => some 0 | .hostp1 => some 1 | _ => none

/-- Count a bad access (R476, R477): cause 0 reserved space, 1 size or alignment, 2 a write closed to the agent. -/
def State.badAccess (s : State) (a : Agent) (ofs cause : Nat) : State :=
  let s := (s.cnt IZ_BAD_ACCESS_count).setF IZ_BAD_ACCESS_last_ofs ofs
  (s.setF IZ_BAD_ACCESS_last_cause cause).setF IZ_BAD_ACCESS_last_agent (agentNo a)

/-- Writes of this agent to the register are closed (R476). -/
def closedTo (r : Reg) (i : Nat) (a : Agent) : Bool :=
  match r with
  | .admCobLock | .admCobCmd | .admCobGo | .admFwDone | .admFwCfg => (portOf a).isSome
  | .cobPwr => decide (agentNo a ≠ i + 2)
  | _ => false

/-! ## What a register shows -/

/-- The word with field `d` replaced. -/
def withF (w : W64) (d : Fld) (n : Nat) : W64 := BitVec.ofNat 64 (putBits w.toNat d.lo d.w n)

/-- Eligible queues at rank `r` (R98). -/
def State.readyAt (s : State) (r : Nat) : List Nat := s.queues.filter (fun q => s.eligible q && decide ((s.qctx q).rank = r))

/-- IZ_SCHED_READY[r]: how many queues are eligible, and the oldest served_mt among them (R98). -/
def State.showReady (s : State) (r : Nat) : W64 :=
  let l := s.readyAt r
  let least := l.foldl (fun (m : Option Nat) q => match m with
    | none => some (s.qctx q).lastMt
    | some x => some (min x (s.qctx q).lastMt)) none
  BitVec.ofNat 64 (l.length % 2 ^ 22 + least.getD 0 % 2 ^ 32 * 2 ^ 32)

/-- NETP requests that await a report or a response (R470). -/
def State.netOutstanding (s : State) : Nat :=
  s.fl.foldl (fun n f => n + (f.writes.filter (fun x => decide (x.space = 2))).length
    + (f.stitches.filter (fun x => f.e.isGet && decide (0 < x.unanswered))).length) 0

/-- ADM_STAT and ADM_PROG of a stream (R258): an idle stream shows phase 0; the COB stream's index counts accepted commands. -/
def State.showAdm (s : State) (i : Nat) : W64 :=
  let o := if i = 0 then s.adm.ring else s.adm.cob
  let x := match o with
    | some o => o.phase + admOp o.cmd.words * 16
    | none => 0
  let n := if i = 0 then (match o with | some o => o.cmd.idx.toNat | none => 0) else s.adm.cobCount.toNat
  BitVec.ofNat 64 (x + n * 2 ^ 32)

/-- ADM_PROG of a stream (R258). -/
def State.showProg (s : State) (i : Nat) : W64 :=
  match (if i = 0 then s.adm.ring else s.adm.cob) with
  | some o => BitVec.ofNat 64 (o.done % 2 ^ 32 + o.total * 2 ^ 32)
  | none => 0

/-- ARB_STAT's computed fields (R284). -/
def State.showArb (s : State) (res : Nat) (w : W64) : W64 :=
  let n := (s.owned res).length
  let w := withF (withF w (ARB_STAT_owners res) n) (ARB_STAT_waiting res) (s.candOf res).length
  withF w (ARB_STAT_drained res) (b2n (s.fb (ARB_CTL_freeze res) && decide (n = 0)))

/-- ARB_OWNER[res][c] (R285). -/
def State.showOwner (s : State) (res c : Nat) : W64 :=
  match (s.owned res).find? (fun x => decide (x.1 = c)) with
  | none => 0x7F
  | some (_, o) =>
    BitVec.ofNat 64 (o.req + s.rankOf res o.req * 2 ^ 8 + b2n (s.bySlot res o) * 2 ^ 12 + min o.idle (2 ^ 32 - 1) * 2 ^ 16)

/-- ARB_WAIT[res][w] (R285). -/
def State.showWait (s : State) (res w : Nat) : W64 :=
  BitVec.ofNat 64 ((List.range 64).foldl (fun n k => if (64 * w + k) ∈ s.candOf res then n + 2 ^ k else n) 0)

/-- ARB_RANK[res][req]: zero for a pair R261 does not list; TRACE, and FOLD on REDU, show the rank of R262 (R283). -/
def State.showRank (s : State) (res req : Nat) (w : W64) : W64 :=
  if !arbListed res req then 0
  else if req = 76 ∨ (res = 4 ∧ req = 75) then BitVec.ofNat 64 (s.rankOf res req * 0x11)
  else w

/-- IC_TGT_STAT[t]'s computed fields (R312). -/
def State.showTgt (s : State) (t : Nat) (w : W64) : W64 :=
  let w := withF (withF w (IC_TGT_STAT_running t) (s.running t)) (IC_TGT_STAT_depth t) ((s.stack t).length + 1)
  withF w (IC_TGT_STAT_request t) (b2n (s.liveSrcs.any (fun n => s.signals n && decide (s.srcTgt n = t))))

/-- IC_STACK[t][d] (R293, R312). -/
def State.showStack (s : State) (t d : Nat) : W64 :=
  if d = 0 then BitVec.ofNat 64 (s.f (IC_TGT_CFG_thresh t) * 2 ^ 16)
  else match (s.stack t).reverse[d - 1]? with
    | some x => BitVec.ofNat 64 (x.1 + x.2 * 2 ^ 16)
    | none => 0

/-- SPR_SUMMARY (R435). -/
def State.showSummary (s : State) : W64 :=
  let spares := ((List.range 68).filter (fun e => decide (s.engSt e = 4))).length
  BitVec.ofNat 64 (s.engActive + spares * 2 ^ 7 + s.redActive * 2 ^ 10 + b2n (s.redIn 4).isSome * 2 ^ 15 + s.banksIn * 2 ^ 16)

/-- IZ_ENG_STATE[e]: while the engine runs a stitch or waits in one, its rank is the one it requests with (R99, R262). -/
def State.showEng (s : State) (e : Nat) (w : W64) : W64 :=
  if s.engSt e ∈ [1, 2, 3] then withF w (IZ_ENG_STATE_rank e) (s.engRank 3 e) else w

/-- LACE_VC_STAT[v] (R409). -/
def State.showVc (s : State) (v : Nat) : W64 :=
  let c := s.vc v
  BitVec.ofNat 64 (c.base % 2 ^ 16 + c.next % 2 ^ 16 * 2 ^ 16 + c.expected % 2 ^ 16 * 2 ^ 32 + c.credit * 2 ^ 48)

/-- CQ_SPILL[g]'s computed fields (R140). -/
def State.showSpill (s : State) (g : Nat) (w : W64) : W64 :=
  let n := (s.cqs.waiting.filter (fun h => decide (cqGroup h.c = g))).length
  withF (withF w (CQ_SPILL_level g) (s.spillLevel g)) (CQ_SPILL_waiting g) (min n 0x7FFFF)

/-- A register's word as a read sees it: fields that the mover keeps elsewhere are computed, the rest stand in the word. -/
def State.view (s : State) (r : Reg) (i j o : Nat) : W64 :=
  let w := s.reg o
  match r with
  | .izSchedStat => withF (withF w IZ_SCHED_STAT_busy s.engBusy) IZ_SCHED_STAT_active s.engActive
  | .izSchedReady => s.showReady i
  | .izEngState => s.showEng i w
  | .izHostpStat => withF w (IZ_HOSTP_STAT_reads i) (min 1024 (s.hostReads i))
  | .izNetpStat => withF w IZ_NETP_STAT_outstanding (min 4096 s.netOutstanding)
  | .izTrigStat => withF (withF w IZ_TRIG_STAT_parked s.park.onChip.length) IZ_TRIG_STAT_spilled s.park.spill.length
  | .izMempSize => s.memSize
  | .wqIntakeLevel => withF w (WQ_INTAKE_LEVEL_level i) (s.intakeLevel i)
  | .cqSpill => s.showSpill i w
  | .admStat => s.showAdm i
  | .admProg => s.showProg i
  | .arbStat => s.showArb i w
  | .arbWait => s.showWait i j
  | .arbOwner => s.showOwner i j
  | .arbRank => s.showRank i j w
  | .icPend => if i = 0 then withF w ⟨o, 0, 1⟩ 0 else w
  | .icTgtStat => s.showTgt i w
  | .icStack => s.showStack i j
  | .tbNow => s.mt
  | .pairStat => withF w PAIR_STAT_tracked (min 65536 s.tracked)
  | .pairQmode => withF w PAIR_QMODE_busy (b2n (!s.pair.modeAcks.isEmpty || s.queues.any (fun q => (s.qctx q).newMirror.isSome)))
  | .laceSpill => withF w LACE_SPILL_level s.spillUnits
  | .laceVcStat => s.showVc i
  | .errLogStat => withF w ERR_LOG_STAT_level s.logLevel
  | .errLogRd => s.errWord i
  | .sprSummary => s.showSummary
  | _ => w

/-! ## Reads (R473, R474) -/

/-- Some bit of [lo, lo + n) lies in the bits [a, a + k) that an access moves. -/
def touches (lo n a k : Nat) : Bool := decide (lo < a + k) && decide (a < lo + n)

/-- Clear every RC field that has a bit among those returned (R474). -/
def State.clearRc (s : State) (r : Reg) (o a k : Nat) : State :=
  (r.fields.filter (fun d => decide (d.acc = .rc) && touches d.lo d.w a k)).foldl (fun s d => s.setF ⟨o, d.lo, d.w⟩ 0) s

/-- One access of 4 or 8 bytes that lies in one register. -/
def State.readOne (s : State) (a : Agent) (ofs size : Nat) : State :=
  let o := ofs / 8 * 8
  let lo := 8 * (ofs % 8)
  match regAt o with
  | none => (s.badAccess a ofs 0).ret 0
  | some (r, i, j) =>
    let part (w : W64) : W64 := BitVec.ofNat 64 (bits w.toNat lo (8 * size))
    match r with
    | .icClaim => if lo = 0 then s.claim i else s.ret 0
    | .errLogRd => s.readErrWord (some a) i lo (8 * size)
    | .izTrigVal | .izTrigInfo => s.readTrig (.registerRead a ofs size)
    | _ => (s.clearRc r o lo (8 * size)).ret (part (s.view r i j o))

/-- The accesses that an access of a legal form is made of: offset and size (R473); none for a misformed one. -/
def accesses (ofs size : Nat) : List (Nat × Nat) :=
  if (size = 4 ∨ size = 8) ∧ ofs % size = 0 then [(ofs, size)]
  else if (size = 16 ∨ size = 32 ∨ size = 64) ∧ ofs % size = 0 then (List.range (size / 8)).map (fun k => (ofs + 8 * k, 8))
  else []

/-- A read of agent `a` waits for the context store (R205, R414). -/
def State.readWaits (s : State) (a : Agent) : Bool :=
  s.err.reads.any (fun x => decide (x.1 = some a))
    || s.cache.waits.any (fun w => match w.c with | .registerRead b _ _ => decide (b = a) | _ => false)

/-- The agent of a register access. -/
def accessAgent : Instr → Option Agent
  | .registerRead a _ _ => some a
  | .registerWrite a _ _ _ _ => some a
  | _ => none

/-- A further register access of agent `a` waits: an earlier one does (R475). -/
def State.agentWaits (s : State) (a : Agent) : Bool := s.readWaits a || s.cache.accs.any (fun x => decide (accessAgent x.c = some a))

/-- A register access waits behind earlier ones of its agent (R475). -/
def State.holdAccess (s : State) (c : Instr) : State := s.withCache { s.cache with accs := s.cache.accs ++ [{ c := c, first := true }] }

/-- The parts of a read in ascending order: while one waits, the rest wait behind it, before any other access of the agent (R473). -/
def State.readParts (a : Agent) : List (Nat × Nat) → State → State
  | [], s => s
  | x :: r, s =>
    let t := s.readOne a x.1 x.2
    if t.readWaits a then
      t.withCache { t.cache with accs := r.map (fun y => { c := .registerRead a y.1 y.2, first := false }) ++ t.cache.accs }
    else State.readParts a r t

/-- A read of the control region takes effect: every word is returned in turn; a misformed read returns zero and is counted (R473 to
R477). -/
def State.readNow (s : State) (a : Agent) (ofs size : Nat) (first : Bool) : State :=
  let l := accesses ofs size
  let t := if first then s.beginRead else s
  if l.isEmpty then (t.badAccess a ofs 1).ret 0 else State.readParts a l t

/-- REGISTER_READ: it takes effect, or waits behind a waiting read of its agent (R473 to R477). -/
def execRegisterRead (a : Agent) (ofs size : Nat) (s : State) : Res :=
  guarded (s.served && decide (ofs < 0x100000)) s
    (if s.agentWaits a then s.holdAccess (.registerRead a ofs size) else s.readNow a ofs size true)

/-! ## Writes (R5, R473) -/

/-- Set the fields of register `r` that software writes and the access covers; W1C bits clear (R5). -/
def State.plainWrite (s : State) (r : Reg) (i j o lo n w : Nat) : State :=
  if instanceOk r i j then
    let mine (d : FDef) : Bool := touches d.lo d.w lo n
    let soft (d : FDef) : Bool := decide (d.acc = .rw) || (decide (d.acc = .rws) && decide (r = .patWinBase))
    let s := s.setFields r o (r.fields.filter (fun d => soft d && mine d)) (putBits (s.reg o).toNat lo n (bits w lo n))
    (r.fields.filter (fun d => decide (d.acc = .w1c) && mine d)).foldl (fun s d =>
      let keep := 2 ^ 64 - 1 - bits w lo n * 2 ^ lo
      s.setF ⟨o, d.lo, d.w⟩ (s.f ⟨o, d.lo, d.w⟩ &&& bits keep d.lo d.w)) s
  else s

/-- A write of PAIR_CMD (R361, R366, R376). -/
def State.pairCmd (s : State) (w : W64) : State :=
  let s := s.after (execAdopt w s)
  s.after (execHaltCommand w s)

/-- Mirroring was switched off: both states read OFF (R358). -/
def State.mirrorOff (s : State) : State :=
  if s.fb PAIR_CFG_mirror_en ∧ s.mirrorBase ≠ 0 then s else s.goOff

/-- A write of SPR_TEST_CMD (R430): a reserved kind is refused. Whether the shadow's self-test passes (R431) is not told by the
write, and is a free value. -/
def State.testWrite (s : State) (w : W64) : State :=
  match bits w.toNat 0 3 with
  | 0 => s.engTest w
  | 1 => s.redTest w
  | 2 => State.shadowTest (s.withFree (s.free + 1)) w (bit (Config.freeWord s.free).toNat 0)
  | 3 => s.shadowEnd w
  | 4 => s.laneTestCmd w
  | 5 => s.portTestCmd w
  | _ => s.setF SPR_TEST_STAT_result 3

/-- A write of COB_PWR by its own core (R310, R315). -/
def State.cobCmd (s : State) (c : Nat) (w : W64) : State :=
  match bits w.toNat 0 2 with
  | 1 => s.cobSleep c 1
  | 2 => s.cobSleep c 2
  | _ => s

/-- Write bits [lo, lo + n) of the register at offset `o`, which take their places of `w`. What the register's fields do is
what the command of that write does. -/
def State.writeReg (s : State) (r : Reg) (i j o lo n : Nat) (w : W64) : State :=
  let full := BitVec.ofNat 64 (putBits (s.reg o).toNat lo n (bits w.toNat lo n))
  let low := decide (lo = 0)
  let plain := s.plainWrite r i j o lo n w.toNat
  match r with
  | .izReset => if resetKey w then s.resetCmd (bit w.toNat 0) (bit w.toNat 1) else s
  | .izChkInj => if bit w.toNat 3 then s.after (execChkInjArm (BitVec.ofNat 3 (bits w.toNat 0 3)) s) else plain
  | .admCfg =>
    if !low then s else if bit full.toNat 0 then s.after (execAdmEnable full s) else s.after (execAdmDisable full s)
  | .admWqBase | .admCqBase | .admCqWb => if s.fb ADM_CFG_enable then s else plain
  | .admCobLock => s.after (execAdmCobLock w s)
  | .admCobGo => s.after (execAdmCobGo w s)
  | .admFwDone => s.after (execAdmFwDone w s)
  | .arbCommit => s.after (execArbCommit w s)
  | .arbSlotCfg => if bit w.toNat 5 then plain.after (execSlotCommit i plain) else plain
  | .icSet => s.raise (bits w.toNat 0 10)
  | .icEoi => s.eoi i (bits w.toNat 0 10)
  | .icTgtCmd => if bit w.toNat 0 then s.after (execResync i s) else s
  | .icCnt => if bit w.toNat 10 then s.after (execIcCntClear i s) else s
  | .icPend => (if i = 0 then plain.setF ⟨o, 0, 1⟩ 0 else plain).judgeAll
  | .icMask | .icTgtCfg | .icSrcCfg => plain.judgeAll
  | .tbTraceCi => if low then s.writeTraceCi (BitVec.ofNat 32 w.toNat) else s
  | .errLogCi => if low then s.writeErrCi (BitVec.ofNat 32 w.toNat) else s
  | .patCmd => s.patCmd w
  | .pairCfg | .pairMirrorBase => plain.mirrorOff
  | .pairCmd => s.pairCmd w
  | .pairQmode => s.after (execPairQmode w s)
  | .pairCqCi => s.after (execPairCqCi w s)
  | .laceCfg => if low then s.after (execLaceEnable (bit w.toNat 0) s) else s
  | .laceCmd => s.after (execRetrain w s)
  | .sprTestCmd => s.testWrite w
  | .cobPwr => s.cobCmd i w
  | _ => plain

/-- The register has a field of access code WO, so that a 4-byte write of it writes zero to its other half (R473). -/
def hasWo (r : Reg) : Bool := r.fields.any (fun d => decide (d.acc = .wo))

/-- One write of 4 or 8 bytes that lies in one register; `v` is its data. -/
def State.writeOne (s : State) (a : Agent) (ofs size v : Nat) : State :=
  let o := ofs / 8 * 8
  let lo := 8 * (ofs % 8)
  match regAt o with
  | none => s.badAccess a ofs 0
  | some (r, i, j) =>
    if closedTo r i a then s.badAccess a ofs 2
    else
      let w := BitVec.ofNat 64 (v * 2 ^ lo)
      if hasWo r then s.writeReg r i j o 0 64 w else s.writeReg r i j o lo (8 * size) w

/-- A write of the control region takes effect: one with a beat that fails parity is discarded whole; a misformed one is ignored and
counted; else its words are written in turn (R440, R473 to R477). -/
def State.writeNow (s : State) (a : Agent) (ofs size : Nat) (data : List Byte) (parityOk : Bool) : State :=
  let l := accesses ofs size
  let put (s : State) (x : Nat × Nat) : State := s.writeOne a x.1 x.2 (leNat ((data.drop (x.1 - ofs)).take x.2))
  match (if parityOk then none else portOf a) with
  | some p => (s.cnt (IZ_HOSTP_STAT_parity_in p)).raise 40
  | none => if l.isEmpty then s.badAccess a ofs 1 else l.foldl put s

/-- REGISTER_WRITE: it takes effect, or waits behind a waiting read of its agent (R475). -/
def execRegisterWrite (a : Agent) (ofs size : Nat) (data : List Byte) (parityOk : Bool) (s : State) : Res :=
  guarded (s.served && decide (ofs < 0x100000)) s
    (if s.agentWaits a then s.holdAccess (.registerWrite a ofs size data parityOk) else s.writeNow a ofs size data parityOk)

/-- Register accesses whose agent's read has returned take effect, each agent's in order, up to the next that waits (R475). The first
argument bounds them. -/
def State.serveAccs : Nat → State → State
  | 0, s => s
  | n + 1, s =>
    let free (x : HeldAccess) : Bool := match accessAgent x.c with | some a => !s.readWaits a | none => true
    match s.cache.accs.find? free with
    | none => s
    | some x =>
      let t := s.withCache { s.cache with accs := s.cache.accs.erase x }
      State.serveAccs n (match x.c with
        | .registerRead a o k => t.readNow a o k x.first
        | .registerWrite a o k d p => t.writeNow a o k d p
        | _ => t)

end Sys2Proof.Machine
end

