-- ==== Sys2Proof/Machine/Clock.lean ====
section
/-!
DEFINITION. What one CORE_CLK cycle does when no command waits (log entry 3): Mover Time advances (R143 and R145 of
04_completion_rings_and_hallmarks.md), the error records of the cycle before are written (R411), halt processing comes to its
end (R363), idle counts of the arbiters rise (R270), banks that are to retire are emptied (R427), decode goes on behind an
entry that has started (R79, R82), admin streams that have come to need a stitch line up (R255), host messages and write-
backs that are out land in memory (R132, R302), what waited for the mirror queue goes on (R356), flushing reads go out as
there is room (R437), FETCH, CCACHE and CPOST issue their bursts (R260), an idle link sends IOS (R389), and register accesses
go on behind a read that has returned (R475).
-/
namespace Sys2Proof.Machine

/-- MT over one cycle between samples (R143 to R145): 2 and 3 units in turn, never past the latest sample + 25 outside holdover.
After fabric time has stepped back MT holds until fabric time, which goes on at the same rate, has passed it (log entry 70). -/
def State.tbTick (s : State) : State :=
  let t := s.tb
  let d := if t.odd then 3 else 2
  let fabric := min (t.fabric.toNat + d) (t.sample.toNat + 25)
  let mt := if s.fb TB_STAT_holdover then t.mt.toNat + d else max t.mt.toNat fabric
  (s.withTb { t with mt := BitVec.ofNat 64 mt, fabric := BitVec.ofNat 64 fabric, odd := !t.odd, cycle := t.cycle + 1 })

/-- A cycle of LTX_CLK, every second one of CORE_CLK, in which no packet is ready (R377, R389). -/
def State.laceTick (s : State) : State := if s.laceUp && s.tb.odd then s.idleStripe else s

/-- Register accesses that waited behind a read of their agent go on (R475). -/
def State.heldTick (s : State) : State := s.serveAccs s.cache.accs.length

/-- One CORE_CLK cycle. -/
def tick (s : State) : Res :=
  let s := s.tbTick.serveElog.haltTick.arbTick.retireBanks.decodeTick.lineUp
  .next s.landMsgs.landBacks.mirrorTick.sendFlushes.sendOwn.laceTick.heldTick

end Sys2Proof.Machine
end

