-- ==== Sys2Proof/Machine/Scheduler.lean ====
section
/-!
DEFINITION. The scheduler's commands (03_execution_stitches_and_request_lines.md R87 to R101, R116): binding an engine,
cutting a stitch, and the end of a stitch.
-/
namespace Sys2Proof.Machine

/-- The work queue and the entry that the scheduler takes next (R87, R89); none while a stream has a command that needs a stitch,
for then the engine is the admin queue's. -/
def State.nextBind (s : State) : Option (Nat × Flight) :=
  if s.run && !s.adminReady && s.engForWork then
    match s.chooseQueue with
    | none => none
    | some q => ((s.flsOf q).find? s.bindable).map (fun f => (q, f))
  else none

/-- ENGINE_BIND: the free engine `e` goes to the entry that the scheduler takes (R87). -/
def execEngineBind (e : Nat) (s : State) : Res :=
  if decide (e < 68) && decide (s.engSt e = 0) then
    match s.nextBind with
    | none => .next s
    | some (q, f) => .next (s.bindEntry q f.idx e)
  else .next s

/-- Eligible queues in the order of R87, best first; the first argument bounds them. -/
def State.orderQueues (s : State) : Nat → List Nat → List Nat
  | 0, _ => []
  | n + 1, l => match maxBy s.queueBefore l with
    | none => []
    | some q => q :: s.orderQueues n (l.filter (fun x => decide (x ≠ q)))

/-- Those that wait for an engine and may cut a stitch, best first, each with its rank: an admin stream, as number 2^22, counts as
rank 16 (R95). -/
def State.cutters (s : State) : List (Nat × Nat) :=
  let l := s.queues.filter s.eligible
  (if s.adminReady then [(2 ^ 22, 16)] else [])
    ++ ((s.orderQueues l.length l).map (fun q => (q, (s.qctx q).rank))).filter (fun r => decide (s.f IZ_SCHED_CFG_preempt_rank ≤ r.2))

/-- Running stitches with their queues. -/
def State.running68 (s : State) : List (Flight × Stitch) :=
  s.fl.flatMap (fun f => (f.stitches.filter (fun x => decide (x.eng < 68))).map (fun x => (f, x)))

/-- CUT: one running stitch is cut for the first of those waiting that no cut serves yet: of the lowest rank below the waiting
one's, the most recently bound (R95, R96). An idle engine that admin_reserve keeps counts as free (log entry 15). -/
def execCut (s : State) : Res :=
  let all := s.running68
  match s.cutters.find? (fun r => !all.any (fun y => decide (y.2.cutFor = some r.1))) with
  | none => .next s
  | some r =>
    let ok (y : Flight × Stitch) : Bool :=
      !y.2.stop && decide (s.engSt y.2.eng = 1) && !boundByR91 (s.qctx y.1.q) y.1.e && decide (y.2.rank < r.2)
    let better (a b : Flight × Stitch) : Bool :=
      decide (a.2.rank < b.2.rank) || (decide (a.2.rank = b.2.rank) && decide (b.2.born < a.2.born))
    if s.run && s.fb IZ_SCHED_CFG_preempt_en && (s.engIn 0).isNone then
      match maxBy better (all.filter ok) with
      | none => .next s
      | some y =>
        .next ((s.cnt IZ_SCHED_STAT_cuts).updStitch y.1.q y.1.idx y.2.eng (fun x => { x with stop := true, cut := true, cutFor := some r.1 }))
    else .next s

/-- The stitch on engine `e` issues its last unit if it can, and returns its engine if it has come to its end or was stopped (R96,
R101). -/
def State.tryEnd (s : State) (e : Nat) : State :=
  match s.onEngine e with
  | none => s
  | some (f, x) =>
    let s := s.issueUnits (x.units + 1) f.q f.idx e true
    let s := s.ackBursts f.q f.idx e
    match s.onEngine e with
    | none => s
    | some (f, x) =>
      if x.stop || (x.ready && decide (x.hi ≤ x.wr)) then s.endStitch f.q f.idx e else s.goOn f.q f.idx e

/-- STITCH_END: the last unit is judged and issued, and the engine returns; a stitch that was stopped ends where it stands
(R96, R101). -/
def execStitchEnd (e : Nat) (s : State) : Res := .next (s.tryEnd e)

/-- PACEWAIT_RELEASE: the stitch is to end at the burst boundary it has reached, and its rest is bound again when the line asks
for more (R116); what is read and not yet written is written first, but for a protection block that is not read whole, whose bytes
stay read for the stitch that goes on. -/
def execPacewaitRelease (e : Nat) (s : State) : Res :=
  match s.onEngine e with
  | none => .next s
  | some (f, x) =>
    if decide (s.engSt e = 2) && s.run then
      let h := if f.e.piOp ≠ 0 then max x.wr (x.paced / f.e.piB * f.e.piB) else max x.wr x.paced
      let s := s.updFl f.q f.idx (fun (g : Flight) =>
        { g.updStitch e (fun x => g.sumUp { x with hi := h }) with redo := if h < x.hi then insRange (h, x.hi) g.redo else g.redo })
      .next ((s.setEng e 1).tryEnd e)
    else .next s

end Sys2Proof.Machine
end

