-- ==== Sys2Proof/Machine/Entries.lean ====
section
/-!
DEFINITION. The work entries' own commands (02_work_entries_and_fragment_tables.md R52): each takes up its entry, or runs it
from its first unbound byte on, through the scheduler and the arbiters as they stand (log entry 6). Nothing happens where the
rules do not let the entry start or go on.
-/
namespace Sys2Proof.Machine

/-! ## An entry run by one command -/

/-- The bytes that the next GET response brings, and the rest. -/
def State.feedGet (s : State) (q : Nat) (i : W32) (e : Nat) (data : List Byte) : State × List Byte :=
  match s.flight? q i with
  | none => (s, data)
  | some f =>
    match f.stitch? e with
    | none => (s, data)
    | some x =>
      let n := x.unanswered
      if n = 0 ∨ data.length < n then (s, data)
      else (s.stageBytes q i e 0 f ((data.take n).map (fun b => SByte.mk b false)), data.drop n)

/-- A phase of every resource that engine `e` requests and does not own. -/
def State.phasesFor (s : State) (e : Nat) : State :=
  forEach (List.range 5) (fun res s => if s.engWants res e && !s.owns res e then s.phaseOf res false else s) s

/-- One turn of a stitch: its requests are heard, then a read that is outstanding returns, a GET request is answered, or the unit
is judged and issued. -/
def State.stitchTurn (s : State) (q : Nat) (i : W32) (e : Nat) (data : List Byte) : State × List Byte :=
  let s := (s.phasesFor e).goOn q i e
  match s.flight? q i with
  | none => (s, data)
  | some f =>
    match f.stitch? e with
    | none => (s, data)
    | some x =>
      match (List.range f.e.readers).find? (fun k => !(x.rds.getD k []).isEmpty) with
      | some k => ((s.stageRead q i e k .ok).goOn q i e, data)
      | none =>
        if f.e.isGet && decide (0 < x.unanswered) then
          let r := s.feedGet q i e data
          (r.1.goOn q i e, r.2)
        else ((s.issueUnits 1 q i e true).goOn q i e, data)

/-- Run a stitch as far as it goes. `data` are the bytes that remain to answer GET requests. The first argument bounds the
turns. -/
def State.runStitch : Nat → State → Nat → W32 → Nat → List Byte → State × List Byte
  | 0, s, _, _, _, data => (s, data)
  | n + 1, s, q, i, e, data =>
    match s.flight? q i with
    | none => (s, data)
    | some f =>
      match f.stitch? e with
      | none => (s, data)
      | some x =>
        if !x.ready || x.stop || decide (x.hi ≤ x.wr) then (s, data)
        else
          let r := s.stitchTurn q i e data
          if r.1.progress e = s.progress e then r else State.runStitch n r.1 q i e r.2

/-- Turns that a stitch takes at most. -/
def Stitch.turns (x : Stitch) (e : Entry) : Nat := (x.hi - x.lo + 1) * 40 * (e.readers + 1)

/-- Run an entry from its first unbound byte on, stitch by stitch, while the scheduler takes it next and an engine is idle (R52,
R86 to R89); a stitch that cannot come to its end stays bound. The first argument bounds the stitches. -/
def State.runEntry : Nat → State → Nat → W32 → List Byte → State
  | 0, s, _, _, _ => s
  | n + 1, s, q, i, data =>
    match s.nextBind, s.engIn 0 with
    | some (q', g), some e =>
      if q' = q ∧ g.idx = i then
        let s := s.bindEntry q i e
        match s.flight? q i with
        | none => s
        | some f =>
          match f.stitch? e with
          | none => s
          | some x =>
            let r := s.runStitch (x.turns f.e) q i e data
            let t := r.1.tryEnd e
            if (t.onEngine e).isNone then State.runEntry n t q i r.2 else t
      else s
    | _, _ => s

/-- The command of a work entry with opcode `op`: taken up when it needs no engine, else run (R52, R93). -/
def State.runOp (s : State) (q : Nat) (i : W32) (op : Nat) (data : List Byte) : State :=
  match s.flight? q i with
  | none => s
  | some f =>
    if f.e.opcode ≠ op then s
    else if f.e.noEngine then s.takeUp q i
    else s.runEntry (f.e.length + 1) q i data

/-! ## Meanings -/

/-- NOP: taken up without an engine; it does nothing and reaches data done (R52, R93). -/
def execNop (q : BitVec 22) (i : W32) (s : State) : Res := .next (s.runOp q.toNat i 0x00 [])

/-- MOVE: copy the source to the destination, by the geometry, checks and protection information of its fields (R52, R75, R217). -/
def execMove (q : BitVec 22) (i : W32) (s : State) : Res := .next (s.runOp q.toNat i 0x01 [])

/-- MOVE_SG: copy through one or two fragment tables, as far as their fragments are read (R75, R76). -/
def execMoveSg (q : BitVec 22) (i : W32) (s : State) : Res := .next (s.runOp q.toNat i 0x02 [])

/-- FILL: write the pattern that fill_sel names (R61, R62). -/
def execFill (q : BitVec 22) (i : W32) (s : State) : Res := .next (s.runOp q.toNat i 0x03 [])

/-- COMPARE: read both sides and report the first difference, or the first failing check block (R229). -/
def execCompare (q : BitVec 22) (i : W32) (s : State) : Res := .next (s.runOp q.toNat i 0x04 [])

/-- CHECK: read the source and verify its check blocks and protection information; nothing is written (R228). -/
def execCheck (q : BitVec 22) (i : W32) (s : State) : Res := .next (s.runOp q.toNat i 0x05 [])

/-- PUT: read the source and issue its segments; a zero-length PUT sends its arrival (R52, R55, R442). -/
def execPut (q : BitVec 22) (i : W32) (s : State) : Res := .next (s.runOp q.toNat i 0x10 [])

/-- GET: send the requests and write the bytes that answer them (R52, R442). -/
def execGet (q : BitVec 22) (i : W32) (data : List Byte) (s : State) : Res := .next (s.runOp q.toNat i 0x11 data)

/-- PUT_SG: PUT through fragment tables (R52, R75). -/
def execPutSg (q : BitVec 22) (i : W32) (s : State) : Res := .next (s.runOp q.toNat i 0x12 [])

/-- GET_SG: GET through fragment tables (R52, R75). -/
def execGetSg (q : BitVec 22) (i : W32) (data : List Byte) (s : State) : Res := .next (s.runOp q.toNat i 0x13 data)

/-- REDUCE: combine the sources of the list that was read and write the result (R154, R158 to R172). -/
def execReduce (q : BitVec 22) (i : W32) (s : State) : Res := .next (s.runOp q.toNat i 0x20 [])

/-- REDUCE_REMOTE: combine the sources of the list that was read and issue fold segments (R154, R177). -/
def execReduceRemote (q : BitVec 22) (i : W32) (s : State) : Res := .next (s.runOp q.toNat i 0x21 [])

/-- QUENCH: round each carrier of the source to a native element (R155, R172). -/
def execQuench (q : BitVec 22) (i : W32) (s : State) : Res := .next (s.runOp q.toNat i 0x22 [])

/-- TRIG_ADD: taken up without an engine; its addend is added to its counter (R196). -/
def execTrigAdd (q : BitVec 22) (i : W32) (s : State) : Res := .next (s.runOp q.toNat i 0x30 [])

/-- FENCE: starts once every earlier entry has completed, and completes as it starts (R108). -/
def execFence (q : BitVec 22) (i : W32) (s : State) : Res := .next (s.runOp q.toNat i 0x31 [])

/-- MARK: taken up without an engine; its record is posted in turn (R52, R93). -/
def execMark (q : BitVec 22) (i : W32) (s : State) : Res := .next (s.runOp q.toNat i 0x32 [])

end Sys2Proof.Machine
end

