-- ==== Sys2Proof/Machine/Lines.lean ====
section
/-!
DEFINITION. Commands of the request lines (03_execution_stitches_and_request_lines.md R113 to R120).
-/
namespace Sys2Proof.Machine

/-- The stitches that line `n` paces go on as far as it lets them. -/
def State.kickLine (s : State) (n : Nat) : State :=
  forEach s.fl (fun f s => forEach f.stitches (fun x s =>
    match x.line with
    | some l => if l.1 = n ∧ s.run then s.goOn f.q f.idx x.eng else s
    | none => s) s) s

/-- Request lines are looked at: outputs have started (R465). -/
def State.linesOn (s : State) (n : Nat) : Bool := decide (n < 256) && decide (7 ≤ s.phase)

/-- The line paces a queue in edge mode (R116, R120). -/
def State.edgeBound (s : State) (n : Nat) : Bool :=
  s.fb (RL_STATE_bound n) && !(s.qctx (s.f (RL_STATE_qid n))).rlMode

/-- DREQ_ASSERT: the filtered line asserts; in edge mode it adds a request, or is lost at 255 (R116). -/
def execDreqAssert (n : Nat) (s : State) : Res :=
  if s.linesOn n && !s.fb (RL_STATE_level n) then
    let s := s.setF (RL_STATE_level n) 1
    let s := if !s.edgeBound n then s
      else if s.f (RL_STATE_pending n) = 255 then s.cnt (RL_STATE_lost n)
      else s.setF (RL_STATE_pending n) (s.f (RL_STATE_pending n) + 1)
    .next (s.kickLine n)
  else .next s

/-- DREQ_DEASSERT: the filtered line deasserts: in level mode no new burst is read (R117). -/
def execDreqDeassert (n : Nat) (s : State) : Res :=
  if s.linesOn n && s.fb (RL_STATE_level n) then .next ((s.setF (RL_STATE_level n) 0).kickLine n) else .next s

/-- DACK_PULSE_START: DACK_N[n] goes low for its next queued pulse (R118); never while the mover is halted. DESIGN CHOICE (log entry
47): the pulse being driven is no longer one of the 16 queued. -/
def execDackPulseStart (n : Nat) (s : State) : Res :=
  guarded (decide (n < 32) && s.run && decide (0 < (s.line n).pulses) && !(s.line n).low) s
    (s.updLine n (fun x => { x with low := true, pulses := x.pulses - 1 }))

/-- DACK_PULSE_END: DACK_N[n] goes high, and its burst is no longer outstanding (R117, R118). -/
def execDackPulseEnd (n : Nat) (s : State) : Res :=
  if n < 32 ∧ (s.line n).low then .next ((s.updLine n (fun x => { x with low := false, out := x.out - 1 })).kickLine n)
  else .next s

/-- INTERNAL_ACKNOWLEDGEMENT: a burst of an internal line is no longer outstanding (R117). -/
def execInternalAcknowledgement (n : Nat) (s : State) : Res :=
  if 32 ≤ n ∧ n < 256 ∧ 0 < (s.line n).out then .next ((s.updLine n (fun x => { x with out := x.out - 1 })).kickLine n)
  else .next s

/-- DREQ_GLITCH: a pulse shorter than the filter changes nothing and is counted (R115). -/
def execDreqGlitch (n : Nat) (s : State) : Res :=
  guarded (decide (n < 32) && s.linesOn n) s (s.cnt (RL_STATE_glitches n))

end Sys2Proof.Machine
end

