-- ==== Sys2Proof/Machine/Dispatch.lean ====
section
/-!
DEFINITION. The dispatch of every command to its meaning, one arm per row of spec/opcode_table.json.
-/
namespace Sys2Proof.Machine

/-- The effect of a command on everything but the queue. -/
def exec (i : Instr) (s : State) : Host.Outcome State Fault Refusal :=
  match i with
  | .piWrite p q pi parityOk => Sys2Proof.Machine.execPiWrite p q pi parityOk s
  | .ring p q parityOk => Sys2Proof.Machine.execRing p q parityOk s
  | .piAndRing p q size pi parityOk => Sys2Proof.Machine.execPiAndRing p q size pi parityOk s
  | .cqCiWrite p q v parityOk => Sys2Proof.Machine.execCqCiWrite p q v parityOk s
  | .apertureMisformedAccess p q write ofs size => Sys2Proof.Machine.execApertureMisformedAccess p q write ofs size s
  | .contextFetchDone k n bad => Sys2Proof.Machine.execContextFetchDone k n bad s
  | .entryFetchDone q ans => Sys2Proof.Machine.execEntryFetchDone q ans s
  | .haltNoticeResend => Sys2Proof.Machine.execHaltNoticeResend s
  | .fragmentTableReadDone q ix d ans => Sys2Proof.Machine.execFragmentTableReadDone q ix d ans s
  | .sourceListReadDone q ix ans => Sys2Proof.Machine.execSourceListReadDone q ix ans s
  | .nop q ix => Sys2Proof.Machine.execNop q ix s
  | .move q ix => Sys2Proof.Machine.execMove q ix s
  | .moveSg q ix => Sys2Proof.Machine.execMoveSg q ix s
  | .fill q ix => Sys2Proof.Machine.execFill q ix s
  | .compare q ix => Sys2Proof.Machine.execCompare q ix s
  | .check q ix => Sys2Proof.Machine.execCheck q ix s
  | .put q ix => Sys2Proof.Machine.execPut q ix s
  | .get q ix data => Sys2Proof.Machine.execGet q ix data s
  | .putSg q ix => Sys2Proof.Machine.execPutSg q ix s
  | .getSg q ix data => Sys2Proof.Machine.execGetSg q ix data s
  | .reduce q ix => Sys2Proof.Machine.execReduce q ix s
  | .reduceRemote q ix => Sys2Proof.Machine.execReduceRemote q ix s
  | .quench q ix => Sys2Proof.Machine.execQuench q ix s
  | .trigAdd q ix => Sys2Proof.Machine.execTrigAdd q ix s
  | .fence q ix => Sys2Proof.Machine.execFence q ix s
  | .mark q ix => Sys2Proof.Machine.execMark q ix s
  | .engineBind e => Sys2Proof.Machine.execEngineBind e s
  | .cut => Sys2Proof.Machine.execCut s
  | .stitchEnd e => Sys2Proof.Machine.execStitchEnd e s
  | .dataReadDone e src ans => Sys2Proof.Machine.execDataReadDone e src ans s
  | .dataWriteAck q ix w => Sys2Proof.Machine.execDataWriteAck q ix w s
  | .entryComplete q ix => Sys2Proof.Machine.execEntryComplete q ix s
  | .flushReadDone q ix p => Sys2Proof.Machine.execFlushReadDone q ix p s
  | .recordWriteAck c => Sys2Proof.Machine.execRecordWriteAck c s
  | .ringBroken c mem => Sys2Proof.Machine.execRingBroken c mem s
  | .cqCoalTimer c => Sys2Proof.Machine.execCqCoalTimer c s
  | .dreqAssert n => Sys2Proof.Machine.execDreqAssert n s
  | .dreqDeassert n => Sys2Proof.Machine.execDreqDeassert n s
  | .dackPulseEnd n => Sys2Proof.Machine.execDackPulseEnd n s
  | .pacewaitRelease e => Sys2Proof.Machine.execPacewaitRelease e s
  | .tsSample t valid => Sys2Proof.Machine.execTsSample t valid s
  | .tsSampleMissing => Sys2Proof.Machine.execTsSampleMissing s
  | .traceCopy => Sys2Proof.Machine.execTraceCopy s
  | .traceCiWrite v => Sys2Proof.Machine.execTraceCiWrite v s
  | .foldSegment f => Sys2Proof.Machine.execFoldSegment f s
  | .deliveryReport q ix w reason => Sys2Proof.Machine.execDeliveryReport q ix w reason s
  | .getResponse e data ans => Sys2Proof.Machine.execGetResponse e data ans s
  | .netpTimeout q ix => Sys2Proof.Machine.execNetpTimeout q ix s
  | .keyCheckRequest key ofs len r => Sys2Proof.Machine.execKeyCheckRequest key ofs len r s
  | .arrivalNotification w => Sys2Proof.Machine.execArrivalNotification w s
  | .parkRelease => Sys2Proof.Machine.execParkRelease s
  | .parkSpillRefill => Sys2Proof.Machine.execParkSpillRefill s
  | .parkFullRetry q => Sys2Proof.Machine.execParkFullRetry q s
  | .chkInjArm hop => Sys2Proof.Machine.execChkInjArm hop s
  | .admEnable w => Sys2Proof.Machine.execAdmEnable w s
  | .admDisable w => Sys2Proof.Machine.execAdmDisable w s
  | .adminNop st => Sys2Proof.Machine.execAdminNop st s
  | .createWq st => Sys2Proof.Machine.execCreateWq st s
  | .destroyWq st => Sys2Proof.Machine.execDestroyWq st s
  | .destroyDrainTimeout st => Sys2Proof.Machine.execDestroyDrainTimeout st s
  | .modifyWq st => Sys2Proof.Machine.execModifyWq st s
  | .resumeWq st => Sys2Proof.Machine.execResumeWq st s
  | .queryWq st => Sys2Proof.Machine.execQueryWq st s
  | .createCq st => Sys2Proof.Machine.execCreateCq st s
  | .destroyCq st => Sys2Proof.Machine.execDestroyCq st s
  | .modifyCq st => Sys2Proof.Machine.execModifyCq st s
  | .queryCq st => Sys2Proof.Machine.execQueryCq st s
  | .createPd st => Sys2Proof.Machine.execCreatePd st s
  | .destroyPd st => Sys2Proof.Machine.execDestroyPd st s
  | .createMr st => Sys2Proof.Machine.execCreateMr st s
  | .destroyMr st => Sys2Proof.Machine.execDestroyMr st s
  | .bindRl st => Sys2Proof.Machine.execBindRl st s
  | .unitOffline st => Sys2Proof.Machine.execUnitOffline st s
  | .unitOnline st => Sys2Proof.Machine.execUnitOnline st s
  | .scrubCstore st single double => Sys2Proof.Machine.execScrubCstore st single double s
  | .clearTrig st => Sys2Proof.Machine.execClearTrig st s
  | .fenceAll st => Sys2Proof.Machine.execFenceAll st s
  | .setMirror st => Sys2Proof.Machine.execSetMirror st s
  | .traceStart st => Sys2Proof.Machine.execTraceStart st s
  | .traceStop st => Sys2Proof.Machine.execTraceStop st s
  | .fwCmd st => Sys2Proof.Machine.execFwCmd st s
  | .fwTimeout => Sys2Proof.Machine.execFwTimeout s
  | .admFwDone w => Sys2Proof.Machine.execAdmFwDone w s
  | .admCobLock w => Sys2Proof.Machine.execAdmCobLock w s
  | .admCobGo w => Sys2Proof.Machine.execAdmCobGo w s
  | .clearStitch => Sys2Proof.Machine.execClearStitch s
  | .arbPhase res cob => Sys2Proof.Machine.execArbPhase res cob s
  | .channelTake res c => Sys2Proof.Machine.execChannelTake res c s
  | .wdogBite res c => Sys2Proof.Machine.execWdogBite res c s
  | .arbCommit w => Sys2Proof.Machine.execArbCommit w s
  | .arbFreeze res on => Sys2Proof.Machine.execArbFreeze res on s
  | .slotAdvance res => Sys2Proof.Machine.execSlotAdvance res s
  | .slotCommit res => Sys2Proof.Machine.execSlotCommit res s
  | .icSet src => Sys2Proof.Machine.execIcSet src s
  | .extIntAssert n => Sys2Proof.Machine.execExtIntAssert n s
  | .extIntRearm n => Sys2Proof.Machine.execExtIntRearm n s
  | .icClaim t => Sys2Proof.Machine.execIcClaim t s
  | .icEoi t src => Sys2Proof.Machine.execIcEoi t src s
  | .resync t => Sys2Proof.Machine.execResync t s
  | .icCntClear src => Sys2Proof.Machine.execIcCntClear src s
  | .msgFail src => Sys2Proof.Machine.execMsgFail src s
  | .cobWait c => Sys2Proof.Machine.execCobWait c s
  | .cobDoze c => Sys2Proof.Machine.execCobDoze c s
  | .cobWake c => Sys2Proof.Machine.execCobWake c s
  | .resetAssert => Sys2Proof.Machine.execResetAssert s
  | .resetDeassert b => Sys2Proof.Machine.execResetDeassert b s
  | .sfdpReadDone ix => Sys2Proof.Machine.execSfdpReadDone ix s
  | .copySelect => Sys2Proof.Machine.execCopySelect s
  | .copyReadDone => Sys2Proof.Machine.execCopyReadDone s
  | .patternVerifyDone => Sys2Proof.Machine.execPatternVerifyDone s
  | .patternApply => Sys2Proof.Machine.execPatternApply s
  | .patApply w => Sys2Proof.Machine.execPatApply w s
  | .patProgram w => Sys2Proof.Machine.execPatProgram w s
  | .flashProgramDone written complete => Sys2Proof.Machine.execFlashProgramDone written complete s
  | .softReset w => Sys2Proof.Machine.execSoftReset w s
  | .hardReset w => Sys2Proof.Machine.execHardReset w s
  | .snap r => Sys2Proof.Machine.execSnap r s
  | .ci r => Sys2Proof.Machine.execCi r s
  | .start r => Sys2Proof.Machine.execStart r s
  | .complete r rec => Sys2Proof.Machine.execComplete r rec s
  | .cqpi r => Sys2Proof.Machine.execCqpi r s
  | .cqci r => Sys2Proof.Machine.execCqci r s
  | .ctr r => Sys2Proof.Machine.execCtr r s
  | .qGone r => Sys2Proof.Machine.execQGone r s
  | .cqGone r => Sys2Proof.Machine.execCqGone r s
  | .syncEnd r => Sys2Proof.Machine.execSyncEnd r s
  | .qCtx r ctx => Sys2Proof.Machine.execQCtx r ctx s
  | .cqCtx r ctx => Sys2Proof.Machine.execCqCtx r ctx s
  | .ctrCtx r ctx => Sys2Proof.Machine.execCtrCtx r ctx s
  | .mirrorAck seq => Sys2Proof.Machine.execMirrorAck seq s
  | .haltNotice n => Sys2Proof.Machine.execHaltNotice n s
  | .haltAck qid a => Sys2Proof.Machine.execHaltAck qid a s
  | .ready => Sys2Proof.Machine.execReady s
  | .sendState st => Sys2Proof.Machine.execSendState st s
  | .fellowAliveChange level => Sys2Proof.Machine.execFellowAliveChange level s
  | .haltInChange asserted => Sys2Proof.Machine.execHaltInChange asserted s
  | .takeoverDelay => Sys2Proof.Machine.execTakeoverDelay s
  | .adopt w => Sys2Proof.Machine.execAdopt w s
  | .haltCommand w => Sys2Proof.Machine.execHaltCommand w s
  | .drainLimit => Sys2Proof.Machine.execDrainLimit s
  | .adoptionStitch => Sys2Proof.Machine.execAdoptionStitch s
  | .pairCqCi w => Sys2Proof.Machine.execPairCqCi w s
  | .pairQmode w => Sys2Proof.Machine.execPairQmode w s
  | .laceDetect lanes => Sys2Proof.Machine.execLaceDetect lanes s
  | .laceLock cdr comma rx => Sys2Proof.Machine.execLaceLock cdr comma rx s
  | .laceDeskew rx => Sys2Proof.Machine.execLaceDeskew rx s
  | .laceConfig rx => Sys2Proof.Machine.execLaceConfig rx s
  | .attemptTimeout => Sys2Proof.Machine.execAttemptTimeout s
  | .soloProbe => Sys2Proof.Machine.execSoloProbe s
  | .packet b => Sys2Proof.Machine.execPacket b s
  | .feedback b => Sys2Proof.Machine.execFeedback b s
  | .feedbackTimer v => Sys2Proof.Machine.execFeedbackTimer v s
  | .replayTimeout v => Sys2Proof.Machine.execReplayTimeout v s
  | .replaySpill => Sys2Proof.Machine.execReplaySpill s
  | .refill v => Sys2Proof.Machine.execRefill v s
  | .retrainBlock => Sys2Proof.Machine.execRetrainBlock s
  | .adaptationFreeze lane => Sys2Proof.Machine.execAdaptationFreeze lane s
  | .lossOfLock lane lost => Sys2Proof.Machine.execLossOfLock lane lost s
  | .retrain w => Sys2Proof.Machine.execRetrain w s
  | .linkDown => Sys2Proof.Machine.execLinkDown s
  | .laneErrorWindow lane rx => Sys2Proof.Machine.execLaneErrorWindow lane rx s
  | .laceEnable on => Sys2Proof.Machine.execLaceEnable on s
  | .errLogCi v => Sys2Proof.Machine.execErrLogCi v s
  | .errLogRead w => Sys2Proof.Machine.execErrLogRead w s
  | .trigCounterRead info => Sys2Proof.Machine.execTrigCounterRead info s
  | .bistRow found => Sys2Proof.Machine.execBistRow found s
  | .engineSelfTest w => Sys2Proof.Machine.execEngineSelfTest w s
  | .reductionSelfTest w => Sys2Proof.Machine.execReductionSelfTest w s
  | .shadowStart w selfTest => Sys2Proof.Machine.execShadowStart w selfTest s
  | .shadowStop w => Sys2Proof.Machine.execShadowStop w s
  | .laneTest w => Sys2Proof.Machine.execLaneTest w s
  | .portTest w => Sys2Proof.Machine.execPortTest w s
  | .testDone pass errors checked => Sys2Proof.Machine.execTestDone pass errors checked s
  | .transactionRejected t => Sys2Proof.Machine.execTransactionRejected t s
  | .memWriteError t => Sys2Proof.Machine.execMemWriteError t s
  | .mempAddressError t => Sys2Proof.Machine.execMempAddressError t s
  | .merge a new => Sys2Proof.Machine.execMerge a new s
  | .ppsIn => Sys2Proof.Machine.execPpsIn s
  | .ppsOut rise => Sys2Proof.Machine.execPpsOut rise s
  | .registerWrite a ofs size data parityOk => Sys2Proof.Machine.execRegisterWrite a ofs size data parityOk s
  | .registerRead a ofs size => Sys2Proof.Machine.execRegisterRead a ofs size s
  | .extIntGlitch n => Sys2Proof.Machine.execExtIntGlitch n s
  | .extIntDeassert n => Sys2Proof.Machine.execExtIntDeassert n s
  | .dreqGlitch n => Sys2Proof.Machine.execDreqGlitch n s
  | .internalAcknowledgement n => Sys2Proof.Machine.execInternalAcknowledgement n s
  | .dackPulseStart n => Sys2Proof.Machine.execDackPulseStart n s
  | .laneLockWaitExpiry => Sys2Proof.Machine.execLaneLockWaitExpiry s
  | .syncClearStitch => Sys2Proof.Machine.execSyncClearStitch s
  | .ciRecordInterval ring n => Sys2Proof.Machine.execCiRecordInterval ring n s
  | .controlStateParityError red u => Sys2Proof.Machine.execControlStateParityError red u s

end Sys2Proof.Machine
end

