-- ==== Sys2Proof/Machine/Step.lean ====
section
/-!
DEFINITION. One step: the command at the front of the queue runs with the queue's rest; on an empty queue one CORE_CLK
cycle passes (log entry 3).
-/
namespace Sys2Proof.Machine

/-- One step of the mover. -/
def step (s : State) : Host.Outcome State Fault Refusal :=
  match s.pending with
  | [] => Sys2Proof.Machine.tick s
  | c :: r => exec c (s.withPending r)

/-- The state with the command that a table word spells in front of its queue; the table gives no row any bits, so no word
spells a command and the state stands. -/
def State.withFetchWord (s : State) (nbits w : Nat) : State :=
  match decodeTableWord nbits w with
  | some c => s.withPending (c :: s.pending)
  | none => s

end Sys2Proof.Machine
end

