-- ==== Sys2Proof/Safety.lean ====
section
/-!
DEFINITION. The terms in which claims speak: the parts of the state, when two states agree on a part, which parts a command
may change, and what a sound state and a safe step are.
-/
namespace Sys2Proof.Machine

/-- The parts of the state. -/
inductive Part where
  /-- The commands that wait. -/
  | pending
  /-- The register words. -/
  | regs
  /-- Queue contexts. -/
  | q
  /-- Completion-ring contexts. -/
  | cq
  /-- Trigger counters. -/
  | ctr
  /-- The region table. -/
  | mr
  /-- Protection domains. -/
  | pd
  /-- Entries fetched and not yet passed by CI. -/
  | fl
  /-- Parking store and spill area. -/
  | park
  /-- Completion records held, issued and waiting. -/
  | cqs
  /-- The context cache. -/
  | cache
  /-- Interrupt targets' stacks and messages held. -/
  | ic
  /-- Arbiters. -/
  | arb
  /-- Request lines. -/
  | lines
  /-- Time base. -/
  | tb
  /-- Trace buffer and copies. -/
  | trace
  /-- The admin executor. -/
  | adm
  /-- Pattern and startup. -/
  | pat
  /-- The pair's link traffic and takeover. -/
  | pair
  /-- The Lace link. -/
  | lace
  /-- The error log. -/
  | err
  /-- Spares and tests. -/
  | spr
  /-- Balls. -/
  | pins
  /-- Memory images. -/
  | mem
  /-- Installed in-package memory. -/
  | memSize
  /-- What the mover presented at its boundary. -/
  | out
  /-- What the latest read returned. -/
  | lastRead
  /-- The counter of free values. -/
  | free
  deriving DecidableEq, Repr

/-- Every part. -/
def Part.all : List Part :=
  [.pending, .regs, .q, .cq, .ctr, .mr, .pd, .fl, .park, .cqs, .cache, .ic, .arb, .lines, .tb, .trace, .adm, .pat, .pair,
    .lace, .err, .spr, .pins, .mem, .memSize, .out, .lastRead, .free]

/-- Every part but those of `l`. -/
def Part.but (l : List Part) : List Part := Part.all.filter (fun x => !decide (x ∈ l))

/-- Two states agree on a part. -/
def Part.same (x : Part) (t s : State) : Prop :=
  match x with
  | .pending => t.pending = s.pending
  | .regs => t.regs = s.regs
  | .q => t.q = s.q
  | .cq => t.cq = s.cq
  | .ctr => t.ctr = s.ctr
  | .mr => t.mr = s.mr
  | .pd => t.pd = s.pd
  | .fl => t.fl = s.fl
  | .park => t.park = s.park
  | .cqs => t.cqs = s.cqs
  | .cache => t.cache = s.cache
  | .ic => t.ic = s.ic
  | .arb => t.arb = s.arb
  | .lines => t.lines = s.lines
  | .tb => t.tb = s.tb
  | .trace => t.trace = s.trace
  | .adm => t.adm = s.adm
  | .pat => t.pat = s.pat
  | .pair => t.pair = s.pair
  | .lace => t.lace = s.lace
  | .err => t.err = s.err
  | .spr => t.spr = s.spr
  | .pins => t.pins = s.pins
  | .mem => t.mem = s.mem
  | .memSize => t.memSize = s.memSize
  | .out => t.out = s.out
  | .lastRead => t.lastRead = s.lastRead
  | .free => t.free = s.free

/-- `t` agrees with `s` on every part that is not in `l`. -/
def onlyChanges (l : List Part) (s t : State) : Prop := ∀ x, x ∉ l → x.same t s

/-- The priorities of a stack rise towards its top, which stands first (R293). -/
def risesToTop (l : List (Nat × Nat)) : Prop := l.Pairwise (fun x y => y.2 < x.2)

/-- No structure holds more than the spec gives it: parking slots and park-spill entries (R200), records of a CQ group's spill (R138),
ways of a cache set (R43); and every priority stack rises (R293). -/
def State.bounded (s : State) : Prop :=
  s.park.onChip.length ≤ 16384 ∧ s.park.spill.length ≤ 65536 ∧ (∀ g, s.spillLevel g ≤ 4096)
    ∧ (∀ x ∈ s.cache.ways, x.2.length ≤ 16) ∧ (∀ x ∈ s.ic.stk, risesToTop x.2)

/-- Every memory image of the state is in canonical form, and every structure within its bounds. -/
def State.sound (s : State) : Prop := Memory.wf s.mem = true ∧ s.bounded

/-- The next step answers a next state: neither a fault nor a refusal. -/
def State.safeStep (s : State) : Prop := ∃ t, step s = .next t

/-! ## Words of the claims -/

/-- Nothing goes on in the mover of its own accord: it is not halted, every read, message and write-back has returned or landed, nothing
waits for a channel, for room in the mirror queue or behind a read, nothing is left to fetch, decode, log or retire, and the link is
not up. -/
def State.resting (s : State) : Prop :=
  s.halted = false ∧ s.pair.haltLeft = 0 ∧ s.spr.retiring = [] ∧ (∀ f ∈ s.fl, f.phase ≠ .fetched ∧ f.phase ≠ .mirrorWait)
    ∧ s.fetchDue = [] ∧ s.sought = [] ∧ s.cqs.issued = [] ∧ s.cqs.wbs = [] ∧ (∀ m ∈ s.ic.msgs, m.landed = true) ∧ s.ic.unread = []
    ∧ s.err.now = [] ∧ s.err.wait = [] ∧ s.err.reads = [] ∧ s.cache.accs = [] ∧ s.laceUp = false
    ∧ s.pair.acts = [] ∧ s.pair.ringWait = [] ∧ (∀ q ∈ s.queues, s.qMirrored q = false)

/-- An aperture write on port `p` is applied as it comes: registers are served, the mover is not halted, the port's intake has
room and it holds nothing back, no earlier write of the slot waits, and every context it needs is hot or does not exist (R33 to
R35, R44). -/
def State.takesNow (s : State) (p : Nat) (c : Instr) : Prop :=
  s.served = true ∧ s.halted = false ∧ s.intakeLevel p < 1024 ∧ s.heldBack p = false ∧ blocked s.cache.waits c = false
    ∧ s.cold [] c = false

/-- Every register word but those at the offsets `P` is unchanged. -/
def keepsRegs (P : Nat → Prop) (s t : State) : Prop := ∀ o, ¬ P o → t.reg o = s.reg o
/-- Every queue context but that of `q` is unchanged. -/
def keepsQueues (q : Nat) (s t : State) : Prop := ∀ k, k ≠ q → t.qctx k = s.qctx k
/-- Every completion-ring context but that of `c` is unchanged. -/
def keepsRings (c : Nat) (s t : State) : Prop := ∀ k, k ≠ c → t.cctx k = s.cctx k
/-- Every counter but `n` is unchanged. -/
def keepsCounters (n : Nat) (s t : State) : Prop := ∀ k, k ≠ n → t.ctrOf k = s.ctrOf k
/-- Every entry but entry `i` of queue `q` is unchanged. -/
def keepsFlights (q : Nat) (i : W32) (s t : State) : Prop := ∀ k j, ¬ (k = q ∧ j = i) → t.flight? k j = s.flight? k j

/-- The context after a RING that hands over index `v` at Mover Time `t`: S, the RING count, and the acceptance where S moved
(R37, R124). -/
def QCtx.rung (c : QCtx) (v : W32) (t : W64) : QCtx :=
  { c with snap := v, rings := c.rings + 1, accepts := if v = c.snap then c.accepts else c.accepts ++ [{ old := c.snap, new := v, mt := t }] }

/-- The commands that can store to host memory, in-package memory or flash: those by which writes, records, messages, folds and resets
store; the arbiters', for folds and write-backs go on with a channel that passes (R45, R181); and those that park an entry, write a
context back, spill a packet, or touch a block of the context store that is still to be cleared (R45, R200, R341, R401). -/
def storesMemory : Instr → Bool
  | .piWrite _ _ _ _ | .ring _ _ _ | .piAndRing _ _ _ _ _ | .cqCiWrite _ _ _ _ | .apertureMisformedAccess _ _ _ _ _
  | .contextFetchDone _ _ _ | .entryFetchDone _ _ | .fragmentTableReadDone _ _ _ _ | .sourceListReadDone _ _ _
  | .nop _ _ | .move _ _ | .moveSg _ _ | .fill _ _ | .compare _ _ | .check _ _ | .put _ _ | .get _ _ _ | .putSg _ _
  | .getSg _ _ _ | .reduce _ _ | .reduceRemote _ _ | .quench _ _ | .trigAdd _ _ | .fence _ _ | .mark _ _
  | .engineBind _ | .stitchEnd _ | .dataReadDone _ _ _ | .dataWriteAck _ _ _ | .entryComplete _ _
  | .flushReadDone _ _ _ | .recordWriteAck _ | .ringBroken _ _ | .dreqAssert _ | .dreqDeassert _ | .dackPulseEnd _
  | .pacewaitRelease _ | .traceCopy | .foldSegment _ | .deliveryReport _ _ _ _ | .getResponse _ _ _ | .netpTimeout _ _
  | .arrivalNotification _ | .parkRelease | .parkFullRetry _ | .admEnable _ | .createWq _ | .destroyWq _
  | .destroyDrainTimeout _ | .queryWq _ | .createCq _ | .destroyCq _ | .queryCq _ | .createMr _ | .unitOffline _
  | .unitOnline _ | .scrubCstore _ _ _ | .clearTrig _ | .fenceAll _ | .setMirror _ | .traceStop _ | .fwCmd _
  | .fwTimeout | .admFwDone _ | .admCobGo _ | .clearStitch | .arbPhase _ _ | .channelTake _ _ | .wdogBite _ _
  | .msgFail _ | .resetAssert | .patternApply | .patApply _ | .patProgram _ | .flashProgramDone _ _ | .softReset _
  | .hardReset _ | .mirrorAck _ | .haltNotice _ | .sendState _ | .haltInChange _ | .takeoverDelay | .adopt _
  | .adoptionStitch | .pairCqCi _ | .pairQmode _ | .laceDetect _ | .laceLock _ _ _ | .laceDeskew _ | .laceConfig _
  | .attemptTimeout | .replayTimeout _ | .replaySpill | .lossOfLock _ _ | .retrain _ | .laneErrorWindow _ _
  | .laceEnable _ | .trigCounterRead _ | .testDone _ _ _ | .transactionRejected _ | .memWriteError _
  | .mempAddressError _ | .merge _ _ | .registerWrite _ _ _ _ _ | .registerRead _ _ _ | .internalAcknowledgement _
  | .laneLockWaitExpiry | .syncClearStitch | .controlStateParityError _ _ => true
  | _ => false

/-- The commands that can change the memory-region table. -/
def changesRegions : Instr → Bool
  | .createMr _ | .destroyMr _ | .softReset _ | .hardReset _ | .resetAssert | .registerWrite _ _ _ _ _ => true
  | _ => false

/-- The commands that can change the set of protection domains. -/
def changesDomains : Instr → Bool
  | .createPd _ | .destroyPd _ | .softReset _ | .hardReset _ | .resetAssert | .registerWrite _ _ _ _ _ => true
  | _ => false

/-- The opcode, queue, index and GET data of a work entry's own command. -/
def entryCommand : Instr → Option (Nat × BitVec 22 × W32 × List Byte)
  | .nop q i => some (0x00, q, i, [])
  | .move q i => some (0x01, q, i, [])
  | .moveSg q i => some (0x02, q, i, [])
  | .fill q i => some (0x03, q, i, [])
  | .compare q i => some (0x04, q, i, [])
  | .check q i => some (0x05, q, i, [])
  | .put q i => some (0x10, q, i, [])
  | .get q i d => some (0x11, q, i, d)
  | .putSg q i => some (0x12, q, i, [])
  | .getSg q i d => some (0x13, q, i, d)
  | .reduce q i => some (0x20, q, i, [])
  | .reduceRemote q i => some (0x21, q, i, [])
  | .quench q i => some (0x22, q, i, [])
  | .trigAdd q i => some (0x30, q, i, [])
  | .fence q i => some (0x31, q, i, [])
  | .mark q i => some (0x32, q, i, [])
  | _ => none

/-- The entry may start now, with no START record to send before it (R106, R355). -/
def State.mayBegin (s : State) (f : Flight) : Prop := s.canStart f = true ∧ (s.needsStart f && f.startSeq.isNone) = false

/-- No byte of the entry is bound, kept, left over or being written. -/
def Flight.unbound (f : Flight) : Prop := f.redo = [] ∧ f.stitches = [] ∧ f.writes = [] ∧ f.kept = none

/-- The entry as started: it keeps the settings in force (R85, R185, R230). -/
def State.begun (s : State) (f : Flight) : Flight :=
  { f with phase := .started, began := true, stitchLog2 := (s.qctx f.q).stitchLog2, redCfg := (s.reg IZ_RED_CFG).toNat,
           chkCfg := (s.reg IZ_CHK_CFG).toNat, piCfg := (s.reg IZ_PI_CFG).toNat }

/-- A running stitch may be cut for one that waits with rank `r`: not stopped, its engine BOUND, its entry not held to one stitch,
and its rank below `r` (R95). -/
def State.mayCut (s : State) (r : Nat) (y : Flight × Stitch) : Prop :=
  y.2.stop = false ∧ s.engSt y.2.eng = 1 ∧ boundByR91 (s.qctx y.1.q) y.1.e = false ∧ y.2.rank < r

/-- The one that waits first of those that no cut serves yet, with its rank (R95). -/
def State.cutNext (s : State) : Option (Nat × Nat) :=
  s.cutters.find? (fun r => !s.running68.any (fun y => decide (y.2.cutFor = some r.1)))

/-! ### Data -/

/-- The runs of the destination that job offsets [a, b) of an entry take: writes of at most 256 bytes within a fragment (R75, R442). -/
def Flight.unitRuns (f : Flight) (a b : Nat) : List Run :=
  (runs (f.fragsOf .dst) (f.e.sideOfs .dst a) (f.e.sideOfs .dst b - f.e.sideOfs .dst a)).flatMap f.e.segRuns

/-- What a write presents: space, address, bytes, the job range that it stands for, and whether it is marked poisoned. -/
def DataWrite.shown (x : DataWrite) : Nat × Nat × List Byte × Nat × Nat × Bool := (x.space, x.addr, x.bytes, x.lo, x.hi, x.poison)

/-- The write, at run `r`, of the bytes `b` made of a unit from job offset `a` on; a poisoned one stands for no job byte (R75, R219). -/
def Flight.writeAt (f : Flight) (a : Nat) (b : List Byte) (poison : Bool) (r : Run) : Nat × Nat × List Byte × Nat × Nat × Bool :=
  let lo := f.e.jobOf .dst r.ofs
  let hi := f.e.jobOf .dst (r.ofs + r.n)
  (f.e.dstSpace, r.addr, if f.e.wireCarrier then f.e.madeBytes b a lo hi else (b.drop (r.ofs - f.e.sideOfs .dst a)).take r.n, lo,
    if poison then lo else hi, poison)

/-- A write issued later has written the byte at address `a` (R438, R447). -/
def DataWrite.spent (x : DataWrite) (a : Nat) : Bool := x.past.any (fun r => decide (r.1 ≤ a) && decide (a < r.2))

/-- No other outstanding write shares a byte with write `x` of entry `i` of queue `q`. -/
def State.writesAlone (s : State) (q : Nat) (i : W32) (x : DataWrite) : Prop :=
  ∀ f ∈ s.fl, ∀ y ∈ f.writes, ¬ (f.q = q ∧ f.idx = i ∧ y.w = x.w) → overlaps y.addr y.bytes.length x.addr x.bytes.length = false

/-- In RUN, engine `e`'s unpaced stitch `x` of entry `f` goes on and has one unit left, which is staged whole, and the engine owns what
its issue needs; the entry has not ended, and no change of its queue's mode or line waits. -/
def State.lastUnit (s : State) (e : Nat) (f : Flight) (x : Stitch) : Prop :=
  e < 68 ∧ s.onEngine e = some (f, x) ∧ s.flight? f.q f.idx = some f ∧ s.run = true ∧ x.ready = true ∧ x.stop = false ∧ x.line = none
    ∧ x.ends = [] ∧ x.wr < x.hi ∧ f.unitEnd x.wr x.hi = x.hi ∧ (∀ k, k < f.e.readers → f.hasStaged x x.hi k = true)
    ∧ s.ownsIssue f e = true ∧ f.ended = false ∧ f.status = stOk ∧ (s.qctx f.q).newMirror = none ∧ (s.qctx f.q).newLine = none

/-- No byte of what is staged for [x.wr, x.hi) arrived damaged, the CRC held for each of its check blocks is that of its bytes, and no
injection is armed (R213, R214, R232). -/
def State.blockSound (s : State) (f : Flight) (x : Stitch) : Prop :=
  s.fb IZ_CHK_INJ_armed = false ∧ ∀ k, k < f.e.readers → anyBad (f.stagedFor x k x.wr x.hi) = false
    ∧ ∀ c ∈ cuts 512 x.wr x.hi, x.heldSum k c.1 = BitVec.ofNat 32 (crc32c (f.blockBytes x k c.1 c.2))

/-- Every check of the staged unit passes (R214 to R229, R431). -/
def State.passesChecks (s : State) (f : Flight) (x : Stitch) (a b : Nat) : Prop :=
  s.blockSound f x ∧ f.piCheck x a b = none ∧ s.spr.shadow = none

/-- The exceptions `l` of result elements are counted by kind (R184). -/
def State.countsExceptions (s : State) (l : List Exc) (t : State) : Prop :=
  t.f IZ_RED_EXCEPT_carrier = satAdd IZ_RED_EXCEPT_carrier.w (s.f IZ_RED_EXCEPT_carrier) (l.filter (·.carrier)).length
    ∧ t.f IZ_RED_EXCEPT_invalid = satAdd IZ_RED_EXCEPT_invalid.w (s.f IZ_RED_EXCEPT_invalid) (l.filter (·.invalid)).length
    ∧ t.f IZ_RED_EXCEPT_overflow = satAdd IZ_RED_EXCEPT_overflow.w (s.f IZ_RED_EXCEPT_overflow) (l.filter (·.overflow)).length
    ∧ t.f IZ_RED_EXCEPT_integer = satAdd IZ_RED_EXCEPT_integer.w (s.f IZ_RED_EXCEPT_integer) (l.filter (·.int)).length

/-- A carrier of a width built from the empty one by deposits of floating-point elements, each with its type, and merges (R168). -/
inductive Carried (w : Width) : List (Nat × Nat) → Car → Prop where
  | empty : Carried w [] (Car.empty w)
  | deposit (t v : Nat) (l : List (Nat × Nat)) (c : Car) : t ≤ 3 → widthOf t = w → Carried w l c → Carried w ((t, v) :: l) (c.deposit t v)
  | merge (l m : List (Nat × Nat)) (c d : Car) : Carried w l c → Carried w m d → Carried w (l ++ m) (c.merge w d)

/-- No channel is owned or about to be, nothing requests one, no phase is to do anything else, and nothing is out, traced or about to
leave service. -/
def State.uncontested (s : State) : Prop :=
  s.arb.own = [] ∧ (∀ res, s.candOf res = []) ∧ (∀ res r, res < 7 → r < 80 → s.requests res false r = false) ∧ s.arb.folds = []
    ∧ s.arb.refused = [] ∧ s.arb.sent = [] ∧ s.arb.gone = [] ∧ s.spr.leaving = [] ∧ s.f ARB_COMMIT_pending = 0
    ∧ (∀ res, res < 7 → s.fb (ARB_CTL_freeze res) = false) ∧ s.fb TB_TRACE_CFG_on = false
    ∧ (∀ f ∈ s.fl, f.stitches = [] ∧ f.writes = [] ∧ f.flush.any id = false) ∧ s.ic.held = []

/-- The entry is not started, or it is a reduction whose list is read; nothing of it is bound or done, each of its sides lies in one burst
of at most 256 bytes, all checks at its start pass, its sources are sound, and its queue's context is at hand, with no line and no change
waiting. -/
def State.oneUnit (s : State) (f : Flight) : Prop :=
  ((f.phase = .startable ∧ f.e.hasList = false) ∨ (f.phase = .started ∧ f.srcList.isSome = true)) ∧ f.unbound ∧ f.next = 0 ∧ f.done = []
    ∧ f.status = stOk ∧ f.ended = false ∧ f.e.length ≤ 256 ∧ f.e.piOp = 0 ∧ 8 ≤ f.stitchLog2 ∧ 8 ≤ (s.qctx f.q).stitchLog2
    ∧ s.startChecks f 0 f.e.length = .ok ∧ f.badOverlap = false ∧ (s.qctx f.q).rlBind = false ∧ (s.qctx f.q).newMirror = none
    ∧ (s.qctx f.q).newLine = none ∧ (s.needsStart f && f.startSeq.isNone) = false ∧ s.atHand [(.queue, f.q)] = true
    ∧ s.fb IZ_CHK_INJ_armed = false ∧ s.spr.shadow = none ∧ (f.e.isRed = true → s.channels 4 ≠ [])
    ∧ (f.e.isGet = true → ∃ r, runAt (f.fragsOf .dst) 0 f.e.length = some r ∧ r.n = f.e.length)
    ∧ ∀ k, k < f.e.readers → ∃ r, runAt (f.reader k).2 0 (f.e.sideLen (f.reader k).1) = some r ∧ r.n = f.e.sideLen (f.reader k).1
        ∧ (f.e.space (f.reader k).1 = 2 ↔ f.e.isGet = true)
        ∧ (f.e.isGet = false → s.readBad (f.e.space (f.reader k).1) (s.qctx f.q).pasidOf r.addr r.n = false
            ∧ (f.e.space (f.reader k).1 ≠ 0 → s.pkgOut r.addr r.n = false))

/-- The bytes of the burst in which side of reader `k` lies; those of a GET are the response's. -/
def State.sideBytes (s : State) (f : Flight) (data : List Byte) (k : Nat) : List Byte :=
  if f.e.isGet then data.take f.e.length
  else match runAt (f.reader k).2 0 (f.e.sideLen (f.reader k).1) with
    | some r => s.readBytes (f.e.space (f.reader k).1) (s.qctx f.q).pasidOf r.addr r.n
    | none => []

/-- A stitch over the whole of the entry that has staged its sources sound, with the fill pattern of its entry (R61, R104). -/
def State.fedStitch (s : State) (f : Flight) (data : List Byte) : Stitch :=
  { eng := 0, lo := 0, hi := f.e.length, wr := 0, ready := true, stop := false, cut := false, cutFor := none, rank := 0, line := none,
    paced := 0, ends := [], asked := 0, pat := if f.e.isFill ∧ 0x10 ≤ f.e.fillSel then s.reg (IZ_FILL_PAT (f.e.fillSel - 0x10)) else 0,
    born := 0, stage := (List.range f.e.readers).map (fun k => (s.sideBytes f data k).map (fun b => SByte.mk b false)), rds := [], sums := [] }

/-- Engine `e` owns no channel of any resource. -/
def State.ownsNothing (s : State) (e : Nat) : Prop := ∀ res, s.owns res e = false

/-- The record of `f` goes straight to its ring, whose context and that of the counter that `f` signals are at hand (R44, R136). -/
def State.postsAtOnce (s : State) (f : Flight) : Prop :=
  f.postsRecord = true ∧ f.quar = none ∧ s.atHand (s.endNeeds f) = true ∧ (s.cctx (s.recRing f)).state = .active
    ∧ s.direct (s.recRing f) = true

/-- Entry `f` has posted the record `r`: it is issued at PI of its ring, which advances by one, and the counter that the entry
signals at this status gains its increment (R127, R139, R194). -/
def posted (f : Flight) (r : CRec) (s t : State) : Prop :=
  (∃ g, t.flight? f.q f.idx = some g ∧ g.phase = .posted)
    ∧ t.cqs.issued = s.cqs.issued ++ [((s.cctx (s.recRing f)).pi, { c := s.recRing f, r := r, q := f.q, idx := f.idx, at_ := s.tb.cycle })]
    ∧ t.cctx (s.recRing f) = { s.cctx (s.recRing f) with pi := (s.cctx (s.recRing f)).pi + 1 }
    ∧ (f.signalsAt = true → (t.ctrOf (ctrIdx f.q f.e.sigCtr)).value
        = (s.ctrOf (ctrIdx f.q f.e.sigCtr)).value + BitVec.ofNat 64 f.e.increment)
    ∧ (f.signalsAt = false → t.ctr = s.ctr) ∧ keepsCounters (ctrIdx f.q f.e.sigCtr) s t
    ∧ keepsRings (s.recRing f) s t ∧ keepsFlights f.q f.idx s t

/-- No stitch is paced by request line `n`. -/
def State.notPaced (s : State) (n : Nat) : Prop := ∀ f ∈ s.fl, ∀ x ∈ f.stitches, ∀ l, x.line = some l → l.1 ≠ n

/-! ### Admin commands -/

/-- A record of the ring stream is written at once: CQID 0 is ACTIVE with room and holds none back, no work entry goes by the
admin queue's number, and no disable waits. -/
def State.ringReports (s : State) : Prop :=
  (s.cctx 0).state = .active ∧ s.direct 0 = true ∧ (∀ i, s.flight? 0 i = none) ∧ s.adm.disabling = false

/-- The mirror records that an action sends, if any, find room: none are sent, or none wait in the mirror queue (R356). -/
def State.recordsGo (s : State) : Prop := s.mirrorOn = false ∨ s.pair.queue = []

/-- No trace record reaches a block of the context store that is still to be cleared (R341). -/
def State.noFreshTrace (s : State) : Prop := s.fb PAT_STAT_clearing = false ∨ s.fb TB_TRACE_CFG_on = false
/-- Memory is as it was, but for a block that a trace record clears out of turn. -/
def keepsMemory (s t : State) : Prop := s.noFreshTrace → t.mem = s.mem
/-- The engine of stream `who` is bound to its stitch and owns the channels that the stitch needs (R260, R263). -/
def State.admHas (s : State) (who : Nat) (needs : List Nat) : Prop := ∃ e, s.adm.eng = some (e, who, needs) ∧ ∀ r ∈ needs, s.owns r e = true

/-- The next command of stream `st` is `o` with opcode `op`, not begun, and its stitch may run (R255). -/
def State.admRuns (s : State) (st : Stream) (op : Nat) (o : AdmOpen) : Prop :=
  s.admCmd st op = some o ∧ s.admMay st = true ∧ o.begun = false ∧ s.recordsGo ∧ (st = .ring → s.ringReports)

/-- The stream's command `o` has ended with this status and value: in ADM_COB_RES, or in a record issued to CQID 0 (R238,
R257). -/
def admReported (st : Stream) (o : AdmOpen) (status value : Nat) (t : State) : Prop :=
  t.admOf st = none ∧ match st with
    | .cob => t.f ADM_COB_RES_busy = 0 ∧ t.f ADM_COB_RES_done = 1 ∧ t.f ADM_COB_RES_adm_status = status % 256
        ∧ t.f ADM_COB_RES_value = value % 2 ^ 32 ∧ t.f ADM_COB_RES_opcode = admOp o.cmd.words
    | .ring => ∃ y ∈ t.cqs.issued, y.2.c = 0 ∧ y.2.idx = o.cmd.idx ∧ y.2.r.seq = o.cmd.idx ∧ y.2.r.status = stOk
        ∧ y.2.r.bytesDone = status + value % 2 ^ 32 * 256 ∧ y.2.r.opcode = admOp o.cmd.words

/-- The stream, opcode and refusals of a command of one stitch (R239, R240, R242). -/
def oneStitchCommand : Instr → Option (Stream × Nat × (State → List W64 → List (Bool × Nat)))
  | .adminNop st => some (st, 0x00, fun _ _ => [])
  | .createWq st => some (st, 0x01, State.judgeCreateWq)
  | .modifyWq st => some (st, 0x03, State.judgeModifyWq)
  | .createCq st => some (st, 0x08, State.judgeCreateCq)
  | .modifyCq st => some (st, 0x0A, State.judgeModifyCq)
  | .createPd st => some (st, 0x10, fun s w => [(s.pdOf (admF w 3 0 16), 0x03)])
  | .destroyPd st => some (st, 0x11, fun s w => [(!s.pdOf (admF w 3 0 16), 0x04), (s.pdOf (admF w 3 0 16) && s.pdUsed (admF w 3 0 16), 0x05)])
  | .createMr st => some (st, 0x12, State.judgeCreateMr)
  | .destroyMr st => some (st, 0x13, State.judgeDestroyMr)
  | .bindRl st => some (st, 0x18, State.judgeBindRl)
  | .traceStart st => some (st, 0x30, State.judgeTraceStart)
  | _ => none

/-- The stream, opcodes and refusals of a command that firmware serves (R239, R240, R256). -/
def firmwareCommand : Instr → Option (Stream × (Nat → Bool) × (State → List W64 → List (Bool × Nat)))
  | .unitOnline st => some (st, fun op => decide (op = 0x21), State.judgeOnline)
  | .setMirror st => some (st, fun op => decide (op = 0x29), State.judgeSetMirror)
  | .fwCmd st => some (st, isFwCmd, fun _ _ => [])
  | _ => none

/-! ### Startup -/

/-- Header, table and trailer of copy `c` are there and pass (R324). -/
def State.copyPasses (s : State) (c : Nat) : Prop := s.absent c = false ∧ (judgeHead (s.imgRead c)).1 = 0

/-- What follows when the candidate `c` fails: the other copy that passed is the candidate, or the mover is HELD (R339). -/
def State.otherCopyTried (s : State) (c : Nat) (t : State) : Prop :=
  t.f (PAT_COPY_status c) = (s.judgeImage (s.imgRead c)).1
    ∧ (∀ d, s.pat.passed.filter (fun x => decide (x ≠ c)) = [d] → t.phase = 3 ∧ t.pat.cand = some d)
    ∧ (s.pat.passed.filter (fun x => decide (x ≠ c)) = [] → t.phase = 6 ∧ t.pat.cand = none)
    ∧ onlyChanges [.regs, .pat, .free] s t

/-! ### The pair -/

/-- The keeper takes the record `r` of command `c` next: it applies records, none waits, the context that it needs is hot or does not
exist, and it does not end a drain (R44, R352, R367). -/
def State.takesRecord (s : State) (c : Instr) (r : MRec) : Prop :=
  s.keeps = true ∧ s.recWaits = 0 ∧ r.seq = s.pair.applied ∧ s.cold [] c = false
    ∧ (s.f PAIR_STAT_phase = 0 ∨ ∀ sq, s.pair.drainTo = some sq → idxBefore sq (r.seq + 1) = false)

/-- The record has been applied: the next one is awaited, and what the keeper owns itself is as it was. -/
def recordApplied (r : MRec) (s t : State) : Prop :=
  t.pair.applied = r.seq + 1 ∧ onlyChanges [.regs, .ctr, .cache, .ic, .arb, .pair, .lace, .out] s t

/-- Mirrored queues other than `q` are as they were. -/
def keepsMirrorQueues (q : Nat) (s t : State) : Prop := ∀ k, k ≠ q → t.mqOf k = s.mqOf k
/-- Mirrored rings other than `c` are as they were. -/
def keepsMirrorRings (c : Nat) (s t : State) : Prop := ∀ k, k ≠ c → t.mcqOf k = s.mcqOf k
/-- Done log entries other than that of entry `i` of queue `q` are as they were. -/
def keepsLog (q : Nat) (i : W32) (s t : State) : Prop := ∀ k j, k < 2 ^ 21 → ¬ (k = q ∧ j = i) → t.logOf k j = s.logOf k j

/-- No work waits for the mirror: no mirrored queue, no mode change, no accepted RING, no action and no entry held back for it. -/
def State.mirrorIdle (s : State) : Prop :=
  s.pair.ringWait = [] ∧ s.pair.acts = [] ∧ (∀ q ∈ s.queues, s.qMirrored q = false ∧ (s.qctx q).newMirror = none) ∧ ∀ f ∈ s.fl, f.phase ≠ .mirrorWait

/-- What a takeover condition does where it does not take over (R366): the condition shows, source 49 counts an event, and it is
refused where the mirror is not SYNCED. -/
def State.conditionShown (s t : State) : Prop :=
  t.f PAIR_STAT_cond = 1 ∧ t.f (IC_CNT_count 49) = min 255 (s.f (IC_CNT_count 49) + 1)
    ∧ t.f PAIR_ADOPT_refused = (if s.f PAIR_STAT_keep_state = 2 then s.f PAIR_ADOPT_refused else satAdd PAIR_ADOPT_refused.w (s.f PAIR_ADOPT_refused) 1)

/-! ### The link -/

/-- A recovery has started from UP (R403): LOCK, every lane unlocked, the recovery counted, and of each channel the sequence numbers
and the replay storage kept, as is the session. -/
def State.recovering (s t : State) : Prop :=
  t.laceSt = 2 ∧ t.locked = 0 ∧ t.lace.recovery = true
    ∧ t.f LACE_ERR_recoveries = satAdd LACE_ERR_recoveries.w (s.f LACE_ERR_recoveries) 1
    ∧ t.f LACE_STAT_session = s.f LACE_STAT_session
    ∧ (∀ v, v < 3 → (t.vc v).base = (s.vc v).base ∧ (t.vc v).next = (s.vc v).next ∧ (t.vc v).store = (s.vc v).store
        ∧ (t.vc v).expected = (s.vc v).expected ∧ (t.vc v).stalled = none)
    ∧ keepsMemory s t ∧ t.q = s.q ∧ t.cq = s.cq ∧ t.fl = s.fl

/-- What a change of the link's state may change: its registers, the link itself, the source it raises and a trace record. -/
def changesLink (s t : State) : Prop := keepsMemory s t ∧ onlyChanges [.regs, .ic, .trace, .pat, .lace, .mem, .out] s t

/-- No requester owns the Lace transmitter. -/
def State.laceQuiet (s : State) : Prop := ∀ r ∈ laceReqs, s.owns resLace r = false

/-- CTRL alone owns the Lace transmitter. -/
def State.ctrlOwns (s : State) : Prop := ∀ r ∈ laceReqs, s.owns resLace r = decide (r = 79)

/-! ### Service and registers -/

/-- `c` is the command of a write `w` to SPR_TEST_CMD. -/
def State.testOf (_s : State) (w : W64) (c : Instr) : Prop :=
  (c = .engineSelfTest w ∧ testKind w 0 = true) ∨ (c = .reductionSelfTest w ∧ testKind w 1 = true)
    ∨ ((c = .shadowStart w true ∨ c = .shadowStart w false) ∧ testKind w 2 = true) ∨ (c = .shadowStop w ∧ testKind w 3 = true)
    ∨ (c = .laneTest w ∧ testKind w 4 = true) ∨ (c = .portTest w ∧ testKind w 5 = true)

/-- The command is refused: result 3, and nothing else changes (R430). -/
def State.testRefused (s : State) (c : Instr) : Prop :=
  ∃ t, exec c s = .next t ∧ t.f SPR_TEST_STAT_result = 3 ∧ t.f SPR_TEST_STAT_busy = s.f SPR_TEST_STAT_busy
    ∧ keepsRegs (fun o => o = SPR_TEST_STAT) s t ∧ onlyChanges [.regs] s t

/-- A test of this kind runs on unit `u`. -/
def State.testStarted (s : State) (kind u : Nat) (t : State) : Prop :=
  t.fb SPR_TEST_STAT_busy = true ∧ t.f SPR_TEST_STAT_kind = kind ∧ t.f SPR_TEST_STAT_result = 0 ∧ t.spr.unit = u
    ∧ onlyChanges [.regs, .arb, .spr] s t

/-- The access is counted in IZ_BAD_ACCESS with its offset, cause and agent, and no other register changes (R477, R478). -/
def State.badCounted (s : State) (a : Agent) (ofs cause : Nat) (t : State) : Prop :=
  t.f IZ_BAD_ACCESS_count = satAdd IZ_BAD_ACCESS_count.w (s.f IZ_BAD_ACCESS_count) 1 ∧ t.f IZ_BAD_ACCESS_last_ofs = ofs
    ∧ t.f IZ_BAD_ACCESS_last_cause = cause ∧ t.f IZ_BAD_ACCESS_last_agent = agentNo a ∧ keepsRegs (fun o => o = IZ_BAD_ACCESS) s t

/-- Registers that only hold what is written to them: a write has no effect beyond their fields. -/
def plainRegs : List Reg :=
  [.izSchedCfg, .izFillPat, .izRedCfg, .izChkCfg, .izPiCfg, .rlCfg, .arbRank, .arbCtl, .arbSlot, .icVecAddr, .icVecData, .icOutCfg,
    .icLineCfg, .pairTakeoverDelay, .laceDownTime, .laceTrainCfg, .laceReplayCfg, .laceLaneCfg, .sprPolicy]

end Sys2Proof.Machine
end

