-- ==== Sys2Proof/Certificates/Slice0/Obligations.lean ====
section
/-!
DEFINITION. What is to be proved of the mover.
-/

open Sys2Proof Sys2Proof.Machine

/-- For every command c, queue rest r and state s: with c :: r waiting, step answers what exec answers for c on the state whose
queue is r. -/
def Obligations.StepRunsTheFrontCommand : Prop :=
  ∀ (c : Instr) (r : List Instr) (s : State), s.pending = c :: r → step s = exec c (s.withPending r)

/-- With no command waiting and nothing going on in the mover of its own accord, a step changes the time base, the arbiters' idle
counts and the order of the admin streams, and nothing else: fabric time and MT rise by 2 and 3 units in turn; fabric time
never passes the latest sample + 25, MT follows it in holdover without that bound, and outside holdover never goes back but
stands until fabric time has passed it. That one idle step is one cycle, and that fabric time goes on at the same rate between
samples, are the model's choices (log entries 3 and 70). -/
def Obligations.IdleStepAdvancesMoverTime : Prop :=
  ∀ s : State, s.pending = [] → s.resting →
    ∃ t, step s = .next t ∧ onlyChanges [.tb, .arb, .adm] s t ∧ t.adm = { s.adm with line := s.lineNow } ∧ t.tb.odd = !s.tb.odd
      ∧ t.tb.cycle = s.tb.cycle + 1
      ∧ t.tb.fabric = BitVec.ofNat 64 (min (s.tb.fabric.toNat + (if s.tb.odd then 3 else 2)) (s.tb.sample.toNat + 25))
      ∧ t.mt = (if s.fb TB_STAT_holdover then s.mt + (if s.tb.odd then 3 else 2)
          else BitVec.ofNat 64 (max s.mt.toNat (min (s.tb.fabric.toNat + (if s.tb.odd then 3 else 2)) (s.tb.sample.toNat + 25))))

/-- After reset every register word reads its reset value of the address map, no queue, ring, counter, region or domain exists, no
entry is in flight, the error log is empty, HALT_OUT is asserted, and no command waits. Values the spec leaves open are the
model's choice (log entry 2). Of the reset state, the memory images are in canonical form, no parking store, spill or cache
set holds more than it may, and every priority stack rises. -/
def Obligations.ResetLeavesTheStatedValues : Prop :=
  ((∀ o, State.reset.reg o = regReset o) ∧ (∀ q, (State.reset.qctx q).state = .free) ∧ (∀ c, (State.reset.cctx c).state = .free)
    ∧ (∀ n, (State.reset.ctrOf n).valid = false) ∧ (∀ n, (State.reset.mrOf n).valid = false) ∧ (∀ n, State.reset.pdOf n = false)
    ∧ State.reset.fl = [] ∧ State.reset.logLevel = 0 ∧ State.reset.pins.haltOut = true ∧ State.reset.pins.ppsOut = false
    ∧ State.reset.pending = [] ∧ State.reset.phase = 0 ∧ (∀ n, n < 1024 → State.reset.pend n = false))
    ∧ (State.reset.sound)

/-- For every state whose host, in-package, poison, syndrome and flash images are in canonical form, and in which at most 16,384
entries are parked on chip and 65,536 in the park spill, at most 4,096 records stand in the spill of a CQ group, no cache set
holds more than 16 ways and the priorities of every interrupt target's stack rise strictly towards its top, and whatever
commands wait, the same holds of the next state. -/
def Obligations.EveryStepKeepsStateSound : Prop :=
  ∀ s t : State, s.sound → step s = .next t → t.sound

/-- For every state, the next step answers a next state. exec leaves the commands that wait unchanged for every command, and the
installed in-package memory for every command but RESET_DEASSERT. -/
def Obligations.EveryCommandCompletes : Prop :=
  (∀ s : State, s.safeStep)
    ∧ (∀ (c : Instr) (s t : State), exec c s = .next t → t.pending = s.pending ∧ ((∀ b, c ≠ .resetDeassert b) → t.memSize = s.memSize))

/-- Every command outside the list storesMemory leaves host memory, in-package memory, poison marks, syndromes and flash
unchanged. The list holds the commands by which writes, records, messages, folds, parking, written-back contexts, trace and
log records that touch a block still to be cleared, and resets store; where a channel may pass, what waits for it can go on
(log entry 10). Every command but CREATE_MR, DESTROY_MR, a reset and a register write (which can order a reset) leaves every
region entry unchanged. Every command but CREATE_PD, DESTROY_PD, a reset and a register write leaves the set of protection
domains unchanged. -/
def Obligations.OnlyTheirCommandsChangeStores : Prop :=
  (∀ (c : Instr) (s t : State), storesMemory c = false → exec c s = .next t → t.mem = s.mem)
    ∧ (∀ (c : Instr) (s t : State), changesRegions c = false → exec c s = .next t → ∀ n, t.mrOf n = s.mrOf n)
    ∧ (∀ (c : Instr) (s t : State), changesDomains c = false → exec c s = .next t → ∀ n, t.pdOf n = s.pdOf n)

/-- A PI_WRITE with good parity that is applied as it comes, to an open slot whose queue is not DESTROYING, stores PI in the
queue's context, leaves every other queue and every register but WQ_INTAKE_LEVEL of its port and WQ_CTX_HIT unchanged, and
changes nothing outside queue contexts, registers and the cache order. A PI_AND_RING of 16, 32 or 64 bytes with good parity
that is applied as it comes, to a READY or STOPPED queue that is not mirrored and for which no accepted RING waits, whose CI,
S and the PI written stand in legal order, leaves PI and S at the index written, counts the ring, and changes no other queue
and nothing outside queue contexts, registers and the cache order. That these are the sizes aligned to themselves is the
model's reading (log entry 20). -/
def Obligations.ProducerIndexWrites : Prop :=
  (∀ (p : Fin 2) (q : BitVec 21) (v : W32) (s : State), s.takesNow p.val (.piWrite p q v true) →
    s.slotClosed q.toNat = false → (s.qctx q.toNat).state ≠ .destroying →
    ∃ t, exec (.piWrite p q v true) s = .next t ∧ t.qctx q.toNat = { s.qctx q.toNat with pi := v }
      ∧ keepsQueues q.toNat s t ∧ onlyChanges [.regs, .q, .cache] s t
      ∧ keepsRegs (fun o => o = WQ_INTAKE_LEVEL p.val ∨ o = WQ_CTX_HIT) s t)
    ∧ (∀ (p : Fin 2) (q : BitVec 21) (n : Nat) (v : W32) (s : State), (n = 16 ∨ n = 32 ∨ n = 64) →
    s.takesNow p.val (.piAndRing p q n v true) → s.slotClosed q.toNat = false → s.qMirrored q.toNat = false →
    ((s.qctx q.toNat).state = .ready ∨ (s.qctx q.toNat).state = .stopped) →
    (∀ x ∈ s.pair.ringWait, x.1 ≠ q.toNat) → idxDiff v (s.qctx q.toNat).ci ≤ 2 ^ (s.qctx q.toNat).sizeLog2 →
    idxDiff (s.qctx q.toNat).snap (s.qctx q.toNat).ci ≤ idxDiff v (s.qctx q.toNat).ci →
    ∃ t, exec (.piAndRing p q n v true) s = .next t
      ∧ t.qctx q.toNat = { s.qctx q.toNat with pi := v }.rung v (s.mtIn 1)
      ∧ keepsQueues q.toNat s t ∧ onlyChanges [.regs, .q, .cache] s t)

/-- A RING with good parity, applied as it comes, to a READY or STOPPED queue for which no accepted RING waits. With CI, S and PI
in legal order and room in the mirror queue where records are sent, it sets S to PI, so that S stays within the ring, counts
the ring and records old S, new S and the MT where S moved; every other queue is unchanged, and for a queue that is not
mirrored nothing outside queue contexts, registers and the cache order changes. Out of order, with cause 0x01 (PI more than
the ring ahead of CI) before 0x02 (PI behind S) and cause_index PI: a User queue, STRICT_USER off, that is not mirrored and
has nothing parked becomes QUARANTINED, with source 33 raised and S as it was; otherwise the mover halts with cause MALFORMED,
and PAIR_HALT names the cause, the queue and PI. A RING of a QUARANTINED, FENCED or DESTROYING queue only counts ring_ignored. -/
def Obligations.RingTakesTheSnapshot : Prop :=
  ∀ (p : Fin 2) (q : BitVec 21) (s : State), s.takesNow p.val (.ring p q true) → s.slotClosed q.toNat = false →
    (((s.qctx q.toNat).state = .ready ∨ (s.qctx q.toNat).state = .stopped) →
      idxDiff (s.qctx q.toNat).pi (s.qctx q.toNat).ci ≤ 2 ^ (s.qctx q.toNat).sizeLog2 →
      idxDiff (s.qctx q.toNat).snap (s.qctx q.toNat).ci ≤ idxDiff (s.qctx q.toNat).pi (s.qctx q.toNat).ci →
      (∀ x ∈ s.pair.ringWait, x.1 ≠ q.toNat) → (s.qMirrored q.toNat = true → s.mirrorOn = true → s.mirrorRoom 1 = true) →
      ∃ t, exec (.ring p q true) s = .next t
        ∧ t.qctx q.toNat = (s.qctx q.toNat).rung (s.qctx q.toNat).pi (s.mtIn 1)
        ∧ idxDiff (t.qctx q.toNat).snap (t.qctx q.toNat).ci ≤ 2 ^ (t.qctx q.toNat).sizeLog2
        ∧ keepsQueues q.toNat s t
        ∧ (s.qMirrored q.toNat = false → onlyChanges [.regs, .q, .cache] s t))
    ∧ (∀ cause : Nat, ((s.qctx q.toNat).state = .ready ∨ (s.qctx q.toNat).state = .stopped) →
      (∀ x ∈ s.pair.ringWait, x.1 ≠ q.toNat) →
      (cause = 0x01 ∧ 2 ^ (s.qctx q.toNat).sizeLog2 < idxDiff (s.qctx q.toNat).pi (s.qctx q.toNat).ci
        ∨ cause = 0x02 ∧ idxDiff (s.qctx q.toNat).pi (s.qctx q.toNat).ci ≤ 2 ^ (s.qctx q.toNat).sizeLog2
          ∧ idxDiff (s.qctx q.toNat).pi (s.qctx q.toNat).ci < idxDiff (s.qctx q.toNat).snap (s.qctx q.toNat).ci) →
      ((s.qctx q.toNat).cls = .user → s.strict = false → s.qMirrored q.toNat = false → (∀ f ∈ s.flsOf q.toNat, f.phase ≠ .parked) →
        ∃ t, exec (.ring p q true) s = .next t
          ∧ t.qctx q.toNat = { s.qctx q.toNat with cause := cause, causeIndex := (s.qctx q.toNat).pi, state := .quarantined }
          ∧ t.f (IC_CNT_count 33) = min 255 (s.f (IC_CNT_count 33) + 1)
          ∧ keepsQueues q.toNat s t ∧ onlyChanges [.regs, .q, .cache, .err, .ic, .out] s t)
      ∧ (((s.qctx q.toNat).cls ≠ .user ∨ s.strict = true) →
        ∃ t, exec (.ring p q true) s = .next t ∧ t.halted = true ∧ t.f PAIR_HALT_halt_cause = 1 ∧ t.f PAIR_HALT_cause = cause
          ∧ t.f PAIR_HALT_qid = q.toNat ∧ t.f PAIR_HALT_IDX_index = (s.qctx q.toNat).pi.toNat
          ∧ (t.qctx q.toNat).snap = (s.qctx q.toNat).snap ∧ keepsQueues q.toNat s t))
    ∧ (((s.qctx q.toNat).state = .quarantined ∨ (s.qctx q.toNat).state = .fenced ∨ (s.qctx q.toNat).state = .destroying) →
      ∃ t, exec (.ring p q true) s = .next t
        ∧ t.qctx q.toNat = { s.qctx q.toNat with ringIgnored := satAdd 16 (s.qctx q.toNat).ringIgnored 1 }
        ∧ keepsQueues q.toNat s t ∧ onlyChanges [.regs, .q, .cache] s t)

/-- A CQ_CI write with good parity that is applied as it comes, to an open slot whose ring exists, while nothing waits for room in
the mirror queue: where PI - v is at most PI - CI and the ring is not FULL, holds no record back and is not mirrored, CI
becomes v and only the ring's context, registers and the cache order change; where it is larger, CI stays, the ring's
ci_errors counts, CQ_CI_BAD counts and names the ring and whether v lies ahead, and source 35 counts an event. A write of no
accepted form and good parity, at a port that holds nothing back and has room, while registers are served and the mover is not
halted, counts WQ_DB_STRAY, names the slot and the cause (0 for a closed slot, else 2 where it touches offsets 0x10-0x17, else
1), counts an event on source 32, and changes nothing but registers and the interrupt controller's boundary. A read at 0x10
that does not wait for a cold context or behind an earlier access to its slot returns CI where it is of 4 or 8 bytes, and
changes nothing but the cache order and the lookup count; of another size it is discarded and counted with cause 1 (0 for a
closed slot), raises source 32, and is answered with a free value (log entry 21). A read elsewhere returns zero and changes
nothing else. -/
def Obligations.ConsumerIndexWrites : Prop :=
  (∀ (p : Fin 2) (q : BitVec 21) (v : W32) (s : State), s.takesNow p.val (.cqCiWrite p q v true) →
    s.slotClosed q.toNat = false → (s.qctx q.toNat).cqid < 2 ^ 18 →
    (s.cctx (s.qctx q.toNat).cqid).state ≠ CqState.free →
    (idxDiff (s.cctx (s.qctx q.toNat).cqid).pi v ≤ idxDiff (s.cctx (s.qctx q.toNat).cqid).pi (s.cctx (s.qctx q.toNat).cqid).ci →
      (s.cctx (s.qctx q.toNat).cqid).state ≠ .full → s.spilledOf (s.qctx q.toNat).cqid = 0 →
      s.waitsFor (s.qctx q.toNat).cqid = false → s.cMirrored (s.qctx q.toNat).cqid = false → s.pair.acts = [] →
      ∃ t, exec (.cqCiWrite p q v true) s = .next t
        ∧ t.cctx (s.qctx q.toNat).cqid = { s.cctx (s.qctx q.toNat).cqid with ci := v }
        ∧ keepsRings (s.qctx q.toNat).cqid s t ∧ onlyChanges [.regs, .cq, .cache] s t)
    ∧ (idxDiff (s.cctx (s.qctx q.toNat).cqid).pi (s.cctx (s.qctx q.toNat).cqid).ci < idxDiff (s.cctx (s.qctx q.toNat).cqid).pi v →
      s.pair.acts = [] →
      ∃ t, exec (.cqCiWrite p q v true) s = .next t
        ∧ t.cctx (s.qctx q.toNat).cqid = { s.cctx (s.qctx q.toNat).cqid with
            ciErrors := satAdd 16 (s.cctx (s.qctx q.toNat).cqid).ciErrors 1 }
        ∧ t.f CQ_CI_BAD_count = satAdd CQ_CI_BAD_count.w (s.f CQ_CI_BAD_count) 1
        ∧ t.f CQ_CI_BAD_last_cqid = (s.qctx q.toNat).cqid
        ∧ t.f CQ_CI_BAD_last_ahead = (if idxDiff v (s.cctx (s.qctx q.toNat).cqid).pi < 2 ^ 31 then 1 else 0)
        ∧ t.f (IC_CNT_count 35) = min 255 (s.f (IC_CNT_count 35) + 1)
        ∧ keepsRings (s.qctx q.toNat).cqid s t ∧ onlyChanges [.regs, .cq, .cache, .ic, .out] s t))
    ∧ (∀ (p : Fin 2) (q : BitVec 21) (ofs n : Nat) (s : State),
    (s.served = true → s.halted = false → s.intakeLevel p.val < 1024 → s.heldBack p.val = false → writeForm ofs n = false →
      ∃ t, exec (.apertureMisformedAccess p q (.write true) ofs n) s = .next t
        ∧ t.f WQ_DB_STRAY_count = satAdd WQ_DB_STRAY_count.w (s.f WQ_DB_STRAY_count) 1
        ∧ t.f WQ_DB_STRAY_last_qid = q.toNat
        ∧ t.f WQ_DB_STRAY_last_cause = (if s.slotClosed q.toNat then 0 else if overlaps ofs n 0x10 8 then 2 else 1)
        ∧ t.f (IC_CNT_count 32) = min 255 (s.f (IC_CNT_count 32) + 1) ∧ onlyChanges [.regs, .ic, .out] s t)
    ∧ ((s.halted = true ∨ (blocked s.cache.waits (.apertureMisformedAccess p q .read 0x10 n) = false
          ∧ s.cold [] (.apertureMisformedAccess p q .read 0x10 n) = false)) →
        ((n = 4 ∨ n = 8) → ∃ t, exec (.apertureMisformedAccess p q .read 0x10 n) s = .next t
          ∧ t.lastRead = [BitVec.ofNat 64 (s.qctx q.toNat).ci.toNat] ∧ onlyChanges [.regs, .cache, .lastRead] s t
          ∧ keepsRegs (fun o => o = WQ_CTX_HIT) s t)
        ∧ (n ≠ 4 → n ≠ 8 → ∃ t, exec (.apertureMisformedAccess p q .read 0x10 n) s = .next t
          ∧ t.lastRead = [Config.freeWord s.free] ∧ t.free = s.free + 1
          ∧ t.f WQ_DB_STRAY_count = satAdd WQ_DB_STRAY_count.w (s.f WQ_DB_STRAY_count) 1 ∧ t.f WQ_DB_STRAY_last_qid = q.toNat
          ∧ t.f WQ_DB_STRAY_last_cause = (if s.slotClosed q.toNat then 0 else 1)
          ∧ t.f (IC_CNT_count 32) = min 255 (s.f (IC_CNT_count 32) + 1)
          ∧ onlyChanges [.regs, .cache, .ic, .out, .lastRead, .free] s t))
    ∧ (ofs ≠ 0x10 → ∃ t, exec (.apertureMisformedAccess p q .read ofs n) s = .next t
        ∧ t.lastRead = [0] ∧ onlyChanges [.lastRead] s t))

/-- CONTEXT_FETCH_DONE of a context that work asked for, while CCACHE owns a channel of the context store and the mover is in RUN
or HALTED: where its bank is in service, its set has a way free, no command, write or completion waits and no fetched entry is
left to decode, the context is hot and at hand for that work, and nothing but the cache and the arbiters' idle counts changes.
An uncorrectable context that arrives while the mover runs halts it with cause FATAL. That one command issues the read, where
none is out, and returns it is the model's choice (log entry 60). -/
def Obligations.ContextArrivesInItsSet : Prop :=
  ∀ (k : CtxKind) (n : Nat) (s : State), (k, n) ∈ s.sought → s.owns resCstore 70 = true → 7 ≤ s.phase →
    ((s.waysOf k n).length < 16 → s.bankRetired (n % 16) = false → n % 16 ∉ s.spr.retiring → s.cache.waits = [] →
      s.cache.back = [] → s.cache.ends = [] → (∀ f ∈ s.fl, f.phase ≠ .fetched) →
      ∃ t, exec (.contextFetchDone k n false) s = .next t ∧ t.hot k n = true ∧ t.brought k n = true ∧ onlyChanges [.cache, .arb] s t)
    ∧ (s.run = true → s.pair.hard = false →
      ∃ t, exec (.contextFetchDone k n true) s = .next t ∧ t.halted = true ∧ t.f PAIR_HALT_halt_cause = 4 ∧ t.pins.haltOut = true)

/-- When a work queue may be fetched from, FETCH owns a channel of its ring's port, the port holds one more read, and the read
returns sound data, the entries read join the flights in index order with the 64 bytes each was read as, F passes all of them
and not S, and decode runs over them next. Where one entry is read, into a User queue of its own with nothing in flight and
STRICT_USER off: an entry that fails a check of R79 makes its queue QUARANTINED, with the first cause in cause order and the
entry's index as cause_index, and ends with status MALFORMED and that cause, unstarted; one that passes, whose counters pass
and which waits on none becomes startable. A host read that is rejected makes the queue malformed with cause 0x03 at F. That
one command issues the read, where none is out, and returns it is the model's choice (log entry 60). In a queue that is
fetched from, with room for one more parked entry on chip, or in the spill with PSPILL owning a channel, and the counter that
the entry waits on at hand or the entry bound for the spill, the entry of the queue that waits at decode parks, or becomes
startable in the same decision when its condition holds; decode goes on behind it. That one of a queue that decodes nothing
stays where it is, is the model's choice (log entry 65). -/
def Obligations.FetchAndDecodeGoInOrder : Prop :=
  (∀ (q : BitVec 22) (s : State), q ≠ 0 → s.canFetch q.toNat = true →
    s.owns (portRes (spaceOf (s.qctx q.toNat).device) (s.qctx q.toNat).port) 68 = true →
    s.readRoom (portRes (spaceOf (s.qctx q.toNat).device) (s.qctx q.toNat).port) = true →
    ((s.readMarks (spaceOf (s.qctx q.toNat).device) (s.qctx q.toNat).port (s.qctx q.toNat).pasidOf ((s.qctx q.toNat).slotAddr (s.qctx q.toNat).fetch)
        (64 * (s.qctx q.toNat).fetchLen) .ok).any id = false →
      ((s.qctx q.toNat).device = true → s.pkgOut ((s.qctx q.toNat).slotAddr (s.qctx q.toNat).fetch) (64 * (s.qctx q.toNat).fetchLen) = false) →
      ∃ u l, exec (.entryFetchDone q .ok) s = .next (u.decodeRun 4 q.toNat)
        ∧ (u.qctx q.toNat).fetch = (s.qctx q.toNat).fetch + BitVec.ofNat 32 (s.qctx q.toNat).fetchLen
        ∧ idxDiff (u.qctx q.toNat).snap (u.qctx q.toNat).fetch + (s.qctx q.toNat).fetchLen = idxDiff (s.qctx q.toNat).snap (s.qctx q.toNat).fetch
        ∧ u.fl = s.fl ++ l ∧ l.length = (s.qctx q.toNat).fetchLen
        ∧ (∀ j, j < (s.qctx q.toNat).fetchLen → ∃ g, l[j]? = some g ∧ g.q = q.toNat ∧ g.idx = (s.qctx q.toNat).fetch + BitVec.ofNat 32 j
            ∧ g.phase = .fetched ∧ g.e = decodeEntry g.raw
            ∧ g.raw = ((s.catchRead (spaceOf (s.qctx q.toNat).device) (s.qctx q.toNat).port (s.qctx q.toNat).pasidOf
                ((s.qctx q.toNat).slotAddr (s.qctx q.toNat).fetch) (64 * (s.qctx q.toNat).fetchLen)).bytes.drop (64 * j)).take 64)
        ∧ keepsQueues q.toNat s u ∧ onlyChanges [.regs, .q, .cq, .fl, .arb, .free] s u
        ∧ ((s.qctx q.toNat).fetchLen = 1 → s.flsOf q.toNat = [] → q.toNat < 2 ^ 21 → (s.qctx q.toNat).cls = .user → s.strict = false →
          s.qMirrored q.toNat = false → (s.cctx (s.qctx q.toNat).cqid).state ≠ .free → ∃ raw t g,
            raw = (s.catchRead (spaceOf (s.qctx q.toNat).device) (s.qctx q.toNat).port (s.qctx q.toNat).pasidOf
              ((s.qctx q.toNat).slotAddr (s.qctx q.toNat).fetch) 64).bytes
            ∧ exec (.entryFetchDone q .ok) s = .next t ∧ t.flight? q.toNat (s.qctx q.toNat).fetch = some g ∧ g.e = decodeEntry raw
            ∧ (∀ cause, s.decodeCause q.toNat raw (decodeEntry raw) = some cause →
                (t.qctx q.toNat).state = .quarantined ∧ (t.qctx q.toNat).cause = cause
                  ∧ (t.qctx q.toNat).causeIndex = (s.qctx q.toNat).fetch ∧ g.ended = true ∧ g.status = stMalformed ∧ g.malCause = cause
                  ∧ g.began = false)
            ∧ (s.decodeCause q.toNat raw (decodeEntry raw) = none → s.trigPd q.toNat (decodeEntry raw) = false →
                (decodeEntry raw).waitEn = false → (t.qctx q.toNat).state = (s.qctx q.toNat).state ∧ g.phase = .startable)))
    ∧ ((s.qctx q.toNat).device = false → s.isOut (portRes 0 (s.qctx q.toNat).port) (.entries q.toNat) = false →
      exec (.entryFetchDone q .rejected) s
        = .next (((s.arbBusy (portRes 0 (s.qctx q.toNat).port) 68).cnt (IZ_HOSTP_STAT_xlat (s.qctx q.toNat).port)).malformed
            q.toNat 0x03 (s.qctx q.toNat).fetch none)))
    ∧ (∀ (q : BitVec 22) (s : State) (f : Flight), (s.flsOf q.toNat).find? (fun g => decide (g.phase = .waitPark)) = some f →
    (s.qctx q.toNat).fetching = true →
    s.flight? q.toNat f.idx = some f → s.run = true → s.parkOpen (ctrIdx q.toNat f.e.waitCtr) = true →
    (s.mustSpill (ctrIdx q.toNat f.e.waitCtr) = true ∨ s.atHand [(.counter, ctrIdx q.toNat f.e.waitCtr)] = true) →
    ∃ u, exec (.parkFullRetry q) s = .next (u.decodeRun 4 q.toNat)
      ∧ u.flight? q.toNat f.idx = some { f with phase := if condHolds (s.ctrOf (ctrIdx q.toNat f.e.waitCtr)).value f.e.threshold then .startable else .parked }
      ∧ keepsFlights q.toNat f.idx s u ∧ onlyChanges [.regs, .fl, .park, .trace, .cache, .pat, .arb, .mem] s u)

/-- When a fragment table may be read, is not read whole, FETCH owns a channel of its port, the port holds one more read, and the
read succeeds, the fragments of the block join those known of that side, in order and up to 65,536, no other entry changes,
and the stitches of the entry are judged on them; without a bound stitch nothing else happens. That one command issues the
read, where none is out, and returns it is the model's choice (log entry 60). When the source list of a started REDUCE or
REDUCE_REMOTE is due, FETCH owns a channel of its port and the port holds one more read: where it is read without failure and
every source is well formed, the entry holds the whole list, no other entry changes and nothing but registers, entries and the
arbiters' idle counts changes; a read that fails ends the entry with that failure's status. The list is read in one command,
which is the model's choice (log entry 60). -/
def Obligations.TablesAndListsAreRead : Prop :=
  (∀ (q : BitVec 22) (i : W32) (d : Dir) (ans : ReadAns) (s : State) (f : Flight), s.flight? q.toNat i = some f →
    s.mayRead f = true → f.e.ft d = true → f.tableDone d = false → s.fetchMay (s.tableRes f d) = true →
    (s.readTable f d (tableRead f.e d (f.fragsOf d)).1 (tableRead f.e d (f.fragsOf d)).2 ans).2 = none →
    ∃ u g, exec (.fragmentTableReadDone q i d ans) s = .next (forEach f.stitches (fun x s => s.openStitch q.toNat i x.eng) u)
      ∧ (f.stitches = [] → exec (.fragmentTableReadDone q i d ans) s = .next u)
      ∧ u.flight? q.toNat i = some g
      ∧ g.fragsOf d = (f.fragsOf d
          ++ Sys2Proof.Machine.fragsOf 16 (s.tableBytes f d (tableRead f.e d (f.fragsOf d)).1 (tableRead f.e d (f.fragsOf d)).2)).take 65536
      ∧ g.phase = f.phase ∧ g.stitches = f.stitches ∧ g.writes = f.writes
      ∧ keepsFlights q.toNat i s u ∧ onlyChanges [.regs, .fl, .arb] s u)
    ∧ (∀ (q : BitVec 22) (i : W32) (ans : ReadAns) (s : State) (f : Flight), s.flight? q.toNat i = some f →
    s.listDue f = true → s.fetchMay (s.tableRes f .src) = true →
    ((s.readTable f .src f.e.src.toNat (16 * f.e.nsrc) ans).2 = none →
      listCause f.e (Sys2Proof.Machine.fragsOf 16 (s.tableBytes f .src f.e.src.toNat (16 * f.e.nsrc))) = none →
      ∃ t, exec (.sourceListReadDone q i ans) s = .next t
        ∧ t.flight? q.toNat i = some { f with
            srcList := some (Sys2Proof.Machine.fragsOf 16 (s.tableBytes f .src f.e.src.toNat (16 * f.e.nsrc))) }
        ∧ keepsFlights q.toNat i s t ∧ onlyChanges [.regs, .fl, .arb] s t)
    ∧ (∀ st, (s.readTable f .src f.e.src.toNat (16 * f.e.nsrc) ans).2 = some st → st ≠ stMalformed →
      ∃ t g, exec (.sourceListReadDone q i ans) s = .next t ∧ t.flight? q.toNat i = some g ∧ g.ended = true ∧ g.status = st
        ∧ keepsFlights q.toNat i s t ∧ onlyChanges [.regs, .fl, .arb] s t))

/-- An entry of any opcode but TRIG_ADD and FENCE that has nothing to move (NOP, MARK, or length 0, but for a PUT without a
destination table), may start, has no START to send first and finds its queue's context at hand, reaches data done with the
settings in force at its start; no other entry and nothing but entries, the cache order and the lookup count changes. That the
command does all of it at once is the model's choice (log entry 6). A zero-length PUT or PUT_SG without a destination table
whose turn in its ordering class has come and whose queue's context is at hand starts, presents one PUT segment with no data
to the node and offset of its destination, and holds one unreported write; nothing but entries, the boundary, the cache order
and the lookup count changes. -/
def Obligations.EntriesWithoutAnEngine : Prop :=
  (∀ (c : Instr) (op : Nat) (q : BitVec 22) (i : W32) (data : List Byte) (s : State) (f : Flight), entryCommand c = some (op, q, i, data) →
    op ≠ 0x30 → op ≠ 0x31 → s.flight? q.toNat i = some f → f.e.opcode = op → f.e.length = 0 → (f.e.isPut = true → f.e.dstFt = true) →
    s.mayBegin f → f.unbound → f.status = stOk → s.atHand (upNeeds q.toNat f) = true →
    ∃ t, exec c s = .next t ∧ t.flight? q.toNat i = some { s.begun f with phase := .dataDone }
      ∧ keepsFlights q.toNat i s t ∧ keepsRegs (fun o => o = WQ_CTX_HIT) s t ∧ onlyChanges [.fl, .cache, .regs] s t)
    ∧ (∀ (c : Instr) (op : Nat) (q : BitVec 22) (i : W32) (data : List Byte) (s : State) (f : Flight), entryCommand c = some (op, q, i, data) →
    (op = 0x10 ∨ op = 0x12) → s.flight? q.toNat i = some f → f.e.opcode = op → f.e.length = 0 → f.e.dstFt = false →
    s.ordReady f [nodeOf f.e.dst.toNat] = true → s.mayBegin f → f.unbound → f.status = stOk → s.atHand (upNeeds q.toNat f) = true →
    ∃ t, exec c s = .next t
      ∧ t.out = s.out ++ [.put q.toNat (nodeOf f.e.dst.toNat) f.e.dstKey (remOfs f.e.dst.toNat) f.e.ordClass [] (segCheck []) false]
      ∧ t.flight? q.toNat i = some { s.begun f with
          writes := [{ w := f.wnext, eng := 127, space := 2, addr := f.e.dst.toNat, bytes := [], parity := [], poison := false, lo := 0, hi := 0, ord := 0, past := [] }], wnext := f.wnext + 1 }
      ∧ keepsFlights q.toNat i s t ∧ keepsRegs (fun o => o = WQ_CTX_HIT) s t ∧ onlyChanges [.fl, .out, .cache, .regs] s t)

/-- A TRIG_ADD that may start, has no START to send first, has not been applied before its adoption, finds its queue's context and
its counter at hand, and room for its record where its queue sends records, adds dst to the counter that src names, modulo
2^64, leaves every other counter as it was, and reaches data done; contexts and memory are unchanged, and of the registers
only the lookup count changes. That the command starts and applies it at once is the model's choice (log entry 6). A FENCE on
a queue that sends no mirror records, once every earlier entry has completed, with its queue's context hot, its ring's context
at hand and its ring ACTIVE with room and none held, starts and completes in one step: its record, with status OK and its own
index, is issued at PI of its ring, which advances by one, and the entry has completed. -/
def Obligations.CounterAndFenceEntries : Prop :=
  (∀ (q : BitVec 22) (i : W32) (s : State) (f : Flight), s.flight? q.toNat i = some f → f.e.opcode = 0x30 → f.e.length = 0 →
    s.mayBegin f → f.unbound → f.status = stOk → f.skipAdd = false → s.atHand (upNeeds q.toNat f) = true →
    (s.sending q.toNat = true → s.mirrorRoom 1 = true) →
    ∃ t, exec (.trigAdd q i) s = .next t
      ∧ t.ctrOf (ctrIdx q.toNat f.e.src.toNat) = { s.ctrOf (ctrIdx q.toNat f.e.src.toNat) with
          value := (s.ctrOf (ctrIdx q.toNat f.e.src.toNat)).value + f.e.dst }
      ∧ keepsCounters (ctrIdx q.toNat f.e.src.toNat) s t
      ∧ t.flight? q.toNat i = some { s.begun f with phase := .dataDone }
      ∧ keepsFlights q.toNat i s t ∧ keepsRegs (fun o => o = WQ_CTX_HIT) s t
      ∧ onlyChanges [.ctr, .fl, .pair, .lace, .out, .cache, .regs, .arb] s t)
    ∧ (∀ (q : BitVec 22) (i : W32) (s : State) (f : Flight), s.flight? q.toNat i = some f → f.e.opcode = 0x31 → f.e.length = 0 →
    s.mayBegin f → f.unbound → f.status = stOk → f.redExc = false → f.logged = none → f.quar = none →
    f.postsRecord = true → f.signalsAt = false → s.sending q.toNat = false →
    s.hot .queue q.toNat = true → s.atHand [(.ring, s.recRing f)] = true →
    (s.cctx (s.recRing f)).state = .active → s.direct (s.recRing f) = true →
    ∃ t g r, exec (.fence q i) s = .next t ∧ t.flight? q.toNat i = some g ∧ g.phase = .posted
      ∧ t.cqs.issued = s.cqs.issued ++ [((s.cctx (s.recRing f)).pi, { c := s.recRing f, r := r, q := q.toNat, idx := i, at_ := s.tb.cycle })]
      ∧ r.seq = i ∧ r.status = stOk ∧ r.opcode = 0x31
      ∧ t.cctx (s.recRing f) = { s.cctx (s.recRing f) with pi := (s.cctx (s.recRing f)).pi + 1 }
      ∧ keepsRings (s.recRing f) s t ∧ keepsFlights q.toNat i s t ∧ keepsRegs (fun o => o = WQ_CTX_HIT) s t
      ∧ onlyChanges [.cq, .fl, .cqs, .cache, .regs] s t)

/-- The command of a data entry (MOVE, MOVE_SG, FILL, COMPARE, CHECK, PUT, GET, PUT_SG, GET_SG, REDUCE, REDUCE_REMOTE, QUENCH)
whose opcode matches and whose length is not 0 leaves regions, domains, Mover Time, the installed memory and the waiting
commands unchanged; where the scheduler takes another entry next, or none, or no engine is idle, nothing changes. Where it is
next, an engine is idle, nothing else asks for a channel or has an access under way, and each side of at most 256 bytes lies
in one burst, it runs to its end: the engine is idle again, and memory is as it was (writes stand there when they are
acknowledged); an entry that writes holds exactly the writes of the bytes made of its sound sources (a GET's of its response),
at the runs of its destination; a COMPARE ends with MISCOMPARE at the first byte that differs, or reaches data done; a CHECK
reaches data done. That one command runs every stitch is the model's choice (log entry 6). -/
def Obligations.DataEntryWritesItsResult : Prop :=
  ∀ (c : Instr) (op : Nat) (q : BitVec 22) (i : W32) (data : List Byte) (s : State) (f : Flight), entryCommand c = some (op, q, i, data) →
    0 < op → op < 0x30 → s.flight? q.toNat i = some f → f.e.opcode = op → f.e.length ≠ 0 →
    (∃ t, exec c s = .next t ∧ onlyChanges (Part.but [.pending, .mr, .pd, .tb, .memSize]) s t
      ∧ ((s.engIn 0 = none ∨ ∀ q' g, s.nextBind = some (q', g) → ¬ (q' = q.toNat ∧ g.idx = i)) → t = s))
    ∧ (∀ e, s.nextBind = some (q.toNat, f) → s.engIn 0 = some e → s.uncontested → s.oneUnit f → (f.e.isGet = true → f.e.length ≤ data.length) →
      ∃ t g, exec c s = .next t ∧ t.flight? q.toNat i = some g ∧ t.engSt e = 0 ∧ g.stitches = [] ∧ t.mem = s.mem
        ∧ (f.e.writes = true → g.writes.map DataWrite.shown
            = (f.unitRuns 0 f.e.length).map (f.writeAt 0 (s.produce f (s.fedStitch f data) 0 f.e.length).2.1 false) ∧ g.ended = false)
        ∧ (f.e.isCompare = true → (f.firstDiff (s.fedStitch f data) 0 f.e.length).elim (g.ended = false)
            (fun d => g.ended = true ∧ g.status = stMiscompare ∧ g.failOfs = d) ∧ g.phase = .dataDone)
        ∧ (f.e.isCheck = true → g.ended = false ∧ g.done = [(0, f.e.length)] ∧ g.phase = .dataDone))

/-- ENGINE_BIND of an idle engine, where the scheduler takes entry f next and its queue's context is at hand. Where f has started,
its queue has no request line, the engine owns no channel and the checks at the stitch's start pass or wait for fragments: the
engine is BOUND and names the queue and the entry, the entry holds on it a stitch over exactly its next unit, which is ready
where the checks passed, and no other entry changes. An entry with a source list that has not started and has no START to send
starts, keeping the settings in force, and takes no engine, where the key of its destination passes. Where the scheduler takes
nothing, nothing changes. With preemption enabled, no engine idle and one that waits with rank r and that no cut serves yet,
if some running stitch may be cut, CUT marks one that may be, for the one that waits, and counts it; no stitch that may be cut
has a lower rank, nor the same rank and a later binding. Nothing but registers and entries changes. -/
def Obligations.EnginesAreBoundAndCut : Prop :=
  (∀ (e : Nat) (s : State), e < 68 → s.engSt e = 0 →
    (∀ (q : Nat) (f : Flight) (lo hi : Nat), s.nextBind = some (q, f) → q < 2 ^ 22 → s.flight? q f.idx = some f → f.phase = .started →
      f.nextUnit = some (lo, hi) → f.stitch? e = none → s.atHand [(.queue, q)] = true → (s.qctx q).rlBind = false → s.ownsNothing e →
      (s.startChecks f lo hi = .ok ∨ s.startChecks f lo hi = .more) →
      ∃ t g x, exec (.engineBind e) s = .next t ∧ t.engSt e = 1 ∧ t.f (IZ_ENG_STATE_qid e) = q ∧ t.f (IZ_ENG_STATE_index e) = f.idx.toNat
        ∧ t.flight? q f.idx = some g ∧ g.stitches = f.stitches ++ [x] ∧ x.eng = e ∧ x.lo = lo ∧ x.hi = hi ∧ x.wr = lo
        ∧ (s.startChecks f lo hi = .ok → x.ready = true) ∧ (s.startChecks f lo hi = .more → x.ready = false)
        ∧ keepsFlights q f.idx s t ∧ onlyChanges [.regs, .fl, .arb, .trace, .cache, .pat, .mem] s t)
    ∧ (∀ (q : Nat) (f : Flight), s.nextBind = some (q, f) → s.flight? q f.idx = some f → f.phase = .startable → f.e.hasList = true →
      s.atHand [(.queue, q)] = true → (s.needsStart f && f.startSeq.isNone) = false → s.plainKey f .dst = .ok →
      ∃ t, exec (.engineBind e) s = .next t ∧ t.flight? q f.idx = some (s.begun f) ∧ t.engSt e = 0
        ∧ keepsFlights q f.idx s t ∧ onlyChanges [.regs, .fl, .cache] s t)
    ∧ (s.nextBind = none → exec (.engineBind e) s = .next s))
    ∧ (∀ (s : State) (r : Nat × Nat), s.run = true → s.fb IZ_SCHED_CFG_preempt_en = true → s.engIn 0 = none →
    s.cutNext = some r → (∃ y ∈ s.running68, s.mayCut r.2 y) →
    ∃ y ∈ s.running68, s.mayCut r.2 y
      ∧ exec .cut s = .next ((s.cnt IZ_SCHED_STAT_cuts).updStitch y.1.q y.1.idx y.2.eng (fun x => { x with stop := true, cut := true, cutFor := some r.1 }))
      ∧ (∀ z ∈ s.running68, s.mayCut r.2 z → y.2.rank ≤ z.2.rank ∧ (y.2.rank = z.2.rank → z.2.born ≤ y.2.born)))

/-- STITCH_END of an engine whose stitch has issued all its bytes takes the stitch from its entry, returns the engine to IDLE
unless it was told to leave service, drops its requests, and sets served_mt of its queue to Mover Time; regions and domains
are unchanged, and of memory at most a block of the context store that the event's trace record clears. PACEWAIT_RELEASE of an
engine in PACEWAIT in RUN, whose stitch has issued every burst let through and whose entry goes on, returns the engine to IDLE
and leaves exactly the job range from the boundary to the stitch's end to be bound again. -/
def Obligations.EnginesComeBack : Prop :=
  (∀ (e : Nat) (s : State) (f : Flight) (x : Stitch), e < 68 → s.onEngine e = some (f, x) → s.flight? f.q f.idx = some f →
    x.ready = true → x.hi ≤ x.wr → (s.engSt e = 1 ∨ s.engSt e = 2) → (false, e) ∉ s.spr.leaving → f.status ≠ stMalformed →
    (s.qctx f.q).newMirror = none → (s.qctx f.q).newLine = none →
    ∃ t g, exec (.stitchEnd e) s = .next t ∧ t.engSt e = 0 ∧ t.qctx f.q = { s.qctx f.q with servedMt := s.mt, served := true }
      ∧ t.flight? f.q f.idx = some g ∧ g.stitch? e = none ∧ keepsQueues f.q s t
      ∧ onlyChanges [.regs, .q, .fl, .lines, .arb, .trace, .pat, .mem] s t)
    ∧ (∀ (e : Nat) (s : State) (f : Flight) (x : Stitch), e < 68 → s.onEngine e = some (f, x) → s.flight? f.q f.idx = some f →
    s.engSt e = 2 → s.run = true → x.ready = true → x.stop = false → f.e.piOp = 0 → x.paced ≤ x.wr → x.wr < x.hi →
    (false, e) ∉ s.spr.leaving → f.ended = false → f.status ≠ stMalformed →
    (s.qctx f.q).newMirror = none → (s.qctx f.q).newLine = none →
    ∃ t g, exec (.pacewaitRelease e) s = .next t ∧ t.engSt e = 0 ∧ t.flight? f.q f.idx = some g ∧ g.stitch? e = none
      ∧ g.redo = insRange (x.wr, x.hi) f.redo ∧ g.next = f.next
      ∧ onlyChanges [.regs, .q, .fl, .lines, .arb, .trace, .pat, .mem] s t)

/-- STITCH_END in RUN of an engine whose unpaced stitch has one unit left, which is staged whole and passes its checks, and owns
the channels that its issue needs. An entry that writes gains exactly the writes of the bytes made of what is staged (the
source, the pattern, the element results of a reduction), at the runs of its destination that these job bytes take, and goes
on; a COMPARE ends with MISCOMPARE at the first byte that differs, or gains the range as compared; a CHECK gains the range as
checked. The exceptions of the result elements are counted by kind. Counting each kind once for an element is the model's
choice (log entry 48). -/
def Obligations.LastUnitIsJudgedAndIssued : Prop :=
  ∀ (e : Nat) (s : State) (f : Flight) (x : Stitch), s.lastUnit e f x → s.passesChecks f x x.wr x.hi → f.badOverlap = false →
    ∃ t g, exec (.stitchEnd e) s = .next t ∧ t.flight? f.q f.idx = some g ∧ g.stitch? e = none
      ∧ (f.e.writes = true → g.ended = false ∧ g.writes.map DataWrite.shown = f.writes.map DataWrite.shown
          ++ (f.unitRuns x.wr x.hi).map (f.writeAt x.wr (s.produce f x x.wr x.hi).2.1 false))
      ∧ (f.e.isCompare = true → (f.firstDiff x x.wr x.hi).elim (g.ended = false ∧ g.done = f.done ++ [(x.wr, x.hi)])
          (fun d => g.ended = true ∧ g.status = stMiscompare ∧ g.failOfs = d ∧ g.done = f.done ++ [(x.wr, d)]))
      ∧ (f.e.isCheck = true → g.ended = false ∧ g.done = f.done ++ [(x.wr, x.hi)])
      ∧ s.countsExceptions (s.produce f x x.wr x.hi).2.2 t

/-- STITCH_END in RUN of an engine whose unpaced stitch of a copying entry has one unit of one check block left, staged whole,
with no injection armed and no check limit set. Where a byte of it arrived damaged, the entry ends with POISON at the in-hop,
port_fail counts and source 40 is raised; where none did and the CRC held for it is not that of its bytes, with CHK at the
out-hop, chk_fail counts and source 39 is raised. Either way it ends at the block's first job offset, the block is written
only if poison writing is on, and then marked poisoned at the block's runs; IZ_CHK_LAST names the queue, the entry, the hop,
the offset and the status, and the error class counts a record. CHK_INJ_ARM while registers are served and none is armed sets
hop and armed of IZ_CHK_INJ and changes no other register; while one is armed it changes nothing. -/
def Obligations.ChecksFail : Prop :=
  (∀ (e : Nat) (s : State) (f : Flight) (x : Stitch) (bad : Bool), s.lastUnit e f x → f.e.writes = true → f.e.isRed = false → f.e.isFill = false →
    f.e.piOp = 0 → f.q < 2 ^ 22 → x.hi < 2 ^ 48 → f.e.srcSpace ≤ 2 → f.e.dstSpace ≤ 2 → s.fb IZ_CHK_INJ_armed = false →
    s.f SPR_POLICY_chk_limit = 0 → s.pair.hard = false → (∀ y, s.err.chk = some y → y.cycle ≠ s.tb.cycle) →
    bad = anyBad (f.stagedFor x 0 x.wr x.hi) →
    (bad = true ∨ x.heldSum 0 x.wr ≠ BitVec.ofNat 32 (crc32c (f.blockBytes x 0 x.wr x.hi))) →
    ∃ t g, exec (.stitchEnd e) s = .next t ∧ t.flight? f.q f.idx = some g ∧ g.ended = true ∧ g.failOfs = x.wr
      ∧ g.status = (if bad then stPoison else stChk)
      ∧ g.writes.map DataWrite.shown = f.writes.map DataWrite.shown
          ++ (if bit f.chkCfg 0 then (f.unitRuns x.wr x.hi).map (f.writeAt x.wr (s.produce f x x.wr x.hi).2.1 true) else [])
      ∧ t.f IZ_CHK_STAT_port_fail = satAdd IZ_CHK_STAT_port_fail.w (s.f IZ_CHK_STAT_port_fail) (b2n bad)
      ∧ t.f IZ_CHK_STAT_chk_fail = satAdd IZ_CHK_STAT_chk_fail.w (s.f IZ_CHK_STAT_chk_fail) (b2n (!bad))
      ∧ t.f IZ_CHK_LAST_qid = f.q ∧ t.f IZ_CHK_LAST_index = f.idx.toNat ∧ t.f IZ_CHK_LAST_OFS_ofs = x.wr
      ∧ t.f IZ_CHK_LAST_hop = (if bad then f.e.srcSpace else 4 + f.e.dstSpace) ∧ t.f IZ_CHK_LAST_OFS_status = g.status
      ∧ t.f (IC_CNT_count (if bad then 40 else 39)) = min 255 (s.f (IC_CNT_count (if bad then 40 else 39)) + 1)
      ∧ t.f (ERR_COUNT_count 1) = satAdd (ERR_COUNT_count 1).w (s.f (ERR_COUNT_count 1)) 1)
    ∧ (∀ (hop : BitVec 3) (s : State), s.served = true →
    (s.fb IZ_CHK_INJ_armed = false → ∃ t, exec (.chkInjArm hop) s = .next t ∧ t.f IZ_CHK_INJ_hop = hop.toNat ∧ t.f IZ_CHK_INJ_armed = 1
      ∧ keepsRegs (fun o => o = IZ_CHK_INJ) s t ∧ onlyChanges [.regs] s t)
    ∧ (s.fb IZ_CHK_INJ_armed = true → exec (.chkInjArm hop) s = .next s))

/-- STITCH_END in RUN of an engine whose unpaced stitch of an entry with pi_op 2 or 3 has one protection block left, staged whole
and undamaged, with its held CRCs right, no injection armed. With app FFFF (and for type 3 ref FFFFFFFF) the tuple is not
checked. Else a guard that is not the CRC of the data ends the entry with PI_GUARD, an application tag that differs under the
mask with PI_APP, and for type 1 with reference checking on a reference tag other than the block's with PI_REF, each at the
block's first job offset, counted in pi_fail and raised on source 40. Where nothing fails the entry goes on. -/
def Obligations.TupleIsJudged : Prop :=
  ∀ (e : Nat) (s : State) (f : Flight) (x : Stitch) (l data : List Byte) (guard app ref : Nat), s.lastUnit e f x → f.e.isRed = false →
    f.e.isFill = false → f.e.isCompare = false → (f.e.piOp = 2 ∨ f.e.piOp = 3) → x.wr % f.e.piB = 0 → x.hi = x.wr + f.e.piB → s.blockSound f x →
    s.f SPR_POLICY_chk_limit = 0 → l = (f.stagedFor x 0 x.wr x.hi).map (·.b) → data = l.take f.e.piB →
    guard = beNat ((l.drop f.e.piB).take 2) → app = beNat ((l.drop (f.e.piB + 2)).take 2) → ref = beNat ((l.drop (f.e.piB + 4)).take 4) →
    ∃ t g, exec (.stitchEnd e) s = .next t ∧ t.flight? f.q f.idx = some g
      ∧ (∀ st, (¬ (app = 0xFFFF ∧ (f.e.piType = false ∨ ref = 0xFFFFFFFF)) ∧ guard ≠ crc16 data ∧ st = stPiGuard
          ∨ ¬ (app = 0xFFFF ∧ (f.e.piType = false ∨ ref = 0xFFFFFFFF)) ∧ guard = crc16 data
            ∧ app &&& bits f.piCfg 16 16 ≠ bits f.piCfg 0 16 &&& bits f.piCfg 16 16 ∧ st = stPiApp
          ∨ app ≠ 0xFFFF ∧ guard = crc16 data ∧ app &&& bits f.piCfg 16 16 = bits f.piCfg 0 16 &&& bits f.piCfg 16 16
            ∧ f.e.piType = false ∧ bit f.piCfg 32 = true ∧ ref ≠ f.e.refTag (x.wr / f.e.piB) ∧ st = stPiRef) →
          g.ended = true ∧ g.status = st ∧ g.failOfs = x.wr
            ∧ t.f IZ_CHK_STAT_pi_fail = satAdd IZ_CHK_STAT_pi_fail.w (s.f IZ_CHK_STAT_pi_fail) 1
            ∧ t.f (IC_CNT_count 40) = min 255 (s.f (IC_CNT_count 40) + 1))
      ∧ ((app = 0xFFFF ∧ (f.e.piType = false ∨ ref = 0xFFFFFFFF)
          ∨ guard = crc16 data ∧ app &&& bits f.piCfg 16 16 = bits f.piCfg 0 16 &&& bits f.piCfg 16 16
            ∧ (f.e.piType = true ∨ bit f.piCfg 32 = false ∨ ref = f.e.refTag (x.wr / f.e.piB))) →
          g.ended = false ∧ t.f IZ_CHK_STAT_pi_fail = s.f IZ_CHK_STAT_pi_fail)

/-- Two carriers of a width, each built from the empty one by any deposits of elements of floating-point types of that width and
merges of carriers so built, over the same multiset of contributions, are equal, and so are their quenches. The carriers that
a reduction of native elements builds, and the merge of carriers so built, are among them. -/
def Obligations.CarriersIgnoreOrder : Prop :=
  (∀ (w : Width) (l m : List (Nat × Nat)) (c d : Car), Carried w l c → Carried w m d → l.Perm m → c = d ∧ ∀ t, quench t c = quench t d)
    ∧ (∀ (t : Nat) (xs : List Nat), t ≤ 3 → ∃ l, l.Perm (xs.map (fun x => (t, x))) ∧ Carried (widthOf t) l (depositAll t xs))

/-- MIN, MAX, the bitwise operations and integer SUM and PROD give the same element and exceptions for every order of their
sources. Integer SUM and PROD give the exact result modulo 2 to the type's width, and the integer exception exactly where it
lies outside the type's range. The carrier of one native floating-point element that is no NaN quenches to that element, with
no exception. -/
def Obligations.NativeResults : Prop :=
  (∀ (t op : Nat) (xs ys : List Nat), t ≤ 6 → op ≤ 6 → (isFp t = true → op ≠ 0 ∧ op ≠ 6) → xs.Perm ys →
      (∀ x ∈ xs, x < 2 ^ (8 * elemBytes t)) → natCombine t op xs = natCombine t op ys)
    ∧ (∀ (t : Nat) (x : Nat) (xs : List Nat), 4 ≤ t → t ≤ 6 → (∀ y ∈ x :: xs, y < 2 ^ (8 * elemBytes t)) →
      natCombine t 0 (x :: xs) = (intWrap t ((x :: xs).map (intOf t)).sum, ⟨false, false, false, !intFits t ((x :: xs).map (intOf t)).sum⟩)
        ∧ natCombine t 6 (x :: xs) = (intWrap t ((x :: xs).map (intOf t)).prod, ⟨false, false, false, !intFits t ((x :: xs).map (intOf t)).prod⟩))
    ∧ (∀ (t v : Nat), t ≤ 3 → v < 2 ^ (8 * elemBytes t) → (∀ sg, fpDecode (fmtOf t) v ≠ .nan sg) →
      quench t ((Car.empty (widthOf t)).deposit t v) = (v, Exc.no))

/-- DATA_READ_DONE in RUN for a reader whose stitch goes on and has a read outstanding, while no read of an ended stitch of that
engine is out, with sound data, takes the oldest outstanding read of that reader and appends exactly the bytes that it caught
as it was issued to its staging, and leaves the other readers' staging alone; the engine then goes on as far as the channels
it owns let it. No other entry and nothing but registers and entries changes by the staging, and nothing else at all where the
stitch has no paced burst and no engine owns a channel. DATA_WRITE_ACK of a host write of an entry that is not malformed puts
exactly its bytes at its address under its queue's PASID, but for bytes that a write issued later has written, which stay; it
leaves every other byte of host memory, in-package memory and flash unchanged. Where no other outstanding write shares a byte
with it, it is taken from its entry, whose written ranges gain its job range, and no other entry changes before the entry
settles, and goes where CI has passed it. That a write enters the image when it is acknowledged is the model's choice (log
entry 9). -/
def Obligations.DataReadsAndHostWrites : Prop :=
  (∀ (e k : Nat) (o : ReadOut) (l : List ReadOut) (s : State) (f : Flight) (x : Stitch) (r : Run),
    s.arb.gone.find? (fun y => decide (y.eng = e) && decide (y.src = k)) = none → s.onEngine e = some (f, x) → s.flight? f.q f.idx = some f →
    x.stop = false → s.run = true → k < f.e.readers → x.rds.getD k [] = o :: l →
    runAt (f.reader k).2 (f.e.sideOfs (f.reader k).1 x.wr + (x.stage.getD k []).length) o.bytes.length = some r →
    (o.marks (f.e.space (f.reader k).1) r.addr .ok).any id = false →
    (f.e.space (f.reader k).1 ≠ 0 → s.pkgOut r.addr o.bytes.length = false) →
    ∃ u g y, exec (.dataReadDone e k .ok) s = .next (u.engineGo e)
      ∧ u.flight? f.q f.idx = some g ∧ g.stitch? e = some y ∧ y.wr = x.wr ∧ y.hi = x.hi ∧ y.rds.getD k [] = l
      ∧ y.stage.getD k [] = x.stage.getD k [] ++ o.bytes.map (fun b => SByte.mk b false)
      ∧ (∀ j, j < f.e.readers → j ≠ k → y.stage.getD j [] = x.stage.getD j [])
      ∧ keepsFlights f.q f.idx s u ∧ onlyChanges [.regs, .fl] s u
      ∧ (x.line = none → x.ends = [] → s.engSt e ≠ 2 → s.arb.own = [] → f.e.writes = true → exec (.dataReadDone e k .ok) s = .next u))
    ∧ (∀ (q : BitVec 22) (i : W32) (w : Nat) (s : State) (f : Flight) (x : DataWrite), s.flight? q.toNat i = some f → f.status ≠ stMalformed →
    f.writes.find? (fun y => decide (y.w = w)) = some x → x.space = 0 → s.pair.hard = false → x.addr + x.bytes.length ≤ 2 ^ 64 →
    ∃ t u, exec (.dataWriteAck q i w) s = .next t ∧ t = (u.settle q.toNat i).reap q.toNat i
      ∧ (∀ j, j < x.bytes.length → t.hostByte (s.qctx q.toNat).pasidOf (x.addr + j)
          = if x.spent (x.addr + j) then s.hostByte (s.qctx q.toNat).pasidOf (x.addr + j) else x.bytes.getD j 0)
      ∧ (∀ p a, (∀ j, j < x.bytes.length → hostKey p a ≠ hostKey (s.qctx q.toNat).pasidOf (x.addr + j)) → t.hostByte p a = s.hostByte p a)
      ∧ t.mem.pkg = s.mem.pkg ∧ t.mem.syn = s.mem.syn ∧ t.mem.flash = s.mem.flash
      ∧ (s.writesAlone q.toNat i x → u.flight? q.toNat i = some { f with
            writes := f.writes.filter (fun y => decide (y.w ≠ w)), done := if x.lo < x.hi then f.done ++ [(x.lo, x.hi)] else f.done }
          ∧ keepsFlights q.toNat i s u) ∧ onlyChanges [.fl, .mem] s u)

/-- DATA_WRITE_ACK of an in-package write inside the installed memory, of an entry that is not malformed: its bytes read back at
their addresses, but for those that a write issued later has written, which stay; every byte outside them reads (after
correction) as it did, host memory and flash are unchanged, and a poisoned write reads poisoned in every word that it writes
to. That a write enters the image when it is acknowledged is the model's choice (log entry 9). A merge of 1 to 7 bytes within
one word of installed memory: the new bytes read back, every other byte of in-package memory reads as before (after
correction), and the word is written back whole: with the poison marker where it read poisoned or could not be corrected,
which merge_poison and uncorrectable count, else sound, also where it was corrected, which corrected counts. The syndrome of
every other word, registers other than IZ_MEMP_STAT and everything outside memory are unchanged. -/
def Obligations.PackageMemoryWrites : Prop :=
  (∀ (q : BitVec 22) (i : W32) (w : Nat) (s : State) (f : Flight) (x : DataWrite), s.flight? q.toNat i = some f → f.status ≠ stMalformed →
    f.writes.find? (fun y => decide (y.w = w)) = some x → x.space = 1 → s.pair.hard = false → s.pkgOut x.addr x.bytes.length = false →
    ∃ t, exec (.dataWriteAck q i w) s = .next t
      ∧ (∀ j, j < x.bytes.length → t.pkgFixed (x.addr + j) = if x.spent (x.addr + j) then s.pkgFixed (x.addr + j) else x.bytes.getD j 0)
      ∧ (∀ a, a < x.addr ∨ x.addr + x.bytes.length ≤ a → t.pkgFixed a = s.pkgFixed a)
      ∧ (x.poison = true → ∀ j, j < x.bytes.length → x.spent (x.addr + j) = false → t.wordBad ((x.addr + j) / 8) = true)
      ∧ t.mem.host = s.mem.host ∧ t.mem.hpoison = s.mem.hpoison ∧ t.mem.flash = s.mem.flash)
    ∧ (∀ (a : W64) (new : List Byte) (s : State), 0 < new.length → new.length < 8 → a.toNat % 8 + new.length ≤ 8 →
    s.pkgOut a.toNat new.length = false →
    ∃ t, exec (.merge a new) s = .next t
      ∧ (∀ j, j < new.length → t.pkgFixed (a.toNat + j) = new.getD j 0)
      ∧ (∀ b, b < a.toNat ∨ a.toNat + new.length ≤ b → t.pkgFixed b = s.pkgFixed b)
      ∧ judgeSyn (t.synOf a.toNat) = (if s.wordBad (a.toNat / 8) then .poisoned else .sound)
      ∧ (∀ b, b / 8 ≠ a.toNat / 8 → t.synOf b = s.synOf b)
      ∧ t.f IZ_MEMP_STAT_merge_poison = satAdd IZ_MEMP_STAT_merge_poison.w (s.f IZ_MEMP_STAT_merge_poison) (b2n (s.wordBad (a.toNat / 8)))
      ∧ t.f IZ_MEMP_STAT_uncorrectable = satAdd IZ_MEMP_STAT_uncorrectable.w (s.f IZ_MEMP_STAT_uncorrectable) (b2n (s.wordBad (a.toNat / 8)))
      ∧ t.f IZ_MEMP_STAT_corrected = satAdd IZ_MEMP_STAT_corrected.w (s.f IZ_MEMP_STAT_corrected) (b2n (s.wordFixed (a.toNat / 8)))
      ∧ keepsRegs (fun o => o = IZ_MEMP_STAT) s t ∧ onlyChanges [.regs, .mem] s t)

/-- ENTRY_COMPLETE of an entry at data done, in RUN, that its ordering allows, on a queue that sends no mirror records and needs
no flushing read, with the contexts that it needs at hand and its ring ACTIVE with room and none held: its record, stamped
with Mover Time as done, is issued at PI of its ring, PI advances by one, the entry has completed, and the counter it signals
at this status gains its increment; no other ring, entry or counter changes. -/
def Obligations.EntryCompletesAndPostsItsRecord : Prop :=
  ∀ (q : BitVec 22) (i : W32) (s : State) (f : Flight), s.flight? q.toNat i = some f → f.phase = .dataDone → s.run = true →
    s.mayFinish f = true → s.sending q.toNat = false → s.flushPort { f with doneMt := s.mt } = none →
    s.atHand [(.queue, q.toNat)] = true → s.postsAtOnce f →
    ∃ t, exec (.entryComplete q i) s = .next t ∧ posted f { f with doneMt := s.mt }.record s t
      ∧ onlyChanges [.regs, .cache, .cq, .ctr, .fl, .cqs, .pair, .lace, .out, .arb] s t

/-- FLUSH_READ_DONE on port p of an entry. For an entry whose record does not wait, or outside RUN: the entry no longer waits for
port p, no host message whose flushing read has gone out stays held for port p, the others stay, and nothing but registers,
entries, the interrupt controller and the boundary changes. In RUN, an entry whose completion waited for this read alone, on a
queue that sends no mirror records, with the contexts that it needs at hand and its ring ACTIVE with room and none held, posts
its record and has completed. DELIVERY_REPORT for an outstanding segment of an entry that is not malformed and not released:
reason 0 takes the segment from the entry and adds its job range to what is written, and nothing but this entry, and the
request line of what it had kept, changes; any other reason takes it too, is recorded in IZ_NETP_STAT.last_reason and ends an
entry not ended before with status REMOTE_ERR at the segment's job offset. GET_RESPONSE for the unanswered request of a
stitch. In RUN, for a stitch that goes on, data of exactly the length asked joins the stitch's staging, marked damaged where
the answer is poisoned or its check does not match; the engine then goes on as far as the channels it owns let it, and nothing
but this entry changes where the stitch has no paced burst and no engine owns a channel. A failure with a reason is recorded
and ends an entry not ended, not malformed and not released before with status REMOTE_ERR at the request's job offset.
NETP_TIMEOUT of an entry with an outstanding segment and not ended, malformed or released before takes the oldest such segment
from it, records reason 6 and ends it with status REMOTE_ERR at the segment's job offset; so does a GET request that is not
answered, where the entry has no segment outstanding. Which request the timeout is for is the model's choice (log entry 58). -/
def Obligations.NetworkAnswers : Prop :=
  (∀ (q : BitVec 22) (i : W32) (p : Fin 2) (s : State) (f : Flight), s.flight? q.toNat i = some f →
    ((s.run = false ∨ f.phase ≠ .mirrorWait) → ∃ t, exec (.flushReadDone q i p) s = .next t
      ∧ t.flight? q.toNat i = some { f with flush := f.flush.set p.val false }
      ∧ t.ic.held = s.ic.held.filter (fun x => !(decide (x.2 = p.val) && decide (x ∉ s.ic.unread)))
      ∧ keepsFlights q.toNat i s t ∧ onlyChanges [.regs, .fl, .ic, .out] s t)
    ∧ (s.run = true → f.phase = .mirrorWait → s.seqAcked f.complSeq = true → (f.flush.set p.val false).any id = false →
      s.sending q.toNat = false → s.postsAtOnce f →
      ∃ t, exec (.flushReadDone q i p) s = .next t ∧ posted f f.record s t
        ∧ t.ic.held = s.ic.held.filter (fun x => !(decide (x.2 = p.val) && decide (x ∉ s.ic.unread)))
        ∧ onlyChanges [.regs, .cache, .cq, .ctr, .fl, .cqs, .pair, .lace, .out, .arb, .ic] s t))
    ∧ (∀ (q : BitVec 22) (i : W32) (w reason : Nat) (s : State) (f : Flight) (x : DataWrite), s.flight? q.toNat i = some f →
    f.writes.find? (fun y => decide (y.w = w)) = some x → x.space = 2 → f.status ≠ stMalformed → f.phase ≠ .released →
    (reason = 0 → ∃ t g, exec (.deliveryReport q i w reason) s = .next t ∧ t.flight? q.toNat i = some g
      ∧ g.writes = f.writes.filter (fun y => decide (y.w ≠ w)) ∧ g.done = (if x.lo < x.hi then f.done ++ [(x.lo, x.hi)] else f.done)
      ∧ g.status = f.status ∧ keepsFlights q.toNat i s t ∧ onlyChanges [.fl, .lines] s t)
    ∧ (0 < reason → reason < 16 → f.ended = false → ∃ t g, exec (.deliveryReport q i w reason) s = .next t
      ∧ t.f IZ_NETP_STAT_last_reason = reason ∧ t.flight? q.toNat i = some g ∧ g.ended = true ∧ g.status = stRemote ∧ g.failOfs = x.lo
      ∧ g.writes = f.writes.filter (fun y => decide (y.w ≠ w))
      ∧ keepsFlights q.toNat i s t ∧ keepsRegs (fun o => o = IZ_NETP_STAT) s t ∧ onlyChanges [.regs, .fl, .lines] s t))
    ∧ (∀ (e : Nat) (data : List Byte) (chk : W32) (s : State) (f : Flight) (x : Stitch), s.onEngine e = some (f, x) → s.flight? f.q f.idx = some f →
    f.e.isGet = true → 0 < x.unanswered →
    (∀ ans, (ans = .ok ∨ ans = .poison) → data.length = x.unanswered → x.stop = false → s.run = true →
      ∃ u g y, exec (.getResponse e ⟨data, chk⟩ ans) s = .next (u.engineGo e)
        ∧ u.flight? f.q f.idx = some g ∧ g.stitch? e = some y ∧ y.wr = x.wr
        ∧ y.stage = [x.stage.getD 0 [] ++ data.map (fun b => SByte.mk b (decide (ans = .poison) || decide (segCheck data ≠ chk)))]
        ∧ keepsFlights f.q f.idx s u ∧ onlyChanges [.fl] s u
        ∧ (x.line = none → x.ends = [] → s.engSt e ≠ 2 → s.arb.own = [] → exec (.getResponse e ⟨data, chk⟩ ans) s = .next u))
    ∧ (∀ reason, reason < 16 → f.ended = false → f.status ≠ stMalformed → f.phase ≠ .released →
      ∃ t g, exec (.getResponse e ⟨data, chk⟩ (.failed reason)) s = .next t
        ∧ t.f IZ_NETP_STAT_last_reason = reason ∧ t.flight? f.q f.idx = some g ∧ g.ended = true ∧ g.status = stRemote
        ∧ g.failOfs = x.asked - x.unanswered
        ∧ keepsFlights f.q f.idx s t ∧ keepsRegs (fun o => o = IZ_NETP_STAT) s t ∧ onlyChanges [.regs, .fl, .lines] s t))
    ∧ (∀ (q : BitVec 22) (i : W32) (s : State) (f : Flight), s.flight? q.toNat i = some f → f.ended = false → f.status ≠ stMalformed →
    f.phase ≠ .released →
    (∀ x : DataWrite, f.writes.find? (fun y => decide (y.space = 2)) = some x →
      ∃ t g, exec (.netpTimeout q i) s = .next t ∧ t.f IZ_NETP_STAT_last_reason = 6 ∧ t.flight? q.toNat i = some g
        ∧ g.ended = true ∧ g.status = stRemote ∧ g.failOfs = x.lo ∧ g.writes = f.writes.filter (fun y => decide (y.w ≠ x.w))
        ∧ keepsFlights q.toNat i s t ∧ keepsRegs (fun o => o = IZ_NETP_STAT) s t ∧ onlyChanges [.regs, .fl, .lines] s t)
    ∧ (∀ x : Stitch, f.writes.find? (fun y => decide (y.space = 2)) = none →
      f.stitches.find? (fun x => f.e.isGet && decide (0 < x.unanswered)) = some x →
      ∃ t g, exec (.netpTimeout q i) s = .next t ∧ t.f IZ_NETP_STAT_last_reason = 6 ∧ t.flight? q.toNat i = some g
        ∧ g.ended = true ∧ g.status = stRemote ∧ g.failOfs = x.asked - x.unanswered
        ∧ keepsFlights q.toNat i s t ∧ keepsRegs (fun o => o = IZ_NETP_STAT) s t ∧ onlyChanges [.regs, .fl, .lines] s t))

/-- RECORD_WRITE_ACK of a ring whose one issued record is out, or goes out while CPOST owns a channel of its port, with no
injection armed and no write-back before it: the 32 bytes at the record's slot become the record's words for its ring index,
sound, in host memory or in the package, every other byte of memory is unchanged, the record is no longer outstanding, and in
RUN an unmirrored ring with write-back has the next index issued to wb_addr. With no record outstanding it lands the oldest
write-back at wb_addr. That one command issues the record, where none is out, and writes it, and when a write-back is issued
and lands, are the model's choices (log entries 60 and 25). -/
def Obligations.RecordStandsInItsRing : Prop :=
  (∀ (c : Nat) (i : W32) (h : Held) (s : State), s.cqs.issued.filter (fun y => decide (y.2.c = c)) = [(i, h)] →
    s.cqs.wbs.find? (fun y => decide (y.1 = c)) = none → s.pair.hard = false → s.fb IZ_CHK_INJ_armed = false →
    (h.sent = true ∨ s.owns (s.cctx c).res 69 = true) → ((s.cctx c).device = true → (s.cctx c).slotAddr i % 8 = 0 ∧ s.pkgOut ((s.cctx c).slotAddr i) 32 = false) →
    ∃ t, exec (.recordWriteAck c) s = .next t ∧ t.cqs.issued = s.cqs.issued.filter (fun y => !decide (y.2.c = c))
      ∧ t.cqs.spill = s.cqs.spill ∧ t.cqs.waiting = s.cqs.waiting
      ∧ ((s.cctx c).device = false →
        t.hostBytes (s.cctx c).pasidOf ((s.cctx c).slotAddr i) 32 = wordBytes (h.r.words i (s.cctx c).sizeLog2)
        ∧ (∀ p a, (∀ j, j < 32 → hostKey p a ≠ hostKey (s.cctx c).pasidOf ((s.cctx c).slotAddr i + j)) → t.hostByte p a = s.hostByte p a)
        ∧ t.mem.pkg = s.mem.pkg ∧ t.mem.syn = s.mem.syn)
      ∧ ((s.cctx c).device = true →
        t.pkgBytes ((s.cctx c).slotAddr i) 32 = wordBytes (h.r.words i (s.cctx c).sizeLog2) ∧ t.pkgBad ((s.cctx c).slotAddr i) 32 = false
        ∧ (∀ a, (a < (s.cctx c).slotAddr i ∨ (s.cctx c).slotAddr i + 32 ≤ a) → t.pkgByte a = s.pkgByte a ∧ t.synOf a = s.synOf a)
        ∧ t.mem.host = s.mem.host ∧ t.mem.hpoison = s.mem.hpoison)
      ∧ (s.run = true → s.pair.acts = [] → s.cMirrored c = false →
        t.cqs.wbs = if (s.cctx c).wbEn then s.cqs.wbs ++ [(c, i + 1)] else s.cqs.wbs)
      ∧ onlyChanges [.regs, .q, .cq, .fl, .cqs, .ic, .arb, .pair, .lace, .mem, .out] s t)
  ∧ (∀ (c : Nat) (y : Nat × W32) (s : State), s.cqs.issued.filter (fun y => decide (y.2.c = c)) = [] →
    s.cqs.wbs.find? (fun y => decide (y.1 = c)) = some y → s.pair.hard = false → (s.cctx c).device = false →
    ∃ t, exec (.recordWriteAck c) s = .next t ∧ t.cqs.wbs = s.cqs.wbs.erase y
      ∧ t.hostBytes (s.cctx c).pasidOf (s.cctx c).wbAddr.toNat 8 = leBytes 8 y.2.toNat
      ∧ (∀ p a, (∀ j, j < 8 → hostKey p a ≠ hostKey (s.cctx c).pasidOf ((s.cctx c).wbAddr.toNat + j)) → t.hostByte p a = s.hostByte p a)
      ∧ onlyChanges [.cqs, .mem] s t)

/-- RING_BROKEN on an ACTIVE or FULL ring in RUN, at the port its records use, makes the ring BROKEN and nothing else of it
changes, raises source 36, gives up its write-backs, and changes no other ring's context, nor any memory while no clear runs;
a host rejection counts at its port. The model's choices: its records not yet accepted are held again at once, before those
held already, in the spill as far as it has room and then waiting (log entry 25), and the ring is BROKEN at once, whatever
waits for the mirror queue (log entry 19). CQ_COAL_TIMER on a ring with interrupts enabled, a coalescing time and records that
no raise covers, in RUN, covers them and counts one event on the ring's source; no other ring changes. -/
def Obligations.RingsBreakAndCoalesce : Prop :=
  (∀ (c : Nat) (mem : Bool) (s : State), ((s.cctx c).state = .active ∨ (s.cctx c).state = .full) → s.run = true → (s.cctx c).device = mem →
    ∃ t, exec (.ringBroken c mem) s = .next t ∧ t.cctx c = { s.cctx c with state := .broken } ∧ keepsRings c s t
      ∧ t.f (IC_CNT_count 36) = min 255 (s.f (IC_CNT_count 36) + 1)
      ∧ t.cqs.issued = s.cqs.issued.filter (fun y => decide (y.2.c ≠ c)) ∧ t.cqs.wbs = s.cqs.wbs.filter (fun y => decide (y.1 ≠ c))
      ∧ t.cqs.spill = ((s.cqs.issued.filter (fun y => decide (y.2.c = c))).map (·.2)).take (spillCap - s.spillLevel (cqGroup c)) ++ s.cqs.spill
      ∧ t.cqs.waiting = ((s.cqs.issued.filter (fun y => decide (y.2.c = c))).map (·.2)).drop (spillCap - s.spillLevel (cqGroup c)) ++ s.cqs.waiting
      ∧ (mem = false → t.f (IZ_HOSTP_STAT_xlat (b2n (s.cctx c).hostpSel)) = satAdd (IZ_HOSTP_STAT_xlat 0).w (s.f (IZ_HOSTP_STAT_xlat (b2n (s.cctx c).hostpSel))) 1)
      ∧ (s.fb PAT_STAT_clearing = false → t.mem = s.mem)
      ∧ onlyChanges [.regs, .q, .fl, .cq, .cqs, .ic, .arb, .trace, .pat, .pair, .lace, .err, .mem, .out] s t)
    ∧ (∀ (c : Nat) (s : State), (s.cctx c).irqEn = true → (s.cctx c).coalTime ≠ 0 → 0 < (s.cctx c).uncovered → s.run = true →
    0 < (s.cctx c).irqSrc → (s.cctx c).irqSrc < 1024 →
    ∃ t, exec (.cqCoalTimer c) s = .next t ∧ t.cctx c = { s.cctx c with uncovered := 0 } ∧ keepsRings c s t
      ∧ t.f (IC_CNT_count (s.cctx c).irqSrc) = min 255 (s.f (IC_CNT_count (s.cctx c).irqSrc) + 1)
      ∧ onlyChanges [.regs, .cq, .ic, .out] s t)

/-- For a line whose outputs have started: an assertion while low sets its level, adds a request where the line is bound in edge
mode (at 255 the request is lost and counted), and the stitches it paces go on; a deassertion while high clears the level; a
short pulse on an external line only counts a glitch. That edges count only where the line is bound in edge mode is the
model's choice (log entry 58). With no stitch paced by the line nothing but its registers changes. A queued acknowledgement
pulse of an external line that is high, in RUN, drives DACK_N low and leaves the queue; the pulse's end drives it high and one
burst is no longer outstanding; the internal acknowledgement of lines 32 to 255 ends one outstanding burst. That a pulse
leaves the queue as it starts is the model's choice (log entry 47). Every other line is unchanged before the line's stitches
go on. -/
def Obligations.RequestLines : Prop :=
  (∀ (n : Nat) (s : State), n < 256 → 7 ≤ s.phase →
    (s.fb (RL_STATE_level n) = false → ∃ u, exec (.dreqAssert n) s = .next (u.kickLine n) ∧ u.f (RL_STATE_level n) = 1
      ∧ u.f (RL_STATE_pending n) = (if s.edgeBound n && decide (s.f (RL_STATE_pending n) < 255) then s.f (RL_STATE_pending n) + 1 else s.f (RL_STATE_pending n))
      ∧ u.f (RL_STATE_lost n) = (if s.edgeBound n && decide (s.f (RL_STATE_pending n) = 255) then satAdd 16 (s.f (RL_STATE_lost n)) 1 else s.f (RL_STATE_lost n))
      ∧ keepsRegs (fun o => o = RL_STATE n) s u ∧ onlyChanges [.regs] s u ∧ (s.notPaced n → u.kickLine n = u))
    ∧ (s.fb (RL_STATE_level n) = true → ∃ u, exec (.dreqDeassert n) s = .next (u.kickLine n) ∧ u.f (RL_STATE_level n) = 0
      ∧ u.f (RL_STATE_pending n) = s.f (RL_STATE_pending n)
      ∧ keepsRegs (fun o => o = RL_STATE n) s u ∧ onlyChanges [.regs] s u ∧ (s.notPaced n → u.kickLine n = u))
    ∧ (n < 32 → ∃ t, exec (.dreqGlitch n) s = .next t ∧ t.f (RL_STATE_glitches n) = satAdd 16 (s.f (RL_STATE_glitches n)) 1
      ∧ t.f (RL_STATE_level n) = s.f (RL_STATE_level n) ∧ t.f (RL_STATE_pending n) = s.f (RL_STATE_pending n)
      ∧ keepsRegs (fun o => o = RL_STATE n) s t ∧ onlyChanges [.regs] s t))
    ∧ (∀ (n : Nat) (s : State),
    (n < 32 → s.run = true → 0 < (s.line n).pulses → (s.line n).low = false →
      ∃ t, exec (.dackPulseStart n) s = .next t ∧ t.line n = { s.line n with low := true, pulses := (s.line n).pulses - 1 }
        ∧ (∀ m, m ≠ n → t.line m = s.line m) ∧ onlyChanges [.lines] s t)
    ∧ (n < 32 → (s.line n).low = true →
      ∃ u, exec (.dackPulseEnd n) s = .next (u.kickLine n) ∧ u.line n = { s.line n with low := false, out := (s.line n).out - 1 }
        ∧ (∀ m, m ≠ n → u.line m = s.line m) ∧ onlyChanges [.lines] s u ∧ (s.notPaced n → u.kickLine n = u))
    ∧ (32 ≤ n → n < 256 → 0 < (s.line n).out →
      ∃ u, exec (.internalAcknowledgement n) s = .next (u.kickLine n) ∧ u.line n = { s.line n with out := (s.line n).out - 1 }
        ∧ (∀ m, m ≠ n → u.line m = s.line m) ∧ onlyChanges [.lines] s u ∧ (s.notPaced n → u.kickLine n = u)))

/-- A valid sample leaves MT at the larger of its value and the sample, becomes the latest sample and the fabric time, sets valid
and clears holdover, and counts a forward step of 52 units or more and a backward step; an invalid sample leaves MT as it was,
clears valid and sets holdover, counting it and raising source 52 when it begins. Nothing but the time base, registers and the
interrupt controller changes. TS_SAMPLE_MISSING forgets the sample before and counts the gap up to four; the fourth in a row
outside holdover sets holdover, clears valid, counts it and raises source 52, and an earlier one changes no register. MT never
changes. A rising PPS_IN edge, with input enabled and outputs started, stamps TB_PPS_STAMP with MT in domain 7 less 80 units,
counts the edge and passes the stamp on. PPS_OUT, enabled in RUN, rises when MT plus lead has reached the next second
boundary, whose successor is then next, and a fall drives it low; no register changes. -/
def Obligations.TimeSamples : Prop :=
  (∀ (x : W64) (s : State),
    (∃ t, exec (.tsSample x true) s = .next t ∧ t.mt = (if s.mt.toNat < x.toNat then x else s.mt) ∧ t.tb.sample = x ∧ t.tb.fabric = x ∧ t.tb.prev = some x
      ∧ t.f TB_STAT_valid = 1 ∧ t.f TB_STAT_holdover = 0
      ∧ (∀ p, s.tb.prev = some p → p.toNat + 52 ≤ x.toNat → t.f TB_STAT_fwd_steps = satAdd TB_STAT_fwd_steps.w (s.f TB_STAT_fwd_steps) 1)
      ∧ (∀ p, s.tb.prev = some p → x.toNat < p.toNat → t.f TB_STAT_back_steps = satAdd TB_STAT_back_steps.w (s.f TB_STAT_back_steps) 1)
      ∧ onlyChanges [.regs, .ic, .tb, .out] s t)
    ∧ (∃ t, exec (.tsSample x false) s = .next t ∧ t.mt = s.mt ∧ t.tb.prev = none ∧ t.f TB_STAT_valid = 0 ∧ t.f TB_STAT_holdover = 1
      ∧ (s.f TB_STAT_holdover = 0 → t.f TB_STAT_holdovers = satAdd TB_STAT_holdovers.w (s.f TB_STAT_holdovers) 1
          ∧ t.f (IC_CNT_count 52) = min 255 (s.f (IC_CNT_count 52) + 1))
      ∧ onlyChanges [.regs, .ic, .tb, .out] s t))
    ∧ (∀ s : State, ∃ t, exec .tsSampleMissing s = .next t ∧ t.mt = s.mt ∧ t.tb.prev = none ∧ t.tb.missing = min 4 (s.tb.missing + 1)
    ∧ (3 ≤ s.tb.missing → s.f TB_STAT_holdover = 0 → t.f TB_STAT_holdover = 1 ∧ t.f TB_STAT_valid = 0
        ∧ t.f TB_STAT_holdovers = satAdd TB_STAT_holdovers.w (s.f TB_STAT_holdovers) 1
        ∧ t.f (IC_CNT_count 52) = min 255 (s.f (IC_CNT_count 52) + 1))
    ∧ (s.tb.missing < 3 → t.regs = s.regs) ∧ onlyChanges [.regs, .ic, .tb, .out] s t)
    ∧ ((∀ s : State, s.fb TB_PPS_CFG_in_en = true → 7 ≤ s.phase →
      ∃ t, exec .ppsIn s = .next t ∧ t.reg TB_PPS_STAMP = s.mtIn 7 - 80
        ∧ t.f TB_PPS_CFG_edges = satAdd TB_PPS_CFG_edges.w (s.f TB_PPS_CFG_edges) 1 ∧ t.out = s.out ++ [.ppsStamp (s.mtIn 7 - 80)]
        ∧ onlyChanges [.regs, .out] s t)
    ∧ (∀ s : State, s.fb TB_PPS_CFG_out_en = true → s.run = true →
      (s.pins.ppsOut = false → s.tb.second * 4000000000 ≤ s.mt.toNat + s.f TB_PPS_CFG_lead →
        ∃ t, exec (.ppsOut true) s = .next t ∧ t.pins = { s.pins with ppsOut := true }
          ∧ s.mt.toNat + s.f TB_PPS_CFG_lead < t.tb.second * 4000000000 ∧ t.mt = s.mt ∧ onlyChanges [.pins, .tb] s t)
      ∧ (∃ t, exec (.ppsOut false) s = .next t ∧ t.pins = { s.pins with ppsOut := false } ∧ onlyChanges [.pins] s t)))

/-- TRACE_COPY to a host drain buffer, with records to copy and room, in RUN and not failed, while TRACE owns channels of the
context store and of the buffer's port and no injection is armed, puts exactly the records' bytes at PI's place in the buffer,
takes them from the trace ring, and advances TB_TRACE_PI by their number; a write of TB_TRACE_CI within PI - CI sets CI and
one outside counts ci_bad and leaves CI. That a copy is one step is the model's choice (log entry 57). -/
def Obligations.TraceDrainCopiesAndIsConsumed : Prop :=
  (∀ s : State, 0 < s.copyLen → s.run = true → s.trace.failed = false → s.trace.device = false →
      s.owns resCstore 76 = true → s.owns s.traceRes 76 = true → s.fb IZ_CHK_INJ_armed = false →
      s.trace.base.toNat + s.f TB_TRACE_PI_pi % s.drainRecs * 32 + 32 * s.copyLen ≤ 2 ^ 64 → (∀ r ∈ s.trace.recs, r.length = 4) →
      ∃ t, exec .traceCopy s = .next t ∧ t.trace.recs = s.trace.recs.drop s.copyLen
        ∧ t.f TB_TRACE_PI_pi = (s.f TB_TRACE_PI_pi + s.copyLen) % 2 ^ TB_TRACE_PI_pi.w
        ∧ t.hostBytes none (s.trace.base.toNat + s.f TB_TRACE_PI_pi % s.drainRecs * 32) (32 * s.copyLen)
            = (s.trace.recs.take s.copyLen).flatMap wordBytes
        ∧ t.mem.pkg = s.mem.pkg ∧ keepsRegs (fun o => o = TB_TRACE_PI) s t ∧ onlyChanges [.regs, .trace, .mem, .arb] s t)
    ∧ (∀ (v : W32) (s : State), s.served = true →
      ∃ t, exec (.traceCiWrite v) s = .next t ∧ onlyChanges [.regs] s t
        ∧ (idxDiff (BitVec.ofNat 32 (s.f TB_TRACE_PI_pi)) v ≤ idxDiff (BitVec.ofNat 32 (s.f TB_TRACE_PI_pi)) (BitVec.ofNat 32 (s.f TB_TRACE_CI_ci))
            → t.f TB_TRACE_CI_ci = v.toNat ∧ keepsRegs (fun o => o = TB_TRACE_CI) s t)
        ∧ (idxDiff (BitVec.ofNat 32 (s.f TB_TRACE_PI_pi)) (BitVec.ofNat 32 (s.f TB_TRACE_CI_ci)) < idxDiff (BitVec.ofNat 32 (s.f TB_TRACE_PI_pi)) v
            → t.f TB_TRACE_CI_ci = s.f TB_TRACE_CI_ci ∧ t.f TB_TRACE_LOST_ci_bad = satAdd TB_TRACE_LOST_ci_bad.w (s.f TB_TRACE_LOST_ci_bad) 1))

/-- In RUN a key check that the region table allows is answered with the region's kind, its base plus the offset and its PASID,
and changes nothing else; one it does not allow is answered with its reason and counts keychk_fail. In RUN a fold segment that
the key check refuses is counted in keychk_fail and answered with the check's reason, and nothing else changes; one of no
legal form, or not aligned to whole elements, is answered with reason 5. A legal segment for whose destination FOLD does not
own its channels joins those that wait, with the region and the port that it arrived under, and nothing else changes; so does
one behind which another waits, whatever FOLD owns, and channels are granted by the commanded phase (the model's choices, log
entries 58 and 10). A legal unpoisoned segment under its check to a host region, with FOLD's channels owned, sound to read and
with no write on its way, no injection armed and no shadow running, leaves at its destination exactly the fold of what stood
there with its data, changes no other host byte nor in-package memory, and is answered applied (reason 0). -/
def Obligations.NetworkTarget : Prop :=
  (∀ (key : W32) (ofs len : Nat) (r : RemoteRight) (s : State), s.run = true →
    ((s.remoteKey key.toNat ofs len r).2 = 0 →
      ∃ t, exec (.keyCheckRequest key ofs len r) s = .next t ∧ onlyChanges [.out] s t
        ∧ t.out = s.out ++ [.keyPass (s.remoteKey key.toNat ofs len r).1.hostBacked ((s.remoteKey key.toNat ofs len r).1.base + ofs)
            (s.remoteKey key.toNat ofs len r).1.pasid])
    ∧ ((s.remoteKey key.toNat ofs len r).2 ≠ 0 →
      ∃ t, exec (.keyCheckRequest key ofs len r) s = .next t ∧ t.out = s.out ++ [.keyFail (s.remoteKey key.toNat ofs len r).2]
        ∧ t.f IZ_NETP_STAT_keychk_fail = satAdd IZ_NETP_STAT_keychk_fail.w (s.f IZ_NETP_STAT_keychk_fail) 1
        ∧ onlyChanges [.regs, .out] s t))
    ∧ (∀ (f : FoldSeg) (s : State), s.run = true →
    ((s.remoteKey f.key.toNat f.ofs (foldLen f) .rred).2 ≠ 0 →
      ∃ t, exec (.foldSegment f) s = .next t ∧ t.out = s.out ++ [.foldResponse (s.remoteKey f.key.toNat f.ofs (foldLen f) .rred).2]
        ∧ t.f IZ_NETP_STAT_keychk_fail = satAdd IZ_NETP_STAT_keychk_fail.w (s.f IZ_NETP_STAT_keychk_fail) 1
        ∧ keepsRegs (fun o => o = IZ_NETP_STAT) s t ∧ onlyChanges [.regs, .out] s t)
    ∧ (∀ r w, s.remoteKey f.key.toNat f.ofs (foldLen f) .rred = (r, 0) →
        w = ({ seg := f, ans := .ok, lost := false, region := r, hostp := s.f IZ_RED_CFG_fold_hostp } : WaitFold) →
      ((foldLegal f = false ∨ f.data.length % foldIn f ≠ 0 ∨ (r.base + f.ofs) % foldDst f ≠ 0) →
        ∃ t, exec (.foldSegment f) s = .next t ∧ t.out = s.out ++ [.foldResponse 5] ∧ onlyChanges [.out] s t)
      ∧ (foldLegal f = true → f.data.length % foldIn f = 0 → (r.base + f.ofs) % foldDst f = 0 →
        ((s.foldOpen w = false ∨ s.arb.folds ≠ []) →
          ∃ t, exec (.foldSegment f) s = .next t ∧ t.arb = { s.arb with folds := s.arb.folds ++ [w] } ∧ onlyChanges [.arb] s t)
        ∧ (s.foldOpen w = true → s.arb.folds = [] → f.poison = false → segCheck f.data = f.chk → s.fb IZ_CHK_INJ_armed = false →
          s.spr.shadow = none → (∀ g ∈ s.fl, g.writes = []) →
          r.hostBacked = true → s.hostBad (some r.pasid) (r.base + f.ofs) (foldLen f) = false →
          ∃ t n, exec (.foldSegment f) s = .next t
            ∧ n = (foldBytes f.redType f.redOp f.repro f.outCarrier (s.hostBytes (some r.pasid) (r.base + f.ofs) (foldLen f)) f.data).1
            ∧ (r.base + f.ofs + n.length ≤ 2 ^ 64 → ∀ j, j < n.length → t.hostByte (some r.pasid) (r.base + f.ofs + j) = n.getD j 0)
            ∧ (∀ p a, (∀ j, j < n.length → hostKey p a ≠ hostKey (some r.pasid) (r.base + f.ofs + j)) → t.hostByte p a = s.hostByte p a)
            ∧ t.mem.pkg = s.mem.pkg ∧ t.mem.syn = s.mem.syn ∧ t.out.getLast? = some (.foldResponse 0)
            ∧ onlyChanges [.regs, .arb, .mem, .out] s t))))

/-- A notification with a nonzero increment that is applied as it comes, in RUN, to an own counter, whose record, if it sends one,
finds room in the mirror queue: a valid counter of the notification's domain with remote_en gains the increment modulo 2^64
and no other counter changes; an unassigned one is counted in IZ_TRIG_ARRIVAL_BAD with cause 1, raises source 37, and no
counter changes. In RUN, PARK_RELEASE takes the first four parked entries whose condition holds, of queues that are not being
discarded, out of parking, on-chip ones first and each store in parking order, makes them startable, and IZ_TRIG_RELEASED
counts them; spilled ones are among them only while PSPILL owns a channel of CSTORE, and read back sound. Every entry parked
that is not among them stays parked. PARK_SPILL_REFILL with an on-chip slot free and PSPILL's channel owned reads back the
oldest spilled entry that may come back, whose counter is at hand, and moves it to the end of the on-chip store. That on-chip
waiters of one counter go before spilled ones of another is the model's choice (log entry 29). A read of the counter window
while registers are served, outside a hard halt, with the selected counter hot or unassigned, returns the counter's value, or
the word of its domain, validity, remote_en and waiters; nothing but the read's answer and the cache order changes. -/
def Obligations.TriggerCounters : Prop :=
  (∀ (w : W64) (s : State), s.run = true → bits w.toNat 20 12 ≠ 0 → bit w.toNat 48 = false →
    s.cold [] (.arrivalNotification w) = false → s.actWaits (s.arrivalSends w) = false →
    ((s.ctrOf (bits w.toNat 0 20)).valid = true → (s.ctrOf (bits w.toNat 0 20)).pd = bits w.toNat 32 16 →
      (s.ctrOf (bits w.toNat 0 20)).remoteEn = true →
      ∃ t, exec (.arrivalNotification w) s = .next t
        ∧ t.ctrOf (bits w.toNat 0 20) = { s.ctrOf (bits w.toNat 0 20) with
            value := (s.ctrOf (bits w.toNat 0 20)).value + BitVec.ofNat 64 (bits w.toNat 20 12) }
        ∧ keepsCounters (bits w.toNat 0 20) s t ∧ onlyChanges [.ctr, .cache, .pair, .lace, .out, .arb] s t)
    ∧ ((s.ctrOf (bits w.toNat 0 20)).valid = false →
      ∃ t, exec (.arrivalNotification w) s = .next t
        ∧ t.f IZ_TRIG_ARRIVAL_BAD_count = satAdd IZ_TRIG_ARRIVAL_BAD_count.w (s.f IZ_TRIG_ARRIVAL_BAD_count) 1
        ∧ t.f IZ_TRIG_ARRIVAL_BAD_last_ctr = bits w.toNat 0 20 ∧ t.f IZ_TRIG_ARRIVAL_BAD_last_cause = 1
        ∧ t.f (IC_CNT_count 37) = min 255 (s.f (IC_CNT_count 37) + 1) ∧ onlyChanges [.regs, .ic, .out, .cache] s t))
    ∧ (∀ s : State, s.run = true →
    ((∀ x ∈ s.releasable.take 4, x ∈ s.park.spill → s.pkgBad (s.pat.csBase + parkOffset (s.spillSlot x)) 64 = false) →
      ∃ t, exec .parkRelease s = .next t
      ∧ t.park.onChip = s.park.onChip.filter (fun x => decide (x ∉ s.releasable.take 4))
      ∧ t.park.spill = s.park.spill.filter (fun x => decide (x ∉ s.releasable.take 4))
      ∧ t.park.slots = s.park.slots.filter (fun x => decide (x.1 ∉ s.releasable.take 4))
      ∧ (∀ x ∈ s.releasable.take 4, ∀ f, s.flight? x.1 x.2 = some f → t.flight? x.1 x.2 = some { f with phase := .startable })
      ∧ t.f IZ_TRIG_RELEASED_released = (s.f IZ_TRIG_RELEASED_released + (s.releasable.take 4).length) % 2 ^ 64
      ∧ onlyChanges [.regs, .fl, .park, .arb, .trace, .pat, .mem] s t)
    ∧ (∀ x f, s.park.onChip.length < parkSlots → s.owns resCstore 71 = true → s.park.spill.find? s.mayComeBack = some x →
      s.flight? x.1 x.2 = some f → s.atHand [(.counter, ctrIdx x.1 f.e.waitCtr)] = true →
      s.pkgBad (s.pat.csBase + parkOffset (s.spillSlot x)) 64 = false →
      ∃ t, exec .parkSpillRefill s = .next t ∧ t.park.onChip = s.park.onChip.filter (fun y => decide (y ≠ x)) ++ [x]
        ∧ t.park.spill = s.park.spill.filter (fun y => decide (y ≠ x)) ∧ t.park.slots = s.park.slots.filter (fun y => decide (y.1 ≠ x))
        ∧ onlyChanges [.regs, .park, .cache, .arb] s t))
    ∧ (∀ (info : Bool) (s : State), s.served = true → s.pair.hard = false → s.cold [] (.trigCounterRead info) = false →
    ∃ t, exec (.trigCounterRead info) s = .next t ∧ onlyChanges [.lastRead, .cache] s t
      ∧ (info = false → t.lastRead = [(s.ctrOf s.trigSel).value])
      ∧ (info = true → t.lastRead = [s.trigWord true]))

/-- A CREATE_WQ that nothing refuses, in either stream, gives the queue the context its entry names, READY, with PI, S, F and CI
all at the initial index, so that no entry lies between CI and S; every other work queue, every region and every domain is
unchanged, no entry is in flight that was not, and the stream reports success. -/
def Obligations.CreationSetsTheIndices : Prop :=
  ∀ (st : Stream) (s : State) (o : AdmOpen), s.admRuns st 0x01 o → refuse (s.judgeCreateWq o.cmd.words) = none →
    ∃ t, exec (.createWq st) s = .next t ∧ t.qctx (admF o.cmd.words 2 0 21) = newQueue o.cmd.words s.mt
      ∧ (t.qctx (admF o.cmd.words 2 0 21)).state = .ready
      ∧ (t.qctx (admF o.cmd.words 2 0 21)).pi = BitVec.ofNat 32 (admF o.cmd.words 2 32 32)
      ∧ (t.qctx (admF o.cmd.words 2 0 21)).snap = BitVec.ofNat 32 (admF o.cmd.words 2 32 32)
      ∧ (t.qctx (admF o.cmd.words 2 0 21)).fetch = BitVec.ofNat 32 (admF o.cmd.words 2 32 32)
      ∧ (t.qctx (admF o.cmd.words 2 0 21)).ci = BitVec.ofNat 32 (admF o.cmd.words 2 32 32)
      ∧ idxDiff (t.qctx (admF o.cmd.words 2 0 21)).snap (t.qctx (admF o.cmd.words 2 0 21)).ci = 0
      ∧ (∀ k, k ≠ 0 → k ≠ admF o.cmd.words 2 0 21 → t.qctx k = s.qctx k) ∧ t.fl = s.fl ∧ t.mr = s.mr ∧ t.pd = s.pd
      ∧ admReported st o 0 0 t

/-- A CREATE_CQ that nothing refuses gives the ring the context its entry names, ACTIVE with PI and CI at the initial index, and
leaves every other ring but CQID 0 as it was. A DESTROY_CQ that nothing refuses, of a ring that holds no record back and has
no write outstanding makes the ring FREE. Both report success. -/
def Obligations.RingsAreCreatedAndDestroyed : Prop :=
  ∀ (st : Stream) (s : State) (o : AdmOpen),
    (s.admRuns st 0x08 o → refuse (s.judgeCreateCq o.cmd.words) = none →
      ∃ t, exec (.createCq st) s = .next t ∧ t.cctx (admF o.cmd.words 3 0 18) = newRing o.cmd.words s.mt
        ∧ (newRing o.cmd.words s.mt).pi = (newRing o.cmd.words s.mt).ci
        ∧ (∀ k, k ≠ 0 → k ≠ admF o.cmd.words 3 0 18 → t.cctx k = s.cctx k) ∧ t.mr = s.mr ∧ t.pd = s.pd ∧ admReported st o 0 0 t)
    ∧ (s.admRuns st 0x09 o → refuse (s.judgeDestroyCq o.cmd.words) = none → s.heldOf (admF o.cmd.words 3 0 18) = [] →
      s.ringQuiet (admF o.cmd.words 3 0 18) = true →
      ∃ t, exec (.destroyCq st) s = .next t ∧ t.cctx (admF o.cmd.words 3 0 18) = CqCtx.zero ∧ t.mr = s.mr ∧ t.pd = s.pd
        ∧ admReported st o 0 0 t)

/-- CREATE_PD of a domain that does not exist makes it exist, DESTROY_PD of one that nothing uses ends it. A CREATE_MR that
nothing refuses, whose engine owns its channel of MEMP, makes the region valid with the tag after its previous one (4,095
followed by 1) and the entry's fields, and returns index + tag * 2^20, its key. A DESTROY_MR that nothing refuses clears
valid. No other domain or region changes, and each reports success. -/
def Obligations.DomainsAndRegionsComeAndGo : Prop :=
  ∀ (st : Stream) (s : State) (o : AdmOpen),
    (s.admRuns st 0x10 o → s.pdOf (admF o.cmd.words 3 0 16) = false →
      ∃ t, exec (.createPd st) s = .next t ∧ t.pdOf (admF o.cmd.words 3 0 16) = true
        ∧ (∀ m, m ≠ admF o.cmd.words 3 0 16 → t.pdOf m = s.pdOf m) ∧ t.mr = s.mr ∧ keepsMemory s t ∧ admReported st o 0 0 t)
    ∧ (s.admRuns st 0x11 o → s.pdOf (admF o.cmd.words 3 0 16) = true → s.pdUsed (admF o.cmd.words 3 0 16) = false →
      ∃ t, exec (.destroyPd st) s = .next t ∧ t.pdOf (admF o.cmd.words 3 0 16) = false
        ∧ (∀ m, m ≠ admF o.cmd.words 3 0 16 → t.pdOf m = s.pdOf m) ∧ t.mr = s.mr ∧ keepsMemory s t ∧ admReported st o 0 0 t)
    ∧ (s.admRuns st 0x12 o → refuse (s.judgeCreateMr o.cmd.words) = none → s.admHas (streamNo st) [3] →
      ∃ t r, exec (.createMr st) s = .next t ∧ t.mrOf (admF o.cmd.words 3 0 20) = r ∧ r.valid = true
        ∧ r.tag = (if (s.mrOf (admF o.cmd.words 3 0 20)).tag = 4095 then 1 else (s.mrOf (admF o.cmd.words 3 0 20)).tag + 1)
        ∧ r.pd = admF o.cmd.words 3 20 16 ∧ r.base = admF o.cmd.words 1 0 64 ∧ r.size = admF o.cmd.words 2 0 48
        ∧ (∀ m, m ≠ admF o.cmd.words 3 0 20 → t.mrOf m = s.mrOf m) ∧ t.pd = s.pd
        ∧ admReported st o 0 (admF o.cmd.words 3 0 20 + r.tag * 2 ^ 20) t)
    ∧ (s.admRuns st 0x13 o → refuse (s.judgeDestroyMr o.cmd.words) = none →
      ∃ t, exec (.destroyMr st) s = .next t
        ∧ t.mrOf (admF o.cmd.words 3 0 20) = { s.mrOf (admF o.cmd.words 3 0 20) with valid := false }
        ∧ (∀ m, m ≠ admF o.cmd.words 3 0 20 → t.mrOf m = s.mrOf m) ∧ t.pd = s.pd ∧ keepsMemory s t ∧ admReported st o 0 0 t)

/-- A MODIFY_WQ that nothing refuses changes rank, stitch size, pin and stop where their bits are set and leaves the rest of the
context; MODIFY_CQ changes the ring's interrupt fields; BIND_RL of a queue with no change of line waiting binds the line with
its pending count at zero or unbinds it, or, where a stitch of the queue is bound, leaves the change to wait for a stitch
boundary; QUERY_WQ and QUERY_CQ to host memory, whose engine owns its channel of the stream's host port, write exactly the
context's bytes at resp_addr; ADMIN_NOP changes no region, domain, counter, entry or memory. Each reports success, and no work
queue but the one named and no ring but the one named and CQID 0 changes. -/
def Obligations.ObjectsAreModifiedAndQueried : Prop :=
  ∀ (st : Stream) (s : State) (o : AdmOpen),
    (s.admRuns st 0x03 o → refuse (s.judgeModifyWq o.cmd.words) = none →
      ∃ t c, exec (.modifyWq st) s = .next t
        ∧ c = { s.qctx (admF o.cmd.words 2 0 22) with
            rank := if bit (o.cmd.words.getD 3 0).toNat 0 then admF o.cmd.words 3 4 4 else (s.qctx (admF o.cmd.words 2 0 22)).rank,
            stitchLog2 := if bit (o.cmd.words.getD 3 0).toNat 1 then admF o.cmd.words 3 8 5 else (s.qctx (admF o.cmd.words 2 0 22)).stitchLog2,
            pin := if bit (o.cmd.words.getD 3 0).toNat 2 then bit (o.cmd.words.getD 3 0).toNat 16 else (s.qctx (admF o.cmd.words 2 0 22)).pin }
        ∧ t.qctx (admF o.cmd.words 2 0 22) = (if bit (o.cmd.words.getD 3 0).toNat 3 then c.setStop (bit (o.cmd.words.getD 3 0).toNat 17) else c)
        ∧ (∀ k, k ≠ 0 → k ≠ admF o.cmd.words 2 0 22 → t.qctx k = s.qctx k) ∧ t.fl = s.fl ∧ keepsMemory s t ∧ admReported st o 0 0 t)
    ∧ (s.admRuns st 0x0A o → refuse (s.judgeModifyCq o.cmd.words) = none →
      ∃ t, exec (.modifyCq st) s = .next t
        ∧ t.cctx (admF o.cmd.words 3 0 18) = { s.cctx (admF o.cmd.words 3 0 18) with
            irqEn := bit (o.cmd.words.getD 5 0).toNat 9, irqSrc := admF o.cmd.words 5 10 10, coalCount := admF o.cmd.words 5 20 8,
            coalTime := admF o.cmd.words 4 48 16 }
        ∧ (∀ k, k ≠ 0 → k ≠ admF o.cmd.words 3 0 18 → t.cctx k = s.cctx k) ∧ keepsMemory s t ∧ admReported st o 0 0 t)
    ∧ (s.admRuns st 0x18 o → refuse (s.judgeBindRl o.cmd.words) = none → (s.qctx (admF o.cmd.words 2 0 22)).newLine = none →
      ∃ t, exec (.bindRl st) s = .next t ∧ admReported st o 0 0 t ∧ (∀ k, k ≠ 0 → k ≠ admF o.cmd.words 2 0 22 → t.qctx k = s.qctx k)
        ∧ (s.hasStitch (admF o.cmd.words 2 0 22) = true →
            t.qctx (admF o.cmd.words 2 0 22) = { s.qctx (admF o.cmd.words 2 0 22) with
              newLine := some (if bit (o.cmd.words.getD 3 0).toNat 9 then none else some (admF o.cmd.words 3 0 8, bit (o.cmd.words.getD 3 0).toNat 8)) })
        ∧ (s.hasStitch (admF o.cmd.words 2 0 22) = false → bit (o.cmd.words.getD 3 0).toNat 9 = false →
            t.qctx (admF o.cmd.words 2 0 22) = { s.qctx (admF o.cmd.words 2 0 22) with
              rlBind := true, rlLine := admF o.cmd.words 3 0 8, rlMode := bit (o.cmd.words.getD 3 0).toNat 8 }
            ∧ t.f (RL_STATE_bound (admF o.cmd.words 3 0 8)) = 1 ∧ t.f (RL_STATE_pending (admF o.cmd.words 3 0 8)) = 0
            ∧ t.f (RL_STATE_qid (admF o.cmd.words 3 0 8)) = admF o.cmd.words 2 0 22)
        ∧ (s.hasStitch (admF o.cmd.words 2 0 22) = false → bit (o.cmd.words.getD 3 0).toNat 9 = true →
            t.qctx (admF o.cmd.words 2 0 22) = { s.qctx (admF o.cmd.words 2 0 22) with rlBind := false, rlLine := 0, rlMode := false }
            ∧ t.f (RL_STATE_bound (admF o.cmd.words 3 0 8)) = 0))
    ∧ (s.admRuns st 0x05 o → refuse (judgeQueryWq o.cmd.words) = none → admF o.cmd.words 2 32 1 = 0 →
      s.admHas (streamNo st) [portRes 0 (s.f ADM_CFG_hostp_sel)] →
      admF o.cmd.words 1 0 64 + (s.queryWqBytes o.cmd.words).length ≤ 2 ^ 64 →
      ∃ t, exec (.queryWq st) s = .next t ∧ admReported st o 0 0 t ∧ (s.noFreshTrace → t.mem.pkg = s.mem.pkg)
        ∧ t.hostBytes none (admF o.cmd.words 1 0 64) (s.queryWqBytes o.cmd.words).length = s.queryWqBytes o.cmd.words)
    ∧ (s.admRuns st 0x0B o → refuse (judgeQueryCq o.cmd.words) = none → admF o.cmd.words 3 32 1 = 0 →
      s.admHas (streamNo st) [portRes 0 (s.f ADM_CFG_hostp_sel)] →
      admF o.cmd.words 1 0 64 + (s.queryCqBytes o.cmd.words).length ≤ 2 ^ 64 →
      ∃ t, exec (.queryCq st) s = .next t ∧ admReported st o 0 0 t ∧ (s.noFreshTrace → t.mem.pkg = s.mem.pkg)
        ∧ t.hostBytes none (admF o.cmd.words 1 0 64) (s.queryCqBytes o.cmd.words).length = s.queryCqBytes o.cmd.words)
    ∧ (s.admRuns st 0x00 o →
      ∃ t, exec (.adminNop st) s = .next t ∧ admReported st o 0 0 t ∧ t.mr = s.mr ∧ t.pd = s.pd ∧ t.ctr = s.ctr ∧ t.fl = s.fl
        ∧ keepsMemory s t ∧ (∀ k, k ≠ 0 → t.qctx k = s.qctx k) ∧ (∀ k, k ≠ 0 → t.cctx k = s.cctx k))

/-- Every admin command of one stitch that something refuses reports the lowest code among the refusals that apply, with value 0,
and leaves every region, domain, counter, entry and byte of memory, every work queue and every ring but CQID 0 as it was. -/
def Obligations.RefusedCommandsChangeNothing : Prop :=
  ∀ (c : Instr) (st : Stream) (op : Nat) (judge : State → List W64 → List (Bool × Nat)) (s : State) (o : AdmOpen) (code : Nat),
    oneStitchCommand c = some (st, op, judge) → s.admRuns st op o → refuse (judge s o.cmd.words) = some code →
    ∃ t, exec c s = .next t ∧ admReported st o code 0 t ∧ (true, code) ∈ judge s o.cmd.words
      ∧ (∀ x, (true, x) ∈ judge s o.cmd.words → code ≤ x)
      ∧ t.mr = s.mr ∧ t.pd = s.pd ∧ t.ctr = s.ctr ∧ t.fl = s.fl ∧ keepsMemory s t
      ∧ (∀ k, k ≠ 0 → t.qctx k = s.qctx k) ∧ (∀ k, k ≠ 0 → t.cctx k = s.cctx k)

/-- The first stitch of a DESTROY_WQ that drains makes the queue DESTROYING; once CI has reached S with nothing left, its last
stitch makes an own queue FREE with every field zero and reports the entries withdrawn. The drain timeout, with entries left,
turns the drain into a discard that is reported as cut. RESUME_WQ of a FENCED queue releases it, and of a QUARANTINED queue
that no started entry holds, without skip, releases it with its cause cleared, F back at CI and its unstarted entries to be
fetched again. The model's choices: what DESTROY_WQ does with a QUARANTINED queue's own entries (destroy = frozen, log entry
40), and at RESUME_WQ the accept times kept for them and the stop request cleared (log entry 26). -/
def Obligations.QueuesAreDestroyedAndResumed : Prop :=
  ∀ (st : Stream) (s : State) (o : AdmOpen),
    (s.admRuns st 0x02 o → refuse (s.judgeDestroyWq o.cmd.words) = none → bit (o.cmd.words.getD 2 0).toNat 32 = false →
      admF o.cmd.words 3 0 32 ≠ 0 →
      ∃ t, exec (.destroyWq st) s = .next t ∧ t.admOf st = some { o with begun := true, phase := 2 }
        ∧ t.qctx (admF o.cmd.words 2 0 22) = { s.qctx (admF o.cmd.words 2 0 22) with
            state := .destroying, destroy := if (s.qctx (admF o.cmd.words 2 0 22)).state = .quarantined then .frozen else .wait,
            withdrawn := 0, drainCut := false }
        ∧ (∀ k, k ≠ 0 → k ≠ admF o.cmd.words 2 0 22 → t.qctx k = s.qctx k) ∧ t.fl = s.fl ∧ keepsMemory s t)
    ∧ (s.admCmd st 0x02 = some o → s.admMay st = true → o.begun = true → s.recordsGo → (st = .ring → s.ringReports) →
      0 < admF o.cmd.words 2 0 22 → admF o.cmd.words 2 0 22 < 2 ^ 21 → (s.qctx (admF o.cmd.words 2 0 22)).destroy ≠ .discard →
      (s.qctx (admF o.cmd.words 2 0 22)).ci = (s.qctx (admF o.cmd.words 2 0 22)).snap → s.mayFree (admF o.cmd.words 2 0 22) = true →
      ∃ t, exec (.destroyWq st) s = .next t ∧ t.qctx (admF o.cmd.words 2 0 22) = QCtx.zero
        ∧ (∀ k, k ≠ 0 → k ≠ admF o.cmd.words 2 0 22 → t.qctx k = s.qctx k) ∧ keepsMemory s t
        ∧ admReported st o (if (s.qctx (admF o.cmd.words 2 0 22)).drainCut then 0x0E else 0) (s.qctx (admF o.cmd.words 2 0 22)).withdrawn t)
    ∧ (s.admCmd st 0x02 = some o → s.run = true → o.phase = 2 →
      (s.qctx (admF o.cmd.words 2 0 22)).ci ≠ (s.qctx (admF o.cmd.words 2 0 22)).snap → s.flsOf (admF o.cmd.words 2 0 22) = [] →
      ∃ t, exec (.destroyDrainTimeout st) s = .next t ∧ (∃ n, t.admOf st = some { o with phase := 1, total := n })
        ∧ t.qctx (admF o.cmd.words 2 0 22) = { s.qctx (admF o.cmd.words 2 0 22) with
            destroy := .discard, drainCut := true,
            withdrawn := (s.qctx (admF o.cmd.words 2 0 22)).withdrawn
              + idxDiff (s.qctx (admF o.cmd.words 2 0 22)).snap (s.qctx (admF o.cmd.words 2 0 22)).fetch }
        ∧ keepsQueues (admF o.cmd.words 2 0 22) s t ∧ t.mem = s.mem)
    ∧ (s.admRuns st 0x04 o → refuse (s.judgeResumeWq o.cmd.words) = none → 0 < admF o.cmd.words 2 0 22 →
      ((s.qctx (admF o.cmd.words 2 0 22)).state = .fenced →
        ∃ t, exec (.resumeWq st) s = .next t ∧ t.qctx (admF o.cmd.words 2 0 22) = (s.qctx (admF o.cmd.words 2 0 22)).release
          ∧ t.fl = s.fl ∧ admReported st o 0 0 t)
      ∧ ((s.qctx (admF o.cmd.words 2 0 22)).state = .quarantined → s.stillRuns (admF o.cmd.words 2 0 22) = false →
        bit (o.cmd.words.getD 2 0).toNat 32 = false →
        ∃ t, exec (.resumeWq st) s = .next t ∧ admReported st o 0 0 t
          ∧ t.fl = s.fl.filter (fun f => decide (f.q ≠ admF o.cmd.words 2 0 22))
          ∧ t.qctx (admF o.cmd.words 2 0 22) = { (s.qctx (admF o.cmd.words 2 0 22)).release with
              cause := 0, causeIndex := 0, fetch := (s.qctx (admF o.cmd.words 2 0 22)).ci,
              accepts := (s.flsOf (admF o.cmd.words 2 0 22)).map (fun f => Accept.mk f.idx (f.idx + 1) f.acceptMt)
                ++ (s.qctx (admF o.cmd.words 2 0 22)).accepts }))

/-- FENCE_ALL fences every READY or STOPPED queue of its scope, or releases the FENCED ones, and ends at once where no entry runs;
UNIT_OFFLINE takes a SPARE or IDLE unit offline at once and has a BOUND one leave at its boundary; SCRUB_CSTORE of one block
without flush, whose engine owns its channel of CSTORE, corrects, counts and rewrites every word that a correction mends, so
that it reads sound and every byte reads as it did, counts those it cannot correct and reports their number; CLEAR_TRIG of up
to 1,024 counters without waiters leaves them as its entry says and every other counter alone; TRACE_START turns the trace on
at the buffer's start; TRACE_STOP turns it off, and once all is copied, or a copy has failed, ends with ACCESS after a failed
copy; the background clear's stitch, in its turn with its channel owned, nothing cleared early and the trace off, zeroes
exactly its block, but after a soft reset keeps the error log queue's, and counts it. The model's choices (log entry 40) are
that FENCE_ALL waits for entries of queues fenced earlier and that TRACE_STOP reports a failed copy. -/
def Obligations.SystemCommandsTakeEffect : Prop :=
  ∀ (st : Stream) (s : State) (o : AdmOpen),
    (s.admRuns st 0x28 o →
      ∃ t, exec (.fenceAll st) s = .next t
        ∧ (bit (o.cmd.words.getD 3 0).toNat 0 = false → ∀ q ∈ s.fenceScope (bit (o.cmd.words.getD 3 0).toNat 1),
            ((s.qctx q).state = .ready ∨ (s.qctx q).state = .stopped) → t.qctx q = { s.qctx q with state := .fenced, stopReq := false })
        ∧ (bit (o.cmd.words.getD 3 0).toNat 0 = true → ∀ q ∈ s.fenceScope (bit (o.cmd.words.getD 3 0).toNat 1),
            (s.qctx q).state = .fenced → t.qctx q = (s.qctx q).release)
        ∧ (∀ q, q ≠ 0 → q ∉ s.fenceScope (bit (o.cmd.words.getD 3 0).toNat 1) → t.qctx q = s.qctx q)
        ∧ ((bit (o.cmd.words.getD 3 0).toNat 0 = true ∨ ∀ f ∈ s.fl, f.phase ≠ .started) → admReported st o 0 0 t))
    ∧ (s.admRuns st 0x20 o → refuse (s.judgeOffline o.cmd.words) = none →
      ((s.unitSt (bit (o.cmd.words.getD 3 0).toNat 8) (admF o.cmd.words 3 0 7) = 4
          ∨ (s.unitSt (bit (o.cmd.words.getD 3 0).toNat 8) (admF o.cmd.words 3 0 7) = 0 ∧ s.spr.shadow = none)) →
        ∃ t, exec (.unitOffline st) s = .next t ∧ t.unitSt (bit (o.cmd.words.getD 3 0).toNat 8) (admF o.cmd.words 3 0 7) = 5
          ∧ admReported st o 0 0 t)
      ∧ (s.unitSt (bit (o.cmd.words.getD 3 0).toNat 8) (admF o.cmd.words 3 0 7) = 1 → (∀ e, s.admEngine (streamNo st) = some e → s.holds 4 e = false) →
        ∃ t, exec (.unitOffline st) s = .next t ∧ t.admOf st = some { o with begun := true, phase := 2 }
          ∧ (bit (o.cmd.words.getD 3 0).toNat 8, admF o.cmd.words 3 0 7) ∈ t.spr.leaving
          ∧ t.unitSt (bit (o.cmd.words.getD 3 0).toNat 8) (admF o.cmd.words 3 0 7) = 1))
    ∧ (∀ (single double : List Nat) (u : State), s.admRuns st 0x22 o → refuse (judgeScrub o.cmd.words) = none →
      admF o.cmd.words 3 32 32 = 65536 → o.done = 0 → o.value = 0 → bit (o.cmd.words.getD 4 0).toNat 0 = false →
      s.fb PAT_STAT_clearing = false → s.admHas (streamNo st) [resCstore] → u = s.decay single double →
      ∃ t, exec (.scrubCstore st single double) s = .next t
        ∧ admReported st o 0 ((u.faultyIn (admF o.cmd.words 3 0 32)).filter u.wordBad).length t
        ∧ t.f IZ_MEMP_STAT_corrected = satAdd 16 (s.f IZ_MEMP_STAT_corrected) ((u.faultyIn (admF o.cmd.words 3 0 32)).filter u.wordFixed).length
        ∧ t.f IZ_MEMP_STAT_uncorrectable = satAdd 16 (s.f IZ_MEMP_STAT_uncorrectable) ((u.faultyIn (admF o.cmd.words 3 0 32)).filter u.wordBad).length
        ∧ (∀ k ∈ u.faultyIn (admF o.cmd.words 3 0 32), u.wordFixed k = true → t.wordFixed k = false ∧ t.wordBad k = false)
        ∧ (∀ a, t.pkgFixed a = u.pkgFixed a) ∧ t.mem.host = s.mem.host)
    ∧ (s.admRuns st 0x23 o → refuse (s.judgeClearTrig o.cmd.words) = none → admF o.cmd.words 3 20 21 ≤ 1024 → o.done = 0 → o.value = 0 →
      s.fb PAT_STAT_clearing = false → (∀ k, k < admF o.cmd.words 3 20 21 → s.waitersOf (admF o.cmd.words 3 0 20 + k) = []) →
      ∃ t, exec (.clearTrig st) s = .next t ∧ admReported st o 0 0 t ∧ keepsMemory s t ∧ t.fl = s.fl
        ∧ (∀ k, k < admF o.cmd.words 3 20 21 →
            t.ctrOf (admF o.cmd.words 3 0 20 + k) = clearedCounter o.cmd.words (s.ctrOf (admF o.cmd.words 3 0 20 + k)))
        ∧ (∀ n, n < admF o.cmd.words 3 0 20 ∨ admF o.cmd.words 3 0 20 + admF o.cmd.words 3 20 21 ≤ n → t.ctrOf n = s.ctrOf n))
    ∧ (s.admRuns st 0x30 o → refuse (s.judgeTraceStart o.cmd.words) = none →
      ∃ t, exec (.traceStart st) s = .next t ∧ admReported st o 0 0 t ∧ t.f TB_TRACE_CFG_on = 1 ∧ t.f TB_TRACE_PI_pi = 0
        ∧ t.f TB_TRACE_CI_ci = 0 ∧ t.trace.base = o.cmd.words.getD 1 0 ∧ t.trace.sizeLog2 = admF o.cmd.words 3 1 5 ∧ t.trace.failed = false)
    ∧ (s.admRuns st 0x31 o → s.fb TB_TRACE_CFG_on = true → ∃ t, exec (.traceStop st) s = .next t ∧ t.f TB_TRACE_CFG_on = 0)
    ∧ (s.admCmd st 0x31 = some o → o.begun = true → s.run = true → s.traceQuiet = true → (st = .ring → s.ringReports) →
      ∃ t, exec (.traceStop st) s = .next t ∧ admReported st o (if s.trace.access then 0x0D else 0) 0 t ∧ t.trace.recs = [])
    ∧ (s.fb PAT_STAT_clearing = true → s.run = true → s.admHas 3 s.clearNeeds → s.turnOf 3 = true → s.pat.early = [] →
      s.clearNext < clearBlocks → s.fb TB_TRACE_CFG_on = false →
      ∃ t, exec .clearStitch s = .next t ∧ t.f PAT_CLEAR_blocks = (s.f PAT_CLEAR_blocks + 1) % 2 ^ PAT_CLEAR_blocks.w
        ∧ ((s.pat.bySoft = true ∧ storeBlock (errOffset 0) ≤ s.clearNext ∧ s.clearNext ≤ storeBlock (errOffset 4095)) → t.mem = s.mem)
        ∧ ((s.pat.bySoft = false ∨ s.clearNext < storeBlock (errOffset 0) ∨ storeBlock (errOffset 4095) < s.clearNext) →
          (∀ a, s.blockAddr s.clearNext ≤ a → a < s.blockAddr s.clearNext + 65536 → t.pkgByte a = 0)
          ∧ (∀ a, a < s.blockAddr s.clearNext ∨ s.blockAddr s.clearNext + 65536 ≤ a → t.pkgByte a = s.pkgByte a))
        ∧ t.mem.host = s.mem.host)

/-- UNIT_ONLINE, SET_MIRROR and firmware-defined commands, opened in RUN: where nothing refuses them and firmware is ready and
free, the eight command words stand in ADM_FW_CMD, seq advances, pending and the stream are shown and source 42 counts; where
firmware is not ready or the command is refused, it ends with the lowest code that applies, NO_FW among them. That a refusal
is judged before the hand-over is the model's choice (log entry 40). A done with the current seq ends it with its status and
value, a timeout with 0x10, and firmware is free again; a done with another seq only counts late. -/
def Obligations.FirmwareServesItsCommands : Prop :=
  (∀ (c : Instr) (st : Stream) (is : Nat → Bool) (judge : State → List W64 → List (Bool × Nat)) (s : State) (o : AdmOpen),
      firmwareCommand c = some (st, is, judge) → s.admNext st = some o →
      is (admOp o.cmd.words) = true → s.run = true → o.phase ≠ 3 →
      (s.fb ADM_FW_CFG_ready = true → s.adm.fw = none → refuse (judge s o.cmd.words) = none →
        ∃ t, exec c s = .next t ∧ t.adm.fw = some st ∧ t.admOf st = some { o with phase := 3, begun := true }
          ∧ (∀ k, k < 8 → t.reg (ADM_FW_CMD k) = o.cmd.words.getD k 0) ∧ t.f ADM_FW_CFG_pending = 1
          ∧ t.f ADM_FW_CFG_stream = streamNo st - 1 ∧ t.f ADM_FW_CFG_seq = (s.f ADM_FW_CFG_seq + 1) % 2 ^ 16
          ∧ t.f (IC_CNT_count 42) = min 255 (s.f (IC_CNT_count 42) + 1) ∧ onlyChanges [.regs, .adm, .ic, .out] s t)
      ∧ (∀ code, refuse ((!s.fb ADM_FW_CFG_ready, 0x0F) :: judge s o.cmd.words) = some code → (st = .ring → s.ringReports) →
        ∃ t, exec c s = .next t ∧ admReported st o code 0 t ∧ t.mr = s.mr ∧ t.pd = s.pd ∧ t.mem = s.mem))
    ∧ (∀ (st : Stream) (s : State) (o : AdmOpen), s.adm.fw = some st → s.admOf st = some o → s.admOf (otherStream st) = none →
      s.run = true → (st = .ring → s.ringReports) →
      (s.f ADM_FW_CFG_timeout ≠ 0 →
        ∃ t, exec .fwTimeout s = .next t ∧ admReported st o 0x10 0 t ∧ t.adm.fw = none ∧ t.f ADM_FW_CFG_pending = 0)
      ∧ (∀ w : W64, bits w.toNat 40 16 = s.f ADM_FW_CFG_seq →
        ∃ t, exec (.admFwDone w) s = .next t ∧ admReported st o (bits w.toNat 0 8) (bits w.toNat 8 32) t ∧ t.adm.fw = none
          ∧ t.f ADM_FW_CFG_pending = 0)
      ∧ (∀ w : W64, bits w.toNat 40 16 ≠ s.f ADM_FW_CFG_seq →
        ∃ t, exec (.admFwDone w) s = .next t ∧ t.f ADM_FW_CFG_late = satAdd 16 (s.f ADM_FW_CFG_late) 1 ∧ onlyChanges [.regs] s t))

/-- Enabling the ring stream in RUN with legal fields makes the admin queue READY and CQID 0 ACTIVE, every index 0, and enable 1;
outside RUN or with an illegal field enable stays 0 and cfg_err is 1 (outside RUN but in HELD the model's choice, log entry
40). Disabling with no command open stops the queue and clears enable, and CQID 0's context stays (the model's choice, log
entry 40); with one open it waits. A free COB lock is taken by the core named, and a write of 0 releases it. A COB start while
not busy, in RUN, opens the command in ADM_COB_CMD, or ends it with BAD_CMD. -/
def Obligations.AdminStreamsAreSwitched : Prop :=
  ∀ (w : W64) (s : State), s.served = true →
    (s.fb ADM_CFG_enable = false → (s.admFields w).run = true → (s.admFields w).admFieldsOk = true →
      ∃ t, exec (.admEnable w) s = .next t ∧ t.f ADM_CFG_enable = 1 ∧ t.f ADM_CFG_cfg_err = 0 ∧ (t.qctx 0).state = .ready
        ∧ (t.qctx 0).pi = 0 ∧ (t.qctx 0).snap = 0 ∧ (t.qctx 0).fetch = 0 ∧ (t.qctx 0).ci = 0 ∧ (t.cctx 0).state = .active
        ∧ (t.cctx 0).pi = 0 ∧ (t.cctx 0).ci = 0 ∧ t.adm.fetched = [] ∧ t.adm.ring = none ∧ keepsQueues 0 s t ∧ keepsRings 0 s t
        ∧ (s.fb PAT_STAT_clearing = false → t.mem = s.mem)
        ∧ onlyChanges [.regs, .q, .cq, .cqs, .cache, .adm, .pat, .mem] s t)
    ∧ (s.fb ADM_CFG_enable = false → ((s.admFields w).run = false ∨ (s.admFields w).admFieldsOk = false) →
      ∃ t, exec (.admEnable w) s = .next t ∧ t.f ADM_CFG_enable = 0 ∧ t.f ADM_CFG_cfg_err = 1 ∧ onlyChanges [.regs] s t)
    ∧ (s.fb ADM_CFG_enable = true →
      (s.adm.ring = none → ∃ t, exec (.admDisable w) s = .next t ∧ t.f ADM_CFG_enable = 0
        ∧ t.qctx 0 = { s.qctx 0 with state := .stopped } ∧ t.adm.fetched = [] ∧ keepsQueues 0 s t ∧ onlyChanges [.regs, .q, .adm] s t)
      ∧ (s.adm.ring ≠ none → ∃ t, exec (.admDisable w) s = .next t ∧ t.adm = { s.adm with disabling := true } ∧ onlyChanges [.adm] s t))
    ∧ (bits w.toNat 0 3 = 0 → ∃ t, exec (.admCobLock w) s = .next t ∧ t.f ADM_COB_LOCK_holder = 0 ∧ onlyChanges [.regs] s t)
    ∧ (0 < bits w.toNat 0 3 → bits w.toNat 0 3 ≤ 4 → s.f ADM_COB_LOCK_holder = 0 →
      ∃ t, exec (.admCobLock w) s = .next t ∧ t.f ADM_COB_LOCK_holder = bits w.toNat 0 3 ∧ onlyChanges [.regs] s t)
    ∧ (bit w.toNat 0 = true → s.run = true → s.f ADM_COB_RES_busy = 0 →
      (admCause false ((List.range 8).map (fun k => s.reg (ADM_COB_CMD k))) = none →
        ∃ t o, exec (.admCobGo w) s = .next t ∧ t.adm.cob = some o ∧ o.cmd.words = (List.range 8).map (fun k => s.reg (ADM_COB_CMD k))
          ∧ o.begun = false ∧ o.cmd.idx = s.adm.cobCount ∧ t.adm.cobCount = s.adm.cobCount + 1 ∧ t.f ADM_COB_RES_busy = 1
          ∧ onlyChanges [.regs, .adm] s t)
      ∧ (admCause false ((List.range 8).map (fun k => s.reg (ADM_COB_CMD k))) ≠ none →
        ∃ t, exec (.admCobGo w) s = .next t ∧ t.f ADM_COB_RES_busy = 0 ∧ t.f ADM_COB_RES_done = 1 ∧ t.f ADM_COB_RES_adm_status = 0x11
          ∧ t.adm.cob = none))

/-- Outside a halt, and where no reduction unit leaves: a phase samples the requests that the state raises, and its outcome u is
that of the arbitration, after which the owners use their channels (nothing more where only requesters beyond the engines own
one and no fold, fetch, fill or record waits). In u, of a frozen resource every channel keeps its owner while that owner is
heard, and a free channel stays free; with one heard requester that owned nothing, and not frozen, that requester owns a
channel. A pending commit copies every shadow rank and the mode of the resource and clears its pending bit. A take at a break
point passes the channel to its candidate, makes the victim a candidate outside a halt, counts the take and leaves the other
channels alone, before the owners go on. -/
def Obligations.ArbitrationPhases : Prop :=
  (∀ (res : Nat) (cob : Bool) (s : State), res < 7 → s.halted = false → (res = 4 → s.spr.leaving = []) →
      let u := s.arbPhase res (s.raised res cob) (s.inFlight res)
      exec (.arbPhase res cob) s = .next (u.wakeAll res)
        ∧ (res < 5 → (∀ y ∈ u.owned res, 68 ≤ y.2.req) → u.arb.folds = [] → u.fetchDue = [] → u.sought = [] → u.cqs.issued = [] → exec (.arbPhase res cob) s = .next u)
        ∧ (s.fb (ARB_CTL_freeze res) = true → ∀ c,
            (s.ownerOf res c = none → u.ownerOf res c = none)
            ∧ (∀ o, s.ownerOf res c = some o → o.req ∈ s.heard res (s.raised res cob) → (u.ownerOf res c).map (·.req) = some o.req))
        ∧ (s.fb (ARB_CTL_freeze res) = false → ∀ x, s.heard res (s.raised res cob) = [x] → (∀ y ∈ s.owned res, y.2.req ≠ x) →
            s.channels res ≠ [] → ∃ c, c ∈ s.channels res ∧ (u.ownerOf res c).map (·.req) = some x)
        ∧ (bit (s.f ARB_COMMIT_pending) res = true →
            (∀ r, arbListed res r = true → u.f (ARB_RANK_active res r) = s.f (ARB_RANK_rank res r))
            ∧ u.f (ARB_CTL_mode_active res) = s.f (ARB_CTL_mode res) ∧ bit (u.f ARB_COMMIT_pending) res = false)
        ∧ keepsMemory s u ∧ onlyChanges [.regs, .ic, .arb, .trace, .err, .spr, .out, .pat, .mem] s u)
    ∧ (∀ (res c x : Nat) (o : Owner) (s : State), res < 7 → s.ownerOf res c = some o → o.take = some x → x ∈ s.candOf res →
      c ∈ s.channels res → s.inFlight res o.req = false →
      let u := s.takeChannel res c o x
      exec (.channelTake res c) s = .next (u.wakeAll res)
        ∧ (res < 5 → (∀ y ∈ u.owned res, 68 ≤ y.2.req) → u.arb.folds = [] → u.fetchDue = [] → u.sought = [] → u.cqs.issued = [] → exec (.channelTake res c) s = .next u)
        ∧ (u.ownerOf res c).map (·.req) = some x
        ∧ (∀ k, k ≠ c → u.ownerOf res k = s.ownerOf res k) ∧ (s.halted = false → o.req ∈ u.candOf res)
        ∧ u.f (ARB_STAT_takes res) = satAdd (ARB_STAT_takes res).w (s.f (ARB_STAT_takes res)) 1
        ∧ keepsMemory s u ∧ onlyChanges [.regs, .arb, .trace, .pat, .mem] s u)

/-- When an owner's idle count has reached its limit, outside a hard halt, the bite frees that channel and leaves the owners of
the resource's others. For FOLD and COB the bite is counted and named in ARB_WDOG_LAST, source 41 counts one event and the
last thing presented is the refusal of the fold that FOLD has in hand there or the core's error; that the error names no core,
and that COB's requests alone stay refused until they drop, are the model's choices (log entry 23). For TRACE, trace stops as
failed; an engine not yet retired is; an internal requester outside a halt halts the mover with cause 2. A write of commit
bits adds them to the pending ones; a write of freeze stores it; a slot commit sets pending: each changes no other register
word. A slot step moves the position on by one modulo 256, changes no owner's requester, counts each wrap, and at the wrap
makes a pending shadow table and slot length active and clears pending; without a pending commit, or before the wrap, the
active table stays. -/
def Obligations.ArbiterWatchdogAndControls : Prop :=
  (∀ (res c : Nat) (o : Owner) (s : State), res < 7 → s.ownerOf res c = some o → 2 ^ s.f (ARB_CTL_wdog_log2 res) ≤ o.idle → s.pair.hard = false →
    ∃ t, exec (.wdogBite res c) s = .next t ∧ t.ownerOf res c = none
      ∧ (∀ k, k ≠ c → (t.ownerOf res k).map (·.req) = (s.ownerOf res k).map (·.req))
      ∧ (o.req = 78 → (res, 78) ∈ t.arb.refused)
      ∧ ((o.req = 75 ∧ s.foldInHand res ≠ none ∨ o.req = 78) →
          t.f (ARB_STAT_wdog_bites res) = satAdd (ARB_STAT_wdog_bites res).w (s.f (ARB_STAT_wdog_bites res)) 1
          ∧ t.f ARB_WDOG_LAST_res = res ∧ t.f ARB_WDOG_LAST_req = o.req
          ∧ t.f ARB_WDOG_LAST_count = satAdd ARB_WDOG_LAST_count.w (s.f ARB_WDOG_LAST_count) 1
          ∧ t.f (IC_CNT_count 41) = min 255 (s.f (IC_CNT_count 41) + 1)
          ∧ t.out.getLast? = some (if o.req = 75 then .foldResponse 5 else .cobError none)
          ∧ keepsMemory s t ∧ onlyChanges [.regs, .ic, .arb, .trace, .err, .out, .pat, .mem] s t)
      ∧ (o.req = 76 → t.f TB_TRACE_CFG_on = 0 ∧ t.trace.failed = true ∧ keepsMemory s t ∧ onlyChanges [.regs, .ic, .arb, .trace, .err, .out, .pat, .mem] s t)
      ∧ (o.req < 68 → s.engSt o.req ≠ 7 → t.engSt o.req = 7 ∧ t.f (SPR_ENG_HEALTH_reason o.req) = 1)
      ∧ (68 ≤ o.req → o.req ∉ [75, 76, 78] → s.halted = false → t.halted = true ∧ t.f PAIR_HALT_halt_cause = 2))
    ∧ ((∀ (w : W64) (s : State), s.served = true →
      ∃ t, exec (.arbCommit w) s = .next t ∧ t.f ARB_COMMIT_pending = s.f ARB_COMMIT_pending ||| w.toNat % 128
        ∧ keepsRegs (fun o => o = ARB_COMMIT) s t ∧ onlyChanges [.regs] s t)
    ∧ (∀ (res : Nat) (on : Bool) (s : State), s.served = true → res < 7 →
      ∃ t, exec (.arbFreeze res on) s = .next t ∧ t.fb (ARB_CTL_freeze res) = on ∧ t.f (ARB_CTL_mode res) = s.f (ARB_CTL_mode res)
        ∧ t.f (ARB_CTL_wdog_log2 res) = s.f (ARB_CTL_wdog_log2 res)
        ∧ keepsRegs (fun o => o = ARB_CTL res) s t ∧ onlyChanges [.regs] s t)
    ∧ (∀ (res : Nat) (s : State), s.served = true → res < 7 →
      ∃ t, exec (.slotCommit res) s = .next t ∧ t.f (ARB_SLOT_CFG_pending res) = 1 ∧ t.f (ARB_SLOT_CFG_position res) = s.f (ARB_SLOT_CFG_position res)
        ∧ keepsRegs (fun o => o = ARB_SLOT_CFG res) s t ∧ onlyChanges [.regs] s t)
    ∧ (∀ (res : Nat) (s : State), res < 7 →
      ∃ t, exec (.slotAdvance res) s = .next t ∧ t.f (ARB_SLOT_CFG_position res) = (s.f (ARB_SLOT_CFG_position res) + 1) % 256
        ∧ (∀ c, (t.ownerOf res c).map (·.req) = (s.ownerOf res c).map (·.req))
        ∧ t.f (ARB_SLOT_CFG_wraps res) = (if s.f (ARB_SLOT_CFG_position res) = 255
            then satAdd (ARB_SLOT_CFG_wraps res).w (s.f (ARB_SLOT_CFG_wraps res)) 1 else s.f (ARB_SLOT_CFG_wraps res))
        ∧ (∀ k, k < 256 → t.f (ARB_SLOT_active res k) = (if s.f (ARB_SLOT_CFG_position res) = 255 ∧ s.fb (ARB_SLOT_CFG_pending res) = true
            then s.f (ARB_SLOT_req res k) else s.f (ARB_SLOT_active res k)))
        ∧ (s.f (ARB_SLOT_CFG_position res) = 255 → t.f (ARB_SLOT_CFG_pending res) = 0)
        ∧ onlyChanges [.regs, .arb] s t))

/-- A read of IC_CLAIM[t]: of the sources 1 to 1023 that signal at t, the one of highest priority, and among equals of lowest
number, is returned, set active, its count lowered by one (0 stays 0), its pending bit and sent flag cleared, and it is pushed
with its priority on t's stack. Counts, active and pending bits of every other source, other stacks and every register below
the controller's are unchanged. With no source signalling at t it returns 0, counts a spurious claim and changes nothing else. -/
def Obligations.ClaimTakesTheSource : Prop :=
  ∀ (g : Nat) (s : State), g < 8 → s.served = true →
    (∀ n, 0 < n → n < 1024 → s.signals n = true → s.srcTgt n = g →
      (∀ m, 0 < m → m < 1024 → m ≠ n → s.signals m = true → s.srcTgt m = g →
        s.f (IC_SRC_CFG_prio m) < s.f (IC_SRC_CFG_prio n) ∨ (s.f (IC_SRC_CFG_prio m) = s.f (IC_SRC_CFG_prio n) ∧ n < m)) →
      ∃ t, exec (.icClaim g) s = .next t ∧ t.lastRead = [BitVec.ofNat 64 n]
        ∧ t.stack g = (n, s.f (IC_SRC_CFG_prio n)) :: s.stack g ∧ (∀ k, k ≠ g → t.stack k = s.stack k)
        ∧ t.srcActive n = true ∧ t.f (IC_CNT_count n) = s.f (IC_CNT_count n) - 1 ∧ t.pend n = false ∧ t.f (IC_CNT_sent n) = 0
        ∧ (∀ m, m < 1024 → m ≠ n → t.f (IC_CNT_count m) = s.f (IC_CNT_count m) ∧ t.srcActive m = s.srcActive m ∧ t.pend m = s.pend m)
        ∧ keepsRegs (fun o => 0x40000 ≤ o) s t ∧ onlyChanges [.regs, .ic, .out, .lastRead] s t)
    ∧ ((∀ m, 0 < m → m < 1024 → s.signals m = true → s.srcTgt m ≠ g) →
      ∃ t, exec (.icClaim g) s = .next t ∧ t.lastRead = [0]
        ∧ t.f (IC_TGT_STAT_spurious g) = satAdd (IC_TGT_STAT_spurious g).w (s.f (IC_TGT_STAT_spurious g)) 1
        ∧ keepsRegs (fun o => o = IC_TGT_STAT g) s t ∧ onlyChanges [.regs, .lastRead] s t)

/-- A write to IC_EOI[t] with an entry pushed pops the top one; its source stops being active; a value that differs from that
source is counted in eoi_bad and the pop still takes place; then the pending bit of every source 1 to 1023 routed to t that is
not active is 1 exactly when its count is above 0, and every other pending bit, every count and every other active bit and
stack is unchanged. With no entry pushed the write is counted in eoi_bad and nothing else changes. A resync re-derives the
same pending bits without a pop. -/
def Obligations.EndOfInterruptPops : Prop :=
  ∀ (g : Nat) (src : BitVec 10) (s : State), g < 8 → s.served = true →
    (s.stack g = [] → exec (.icEoi g src) s = .next (s.cnt (IC_TGT_STAT_eoi_bad g)))
    ∧ (∀ x r, s.stack g = x :: r →
      ∃ t, exec (.icEoi g src) s = .next t ∧ t.stack g = r ∧ (∀ k, k ≠ g → t.stack k = s.stack k) ∧ t.srcActive x.1 = false
        ∧ t.f (IC_TGT_STAT_eoi_bad g) = (if src.toNat = x.1 then s.f (IC_TGT_STAT_eoi_bad g)
            else satAdd (IC_TGT_STAT_eoi_bad g).w (s.f (IC_TGT_STAT_eoi_bad g)) 1)
        ∧ (∀ n, 0 < n → n < 1024 → s.srcTgt n = g → t.srcActive n = false → t.pend n = decide (0 < s.f (IC_CNT_count n)))
        ∧ (∀ n, n < 1024 → (s.srcTgt n ≠ g ∨ t.srcActive n = true) → t.pend n = s.pend n)
        ∧ (∀ n, n < 1024 → t.f (IC_CNT_count n) = s.f (IC_CNT_count n) ∧ (n ≠ x.1 → t.srcActive n = s.srcActive n))
        ∧ onlyChanges [.regs, .ic, .out] s t)
    ∧ (∃ t, exec (.resync g) s = .next t ∧ (∀ k, t.stack k = s.stack k)
        ∧ (∀ n, 0 < n → n < 1024 → s.srcTgt n = g → s.srcActive n = false → t.pend n = decide (0 < s.f (IC_CNT_count n)))
        ∧ (∀ n, n < 1024 → (s.srcTgt n ≠ g ∨ s.srcActive n = true) → t.pend n = s.pend n)
        ∧ (∀ n, n < 1024 → t.f (IC_CNT_count n) = s.f (IC_CNT_count n) ∧ t.srcActive n = s.srcActive n)
        ∧ onlyChanges [.regs, .ic, .out] s t)

/-- IC_SET of 0 has no effect; of another source it adds one event: the count rises to at most 255, a source that is not active
becomes pending, the event that reaches 255 makes a storm, and one that finds 255 is only counted as dropped. An external
line's assertion while low, and its re-arm in level mode, add an event to source n + 1; a glitch is counted and the first
raises source 55; a deassertion lowers the level. A clear zeroes a source's count and pending bit and no other's. When the
latest message of a source fails, it is counted with the vector it went with, is no longer outstanding, leaves in memory what
stood at its address, and raises source 56 unless it is source 56's own; the counts of every source but 54 and 56 are
unchanged. That a message stands in memory before it fails is the model's choice (log entry 51). WAIT and DOZE put core c to
sleep unless its wake condition holds, which is then counted as a wake; a sleeping core whose wake condition holds resumes and
the wake is counted. No source changes by it. -/
def Obligations.EventsAndMessages : Prop :=
  ((∀ (src : BitVec 10) (s : State), s.served = true →
      (src = 0 → exec (.icSet src) s = .next s)
      ∧ (src ≠ 0 → ∃ t, exec (.icSet src) s = .next t
        ∧ t.f (IC_CNT_count src.toNat) = min 255 (s.f (IC_CNT_count src.toNat) + 1)
        ∧ (s.f (IC_CNT_count src.toNat) ≠ 255 → s.srcActive src.toNat = false → t.pend src.toNat = true)
        ∧ (s.f (IC_CNT_count src.toNat) = 254 → src.toNat ≠ 54 → t.f IC_STORM_count = satAdd IC_STORM_count.w (s.f IC_STORM_count) 1
            ∧ t.f IC_STORM_last_src = src.toNat ∧ t.f (IC_CNT_count 54) = min 255 (s.f (IC_CNT_count 54) + 1))
        ∧ (s.f (IC_CNT_count src.toNat) = 255 → t.f IC_STORM_dropped = satAdd IC_STORM_dropped.w (s.f IC_STORM_dropped) 1
            ∧ ∀ m, m < 1024 → t.f (IC_CNT_count m) = s.f (IC_CNT_count m) ∧ t.pend m = s.pend m)
        ∧ keepsRegs (fun o => 0x40000 ≤ o ∧ o < 0x50000) s t ∧ onlyChanges [.regs, .ic, .out] s t))
    ∧ (∀ (n : Nat) (s : State), n < 16 → s.served = true →
      (s.fb (IC_LINE_STATE_level n) = false → ∃ t, exec (.extIntAssert n) s = .next t ∧ t.f (IC_LINE_STATE_level n) = 1
        ∧ t.f (IC_CNT_count (n + 1)) = min 255 (s.f (IC_CNT_count (n + 1)) + 1) ∧ onlyChanges [.regs, .ic, .out] s t)
      ∧ (s.fb (IC_LINE_STATE_level n) = true → s.fb (IC_LINE_CFG_mode n) = true → ∃ t, exec (.extIntRearm n) s = .next t
        ∧ t.f (IC_LINE_STATE_level n) = 1
        ∧ t.f (IC_CNT_count (n + 1)) = min 255 (s.f (IC_CNT_count (n + 1)) + 1) ∧ onlyChanges [.regs, .ic, .out] s t)
      ∧ (∃ t, exec (.extIntGlitch n) s = .next t
        ∧ t.f (IC_LINE_STATE_glitches n) = satAdd (IC_LINE_STATE_glitches n).w (s.f (IC_LINE_STATE_glitches n)) 1
        ∧ t.f (IC_LINE_STATE_level n) = s.f (IC_LINE_STATE_level n)
        ∧ t.f (IC_CNT_count 55) = (if s.f (IC_LINE_STATE_glitches n) = 0 then min 255 (s.f (IC_CNT_count 55) + 1) else s.f (IC_CNT_count 55))
        ∧ onlyChanges [.regs, .ic, .out] s t)
      ∧ (∃ t, exec (.extIntDeassert n) s = .next t ∧ t.f (IC_LINE_STATE_level n) = 0
        ∧ t.f (IC_LINE_STATE_glitches n) = s.f (IC_LINE_STATE_glitches n)
        ∧ keepsRegs (fun o => o = IC_LINE_STATE n) s t ∧ onlyChanges [.regs] s t))
    ∧ (∀ (n : Nat) (s : State), 0 < n → n < 1024 → s.served = true →
      ∃ t, exec (.icCntClear n) s = .next t ∧ t.f (IC_CNT_count n) = 0 ∧ t.pend n = false ∧ t.srcActive n = s.srcActive n
        ∧ (∀ m, m < 1024 → m ≠ n → t.f (IC_CNT_count m) = s.f (IC_CNT_count m) ∧ t.pend m = s.pend m ∧ t.srcActive m = s.srcActive m)
        ∧ (∀ k, t.stack k = s.stack k) ∧ onlyChanges [.regs, .ic, .out] s t))
    ∧ ((∀ (n : Nat) (m : HostMsg) (s : State), s.msgOf n = some m →
      ∃ t, exec (.msgFail n) s = .next t ∧ t.f IC_MSG_STAT_failed = satAdd IC_MSG_STAT_failed.w (s.f IC_MSG_STAT_failed) 1
        ∧ t.f IC_MSG_STAT_last_vec = m.vector % 2 ^ 12 ∧ (m.landed = false → t.mem = s.mem)
        ∧ (m.landed = true → t.mem = (s.writeHost none m.addr m.old false).mem)
        ∧ t.f (IC_CNT_count 56) = (if n = 56 then s.f (IC_CNT_count 56) else min 255 (s.f (IC_CNT_count 56) + 1))
        ∧ (∀ k, k < 1024 → k ∉ [54, 56] → t.f (IC_CNT_count k) = s.f (IC_CNT_count k) ∧ t.pend k = s.pend k)
        ∧ (∀ k, t.stack k = s.stack k) ∧ onlyChanges [.regs, .ic, .err, .out, .mem, .pat] s t)
    ∧ (∀ (c : Nat) (s : State), c < 4 →
      (s.served = true → s.wakes c = false →
        (∃ t, exec (.cobWait c) s = .next t ∧ t.f (COB_PWR_state c) = 1 ∧ t.f (COB_PWR_wakes c) = s.f (COB_PWR_wakes c)
          ∧ keepsRegs (fun o => o = COB_PWR c) s t ∧ onlyChanges [.regs] s t)
        ∧ (∃ t, exec (.cobDoze c) s = .next t ∧ t.f (COB_PWR_state c) = 2 ∧ t.f (COB_PWR_wakes c) = s.f (COB_PWR_wakes c)
          ∧ keepsRegs (fun o => o = COB_PWR c) s t ∧ onlyChanges [.regs] s t))
      ∧ (s.served = true → s.wakes c = true →
        (∃ t, exec (.cobWait c) s = .next t ∧ t.f (COB_PWR_state c) = s.f (COB_PWR_state c)
          ∧ t.f (COB_PWR_wakes c) = satAdd (COB_PWR_wakes c).w (s.f (COB_PWR_wakes c)) 1
          ∧ keepsRegs (fun o => o = COB_PWR c) s t ∧ onlyChanges [.regs] s t)
        ∧ (∃ t, exec (.cobDoze c) s = .next t ∧ t.f (COB_PWR_state c) = s.f (COB_PWR_state c)
          ∧ t.f (COB_PWR_wakes c) = satAdd (COB_PWR_wakes c).w (s.f (COB_PWR_wakes c)) 1
          ∧ keepsRegs (fun o => o = COB_PWR c) s t ∧ onlyChanges [.regs] s t))
      ∧ (s.fb (COB_PWR_state c) = true → s.wakes c = true →
        ∃ t, exec (.cobWake c) s = .next t ∧ t.f (COB_PWR_state c) = 0
          ∧ t.f (COB_PWR_wakes c) = satAdd (COB_PWR_wakes c).w (s.f (COB_PWR_wakes c)) 1
          ∧ keepsRegs (fun o => o = COB_PWR c) s t ∧ onlyChanges [.regs] s t)))

/-- RESET_ASSERT, and a keyed HARD_RESET while registers are served, leave every register at its reset value, no object, the
outputs stopped, and host memory, in-package memory and, with no program running, flash as they were. A keyed soft reset
outside RUN, or with hard set, resets at once; soft alone keeps the RWS fields of every register, the error log queue with the
records that are still to be written, and each region's tag. In RUN it halts the mover with cause 3 and waits. A write without
the key or without the command's bit changes nothing. That seq goes on counting over a soft reset is the model's choice (log
entry 52). -/
def Obligations.ResetsKeepWhatTheyKeep : Prop :=
  (∀ s : State, ∃ t, exec .resetAssert s = .next t ∧ (∀ o, t.reg o = regReset o) ∧ t.phase = 0
      ∧ (∀ k, t.qctx k = QCtx.zero) ∧ (∀ k, t.cctx k = CqCtx.zero) ∧ (∀ k, t.mrOf k = Region.zero) ∧ t.fl = [] ∧ t.pd = []
      ∧ t.pins.haltOut = true ∧ t.pins.ppsOut = false ∧ t.mem.host = s.mem.host ∧ t.mem.pkg = s.mem.pkg ∧ t.mem.syn = s.mem.syn
      ∧ (s.fb PAT_STAT_busy = false → t.mem = s.mem) ∧ t.memSize = s.memSize
      ∧ (∀ a, ¬ (copyBase s.pat.progCopy ≤ a ∧ a < copyBase s.pat.progCopy + 2 ^ 22) → imgLen (s.imgRead 2) ≤ 2 ^ 22 → t.flashByte a = s.flashByte a)
      ∧ (∀ w, s.served = true → resetKey w = true → bit w.toNat 1 = true →
          exec (.hardReset w) s = .next t ∧ (bit w.toNat 0 = true → exec (.softReset w) s = .next t)))
    ∧ (∀ (w : W64) (s : State), s.served = true → resetKey w = true → bit w.toNat 0 = true → bit w.toNat 1 = false →
      (s.run = false → ∃ t, exec (.softReset w) s = .next t ∧ t.phase = 0 ∧ t.err.log = s.err.log ∧ t.err.seq = s.err.seq ∧ t.err.wait = s.err.wait ++ s.sealedNow ∧ t.err.now = []
          ∧ (∀ o, o ≠ PAT_STAT → o ≠ PAIR_STAT → t.reg o = keepRws o (s.reg o))
          ∧ t.f PAT_WIN_BASE_base = s.f PAT_WIN_BASE_base
          ∧ (∀ i, i < 2 → t.reg (SPR_ENG_RETIRED i) = s.reg (SPR_ENG_RETIRED i)) ∧ t.reg IZ_SCHED_CFG = regReset IZ_SCHED_CFG
          ∧ (∀ k, t.mrOf k = { Region.zero with tag := (s.mrOf k).tag }) ∧ (∀ k, t.qctx k = QCtx.zero) ∧ (∀ k, t.cctx k = CqCtx.zero) ∧ t.fl = []
          ∧ t.mem.host = s.mem.host ∧ t.mem.pkg = s.mem.pkg ∧ (s.fb PAT_STAT_busy = false → t.mem = s.mem))
      ∧ (s.run = true → ∃ t, exec (.softReset w) s = .next t ∧ t.halted = true ∧ t.f PAIR_HALT_halt_cause = 3 ∧ t.pat.resetWait = true
          ∧ t.pins.haltOut = true ∧ t.mem = s.mem ∧ t.q = s.q ∧ t.fl = s.fl))
    ∧ (∀ (w : W64) (s : State), ((resetKey w = false ∨ bit w.toNat 0 = false) → exec (.softReset w) s = .next s)
      ∧ ((resetKey w = false ∨ bit w.toNat 1 = false) → exec (.hardReset w) s = .next s))

/-- The startup commands, each in its phase: the deassertion samples the pair's inputs, sizes memory, reads fuses unless a soft
reset preceded, retires the units that fail, and goes to phase 1; SFDP gives phase 2, and for a flash with a 1-1-4 read its
density, opcode, dummy cycles and clock (the layout of JESD216's table is the model's, log entry 39); the selection takes the
newer copy that passes, or the one that does, into phase 3, or enters HELD (6); a sound full read gives phase 4; a VALID
judgement gives 5; a failure there takes the other copy that passed, or HELD; the apply gives RUN with outputs started, the
copy's number and generation shown, and the admin queue STOPPED. -/
def Obligations.StartupRunsItsSteps : Prop :=
  (∀ (b : Boot) (s : State), s.phase = 0 →
      ∃ t, exec (.resetDeassert b) s = .next t ∧ t.phase = 1 ∧ t.memSize = b.memSize ∧ t.role = b.role ∧ t.fb PAIR_STAT_fellow_alive = b.fellowAlive
        ∧ t.fb PAIR_STAT_halt_in = b.haltIn
        ∧ (s.pat.bySoft = false → t.fb PAT_STAT_sig_required = b.sigRequired ∧ t.fb PAT_STAT_key_programmed = b.keyProgrammed ∧ t.pat.keyHash = b.keyHash)
        ∧ (s.pat.bySoft = true → t.f PAT_STAT_sig_required = s.f PAT_STAT_sig_required ∧ t.pat.keyHash = s.pat.keyHash)
        ∧ (∀ e, e < 68 → e ∈ b.badEngines → t.engSt e = 7)
        ∧ (b.badEngines = [] → s.reg (SPR_ENG_RETIRED 0) = 0 → s.reg (SPR_ENG_RETIRED 1) = 0 → ∀ e, e < 68 → t.engSt e = if e < 64 then 0 else 4)
        ∧ onlyChanges [.regs, .pat, .memSize, .arb] s t)
    ∧ (∀ (i : Sfdp) (s : State), s.phase = 1 →
      ∃ t, exec (.sfdpReadDone i) s = .next t ∧ t.phase = 2 ∧ t.pat.present = sfdpPresent i ∧ t.pat.csBase = s.pat.csBase ∧ t.pat.keyHash = s.pat.keyHash
        ∧ (sfdpPresent i = true → t.f PAT_FLASH_density_log2 = sfdpDensity i % 64 ∧ t.fb PAT_FLASH_four_byte = sfdpFourByte i
            ∧ (∀ k, sfdpClock i = some k → t.f PAT_FLASH_clock = min 133 k) ∧ t.pat.readOp = bits (sfdpDword i 3) 24 8
            ∧ t.pat.dummy = bits (sfdpDword i 3) 16 5 + bits (sfdpDword i 3) 21 3)
        ∧ (sfdpPresent i = false → t.reg PAT_FLASH = s.reg PAT_FLASH)
        ∧ keepsRegs (fun o => o = PAT_STAT ∨ o = PAT_FLASH) s t ∧ onlyChanges [.regs, .pat, .free] s t)
    ∧ (∀ s : State, s.phase = 2 →
      ∃ t, exec .copySelect s = .next t ∧ onlyChanges [.regs, .pat, .free] s t
        ∧ (s.copyPasses 0 → s.copyPasses 1 → t.phase = 3 ∧ t.pat.cand = some (if newerB (imgGen (s.imgRead 0)) (imgGen (s.imgRead 1)) then 1 else 0))
        ∧ (s.copyPasses 0 → ¬ s.copyPasses 1 → t.phase = 3 ∧ t.pat.cand = some 0) ∧ (¬ s.copyPasses 0 → s.copyPasses 1 → t.phase = 3 ∧ t.pat.cand = some 1)
        ∧ (¬ s.copyPasses 0 → ¬ s.copyPasses 1 → t.phase = 6 ∧ t.pat.cand = none))
    ∧ (∀ (c : Nat) (s : State), c < 2 → s.pat.cand = some c →
      (s.phase = 3 → (readSound (s.imgRead c) = true → ∃ t, exec .copyReadDone s = .next t ∧ t.phase = 4 ∧ keepsRegs (fun o => o = PAT_STAT) s t ∧ onlyChanges [.regs] s t)
        ∧ (readSound (s.imgRead c) = false → ∃ t, exec .copyReadDone s = .next t ∧ s.otherCopyTried c t))
      ∧ (s.phase = 4 → ((s.judgeImage (s.imgRead c)).1 = 1 → ∃ t, exec .patternVerifyDone s = .next t ∧ t.phase = 5 ∧ t.f (PAT_COPY_status c) = 1
            ∧ t.f (PAT_COPY_generation c) = imgGen (s.imgRead c) % 2 ^ 32 ∧ keepsRegs (fun o => o = PAT_STAT ∨ o = PAT_COPY c) s t ∧ onlyChanges [.regs, .free] s t)
        ∧ ((s.judgeImage (s.imgRead c)).1 ≠ 1 → ∃ t, exec .patternVerifyDone s = .next t ∧ s.otherCopyTried c t))
      ∧ (s.phase = 5 → ∃ t, exec .patternApply s = .next t ∧ t.run = true ∧ t.f PAT_STAT_chosen = c + 1
          ∧ t.f PAT_STAT_generation = imgGen (s.imgRead c) % 2 ^ 32 ∧ t.fb PAT_STAT_clearing = true ∧ t.pins = { s.pins with haltOut := false }
          ∧ (t.qctx 0).state = .stopped ∧ (∀ k, k ≠ 0 → t.qctx k = s.qctx k) ∧ t.pat.bySoft = s.pat.bySoft ∧ (s.fb TB_TRACE_CFG_on = false → t.mem = s.mem)
          ∧ onlyChanges [.regs, .q, .ic, .tb, .trace, .pat, .lace, .pins, .mem, .out] s t))

/-- A keyed apply in HELD, idle, of a VALID window starts outputs with chosen 3 and result 1; a window that is not VALID gives
result 4 and stays HELD; outside HELD, or when busy, or apply and program together, result 2; a wrong key result 3; these
change nothing but PAT_STAT. A keyed program in HELD or RUN of a VALID window sets busy and lifts write protection; result 4,
7 or 5 names the refusal and memory stays. A program that ends whole leaves the image in its copy, an incomplete one whole
pages of it before its trailer, then erased bytes, and no other flash byte changed; it protects again and reports 1, or 6.
That results 2 and 3 raise no PAT_DONE, and that the window is applied in one step, are the model's choices (log entry 52). -/
def Obligations.WindowIsAppliedAndProgrammed : Prop :=
  (∀ (w : W64) (s : State), s.served = true → bit w.toNat 0 = true →
      (resetKey w = false → ∃ t, exec (.patApply w) s = .next t ∧ t.f PAT_STAT_result = 3 ∧ t.phase = s.phase ∧ keepsRegs (fun o => o = PAT_STAT) s t ∧ onlyChanges [.regs] s t)
      ∧ (resetKey w = true → (bit w.toNat 1 = true ∨ s.fb PAT_STAT_busy = true ∨ s.phase ≠ 6) →
          ∃ t, exec (.patApply w) s = .next t ∧ t.f PAT_STAT_result = 2 ∧ t.phase = s.phase ∧ keepsRegs (fun o => o = PAT_STAT) s t ∧ onlyChanges [.regs] s t)
      ∧ (resetKey w = true → bit w.toNat 1 = false → s.fb PAT_STAT_busy = false → s.phase = 6 →
          ((s.judgeImage (s.imgRead 2)).1 = 1 → ∃ t, exec (.patApply w) s = .next t ∧ t.run = true ∧ t.f PAT_STAT_chosen = 3 ∧ t.f PAT_STAT_result = 1
            ∧ t.f PAT_STAT_generation = imgGen (s.imgRead 2) % 2 ^ 32 ∧ (s.fb TB_TRACE_CFG_on = false → t.mem = s.mem))
          ∧ ((s.judgeImage (s.imgRead 2)).1 ≠ 1 → ∃ t, exec (.patApply w) s = .next t ∧ t.phase = 6 ∧ t.f PAT_STAT_result = 4
            ∧ t.f (PAT_COPY_status 2) = (s.judgeImage (s.imgRead 2)).1 ∧ t.f (IC_CNT_count 53) = min 255 (s.f (IC_CNT_count 53) + 1)
            ∧ onlyChanges [.regs, .ic, .out, .free] s t)))
    ∧ (∀ (w : W64) (s : State), s.served = true → bit w.toNat 1 = true → bit w.toNat 0 = false → resetKey w = true → s.fb PAT_STAT_busy = false → (s.phase = 6 ∨ s.phase = 7) →
      ∃ t, exec (.patProgram w) s = .next t ∧ t.phase = s.phase ∧ t.mem = s.mem ∧ onlyChanges [.regs, .ic, .pat, .pins, .out, .free] s t
        ∧ ((s.judgeImage (s.imgRead 2)).1 ≠ 1 → t.f PAT_STAT_result = 4 ∧ t.fb PAT_STAT_busy = false ∧ t.pins = s.pins)
        ∧ ((s.judgeImage (s.imgRead 2)).1 = 1 → s.reserved (s.f PAT_WIN_BASE_base * 2 ^ 22) 4194304 = true → t.f PAT_STAT_result = 7 ∧ t.fb PAT_STAT_busy = false ∧ t.pins = s.pins)
        ∧ ((s.judgeImage (s.imgRead 2)).1 = 1 → s.reserved (s.f PAT_WIN_BASE_base * 2 ^ 22) 4194304 = false →
            (s.onlyValid (b2n (bit w.toNat 2)) = true ∨ s.absent (b2n (bit w.toNat 2)) = true) → t.f PAT_STAT_result = 5 ∧ t.fb PAT_STAT_busy = false ∧ t.pins = s.pins)
        ∧ ((s.judgeImage (s.imgRead 2)).1 = 1 → s.reserved (s.f PAT_WIN_BASE_base * 2 ^ 22) 4194304 = false →
            s.onlyValid (b2n (bit w.toNat 2)) = false → s.absent (b2n (bit w.toNat 2)) = false →
            t.fb PAT_STAT_busy = true ∧ t.pat.progCopy = b2n (bit w.toNat 2) ∧ t.pins = { s.pins with nvmWp := false } ∧ t.f PAT_PROG_bytes = 0))
    ∧ (∀ (n : Nat) (complete : Bool) (s : State), s.fb PAT_STAT_busy = true → imgLen (s.imgRead 2) ≤ 2 ^ 22 →
      ∃ t, exec (.flashProgramDone n complete) s = .next t ∧ t.fb PAT_STAT_busy = false ∧ t.pins = { s.pins with nvmWp := true }
        ∧ t.f PAT_STAT_result = (if complete = true ∧ imgLen (s.imgRead 2) ≤ n then 1 else 6) ∧ t.phase = s.phase
        ∧ (∀ k, k < 2 ^ 22 → t.flashByte (copyBase s.pat.progCopy + k) = if k < pagesOf (min n (imgLen (s.imgRead 2))) (imgLen (s.imgRead 2)) then s.imgRead 2 k else 0xFF#8)
        ∧ (∀ a, ¬ (copyBase s.pat.progCopy ≤ a ∧ a < copyBase s.pat.progCopy + 2 ^ 22) → t.flashByte a = s.flashByte a)
        ∧ t.mem.host = s.mem.host ∧ t.mem.pkg = s.mem.pkg ∧ onlyChanges [.regs, .ic, .mem, .out, .free, .pins] s t)

/-- A record the keeper takes next (none waits, its context is at hand, and it does not end a drain) is counted as applied and
leaves the keeper's own queues, rings, entries and memory alone. SNAP and CI move S and CI of a present mirrored queue and CI
frees the done log entries it passes; START and COMPLETE mark their entry and apply addend or signal; CQPI and CQCI move a
present ring's indices; CTR sets a valid counter; Q_GONE and CQ_GONE drop their object; the snapshots replace it; SYNC_END
makes a SYNCING mirror SYNCED. Every other mirrored object and log entry is unchanged. That a delta for an absent object
changes nothing and counts as applied is the model's choice (log entry 53). -/
def Obligations.MirrorRecordsAreApplied : Prop :=
  ∀ (r : MRec) (s : State),
    (s.takesRecord (.snap r) r → ∃ t, exec (.snap r) s = .next t ∧ recordApplied r s t ∧ keepsMirrorQueues (mQueue r) s t ∧ t.pair.mcq = s.pair.mcq ∧ t.pair.log = s.pair.log ∧ t.ctr = s.ctr
      ∧ t.mqOf (mQueue r) = (if s.present (mQueue r) = true
          then { s.mqOf (mQueue r) with snap := r.a, accepts := (s.mqOf (mQueue r)).accepts ++ [{ old := (s.mqOf (mQueue r)).snap, new := r.a, mt := r.mt }] }
          else s.mqOf (mQueue r)))
    ∧ (s.takesRecord (.ci r) r → ∃ t, exec (.ci r) s = .next t ∧ recordApplied r s t ∧ keepsMirrorQueues (mQueue r) s t ∧ t.pair.mcq = s.pair.mcq ∧ t.ctr = s.ctr
      ∧ (s.present (mQueue r) = true → (t.mqOf (mQueue r)).ci = r.a ∧ (t.mqOf (mQueue r)).snap = (s.mqOf (mQueue r)).snap)
      ∧ (s.present (mQueue r) = false → t.mqOf (mQueue r) = s.mqOf (mQueue r))
      ∧ (∀ i, idxBefore i r.a = true → t.logOf (mQueue r) i = DoneLog.zero)
      ∧ (∀ q i, q < 2 ^ 21 → (q ≠ mQueue r ∨ idxBefore i r.a = false) → t.logOf q i = s.logOf q i))
    ∧ (s.takesRecord (.start r) r → ∃ t, exec (.start r) s = .next t ∧ recordApplied r s t ∧ t.pair.mq = s.pair.mq ∧ t.pair.mcq = s.pair.mcq ∧ keepsLog (mQueue r) r.a s t
      ∧ t.logOf (mQueue r) r.a = { s.logOf (mQueue r) r.a with started := true, signalled := (s.logOf (mQueue r) r.a).signalled || decide (r.b ≠ 0) }
      ∧ (t.ctrOf (r.item % 2 ^ 20 + 2 ^ 20)).value = (s.ctrOf (r.item % 2 ^ 20 + 2 ^ 20)).value + r.b ∧ keepsCounters (r.item % 2 ^ 20 + 2 ^ 20) s t)
    ∧ (∀ rec, s.takesRecord (.complete r rec) r → ∃ t, exec (.complete r rec) s = .next t ∧ recordApplied r s t ∧ t.pair.mq = s.pair.mq ∧ t.pair.mcq = s.pair.mcq ∧ keepsLog (mQueue r) r.a s t
      ∧ t.logOf (mQueue r) r.a = { s.logOf (mQueue r) r.a with done := true, record := rec, signalled := (s.logOf (mQueue r) r.a).signalled || bit r.b.toNat 50, own := (s.logOf (mQueue r) r.a).own || bit r.b.toNat 50 }
      ∧ (bit r.b.toNat 50 = false → t.ctr = s.ctr)
      ∧ (bit r.b.toNat 50 = true → (t.ctrOf (bits r.b.toNat 18 20 + 2 ^ 20)).value = (s.ctrOf (bits r.b.toNat 18 20 + 2 ^ 20)).value + BitVec.ofNat 64 (bits r.b.toNat 38 12)
          ∧ keepsCounters (bits r.b.toNat 18 20 + 2 ^ 20) s t))
    ∧ (s.takesRecord (.cqpi r) r → ∃ t, exec (.cqpi r) s = .next t ∧ recordApplied r s t ∧ keepsMirrorRings (mRing r) s t ∧ t.pair.mq = s.pair.mq ∧ t.pair.log = s.pair.log ∧ t.ctr = s.ctr
      ∧ t.mcqOf (mRing r) = (if (s.mcqOf (mRing r)).state = CqState.free then s.mcqOf (mRing r) else { s.mcqOf (mRing r) with pi := r.a }))
    ∧ (s.takesRecord (.cqci r) r → ∃ t, exec (.cqci r) s = .next t ∧ recordApplied r s t ∧ keepsMirrorRings (mRing r) s t ∧ t.pair.mq = s.pair.mq ∧ t.pair.log = s.pair.log ∧ t.ctr = s.ctr
      ∧ t.mcqOf (mRing r) = (if (s.mcqOf (mRing r)).state = CqState.free then s.mcqOf (mRing r) else { s.mcqOf (mRing r) with ci := r.a }))
    ∧ (s.takesRecord (.ctr r) r → ∃ t, exec (.ctr r) s = .next t ∧ recordApplied r s t ∧ t.pair.mq = s.pair.mq ∧ t.pair.mcq = s.pair.mcq ∧ keepsLog (mQueue r) r.a s t
      ∧ t.logOf (mQueue r) r.a = (if r.ccause < 2 then { s.logOf (mQueue r) r.a with signalled := true, own := (s.logOf (mQueue r) r.a).own || decide (r.ccause = 0) }
          else s.logOf (mQueue r) r.a)
      ∧ t.ctrOf (r.item % 2 ^ 20 + 2 ^ 20) = (if (s.ctrOf (r.item % 2 ^ 20 + 2 ^ 20)).valid = true
          then { s.ctrOf (r.item % 2 ^ 20 + 2 ^ 20) with value := r.b } else s.ctrOf (r.item % 2 ^ 20 + 2 ^ 20))
      ∧ keepsCounters (r.item % 2 ^ 20 + 2 ^ 20) s t)
    ∧ (s.takesRecord (.qGone r) r → ∃ t, exec (.qGone r) s = .next t ∧ recordApplied r s t ∧ t.present (mQueue r) = false ∧ keepsMirrorQueues (mQueue r) s t ∧ t.pair.mcq = s.pair.mcq ∧ t.pair.log = s.pair.log ∧ t.ctr = s.ctr)
    ∧ (s.takesRecord (.cqGone r) r → ∃ t, exec (.cqGone r) s = .next t ∧ recordApplied r s t ∧ t.mcqOf (mRing r) = CqCtx.zero ∧ keepsMirrorRings (mRing r) s t ∧ t.pair.mq = s.pair.mq ∧ t.pair.log = s.pair.log ∧ t.ctr = s.ctr)
    ∧ (s.takesRecord (.syncEnd r) r → ∃ t, exec (.syncEnd r) s = .next t ∧ recordApplied r s t ∧ t.f PAIR_STAT_keep_state = 2 ∧ t.pair.mq = s.pair.mq ∧ t.pair.mcq = s.pair.mcq ∧ t.pair.log = s.pair.log ∧ t.ctr = s.ctr)
    ∧ (∀ ctx, (s.takesRecord (.qCtx r ctx) r → ∃ t, exec (.qCtx r ctx) s = .next t ∧ recordApplied r s t ∧ keepsMirrorQueues (mQueue r) s t ∧ t.pair.mcq = s.pair.mcq ∧ t.pair.log = s.pair.log ∧ t.ctr = s.ctr
        ∧ { t.mqOf (mQueue r) with accepts := [] } = { QCtx.ofWords ctx with accepts := [] })
      ∧ (s.takesRecord (.cqCtx r ctx) r → ∃ t, exec (.cqCtx r ctx) s = .next t ∧ recordApplied r s t ∧ t.mcqOf (mRing r) = CqCtx.ofWords ctx ∧ keepsMirrorRings (mRing r) s t
        ∧ t.pair.mq = s.pair.mq ∧ t.pair.log = s.pair.log ∧ t.ctr = s.ctr)
      ∧ (s.takesRecord (.ctrCtx r ctx) r → ∃ t, exec (.ctrCtx r ctx) s = .next t ∧ recordApplied r s t ∧ t.ctrOf (r.item % 2 ^ 20 + 2 ^ 20) = Counter.ofWords ctx
        ∧ keepsCounters (r.item % 2 ^ 20 + 2 ^ 20) s t ∧ t.pair.mq = s.pair.mq ∧ t.pair.mcq = s.pair.mcq ∧ t.pair.log = s.pair.log))

/-- A current acknowledgement is taken: mirrored_ci follows, a covered SYNC_END makes the mirror SYNCED; an older one changes only
the link's buffers. READY while SYNCING sends the snapshots, and with room for them SYNC_END. A fellow that is LOST makes this
mover BLOCKED; one that is OFF makes it OFF; the end of BLOCKED, or a fellow that starts a full sync, starts one where one may
run, makes mirroring OFF where none may, and changes no state while the link is not up or the fellow is halted. BLOCKED, OFF
and the restart are the model's readings (log entry 53). A mode change takes effect at once without a bound stitch where its
records find room, else waits; the reserved mode does nothing. A deferred CI or CQCI record goes when the interval ends. A
legal CI of an adopted ring that holds no record back is taken, an illegal one counted, where no action waits for room. -/
def Obligations.OwnerFollowsItsKeeper : Prop :=
  (∀ (seq : W32) (s : State),
      (s.mirrorOn = true → s.run = true → idxDiff seq s.pair.acked < idxDiff s.pair.seq s.pair.acked →
        ∃ u, exec (.mirrorAck seq) s = .next u.mirrorRetry ∧ u.pair.acked = seq + 1
          ∧ (∀ x ∈ s.pair.ciSent, idxBefore x.2.1 (seq + 1) = true → (∀ y ∈ s.pair.ciSent, y.1 = x.1 → y = x) → (u.qctx x.1).mirroredCi = x.2.2)
          ∧ (∀ sq, s.pair.endSeq = some sq → idxBefore sq (seq + 1) = true → u.f PAIR_STAT_send_state = 2 ∧ u.pair.endSeq = none)
          ∧ onlyChanges [.regs, .q, .ic, .arb, .pair, .lace, .out] s u)
      ∧ (¬ (s.mirrorOn = true ∧ s.run = true ∧ idxDiff seq s.pair.acked < idxDiff s.pair.seq s.pair.acked) →
        ∃ t, exec (.mirrorAck seq) s = .next t ∧ onlyChanges [.lace] s t))
    ∧ (∀ s : State,
      (s.run = true → s.f PAIR_STAT_send_state = 1 → s.pair.readyIn = false → ∃ t, exec .ready s = .next t ∧ t.pair.readyIn = true
          ∧ (t.pair.owed = [] → t.pair.endSeq = some (t.pair.seq - 1)) ∧ t.pair.heldBack = [] ∧ onlyChanges [.arb, .pair, .lace, .out] s t)
      ∧ (¬ (s.run = true ∧ s.f PAIR_STAT_send_state = 1 ∧ s.pair.readyIn = false) → ∃ t, exec .ready s = .next t ∧ onlyChanges [.lace] s t))
    ∧ (∀ (st : BitVec 3) (s : State),
      (s.run = false → ∃ t, exec (.sendState st) s = .next t ∧ t.pair = { s.pair with fellowSend := st.toNat } ∧ onlyChanges [.pair, .lace] s t)
      ∧ (s.run = true → s.mirrorIdle → st = 3 → s.f PAIR_STAT_send_state ≠ 4 → s.f PAIR_STAT_phase = 0 →
          ∃ t, exec (.sendState st) s = .next t ∧ t.f PAIR_STAT_send_state = 4 ∧ t.pair.fellowSend = 3
            ∧ t.f PAIR_STAT_losses = satAdd PAIR_STAT_losses.w (s.f PAIR_STAT_losses) 1 ∧ onlyChanges [.regs, .q, .ic, .arb, .pair, .lace, .out] s t)
      ∧ (s.run = true → s.mirrorIdle → st = 0 → s.f PAIR_STAT_send_state ≠ 0 → s.f PAIR_STAT_phase = 0 →
          ∃ t, exec (.sendState st) s = .next t ∧ t.pair.fellowSend = 0 ∧ t.f PAIR_STAT_send_state = 0 ∧ t.f PAIR_STAT_keep_state = 0
            ∧ onlyChanges [.regs, .q, .arb, .pair, .lace, .out] s t)
      ∧ (s.run = true → s.mirrorIdle → s.f PAIR_STAT_phase = 0 →
          ((st ≠ 3 ∧ st ≠ 0 ∧ s.f PAIR_STAT_send_state = 4) ∨ (st = 1 ∧ (s.f PAIR_STAT_send_state = 0 ∨ s.f PAIR_STAT_send_state = 2))) →
          ∃ t, exec (.sendState st) s = .next t ∧ t.pair.fellowSend = st.toNat ∧ onlyChanges [.regs, .q, .arb, .pair, .lace, .out] s t
            ∧ (s.mirrorBarred = true → t.f PAIR_STAT_send_state = 0 ∧ t.f PAIR_STAT_keep_state = 0)
            ∧ (s.mirrorBarred = false → s.laceUp = true → s.pair.noticed = false → s.fb PAIR_STAT_halt_in = false → t.f PAIR_STAT_send_state = 1 ∧ t.f PAIR_STAT_keep_state = 1
                ∧ t.pair.seq = 0 ∧ t.pair.applied = 0 ∧ t.pair.clears = 0)
            ∧ (s.mirrorBarred = false → (s.laceUp = false ∨ s.pair.noticed = true ∨ s.fb PAIR_STAT_halt_in = true) → t.regs = s.regs)))
    ∧ (∀ (w : W64) (s : State),
      (bits w.toNat 21 2 = 3 → exec (.pairQmode w) s = .next s)
      ∧ (∀ m, modeOf (bits w.toNat 21 2) = some m → s.run = true → bits w.toNat 0 21 ≠ 0 → (s.qctx (bits w.toNat 0 21)).state ≠ .free → s.recordsGo →
        ∃ u, exec (.pairQmode w) s = .next u.mirrorRetry ∧ keepsQueues (bits w.toNat 0 21) s u
          ∧ ((∀ f ∈ s.flsOf (bits w.toNat 0 21), f.stitches = []) → (u.qctx (bits w.toNat 0 21)).mirror = m ∧ (u.qctx (bits w.toNat 0 21)).newMirror = none)
          ∧ ((∃ f ∈ s.flsOf (bits w.toNat 0 21), f.stitches ≠ []) → (u.qctx (bits w.toNat 0 21)).mirror = (s.qctx (bits w.toNat 0 21)).mirror
              ∧ (u.qctx (bits w.toNat 0 21)).newMirror = some m)
          ∧ onlyChanges [.q, .arb, .pair, .lace, .out] s u))
    ∧ (∀ (n : Nat) (s : State), s.run = true →
      (s.pair.deferCi.find? (fun x => decide (x.1 = n)) = some (n, false) →
        ∃ t, exec (.ciRecordInterval false n) s = .next t ∧ t.pair = { s.pair with deferCi := s.pair.deferCi.filter (fun y => decide (y.1 ≠ n)) } ∧ onlyChanges [.pair] s t)
      ∧ (s.pair.deferCi.find? (fun x => decide (x.1 = n)) = some (n, true) → s.mirrorRoom 1 = true →
        ∃ t, exec (.ciRecordInterval false n) s = .next t ∧ (n, false) ∈ t.pair.deferCi ∧ onlyChanges [.arb, .pair, .lace, .out] s t)
      ∧ (s.pair.deferCqci.find? (fun x => decide (x.1 = n)) = some (n, false) →
        ∃ t, exec (.ciRecordInterval true n) s = .next t ∧ t.pair = { s.pair with deferCqci := s.pair.deferCqci.filter (fun y => decide (y.1 ≠ n)) } ∧ onlyChanges [.pair] s t)
      ∧ (s.pair.deferCqci.find? (fun x => decide (x.1 = n)) = some (n, true) → s.mirrorRoom 1 = true →
        ∃ t, exec (.ciRecordInterval true n) s = .next t ∧ (n, false) ∈ t.pair.deferCqci ∧ onlyChanges [.arb, .pair, .lace, .out] s t))
    ∧ (∀ (w : W64) (c : Nat) (v : W32) (s : State), c = bits w.toNat 0 18 + 2 ^ 18 → v = BitVec.ofNat 32 (bits w.toNat 18 32) →
      s.run = true → s.pair.acts = [] → (s.cctx c).state ≠ CqState.free →
      (idxDiff (s.cctx c).pi v ≤ idxDiff (s.cctx c).pi (s.cctx c).ci → (s.cctx c).state ≠ .full → s.cMirrored c = false →
        s.spilledOf c = 0 → s.waitsFor c = false →
        ∃ t, exec (.pairCqCi w) s = .next t ∧ t.cctx c = { s.cctx c with ci := v } ∧ keepsRings c s t ∧ onlyChanges [.cq] s t)
      ∧ (idxDiff (s.cctx c).pi (s.cctx c).ci < idxDiff (s.cctx c).pi v →
        ∃ t, exec (.pairCqCi w) s = .next t ∧ t.cctx c = { s.cctx c with ciErrors := satAdd 16 (s.cctx c).ciErrors 1 } ∧ keepsRings c s t
          ∧ t.f CQ_CI_BAD_count = satAdd CQ_CI_BAD_count.w (s.f CQ_CI_BAD_count) 1 ∧ t.f CQ_CI_BAD_last_cqid = bits w.toNat 0 18
          ∧ t.f (IC_CNT_count 35) = min 255 (s.f (IC_CNT_count 35) + 1) ∧ onlyChanges [.regs, .cq, .ic, .out] s t))

/-- A first halt notice is loaded into PAIR_NOTICE, raises source 48, and at a running mover shows a takeover condition, which is
refused where the mirror is not SYNCED and takes over where it is and auto is set; a repeat is only acknowledged. An
acknowledgement of this mover's notice ends its repeats; a repeat goes at most 16 times: the notice joins the messages of
CTRL, and leaves at once where CTRL alone owns the transmitter, has nothing else to send, and has credit. A change of
FELLOW_ALIVE or HALT_IN_N is shown and raises source 48, and ends a condition that no sign and no notice holds; the end of
HALT_IN_N starts a full sync that waited for it. That a repeat is only acknowledged is the model's choice (log entry 53). A
keyed PAIR_CMD.halt halts the mover with cause 5. -/
def Obligations.SignsAndNotices : Prop :=
  (∀ (n : Notice) (s : State), (s.run = true ∨ s.halted = true) →
      (s.pair.noticed = true → s.reg PAIR_NOTICE_MT = n.mt → ∃ t, exec (.haltNotice n) s = .next t ∧ onlyChanges [.arb, .pair, .lace, .out] s t)
      ∧ (¬ (s.pair.noticed = true ∧ s.reg PAIR_NOTICE_MT = n.mt) →
        ∃ u t, exec (.haltNotice n) s = .next t ∧ u.pair.noticed = true
          ∧ u.f PAIR_NOTICE_halt_cause = bits n.b.toNat 0 8 ∧ u.f PAIR_NOTICE_cause = bits n.b.toNat 8 8 ∧ u.f PAIR_NOTICE_qid = n.qid.toNat
          ∧ u.f PAIR_NOTICE_IDX_index = n.a.toNat ∧ u.f PAIR_NOTICE_IDX_last_seq = bits n.b.toNat 16 32 ∧ u.reg PAIR_NOTICE_MT = n.mt
          ∧ u.f (IC_CNT_count 48) = min 255 (s.f (IC_CNT_count 48) + 1) ∧ onlyChanges [.regs, .ic, .pair, .lace, .out] s u
          ∧ (s.halted = true → t = u.ctrlMsg 0x31 n.qid n.a 0 ∧ u.f PAIR_STAT_cond = s.f PAIR_STAT_cond)
          ∧ (s.run = true → s.conditionShown u)
          ∧ (s.run = true → ¬ (s.f PAIR_STAT_keep_state = 2 ∧ s.fb PAIR_CFG_auto = true) → t = u.ctrlMsg 0x31 n.qid n.a 0)
          ∧ (s.run = true → s.f PAIR_STAT_keep_state = 2 → s.fb PAIR_CFG_auto = true → t = u.takeOver.ctrlMsg 0x31 n.qid n.a 0)))
    ∧ (∀ (qid : BitVec 22) (a : W32) (s : State),
      (s.halted = true → qid.toNat = s.f PAIR_HALT_qid → a.toNat = s.f PAIR_HALT_IDX_index →
        ∃ t, exec (.haltAck qid a) s = .next t ∧ t.pair = { s.pair with noticeAck := true } ∧ onlyChanges [.pair, .lace] s t)
      ∧ (¬ (s.halted = true ∧ qid.toNat = s.f PAIR_HALT_qid ∧ a.toNat = s.f PAIR_HALT_IDX_index) →
        ∃ t, exec (.haltAck qid a) s = .next t ∧ onlyChanges [.lace] s t))
    ∧ (∀ s : State,
      (s.halted = true → s.pair.noticeAck = false → s.pair.notices < 16 → ∃ u, exec .haltNoticeResend s = .next u.pump
          ∧ u.pair = { s.pair with ctrl := s.pair.ctrl ++ [s.pair.notice], notices := s.pair.notices + 1 } ∧ onlyChanges [.pair] s u
          ∧ onlyChanges [.arb, .pair, .lace, .out] s u.pump ∧ u.pump.pair.notices = s.pair.notices + 1 ∧ u.pump.pair.noticeAck = false
          ∧ (s.ctrlOwns → s.canSend 0 [s.pair.notice] = true → s.lace.fbDue = [] →
              s.pair.ctrl = [] → u.pump.pair.ctrl = [] ∧ ∃ p, p.slots = [s.pair.notice] ∧ u.pump.lace.ctrl.store = s.lace.ctrl.store ++ [p]))
      ∧ (s.halted = false ∨ s.pair.noticeAck = true ∨ 16 ≤ s.pair.notices → exec .haltNoticeResend s = .next s))
    ∧ (∀ (level : Bool) (s : State), s.phase ≠ 0 →
      (s.fb PAIR_STAT_fellow_alive ≠ level → ∃ t, exec (.fellowAliveChange level) s = .next t ∧ t.fb PAIR_STAT_fellow_alive = level
          ∧ t.f PAIR_STAT_halt_in = s.f PAIR_STAT_halt_in ∧ t.f (IC_CNT_count 48) = min 255 (s.f (IC_CNT_count 48) + 1)
          ∧ t.f PAIR_STAT_cond = (if level = false ∨ s.fb PAIR_STAT_halt_in = true ∨ s.pair.noticed = true then s.f PAIR_STAT_cond else 0)
          ∧ onlyChanges [.regs, .ic, .out] s t)
      ∧ (s.fb PAIR_STAT_fellow_alive = level → exec (.fellowAliveChange level) s = .next s)
      ∧ (s.fb PAIR_STAT_halt_in ≠ level → ∃ t, exec (.haltInChange level) s = .next (if level = false ∧ s.laceUp = true ∧ s.run = true ∧ s.mirrorOn = false ∧
          s.f PAIR_STAT_send_state ≠ 4 then t.startSync else t) ∧ t.fb PAIR_STAT_halt_in = level
          ∧ t.f PAIR_STAT_fellow_alive = s.f PAIR_STAT_fellow_alive ∧ t.f (IC_CNT_count 48) = min 255 (s.f (IC_CNT_count 48) + 1)
          ∧ t.f PAIR_STAT_cond = (if level = true ∨ s.fb PAIR_STAT_fellow_alive = false ∨ s.pair.noticed = true then s.f PAIR_STAT_cond else 0)
          ∧ onlyChanges [.regs, .ic, .out] s t)
      ∧ (s.fb PAIR_STAT_halt_in = level → exec (.haltInChange level) s = .next s))
    ∧ (∀ (w : W64) (s : State),
      (pairKey w = true → bit w.toNat 1 = true → s.run = true → ∃ t, exec (.haltCommand w) s = .next t ∧ t.halted = true ∧ t.f PAIR_HALT_halt_cause = 5
          ∧ t.pins.haltOut = true ∧ t.q = s.q ∧ t.fl = s.fl ∧ t.mem = s.mem)
      ∧ ((pairKey w = false ∨ bit w.toNat 1 = false) → exec (.haltCommand w) s = .next s))

/-- After the delay with the link down: a sign shows a condition, none loses a running mirror. Adopt is refused unless SYNCED;
else DRAIN begins with the own mirror LOST, waiting for the seq a notice names, or ADOPT follows at once. The drain limit
begins ADOPT and fences the queue a MALFORMED notice names. An adoption stitch sets up each present queue found, in the state
R368 gives, from the mirrored S and CI, and no other but queue 0; after the last bit: ADOPTED, keep OFF, or with no adopted
queue the end of the adoption at once. A clearing stitch clears its quarter of the presence bits or, last, the done log. Both
run once their engine owns MEMP. Model's choices: that end (log entry 43); a drain_limit of 0 that ends at once, a DESTROYING
queue adopted FENCED and the done log cleared by the last stitch (log entry 53). -/
def Obligations.TakeoverAdoptsTheMirror : Prop :=
  (∀ s : State, s.run = true → s.fb LACE_STAT_down = true →
      (s.sign = true → (s.f PAIR_STAT_keep_state = 3 ∨ s.fb PAIR_STAT_cond = true) → exec .takeoverDelay s = .next s)
      ∧ (s.sign = true → s.f PAIR_STAT_keep_state ≠ 3 → s.fb PAIR_STAT_cond = false →
        ∃ u, exec .takeoverDelay s = .next (if s.f PAIR_STAT_keep_state = 2 ∧ s.fb PAIR_CFG_auto = true then u.takeOver else u)
          ∧ s.conditionShown u ∧ onlyChanges [.regs, .ic, .out] s u)
      ∧ (s.sign = false → s.mirrorIdle → (s.f PAIR_STAT_send_state = 1 ∨ s.f PAIR_STAT_send_state = 2) →
        ∃ t, exec .takeoverDelay s = .next t ∧ t.f PAIR_STAT_send_state = 3
          ∧ t.f PAIR_STAT_keep_state = (if s.f PAIR_STAT_keep_state = 1 ∨ s.f PAIR_STAT_keep_state = 2 then 3 else s.f PAIR_STAT_keep_state)
          ∧ t.f PAIR_STAT_losses = satAdd PAIR_STAT_losses.w (s.f PAIR_STAT_losses) 1 ∧ t.mem = s.mem ∧ t.fl = s.fl))
    ∧ (∀ (w : W64) (s : State), pairKey w = true → bit w.toNat 0 = true → s.run = true →
      (s.f PAIR_STAT_keep_state ≠ 2 → exec (.adopt w) s = .next (s.cnt PAIR_ADOPT_refused))
      ∧ (s.f PAIR_STAT_keep_state = 2 → s.f PAIR_STAT_phase ≠ 0 → exec (.adopt w) s = .next s)
      ∧ (s.f PAIR_STAT_keep_state = 2 → s.f PAIR_STAT_phase = 0 → s.mirrorIdle →
        ∃ t, exec (.adopt w) s = .next t ∧ t.f PAIR_STAT_send_state = 3 ∧ t.mem = s.mem ∧ t.fl = s.fl
          ∧ t.f (IC_CNT_count 49) = min 255 (s.f (IC_CNT_count 49) + 1)
          ∧ (s.pair.noticed = true → s.f PAIR_CFG_drain_limit ≠ 0 →
              idxBefore (BitVec.ofNat 32 (s.f PAIR_NOTICE_IDX_last_seq)) s.pair.applied = false →
              t.f PAIR_STAT_phase = 1 ∧ t.pair.drainTo = some (BitVec.ofNat 32 (s.f PAIR_NOTICE_IDX_last_seq)))
          ∧ (s.pair.noticed = true → (s.f PAIR_CFG_drain_limit = 0 ∨
              idxBefore (BitVec.ofNat 32 (s.f PAIR_NOTICE_IDX_last_seq)) s.pair.applied = true) → t.f PAIR_STAT_phase = 2 ∧ t.pair.scan = 0)
          ∧ (s.pair.noticed = false → s.fb PAIR_STAT_cond = true → t.f PAIR_STAT_phase = 2 ∧ t.pair.scan = 0)))
    ∧ (∀ s : State, s.run = true → s.f PAIR_STAT_phase = 1 →
      ∃ t, exec .drainLimit s = .next t ∧ t.f PAIR_STAT_phase = 2 ∧ t.pair = { s.pair with scan := 0, drainTo := none } ∧ onlyChanges [.regs, .q, .cq, .pair] s t
        ∧ (s.pair.noticed = true → s.f PAIR_NOTICE_halt_cause = 1 → s.f PAIR_NOTICE_qid < 2 ^ 21 → s.present (s.f PAIR_NOTICE_qid) = true →
            (s.qctx (s.f PAIR_NOTICE_qid + 2 ^ 21)).state = .free →
            (t.qctx (s.f PAIR_NOTICE_qid + 2 ^ 21)).state = .fenced ∧ (t.qctx (s.f PAIR_NOTICE_qid + 2 ^ 21)).cause = s.f PAIR_NOTICE_cause
              ∧ (t.qctx (s.f PAIR_NOTICE_qid + 2 ^ 21)).causeIndex = BitVec.ofNat 32 (s.f PAIR_NOTICE_IDX_index))
        ∧ (s.pair.noticed = false → t.q = s.q ∧ t.cq = s.cq))
    ∧ (∀ s : State, s.mayBackground = true → s.admHas 3 [3] → s.f PAIR_STAT_phase = 2 →
      ((s.adoptNext = 2 ^ 21 → (0 < s.f PAIR_ADOPT_adopted ∨ s.adoptList ≠ []) ∧ s.f PAIR_ADOPT_adopted + 256 < 2 ^ PAIR_ADOPT_adopted.w) →
        ∃ t, exec .adoptionStitch s = .next t ∧ t.pair = { s.pair with scan := s.adoptNext }
        ∧ (∀ q ∈ s.adoptList, (t.qctx (q + 2 ^ 21)).adopted = true ∧ (t.qctx (q + 2 ^ 21)).pi = (s.mqOf q).snap ∧ (t.qctx (q + 2 ^ 21)).snap = (s.mqOf q).snap
            ∧ (t.qctx (q + 2 ^ 21)).fetch = (s.mqOf q).ci ∧ (t.qctx (q + 2 ^ 21)).ci = (s.mqOf q).ci
            ∧ (t.qctx (q + 2 ^ 21)).state = adoptState (s.mqOf q) ((s.mqOf q).device || (s.mcqOf (s.mqOf q).cqid).device) false)
        ∧ (∀ k, k ≠ 0 → (∀ q ∈ s.adoptList, k ≠ q + 2 ^ 21) → t.qctx k = s.qctx k)
        ∧ (s.adoptNext = 2 ^ 21 → t.f PAIR_STAT_phase = 3 ∧ t.f PAIR_STAT_keep_state = 0 ∧ t.f (IC_CNT_count 49) = min 255 (s.f (IC_CNT_count 49) + 1))
        ∧ (s.adoptNext ≠ 2 ^ 21 → t.f PAIR_STAT_phase = 2) ∧ keepsMemory s t ∧ onlyChanges [.regs, .q, .cq, .ic, .arb, .trace, .pat, .adm, .pair, .mem, .out] s t)
      ∧ (s.adoptNext = 2 ^ 21 → s.adoptList = [] → s.f PAIR_ADOPT_adopted = 0 → ∃ t, exec .adoptionStitch s = .next t ∧ t.f PAIR_STAT_phase = 0))
    ∧ (∀ s : State, s.mayBackground = true → s.admHas 3 [3] → s.f PAIR_STAT_keep_state = 1 → s.pair.clears < 68 →
      ∃ t, exec .syncClearStitch s = .next t ∧ t.pair.clears = s.pair.clears + 1
        ∧ (∀ q, t.mqOf q = if s.pair.clears < 4 ∧ q / 2 ^ 19 = s.pair.clears then QCtx.zero else s.mqOf q)
        ∧ t.pair.log = (if s.pair.clears = 67 then [] else s.pair.log) ∧ keepsQueues 0 s t ∧ keepsMemory s t ∧ onlyChanges [.regs, .q, .arb, .trace, .pat, .adm, .pair, .lace, .mem, .out] s t)

/-- Signal on 4 lanes ends DETECT, TS1 on 4 ends SOLO. A lane whose CDR is locked and comma aligned locks at eight training sets,
with their source, and with its polarity outside a recovery; nine locked, or the wait's end with 4, begin DESKEW; with four
consecutive AOS on every locked lane the lanes whose AOS lie within 8 symbols are judged good by order, bad marks and
retirement, and CONFIG begins (which AOS a lane's alignment goes by, and which window is taken, are the model's choices, log
entry 66). Eight TS2 of another use map only bring the fellow's good map into what is sent; agreed TS2 with enough lanes bring
the link UP with the widths of both use maps and the session kept where both hold it, else a new one; too few fail the
attempt, as its timeout does: it is counted, and the last one enters SOLO with no session. Enable starts an attempt or takes
the link down; each change of state raises source 50. -/
def Obligations.TheLinkTrains : Prop :=
  (∀ (l : BitVec 9) (s : State),
      (laneCount l.toNat < 4 → exec (.laceDetect l) s = .next s)
      ∧ (4 ≤ laneCount l.toNat → s.laceSt = 1 → ∃ t, exec (.laceDetect l) s = .next t ∧ t.laceSt = 2
          ∧ t.f (IC_CNT_count 50) = min 255 (s.f (IC_CNT_count 50) + 1) ∧ changesLink s t)
      ∧ (4 ≤ laneCount l.toNat → s.laceSt = 6 → ∃ t, exec (.laceDetect l) s = .next t ∧ t.laceSt = 1 ∧ t.locked = 0
          ∧ changesLink s t))
    ∧ (∀ (cdr comma : BitVec 9) (rx : List (List (BitVec 40))) (s : State), s.laceSt = 2 →
      ∃ t, exec (.laceLock cdr comma rx) s = .next t
        ∧ (∀ i inv x, i < 9 → bit cdr.toNat i = true → bit comma.toNat i = true → eightSets (rx.getD i []) = some (inv, x) →
            t.fb (LACE_LANE_rx_locked i) = true ∧ t.f (LACE_LANE_rx_from i) = ((x.getLast?.map (·.lane)).getD 15) % 16
            ∧ t.fb (LACE_LANE_rx_inverted i) = (if s.lace.recovery = true then s.fb (LACE_LANE_rx_inverted i) else inv))
        ∧ (∀ i, i < 9 → bit cdr.toNat i = false ∨ bit comma.toNat i = false ∨ eightSets (rx.getD i []) = none → t.reg (LACE_LANE i) = s.reg (LACE_LANE i))
        ∧ t.laceSt = (if t.locked = 9 then 3 else 2) ∧ changesLink s t)
    ∧ (∀ s : State, s.laceSt = 2 → 4 ≤ s.locked → ∃ t, exec .laneLockWaitExpiry s = .next t ∧ t.laceSt = 3 ∧ (∀ i, i < 9 → t.reg (LACE_LANE i) = s.reg (LACE_LANE i))
      ∧ changesLink s t)
    ∧ (∀ (rx : List (List (BitVec 40))) (s : State), s.laceSt = 3 →
      (0 < s.locked → (∀ i, i < 9 → s.fb (LACE_LANE_rx_locked i) = true → (s.aosOf rx).getD i none ≠ none) →
        ∃ t, exec (.laceDeskew rx) s = .next t ∧ t.laceSt = 4 ∧ t.fb LACE_STAT_reversed = s.reversedOrder
          ∧ (∀ i, i < 9 → t.fb (LACE_LANE_rx_good i) = s.laneGood s.reversedOrder (alignedMap (s.aosOf rx)) i)
          ∧ (∀ i j d e, i < 9 → j < 9 → t.fb (LACE_LANE_rx_good i) = true → t.fb (LACE_LANE_rx_good j) = true →
              (s.aosOf rx).getD i none = some d → (s.aosOf rx).getD j none = some e → d ≤ e + 8)
          ∧ changesLink s t)
      ∧ (s.locked = 0 ∨ (∃ i, i < 9 ∧ s.fb (LACE_LANE_rx_locked i) = true ∧ (s.aosOf rx).getD i none = none) →
        exec (.laceDeskew rx) s = .next s))
    ∧ (∀ (rx : List (BitVec 40)) (s : State),
      (sameTs2 rx = none → exec (.laceConfig rx) s = .next s)
      ∧ (∀ x, sameTs2 rx = some x → s.laceSt = 4 →
        (x.use ≠ useOf s.goodMap → ∃ t, exec (.laceConfig rx) s = .next t ∧ t.lace = { s.lace with fellowGood := x.good }
            ∧ t.out = s.out ++ [.train (lanes.map (fun i => ts2 i s.role s.lace.recovery (s.f LACE_STAT_session) s.goodMap (useOf x.good)))]
            ∧ onlyChanges [.lace, .out] s t)
        ∧ (x.use = useOf s.goodMap → (useOf x.good = 0 ∨ x.use = 0) →
            exec (.laceConfig rx) s = exec .attemptTimeout (s.withLace { s.lace with fellowGood := x.good }))
        ∧ (x.use = useOf s.goodMap → useOf x.good ≠ 0 → x.use ≠ 0 → s.mirrorIdle →
          ∃ t, exec (.laceConfig rx) s = .next t ∧ t.laceSt = 5 ∧ t.fb LACE_STAT_down = false ∧ t.f LACE_STAT_failed = 0
          ∧ t.f LACE_STAT_tx_width = widthCode (useOf x.good) ∧ t.f LACE_STAT_rx_width = widthCode x.use
          ∧ t.fb LACE_STAT_fellow_role = x.role
          ∧ t.f LACE_STAT_session = (if resumes (s.f LACE_STAT_session) x.session = true then s.f LACE_STAT_session else nextSession (s.f LACE_STAT_session) x.session)
          ∧ t.lace.recovery = false ∧ keepsMemory s t ∧ t.fl = s.fl)))
    ∧ (∀ s : State, 1 ≤ s.laceSt → s.laceSt ≤ 4 →
      ∃ t, exec .attemptTimeout s = .next t ∧ t.f LACE_STAT_failed = satAdd LACE_STAT_failed.w (s.f LACE_STAT_failed) 1
        ∧ (s.f LACE_TRAIN_CFG_attempts ≤ satAdd LACE_STAT_failed.w (s.f LACE_STAT_failed) 1 → t.laceSt = 6 ∧ t.f LACE_STAT_session = 0)
        ∧ (satAdd LACE_STAT_failed.w (s.f LACE_STAT_failed) 1 < s.f LACE_TRAIN_CFG_attempts → t.laceSt = 1 ∧ t.locked = 0 ∧ t.f LACE_STAT_session = s.f LACE_STAT_session)
        ∧ changesLink s t)
    ∧ (∀ s : State, s.laceSt = 6 → s.pair.hard = false → ∃ t, exec .soloProbe s = .next t ∧ t.out = s.out ++ [.laceProbe, .train (lanes.map (s.trainLane 1))]
      ∧ onlyChanges [.out] s t)
    ∧ (∀ s : State, s.served = true →
      (s.laceSt = 0 → 7 ≤ s.phase → s.pair.hard = false → ∃ t, exec (.laceEnable true) s = .next t ∧ t.fb LACE_CFG_enable = true ∧ t.laceSt = 1 ∧ t.locked = 0
          ∧ changesLink s t)
      ∧ (s.laceSt ≠ 0 → ∃ t, exec (.laceEnable true) s = .next t ∧ t.fb LACE_CFG_enable = true ∧ keepsRegs (fun o => o = LACE_CFG) s t ∧ onlyChanges [.regs] s t)
      ∧ (∃ t, exec (.laceEnable false) s = .next t ∧ t.fb LACE_CFG_enable = false ∧ t.laceSt = 0 ∧ t.f LACE_STAT_session = 0
          ∧ t.fb LACE_STAT_down = true ∧ (∀ v, v < 3 → t.vc v = Vc.fresh 0)
          ∧ (s.fb LACE_STAT_down = false → t.f LACE_STAT_failed = 0 ∧ t.f LACE_STAT_downs = satAdd LACE_STAT_downs.w (s.f LACE_STAT_downs) 1)
          ∧ (s.fb LACE_STAT_down = true → t.f LACE_STAT_failed = s.f LACE_STAT_failed ∧ t.f LACE_STAT_downs = s.f LACE_STAT_downs)
          ∧ keepsMemory s t ∧ onlyChanges [.regs, .ic, .trace, .pat, .lace, .err, .mem, .out] s t))

/-- A loss of lock, or 16 errors among 256 consecutive symbols of a locked lane, is counted; on a data lane of a link that is UP
it starts a recovery: LOCK with every lane unlocked, the recovery counted, session, sequence numbers and replay storage kept;
on any other lane the state stays. A retrain command does the same from UP, and starts a new attempt during training or SOLO.
Symbol errors of a window's words are counted; too many mark the lane bad, and retire it under the policy. When a recovery
lasts too long the link goes down: down set, downs counted, source 50, session kept. A retrain block begins with its RTB
stripe on all lanes, and a lane's adaptation is frozen. -/
def Obligations.TheLinkRecovers : Prop :=
  (∀ (lane : Nat) (lost : Bool) (s : State), lane < 9 → s.laceSt ≠ 0 →
      ∃ t, exec (.lossOfLock lane lost) s = .next t
        ∧ t.f (LACE_LANE_lock_loss lane) = (if lost = true then satAdd (LACE_LANE_lock_loss lane).w (s.f (LACE_LANE_lock_loss lane)) 1 else s.f (LACE_LANE_lock_loss lane))
        ∧ (lost = true → t.fb (LACE_LANE_rx_locked lane) = false)
        ∧ (s.rxData lane = true → s.laceSt = 5 → s.recovering t)
        ∧ ((s.rxData lane = false ∨ s.laceSt ≠ 5) → t.laceSt = s.laceSt ∧ keepsRegs (fun o => o = LACE_LANE lane) s t ∧ onlyChanges [.regs] s t))
    ∧ (∀ (w : W64) (s : State),
      (bit w.toNat 0 = true → s.laceMay = true → s.laceSt = 5 → ∃ t, exec (.retrain w) s = .next t ∧ s.recovering t)
      ∧ (bit w.toNat 0 = true → s.laceMay = true → s.laceSt ≠ 5 → s.laceSt ≠ 0 → ∃ t, exec (.retrain w) s = .next t ∧ t.laceSt = 1 ∧ t.locked = 0
          ∧ t.f LACE_STAT_session = s.f LACE_STAT_session ∧ changesLink s t)
      ∧ (bit w.toNat 0 = false → exec (.retrain w) s = .next s))
    ∧ (∀ (lane : Nat) (rx : List (BitVec 40)) (s : State), lane < 9 → s.laceSt ≠ 0 →
      ∃ t, exec (.laneErrorWindow lane rx) s = .next t
        ∧ t.f (LACE_LANE_sym_err lane) = satAdd (LACE_LANE_sym_err lane).w (s.f (LACE_LANE_sym_err lane)) (s.laneWords lane rx).2.1
        ∧ ((s.laneWords lane rx).2.2 = true → s.fb (LACE_LANE_rx_locked lane) = true →
            t.f (LACE_LANE_lock_loss lane) = satAdd (LACE_LANE_lock_loss lane).w (s.f (LACE_LANE_lock_loss lane)) 1 ∧ t.fb (LACE_LANE_rx_locked lane) = false
            ∧ (s.rxData lane = true → s.laceSt = 5 → s.recovering t))
        ∧ ((s.rxData lane = false ∨ s.laceSt ≠ 5) → t.laceSt = s.laceSt)
        ∧ ((s.f LACE_LANE_CFG_err_limit = 0 ∨ (s.laneWords lane rx).2.1 ≤ s.f LACE_LANE_CFG_err_limit ∨ lane ∈ s.lace.bad) →
          ((s.laneWords lane rx).2.2 = false ∨ s.fb (LACE_LANE_rx_locked lane) = false ∨ s.rxData lane = false ∨ s.laceSt ≠ 5) →
          keepsRegs (fun o => o = LACE_LANE lane) s t ∧ t.lace = (s.laneWords lane rx).1.lace
            ∧ t.lace = { s.lace with phys := t.lace.phys, frozen := t.lace.frozen } ∧ onlyChanges [.regs, .lace, .spr, .out] s t)
        ∧ (s.f LACE_LANE_CFG_err_limit ≠ 0 → s.f LACE_LANE_CFG_err_limit < (s.laneWords lane rx).2.1 → lane ∉ s.lace.bad →
          lane ∈ t.lace.bad ∧ (s.fb SPR_POLICY_lane_retire = true → bit (t.f SPR_LANE_RETIRED_retired) lane = true)
            ∧ (s.rxData lane = true → s.laceSt = 5 → s.recovering t)
            ∧ ((s.rxData lane = false ∨ s.laceSt ≠ 5) → t.f (IC_CNT_count 51) = min 255 (s.f (IC_CNT_count 51) + 1)
                ∧ onlyChanges [.regs, .ic, .lace, .err, .spr, .out] s t)))
    ∧ (∀ s : State, s.lace.recovery = true → s.laceSt ≠ 5 →
      ∃ t, exec .linkDown s = .next t ∧ t.fb LACE_STAT_down = true ∧ t.laceSt = s.laceSt ∧ t.f LACE_STAT_session = s.f LACE_STAT_session
        ∧ t.lace = { s.lace with recovery := false } ∧ onlyChanges [.regs, .ic, .lace, .out] s t
        ∧ (s.fb LACE_STAT_down = true → t.regs = s.regs)
        ∧ (s.fb LACE_STAT_down = false → t.f LACE_STAT_downs = satAdd LACE_STAT_downs.w (s.f LACE_STAT_downs) 1 ∧ t.f LACE_STAT_failed = 0
            ∧ t.f (IC_CNT_count 50) = min 255 (s.f (IC_CNT_count 50) + 1)))
    ∧ (∀ s : State, s.laceUp = true →
      (s.lace.block = 0 → s.lace.phys.part = [] → ∃ t ws, exec .retrainBlock s = .next t ∧ t.out = s.out ++ [.laceRetrainBlock, .stripe ws]
        ∧ ws.map (·.1) = lanes.filter (fun i => decide (i ≠ s.f SPR_LANE_LOOP_lane))
        ∧ (∀ x ∈ ws, ∃ rd, x.2 = (encodeWord rd (List.replicate 4 symRtb)).1)
        ∧ t.lace = { s.lace with phys := t.lace.phys, block := 1025 } ∧ onlyChanges [.lace, .out] s t)
      ∧ (s.lace.block ≠ 0 → exec .retrainBlock s = .next s))
    ∧ (∀ (lane : Nat) (s : State), s.laceUp = true → lane < 9 →
      ∃ t, exec (.adaptationFreeze lane) s = .next t ∧ lane ∈ t.lace.frozen ∧ (∀ x ∈ s.lace.frozen, x ∈ t.lace.frozen)
        ∧ t.lace = { s.lace with frozen := t.lace.frozen } ∧ onlyChanges [.lace] s t)

/-- While the link is up: a packet whose CRC fails, or whose header is out of form, is counted and moves no channel. A sound one's
ack, when it lies among the outstanding packets, moves base behind it, and beyond them is counted; its own seq advances the
expected one only when equal to it, and is counted as ahead or duplicate else. A feedback timer makes that channel's feedback
due, which CTRL sends when it owns the transmitter. A replay timeout counts a replay and an expiry and starts at the oldest
packet, keeping base (and, while no requester owns the transmitter, next and storage), and at the limit starts a recovery. A
spill writes the oldest packet on chip to the replay spill's ring (its layout is the model's choice, log entry 67); a refill
counts and reads it back, or halts the mover where a word cannot be read. That feedback for channel 3 is a framing error, and
that a replay counts at the expiry that starts a recovery, are the model's choices (log entry 54). -/
def Obligations.PacketsAreJudgedAndReplayed : Prop :=
  (∀ (b : List Byte) (c : Instr) (s : State), (c = .packet b ∨ c = .feedback b) → s.laceUp = true →
      (packetSound b = false → ∃ t, exec c s = .next t ∧ t.f LACE_ERR_crc = satAdd LACE_ERR_crc.w (s.f LACE_ERR_crc) 1
          ∧ (∀ v, v < 3 → t.vc v = s.vc v) ∧ onlyChanges [.regs, .ic, .lace, .out] s t)
      ∧ (packetSound b = true → headerOk (leNat (b.take 8)) = false → ∃ t, exec c s = .next t ∧ t.f LACE_ERR_framing = satAdd LACE_ERR_framing.w (s.f LACE_ERR_framing) 1
          ∧ (∀ v, v < 3 → t.vc v = s.vc v) ∧ onlyChanges [.regs, .ic, .lace, .out] s t)
      ∧ (∀ h v sq fv a, packetSound b = true → h = leNat (b.take 8) → headerOk h = true → v = bits h 8 2 → sq = bits h 16 16 → fv = bits h 48 2 → a = bits h 32 16 →
        ∃ t, exec c s = .next t
          ∧ (∀ k, k < 3 → (t.vc k).base = if k = fv ∧ (a + 65536 - (s.vc fv).base) % 65536 < (s.vc fv).outst then (a + 1) % 65536 else (s.vc k).base)
          ∧ (∀ k, k < 3 → (t.vc k).expected = if k = v ∧ (sq + 65536 - (s.vc v).expected) % 65536 = 0 then ((s.vc v).expected + 1) % 65536 else (s.vc k).expected)
          ∧ (v ≠ 3 → 0 < (sq + 65536 - (s.vc v).expected) % 65536 → (sq + 65536 - (s.vc v).expected) % 65536 < 32768 →
              t.f (LACE_VC_ERR_discards v) = satAdd (LACE_VC_ERR_discards v).w (s.f (LACE_VC_ERR_discards v)) 1)
          ∧ (v ≠ 3 → 32768 ≤ (sq + 65536 - (s.vc v).expected) % 65536 →
              t.f (LACE_VC_ERR_dups v) = satAdd (LACE_VC_ERR_dups v).w (s.f (LACE_VC_ERR_dups v)) 1)
          ∧ ((s.vc fv).outst ≤ (a + 65536 - (s.vc fv).base) % 65536 → (a + 65536 - (s.vc fv).base) % 65536 < 32768 →
              t.f (LACE_VC_ERR_ack_bad fv) = satAdd (LACE_VC_ERR_ack_bad fv).w (s.f (LACE_VC_ERR_ack_bad fv)) 1)
          ∧ t.laceSt = 5 ∧ onlyChanges [.regs, .ic, .arb, .pair, .lace, .out] s t))
    ∧ (∀ (v : Fin 3) (s : State),
      (s.laceUp = true → ∃ t, exec (.feedbackTimer v) s = .next t ∧ onlyChanges [.arb, .pair, .lace, .out] s t
        ∧ (s.ctrlOwns → t.lace.fbDue = [] ∧ .lace (packetBytes 3 0 0 (s.fbWord v.val) []) ∈ t.out)
        ∧ (s.laceQuiet → v.val ∈ t.lace.fbDue ∧ t.out = s.out))
      ∧ (s.laceUp = false → exec (.feedbackTimer v) s = .next s))
    ∧ (∀ (v : Fin 3) (s : State), s.laceUp = true → (s.vc v.val).outst ≠ 0 →
      ∃ t, exec (.replayTimeout v) s = .next t ∧ keepsMemory s t ∧ (t.vc v.val).base = (s.vc v.val).base
        ∧ t.f (LACE_VC_ERR_replays v.val) = satAdd (LACE_VC_ERR_replays v.val).w (s.f (LACE_VC_ERR_replays v.val)) 1
        ∧ (s.laceQuiet → (t.vc v.val).next = (s.vc v.val).next ∧ (t.vc v.val).store = (s.vc v.val).store)
        ∧ ((s.vc v.val).expiries + 1 < s.f LACE_REPLAY_CFG_max_replays → t.laceSt = 5 ∧ (t.vc v.val).expiries = (s.vc v.val).expiries + 1
            ∧ (s.laceQuiet → (t.vc v.val).stalled = ((s.vc v.val).store.head?).map (fun p => p.seq))
            ∧ onlyChanges [.regs, .ic, .arb, .trace, .pat, .pair, .lace, .mem, .out] s t)
        ∧ (s.f LACE_REPLAY_CFG_max_replays ≤ (s.vc v.val).expiries + 1 → t.laceSt = 2 ∧ t.lace.recovery = true ∧ (s.laceQuiet → s.recovering t)))
    ∧ (∀ (v : Nat) (p : Pkt) (s : State), s.oldestOnChip = some (v, p) → s.run = true → s.owns resCstore 73 = true → s.chipFull = true →
      s.lace.spillHead + unitsOf p.slots + 1 ≤ s.spillTail + 262144 →
      ∃ t, exec .replaySpill s = .next t ∧ t.lace.spillHead = s.lace.spillHead + unitsOf p.slots + 1
        ∧ (∃ x ∈ (t.vc v).store, x.seq = p.seq ∧ x.slots = p.slots ∧ x.spilled = true ∧ x.pos = s.lace.spillHead)
        ∧ (t.vc v).base = (s.vc v).base ∧ onlyChanges [.regs, .arb, .pat, .pair, .lace, .mem, .out] s t
        ∧ (s.fb PAT_STAT_clearing = false → s.pat.csBase % 8 = 0 → unitsOf p.slots ≤ 4 → (∀ l ∈ p.slots, l.length = 32) →
            (∀ k, k < unitsOf p.slots + 1 → t.pkgBytes (s.pat.csBase + replayOffset (s.lace.spillHead + k)) 64 = ((spillBytes v p).drop (64 * k)).take 64)
            ∧ (∀ x, (∀ k, k < unitsOf p.slots + 1 → x < s.pat.csBase + replayOffset (s.lace.spillHead + k)
                ∨ s.pat.csBase + replayOffset (s.lace.spillHead + k) + 64 ≤ x) → t.pkgByte x = s.pkgByte x)))
    ∧ (∀ (v : Fin 3) (p : Pkt) (s : State), s.refillNext v.val = some p → s.run = true → s.laceUp = true → s.owns resCstore 73 = true →
      ∃ t, exec (.refill v) s = .next t ∧ t.f LACE_SPILL_refills = satAdd LACE_SPILL_refills.w (s.f LACE_SPILL_refills) 1
        ∧ ((s.readSpill p.pos (unitsOf p.slots + 1)).2 = false → t.halted = true ∧ t.f PAIR_HALT_halt_cause = 4)
        ∧ ((s.readSpill p.pos (unitsOf p.slots + 1)).2 = true → (t.vc v.val).base = (s.vc v.val).base ∧ onlyChanges [.regs, .arb, .pair, .lace, .out] s t
          ∧ (s.laceQuiet → (t.vc v.val).stalled = (s.vc v.val).stalled ∧ ∃ x ∈ (t.vc v.val).store, x.seq = p.seq ∧ x.back = true
              ∧ x.slots = (slotsOf 8 ((s.readSpill p.pos (unitsOf p.slots + 1)).1.drop 64)).take p.slots.length)))

/-- A write of ERR_LOG_CI within the records written is taken, one outside is counted and leaves CI. A read of ERR_LOG_RD gives
the word of the record at CI, zero when there is none or in a hard halt, and changes nothing else but the channel's idle
count; while ELOG has no channel of CSTORE, or an earlier read waits, it waits. A sound BIST row only moves on; a faulty row
of an array in service with a repair row left takes one and counts. An error in use is counted where it was corrected; an
uncorrectable one of arrays 16 to 23, or in a dirty way, halts the mover, and one in a clean way discards it (that dirty is a
differing stored copy is the model's reading, log entry 68). A parity failure of control state, in RUN, leaves the unit
RETIRED with its bit and reason 2, and the fold in hand refused; one out of service takes nothing else with it. -/
def Obligations.ErrorLogAndFailures : Prop :=
  (∀ (v : W32) (s : State), s.served = true →
      (idxDiff (BitVec.ofNat 32 (s.f ERR_LOG_PI_pi)) v ≤ idxDiff (BitVec.ofNat 32 (s.f ERR_LOG_PI_pi)) (BitVec.ofNat 32 (s.f ERR_LOG_CI_ci)) →
        ∃ t, exec (.errLogCi v) s = .next t ∧ t.f ERR_LOG_CI_ci = v.toNat ∧ keepsRegs (fun o => o = ERR_LOG_CI) s t ∧ onlyChanges [.regs] s t)
      ∧ (idxDiff (BitVec.ofNat 32 (s.f ERR_LOG_PI_pi)) (BitVec.ofNat 32 (s.f ERR_LOG_CI_ci)) < idxDiff (BitVec.ofNat 32 (s.f ERR_LOG_PI_pi)) v →
        ∃ t, exec (.errLogCi v) s = .next t ∧ t.f ERR_LOG_STAT_ci_bad = satAdd ERR_LOG_STAT_ci_bad.w (s.f ERR_LOG_STAT_ci_bad) 1
          ∧ keepsRegs (fun o => o = ERR_LOG_STAT) s t ∧ onlyChanges [.regs] s t))
    ∧ (∀ (w : Fin 4) (s : State), s.served = true →
      (s.pair.hard = true → ∃ t, exec (.errLogRead w) s = .next t ∧ t.lastRead = [0] ∧ onlyChanges [.lastRead] s t)
      ∧ (s.pair.hard = false → s.elogOpen = true → s.err.reads = [] → ∃ t, exec (.errLogRead w) s = .next t ∧ onlyChanges [.arb, .lastRead] s t
        ∧ (s.f ERR_LOG_CI_ci = s.f ERR_LOG_PI_pi → t.lastRead = [0])
        ∧ (s.f ERR_LOG_CI_ci ≠ s.f ERR_LOG_PI_pi → ∀ r, (s.f ERR_LOG_CI_ci % 4096, r) ∈ s.err.log →
            (∀ x ∈ s.err.log, x.1 = s.f ERR_LOG_CI_ci % 4096 → x.2 = r) → t.lastRead = [r.getD w.val 0]))
      ∧ (s.pair.hard = false → (s.elogOpen = false ∨ s.err.reads ≠ []) → ∃ t, exec (.errLogRead w) s = .next t ∧ t.lastRead = []
        ∧ t.err = { s.err with reads := s.err.reads ++ [(none, w.val, 0, 64)] } ∧ onlyChanges [.err, .lastRead] s t))
    ∧ (∀ s : State, s.fb SPR_POLICY_bist_en = true → s.run = true → s.spr.array < 24 →
      (s.spr.array < 16 → s.bankRetired s.spr.array = false) →
      (∃ t, exec (.bistRow .sound) s = .next t ∧ onlyChanges [.spr] s t
        ∧ (s.spr.row + 1 < arrayRows s.spr.array → t.spr = { s.spr with row := s.spr.row + 1 })
        ∧ (arrayRows s.spr.array ≤ s.spr.row + 1 → t.spr = { s.spr with array := s.nextArray s.spr.array, row := 0 }))
      ∧ (s.f (SPR_ARRAY_repair_used s.spr.array) < 8 →
        ∃ t, exec (.bistRow .faulty) s = .next t ∧ t.f (SPR_ARRAY_repair_used s.spr.array) = s.f (SPR_ARRAY_repair_used s.spr.array) + 1
          ∧ t.f (SPR_ARRAY_bist_fail s.spr.array) = satAdd (SPR_ARRAY_bist_fail s.spr.array).w (s.f (SPR_ARRAY_bist_fail s.spr.array)) 1
          ∧ onlyChanges [.regs, .err, .spr] s t))
    ∧ (∀ (a row : Nat) (s : State), s.run = true →
      (a < 24 → ∃ t, exec (.bistRow (.corrected a)) s = .next t ∧ keepsRegs (fun o => o = SPR_ARRAY a) s t ∧ onlyChanges [.regs] s t
        ∧ t.f (SPR_ARRAY_corrected a) = satAdd (SPR_ARRAY_corrected a).w (s.f (SPR_ARRAY_corrected a)) 1)
      ∧ (16 ≤ a → a < 24 → s.pair.hard = false → ∃ t, exec (.bistRow (.lostRow a row)) s = .next t ∧ t.halted = true ∧ t.f PAIR_HALT_halt_cause = 4
        ∧ (s.f (SPR_ARRAY_repair_used a) < 8 → t.f (SPR_ARRAY_repair_used a) = s.f (SPR_ARRAY_repair_used a) + 1) ∧ t.q = s.q ∧ t.fl = s.fl ∧ t.mem = s.mem))
    ∧ (∀ (k : CtxKind) (n row : Nat) (s : State), s.run = true →
      (s.hot k n = false → exec (.bistRow (.lostContext k n row)) s = .next s)
      ∧ (s.hot k n = true → s.dirty k n = true → s.pair.hard = false → ∃ t, exec (.bistRow (.lostContext k n row)) s = .next t ∧ t.halted = true
        ∧ t.f PAIR_HALT_halt_cause = 4 ∧ t.q = s.q ∧ t.cq = s.cq ∧ t.ctr = s.ctr ∧ t.mem = s.mem)
      ∧ (s.hot k n = true → s.dirty k n = false → s.f (SPR_ARRAY_repair_used (n % 16)) < 8 →
        ∃ t, exec (.bistRow (.lostContext k n row)) s = .next t ∧ t.hot k n = false ∧ (∀ m, m ≠ n → t.hot k m = s.hot k m)
          ∧ t.f (SPR_ARRAY_corrected (n % 16)) = satAdd (SPR_ARRAY_corrected (n % 16)).w (s.f (SPR_ARRAY_corrected (n % 16))) 1
          ∧ t.f (SPR_ARRAY_repair_used (n % 16)) = s.f (SPR_ARRAY_repair_used (n % 16)) + 1 ∧ onlyChanges [.regs, .cache, .err] s t))
    ∧ (∀ (u : Nat) (s : State), s.run = true →
      (u < 68 → s.engSt u ≠ 7 → ∃ t, exec (.controlStateParityError false u) s = .next t ∧ t.engSt u = 7
        ∧ t.fb ⟨SPR_ENG_RETIRED (u / 64), u % 64, 1⟩ = true ∧ t.f (SPR_ENG_HEALTH_reason u) = 2
        ∧ (engInService (s.engSt u) = false → (∀ e, e ≠ u → e < 68 → t.engSt e = s.engSt e) ∧ onlyChanges [.regs, .err] s t))
      ∧ (u < 17 → s.redSt u ≠ 7 → (redInService (s.redSt u) = true → ∀ y, s.spr.shadow = some y → y.2.1 ≠ u) →
        ∃ t, exec (.controlStateParityError true u) s = .next t ∧ t.redSt u = 7 ∧ t.fb ⟨SPR_UNIT_RETIRED, u, 1⟩ = true ∧ t.f (SPR_RED_HEALTH_reason u) = 2
          ∧ (s.redSt u = 2 → ∀ g l, s.arb.folds = g :: l → .foldResponse 5 ∈ t.out)
          ∧ (redInService (s.redSt u) = false → (∀ e, e ≠ u → e < 17 → t.redSt e = s.redSt e)
              ∧ (∀ y, t.spr.shadow = some y → y.2.1 ≠ u) ∧ onlyChanges [.regs, .arb, .err, .spr] s t)))

/-- A test command with the wrong key, outside RUN or while a test runs only sets result 3, and so does one whose unit may not be
tested. An OFFLINE engine, an OFFLINE or SPARE reduction unit, the spare lane and a frozen, drained resource start their test:
busy with its kind, the unit TEST; a shadow starts when its self-test passes, else result 2; a shadow stop needs a shadow.
When a test ends busy is 0, the result is 1 or 2, source 47 counts, and a unit that passed is as it was or back in service as
asked, one that failed RETIRED; a lane test passes with no bit error, of the far end those heard among them. Busy 0 while a
shadow runs, result 2 for a failed self-test of a shadow, the refusal of dur 0 and the near end's outcome as the row's are the
model's choices (log entry 55). -/
def Obligations.TestsRunInService : Prop :=
  (∀ (w : W64) (c : Instr) (s : State), s.served = true → s.testOf w c →
      (bits w.toNat 16 16 ≠ 0x5A17 ∨ s.fb SPR_TEST_STAT_busy = true ∨ s.run = false) → s.testRefused c)
    ∧ (∀ (w : W64) (s : State), bits w.toNat 16 16 = 0x5A17 → s.fb SPR_TEST_STAT_busy = false → s.run = true →
      (testKind w 0 = true →
        ((testUnit w < 68 ∧ s.engSt (testUnit w) = 5) → ∃ t, exec (.engineSelfTest w) s = .next t ∧ t.engSt (testUnit w) = 6 ∧ s.testStarted 0 (testUnit w) t ∧ t.spr.online = testOnline w)
        ∧ (¬ (testUnit w < 68 ∧ s.engSt (testUnit w) = 5) → s.testRefused (.engineSelfTest w)))
      ∧ (testKind w 1 = true →
        ((testUnit w < 17 ∧ (s.redSt (testUnit w) = 5 ∨ s.redSt (testUnit w) = 4)) → ∃ t, exec (.reductionSelfTest w) s = .next t ∧ t.redSt (testUnit w) = 6
          ∧ s.testStarted 1 (testUnit w) t ∧ t.spr.former = s.redSt (testUnit w))
        ∧ (¬ (testUnit w < 17 ∧ (s.redSt (testUnit w) = 5 ∨ s.redSt (testUnit w) = 4)) → s.testRefused (.reductionSelfTest w)))
      ∧ (testKind w 2 = true →
        ((testUnit w < 17 ∧ s.redSt (testUnit w) ≤ 2 ∧ testShadow w < 17 ∧ (s.redSt (testShadow w) = 4 ∨ s.redSt (testShadow w) = 5) ∧ s.spr.shadow = none) →
          (∃ t, exec (.shadowStart w true) s = .next t ∧ t.redSt (testShadow w) = 6 ∧ t.spr.shadow = some (testUnit w, testShadow w, s.redSt (testShadow w))
            ∧ t.fb SPR_TEST_STAT_busy = false ∧ onlyChanges [.regs, .arb, .spr] s t)
          ∧ (∃ t, exec (.shadowStart w false) s = .next t ∧ t.f SPR_TEST_STAT_result = 2 ∧ t.fb SPR_TEST_STAT_busy = false ∧ t.spr.shadow = none
            ∧ t.redSt (testShadow w) = s.redSt (testShadow w) ∧ t.f (IC_CNT_count 47) = min 255 (s.f (IC_CNT_count 47) + 1)))
        ∧ (¬ (testUnit w < 17 ∧ s.redSt (testUnit w) ≤ 2 ∧ testShadow w < 17 ∧ (s.redSt (testShadow w) = 4 ∨ s.redSt (testShadow w) = 5) ∧ s.spr.shadow = none) →
          s.testRefused (.shadowStart w true) ∧ s.testRefused (.shadowStart w false)))
      ∧ (testKind w 3 = true → (s.spr.shadow = none → s.testRefused (.shadowStop w))
        ∧ (∀ u x f, s.spr.shadow = some (u, x, f) → ∃ t, exec (.shadowStop w) s = .next t ∧ s.testStarted 3 u t ∧ t.f SPR_TEST_STAT_errors = s.f SPR_TEST_STAT_errors))
      ∧ (testKind w 4 = true →
        ((testUnit w < 9 ∧ s.f (LACE_LANE_tx_use (testUnit w)) = 1 ∧ bits w.toNat 32 8 ≠ 0) → ∃ t, exec (.laneTest w) s = .next t
          ∧ t.f (LACE_LANE_tx_use (testUnit w)) = 3 ∧ t.spr.far = bit w.toNat 15 ∧ s.testStarted 4 (testUnit w) t)
        ∧ (¬ (testUnit w < 9 ∧ s.f (LACE_LANE_tx_use (testUnit w)) = 1 ∧ bits w.toNat 32 8 ≠ 0) → s.testRefused (.laneTest w)))
      ∧ (testKind w 5 = true →
        ((testUnit w < 7 ∧ s.drainedRes (testUnit w) = true) → ∃ t, exec (.portTest w) s = .next t ∧ s.testStarted 5 (testUnit w) t)
        ∧ (¬ (testUnit w < 7 ∧ s.drainedRes (testUnit w) = true) → s.testRefused (.portTest w))))
    ∧ (∀ (pass : Bool) (errors : W32) (checked : W64) (s : State), s.fb SPR_TEST_STAT_busy = true → s.run = true → s.f SPR_TEST_STAT_kind ≠ 3 →
      (s.f SPR_TEST_STAT_kind = 0 → s.spr.unit < 68) → (s.f SPR_TEST_STAT_kind = 1 → s.spr.unit < 17 ∧ s.spr.former < 16) → (s.f SPR_TEST_STAT_kind = 4 → s.spr.unit < 9) →
      ∃ t, exec (.testDone pass errors checked) s = .next t ∧ t.fb SPR_TEST_STAT_busy = false ∧ t.f (IC_CNT_count 47) = min 255 (s.f (IC_CNT_count 47) + 1)
        ∧ (s.f SPR_TEST_STAT_kind ≠ 4 → t.f SPR_TEST_STAT_result = (if pass = true then 1 else 2) ∧ t.f SPR_TEST_STAT_errors = errors.toNat
            ∧ t.reg SPR_TEST_BITS = checked ∧ onlyChanges [.regs, .ic, .arb, .err, .spr, .out] s t)
        ∧ (s.f SPR_TEST_STAT_kind = 4 → t.f SPR_TEST_STAT_result = (if t.f SPR_TEST_STAT_errors = 0 then 1 else 2)
            ∧ (s.spr.far = false → t.f SPR_TEST_STAT_errors = errors.toNat ∧ t.reg SPR_TEST_BITS = checked)
            ∧ (s.spr.far = true → t.f SPR_TEST_STAT_errors = min (2 ^ 32 - 1) (errors.toNat + s.spr.heard.errors)
                ∧ t.reg SPR_TEST_BITS = checked + BitVec.ofNat 64 s.spr.heard.bits)
            ∧ t.f (LACE_LANE_tx_use s.spr.unit) = (if t.f SPR_TEST_STAT_errors ≠ 0 ∧ s.fb SPR_POLICY_lane_retire = true then 2 else 1)
            ∧ ((t.f SPR_TEST_STAT_errors = 0 ∨ s.fb SPR_POLICY_lane_retire = false) → onlyChanges [.regs, .ic, .err, .out] s t)
            ∧ (t.f SPR_TEST_STAT_errors ≠ 0 → s.fb SPR_POLICY_lane_retire = true → bit (t.f SPR_LANE_RETIRED_retired) s.spr.unit = true
                ∧ (s.rxData s.spr.unit = true → s.laceSt = 5 → s.recovering t)))
        ∧ (s.f SPR_TEST_STAT_kind = 0 → s.engSt s.spr.unit = 6 →
            t.engSt s.spr.unit = (if pass = true then (if s.spr.online = true then s.backState false else 5) else 7))
        ∧ (s.f SPR_TEST_STAT_kind = 1 → s.redSt s.spr.unit = 6 →
            t.redSt s.spr.unit = (if pass = true then (if s.spr.online = true then s.backState true else s.spr.former) else 7)))
    ∧ (∀ (pass : Bool) (errors : W32) (checked : W64) (u x f : Nat) (s : State), s.fb SPR_TEST_STAT_busy = true → s.run = true →
      s.f SPR_TEST_STAT_kind = 3 → s.spr.shadow = some (u, x, f) → x < 17 → (f = 4 ∨ f = 5) →
      ∃ t, exec (.testDone pass errors checked) s = .next t ∧ t.fb SPR_TEST_STAT_busy = false ∧ t.f SPR_TEST_STAT_result = 1 ∧ t.spr.shadow = none
        ∧ t.redSt x = f ∧ t.f SPR_TEST_STAT_errors = s.f SPR_TEST_STAT_errors ∧ onlyChanges [.regs, .ic, .arb, .err, .spr, .out] s t)

/-- An 8-byte read of a register without its own read command returns its word, clears its RC fields and changes no other
register; a read of ERR_LOG_RD or IC_CLAIM is that command; a misformed read returns zero and is counted. An 8-byte write of a
plain register sets each RW field whose value is legal, changes no other field but W1C, and no other register; a write to
IC_SET is that command; misformed, reserved and closed accesses are only counted with their cause, and one with bad parity
raises source 40. An access waits behind a waiting read of its agent. That a misformed access to reserved space has cause 1,
and that xlat counts on the port that a Cobbler access names, are the model's choices (log entry 56). A rejected, failing or
misaddressed access has the effect of the command that reports it; one to a reserved area halts the mover; a core gets its
error. -/
def Obligations.RegisterAccessesAndRejections : Prop :=
  (∀ (a : Agent) (ofs : Nat) (r : Reg) (i j : Nat) (s : State), s.served = true → ofs < 0x100000 → s.agentWaits a = false → regAt ofs = some (r, i, j) →
      r ∉ [.icClaim, .izTrigVal, .izTrigInfo, .errLogRd] →
      ∃ t, exec (.registerRead a ofs 8) s = .next t ∧ t.lastRead = [s.view r i j ofs]
        ∧ (∀ d ∈ r.fields, d.acc = .rc → t.f ⟨ofs, d.lo, d.w⟩ = 0) ∧ keepsRegs (fun o => o = ofs) s t ∧ onlyChanges [.regs, .lastRead] s t
        ∧ ((∀ d ∈ r.fields, d.acc ≠ .rc) → t.regs = s.regs))
    ∧ (∀ (a : Agent) (ofs size : Nat) (s : State), s.served = true → ofs < 0x100000 → s.agentWaits a = true →
      (∃ t, exec (.registerRead a ofs size) s = .next t ∧ t.cache = { s.cache with accs := s.cache.accs ++ [{ c := .registerRead a ofs size, first := true }] } ∧ onlyChanges [.cache] s t)
      ∧ (∀ data ok, ∃ t, exec (.registerWrite a ofs size data ok) s = .next t ∧ onlyChanges [.cache] s t
          ∧ t.cache = { s.cache with accs := s.cache.accs ++ [{ c := .registerWrite a ofs size data ok, first := true }] }))
    ∧ (∀ (a : Agent) (s : State), s.served = true → s.agentWaits a = false →
      ((s.pair.hard = true ∨ (s.elogOpen = true ∧ s.err.reads = [])) → ∀ w : Fin 4, exec (.registerRead a (ERR_LOG_RD w.val) 8) s = exec (.errLogRead w) s)
      ∧ (s.pair.hard = false → (s.elogOpen = false ∨ s.err.reads ≠ []) → ∀ w : Fin 4, ∃ t, exec (.registerRead a (ERR_LOG_RD w.val) 8) s = .next t
          ∧ t.lastRead = [] ∧ t.err = { s.err with reads := s.err.reads ++ [(some a, w.val, 0, 64)] } ∧ onlyChanges [.err, .lastRead] s t)
      ∧ (∀ g, g < 8 → exec (.registerRead a (IC_CLAIM g) 8) s = exec (.icClaim g) s))
    ∧ (∀ (a : Agent) (ofs size : Nat) (s : State), s.served = true → ofs < 0x100000 → s.agentWaits a = false → accesses ofs size = [] →
      (∃ t, exec (.registerRead a ofs size) s = .next t ∧ t.lastRead = [0] ∧ s.badCounted a ofs 1 t ∧ onlyChanges [.regs, .lastRead] s t)
      ∧ (∀ data, ∃ t, exec (.registerWrite a ofs size data true) s = .next t ∧ s.badCounted a ofs 1 t ∧ onlyChanges [.regs] s t))
    ∧ (∀ (a : Agent) (ofs : Nat) (data : List Byte) (s : State), s.served = true → ofs < 0x100000 → s.agentWaits a = false → ofs % 8 = 0 → data.length = 8 →
      (regAt ofs = none → ∃ t, exec (.registerWrite a ofs 8 data true) s = .next t ∧ s.badCounted a ofs 0 t ∧ onlyChanges [.regs] s t)
      ∧ (∀ r i j, regAt ofs = some (r, i, j) → closedTo r i a = true →
          ∃ t, exec (.registerWrite a ofs 8 data true) s = .next t ∧ s.badCounted a ofs 2 t ∧ onlyChanges [.regs] s t)
      ∧ (∀ r i j, regAt ofs = some (r, i, j) → r ∈ plainRegs → instanceOk r i j = true →
          ∃ t, exec (.registerWrite a ofs 8 data true) s = .next t ∧ keepsRegs (fun o => o = ofs) s t ∧ onlyChanges [.regs] s t
            ∧ (∀ d ∈ r.fields, d.acc = .rw → t.f ⟨ofs, d.lo, d.w⟩ = if valueOk r d.lo (bits (leNat data) d.lo d.w) = true then bits (leNat data) d.lo d.w else s.f ⟨ofs, d.lo, d.w⟩)
            ∧ (∀ d ∈ r.fields, d.acc ≠ .rw → d.acc ≠ .w1c → t.f ⟨ofs, d.lo, d.w⟩ = s.f ⟨ofs, d.lo, d.w⟩))
      ∧ exec (.registerWrite a IC_SET 8 data true) s = exec (.icSet (BitVec.ofNat 10 (leNat data))) s
      ∧ (∀ p, portOf a = some p → ∃ t, exec (.registerWrite a ofs 8 data false) s = .next t
          ∧ t.f (IZ_HOSTP_STAT_parity_in p) = satAdd (IZ_HOSTP_STAT_parity_in p).w (s.f (IZ_HOSTP_STAT_parity_in p)) 1
          ∧ t.f (IC_CNT_count 40) = min 255 (s.f (IC_CNT_count 40) + 1) ∧ onlyChanges [.regs, .ic, .out] s t))
    ∧ (∀ (c : Nat) (s : State), exec (.transactionRejected (.record c)) s = exec (.ringBroken c false) s
      ∧ exec (.memWriteError (.record c)) s = exec (.ringBroken c true) s)
    ∧ (∀ (e k : Nat) (s : State), (s.burstIn e k 0 = true → exec (.transactionRejected (.dataRead e k)) s = exec (.dataReadDone e k .rejected) s)
      ∧ (s.burstIn e k 1 = true → exec (.mempAddressError (.dataRead e k)) s = exec (.dataReadDone e k .rejected) s))
    ∧ (∀ (q : BitVec 22) (s : State), ((s.qctx q.toNat).device = false → exec (.transactionRejected (.entryFetch q)) s = exec (.entryFetchDone q .rejected) s)
      ∧ ((s.qctx q.toNat).device = true → exec (.mempAddressError (.entryFetch q)) s = exec (.entryFetchDone q .rejected) s))
    ∧ (∀ (c : Nat) (p : Bool) (s : State), s.served = true → ∃ t, exec (.transactionRejected (.cobAccess c p)) s = .next t ∧ t.out = s.out ++ [.cobError (some c)]
      ∧ t.f (IZ_HOSTP_STAT_xlat (b2n p)) = satAdd (IZ_HOSTP_STAT_xlat (b2n p)).w (s.f (IZ_HOSTP_STAT_xlat (b2n p))) 1
      ∧ keepsRegs (fun o => o = IZ_HOSTP_STAT (b2n p)) s t ∧ onlyChanges [.regs, .out] s t)
    ∧ (∀ (o : Nat) (s : State), s.run = true → s.pair.hard = false →
      (∃ t, exec (.memWriteError (.reserved o)) s = .next t ∧ t.halted = true ∧ t.f PAIR_HALT_halt_cause = 4 ∧ t.pins.haltOut = true ∧ t.q = s.q ∧ t.fl = s.fl ∧ t.mem = s.mem)
      ∧ (∃ t, exec (.mempAddressError (.reserved o)) s = .next t ∧ t.halted = true ∧ t.f PAIR_HALT_halt_cause = 4
          ∧ t.f IZ_MEMP_STAT_addr_err = satAdd IZ_MEMP_STAT_addr_err.w (s.f IZ_MEMP_STAT_addr_err) 1 ∧ t.q = s.q ∧ t.fl = s.fl ∧ t.mem = s.mem))
end

