-- ==== Sys2Proof/Laws/State.lean ====
section
/-!
SUPPORT. What each update of the state leaves alone: one lemma per field per update.
-/
namespace Sys2Proof.Machine

variable (s : State)

/-! `State.withPending` changes `pending` only. -/
@[simp] theorem State.withPending_pending (v : List Instr) : (s.withPending v).pending = v := rfl
@[simp] theorem State.withPending_regs (v : List Instr) : (s.withPending v).regs = s.regs := rfl
@[simp] theorem State.withPending_q (v : List Instr) : (s.withPending v).q = s.q := rfl
@[simp] theorem State.withPending_cq (v : List Instr) : (s.withPending v).cq = s.cq := rfl
@[simp] theorem State.withPending_ctr (v : List Instr) : (s.withPending v).ctr = s.ctr := rfl
@[simp] theorem State.withPending_mr (v : List Instr) : (s.withPending v).mr = s.mr := rfl
@[simp] theorem State.withPending_pd (v : List Instr) : (s.withPending v).pd = s.pd := rfl
@[simp] theorem State.withPending_fl (v : List Instr) : (s.withPending v).fl = s.fl := rfl
@[simp] theorem State.withPending_park (v : List Instr) : (s.withPending v).park = s.park := rfl
@[simp] theorem State.withPending_cqs (v : List Instr) : (s.withPending v).cqs = s.cqs := rfl
@[simp] theorem State.withPending_cache (v : List Instr) : (s.withPending v).cache = s.cache := rfl
@[simp] theorem State.withPending_ic (v : List Instr) : (s.withPending v).ic = s.ic := rfl
@[simp] theorem State.withPending_arb (v : List Instr) : (s.withPending v).arb = s.arb := rfl
@[simp] theorem State.withPending_lines (v : List Instr) : (s.withPending v).lines = s.lines := rfl
@[simp] theorem State.withPending_tb (v : List Instr) : (s.withPending v).tb = s.tb := rfl
@[simp] theorem State.withPending_trace (v : List Instr) : (s.withPending v).trace = s.trace := rfl
@[simp] theorem State.withPending_adm (v : List Instr) : (s.withPending v).adm = s.adm := rfl
@[simp] theorem State.withPending_pat (v : List Instr) : (s.withPending v).pat = s.pat := rfl
@[simp] theorem State.withPending_pair (v : List Instr) : (s.withPending v).pair = s.pair := rfl
@[simp] theorem State.withPending_lace (v : List Instr) : (s.withPending v).lace = s.lace := rfl
@[simp] theorem State.withPending_err (v : List Instr) : (s.withPending v).err = s.err := rfl
@[simp] theorem State.withPending_spr (v : List Instr) : (s.withPending v).spr = s.spr := rfl
@[simp] theorem State.withPending_pins (v : List Instr) : (s.withPending v).pins = s.pins := rfl
@[simp] theorem State.withPending_mem (v : List Instr) : (s.withPending v).mem = s.mem := rfl
@[simp] theorem State.withPending_memSize (v : List Instr) : (s.withPending v).memSize = s.memSize := rfl
@[simp] theorem State.withPending_out (v : List Instr) : (s.withPending v).out = s.out := rfl
@[simp] theorem State.withPending_lastRead (v : List Instr) : (s.withPending v).lastRead = s.lastRead := rfl
@[simp] theorem State.withPending_free (v : List Instr) : (s.withPending v).free = s.free := rfl

/-! `State.withRegs` changes `regs` only. -/
@[simp] theorem State.withRegs_regs (v : Tbl W64) : (s.withRegs v).regs = v := rfl
@[simp] theorem State.withRegs_pending (v : Tbl W64) : (s.withRegs v).pending = s.pending := rfl
@[simp] theorem State.withRegs_q (v : Tbl W64) : (s.withRegs v).q = s.q := rfl
@[simp] theorem State.withRegs_cq (v : Tbl W64) : (s.withRegs v).cq = s.cq := rfl
@[simp] theorem State.withRegs_ctr (v : Tbl W64) : (s.withRegs v).ctr = s.ctr := rfl
@[simp] theorem State.withRegs_mr (v : Tbl W64) : (s.withRegs v).mr = s.mr := rfl
@[simp] theorem State.withRegs_pd (v : Tbl W64) : (s.withRegs v).pd = s.pd := rfl
@[simp] theorem State.withRegs_fl (v : Tbl W64) : (s.withRegs v).fl = s.fl := rfl
@[simp] theorem State.withRegs_park (v : Tbl W64) : (s.withRegs v).park = s.park := rfl
@[simp] theorem State.withRegs_cqs (v : Tbl W64) : (s.withRegs v).cqs = s.cqs := rfl
@[simp] theorem State.withRegs_cache (v : Tbl W64) : (s.withRegs v).cache = s.cache := rfl
@[simp] theorem State.withRegs_ic (v : Tbl W64) : (s.withRegs v).ic = s.ic := rfl
@[simp] theorem State.withRegs_arb (v : Tbl W64) : (s.withRegs v).arb = s.arb := rfl
@[simp] theorem State.withRegs_lines (v : Tbl W64) : (s.withRegs v).lines = s.lines := rfl
@[simp] theorem State.withRegs_tb (v : Tbl W64) : (s.withRegs v).tb = s.tb := rfl
@[simp] theorem State.withRegs_trace (v : Tbl W64) : (s.withRegs v).trace = s.trace := rfl
@[simp] theorem State.withRegs_adm (v : Tbl W64) : (s.withRegs v).adm = s.adm := rfl
@[simp] theorem State.withRegs_pat (v : Tbl W64) : (s.withRegs v).pat = s.pat := rfl
@[simp] theorem State.withRegs_pair (v : Tbl W64) : (s.withRegs v).pair = s.pair := rfl
@[simp] theorem State.withRegs_lace (v : Tbl W64) : (s.withRegs v).lace = s.lace := rfl
@[simp] theorem State.withRegs_err (v : Tbl W64) : (s.withRegs v).err = s.err := rfl
@[simp] theorem State.withRegs_spr (v : Tbl W64) : (s.withRegs v).spr = s.spr := rfl
@[simp] theorem State.withRegs_pins (v : Tbl W64) : (s.withRegs v).pins = s.pins := rfl
@[simp] theorem State.withRegs_mem (v : Tbl W64) : (s.withRegs v).mem = s.mem := rfl
@[simp] theorem State.withRegs_memSize (v : Tbl W64) : (s.withRegs v).memSize = s.memSize := rfl
@[simp] theorem State.withRegs_out (v : Tbl W64) : (s.withRegs v).out = s.out := rfl
@[simp] theorem State.withRegs_lastRead (v : Tbl W64) : (s.withRegs v).lastRead = s.lastRead := rfl
@[simp] theorem State.withRegs_free (v : Tbl W64) : (s.withRegs v).free = s.free := rfl

/-! `State.withQ` changes `q` only. -/
@[simp] theorem State.withQ_q (v : Tbl QCtx) : (s.withQ v).q = v := rfl
@[simp] theorem State.withQ_pending (v : Tbl QCtx) : (s.withQ v).pending = s.pending := rfl
@[simp] theorem State.withQ_regs (v : Tbl QCtx) : (s.withQ v).regs = s.regs := rfl
@[simp] theorem State.withQ_cq (v : Tbl QCtx) : (s.withQ v).cq = s.cq := rfl
@[simp] theorem State.withQ_ctr (v : Tbl QCtx) : (s.withQ v).ctr = s.ctr := rfl
@[simp] theorem State.withQ_mr (v : Tbl QCtx) : (s.withQ v).mr = s.mr := rfl
@[simp] theorem State.withQ_pd (v : Tbl QCtx) : (s.withQ v).pd = s.pd := rfl
@[simp] theorem State.withQ_fl (v : Tbl QCtx) : (s.withQ v).fl = s.fl := rfl
@[simp] theorem State.withQ_park (v : Tbl QCtx) : (s.withQ v).park = s.park := rfl
@[simp] theorem State.withQ_cqs (v : Tbl QCtx) : (s.withQ v).cqs = s.cqs := rfl
@[simp] theorem State.withQ_cache (v : Tbl QCtx) : (s.withQ v).cache = s.cache := rfl
@[simp] theorem State.withQ_ic (v : Tbl QCtx) : (s.withQ v).ic = s.ic := rfl
@[simp] theorem State.withQ_arb (v : Tbl QCtx) : (s.withQ v).arb = s.arb := rfl
@[simp] theorem State.withQ_lines (v : Tbl QCtx) : (s.withQ v).lines = s.lines := rfl
@[simp] theorem State.withQ_tb (v : Tbl QCtx) : (s.withQ v).tb = s.tb := rfl
@[simp] theorem State.withQ_trace (v : Tbl QCtx) : (s.withQ v).trace = s.trace := rfl
@[simp] theorem State.withQ_adm (v : Tbl QCtx) : (s.withQ v).adm = s.adm := rfl
@[simp] theorem State.withQ_pat (v : Tbl QCtx) : (s.withQ v).pat = s.pat := rfl
@[simp] theorem State.withQ_pair (v : Tbl QCtx) : (s.withQ v).pair = s.pair := rfl
@[simp] theorem State.withQ_lace (v : Tbl QCtx) : (s.withQ v).lace = s.lace := rfl
@[simp] theorem State.withQ_err (v : Tbl QCtx) : (s.withQ v).err = s.err := rfl
@[simp] theorem State.withQ_spr (v : Tbl QCtx) : (s.withQ v).spr = s.spr := rfl
@[simp] theorem State.withQ_pins (v : Tbl QCtx) : (s.withQ v).pins = s.pins := rfl
@[simp] theorem State.withQ_mem (v : Tbl QCtx) : (s.withQ v).mem = s.mem := rfl
@[simp] theorem State.withQ_memSize (v : Tbl QCtx) : (s.withQ v).memSize = s.memSize := rfl
@[simp] theorem State.withQ_out (v : Tbl QCtx) : (s.withQ v).out = s.out := rfl
@[simp] theorem State.withQ_lastRead (v : Tbl QCtx) : (s.withQ v).lastRead = s.lastRead := rfl
@[simp] theorem State.withQ_free (v : Tbl QCtx) : (s.withQ v).free = s.free := rfl

/-! `State.withCq` changes `cq` only. -/
@[simp] theorem State.withCq_cq (v : Tbl CqCtx) : (s.withCq v).cq = v := rfl
@[simp] theorem State.withCq_pending (v : Tbl CqCtx) : (s.withCq v).pending = s.pending := rfl
@[simp] theorem State.withCq_regs (v : Tbl CqCtx) : (s.withCq v).regs = s.regs := rfl
@[simp] theorem State.withCq_q (v : Tbl CqCtx) : (s.withCq v).q = s.q := rfl
@[simp] theorem State.withCq_ctr (v : Tbl CqCtx) : (s.withCq v).ctr = s.ctr := rfl
@[simp] theorem State.withCq_mr (v : Tbl CqCtx) : (s.withCq v).mr = s.mr := rfl
@[simp] theorem State.withCq_pd (v : Tbl CqCtx) : (s.withCq v).pd = s.pd := rfl
@[simp] theorem State.withCq_fl (v : Tbl CqCtx) : (s.withCq v).fl = s.fl := rfl
@[simp] theorem State.withCq_park (v : Tbl CqCtx) : (s.withCq v).park = s.park := rfl
@[simp] theorem State.withCq_cqs (v : Tbl CqCtx) : (s.withCq v).cqs = s.cqs := rfl
@[simp] theorem State.withCq_cache (v : Tbl CqCtx) : (s.withCq v).cache = s.cache := rfl
@[simp] theorem State.withCq_ic (v : Tbl CqCtx) : (s.withCq v).ic = s.ic := rfl
@[simp] theorem State.withCq_arb (v : Tbl CqCtx) : (s.withCq v).arb = s.arb := rfl
@[simp] theorem State.withCq_lines (v : Tbl CqCtx) : (s.withCq v).lines = s.lines := rfl
@[simp] theorem State.withCq_tb (v : Tbl CqCtx) : (s.withCq v).tb = s.tb := rfl
@[simp] theorem State.withCq_trace (v : Tbl CqCtx) : (s.withCq v).trace = s.trace := rfl
@[simp] theorem State.withCq_adm (v : Tbl CqCtx) : (s.withCq v).adm = s.adm := rfl
@[simp] theorem State.withCq_pat (v : Tbl CqCtx) : (s.withCq v).pat = s.pat := rfl
@[simp] theorem State.withCq_pair (v : Tbl CqCtx) : (s.withCq v).pair = s.pair := rfl
@[simp] theorem State.withCq_lace (v : Tbl CqCtx) : (s.withCq v).lace = s.lace := rfl
@[simp] theorem State.withCq_err (v : Tbl CqCtx) : (s.withCq v).err = s.err := rfl
@[simp] theorem State.withCq_spr (v : Tbl CqCtx) : (s.withCq v).spr = s.spr := rfl
@[simp] theorem State.withCq_pins (v : Tbl CqCtx) : (s.withCq v).pins = s.pins := rfl
@[simp] theorem State.withCq_mem (v : Tbl CqCtx) : (s.withCq v).mem = s.mem := rfl
@[simp] theorem State.withCq_memSize (v : Tbl CqCtx) : (s.withCq v).memSize = s.memSize := rfl
@[simp] theorem State.withCq_out (v : Tbl CqCtx) : (s.withCq v).out = s.out := rfl
@[simp] theorem State.withCq_lastRead (v : Tbl CqCtx) : (s.withCq v).lastRead = s.lastRead := rfl
@[simp] theorem State.withCq_free (v : Tbl CqCtx) : (s.withCq v).free = s.free := rfl

/-! `State.withCtr` changes `ctr` only. -/
@[simp] theorem State.withCtr_ctr (v : Tbl Counter) : (s.withCtr v).ctr = v := rfl
@[simp] theorem State.withCtr_pending (v : Tbl Counter) : (s.withCtr v).pending = s.pending := rfl
@[simp] theorem State.withCtr_regs (v : Tbl Counter) : (s.withCtr v).regs = s.regs := rfl
@[simp] theorem State.withCtr_q (v : Tbl Counter) : (s.withCtr v).q = s.q := rfl
@[simp] theorem State.withCtr_cq (v : Tbl Counter) : (s.withCtr v).cq = s.cq := rfl
@[simp] theorem State.withCtr_mr (v : Tbl Counter) : (s.withCtr v).mr = s.mr := rfl
@[simp] theorem State.withCtr_pd (v : Tbl Counter) : (s.withCtr v).pd = s.pd := rfl
@[simp] theorem State.withCtr_fl (v : Tbl Counter) : (s.withCtr v).fl = s.fl := rfl
@[simp] theorem State.withCtr_park (v : Tbl Counter) : (s.withCtr v).park = s.park := rfl
@[simp] theorem State.withCtr_cqs (v : Tbl Counter) : (s.withCtr v).cqs = s.cqs := rfl
@[simp] theorem State.withCtr_cache (v : Tbl Counter) : (s.withCtr v).cache = s.cache := rfl
@[simp] theorem State.withCtr_ic (v : Tbl Counter) : (s.withCtr v).ic = s.ic := rfl
@[simp] theorem State.withCtr_arb (v : Tbl Counter) : (s.withCtr v).arb = s.arb := rfl
@[simp] theorem State.withCtr_lines (v : Tbl Counter) : (s.withCtr v).lines = s.lines := rfl
@[simp] theorem State.withCtr_tb (v : Tbl Counter) : (s.withCtr v).tb = s.tb := rfl
@[simp] theorem State.withCtr_trace (v : Tbl Counter) : (s.withCtr v).trace = s.trace := rfl
@[simp] theorem State.withCtr_adm (v : Tbl Counter) : (s.withCtr v).adm = s.adm := rfl
@[simp] theorem State.withCtr_pat (v : Tbl Counter) : (s.withCtr v).pat = s.pat := rfl
@[simp] theorem State.withCtr_pair (v : Tbl Counter) : (s.withCtr v).pair = s.pair := rfl
@[simp] theorem State.withCtr_lace (v : Tbl Counter) : (s.withCtr v).lace = s.lace := rfl
@[simp] theorem State.withCtr_err (v : Tbl Counter) : (s.withCtr v).err = s.err := rfl
@[simp] theorem State.withCtr_spr (v : Tbl Counter) : (s.withCtr v).spr = s.spr := rfl
@[simp] theorem State.withCtr_pins (v : Tbl Counter) : (s.withCtr v).pins = s.pins := rfl
@[simp] theorem State.withCtr_mem (v : Tbl Counter) : (s.withCtr v).mem = s.mem := rfl
@[simp] theorem State.withCtr_memSize (v : Tbl Counter) : (s.withCtr v).memSize = s.memSize := rfl
@[simp] theorem State.withCtr_out (v : Tbl Counter) : (s.withCtr v).out = s.out := rfl
@[simp] theorem State.withCtr_lastRead (v : Tbl Counter) : (s.withCtr v).lastRead = s.lastRead := rfl
@[simp] theorem State.withCtr_free (v : Tbl Counter) : (s.withCtr v).free = s.free := rfl

/-! `State.withMr` changes `mr` only. -/
@[simp] theorem State.withMr_mr (v : Tbl Region) : (s.withMr v).mr = v := rfl
@[simp] theorem State.withMr_pending (v : Tbl Region) : (s.withMr v).pending = s.pending := rfl
@[simp] theorem State.withMr_regs (v : Tbl Region) : (s.withMr v).regs = s.regs := rfl
@[simp] theorem State.withMr_q (v : Tbl Region) : (s.withMr v).q = s.q := rfl
@[simp] theorem State.withMr_cq (v : Tbl Region) : (s.withMr v).cq = s.cq := rfl
@[simp] theorem State.withMr_ctr (v : Tbl Region) : (s.withMr v).ctr = s.ctr := rfl
@[simp] theorem State.withMr_pd (v : Tbl Region) : (s.withMr v).pd = s.pd := rfl
@[simp] theorem State.withMr_fl (v : Tbl Region) : (s.withMr v).fl = s.fl := rfl
@[simp] theorem State.withMr_park (v : Tbl Region) : (s.withMr v).park = s.park := rfl
@[simp] theorem State.withMr_cqs (v : Tbl Region) : (s.withMr v).cqs = s.cqs := rfl
@[simp] theorem State.withMr_cache (v : Tbl Region) : (s.withMr v).cache = s.cache := rfl
@[simp] theorem State.withMr_ic (v : Tbl Region) : (s.withMr v).ic = s.ic := rfl
@[simp] theorem State.withMr_arb (v : Tbl Region) : (s.withMr v).arb = s.arb := rfl
@[simp] theorem State.withMr_lines (v : Tbl Region) : (s.withMr v).lines = s.lines := rfl
@[simp] theorem State.withMr_tb (v : Tbl Region) : (s.withMr v).tb = s.tb := rfl
@[simp] theorem State.withMr_trace (v : Tbl Region) : (s.withMr v).trace = s.trace := rfl
@[simp] theorem State.withMr_adm (v : Tbl Region) : (s.withMr v).adm = s.adm := rfl
@[simp] theorem State.withMr_pat (v : Tbl Region) : (s.withMr v).pat = s.pat := rfl
@[simp] theorem State.withMr_pair (v : Tbl Region) : (s.withMr v).pair = s.pair := rfl
@[simp] theorem State.withMr_lace (v : Tbl Region) : (s.withMr v).lace = s.lace := rfl
@[simp] theorem State.withMr_err (v : Tbl Region) : (s.withMr v).err = s.err := rfl
@[simp] theorem State.withMr_spr (v : Tbl Region) : (s.withMr v).spr = s.spr := rfl
@[simp] theorem State.withMr_pins (v : Tbl Region) : (s.withMr v).pins = s.pins := rfl
@[simp] theorem State.withMr_mem (v : Tbl Region) : (s.withMr v).mem = s.mem := rfl
@[simp] theorem State.withMr_memSize (v : Tbl Region) : (s.withMr v).memSize = s.memSize := rfl
@[simp] theorem State.withMr_out (v : Tbl Region) : (s.withMr v).out = s.out := rfl
@[simp] theorem State.withMr_lastRead (v : Tbl Region) : (s.withMr v).lastRead = s.lastRead := rfl
@[simp] theorem State.withMr_free (v : Tbl Region) : (s.withMr v).free = s.free := rfl

/-! `State.withPd` changes `pd` only. -/
@[simp] theorem State.withPd_pd (v : Tbl Bool) : (s.withPd v).pd = v := rfl
@[simp] theorem State.withPd_pending (v : Tbl Bool) : (s.withPd v).pending = s.pending := rfl
@[simp] theorem State.withPd_regs (v : Tbl Bool) : (s.withPd v).regs = s.regs := rfl
@[simp] theorem State.withPd_q (v : Tbl Bool) : (s.withPd v).q = s.q := rfl
@[simp] theorem State.withPd_cq (v : Tbl Bool) : (s.withPd v).cq = s.cq := rfl
@[simp] theorem State.withPd_ctr (v : Tbl Bool) : (s.withPd v).ctr = s.ctr := rfl
@[simp] theorem State.withPd_mr (v : Tbl Bool) : (s.withPd v).mr = s.mr := rfl
@[simp] theorem State.withPd_fl (v : Tbl Bool) : (s.withPd v).fl = s.fl := rfl
@[simp] theorem State.withPd_park (v : Tbl Bool) : (s.withPd v).park = s.park := rfl
@[simp] theorem State.withPd_cqs (v : Tbl Bool) : (s.withPd v).cqs = s.cqs := rfl
@[simp] theorem State.withPd_cache (v : Tbl Bool) : (s.withPd v).cache = s.cache := rfl
@[simp] theorem State.withPd_ic (v : Tbl Bool) : (s.withPd v).ic = s.ic := rfl
@[simp] theorem State.withPd_arb (v : Tbl Bool) : (s.withPd v).arb = s.arb := rfl
@[simp] theorem State.withPd_lines (v : Tbl Bool) : (s.withPd v).lines = s.lines := rfl
@[simp] theorem State.withPd_tb (v : Tbl Bool) : (s.withPd v).tb = s.tb := rfl
@[simp] theorem State.withPd_trace (v : Tbl Bool) : (s.withPd v).trace = s.trace := rfl
@[simp] theorem State.withPd_adm (v : Tbl Bool) : (s.withPd v).adm = s.adm := rfl
@[simp] theorem State.withPd_pat (v : Tbl Bool) : (s.withPd v).pat = s.pat := rfl
@[simp] theorem State.withPd_pair (v : Tbl Bool) : (s.withPd v).pair = s.pair := rfl
@[simp] theorem State.withPd_lace (v : Tbl Bool) : (s.withPd v).lace = s.lace := rfl
@[simp] theorem State.withPd_err (v : Tbl Bool) : (s.withPd v).err = s.err := rfl
@[simp] theorem State.withPd_spr (v : Tbl Bool) : (s.withPd v).spr = s.spr := rfl
@[simp] theorem State.withPd_pins (v : Tbl Bool) : (s.withPd v).pins = s.pins := rfl
@[simp] theorem State.withPd_mem (v : Tbl Bool) : (s.withPd v).mem = s.mem := rfl
@[simp] theorem State.withPd_memSize (v : Tbl Bool) : (s.withPd v).memSize = s.memSize := rfl
@[simp] theorem State.withPd_out (v : Tbl Bool) : (s.withPd v).out = s.out := rfl
@[simp] theorem State.withPd_lastRead (v : Tbl Bool) : (s.withPd v).lastRead = s.lastRead := rfl
@[simp] theorem State.withPd_free (v : Tbl Bool) : (s.withPd v).free = s.free := rfl

/-! `State.withFl` changes `fl` only. -/
@[simp] theorem State.withFl_fl (v : List Flight) : (s.withFl v).fl = v := rfl
@[simp] theorem State.withFl_pending (v : List Flight) : (s.withFl v).pending = s.pending := rfl
@[simp] theorem State.withFl_regs (v : List Flight) : (s.withFl v).regs = s.regs := rfl
@[simp] theorem State.withFl_q (v : List Flight) : (s.withFl v).q = s.q := rfl
@[simp] theorem State.withFl_cq (v : List Flight) : (s.withFl v).cq = s.cq := rfl
@[simp] theorem State.withFl_ctr (v : List Flight) : (s.withFl v).ctr = s.ctr := rfl
@[simp] theorem State.withFl_mr (v : List Flight) : (s.withFl v).mr = s.mr := rfl
@[simp] theorem State.withFl_pd (v : List Flight) : (s.withFl v).pd = s.pd := rfl
@[simp] theorem State.withFl_park (v : List Flight) : (s.withFl v).park = s.park := rfl
@[simp] theorem State.withFl_cqs (v : List Flight) : (s.withFl v).cqs = s.cqs := rfl
@[simp] theorem State.withFl_cache (v : List Flight) : (s.withFl v).cache = s.cache := rfl
@[simp] theorem State.withFl_ic (v : List Flight) : (s.withFl v).ic = s.ic := rfl
@[simp] theorem State.withFl_arb (v : List Flight) : (s.withFl v).arb = s.arb := rfl
@[simp] theorem State.withFl_lines (v : List Flight) : (s.withFl v).lines = s.lines := rfl
@[simp] theorem State.withFl_tb (v : List Flight) : (s.withFl v).tb = s.tb := rfl
@[simp] theorem State.withFl_trace (v : List Flight) : (s.withFl v).trace = s.trace := rfl
@[simp] theorem State.withFl_adm (v : List Flight) : (s.withFl v).adm = s.adm := rfl
@[simp] theorem State.withFl_pat (v : List Flight) : (s.withFl v).pat = s.pat := rfl
@[simp] theorem State.withFl_pair (v : List Flight) : (s.withFl v).pair = s.pair := rfl
@[simp] theorem State.withFl_lace (v : List Flight) : (s.withFl v).lace = s.lace := rfl
@[simp] theorem State.withFl_err (v : List Flight) : (s.withFl v).err = s.err := rfl
@[simp] theorem State.withFl_spr (v : List Flight) : (s.withFl v).spr = s.spr := rfl
@[simp] theorem State.withFl_pins (v : List Flight) : (s.withFl v).pins = s.pins := rfl
@[simp] theorem State.withFl_mem (v : List Flight) : (s.withFl v).mem = s.mem := rfl
@[simp] theorem State.withFl_memSize (v : List Flight) : (s.withFl v).memSize = s.memSize := rfl
@[simp] theorem State.withFl_out (v : List Flight) : (s.withFl v).out = s.out := rfl
@[simp] theorem State.withFl_lastRead (v : List Flight) : (s.withFl v).lastRead = s.lastRead := rfl
@[simp] theorem State.withFl_free (v : List Flight) : (s.withFl v).free = s.free := rfl

/-! `State.withPark` changes `park` only. -/
@[simp] theorem State.withPark_park (v : Park) : (s.withPark v).park = v := rfl
@[simp] theorem State.withPark_pending (v : Park) : (s.withPark v).pending = s.pending := rfl
@[simp] theorem State.withPark_regs (v : Park) : (s.withPark v).regs = s.regs := rfl
@[simp] theorem State.withPark_q (v : Park) : (s.withPark v).q = s.q := rfl
@[simp] theorem State.withPark_cq (v : Park) : (s.withPark v).cq = s.cq := rfl
@[simp] theorem State.withPark_ctr (v : Park) : (s.withPark v).ctr = s.ctr := rfl
@[simp] theorem State.withPark_mr (v : Park) : (s.withPark v).mr = s.mr := rfl
@[simp] theorem State.withPark_pd (v : Park) : (s.withPark v).pd = s.pd := rfl
@[simp] theorem State.withPark_fl (v : Park) : (s.withPark v).fl = s.fl := rfl
@[simp] theorem State.withPark_cqs (v : Park) : (s.withPark v).cqs = s.cqs := rfl
@[simp] theorem State.withPark_cache (v : Park) : (s.withPark v).cache = s.cache := rfl
@[simp] theorem State.withPark_ic (v : Park) : (s.withPark v).ic = s.ic := rfl
@[simp] theorem State.withPark_arb (v : Park) : (s.withPark v).arb = s.arb := rfl
@[simp] theorem State.withPark_lines (v : Park) : (s.withPark v).lines = s.lines := rfl
@[simp] theorem State.withPark_tb (v : Park) : (s.withPark v).tb = s.tb := rfl
@[simp] theorem State.withPark_trace (v : Park) : (s.withPark v).trace = s.trace := rfl
@[simp] theorem State.withPark_adm (v : Park) : (s.withPark v).adm = s.adm := rfl
@[simp] theorem State.withPark_pat (v : Park) : (s.withPark v).pat = s.pat := rfl
@[simp] theorem State.withPark_pair (v : Park) : (s.withPark v).pair = s.pair := rfl
@[simp] theorem State.withPark_lace (v : Park) : (s.withPark v).lace = s.lace := rfl
@[simp] theorem State.withPark_err (v : Park) : (s.withPark v).err = s.err := rfl
@[simp] theorem State.withPark_spr (v : Park) : (s.withPark v).spr = s.spr := rfl
@[simp] theorem State.withPark_pins (v : Park) : (s.withPark v).pins = s.pins := rfl
@[simp] theorem State.withPark_mem (v : Park) : (s.withPark v).mem = s.mem := rfl
@[simp] theorem State.withPark_memSize (v : Park) : (s.withPark v).memSize = s.memSize := rfl
@[simp] theorem State.withPark_out (v : Park) : (s.withPark v).out = s.out := rfl
@[simp] theorem State.withPark_lastRead (v : Park) : (s.withPark v).lastRead = s.lastRead := rfl
@[simp] theorem State.withPark_free (v : Park) : (s.withPark v).free = s.free := rfl

/-! `State.withCqs` changes `cqs` only. -/
@[simp] theorem State.withCqs_cqs (v : Cqs) : (s.withCqs v).cqs = v := rfl
@[simp] theorem State.withCqs_pending (v : Cqs) : (s.withCqs v).pending = s.pending := rfl
@[simp] theorem State.withCqs_regs (v : Cqs) : (s.withCqs v).regs = s.regs := rfl
@[simp] theorem State.withCqs_q (v : Cqs) : (s.withCqs v).q = s.q := rfl
@[simp] theorem State.withCqs_cq (v : Cqs) : (s.withCqs v).cq = s.cq := rfl
@[simp] theorem State.withCqs_ctr (v : Cqs) : (s.withCqs v).ctr = s.ctr := rfl
@[simp] theorem State.withCqs_mr (v : Cqs) : (s.withCqs v).mr = s.mr := rfl
@[simp] theorem State.withCqs_pd (v : Cqs) : (s.withCqs v).pd = s.pd := rfl
@[simp] theorem State.withCqs_fl (v : Cqs) : (s.withCqs v).fl = s.fl := rfl
@[simp] theorem State.withCqs_park (v : Cqs) : (s.withCqs v).park = s.park := rfl
@[simp] theorem State.withCqs_cache (v : Cqs) : (s.withCqs v).cache = s.cache := rfl
@[simp] theorem State.withCqs_ic (v : Cqs) : (s.withCqs v).ic = s.ic := rfl
@[simp] theorem State.withCqs_arb (v : Cqs) : (s.withCqs v).arb = s.arb := rfl
@[simp] theorem State.withCqs_lines (v : Cqs) : (s.withCqs v).lines = s.lines := rfl
@[simp] theorem State.withCqs_tb (v : Cqs) : (s.withCqs v).tb = s.tb := rfl
@[simp] theorem State.withCqs_trace (v : Cqs) : (s.withCqs v).trace = s.trace := rfl
@[simp] theorem State.withCqs_adm (v : Cqs) : (s.withCqs v).adm = s.adm := rfl
@[simp] theorem State.withCqs_pat (v : Cqs) : (s.withCqs v).pat = s.pat := rfl
@[simp] theorem State.withCqs_pair (v : Cqs) : (s.withCqs v).pair = s.pair := rfl
@[simp] theorem State.withCqs_lace (v : Cqs) : (s.withCqs v).lace = s.lace := rfl
@[simp] theorem State.withCqs_err (v : Cqs) : (s.withCqs v).err = s.err := rfl
@[simp] theorem State.withCqs_spr (v : Cqs) : (s.withCqs v).spr = s.spr := rfl
@[simp] theorem State.withCqs_pins (v : Cqs) : (s.withCqs v).pins = s.pins := rfl
@[simp] theorem State.withCqs_mem (v : Cqs) : (s.withCqs v).mem = s.mem := rfl
@[simp] theorem State.withCqs_memSize (v : Cqs) : (s.withCqs v).memSize = s.memSize := rfl
@[simp] theorem State.withCqs_out (v : Cqs) : (s.withCqs v).out = s.out := rfl
@[simp] theorem State.withCqs_lastRead (v : Cqs) : (s.withCqs v).lastRead = s.lastRead := rfl
@[simp] theorem State.withCqs_free (v : Cqs) : (s.withCqs v).free = s.free := rfl

/-! `State.withCache` changes `cache` only. -/
@[simp] theorem State.withCache_cache (v : Cache) : (s.withCache v).cache = v := rfl
@[simp] theorem State.withCache_pending (v : Cache) : (s.withCache v).pending = s.pending := rfl
@[simp] theorem State.withCache_regs (v : Cache) : (s.withCache v).regs = s.regs := rfl
@[simp] theorem State.withCache_q (v : Cache) : (s.withCache v).q = s.q := rfl
@[simp] theorem State.withCache_cq (v : Cache) : (s.withCache v).cq = s.cq := rfl
@[simp] theorem State.withCache_ctr (v : Cache) : (s.withCache v).ctr = s.ctr := rfl
@[simp] theorem State.withCache_mr (v : Cache) : (s.withCache v).mr = s.mr := rfl
@[simp] theorem State.withCache_pd (v : Cache) : (s.withCache v).pd = s.pd := rfl
@[simp] theorem State.withCache_fl (v : Cache) : (s.withCache v).fl = s.fl := rfl
@[simp] theorem State.withCache_park (v : Cache) : (s.withCache v).park = s.park := rfl
@[simp] theorem State.withCache_cqs (v : Cache) : (s.withCache v).cqs = s.cqs := rfl
@[simp] theorem State.withCache_ic (v : Cache) : (s.withCache v).ic = s.ic := rfl
@[simp] theorem State.withCache_arb (v : Cache) : (s.withCache v).arb = s.arb := rfl
@[simp] theorem State.withCache_lines (v : Cache) : (s.withCache v).lines = s.lines := rfl
@[simp] theorem State.withCache_tb (v : Cache) : (s.withCache v).tb = s.tb := rfl
@[simp] theorem State.withCache_trace (v : Cache) : (s.withCache v).trace = s.trace := rfl
@[simp] theorem State.withCache_adm (v : Cache) : (s.withCache v).adm = s.adm := rfl
@[simp] theorem State.withCache_pat (v : Cache) : (s.withCache v).pat = s.pat := rfl
@[simp] theorem State.withCache_pair (v : Cache) : (s.withCache v).pair = s.pair := rfl
@[simp] theorem State.withCache_lace (v : Cache) : (s.withCache v).lace = s.lace := rfl
@[simp] theorem State.withCache_err (v : Cache) : (s.withCache v).err = s.err := rfl
@[simp] theorem State.withCache_spr (v : Cache) : (s.withCache v).spr = s.spr := rfl
@[simp] theorem State.withCache_pins (v : Cache) : (s.withCache v).pins = s.pins := rfl
@[simp] theorem State.withCache_mem (v : Cache) : (s.withCache v).mem = s.mem := rfl
@[simp] theorem State.withCache_memSize (v : Cache) : (s.withCache v).memSize = s.memSize := rfl
@[simp] theorem State.withCache_out (v : Cache) : (s.withCache v).out = s.out := rfl
@[simp] theorem State.withCache_lastRead (v : Cache) : (s.withCache v).lastRead = s.lastRead := rfl
@[simp] theorem State.withCache_free (v : Cache) : (s.withCache v).free = s.free := rfl

/-! `State.withIc` changes `ic` only. -/
@[simp] theorem State.withIc_ic (v : IcState) : (s.withIc v).ic = v := rfl
@[simp] theorem State.withIc_pending (v : IcState) : (s.withIc v).pending = s.pending := rfl
@[simp] theorem State.withIc_regs (v : IcState) : (s.withIc v).regs = s.regs := rfl
@[simp] theorem State.withIc_q (v : IcState) : (s.withIc v).q = s.q := rfl
@[simp] theorem State.withIc_cq (v : IcState) : (s.withIc v).cq = s.cq := rfl
@[simp] theorem State.withIc_ctr (v : IcState) : (s.withIc v).ctr = s.ctr := rfl
@[simp] theorem State.withIc_mr (v : IcState) : (s.withIc v).mr = s.mr := rfl
@[simp] theorem State.withIc_pd (v : IcState) : (s.withIc v).pd = s.pd := rfl
@[simp] theorem State.withIc_fl (v : IcState) : (s.withIc v).fl = s.fl := rfl
@[simp] theorem State.withIc_park (v : IcState) : (s.withIc v).park = s.park := rfl
@[simp] theorem State.withIc_cqs (v : IcState) : (s.withIc v).cqs = s.cqs := rfl
@[simp] theorem State.withIc_cache (v : IcState) : (s.withIc v).cache = s.cache := rfl
@[simp] theorem State.withIc_arb (v : IcState) : (s.withIc v).arb = s.arb := rfl
@[simp] theorem State.withIc_lines (v : IcState) : (s.withIc v).lines = s.lines := rfl
@[simp] theorem State.withIc_tb (v : IcState) : (s.withIc v).tb = s.tb := rfl
@[simp] theorem State.withIc_trace (v : IcState) : (s.withIc v).trace = s.trace := rfl
@[simp] theorem State.withIc_adm (v : IcState) : (s.withIc v).adm = s.adm := rfl
@[simp] theorem State.withIc_pat (v : IcState) : (s.withIc v).pat = s.pat := rfl
@[simp] theorem State.withIc_pair (v : IcState) : (s.withIc v).pair = s.pair := rfl
@[simp] theorem State.withIc_lace (v : IcState) : (s.withIc v).lace = s.lace := rfl
@[simp] theorem State.withIc_err (v : IcState) : (s.withIc v).err = s.err := rfl
@[simp] theorem State.withIc_spr (v : IcState) : (s.withIc v).spr = s.spr := rfl
@[simp] theorem State.withIc_pins (v : IcState) : (s.withIc v).pins = s.pins := rfl
@[simp] theorem State.withIc_mem (v : IcState) : (s.withIc v).mem = s.mem := rfl
@[simp] theorem State.withIc_memSize (v : IcState) : (s.withIc v).memSize = s.memSize := rfl
@[simp] theorem State.withIc_out (v : IcState) : (s.withIc v).out = s.out := rfl
@[simp] theorem State.withIc_lastRead (v : IcState) : (s.withIc v).lastRead = s.lastRead := rfl
@[simp] theorem State.withIc_free (v : IcState) : (s.withIc v).free = s.free := rfl

/-! `State.withArb` changes `arb` only. -/
@[simp] theorem State.withArb_arb (v : ArbState) : (s.withArb v).arb = v := rfl
@[simp] theorem State.withArb_pending (v : ArbState) : (s.withArb v).pending = s.pending := rfl
@[simp] theorem State.withArb_regs (v : ArbState) : (s.withArb v).regs = s.regs := rfl
@[simp] theorem State.withArb_q (v : ArbState) : (s.withArb v).q = s.q := rfl
@[simp] theorem State.withArb_cq (v : ArbState) : (s.withArb v).cq = s.cq := rfl
@[simp] theorem State.withArb_ctr (v : ArbState) : (s.withArb v).ctr = s.ctr := rfl
@[simp] theorem State.withArb_mr (v : ArbState) : (s.withArb v).mr = s.mr := rfl
@[simp] theorem State.withArb_pd (v : ArbState) : (s.withArb v).pd = s.pd := rfl
@[simp] theorem State.withArb_fl (v : ArbState) : (s.withArb v).fl = s.fl := rfl
@[simp] theorem State.withArb_park (v : ArbState) : (s.withArb v).park = s.park := rfl
@[simp] theorem State.withArb_cqs (v : ArbState) : (s.withArb v).cqs = s.cqs := rfl
@[simp] theorem State.withArb_cache (v : ArbState) : (s.withArb v).cache = s.cache := rfl
@[simp] theorem State.withArb_ic (v : ArbState) : (s.withArb v).ic = s.ic := rfl
@[simp] theorem State.withArb_lines (v : ArbState) : (s.withArb v).lines = s.lines := rfl
@[simp] theorem State.withArb_tb (v : ArbState) : (s.withArb v).tb = s.tb := rfl
@[simp] theorem State.withArb_trace (v : ArbState) : (s.withArb v).trace = s.trace := rfl
@[simp] theorem State.withArb_adm (v : ArbState) : (s.withArb v).adm = s.adm := rfl
@[simp] theorem State.withArb_pat (v : ArbState) : (s.withArb v).pat = s.pat := rfl
@[simp] theorem State.withArb_pair (v : ArbState) : (s.withArb v).pair = s.pair := rfl
@[simp] theorem State.withArb_lace (v : ArbState) : (s.withArb v).lace = s.lace := rfl
@[simp] theorem State.withArb_err (v : ArbState) : (s.withArb v).err = s.err := rfl
@[simp] theorem State.withArb_spr (v : ArbState) : (s.withArb v).spr = s.spr := rfl
@[simp] theorem State.withArb_pins (v : ArbState) : (s.withArb v).pins = s.pins := rfl
@[simp] theorem State.withArb_mem (v : ArbState) : (s.withArb v).mem = s.mem := rfl
@[simp] theorem State.withArb_memSize (v : ArbState) : (s.withArb v).memSize = s.memSize := rfl
@[simp] theorem State.withArb_out (v : ArbState) : (s.withArb v).out = s.out := rfl
@[simp] theorem State.withArb_lastRead (v : ArbState) : (s.withArb v).lastRead = s.lastRead := rfl
@[simp] theorem State.withArb_free (v : ArbState) : (s.withArb v).free = s.free := rfl

/-! `State.withLines` changes `lines` only. -/
@[simp] theorem State.withLines_lines (v : Tbl Line) : (s.withLines v).lines = v := rfl
@[simp] theorem State.withLines_pending (v : Tbl Line) : (s.withLines v).pending = s.pending := rfl
@[simp] theorem State.withLines_regs (v : Tbl Line) : (s.withLines v).regs = s.regs := rfl
@[simp] theorem State.withLines_q (v : Tbl Line) : (s.withLines v).q = s.q := rfl
@[simp] theorem State.withLines_cq (v : Tbl Line) : (s.withLines v).cq = s.cq := rfl
@[simp] theorem State.withLines_ctr (v : Tbl Line) : (s.withLines v).ctr = s.ctr := rfl
@[simp] theorem State.withLines_mr (v : Tbl Line) : (s.withLines v).mr = s.mr := rfl
@[simp] theorem State.withLines_pd (v : Tbl Line) : (s.withLines v).pd = s.pd := rfl
@[simp] theorem State.withLines_fl (v : Tbl Line) : (s.withLines v).fl = s.fl := rfl
@[simp] theorem State.withLines_park (v : Tbl Line) : (s.withLines v).park = s.park := rfl
@[simp] theorem State.withLines_cqs (v : Tbl Line) : (s.withLines v).cqs = s.cqs := rfl
@[simp] theorem State.withLines_cache (v : Tbl Line) : (s.withLines v).cache = s.cache := rfl
@[simp] theorem State.withLines_ic (v : Tbl Line) : (s.withLines v).ic = s.ic := rfl
@[simp] theorem State.withLines_arb (v : Tbl Line) : (s.withLines v).arb = s.arb := rfl
@[simp] theorem State.withLines_tb (v : Tbl Line) : (s.withLines v).tb = s.tb := rfl
@[simp] theorem State.withLines_trace (v : Tbl Line) : (s.withLines v).trace = s.trace := rfl
@[simp] theorem State.withLines_adm (v : Tbl Line) : (s.withLines v).adm = s.adm := rfl
@[simp] theorem State.withLines_pat (v : Tbl Line) : (s.withLines v).pat = s.pat := rfl
@[simp] theorem State.withLines_pair (v : Tbl Line) : (s.withLines v).pair = s.pair := rfl
@[simp] theorem State.withLines_lace (v : Tbl Line) : (s.withLines v).lace = s.lace := rfl
@[simp] theorem State.withLines_err (v : Tbl Line) : (s.withLines v).err = s.err := rfl
@[simp] theorem State.withLines_spr (v : Tbl Line) : (s.withLines v).spr = s.spr := rfl
@[simp] theorem State.withLines_pins (v : Tbl Line) : (s.withLines v).pins = s.pins := rfl
@[simp] theorem State.withLines_mem (v : Tbl Line) : (s.withLines v).mem = s.mem := rfl
@[simp] theorem State.withLines_memSize (v : Tbl Line) : (s.withLines v).memSize = s.memSize := rfl
@[simp] theorem State.withLines_out (v : Tbl Line) : (s.withLines v).out = s.out := rfl
@[simp] theorem State.withLines_lastRead (v : Tbl Line) : (s.withLines v).lastRead = s.lastRead := rfl
@[simp] theorem State.withLines_free (v : Tbl Line) : (s.withLines v).free = s.free := rfl

/-! `State.withTb` changes `tb` only. -/
@[simp] theorem State.withTb_tb (v : TbState) : (s.withTb v).tb = v := rfl
@[simp] theorem State.withTb_pending (v : TbState) : (s.withTb v).pending = s.pending := rfl
@[simp] theorem State.withTb_regs (v : TbState) : (s.withTb v).regs = s.regs := rfl
@[simp] theorem State.withTb_q (v : TbState) : (s.withTb v).q = s.q := rfl
@[simp] theorem State.withTb_cq (v : TbState) : (s.withTb v).cq = s.cq := rfl
@[simp] theorem State.withTb_ctr (v : TbState) : (s.withTb v).ctr = s.ctr := rfl
@[simp] theorem State.withTb_mr (v : TbState) : (s.withTb v).mr = s.mr := rfl
@[simp] theorem State.withTb_pd (v : TbState) : (s.withTb v).pd = s.pd := rfl
@[simp] theorem State.withTb_fl (v : TbState) : (s.withTb v).fl = s.fl := rfl
@[simp] theorem State.withTb_park (v : TbState) : (s.withTb v).park = s.park := rfl
@[simp] theorem State.withTb_cqs (v : TbState) : (s.withTb v).cqs = s.cqs := rfl
@[simp] theorem State.withTb_cache (v : TbState) : (s.withTb v).cache = s.cache := rfl
@[simp] theorem State.withTb_ic (v : TbState) : (s.withTb v).ic = s.ic := rfl
@[simp] theorem State.withTb_arb (v : TbState) : (s.withTb v).arb = s.arb := rfl
@[simp] theorem State.withTb_lines (v : TbState) : (s.withTb v).lines = s.lines := rfl
@[simp] theorem State.withTb_trace (v : TbState) : (s.withTb v).trace = s.trace := rfl
@[simp] theorem State.withTb_adm (v : TbState) : (s.withTb v).adm = s.adm := rfl
@[simp] theorem State.withTb_pat (v : TbState) : (s.withTb v).pat = s.pat := rfl
@[simp] theorem State.withTb_pair (v : TbState) : (s.withTb v).pair = s.pair := rfl
@[simp] theorem State.withTb_lace (v : TbState) : (s.withTb v).lace = s.lace := rfl
@[simp] theorem State.withTb_err (v : TbState) : (s.withTb v).err = s.err := rfl
@[simp] theorem State.withTb_spr (v : TbState) : (s.withTb v).spr = s.spr := rfl
@[simp] theorem State.withTb_pins (v : TbState) : (s.withTb v).pins = s.pins := rfl
@[simp] theorem State.withTb_mem (v : TbState) : (s.withTb v).mem = s.mem := rfl
@[simp] theorem State.withTb_memSize (v : TbState) : (s.withTb v).memSize = s.memSize := rfl
@[simp] theorem State.withTb_out (v : TbState) : (s.withTb v).out = s.out := rfl
@[simp] theorem State.withTb_lastRead (v : TbState) : (s.withTb v).lastRead = s.lastRead := rfl
@[simp] theorem State.withTb_free (v : TbState) : (s.withTb v).free = s.free := rfl

/-! `State.withTrace` changes `trace` only. -/
@[simp] theorem State.withTrace_trace (v : TraceState) : (s.withTrace v).trace = v := rfl
@[simp] theorem State.withTrace_pending (v : TraceState) : (s.withTrace v).pending = s.pending := rfl
@[simp] theorem State.withTrace_regs (v : TraceState) : (s.withTrace v).regs = s.regs := rfl
@[simp] theorem State.withTrace_q (v : TraceState) : (s.withTrace v).q = s.q := rfl
@[simp] theorem State.withTrace_cq (v : TraceState) : (s.withTrace v).cq = s.cq := rfl
@[simp] theorem State.withTrace_ctr (v : TraceState) : (s.withTrace v).ctr = s.ctr := rfl
@[simp] theorem State.withTrace_mr (v : TraceState) : (s.withTrace v).mr = s.mr := rfl
@[simp] theorem State.withTrace_pd (v : TraceState) : (s.withTrace v).pd = s.pd := rfl
@[simp] theorem State.withTrace_fl (v : TraceState) : (s.withTrace v).fl = s.fl := rfl
@[simp] theorem State.withTrace_park (v : TraceState) : (s.withTrace v).park = s.park := rfl
@[simp] theorem State.withTrace_cqs (v : TraceState) : (s.withTrace v).cqs = s.cqs := rfl
@[simp] theorem State.withTrace_cache (v : TraceState) : (s.withTrace v).cache = s.cache := rfl
@[simp] theorem State.withTrace_ic (v : TraceState) : (s.withTrace v).ic = s.ic := rfl
@[simp] theorem State.withTrace_arb (v : TraceState) : (s.withTrace v).arb = s.arb := rfl
@[simp] theorem State.withTrace_lines (v : TraceState) : (s.withTrace v).lines = s.lines := rfl
@[simp] theorem State.withTrace_tb (v : TraceState) : (s.withTrace v).tb = s.tb := rfl
@[simp] theorem State.withTrace_adm (v : TraceState) : (s.withTrace v).adm = s.adm := rfl
@[simp] theorem State.withTrace_pat (v : TraceState) : (s.withTrace v).pat = s.pat := rfl
@[simp] theorem State.withTrace_pair (v : TraceState) : (s.withTrace v).pair = s.pair := rfl
@[simp] theorem State.withTrace_lace (v : TraceState) : (s.withTrace v).lace = s.lace := rfl
@[simp] theorem State.withTrace_err (v : TraceState) : (s.withTrace v).err = s.err := rfl
@[simp] theorem State.withTrace_spr (v : TraceState) : (s.withTrace v).spr = s.spr := rfl
@[simp] theorem State.withTrace_pins (v : TraceState) : (s.withTrace v).pins = s.pins := rfl
@[simp] theorem State.withTrace_mem (v : TraceState) : (s.withTrace v).mem = s.mem := rfl
@[simp] theorem State.withTrace_memSize (v : TraceState) : (s.withTrace v).memSize = s.memSize := rfl
@[simp] theorem State.withTrace_out (v : TraceState) : (s.withTrace v).out = s.out := rfl
@[simp] theorem State.withTrace_lastRead (v : TraceState) : (s.withTrace v).lastRead = s.lastRead := rfl
@[simp] theorem State.withTrace_free (v : TraceState) : (s.withTrace v).free = s.free := rfl

/-! `State.withAdm` changes `adm` only. -/
@[simp] theorem State.withAdm_adm (v : AdmState) : (s.withAdm v).adm = v := rfl
@[simp] theorem State.withAdm_pending (v : AdmState) : (s.withAdm v).pending = s.pending := rfl
@[simp] theorem State.withAdm_regs (v : AdmState) : (s.withAdm v).regs = s.regs := rfl
@[simp] theorem State.withAdm_q (v : AdmState) : (s.withAdm v).q = s.q := rfl
@[simp] theorem State.withAdm_cq (v : AdmState) : (s.withAdm v).cq = s.cq := rfl
@[simp] theorem State.withAdm_ctr (v : AdmState) : (s.withAdm v).ctr = s.ctr := rfl
@[simp] theorem State.withAdm_mr (v : AdmState) : (s.withAdm v).mr = s.mr := rfl
@[simp] theorem State.withAdm_pd (v : AdmState) : (s.withAdm v).pd = s.pd := rfl
@[simp] theorem State.withAdm_fl (v : AdmState) : (s.withAdm v).fl = s.fl := rfl
@[simp] theorem State.withAdm_park (v : AdmState) : (s.withAdm v).park = s.park := rfl
@[simp] theorem State.withAdm_cqs (v : AdmState) : (s.withAdm v).cqs = s.cqs := rfl
@[simp] theorem State.withAdm_cache (v : AdmState) : (s.withAdm v).cache = s.cache := rfl
@[simp] theorem State.withAdm_ic (v : AdmState) : (s.withAdm v).ic = s.ic := rfl
@[simp] theorem State.withAdm_arb (v : AdmState) : (s.withAdm v).arb = s.arb := rfl
@[simp] theorem State.withAdm_lines (v : AdmState) : (s.withAdm v).lines = s.lines := rfl
@[simp] theorem State.withAdm_tb (v : AdmState) : (s.withAdm v).tb = s.tb := rfl
@[simp] theorem State.withAdm_trace (v : AdmState) : (s.withAdm v).trace = s.trace := rfl
@[simp] theorem State.withAdm_pat (v : AdmState) : (s.withAdm v).pat = s.pat := rfl
@[simp] theorem State.withAdm_pair (v : AdmState) : (s.withAdm v).pair = s.pair := rfl
@[simp] theorem State.withAdm_lace (v : AdmState) : (s.withAdm v).lace = s.lace := rfl
@[simp] theorem State.withAdm_err (v : AdmState) : (s.withAdm v).err = s.err := rfl
@[simp] theorem State.withAdm_spr (v : AdmState) : (s.withAdm v).spr = s.spr := rfl
@[simp] theorem State.withAdm_pins (v : AdmState) : (s.withAdm v).pins = s.pins := rfl
@[simp] theorem State.withAdm_mem (v : AdmState) : (s.withAdm v).mem = s.mem := rfl
@[simp] theorem State.withAdm_memSize (v : AdmState) : (s.withAdm v).memSize = s.memSize := rfl
@[simp] theorem State.withAdm_out (v : AdmState) : (s.withAdm v).out = s.out := rfl
@[simp] theorem State.withAdm_lastRead (v : AdmState) : (s.withAdm v).lastRead = s.lastRead := rfl
@[simp] theorem State.withAdm_free (v : AdmState) : (s.withAdm v).free = s.free := rfl

/-! `State.withPat` changes `pat` only. -/
@[simp] theorem State.withPat_pat (v : PatState) : (s.withPat v).pat = v := rfl
@[simp] theorem State.withPat_pending (v : PatState) : (s.withPat v).pending = s.pending := rfl
@[simp] theorem State.withPat_regs (v : PatState) : (s.withPat v).regs = s.regs := rfl
@[simp] theorem State.withPat_q (v : PatState) : (s.withPat v).q = s.q := rfl
@[simp] theorem State.withPat_cq (v : PatState) : (s.withPat v).cq = s.cq := rfl
@[simp] theorem State.withPat_ctr (v : PatState) : (s.withPat v).ctr = s.ctr := rfl
@[simp] theorem State.withPat_mr (v : PatState) : (s.withPat v).mr = s.mr := rfl
@[simp] theorem State.withPat_pd (v : PatState) : (s.withPat v).pd = s.pd := rfl
@[simp] theorem State.withPat_fl (v : PatState) : (s.withPat v).fl = s.fl := rfl
@[simp] theorem State.withPat_park (v : PatState) : (s.withPat v).park = s.park := rfl
@[simp] theorem State.withPat_cqs (v : PatState) : (s.withPat v).cqs = s.cqs := rfl
@[simp] theorem State.withPat_cache (v : PatState) : (s.withPat v).cache = s.cache := rfl
@[simp] theorem State.withPat_ic (v : PatState) : (s.withPat v).ic = s.ic := rfl
@[simp] theorem State.withPat_arb (v : PatState) : (s.withPat v).arb = s.arb := rfl
@[simp] theorem State.withPat_lines (v : PatState) : (s.withPat v).lines = s.lines := rfl
@[simp] theorem State.withPat_tb (v : PatState) : (s.withPat v).tb = s.tb := rfl
@[simp] theorem State.withPat_trace (v : PatState) : (s.withPat v).trace = s.trace := rfl
@[simp] theorem State.withPat_adm (v : PatState) : (s.withPat v).adm = s.adm := rfl
@[simp] theorem State.withPat_pair (v : PatState) : (s.withPat v).pair = s.pair := rfl
@[simp] theorem State.withPat_lace (v : PatState) : (s.withPat v).lace = s.lace := rfl
@[simp] theorem State.withPat_err (v : PatState) : (s.withPat v).err = s.err := rfl
@[simp] theorem State.withPat_spr (v : PatState) : (s.withPat v).spr = s.spr := rfl
@[simp] theorem State.withPat_pins (v : PatState) : (s.withPat v).pins = s.pins := rfl
@[simp] theorem State.withPat_mem (v : PatState) : (s.withPat v).mem = s.mem := rfl
@[simp] theorem State.withPat_memSize (v : PatState) : (s.withPat v).memSize = s.memSize := rfl
@[simp] theorem State.withPat_out (v : PatState) : (s.withPat v).out = s.out := rfl
@[simp] theorem State.withPat_lastRead (v : PatState) : (s.withPat v).lastRead = s.lastRead := rfl
@[simp] theorem State.withPat_free (v : PatState) : (s.withPat v).free = s.free := rfl

/-! `State.withPair` changes `pair` only. -/
@[simp] theorem State.withPair_pair (v : PairState) : (s.withPair v).pair = v := rfl
@[simp] theorem State.withPair_pending (v : PairState) : (s.withPair v).pending = s.pending := rfl
@[simp] theorem State.withPair_regs (v : PairState) : (s.withPair v).regs = s.regs := rfl
@[simp] theorem State.withPair_q (v : PairState) : (s.withPair v).q = s.q := rfl
@[simp] theorem State.withPair_cq (v : PairState) : (s.withPair v).cq = s.cq := rfl
@[simp] theorem State.withPair_ctr (v : PairState) : (s.withPair v).ctr = s.ctr := rfl
@[simp] theorem State.withPair_mr (v : PairState) : (s.withPair v).mr = s.mr := rfl
@[simp] theorem State.withPair_pd (v : PairState) : (s.withPair v).pd = s.pd := rfl
@[simp] theorem State.withPair_fl (v : PairState) : (s.withPair v).fl = s.fl := rfl
@[simp] theorem State.withPair_park (v : PairState) : (s.withPair v).park = s.park := rfl
@[simp] theorem State.withPair_cqs (v : PairState) : (s.withPair v).cqs = s.cqs := rfl
@[simp] theorem State.withPair_cache (v : PairState) : (s.withPair v).cache = s.cache := rfl
@[simp] theorem State.withPair_ic (v : PairState) : (s.withPair v).ic = s.ic := rfl
@[simp] theorem State.withPair_arb (v : PairState) : (s.withPair v).arb = s.arb := rfl
@[simp] theorem State.withPair_lines (v : PairState) : (s.withPair v).lines = s.lines := rfl
@[simp] theorem State.withPair_tb (v : PairState) : (s.withPair v).tb = s.tb := rfl
@[simp] theorem State.withPair_trace (v : PairState) : (s.withPair v).trace = s.trace := rfl
@[simp] theorem State.withPair_adm (v : PairState) : (s.withPair v).adm = s.adm := rfl
@[simp] theorem State.withPair_pat (v : PairState) : (s.withPair v).pat = s.pat := rfl
@[simp] theorem State.withPair_lace (v : PairState) : (s.withPair v).lace = s.lace := rfl
@[simp] theorem State.withPair_err (v : PairState) : (s.withPair v).err = s.err := rfl
@[simp] theorem State.withPair_spr (v : PairState) : (s.withPair v).spr = s.spr := rfl
@[simp] theorem State.withPair_pins (v : PairState) : (s.withPair v).pins = s.pins := rfl
@[simp] theorem State.withPair_mem (v : PairState) : (s.withPair v).mem = s.mem := rfl
@[simp] theorem State.withPair_memSize (v : PairState) : (s.withPair v).memSize = s.memSize := rfl
@[simp] theorem State.withPair_out (v : PairState) : (s.withPair v).out = s.out := rfl
@[simp] theorem State.withPair_lastRead (v : PairState) : (s.withPair v).lastRead = s.lastRead := rfl
@[simp] theorem State.withPair_free (v : PairState) : (s.withPair v).free = s.free := rfl

/-! `State.withLace` changes `lace` only. -/
@[simp] theorem State.withLace_lace (v : LaceState) : (s.withLace v).lace = v := rfl
@[simp] theorem State.withLace_pending (v : LaceState) : (s.withLace v).pending = s.pending := rfl
@[simp] theorem State.withLace_regs (v : LaceState) : (s.withLace v).regs = s.regs := rfl
@[simp] theorem State.withLace_q (v : LaceState) : (s.withLace v).q = s.q := rfl
@[simp] theorem State.withLace_cq (v : LaceState) : (s.withLace v).cq = s.cq := rfl
@[simp] theorem State.withLace_ctr (v : LaceState) : (s.withLace v).ctr = s.ctr := rfl
@[simp] theorem State.withLace_mr (v : LaceState) : (s.withLace v).mr = s.mr := rfl
@[simp] theorem State.withLace_pd (v : LaceState) : (s.withLace v).pd = s.pd := rfl
@[simp] theorem State.withLace_fl (v : LaceState) : (s.withLace v).fl = s.fl := rfl
@[simp] theorem State.withLace_park (v : LaceState) : (s.withLace v).park = s.park := rfl
@[simp] theorem State.withLace_cqs (v : LaceState) : (s.withLace v).cqs = s.cqs := rfl
@[simp] theorem State.withLace_cache (v : LaceState) : (s.withLace v).cache = s.cache := rfl
@[simp] theorem State.withLace_ic (v : LaceState) : (s.withLace v).ic = s.ic := rfl
@[simp] theorem State.withLace_arb (v : LaceState) : (s.withLace v).arb = s.arb := rfl
@[simp] theorem State.withLace_lines (v : LaceState) : (s.withLace v).lines = s.lines := rfl
@[simp] theorem State.withLace_tb (v : LaceState) : (s.withLace v).tb = s.tb := rfl
@[simp] theorem State.withLace_trace (v : LaceState) : (s.withLace v).trace = s.trace := rfl
@[simp] theorem State.withLace_adm (v : LaceState) : (s.withLace v).adm = s.adm := rfl
@[simp] theorem State.withLace_pat (v : LaceState) : (s.withLace v).pat = s.pat := rfl
@[simp] theorem State.withLace_pair (v : LaceState) : (s.withLace v).pair = s.pair := rfl
@[simp] theorem State.withLace_err (v : LaceState) : (s.withLace v).err = s.err := rfl
@[simp] theorem State.withLace_spr (v : LaceState) : (s.withLace v).spr = s.spr := rfl
@[simp] theorem State.withLace_pins (v : LaceState) : (s.withLace v).pins = s.pins := rfl
@[simp] theorem State.withLace_mem (v : LaceState) : (s.withLace v).mem = s.mem := rfl
@[simp] theorem State.withLace_memSize (v : LaceState) : (s.withLace v).memSize = s.memSize := rfl
@[simp] theorem State.withLace_out (v : LaceState) : (s.withLace v).out = s.out := rfl
@[simp] theorem State.withLace_lastRead (v : LaceState) : (s.withLace v).lastRead = s.lastRead := rfl
@[simp] theorem State.withLace_free (v : LaceState) : (s.withLace v).free = s.free := rfl

/-! `State.withErr` changes `err` only. -/
@[simp] theorem State.withErr_err (v : ErrState) : (s.withErr v).err = v := rfl
@[simp] theorem State.withErr_pending (v : ErrState) : (s.withErr v).pending = s.pending := rfl
@[simp] theorem State.withErr_regs (v : ErrState) : (s.withErr v).regs = s.regs := rfl
@[simp] theorem State.withErr_q (v : ErrState) : (s.withErr v).q = s.q := rfl
@[simp] theorem State.withErr_cq (v : ErrState) : (s.withErr v).cq = s.cq := rfl
@[simp] theorem State.withErr_ctr (v : ErrState) : (s.withErr v).ctr = s.ctr := rfl
@[simp] theorem State.withErr_mr (v : ErrState) : (s.withErr v).mr = s.mr := rfl
@[simp] theorem State.withErr_pd (v : ErrState) : (s.withErr v).pd = s.pd := rfl
@[simp] theorem State.withErr_fl (v : ErrState) : (s.withErr v).fl = s.fl := rfl
@[simp] theorem State.withErr_park (v : ErrState) : (s.withErr v).park = s.park := rfl
@[simp] theorem State.withErr_cqs (v : ErrState) : (s.withErr v).cqs = s.cqs := rfl
@[simp] theorem State.withErr_cache (v : ErrState) : (s.withErr v).cache = s.cache := rfl
@[simp] theorem State.withErr_ic (v : ErrState) : (s.withErr v).ic = s.ic := rfl
@[simp] theorem State.withErr_arb (v : ErrState) : (s.withErr v).arb = s.arb := rfl
@[simp] theorem State.withErr_lines (v : ErrState) : (s.withErr v).lines = s.lines := rfl
@[simp] theorem State.withErr_tb (v : ErrState) : (s.withErr v).tb = s.tb := rfl
@[simp] theorem State.withErr_trace (v : ErrState) : (s.withErr v).trace = s.trace := rfl
@[simp] theorem State.withErr_adm (v : ErrState) : (s.withErr v).adm = s.adm := rfl
@[simp] theorem State.withErr_pat (v : ErrState) : (s.withErr v).pat = s.pat := rfl
@[simp] theorem State.withErr_pair (v : ErrState) : (s.withErr v).pair = s.pair := rfl
@[simp] theorem State.withErr_lace (v : ErrState) : (s.withErr v).lace = s.lace := rfl
@[simp] theorem State.withErr_spr (v : ErrState) : (s.withErr v).spr = s.spr := rfl
@[simp] theorem State.withErr_pins (v : ErrState) : (s.withErr v).pins = s.pins := rfl
@[simp] theorem State.withErr_mem (v : ErrState) : (s.withErr v).mem = s.mem := rfl
@[simp] theorem State.withErr_memSize (v : ErrState) : (s.withErr v).memSize = s.memSize := rfl
@[simp] theorem State.withErr_out (v : ErrState) : (s.withErr v).out = s.out := rfl
@[simp] theorem State.withErr_lastRead (v : ErrState) : (s.withErr v).lastRead = s.lastRead := rfl
@[simp] theorem State.withErr_free (v : ErrState) : (s.withErr v).free = s.free := rfl

/-! `State.withSpr` changes `spr` only. -/
@[simp] theorem State.withSpr_spr (v : SprState) : (s.withSpr v).spr = v := rfl
@[simp] theorem State.withSpr_pending (v : SprState) : (s.withSpr v).pending = s.pending := rfl
@[simp] theorem State.withSpr_regs (v : SprState) : (s.withSpr v).regs = s.regs := rfl
@[simp] theorem State.withSpr_q (v : SprState) : (s.withSpr v).q = s.q := rfl
@[simp] theorem State.withSpr_cq (v : SprState) : (s.withSpr v).cq = s.cq := rfl
@[simp] theorem State.withSpr_ctr (v : SprState) : (s.withSpr v).ctr = s.ctr := rfl
@[simp] theorem State.withSpr_mr (v : SprState) : (s.withSpr v).mr = s.mr := rfl
@[simp] theorem State.withSpr_pd (v : SprState) : (s.withSpr v).pd = s.pd := rfl
@[simp] theorem State.withSpr_fl (v : SprState) : (s.withSpr v).fl = s.fl := rfl
@[simp] theorem State.withSpr_park (v : SprState) : (s.withSpr v).park = s.park := rfl
@[simp] theorem State.withSpr_cqs (v : SprState) : (s.withSpr v).cqs = s.cqs := rfl
@[simp] theorem State.withSpr_cache (v : SprState) : (s.withSpr v).cache = s.cache := rfl
@[simp] theorem State.withSpr_ic (v : SprState) : (s.withSpr v).ic = s.ic := rfl
@[simp] theorem State.withSpr_arb (v : SprState) : (s.withSpr v).arb = s.arb := rfl
@[simp] theorem State.withSpr_lines (v : SprState) : (s.withSpr v).lines = s.lines := rfl
@[simp] theorem State.withSpr_tb (v : SprState) : (s.withSpr v).tb = s.tb := rfl
@[simp] theorem State.withSpr_trace (v : SprState) : (s.withSpr v).trace = s.trace := rfl
@[simp] theorem State.withSpr_adm (v : SprState) : (s.withSpr v).adm = s.adm := rfl
@[simp] theorem State.withSpr_pat (v : SprState) : (s.withSpr v).pat = s.pat := rfl
@[simp] theorem State.withSpr_pair (v : SprState) : (s.withSpr v).pair = s.pair := rfl
@[simp] theorem State.withSpr_lace (v : SprState) : (s.withSpr v).lace = s.lace := rfl
@[simp] theorem State.withSpr_err (v : SprState) : (s.withSpr v).err = s.err := rfl
@[simp] theorem State.withSpr_pins (v : SprState) : (s.withSpr v).pins = s.pins := rfl
@[simp] theorem State.withSpr_mem (v : SprState) : (s.withSpr v).mem = s.mem := rfl
@[simp] theorem State.withSpr_memSize (v : SprState) : (s.withSpr v).memSize = s.memSize := rfl
@[simp] theorem State.withSpr_out (v : SprState) : (s.withSpr v).out = s.out := rfl
@[simp] theorem State.withSpr_lastRead (v : SprState) : (s.withSpr v).lastRead = s.lastRead := rfl
@[simp] theorem State.withSpr_free (v : SprState) : (s.withSpr v).free = s.free := rfl

/-! `State.withPins` changes `pins` only. -/
@[simp] theorem State.withPins_pins (v : Pins) : (s.withPins v).pins = v := rfl
@[simp] theorem State.withPins_pending (v : Pins) : (s.withPins v).pending = s.pending := rfl
@[simp] theorem State.withPins_regs (v : Pins) : (s.withPins v).regs = s.regs := rfl
@[simp] theorem State.withPins_q (v : Pins) : (s.withPins v).q = s.q := rfl
@[simp] theorem State.withPins_cq (v : Pins) : (s.withPins v).cq = s.cq := rfl
@[simp] theorem State.withPins_ctr (v : Pins) : (s.withPins v).ctr = s.ctr := rfl
@[simp] theorem State.withPins_mr (v : Pins) : (s.withPins v).mr = s.mr := rfl
@[simp] theorem State.withPins_pd (v : Pins) : (s.withPins v).pd = s.pd := rfl
@[simp] theorem State.withPins_fl (v : Pins) : (s.withPins v).fl = s.fl := rfl
@[simp] theorem State.withPins_park (v : Pins) : (s.withPins v).park = s.park := rfl
@[simp] theorem State.withPins_cqs (v : Pins) : (s.withPins v).cqs = s.cqs := rfl
@[simp] theorem State.withPins_cache (v : Pins) : (s.withPins v).cache = s.cache := rfl
@[simp] theorem State.withPins_ic (v : Pins) : (s.withPins v).ic = s.ic := rfl
@[simp] theorem State.withPins_arb (v : Pins) : (s.withPins v).arb = s.arb := rfl
@[simp] theorem State.withPins_lines (v : Pins) : (s.withPins v).lines = s.lines := rfl
@[simp] theorem State.withPins_tb (v : Pins) : (s.withPins v).tb = s.tb := rfl
@[simp] theorem State.withPins_trace (v : Pins) : (s.withPins v).trace = s.trace := rfl
@[simp] theorem State.withPins_adm (v : Pins) : (s.withPins v).adm = s.adm := rfl
@[simp] theorem State.withPins_pat (v : Pins) : (s.withPins v).pat = s.pat := rfl
@[simp] theorem State.withPins_pair (v : Pins) : (s.withPins v).pair = s.pair := rfl
@[simp] theorem State.withPins_lace (v : Pins) : (s.withPins v).lace = s.lace := rfl
@[simp] theorem State.withPins_err (v : Pins) : (s.withPins v).err = s.err := rfl
@[simp] theorem State.withPins_spr (v : Pins) : (s.withPins v).spr = s.spr := rfl
@[simp] theorem State.withPins_mem (v : Pins) : (s.withPins v).mem = s.mem := rfl
@[simp] theorem State.withPins_memSize (v : Pins) : (s.withPins v).memSize = s.memSize := rfl
@[simp] theorem State.withPins_out (v : Pins) : (s.withPins v).out = s.out := rfl
@[simp] theorem State.withPins_lastRead (v : Pins) : (s.withPins v).lastRead = s.lastRead := rfl
@[simp] theorem State.withPins_free (v : Pins) : (s.withPins v).free = s.free := rfl

/-! `State.withMem` changes `mem` only. -/
@[simp] theorem State.withMem_mem (v : Memory) : (s.withMem v).mem = v := rfl
@[simp] theorem State.withMem_pending (v : Memory) : (s.withMem v).pending = s.pending := rfl
@[simp] theorem State.withMem_regs (v : Memory) : (s.withMem v).regs = s.regs := rfl
@[simp] theorem State.withMem_q (v : Memory) : (s.withMem v).q = s.q := rfl
@[simp] theorem State.withMem_cq (v : Memory) : (s.withMem v).cq = s.cq := rfl
@[simp] theorem State.withMem_ctr (v : Memory) : (s.withMem v).ctr = s.ctr := rfl
@[simp] theorem State.withMem_mr (v : Memory) : (s.withMem v).mr = s.mr := rfl
@[simp] theorem State.withMem_pd (v : Memory) : (s.withMem v).pd = s.pd := rfl
@[simp] theorem State.withMem_fl (v : Memory) : (s.withMem v).fl = s.fl := rfl
@[simp] theorem State.withMem_park (v : Memory) : (s.withMem v).park = s.park := rfl
@[simp] theorem State.withMem_cqs (v : Memory) : (s.withMem v).cqs = s.cqs := rfl
@[simp] theorem State.withMem_cache (v : Memory) : (s.withMem v).cache = s.cache := rfl
@[simp] theorem State.withMem_ic (v : Memory) : (s.withMem v).ic = s.ic := rfl
@[simp] theorem State.withMem_arb (v : Memory) : (s.withMem v).arb = s.arb := rfl
@[simp] theorem State.withMem_lines (v : Memory) : (s.withMem v).lines = s.lines := rfl
@[simp] theorem State.withMem_tb (v : Memory) : (s.withMem v).tb = s.tb := rfl
@[simp] theorem State.withMem_trace (v : Memory) : (s.withMem v).trace = s.trace := rfl
@[simp] theorem State.withMem_adm (v : Memory) : (s.withMem v).adm = s.adm := rfl
@[simp] theorem State.withMem_pat (v : Memory) : (s.withMem v).pat = s.pat := rfl
@[simp] theorem State.withMem_pair (v : Memory) : (s.withMem v).pair = s.pair := rfl
@[simp] theorem State.withMem_lace (v : Memory) : (s.withMem v).lace = s.lace := rfl
@[simp] theorem State.withMem_err (v : Memory) : (s.withMem v).err = s.err := rfl
@[simp] theorem State.withMem_spr (v : Memory) : (s.withMem v).spr = s.spr := rfl
@[simp] theorem State.withMem_pins (v : Memory) : (s.withMem v).pins = s.pins := rfl
@[simp] theorem State.withMem_memSize (v : Memory) : (s.withMem v).memSize = s.memSize := rfl
@[simp] theorem State.withMem_out (v : Memory) : (s.withMem v).out = s.out := rfl
@[simp] theorem State.withMem_lastRead (v : Memory) : (s.withMem v).lastRead = s.lastRead := rfl
@[simp] theorem State.withMem_free (v : Memory) : (s.withMem v).free = s.free := rfl

/-! `State.withMemSize` changes `memSize` only. -/
@[simp] theorem State.withMemSize_memSize (v : W64) : (s.withMemSize v).memSize = v := rfl
@[simp] theorem State.withMemSize_pending (v : W64) : (s.withMemSize v).pending = s.pending := rfl
@[simp] theorem State.withMemSize_regs (v : W64) : (s.withMemSize v).regs = s.regs := rfl
@[simp] theorem State.withMemSize_q (v : W64) : (s.withMemSize v).q = s.q := rfl
@[simp] theorem State.withMemSize_cq (v : W64) : (s.withMemSize v).cq = s.cq := rfl
@[simp] theorem State.withMemSize_ctr (v : W64) : (s.withMemSize v).ctr = s.ctr := rfl
@[simp] theorem State.withMemSize_mr (v : W64) : (s.withMemSize v).mr = s.mr := rfl
@[simp] theorem State.withMemSize_pd (v : W64) : (s.withMemSize v).pd = s.pd := rfl
@[simp] theorem State.withMemSize_fl (v : W64) : (s.withMemSize v).fl = s.fl := rfl
@[simp] theorem State.withMemSize_park (v : W64) : (s.withMemSize v).park = s.park := rfl
@[simp] theorem State.withMemSize_cqs (v : W64) : (s.withMemSize v).cqs = s.cqs := rfl
@[simp] theorem State.withMemSize_cache (v : W64) : (s.withMemSize v).cache = s.cache := rfl
@[simp] theorem State.withMemSize_ic (v : W64) : (s.withMemSize v).ic = s.ic := rfl
@[simp] theorem State.withMemSize_arb (v : W64) : (s.withMemSize v).arb = s.arb := rfl
@[simp] theorem State.withMemSize_lines (v : W64) : (s.withMemSize v).lines = s.lines := rfl
@[simp] theorem State.withMemSize_tb (v : W64) : (s.withMemSize v).tb = s.tb := rfl
@[simp] theorem State.withMemSize_trace (v : W64) : (s.withMemSize v).trace = s.trace := rfl
@[simp] theorem State.withMemSize_adm (v : W64) : (s.withMemSize v).adm = s.adm := rfl
@[simp] theorem State.withMemSize_pat (v : W64) : (s.withMemSize v).pat = s.pat := rfl
@[simp] theorem State.withMemSize_pair (v : W64) : (s.withMemSize v).pair = s.pair := rfl
@[simp] theorem State.withMemSize_lace (v : W64) : (s.withMemSize v).lace = s.lace := rfl
@[simp] theorem State.withMemSize_err (v : W64) : (s.withMemSize v).err = s.err := rfl
@[simp] theorem State.withMemSize_spr (v : W64) : (s.withMemSize v).spr = s.spr := rfl
@[simp] theorem State.withMemSize_pins (v : W64) : (s.withMemSize v).pins = s.pins := rfl
@[simp] theorem State.withMemSize_mem (v : W64) : (s.withMemSize v).mem = s.mem := rfl
@[simp] theorem State.withMemSize_out (v : W64) : (s.withMemSize v).out = s.out := rfl
@[simp] theorem State.withMemSize_lastRead (v : W64) : (s.withMemSize v).lastRead = s.lastRead := rfl
@[simp] theorem State.withMemSize_free (v : W64) : (s.withMemSize v).free = s.free := rfl

/-! `State.withOut` changes `out` only. -/
@[simp] theorem State.withOut_out (v : List Out) : (s.withOut v).out = v := rfl
@[simp] theorem State.withOut_pending (v : List Out) : (s.withOut v).pending = s.pending := rfl
@[simp] theorem State.withOut_regs (v : List Out) : (s.withOut v).regs = s.regs := rfl
@[simp] theorem State.withOut_q (v : List Out) : (s.withOut v).q = s.q := rfl
@[simp] theorem State.withOut_cq (v : List Out) : (s.withOut v).cq = s.cq := rfl
@[simp] theorem State.withOut_ctr (v : List Out) : (s.withOut v).ctr = s.ctr := rfl
@[simp] theorem State.withOut_mr (v : List Out) : (s.withOut v).mr = s.mr := rfl
@[simp] theorem State.withOut_pd (v : List Out) : (s.withOut v).pd = s.pd := rfl
@[simp] theorem State.withOut_fl (v : List Out) : (s.withOut v).fl = s.fl := rfl
@[simp] theorem State.withOut_park (v : List Out) : (s.withOut v).park = s.park := rfl
@[simp] theorem State.withOut_cqs (v : List Out) : (s.withOut v).cqs = s.cqs := rfl
@[simp] theorem State.withOut_cache (v : List Out) : (s.withOut v).cache = s.cache := rfl
@[simp] theorem State.withOut_ic (v : List Out) : (s.withOut v).ic = s.ic := rfl
@[simp] theorem State.withOut_arb (v : List Out) : (s.withOut v).arb = s.arb := rfl
@[simp] theorem State.withOut_lines (v : List Out) : (s.withOut v).lines = s.lines := rfl
@[simp] theorem State.withOut_tb (v : List Out) : (s.withOut v).tb = s.tb := rfl
@[simp] theorem State.withOut_trace (v : List Out) : (s.withOut v).trace = s.trace := rfl
@[simp] theorem State.withOut_adm (v : List Out) : (s.withOut v).adm = s.adm := rfl
@[simp] theorem State.withOut_pat (v : List Out) : (s.withOut v).pat = s.pat := rfl
@[simp] theorem State.withOut_pair (v : List Out) : (s.withOut v).pair = s.pair := rfl
@[simp] theorem State.withOut_lace (v : List Out) : (s.withOut v).lace = s.lace := rfl
@[simp] theorem State.withOut_err (v : List Out) : (s.withOut v).err = s.err := rfl
@[simp] theorem State.withOut_spr (v : List Out) : (s.withOut v).spr = s.spr := rfl
@[simp] theorem State.withOut_pins (v : List Out) : (s.withOut v).pins = s.pins := rfl
@[simp] theorem State.withOut_mem (v : List Out) : (s.withOut v).mem = s.mem := rfl
@[simp] theorem State.withOut_memSize (v : List Out) : (s.withOut v).memSize = s.memSize := rfl
@[simp] theorem State.withOut_lastRead (v : List Out) : (s.withOut v).lastRead = s.lastRead := rfl
@[simp] theorem State.withOut_free (v : List Out) : (s.withOut v).free = s.free := rfl

/-! `State.withLastRead` changes `lastRead` only. -/
@[simp] theorem State.withLastRead_lastRead (v : List W64) : (s.withLastRead v).lastRead = v := rfl
@[simp] theorem State.withLastRead_pending (v : List W64) : (s.withLastRead v).pending = s.pending := rfl
@[simp] theorem State.withLastRead_regs (v : List W64) : (s.withLastRead v).regs = s.regs := rfl
@[simp] theorem State.withLastRead_q (v : List W64) : (s.withLastRead v).q = s.q := rfl
@[simp] theorem State.withLastRead_cq (v : List W64) : (s.withLastRead v).cq = s.cq := rfl
@[simp] theorem State.withLastRead_ctr (v : List W64) : (s.withLastRead v).ctr = s.ctr := rfl
@[simp] theorem State.withLastRead_mr (v : List W64) : (s.withLastRead v).mr = s.mr := rfl
@[simp] theorem State.withLastRead_pd (v : List W64) : (s.withLastRead v).pd = s.pd := rfl
@[simp] theorem State.withLastRead_fl (v : List W64) : (s.withLastRead v).fl = s.fl := rfl
@[simp] theorem State.withLastRead_park (v : List W64) : (s.withLastRead v).park = s.park := rfl
@[simp] theorem State.withLastRead_cqs (v : List W64) : (s.withLastRead v).cqs = s.cqs := rfl
@[simp] theorem State.withLastRead_cache (v : List W64) : (s.withLastRead v).cache = s.cache := rfl
@[simp] theorem State.withLastRead_ic (v : List W64) : (s.withLastRead v).ic = s.ic := rfl
@[simp] theorem State.withLastRead_arb (v : List W64) : (s.withLastRead v).arb = s.arb := rfl
@[simp] theorem State.withLastRead_lines (v : List W64) : (s.withLastRead v).lines = s.lines := rfl
@[simp] theorem State.withLastRead_tb (v : List W64) : (s.withLastRead v).tb = s.tb := rfl
@[simp] theorem State.withLastRead_trace (v : List W64) : (s.withLastRead v).trace = s.trace := rfl
@[simp] theorem State.withLastRead_adm (v : List W64) : (s.withLastRead v).adm = s.adm := rfl
@[simp] theorem State.withLastRead_pat (v : List W64) : (s.withLastRead v).pat = s.pat := rfl
@[simp] theorem State.withLastRead_pair (v : List W64) : (s.withLastRead v).pair = s.pair := rfl
@[simp] theorem State.withLastRead_lace (v : List W64) : (s.withLastRead v).lace = s.lace := rfl
@[simp] theorem State.withLastRead_err (v : List W64) : (s.withLastRead v).err = s.err := rfl
@[simp] theorem State.withLastRead_spr (v : List W64) : (s.withLastRead v).spr = s.spr := rfl
@[simp] theorem State.withLastRead_pins (v : List W64) : (s.withLastRead v).pins = s.pins := rfl
@[simp] theorem State.withLastRead_mem (v : List W64) : (s.withLastRead v).mem = s.mem := rfl
@[simp] theorem State.withLastRead_memSize (v : List W64) : (s.withLastRead v).memSize = s.memSize := rfl
@[simp] theorem State.withLastRead_out (v : List W64) : (s.withLastRead v).out = s.out := rfl
@[simp] theorem State.withLastRead_free (v : List W64) : (s.withLastRead v).free = s.free := rfl

/-! `State.withFree` changes `free` only. -/
@[simp] theorem State.withFree_free (v : Nat) : (s.withFree v).free = v := rfl
@[simp] theorem State.withFree_pending (v : Nat) : (s.withFree v).pending = s.pending := rfl
@[simp] theorem State.withFree_regs (v : Nat) : (s.withFree v).regs = s.regs := rfl
@[simp] theorem State.withFree_q (v : Nat) : (s.withFree v).q = s.q := rfl
@[simp] theorem State.withFree_cq (v : Nat) : (s.withFree v).cq = s.cq := rfl
@[simp] theorem State.withFree_ctr (v : Nat) : (s.withFree v).ctr = s.ctr := rfl
@[simp] theorem State.withFree_mr (v : Nat) : (s.withFree v).mr = s.mr := rfl
@[simp] theorem State.withFree_pd (v : Nat) : (s.withFree v).pd = s.pd := rfl
@[simp] theorem State.withFree_fl (v : Nat) : (s.withFree v).fl = s.fl := rfl
@[simp] theorem State.withFree_park (v : Nat) : (s.withFree v).park = s.park := rfl
@[simp] theorem State.withFree_cqs (v : Nat) : (s.withFree v).cqs = s.cqs := rfl
@[simp] theorem State.withFree_cache (v : Nat) : (s.withFree v).cache = s.cache := rfl
@[simp] theorem State.withFree_ic (v : Nat) : (s.withFree v).ic = s.ic := rfl
@[simp] theorem State.withFree_arb (v : Nat) : (s.withFree v).arb = s.arb := rfl
@[simp] theorem State.withFree_lines (v : Nat) : (s.withFree v).lines = s.lines := rfl
@[simp] theorem State.withFree_tb (v : Nat) : (s.withFree v).tb = s.tb := rfl
@[simp] theorem State.withFree_trace (v : Nat) : (s.withFree v).trace = s.trace := rfl
@[simp] theorem State.withFree_adm (v : Nat) : (s.withFree v).adm = s.adm := rfl
@[simp] theorem State.withFree_pat (v : Nat) : (s.withFree v).pat = s.pat := rfl
@[simp] theorem State.withFree_pair (v : Nat) : (s.withFree v).pair = s.pair := rfl
@[simp] theorem State.withFree_lace (v : Nat) : (s.withFree v).lace = s.lace := rfl
@[simp] theorem State.withFree_err (v : Nat) : (s.withFree v).err = s.err := rfl
@[simp] theorem State.withFree_spr (v : Nat) : (s.withFree v).spr = s.spr := rfl
@[simp] theorem State.withFree_pins (v : Nat) : (s.withFree v).pins = s.pins := rfl
@[simp] theorem State.withFree_mem (v : Nat) : (s.withFree v).mem = s.mem := rfl
@[simp] theorem State.withFree_memSize (v : Nat) : (s.withFree v).memSize = s.memSize := rfl
@[simp] theorem State.withFree_out (v : Nat) : (s.withFree v).out = s.out := rfl
@[simp] theorem State.withFree_lastRead (v : Nat) : (s.withFree v).lastRead = s.lastRead := rfl

/-! `State.setReg` changes `regs` only. -/
@[simp] theorem State.setReg_pending (o : Nat) (v : W64) : (s.setReg o v).pending = s.pending := rfl
@[simp] theorem State.setReg_q (o : Nat) (v : W64) : (s.setReg o v).q = s.q := rfl
@[simp] theorem State.setReg_cq (o : Nat) (v : W64) : (s.setReg o v).cq = s.cq := rfl
@[simp] theorem State.setReg_ctr (o : Nat) (v : W64) : (s.setReg o v).ctr = s.ctr := rfl
@[simp] theorem State.setReg_mr (o : Nat) (v : W64) : (s.setReg o v).mr = s.mr := rfl
@[simp] theorem State.setReg_pd (o : Nat) (v : W64) : (s.setReg o v).pd = s.pd := rfl
@[simp] theorem State.setReg_fl (o : Nat) (v : W64) : (s.setReg o v).fl = s.fl := rfl
@[simp] theorem State.setReg_park (o : Nat) (v : W64) : (s.setReg o v).park = s.park := rfl
@[simp] theorem State.setReg_cqs (o : Nat) (v : W64) : (s.setReg o v).cqs = s.cqs := rfl
@[simp] theorem State.setReg_cache (o : Nat) (v : W64) : (s.setReg o v).cache = s.cache := rfl
@[simp] theorem State.setReg_ic (o : Nat) (v : W64) : (s.setReg o v).ic = s.ic := rfl
@[simp] theorem State.setReg_arb (o : Nat) (v : W64) : (s.setReg o v).arb = s.arb := rfl
@[simp] theorem State.setReg_lines (o : Nat) (v : W64) : (s.setReg o v).lines = s.lines := rfl
@[simp] theorem State.setReg_tb (o : Nat) (v : W64) : (s.setReg o v).tb = s.tb := rfl
@[simp] theorem State.setReg_trace (o : Nat) (v : W64) : (s.setReg o v).trace = s.trace := rfl
@[simp] theorem State.setReg_adm (o : Nat) (v : W64) : (s.setReg o v).adm = s.adm := rfl
@[simp] theorem State.setReg_pat (o : Nat) (v : W64) : (s.setReg o v).pat = s.pat := rfl
@[simp] theorem State.setReg_pair (o : Nat) (v : W64) : (s.setReg o v).pair = s.pair := rfl
@[simp] theorem State.setReg_lace (o : Nat) (v : W64) : (s.setReg o v).lace = s.lace := rfl
@[simp] theorem State.setReg_err (o : Nat) (v : W64) : (s.setReg o v).err = s.err := rfl
@[simp] theorem State.setReg_spr (o : Nat) (v : W64) : (s.setReg o v).spr = s.spr := rfl
@[simp] theorem State.setReg_pins (o : Nat) (v : W64) : (s.setReg o v).pins = s.pins := rfl
@[simp] theorem State.setReg_mem (o : Nat) (v : W64) : (s.setReg o v).mem = s.mem := rfl
@[simp] theorem State.setReg_memSize (o : Nat) (v : W64) : (s.setReg o v).memSize = s.memSize := rfl
@[simp] theorem State.setReg_out (o : Nat) (v : W64) : (s.setReg o v).out = s.out := rfl
@[simp] theorem State.setReg_lastRead (o : Nat) (v : W64) : (s.setReg o v).lastRead = s.lastRead := rfl
@[simp] theorem State.setReg_free (o : Nat) (v : W64) : (s.setReg o v).free = s.free := rfl

/-! `State.setF` changes `regs` only. -/
@[simp] theorem State.setF_pending (d : Fld) (n : Nat) : (s.setF d n).pending = s.pending := rfl
@[simp] theorem State.setF_q (d : Fld) (n : Nat) : (s.setF d n).q = s.q := rfl
@[simp] theorem State.setF_cq (d : Fld) (n : Nat) : (s.setF d n).cq = s.cq := rfl
@[simp] theorem State.setF_ctr (d : Fld) (n : Nat) : (s.setF d n).ctr = s.ctr := rfl
@[simp] theorem State.setF_mr (d : Fld) (n : Nat) : (s.setF d n).mr = s.mr := rfl
@[simp] theorem State.setF_pd (d : Fld) (n : Nat) : (s.setF d n).pd = s.pd := rfl
@[simp] theorem State.setF_fl (d : Fld) (n : Nat) : (s.setF d n).fl = s.fl := rfl
@[simp] theorem State.setF_park (d : Fld) (n : Nat) : (s.setF d n).park = s.park := rfl
@[simp] theorem State.setF_cqs (d : Fld) (n : Nat) : (s.setF d n).cqs = s.cqs := rfl
@[simp] theorem State.setF_cache (d : Fld) (n : Nat) : (s.setF d n).cache = s.cache := rfl
@[simp] theorem State.setF_ic (d : Fld) (n : Nat) : (s.setF d n).ic = s.ic := rfl
@[simp] theorem State.setF_arb (d : Fld) (n : Nat) : (s.setF d n).arb = s.arb := rfl
@[simp] theorem State.setF_lines (d : Fld) (n : Nat) : (s.setF d n).lines = s.lines := rfl
@[simp] theorem State.setF_tb (d : Fld) (n : Nat) : (s.setF d n).tb = s.tb := rfl
@[simp] theorem State.setF_trace (d : Fld) (n : Nat) : (s.setF d n).trace = s.trace := rfl
@[simp] theorem State.setF_adm (d : Fld) (n : Nat) : (s.setF d n).adm = s.adm := rfl
@[simp] theorem State.setF_pat (d : Fld) (n : Nat) : (s.setF d n).pat = s.pat := rfl
@[simp] theorem State.setF_pair (d : Fld) (n : Nat) : (s.setF d n).pair = s.pair := rfl
@[simp] theorem State.setF_lace (d : Fld) (n : Nat) : (s.setF d n).lace = s.lace := rfl
@[simp] theorem State.setF_err (d : Fld) (n : Nat) : (s.setF d n).err = s.err := rfl
@[simp] theorem State.setF_spr (d : Fld) (n : Nat) : (s.setF d n).spr = s.spr := rfl
@[simp] theorem State.setF_pins (d : Fld) (n : Nat) : (s.setF d n).pins = s.pins := rfl
@[simp] theorem State.setF_mem (d : Fld) (n : Nat) : (s.setF d n).mem = s.mem := rfl
@[simp] theorem State.setF_memSize (d : Fld) (n : Nat) : (s.setF d n).memSize = s.memSize := rfl
@[simp] theorem State.setF_out (d : Fld) (n : Nat) : (s.setF d n).out = s.out := rfl
@[simp] theorem State.setF_lastRead (d : Fld) (n : Nat) : (s.setF d n).lastRead = s.lastRead := rfl
@[simp] theorem State.setF_free (d : Fld) (n : Nat) : (s.setF d n).free = s.free := rfl

/-! `State.sat` changes `regs` only. -/
@[simp] theorem State.sat_pending (d : Fld) (n : Nat) : (s.sat d n).pending = s.pending := rfl
@[simp] theorem State.sat_q (d : Fld) (n : Nat) : (s.sat d n).q = s.q := rfl
@[simp] theorem State.sat_cq (d : Fld) (n : Nat) : (s.sat d n).cq = s.cq := rfl
@[simp] theorem State.sat_ctr (d : Fld) (n : Nat) : (s.sat d n).ctr = s.ctr := rfl
@[simp] theorem State.sat_mr (d : Fld) (n : Nat) : (s.sat d n).mr = s.mr := rfl
@[simp] theorem State.sat_pd (d : Fld) (n : Nat) : (s.sat d n).pd = s.pd := rfl
@[simp] theorem State.sat_fl (d : Fld) (n : Nat) : (s.sat d n).fl = s.fl := rfl
@[simp] theorem State.sat_park (d : Fld) (n : Nat) : (s.sat d n).park = s.park := rfl
@[simp] theorem State.sat_cqs (d : Fld) (n : Nat) : (s.sat d n).cqs = s.cqs := rfl
@[simp] theorem State.sat_cache (d : Fld) (n : Nat) : (s.sat d n).cache = s.cache := rfl
@[simp] theorem State.sat_ic (d : Fld) (n : Nat) : (s.sat d n).ic = s.ic := rfl
@[simp] theorem State.sat_arb (d : Fld) (n : Nat) : (s.sat d n).arb = s.arb := rfl
@[simp] theorem State.sat_lines (d : Fld) (n : Nat) : (s.sat d n).lines = s.lines := rfl
@[simp] theorem State.sat_tb (d : Fld) (n : Nat) : (s.sat d n).tb = s.tb := rfl
@[simp] theorem State.sat_trace (d : Fld) (n : Nat) : (s.sat d n).trace = s.trace := rfl
@[simp] theorem State.sat_adm (d : Fld) (n : Nat) : (s.sat d n).adm = s.adm := rfl
@[simp] theorem State.sat_pat (d : Fld) (n : Nat) : (s.sat d n).pat = s.pat := rfl
@[simp] theorem State.sat_pair (d : Fld) (n : Nat) : (s.sat d n).pair = s.pair := rfl
@[simp] theorem State.sat_lace (d : Fld) (n : Nat) : (s.sat d n).lace = s.lace := rfl
@[simp] theorem State.sat_err (d : Fld) (n : Nat) : (s.sat d n).err = s.err := rfl
@[simp] theorem State.sat_spr (d : Fld) (n : Nat) : (s.sat d n).spr = s.spr := rfl
@[simp] theorem State.sat_pins (d : Fld) (n : Nat) : (s.sat d n).pins = s.pins := rfl
@[simp] theorem State.sat_mem (d : Fld) (n : Nat) : (s.sat d n).mem = s.mem := rfl
@[simp] theorem State.sat_memSize (d : Fld) (n : Nat) : (s.sat d n).memSize = s.memSize := rfl
@[simp] theorem State.sat_out (d : Fld) (n : Nat) : (s.sat d n).out = s.out := rfl
@[simp] theorem State.sat_lastRead (d : Fld) (n : Nat) : (s.sat d n).lastRead = s.lastRead := rfl
@[simp] theorem State.sat_free (d : Fld) (n : Nat) : (s.sat d n).free = s.free := rfl

/-! `State.cnt` changes `regs` only. -/
@[simp] theorem State.cnt_pending (d : Fld) : (s.cnt d).pending = s.pending := rfl
@[simp] theorem State.cnt_q (d : Fld) : (s.cnt d).q = s.q := rfl
@[simp] theorem State.cnt_cq (d : Fld) : (s.cnt d).cq = s.cq := rfl
@[simp] theorem State.cnt_ctr (d : Fld) : (s.cnt d).ctr = s.ctr := rfl
@[simp] theorem State.cnt_mr (d : Fld) : (s.cnt d).mr = s.mr := rfl
@[simp] theorem State.cnt_pd (d : Fld) : (s.cnt d).pd = s.pd := rfl
@[simp] theorem State.cnt_fl (d : Fld) : (s.cnt d).fl = s.fl := rfl
@[simp] theorem State.cnt_park (d : Fld) : (s.cnt d).park = s.park := rfl
@[simp] theorem State.cnt_cqs (d : Fld) : (s.cnt d).cqs = s.cqs := rfl
@[simp] theorem State.cnt_cache (d : Fld) : (s.cnt d).cache = s.cache := rfl
@[simp] theorem State.cnt_ic (d : Fld) : (s.cnt d).ic = s.ic := rfl
@[simp] theorem State.cnt_arb (d : Fld) : (s.cnt d).arb = s.arb := rfl
@[simp] theorem State.cnt_lines (d : Fld) : (s.cnt d).lines = s.lines := rfl
@[simp] theorem State.cnt_tb (d : Fld) : (s.cnt d).tb = s.tb := rfl
@[simp] theorem State.cnt_trace (d : Fld) : (s.cnt d).trace = s.trace := rfl
@[simp] theorem State.cnt_adm (d : Fld) : (s.cnt d).adm = s.adm := rfl
@[simp] theorem State.cnt_pat (d : Fld) : (s.cnt d).pat = s.pat := rfl
@[simp] theorem State.cnt_pair (d : Fld) : (s.cnt d).pair = s.pair := rfl
@[simp] theorem State.cnt_lace (d : Fld) : (s.cnt d).lace = s.lace := rfl
@[simp] theorem State.cnt_err (d : Fld) : (s.cnt d).err = s.err := rfl
@[simp] theorem State.cnt_spr (d : Fld) : (s.cnt d).spr = s.spr := rfl
@[simp] theorem State.cnt_pins (d : Fld) : (s.cnt d).pins = s.pins := rfl
@[simp] theorem State.cnt_mem (d : Fld) : (s.cnt d).mem = s.mem := rfl
@[simp] theorem State.cnt_memSize (d : Fld) : (s.cnt d).memSize = s.memSize := rfl
@[simp] theorem State.cnt_out (d : Fld) : (s.cnt d).out = s.out := rfl
@[simp] theorem State.cnt_lastRead (d : Fld) : (s.cnt d).lastRead = s.lastRead := rfl
@[simp] theorem State.cnt_free (d : Fld) : (s.cnt d).free = s.free := rfl

/-! `State.wrapAdd` changes `regs` only. -/
@[simp] theorem State.wrapAdd_pending (d : Fld) (n : Nat) : (s.wrapAdd d n).pending = s.pending := rfl
@[simp] theorem State.wrapAdd_q (d : Fld) (n : Nat) : (s.wrapAdd d n).q = s.q := rfl
@[simp] theorem State.wrapAdd_cq (d : Fld) (n : Nat) : (s.wrapAdd d n).cq = s.cq := rfl
@[simp] theorem State.wrapAdd_ctr (d : Fld) (n : Nat) : (s.wrapAdd d n).ctr = s.ctr := rfl
@[simp] theorem State.wrapAdd_mr (d : Fld) (n : Nat) : (s.wrapAdd d n).mr = s.mr := rfl
@[simp] theorem State.wrapAdd_pd (d : Fld) (n : Nat) : (s.wrapAdd d n).pd = s.pd := rfl
@[simp] theorem State.wrapAdd_fl (d : Fld) (n : Nat) : (s.wrapAdd d n).fl = s.fl := rfl
@[simp] theorem State.wrapAdd_park (d : Fld) (n : Nat) : (s.wrapAdd d n).park = s.park := rfl
@[simp] theorem State.wrapAdd_cqs (d : Fld) (n : Nat) : (s.wrapAdd d n).cqs = s.cqs := rfl
@[simp] theorem State.wrapAdd_cache (d : Fld) (n : Nat) : (s.wrapAdd d n).cache = s.cache := rfl
@[simp] theorem State.wrapAdd_ic (d : Fld) (n : Nat) : (s.wrapAdd d n).ic = s.ic := rfl
@[simp] theorem State.wrapAdd_arb (d : Fld) (n : Nat) : (s.wrapAdd d n).arb = s.arb := rfl
@[simp] theorem State.wrapAdd_lines (d : Fld) (n : Nat) : (s.wrapAdd d n).lines = s.lines := rfl
@[simp] theorem State.wrapAdd_tb (d : Fld) (n : Nat) : (s.wrapAdd d n).tb = s.tb := rfl
@[simp] theorem State.wrapAdd_trace (d : Fld) (n : Nat) : (s.wrapAdd d n).trace = s.trace := rfl
@[simp] theorem State.wrapAdd_adm (d : Fld) (n : Nat) : (s.wrapAdd d n).adm = s.adm := rfl
@[simp] theorem State.wrapAdd_pat (d : Fld) (n : Nat) : (s.wrapAdd d n).pat = s.pat := rfl
@[simp] theorem State.wrapAdd_pair (d : Fld) (n : Nat) : (s.wrapAdd d n).pair = s.pair := rfl
@[simp] theorem State.wrapAdd_lace (d : Fld) (n : Nat) : (s.wrapAdd d n).lace = s.lace := rfl
@[simp] theorem State.wrapAdd_err (d : Fld) (n : Nat) : (s.wrapAdd d n).err = s.err := rfl
@[simp] theorem State.wrapAdd_spr (d : Fld) (n : Nat) : (s.wrapAdd d n).spr = s.spr := rfl
@[simp] theorem State.wrapAdd_pins (d : Fld) (n : Nat) : (s.wrapAdd d n).pins = s.pins := rfl
@[simp] theorem State.wrapAdd_mem (d : Fld) (n : Nat) : (s.wrapAdd d n).mem = s.mem := rfl
@[simp] theorem State.wrapAdd_memSize (d : Fld) (n : Nat) : (s.wrapAdd d n).memSize = s.memSize := rfl
@[simp] theorem State.wrapAdd_out (d : Fld) (n : Nat) : (s.wrapAdd d n).out = s.out := rfl
@[simp] theorem State.wrapAdd_lastRead (d : Fld) (n : Nat) : (s.wrapAdd d n).lastRead = s.lastRead := rfl
@[simp] theorem State.wrapAdd_free (d : Fld) (n : Nat) : (s.wrapAdd d n).free = s.free := rfl

/-! `State.peak` changes `regs` only. -/
@[simp] theorem State.peak_pending (d : Fld) (n : Nat) : (s.peak d n).pending = s.pending := rfl
@[simp] theorem State.peak_q (d : Fld) (n : Nat) : (s.peak d n).q = s.q := rfl
@[simp] theorem State.peak_cq (d : Fld) (n : Nat) : (s.peak d n).cq = s.cq := rfl
@[simp] theorem State.peak_ctr (d : Fld) (n : Nat) : (s.peak d n).ctr = s.ctr := rfl
@[simp] theorem State.peak_mr (d : Fld) (n : Nat) : (s.peak d n).mr = s.mr := rfl
@[simp] theorem State.peak_pd (d : Fld) (n : Nat) : (s.peak d n).pd = s.pd := rfl
@[simp] theorem State.peak_fl (d : Fld) (n : Nat) : (s.peak d n).fl = s.fl := rfl
@[simp] theorem State.peak_park (d : Fld) (n : Nat) : (s.peak d n).park = s.park := rfl
@[simp] theorem State.peak_cqs (d : Fld) (n : Nat) : (s.peak d n).cqs = s.cqs := rfl
@[simp] theorem State.peak_cache (d : Fld) (n : Nat) : (s.peak d n).cache = s.cache := rfl
@[simp] theorem State.peak_ic (d : Fld) (n : Nat) : (s.peak d n).ic = s.ic := rfl
@[simp] theorem State.peak_arb (d : Fld) (n : Nat) : (s.peak d n).arb = s.arb := rfl
@[simp] theorem State.peak_lines (d : Fld) (n : Nat) : (s.peak d n).lines = s.lines := rfl
@[simp] theorem State.peak_tb (d : Fld) (n : Nat) : (s.peak d n).tb = s.tb := rfl
@[simp] theorem State.peak_trace (d : Fld) (n : Nat) : (s.peak d n).trace = s.trace := rfl
@[simp] theorem State.peak_adm (d : Fld) (n : Nat) : (s.peak d n).adm = s.adm := rfl
@[simp] theorem State.peak_pat (d : Fld) (n : Nat) : (s.peak d n).pat = s.pat := rfl
@[simp] theorem State.peak_pair (d : Fld) (n : Nat) : (s.peak d n).pair = s.pair := rfl
@[simp] theorem State.peak_lace (d : Fld) (n : Nat) : (s.peak d n).lace = s.lace := rfl
@[simp] theorem State.peak_err (d : Fld) (n : Nat) : (s.peak d n).err = s.err := rfl
@[simp] theorem State.peak_spr (d : Fld) (n : Nat) : (s.peak d n).spr = s.spr := rfl
@[simp] theorem State.peak_pins (d : Fld) (n : Nat) : (s.peak d n).pins = s.pins := rfl
@[simp] theorem State.peak_mem (d : Fld) (n : Nat) : (s.peak d n).mem = s.mem := rfl
@[simp] theorem State.peak_memSize (d : Fld) (n : Nat) : (s.peak d n).memSize = s.memSize := rfl
@[simp] theorem State.peak_out (d : Fld) (n : Nat) : (s.peak d n).out = s.out := rfl
@[simp] theorem State.peak_lastRead (d : Fld) (n : Nat) : (s.peak d n).lastRead = s.lastRead := rfl
@[simp] theorem State.peak_free (d : Fld) (n : Nat) : (s.peak d n).free = s.free := rfl

/-! `State.beginRead` changes `lastRead` only. -/
@[simp] theorem State.beginRead_pending : (s.beginRead).pending = s.pending := rfl
@[simp] theorem State.beginRead_regs : (s.beginRead).regs = s.regs := rfl
@[simp] theorem State.beginRead_q : (s.beginRead).q = s.q := rfl
@[simp] theorem State.beginRead_cq : (s.beginRead).cq = s.cq := rfl
@[simp] theorem State.beginRead_ctr : (s.beginRead).ctr = s.ctr := rfl
@[simp] theorem State.beginRead_mr : (s.beginRead).mr = s.mr := rfl
@[simp] theorem State.beginRead_pd : (s.beginRead).pd = s.pd := rfl
@[simp] theorem State.beginRead_fl : (s.beginRead).fl = s.fl := rfl
@[simp] theorem State.beginRead_park : (s.beginRead).park = s.park := rfl
@[simp] theorem State.beginRead_cqs : (s.beginRead).cqs = s.cqs := rfl
@[simp] theorem State.beginRead_cache : (s.beginRead).cache = s.cache := rfl
@[simp] theorem State.beginRead_ic : (s.beginRead).ic = s.ic := rfl
@[simp] theorem State.beginRead_arb : (s.beginRead).arb = s.arb := rfl
@[simp] theorem State.beginRead_lines : (s.beginRead).lines = s.lines := rfl
@[simp] theorem State.beginRead_tb : (s.beginRead).tb = s.tb := rfl
@[simp] theorem State.beginRead_trace : (s.beginRead).trace = s.trace := rfl
@[simp] theorem State.beginRead_adm : (s.beginRead).adm = s.adm := rfl
@[simp] theorem State.beginRead_pat : (s.beginRead).pat = s.pat := rfl
@[simp] theorem State.beginRead_pair : (s.beginRead).pair = s.pair := rfl
@[simp] theorem State.beginRead_lace : (s.beginRead).lace = s.lace := rfl
@[simp] theorem State.beginRead_err : (s.beginRead).err = s.err := rfl
@[simp] theorem State.beginRead_spr : (s.beginRead).spr = s.spr := rfl
@[simp] theorem State.beginRead_pins : (s.beginRead).pins = s.pins := rfl
@[simp] theorem State.beginRead_mem : (s.beginRead).mem = s.mem := rfl
@[simp] theorem State.beginRead_memSize : (s.beginRead).memSize = s.memSize := rfl
@[simp] theorem State.beginRead_out : (s.beginRead).out = s.out := rfl
@[simp] theorem State.beginRead_free : (s.beginRead).free = s.free := rfl

/-! `State.ret` changes `lastRead` only. -/
@[simp] theorem State.ret_pending (v : W64) : (s.ret v).pending = s.pending := rfl
@[simp] theorem State.ret_regs (v : W64) : (s.ret v).regs = s.regs := rfl
@[simp] theorem State.ret_q (v : W64) : (s.ret v).q = s.q := rfl
@[simp] theorem State.ret_cq (v : W64) : (s.ret v).cq = s.cq := rfl
@[simp] theorem State.ret_ctr (v : W64) : (s.ret v).ctr = s.ctr := rfl
@[simp] theorem State.ret_mr (v : W64) : (s.ret v).mr = s.mr := rfl
@[simp] theorem State.ret_pd (v : W64) : (s.ret v).pd = s.pd := rfl
@[simp] theorem State.ret_fl (v : W64) : (s.ret v).fl = s.fl := rfl
@[simp] theorem State.ret_park (v : W64) : (s.ret v).park = s.park := rfl
@[simp] theorem State.ret_cqs (v : W64) : (s.ret v).cqs = s.cqs := rfl
@[simp] theorem State.ret_cache (v : W64) : (s.ret v).cache = s.cache := rfl
@[simp] theorem State.ret_ic (v : W64) : (s.ret v).ic = s.ic := rfl
@[simp] theorem State.ret_arb (v : W64) : (s.ret v).arb = s.arb := rfl
@[simp] theorem State.ret_lines (v : W64) : (s.ret v).lines = s.lines := rfl
@[simp] theorem State.ret_tb (v : W64) : (s.ret v).tb = s.tb := rfl
@[simp] theorem State.ret_trace (v : W64) : (s.ret v).trace = s.trace := rfl
@[simp] theorem State.ret_adm (v : W64) : (s.ret v).adm = s.adm := rfl
@[simp] theorem State.ret_pat (v : W64) : (s.ret v).pat = s.pat := rfl
@[simp] theorem State.ret_pair (v : W64) : (s.ret v).pair = s.pair := rfl
@[simp] theorem State.ret_lace (v : W64) : (s.ret v).lace = s.lace := rfl
@[simp] theorem State.ret_err (v : W64) : (s.ret v).err = s.err := rfl
@[simp] theorem State.ret_spr (v : W64) : (s.ret v).spr = s.spr := rfl
@[simp] theorem State.ret_pins (v : W64) : (s.ret v).pins = s.pins := rfl
@[simp] theorem State.ret_mem (v : W64) : (s.ret v).mem = s.mem := rfl
@[simp] theorem State.ret_memSize (v : W64) : (s.ret v).memSize = s.memSize := rfl
@[simp] theorem State.ret_out (v : W64) : (s.ret v).out = s.out := rfl
@[simp] theorem State.ret_free (v : W64) : (s.ret v).free = s.free := rfl

/-! `State.setQ` changes `q` only. -/
@[simp] theorem State.setQ_pending (q : Nat) (c : QCtx) : (s.setQ q c).pending = s.pending := rfl
@[simp] theorem State.setQ_regs (q : Nat) (c : QCtx) : (s.setQ q c).regs = s.regs := rfl
@[simp] theorem State.setQ_cq (q : Nat) (c : QCtx) : (s.setQ q c).cq = s.cq := rfl
@[simp] theorem State.setQ_ctr (q : Nat) (c : QCtx) : (s.setQ q c).ctr = s.ctr := rfl
@[simp] theorem State.setQ_mr (q : Nat) (c : QCtx) : (s.setQ q c).mr = s.mr := rfl
@[simp] theorem State.setQ_pd (q : Nat) (c : QCtx) : (s.setQ q c).pd = s.pd := rfl
@[simp] theorem State.setQ_fl (q : Nat) (c : QCtx) : (s.setQ q c).fl = s.fl := rfl
@[simp] theorem State.setQ_park (q : Nat) (c : QCtx) : (s.setQ q c).park = s.park := rfl
@[simp] theorem State.setQ_cqs (q : Nat) (c : QCtx) : (s.setQ q c).cqs = s.cqs := rfl
@[simp] theorem State.setQ_cache (q : Nat) (c : QCtx) : (s.setQ q c).cache = s.cache := rfl
@[simp] theorem State.setQ_ic (q : Nat) (c : QCtx) : (s.setQ q c).ic = s.ic := rfl
@[simp] theorem State.setQ_arb (q : Nat) (c : QCtx) : (s.setQ q c).arb = s.arb := rfl
@[simp] theorem State.setQ_lines (q : Nat) (c : QCtx) : (s.setQ q c).lines = s.lines := rfl
@[simp] theorem State.setQ_tb (q : Nat) (c : QCtx) : (s.setQ q c).tb = s.tb := rfl
@[simp] theorem State.setQ_trace (q : Nat) (c : QCtx) : (s.setQ q c).trace = s.trace := rfl
@[simp] theorem State.setQ_adm (q : Nat) (c : QCtx) : (s.setQ q c).adm = s.adm := rfl
@[simp] theorem State.setQ_pat (q : Nat) (c : QCtx) : (s.setQ q c).pat = s.pat := rfl
@[simp] theorem State.setQ_pair (q : Nat) (c : QCtx) : (s.setQ q c).pair = s.pair := rfl
@[simp] theorem State.setQ_lace (q : Nat) (c : QCtx) : (s.setQ q c).lace = s.lace := rfl
@[simp] theorem State.setQ_err (q : Nat) (c : QCtx) : (s.setQ q c).err = s.err := rfl
@[simp] theorem State.setQ_spr (q : Nat) (c : QCtx) : (s.setQ q c).spr = s.spr := rfl
@[simp] theorem State.setQ_pins (q : Nat) (c : QCtx) : (s.setQ q c).pins = s.pins := rfl
@[simp] theorem State.setQ_mem (q : Nat) (c : QCtx) : (s.setQ q c).mem = s.mem := rfl
@[simp] theorem State.setQ_memSize (q : Nat) (c : QCtx) : (s.setQ q c).memSize = s.memSize := rfl
@[simp] theorem State.setQ_out (q : Nat) (c : QCtx) : (s.setQ q c).out = s.out := rfl
@[simp] theorem State.setQ_lastRead (q : Nat) (c : QCtx) : (s.setQ q c).lastRead = s.lastRead := rfl
@[simp] theorem State.setQ_free (q : Nat) (c : QCtx) : (s.setQ q c).free = s.free := rfl

/-! `State.updQ` changes `q` only. -/
@[simp] theorem State.updQ_pending (q : Nat) (g : QCtx → QCtx) : (s.updQ q g).pending = s.pending := rfl
@[simp] theorem State.updQ_regs (q : Nat) (g : QCtx → QCtx) : (s.updQ q g).regs = s.regs := rfl
@[simp] theorem State.updQ_cq (q : Nat) (g : QCtx → QCtx) : (s.updQ q g).cq = s.cq := rfl
@[simp] theorem State.updQ_ctr (q : Nat) (g : QCtx → QCtx) : (s.updQ q g).ctr = s.ctr := rfl
@[simp] theorem State.updQ_mr (q : Nat) (g : QCtx → QCtx) : (s.updQ q g).mr = s.mr := rfl
@[simp] theorem State.updQ_pd (q : Nat) (g : QCtx → QCtx) : (s.updQ q g).pd = s.pd := rfl
@[simp] theorem State.updQ_fl (q : Nat) (g : QCtx → QCtx) : (s.updQ q g).fl = s.fl := rfl
@[simp] theorem State.updQ_park (q : Nat) (g : QCtx → QCtx) : (s.updQ q g).park = s.park := rfl
@[simp] theorem State.updQ_cqs (q : Nat) (g : QCtx → QCtx) : (s.updQ q g).cqs = s.cqs := rfl
@[simp] theorem State.updQ_cache (q : Nat) (g : QCtx → QCtx) : (s.updQ q g).cache = s.cache := rfl
@[simp] theorem State.updQ_ic (q : Nat) (g : QCtx → QCtx) : (s.updQ q g).ic = s.ic := rfl
@[simp] theorem State.updQ_arb (q : Nat) (g : QCtx → QCtx) : (s.updQ q g).arb = s.arb := rfl
@[simp] theorem State.updQ_lines (q : Nat) (g : QCtx → QCtx) : (s.updQ q g).lines = s.lines := rfl
@[simp] theorem State.updQ_tb (q : Nat) (g : QCtx → QCtx) : (s.updQ q g).tb = s.tb := rfl
@[simp] theorem State.updQ_trace (q : Nat) (g : QCtx → QCtx) : (s.updQ q g).trace = s.trace := rfl
@[simp] theorem State.updQ_adm (q : Nat) (g : QCtx → QCtx) : (s.updQ q g).adm = s.adm := rfl
@[simp] theorem State.updQ_pat (q : Nat) (g : QCtx → QCtx) : (s.updQ q g).pat = s.pat := rfl
@[simp] theorem State.updQ_pair (q : Nat) (g : QCtx → QCtx) : (s.updQ q g).pair = s.pair := rfl
@[simp] theorem State.updQ_lace (q : Nat) (g : QCtx → QCtx) : (s.updQ q g).lace = s.lace := rfl
@[simp] theorem State.updQ_err (q : Nat) (g : QCtx → QCtx) : (s.updQ q g).err = s.err := rfl
@[simp] theorem State.updQ_spr (q : Nat) (g : QCtx → QCtx) : (s.updQ q g).spr = s.spr := rfl
@[simp] theorem State.updQ_pins (q : Nat) (g : QCtx → QCtx) : (s.updQ q g).pins = s.pins := rfl
@[simp] theorem State.updQ_mem (q : Nat) (g : QCtx → QCtx) : (s.updQ q g).mem = s.mem := rfl
@[simp] theorem State.updQ_memSize (q : Nat) (g : QCtx → QCtx) : (s.updQ q g).memSize = s.memSize := rfl
@[simp] theorem State.updQ_out (q : Nat) (g : QCtx → QCtx) : (s.updQ q g).out = s.out := rfl
@[simp] theorem State.updQ_lastRead (q : Nat) (g : QCtx → QCtx) : (s.updQ q g).lastRead = s.lastRead := rfl
@[simp] theorem State.updQ_free (q : Nat) (g : QCtx → QCtx) : (s.updQ q g).free = s.free := rfl

/-! `State.setC` changes `cq` only. -/
@[simp] theorem State.setC_pending (c : Nat) (x : CqCtx) : (s.setC c x).pending = s.pending := rfl
@[simp] theorem State.setC_regs (c : Nat) (x : CqCtx) : (s.setC c x).regs = s.regs := rfl
@[simp] theorem State.setC_q (c : Nat) (x : CqCtx) : (s.setC c x).q = s.q := rfl
@[simp] theorem State.setC_ctr (c : Nat) (x : CqCtx) : (s.setC c x).ctr = s.ctr := rfl
@[simp] theorem State.setC_mr (c : Nat) (x : CqCtx) : (s.setC c x).mr = s.mr := rfl
@[simp] theorem State.setC_pd (c : Nat) (x : CqCtx) : (s.setC c x).pd = s.pd := rfl
@[simp] theorem State.setC_fl (c : Nat) (x : CqCtx) : (s.setC c x).fl = s.fl := rfl
@[simp] theorem State.setC_park (c : Nat) (x : CqCtx) : (s.setC c x).park = s.park := rfl
@[simp] theorem State.setC_cqs (c : Nat) (x : CqCtx) : (s.setC c x).cqs = s.cqs := rfl
@[simp] theorem State.setC_cache (c : Nat) (x : CqCtx) : (s.setC c x).cache = s.cache := rfl
@[simp] theorem State.setC_ic (c : Nat) (x : CqCtx) : (s.setC c x).ic = s.ic := rfl
@[simp] theorem State.setC_arb (c : Nat) (x : CqCtx) : (s.setC c x).arb = s.arb := rfl
@[simp] theorem State.setC_lines (c : Nat) (x : CqCtx) : (s.setC c x).lines = s.lines := rfl
@[simp] theorem State.setC_tb (c : Nat) (x : CqCtx) : (s.setC c x).tb = s.tb := rfl
@[simp] theorem State.setC_trace (c : Nat) (x : CqCtx) : (s.setC c x).trace = s.trace := rfl
@[simp] theorem State.setC_adm (c : Nat) (x : CqCtx) : (s.setC c x).adm = s.adm := rfl
@[simp] theorem State.setC_pat (c : Nat) (x : CqCtx) : (s.setC c x).pat = s.pat := rfl
@[simp] theorem State.setC_pair (c : Nat) (x : CqCtx) : (s.setC c x).pair = s.pair := rfl
@[simp] theorem State.setC_lace (c : Nat) (x : CqCtx) : (s.setC c x).lace = s.lace := rfl
@[simp] theorem State.setC_err (c : Nat) (x : CqCtx) : (s.setC c x).err = s.err := rfl
@[simp] theorem State.setC_spr (c : Nat) (x : CqCtx) : (s.setC c x).spr = s.spr := rfl
@[simp] theorem State.setC_pins (c : Nat) (x : CqCtx) : (s.setC c x).pins = s.pins := rfl
@[simp] theorem State.setC_mem (c : Nat) (x : CqCtx) : (s.setC c x).mem = s.mem := rfl
@[simp] theorem State.setC_memSize (c : Nat) (x : CqCtx) : (s.setC c x).memSize = s.memSize := rfl
@[simp] theorem State.setC_out (c : Nat) (x : CqCtx) : (s.setC c x).out = s.out := rfl
@[simp] theorem State.setC_lastRead (c : Nat) (x : CqCtx) : (s.setC c x).lastRead = s.lastRead := rfl
@[simp] theorem State.setC_free (c : Nat) (x : CqCtx) : (s.setC c x).free = s.free := rfl

/-! `State.updC` changes `cq` only. -/
@[simp] theorem State.updC_pending (c : Nat) (g : CqCtx → CqCtx) : (s.updC c g).pending = s.pending := rfl
@[simp] theorem State.updC_regs (c : Nat) (g : CqCtx → CqCtx) : (s.updC c g).regs = s.regs := rfl
@[simp] theorem State.updC_q (c : Nat) (g : CqCtx → CqCtx) : (s.updC c g).q = s.q := rfl
@[simp] theorem State.updC_ctr (c : Nat) (g : CqCtx → CqCtx) : (s.updC c g).ctr = s.ctr := rfl
@[simp] theorem State.updC_mr (c : Nat) (g : CqCtx → CqCtx) : (s.updC c g).mr = s.mr := rfl
@[simp] theorem State.updC_pd (c : Nat) (g : CqCtx → CqCtx) : (s.updC c g).pd = s.pd := rfl
@[simp] theorem State.updC_fl (c : Nat) (g : CqCtx → CqCtx) : (s.updC c g).fl = s.fl := rfl
@[simp] theorem State.updC_park (c : Nat) (g : CqCtx → CqCtx) : (s.updC c g).park = s.park := rfl
@[simp] theorem State.updC_cqs (c : Nat) (g : CqCtx → CqCtx) : (s.updC c g).cqs = s.cqs := rfl
@[simp] theorem State.updC_cache (c : Nat) (g : CqCtx → CqCtx) : (s.updC c g).cache = s.cache := rfl
@[simp] theorem State.updC_ic (c : Nat) (g : CqCtx → CqCtx) : (s.updC c g).ic = s.ic := rfl
@[simp] theorem State.updC_arb (c : Nat) (g : CqCtx → CqCtx) : (s.updC c g).arb = s.arb := rfl
@[simp] theorem State.updC_lines (c : Nat) (g : CqCtx → CqCtx) : (s.updC c g).lines = s.lines := rfl
@[simp] theorem State.updC_tb (c : Nat) (g : CqCtx → CqCtx) : (s.updC c g).tb = s.tb := rfl
@[simp] theorem State.updC_trace (c : Nat) (g : CqCtx → CqCtx) : (s.updC c g).trace = s.trace := rfl
@[simp] theorem State.updC_adm (c : Nat) (g : CqCtx → CqCtx) : (s.updC c g).adm = s.adm := rfl
@[simp] theorem State.updC_pat (c : Nat) (g : CqCtx → CqCtx) : (s.updC c g).pat = s.pat := rfl
@[simp] theorem State.updC_pair (c : Nat) (g : CqCtx → CqCtx) : (s.updC c g).pair = s.pair := rfl
@[simp] theorem State.updC_lace (c : Nat) (g : CqCtx → CqCtx) : (s.updC c g).lace = s.lace := rfl
@[simp] theorem State.updC_err (c : Nat) (g : CqCtx → CqCtx) : (s.updC c g).err = s.err := rfl
@[simp] theorem State.updC_spr (c : Nat) (g : CqCtx → CqCtx) : (s.updC c g).spr = s.spr := rfl
@[simp] theorem State.updC_pins (c : Nat) (g : CqCtx → CqCtx) : (s.updC c g).pins = s.pins := rfl
@[simp] theorem State.updC_mem (c : Nat) (g : CqCtx → CqCtx) : (s.updC c g).mem = s.mem := rfl
@[simp] theorem State.updC_memSize (c : Nat) (g : CqCtx → CqCtx) : (s.updC c g).memSize = s.memSize := rfl
@[simp] theorem State.updC_out (c : Nat) (g : CqCtx → CqCtx) : (s.updC c g).out = s.out := rfl
@[simp] theorem State.updC_lastRead (c : Nat) (g : CqCtx → CqCtx) : (s.updC c g).lastRead = s.lastRead := rfl
@[simp] theorem State.updC_free (c : Nat) (g : CqCtx → CqCtx) : (s.updC c g).free = s.free := rfl

/-! `State.setCtr` changes `ctr` only. -/
@[simp] theorem State.setCtr_pending (n : Nat) (x : Counter) : (s.setCtr n x).pending = s.pending := rfl
@[simp] theorem State.setCtr_regs (n : Nat) (x : Counter) : (s.setCtr n x).regs = s.regs := rfl
@[simp] theorem State.setCtr_q (n : Nat) (x : Counter) : (s.setCtr n x).q = s.q := rfl
@[simp] theorem State.setCtr_cq (n : Nat) (x : Counter) : (s.setCtr n x).cq = s.cq := rfl
@[simp] theorem State.setCtr_mr (n : Nat) (x : Counter) : (s.setCtr n x).mr = s.mr := rfl
@[simp] theorem State.setCtr_pd (n : Nat) (x : Counter) : (s.setCtr n x).pd = s.pd := rfl
@[simp] theorem State.setCtr_fl (n : Nat) (x : Counter) : (s.setCtr n x).fl = s.fl := rfl
@[simp] theorem State.setCtr_park (n : Nat) (x : Counter) : (s.setCtr n x).park = s.park := rfl
@[simp] theorem State.setCtr_cqs (n : Nat) (x : Counter) : (s.setCtr n x).cqs = s.cqs := rfl
@[simp] theorem State.setCtr_cache (n : Nat) (x : Counter) : (s.setCtr n x).cache = s.cache := rfl
@[simp] theorem State.setCtr_ic (n : Nat) (x : Counter) : (s.setCtr n x).ic = s.ic := rfl
@[simp] theorem State.setCtr_arb (n : Nat) (x : Counter) : (s.setCtr n x).arb = s.arb := rfl
@[simp] theorem State.setCtr_lines (n : Nat) (x : Counter) : (s.setCtr n x).lines = s.lines := rfl
@[simp] theorem State.setCtr_tb (n : Nat) (x : Counter) : (s.setCtr n x).tb = s.tb := rfl
@[simp] theorem State.setCtr_trace (n : Nat) (x : Counter) : (s.setCtr n x).trace = s.trace := rfl
@[simp] theorem State.setCtr_adm (n : Nat) (x : Counter) : (s.setCtr n x).adm = s.adm := rfl
@[simp] theorem State.setCtr_pat (n : Nat) (x : Counter) : (s.setCtr n x).pat = s.pat := rfl
@[simp] theorem State.setCtr_pair (n : Nat) (x : Counter) : (s.setCtr n x).pair = s.pair := rfl
@[simp] theorem State.setCtr_lace (n : Nat) (x : Counter) : (s.setCtr n x).lace = s.lace := rfl
@[simp] theorem State.setCtr_err (n : Nat) (x : Counter) : (s.setCtr n x).err = s.err := rfl
@[simp] theorem State.setCtr_spr (n : Nat) (x : Counter) : (s.setCtr n x).spr = s.spr := rfl
@[simp] theorem State.setCtr_pins (n : Nat) (x : Counter) : (s.setCtr n x).pins = s.pins := rfl
@[simp] theorem State.setCtr_mem (n : Nat) (x : Counter) : (s.setCtr n x).mem = s.mem := rfl
@[simp] theorem State.setCtr_memSize (n : Nat) (x : Counter) : (s.setCtr n x).memSize = s.memSize := rfl
@[simp] theorem State.setCtr_out (n : Nat) (x : Counter) : (s.setCtr n x).out = s.out := rfl
@[simp] theorem State.setCtr_lastRead (n : Nat) (x : Counter) : (s.setCtr n x).lastRead = s.lastRead := rfl
@[simp] theorem State.setCtr_free (n : Nat) (x : Counter) : (s.setCtr n x).free = s.free := rfl

/-! `State.setMr` changes `mr` only. -/
@[simp] theorem State.setMr_pending (n : Nat) (x : Region) : (s.setMr n x).pending = s.pending := rfl
@[simp] theorem State.setMr_regs (n : Nat) (x : Region) : (s.setMr n x).regs = s.regs := rfl
@[simp] theorem State.setMr_q (n : Nat) (x : Region) : (s.setMr n x).q = s.q := rfl
@[simp] theorem State.setMr_cq (n : Nat) (x : Region) : (s.setMr n x).cq = s.cq := rfl
@[simp] theorem State.setMr_ctr (n : Nat) (x : Region) : (s.setMr n x).ctr = s.ctr := rfl
@[simp] theorem State.setMr_pd (n : Nat) (x : Region) : (s.setMr n x).pd = s.pd := rfl
@[simp] theorem State.setMr_fl (n : Nat) (x : Region) : (s.setMr n x).fl = s.fl := rfl
@[simp] theorem State.setMr_park (n : Nat) (x : Region) : (s.setMr n x).park = s.park := rfl
@[simp] theorem State.setMr_cqs (n : Nat) (x : Region) : (s.setMr n x).cqs = s.cqs := rfl
@[simp] theorem State.setMr_cache (n : Nat) (x : Region) : (s.setMr n x).cache = s.cache := rfl
@[simp] theorem State.setMr_ic (n : Nat) (x : Region) : (s.setMr n x).ic = s.ic := rfl
@[simp] theorem State.setMr_arb (n : Nat) (x : Region) : (s.setMr n x).arb = s.arb := rfl
@[simp] theorem State.setMr_lines (n : Nat) (x : Region) : (s.setMr n x).lines = s.lines := rfl
@[simp] theorem State.setMr_tb (n : Nat) (x : Region) : (s.setMr n x).tb = s.tb := rfl
@[simp] theorem State.setMr_trace (n : Nat) (x : Region) : (s.setMr n x).trace = s.trace := rfl
@[simp] theorem State.setMr_adm (n : Nat) (x : Region) : (s.setMr n x).adm = s.adm := rfl
@[simp] theorem State.setMr_pat (n : Nat) (x : Region) : (s.setMr n x).pat = s.pat := rfl
@[simp] theorem State.setMr_pair (n : Nat) (x : Region) : (s.setMr n x).pair = s.pair := rfl
@[simp] theorem State.setMr_lace (n : Nat) (x : Region) : (s.setMr n x).lace = s.lace := rfl
@[simp] theorem State.setMr_err (n : Nat) (x : Region) : (s.setMr n x).err = s.err := rfl
@[simp] theorem State.setMr_spr (n : Nat) (x : Region) : (s.setMr n x).spr = s.spr := rfl
@[simp] theorem State.setMr_pins (n : Nat) (x : Region) : (s.setMr n x).pins = s.pins := rfl
@[simp] theorem State.setMr_mem (n : Nat) (x : Region) : (s.setMr n x).mem = s.mem := rfl
@[simp] theorem State.setMr_memSize (n : Nat) (x : Region) : (s.setMr n x).memSize = s.memSize := rfl
@[simp] theorem State.setMr_out (n : Nat) (x : Region) : (s.setMr n x).out = s.out := rfl
@[simp] theorem State.setMr_lastRead (n : Nat) (x : Region) : (s.setMr n x).lastRead = s.lastRead := rfl
@[simp] theorem State.setMr_free (n : Nat) (x : Region) : (s.setMr n x).free = s.free := rfl

/-! `State.setPd` changes `pd` only. -/
@[simp] theorem State.setPd_pending (n : Nat) (b : Bool) : (s.setPd n b).pending = s.pending := rfl
@[simp] theorem State.setPd_regs (n : Nat) (b : Bool) : (s.setPd n b).regs = s.regs := rfl
@[simp] theorem State.setPd_q (n : Nat) (b : Bool) : (s.setPd n b).q = s.q := rfl
@[simp] theorem State.setPd_cq (n : Nat) (b : Bool) : (s.setPd n b).cq = s.cq := rfl
@[simp] theorem State.setPd_ctr (n : Nat) (b : Bool) : (s.setPd n b).ctr = s.ctr := rfl
@[simp] theorem State.setPd_mr (n : Nat) (b : Bool) : (s.setPd n b).mr = s.mr := rfl
@[simp] theorem State.setPd_fl (n : Nat) (b : Bool) : (s.setPd n b).fl = s.fl := rfl
@[simp] theorem State.setPd_park (n : Nat) (b : Bool) : (s.setPd n b).park = s.park := rfl
@[simp] theorem State.setPd_cqs (n : Nat) (b : Bool) : (s.setPd n b).cqs = s.cqs := rfl
@[simp] theorem State.setPd_cache (n : Nat) (b : Bool) : (s.setPd n b).cache = s.cache := rfl
@[simp] theorem State.setPd_ic (n : Nat) (b : Bool) : (s.setPd n b).ic = s.ic := rfl
@[simp] theorem State.setPd_arb (n : Nat) (b : Bool) : (s.setPd n b).arb = s.arb := rfl
@[simp] theorem State.setPd_lines (n : Nat) (b : Bool) : (s.setPd n b).lines = s.lines := rfl
@[simp] theorem State.setPd_tb (n : Nat) (b : Bool) : (s.setPd n b).tb = s.tb := rfl
@[simp] theorem State.setPd_trace (n : Nat) (b : Bool) : (s.setPd n b).trace = s.trace := rfl
@[simp] theorem State.setPd_adm (n : Nat) (b : Bool) : (s.setPd n b).adm = s.adm := rfl
@[simp] theorem State.setPd_pat (n : Nat) (b : Bool) : (s.setPd n b).pat = s.pat := rfl
@[simp] theorem State.setPd_pair (n : Nat) (b : Bool) : (s.setPd n b).pair = s.pair := rfl
@[simp] theorem State.setPd_lace (n : Nat) (b : Bool) : (s.setPd n b).lace = s.lace := rfl
@[simp] theorem State.setPd_err (n : Nat) (b : Bool) : (s.setPd n b).err = s.err := rfl
@[simp] theorem State.setPd_spr (n : Nat) (b : Bool) : (s.setPd n b).spr = s.spr := rfl
@[simp] theorem State.setPd_pins (n : Nat) (b : Bool) : (s.setPd n b).pins = s.pins := rfl
@[simp] theorem State.setPd_mem (n : Nat) (b : Bool) : (s.setPd n b).mem = s.mem := rfl
@[simp] theorem State.setPd_memSize (n : Nat) (b : Bool) : (s.setPd n b).memSize = s.memSize := rfl
@[simp] theorem State.setPd_out (n : Nat) (b : Bool) : (s.setPd n b).out = s.out := rfl
@[simp] theorem State.setPd_lastRead (n : Nat) (b : Bool) : (s.setPd n b).lastRead = s.lastRead := rfl
@[simp] theorem State.setPd_free (n : Nat) (b : Bool) : (s.setPd n b).free = s.free := rfl

/-! `State.updLine` changes `lines` only. -/
@[simp] theorem State.updLine_pending (n : Nat) (g : Line → Line) : (s.updLine n g).pending = s.pending := rfl
@[simp] theorem State.updLine_regs (n : Nat) (g : Line → Line) : (s.updLine n g).regs = s.regs := rfl
@[simp] theorem State.updLine_q (n : Nat) (g : Line → Line) : (s.updLine n g).q = s.q := rfl
@[simp] theorem State.updLine_cq (n : Nat) (g : Line → Line) : (s.updLine n g).cq = s.cq := rfl
@[simp] theorem State.updLine_ctr (n : Nat) (g : Line → Line) : (s.updLine n g).ctr = s.ctr := rfl
@[simp] theorem State.updLine_mr (n : Nat) (g : Line → Line) : (s.updLine n g).mr = s.mr := rfl
@[simp] theorem State.updLine_pd (n : Nat) (g : Line → Line) : (s.updLine n g).pd = s.pd := rfl
@[simp] theorem State.updLine_fl (n : Nat) (g : Line → Line) : (s.updLine n g).fl = s.fl := rfl
@[simp] theorem State.updLine_park (n : Nat) (g : Line → Line) : (s.updLine n g).park = s.park := rfl
@[simp] theorem State.updLine_cqs (n : Nat) (g : Line → Line) : (s.updLine n g).cqs = s.cqs := rfl
@[simp] theorem State.updLine_cache (n : Nat) (g : Line → Line) : (s.updLine n g).cache = s.cache := rfl
@[simp] theorem State.updLine_ic (n : Nat) (g : Line → Line) : (s.updLine n g).ic = s.ic := rfl
@[simp] theorem State.updLine_arb (n : Nat) (g : Line → Line) : (s.updLine n g).arb = s.arb := rfl
@[simp] theorem State.updLine_tb (n : Nat) (g : Line → Line) : (s.updLine n g).tb = s.tb := rfl
@[simp] theorem State.updLine_trace (n : Nat) (g : Line → Line) : (s.updLine n g).trace = s.trace := rfl
@[simp] theorem State.updLine_adm (n : Nat) (g : Line → Line) : (s.updLine n g).adm = s.adm := rfl
@[simp] theorem State.updLine_pat (n : Nat) (g : Line → Line) : (s.updLine n g).pat = s.pat := rfl
@[simp] theorem State.updLine_pair (n : Nat) (g : Line → Line) : (s.updLine n g).pair = s.pair := rfl
@[simp] theorem State.updLine_lace (n : Nat) (g : Line → Line) : (s.updLine n g).lace = s.lace := rfl
@[simp] theorem State.updLine_err (n : Nat) (g : Line → Line) : (s.updLine n g).err = s.err := rfl
@[simp] theorem State.updLine_spr (n : Nat) (g : Line → Line) : (s.updLine n g).spr = s.spr := rfl
@[simp] theorem State.updLine_pins (n : Nat) (g : Line → Line) : (s.updLine n g).pins = s.pins := rfl
@[simp] theorem State.updLine_mem (n : Nat) (g : Line → Line) : (s.updLine n g).mem = s.mem := rfl
@[simp] theorem State.updLine_memSize (n : Nat) (g : Line → Line) : (s.updLine n g).memSize = s.memSize := rfl
@[simp] theorem State.updLine_out (n : Nat) (g : Line → Line) : (s.updLine n g).out = s.out := rfl
@[simp] theorem State.updLine_lastRead (n : Nat) (g : Line → Line) : (s.updLine n g).lastRead = s.lastRead := rfl
@[simp] theorem State.updLine_free (n : Nat) (g : Line → Line) : (s.updLine n g).free = s.free := rfl

/-! `State.updFl` changes `fl` only. -/
@[simp] theorem State.updFl_pending (q : Nat) (i : W32) (g : Flight → Flight) : (s.updFl q i g).pending = s.pending := rfl
@[simp] theorem State.updFl_regs (q : Nat) (i : W32) (g : Flight → Flight) : (s.updFl q i g).regs = s.regs := rfl
@[simp] theorem State.updFl_q (q : Nat) (i : W32) (g : Flight → Flight) : (s.updFl q i g).q = s.q := rfl
@[simp] theorem State.updFl_cq (q : Nat) (i : W32) (g : Flight → Flight) : (s.updFl q i g).cq = s.cq := rfl
@[simp] theorem State.updFl_ctr (q : Nat) (i : W32) (g : Flight → Flight) : (s.updFl q i g).ctr = s.ctr := rfl
@[simp] theorem State.updFl_mr (q : Nat) (i : W32) (g : Flight → Flight) : (s.updFl q i g).mr = s.mr := rfl
@[simp] theorem State.updFl_pd (q : Nat) (i : W32) (g : Flight → Flight) : (s.updFl q i g).pd = s.pd := rfl
@[simp] theorem State.updFl_park (q : Nat) (i : W32) (g : Flight → Flight) : (s.updFl q i g).park = s.park := rfl
@[simp] theorem State.updFl_cqs (q : Nat) (i : W32) (g : Flight → Flight) : (s.updFl q i g).cqs = s.cqs := rfl
@[simp] theorem State.updFl_cache (q : Nat) (i : W32) (g : Flight → Flight) : (s.updFl q i g).cache = s.cache := rfl
@[simp] theorem State.updFl_ic (q : Nat) (i : W32) (g : Flight → Flight) : (s.updFl q i g).ic = s.ic := rfl
@[simp] theorem State.updFl_arb (q : Nat) (i : W32) (g : Flight → Flight) : (s.updFl q i g).arb = s.arb := rfl
@[simp] theorem State.updFl_lines (q : Nat) (i : W32) (g : Flight → Flight) : (s.updFl q i g).lines = s.lines := rfl
@[simp] theorem State.updFl_tb (q : Nat) (i : W32) (g : Flight → Flight) : (s.updFl q i g).tb = s.tb := rfl
@[simp] theorem State.updFl_trace (q : Nat) (i : W32) (g : Flight → Flight) : (s.updFl q i g).trace = s.trace := rfl
@[simp] theorem State.updFl_adm (q : Nat) (i : W32) (g : Flight → Flight) : (s.updFl q i g).adm = s.adm := rfl
@[simp] theorem State.updFl_pat (q : Nat) (i : W32) (g : Flight → Flight) : (s.updFl q i g).pat = s.pat := rfl
@[simp] theorem State.updFl_pair (q : Nat) (i : W32) (g : Flight → Flight) : (s.updFl q i g).pair = s.pair := rfl
@[simp] theorem State.updFl_lace (q : Nat) (i : W32) (g : Flight → Flight) : (s.updFl q i g).lace = s.lace := rfl
@[simp] theorem State.updFl_err (q : Nat) (i : W32) (g : Flight → Flight) : (s.updFl q i g).err = s.err := rfl
@[simp] theorem State.updFl_spr (q : Nat) (i : W32) (g : Flight → Flight) : (s.updFl q i g).spr = s.spr := rfl
@[simp] theorem State.updFl_pins (q : Nat) (i : W32) (g : Flight → Flight) : (s.updFl q i g).pins = s.pins := rfl
@[simp] theorem State.updFl_mem (q : Nat) (i : W32) (g : Flight → Flight) : (s.updFl q i g).mem = s.mem := rfl
@[simp] theorem State.updFl_memSize (q : Nat) (i : W32) (g : Flight → Flight) : (s.updFl q i g).memSize = s.memSize := rfl
@[simp] theorem State.updFl_out (q : Nat) (i : W32) (g : Flight → Flight) : (s.updFl q i g).out = s.out := rfl
@[simp] theorem State.updFl_lastRead (q : Nat) (i : W32) (g : Flight → Flight) : (s.updFl q i g).lastRead = s.lastRead := rfl
@[simp] theorem State.updFl_free (q : Nat) (i : W32) (g : Flight → Flight) : (s.updFl q i g).free = s.free := rfl

/-! `State.dropFl` changes `fl` only. -/
@[simp] theorem State.dropFl_pending (q : Nat) (i : W32) : (s.dropFl q i).pending = s.pending := rfl
@[simp] theorem State.dropFl_regs (q : Nat) (i : W32) : (s.dropFl q i).regs = s.regs := rfl
@[simp] theorem State.dropFl_q (q : Nat) (i : W32) : (s.dropFl q i).q = s.q := rfl
@[simp] theorem State.dropFl_cq (q : Nat) (i : W32) : (s.dropFl q i).cq = s.cq := rfl
@[simp] theorem State.dropFl_ctr (q : Nat) (i : W32) : (s.dropFl q i).ctr = s.ctr := rfl
@[simp] theorem State.dropFl_mr (q : Nat) (i : W32) : (s.dropFl q i).mr = s.mr := rfl
@[simp] theorem State.dropFl_pd (q : Nat) (i : W32) : (s.dropFl q i).pd = s.pd := rfl
@[simp] theorem State.dropFl_park (q : Nat) (i : W32) : (s.dropFl q i).park = s.park := rfl
@[simp] theorem State.dropFl_cqs (q : Nat) (i : W32) : (s.dropFl q i).cqs = s.cqs := rfl
@[simp] theorem State.dropFl_cache (q : Nat) (i : W32) : (s.dropFl q i).cache = s.cache := rfl
@[simp] theorem State.dropFl_ic (q : Nat) (i : W32) : (s.dropFl q i).ic = s.ic := rfl
@[simp] theorem State.dropFl_arb (q : Nat) (i : W32) : (s.dropFl q i).arb = s.arb := rfl
@[simp] theorem State.dropFl_lines (q : Nat) (i : W32) : (s.dropFl q i).lines = s.lines := rfl
@[simp] theorem State.dropFl_tb (q : Nat) (i : W32) : (s.dropFl q i).tb = s.tb := rfl
@[simp] theorem State.dropFl_trace (q : Nat) (i : W32) : (s.dropFl q i).trace = s.trace := rfl
@[simp] theorem State.dropFl_adm (q : Nat) (i : W32) : (s.dropFl q i).adm = s.adm := rfl
@[simp] theorem State.dropFl_pat (q : Nat) (i : W32) : (s.dropFl q i).pat = s.pat := rfl
@[simp] theorem State.dropFl_pair (q : Nat) (i : W32) : (s.dropFl q i).pair = s.pair := rfl
@[simp] theorem State.dropFl_lace (q : Nat) (i : W32) : (s.dropFl q i).lace = s.lace := rfl
@[simp] theorem State.dropFl_err (q : Nat) (i : W32) : (s.dropFl q i).err = s.err := rfl
@[simp] theorem State.dropFl_spr (q : Nat) (i : W32) : (s.dropFl q i).spr = s.spr := rfl
@[simp] theorem State.dropFl_pins (q : Nat) (i : W32) : (s.dropFl q i).pins = s.pins := rfl
@[simp] theorem State.dropFl_mem (q : Nat) (i : W32) : (s.dropFl q i).mem = s.mem := rfl
@[simp] theorem State.dropFl_memSize (q : Nat) (i : W32) : (s.dropFl q i).memSize = s.memSize := rfl
@[simp] theorem State.dropFl_out (q : Nat) (i : W32) : (s.dropFl q i).out = s.out := rfl
@[simp] theorem State.dropFl_lastRead (q : Nat) (i : W32) : (s.dropFl q i).lastRead = s.lastRead := rfl
@[simp] theorem State.dropFl_free (q : Nat) (i : W32) : (s.dropFl q i).free = s.free := rfl

/-! `State.emit` changes `out` only. -/
@[simp] theorem State.emit_pending (o : Out) : (s.emit o).pending = s.pending := rfl
@[simp] theorem State.emit_regs (o : Out) : (s.emit o).regs = s.regs := rfl
@[simp] theorem State.emit_q (o : Out) : (s.emit o).q = s.q := rfl
@[simp] theorem State.emit_cq (o : Out) : (s.emit o).cq = s.cq := rfl
@[simp] theorem State.emit_ctr (o : Out) : (s.emit o).ctr = s.ctr := rfl
@[simp] theorem State.emit_mr (o : Out) : (s.emit o).mr = s.mr := rfl
@[simp] theorem State.emit_pd (o : Out) : (s.emit o).pd = s.pd := rfl
@[simp] theorem State.emit_fl (o : Out) : (s.emit o).fl = s.fl := rfl
@[simp] theorem State.emit_park (o : Out) : (s.emit o).park = s.park := rfl
@[simp] theorem State.emit_cqs (o : Out) : (s.emit o).cqs = s.cqs := rfl
@[simp] theorem State.emit_cache (o : Out) : (s.emit o).cache = s.cache := rfl
@[simp] theorem State.emit_ic (o : Out) : (s.emit o).ic = s.ic := rfl
@[simp] theorem State.emit_arb (o : Out) : (s.emit o).arb = s.arb := rfl
@[simp] theorem State.emit_lines (o : Out) : (s.emit o).lines = s.lines := rfl
@[simp] theorem State.emit_tb (o : Out) : (s.emit o).tb = s.tb := rfl
@[simp] theorem State.emit_trace (o : Out) : (s.emit o).trace = s.trace := rfl
@[simp] theorem State.emit_adm (o : Out) : (s.emit o).adm = s.adm := rfl
@[simp] theorem State.emit_pat (o : Out) : (s.emit o).pat = s.pat := rfl
@[simp] theorem State.emit_pair (o : Out) : (s.emit o).pair = s.pair := rfl
@[simp] theorem State.emit_lace (o : Out) : (s.emit o).lace = s.lace := rfl
@[simp] theorem State.emit_err (o : Out) : (s.emit o).err = s.err := rfl
@[simp] theorem State.emit_spr (o : Out) : (s.emit o).spr = s.spr := rfl
@[simp] theorem State.emit_pins (o : Out) : (s.emit o).pins = s.pins := rfl
@[simp] theorem State.emit_mem (o : Out) : (s.emit o).mem = s.mem := rfl
@[simp] theorem State.emit_memSize (o : Out) : (s.emit o).memSize = s.memSize := rfl
@[simp] theorem State.emit_lastRead (o : Out) : (s.emit o).lastRead = s.lastRead := rfl
@[simp] theorem State.emit_free (o : Out) : (s.emit o).free = s.free := rfl

/-! `State.setPend` changes `regs` only. -/
@[simp] theorem State.setPend_pending (n : Nat) (b : Bool) : (s.setPend n b).pending = s.pending := rfl
@[simp] theorem State.setPend_q (n : Nat) (b : Bool) : (s.setPend n b).q = s.q := rfl
@[simp] theorem State.setPend_cq (n : Nat) (b : Bool) : (s.setPend n b).cq = s.cq := rfl
@[simp] theorem State.setPend_ctr (n : Nat) (b : Bool) : (s.setPend n b).ctr = s.ctr := rfl
@[simp] theorem State.setPend_mr (n : Nat) (b : Bool) : (s.setPend n b).mr = s.mr := rfl
@[simp] theorem State.setPend_pd (n : Nat) (b : Bool) : (s.setPend n b).pd = s.pd := rfl
@[simp] theorem State.setPend_fl (n : Nat) (b : Bool) : (s.setPend n b).fl = s.fl := rfl
@[simp] theorem State.setPend_park (n : Nat) (b : Bool) : (s.setPend n b).park = s.park := rfl
@[simp] theorem State.setPend_cqs (n : Nat) (b : Bool) : (s.setPend n b).cqs = s.cqs := rfl
@[simp] theorem State.setPend_cache (n : Nat) (b : Bool) : (s.setPend n b).cache = s.cache := rfl
@[simp] theorem State.setPend_ic (n : Nat) (b : Bool) : (s.setPend n b).ic = s.ic := rfl
@[simp] theorem State.setPend_arb (n : Nat) (b : Bool) : (s.setPend n b).arb = s.arb := rfl
@[simp] theorem State.setPend_lines (n : Nat) (b : Bool) : (s.setPend n b).lines = s.lines := rfl
@[simp] theorem State.setPend_tb (n : Nat) (b : Bool) : (s.setPend n b).tb = s.tb := rfl
@[simp] theorem State.setPend_trace (n : Nat) (b : Bool) : (s.setPend n b).trace = s.trace := rfl
@[simp] theorem State.setPend_adm (n : Nat) (b : Bool) : (s.setPend n b).adm = s.adm := rfl
@[simp] theorem State.setPend_pat (n : Nat) (b : Bool) : (s.setPend n b).pat = s.pat := rfl
@[simp] theorem State.setPend_pair (n : Nat) (b : Bool) : (s.setPend n b).pair = s.pair := rfl
@[simp] theorem State.setPend_lace (n : Nat) (b : Bool) : (s.setPend n b).lace = s.lace := rfl
@[simp] theorem State.setPend_err (n : Nat) (b : Bool) : (s.setPend n b).err = s.err := rfl
@[simp] theorem State.setPend_spr (n : Nat) (b : Bool) : (s.setPend n b).spr = s.spr := rfl
@[simp] theorem State.setPend_pins (n : Nat) (b : Bool) : (s.setPend n b).pins = s.pins := rfl
@[simp] theorem State.setPend_mem (n : Nat) (b : Bool) : (s.setPend n b).mem = s.mem := rfl
@[simp] theorem State.setPend_memSize (n : Nat) (b : Bool) : (s.setPend n b).memSize = s.memSize := rfl
@[simp] theorem State.setPend_out (n : Nat) (b : Bool) : (s.setPend n b).out = s.out := rfl
@[simp] theorem State.setPend_lastRead (n : Nat) (b : Bool) : (s.setPend n b).lastRead = s.lastRead := rfl
@[simp] theorem State.setPend_free (n : Nat) (b : Bool) : (s.setPend n b).free = s.free := rfl

/-! `State.setStack` changes `ic` only. -/
@[simp] theorem State.setStack_pending (t : Nat) (l : List (Nat × Nat)) : (s.setStack t l).pending = s.pending := rfl
@[simp] theorem State.setStack_regs (t : Nat) (l : List (Nat × Nat)) : (s.setStack t l).regs = s.regs := rfl
@[simp] theorem State.setStack_q (t : Nat) (l : List (Nat × Nat)) : (s.setStack t l).q = s.q := rfl
@[simp] theorem State.setStack_cq (t : Nat) (l : List (Nat × Nat)) : (s.setStack t l).cq = s.cq := rfl
@[simp] theorem State.setStack_ctr (t : Nat) (l : List (Nat × Nat)) : (s.setStack t l).ctr = s.ctr := rfl
@[simp] theorem State.setStack_mr (t : Nat) (l : List (Nat × Nat)) : (s.setStack t l).mr = s.mr := rfl
@[simp] theorem State.setStack_pd (t : Nat) (l : List (Nat × Nat)) : (s.setStack t l).pd = s.pd := rfl
@[simp] theorem State.setStack_fl (t : Nat) (l : List (Nat × Nat)) : (s.setStack t l).fl = s.fl := rfl
@[simp] theorem State.setStack_park (t : Nat) (l : List (Nat × Nat)) : (s.setStack t l).park = s.park := rfl
@[simp] theorem State.setStack_cqs (t : Nat) (l : List (Nat × Nat)) : (s.setStack t l).cqs = s.cqs := rfl
@[simp] theorem State.setStack_cache (t : Nat) (l : List (Nat × Nat)) : (s.setStack t l).cache = s.cache := rfl
@[simp] theorem State.setStack_arb (t : Nat) (l : List (Nat × Nat)) : (s.setStack t l).arb = s.arb := rfl
@[simp] theorem State.setStack_lines (t : Nat) (l : List (Nat × Nat)) : (s.setStack t l).lines = s.lines := rfl
@[simp] theorem State.setStack_tb (t : Nat) (l : List (Nat × Nat)) : (s.setStack t l).tb = s.tb := rfl
@[simp] theorem State.setStack_trace (t : Nat) (l : List (Nat × Nat)) : (s.setStack t l).trace = s.trace := rfl
@[simp] theorem State.setStack_adm (t : Nat) (l : List (Nat × Nat)) : (s.setStack t l).adm = s.adm := rfl
@[simp] theorem State.setStack_pat (t : Nat) (l : List (Nat × Nat)) : (s.setStack t l).pat = s.pat := rfl
@[simp] theorem State.setStack_pair (t : Nat) (l : List (Nat × Nat)) : (s.setStack t l).pair = s.pair := rfl
@[simp] theorem State.setStack_lace (t : Nat) (l : List (Nat × Nat)) : (s.setStack t l).lace = s.lace := rfl
@[simp] theorem State.setStack_err (t : Nat) (l : List (Nat × Nat)) : (s.setStack t l).err = s.err := rfl
@[simp] theorem State.setStack_spr (t : Nat) (l : List (Nat × Nat)) : (s.setStack t l).spr = s.spr := rfl
@[simp] theorem State.setStack_pins (t : Nat) (l : List (Nat × Nat)) : (s.setStack t l).pins = s.pins := rfl
@[simp] theorem State.setStack_mem (t : Nat) (l : List (Nat × Nat)) : (s.setStack t l).mem = s.mem := rfl
@[simp] theorem State.setStack_memSize (t : Nat) (l : List (Nat × Nat)) : (s.setStack t l).memSize = s.memSize := rfl
@[simp] theorem State.setStack_out (t : Nat) (l : List (Nat × Nat)) : (s.setStack t l).out = s.out := rfl
@[simp] theorem State.setStack_lastRead (t : Nat) (l : List (Nat × Nat)) : (s.setStack t l).lastRead = s.lastRead := rfl
@[simp] theorem State.setStack_free (t : Nat) (l : List (Nat × Nat)) : (s.setStack t l).free = s.free := rfl

/-! `State.putPkg` changes `mem` only. -/
@[simp] theorem State.putPkg_pending (a : Nat) (b : Byte) : (s.putPkg a b).pending = s.pending := rfl
@[simp] theorem State.putPkg_regs (a : Nat) (b : Byte) : (s.putPkg a b).regs = s.regs := rfl
@[simp] theorem State.putPkg_q (a : Nat) (b : Byte) : (s.putPkg a b).q = s.q := rfl
@[simp] theorem State.putPkg_cq (a : Nat) (b : Byte) : (s.putPkg a b).cq = s.cq := rfl
@[simp] theorem State.putPkg_ctr (a : Nat) (b : Byte) : (s.putPkg a b).ctr = s.ctr := rfl
@[simp] theorem State.putPkg_mr (a : Nat) (b : Byte) : (s.putPkg a b).mr = s.mr := rfl
@[simp] theorem State.putPkg_pd (a : Nat) (b : Byte) : (s.putPkg a b).pd = s.pd := rfl
@[simp] theorem State.putPkg_fl (a : Nat) (b : Byte) : (s.putPkg a b).fl = s.fl := rfl
@[simp] theorem State.putPkg_park (a : Nat) (b : Byte) : (s.putPkg a b).park = s.park := rfl
@[simp] theorem State.putPkg_cqs (a : Nat) (b : Byte) : (s.putPkg a b).cqs = s.cqs := rfl
@[simp] theorem State.putPkg_cache (a : Nat) (b : Byte) : (s.putPkg a b).cache = s.cache := rfl
@[simp] theorem State.putPkg_ic (a : Nat) (b : Byte) : (s.putPkg a b).ic = s.ic := rfl
@[simp] theorem State.putPkg_arb (a : Nat) (b : Byte) : (s.putPkg a b).arb = s.arb := rfl
@[simp] theorem State.putPkg_lines (a : Nat) (b : Byte) : (s.putPkg a b).lines = s.lines := rfl
@[simp] theorem State.putPkg_tb (a : Nat) (b : Byte) : (s.putPkg a b).tb = s.tb := rfl
@[simp] theorem State.putPkg_trace (a : Nat) (b : Byte) : (s.putPkg a b).trace = s.trace := rfl
@[simp] theorem State.putPkg_adm (a : Nat) (b : Byte) : (s.putPkg a b).adm = s.adm := rfl
@[simp] theorem State.putPkg_pat (a : Nat) (b : Byte) : (s.putPkg a b).pat = s.pat := rfl
@[simp] theorem State.putPkg_pair (a : Nat) (b : Byte) : (s.putPkg a b).pair = s.pair := rfl
@[simp] theorem State.putPkg_lace (a : Nat) (b : Byte) : (s.putPkg a b).lace = s.lace := rfl
@[simp] theorem State.putPkg_err (a : Nat) (b : Byte) : (s.putPkg a b).err = s.err := rfl
@[simp] theorem State.putPkg_spr (a : Nat) (b : Byte) : (s.putPkg a b).spr = s.spr := rfl
@[simp] theorem State.putPkg_pins (a : Nat) (b : Byte) : (s.putPkg a b).pins = s.pins := rfl
@[simp] theorem State.putPkg_memSize (a : Nat) (b : Byte) : (s.putPkg a b).memSize = s.memSize := rfl
@[simp] theorem State.putPkg_out (a : Nat) (b : Byte) : (s.putPkg a b).out = s.out := rfl
@[simp] theorem State.putPkg_lastRead (a : Nat) (b : Byte) : (s.putPkg a b).lastRead = s.lastRead := rfl
@[simp] theorem State.putPkg_free (a : Nat) (b : Byte) : (s.putPkg a b).free = s.free := rfl

/-! `State.putSyn` changes `mem` only. -/
@[simp] theorem State.putSyn_pending (k y : Nat) : (s.putSyn k y).pending = s.pending := rfl
@[simp] theorem State.putSyn_regs (k y : Nat) : (s.putSyn k y).regs = s.regs := rfl
@[simp] theorem State.putSyn_q (k y : Nat) : (s.putSyn k y).q = s.q := rfl
@[simp] theorem State.putSyn_cq (k y : Nat) : (s.putSyn k y).cq = s.cq := rfl
@[simp] theorem State.putSyn_ctr (k y : Nat) : (s.putSyn k y).ctr = s.ctr := rfl
@[simp] theorem State.putSyn_mr (k y : Nat) : (s.putSyn k y).mr = s.mr := rfl
@[simp] theorem State.putSyn_pd (k y : Nat) : (s.putSyn k y).pd = s.pd := rfl
@[simp] theorem State.putSyn_fl (k y : Nat) : (s.putSyn k y).fl = s.fl := rfl
@[simp] theorem State.putSyn_park (k y : Nat) : (s.putSyn k y).park = s.park := rfl
@[simp] theorem State.putSyn_cqs (k y : Nat) : (s.putSyn k y).cqs = s.cqs := rfl
@[simp] theorem State.putSyn_cache (k y : Nat) : (s.putSyn k y).cache = s.cache := rfl
@[simp] theorem State.putSyn_ic (k y : Nat) : (s.putSyn k y).ic = s.ic := rfl
@[simp] theorem State.putSyn_arb (k y : Nat) : (s.putSyn k y).arb = s.arb := rfl
@[simp] theorem State.putSyn_lines (k y : Nat) : (s.putSyn k y).lines = s.lines := rfl
@[simp] theorem State.putSyn_tb (k y : Nat) : (s.putSyn k y).tb = s.tb := rfl
@[simp] theorem State.putSyn_trace (k y : Nat) : (s.putSyn k y).trace = s.trace := rfl
@[simp] theorem State.putSyn_adm (k y : Nat) : (s.putSyn k y).adm = s.adm := rfl
@[simp] theorem State.putSyn_pat (k y : Nat) : (s.putSyn k y).pat = s.pat := rfl
@[simp] theorem State.putSyn_pair (k y : Nat) : (s.putSyn k y).pair = s.pair := rfl
@[simp] theorem State.putSyn_lace (k y : Nat) : (s.putSyn k y).lace = s.lace := rfl
@[simp] theorem State.putSyn_err (k y : Nat) : (s.putSyn k y).err = s.err := rfl
@[simp] theorem State.putSyn_spr (k y : Nat) : (s.putSyn k y).spr = s.spr := rfl
@[simp] theorem State.putSyn_pins (k y : Nat) : (s.putSyn k y).pins = s.pins := rfl
@[simp] theorem State.putSyn_memSize (k y : Nat) : (s.putSyn k y).memSize = s.memSize := rfl
@[simp] theorem State.putSyn_out (k y : Nat) : (s.putSyn k y).out = s.out := rfl
@[simp] theorem State.putSyn_lastRead (k y : Nat) : (s.putSyn k y).lastRead = s.lastRead := rfl
@[simp] theorem State.putSyn_free (k y : Nat) : (s.putSyn k y).free = s.free := rfl

/-! `State.putHost` changes `mem` only. -/
@[simp] theorem State.putHost_pending (p : Option Nat) (a : Nat) (b : Byte) : (s.putHost p a b).pending = s.pending := rfl
@[simp] theorem State.putHost_regs (p : Option Nat) (a : Nat) (b : Byte) : (s.putHost p a b).regs = s.regs := rfl
@[simp] theorem State.putHost_q (p : Option Nat) (a : Nat) (b : Byte) : (s.putHost p a b).q = s.q := rfl
@[simp] theorem State.putHost_cq (p : Option Nat) (a : Nat) (b : Byte) : (s.putHost p a b).cq = s.cq := rfl
@[simp] theorem State.putHost_ctr (p : Option Nat) (a : Nat) (b : Byte) : (s.putHost p a b).ctr = s.ctr := rfl
@[simp] theorem State.putHost_mr (p : Option Nat) (a : Nat) (b : Byte) : (s.putHost p a b).mr = s.mr := rfl
@[simp] theorem State.putHost_pd (p : Option Nat) (a : Nat) (b : Byte) : (s.putHost p a b).pd = s.pd := rfl
@[simp] theorem State.putHost_fl (p : Option Nat) (a : Nat) (b : Byte) : (s.putHost p a b).fl = s.fl := rfl
@[simp] theorem State.putHost_park (p : Option Nat) (a : Nat) (b : Byte) : (s.putHost p a b).park = s.park := rfl
@[simp] theorem State.putHost_cqs (p : Option Nat) (a : Nat) (b : Byte) : (s.putHost p a b).cqs = s.cqs := rfl
@[simp] theorem State.putHost_cache (p : Option Nat) (a : Nat) (b : Byte) : (s.putHost p a b).cache = s.cache := rfl
@[simp] theorem State.putHost_ic (p : Option Nat) (a : Nat) (b : Byte) : (s.putHost p a b).ic = s.ic := rfl
@[simp] theorem State.putHost_arb (p : Option Nat) (a : Nat) (b : Byte) : (s.putHost p a b).arb = s.arb := rfl
@[simp] theorem State.putHost_lines (p : Option Nat) (a : Nat) (b : Byte) : (s.putHost p a b).lines = s.lines := rfl
@[simp] theorem State.putHost_tb (p : Option Nat) (a : Nat) (b : Byte) : (s.putHost p a b).tb = s.tb := rfl
@[simp] theorem State.putHost_trace (p : Option Nat) (a : Nat) (b : Byte) : (s.putHost p a b).trace = s.trace := rfl
@[simp] theorem State.putHost_adm (p : Option Nat) (a : Nat) (b : Byte) : (s.putHost p a b).adm = s.adm := rfl
@[simp] theorem State.putHost_pat (p : Option Nat) (a : Nat) (b : Byte) : (s.putHost p a b).pat = s.pat := rfl
@[simp] theorem State.putHost_pair (p : Option Nat) (a : Nat) (b : Byte) : (s.putHost p a b).pair = s.pair := rfl
@[simp] theorem State.putHost_lace (p : Option Nat) (a : Nat) (b : Byte) : (s.putHost p a b).lace = s.lace := rfl
@[simp] theorem State.putHost_err (p : Option Nat) (a : Nat) (b : Byte) : (s.putHost p a b).err = s.err := rfl
@[simp] theorem State.putHost_spr (p : Option Nat) (a : Nat) (b : Byte) : (s.putHost p a b).spr = s.spr := rfl
@[simp] theorem State.putHost_pins (p : Option Nat) (a : Nat) (b : Byte) : (s.putHost p a b).pins = s.pins := rfl
@[simp] theorem State.putHost_memSize (p : Option Nat) (a : Nat) (b : Byte) : (s.putHost p a b).memSize = s.memSize := rfl
@[simp] theorem State.putHost_out (p : Option Nat) (a : Nat) (b : Byte) : (s.putHost p a b).out = s.out := rfl
@[simp] theorem State.putHost_lastRead (p : Option Nat) (a : Nat) (b : Byte) : (s.putHost p a b).lastRead = s.lastRead := rfl
@[simp] theorem State.putHost_free (p : Option Nat) (a : Nat) (b : Byte) : (s.putHost p a b).free = s.free := rfl

/-! `State.putBeat` changes `mem` only. -/
@[simp] theorem State.putBeat_pending (p : Option Nat) (a : Nat) (bad : Bool) : (s.putBeat p a bad).pending = s.pending := rfl
@[simp] theorem State.putBeat_regs (p : Option Nat) (a : Nat) (bad : Bool) : (s.putBeat p a bad).regs = s.regs := rfl
@[simp] theorem State.putBeat_q (p : Option Nat) (a : Nat) (bad : Bool) : (s.putBeat p a bad).q = s.q := rfl
@[simp] theorem State.putBeat_cq (p : Option Nat) (a : Nat) (bad : Bool) : (s.putBeat p a bad).cq = s.cq := rfl
@[simp] theorem State.putBeat_ctr (p : Option Nat) (a : Nat) (bad : Bool) : (s.putBeat p a bad).ctr = s.ctr := rfl
@[simp] theorem State.putBeat_mr (p : Option Nat) (a : Nat) (bad : Bool) : (s.putBeat p a bad).mr = s.mr := rfl
@[simp] theorem State.putBeat_pd (p : Option Nat) (a : Nat) (bad : Bool) : (s.putBeat p a bad).pd = s.pd := rfl
@[simp] theorem State.putBeat_fl (p : Option Nat) (a : Nat) (bad : Bool) : (s.putBeat p a bad).fl = s.fl := rfl
@[simp] theorem State.putBeat_park (p : Option Nat) (a : Nat) (bad : Bool) : (s.putBeat p a bad).park = s.park := rfl
@[simp] theorem State.putBeat_cqs (p : Option Nat) (a : Nat) (bad : Bool) : (s.putBeat p a bad).cqs = s.cqs := rfl
@[simp] theorem State.putBeat_cache (p : Option Nat) (a : Nat) (bad : Bool) : (s.putBeat p a bad).cache = s.cache := rfl
@[simp] theorem State.putBeat_ic (p : Option Nat) (a : Nat) (bad : Bool) : (s.putBeat p a bad).ic = s.ic := rfl
@[simp] theorem State.putBeat_arb (p : Option Nat) (a : Nat) (bad : Bool) : (s.putBeat p a bad).arb = s.arb := rfl
@[simp] theorem State.putBeat_lines (p : Option Nat) (a : Nat) (bad : Bool) : (s.putBeat p a bad).lines = s.lines := rfl
@[simp] theorem State.putBeat_tb (p : Option Nat) (a : Nat) (bad : Bool) : (s.putBeat p a bad).tb = s.tb := rfl
@[simp] theorem State.putBeat_trace (p : Option Nat) (a : Nat) (bad : Bool) : (s.putBeat p a bad).trace = s.trace := rfl
@[simp] theorem State.putBeat_adm (p : Option Nat) (a : Nat) (bad : Bool) : (s.putBeat p a bad).adm = s.adm := rfl
@[simp] theorem State.putBeat_pat (p : Option Nat) (a : Nat) (bad : Bool) : (s.putBeat p a bad).pat = s.pat := rfl
@[simp] theorem State.putBeat_pair (p : Option Nat) (a : Nat) (bad : Bool) : (s.putBeat p a bad).pair = s.pair := rfl
@[simp] theorem State.putBeat_lace (p : Option Nat) (a : Nat) (bad : Bool) : (s.putBeat p a bad).lace = s.lace := rfl
@[simp] theorem State.putBeat_err (p : Option Nat) (a : Nat) (bad : Bool) : (s.putBeat p a bad).err = s.err := rfl
@[simp] theorem State.putBeat_spr (p : Option Nat) (a : Nat) (bad : Bool) : (s.putBeat p a bad).spr = s.spr := rfl
@[simp] theorem State.putBeat_pins (p : Option Nat) (a : Nat) (bad : Bool) : (s.putBeat p a bad).pins = s.pins := rfl
@[simp] theorem State.putBeat_memSize (p : Option Nat) (a : Nat) (bad : Bool) : (s.putBeat p a bad).memSize = s.memSize := rfl
@[simp] theorem State.putBeat_out (p : Option Nat) (a : Nat) (bad : Bool) : (s.putBeat p a bad).out = s.out := rfl
@[simp] theorem State.putBeat_lastRead (p : Option Nat) (a : Nat) (bad : Bool) : (s.putBeat p a bad).lastRead = s.lastRead := rfl
@[simp] theorem State.putBeat_free (p : Option Nat) (a : Nat) (bad : Bool) : (s.putBeat p a bad).free = s.free := rfl

end Sys2Proof.Machine
end

