-- ==== Sys2Proof/Laws/Same.lean ====
section
/-!
SUPPORT. The relations in which frames are stated, and the frames of the plain updates.
-/
namespace Sys2Proof.Machine

/-- What replaces the part leaves `p` as it is. -/
def Part.blind {β : Type} (p : State → β) : Part → Prop
  | .pending => ∀ s v, p (State.withPending s v) = p s
  | .regs => ∀ s v, p (State.withRegs s v) = p s
  | .q => ∀ s v, p (State.withQ s v) = p s
  | .cq => ∀ s v, p (State.withCq s v) = p s
  | .ctr => ∀ s v, p (State.withCtr s v) = p s
  | .mr => ∀ s v, p (State.withMr s v) = p s
  | .pd => ∀ s v, p (State.withPd s v) = p s
  | .fl => ∀ s v, p (State.withFl s v) = p s
  | .park => ∀ s v, p (State.withPark s v) = p s
  | .cqs => ∀ s v, p (State.withCqs s v) = p s
  | .cache => ∀ s v, p (State.withCache s v) = p s
  | .ic => ∀ s v, p (State.withIc s v) = p s
  | .arb => ∀ s v, p (State.withArb s v) = p s
  | .lines => ∀ s v, p (State.withLines s v) = p s
  | .tb => ∀ s v, p (State.withTb s v) = p s
  | .trace => ∀ s v, p (State.withTrace s v) = p s
  | .adm => ∀ s v, p (State.withAdm s v) = p s
  | .pat => ∀ s v, p (State.withPat s v) = p s
  | .pair => ∀ s v, p (State.withPair s v) = p s
  | .lace => ∀ s v, p (State.withLace s v) = p s
  | .err => ∀ s v, p (State.withErr s v) = p s
  | .spr => ∀ s v, p (State.withSpr s v) = p s
  | .pins => ∀ s v, p (State.withPins s v) = p s
  | .mem => ∀ s v, p (State.withMem s v) = p s
  | .memSize => ∀ s v, p (State.withMemSize s v) = p s
  | .out => ∀ s v, p (State.withOut s v) = p s
  | .lastRead => ∀ s v, p (State.withLastRead s v) = p s
  | .free => ∀ s v, p (State.withFree s v) = p s

/-- What replaces a part of `l` leaves `p` as it is. -/
structure Blind {β : Type} (p : State → β) (l : List Part) : Prop where
  on : ∀ x ∈ l, x.blind p

theorem Blind.sub {β : Type} {p : State → β} {l m : List Part} (h : Blind p l) (k : ∀ x ∈ m, x ∈ l) : Blind p m :=
  ⟨fun x hx => h.on x (k x hx)⟩

/-- `t` and `s` agree under `p`. A definition of its own, so that a check of it compares the two states first. -/
def Same {β : Type} (p : State → β) (t s : State) : Prop := p t = p s

theorem Same.refl {β : Type} {p : State → β} (s : State) : Same p s s := rfl

theorem Same.trans {β : Type} {p : State → β} {a b c : State} (h : Same p a b) (k : Same p b c) : Same p a c := Eq.trans h k

theorem Same.ite {β : Type} {p : State → β} {c : Prop} [Decidable c] {a b s : State} (ha : Same p a s) (hb : Same p b s) :
    Same p (if c then a else b) s := by
  split <;> assumption

theorem Same.ite_fst {β γ : Type} {p : State → β} {c : Prop} [Decidable c] {a b : State × γ} {s : State} (ha : Same p a.1 s)
    (hb : Same p b.1 s) : Same p (if c then a else b).1 s := by
  split <;> assumption

theorem Same.forEach {α β : Type} {p : State → β} (l : List α) (g : α → State → State) (s : State)
    (h : ∀ a s, Same p (g a s) s) : Same p (Sys2Proof.Machine.forEach l g s) s := by
  unfold Sys2Proof.Machine.forEach
  induction l generalizing s with
  | nil => exact rfl
  | cons a r ih => exact (ih _).trans (h _ _)

theorem Same.foldl {α β : Type} {p : State → β} (l : List α) (g : State → α → State) (s : State)
    (h : ∀ s a, Same p (g s a) s) : Same p (l.foldl g s) s := by
  induction l generalizing s with
  | nil => exact rfl
  | cons a r ih => exact (ih _).trans (h _ _)

theorem Same.foldl_fst {α β γ : Type} {p : State → β} (l : List α) (g : State × γ → α → State × γ) (x : State × γ)
    (h : ∀ x a, Same p (g x a).1 x.1) : Same p (l.foldl g x).1 x.1 := by
  induction l generalizing x with
  | nil => exact rfl
  | cons a r ih => exact (ih _).trans (h _ _)

/-- Where `r` answers a next state, it and `s` agree under `p`. -/
structure SameR {β : Type} (p : State → β) (r : Res) (s : State) : Prop where
  on : ∀ t, r = .next t → Same p t s

theorem SameR.next {β : Type} {p : State → β} {t s : State} (h : Same p t s) : SameR p (.next t) s := by
  exact ⟨fun u hu => by cases hu; exact h⟩

theorem SameR.guarded {β : Type} {p : State → β} {c : Bool} {a t s : State} (ha : Same p a s) (h : Same p t s) : SameR p (Sys2Proof.Machine.guarded c a t) s :=
  by
  refine ⟨fun u hu => ?_⟩
  unfold Sys2Proof.Machine.guarded at hu
  cases hu
  split
  · exact h
  · exact ha

theorem SameR.ite {β : Type} {p : State → β} {c : Prop} [Decidable c] {a b : Res} {s : State} (ha : SameR p a s) (hb : SameR p b s) :
    SameR p (if c then a else b) s := by
  split <;> assumption

theorem Same.getD {β : Type} {p : State → β} {o : Option State} {s : State} (h : ∀ t, o = some t → Same p t s) :
    Same p (o.getD s) s := by
  cases o with
  | none => exact rfl
  | some t => exact h t rfl

variable {β : Type} {π : State → β}

theorem State.withPending_same (hb : Blind π [.pending]) (s : State) (v : List Instr) : Same π (s.withPending v) s :=
  hb.on .pending (by decide) _ _
theorem State.withRegs_same (hb : Blind π [.regs]) (s : State) (v : Tbl W64) : Same π (s.withRegs v) s :=
  hb.on .regs (by decide) _ _
theorem State.withQ_same (hb : Blind π [.q]) (s : State) (v : Tbl QCtx) : Same π (s.withQ v) s := hb.on .q (by decide) _ _
theorem State.withCq_same (hb : Blind π [.cq]) (s : State) (v : Tbl CqCtx) : Same π (s.withCq v) s := hb.on .cq (by decide) _ _
theorem State.withCtr_same (hb : Blind π [.ctr]) (s : State) (v : Tbl Counter) : Same π (s.withCtr v) s :=
  hb.on .ctr (by decide) _ _
theorem State.withMr_same (hb : Blind π [.mr]) (s : State) (v : Tbl Region) : Same π (s.withMr v) s := hb.on .mr (by decide) _ _
theorem State.withPd_same (hb : Blind π [.pd]) (s : State) (v : Tbl Bool) : Same π (s.withPd v) s := hb.on .pd (by decide) _ _
theorem State.withFl_same (hb : Blind π [.fl]) (s : State) (v : List Flight) : Same π (s.withFl v) s :=
  hb.on .fl (by decide) _ _
theorem State.withPark_same (hb : Blind π [.park]) (s : State) (v : Park) : Same π (s.withPark v) s :=
  hb.on .park (by decide) _ _
theorem State.withCqs_same (hb : Blind π [.cqs]) (s : State) (v : Cqs) : Same π (s.withCqs v) s := hb.on .cqs (by decide) _ _
theorem State.withCache_same (hb : Blind π [.cache]) (s : State) (v : Cache) : Same π (s.withCache v) s :=
  hb.on .cache (by decide) _ _
theorem State.withIc_same (hb : Blind π [.ic]) (s : State) (v : IcState) : Same π (s.withIc v) s := hb.on .ic (by decide) _ _
theorem State.withArb_same (hb : Blind π [.arb]) (s : State) (v : ArbState) : Same π (s.withArb v) s :=
  hb.on .arb (by decide) _ _
theorem State.withLines_same (hb : Blind π [.lines]) (s : State) (v : Tbl Line) : Same π (s.withLines v) s :=
  hb.on .lines (by decide) _ _
theorem State.withTb_same (hb : Blind π [.tb]) (s : State) (v : TbState) : Same π (s.withTb v) s := hb.on .tb (by decide) _ _
theorem State.withTrace_same (hb : Blind π [.trace]) (s : State) (v : TraceState) : Same π (s.withTrace v) s :=
  hb.on .trace (by decide) _ _
theorem State.withAdm_same (hb : Blind π [.adm]) (s : State) (v : AdmState) : Same π (s.withAdm v) s :=
  hb.on .adm (by decide) _ _
theorem State.withPat_same (hb : Blind π [.pat]) (s : State) (v : PatState) : Same π (s.withPat v) s :=
  hb.on .pat (by decide) _ _
theorem State.withPair_same (hb : Blind π [.pair]) (s : State) (v : PairState) : Same π (s.withPair v) s :=
  hb.on .pair (by decide) _ _
theorem State.withLace_same (hb : Blind π [.lace]) (s : State) (v : LaceState) : Same π (s.withLace v) s :=
  hb.on .lace (by decide) _ _
theorem State.withErr_same (hb : Blind π [.err]) (s : State) (v : ErrState) : Same π (s.withErr v) s :=
  hb.on .err (by decide) _ _
theorem State.withSpr_same (hb : Blind π [.spr]) (s : State) (v : SprState) : Same π (s.withSpr v) s :=
  hb.on .spr (by decide) _ _
theorem State.withPins_same (hb : Blind π [.pins]) (s : State) (v : Pins) : Same π (s.withPins v) s :=
  hb.on .pins (by decide) _ _
theorem State.withMem_same (hb : Blind π [.mem]) (s : State) (v : Memory) : Same π (s.withMem v) s := hb.on .mem (by decide) _ _
theorem State.withMemSize_same (hb : Blind π [.memSize]) (s : State) (v : W64) : Same π (s.withMemSize v) s :=
  hb.on .memSize (by decide) _ _
theorem State.withOut_same (hb : Blind π [.out]) (s : State) (v : List Out) : Same π (s.withOut v) s :=
  hb.on .out (by decide) _ _
theorem State.withLastRead_same (hb : Blind π [.lastRead]) (s : State) (v : List W64) : Same π (s.withLastRead v) s :=
  hb.on .lastRead (by decide) _ _
theorem State.withFree_same (hb : Blind π [.free]) (s : State) (v : Nat) : Same π (s.withFree v) s :=
  hb.on .free (by decide) _ _
theorem State.setReg_same (hb : Blind π [.regs]) (s : State) (o : Nat) (v : W64) : Same π (s.setReg o v) s :=
  hb.on .regs (by decide) _ _
theorem State.setF_same (hb : Blind π [.regs]) (s : State) (d : Fld) (n : Nat) : Same π (s.setF d n) s :=
  hb.on .regs (by decide) _ _
theorem State.sat_same (hb : Blind π [.regs]) (s : State) (d : Fld) (n : Nat) : Same π (s.sat d n) s :=
  hb.on .regs (by decide) _ _
theorem State.cnt_same (hb : Blind π [.regs]) (s : State) (d : Fld) : Same π (s.cnt d) s := hb.on .regs (by decide) _ _
theorem State.wrapAdd_same (hb : Blind π [.regs]) (s : State) (d : Fld) (n : Nat) : Same π (s.wrapAdd d n) s :=
  hb.on .regs (by decide) _ _
theorem State.peak_same (hb : Blind π [.regs]) (s : State) (d : Fld) (n : Nat) : Same π (s.peak d n) s :=
  hb.on .regs (by decide) _ _
theorem State.beginRead_same (hb : Blind π [.lastRead]) (s : State) : Same π (s.beginRead) s := hb.on .lastRead (by decide) _ _
theorem State.ret_same (hb : Blind π [.lastRead]) (s : State) (v : W64) : Same π (s.ret v) s := hb.on .lastRead (by decide) _ _
theorem State.setQ_same (hb : Blind π [.q]) (s : State) (q : Nat) (c : QCtx) : Same π (s.setQ q c) s := hb.on .q (by decide) _ _
theorem State.updQ_same (hb : Blind π [.q]) (s : State) (q : Nat) (g : QCtx → QCtx) : Same π (s.updQ q g) s :=
  hb.on .q (by decide) _ _
theorem State.setC_same (hb : Blind π [.cq]) (s : State) (c : Nat) (x : CqCtx) : Same π (s.setC c x) s :=
  hb.on .cq (by decide) _ _
theorem State.updC_same (hb : Blind π [.cq]) (s : State) (c : Nat) (g : CqCtx → CqCtx) : Same π (s.updC c g) s :=
  hb.on .cq (by decide) _ _
theorem State.setCtr_same (hb : Blind π [.ctr]) (s : State) (n : Nat) (x : Counter) : Same π (s.setCtr n x) s :=
  hb.on .ctr (by decide) _ _
theorem State.setMr_same (hb : Blind π [.mr]) (s : State) (n : Nat) (x : Region) : Same π (s.setMr n x) s :=
  hb.on .mr (by decide) _ _
theorem State.setPd_same (hb : Blind π [.pd]) (s : State) (n : Nat) (b : Bool) : Same π (s.setPd n b) s :=
  hb.on .pd (by decide) _ _
theorem State.updLine_same (hb : Blind π [.lines]) (s : State) (n : Nat) (g : Line → Line) : Same π (s.updLine n g) s :=
  hb.on .lines (by decide) _ _
theorem State.updFl_same (hb : Blind π [.fl]) (s : State) (q : Nat) (i : W32) (g : Flight → Flight) : Same π (s.updFl q i g) s :=
  hb.on .fl (by decide) _ _
theorem State.dropFl_same (hb : Blind π [.fl]) (s : State) (q : Nat) (i : W32) : Same π (s.dropFl q i) s :=
  hb.on .fl (by decide) _ _
theorem State.emit_same (hb : Blind π [.out]) (s : State) (o : Out) : Same π (s.emit o) s := hb.on .out (by decide) _ _
theorem State.setPend_same (hb : Blind π [.regs]) (s : State) (n : Nat) (b : Bool) : Same π (s.setPend n b) s :=
  hb.on .regs (by decide) _ _
theorem State.setStack_same (hb : Blind π [.ic]) (s : State) (t : Nat) (l : List (Nat × Nat)) : Same π (s.setStack t l) s :=
  hb.on .ic (by decide) _ _
theorem State.putPkg_same (hb : Blind π [.mem]) (s : State) (a : Nat) (b : Byte) : Same π (s.putPkg a b) s :=
  hb.on .mem (by decide) _ _
theorem State.putSyn_same (hb : Blind π [.mem]) (s : State) (k y : Nat) : Same π (s.putSyn k y) s := hb.on .mem (by decide) _ _
theorem State.putHost_same (hb : Blind π [.mem]) (s : State) (z : Option Nat) (a : Nat) (b : Byte) : Same π (s.putHost z a b) s :=
  hb.on .mem (by decide) _ _
theorem State.putBeat_same (hb : Blind π [.mem]) (s : State) (z : Option Nat) (a : Nat) (bad : Bool) :
    Same π (s.putBeat z a bad) s :=
  hb.on .mem (by decide) _ _
theorem Blind.pending : Blind State.pending (Part.but [.pending]) :=
  ⟨fun x hx => by cases x <;> first | exact fun _ _ => rfl | exact absurd hx (by decide)⟩
theorem Blind.regs : Blind State.regs (Part.but [.regs]) :=
  ⟨fun x hx => by cases x <;> first | exact fun _ _ => rfl | exact absurd hx (by decide)⟩
theorem Blind.q : Blind State.q (Part.but [.q]) :=
  ⟨fun x hx => by cases x <;> first | exact fun _ _ => rfl | exact absurd hx (by decide)⟩
theorem Blind.cq : Blind State.cq (Part.but [.cq]) :=
  ⟨fun x hx => by cases x <;> first | exact fun _ _ => rfl | exact absurd hx (by decide)⟩
theorem Blind.ctr : Blind State.ctr (Part.but [.ctr]) :=
  ⟨fun x hx => by cases x <;> first | exact fun _ _ => rfl | exact absurd hx (by decide)⟩
theorem Blind.mr : Blind State.mr (Part.but [.mr]) :=
  ⟨fun x hx => by cases x <;> first | exact fun _ _ => rfl | exact absurd hx (by decide)⟩
theorem Blind.pd : Blind State.pd (Part.but [.pd]) :=
  ⟨fun x hx => by cases x <;> first | exact fun _ _ => rfl | exact absurd hx (by decide)⟩
theorem Blind.fl : Blind State.fl (Part.but [.fl]) :=
  ⟨fun x hx => by cases x <;> first | exact fun _ _ => rfl | exact absurd hx (by decide)⟩
theorem Blind.park : Blind State.park (Part.but [.park]) :=
  ⟨fun x hx => by cases x <;> first | exact fun _ _ => rfl | exact absurd hx (by decide)⟩
theorem Blind.cqs : Blind State.cqs (Part.but [.cqs]) :=
  ⟨fun x hx => by cases x <;> first | exact fun _ _ => rfl | exact absurd hx (by decide)⟩
theorem Blind.cache : Blind State.cache (Part.but [.cache]) :=
  ⟨fun x hx => by cases x <;> first | exact fun _ _ => rfl | exact absurd hx (by decide)⟩
theorem Blind.ic : Blind State.ic (Part.but [.ic]) :=
  ⟨fun x hx => by cases x <;> first | exact fun _ _ => rfl | exact absurd hx (by decide)⟩
theorem Blind.arb : Blind State.arb (Part.but [.arb]) :=
  ⟨fun x hx => by cases x <;> first | exact fun _ _ => rfl | exact absurd hx (by decide)⟩
theorem Blind.lines : Blind State.lines (Part.but [.lines]) :=
  ⟨fun x hx => by cases x <;> first | exact fun _ _ => rfl | exact absurd hx (by decide)⟩
theorem Blind.tb : Blind State.tb (Part.but [.tb]) :=
  ⟨fun x hx => by cases x <;> first | exact fun _ _ => rfl | exact absurd hx (by decide)⟩
theorem Blind.trace : Blind State.trace (Part.but [.trace]) :=
  ⟨fun x hx => by cases x <;> first | exact fun _ _ => rfl | exact absurd hx (by decide)⟩
theorem Blind.adm : Blind State.adm (Part.but [.adm]) :=
  ⟨fun x hx => by cases x <;> first | exact fun _ _ => rfl | exact absurd hx (by decide)⟩
theorem Blind.pat : Blind State.pat (Part.but [.pat]) :=
  ⟨fun x hx => by cases x <;> first | exact fun _ _ => rfl | exact absurd hx (by decide)⟩
theorem Blind.pair : Blind State.pair (Part.but [.pair]) :=
  ⟨fun x hx => by cases x <;> first | exact fun _ _ => rfl | exact absurd hx (by decide)⟩
theorem Blind.lace : Blind State.lace (Part.but [.lace]) :=
  ⟨fun x hx => by cases x <;> first | exact fun _ _ => rfl | exact absurd hx (by decide)⟩
theorem Blind.err : Blind State.err (Part.but [.err]) :=
  ⟨fun x hx => by cases x <;> first | exact fun _ _ => rfl | exact absurd hx (by decide)⟩
theorem Blind.spr : Blind State.spr (Part.but [.spr]) :=
  ⟨fun x hx => by cases x <;> first | exact fun _ _ => rfl | exact absurd hx (by decide)⟩
theorem Blind.pins : Blind State.pins (Part.but [.pins]) :=
  ⟨fun x hx => by cases x <;> first | exact fun _ _ => rfl | exact absurd hx (by decide)⟩
theorem Blind.mem : Blind State.mem (Part.but [.mem]) :=
  ⟨fun x hx => by cases x <;> first | exact fun _ _ => rfl | exact absurd hx (by decide)⟩
theorem Blind.memSize : Blind State.memSize (Part.but [.memSize]) :=
  ⟨fun x hx => by cases x <;> first | exact fun _ _ => rfl | exact absurd hx (by decide)⟩
theorem Blind.out : Blind State.out (Part.but [.out]) :=
  ⟨fun x hx => by cases x <;> first | exact fun _ _ => rfl | exact absurd hx (by decide)⟩
theorem Blind.lastRead : Blind State.lastRead (Part.but [.lastRead]) :=
  ⟨fun x hx => by cases x <;> first | exact fun _ _ => rfl | exact absurd hx (by decide)⟩
theorem Blind.free : Blind State.free (Part.but [.free]) :=
  ⟨fun x hx => by cases x <;> first | exact fun _ _ => rfl | exact absurd hx (by decide)⟩

/-- A part that is not among those a command can change stays. -/
theorem Part.same_of {x : Part} {l : List Part} {r : Res} {s t : State} (hx : x ∉ l)
    (h : ∀ {β : Type} {π : State → β}, Blind π l → SameR π r s) (e : r = .next t) : x.same t s := by
  have k : ∀ y ∈ l, y ≠ x := fun y hy e => hx (e ▸ hy)
  have b : ∀ y ∈ l, y ∈ Part.but [x] := fun y hy => by
    have := k y hy
    cases y <;> cases x <;> first | decide | exact absurd rfl this
  cases x
  · exact (h (Blind.pending.sub b)).on t e
  · exact (h (Blind.regs.sub b)).on t e
  · exact (h (Blind.q.sub b)).on t e
  · exact (h (Blind.cq.sub b)).on t e
  · exact (h (Blind.ctr.sub b)).on t e
  · exact (h (Blind.mr.sub b)).on t e
  · exact (h (Blind.pd.sub b)).on t e
  · exact (h (Blind.fl.sub b)).on t e
  · exact (h (Blind.park.sub b)).on t e
  · exact (h (Blind.cqs.sub b)).on t e
  · exact (h (Blind.cache.sub b)).on t e
  · exact (h (Blind.ic.sub b)).on t e
  · exact (h (Blind.arb.sub b)).on t e
  · exact (h (Blind.lines.sub b)).on t e
  · exact (h (Blind.tb.sub b)).on t e
  · exact (h (Blind.trace.sub b)).on t e
  · exact (h (Blind.adm.sub b)).on t e
  · exact (h (Blind.pat.sub b)).on t e
  · exact (h (Blind.pair.sub b)).on t e
  · exact (h (Blind.lace.sub b)).on t e
  · exact (h (Blind.err.sub b)).on t e
  · exact (h (Blind.spr.sub b)).on t e
  · exact (h (Blind.pins.sub b)).on t e
  · exact (h (Blind.mem.sub b)).on t e
  · exact (h (Blind.memSize.sub b)).on t e
  · exact (h (Blind.out.sub b)).on t e
  · exact (h (Blind.lastRead.sub b)).on t e
  · exact (h (Blind.free.sub b)).on t e

end Sys2Proof.Machine
end

