-- ==== Sys2Proof/Laws/FrameOps.lean ====
section
/-!
SUPPORT. Frames of the link layers, the shared operations of entries, units and arbiters, the context cache, records, checks and stitches: each lemma `X_same` says which parts of the state `X` can
change, and that everything which does not look at them stays.
-/
namespace Sys2Proof.Machine

variable {β : Type} {π : State → β}

/-! ## Module Ops -/

theorem State.setOwner_same (hb : Blind π [.arb]) (s : State) (res c : Nat) (o : Option Owner) :
    Same π (State.setOwner s res c o) s := by
  unfold State.setOwner
  repeat' first
    | with_reducible first
      | exact Same.refl _ | assumption | refine (State.withArb_same hb ..).trans ?_ | intro _
    | split
    | dsimp only

theorem State.arbBusy_same (hb : Blind π [.arb]) (s : State) (res req : Nat) : Same π (State.arbBusy s res req) s := by
  unfold State.arbBusy
  repeat' first
    | with_reducible first
      | exact Same.refl _ | assumption | refine (State.withArb_same hb ..).trans ?_ | refine Same.ite ?_ ?_
      | refine Same.ite_fst ?_ ?_ | intro _
    | split
    | dsimp only

theorem State.backRead_same (hb : Blind π [.arb]) (s : State) (res : Nat) (w : SentRead) :
    Same π (State.backRead s res w) s := by
  unfold State.backRead
  repeat' first
    | with_reducible first
      | exact Same.refl _ | assumption | refine (State.withArb_same hb ..).trans ?_ | intro _
    | split
    | dsimp only

theorem State.memStat_same (hb : Blind π [.regs]) (s : State) (a n : Nat) : Same π (State.memStat s a n) s := by
  unfold State.memStat
  repeat' first
    | with_reducible first
      | exact Same.refl _ | assumption | refine (State.sat_same hb ..).trans ?_ | intro _
    | split
    | dsimp only

theorem State.putPkgs_same (hb : Blind π [.mem]) (s : State) (x0 : Nat) (x1 : List Byte) :
    Same π (State.putPkgs s x0 x1) s := by
  induction x1 generalizing s x0 with
  | nil => exact rfl
  | cons b r ih => exact (ih ..).trans (State.putPkg_same hb ..)

theorem State.writeWord_same (hb : Blind π [.regs, .mem]) (s : State) (a : Nat) (b : List Byte) (poison : Bool) :
    Same π (State.writeWord s a b poison) s := by
  unfold State.writeWord
  repeat' first
    | with_reducible first
      | exact Same.refl _ | assumption | refine (State.putPkgs_same (hb.sub (by decide)) ..).trans ?_
      | refine (State.memStat_same (hb.sub (by decide)) ..).trans ?_
      | refine (State.putSyn_same (hb.sub (by decide)) ..).trans ?_ | refine (State.cnt_same (hb.sub (by decide)) ..).trans ?_
      | refine Same.ite ?_ ?_ | intro _
    | split
    | dsimp only

theorem State.pkgWrite_same (hb : Blind π [.regs, .mem]) (x0 : Nat) (s : State) (x2 : Nat) (x3 : List Byte) (x4 : Bool) :
    Same π (State.pkgWrite x0 s x2 x3 x4) s := by
  induction x0 generalizing s x2 x3 x4 with
  | zero => exact rfl
  | succ n ih =>
    unfold State.pkgWrite
    repeat' first
      | with_reducible first
        | exact Same.refl _ | assumption | refine (State.writeWord_same hb ..).trans ?_ | refine (ih ..).trans ?_
        | refine Same.ite ?_ ?_ | intro _
      | split
      | dsimp only

theorem State.writePkg_same (hb : Blind π [.regs, .mem]) (s : State) (a : Nat) (b : List Byte) (poison : Bool) :
    Same π (State.writePkg s a b poison) s := by
  unfold State.writePkg
  repeat' first
    | with_reducible first
      | exact Same.refl _ | assumption | refine (State.pkgWrite_same hb ..).trans ?_ | intro _
    | split
    | dsimp only

theorem State.writeHost_same (hb : Blind π [.mem]) (s : State) (p : Option Nat) (a : Nat) (b : List Byte) (poison : Bool) :
    Same π (State.writeHost s p a b poison) s := by
  unfold State.writeHost
  repeat' first
    | with_reducible first
      | exact Same.refl _ | assumption | refine (State.putBeat_same hb ..).trans ?_
      | refine (State.putHost_same hb ..).trans ?_ | refine (Same.foldl _ _ _ ?_).trans ?_
      | refine (Same.foldl_fst _ _ _ ?_).trans ?_ | refine Same.ite ?_ ?_ | refine Same.ite_fst ?_ ?_ | intro _
    | split
    | dsimp only

theorem State.writeBytes_same (hb : Blind π [.regs, .mem]) (s : State) (space : Nat) (p : Option Nat) (a : Nat)
    (b : List Byte) (poison : Bool) :
    Same π (State.writeBytes s space p a b poison) s := by
  unfold State.writeBytes
  repeat' first
    | with_reducible first
      | exact Same.refl _ | assumption | refine (State.writeHost_same (hb.sub (by decide)) ..).trans ?_
      | refine (State.writePkg_same hb ..).trans ?_ | refine Same.ite ?_ ?_ | intro _
    | split
    | dsimp only

theorem State.wipe_same (hb : Blind π [.mem]) (s : State) (n : Nat) : Same π (State.wipe s n) s := by
  unfold State.wipe
  repeat' first
    | with_reducible first
      | exact Same.refl _ | assumption | refine (State.withMem_same hb ..).trans ?_ | refine Same.ite ?_ ?_
      | refine Same.ite_fst ?_ ?_ | intro _
    | split
    | dsimp only

theorem State.touchBlock_same (hb : Blind π [.regs, .pat, .mem]) (s : State) (n : Nat) : Same π (State.touchBlock s n) s := by
  unfold State.touchBlock
  repeat' first
    | with_reducible first
      | exact Same.refl _ | assumption | refine (State.withPat_same (hb.sub (by decide)) ..).trans ?_
      | refine (State.wipe_same (hb.sub (by decide)) ..).trans ?_
      | refine (State.wrapAdd_same (hb.sub (by decide)) ..).trans ?_ | refine Same.ite ?_ ?_ | intro _
    | split
    | dsimp only

theorem State.traceIn_same (hb : Blind π [.regs, .trace, .pat, .mem]) (s : State) (dom m code unit aux arg32 arg64 : Nat) :
    Same π (State.traceIn s dom m code unit aux arg32 arg64) s := by
  unfold State.traceIn
  repeat' first
    | with_reducible first
      | exact Same.refl _ | assumption | refine (State.withTrace_same (hb.sub (by decide)) ..).trans ?_
      | refine (State.cnt_same (hb.sub (by decide)) ..).trans ?_
      | refine (State.touchBlock_same (hb.sub (by decide)) ..).trans ?_ | refine Same.ite ?_ ?_ | intro _
    | split
    | dsimp only

theorem State.traceEv_same (hb : Blind π [.regs, .trace, .pat, .mem]) (s : State) (m code unit aux arg32 arg64 : Nat) :
    Same π (State.traceEv s m code unit aux arg32 arg64) s := by
  unfold State.traceEv
  repeat' first
    | with_reducible first
      | exact Same.refl _ | assumption | refine (State.traceIn_same hb ..).trans ?_ | intro _
    | split
    | dsimp only

theorem State.sendMsg_same (hb : Blind π [.regs, .ic, .out]) (s : State) (n : Nat) : Same π (State.sendMsg s n) s := by
  unfold State.sendMsg
  repeat' first
    | with_reducible first
      | exact Same.refl _ | assumption | refine (State.emit_same (hb.sub (by decide)) ..).trans ?_
      | refine (State.withIc_same (hb.sub (by decide)) ..).trans ?_
      | refine (State.wrapAdd_same (hb.sub (by decide)) ..).trans ?_ | intro _
    | split
    | dsimp only

theorem State.landMsg_same (hb : Blind π [.ic, .mem]) (s : State) (m : HostMsg) : Same π (State.landMsg s m) s := by
  unfold State.landMsg
  repeat' first
    | with_reducible first
      | exact Same.refl _ | assumption | refine (State.writeHost_same (hb.sub (by decide)) ..).trans ?_
      | refine (State.withIc_same (hb.sub (by decide)) ..).trans ?_ | refine Same.ite ?_ ?_ | intro _
    | split
    | dsimp only

theorem State.landMsgs_same (hb : Blind π [.ic, .mem]) (s : State) : Same π (State.landMsgs s) s := by
  unfold State.landMsgs
  repeat' first
    | with_reducible first
      | exact Same.refl _ | assumption | refine (State.landMsg_same hb ..).trans ?_ | refine (Same.forEach _ _ _ ?_).trans ?_
      | intro _
    | split
    | dsimp only

theorem State.leaveMsg_same (hb : Blind π [.regs, .ic, .out]) (s : State) (n : Nat) : Same π (State.leaveMsg s n) s := by
  unfold State.leaveMsg
  repeat' first
    | with_reducible first
      | exact Same.refl _ | assumption | refine (State.sendMsg_same hb ..).trans ?_
      | refine (State.setF_same (hb.sub (by decide)) ..).trans ?_
      | refine (State.withIc_same (hb.sub (by decide)) ..).trans ?_ | intro _
    | split
    | dsimp only

theorem State.endSignal_same (hb : Blind π [.regs, .ic]) (s : State) (n : Nat) : Same π (State.endSignal s n) s := by
  unfold State.endSignal
  repeat' first
    | with_reducible first
      | exact Same.refl _ | assumption | refine (State.setF_same (hb.sub (by decide)) ..).trans ?_
      | refine (State.withIc_same (hb.sub (by decide)) ..).trans ?_ | intro _
    | split
    | dsimp only

theorem State.judgeMsg_same (hb : Blind π [.regs, .ic, .out]) (s : State) (n : Nat) : Same π (State.judgeMsg s n) s := by
  unfold State.judgeMsg
  repeat' first
    | with_reducible first
      | exact Same.refl _ | assumption | refine (State.leaveMsg_same hb ..).trans ?_
      | refine (State.endSignal_same (hb.sub (by decide)) ..).trans ?_
      | refine (State.withIc_same (hb.sub (by decide)) ..).trans ?_ | refine Same.ite ?_ ?_ | refine Same.ite_fst ?_ ?_
      | intro _
    | split
    | dsimp only

theorem State.judgeAll_same (hb : Blind π [.regs, .ic, .out]) (s : State) : Same π (State.judgeAll s) s := by
  unfold State.judgeAll
  repeat' first
    | with_reducible first
      | exact Same.refl _ | assumption | refine (State.judgeMsg_same hb ..).trans ?_ | refine (Same.forEach _ _ _ ?_).trans ?_
      | intro _
    | split
    | dsimp only

theorem State.addEvent_same (hb : Blind π [.regs]) (s : State) (n : Nat) : Same π (State.addEvent s n) s := by
  unfold State.addEvent
  repeat' first
    | with_reducible first
      | exact Same.refl _ | assumption | refine (State.setPend_same hb ..).trans ?_ | refine (State.setF_same hb ..).trans ?_
      | refine Same.ite ?_ ?_ | intro _
    | split
    | dsimp only

theorem State.storm_same (hb : Blind π [.regs]) (s : State) (n : Nat) : Same π (State.storm s n) s := by
  unfold State.storm
  repeat' first
    | with_reducible first
      | exact Same.refl _ | assumption | refine (State.setF_same hb ..).trans ?_ | refine (State.cnt_same hb ..).trans ?_
      | refine Same.ite ?_ ?_ | intro _
    | split
    | dsimp only

theorem State.event1_same (hb : Blind π [.regs]) (s : State) (n : Nat) : Same π (State.event1 s n) s := by
  unfold State.event1
  repeat' first
    | with_reducible first
      | exact Same.refl _ | assumption | refine (State.cnt_same hb ..).trans ?_ | refine (State.addEvent_same hb ..).trans ?_
      | refine Same.ite ?_ ?_ | intro _
    | split
    | dsimp only

theorem State.owe_same (hb : Blind π [.ic]) (s : State) (n : Nat) (flush : Option Nat) : Same π (State.owe s n flush) s := by
  unfold State.owe
  repeat' first
    | with_reducible first
      | exact Same.refl _ | assumption | refine (State.withIc_same hb ..).trans ?_ | intro _
    | split
    | dsimp only

theorem State.raiseVia_same (hb : Blind π [.regs, .ic, .out]) (s : State) (flush : Option Nat) (n : Nat) :
    Same π (State.raiseVia s flush n) s := by
  unfold State.raiseVia
  repeat' first
    | with_reducible first
      | exact Same.refl _ | assumption | refine (State.judgeMsg_same hb ..).trans ?_
      | refine (State.event1_same (hb.sub (by decide)) ..).trans ?_ | refine (State.owe_same (hb.sub (by decide)) ..).trans ?_
      | refine (State.addEvent_same (hb.sub (by decide)) ..).trans ?_
      | refine (State.storm_same (hb.sub (by decide)) ..).trans ?_ | refine Same.ite ?_ ?_ | intro _
    | split
    | dsimp only

theorem State.raise_same (hb : Blind π [.regs, .ic, .out]) (s : State) (n : Nat) : Same π (State.raise s n) s := by
  unfold State.raise
  repeat' first
    | with_reducible first
      | exact Same.refl _ | assumption | refine (State.raiseVia_same hb ..).trans ?_ | intro _
    | split
    | dsimp only

theorem State.setFirst_same (hb : Blind π [.regs]) (s : State) (c : Nat) (r : List W64) : Same π (State.setFirst s c r) s := by
  unfold State.setFirst
  repeat' first
    | with_reducible first
      | exact Same.refl _ | assumption | refine (State.setReg_same hb ..).trans ?_ | refine Same.getD ?_
      | refine (Same.foldl _ _ _ ?_).trans ?_ | intro _
    | split
    | dsimp only

theorem State.putLog_same (hb : Blind π [.regs, .ic, .arb, .pat, .err, .mem, .out]) (s : State) (r : List W64) :
    Same π (State.putLog s r) s := by
  unfold State.putLog
  repeat' first
    | with_reducible first
      | exact Same.refl _ | assumption | refine (State.raise_same (hb.sub (by decide)) ..).trans ?_
      | refine (State.touchBlock_same (hb.sub (by decide)) ..).trans ?_
      | refine (State.cnt_same (hb.sub (by decide)) ..).trans ?_
      | refine (State.wrapAdd_same (hb.sub (by decide)) ..).trans ?_
      | refine (State.arbBusy_same (hb.sub (by decide)) ..).trans ?_
      | refine (State.withErr_same (hb.sub (by decide)) ..).trans ?_ | refine Same.ite ?_ ?_ | intro _
    | split
    | dsimp only

theorem State.rollLog_same (hb : Blind π [.err]) (s : State) : Same π (State.rollLog s) s := by
  unfold State.rollLog
  repeat' first
    | with_reducible first
      | exact Same.refl _ | assumption | refine (State.withErr_same hb ..).trans ?_ | intro _
    | split
    | dsimp only

theorem State.capture_same (hb : Blind π [.regs, .err]) (s : State) (c : Nat) (r : LogRec) :
    Same π (State.capture s c r) s := by
  unfold State.capture
  repeat' first
    | with_reducible first
      | exact Same.refl _ | assumption | refine (State.setF_same (hb.sub (by decide)) ..).trans ?_
      | refine (State.cnt_same (hb.sub (by decide)) ..).trans ?_
      | refine (State.withErr_same (hb.sub (by decide)) ..).trans ?_
      | refine (State.setFirst_same (hb.sub (by decide)) ..).trans ?_ | refine Same.ite ?_ ?_ | intro _
    | split
    | dsimp only

theorem State.logIn_same (hb : Blind π [.regs, .err]) (s : State) (dom code cls item aux arg32 arg64 : Nat) :
    Same π (State.logIn s dom code cls item aux arg32 arg64) s := by
  unfold State.logIn
  repeat' first
    | with_reducible first
      | exact Same.refl _ | assumption | refine (State.rollLog_same (hb.sub (by decide)) ..).trans ?_
      | refine (State.capture_same hb ..).trans ?_ | refine (State.withErr_same (hb.sub (by decide)) ..).trans ?_
      | refine Same.ite ?_ ?_ | intro _
    | split
    | dsimp only

theorem State.log_same (hb : Blind π [.regs, .err]) (s : State) (code cls item aux arg32 arg64 : Nat) :
    Same π (State.log s code cls item aux arg32 arg64) s := by
  unfold State.log
  repeat' first
    | with_reducible first
      | exact Same.refl _ | assumption | refine (State.logIn_same hb ..).trans ?_ | intro _
    | split
    | dsimp only

theorem State.flushLog_same (hb : Blind π [.regs, .ic, .arb, .pat, .err, .mem, .out]) (s : State) :
    Same π (State.flushLog s) s := by
  unfold State.flushLog
  repeat' first
    | with_reducible first
      | exact Same.refl _ | assumption | refine (State.rollLog_same (hb.sub (by decide)) ..).trans ?_
      | refine (State.putLog_same hb ..).trans ?_ | refine (State.withErr_same (hb.sub (by decide)) ..).trans ?_
      | refine (Same.forEach _ _ _ ?_).trans ?_ | refine Same.ite ?_ ?_ | intro _
    | split
    | dsimp only

theorem State.readErrWord_same (hb : Blind π [.arb, .err, .lastRead]) (s : State) (a : Option Agent) (w lo n : Nat) :
    Same π (State.readErrWord s a w lo n) s := by
  unfold State.readErrWord
  repeat' first
    | with_reducible first
      | exact Same.refl _ | assumption | refine (State.ret_same (hb.sub (by decide)) ..).trans ?_
      | refine (State.arbBusy_same (hb.sub (by decide)) ..).trans ?_
      | refine (State.withErr_same (hb.sub (by decide)) ..).trans ?_ | refine Same.ite ?_ ?_ | intro _
    | split
    | dsimp only

theorem State.serveElog_same (hb : Blind π [.regs, .ic, .arb, .pat, .err, .mem, .out, .lastRead]) (s : State) :
    Same π (State.serveElog s) s := by
  unfold State.serveElog
  repeat' first
    | with_reducible first
      | exact Same.refl _ | assumption | refine (State.ret_same (hb.sub (by decide)) ..).trans ?_
      | refine (State.flushLog_same (hb.sub (by decide)) ..).trans ?_
      | refine (State.arbBusy_same (hb.sub (by decide)) ..).trans ?_
      | refine (State.withErr_same (hb.sub (by decide)) ..).trans ?_ | refine (Same.forEach _ _ _ ?_).trans ?_
      | refine Same.ite ?_ ?_ | intro _
    | split
    | dsimp only


/-! ## Module Phys -/

theorem State.iosOf_same (hb : Blind π [.lace]) (s : State) (i : Nat) : Same π (State.iosOf s i).1 s := by
  unfold State.iosOf
  repeat' first
    | with_reducible first
      | exact Same.refl _ | assumption | refine (State.withLace_same hb ..).trans ?_ | refine Same.getD ?_ | intro _
    | split
    | dsimp only

theorem State.sendStripe_same (hb : Blind π [.lace, .out]) (s : State) (m : List (Nat × List Sym)) :
    Same π (State.sendStripe s m) s := by
  unfold State.sendStripe
  repeat' first
    | with_reducible first
      | exact Same.refl _ | assumption | refine (State.emit_same (hb.sub (by decide)) ..).trans ?_
      | refine (State.withLace_same (hb.sub (by decide)) ..).trans ?_ | refine Same.getD ?_
      | refine (Same.foldl _ _ _ ?_).trans ?_ | refine (Same.foldl_fst _ _ _ ?_).trans ?_ | intro _
    | split
    | dsimp only

theorem State.prbsOf_same (hb : Blind π [.lace]) (s : State) (i : Nat) : Same π (State.prbsOf s i).1 s := by
  unfold State.prbsOf
  repeat' first
    | with_reducible first
      | exact Same.refl _ | assumption | refine (State.withLace_same hb ..).trans ?_ | refine Same.getD ?_ | intro _
    | split
    | dsimp only

theorem State.sendWithSpare_same (hb : Blind π [.lace, .out]) (s : State) (l : List (Nat × List Sym)) :
    Same π (State.sendWithSpare s l) s := by
  unfold State.sendWithSpare
  repeat' first
    | with_reducible first
      | exact Same.refl _ | assumption | refine (State.prbsOf_same (hb.sub (by decide)) ..).trans ?_
      | refine (State.sendStripe_same hb ..).trans ?_ | refine (State.iosOf_same (hb.sub (by decide)) ..).trans ?_
      | refine (Same.foldl _ _ _ ?_).trans ?_ | refine (Same.foldl_fst _ _ _ ?_).trans ?_ | intro _
    | split
    | dsimp only

theorem State.sendStream_same (hb : Blind π [.lace, .out]) (x0 : Nat) (s : State) : Same π (State.sendStream x0 s) s := by
  induction x0 generalizing s with
  | zero => exact rfl
  | succ n ih =>
    unfold State.sendStream
    repeat' first
      | with_reducible first
        | exact Same.refl _ | assumption | refine (State.sendWithSpare_same hb ..).trans ?_
        | refine (State.withLace_same (hb.sub (by decide)) ..).trans ?_ | refine (ih ..).trans ?_ | refine Same.ite ?_ ?_
        | refine Same.ite_fst ?_ ?_ | intro _
      | split
      | dsimp only

theorem State.prbsStripe_same (hb : Blind π [.lace, .out]) (s : State) : Same π (State.prbsStripe s) s := by
  unfold State.prbsStripe
  repeat' first
    | with_reducible first
      | exact Same.refl _ | assumption | refine (State.prbsOf_same (hb.sub (by decide)) ..).trans ?_
      | refine (State.sendStripe_same hb ..).trans ?_ | refine (Same.foldl _ _ _ ?_).trans ?_
      | refine (Same.foldl_fst _ _ _ ?_).trans ?_ | intro _
    | split
    | dsimp only

theorem State.endBlock_same (hb : Blind π [.lace, .out]) (s : State) : Same π (State.endBlock s) s := by
  unfold State.endBlock
  repeat' first
    | with_reducible first
      | exact Same.refl _ | assumption | refine (State.sendStripe_same hb ..).trans ?_
      | refine (State.withLace_same (hb.sub (by decide)) ..).trans ?_ | refine Same.ite ?_ ?_ | intro _
    | split
    | dsimp only

theorem State.blockStripe_same (hb : Blind π [.lace, .out]) (s : State) : Same π (State.blockStripe s) s := by
  unfold State.blockStripe
  repeat' first
    | with_reducible first
      | exact Same.refl _ | assumption | refine (State.endBlock_same hb ..).trans ?_
      | refine (State.prbsStripe_same hb ..).trans ?_ | refine (State.withLace_same (hb.sub (by decide)) ..).trans ?_
      | refine Same.ite ?_ ?_ | intro _
    | split
    | dsimp only

theorem State.drive_same (hb : Blind π [.lace, .out]) (s : State) (b : List Byte) : Same π (State.drive s b) s := by
  unfold State.drive
  repeat' first
    | with_reducible first
      | exact Same.refl _ | assumption | refine (State.endBlock_same hb ..).trans ?_
      | refine (State.sendStream_same hb ..).trans ?_ | refine (State.withLace_same (hb.sub (by decide)) ..).trans ?_
      | intro _
    | split
    | dsimp only

theorem State.sendBytes_same (hb : Blind π [.lace, .out]) (s : State) (b : List Byte) : Same π (State.sendBytes s b) s := by
  unfold State.sendBytes
  repeat' first
    | with_reducible first
      | exact Same.refl _ | assumption | refine (State.emit_same (hb.sub (by decide)) ..).trans ?_
      | refine (State.drive_same hb ..).trans ?_ | intro _
    | split
    | dsimp only

theorem State.endPart_same (hb : Blind π [.lace, .out]) (s : State) : Same π (State.endPart s) s := by
  unfold State.endPart
  repeat' first
    | with_reducible first
      | exact Same.refl _ | assumption | refine (State.sendStream_same hb ..).trans ?_
      | refine (State.withLace_same (hb.sub (by decide)) ..).trans ?_ | refine Same.ite ?_ ?_ | intro _
    | split
    | dsimp only

theorem State.idleStripe_same (hb : Blind π [.lace, .out]) (s : State) : Same π (State.idleStripe s) s := by
  unfold State.idleStripe
  repeat' first
    | with_reducible first
      | exact Same.refl _ | assumption | refine (State.sendWithSpare_same hb ..).trans ?_
      | refine (State.blockStripe_same hb ..).trans ?_ | refine (State.endPart_same hb ..).trans ?_
      | refine (State.iosOf_same (hb.sub (by decide)) ..).trans ?_ | refine (Same.foldl _ _ _ ?_).trans ?_
      | refine (Same.foldl_fst _ _ _ ?_).trans ?_ | refine Same.ite ?_ ?_ | refine Same.ite_fst ?_ ?_ | intro _
    | split
    | dsimp only

theorem State.clearPart_same (hb : Blind π [.lace]) (s : State) : Same π (State.clearPart s) s := by
  unfold State.clearPart
  repeat' first
    | with_reducible first
      | exact Same.refl _ | assumption | refine (State.withLace_same hb ..).trans ?_ | intro _
    | split
    | dsimp only

theorem State.train_same (hb : Blind π [.out]) (s : State) (st : Nat) : Same π (State.train s st) s := by
  unfold State.train
  repeat' first
    | with_reducible first
      | exact Same.refl _ | assumption | refine (State.emit_same hb ..).trans ?_ | intro _
    | split
    | dsimp only

theorem State.lastTs2_same (hb : Blind π [.out]) (s : State) : Same π (State.lastTs2 s) s := by
  unfold State.lastTs2
  repeat' first
    | with_reducible first
      | exact Same.refl _ | assumption | refine (State.train_same hb ..).trans ?_ | refine (State.emit_same hb ..).trans ?_
      | intro _
    | split
    | dsimp only

theorem State.hearTest_same (hb : Blind π [.spr]) (s : State) (rd : Bool) (m : List (BitVec 40)) :
    Same π (State.hearTest s rd m) s := by
  unfold State.hearTest
  repeat' first
    | with_reducible first
      | exact Same.refl _ | assumption | refine (State.withSpr_same hb ..).trans ?_ | refine (Same.foldl _ _ _ ?_).trans ?_
      | refine (Same.foldl_fst _ _ _ ?_).trans ?_ | intro _
    | split
    | dsimp only

theorem State.laneWords_same (hb : Blind π [.lace, .spr, .out]) (s : State) (i : Nat) (l : List (BitVec 40)) :
    Same π (State.laneWords s i l).1 s := by
  unfold State.laneWords
  repeat' first
    | with_reducible first
      | exact Same.refl _ | assumption | refine (State.hearTest_same (hb.sub (by decide)) ..).trans ?_
      | refine (State.emit_same (hb.sub (by decide)) ..).trans ?_
      | refine (State.withLace_same (hb.sub (by decide)) ..).trans ?_ | refine Same.getD ?_
      | refine (Same.foldl _ _ _ ?_).trans ?_ | refine (Same.foldl_fst _ _ _ ?_).trans ?_ | refine Same.ite ?_ ?_
      | refine Same.ite_fst ?_ ?_ | intro _
    | split
    | dsimp only


/-! ## Module LinkOps -/

theorem State.setVc_same (hb : Blind π [.lace]) (s : State) (v : Nat) (x : Vc) : Same π (State.setVc s v x) s := by
  unfold State.setVc
  repeat' first
    | with_reducible first
      | exact Same.refl _ | assumption | refine (State.withLace_same hb ..).trans ?_ | intro _
    | split
    | dsimp only

theorem State.setLace_same (hb : Blind π [.regs, .ic, .trace, .pat, .lace, .mem, .out]) (s : State) (st : Nat) :
    Same π (State.setLace s st) s := by
  unfold State.setLace
  repeat' first
    | with_reducible first
      | exact Same.refl _ | assumption | refine (State.raise_same (hb.sub (by decide)) ..).trans ?_
      | refine (State.setF_same (hb.sub (by decide)) ..).trans ?_
      | refine (State.traceIn_same (hb.sub (by decide)) ..).trans ?_
      | refine (State.clearPart_same (hb.sub (by decide)) ..).trans ?_
      | refine (State.train_same (hb.sub (by decide)) ..).trans ?_ | refine Same.ite ?_ ?_ | intro _
    | split
    | dsimp only

theorem State.laceCnt_same (hb : Blind π [.regs, .ic, .out]) (s : State) (d : Fld) : Same π (State.laceCnt s d) s := by
  unfold State.laceCnt
  repeat' first
    | with_reducible first
      | exact Same.refl _ | assumption | refine (State.raise_same hb ..).trans ?_
      | refine (State.cnt_same (hb.sub (by decide)) ..).trans ?_ | refine Same.ite ?_ ?_ | intro _
    | split
    | dsimp only

theorem State.wire_same (hb : Blind π [.lace, .out]) (s : State) (v sq : Nat) (slots : List (List Byte)) :
    Same π (State.wire s v sq slots) s := by
  unfold State.wire
  repeat' first
    | with_reducible first
      | exact Same.refl _ | assumption | refine (State.sendBytes_same hb ..).trans ?_
      | refine (State.withLace_same (hb.sub (by decide)) ..).trans ?_ | intro _
    | split
    | dsimp only

theorem State.sendPkt_same (hb : Blind π [.lace, .out]) (s : State) (v : Nat) (slots : List (List Byte)) :
    Same π (State.sendPkt s v slots) s := by
  unfold State.sendPkt
  repeat' first
    | with_reducible first
      | exact Same.refl _ | assumption | refine (State.setVc_same (hb.sub (by decide)) ..).trans ?_
      | refine (State.wire_same hb ..).trans ?_ | refine (State.withLace_same (hb.sub (by decide)) ..).trans ?_ | intro _
    | split
    | dsimp only

theorem State.sendReplay_same (hb : Blind π [.lace, .out]) (s : State) (v : Nat) (p : Pkt) (r : List Pkt) :
    Same π (State.sendReplay s v p r) s := by
  unfold State.sendReplay
  repeat' first
    | with_reducible first
      | exact Same.refl _ | assumption | refine (State.setVc_same (hb.sub (by decide)) ..).trans ?_
      | refine (State.wire_same hb ..).trans ?_ | intro _
    | split
    | dsimp only

theorem State.ctrlNext_same (hb : Blind π [.pair, .lace, .out]) {s : State} {t : State} (h : State.ctrlNext s = some t) :
    Same π t s := by
  unfold State.ctrlNext at h
  split at h
  · cases h
    exact (State.sendBytes_same (hb.sub (by decide)) ..).trans (State.withLace_same (hb.sub (by decide)) ..)
  split at h
  · contradiction
  split at h
  · cases h
    exact (State.sendPkt_same (hb.sub (by decide)) ..).trans (State.withPair_same (hb.sub (by decide)) ..)
  · contradiction

theorem State.mirrorNext_same (hb : Blind π [.pair, .lace, .out]) {s : State} {v : Nat} {t : State}
    (h : State.mirrorNext s v = some t) :
    Same π t s := by
  unfold State.mirrorNext at h
  split at h
  · contradiction
  split at h
  · cases h
    exact (State.sendPkt_same (hb.sub (by decide)) ..).trans (State.withPair_same (hb.sub (by decide)) ..)
  · contradiction

theorem State.laceNext_same (hb : Blind π [.pair, .lace, .out]) {s : State} {req : Nat} {t : State}
    (h : State.laceNext s req = some t) :
    Same π t s := by
  unfold State.laceNext at h
  split at h
  · contradiction
  split at h
  · exact State.ctrlNext_same hb h
  · obtain ⟨x, -, rfl⟩ := Option.map_eq_some_iff.mp h
    exact State.sendReplay_same (hb.sub (by decide)) ..
  · exact State.mirrorNext_same hb h
  · exact State.mirrorNext_same hb h
  · contradiction

theorem State.pumpN_same (hb : Blind π [.arb, .pair, .lace, .out]) (x0 : Nat) (s : State) : Same π (State.pumpN x0 s) s := by
  induction x0 generalizing s with
  | zero => exact rfl
  | succ n ih =>
    unfold State.pumpN
    split
    · rename_i r t e
      obtain ⟨a, -, ha⟩ := List.exists_of_findSome?_eq_some e
      obtain ⟨u, hu, hv⟩ := Option.map_eq_some_iff.mp ha
      cases hv
      exact (ih ..).trans ((State.arbBusy_same (hb.sub (by decide)) ..).trans (State.laceNext_same (hb.sub (by decide)) hu))
    · exact Same.refl _

theorem State.pump_same (hb : Blind π [.arb, .pair, .lace, .out]) (s : State) : Same π (State.pump s) s := by
  unfold State.pump
  repeat' first
    | with_reducible first
      | exact Same.refl _ | assumption | refine (State.pumpN_same hb ..).trans ?_ | intro _
    | split
    | dsimp only

theorem State.ctrlMsg_same (hb : Blind π [.arb, .pair, .lace, .out]) (s : State) (code : Nat) (qid : BitVec 22) (a : W32)
    (b : W64) :
    Same π (State.ctrlMsg s code qid a b) s := by
  unfold State.ctrlMsg
  repeat' first
    | with_reducible first
      | exact Same.refl _ | assumption | refine (State.withPair_same (hb.sub (by decide)) ..).trans ?_
      | refine (State.pump_same hb ..).trans ?_ | intro _
    | split
    | dsimp only

theorem State.mirrorNow_same (hb : Blind π [.arb, .pair, .lace, .out]) (s : State) (code dom : Nat) (x : MRec)
    (words : List W64) :
    Same π (State.mirrorNow s code dom x words) s := by
  unfold State.mirrorNow
  repeat' first
    | with_reducible first
      | exact Same.refl _ | assumption | refine (State.withPair_same (hb.sub (by decide)) ..).trans ?_
      | refine (State.pump_same hb ..).trans ?_ | refine Same.ite ?_ ?_ | refine Same.ite_fst ?_ ?_ | intro _
    | split
    | dsimp only

theorem State.mirrorRecAt_same (hb : Blind π [.arb, .pair, .lace, .out]) (s : State) (t : W64)
    (dom code item ccause qid : Nat) (a : W32) (b : W64) (words : List W64) :
    Same π (State.mirrorRecAt s t dom code item ccause qid a b words) s := by
  unfold State.mirrorRecAt
  repeat' first
    | with_reducible first
      | exact Same.refl _ | assumption | refine (State.withPair_same (hb.sub (by decide)) ..).trans ?_
      | refine (State.mirrorNow_same hb ..).trans ?_ | refine Same.ite ?_ ?_ | intro _
    | split
    | dsimp only

theorem State.mirrorRec_same (hb : Blind π [.arb, .pair, .lace, .out]) (s : State) (code item ccause : Nat) (qid : Nat)
    (a : W32) (b : W64) (words : List W64) :
    Same π (State.mirrorRec s code item ccause qid a b words) s := by
  unfold State.mirrorRec
  repeat' first
    | with_reducible first
      | exact Same.refl _ | assumption | refine (State.mirrorRecAt_same hb ..).trans ?_ | intro _
    | split
    | dsimp only

theorem State.serveOwed_same (hb : Blind π [.arb, .pair, .lace, .out]) (x0 : Nat) (s : State) :
    Same π (State.serveOwed x0 s) s := by
  induction x0 generalizing s with
  | zero => exact rfl
  | succ n ih =>
    unfold State.serveOwed
    repeat' first
      | with_reducible first
        | exact Same.refl _ | assumption | refine (State.withPair_same (hb.sub (by decide)) ..).trans ?_
        | refine (State.mirrorNow_same hb ..).trans ?_ | refine (ih ..).trans ?_ | refine Same.ite ?_ ?_ | intro _
      | split
      | dsimp only

theorem State.mirrorDeltaAt_same (hb : Blind π [.arb, .pair, .lace, .out]) (s : State) (t : W64) (dom : Nat) (k : CtxKind)
    (n : Nat) (code ccause qid : Nat) (a : W32) (b : W64) (words : List W64) :
    Same π (State.mirrorDeltaAt s t dom k n code ccause qid a b words) s := by
  unfold State.mirrorDeltaAt
  repeat' first
    | with_reducible first
      | exact Same.refl _ | assumption | refine (State.withPair_same (hb.sub (by decide)) ..).trans ?_
      | refine (State.mirrorRecAt_same hb ..).trans ?_ | refine Same.ite ?_ ?_ | intro _
    | split
    | dsimp only

theorem State.mirrorDelta_same (hb : Blind π [.arb, .pair, .lace, .out]) (s : State) (k : CtxKind) (n : Nat)
    (code ccause qid : Nat) (a : W32) (b : W64) (words : List W64) :
    Same π (State.mirrorDelta s k n code ccause qid a b words) s := by
  unfold State.mirrorDelta
  repeat' first
    | with_reducible first
      | exact Same.refl _ | assumption | refine (State.mirrorDeltaAt_same hb ..).trans ?_ | intro _
    | split
    | dsimp only

theorem State.addAct_same (hb : Blind π [.pair]) (s : State) (a : MirrorAct) : Same π (State.addAct s a) s := by
  unfold State.addAct
  repeat' first
    | with_reducible first
      | exact Same.refl _ | assumption | refine (State.withPair_same hb ..).trans ?_ | intro _
    | split
    | dsimp only

theorem State.snapObj_same (hb : Blind π [.arb, .pair, .lace, .out]) (s : State) (k : CtxKind) (n : Nat) :
    Same π (State.snapObj s k n) s := by
  unfold State.snapObj
  repeat' first
    | with_reducible first
      | exact Same.refl _ | assumption | refine (State.mirrorRec_same hb ..).trans ?_ | intro _
    | split
    | dsimp only

theorem State.snapQ_same (hb : Blind π [.arb, .pair, .lace, .out]) (s : State) (q : Nat) : Same π (State.snapQ s q) s := by
  unfold State.snapQ
  repeat' first
    | with_reducible first
      | exact Same.refl _ | assumption | refine (State.snapObj_same hb ..).trans ?_ | refine Same.ite ?_ ?_ | intro _
    | split
    | dsimp only

theorem State.snapC_same (hb : Blind π [.arb, .pair, .lace, .out]) (s : State) (c : Nat) : Same π (State.snapC s c) s := by
  unfold State.snapC
  repeat' first
    | with_reducible first
      | exact Same.refl _ | assumption | refine (State.snapObj_same hb ..).trans ?_ | refine Same.ite ?_ ?_ | intro _
    | split
    | dsimp only

theorem State.mirrorCtrAt_same (hb : Blind π [.arb, .pair, .lace, .out]) (s : State) (t : W64) (dom n ccause qid : Nat)
    (idx : W32) :
    Same π (State.mirrorCtrAt s t dom n ccause qid idx) s := by
  unfold State.mirrorCtrAt
  repeat' first
    | with_reducible first
      | exact Same.refl _ | assumption | refine (State.mirrorDeltaAt_same hb ..).trans ?_ | refine Same.ite ?_ ?_ | intro _
    | split
    | dsimp only

theorem State.mirrorCtr_same (hb : Blind π [.arb, .pair, .lace, .out]) (s : State) (n ccause qid : Nat) (idx : W32) :
    Same π (State.mirrorCtr s n ccause qid idx) s := by
  unfold State.mirrorCtr
  repeat' first
    | with_reducible first
      | exact Same.refl _ | assumption | refine (State.mirrorCtrAt_same hb ..).trans ?_ | intro _
    | split
    | dsimp only


/-! ## Module Units -/
theorem State.orWait_same {s t u : State} (hs : Same π s u) (ht : Same π t u) : Same π (s.orWait t) u := by
  unfold State.orWait
  split <;> assumption


theorem State.setEng_same (hb : Blind π [.regs]) (s : State) (e st : Nat) : Same π (State.setEng s e st) s := by
  unfold State.setEng
  repeat' first
    | with_reducible first
      | exact Same.refl _ | assumption | refine (State.setF_same hb ..).trans ?_ | intro _
    | split
    | dsimp only

theorem State.setRed_same (hb : Blind π [.regs, .arb]) (s : State) (u st : Nat) : Same π (State.setRed s u st) s := by
  unfold State.setRed
  repeat' first
    | with_reducible first
      | exact Same.refl _ | assumption | refine (State.setF_same (hb.sub (by decide)) ..).trans ?_
      | refine (State.setOwner_same (hb.sub (by decide)) ..).trans ?_ | refine Same.ite ?_ ?_ | intro _
    | split
    | dsimp only

theorem State.stopUnits_same (hb : Blind π [.regs, .arb, .adm, .spr]) (s : State) : Same π (State.stopUnits s) s := by
  unfold State.stopUnits
  repeat' first
    | with_reducible first
      | exact Same.refl _ | assumption | refine (State.withSpr_same (hb.sub (by decide)) ..).trans ?_
      | refine (State.withAdm_same (hb.sub (by decide)) ..).trans ?_
      | refine (State.setEng_same (hb.sub (by decide)) ..).trans ?_
      | refine (State.setRed_same (hb.sub (by decide)) ..).trans ?_ | refine (Same.foldl _ _ _ ?_).trans ?_
      | refine Same.ite ?_ ?_ | intro _
    | split
    | dsimp only

theorem State.sendNotice_same (hb : Blind π [.arb, .pair, .lace, .out]) (s : State) : Same π (State.sendNotice s) s := by
  unfold State.sendNotice
  repeat' first
    | with_reducible first
      | exact Same.refl _ | assumption | refine (State.withPair_same (hb.sub (by decide)) ..).trans ?_
      | refine (State.pump_same hb ..).trans ?_ | intro _
    | split
    | dsimp only

theorem State.halt_same (hb : Blind π [.regs, .ic, .arb, .lines, .adm, .pair, .lace, .spr, .pins, .out]) (s : State)
    (hc cause q : Nat) (idx : W32) :
    Same π (State.halt s hc cause q idx) s := by
  unfold State.halt
  repeat' first
    | with_reducible first
      | exact Same.refl _ | assumption | refine (State.raise_same (hb.sub (by decide)) ..).trans ?_
      | refine (State.withPins_same (hb.sub (by decide)) ..).trans ?_
      | refine (State.withPair_same (hb.sub (by decide)) ..).trans ?_
      | refine (State.withLines_same (hb.sub (by decide)) ..).trans ?_
      | refine (State.setF_same (hb.sub (by decide)) ..).trans ?_
      | refine (State.setReg_same (hb.sub (by decide)) ..).trans ?_
      | refine (State.stopUnits_same (hb.sub (by decide)) ..).trans ?_
      | refine (State.withArb_same (hb.sub (by decide)) ..).trans ?_
      | refine (State.sendNotice_same (hb.sub (by decide)) ..).trans ?_ | refine Same.ite ?_ ?_ | refine Same.ite_fst ?_ ?_
      | intro _
    | split
    | dsimp only

theorem State.haltRecord_same (hb : Blind π [.regs, .pair, .err]) (s : State) : Same π (State.haltRecord s) s := by
  unfold State.haltRecord
  repeat' first
    | with_reducible first
      | exact Same.refl _ | assumption | refine (State.withPair_same (hb.sub (by decide)) ..).trans ?_
      | refine (State.log_same (hb.sub (by decide)) ..).trans ?_ | intro _
    | split
    | dsimp only

theorem State.zeroReads_same (hb : Blind π [.cache, .err, .lastRead]) (s : State) : Same π (State.zeroReads s) s := by
  unfold State.zeroReads
  repeat' first
    | with_reducible first
      | exact Same.refl _ | assumption | refine (State.ret_same (hb.sub (by decide)) ..).trans ?_
      | refine (State.withCache_same (hb.sub (by decide)) ..).trans ?_
      | refine (State.withErr_same (hb.sub (by decide)) ..).trans ?_ | refine (Same.forEach _ _ _ ?_).trans ?_ | intro _
    | split
    | dsimp only

theorem State.hardHalt_same (hb : Blind π [.regs, .cache, .pair, .err, .lastRead]) (s : State) (code : Nat) :
    Same π (State.hardHalt s code) s := by
  unfold State.hardHalt
  repeat' first
    | with_reducible first
      | exact Same.refl _ | assumption | refine (State.withPair_same (hb.sub (by decide)) ..).trans ?_
      | refine (State.zeroReads_same (hb.sub (by decide)) ..).trans ?_
      | refine (State.setF_same (hb.sub (by decide)) ..).trans ?_
      | refine (State.setReg_same (hb.sub (by decide)) ..).trans ?_ | intro _
    | split
    | dsimp only

theorem State.fatal_same
    (hb : Blind π [.regs, .cache, .ic, .arb, .lines, .adm, .pair, .lace, .err, .spr, .pins, .out, .lastRead]) (s : State) (code item arg32 arg64 : Nat) :
    Same π (State.fatal s code item arg32 arg64) s := by
  unfold State.fatal
  repeat' first
    | with_reducible first
      | exact Same.refl _ | assumption | refine (State.raise_same (hb.sub (by decide)) ..).trans ?_
      | refine (State.hardHalt_same (hb.sub (by decide)) ..).trans ?_
      | refine (State.halt_same (hb.sub (by decide)) ..).trans ?_ | refine (State.log_same (hb.sub (by decide)) ..).trans ?_
      | refine Same.ite ?_ ?_ | intro _
    | split
    | dsimp only

theorem State.dropShadow_same (hb : Blind π [.spr]) (s : State) (x : Nat) : Same π (State.dropShadow s x) s := by
  unfold State.dropShadow
  repeat' first
    | with_reducible first
      | exact Same.refl _ | assumption | refine (State.withSpr_same hb ..).trans ?_ | refine Same.ite ?_ ?_ | intro _
    | split
    | dsimp only

theorem State.spareIn_same (hb : Blind π [.regs, .ic, .arb, .err, .spr, .out]) (s : State) (red : Bool) (u : Nat) :
    Same π (State.spareIn s red u) s := by
  unfold State.spareIn
  repeat' first
    | with_reducible first
      | exact Same.refl _ | assumption | refine (State.raise_same (hb.sub (by decide)) ..).trans ?_
      | refine (State.dropShadow_same (hb.sub (by decide)) ..).trans ?_
      | refine (State.setEng_same (hb.sub (by decide)) ..).trans ?_
      | refine (State.setRed_same (hb.sub (by decide)) ..).trans ?_ | refine (State.log_same (hb.sub (by decide)) ..).trans ?_
      | refine Same.ite ?_ ?_ | intro _
    | split
    | dsimp only

theorem State.replaceFailed_same
    (hb : Blind π [.regs, .cache, .ic, .arb, .lines, .adm, .pair, .lace, .err, .spr, .pins, .out, .lastRead]) (s : State) (red : Bool) (u : Nat) :
    Same π (State.replaceFailed s red u) s := by
  unfold State.replaceFailed
  repeat' first
    | with_reducible first
      | exact Same.refl _ | assumption | refine (State.raise_same (hb.sub (by decide)) ..).trans ?_
      | refine (State.fatal_same hb ..).trans ?_ | refine (State.spareIn_same (hb.sub (by decide)) ..).trans ?_
      | refine (State.log_same (hb.sub (by decide)) ..).trans ?_ | refine Same.ite ?_ ?_ | intro _
    | split
    | dsimp only

theorem State.noLeave_same (hb : Blind π [.spr]) (s : State) (red : Bool) (u : Nat) : Same π (State.noLeave s red u) s := by
  unfold State.noLeave
  repeat' first
    | with_reducible first
      | exact Same.refl _ | assumption | refine (State.withSpr_same hb ..).trans ?_ | intro _
    | split
    | dsimp only

theorem State.retireEng_same (hb : Blind π [.regs]) (s : State) (e reason : Nat) : Same π (State.retireEng s e reason) s := by
  unfold State.retireEng
  repeat' first
    | with_reducible first
      | exact Same.refl _ | assumption | refine (State.setF_same hb ..).trans ?_ | refine (State.setEng_same hb ..).trans ?_
      | intro _
    | split
    | dsimp only

theorem State.retireRed_same (hb : Blind π [.regs, .arb]) (s : State) (u reason : Nat) :
    Same π (State.retireRed s u reason) s := by
  unfold State.retireRed
  repeat' first
    | with_reducible first
      | exact Same.refl _ | assumption | refine (State.setF_same (hb.sub (by decide)) ..).trans ?_
      | refine (State.setRed_same hb ..).trans ?_ | intro _
    | split
    | dsimp only


/-! ## Module Flags -/

theorem State.countExc_same (hb : Blind π [.regs]) (s : State) (l : List Exc) : Same π (State.countExc s l) s := by
  unfold State.countExc
  repeat' first
    | with_reducible first
      | exact Same.refl _ | assumption | refine (State.sat_same hb ..).trans ?_ | intro _
    | split
    | dsimp only


/-! ## Module ArbOps -/

theorem State.setCand_same (hb : Blind π [.arb]) (s : State) (res : Nat) (l : List Nat) : Same π (State.setCand s res l) s := by
  unfold State.setCand
  repeat' first
    | with_reducible first
      | exact Same.refl _ | assumption | refine (State.withArb_same hb ..).trans ?_ | intro _
    | split
    | dsimp only

theorem State.showUnit_same (hb : Blind π [.regs, .arb]) (s : State) (res c : Nat) (o : Option Nat) :
    Same π (State.showUnit s res c o) s := by
  unfold State.showUnit
  repeat' first
    | with_reducible first
      | exact Same.refl _ | assumption | refine (State.setF_same (hb.sub (by decide)) ..).trans ?_
      | refine (State.setRed_same hb ..).trans ?_ | refine Same.ite ?_ ?_ | intro _
    | split
    | dsimp only

theorem State.giveChannel_same (hb : Blind π [.regs, .arb]) (s : State) (res c req : Nat) :
    Same π (State.giveChannel s res c req) s := by
  unfold State.giveChannel
  repeat' first
    | with_reducible first
      | exact Same.refl _ | assumption | refine (State.showUnit_same hb ..).trans ?_
      | refine (State.setCand_same (hb.sub (by decide)) ..).trans ?_
      | refine (State.withArb_same (hb.sub (by decide)) ..).trans ?_
      | refine (State.setOwner_same (hb.sub (by decide)) ..).trans ?_ | intro _
    | split
    | dsimp only

theorem State.grant_same (hb : Blind π [.regs, .arb, .trace, .pat, .mem]) (s : State) (res c req : Nat) :
    Same π (State.grant s res c req) s := by
  unfold State.grant
  repeat' first
    | with_reducible first
      | exact Same.refl _ | assumption | refine (State.giveChannel_same (hb.sub (by decide)) ..).trans ?_
      | refine (State.traceEv_same (hb.sub (by decide)) ..).trans ?_ | intro _
    | split
    | dsimp only

theorem State.freeChannel_same (hb : Blind π [.regs, .arb]) (s : State) (res c : Nat) :
    Same π (State.freeChannel s res c) s := by
  unfold State.freeChannel
  repeat' first
    | with_reducible first
      | exact Same.refl _ | assumption | refine (State.showUnit_same hb ..).trans ?_
      | refine (State.setOwner_same (hb.sub (by decide)) ..).trans ?_ | intro _
    | split
    | dsimp only

theorem State.applyCommit_same (hb : Blind π [.regs]) (s : State) (res : Nat) : Same π (State.applyCommit s res) s := by
  unfold State.applyCommit
  repeat' first
    | with_reducible first
      | exact Same.refl _ | assumption | refine (State.setF_same hb ..).trans ?_ | refine (Same.foldl _ _ _ ?_).trans ?_
      | refine Same.ite ?_ ?_ | intro _
    | split
    | dsimp only

theorem State.dropOwner_same (hb : Blind π [.regs, .arb, .trace, .pat, .mem]) (s : State) (res c : Nat) (o : Owner)
    (still : Nat → Bool) :
    Same π (State.dropOwner s res c o still) s := by
  unfold State.dropOwner
  repeat' first
    | with_reducible first
      | exact Same.refl _ | assumption | refine (State.grant_same hb ..).trans ?_
      | refine (State.freeChannel_same (hb.sub (by decide)) ..).trans ?_ | refine Same.ite ?_ ?_ | intro _
    | split
    | dsimp only

theorem State.dropOwners_same (hb : Blind π [.regs, .arb, .trace, .pat, .mem]) (s : State) (res : Nat) (raised : List Nat)
    (busy : Nat → Bool) :
    Same π (State.dropOwners s res raised busy) s := by
  unfold State.dropOwners
  repeat' first
    | with_reducible first
      | exact Same.refl _ | assumption | refine (State.dropOwner_same hb ..).trans ?_
      | refine (Same.forEach _ _ _ ?_).trans ?_ | refine Same.ite ?_ ?_ | refine Same.ite_fst ?_ ?_ | intro _
    | split
    | dsimp only

theorem State.dropReq_same (hb : Blind π [.regs, .arb, .trace, .pat, .mem]) (s : State) (res req : Nat) :
    Same π (State.dropReq s res req) s := by
  unfold State.dropReq
  repeat' first
    | with_reducible first
      | exact Same.refl _ | assumption | refine (State.dropOwner_same hb ..).trans ?_
      | refine (State.setCand_same (hb.sub (by decide)) ..).trans ?_ | refine (Same.forEach _ _ _ ?_).trans ?_ | intro _
    | split
    | dsimp only

theorem State.dropChannels_same (hb : Blind π [.regs, .arb, .trace, .pat, .mem]) (s : State) (req : Nat) :
    Same π (State.dropChannels s req) s := by
  unfold State.dropChannels
  repeat' first
    | with_reducible first
      | exact Same.refl _ | assumption | refine (State.dropReq_same hb ..).trans ?_ | refine (Same.forEach _ _ _ ?_).trans ?_
      | intro _
    | split
    | dsimp only

theorem State.grantFree_same (hb : Blind π [.regs, .arb, .trace, .pat, .mem]) (s : State) (res : Nat) (x0 : List Nat) :
    Same π (State.grantFree s res x0) s := by
  induction x0 generalizing s res with
  | nil => exact rfl
  | cons a r ih =>
    unfold State.grantFree
    repeat' first
      | with_reducible first
        | exact Same.refl _ | assumption | refine (State.grant_same hb ..).trans ?_ | refine (ih ..).trans ?_ | intro _
      | split
      | dsimp only

theorem State.chooseVictims_same (hb : Blind π [.arb]) (s : State) (res : Nat) (x0 : List Nat) :
    Same π (State.chooseVictims s res x0) s := by
  induction x0 generalizing s res with
  | nil => exact rfl
  | cons a r ih =>
    unfold State.chooseVictims
    repeat' first
      | with_reducible first
        | exact Same.refl _ | assumption | refine (State.setOwner_same hb ..).trans ?_ | refine (ih ..).trans ?_ | intro _
      | split
      | dsimp only

theorem State.clearTakes_same (hb : Blind π [.arb]) (s : State) (res : Nat) (raised : List Nat) (frozen : Bool) :
    Same π (State.clearTakes s res raised frozen) s := by
  unfold State.clearTakes
  repeat' first
    | with_reducible first
      | exact Same.refl _ | assumption | refine (State.setOwner_same hb ..).trans ?_ | refine (Same.forEach _ _ _ ?_).trans ?_
      | refine Same.ite ?_ ?_ | refine Same.ite_fst ?_ ?_ | intro _
    | split
    | dsimp only

theorem State.leaveUnits_same (hb : Blind π [.regs, .ic, .arb, .err, .spr, .out]) (s : State) (res : Nat) :
    Same π (State.leaveUnits s res) s := by
  unfold State.leaveUnits
  repeat' first
    | with_reducible first
      | exact Same.refl _ | assumption | refine (State.noLeave_same (hb.sub (by decide)) ..).trans ?_
      | refine (State.spareIn_same hb ..).trans ?_ | refine (State.setRed_same (hb.sub (by decide)) ..).trans ?_
      | refine (Same.forEach _ _ _ ?_).trans ?_ | refine Same.ite ?_ ?_ | refine Same.ite_fst ?_ ?_ | intro _
    | split
    | dsimp only

theorem State.endRefusals_same (hb : Blind π [.arb]) (s : State) (res : Nat) (raised : List Nat) :
    Same π (State.endRefusals s res raised) s := by
  unfold State.endRefusals
  repeat' first
    | with_reducible first
      | exact Same.refl _ | assumption | refine (State.withArb_same hb ..).trans ?_ | intro _
    | split
    | dsimp only

theorem State.arbPhase_same (hb : Blind π [.regs, .ic, .arb, .trace, .pat, .err, .spr, .mem, .out]) (s : State)
    (res : Nat) (raised : List Nat) (busy : Nat → Bool) :
    Same π (State.arbPhase s res raised busy) s := by
  unfold State.arbPhase
  repeat' first
    | with_reducible first
      | exact Same.refl _ | assumption | refine (State.dropOwners_same (hb.sub (by decide)) ..).trans ?_
      | refine (State.chooseVictims_same (hb.sub (by decide)) ..).trans ?_
      | refine (State.endRefusals_same (hb.sub (by decide)) ..).trans ?_
      | refine (State.leaveUnits_same (hb.sub (by decide)) ..).trans ?_
      | refine (State.grantFree_same (hb.sub (by decide)) ..).trans ?_
      | refine (State.setCand_same (hb.sub (by decide)) ..).trans ?_
      | refine (State.applyCommit_same (hb.sub (by decide)) ..).trans ?_
      | refine (State.clearTakes_same (hb.sub (by decide)) ..).trans ?_ | refine Same.ite ?_ ?_ | intro _
    | split
    | dsimp only


/-! ## Module Cache -/

theorem State.setWays_same (hb : Blind π [.cache]) (s : State) (k : CtxKind) (n : Nat) (l : List Nat) :
    Same π (State.setWays s k n l) s := by
  unfold State.setWays
  repeat' first
    | with_reducible first
      | exact Same.refl _ | assumption | refine (State.withCache_same hb ..).trans ?_ | intro _
    | split
    | dsimp only

theorem State.touch_same (hb : Blind π [.cache]) (s : State) (k : CtxKind) (n : Nat) : Same π (State.touch s k n) s := by
  unfold State.touch
  repeat' first
    | with_reducible first
      | exact Same.refl _ | assumption | refine (State.setWays_same hb ..).trans ?_ | refine Same.ite ?_ ?_ | intro _
    | split
    | dsimp only

theorem State.insertCtx_same (hb : Blind π [.cache]) {s : State} {k : CtxKind} {n : Nat} {t : State}
    (h : State.insertCtx s k n = some t) :
    Same π t s := by
  unfold State.insertCtx at h
  try dsimp only at h
  (repeat' split at h) <;> first | contradiction | (cases h; repeat' first
    | with_reducible first
      | exact Same.refl _ | assumption | refine (State.touch_same hb ..).trans ?_ | refine (State.setWays_same hb ..).trans ?_
      | refine (State.withCache_same hb ..).trans ?_ | refine Same.ite ?_ ?_ | refine Same.ite_fst ?_ ?_ | intro _
    | split
    | dsimp only)

theorem State.warm_same (hb : Blind π [.cache]) (s : State) (k : CtxKind) (n : Nat) : Same π (State.warm s k n) s := by
  unfold State.warm
  repeat' first
    | with_reducible first
      | exact Same.refl _ | assumption | refine (State.insertCtx_same hb (by assumption)).trans ?_ | refine Same.getD ?_
      | intro _
    | split
    | dsimp only

theorem State.countCtx_same (hb : Blind π [.regs]) (s : State) (k : CtxKind) (hit : Bool) :
    Same π (State.countCtx s k hit) s := by
  unfold State.countCtx
  repeat' first
    | with_reducible first
      | exact Same.refl _ | assumption | refine (State.wrapAdd_same hb ..).trans ?_ | refine Same.ite ?_ ?_ | intro _
    | split
    | dsimp only

theorem State.demandOne_same (hb : Blind π [.regs, .cache]) (s : State) (k : CtxKind) (n : Nat) :
    Same π (State.demandOne s k n).1 s := by
  unfold State.demandOne
  repeat' first
    | with_reducible first
      | exact Same.refl _ | assumption | refine (State.touch_same (hb.sub (by decide)) ..).trans ?_
      | refine (State.withCache_same (hb.sub (by decide)) ..).trans ?_
      | refine (State.countCtx_same (hb.sub (by decide)) ..).trans ?_ | refine Same.ite ?_ ?_ | refine Same.ite_fst ?_ ?_
      | intro _
    | split
    | dsimp only

theorem State.demand_same (hb : Blind π [.regs, .cache]) (s : State) (l : List (CtxKind × Nat)) :
    Same π (State.demand s l).1 s := by
  unfold State.demand
  repeat' first
    | with_reducible first
      | exact Same.refl _ | assumption | refine (State.demandOne_same hb ..).trans ?_ | refine (Same.foldl _ _ _ ?_).trans ?_
      | refine (Same.foldl_fst _ _ _ ?_).trans ?_ | refine Same.ite ?_ ?_ | refine Same.ite_fst ?_ ?_ | intro _
    | split
    | dsimp only

theorem State.bring_same (hb : Blind π [.cache]) (s : State) (k : CtxKind) (n : Nat) : Same π (State.bring s k n) s := by
  unfold State.bring
  repeat' first
    | with_reducible first
      | exact Same.refl _ | assumption | refine (State.withCache_same hb ..).trans ?_ | refine Same.ite ?_ ?_ | intro _
    | split
    | dsimp only

theorem State.prefetch_same (hb : Blind π [.cache]) (s : State) (k : CtxKind) (n : Nat) : Same π (State.prefetch s k n) s := by
  unfold State.prefetch
  repeat' first
    | with_reducible first
      | exact Same.refl _ | assumption | refine (State.withCache_same hb ..).trans ?_ | refine Same.ite ?_ ?_ | intro _
    | split
    | dsimp only

theorem State.chill_same (hb : Blind π [.cache]) (s : State) (k : CtxKind) (n : Nat) : Same π (State.chill s k n) s := by
  unfold State.chill
  repeat' first
    | with_reducible first
      | exact Same.refl _ | assumption | refine (State.setWays_same hb ..).trans ?_ | intro _
    | split
    | dsimp only


/-! ## Module Post -/

theorem State.writeCtx_same (hb : Blind π [.regs, .pat, .mem]) (s : State) (x : CtxKind × Nat) :
    Same π (State.writeCtx s x) s := by
  unfold State.writeCtx
  repeat' first
    | with_reducible first
      | exact Same.refl _ | assumption | refine (State.touchBlock_same hb ..).trans ?_
      | refine (State.writePkg_same (hb.sub (by decide)) ..).trans ?_ | refine Same.ite ?_ ?_ | refine Same.ite_fst ?_ ?_
      | intro _
    | split
    | dsimp only

theorem State.serveBacks_same (hb : Blind π [.regs, .cache, .arb, .pat, .mem]) (s : State) : Same π (State.serveBacks s) s := by
  unfold State.serveBacks
  repeat' first
    | with_reducible first
      | exact Same.refl _ | assumption | refine (State.writeCtx_same (hb.sub (by decide)) ..).trans ?_
      | refine (State.withCache_same (hb.sub (by decide)) ..).trans ?_
      | refine (State.arbBusy_same (hb.sub (by decide)) ..).trans ?_ | refine (Same.forEach _ _ _ ?_).trans ?_
      | refine Same.ite ?_ ?_ | intro _
    | split
    | dsimp only

theorem State.addCtr_same (hb : Blind π [.ctr, .arb, .pair, .lace, .out]) (s : State) (n : Nat) (v : W64) (sync : Bool)
    (ccause q : Nat) (idx : W32) :
    Same π (State.addCtr s n v sync ccause q idx) s := by
  unfold State.addCtr
  repeat' first
    | with_reducible first
      | exact Same.refl _ | assumption | refine (State.mirrorCtr_same (hb.sub (by decide)) ..).trans ?_
      | refine (State.setCtr_same (hb.sub (by decide)) ..).trans ?_ | refine Same.ite ?_ ?_ | intro _
    | split
    | dsimp only

theorem State.spillEntry_same (hb : Blind π [.regs, .park, .arb, .pat, .mem]) (s : State) (q : Nat) (i : W32) :
    Same π (State.spillEntry s q i) s := by
  unfold State.spillEntry
  repeat' first
    | with_reducible first
      | exact Same.refl _ | assumption | refine (State.touchBlock_same (hb.sub (by decide)) ..).trans ?_
      | refine (State.arbBusy_same (hb.sub (by decide)) ..).trans ?_
      | refine (State.withPark_same (hb.sub (by decide)) ..).trans ?_
      | refine (State.writePkg_same (hb.sub (by decide)) ..).trans ?_ | intro _
    | split
    | dsimp only

theorem State.parkEntry_same (hb : Blind π [.regs, .fl, .park, .arb, .pat, .mem]) (s : State) (q : Nat) (i : W32) (n : Nat) :
    Same π (State.parkEntry s q i n) s := by
  unfold State.parkEntry
  repeat' first
    | with_reducible first
      | exact Same.refl _ | assumption | refine (State.updFl_same (hb.sub (by decide)) ..).trans ?_
      | refine (State.spillEntry_same (hb.sub (by decide)) ..).trans ?_
      | refine (State.withPark_same (hb.sub (by decide)) ..).trans ?_ | refine Same.ite ?_ ?_ | intro _
    | split
    | dsimp only

theorem State.unpark_same (hb : Blind π [.park]) (s : State) (q : Nat) (i : W32) : Same π (State.unpark s q i) s := by
  unfold State.unpark
  repeat' first
    | with_reducible first
      | exact Same.refl _ | assumption | refine (State.withPark_same hb ..).trans ?_ | intro _
    | split
    | dsimp only

theorem State.releasePark_same (hb : Blind π [.regs, .fl, .park, .trace, .pat, .mem]) (s : State) (q : Nat) (i : W32) :
    Same π (State.releasePark s q i) s := by
  unfold State.releasePark
  repeat' first
    | with_reducible first
      | exact Same.refl _ | assumption | refine (State.traceEv_same (hb.sub (by decide)) ..).trans ?_
      | refine (State.updFl_same (hb.sub (by decide)) ..).trans ?_
      | refine (State.unpark_same (hb.sub (by decide)) ..).trans ?_
      | refine (State.wrapAdd_same (hb.sub (by decide)) ..).trans ?_ | intro _
    | split
    | dsimp only

theorem State.parkOrWait_same (hb : Blind π [.regs, .fl, .park, .cache, .ic, .arb, .trace, .pat, .mem, .out]) (s : State)
    (q : Nat) (i : W32) (e : Entry) :
    Same π (State.parkOrWait s q i e) s := by
  unfold State.parkOrWait
  repeat' first
    | with_reducible first
      | exact Same.refl _ | assumption | refine (State.releasePark_same (hb.sub (by decide)) ..).trans ?_
      | refine (State.raise_same (hb.sub (by decide)) ..).trans ?_
      | refine (State.parkEntry_same (hb.sub (by decide)) ..).trans ?_
      | refine (State.updFl_same (hb.sub (by decide)) ..).trans ?_ | refine (State.cnt_same (hb.sub (by decide)) ..).trans ?_
      | refine (State.demand_same (hb.sub (by decide)) ..).trans ?_ | refine Same.ite ?_ ?_ | refine Same.ite_fst ?_ ?_
      | intro _
    | split
    | dsimp only

theorem State.ciStep_same (hb : Blind π [.q, .fl, .pair]) {s : State} {q : Nat} {t : State} (h : State.ciStep s q = some t) :
    Same π t s := by
  unfold State.ciStep at h
  try dsimp only at h
  (repeat' split at h) <;> first | contradiction | (cases h; repeat' first
    | with_reducible first
      | exact Same.refl _ | assumption | refine (State.withPair_same (hb.sub (by decide)) ..).trans ?_
      | refine (State.dropFl_same (hb.sub (by decide)) ..).trans ?_
      | refine (State.updQ_same (hb.sub (by decide)) ..).trans ?_ | refine Same.ite ?_ ?_ | refine Same.ite_fst ?_ ?_
      | intro _
    | split
    | dsimp only)

theorem State.ciRun_same (hb : Blind π [.q, .fl, .pair]) (x0 : Nat) (s : State) (x2 : Nat) :
    Same π (State.ciRun x0 s x2) s := by
  induction x0 generalizing s x2 with
  | zero => exact rfl
  | succ n ih =>
    unfold State.ciRun
    repeat' first
      | with_reducible first
        | exact Same.refl _ | assumption | refine (State.ciStep_same hb (by assumption)).trans ?_ | refine (ih ..).trans ?_
        | intro _
      | split
      | dsimp only

theorem State.sendCi_same (hb : Blind π [.arb, .pair, .lace, .out]) (s : State) (q : Nat) : Same π (State.sendCi s q) s := by
  unfold State.sendCi
  repeat' first
    | with_reducible first
      | exact Same.refl _ | assumption | refine (State.mirrorDelta_same hb ..).trans ?_ | intro _
    | split
    | dsimp only

theorem State.mirrorCi_same (hb : Blind π [.q, .arb, .pair, .lace, .out]) (s : State) (q : Nat) :
    Same π (State.mirrorCi s q) s := by
  unfold State.mirrorCi
  repeat' first
    | with_reducible first
      | exact Same.refl _ | assumption | refine (State.withPair_same (hb.sub (by decide)) ..).trans ?_
      | refine (State.sendCi_same (hb.sub (by decide)) ..).trans ?_
      | refine (State.updQ_same (hb.sub (by decide)) ..).trans ?_ | refine Same.ite ?_ ?_ | refine Same.ite_fst ?_ ?_
      | intro _
    | split
    | dsimp only

theorem State.advanceCi_same (hb : Blind π [.q, .fl, .arb, .pair, .lace, .out]) (s : State) (q : Nat) :
    Same π (State.advanceCi s q) s := by
  unfold State.advanceCi
  repeat' first
    | with_reducible first
      | exact Same.refl _ | assumption | refine (State.mirrorCi_same (hb.sub (by decide)) ..).trans ?_
      | refine (State.ciRun_same (hb.sub (by decide)) ..).trans ?_ | refine Same.ite ?_ ?_ | intro _
    | split
    | dsimp only

theorem State.release_same (hb : Blind π [.q, .fl, .arb, .pair, .lace, .out]) (s : State) (q : Nat) (i : W32) :
    Same π (State.release s q i) s := by
  unfold State.release
  repeat' first
    | with_reducible first
      | exact Same.refl _ | assumption | refine (State.updFl_same (hb.sub (by decide)) ..).trans ?_
      | refine (State.advanceCi_same hb ..).trans ?_ | refine (State.dropFl_same (hb.sub (by decide)) ..).trans ?_
      | refine (State.updQ_same (hb.sub (by decide)) ..).trans ?_ | refine Same.ite ?_ ?_ | intro _
    | split
    | dsimp only

theorem State.withdraw_same (hb : Blind π [.q, .fl, .park, .arb, .pair, .lace, .out]) (s : State) (q : Nat)
    (p : Flight → Bool) :
    Same π (State.withdraw s q p).1 s := by
  unfold State.withdraw
  repeat' first
    | with_reducible first
      | exact Same.refl _ | assumption | refine (State.unpark_same (hb.sub (by decide)) ..).trans ?_
      | refine (State.release_same (hb.sub (by decide)) ..).trans ?_ | refine (Same.forEach _ _ _ ?_).trans ?_ | intro _
    | split
    | dsimp only

theorem State.adoptRing_same (hb : Blind π [.cq]) (s : State) (c : Nat) : Same π (State.adoptRing s c) s := by
  unfold State.adoptRing
  repeat' first
    | with_reducible first
      | exact Same.refl _ | assumption | refine (State.setC_same hb ..).trans ?_ | refine Same.ite ?_ ?_ | intro _
    | split
    | dsimp only

theorem State.stopStitches_same (hb : Blind π [.fl]) (s : State) (q : Nat) : Same π (State.stopStitches s q) s := by
  unfold State.stopStitches
  repeat' first
    | with_reducible first
      | exact Same.refl _ | assumption | refine (State.withFl_same hb ..).trans ?_ | intro _
    | split
    | dsimp only

theorem State.stallNow_same (hb : Blind π [.q, .fl, .arb, .pair, .lace, .out]) (s : State) (q : Nat) :
    Same π (State.stallNow s q) s := by
  unfold State.stallNow
  repeat' first
    | with_reducible first
      | exact Same.refl _ | assumption | refine (State.stopStitches_same (hb.sub (by decide)) ..).trans ?_
      | refine (State.setQ_same (hb.sub (by decide)) ..).trans ?_ | refine (State.snapQ_same (hb.sub (by decide)) ..).trans ?_
      | refine Same.ite ?_ ?_ | intro _
    | split
    | dsimp only

theorem State.stallQueues_same (hb : Blind π [.q, .fl, .arb, .pair, .lace, .out]) (s : State) (c : Nat) :
    Same π (State.stallQueues s c) s := by
  unfold State.stallQueues
  repeat' first
    | with_reducible first
      | exact Same.refl _ | assumption | refine (State.stallNow_same hb ..).trans ?_
      | refine (State.addAct_same (hb.sub (by decide)) ..).trans ?_ | refine (Same.forEach _ _ _ ?_).trans ?_
      | refine Same.ite ?_ ?_ | intro _
    | split
    | dsimp only

theorem State.enterFull_same (hb : Blind π [.regs, .q, .cq, .fl, .ic, .arb, .trace, .pat, .pair, .lace, .mem, .out])
    (s : State) (c : Nat) :
    Same π (State.enterFull s c) s := by
  unfold State.enterFull
  repeat' first
    | with_reducible first
      | exact Same.refl _ | assumption | refine (State.setC_same (hb.sub (by decide)) ..).trans ?_
      | refine (State.raise_same (hb.sub (by decide)) ..).trans ?_
      | refine (State.traceEv_same (hb.sub (by decide)) ..).trans ?_
      | refine (State.setF_same (hb.sub (by decide)) ..).trans ?_ | refine (State.cnt_same (hb.sub (by decide)) ..).trans ?_
      | refine (State.stallQueues_same (hb.sub (by decide)) ..).trans ?_ | intro _
    | split
    | dsimp only

theorem State.spillRec_same (hb : Blind π [.regs, .q, .cq, .fl, .cqs, .ic, .arb, .trace, .pat, .pair, .lace, .mem, .out])
    (s : State) (h : Held) :
    Same π (State.spillRec s h) s := by
  unfold State.spillRec
  repeat' first
    | with_reducible first
      | exact Same.refl _ | assumption | refine (State.peak_same (hb.sub (by decide)) ..).trans ?_
      | refine (State.withCqs_same (hb.sub (by decide)) ..).trans ?_
      | refine (State.enterFull_same (hb.sub (by decide)) ..).trans ?_ | refine Same.ite ?_ ?_ | intro _
    | split
    | dsimp only

theorem State.issueRec_same (hb : Blind π [.cq, .cqs]) (s : State) (h : Held) : Same π (State.issueRec s h) s := by
  unfold State.issueRec
  repeat' first
    | with_reducible first
      | exact Same.refl _ | assumption | refine (State.setC_same (hb.sub (by decide)) ..).trans ?_
      | refine (State.withCqs_same (hb.sub (by decide)) ..).trans ?_ | intro _
    | split
    | dsimp only

theorem State.completed_same (hb : Blind π [.regs, .ctr, .fl, .arb, .pair, .lace, .out]) (s : State) (q : Nat) (i : W32) :
    Same π (State.completed s q i) s := by
  unfold State.completed
  repeat' first
    | with_reducible first
      | exact Same.refl _ | assumption | refine (State.updFl_same (hb.sub (by decide)) ..).trans ?_
      | refine (State.setF_same (hb.sub (by decide)) ..).trans ?_
      | refine (State.addCtr_same (hb.sub (by decide)) ..).trans ?_ | refine (State.cnt_same (hb.sub (by decide)) ..).trans ?_
      | refine Same.ite ?_ ?_ | intro _
    | split
    | dsimp only

theorem State.placeRec_same
    (hb : Blind π [.regs, .q, .cq, .ctr, .fl, .cqs, .ic, .arb, .trace, .pat, .pair, .lace, .mem, .out]) (s : State) (h : Held) :
    Same π (State.placeRec s h) s := by
  unfold State.placeRec
  repeat' first
    | with_reducible first
      | exact Same.refl _ | assumption | refine (State.completed_same (hb.sub (by decide)) ..).trans ?_
      | refine (State.withCqs_same (hb.sub (by decide)) ..).trans ?_
      | refine (State.updFl_same (hb.sub (by decide)) ..).trans ?_
      | refine (State.issueRec_same (hb.sub (by decide)) ..).trans ?_
      | refine (State.release_same (hb.sub (by decide)) ..).trans ?_
      | refine (State.spillRec_same (hb.sub (by decide)) ..).trans ?_ | refine Same.ite ?_ ?_ | intro _
    | split
    | dsimp only

theorem State.quarNote_same (hb : Blind π [.regs, .ic, .err, .out]) (s : State) (q cause : Nat) (cidx : W32) (n : Nat) :
    Same π (State.quarNote s q cause cidx n) s := by
  unfold State.quarNote
  repeat' first
    | with_reducible first
      | exact Same.refl _ | assumption | refine (State.raise_same (hb.sub (by decide)) ..).trans ?_
      | refine (State.log_same (hb.sub (by decide)) ..).trans ?_ | intro _
    | split
    | dsimp only

theorem State.noteAfter_same (hb : Blind π [.regs, .ic, .err, .out]) (s : State) (f : Option Flight) :
    Same π (State.noteAfter s f) s := by
  unfold State.noteAfter
  repeat' first
    | with_reducible first
      | exact Same.refl _ | assumption | refine (State.quarNote_same hb ..).trans ?_ | intro _
    | split
    | dsimp only

theorem State.postEntry_same
    (hb : Blind π [.regs, .q, .cq, .ctr, .fl, .cqs, .ic, .arb, .trace, .pat, .pair, .lace, .err, .mem, .out]) (s : State) (q : Nat) (i : W32) :
    Same π (State.postEntry s q i) s := by
  unfold State.postEntry
  repeat' first
    | with_reducible first
      | exact Same.refl _ | assumption | refine (State.completed_same (hb.sub (by decide)) ..).trans ?_
      | refine (State.noteAfter_same (hb.sub (by decide)) ..).trans ?_
      | refine (State.placeRec_same (hb.sub (by decide)) ..).trans ?_
      | refine (State.release_same (hb.sub (by decide)) ..).trans ?_ | refine Same.ite ?_ ?_ | intro _
    | split
    | dsimp only

theorem State.refillSpill_same (hb : Blind π
    (Part.but [.pending, .mr, .pd, .park, .lines, .tb, .adm, .spr, .pins, .memSize, .lastRead, .free])) (x0 : Nat) (s : State) (x2 : Nat) :
    Same π (State.refillSpill x0 s x2) s := by
  induction x0 generalizing s x2 with
  | zero => exact rfl
  | succ n ih =>
    unfold State.refillSpill
    repeat' first
      | with_reducible first
        | exact Same.refl _ | assumption | refine (State.completed_same (hb.sub (by decide)) ..).trans ?_
        | refine (State.withCqs_same (hb.sub (by decide)) ..).trans ?_
        | refine (State.noteAfter_same (hb.sub (by decide)) ..).trans ?_
        | refine (State.demand_same (hb.sub (by decide)) ..).trans ?_
        | refine (State.spillRec_same (hb.sub (by decide)) ..).trans ?_ | refine (ih ..).trans ?_ | refine Same.ite ?_ ?_
        | refine Same.ite_fst ?_ ?_ | intro _
      | split
      | dsimp only

theorem State.drainHeld_same (hb : Blind π
    (Part.but [.pending, .mr, .pd, .park, .lines, .tb, .adm, .spr, .pins, .memSize, .lastRead, .free])) (x0 : Nat) (s : State) (x2 : Nat) :
    Same π (State.drainHeld x0 s x2) s := by
  induction x0 generalizing s x2 with
  | zero => exact rfl
  | succ n ih =>
    unfold State.drainHeld
    repeat' first
      | with_reducible first
        | exact Same.refl _ | assumption | refine (State.completed_same (hb.sub (by decide)) ..).trans ?_
        | refine (State.withCqs_same (hb.sub (by decide)) ..).trans ?_
        | refine (State.noteAfter_same (hb.sub (by decide)) ..).trans ?_
        | refine (State.demand_same (hb.sub (by decide)) ..).trans ?_ | refine (State.refillSpill_same hb ..).trans ?_
        | refine (State.issueRec_same (hb.sub (by decide)) ..).trans ?_ | refine (ih ..).trans ?_ | refine Same.ite ?_ ?_
        | refine Same.ite_fst ?_ ?_ | intro _
      | split
      | dsimp only

theorem State.unstallNow_same (hb : Blind π [.q, .arb, .pair, .lace, .out]) (s : State) (q : Nat) :
    Same π (State.unstallNow s q) s := by
  unfold State.unstallNow
  repeat' first
    | with_reducible first
      | exact Same.refl _ | assumption | refine (State.setQ_same (hb.sub (by decide)) ..).trans ?_
      | refine (State.snapQ_same (hb.sub (by decide)) ..).trans ?_ | refine Same.ite ?_ ?_ | intro _
    | split
    | dsimp only

theorem State.unstall_same (hb : Blind π [.q, .arb, .pair, .lace, .out]) (s : State) (q : Nat) :
    Same π (State.unstall s q) s := by
  unfold State.unstall
  repeat' first
    | with_reducible first
      | exact Same.refl _ | assumption | refine (State.unstallNow_same hb ..).trans ?_
      | refine (State.addAct_same (hb.sub (by decide)) ..).trans ?_ | refine Same.ite ?_ ?_ | intro _
    | split
    | dsimp only

theorem State.leaveFull_same (hb : Blind π [.regs, .q, .cq, .arb, .trace, .pat, .pair, .lace, .mem, .out]) (s : State)
    (c : Nat) :
    Same π (State.leaveFull s c) s := by
  unfold State.leaveFull
  repeat' first
    | with_reducible first
      | exact Same.refl _ | assumption | refine (State.setC_same (hb.sub (by decide)) ..).trans ?_
      | refine (State.traceEv_same (hb.sub (by decide)) ..).trans ?_
      | refine (State.unstall_same (hb.sub (by decide)) ..).trans ?_ | refine (Same.forEach _ _ _ ?_).trans ?_
      | refine Same.ite ?_ ?_ | intro _
    | split
    | dsimp only

theorem State.drainRing_same (hb : Blind π
    (Part.but [.pending, .mr, .pd, .park, .lines, .tb, .adm, .spr, .pins, .memSize, .lastRead, .free])) (s : State) (c : Nat) :
    Same π (State.drainRing s c) s := by
  unfold State.drainRing
  repeat' first
    | with_reducible first
      | exact Same.refl _ | assumption | refine (State.drainHeld_same hb ..).trans ?_
      | refine (State.leaveFull_same (hb.sub (by decide)) ..).trans ?_ | refine Same.ite ?_ ?_ | intro _
    | split
    | dsimp only

theorem State.mirrorCqci_same (hb : Blind π [.arb, .pair, .lace, .out]) (s : State) (c : Nat) (t : W64) :
    Same π (State.mirrorCqci s c t) s := by
  unfold State.mirrorCqci
  repeat' first
    | with_reducible first
      | exact Same.refl _ | assumption | refine (State.mirrorDeltaAt_same hb ..).trans ?_
      | refine (State.withPair_same (hb.sub (by decide)) ..).trans ?_ | refine Same.ite ?_ ?_ | refine Same.ite_fst ?_ ?_
      | intro _
    | split
    | dsimp only

theorem State.judgeCiNow_same (hb : Blind π
    (Part.but [.pending, .mr, .pd, .park, .lines, .tb, .adm, .spr, .pins, .memSize, .lastRead, .free])) (s : State) (c : Nat) (v : W32) (t : W64) :
    Same π (State.judgeCiNow s c v t) s := by
  unfold State.judgeCiNow
  repeat' first
    | with_reducible first
      | exact Same.refl _ | assumption | refine (State.setC_same (hb.sub (by decide)) ..).trans ?_
      | refine (State.raise_same (hb.sub (by decide)) ..).trans ?_
      | refine (State.mirrorCqci_same (hb.sub (by decide)) ..).trans ?_
      | refine (State.setF_same (hb.sub (by decide)) ..).trans ?_ | refine (State.cnt_same (hb.sub (by decide)) ..).trans ?_
      | refine (State.drainRing_same hb ..).trans ?_ | refine Same.ite ?_ ?_ | intro _
    | split
    | dsimp only

theorem State.judgeCi_same (hb : Blind π
    (Part.but [.pending, .mr, .pd, .park, .lines, .tb, .adm, .spr, .pins, .memSize, .lastRead, .free])) (s : State) (c : Nat) (v : W32) (t : W64) :
    Same π (State.judgeCi s c v t) s := by
  unfold State.judgeCi
  repeat' first
    | with_reducible first
      | exact Same.refl _ | assumption | refine (State.withPair_same (hb.sub (by decide)) ..).trans ?_
      | refine (State.judgeCiNow_same hb ..).trans ?_ | refine Same.ite ?_ ?_ | refine Same.ite_fst ?_ ?_ | intro _
    | split
    | dsimp only

theorem State.coalesce_same (hb : Blind π [.regs, .cq, .ic, .out]) (s : State) (c n : Nat) :
    Same π (State.coalesce s c n) s := by
  unfold State.coalesce
  repeat' first
    | with_reducible first
      | exact Same.refl _ | assumption | refine (State.setC_same (hb.sub (by decide)) ..).trans ?_
      | refine (State.raiseVia_same (hb.sub (by decide)) ..).trans ?_ | refine (Same.foldl _ _ _ ?_).trans ?_
      | refine Same.ite ?_ ?_ | intro _
    | split
    | dsimp only

theorem State.breakRing_same
    (hb : Blind π [.regs, .q, .cq, .fl, .cqs, .ic, .arb, .trace, .pat, .pair, .lace, .err, .mem, .out]) (s : State) (c : Nat) (mem : Bool) :
    Same π (State.breakRing s c mem) s := by
  unfold State.breakRing
  repeat' first
    | with_reducible first
      | exact Same.refl _ | assumption | refine (State.setC_same (hb.sub (by decide)) ..).trans ?_
      | refine (State.raise_same (hb.sub (by decide)) ..).trans ?_
      | refine (State.traceEv_same (hb.sub (by decide)) ..).trans ?_
      | refine (State.peak_same (hb.sub (by decide)) ..).trans ?_
      | refine (State.withCqs_same (hb.sub (by decide)) ..).trans ?_
      | refine (State.logIn_same (hb.sub (by decide)) ..).trans ?_
      | refine (State.stallQueues_same (hb.sub (by decide)) ..).trans ?_ | refine Same.ite ?_ ?_ | refine Same.ite_fst ?_ ?_
      | intro _
    | split
    | dsimp only

theorem State.endLater_same (hb : Blind π [.cache]) (s : State) (q : Nat) (i : W32) : Same π (State.endLater s q i) s := by
  unfold State.endLater
  repeat' first
    | with_reducible first
      | exact Same.refl _ | assumption | refine (State.withCache_same hb ..).trans ?_ | intro _
    | split
    | dsimp only

theorem State.finish_same (hb : Blind π
    (Part.but [.pending, .mr, .pd, .park, .lines, .tb, .adm, .spr, .pins, .memSize, .lastRead, .free])) (s : State) (q : Nat) (i : W32) :
    Same π (State.finish s q i) s := by
  unfold State.finish
  repeat' first
    | with_reducible first
      | exact Same.refl _ | assumption | refine (State.postEntry_same (hb.sub (by decide)) ..).trans ?_
      | refine (State.demand_same (hb.sub (by decide)) ..).trans ?_
      | refine (State.endLater_same (hb.sub (by decide)) ..).trans ?_ | refine State.orWait_same ?_ ?_ | refine Same.ite ?_ ?_
      | refine Same.ite_fst ?_ ?_ | intro _
    | split
    | dsimp only

theorem State.tryComplete_same (hb : Blind π
    (Part.but [.pending, .mr, .pd, .park, .lines, .tb, .adm, .spr, .pins, .memSize, .lastRead, .free])) (s : State) (q : Nat) (i : W32) :
    Same π (State.tryComplete s q i) s := by
  unfold State.tryComplete
  repeat' first
    | with_reducible first
      | exact Same.refl _ | assumption | refine (State.updFl_same (hb.sub (by decide)) ..).trans ?_
      | refine (State.demand_same (hb.sub (by decide)) ..).trans ?_
      | refine (State.endLater_same (hb.sub (by decide)) ..).trans ?_
      | refine (State.mirrorRec_same (hb.sub (by decide)) ..).trans ?_
      | refine (State.emit_same (hb.sub (by decide)) ..).trans ?_ | refine (State.finish_same hb ..).trans ?_
      | refine State.orWait_same ?_ ?_ | refine Same.ite ?_ ?_ | refine Same.ite_fst ?_ ?_ | intro _
    | split
    | dsimp only

theorem State.freeBursts_same (hb : Blind π [.lines]) (s : State) (l : List (Nat × Nat)) : Same π (State.freeBursts s l) s := by
  unfold State.freeBursts
  repeat' first
    | with_reducible first
      | exact Same.refl _ | assumption | refine (State.updLine_same hb ..).trans ?_ | refine (Same.foldl _ _ _ ?_).trans ?_
      | refine (Same.foldl_fst _ _ _ ?_).trans ?_ | intro _
    | split
    | dsimp only

theorem State.dropKept_same (hb : Blind π [.fl, .lines]) (s : State) (q : Nat) (i : W32) : Same π (State.dropKept s q i) s := by
  unfold State.dropKept
  repeat' first
    | with_reducible first
      | exact Same.refl _ | assumption | refine (State.updFl_same (hb.sub (by decide)) ..).trans ?_
      | refine (State.freeBursts_same (hb.sub (by decide)) ..).trans ?_ | intro _
    | split
    | dsimp only

theorem State.settle_same (hb : Blind π
    (Part.but [.pending, .mr, .pd, .park, .tb, .adm, .spr, .pins, .memSize, .lastRead, .free])) (s : State) (q : Nat) (i : W32) :
    Same π (State.settle s q i) s := by
  unfold State.settle
  repeat' first
    | with_reducible first
      | exact Same.refl _ | assumption | refine (State.updFl_same (hb.sub (by decide)) ..).trans ?_
      | refine (State.dropKept_same (hb.sub (by decide)) ..).trans ?_
      | refine (State.tryComplete_same (hb.sub (by decide)) ..).trans ?_ | refine Same.ite ?_ ?_ | refine Same.ite_fst ?_ ?_
      | intro _
    | split
    | dsimp only

theorem State.quarantine_same (hb : Blind π
    (Part.but [.pending, .mr, .pd, .tb, .adm, .spr, .pins, .memSize, .lastRead, .free])) (s : State) (q cause : Nat) (cidx : W32) (entry : Option W32) :
    Same π (State.quarantine s q cause cidx entry) s := by
  unfold State.quarantine
  repeat' first
    | with_reducible first
      | exact Same.refl _ | assumption | refine (State.withdraw_same (hb.sub (by decide)) ..).trans ?_
      | refine (State.updFl_same (hb.sub (by decide)) ..).trans ?_
      | refine (State.quarNote_same (hb.sub (by decide)) ..).trans ?_
      | refine (State.settle_same (hb.sub (by decide)) ..).trans ?_
      | refine (State.snapQ_same (hb.sub (by decide)) ..).trans ?_ | refine (State.updQ_same (hb.sub (by decide)) ..).trans ?_
      | intro _
    | split
    | dsimp only

theorem State.malformed_same (hb : Blind π (Part.but [.pending, .mr, .pd, .tb, .memSize, .lastRead, .free])) (s : State)
    (q cause : Nat) (cidx : W32) (entry : Option W32) :
    Same π (State.malformed s q cause cidx entry) s := by
  unfold State.malformed
  repeat' first
    | with_reducible first
      | exact Same.refl _ | assumption | refine (State.quarantine_same (hb.sub (by decide)) ..).trans ?_
      | refine (State.halt_same (hb.sub (by decide)) ..).trans ?_ | refine (State.updQ_same (hb.sub (by decide)) ..).trans ?_
      | refine Same.ite ?_ ?_ | intro _
    | split
    | dsimp only


/-! ## Module Transfer -/

theorem State.land_same (hb : Blind π [.regs, .mem]) (s : State) (pasid : Option Nat) (x : DataWrite) (poison : Bool) :
    Same π (State.land s pasid x poison) s := by
  unfold State.land
  repeat' first
    | with_reducible first
      | exact Same.refl _ | assumption | refine (State.writeBytes_same hb ..).trans ?_
      | refine (Same.forEach _ _ _ ?_).trans ?_ | intro _
    | split
    | dsimp only

theorem State.seen_same (hb : Blind π [.regs, .mem]) (s : State) (space p : Nat) (pasid : Option Nat) :
    Same π (State.seen s space p pasid) s := by
  unfold State.seen
  repeat' first
    | with_reducible first
      | exact Same.refl _ | assumption | refine (State.land_same hb ..).trans ?_ | refine (Same.forEach _ _ _ ?_).trans ?_
      | intro _
    | split
    | dsimp only

theorem State.cover_same (hb : Blind π [.fl]) (s : State) (space p : Nat) (pasid : Option Nat) (ord a n : Nat) :
    Same π (State.cover s space p pasid ord a n) s := by
  unfold State.cover
  repeat' first
    | with_reducible first
      | exact Same.refl _ | assumption | refine (State.withFl_same hb ..).trans ?_ | refine Same.ite ?_ ?_ | intro _
    | split
    | dsimp only

theorem State.answer_same (hb : Blind π [.regs]) (s : State) (space p a : Nat) (g : ReadOut) (ans : ReadAns) :
    Same π (State.answer s space p a g ans).1 s := by
  unfold State.answer
  repeat' first
    | with_reducible first
      | exact Same.refl _ | assumption | refine (State.cnt_same hb ..).trans ?_ | refine (State.sat_same hb ..).trans ?_
      | refine Same.ite ?_ ?_ | refine Same.ite_fst ?_ ?_ | intro _
    | split
    | dsimp only

theorem State.portRead_same (hb : Blind π [.regs]) (s : State) (space p : Nat) (pasid : Option Nat) (a n : Nat)
    (ans : ReadAns) :
    Same π (State.portRead s space p pasid a n ans).1 s := by
  unfold State.portRead
  repeat' first
    | with_reducible first
      | exact Same.refl _ | assumption | refine (State.answer_same hb ..).trans ?_ | intro _
    | split
    | dsimp only

theorem State.portReject_same (hb : Blind π [.regs]) (s : State) (space p : Nat) : Same π (State.portReject s space p) s := by
  unfold State.portReject
  repeat' first
    | with_reducible first
      | exact Same.refl _ | assumption | refine (State.cnt_same hb ..).trans ?_ | refine Same.ite ?_ ?_ | intro _
    | split
    | dsimp only

theorem State.endEntry_same (hb : Blind π [.fl]) (s : State) (q : Nat) (i : W32) (st ofs : Nat) :
    Same π (State.endEntry s q i st ofs) s := by
  unfold State.endEntry
  repeat' first
    | with_reducible first
      | exact Same.refl _ | assumption | refine (State.updFl_same hb ..).trans ?_ | refine Same.ite ?_ ?_ | intro _
    | split
    | dsimp only


/-! ## Module Judge -/

theorem State.crossHop_same (hb : Blind π [.regs]) (s : State) (h : Nat) : Same π (State.crossHop s h).1 s := by
  unfold State.crossHop
  repeat' first
    | with_reducible first
      | exact Same.refl _ | assumption | refine (State.setF_same hb ..).trans ?_ | refine Same.ite ?_ ?_
      | refine Same.ite_fst ?_ ?_ | intro _
    | split
    | dsimp only

theorem State.verify_same (hb : Blind π [.regs]) (s : State) (h : Nat) (held : W32) (bytes : List Byte) :
    Same π (State.verify s h held bytes).1 s := by
  unfold State.verify
  repeat' first
    | with_reducible first
      | exact Same.refl _ | assumption | refine (State.crossHop_same hb ..).trans ?_ | refine Same.ite ?_ ?_
      | refine Same.ite_fst ?_ ?_ | intro _
    | split
    | dsimp only

theorem State.crossAll_same (hb : Blind π []) (s : State) (h st : Nat) (judge : State → Nat × Nat → State × Bool)
    (x0 : List (Nat × Nat)) (h_judge : ∀ s y0, Same π (judge s y0).1 s) :
    Same π (State.crossAll s h st judge x0).1 s := by
  induction x0 generalizing s with
  | nil => exact rfl
  | cons a r ih =>
    unfold State.crossAll
    exact Same.ite_fst (h_judge ..) ((ih ..).trans (h_judge ..))

theorem State.inHops_same (hb : Blind π [.regs]) (s : State) (f : Flight) (st : Stitch) (x0 : List (Nat × Nat)) :
    Same π (State.inHops s f st x0).1 s := by
  induction x0 generalizing s f st with
  | nil => exact rfl
  | cons a r ih =>
    unfold State.inHops
    repeat' first
      | with_reducible first
        | exact Same.refl _ | assumption | refine (State.crossAll_same (hb.sub (by decide)) (h_judge := ?_) ..).trans ?_
        | refine (State.crossHop_same hb ..).trans ?_ | refine (ih ..).trans ?_ | refine (Same.foldl _ _ _ ?_).trans ?_
        | refine (Same.foldl_fst _ _ _ ?_).trans ?_ | intro _
      | split
      | dsimp only

theorem State.freeBytes_same (hb : Blind π [.free]) (s : State) (n : Nat) : Same π (State.freeBytes s n).1 s := by
  unfold State.freeBytes
  repeat' first
    | with_reducible first
      | exact Same.refl _ | assumption | refine (State.withFree_same hb ..).trans ?_ | intro _
    | split
    | dsimp only

theorem State.produce_same (hb : Blind π [.free]) (s : State) (f : Flight) (st : Stitch) (a b : Nat) :
    Same π (State.produce s f st a b).1 s := by
  unfold State.produce
  repeat' first
    | with_reducible first
      | exact Same.refl _ | assumption | refine (State.freeBytes_same hb ..).trans ?_ | refine Same.ite ?_ ?_
      | refine Same.ite_fst ?_ ?_ | intro _
    | split
    | dsimp only

theorem State.countBlocks_same (hb : Blind π [.regs]) (s : State) (e n : Nat) : Same π (State.countBlocks s e n) s := by
  unfold State.countBlocks
  repeat' first
    | with_reducible first
      | exact Same.refl _ | assumption | refine (State.wrapAdd_same hb ..).trans ?_ | intro _
    | split
    | dsimp only

theorem State.judgeIn_same (hb : Blind π [.regs]) (s : State) (f : Flight) (st : Stitch) (a b : Nat) :
    Same π (State.judgeIn s f st a b).1 s := by
  unfold State.judgeIn
  repeat' first
    | with_reducible first
      | exact Same.refl _ | assumption | refine (State.inHops_same hb ..).trans ?_ | refine Same.ite ?_ ?_
      | refine Same.ite_fst ?_ ?_ | intro _
    | split
    | dsimp only

theorem State.leaveHop_same (hb : Blind π [.regs]) (s : State) (f : Flight) (st : Stitch) (a : Nat) (bytes : List Byte)
    (c : Nat × Nat) :
    Same π (State.leaveHop s f st a bytes c).1 s := by
  unfold State.leaveHop
  repeat' first
    | with_reducible first
      | exact Same.refl _ | assumption | refine (State.verify_same hb ..).trans ?_ | refine Same.ite ?_ ?_
      | refine Same.ite_fst ?_ ?_ | intro _
    | split
    | dsimp only

theorem State.redHop_same (hb : Blind π [.regs]) (s : State) (f : Flight) (st : Stitch) (a b : Nat) (c : Nat × Nat) :
    Same π (State.redHop s f st a b c).1 s := by
  unfold State.redHop
  repeat' first
    | with_reducible first
      | exact Same.refl _ | assumption | refine (State.crossHop_same hb ..).trans ?_ | intro _
    | split
    | dsimp only

theorem State.shadowHop_same (hb : Blind π [.regs, .free]) (s : State) (u : Option Nat) : Same π (State.shadowHop s u).1 s := by
  unfold State.shadowHop
  repeat' first
    | with_reducible first
      | exact Same.refl _ | assumption | refine (State.cnt_same (hb.sub (by decide)) ..).trans ?_
      | refine (State.withFree_same (hb.sub (by decide)) ..).trans ?_ | refine Same.ite ?_ ?_ | refine Same.ite_fst ?_ ?_
      | intro _
    | split
    | dsimp only

theorem State.judgeRed_same (hb : Blind π [.regs, .free]) (s : State) (f : Flight) (st : Stitch) (a b : Nat)
    (blocks : List (Nat × Nat)) :
    Same π (State.judgeRed s f st a b blocks).1 s := by
  unfold State.judgeRed
  repeat' first
    | with_reducible first
      | exact Same.refl _ | assumption | refine (State.shadowHop_same hb ..).trans ?_
      | refine (State.crossAll_same (hb.sub (by decide)) (h_judge := ?_) ..).trans ?_
      | refine (State.redHop_same (hb.sub (by decide)) ..).trans ?_
      | refine (State.countBlocks_same (hb.sub (by decide)) ..).trans ?_ | intro _
    | split
    | dsimp only

theorem State.selfHop_same (hb : Blind π []) (s : State) (f : Flight) (st : Stitch) (c : Nat × Nat) :
    Same π (State.selfHop s f st c).1 s := by
  unfold State.selfHop
  repeat' first | (with_reducible first | exact Same.refl _ | assumption | intro _) | split | dsimp only

theorem State.judgeOut_same (hb : Blind π [.regs, .free]) (s : State) (f : Flight) (st : Stitch) (a b : Nat)
    (bytes : List Byte) :
    Same π (State.judgeOut s f st a b bytes).1 s := by
  unfold State.judgeOut
  repeat' first
    | with_reducible first
      | exact Same.refl _ | assumption | refine (State.crossAll_same (hb.sub (by decide)) (h_judge := ?_) ..).trans ?_
      | refine (State.crossHop_same (hb.sub (by decide)) ..).trans ?_ | refine (State.judgeRed_same hb ..).trans ?_
      | refine (State.leaveHop_same (hb.sub (by decide)) ..).trans ?_
      | refine (State.selfHop_same (hb.sub (by decide)) ..).trans ?_ | refine Same.ite ?_ ?_ | refine Same.ite_fst ?_ ?_
      | intro _
    | split
    | dsimp only

theorem State.showChk_same (hb : Blind π [.regs, .err]) (s : State) (q i : Nat) (c : ChkFail) (fold : Bool) :
    Same π (State.showChk s q i c fold) s := by
  unfold State.showChk
  repeat' first
    | with_reducible first
      | exact Same.refl _ | assumption | refine (State.setF_same (hb.sub (by decide)) ..).trans ?_
      | refine (State.withErr_same (hb.sub (by decide)) ..).trans ?_ | refine Same.ite ?_ ?_ | intro _
    | split
    | dsimp only

theorem State.noteFail_same (hb : Blind π [.regs, .ic, .err, .out]) (s : State) (q i cfg : Nat) (c : ChkFail) (fold : Bool) :
    Same π (State.noteFail s q i cfg c fold) s := by
  unfold State.noteFail
  repeat' first
    | with_reducible first
      | exact Same.refl _ | assumption | refine (State.raise_same (hb.sub (by decide)) ..).trans ?_
      | refine (State.cnt_same (hb.sub (by decide)) ..).trans ?_
      | refine (State.showChk_same (hb.sub (by decide)) ..).trans ?_
      | refine (State.log_same (hb.sub (by decide)) ..).trans ?_ | refine Same.ite ?_ ?_ | intro _
    | split
    | dsimp only

theorem State.looseReads_same (hb : Blind π [.arb]) (s : State) (f : Flight) (e : Nat) : Same π (State.looseReads s f e) s := by
  unfold State.looseReads
  repeat' first
    | with_reducible first
      | exact Same.refl _ | assumption | refine (State.withArb_same hb ..).trans ?_ | intro _
    | split
    | dsimp only

theorem State.giveBack_same (hb : Blind π [.lines]) (s : State) (f : Flight) (e : Nat) : Same π (State.giveBack s f e) s := by
  unfold State.giveBack
  repeat' first
    | with_reducible first
      | exact Same.refl _ | assumption | refine (State.freeBursts_same hb ..).trans ?_ | intro _
    | split
    | dsimp only

theorem State.failEng_same (hb : Blind π (Part.but [.pending, .mr, .pd, .park, .tb, .memSize, .free])) (s : State)
    (e reason : Nat) :
    Same π (State.failEng s e reason) s := by
  unfold State.failEng
  repeat' first
    | with_reducible first
      | exact Same.refl _ | assumption | refine (State.giveBack_same (hb.sub (by decide)) ..).trans ?_
      | refine (State.updFl_same (hb.sub (by decide)) ..).trans ?_
      | refine (State.settle_same (hb.sub (by decide)) ..).trans ?_
      | refine (State.fatal_same (hb.sub (by decide)) ..).trans ?_
      | refine (State.replaceFailed_same (hb.sub (by decide)) ..).trans ?_
      | refine (State.withAdm_same (hb.sub (by decide)) ..).trans ?_
      | refine (State.noLeave_same (hb.sub (by decide)) ..).trans ?_
      | refine (State.looseReads_same (hb.sub (by decide)) ..).trans ?_
      | refine (State.retireEng_same (hb.sub (by decide)) ..).trans ?_
      | refine (State.log_same (hb.sub (by decide)) ..).trans ?_ | refine Same.ite ?_ ?_ | refine Same.ite_fst ?_ ?_ | intro _
    | split
    | dsimp only

theorem State.refuseHand_same (hb : Blind π [.arb, .out]) (s : State) : Same π (State.refuseHand s) s := by
  unfold State.refuseHand
  repeat' first
    | with_reducible first
      | exact Same.refl _ | assumption | refine (State.emit_same (hb.sub (by decide)) ..).trans ?_
      | refine (State.withArb_same (hb.sub (by decide)) ..).trans ?_ | intro _
    | split
    | dsimp only

theorem State.failRed_same
    (hb : Blind π [.regs, .cache, .ic, .arb, .lines, .adm, .pair, .lace, .err, .spr, .pins, .out, .lastRead]) (s : State) (u reason : Nat) :
    Same π (State.failRed s u reason) s := by
  unfold State.failRed
  repeat' first
    | with_reducible first
      | exact Same.refl _ | assumption | refine (State.retireRed_same (hb.sub (by decide)) ..).trans ?_
      | refine (State.replaceFailed_same hb ..).trans ?_ | refine (State.noLeave_same (hb.sub (by decide)) ..).trans ?_
      | refine (State.log_same (hb.sub (by decide)) ..).trans ?_ | refine Same.ite ?_ ?_ | intro _
    | split
    | dsimp only

theorem State.chargeEng_same (hb : Blind π (Part.but [.pending, .mr, .pd, .park, .tb, .memSize, .free])) (s : State) (e : Nat) :
    Same π (State.chargeEng s e) s := by
  unfold State.chargeEng
  repeat' first
    | with_reducible first
      | exact Same.refl _ | assumption | refine (State.cnt_same (hb.sub (by decide)) ..).trans ?_
      | refine (State.failEng_same hb ..).trans ?_ | refine Same.ite ?_ ?_ | intro _
    | split
    | dsimp only

theorem State.chargeRed_same
    (hb : Blind π [.regs, .cache, .ic, .arb, .lines, .adm, .pair, .lace, .err, .spr, .pins, .out, .lastRead]) (s : State) (u reason : Nat) :
    Same π (State.chargeRed s u reason) s := by
  unfold State.chargeRed
  repeat' first
    | with_reducible first
      | exact Same.refl _ | assumption | refine (State.cnt_same (hb.sub (by decide)) ..).trans ?_
      | refine (State.failRed_same hb ..).trans ?_ | refine Same.ite ?_ ?_ | intro _
    | split
    | dsimp only

theorem State.chargeFail_same (hb : Blind π (Part.but [.pending, .mr, .pd, .park, .tb, .memSize, .free])) (s : State)
    (e : Nat) (c : ChkFail) :
    Same π (State.chargeFail s e c) s := by
  unfold State.chargeFail
  repeat' first
    | with_reducible first
      | exact Same.refl _ | assumption | refine (State.chargeRed_same (hb.sub (by decide)) ..).trans ?_
      | refine (State.chargeEng_same hb ..).trans ?_ | refine Same.ite ?_ ?_ | intro _
    | split
    | dsimp only

theorem State.ctlHop_same (hb : Blind π [.regs, .ic, .err, .out, .free]) (s : State) (q i h : Nat) :
    Same π (State.ctlHop s q i h) s := by
  unfold State.ctlHop
  repeat' first
    | with_reducible first
      | exact Same.refl _ | assumption | refine (State.noteFail_same (hb.sub (by decide)) ..).trans ?_
      | refine (State.crossHop_same (hb.sub (by decide)) ..).trans ?_
      | refine (State.withFree_same (hb.sub (by decide)) ..).trans ?_ | refine Same.ite ?_ ?_ | refine Same.ite_fst ?_ ?_
      | intro _
    | split
    | dsimp only

theorem State.ctlHops_same (hb : Blind π [.regs, .ic, .err, .out, .free]) (s : State) (q i space : Nat) :
    Same π (State.ctlHops s q i space) s := by
  unfold State.ctlHops
  repeat' first
    | with_reducible first
      | exact Same.refl _ | assumption | refine (State.ctlHop_same hb ..).trans ?_ | intro _
    | split
    | dsimp only


/-! ## Module Stitch -/

theorem State.updStitch_same (hb : Blind π [.fl]) (s : State) (q : Nat) (i : W32) (e : Nat) (g : Stitch → Stitch) :
    Same π (State.updStitch s q i e g) s := by
  unfold State.updStitch
  repeat' first
    | with_reducible first
      | exact Same.refl _ | assumption | refine (State.updFl_same hb ..).trans ?_ | intro _
    | split
    | dsimp only

theorem State.forgetQ_same (hb : Blind π [.pair]) (s : State) (q : Nat) : Same π (State.forgetQ s q) s := by
  unfold State.forgetQ
  repeat' first
    | with_reducible first
      | exact Same.refl _ | assumption | refine (State.withPair_same hb ..).trans ?_ | intro _
    | split
    | dsimp only

theorem State.changeMirror_same (hb : Blind π [.q, .arb, .pair, .lace, .out]) (s : State) (q : Nat) (g : QCtx → QCtx) :
    Same π (State.changeMirror s q g) s := by
  unfold State.changeMirror
  repeat' first
    | with_reducible first
      | exact Same.refl _ | assumption | refine (State.snapObj_same (hb.sub (by decide)) ..).trans ?_
      | refine (State.forgetQ_same (hb.sub (by decide)) ..).trans ?_
      | refine (State.mirrorRec_same (hb.sub (by decide)) ..).trans ?_
      | refine (State.updQ_same (hb.sub (by decide)) ..).trans ?_ | refine Same.ite ?_ ?_ | intro _
    | split
    | dsimp only

theorem State.applyMode_same (hb : Blind π [.q, .arb, .pair, .lace, .out]) (s : State) (q : Nat) :
    Same π (State.applyMode s q) s := by
  unfold State.applyMode
  repeat' first
    | with_reducible first
      | exact Same.refl _ | assumption | refine (State.changeMirror_same hb ..).trans ?_
      | refine (State.withPair_same (hb.sub (by decide)) ..).trans ?_
      | refine (State.snapObj_same (hb.sub (by decide)) ..).trans ?_ | refine Same.ite ?_ ?_ | intro _
    | split
    | dsimp only

theorem State.setLine_same (hb : Blind π [.regs, .q, .fl]) (s : State) (q : Nat) (l : Option (Nat × Bool)) :
    Same π (State.setLine s q l) s := by
  unfold State.setLine
  repeat' first
    | with_reducible first
      | exact Same.refl _ | assumption | refine (State.setF_same (hb.sub (by decide)) ..).trans ?_
      | refine (State.withFl_same (hb.sub (by decide)) ..).trans ?_
      | refine (State.updQ_same (hb.sub (by decide)) ..).trans ?_ | refine Same.getD ?_ | refine Same.ite ?_ ?_
      | refine Same.ite_fst ?_ ?_ | intro _
    | split
    | dsimp only

theorem State.applyLine_same (hb : Blind π [.regs, .q, .fl, .arb, .pair, .lace, .out]) (s : State) (q : Nat) :
    Same π (State.applyLine s q) s := by
  unfold State.applyLine
  repeat' first
    | with_reducible first
      | exact Same.refl _ | assumption | refine (State.snapQ_same (hb.sub (by decide)) ..).trans ?_
      | refine (State.setLine_same (hb.sub (by decide)) ..).trans ?_ | intro _
    | split
    | dsimp only

theorem State.freeEngine_same (hb : Blind π [.regs, .ic, .arb, .err, .spr, .out]) (s : State) (e : Nat) :
    Same π (State.freeEngine s e) s := by
  unfold State.freeEngine
  repeat' first
    | with_reducible first
      | exact Same.refl _ | assumption | refine (State.noLeave_same (hb.sub (by decide)) ..).trans ?_
      | refine (State.setEng_same (hb.sub (by decide)) ..).trans ?_ | refine (State.spareIn_same hb ..).trans ?_
      | refine Same.ite ?_ ?_ | intro _
    | split
    | dsimp only

theorem State.endStitch_same (hb : Blind π
    (Part.but [.pending, .mr, .pd, .park, .tb, .adm, .pins, .memSize, .lastRead, .free])) (s : State) (q : Nat) (i : W32) (e : Nat) :
    Same π (State.endStitch s q i e) s := by
  unfold State.endStitch
  repeat' first
    | with_reducible first
      | exact Same.refl _ | assumption | refine (State.traceEv_same (hb.sub (by decide)) ..).trans ?_
      | refine (State.applyMode_same (hb.sub (by decide)) ..).trans ?_
      | refine (State.updFl_same (hb.sub (by decide)) ..).trans ?_ | refine (State.setF_same (hb.sub (by decide)) ..).trans ?_
      | refine (State.settle_same (hb.sub (by decide)) ..).trans ?_
      | refine (State.applyLine_same (hb.sub (by decide)) ..).trans ?_
      | refine (State.looseReads_same (hb.sub (by decide)) ..).trans ?_
      | refine (State.freeEngine_same (hb.sub (by decide)) ..).trans ?_
      | refine (State.dropChannels_same (hb.sub (by decide)) ..).trans ?_
      | refine (State.freeBursts_same (hb.sub (by decide)) ..).trans ?_
      | refine (State.updQ_same (hb.sub (by decide)) ..).trans ?_ | refine State.orWait_same ?_ ?_ | refine Same.ite ?_ ?_
      | intro _
    | split
    | dsimp only

theorem State.arbTick_same (hb : Blind π [.arb]) (s : State) : Same π (State.arbTick s) s := by
  unfold State.arbTick
  repeat' first
    | with_reducible first
      | exact Same.refl _ | assumption | refine (State.withArb_same hb ..).trans ?_ | refine Same.ite ?_ ?_
      | refine Same.ite_fst ?_ ?_ | intro _
    | split
    | dsimp only

theorem State.takeBurst_same (hb : Blind π [.regs, .lines]) (s : State) (l : Nat × Bool) : Same π (State.takeBurst s l) s := by
  unfold State.takeBurst
  repeat' first
    | with_reducible first
      | exact Same.refl _ | assumption | refine (State.updLine_same (hb.sub (by decide)) ..).trans ?_
      | refine (State.setF_same (hb.sub (by decide)) ..).trans ?_ | refine Same.ite ?_ ?_ | refine Same.ite_fst ?_ ?_
      | intro _
    | split
    | dsimp only

theorem State.letBursts_same (hb : Blind π [.regs, .fl, .lines]) (x0 : Nat) (s : State) (x2 : Nat) (x3 : W32) (x4 : Nat) :
    Same π (State.letBursts x0 s x2 x3 x4) s := by
  induction x0 generalizing s x2 x3 x4 with
  | zero => exact rfl
  | succ n ih =>
    unfold State.letBursts
    repeat' first
      | with_reducible first
        | exact Same.refl _ | assumption | refine (State.takeBurst_same (hb.sub (by decide)) ..).trans ?_
        | refine (State.updStitch_same (hb.sub (by decide)) ..).trans ?_ | refine (ih ..).trans ?_ | refine Same.ite ?_ ?_
        | refine Same.ite_fst ?_ ?_ | intro _
      | split
      | dsimp only

theorem State.ackBursts_same (hb : Blind π [.fl, .lines]) (s : State) (q : Nat) (i : W32) (e : Nat) :
    Same π (State.ackBursts s q i e) s := by
  unfold State.ackBursts
  repeat' first
    | with_reducible first
      | exact Same.refl _ | assumption | refine (State.updLine_same (hb.sub (by decide)) ..).trans ?_
      | refine (State.updStitch_same (hb.sub (by decide)) ..).trans ?_ | refine (Same.foldl _ _ _ ?_).trans ?_
      | refine (Same.foldl_fst _ _ _ ?_).trans ?_ | refine Same.ite ?_ ?_ | refine Same.ite_fst ?_ ?_ | intro _
    | split
    | dsimp only

theorem State.showPace_same (hb : Blind π [.regs, .arb, .trace, .pat, .mem]) (s : State) (q : Nat) (i : W32) (e : Nat) :
    Same π (State.showPace s q i e) s := by
  unfold State.showPace
  repeat' first
    | with_reducible first
      | exact Same.refl _ | assumption | refine (State.setEng_same (hb.sub (by decide)) ..).trans ?_
      | refine (State.dropChannels_same hb ..).trans ?_ | refine Same.ite ?_ ?_ | intro _
    | split
    | dsimp only

theorem State.issueRun_same (hb : Blind π [.fl, .arb, .out]) (s : State) (q : Nat) (i : W32) (eng a : Nat)
    (bytes : List Byte) (poison : Bool) (r : Run) :
    Same π (State.issueRun s q i eng a bytes poison r) s := by
  unfold State.issueRun
  repeat' first
    | with_reducible first
      | exact Same.refl _ | assumption | refine (State.updFl_same (hb.sub (by decide)) ..).trans ?_
      | refine (State.emit_same (hb.sub (by decide)) ..).trans ?_
      | refine (State.withArb_same (hb.sub (by decide)) ..).trans ?_ | refine Same.ite ?_ ?_ | intro _
    | split
    | dsimp only

theorem State.issueBytes_same (hb : Blind π [.fl, .arb, .out]) (s : State) (q : Nat) (i : W32) (f : Flight) (eng a : Nat)
    (bytes : List Byte) (poison : Bool) (x y : Nat) :
    Same π (State.issueBytes s q i f eng a bytes poison x y) s := by
  unfold State.issueBytes
  repeat' first
    | with_reducible first
      | exact Same.refl _ | assumption | refine (State.issueRun_same hb ..).trans ?_ | refine (Same.foldl _ _ _ ?_).trans ?_
      | intro _
    | split
    | dsimp only

theorem State.issueUnit_same (hb : Blind π (Part.but [.pending, .mr, .pd, .park, .tb, .memSize])) (s : State) (q : Nat)
    (i : W32) (e : Nat) (f : Flight) (x : Stitch) (b : Nat) :
    Same π (State.issueUnit s q i e f x b) s := by
  unfold State.issueUnit
  repeat' first
    | with_reducible first
      | exact Same.refl _ | assumption | refine (State.judgeOut_same (hb.sub (by decide)) ..).trans ?_
      | refine (State.updFl_same (hb.sub (by decide)) ..).trans ?_
      | refine (State.noteFail_same (hb.sub (by decide)) ..).trans ?_
      | refine (State.produce_same (hb.sub (by decide)) ..).trans ?_
      | refine (State.endEntry_same (hb.sub (by decide)) ..).trans ?_
      | refine (State.chargeFail_same (hb.sub (by decide)) ..).trans ?_
      | refine (State.issueBytes_same (hb.sub (by decide)) ..).trans ?_
      | refine (State.arbBusy_same (hb.sub (by decide)) ..).trans ?_
      | refine (State.updStitch_same (hb.sub (by decide)) ..).trans ?_
      | refine (State.countExc_same (hb.sub (by decide)) ..).trans ?_
      | refine (State.judgeIn_same (hb.sub (by decide)) ..).trans ?_ | refine Same.getD ?_ | refine Same.ite ?_ ?_
      | refine Same.ite_fst ?_ ?_ | intro _
    | split
    | dsimp only

theorem State.issueUnits_same (hb : Blind π (Part.but [.pending, .mr, .pd, .park, .tb, .memSize])) (x0 : Nat) (s : State)
    (x2 : Nat) (x3 : W32) (x4 : Nat) (x5 : Bool) :
    Same π (State.issueUnits x0 s x2 x3 x4 x5) s := by
  induction x0 generalizing s x2 x3 x4 x5 with
  | zero => exact rfl
  | succ n ih =>
    unfold State.issueUnits
    repeat' first
      | with_reducible first
        | exact Same.refl _ | assumption | refine (State.issueUnit_same hb ..).trans ?_ | refine (ih ..).trans ?_
        | refine Same.ite ?_ ?_ | intro _
      | split
      | dsimp only

theorem State.askGet_same (hb : Blind π [.fl, .arb, .out]) (s : State) (q : Nat) (i : W32) (e : Nat) :
    Same π (State.askGet s q i e) s := by
  unfold State.askGet
  repeat' first
    | with_reducible first
      | exact Same.refl _ | assumption | refine (State.arbBusy_same (hb.sub (by decide)) ..).trans ?_
      | refine (State.emit_same (hb.sub (by decide)) ..).trans ?_
      | refine (State.updStitch_same (hb.sub (by decide)) ..).trans ?_ | refine Same.getD ?_ | refine Same.ite ?_ ?_ | intro _
    | split
    | dsimp only

theorem State.issueReads_same (hb : Blind π [.fl, .arb]) (x0 : Nat) (s : State) (x2 : Nat) (x3 : W32) (x4 : Nat) :
    Same π (State.issueReads x0 s x2 x3 x4) s := by
  induction x0 generalizing s x2 x3 x4 with
  | zero => exact rfl
  | succ n ih =>
    unfold State.issueReads
    repeat' first
      | with_reducible first
        | exact Same.refl _ | assumption | refine (State.arbBusy_same (hb.sub (by decide)) ..).trans ?_
        | refine (State.updStitch_same (hb.sub (by decide)) ..).trans ?_ | refine (ih ..).trans ?_ | refine Same.ite ?_ ?_
        | refine Same.ite_fst ?_ ?_ | intro _
      | split
      | dsimp only

theorem State.goBy_same (hb : Blind π (Part.but [.pending, .mr, .pd, .park, .tb, .memSize])) (m : Nat) (s : State)
    (q : Nat) (i : W32) (e : Nat) :
    Same π (State.goBy m s q i e) s := by
  unfold State.goBy
  repeat' first
    | with_reducible first
      | exact Same.refl _ | assumption | refine (State.issueUnits_same hb ..).trans ?_
      | refine (State.ackBursts_same (hb.sub (by decide)) ..).trans ?_
      | refine (State.askGet_same (hb.sub (by decide)) ..).trans ?_
      | refine (State.issueReads_same (hb.sub (by decide)) ..).trans ?_
      | refine (State.showPace_same (hb.sub (by decide)) ..).trans ?_
      | refine (State.letBursts_same (hb.sub (by decide)) ..).trans ?_ | refine Same.ite ?_ ?_ | intro _
    | split
    | dsimp only

theorem State.goOn_same (hb : Blind π (Part.but [.pending, .mr, .pd, .park, .tb, .memSize])) (s : State) (q : Nat)
    (i : W32) (e : Nat) :
    Same π (State.goOn s q i e) s := by
  unfold State.goOn
  repeat' first
    | with_reducible first
      | exact Same.refl _ | assumption | refine (State.goBy_same hb ..).trans ?_ | intro _
    | split
    | dsimp only

theorem State.engineTurn_same (hb : Blind π (Part.but [.pending, .mr, .pd, .park, .tb, .memSize])) (s : State) (e : Nat) :
    Same π (State.engineTurn s e) s := by
  unfold State.engineTurn
  repeat' first
    | with_reducible first
      | exact Same.refl _ | assumption | refine (State.goBy_same hb ..).trans ?_
      | refine (State.issueUnits_same hb ..).trans ?_ | refine (State.ackBursts_same (hb.sub (by decide)) ..).trans ?_
      | refine (State.showPace_same (hb.sub (by decide)) ..).trans ?_ | refine Same.ite ?_ ?_ | intro _
    | split
    | dsimp only

theorem State.turns_same (hb : Blind π (Part.but [.pending, .mr, .pd, .park, .tb, .memSize])) (x0 : Nat) (s : State)
    (x2 : Nat) :
    Same π (State.turns x0 s x2) s := by
  induction x0 generalizing s x2 with
  | zero => exact rfl
  | succ n ih =>
    unfold State.turns
    repeat' first
      | with_reducible first
        | exact Same.refl _ | assumption | refine (State.engineTurn_same hb ..).trans ?_
        | refine (State.withArb_same (hb.sub (by decide)) ..).trans ?_ | refine (ih ..).trans ?_ | intro _
      | split
      | dsimp only

theorem State.engineGo_same (hb : Blind π (Part.but [.pending, .mr, .pd, .park, .tb, .memSize])) (s : State) (e : Nat) :
    Same π (State.engineGo s e) s := by
  unfold State.engineGo
  repeat' first
    | with_reducible first
      | exact Same.refl _ | assumption | refine (State.goBy_same hb ..).trans ?_
      | refine (State.issueUnits_same hb ..).trans ?_ | refine (State.turns_same hb ..).trans ?_
      | refine (Same.foldl _ _ _ ?_).trans ?_ | intro _
    | split
    | dsimp only

theorem State.stageBytes_same (hb : Blind π [.fl]) (s : State) (q : Nat) (i : W32) (e k : Nat) (f : Flight) (l : List SByte) :
    Same π (State.stageBytes s q i e k f l) s := by
  unfold State.stageBytes
  repeat' first
    | with_reducible first
      | exact Same.refl _ | assumption | refine (State.updStitch_same hb ..).trans ?_ | intro _
    | split
    | dsimp only

theorem State.stageRead_same (hb : Blind π [.regs, .fl]) (s : State) (q : Nat) (i : W32) (e k : Nat) (ans : ReadAns) :
    Same π (State.stageRead s q i e k ans) s := by
  unfold State.stageRead
  repeat' first
    | with_reducible first
      | exact Same.refl _ | assumption | refine (State.endEntry_same (hb.sub (by decide)) ..).trans ?_
      | refine (State.stageBytes_same (hb.sub (by decide)) ..).trans ?_
      | refine (State.updStitch_same (hb.sub (by decide)) ..).trans ?_
      | refine (State.answer_same (hb.sub (by decide)) ..).trans ?_ | refine (State.sat_same (hb.sub (by decide)) ..).trans ?_
      | refine Same.getD ?_ | refine Same.ite ?_ ?_ | refine Same.ite_fst ?_ ?_ | intro _
    | split
    | dsimp only

theorem State.goneRead_same (hb : Blind π [.regs, .arb]) (s : State) (x : GoneRead) (ans : ReadAns) :
    Same π (State.goneRead s x ans) s := by
  unfold State.goneRead
  repeat' first
    | with_reducible first
      | exact Same.refl _ | assumption | refine (State.withArb_same (hb.sub (by decide)) ..).trans ?_
      | refine (State.answer_same (hb.sub (by decide)) ..).trans ?_ | intro _
    | split
    | dsimp only


end Sys2Proof.Machine
end

