-- ==== Sys2Proof/Laws/FrameQueue.lean ====
section
/-!
SUPPORT. Frames of scheduling, completion records, arrivals, doorbells, fetching, the pair and the admin executor: each lemma `X_same` says which parts of the state `X` can
change, and that everything which does not look at them stays.
-/
namespace Sys2Proof.Machine

variable {β : Type} {π : State → β}

/-! ## Module Streams -/

theorem State.lineUp_same (hb : Blind π [.adm]) (s : State) : Same π (State.lineUp s) s := by
  unfold State.lineUp
  repeat' first
    | with_reducible first
      | exact Same.refl _ | assumption | refine (State.withAdm_same hb ..).trans ?_ | intro _
    | split
    | dsimp only

theorem State.lineEnd_same (hb : Blind π [.adm]) (s : State) (n : Nat) : Same π (State.lineEnd s n) s := by
  unfold State.lineEnd
  repeat' first
    | with_reducible first
      | exact Same.refl _ | assumption | refine (State.withAdm_same hb ..).trans ?_ | intro _
    | split
    | dsimp only


/-! ## Module Sched -/

theorem State.beginEntry_same (hb : Blind π [.fl, .arb, .pair, .lace, .out]) (s : State) (q : Nat) (i : W32) :
    Same π (State.beginEntry s q i).1 s := by
  unfold State.beginEntry
  repeat' first
    | with_reducible first
      | exact Same.refl _ | assumption | refine (State.updFl_same (hb.sub (by decide)) ..).trans ?_
      | refine (State.mirrorRec_same (hb.sub (by decide)) ..).trans ?_ | refine Same.ite ?_ ?_ | refine Same.ite_fst ?_ ?_
      | intro _
    | split
    | dsimp only

theorem State.openStitch_same (hb : Blind π (Part.but [.pending, .mr, .pd, .tb, .memSize])) (s : State) (q : Nat)
    (i : W32) (e : Nat) :
    Same π (State.openStitch s q i e) s := by
  unfold State.openStitch
  repeat' first
    | with_reducible first
      | exact Same.refl _ | assumption | refine (State.malformed_same (hb.sub (by decide)) ..).trans ?_
      | refine (State.endEntry_same (hb.sub (by decide)) ..).trans ?_
      | refine (State.goOn_same (hb.sub (by decide)) ..).trans ?_
      | refine (State.endStitch_same (hb.sub (by decide)) ..).trans ?_
      | refine (State.updStitch_same (hb.sub (by decide)) ..).trans ?_ | refine Same.ite ?_ ?_ | intro _
    | split
    | dsimp only

theorem State.bindUnit_same (hb : Blind π (Part.but [.pending, .mr, .pd, .tb, .memSize])) (s : State) (q : Nat) (i : W32)
    (e : Nat) :
    Same π (State.bindUnit s q i e) s := by
  unfold State.bindUnit
  repeat' first
    | with_reducible first
      | exact Same.refl _ | assumption | refine (State.traceEv_same (hb.sub (by decide)) ..).trans ?_
      | refine (State.updFl_same (hb.sub (by decide)) ..).trans ?_ | refine (State.setF_same (hb.sub (by decide)) ..).trans ?_
      | refine (State.openStitch_same hb ..).trans ?_ | refine (State.setEng_same (hb.sub (by decide)) ..).trans ?_
      | refine (State.withArb_same (hb.sub (by decide)) ..).trans ?_ | refine Same.ite ?_ ?_ | intro _
    | split
    | dsimp only

theorem State.bindEntry_same (hb : Blind π (Part.but [.pending, .mr, .pd, .tb, .memSize])) (s : State) (q : Nat) (i : W32)
    (e : Nat) :
    Same π (State.bindEntry s q i e) s := by
  unfold State.bindEntry
  repeat' first
    | with_reducible first
      | exact Same.refl _ | assumption | refine (State.endEntry_same (hb.sub (by decide)) ..).trans ?_
      | refine (State.bindUnit_same hb ..).trans ?_ | refine (State.settle_same (hb.sub (by decide)) ..).trans ?_
      | refine (State.beginEntry_same (hb.sub (by decide)) ..).trans ?_
      | refine (State.demand_same (hb.sub (by decide)) ..).trans ?_ | refine Same.ite ?_ ?_ | refine Same.ite_fst ?_ ?_
      | intro _
    | split
    | dsimp only

theorem State.takeNow_same (hb : Blind π
    (Part.but [.pending, .mr, .pd, .park, .tb, .adm, .spr, .pins, .memSize, .lastRead, .free])) (s : State) (q : Nat) (i : W32) :
    Same π (State.takeNow s q i) s := by
  unfold State.takeNow
  repeat' first
    | with_reducible first
      | exact Same.refl _ | assumption | refine (State.updFl_same (hb.sub (by decide)) ..).trans ?_
      | refine (State.settle_same hb ..).trans ?_ | refine (State.addCtr_same (hb.sub (by decide)) ..).trans ?_
      | refine (State.beginEntry_same (hb.sub (by decide)) ..).trans ?_
      | refine (State.demand_same (hb.sub (by decide)) ..).trans ?_
      | refine (State.emit_same (hb.sub (by decide)) ..).trans ?_
      | refine (State.tryComplete_same (hb.sub (by decide)) ..).trans ?_ | refine Same.ite ?_ ?_ | refine Same.ite_fst ?_ ?_
      | intro _
    | split
    | dsimp only

theorem State.takeUp_same (hb : Blind π
    (Part.but [.pending, .mr, .pd, .park, .tb, .adm, .spr, .pins, .memSize, .lastRead, .free])) (s : State) (q : Nat) (i : W32) :
    Same π (State.takeUp s q i) s := by
  unfold State.takeUp
  repeat' first
    | with_reducible first
      | exact Same.refl _ | assumption | refine (State.takeNow_same hb ..).trans ?_ | refine State.orWait_same ?_ ?_
      | refine Same.ite ?_ ?_ | intro _
    | split
    | dsimp only


/-! ## Module Completion -/

theorem State.writeRecs_same (hb : Blind π [.regs, .ic, .err, .mem, .out, .free]) (s : State) (x : CqCtx) (l : List
    (W32 × Held)) :
    Same π (State.writeRecs s x l) s := by
  unfold State.writeRecs
  repeat' first
    | with_reducible first
      | exact Same.refl _ | assumption | refine (State.writeBytes_same (hb.sub (by decide)) ..).trans ?_
      | refine (State.ctlHops_same (hb.sub (by decide)) ..).trans ?_ | refine (Same.foldl _ _ _ ?_).trans ?_
      | refine (Same.foldl_fst _ _ _ ?_).trans ?_ | intro _
    | split
    | dsimp only

theorem State.writeBack_same (hb : Blind π [.regs, .cqs, .ic, .err, .out, .free]) (s : State) (c : Nat) (x : CqCtx)
    (last : W32 × Held) :
    Same π (State.writeBack s c x last) s := by
  unfold State.writeBack
  repeat' first
    | with_reducible first
      | exact Same.refl _ | assumption | refine (State.withCqs_same (hb.sub (by decide)) ..).trans ?_
      | refine (State.ctlHops_same (hb.sub (by decide)) ..).trans ?_ | intro _
    | split
    | dsimp only

theorem State.landBack_same
    (hb : Blind π [.regs, .q, .cq, .fl, .cqs, .ic, .arb, .trace, .pat, .pair, .lace, .err, .mem, .out]) (s : State) (c : Nat) :
    Same π (State.landBack s c) s := by
  unfold State.landBack
  repeat' first
    | with_reducible first
      | exact Same.refl _ | assumption | refine (State.withCqs_same (hb.sub (by decide)) ..).trans ?_
      | refine (State.writeBytes_same (hb.sub (by decide)) ..).trans ?_
      | refine (State.cnt_same (hb.sub (by decide)) ..).trans ?_ | refine (State.breakRing_same hb ..).trans ?_
      | refine Same.ite ?_ ?_ | refine Same.ite_fst ?_ ?_ | intro _
    | split
    | dsimp only

theorem State.landBacks_same
    (hb : Blind π [.regs, .q, .cq, .fl, .cqs, .ic, .arb, .trace, .pat, .pair, .lace, .err, .mem, .out]) (s : State) :
    Same π (State.landBacks s) s := by
  unfold State.landBacks
  repeat' first
    | with_reducible first
      | exact Same.refl _ | assumption | refine (State.landBack_same hb ..).trans ?_ | refine (Same.forEach _ _ _ ?_).trans ?_
      | intro _
    | split
    | dsimp only

theorem State.batchNow_same (hb : Blind π [.regs, .q, .cq, .fl, .cqs, .ic, .arb, .pair, .lace, .err, .out, .free])
    (s : State) (c : Nat) (l : List (W32 × Held)) (last : W32 × Held) :
    Same π (State.batchNow s c l last) s := by
  unfold State.batchNow
  repeat' first
    | with_reducible first
      | exact Same.refl _ | assumption | refine (State.writeBack_same (hb.sub (by decide)) ..).trans ?_
      | refine (State.mirrorDelta_same (hb.sub (by decide)) ..).trans ?_
      | refine (State.release_same (hb.sub (by decide)) ..).trans ?_
      | refine (State.coalesce_same (hb.sub (by decide)) ..).trans ?_ | refine (Same.forEach _ _ _ ?_).trans ?_
      | refine Same.ite ?_ ?_ | refine Same.ite_fst ?_ ?_ | intro _
    | split
    | dsimp only

theorem State.batchDone_same (hb : Blind π [.regs, .q, .cq, .fl, .cqs, .ic, .arb, .pair, .lace, .err, .out, .free])
    (s : State) (c : Nat) (l : List (W32 × Held)) (last : W32 × Held) :
    Same π (State.batchDone s c l last) s := by
  unfold State.batchDone
  repeat' first
    | with_reducible first
      | exact Same.refl _ | assumption | refine (State.withPair_same (hb.sub (by decide)) ..).trans ?_
      | refine (State.batchNow_same hb ..).trans ?_ | refine Same.ite ?_ ?_ | intro _
    | split
    | dsimp only

theorem State.ackRecs_same
    (hb : Blind π [.regs, .q, .cq, .fl, .cqs, .ic, .arb, .trace, .pat, .pair, .lace, .err, .mem, .out, .free]) (s : State) (c : Nat) :
    Same π (State.ackRecs s c) s := by
  unfold State.ackRecs
  repeat' first
    | with_reducible first
      | exact Same.refl _ | assumption | refine (State.batchDone_same (hb.sub (by decide)) ..).trans ?_
      | refine (State.landBack_same (hb.sub (by decide)) ..).trans ?_
      | refine (State.withCqs_same (hb.sub (by decide)) ..).trans ?_
      | refine (State.cnt_same (hb.sub (by decide)) ..).trans ?_
      | refine (State.arbBusy_same (hb.sub (by decide)) ..).trans ?_
      | refine (State.writeRecs_same (hb.sub (by decide)) ..).trans ?_
      | refine (State.breakRing_same (hb.sub (by decide)) ..).trans ?_ | refine Same.ite ?_ ?_ | refine Same.ite_fst ?_ ?_
      | intro _
    | split
    | dsimp only

theorem State.settleRing_same
    (hb : Blind π [.regs, .q, .cq, .fl, .cqs, .ic, .arb, .trace, .pat, .pair, .lace, .err, .mem, .out, .free]) (x0 : Nat) (s : State) (x2 : Nat) :
    Same π (State.settleRing x0 s x2) s := by
  induction x0 generalizing s x2 with
  | zero => 
    unfold State.settleRing
    repeat' first
      | with_reducible first
        | exact Same.refl _ | assumption | refine (State.ackRecs_same hb ..).trans ?_
        | refine (State.landBack_same (hb.sub (by decide)) ..).trans ?_ | refine Same.ite ?_ ?_ | intro _
      | split
      | dsimp only
  | succ n ih =>
    unfold State.settleRing
    repeat' first
      | with_reducible first
        | exact Same.refl _ | assumption | refine (State.ackRecs_same hb ..).trans ?_
        | refine (State.landBack_same (hb.sub (by decide)) ..).trans ?_ | refine (ih ..).trans ?_ | refine Same.ite ?_ ?_
        | intro _
      | split
      | dsimp only

theorem execRecordWriteAck_same
    (hb : Blind π [.regs, .q, .cq, .fl, .cqs, .ic, .arb, .trace, .pat, .pair, .lace, .err, .mem, .out, .free]) (c : Nat) (s : State) :
    SameR π (execRecordWriteAck c s) s := by
  unfold execRecordWriteAck
  repeat' first
    | with_reducible first
      | refine SameR.guarded ?_ ?_ | refine SameR.next ?_ | refine SameR.ite ?_ ?_ | exact Same.refl _ | assumption
      | refine (State.ackRecs_same hb ..).trans ?_ | intro _
    | split
    | dsimp only

theorem execRingBroken_same
    (hb : Blind π [.regs, .q, .cq, .fl, .cqs, .ic, .arb, .trace, .pat, .pair, .lace, .err, .mem, .out]) (c : Nat) (mem : Bool) (s : State) :
    SameR π (execRingBroken c mem s) s := by
  unfold execRingBroken
  repeat' first
    | with_reducible first
      | refine SameR.guarded ?_ ?_ | refine SameR.next ?_ | refine SameR.ite ?_ ?_ | exact Same.refl _ | assumption
      | refine (State.cnt_same (hb.sub (by decide)) ..).trans ?_ | refine (State.breakRing_same hb ..).trans ?_
      | refine Same.ite ?_ ?_ | refine Same.ite_fst ?_ ?_ | intro _
    | split
    | dsimp only

theorem execCqCoalTimer_same (hb : Blind π [.regs, .cq, .ic, .out]) (c : Nat) (s : State) :
    SameR π (execCqCoalTimer c s) s := by
  unfold execCqCoalTimer
  repeat' first
    | with_reducible first
      | refine SameR.guarded ?_ ?_ | refine SameR.next ?_ | refine SameR.ite ?_ ?_ | exact Same.refl _ | assumption
      | refine (State.setC_same (hb.sub (by decide)) ..).trans ?_
      | refine (State.raiseVia_same (hb.sub (by decide)) ..).trans ?_ | intro _
    | split
    | dsimp only


/-! ## Module Arrive -/

theorem State.arrivalBad_same (hb : Blind π [.regs, .ic, .out]) (s : State) (w : W64) (cause : Nat) :
    Same π (State.arrivalBad s w cause) s := by
  unfold State.arrivalBad
  repeat' first
    | with_reducible first
      | exact Same.refl _ | assumption | refine (State.raise_same hb ..).trans ?_
      | refine (State.setF_same (hb.sub (by decide)) ..).trans ?_ | refine (State.cnt_same (hb.sub (by decide)) ..).trans ?_
      | intro _
    | split
    | dsimp only

theorem State.arriveNow_same (hb : Blind π [.regs, .ctr, .ic, .arb, .pair, .lace, .out]) (s : State) (w : W64) (t : W64) :
    Same π (State.arriveNow s w t) s := by
  unfold State.arriveNow
  repeat' first
    | with_reducible first
      | exact Same.refl _ | assumption | refine (State.setCtr_same (hb.sub (by decide)) ..).trans ?_
      | refine (State.mirrorCtrAt_same (hb.sub (by decide)) ..).trans ?_
      | refine (State.arrivalBad_same (hb.sub (by decide)) ..).trans ?_ | refine Same.ite ?_ ?_ | intro _
    | split
    | dsimp only

theorem State.applyArrival_same (hb : Blind π [.regs, .ctr, .ic, .arb, .pair, .lace, .out]) (s : State) (w : W64) (t : W64) :
    Same π (State.applyArrival s w t) s := by
  unfold State.applyArrival
  repeat' first
    | with_reducible first
      | exact Same.refl _ | assumption | refine (State.withPair_same (hb.sub (by decide)) ..).trans ?_
      | refine (State.arriveNow_same hb ..).trans ?_ | refine Same.ite ?_ ?_ | intro _
    | split
    | dsimp only

theorem State.applyTrigRead_same (hb : Blind π [.lastRead]) (s : State) (ofs size : Nat) :
    Same π (State.applyTrigRead s ofs size) s := by
  unfold State.applyTrigRead
  repeat' first
    | with_reducible first
      | exact Same.refl _ | assumption | refine (State.ret_same hb ..).trans ?_ | intro _
    | split
    | dsimp only


/-! ## Module Doorbell -/

theorem State.stray_same (hb : Blind π [.regs, .ic, .out]) (s : State) (q cause : Nat) : Same π (State.stray s q cause) s := by
  unfold State.stray
  repeat' first
    | with_reducible first
      | exact Same.refl _ | assumption | refine (State.raise_same hb ..).trans ?_
      | refine (State.setF_same (hb.sub (by decide)) ..).trans ?_ | refine (State.cnt_same (hb.sub (by decide)) ..).trans ?_
      | intro _
    | split
    | dsimp only

theorem State.applyPi_same (hb : Blind π [.q]) (s : State) (q : Nat) (v : W32) : Same π (State.applyPi s q v) s := by
  unfold State.applyPi
  repeat' first
    | with_reducible first
      | exact Same.refl _ | assumption | refine (State.updQ_same hb ..).trans ?_ | intro _
    | split
    | dsimp only

theorem State.acceptSnap_same (hb : Blind π [.q, .arb, .pair, .lace, .out]) (s : State) (q : Nat) (v : W32) (t : W64) :
    Same π (State.acceptSnap s q v t) s := by
  unfold State.acceptSnap
  repeat' first
    | with_reducible first
      | exact Same.refl _ | assumption | refine (State.mirrorDeltaAt_same (hb.sub (by decide)) ..).trans ?_
      | refine (State.setQ_same (hb.sub (by decide)) ..).trans ?_ | refine Same.ite ?_ ?_ | intro _
    | split
    | dsimp only

theorem State.snapOrWait_same (hb : Blind π [.q, .arb, .pair, .lace, .out]) (s : State) (q : Nat) (v : W32) (t : W64) :
    Same π (State.snapOrWait s q v t) s := by
  unfold State.snapOrWait
  repeat' first
    | with_reducible first
      | exact Same.refl _ | assumption | refine (State.withPair_same (hb.sub (by decide)) ..).trans ?_
      | refine (State.acceptSnap_same hb ..).trans ?_ | refine Same.ite ?_ ?_ | refine Same.ite_fst ?_ ?_ | intro _
    | split
    | dsimp only

theorem State.applyRing_same (hb : Blind π (Part.but [.pending, .mr, .pd, .tb, .memSize, .lastRead, .free])) (s : State)
    (q : Nat) (t : W64) :
    Same π (State.applyRing s q t) s := by
  unfold State.applyRing
  repeat' first
    | with_reducible first
      | exact Same.refl _ | assumption | refine (State.malformed_same hb ..).trans ?_
      | refine (State.snapOrWait_same (hb.sub (by decide)) ..).trans ?_
      | refine (State.updQ_same (hb.sub (by decide)) ..).trans ?_ | refine Same.ite ?_ ?_ | intro _
    | split
    | dsimp only

theorem State.readCi_same (hb : Blind π [.regs, .ic, .out, .lastRead, .free]) (s : State) (q size : Nat) :
    Same π (State.readCi s q size) s := by
  unfold State.readCi
  repeat' first
    | with_reducible first
      | exact Same.refl _ | assumption | refine (State.ret_same (hb.sub (by decide)) ..).trans ?_
      | refine (State.withFree_same (hb.sub (by decide)) ..).trans ?_
      | refine (State.stray_same (hb.sub (by decide)) ..).trans ?_ | refine Same.ite ?_ ?_ | intro _
    | split
    | dsimp only

theorem State.applyIntake_same (hb : Blind π (Part.but [.pending, .mr, .pd, .tb, .memSize])) (s : State) (c : Instr) (t : W64) :
    Same π (State.applyIntake s c t) s := by
  unfold State.applyIntake
  repeat' first
    | with_reducible first
      | exact Same.refl _ | assumption | refine (State.readCi_same (hb.sub (by decide)) ..).trans ?_
      | refine (State.applyPi_same (hb.sub (by decide)) ..).trans ?_
      | refine (State.applyTrigRead_same (hb.sub (by decide)) ..).trans ?_
      | refine (State.applyRing_same (hb.sub (by decide)) ..).trans ?_
      | refine (State.applyArrival_same (hb.sub (by decide)) ..).trans ?_
      | refine (State.stray_same (hb.sub (by decide)) ..).trans ?_
      | refine (State.touch_same (hb.sub (by decide)) ..).trans ?_
      | refine (State.judgeCi_same (hb.sub (by decide)) ..).trans ?_ | refine (Same.foldl _ _ _ ?_).trans ?_
      | refine (Same.foldl_fst _ _ _ ?_).trans ?_ | refine Same.ite ?_ ?_ | refine Same.ite_fst ?_ ?_ | intro _
    | split
    | dsimp only

theorem State.countLookup_same (hb : Blind π [.regs]) (s : State) (c : Instr) : Same π (State.countLookup s c) s := by
  unfold State.countLookup
  repeat' first
    | with_reducible first
      | exact Same.refl _ | assumption | refine (State.countCtx_same hb ..).trans ?_ | refine Same.ite ?_ ?_ | intro _
    | split
    | dsimp only

theorem State.intakeAt_same (hb : Blind π (Part.but [.pending, .mr, .pd, .tb, .memSize])) (s : State) (c : Instr) (t : W64) :
    Same π (State.intakeAt s c t) s := by
  unfold State.intakeAt
  repeat' first
    | with_reducible first
      | exact Same.refl _ | assumption | refine (State.withCache_same (hb.sub (by decide)) ..).trans ?_
      | refine (State.countLookup_same (hb.sub (by decide)) ..).trans ?_ | refine (State.applyIntake_same hb ..).trans ?_
      | refine (State.stray_same (hb.sub (by decide)) ..).trans ?_ | refine Same.getD ?_ | refine Same.ite ?_ ?_ | intro _
    | split
    | dsimp only

theorem State.intake_same (hb : Blind π (Part.but [.pending, .mr, .pd, .tb, .memSize])) (s : State) (c : Instr) :
    Same π (State.intake s c) s := by
  unfold State.intake
  repeat' first
    | with_reducible first
      | exact Same.refl _ | assumption | refine (State.intakeAt_same hb ..).trans ?_ | intro _
    | split
    | dsimp only

theorem State.arrivalIn_same (hb : Blind π (Part.but [.pending, .mr, .pd, .tb, .memSize])) (s : State) (w : W64) :
    Same π (State.arrivalIn s w) s := by
  unfold State.arrivalIn
  repeat' first
    | with_reducible first
      | exact Same.refl _ | assumption | refine (State.intakeAt_same hb ..).trans ?_ | refine Same.ite ?_ ?_ | intro _
    | split
    | dsimp only

theorem State.readTrig_same (hb : Blind π (Part.but [.pending, .mr, .pd, .tb, .memSize])) (s : State) (c : Instr) :
    Same π (State.readTrig s c) s := by
  unfold State.readTrig
  repeat' first
    | with_reducible first
      | exact Same.refl _ | assumption | refine (State.ret_same (hb.sub (by decide)) ..).trans ?_
      | refine (State.intake_same hb ..).trans ?_ | refine Same.ite ?_ ?_ | intro _
    | split
    | dsimp only

theorem State.accept_same (hb : Blind π (Part.but [.pending, .mr, .pd, .tb, .memSize])) (s : State) (p : Nat)
    (parityOk : Bool) (c : Instr) :
    Same π (State.accept s p parityOk c) s := by
  unfold State.accept
  repeat' first
    | with_reducible first
      | exact Same.refl _ | assumption | refine (State.cnt_same (hb.sub (by decide)) ..).trans ?_
      | refine (State.stray_same (hb.sub (by decide)) ..).trans ?_
      | refine (State.raise_same (hb.sub (by decide)) ..).trans ?_ | refine (State.peak_same (hb.sub (by decide)) ..).trans ?_
      | refine (State.intake_same hb ..).trans ?_ | refine Same.ite ?_ ?_ | intro _
    | split
    | dsimp only

theorem State.aperture_same (hb : Blind π (Part.but [.pending, .mr, .pd, .tb, .memSize])) (s : State) (p : Nat)
    (parityOk : Bool) (c : Instr) :
    Same π (State.aperture s p parityOk c) s := by
  unfold State.aperture
  repeat' first
    | with_reducible first
      | exact Same.refl _ | assumption | refine (State.withCache_same (hb.sub (by decide)) ..).trans ?_
      | refine (State.accept_same hb ..).trans ?_ | refine Same.ite ?_ ?_ | intro _
    | split
    | dsimp only

theorem State.takeBack_same (hb : Blind π (Part.but [.pending, .mr, .pd, .tb, .memSize])) (x0 : Nat) (s : State) :
    Same π (State.takeBack x0 s) s := by
  induction x0 generalizing s with
  | zero => exact rfl
  | succ n ih =>
    unfold State.takeBack
    repeat' first
      | with_reducible first
        | exact Same.refl _ | assumption | refine (State.withCache_same (hb.sub (by decide)) ..).trans ?_
        | refine (State.accept_same hb ..).trans ?_ | refine (ih ..).trans ?_ | intro _
      | split
      | dsimp only

theorem execPiWrite_same (hb : Blind π (Part.but [.pending, .mr, .pd, .tb, .memSize])) (p : Fin 2) (q : BitVec 21)
    (pi : W32) (parityOk : Bool) (s : State) :
    SameR π (execPiWrite p q pi parityOk s) s := by
  unfold execPiWrite
  repeat' first
    | with_reducible first
      | refine SameR.guarded ?_ ?_ | refine SameR.next ?_ | refine SameR.ite ?_ ?_ | exact Same.refl _ | assumption
      | refine (State.aperture_same hb ..).trans ?_ | intro _
    | split
    | dsimp only

theorem execRing_same (hb : Blind π (Part.but [.pending, .mr, .pd, .tb, .memSize])) (p : Fin 2) (q : BitVec 21)
    (parityOk : Bool) (s : State) :
    SameR π (execRing p q parityOk s) s := by
  unfold execRing
  repeat' first
    | with_reducible first
      | refine SameR.guarded ?_ ?_ | refine SameR.next ?_ | refine SameR.ite ?_ ?_ | exact Same.refl _ | assumption
      | refine (State.aperture_same hb ..).trans ?_ | intro _
    | split
    | dsimp only

theorem execPiAndRing_same (hb : Blind π (Part.but [.pending, .mr, .pd, .tb, .memSize])) (p : Fin 2) (q : BitVec 21)
    (size : Nat) (pi : W32) (parityOk : Bool) (s : State) :
    SameR π (execPiAndRing p q size pi parityOk s) s := by
  unfold execPiAndRing
  repeat' first
    | with_reducible first
      | refine SameR.guarded ?_ ?_ | refine SameR.next ?_ | refine SameR.ite ?_ ?_ | exact Same.refl _ | assumption
      | refine (State.aperture_same hb ..).trans ?_ | intro _
    | split
    | dsimp only

theorem execCqCiWrite_same (hb : Blind π (Part.but [.pending, .mr, .pd, .tb, .memSize])) (p : Fin 2) (q : BitVec 21)
    (v : W32) (parityOk : Bool) (s : State) :
    SameR π (execCqCiWrite p q v parityOk s) s := by
  unfold execCqCiWrite
  repeat' first
    | with_reducible first
      | refine SameR.guarded ?_ ?_ | refine SameR.next ?_ | refine SameR.ite ?_ ?_ | exact Same.refl _ | assumption
      | refine (State.aperture_same hb ..).trans ?_ | intro _
    | split
    | dsimp only

theorem execApertureMisformedAccess_same (hb : Blind π (Part.but [.pending, .mr, .pd, .tb, .memSize])) (p : Fin 2)
    (q : BitVec 21) (write : ApAccess) (ofs size : Nat) (s : State) :
    SameR π (execApertureMisformedAccess p q write ofs size s) s := by
  unfold execApertureMisformedAccess
  repeat' first
    | with_reducible first
      | refine SameR.guarded ?_ ?_ | refine SameR.next ?_ | refine SameR.ite ?_ ?_ | exact Same.refl _ | assumption
      | refine (State.readCi_same (hb.sub (by decide)) ..).trans ?_ | refine (State.ret_same (hb.sub (by decide)) ..).trans ?_
      | refine (State.beginRead_same (hb.sub (by decide)) ..).trans ?_ | refine (State.aperture_same hb ..).trans ?_
      | refine (State.intake_same hb ..).trans ?_ | refine Same.ite ?_ ?_ | refine Same.ite_fst ?_ ?_ | intro _
    | split
    | dsimp only


/-! ## Module Fetch -/

theorem State.decodeOne_same (hb : Blind π (Part.but [.pending, .mr, .pd, .tb, .memSize, .lastRead, .free])) (s : State)
    (q : Nat) (i : W32) :
    Same π (State.decodeOne s q i) s := by
  unfold State.decodeOne
  repeat' first
    | with_reducible first
      | exact Same.refl _ | assumption | refine (State.updFl_same (hb.sub (by decide)) ..).trans ?_
      | refine (State.malformed_same hb ..).trans ?_ | refine (State.parkOrWait_same (hb.sub (by decide)) ..).trans ?_
      | refine Same.ite ?_ ?_ | intro _
    | split
    | dsimp only

theorem State.decodeRun_same (hb : Blind π (Part.but [.pending, .mr, .pd, .tb, .memSize, .lastRead, .free])) (x0 : Nat)
    (s : State) (x2 : Nat) :
    Same π (State.decodeRun x0 s x2) s := by
  induction x0 generalizing s x2 with
  | zero => exact rfl
  | succ n ih =>
    unfold State.decodeRun
    repeat' first
      | with_reducible first
        | exact Same.refl _ | assumption | refine (State.decodeOne_same hb ..).trans ?_ | refine (ih ..).trans ?_
        | refine Same.ite ?_ ?_ | intro _
      | split
      | dsimp only

theorem State.decodeTick_same (hb : Blind π (Part.but [.pending, .mr, .pd, .tb, .memSize, .lastRead, .free])) (s : State) :
    Same π (State.decodeTick s) s := by
  unfold State.decodeTick
  repeat' first
    | with_reducible first
      | exact Same.refl _ | assumption | refine (State.decodeRun_same hb ..).trans ?_
      | refine (Same.forEach _ _ _ ?_).trans ?_ | intro _
    | split
    | dsimp only

theorem State.acceptMtOf_same (hb : Blind π [.free]) (s : State) (q : Nat) (i : W32) : Same π (State.acceptMtOf s q i).1 s := by
  unfold State.acceptMtOf
  repeat' first
    | with_reducible first
      | exact Same.refl _ | assumption | refine (State.withFree_same hb ..).trans ?_ | intro _
    | split
    | dsimp only

theorem State.takeEntry_same (hb : Blind π [.q, .cq, .fl, .free]) (s : State) (q : Nat) (raw : List Byte) :
    Same π (State.takeEntry s q raw) s := by
  unfold State.takeEntry
  repeat' first
    | with_reducible first
      | exact Same.refl _ | assumption | refine (State.adoptRing_same (hb.sub (by decide)) ..).trans ?_
      | refine (State.acceptMtOf_same (hb.sub (by decide)) ..).trans ?_
      | refine (State.withFl_same (hb.sub (by decide)) ..).trans ?_
      | refine (State.updQ_same (hb.sub (by decide)) ..).trans ?_ | refine Same.ite ?_ ?_ | refine Same.ite_fst ?_ ?_
      | intro _
    | split
    | dsimp only

theorem State.takeAdmin_same (hb : Blind π (Part.but [.pending, .mr, .pd, .tb, .memSize, .lastRead])) (s : State)
    (raw : List Byte) :
    Same π (State.takeAdmin s raw) s := by
  unfold State.takeAdmin
  repeat' first
    | with_reducible first
      | exact Same.refl _ | assumption | refine (State.malformed_same (hb.sub (by decide)) ..).trans ?_
      | refine (State.lineUp_same (hb.sub (by decide)) ..).trans ?_
      | refine (State.acceptMtOf_same (hb.sub (by decide)) ..).trans ?_
      | refine (State.withAdm_same (hb.sub (by decide)) ..).trans ?_
      | refine (State.updQ_same (hb.sub (by decide)) ..).trans ?_ | intro _
    | split
    | dsimp only

theorem State.takeAll_same (hb : Blind π (Part.but [.pending, .mr, .pd, .tb, .memSize, .lastRead])) (s : State) (q : Nat)
    (x0 : List (List Byte)) :
    Same π (State.takeAll s q x0) s := by
  induction x0 generalizing s q with
  | nil => exact rfl
  | cons a r ih =>
    unfold State.takeAll
    repeat' first
      | with_reducible first
        | exact Same.refl _ | assumption | refine (State.takeAdmin_same hb ..).trans ?_
        | refine (State.takeEntry_same (hb.sub (by decide)) ..).trans ?_ | refine (ih ..).trans ?_ | refine Same.ite ?_ ?_
        | intro _
      | split
      | dsimp only

theorem State.fetchFail_same (hb : Blind π (Part.but [.pending, .mr, .pd, .tb, .memSize, .lastRead, .free])) (s : State)
    (q : Nat) (f : PortFail) :
    Same π (State.fetchFail s q f) s := by
  unfold State.fetchFail
  repeat' first
    | with_reducible first
      | exact Same.refl _ | assumption | refine (State.malformed_same hb ..).trans ?_ | intro _
    | split
    | dsimp only

theorem execEntryFetchDone_same (hb : Blind π (Part.but [.pending, .mr, .pd, .tb, .memSize, .lastRead])) (q : BitVec 22)
    (ans : ReadAns) (s : State) :
    SameR π (execEntryFetchDone q ans s) s := by
  unfold execEntryFetchDone
  repeat' first
    | with_reducible first
      | refine SameR.guarded ?_ ?_ | refine SameR.next ?_ | refine SameR.ite ?_ ?_ | exact Same.refl _ | assumption
      | refine (State.fetchFail_same (hb.sub (by decide)) ..).trans ?_
      | refine (State.portRead_same (hb.sub (by decide)) ..).trans ?_ | refine (State.takeAll_same hb ..).trans ?_
      | refine (State.decodeRun_same (hb.sub (by decide)) ..).trans ?_
      | refine (State.arbBusy_same (hb.sub (by decide)) ..).trans ?_
      | refine (State.backRead_same (hb.sub (by decide)) ..).trans ?_ | refine Same.ite ?_ ?_ | refine Same.ite_fst ?_ ?_
      | intro _
    | split
    | dsimp only

theorem execParkFullRetry_same (hb : Blind π (Part.but [.pending, .mr, .pd, .tb, .memSize, .lastRead, .free]))
    (q : BitVec 22) (s : State) :
    SameR π (execParkFullRetry q s) s := by
  unfold execParkFullRetry
  repeat' first
    | with_reducible first
      | refine SameR.guarded ?_ ?_ | refine SameR.next ?_ | refine SameR.ite ?_ ?_ | exact Same.refl _ | assumption
      | refine (State.parkOrWait_same (hb.sub (by decide)) ..).trans ?_ | refine (State.decodeRun_same hb ..).trans ?_
      | refine Same.ite ?_ ?_ | refine Same.ite_fst ?_ ?_ | intro _
    | split
    | dsimp only


/-! ## Module PairOps -/

theorem State.serveRings_same (hb : Blind π [.q, .arb, .pair, .lace, .out]) (x0 : Nat) (s : State) :
    Same π (State.serveRings x0 s) s := by
  induction x0 generalizing s with
  | zero => exact rfl
  | succ n ih =>
    unfold State.serveRings
    repeat' first
      | with_reducible first
        | exact Same.refl _ | assumption | refine (State.withPair_same (hb.sub (by decide)) ..).trans ?_
        | refine (State.acceptSnap_same hb ..).trans ?_ | refine (ih ..).trans ?_ | refine Same.ite ?_ ?_ | intro _
      | split
      | dsimp only

theorem State.retryMode_same (hb : Blind π [.q, .arb, .pair, .lace, .out]) (s : State) (q : Nat) :
    Same π (State.retryMode s q) s := by
  unfold State.retryMode
  repeat' first
    | with_reducible first
      | exact Same.refl _ | assumption | refine (State.applyMode_same hb ..).trans ?_ | refine State.orWait_same ?_ ?_
      | refine Same.ite ?_ ?_ | intro _
    | split
    | dsimp only

theorem State.doAct_same (hb : Blind π
    (Part.but [.pending, .mr, .pd, .park, .lines, .tb, .adm, .spr, .pins, .memSize, .lastRead])) (s : State) (x0 : MirrorAct) :
    Same π (State.doAct s x0) s := by
  unfold State.doAct
  repeat' first
    | with_reducible first
      | exact Same.refl _ | assumption | refine (State.arriveNow_same (hb.sub (by decide)) ..).trans ?_
      | refine (State.judgeCiNow_same (hb.sub (by decide)) ..).trans ?_
      | refine (State.unstallNow_same (hb.sub (by decide)) ..).trans ?_
      | refine (State.stallNow_same (hb.sub (by decide)) ..).trans ?_
      | refine (State.batchNow_same (hb.sub (by decide)) ..).trans ?_ | refine Same.ite ?_ ?_ | intro _
    | split
    | dsimp only

theorem State.serveActs_same (hb : Blind π
    (Part.but [.pending, .mr, .pd, .park, .lines, .tb, .adm, .spr, .pins, .memSize, .lastRead])) (x0 : Nat) (s : State) :
    Same π (State.serveActs x0 s) s := by
  induction x0 generalizing s with
  | zero => exact rfl
  | succ n ih =>
    unfold State.serveActs
    repeat' first
      | with_reducible first
        | exact Same.refl _ | assumption | refine (State.doAct_same hb ..).trans ?_
        | refine (State.withPair_same (hb.sub (by decide)) ..).trans ?_ | refine (ih ..).trans ?_ | refine Same.ite ?_ ?_
        | intro _
      | split
      | dsimp only

theorem State.mirrorRetry_same (hb : Blind π
    (Part.but [.pending, .mr, .pd, .park, .lines, .tb, .adm, .spr, .pins, .memSize, .lastRead])) (s : State) :
    Same π (State.mirrorRetry s) s := by
  unfold State.mirrorRetry
  repeat' first
    | with_reducible first
      | exact Same.refl _ | assumption | refine (State.advanceCi_same (hb.sub (by decide)) ..).trans ?_
      | refine (State.serveOwed_same (hb.sub (by decide)) ..).trans ?_
      | refine (State.retryMode_same (hb.sub (by decide)) ..).trans ?_
      | refine (State.finish_same (hb.sub (by decide)) ..).trans ?_ | refine (State.serveActs_same hb ..).trans ?_
      | refine (State.serveRings_same (hb.sub (by decide)) ..).trans ?_ | refine State.orWait_same ?_ ?_
      | refine (Same.forEach _ _ _ ?_).trans ?_ | intro _
    | split
    | dsimp only

theorem State.mirrorTick_same (hb : Blind π
    (Part.but [.pending, .mr, .pd, .park, .lines, .tb, .adm, .spr, .pins, .memSize, .lastRead])) (s : State) :
    Same π (State.mirrorTick s) s := by
  unfold State.mirrorTick
  repeat' first
    | with_reducible first
      | exact Same.refl _ | assumption | refine (State.mirrorRetry_same hb ..).trans ?_ | refine State.orWait_same ?_ ?_
      | refine Same.ite ?_ ?_ | intro _
    | split
    | dsimp only

theorem State.dropMirror_same (hb : Blind π [.q, .pair]) (s : State) : Same π (State.dropMirror s) s := by
  unfold State.dropMirror
  repeat' first
    | with_reducible first
      | exact Same.refl _ | assumption | refine (State.updQ_same (hb.sub (by decide)) ..).trans ?_
      | refine (State.withPair_same (hb.sub (by decide)) ..).trans ?_ | refine (Same.forEach _ _ _ ?_).trans ?_ | intro _
    | split
    | dsimp only

theorem State.announce_same (hb : Blind π [.arb, .pair, .lace, .out]) (s : State) : Same π (State.announce s) s := by
  unfold State.announce
  repeat' first
    | with_reducible first
      | exact Same.refl _ | assumption | refine (State.ctrlMsg_same hb ..).trans ?_ | refine Same.ite ?_ ?_ | intro _
    | split
    | dsimp only

theorem State.setSend_same (hb : Blind π
    (Part.but [.pending, .mr, .pd, .park, .lines, .tb, .adm, .spr, .pins, .memSize, .lastRead])) (s : State) (st : Nat) :
    Same π (State.setSend s st) s := by
  unfold State.setSend
  repeat' first
    | with_reducible first
      | exact Same.refl _ | assumption | refine (State.mirrorRetry_same hb ..).trans ?_
      | refine (State.setF_same (hb.sub (by decide)) ..).trans ?_
      | refine (State.dropMirror_same (hb.sub (by decide)) ..).trans ?_
      | refine (State.announce_same (hb.sub (by decide)) ..).trans ?_ | refine Same.ite ?_ ?_ | intro _
    | split
    | dsimp only

theorem State.setKeep_same (hb : Blind π [.regs]) (s : State) (st : Nat) : Same π (State.setKeep s st) s := by
  unfold State.setKeep
  repeat' first
    | with_reducible first
      | exact Same.refl _ | assumption | refine (State.setF_same hb ..).trans ?_ | intro _
    | split
    | dsimp only

theorem State.countLoss_same (hb : Blind π [.regs, .ic, .out]) (s : State) : Same π (State.countLoss s) s := by
  unfold State.countLoss
  repeat' first
    | with_reducible first
      | exact Same.refl _ | assumption | refine (State.cnt_same (hb.sub (by decide)) ..).trans ?_
      | refine (State.raise_same hb ..).trans ?_ | intro _
    | split
    | dsimp only

theorem State.enterLost_same (hb : Blind π
    (Part.but [.pending, .mr, .pd, .park, .lines, .tb, .adm, .spr, .pins, .memSize, .lastRead])) (s : State) :
    Same π (State.enterLost s) s := by
  unfold State.enterLost
  repeat' first
    | with_reducible first
      | exact Same.refl _ | assumption | refine (State.setSend_same hb ..).trans ?_
      | refine (State.setKeep_same (hb.sub (by decide)) ..).trans ?_
      | refine (State.countLoss_same (hb.sub (by decide)) ..).trans ?_ | refine Same.ite ?_ ?_ | intro _
    | split
    | dsimp only

theorem State.goOff_same (hb : Blind π
    (Part.but [.pending, .mr, .pd, .park, .lines, .tb, .adm, .spr, .pins, .memSize, .lastRead])) (s : State) :
    Same π (State.goOff s) s := by
  unfold State.goOff
  repeat' first
    | with_reducible first
      | exact Same.refl _ | assumption | refine (State.setSend_same hb ..).trans ?_
      | refine (State.setKeep_same (hb.sub (by decide)) ..).trans ?_
      | refine (State.announce_same (hb.sub (by decide)) ..).trans ?_ | refine Same.ite ?_ ?_ | intro _
    | split
    | dsimp only

theorem State.startSync_same (hb : Blind π
    (Part.but [.pending, .mr, .pd, .park, .lines, .tb, .adm, .spr, .pins, .memSize, .lastRead])) (s : State) :
    Same π (State.startSync s) s := by
  unfold State.startSync
  repeat' first
    | with_reducible first
      | exact Same.refl _ | assumption | refine (State.setSend_same hb ..).trans ?_
      | refine (State.setKeep_same (hb.sub (by decide)) ..).trans ?_ | refine (State.goOff_same hb ..).trans ?_
      | refine (State.dropMirror_same (hb.sub (by decide)) ..).trans ?_
      | refine (State.withPair_same (hb.sub (by decide)) ..).trans ?_
      | refine (State.announce_same (hb.sub (by decide)) ..).trans ?_ | refine Same.ite ?_ ?_ | intro _
    | split
    | dsimp only

theorem State.sendSnapshots_same (hb : Blind π [.arb, .pair, .lace, .out]) (s : State) : Same π (State.sendSnapshots s) s := by
  unfold State.sendSnapshots
  repeat' first
    | with_reducible first
      | exact Same.refl _ | assumption | refine (State.mirrorRec_same hb ..).trans ?_
      | refine (State.snapObj_same hb ..).trans ?_ | refine (Same.forEach _ _ _ ?_).trans ?_ | intro _
    | split
    | dsimp only

theorem State.mirroredTo_same (hb : Blind π [.q, .pair]) (s : State) (q : Nat) (v : W32) :
    Same π (State.mirroredTo s q v) s := by
  unfold State.mirroredTo
  repeat' first
    | with_reducible first
      | exact Same.refl _ | assumption | refine (State.updQ_same (hb.sub (by decide)) ..).trans ?_
      | refine (State.withPair_same (hb.sub (by decide)) ..).trans ?_ | intro _
    | split
    | dsimp only

theorem State.takeAck_same (hb : Blind π
    (Part.but [.pending, .mr, .pd, .park, .lines, .tb, .adm, .spr, .pins, .memSize, .lastRead])) (s : State) (a : W32) :
    Same π (State.takeAck s a) s := by
  unfold State.takeAck
  repeat' first
    | with_reducible first
      | exact Same.refl _ | assumption | refine (State.setSend_same hb ..).trans ?_
      | refine (State.mirrorRetry_same hb ..).trans ?_ | refine (State.snapObj_same (hb.sub (by decide)) ..).trans ?_
      | refine (State.raise_same (hb.sub (by decide)) ..).trans ?_
      | refine (State.withPair_same (hb.sub (by decide)) ..).trans ?_
      | refine (State.mirroredTo_same (hb.sub (by decide)) ..).trans ?_ | refine (Same.forEach _ _ _ ?_).trans ?_
      | refine Same.ite ?_ ?_ | refine Same.ite_fst ?_ ?_ | intro _
    | split
    | dsimp only

theorem State.setMq_same (hb : Blind π [.pair]) (s : State) (q : Nat) (c : QCtx) : Same π (State.setMq s q c) s := by
  unfold State.setMq
  repeat' first
    | with_reducible first
      | exact Same.refl _ | assumption | refine (State.withPair_same hb ..).trans ?_ | intro _
    | split
    | dsimp only

theorem State.setMcq_same (hb : Blind π [.pair]) (s : State) (c : Nat) (x : CqCtx) : Same π (State.setMcq s c x) s := by
  unfold State.setMcq
  repeat' first
    | with_reducible first
      | exact Same.refl _ | assumption | refine (State.withPair_same hb ..).trans ?_ | intro _
    | split
    | dsimp only

theorem State.updLog_same (hb : Blind π [.regs, .pair, .err]) (s : State) (q : Nat) (i : W32) (g : DoneLog → DoneLog) :
    Same π (State.updLog s q i g) s := by
  unfold State.updLog
  repeat' first
    | with_reducible first
      | exact Same.refl _ | assumption | refine (State.withPair_same (hb.sub (by decide)) ..).trans ?_
      | refine (State.log_same (hb.sub (by decide)) ..).trans ?_ | intro _
    | split
    | dsimp only

theorem State.addMirror_same (hb : Blind π [.ctr]) (s : State) (n : Nat) (v : W64) : Same π (State.addMirror s n v) s := by
  unfold State.addMirror
  repeat' first
    | with_reducible first
      | exact Same.refl _ | assumption | refine (State.setCtr_same hb ..).trans ?_ | intro _
    | split
    | dsimp only

theorem State.consume_same (hb : Blind π [.lace]) (s : State) (v n : Nat) (p : List Byte → Bool) :
    Same π (State.consume s v n p) s := by
  unfold State.consume
  repeat' first
    | with_reducible first
      | exact Same.refl _ | assumption | refine (State.setVc_same hb ..).trans ?_ | intro _
    | split
    | dsimp only

theorem State.adoptQueue_same (hb : Blind π [.regs, .q, .cq]) (s : State) (q : Nat) (fence : Option (Nat × W32)) :
    Same π (State.adoptQueue s q fence) s := by
  unfold State.adoptQueue
  repeat' first
    | with_reducible first
      | exact Same.refl _ | assumption | refine (State.adoptRing_same (hb.sub (by decide)) ..).trans ?_
      | refine (State.wrapAdd_same (hb.sub (by decide)) ..).trans ?_
      | refine (State.setQ_same (hb.sub (by decide)) ..).trans ?_ | refine Same.ite ?_ ?_ | intro _
    | split
    | dsimp only

theorem State.startAdopt_same (hb : Blind π [.regs, .q, .cq, .pair]) (s : State) : Same π (State.startAdopt s) s := by
  unfold State.startAdopt
  repeat' first
    | with_reducible first
      | exact Same.refl _ | assumption | refine (State.setF_same (hb.sub (by decide)) ..).trans ?_
      | refine (State.withPair_same (hb.sub (by decide)) ..).trans ?_
      | refine (State.adoptQueue_same (hb.sub (by decide)) ..).trans ?_ | refine Same.ite ?_ ?_ | intro _
    | split
    | dsimp only

theorem State.checkDrain_same (hb : Blind π [.regs, .q, .cq, .pair]) (s : State) : Same π (State.checkDrain s) s := by
  unfold State.checkDrain
  repeat' first
    | with_reducible first
      | exact Same.refl _ | assumption | refine (State.startAdopt_same hb ..).trans ?_ | refine Same.ite ?_ ?_ | intro _
    | split
    | dsimp only

theorem State.takeOver_same (hb : Blind π
    (Part.but [.pending, .mr, .pd, .park, .lines, .tb, .adm, .spr, .pins, .memSize, .lastRead])) (s : State) :
    Same π (State.takeOver s) s := by
  unfold State.takeOver
  repeat' first
    | with_reducible first
      | exact Same.refl _ | assumption | refine (State.setSend_same hb ..).trans ?_
      | refine (State.countLoss_same (hb.sub (by decide)) ..).trans ?_
      | refine (State.setF_same (hb.sub (by decide)) ..).trans ?_
      | refine (State.startAdopt_same (hb.sub (by decide)) ..).trans ?_
      | refine (State.withPair_same (hb.sub (by decide)) ..).trans ?_
      | refine (State.checkDrain_same (hb.sub (by decide)) ..).trans ?_ | refine Same.ite ?_ ?_ | intro _
    | split
    | dsimp only

theorem State.condition_same (hb : Blind π
    (Part.but [.pending, .mr, .pd, .park, .lines, .tb, .adm, .spr, .pins, .memSize, .lastRead])) (s : State) :
    Same π (State.condition s) s := by
  unfold State.condition
  repeat' first
    | with_reducible first
      | exact Same.refl _ | assumption | refine (State.cnt_same (hb.sub (by decide)) ..).trans ?_
      | refine (State.takeOver_same hb ..).trans ?_ | refine (State.setF_same (hb.sub (by decide)) ..).trans ?_
      | refine (State.raise_same (hb.sub (by decide)) ..).trans ?_ | refine Same.ite ?_ ?_ | intro _
    | split
    | dsimp only

theorem State.endAdoption_same (hb : Blind π
    (Part.but [.pending, .mr, .pd, .park, .lines, .tb, .adm, .spr, .pins, .memSize, .lastRead])) (s : State) :
    Same π (State.endAdoption s) s := by
  unfold State.endAdoption
  repeat' first
    | with_reducible first
      | exact Same.refl _ | assumption | refine (State.startSync_same hb ..).trans ?_
      | refine (State.settleRing_same (hb.sub (by decide)) ..).trans ?_
      | refine (State.withCqs_same (hb.sub (by decide)) ..).trans ?_
      | refine (State.withFl_same (hb.sub (by decide)) ..).trans ?_
      | refine (State.withCq_same (hb.sub (by decide)) ..).trans ?_
      | refine (State.setF_same (hb.sub (by decide)) ..).trans ?_
      | refine (State.refillSpill_same (hb.sub (by decide)) ..).trans ?_
      | refine (State.withCtr_same (hb.sub (by decide)) ..).trans ?_ | refine (Same.forEach _ _ _ ?_).trans ?_ | intro _
    | split
    | dsimp only

theorem State.dropAdopted_same (hb : Blind π
    (Part.but [.pending, .mr, .pd, .park, .lines, .tb, .adm, .spr, .pins, .memSize, .lastRead])) (s : State) (q : Nat) :
    Same π (State.dropAdopted s q) s := by
  unfold State.dropAdopted
  repeat' first
    | with_reducible first
      | exact Same.refl _ | assumption | refine (State.setMq_same (hb.sub (by decide)) ..).trans ?_
      | refine (State.endAdoption_same hb ..).trans ?_ | refine (State.setF_same (hb.sub (by decide)) ..).trans ?_
      | refine Same.ite ?_ ?_ | intro _
    | split
    | dsimp only


/-! ## Module AdmOps -/

theorem State.setAdm_same (hb : Blind π [.adm]) (s : State) (st : Stream) (o : Option AdmOpen) :
    Same π (State.setAdm s st o) s := by
  unfold State.setAdm
  repeat' first
    | with_reducible first
      | exact Same.refl _ | assumption | refine (State.withAdm_same hb ..).trans ?_ | intro _
    | split
    | dsimp only

theorem State.openAdm_same (hb : Blind π [.adm]) (s : State) (st : Stream) (o : AdmOpen) : Same π (State.openAdm s st o) s := by
  unfold State.openAdm
  repeat' first
    | with_reducible first
      | exact Same.refl _ | assumption | refine (State.withAdm_same hb ..).trans ?_
      | refine (State.setAdm_same hb ..).trans ?_ | intro _
    | split
    | dsimp only

theorem State.stopRing_same (hb : Blind π [.regs, .q, .adm]) (s : State) : Same π (State.stopRing s) s := by
  unfold State.stopRing
  repeat' first
    | with_reducible first
      | exact Same.refl _ | assumption | refine (State.setF_same (hb.sub (by decide)) ..).trans ?_
      | refine (State.withAdm_same (hb.sub (by decide)) ..).trans ?_
      | refine (State.updQ_same (hb.sub (by decide)) ..).trans ?_ | intro _
    | split
    | dsimp only

theorem State.admDone_same
    (hb : Blind π [.regs, .q, .cq, .ctr, .fl, .cqs, .ic, .arb, .trace, .adm, .pat, .pair, .lace, .mem, .out]) (s : State) (st : Stream) (o : AdmOpen) (status value : Nat) :
    Same π (State.admDone s st o status value) s := by
  unfold State.admDone
  repeat' first
    | with_reducible first
      | exact Same.refl _ | assumption | refine (State.stopRing_same (hb.sub (by decide)) ..).trans ?_
      | refine (State.placeRec_same (hb.sub (by decide)) ..).trans ?_
      | refine (State.setF_same (hb.sub (by decide)) ..).trans ?_ | refine (State.raise_same (hb.sub (by decide)) ..).trans ?_
      | refine (State.setAdm_same (hb.sub (by decide)) ..).trans ?_ | refine Same.ite ?_ ?_ | intro _
    | split
    | dsimp only

theorem State.askFor_same (hb : Blind π [.regs, .ic, .arb, .trace, .pat, .err, .spr, .mem, .out]) (s : State) (res e : Nat) :
    Same π (State.askFor s res e) s := by
  unfold State.askFor
  repeat' first
    | with_reducible first
      | exact Same.refl _ | assumption | refine (State.arbPhase_same hb ..).trans ?_ | refine Same.ite ?_ ?_ | intro _
    | split
    | dsimp only

theorem State.admBind_same (hb : Blind π [.regs, .trace, .pat, .mem]) (s : State) (e idx : Nat) :
    Same π (State.admBind s e idx) s := by
  unfold State.admBind
  repeat' first
    | with_reducible first
      | exact Same.refl _ | assumption | refine (State.traceEv_same hb ..).trans ?_
      | refine (State.setF_same (hb.sub (by decide)) ..).trans ?_
      | refine (State.setEng_same (hb.sub (by decide)) ..).trans ?_ | intro _
    | split
    | dsimp only

theorem State.admReturn_same (hb : Blind π [.regs, .q, .arb, .trace, .adm, .pat, .mem]) (s : State) (who e : Nat) :
    Same π (State.admReturn s who e) s := by
  unfold State.admReturn
  repeat' first
    | with_reducible first
      | exact Same.refl _ | assumption | refine (State.dropChannels_same (hb.sub (by decide)) ..).trans ?_
      | refine (State.traceEv_same (hb.sub (by decide)) ..).trans ?_
      | refine (State.setF_same (hb.sub (by decide)) ..).trans ?_
      | refine (State.setEng_same (hb.sub (by decide)) ..).trans ?_
      | refine (State.lineEnd_same (hb.sub (by decide)) ..).trans ?_
      | refine (State.updQ_same (hb.sub (by decide)) ..).trans ?_ | refine Same.ite ?_ ?_ | intro _
    | split
    | dsimp only

theorem State.admStitch_same (hb : Blind π [.regs, .q, .ic, .arb, .trace, .adm, .pat, .err, .spr, .mem, .out]) (s : State)
    (who idx : Nat) (needs : List Nat) (g : State → State) (h_g : ∀ s , Same π (g s ) s) :
    Same π (State.admStitch s who idx needs g) s := by
  unfold State.admStitch
  repeat' first
    | with_reducible first
      | exact Same.refl _ | assumption | refine (h_g ..).trans ?_
      | refine (State.askFor_same (hb.sub (by decide)) ..).trans ?_
      | refine (State.withAdm_same (hb.sub (by decide)) ..).trans ?_
      | refine (State.arbBusy_same (hb.sub (by decide)) ..).trans ?_
      | refine (State.admBind_same (hb.sub (by decide)) ..).trans ?_
      | refine (State.admReturn_same (hb.sub (by decide)) ..).trans ?_ | refine (Same.foldl _ _ _ ?_).trans ?_
      | refine Same.ite ?_ ?_ | intro _
    | split
    | dsimp only

theorem State.cmdStitch_same (hb : Blind π [.regs, .q, .ic, .arb, .trace, .adm, .pat, .err, .spr, .mem, .out]) (s : State)
    (st : Stream) (o : AdmOpen) (needs : List Nat) (g : State → State) (h_g : ∀ s , Same π (g s ) s) :
    Same π (State.cmdStitch s st o needs g) s := by
  unfold State.cmdStitch
  repeat' first
    | with_reducible first
      | exact Same.refl _ | assumption | refine (h_g ..).trans ?_ | refine (State.admStitch_same hb (h_g := ?_) ..).trans ?_
      | refine State.orWait_same ?_ ?_ | intro _
    | split
    | dsimp only

theorem State.oneStitch_same (hb : Blind π
    (Part.but [.pending, .mr, .pd, .park, .cache, .lines, .tb, .pins, .memSize, .lastRead, .free])) (s : State) (st : Stream) (op : Nat) (judge : State → List W64 → List (Bool × Nat)) (act : State → List W64 → State × Nat) (needs : List Nat) (h_act : ∀ s y0, Same π (act s y0).1 s) :
    Same π (State.oneStitch s st op judge act needs) s := by
  unfold State.oneStitch
  repeat' first
    | with_reducible first
      | exact Same.refl _ | assumption | refine (h_act ..).trans ?_
      | refine (State.cmdStitch_same (hb.sub (by decide)) (h_g := ?_) ..).trans ?_
      | refine (State.admDone_same (hb.sub (by decide)) ..).trans ?_
      | refine (State.openAdm_same (hb.sub (by decide)) ..).trans ?_ | refine Same.ite ?_ ?_ | refine Same.ite_fst ?_ ?_
      | intro _
    | split
    | dsimp only

theorem State.fwHand_same
    (hb : Blind π [.regs, .q, .cq, .ctr, .fl, .cqs, .ic, .arb, .trace, .adm, .pat, .pair, .lace, .mem, .out]) (s : State) (st : Stream) (o : AdmOpen) :
    Same π (State.fwHand s st o) s := by
  unfold State.fwHand
  repeat' first
    | with_reducible first
      | exact Same.refl _ | assumption | refine (State.admDone_same hb ..).trans ?_
      | refine (State.wrapAdd_same (hb.sub (by decide)) ..).trans ?_
      | refine (State.setReg_same (hb.sub (by decide)) ..).trans ?_
      | refine (State.setF_same (hb.sub (by decide)) ..).trans ?_
      | refine (State.withAdm_same (hb.sub (by decide)) ..).trans ?_
      | refine (State.raise_same (hb.sub (by decide)) ..).trans ?_
      | refine (State.setAdm_same (hb.sub (by decide)) ..).trans ?_ | refine Same.getD ?_
      | refine (Same.foldl _ _ _ ?_).trans ?_ | refine Same.ite ?_ ?_ | intro _
    | split
    | dsimp only

theorem State.fwOpen_same
    (hb : Blind π [.regs, .q, .cq, .ctr, .fl, .cqs, .ic, .arb, .trace, .adm, .pat, .pair, .lace, .mem, .out]) (s : State) (st : Stream) (is : Nat → Bool) (judge : State → List W64 → List (Bool × Nat)) :
    Same π (State.fwOpen s st is judge) s := by
  unfold State.fwOpen
  repeat' first
    | with_reducible first
      | exact Same.refl _ | assumption | refine (State.admDone_same hb ..).trans ?_
      | refine (State.lineUp_same (hb.sub (by decide)) ..).trans ?_ | refine (State.fwHand_same hb ..).trans ?_
      | refine (State.openAdm_same (hb.sub (by decide)) ..).trans ?_ | refine Same.ite ?_ ?_ | intro _
    | split
    | dsimp only

theorem State.fwEnd_same
    (hb : Blind π [.regs, .q, .cq, .ctr, .fl, .cqs, .ic, .arb, .trace, .adm, .pat, .pair, .lace, .mem, .out]) (s : State) (status value : Nat) :
    Same π (State.fwEnd s status value) s := by
  unfold State.fwEnd
  repeat' first
    | with_reducible first
      | exact Same.refl _ | assumption | refine (State.admDone_same hb ..).trans ?_
      | refine (State.fwHand_same hb ..).trans ?_ | refine (State.setF_same (hb.sub (by decide)) ..).trans ?_
      | refine (State.withAdm_same (hb.sub (by decide)) ..).trans ?_ | refine Same.ite ?_ ?_ | intro _
    | split
    | dsimp only

theorem State.passEarly_same (hb : Blind π [.pat]) (x0 : Nat) (s : State) : Same π (State.passEarly x0 s) s := by
  induction x0 generalizing s with
  | zero => exact rfl
  | succ n ih =>
    unfold State.passEarly
    repeat' first
      | with_reducible first
        | exact Same.refl _ | assumption | refine (State.withPat_same hb ..).trans ?_ | refine (ih ..).trans ?_
        | refine Same.ite ?_ ?_ | intro _
      | split
      | dsimp only

theorem State.clearEnd_same (hb : Blind π [.regs]) (s : State) : Same π (State.clearEnd s) s := by
  unfold State.clearEnd
  repeat' first
    | with_reducible first
      | exact Same.refl _ | assumption | refine (State.setF_same hb ..).trans ?_ | refine Same.ite ?_ ?_ | intro _
    | split
    | dsimp only

theorem State.clearStep_same (hb : Blind π [.regs, .pat, .mem]) (s : State) : Same π (State.clearStep s) s := by
  unfold State.clearStep
  repeat' first
    | with_reducible first
      | exact Same.refl _ | assumption | refine (State.passEarly_same (hb.sub (by decide)) ..).trans ?_
      | refine (State.wrapAdd_same (hb.sub (by decide)) ..).trans ?_
      | refine (State.wipe_same (hb.sub (by decide)) ..).trans ?_
      | refine (State.clearEnd_same (hb.sub (by decide)) ..).trans ?_ | refine Same.ite ?_ ?_ | intro _
    | split
    | dsimp only


/-! ## Module AdmWq -/

theorem State.doCreateWq_same (hb : Blind π [.regs, .q, .cache, .arb, .pat, .pair, .lace, .mem, .out]) (s : State)
    (w : List W64) :
    Same π (State.doCreateWq s w).1 s := by
  unfold State.doCreateWq
  repeat' first
    | with_reducible first
      | exact Same.refl _ | assumption | refine (State.touchBlock_same (hb.sub (by decide)) ..).trans ?_
      | refine (State.warm_same (hb.sub (by decide)) ..).trans ?_
      | refine (State.changeMirror_same (hb.sub (by decide)) ..).trans ?_ | intro _
    | split
    | dsimp only

theorem execCreateWq_same (hb : Blind π
    (Part.but [.pending, .mr, .pd, .park, .lines, .tb, .pins, .memSize, .lastRead, .free])) (st : Stream) (s : State) :
    SameR π (execCreateWq st s) s := by
  unfold execCreateWq
  repeat' first
    | with_reducible first
      | refine SameR.guarded ?_ ?_ | refine SameR.next ?_ | refine SameR.ite ?_ ?_ | exact Same.refl _ | assumption
      | refine (State.doCreateWq_same (hb.sub (by decide)) ..).trans ?_
      | refine (State.oneStitch_same (hb.sub (by decide)) (h_act := ?_) ..).trans ?_ | intro _
    | split
    | dsimp only

theorem State.doModifyWq_same (hb : Blind π [.q, .arb, .pair, .lace, .out]) (s : State) (w : List W64) :
    Same π (State.doModifyWq s w).1 s := by
  unfold State.doModifyWq
  repeat' first
    | with_reducible first
      | exact Same.refl _ | assumption | refine (State.snapQ_same (hb.sub (by decide)) ..).trans ?_
      | refine (State.updQ_same (hb.sub (by decide)) ..).trans ?_ | refine Same.getD ?_ | refine Same.ite ?_ ?_
      | refine Same.ite_fst ?_ ?_ | intro _
    | split
    | dsimp only

theorem execModifyWq_same (hb : Blind π
    (Part.but [.pending, .mr, .pd, .park, .cache, .lines, .tb, .pins, .memSize, .lastRead, .free])) (st : Stream) (s : State) :
    SameR π (execModifyWq st s) s := by
  unfold execModifyWq
  repeat' first
    | with_reducible first
      | refine SameR.guarded ?_ ?_ | refine SameR.next ?_ | refine SameR.ite ?_ ?_ | exact Same.refl _ | assumption
      | refine (State.oneStitch_same hb (h_act := ?_) ..).trans ?_
      | refine (State.doModifyWq_same (hb.sub (by decide)) ..).trans ?_ | refine Same.ite ?_ ?_ | refine Same.ite_fst ?_ ?_
      | intro _
    | split
    | dsimp only

theorem State.query_same (hb : Blind π
    (Part.but [.pending, .mr, .pd, .park, .cache, .lines, .tb, .pins, .memSize, .lastRead, .free])) (s : State) (st : Stream) (op : Nat) (judge : List W64 → List (Bool × Nat)) (bytes : State → List W64 → List Byte) (space : List W64 → Nat) (fail : Option Bool) :
    Same π (State.query s st op judge bytes space fail) s := by
  unfold State.query
  repeat' first
    | with_reducible first
      | exact Same.refl _ | assumption | refine (State.cmdStitch_same (hb.sub (by decide)) (h_g := ?_) ..).trans ?_
      | refine (State.portReject_same (hb.sub (by decide)) ..).trans ?_
      | refine (State.admDone_same (hb.sub (by decide)) ..).trans ?_
      | refine (State.writeBytes_same (hb.sub (by decide)) ..).trans ?_
      | refine (State.cnt_same (hb.sub (by decide)) ..).trans ?_
      | refine (State.openAdm_same (hb.sub (by decide)) ..).trans ?_ | refine Same.ite ?_ ?_ | intro _
    | split
    | dsimp only

theorem State.queryWq_same (hb : Blind π
    (Part.but [.pending, .mr, .pd, .park, .cache, .lines, .tb, .pins, .memSize, .lastRead, .free])) (s : State) (st : Stream) (fail : Option Bool) :
    Same π (State.queryWq s st fail) s := by
  unfold State.queryWq
  repeat' first
    | with_reducible first
      | exact Same.refl _ | assumption | refine (State.query_same hb ..).trans ?_ | intro _
    | split
    | dsimp only

theorem execQueryWq_same (hb : Blind π
    (Part.but [.pending, .mr, .pd, .park, .cache, .lines, .tb, .pins, .memSize, .lastRead, .free])) (st : Stream) (s : State) :
    SameR π (execQueryWq st s) s := by
  unfold execQueryWq
  repeat' first
    | with_reducible first
      | refine SameR.guarded ?_ ?_ | refine SameR.next ?_ | refine SameR.ite ?_ ?_ | exact Same.refl _ | assumption
      | refine (State.queryWq_same hb ..).trans ?_ | intro _
    | split
    | dsimp only

theorem State.discard_same (hb : Blind π
    (Part.but [.pending, .mr, .pd, .park, .tb, .adm, .spr, .pins, .memSize, .lastRead, .free])) (s : State) (q : Nat) (cut : Bool) :
    Same π (State.discard s q cut) s := by
  unfold State.discard
  repeat' first
    | with_reducible first
      | exact Same.refl _ | assumption | refine (State.updFl_same (hb.sub (by decide)) ..).trans ?_
      | refine (State.advanceCi_same (hb.sub (by decide)) ..).trans ?_
      | refine (State.withFl_same (hb.sub (by decide)) ..).trans ?_ | refine (State.settle_same hb ..).trans ?_
      | refine (State.setQ_same (hb.sub (by decide)) ..).trans ?_ | refine (Same.forEach _ _ _ ?_).trans ?_
      | refine Same.ite ?_ ?_ | intro _
    | split
    | dsimp only

theorem State.detach_same (hb : Blind π [.fl, .cqs, .arb, .pair]) (s : State) (q : Nat) : Same π (State.detach s q) s := by
  unfold State.detach
  repeat' first
    | with_reducible first
      | exact Same.refl _ | assumption | refine (State.withArb_same (hb.sub (by decide)) ..).trans ?_
      | refine (State.withCqs_same (hb.sub (by decide)) ..).trans ?_
      | refine (State.withFl_same (hb.sub (by decide)) ..).trans ?_
      | refine (State.withPair_same (hb.sub (by decide)) ..).trans ?_ | refine Same.ite ?_ ?_ | refine Same.ite_fst ?_ ?_
      | intro _
    | split
    | dsimp only

theorem State.unbindLine_same (hb : Blind π [.regs, .q, .fl]) (s : State) (q : Nat) : Same π (State.unbindLine s q) s := by
  unfold State.unbindLine
  repeat' first
    | with_reducible first
      | exact Same.refl _ | assumption | refine (State.setLine_same hb ..).trans ?_ | refine Same.ite ?_ ?_ | intro _
    | split
    | dsimp only

theorem State.freeQueue_same (hb : Blind π
    (Part.but [.pending, .mr, .pd, .park, .lines, .tb, .adm, .spr, .pins, .memSize, .lastRead])) (s : State) (q : Nat) :
    Same π (State.freeQueue s q) s := by
  unfold State.freeQueue
  repeat' first
    | with_reducible first
      | exact Same.refl _ | assumption | refine (State.unbindLine_same (hb.sub (by decide)) ..).trans ?_
      | refine (State.chill_same (hb.sub (by decide)) ..).trans ?_
      | refine (State.changeMirror_same (hb.sub (by decide)) ..).trans ?_
      | refine (State.detach_same (hb.sub (by decide)) ..).trans ?_ | refine (State.dropAdopted_same hb ..).trans ?_
      | refine (State.setQ_same (hb.sub (by decide)) ..).trans ?_ | refine Same.ite ?_ ?_ | intro _
    | split
    | dsimp only

theorem State.destroyEnd_same (hb : Blind π
    (Part.but [.pending, .mr, .pd, .park, .lines, .tb, .pins, .memSize, .lastRead])) (s : State) (st : Stream) (o : AdmOpen) :
    Same π (State.destroyEnd s st o) s := by
  unfold State.destroyEnd
  repeat' first
    | with_reducible first
      | exact Same.refl _ | assumption | refine (State.cmdStitch_same (hb.sub (by decide)) (h_g := ?_) ..).trans ?_
      | refine (State.admDone_same (hb.sub (by decide)) ..).trans ?_
      | refine (State.freeQueue_same (hb.sub (by decide)) ..).trans ?_ | refine Same.ite ?_ ?_ | intro _
    | split
    | dsimp only

theorem State.destroyBegin_same (hb : Blind π
    (Part.but [.pending, .mr, .pd, .park, .tb, .spr, .pins, .memSize, .lastRead, .free])) (s : State) (st : Stream) (o : AdmOpen) :
    Same π (State.destroyBegin s st o) s := by
  unfold State.destroyBegin
  repeat' first
    | with_reducible first
      | exact Same.refl _ | assumption | refine (State.admDone_same (hb.sub (by decide)) ..).trans ?_
      | refine (State.setQ_same (hb.sub (by decide)) ..).trans ?_
      | refine (State.discard_same (hb.sub (by decide)) ..).trans ?_
      | refine (State.setAdm_same (hb.sub (by decide)) ..).trans ?_ | refine Same.getD ?_ | refine Same.ite ?_ ?_ | intro _
    | split
    | dsimp only

theorem State.destroyNext_same (hb : Blind π (Part.but [.pending, .mr, .pd, .tb, .pins, .memSize, .lastRead])) (s : State)
    (st : Stream) (o : AdmOpen) :
    Same π (State.destroyNext s st o) s := by
  unfold State.destroyNext
  repeat' first
    | with_reducible first
      | exact Same.refl _ | assumption | refine (State.cmdStitch_same (hb.sub (by decide)) (h_g := ?_) ..).trans ?_
      | refine (State.updFl_same (hb.sub (by decide)) ..).trans ?_
      | refine (State.unpark_same (hb.sub (by decide)) ..).trans ?_
      | refine (State.destroyEnd_same (hb.sub (by decide)) ..).trans ?_
      | refine (State.advanceCi_same (hb.sub (by decide)) ..).trans ?_
      | refine (State.updQ_same (hb.sub (by decide)) ..).trans ?_
      | refine (State.discard_same (hb.sub (by decide)) ..).trans ?_
      | refine (State.setAdm_same (hb.sub (by decide)) ..).trans ?_ | refine (Same.forEach _ _ _ ?_).trans ?_
      | refine Same.ite ?_ ?_ | intro _
    | split
    | dsimp only

theorem execDestroyWq_same (hb : Blind π (Part.but [.pending, .mr, .pd, .tb, .pins, .memSize, .lastRead])) (st : Stream)
    (s : State) :
    SameR π (execDestroyWq st s) s := by
  unfold execDestroyWq
  repeat' first
    | with_reducible first
      | refine SameR.guarded ?_ ?_ | refine SameR.next ?_ | refine SameR.ite ?_ ?_ | exact Same.refl _ | assumption
      | refine (State.cmdStitch_same (hb.sub (by decide)) (h_g := ?_) ..).trans ?_
      | refine (State.destroyNext_same hb ..).trans ?_ | refine (State.openAdm_same (hb.sub (by decide)) ..).trans ?_
      | refine (State.destroyBegin_same (hb.sub (by decide)) ..).trans ?_ | refine Same.ite ?_ ?_ | refine Same.ite_fst ?_ ?_
      | intro _
    | split
    | dsimp only

theorem execDestroyDrainTimeout_same (hb : Blind π
    (Part.but [.pending, .mr, .pd, .park, .tb, .spr, .pins, .memSize, .lastRead, .free])) (st : Stream) (s : State) :
    SameR π (execDestroyDrainTimeout st s) s := by
  unfold execDestroyDrainTimeout
  repeat' first
    | with_reducible first
      | refine SameR.guarded ?_ ?_ | refine SameR.next ?_ | refine SameR.ite ?_ ?_ | exact Same.refl _ | assumption
      | refine (State.discard_same (hb.sub (by decide)) ..).trans ?_
      | refine (State.setAdm_same (hb.sub (by decide)) ..).trans ?_ | refine Same.ite ?_ ?_ | refine Same.ite_fst ?_ ?_
      | intro _
    | split
    | dsimp only

theorem State.doResumeWq_same (hb : Blind π [.q, .fl, .arb, .pair, .lace, .out]) (s : State) (w : List W64) :
    Same π (State.doResumeWq s w).1 s := by
  unfold State.doResumeWq
  repeat' first
    | with_reducible first
      | exact Same.refl _ | assumption | refine (State.withFl_same (hb.sub (by decide)) ..).trans ?_
      | refine (State.snapQ_same (hb.sub (by decide)) ..).trans ?_
      | refine (State.mirrorCi_same (hb.sub (by decide)) ..).trans ?_
      | refine (State.withPair_same (hb.sub (by decide)) ..).trans ?_
      | refine (State.setQ_same (hb.sub (by decide)) ..).trans ?_ | refine (State.release_same hb ..).trans ?_
      | refine Same.getD ?_ | refine Same.ite ?_ ?_ | refine Same.ite_fst ?_ ?_ | intro _
    | split
    | dsimp only

theorem execResumeWq_same (hb : Blind π
    (Part.but [.pending, .mr, .pd, .park, .cache, .lines, .tb, .pins, .memSize, .lastRead, .free])) (st : Stream) (s : State) :
    SameR π (execResumeWq st s) s := by
  unfold execResumeWq
  repeat' first
    | with_reducible first
      | refine SameR.guarded ?_ ?_ | refine SameR.next ?_ | refine SameR.ite ?_ ?_ | exact Same.refl _ | assumption
      | refine (State.lineUp_same (hb.sub (by decide)) ..).trans ?_
      | refine (State.oneStitch_same hb (h_act := ?_) ..).trans ?_
      | refine (State.doResumeWq_same (hb.sub (by decide)) ..).trans ?_
      | refine (State.openAdm_same (hb.sub (by decide)) ..).trans ?_ | refine Same.ite ?_ ?_ | refine Same.ite_fst ?_ ?_
      | intro _
    | split
    | dsimp only


/-! ## Module AdmObj -/

theorem execAdminNop_same (hb : Blind π
    (Part.but [.pending, .mr, .pd, .park, .cache, .lines, .tb, .pins, .memSize, .lastRead, .free])) (st : Stream) (s : State) :
    SameR π (execAdminNop st s) s := by
  unfold execAdminNop
  repeat' first
    | with_reducible first
      | refine SameR.guarded ?_ ?_ | refine SameR.next ?_ | refine SameR.ite ?_ ?_ | exact Same.refl _ | assumption
      | refine (State.oneStitch_same hb (h_act := ?_) ..).trans ?_ | intro _
    | split
    | dsimp only

theorem State.doCreateCq_same (hb : Blind π [.regs, .cq, .cache, .pat, .mem]) (s : State) (w : List W64) :
    Same π (State.doCreateCq s w).1 s := by
  unfold State.doCreateCq
  repeat' first
    | with_reducible first
      | exact Same.refl _ | assumption | refine (State.touchBlock_same (hb.sub (by decide)) ..).trans ?_
      | refine (State.warm_same (hb.sub (by decide)) ..).trans ?_ | refine (State.setC_same (hb.sub (by decide)) ..).trans ?_
      | intro _
    | split
    | dsimp only

theorem execCreateCq_same (hb : Blind π
    (Part.but [.pending, .mr, .pd, .park, .lines, .tb, .pins, .memSize, .lastRead, .free])) (st : Stream) (s : State) :
    SameR π (execCreateCq st s) s := by
  unfold execCreateCq
  repeat' first
    | with_reducible first
      | refine SameR.guarded ?_ ?_ | refine SameR.next ?_ | refine SameR.ite ?_ ?_ | exact Same.refl _ | assumption
      | refine (State.oneStitch_same (hb.sub (by decide)) (h_act := ?_) ..).trans ?_
      | refine (State.doCreateCq_same (hb.sub (by decide)) ..).trans ?_ | intro _
    | split
    | dsimp only

theorem State.doModifyCq_same (hb : Blind π [.cq, .arb, .pair, .lace, .out]) (s : State) (w : List W64) :
    Same π (State.doModifyCq s w).1 s := by
  unfold State.doModifyCq
  repeat' first
    | with_reducible first
      | exact Same.refl _ | assumption | refine (State.updC_same (hb.sub (by decide)) ..).trans ?_
      | refine (State.snapC_same (hb.sub (by decide)) ..).trans ?_ | refine Same.getD ?_ | intro _
    | split
    | dsimp only

theorem execModifyCq_same (hb : Blind π
    (Part.but [.pending, .mr, .pd, .park, .cache, .lines, .tb, .pins, .memSize, .lastRead, .free])) (st : Stream) (s : State) :
    SameR π (execModifyCq st s) s := by
  unfold execModifyCq
  repeat' first
    | with_reducible first
      | refine SameR.guarded ?_ ?_ | refine SameR.next ?_ | refine SameR.ite ?_ ?_ | exact Same.refl _ | assumption
      | refine (State.oneStitch_same hb (h_act := ?_) ..).trans ?_
      | refine (State.doModifyCq_same (hb.sub (by decide)) ..).trans ?_ | refine Same.ite ?_ ?_ | refine Same.ite_fst ?_ ?_
      | intro _
    | split
    | dsimp only

theorem State.queryCq_same (hb : Blind π
    (Part.but [.pending, .mr, .pd, .park, .cache, .lines, .tb, .pins, .memSize, .lastRead, .free])) (s : State) (st : Stream) (fail : Option Bool) :
    Same π (State.queryCq s st fail) s := by
  unfold State.queryCq
  repeat' first
    | with_reducible first
      | exact Same.refl _ | assumption | refine (State.query_same hb ..).trans ?_ | intro _
    | split
    | dsimp only

theorem execQueryCq_same (hb : Blind π
    (Part.but [.pending, .mr, .pd, .park, .cache, .lines, .tb, .pins, .memSize, .lastRead, .free])) (st : Stream) (s : State) :
    SameR π (execQueryCq st s) s := by
  unfold execQueryCq
  repeat' first
    | with_reducible first
      | refine SameR.guarded ?_ ?_ | refine SameR.next ?_ | refine SameR.ite ?_ ?_ | exact Same.refl _ | assumption
      | refine (State.queryCq_same hb ..).trans ?_ | intro _
    | split
    | dsimp only

theorem State.freeRing_same (hb : Blind π [.cq, .cache]) (s : State) (c : Nat) : Same π (State.freeRing s c) s := by
  unfold State.freeRing
  repeat' first
    | with_reducible first
      | exact Same.refl _ | assumption | refine (State.chill_same (hb.sub (by decide)) ..).trans ?_
      | refine (State.setC_same (hb.sub (by decide)) ..).trans ?_ | intro _
    | split
    | dsimp only

theorem State.dropHeld_same (hb : Blind π
    (Part.but [.pending, .mr, .pd, .park, .lines, .tb, .adm, .spr, .pins, .memSize, .lastRead, .free])) (s : State) (c : Nat) :
    Same π (State.dropHeld s c).1 s := by
  unfold State.dropHeld
  repeat' first
    | with_reducible first
      | exact Same.refl _ | assumption | refine (State.completed_same (hb.sub (by decide)) ..).trans ?_
      | refine (State.withCqs_same (hb.sub (by decide)) ..).trans ?_ | refine (State.refillSpill_same hb ..).trans ?_
      | refine (State.release_same (hb.sub (by decide)) ..).trans ?_ | refine (Same.forEach _ _ _ ?_).trans ?_
      | refine (Same.foldl _ _ _ ?_).trans ?_ | intro _
    | split
    | dsimp only

theorem State.destroyCqBegin_same (hb : Blind π
    (Part.but [.pending, .mr, .pd, .park, .lines, .tb, .err, .spr, .pins, .memSize, .lastRead, .free])) (s : State) (st : Stream) (o : AdmOpen) :
    Same π (State.destroyCqBegin s st o) s := by
  unfold State.destroyCqBegin
  repeat' first
    | with_reducible first
      | exact Same.refl _ | assumption | refine (State.freeRing_same (hb.sub (by decide)) ..).trans ?_
      | refine (State.admDone_same (hb.sub (by decide)) ..).trans ?_
      | refine (State.updC_same (hb.sub (by decide)) ..).trans ?_
      | refine (State.setAdm_same (hb.sub (by decide)) ..).trans ?_ | refine Same.ite ?_ ?_ | intro _
    | split
    | dsimp only

theorem State.destroyCqNext_same (hb : Blind π
    (Part.but [.pending, .mr, .pd, .park, .lines, .tb, .spr, .pins, .memSize, .lastRead, .free])) (s : State) (st : Stream) (o : AdmOpen) :
    Same π (State.destroyCqNext s st o) s := by
  unfold State.destroyCqNext
  repeat' first
    | with_reducible first
      | exact Same.refl _ | assumption | refine (State.freeRing_same (hb.sub (by decide)) ..).trans ?_
      | refine (State.admDone_same (hb.sub (by decide)) ..).trans ?_
      | refine (State.dropHeld_same (hb.sub (by decide)) ..).trans ?_
      | refine (State.setAdm_same (hb.sub (by decide)) ..).trans ?_ | refine Same.ite ?_ ?_ | refine Same.ite_fst ?_ ?_
      | intro _
    | split
    | dsimp only

theorem execDestroyCq_same (hb : Blind π
    (Part.but [.pending, .mr, .pd, .park, .lines, .tb, .pins, .memSize, .lastRead, .free])) (st : Stream) (s : State) :
    SameR π (execDestroyCq st s) s := by
  unfold execDestroyCq
  repeat' first
    | with_reducible first
      | refine SameR.guarded ?_ ?_ | refine SameR.next ?_ | refine SameR.ite ?_ ?_ | exact Same.refl _ | assumption
      | refine (State.cmdStitch_same (hb.sub (by decide)) (h_g := ?_) ..).trans ?_
      | refine (State.destroyCqBegin_same (hb.sub (by decide)) ..).trans ?_
      | refine (State.openAdm_same (hb.sub (by decide)) ..).trans ?_
      | refine (State.destroyCqNext_same (hb.sub (by decide)) ..).trans ?_ | refine Same.ite ?_ ?_ | refine Same.ite_fst ?_ ?_
      | intro _
    | split
    | dsimp only

theorem execCreatePd_same (hb : Blind π
    (Part.but [.pending, .mr, .park, .cache, .lines, .tb, .pins, .memSize, .lastRead, .free])) (st : Stream) (s : State) :
    SameR π (execCreatePd st s) s := by
  unfold execCreatePd
  repeat' first
    | with_reducible first
      | refine SameR.guarded ?_ ?_ | refine SameR.next ?_ | refine SameR.ite ?_ ?_ | exact Same.refl _ | assumption
      | refine (State.setPd_same (hb.sub (by decide)) ..).trans ?_
      | refine (State.oneStitch_same (hb.sub (by decide)) (h_act := ?_) ..).trans ?_ | intro _
    | split
    | dsimp only

theorem execDestroyPd_same (hb : Blind π
    (Part.but [.pending, .mr, .park, .cache, .lines, .tb, .pins, .memSize, .lastRead, .free])) (st : Stream) (s : State) :
    SameR π (execDestroyPd st s) s := by
  unfold execDestroyPd
  repeat' first
    | with_reducible first
      | refine SameR.guarded ?_ ?_ | refine SameR.next ?_ | refine SameR.ite ?_ ?_ | exact Same.refl _ | assumption
      | refine (State.setPd_same (hb.sub (by decide)) ..).trans ?_
      | refine (State.oneStitch_same (hb.sub (by decide)) (h_act := ?_) ..).trans ?_ | intro _
    | split
    | dsimp only

theorem State.doCreateMr_same (hb : Blind π [.regs, .mr, .pat, .mem]) (s : State) (w : List W64) :
    Same π (State.doCreateMr s w).1 s := by
  unfold State.doCreateMr
  repeat' first
    | with_reducible first
      | exact Same.refl _ | assumption | refine (State.touchBlock_same (hb.sub (by decide)) ..).trans ?_
      | refine (State.setMr_same (hb.sub (by decide)) ..).trans ?_ | refine Same.getD ?_ | intro _
    | split
    | dsimp only

theorem execCreateMr_same (hb : Blind π
    (Part.but [.pending, .pd, .park, .cache, .lines, .tb, .pins, .memSize, .lastRead, .free])) (st : Stream) (s : State) :
    SameR π (execCreateMr st s) s := by
  unfold execCreateMr
  repeat' first
    | with_reducible first
      | refine SameR.guarded ?_ ?_ | refine SameR.next ?_ | refine SameR.ite ?_ ?_ | exact Same.refl _ | assumption
      | refine (State.oneStitch_same (hb.sub (by decide)) (h_act := ?_) ..).trans ?_
      | refine (State.doCreateMr_same (hb.sub (by decide)) ..).trans ?_ | intro _
    | split
    | dsimp only

theorem execDestroyMr_same (hb : Blind π
    (Part.but [.pending, .pd, .park, .cache, .lines, .tb, .pins, .memSize, .lastRead, .free])) (st : Stream) (s : State) :
    SameR π (execDestroyMr st s) s := by
  unfold execDestroyMr
  repeat' first
    | with_reducible first
      | refine SameR.guarded ?_ ?_ | refine SameR.next ?_ | refine SameR.ite ?_ ?_ | exact Same.refl _ | assumption
      | refine (State.oneStitch_same (hb.sub (by decide)) (h_act := ?_) ..).trans ?_
      | refine (State.setMr_same (hb.sub (by decide)) ..).trans ?_ | intro _
    | split
    | dsimp only

theorem State.endWaiters_same (hb : Blind π
    (Part.but [.pending, .mr, .pd, .lines, .tb, .adm, .spr, .pins, .memSize, .lastRead, .free])) (s : State) (n : Nat) :
    Same π (State.endWaiters s n) s := by
  unfold State.endWaiters
  repeat' first
    | with_reducible first
      | exact Same.refl _ | assumption | refine (State.updFl_same (hb.sub (by decide)) ..).trans ?_
      | refine (State.unpark_same (hb.sub (by decide)) ..).trans ?_
      | refine (State.tryComplete_same (hb.sub (by decide)) ..).trans ?_ | refine (Same.forEach _ _ _ ?_).trans ?_ | intro _
    | split
    | dsimp only

theorem State.clearOne_same (hb : Blind π [.ctr, .arb, .pair, .lace, .out]) (s : State) (n : Nat) (x : Counter) :
    Same π (State.clearOne s n x) s := by
  unfold State.clearOne
  repeat' first
    | with_reducible first
      | exact Same.refl _ | assumption | refine (State.mirrorCtr_same (hb.sub (by decide)) ..).trans ?_
      | refine (State.snapObj_same (hb.sub (by decide)) ..).trans ?_
      | refine (State.setCtr_same (hb.sub (by decide)) ..).trans ?_ | refine Same.ite ?_ ?_ | intro _
    | split
    | dsimp only

theorem State.clearRun_same (hb : Blind π
    (Part.but [.pending, .mr, .pd, .lines, .tb, .adm, .spr, .pins, .memSize, .lastRead, .free])) (s : State) (g : Counter → Counter) (discard : Bool) (done ended : Nat) (x0 : List Nat) :
    Same π (State.clearRun s g discard done ended x0).1 s := by
  induction x0 generalizing s g discard done ended with
  | nil => exact rfl
  | cons a r ih =>
    unfold State.clearRun
    repeat' first
      | with_reducible first
        | exact Same.refl _ | assumption | refine (State.clearOne_same (hb.sub (by decide)) ..).trans ?_
        | refine (State.endWaiters_same hb ..).trans ?_ | refine (ih ..).trans ?_ | refine Same.ite ?_ ?_
        | refine Same.ite_fst ?_ ?_ | intro _
      | split
      | dsimp only

theorem State.clearTrigStitch_same (hb : Blind π
    (Part.but [.pending, .mr, .pd, .lines, .tb, .spr, .pins, .memSize, .lastRead, .free])) (s : State) (st : Stream) (o : AdmOpen) :
    Same π (State.clearTrigStitch s st o) s := by
  unfold State.clearTrigStitch
  repeat' first
    | with_reducible first
      | exact Same.refl _ | assumption | refine (State.admDone_same (hb.sub (by decide)) ..).trans ?_
      | refine (State.touchBlock_same (hb.sub (by decide)) ..).trans ?_
      | refine (State.clearRun_same (hb.sub (by decide)) ..).trans ?_
      | refine (State.setAdm_same (hb.sub (by decide)) ..).trans ?_ | refine Same.getD ?_
      | refine (Same.forEach _ _ _ ?_).trans ?_ | refine Same.ite ?_ ?_ | refine Same.ite_fst ?_ ?_ | intro _
    | split
    | dsimp only

theorem execClearTrig_same (hb : Blind π (Part.but [.pending, .mr, .pd, .lines, .tb, .pins, .memSize, .lastRead, .free]))
    (st : Stream) (s : State) :
    SameR π (execClearTrig st s) s := by
  unfold execClearTrig
  repeat' first
    | with_reducible first
      | refine SameR.guarded ?_ ?_ | refine SameR.next ?_ | refine SameR.ite ?_ ?_ | exact Same.refl _ | assumption
      | refine (State.clearTrigStitch_same (hb.sub (by decide)) ..).trans ?_
      | refine (State.cmdStitch_same (hb.sub (by decide)) (h_g := ?_) ..).trans ?_
      | refine (State.admDone_same (hb.sub (by decide)) ..).trans ?_
      | refine (State.openAdm_same (hb.sub (by decide)) ..).trans ?_ | refine Same.ite ?_ ?_ | refine Same.ite_fst ?_ ?_
      | intro _
    | split
    | dsimp only

theorem State.doBindRl_same (hb : Blind π [.regs, .q, .fl, .arb, .pair, .lace, .out]) (s : State) (w : List W64) :
    Same π (State.doBindRl s w).1 s := by
  unfold State.doBindRl
  repeat' first
    | with_reducible first
      | exact Same.refl _ | assumption | refine (State.setLine_same (hb.sub (by decide)) ..).trans ?_
      | refine (State.snapQ_same (hb.sub (by decide)) ..).trans ?_ | refine (State.updQ_same (hb.sub (by decide)) ..).trans ?_
      | refine Same.getD ?_ | refine Same.ite ?_ ?_ | refine Same.ite_fst ?_ ?_ | intro _
    | split
    | dsimp only

theorem execBindRl_same (hb : Blind π
    (Part.but [.pending, .mr, .pd, .park, .cache, .lines, .tb, .pins, .memSize, .lastRead, .free])) (st : Stream) (s : State) :
    SameR π (execBindRl st s) s := by
  unfold execBindRl
  repeat' first
    | with_reducible first
      | refine SameR.guarded ?_ ?_ | refine SameR.next ?_ | refine SameR.ite ?_ ?_ | exact Same.refl _ | assumption
      | refine (State.oneStitch_same hb (h_act := ?_) ..).trans ?_
      | refine (State.doBindRl_same (hb.sub (by decide)) ..).trans ?_ | intro _
    | split
    | dsimp only


end Sys2Proof.Machine
end

