-- ==== Sys2Proof/Laws/FrameUnits.lean ====
section
/-!
SUPPORT. Frames of the pattern, the Lace link, time and trace, startup and in-service test: each lemma `X_same` says which parts of the state `X` can
change, and that everything which does not look at them stays.
-/
namespace Sys2Proof.Machine

variable {β : Type} {π : State → β}

/-! ## Module RegOps -/

theorem State.setFields_same (hb : Blind π [.regs]) (s : State) (r : Reg) (o : Nat) (l : List FDef) (w : Nat) :
    Same π (State.setFields s r o l w) s := by
  unfold State.setFields
  repeat' first
    | with_reducible first
      | exact Same.refl _ | assumption | refine (State.setF_same hb ..).trans ?_ | refine (Same.foldl _ _ _ ?_).trans ?_
      | refine Same.ite ?_ ?_ | intro _
    | split
    | dsimp only


/-! ## Module Pattern -/

theorem State.recordCopy_same (hb : Blind π [.regs, .free]) (s : State) (c : Nat) (r : Nat × Nat) :
    Same π (State.recordCopy s c r) s := by
  unfold State.recordCopy
  repeat' first
    | with_reducible first
      | exact Same.refl _ | assumption | refine (State.withFree_same (hb.sub (by decide)) ..).trans ?_
      | refine (State.setF_same (hb.sub (by decide)) ..).trans ?_ | refine Same.ite ?_ ?_ | refine Same.ite_fst ?_ ?_
      | intro _
    | split
    | dsimp only

theorem State.applyList_same (hb : Blind π [.regs]) (s : State) (rd : Nat → Byte) (k : Nat) :
    Same π (State.applyList s rd k) s := by
  unfold State.applyList
  repeat' first
    | with_reducible first
      | exact Same.refl _ | assumption | refine (State.setFields_same hb ..).trans ?_
      | refine (Same.forEach _ _ _ ?_).trans ?_ | intro _
    | split
    | dsimp only

theorem State.startupCommit_same (hb : Blind π [.regs]) (s : State) : Same π (State.startupCommit s) s := by
  unfold State.startupCommit
  repeat' first
    | with_reducible first
      | exact Same.refl _ | assumption | refine (State.setF_same hb ..).trans ?_ | refine (Same.forEach _ _ _ ?_).trans ?_
      | intro _
    | split
    | dsimp only

theorem State.applyFixed_same (hb : Blind π [.regs, .pat]) (s : State) (rd : Nat → Byte) :
    Same π (State.applyFixed s rd) s := by
  unfold State.applyFixed
  repeat' first
    | with_reducible first
      | exact Same.refl _ | assumption | refine (State.setF_same (hb.sub (by decide)) ..).trans ?_
      | refine (State.withPat_same (hb.sub (by decide)) ..).trans ?_ | intro _
    | split
    | dsimp only

theorem State.applyPattern_same (hb : Blind π [.regs, .pat]) (s : State) (c : Nat) : Same π (State.applyPattern s c) s := by
  unfold State.applyPattern
  repeat' first
    | with_reducible first
      | exact Same.refl _ | assumption | refine (State.applyFixed_same hb ..).trans ?_
      | refine (State.startupCommit_same (hb.sub (by decide)) ..).trans ?_
      | refine (State.setF_same (hb.sub (by decide)) ..).trans ?_
      | refine (State.applyList_same (hb.sub (by decide)) ..).trans ?_ | refine (Same.forEach _ _ _ ?_).trans ?_
      | refine Same.ite ?_ ?_ | intro _
    | split
    | dsimp only


/-! ## Module LaceOps -/

theorem State.endTest_same (hb : Blind π [.regs, .ic, .err, .out]) (s : State) (result errors : Nat) (checked : W64) :
    Same π (State.endTest s result errors checked) s := by
  unfold State.endTest
  repeat' first
    | with_reducible first
      | exact Same.refl _ | assumption | refine (State.setReg_same (hb.sub (by decide)) ..).trans ?_
      | refine (State.setF_same (hb.sub (by decide)) ..).trans ?_ | refine (State.raise_same (hb.sub (by decide)) ..).trans ?_
      | refine (State.log_same (hb.sub (by decide)) ..).trans ?_ | refine Same.ite ?_ ?_ | intro _
    | split
    | dsimp only

theorem State.unlock_same (hb : Blind π [.regs]) (s : State) : Same π (State.unlock s) s := by
  unfold State.unlock
  repeat' first
    | with_reducible first
      | exact Same.refl _ | assumption | refine (State.setF_same hb ..).trans ?_ | refine (Same.foldl _ _ _ ?_).trans ?_
      | intro _
    | split
    | dsimp only

theorem State.attempt_same (hb : Blind π [.regs, .ic, .trace, .pat, .lace, .mem, .out]) (s : State) :
    Same π (State.attempt s) s := by
  unfold State.attempt
  repeat' first
    | with_reducible first
      | exact Same.refl _ | assumption | refine (State.unlock_same (hb.sub (by decide)) ..).trans ?_
      | refine (State.setLace_same hb ..).trans ?_ | intro _
    | split
    | dsimp only

theorem State.dropSession_same (hb : Blind π [.regs, .lace]) (s : State) (n : Nat) : Same π (State.dropSession s n) s := by
  unfold State.dropSession
  repeat' first
    | with_reducible first
      | exact Same.refl _ | assumption | refine (State.withLace_same (hb.sub (by decide)) ..).trans ?_
      | refine (State.setF_same (hb.sub (by decide)) ..).trans ?_ | refine Same.ite ?_ ?_ | intro _
    | split
    | dsimp only

theorem State.goDown_same (hb : Blind π [.regs, .ic, .out]) (s : State) : Same π (State.goDown s) s := by
  unfold State.goDown
  repeat' first
    | with_reducible first
      | exact Same.refl _ | assumption | refine (State.cnt_same (hb.sub (by decide)) ..).trans ?_
      | refine (State.setF_same (hb.sub (by decide)) ..).trans ?_ | refine (State.raise_same hb ..).trans ?_
      | refine Same.ite ?_ ?_ | intro _
    | split
    | dsimp only

theorem State.failAttempt_same (hb : Blind π [.regs, .ic, .trace, .pat, .lace, .mem, .out]) (s : State) :
    Same π (State.failAttempt s) s := by
  unfold State.failAttempt
  repeat' first
    | with_reducible first
      | exact Same.refl _ | assumption | refine (State.cnt_same (hb.sub (by decide)) ..).trans ?_
      | refine (State.attempt_same hb ..).trans ?_ | refine (State.dropSession_same (hb.sub (by decide)) ..).trans ?_
      | refine (State.setLace_same hb ..).trans ?_ | refine Same.ite ?_ ?_ | intro _
    | split
    | dsimp only

theorem State.startReplay_same (hb : Blind π [.regs, .ic, .arb, .trace, .pat, .pair, .lace, .mem, .out]) (s : State) (v : Nat) :
    Same π (State.startReplay s v) s := by
  unfold State.startReplay
  repeat' first
    | with_reducible first
      | exact Same.refl _ | assumption | refine (State.setVc_same (hb.sub (by decide)) ..).trans ?_
      | refine (State.laceCnt_same (hb.sub (by decide)) ..).trans ?_
      | refine (State.traceIn_same (hb.sub (by decide)) ..).trans ?_
      | refine (State.pump_same (hb.sub (by decide)) ..).trans ?_ | refine Same.ite ?_ ?_ | intro _
    | split
    | dsimp only

theorem State.takeAckNo_same (hb : Blind π [.regs, .ic, .lace, .out]) (s : State) (v a : Nat) :
    Same π (State.takeAckNo s v a) s := by
  unfold State.takeAckNo
  repeat' first
    | with_reducible first
      | exact Same.refl _ | assumption | refine (State.setVc_same (hb.sub (by decide)) ..).trans ?_
      | refine (State.laceCnt_same (hb.sub (by decide)) ..).trans ?_ | refine Same.ite ?_ ?_ | intro _
    | split
    | dsimp only

theorem State.applyFeedback_same (hb : Blind π [.regs, .ic, .arb, .pair, .lace, .out]) (s : State) (v a lim : Nat) :
    Same π (State.applyFeedback s v a lim) s := by
  unfold State.applyFeedback
  repeat' first
    | with_reducible first
      | exact Same.refl _ | assumption | refine (State.setVc_same (hb.sub (by decide)) ..).trans ?_
      | refine (State.takeAckNo_same (hb.sub (by decide)) ..).trans ?_
      | refine (State.pump_same (hb.sub (by decide)) ..).trans ?_ | refine Same.ite ?_ ?_ | intro _
    | split
    | dsimp only

theorem State.sendFeedback_same (hb : Blind π [.arb, .pair, .lace, .out]) (s : State) (v : Nat) :
    Same π (State.sendFeedback s v) s := by
  unfold State.sendFeedback
  repeat' first
    | with_reducible first
      | exact Same.refl _ | assumption | refine (State.withLace_same (hb.sub (by decide)) ..).trans ?_
      | refine (State.pump_same hb ..).trans ?_ | refine Same.ite ?_ ?_ | intro _
    | split
    | dsimp only

theorem State.stopLaneTest_same (hb : Blind π [.regs, .ic, .err, .out]) (s : State) : Same π (State.stopLaneTest s) s := by
  unfold State.stopLaneTest
  repeat' first
    | with_reducible first
      | exact Same.refl _ | assumption | refine (State.setF_same (hb.sub (by decide)) ..).trans ?_
      | refine (State.endTest_same hb ..).trans ?_ | refine Same.ite ?_ ?_ | intro _
    | split
    | dsimp only

theorem State.recover_same (hb : Blind π [.regs, .ic, .trace, .pat, .lace, .err, .mem, .out]) (s : State) :
    Same π (State.recover s) s := by
  unfold State.recover
  repeat' first
    | with_reducible first
      | exact Same.refl _ | assumption | refine (State.withLace_same (hb.sub (by decide)) ..).trans ?_
      | refine (State.stopLaneTest_same (hb.sub (by decide)) ..).trans ?_
      | refine (State.laceCnt_same (hb.sub (by decide)) ..).trans ?_
      | refine (State.unlock_same (hb.sub (by decide)) ..).trans ?_
      | refine (State.setLace_same (hb.sub (by decide)) ..).trans ?_ | refine Same.ite ?_ ?_ | intro _
    | split
    | dsimp only

theorem State.useLanes_same (hb : Blind π [.regs]) (s : State) (good : Nat) : Same π (State.useLanes s good) s := by
  unfold State.useLanes
  repeat' first
    | with_reducible first
      | exact Same.refl _ | assumption | refine (State.setF_same hb ..).trans ?_ | refine (Same.foldl _ _ _ ?_).trans ?_
      | refine Same.ite ?_ ?_ | intro _
    | split
    | dsimp only

theorem State.newSession_same (hb : Blind π
    (Part.but [.pending, .mr, .pd, .park, .lines, .tb, .adm, .spr, .pins, .memSize, .lastRead])) (s : State) (fellow : Nat) :
    Same π (State.newSession s fellow) s := by
  unfold State.newSession
  repeat' first
    | with_reducible first
      | exact Same.refl _ | assumption | refine (State.setF_same (hb.sub (by decide)) ..).trans ?_
      | refine (State.withPair_same (hb.sub (by decide)) ..).trans ?_
      | refine (State.dropSession_same (hb.sub (by decide)) ..).trans ?_ | refine (State.enterLost_same hb ..).trans ?_
      | intro _
    | split
    | dsimp only

theorem State.syncUp_same (hb : Blind π
    (Part.but [.pending, .mr, .pd, .park, .lines, .tb, .adm, .spr, .pins, .memSize, .lastRead])) (s : State) (fresh : Bool) :
    Same π (State.syncUp s fresh) s := by
  unfold State.syncUp
  repeat' first
    | with_reducible first
      | exact Same.refl _ | assumption | refine (State.startSync_same hb ..).trans ?_
      | refine (State.goOff_same hb ..).trans ?_ | refine (State.announce_same (hb.sub (by decide)) ..).trans ?_
      | refine Same.ite ?_ ?_ | intro _
    | split
    | dsimp only

theorem State.linkUp_same (hb : Blind π
    (Part.but [.pending, .mr, .pd, .park, .lines, .tb, .adm, .spr, .pins, .memSize, .lastRead])) (s : State) (role : Bool) (fellow : Nat) :
    Same π (State.linkUp s role fellow) s := by
  unfold State.linkUp
  repeat' first
    | with_reducible first
      | exact Same.refl _ | assumption | refine (State.withLace_same (hb.sub (by decide)) ..).trans ?_
      | refine (State.newSession_same hb ..).trans ?_ | refine (State.setF_same (hb.sub (by decide)) ..).trans ?_
      | refine (State.sendFeedback_same (hb.sub (by decide)) ..).trans ?_
      | refine (State.startReplay_same (hb.sub (by decide)) ..).trans ?_ | refine (State.syncUp_same hb ..).trans ?_
      | refine (State.pump_same (hb.sub (by decide)) ..).trans ?_
      | refine (State.setLace_same (hb.sub (by decide)) ..).trans ?_ | refine (Same.foldl _ _ _ ?_).trans ?_
      | refine Same.ite ?_ ?_ | intro _
    | split
    | dsimp only

theorem State.acceptPkt_same (hb : Blind π [.regs, .ic, .lace, .out]) (s : State) (v u sq : Nat) (payload : List Byte) :
    Same π (State.acceptPkt s v u sq payload) s := by
  unfold State.acceptPkt
  repeat' first
    | with_reducible first
      | exact Same.refl _ | assumption | refine (State.setVc_same (hb.sub (by decide)) ..).trans ?_
      | refine (State.laceCnt_same (hb.sub (by decide)) ..).trans ?_ | refine (Same.foldl _ _ _ ?_).trans ?_
      | refine (Same.foldl_fst _ _ _ ?_).trans ?_ | refine Same.ite ?_ ?_ | refine Same.ite_fst ?_ ?_ | intro _
    | split
    | dsimp only

theorem State.receive_same (hb : Blind π [.regs, .ic, .arb, .pair, .lace, .out]) (s : State) (b : List Byte) :
    Same π (State.receive s b) s := by
  unfold State.receive
  repeat' first
    | with_reducible first
      | exact Same.refl _ | assumption | refine (State.withLace_same (hb.sub (by decide)) ..).trans ?_
      | refine (State.acceptPkt_same (hb.sub (by decide)) ..).trans ?_ | refine (State.applyFeedback_same hb ..).trans ?_
      | refine (State.laceCnt_same (hb.sub (by decide)) ..).trans ?_ | refine Same.ite ?_ ?_ | intro _
    | split
    | dsimp only


/-! ## Module TimeTrace -/

theorem State.enterHoldover_same (hb : Blind π [.regs, .ic, .out]) (s : State) : Same π (State.enterHoldover s) s := by
  unfold State.enterHoldover
  repeat' first
    | with_reducible first
      | exact Same.refl _ | assumption | refine (State.cnt_same (hb.sub (by decide)) ..).trans ?_
      | refine (State.setF_same (hb.sub (by decide)) ..).trans ?_ | refine (State.raise_same hb ..).trans ?_
      | refine Same.ite ?_ ?_ | intro _
    | split
    | dsimp only

theorem State.judgeStep_same (hb : Blind π [.regs]) (s : State) (t : W64) : Same π (State.judgeStep s t) s := by
  unfold State.judgeStep
  repeat' first
    | with_reducible first
      | exact Same.refl _ | assumption | refine (State.cnt_same hb ..).trans ?_ | refine Same.ite ?_ ?_ | intro _
    | split
    | dsimp only

theorem execTsSample_same (hb : Blind π [.regs, .ic, .tb, .out]) (t : W64) (valid : Bool) (s : State) :
    SameR π (execTsSample t valid s) s := by
  unfold execTsSample
  repeat' first
    | with_reducible first
      | refine SameR.guarded ?_ ?_ | refine SameR.next ?_ | refine SameR.ite ?_ ?_ | exact Same.refl _ | assumption
      | refine (State.withTb_same (hb.sub (by decide)) ..).trans ?_
      | refine (State.enterHoldover_same (hb.sub (by decide)) ..).trans ?_
      | refine (State.setF_same (hb.sub (by decide)) ..).trans ?_ | refine (State.raise_same (hb.sub (by decide)) ..).trans ?_
      | refine (State.judgeStep_same (hb.sub (by decide)) ..).trans ?_ | refine Same.ite ?_ ?_ | refine Same.ite_fst ?_ ?_
      | intro _
    | split
    | dsimp only

theorem execTsSampleMissing_same (hb : Blind π [.regs, .ic, .tb, .out]) (s : State) : SameR π (execTsSampleMissing s) s := by
  unfold execTsSampleMissing
  repeat' first
    | with_reducible first
      | refine SameR.guarded ?_ ?_ | refine SameR.next ?_ | refine SameR.ite ?_ ?_ | exact Same.refl _ | assumption
      | refine (State.withTb_same (hb.sub (by decide)) ..).trans ?_
      | refine (State.enterHoldover_same (hb.sub (by decide)) ..).trans ?_ | refine Same.ite ?_ ?_ | refine Same.ite_fst ?_ ?_
      | intro _
    | split
    | dsimp only

theorem State.traceFail_same (hb : Blind π [.regs, .trace]) (s : State) : Same π (State.traceFail s) s := by
  unfold State.traceFail
  repeat' first
    | with_reducible first
      | exact Same.refl _ | assumption | refine (State.setF_same (hb.sub (by decide)) ..).trans ?_
      | refine (State.withTrace_same (hb.sub (by decide)) ..).trans ?_ | intro _
    | split
    | dsimp only

theorem execTraceCopy_same (hb : Blind π [.regs, .ic, .arb, .trace, .err, .mem, .out, .free]) (s : State) :
    SameR π (execTraceCopy s) s := by
  unfold execTraceCopy
  repeat' first
    | with_reducible first
      | refine SameR.guarded ?_ ?_ | refine SameR.next ?_ | refine SameR.ite ?_ ?_ | exact Same.refl _ | assumption
      | refine (State.traceFail_same (hb.sub (by decide)) ..).trans ?_
      | refine (State.writeBytes_same (hb.sub (by decide)) ..).trans ?_
      | refine (State.ctlHops_same (hb.sub (by decide)) ..).trans ?_
      | refine (State.cnt_same (hb.sub (by decide)) ..).trans ?_
      | refine (State.wrapAdd_same (hb.sub (by decide)) ..).trans ?_
      | refine (State.withTrace_same (hb.sub (by decide)) ..).trans ?_
      | refine (State.arbBusy_same (hb.sub (by decide)) ..).trans ?_ | refine Same.ite ?_ ?_ | refine Same.ite_fst ?_ ?_
      | intro _
    | split
    | dsimp only

theorem State.writeTraceCi_same (hb : Blind π [.regs]) (s : State) (v : W32) : Same π (State.writeTraceCi s v) s := by
  unfold State.writeTraceCi
  repeat' first
    | with_reducible first
      | exact Same.refl _ | assumption | refine (State.cnt_same hb ..).trans ?_ | refine (State.setF_same hb ..).trans ?_
      | refine Same.ite ?_ ?_ | intro _
    | split
    | dsimp only

theorem execTraceCiWrite_same (hb : Blind π [.regs]) (v : W32) (s : State) : SameR π (execTraceCiWrite v s) s := by
  unfold execTraceCiWrite
  repeat' first
    | with_reducible first
      | refine SameR.guarded ?_ ?_ | refine SameR.next ?_ | refine SameR.ite ?_ ?_ | exact Same.refl _ | assumption
      | refine (State.writeTraceCi_same hb ..).trans ?_ | intro _
    | split
    | dsimp only

theorem execPpsIn_same (hb : Blind π [.regs, .out]) (s : State) : SameR π (execPpsIn s) s := by
  unfold execPpsIn
  repeat' first
    | with_reducible first
      | refine SameR.guarded ?_ ?_ | refine SameR.next ?_ | refine SameR.ite ?_ ?_ | exact Same.refl _ | assumption
      | refine (State.cnt_same (hb.sub (by decide)) ..).trans ?_ | refine (State.setReg_same (hb.sub (by decide)) ..).trans ?_
      | refine (State.emit_same (hb.sub (by decide)) ..).trans ?_ | refine Same.ite ?_ ?_ | refine Same.ite_fst ?_ ?_
      | intro _
    | split
    | dsimp only

theorem execPpsOut_same (hb : Blind π [.tb, .pins]) (rise : Bool) (s : State) : SameR π (execPpsOut rise s) s := by
  unfold execPpsOut
  repeat' first
    | with_reducible first
      | refine SameR.guarded ?_ ?_ | refine SameR.next ?_ | refine SameR.ite ?_ ?_ | exact Same.refl _ | assumption
      | refine (State.withTb_same (hb.sub (by decide)) ..).trans ?_
      | refine (State.withPins_same (hb.sub (by decide)) ..).trans ?_ | refine Same.ite ?_ ?_ | refine Same.ite_fst ?_ ?_
      | intro _
    | split
    | dsimp only


/-! ## Module Startup -/
theorem State.afterReset_same (hb : Blind π (Part.but [.pending, .mem, .memSize, .out, .lastRead, .free])) (s : State) :
    Same π s.afterReset s := by
  unfold State.afterReset
  generalize State.reset = r
  have e : ((((((r.withPending s.pending).withMem s.mem).withMemSize s.memSize).withOut s.out).withLastRead s.lastRead).withFree s.free) = ((((((((((((((((((((((s.withRegs r.regs).withQ r.q).withCq r.cq).withCtr r.ctr).withMr r.mr).withPd r.pd).withFl r.fl).withPark r.park).withCqs r.cqs).withCache r.cache).withIc r.ic).withArb r.arb).withLines r.lines).withTb r.tb).withTrace r.trace).withAdm r.adm).withPat r.pat).withPair r.pair).withLace r.lace).withErr r.err).withSpr r.spr).withPins r.pins) := by
    cases r; cases s
    simp only [State.withRegs, State.withQ, State.withCq, State.withCtr, State.withMr, State.withPd, State.withFl, State.withPark, State.withCqs, State.withCache, State.withIc, State.withArb, State.withLines, State.withTb, State.withTrace, State.withAdm, State.withPat, State.withPair, State.withLace, State.withErr, State.withSpr, State.withPins, State.withPending, State.withMem, State.withMemSize, State.withOut, State.withLastRead, State.withFree]
  rw [e]
  refine (State.withPins_same (hb.sub (by decide)) ..).trans ?_
  refine (State.withSpr_same (hb.sub (by decide)) ..).trans ?_
  refine (State.withErr_same (hb.sub (by decide)) ..).trans ?_
  refine (State.withLace_same (hb.sub (by decide)) ..).trans ?_
  refine (State.withPair_same (hb.sub (by decide)) ..).trans ?_
  refine (State.withPat_same (hb.sub (by decide)) ..).trans ?_
  refine (State.withAdm_same (hb.sub (by decide)) ..).trans ?_
  refine (State.withTrace_same (hb.sub (by decide)) ..).trans ?_
  refine (State.withTb_same (hb.sub (by decide)) ..).trans ?_
  refine (State.withLines_same (hb.sub (by decide)) ..).trans ?_
  refine (State.withArb_same (hb.sub (by decide)) ..).trans ?_
  refine (State.withIc_same (hb.sub (by decide)) ..).trans ?_
  refine (State.withCache_same (hb.sub (by decide)) ..).trans ?_
  refine (State.withCqs_same (hb.sub (by decide)) ..).trans ?_
  refine (State.withPark_same (hb.sub (by decide)) ..).trans ?_
  refine (State.withFl_same (hb.sub (by decide)) ..).trans ?_
  refine (State.withPd_same (hb.sub (by decide)) ..).trans ?_
  refine (State.withMr_same (hb.sub (by decide)) ..).trans ?_
  refine (State.withCtr_same (hb.sub (by decide)) ..).trans ?_
  refine (State.withCq_same (hb.sub (by decide)) ..).trans ?_
  refine (State.withQ_same (hb.sub (by decide)) ..).trans ?_
  refine (State.withRegs_same (hb.sub (by decide)) ..).trans ?_
  exact Same.refl s

theorem State.programCopy_same (hb : Blind π [.mem]) (s : State) (c : Nat) (l : List Byte) :
    Same π (State.programCopy s c l) s := by
  unfold State.programCopy
  repeat' first
    | with_reducible first
      | exact Same.refl _ | assumption | refine (State.withMem_same hb ..).trans ?_ | refine (Same.foldl _ _ _ ?_).trans ?_
      | refine (Same.foldl_fst _ _ _ ?_).trans ?_ | intro _
    | split
    | dsimp only

theorem State.stopProgram_same (hb : Blind π [.mem, .free]) (s : State) : Same π (State.stopProgram s) s := by
  unfold State.stopProgram
  repeat' first
    | with_reducible first
      | exact Same.refl _ | assumption | refine (State.withFree_same (hb.sub (by decide)) ..).trans ?_
      | refine (State.programCopy_same (hb.sub (by decide)) ..).trans ?_ | refine Same.ite ?_ ?_ | intro _
    | split
    | dsimp only

theorem State.hardReset_same (hb : Blind π (Part.but [.pending, .memSize, .out, .lastRead])) (s : State) :
    Same π (State.hardReset s) s := by
  unfold State.hardReset
  repeat' first
    | with_reducible first
      | exact Same.refl _ | assumption | refine (State.stopProgram_same (hb.sub (by decide)) ..).trans ?_
      | refine (State.afterReset_same (hb.sub (by decide)) ..).trans ?_ | refine (State.after_same ?_).trans ?_ | intro _
    | split
    | dsimp only

theorem State.softReset_same (hb : Blind π (Part.but [.pending, .memSize, .out, .lastRead])) (s : State) :
    Same π (State.softReset s) s := by
  unfold State.softReset
  repeat' first
    | with_reducible first
      | exact Same.refl _ | assumption | refine (State.withRegs_same (hb.sub (by decide)) ..).trans ?_
      | refine (State.stopProgram_same (hb.sub (by decide)) ..).trans ?_
      | refine (State.afterReset_same (hb.sub (by decide)) ..).trans ?_
      | refine (State.setF_same (hb.sub (by decide)) ..).trans ?_
      | refine (State.rollLog_same (hb.sub (by decide)) ..).trans ?_
      | refine (State.withPat_same (hb.sub (by decide)) ..).trans ?_
      | refine (State.withMr_same (hb.sub (by decide)) ..).trans ?_
      | refine (State.withErr_same (hb.sub (by decide)) ..).trans ?_ | refine (State.after_same ?_).trans ?_
      | refine (Same.foldl _ _ _ ?_).trans ?_ | refine (Same.foldl_fst _ _ _ ?_).trans ?_ | intro _
    | split
    | dsimp only

theorem State.haltTick_same (hb : Blind π (Part.but [.pending, .memSize, .out, .lastRead])) (s : State) :
    Same π (State.haltTick s) s := by
  unfold State.haltTick
  repeat' first
    | with_reducible first
      | exact Same.refl _ | assumption | refine (State.haltRecord_same (hb.sub (by decide)) ..).trans ?_
      | refine (State.softReset_same hb ..).trans ?_ | refine (State.withPair_same (hb.sub (by decide)) ..).trans ?_
      | refine Same.ite ?_ ?_ | intro _
    | split
    | dsimp only

theorem execResetAssert_same (hb : Blind π (Part.but [.pending, .memSize, .out, .lastRead])) (s : State) :
    SameR π (execResetAssert s) s := by
  unfold execResetAssert
  repeat' first
    | with_reducible first
      | refine SameR.guarded ?_ ?_ | refine SameR.next ?_ | refine SameR.ite ?_ ?_ | exact Same.refl _ | assumption
      | refine (State.hardReset_same hb ..).trans ?_ | intro _
    | split
    | dsimp only

theorem State.resetCmd_same (hb : Blind π (Part.but [.pending, .memSize, .lastRead])) (s : State) (soft hard : Bool) :
    Same π (State.resetCmd s soft hard) s := by
  unfold State.resetCmd
  repeat' first
    | with_reducible first
      | exact Same.refl _ | assumption | refine (State.softReset_same (hb.sub (by decide)) ..).trans ?_
      | refine (State.hardReset_same (hb.sub (by decide)) ..).trans ?_
      | refine (State.halt_same (hb.sub (by decide)) ..).trans ?_
      | refine (State.withPat_same (hb.sub (by decide)) ..).trans ?_ | refine Same.ite ?_ ?_ | intro _
    | split
    | dsimp only

theorem execSoftReset_same (hb : Blind π (Part.but [.pending, .memSize, .lastRead])) (w : W64) (s : State) :
    SameR π (execSoftReset w s) s := by
  unfold execSoftReset
  repeat' first
    | with_reducible first
      | refine SameR.guarded ?_ ?_ | refine SameR.next ?_ | refine SameR.ite ?_ ?_ | exact Same.refl _ | assumption
      | refine (State.resetCmd_same hb ..).trans ?_ | intro _
    | split
    | dsimp only

theorem execHardReset_same (hb : Blind π (Part.but [.pending, .memSize, .lastRead])) (w : W64) (s : State) :
    SameR π (execHardReset w s) s := by
  unfold execHardReset
  repeat' first
    | with_reducible first
      | refine SameR.guarded ?_ ?_ | refine SameR.next ?_ | refine SameR.ite ?_ ?_ | exact Same.refl _ | assumption
      | refine (State.resetCmd_same hb ..).trans ?_ | intro _
    | split
    | dsimp only

theorem State.selfTests_same (hb : Blind π [.regs, .arb]) (s : State) (engs reds : List Nat) :
    Same π (State.selfTests s engs reds) s := by
  unfold State.selfTests
  repeat' first
    | with_reducible first
      | exact Same.refl _ | assumption | refine (State.retireRed_same hb ..).trans ?_
      | refine (State.setRed_same hb ..).trans ?_ | refine (State.setEng_same (hb.sub (by decide)) ..).trans ?_
      | refine (State.retireEng_same (hb.sub (by decide)) ..).trans ?_ | refine (Same.foldl _ _ _ ?_).trans ?_
      | refine Same.ite ?_ ?_ | intro _
    | split
    | dsimp only

theorem State.readFuses_same (hb : Blind π [.regs, .pat]) (s : State) (b : Boot) : Same π (State.readFuses s b) s := by
  unfold State.readFuses
  repeat' first
    | with_reducible first
      | exact Same.refl _ | assumption | refine (State.setF_same (hb.sub (by decide)) ..).trans ?_
      | refine (State.withPat_same (hb.sub (by decide)) ..).trans ?_ | refine Same.getD ?_
      | refine (Same.foldl _ _ _ ?_).trans ?_ | refine Same.ite ?_ ?_ | intro _
    | split
    | dsimp only

theorem execResetDeassert_same (hb : Blind π [.regs, .arb, .pat, .memSize]) (b : Boot) (s : State) :
    SameR π (execResetDeassert b s) s := by
  unfold execResetDeassert
  repeat' first
    | with_reducible first
      | refine SameR.guarded ?_ ?_ | refine SameR.next ?_ | refine SameR.ite ?_ ?_ | exact Same.refl _ | assumption
      | refine (State.readFuses_same (hb.sub (by decide)) ..).trans ?_
      | refine (State.selfTests_same (hb.sub (by decide)) ..).trans ?_
      | refine (State.setF_same (hb.sub (by decide)) ..).trans ?_
      | refine (State.withMemSize_same (hb.sub (by decide)) ..).trans ?_ | refine Same.ite ?_ ?_ | refine Same.ite_fst ?_ ?_
      | intro _
    | split
    | dsimp only

theorem execSfdpReadDone_same (hb : Blind π [.regs, .pat, .free]) (i : Sfdp) (s : State) :
    SameR π (execSfdpReadDone i s) s := by
  unfold execSfdpReadDone
  repeat' first
    | with_reducible first
      | refine SameR.guarded ?_ ?_ | refine SameR.next ?_ | refine SameR.ite ?_ ?_ | exact Same.refl _ | assumption
      | refine (State.withFree_same (hb.sub (by decide)) ..).trans ?_
      | refine (State.setF_same (hb.sub (by decide)) ..).trans ?_
      | refine (State.withPat_same (hb.sub (by decide)) ..).trans ?_ | refine Same.getD ?_ | refine Same.ite ?_ ?_
      | refine Same.ite_fst ?_ ?_ | intro _
    | split
    | dsimp only

theorem State.nextCopy_same (hb : Blind π [.regs, .pat]) (s : State) (passed : List Nat) :
    Same π (State.nextCopy s passed) s := by
  unfold State.nextCopy
  repeat' first
    | with_reducible first
      | exact Same.refl _ | assumption | refine (State.setF_same (hb.sub (by decide)) ..).trans ?_
      | refine (State.withPat_same (hb.sub (by decide)) ..).trans ?_ | refine Same.ite ?_ ?_ | intro _
    | split
    | dsimp only

theorem State.judgeCopyHead_same (hb : Blind π [.regs, .free]) (s : State) (c : Nat) : Same π (State.judgeCopyHead s c) s := by
  unfold State.judgeCopyHead
  repeat' first
    | with_reducible first
      | exact Same.refl _ | assumption | refine (State.recordCopy_same hb ..).trans ?_ | refine Same.ite ?_ ?_ | intro _
    | split
    | dsimp only

theorem execCopySelect_same (hb : Blind π [.regs, .pat, .free]) (s : State) : SameR π (execCopySelect s) s := by
  unfold execCopySelect
  repeat' first
    | with_reducible first
      | refine SameR.guarded ?_ ?_ | refine SameR.next ?_ | refine SameR.ite ?_ ?_ | exact Same.refl _ | assumption
      | refine (State.nextCopy_same (hb.sub (by decide)) ..).trans ?_
      | refine (State.judgeCopyHead_same (hb.sub (by decide)) ..).trans ?_ | refine Same.ite ?_ ?_ | refine Same.ite_fst ?_ ?_
      | intro _
    | split
    | dsimp only

theorem State.copyFails_same (hb : Blind π [.regs, .pat, .free]) (s : State) (c : Nat) : Same π (State.copyFails s c) s := by
  unfold State.copyFails
  repeat' first
    | with_reducible first
      | exact Same.refl _ | assumption | refine (State.recordCopy_same (hb.sub (by decide)) ..).trans ?_
      | refine (State.nextCopy_same (hb.sub (by decide)) ..).trans ?_ | intro _
    | split
    | dsimp only

theorem execCopyReadDone_same (hb : Blind π [.regs, .pat, .free]) (s : State) : SameR π (execCopyReadDone s) s := by
  unfold execCopyReadDone
  repeat' first
    | with_reducible first
      | refine SameR.guarded ?_ ?_ | refine SameR.next ?_ | refine SameR.ite ?_ ?_ | exact Same.refl _ | assumption
      | refine (State.copyFails_same hb ..).trans ?_ | refine (State.setF_same (hb.sub (by decide)) ..).trans ?_
      | refine Same.ite ?_ ?_ | refine Same.ite_fst ?_ ?_ | intro _
    | split
    | dsimp only

theorem execPatternVerifyDone_same (hb : Blind π [.regs, .pat, .free]) (s : State) : SameR π (execPatternVerifyDone s) s := by
  unfold execPatternVerifyDone
  repeat' first
    | with_reducible first
      | refine SameR.guarded ?_ ?_ | refine SameR.next ?_ | refine SameR.ite ?_ ?_ | exact Same.refl _ | assumption
      | refine (State.copyFails_same hb ..).trans ?_ | refine (State.recordCopy_same (hb.sub (by decide)) ..).trans ?_
      | refine (State.setF_same (hb.sub (by decide)) ..).trans ?_ | refine Same.ite ?_ ?_ | refine Same.ite_fst ?_ ?_
      | intro _
    | split
    | dsimp only

theorem State.startOutputs_same (hb : Blind π [.regs, .q, .ic, .tb, .trace, .pat, .lace, .pins, .mem, .out]) (s : State) :
    Same π (State.startOutputs s) s := by
  unfold State.startOutputs
  repeat' first
    | with_reducible first
      | exact Same.refl _ | assumption | refine (State.withTb_same (hb.sub (by decide)) ..).trans ?_
      | refine (State.setF_same (hb.sub (by decide)) ..).trans ?_
      | refine (State.judgeAll_same (hb.sub (by decide)) ..).trans ?_
      | refine (State.attempt_same (hb.sub (by decide)) ..).trans ?_
      | refine (State.raise_same (hb.sub (by decide)) ..).trans ?_
      | refine (State.withPins_same (hb.sub (by decide)) ..).trans ?_
      | refine (State.setQ_same (hb.sub (by decide)) ..).trans ?_
      | refine (State.withPat_same (hb.sub (by decide)) ..).trans ?_ | refine Same.ite ?_ ?_ | intro _
    | split
    | dsimp only

theorem execPatternApply_same (hb : Blind π [.regs, .q, .ic, .tb, .trace, .pat, .lace, .pins, .mem, .out]) (s : State) :
    SameR π (execPatternApply s) s := by
  unfold execPatternApply
  repeat' first
    | with_reducible first
      | refine SameR.guarded ?_ ?_ | refine SameR.next ?_ | refine SameR.ite ?_ ?_ | exact Same.refl _ | assumption
      | refine (State.applyPattern_same (hb.sub (by decide)) ..).trans ?_ | refine (State.startOutputs_same hb ..).trans ?_
      | intro _
    | split
    | dsimp only

theorem State.patResult_same (hb : Blind π [.regs, .ic, .out]) (s : State) (r : Nat) : Same π (State.patResult s r) s := by
  unfold State.patResult
  repeat' first
    | with_reducible first
      | exact Same.refl _ | assumption | refine (State.setF_same (hb.sub (by decide)) ..).trans ?_
      | refine (State.raise_same hb ..).trans ?_ | intro _
    | split
    | dsimp only

theorem State.applyWindow_same (hb : Blind π [.regs, .q, .ic, .tb, .trace, .pat, .lace, .pins, .mem, .out, .free]) (s : State) :
    Same π (State.applyWindow s) s := by
  unfold State.applyWindow
  repeat' first
    | with_reducible first
      | exact Same.refl _ | assumption | refine (State.applyPattern_same (hb.sub (by decide)) ..).trans ?_
      | refine (State.recordCopy_same (hb.sub (by decide)) ..).trans ?_
      | refine (State.patResult_same (hb.sub (by decide)) ..).trans ?_
      | refine (State.startOutputs_same (hb.sub (by decide)) ..).trans ?_ | refine Same.ite ?_ ?_ | refine Same.ite_fst ?_ ?_
      | intro _
    | split
    | dsimp only

theorem State.programWindow_same (hb : Blind π [.regs, .ic, .pat, .pins, .out, .free]) (s : State) (c : Nat) :
    Same π (State.programWindow s c) s := by
  unfold State.programWindow
  repeat' first
    | with_reducible first
      | exact Same.refl _ | assumption | refine (State.recordCopy_same (hb.sub (by decide)) ..).trans ?_
      | refine (State.patResult_same (hb.sub (by decide)) ..).trans ?_
      | refine (State.setF_same (hb.sub (by decide)) ..).trans ?_
      | refine (State.withPins_same (hb.sub (by decide)) ..).trans ?_
      | refine (State.withPat_same (hb.sub (by decide)) ..).trans ?_ | refine Same.ite ?_ ?_ | refine Same.ite_fst ?_ ?_
      | intro _
    | split
    | dsimp only

theorem State.patCmd_same (hb : Blind π [.regs, .q, .ic, .tb, .trace, .pat, .lace, .pins, .mem, .out, .free]) (s : State)
    (w : W64) :
    Same π (State.patCmd s w) s := by
  unfold State.patCmd
  repeat' first
    | with_reducible first
      | exact Same.refl _ | assumption | refine (State.programWindow_same (hb.sub (by decide)) ..).trans ?_
      | refine (State.setF_same (hb.sub (by decide)) ..).trans ?_ | refine (State.applyWindow_same hb ..).trans ?_
      | refine Same.ite ?_ ?_ | intro _
    | split
    | dsimp only

theorem execPatApply_same (hb : Blind π [.regs, .q, .ic, .tb, .trace, .pat, .lace, .pins, .mem, .out, .free]) (w : W64)
    (s : State) :
    SameR π (execPatApply w s) s := by
  unfold execPatApply
  repeat' first
    | with_reducible first
      | refine SameR.guarded ?_ ?_ | refine SameR.next ?_ | refine SameR.ite ?_ ?_ | exact Same.refl _ | assumption
      | refine (State.patCmd_same hb ..).trans ?_ | intro _
    | split
    | dsimp only

theorem execPatProgram_same (hb : Blind π [.regs, .q, .ic, .tb, .trace, .pat, .lace, .pins, .mem, .out, .free]) (w : W64)
    (s : State) :
    SameR π (execPatProgram w s) s := by
  unfold execPatProgram
  repeat' first
    | with_reducible first
      | refine SameR.guarded ?_ ?_ | refine SameR.next ?_ | refine SameR.ite ?_ ?_ | exact Same.refl _ | assumption
      | refine (State.patCmd_same hb ..).trans ?_ | intro _
    | split
    | dsimp only

theorem execFlashProgramDone_same (hb : Blind π [.regs, .ic, .pins, .mem, .out, .free]) (written : Nat) (complete : Bool)
    (s : State) :
    SameR π (execFlashProgramDone written complete s) s := by
  unfold execFlashProgramDone
  repeat' first
    | with_reducible first
      | refine SameR.guarded ?_ ?_ | refine SameR.next ?_ | refine SameR.ite ?_ ?_ | exact Same.refl _ | assumption
      | refine (State.recordCopy_same (hb.sub (by decide)) ..).trans ?_
      | refine (State.patResult_same (hb.sub (by decide)) ..).trans ?_
      | refine (State.programCopy_same (hb.sub (by decide)) ..).trans ?_
      | refine (State.setF_same (hb.sub (by decide)) ..).trans ?_
      | refine (State.withPins_same (hb.sub (by decide)) ..).trans ?_ | refine Same.ite ?_ ?_ | refine Same.ite_fst ?_ ?_
      | intro _
    | split
    | dsimp only


/-! ## Module Lace -/

theorem execLaceDetect_same (hb : Blind π [.regs, .ic, .trace, .pat, .lace, .mem, .out]) (l : BitVec 9) (s : State) :
    SameR π (execLaceDetect l s) s := by
  unfold execLaceDetect
  repeat' first
    | with_reducible first
      | refine SameR.guarded ?_ ?_ | refine SameR.next ?_ | refine SameR.ite ?_ ?_ | exact Same.refl _ | assumption
      | refine (State.attempt_same hb ..).trans ?_ | refine (State.setLace_same hb ..).trans ?_ | refine Same.ite ?_ ?_
      | refine Same.ite_fst ?_ ?_ | intro _
    | split
    | dsimp only

theorem State.lockLane_same (hb : Blind π [.regs]) (s : State) (inverted : Bool) (src i : Nat) :
    Same π (State.lockLane s inverted src i) s := by
  unfold State.lockLane
  repeat' first
    | with_reducible first
      | exact Same.refl _ | assumption | refine (State.setF_same hb ..).trans ?_ | refine Same.ite ?_ ?_ | intro _
    | split
    | dsimp only

theorem State.lockBy_same (hb : Blind π [.regs]) (s : State) (i : Nat) (l : List (BitVec 40)) :
    Same π (State.lockBy s i l) s := by
  unfold State.lockBy
  repeat' first
    | with_reducible first
      | exact Same.refl _ | assumption | refine (State.lockLane_same hb ..).trans ?_ | refine Same.getD ?_
      | refine Same.ite ?_ ?_ | intro _
    | split
    | dsimp only

theorem execLaceLock_same (hb : Blind π [.regs, .ic, .trace, .pat, .lace, .mem, .out]) (cdr comma : BitVec 9) (rx : List
    (List (BitVec 40))) (s : State) :
    SameR π (execLaceLock cdr comma rx s) s := by
  unfold execLaceLock
  repeat' first
    | with_reducible first
      | refine SameR.guarded ?_ ?_ | refine SameR.next ?_ | refine SameR.ite ?_ ?_ | exact Same.refl _ | assumption
      | refine (State.lockBy_same (hb.sub (by decide)) ..).trans ?_ | refine (State.setLace_same hb ..).trans ?_
      | refine Same.getD ?_ | refine (Same.foldl _ _ _ ?_).trans ?_ | refine Same.ite ?_ ?_ | refine Same.ite_fst ?_ ?_
      | intro _
    | split
    | dsimp only

theorem execLaneLockWaitExpiry_same (hb : Blind π [.regs, .ic, .trace, .pat, .lace, .mem, .out]) (s : State) :
    SameR π (execLaneLockWaitExpiry s) s := by
  unfold execLaneLockWaitExpiry
  repeat' first
    | with_reducible first
      | refine SameR.guarded ?_ ?_ | refine SameR.next ?_ | refine SameR.ite ?_ ?_ | exact Same.refl _ | assumption
      | refine (State.setLace_same hb ..).trans ?_ | intro _
    | split
    | dsimp only

theorem execLaceDeskew_same (hb : Blind π [.regs, .ic, .trace, .pat, .lace, .mem, .out]) (rx : List (List (BitVec 40)))
    (s : State) :
    SameR π (execLaceDeskew rx s) s := by
  unfold execLaceDeskew
  repeat' first
    | with_reducible first
      | refine SameR.guarded ?_ ?_ | refine SameR.next ?_ | refine SameR.ite ?_ ?_ | exact Same.refl _ | assumption
      | refine (State.setF_same (hb.sub (by decide)) ..).trans ?_ | refine (State.setLace_same hb ..).trans ?_
      | refine Same.getD ?_ | refine (Same.foldl _ _ _ ?_).trans ?_ | refine Same.ite ?_ ?_ | refine Same.ite_fst ?_ ?_
      | intro _
    | split
    | dsimp only

theorem execLaceConfig_same (hb : Blind π
    (Part.but [.pending, .mr, .pd, .park, .lines, .tb, .adm, .spr, .pins, .memSize, .lastRead])) (rx : List (BitVec 40)) (s : State) :
    SameR π (execLaceConfig rx s) s := by
  unfold execLaceConfig
  repeat' first
    | with_reducible first
      | refine SameR.guarded ?_ ?_ | refine SameR.next ?_ | refine SameR.ite ?_ ?_ | exact Same.refl _ | assumption
      | refine (State.linkUp_same hb ..).trans ?_ | refine (State.withLace_same (hb.sub (by decide)) ..).trans ?_
      | refine (State.useLanes_same (hb.sub (by decide)) ..).trans ?_
      | refine (State.failAttempt_same (hb.sub (by decide)) ..).trans ?_
      | refine (State.setF_same (hb.sub (by decide)) ..).trans ?_
      | refine (State.lastTs2_same (hb.sub (by decide)) ..).trans ?_
      | refine (State.train_same (hb.sub (by decide)) ..).trans ?_ | refine Same.ite ?_ ?_ | refine Same.ite_fst ?_ ?_
      | intro _
    | split
    | dsimp only

theorem execAttemptTimeout_same (hb : Blind π [.regs, .ic, .trace, .pat, .lace, .mem, .out]) (s : State) :
    SameR π (execAttemptTimeout s) s := by
  unfold execAttemptTimeout
  repeat' first
    | with_reducible first
      | refine SameR.guarded ?_ ?_ | refine SameR.next ?_ | refine SameR.ite ?_ ?_ | exact Same.refl _ | assumption
      | refine (State.failAttempt_same hb ..).trans ?_ | intro _
    | split
    | dsimp only

theorem execSoloProbe_same (hb : Blind π [.out]) (s : State) : SameR π (execSoloProbe s) s := by
  unfold execSoloProbe
  repeat' first
    | with_reducible first
      | refine SameR.guarded ?_ ?_ | refine SameR.next ?_ | refine SameR.ite ?_ ?_ | exact Same.refl _ | assumption
      | refine (State.train_same hb ..).trans ?_ | refine (State.emit_same hb ..).trans ?_ | intro _
    | split
    | dsimp only

theorem execPacket_same (hb : Blind π [.regs, .ic, .arb, .pair, .lace, .out]) (b : List Byte) (s : State) :
    SameR π (execPacket b s) s := by
  unfold execPacket
  repeat' first
    | with_reducible first
      | refine SameR.guarded ?_ ?_ | refine SameR.next ?_ | refine SameR.ite ?_ ?_ | exact Same.refl _ | assumption
      | refine (State.receive_same hb ..).trans ?_ | intro _
    | split
    | dsimp only

theorem execFeedback_same (hb : Blind π [.regs, .ic, .arb, .pair, .lace, .out]) (b : List Byte) (s : State) :
    SameR π (execFeedback b s) s := by
  unfold execFeedback
  repeat' first
    | with_reducible first
      | refine SameR.guarded ?_ ?_ | refine SameR.next ?_ | refine SameR.ite ?_ ?_ | exact Same.refl _ | assumption
      | refine (State.receive_same hb ..).trans ?_ | intro _
    | split
    | dsimp only

theorem execFeedbackTimer_same (hb : Blind π [.arb, .pair, .lace, .out]) (v : Fin 3) (s : State) :
    SameR π (execFeedbackTimer v s) s := by
  unfold execFeedbackTimer
  repeat' first
    | with_reducible first
      | refine SameR.guarded ?_ ?_ | refine SameR.next ?_ | refine SameR.ite ?_ ?_ | exact Same.refl _ | assumption
      | refine (State.sendFeedback_same hb ..).trans ?_ | intro _
    | split
    | dsimp only

theorem execReplayTimeout_same (hb : Blind π [.regs, .ic, .arb, .trace, .pat, .pair, .lace, .err, .mem, .out]) (v : Fin 3)
    (s : State) :
    SameR π (execReplayTimeout v s) s := by
  unfold execReplayTimeout
  repeat' first
    | with_reducible first
      | refine SameR.guarded ?_ ?_ | refine SameR.next ?_ | refine SameR.ite ?_ ?_ | exact Same.refl _ | assumption
      | refine (State.recover_same (hb.sub (by decide)) ..).trans ?_
      | refine (State.setVc_same (hb.sub (by decide)) ..).trans ?_
      | refine (State.raise_same (hb.sub (by decide)) ..).trans ?_
      | refine (State.startReplay_same (hb.sub (by decide)) ..).trans ?_ | refine Same.ite ?_ ?_ | refine Same.ite_fst ?_ ?_
      | intro _
    | split
    | dsimp only

theorem State.writeSpill_same (hb : Blind π [.regs, .pat, .mem]) (s : State) (n : Nat) (b : List Byte) :
    Same π (State.writeSpill s n b) s := by
  unfold State.writeSpill
  repeat' first
    | with_reducible first
      | exact Same.refl _ | assumption | refine (State.touchBlock_same hb ..).trans ?_
      | refine (State.writePkg_same (hb.sub (by decide)) ..).trans ?_ | refine (Same.foldl _ _ _ ?_).trans ?_ | intro _
    | split
    | dsimp only

theorem execReplaySpill_same (hb : Blind π [.regs, .arb, .pat, .pair, .lace, .mem, .out]) (s : State) :
    SameR π (execReplaySpill s) s := by
  unfold execReplaySpill
  repeat' first
    | with_reducible first
      | refine SameR.guarded ?_ ?_ | refine SameR.next ?_ | refine SameR.ite ?_ ?_ | exact Same.refl _ | assumption
      | refine (State.withLace_same (hb.sub (by decide)) ..).trans ?_
      | refine (State.writeSpill_same (hb.sub (by decide)) ..).trans ?_
      | refine (State.setVc_same (hb.sub (by decide)) ..).trans ?_
      | refine (State.arbBusy_same (hb.sub (by decide)) ..).trans ?_
      | refine (State.peak_same (hb.sub (by decide)) ..).trans ?_ | refine (State.pump_same (hb.sub (by decide)) ..).trans ?_
      | refine Same.ite ?_ ?_ | refine Same.ite_fst ?_ ?_ | intro _
    | split
    | dsimp only

theorem execRefill_same
    (hb : Blind π [.regs, .cache, .ic, .arb, .lines, .adm, .pair, .lace, .err, .spr, .pins, .out, .lastRead]) (v : Fin 3) (s : State) :
    SameR π (execRefill v s) s := by
  unfold execRefill
  repeat' first
    | with_reducible first
      | refine SameR.guarded ?_ ?_ | refine SameR.next ?_ | refine SameR.ite ?_ ?_ | exact Same.refl _ | assumption
      | refine (State.cnt_same (hb.sub (by decide)) ..).trans ?_ | refine (State.setVc_same (hb.sub (by decide)) ..).trans ?_
      | refine (State.arbBusy_same (hb.sub (by decide)) ..).trans ?_ | refine (State.fatal_same hb ..).trans ?_
      | refine (State.pump_same (hb.sub (by decide)) ..).trans ?_ | refine Same.ite ?_ ?_ | refine Same.ite_fst ?_ ?_
      | intro _
    | split
    | dsimp only

theorem execRetrainBlock_same (hb : Blind π [.lace, .out]) (s : State) : SameR π (execRetrainBlock s) s := by
  unfold execRetrainBlock
  repeat' first
    | with_reducible first
      | refine SameR.guarded ?_ ?_ | refine SameR.next ?_ | refine SameR.ite ?_ ?_ | exact Same.refl _ | assumption
      | refine (State.sendStripe_same hb ..).trans ?_ | refine (State.withLace_same (hb.sub (by decide)) ..).trans ?_
      | refine (State.endPart_same hb ..).trans ?_ | refine (State.emit_same (hb.sub (by decide)) ..).trans ?_ | intro _
    | split
    | dsimp only

theorem execAdaptationFreeze_same (hb : Blind π [.lace]) (lane : Nat) (s : State) :
    SameR π (execAdaptationFreeze lane s) s := by
  unfold execAdaptationFreeze
  repeat' first
    | with_reducible first
      | refine SameR.guarded ?_ ?_ | refine SameR.next ?_ | refine SameR.ite ?_ ?_ | exact Same.refl _ | assumption
      | refine (State.withLace_same hb ..).trans ?_ | intro _
    | split
    | dsimp only

theorem State.loseLock_same (hb : Blind π [.regs, .ic, .trace, .pat, .lace, .err, .mem, .out]) (s : State) (lane : Nat) :
    Same π (State.loseLock s lane) s := by
  unfold State.loseLock
  repeat' first
    | with_reducible first
      | exact Same.refl _ | assumption | refine (State.cnt_same (hb.sub (by decide)) ..).trans ?_
      | refine (State.recover_same hb ..).trans ?_ | refine (State.setF_same (hb.sub (by decide)) ..).trans ?_
      | refine Same.ite ?_ ?_ | intro _
    | split
    | dsimp only

theorem execLossOfLock_same (hb : Blind π [.regs, .ic, .trace, .pat, .lace, .err, .mem, .out]) (lane : Nat) (lost : Bool)
    (s : State) :
    SameR π (execLossOfLock lane lost s) s := by
  unfold execLossOfLock
  repeat' first
    | with_reducible first
      | refine SameR.guarded ?_ ?_ | refine SameR.next ?_ | refine SameR.ite ?_ ?_ | exact Same.refl _ | assumption
      | refine (State.recover_same hb ..).trans ?_ | refine (State.loseLock_same hb ..).trans ?_ | refine Same.ite ?_ ?_
      | refine Same.ite_fst ?_ ?_ | intro _
    | split
    | dsimp only

theorem execRetrain_same (hb : Blind π [.regs, .ic, .trace, .pat, .lace, .err, .mem, .out]) (w : W64) (s : State) :
    SameR π (execRetrain w s) s := by
  unfold execRetrain
  repeat' first
    | with_reducible first
      | refine SameR.guarded ?_ ?_ | refine SameR.next ?_ | refine SameR.ite ?_ ?_ | exact Same.refl _ | assumption
      | refine (State.recover_same hb ..).trans ?_ | refine (State.attempt_same (hb.sub (by decide)) ..).trans ?_
      | refine Same.ite ?_ ?_ | refine Same.ite_fst ?_ ?_ | intro _
    | split
    | dsimp only

theorem execLinkDown_same (hb : Blind π [.regs, .ic, .lace, .out]) (s : State) : SameR π (execLinkDown s) s := by
  unfold execLinkDown
  repeat' first
    | with_reducible first
      | refine SameR.guarded ?_ ?_ | refine SameR.next ?_ | refine SameR.ite ?_ ?_ | exact Same.refl _ | assumption
      | refine (State.withLace_same (hb.sub (by decide)) ..).trans ?_
      | refine (State.goDown_same (hb.sub (by decide)) ..).trans ?_ | refine Same.ite ?_ ?_ | refine Same.ite_fst ?_ ?_
      | intro _
    | split
    | dsimp only

theorem State.retireLane_same (hb : Blind π [.regs, .ic, .err, .out]) (s : State) (i : Nat) :
    Same π (State.retireLane s i) s := by
  unfold State.retireLane
  repeat' first
    | with_reducible first
      | exact Same.refl _ | assumption | refine (State.logIn_same (hb.sub (by decide)) ..).trans ?_
      | refine (State.setF_same (hb.sub (by decide)) ..).trans ?_ | refine (State.raise_same (hb.sub (by decide)) ..).trans ?_
      | refine Same.ite ?_ ?_ | intro _
    | split
    | dsimp only

theorem State.markBad_same (hb : Blind π [.regs, .ic, .trace, .pat, .lace, .err, .mem, .out]) (s : State) (lane : Nat) :
    Same π (State.markBad s lane) s := by
  unfold State.markBad
  repeat' first
    | with_reducible first
      | exact Same.refl _ | assumption | refine (State.withLace_same (hb.sub (by decide)) ..).trans ?_
      | refine (State.recover_same hb ..).trans ?_ | refine (State.retireLane_same (hb.sub (by decide)) ..).trans ?_
      | refine (State.raise_same (hb.sub (by decide)) ..).trans ?_ | refine Same.ite ?_ ?_ | intro _
    | split
    | dsimp only

theorem execLaneErrorWindow_same (hb : Blind π [.regs, .ic, .trace, .pat, .lace, .err, .spr, .mem, .out]) (lane : Nat)
    (rx : List (BitVec 40)) (s : State) :
    SameR π (execLaneErrorWindow lane rx s) s := by
  unfold execLaneErrorWindow
  repeat' first
    | with_reducible first
      | refine SameR.guarded ?_ ?_ | refine SameR.next ?_ | refine SameR.ite ?_ ?_ | exact Same.refl _ | assumption
      | refine (State.laneWords_same (hb.sub (by decide)) ..).trans ?_
      | refine (State.sat_same (hb.sub (by decide)) ..).trans ?_
      | refine (State.markBad_same (hb.sub (by decide)) ..).trans ?_
      | refine (State.loseLock_same (hb.sub (by decide)) ..).trans ?_ | refine Same.ite ?_ ?_ | refine Same.ite_fst ?_ ?_
      | intro _
    | split
    | dsimp only

theorem State.laceOff_same (hb : Blind π [.regs, .ic, .trace, .pat, .lace, .err, .mem, .out]) (s : State) :
    Same π (State.laceOff s) s := by
  unfold State.laceOff
  repeat' first
    | with_reducible first
      | exact Same.refl _ | assumption | refine (State.withLace_same (hb.sub (by decide)) ..).trans ?_
      | refine (State.goDown_same (hb.sub (by decide)) ..).trans ?_
      | refine (State.stopLaneTest_same (hb.sub (by decide)) ..).trans ?_
      | refine (State.dropSession_same (hb.sub (by decide)) ..).trans ?_
      | refine (State.setLace_same (hb.sub (by decide)) ..).trans ?_ | intro _
    | split
    | dsimp only

theorem execLaceEnable_same (hb : Blind π [.regs, .ic, .trace, .pat, .lace, .err, .mem, .out]) (on : Bool) (s : State) :
    SameR π (execLaceEnable on s) s := by
  unfold execLaceEnable
  repeat' first
    | with_reducible first
      | refine SameR.guarded ?_ ?_ | refine SameR.next ?_ | refine SameR.ite ?_ ?_ | exact Same.refl _ | assumption
      | refine (State.setF_same (hb.sub (by decide)) ..).trans ?_
      | refine (State.attempt_same (hb.sub (by decide)) ..).trans ?_ | refine (State.laceOff_same hb ..).trans ?_
      | refine Same.ite ?_ ?_ | refine Same.ite_fst ?_ ?_ | intro _
    | split
    | dsimp only


/-! ## Module InService -/

theorem State.writeErrCi_same (hb : Blind π [.regs]) (s : State) (v : W32) : Same π (State.writeErrCi s v) s := by
  unfold State.writeErrCi
  repeat' first
    | with_reducible first
      | exact Same.refl _ | assumption | refine (State.cnt_same hb ..).trans ?_ | refine (State.setF_same hb ..).trans ?_
      | refine Same.ite ?_ ?_ | intro _
    | split
    | dsimp only

theorem execErrLogCi_same (hb : Blind π [.regs]) (v : W32) (s : State) : SameR π (execErrLogCi v s) s := by
  unfold execErrLogCi
  repeat' first
    | with_reducible first
      | refine SameR.guarded ?_ ?_ | refine SameR.next ?_ | refine SameR.ite ?_ ?_ | exact Same.refl _ | assumption
      | refine (State.writeErrCi_same hb ..).trans ?_ | intro _
    | split
    | dsimp only

theorem execErrLogRead_same (hb : Blind π [.arb, .err, .lastRead]) (w : Fin 4) (s : State) :
    SameR π (execErrLogRead w s) s := by
  unfold execErrLogRead
  repeat' first
    | with_reducible first
      | refine SameR.guarded ?_ ?_ | refine SameR.next ?_ | refine SameR.ite ?_ ?_ | exact Same.refl _ | assumption
      | refine (State.beginRead_same (hb.sub (by decide)) ..).trans ?_ | refine (State.readErrWord_same hb ..).trans ?_
      | intro _
    | split
    | dsimp only

theorem State.emptyBank_same (hb : Blind π [.cache]) (s : State) (b : Nat) : Same π (State.emptyBank s b) s := by
  unfold State.emptyBank
  repeat' first
    | with_reducible first
      | exact Same.refl _ | assumption | refine (State.withCache_same hb ..).trans ?_
      | refine (Same.forEach _ _ _ ?_).trans ?_ | intro _
    | split
    | dsimp only

theorem State.retireBanks_same (hb : Blind π [.regs, .cache, .ic, .err, .spr, .out]) (s : State) :
    Same π (State.retireBanks s) s := by
  unfold State.retireBanks
  repeat' first
    | with_reducible first
      | exact Same.refl _ | assumption | refine (State.withSpr_same (hb.sub (by decide)) ..).trans ?_
      | refine (State.setF_same (hb.sub (by decide)) ..).trans ?_ | refine (State.raise_same (hb.sub (by decide)) ..).trans ?_
      | refine (State.emptyBank_same (hb.sub (by decide)) ..).trans ?_
      | refine (State.log_same (hb.sub (by decide)) ..).trans ?_ | refine (Same.forEach _ _ _ ?_).trans ?_
      | refine Same.ite ?_ ?_ | intro _
    | split
    | dsimp only

theorem State.rowOut_same (hb : Blind π [.regs]) (s : State) : Same π (State.rowOut s) s := by
  unfold State.rowOut
  repeat' first
    | with_reducible first
      | exact Same.refl _ | assumption | refine (State.setF_same hb ..).trans ?_ | intro _
    | split
    | dsimp only

theorem State.rowFails_same
    (hb : Blind π [.regs, .cache, .ic, .arb, .lines, .adm, .pair, .lace, .err, .spr, .pins, .out, .lastRead]) (s : State) (a row : Nat) (fatal : Bool) :
    Same π (State.rowFails s a row fatal) s := by
  unfold State.rowFails
  repeat' first
    | with_reducible first
      | exact Same.refl _ | assumption | refine (State.withSpr_same (hb.sub (by decide)) ..).trans ?_
      | refine (State.setF_same (hb.sub (by decide)) ..).trans ?_
      | refine (State.retireBanks_same (hb.sub (by decide)) ..).trans ?_
      | refine (State.rowOut_same (hb.sub (by decide)) ..).trans ?_ | refine (State.fatal_same hb ..).trans ?_
      | refine (State.log_same (hb.sub (by decide)) ..).trans ?_ | refine Same.ite ?_ ?_ | intro _
    | split
    | dsimp only

theorem State.lostContext_same
    (hb : Blind π [.regs, .cache, .ic, .arb, .lines, .adm, .pair, .lace, .err, .spr, .pins, .out, .lastRead, .free]) (s : State) (k : CtxKind) (n row : Nat) :
    Same π (State.lostContext s k n row) s := by
  unfold State.lostContext
  repeat' first
    | with_reducible first
      | exact Same.refl _ | assumption | refine (State.withFree_same (hb.sub (by decide)) ..).trans ?_
      | refine (State.chill_same (hb.sub (by decide)) ..).trans ?_ | refine (State.cnt_same (hb.sub (by decide)) ..).trans ?_
      | refine (State.prefetch_same (hb.sub (by decide)) ..).trans ?_
      | refine (State.fatal_same (hb.sub (by decide)) ..).trans ?_
      | refine (State.rowFails_same (hb.sub (by decide)) ..).trans ?_ | refine Same.ite ?_ ?_ | intro _
    | split
    | dsimp only

theorem State.lostRow_same
    (hb : Blind π [.regs, .cache, .ic, .arb, .lines, .adm, .pair, .lace, .err, .spr, .pins, .out, .lastRead]) (s : State) (a row : Nat) :
    Same π (State.lostRow s a row) s := by
  unfold State.lostRow
  repeat' first
    | with_reducible first
      | exact Same.refl _ | assumption | refine (State.fatal_same hb ..).trans ?_
      | refine (State.rowFails_same hb ..).trans ?_ | intro _
    | split
    | dsimp only

theorem State.bistNext_same
    (hb : Blind π [.regs, .cache, .ic, .arb, .lines, .adm, .pair, .lace, .err, .spr, .pins, .out, .lastRead]) (s : State) (faulty : Bool) :
    Same π (State.bistNext s faulty) s := by
  unfold State.bistNext
  repeat' first
    | with_reducible first
      | exact Same.refl _ | assumption | refine (State.cnt_same (hb.sub (by decide)) ..).trans ?_
      | refine (State.withSpr_same (hb.sub (by decide)) ..).trans ?_ | refine (State.rowFails_same hb ..).trans ?_
      | refine Same.ite ?_ ?_ | intro _
    | split
    | dsimp only

theorem execBistRow_same
    (hb : Blind π [.regs, .cache, .ic, .arb, .lines, .adm, .pair, .lace, .err, .spr, .pins, .out, .lastRead, .free]) (found : RowReport) (s : State) :
    SameR π (execBistRow found s) s := by
  unfold execBistRow
  repeat' first
    | with_reducible first
      | refine SameR.guarded ?_ ?_ | refine SameR.next ?_ | refine SameR.ite ?_ ?_ | exact Same.refl _ | assumption
      | refine (State.lostRow_same (hb.sub (by decide)) ..).trans ?_
      | refine (State.cnt_same (hb.sub (by decide)) ..).trans ?_
      | refine (State.bistNext_same (hb.sub (by decide)) ..).trans ?_ | refine (State.lostContext_same hb ..).trans ?_
      | refine Same.ite ?_ ?_ | refine Same.ite_fst ?_ ?_ | intro _
    | split
    | dsimp only

theorem State.failOut_same (hb : Blind π [.regs, .arb, .err, .spr]) (s : State) (red : Bool) (u reason : Nat) :
    Same π (State.failOut s red u reason) s := by
  unfold State.failOut
  repeat' first
    | with_reducible first
      | exact Same.refl _ | assumption | refine (State.retireRed_same (hb.sub (by decide)) ..).trans ?_
      | refine (State.dropShadow_same (hb.sub (by decide)) ..).trans ?_
      | refine (State.retireEng_same (hb.sub (by decide)) ..).trans ?_
      | refine (State.log_same (hb.sub (by decide)) ..).trans ?_ | refine Same.ite ?_ ?_ | intro _
    | split
    | dsimp only

theorem execControlStateParityError_same (hb : Blind π (Part.but [.pending, .mr, .pd, .park, .tb, .memSize, .free]))
    (red : Bool) (u : Nat) (s : State) :
    SameR π (execControlStateParityError red u s) s := by
  unfold execControlStateParityError
  repeat' first
    | with_reducible first
      | refine SameR.guarded ?_ ?_ | refine SameR.next ?_ | refine SameR.ite ?_ ?_ | exact Same.refl _ | assumption
      | refine (State.failEng_same hb ..).trans ?_ | refine (State.refuseHand_same (hb.sub (by decide)) ..).trans ?_
      | refine (State.failOut_same (hb.sub (by decide)) ..).trans ?_
      | refine (State.failRed_same (hb.sub (by decide)) ..).trans ?_ | refine Same.ite ?_ ?_ | refine Same.ite_fst ?_ ?_
      | intro _
    | split
    | dsimp only

theorem State.testCmd_same (hb : Blind π [.regs]) (s : State) (w : W64) (pre : Bool) (start : State → State)
    (h_start : ∀ s , Same π (start s ) s) :
    Same π (State.testCmd s w pre start) s := by
  unfold State.testCmd
  repeat' first
    | with_reducible first
      | exact Same.refl _ | assumption | refine (h_start ..).trans ?_ | refine (State.setF_same hb ..).trans ?_
      | refine Same.ite ?_ ?_ | intro _
    | split
    | dsimp only

theorem State.testBegin_same (hb : Blind π [.regs, .spr]) (s : State) (kind unit former : Nat) (online : Bool) :
    Same π (State.testBegin s kind unit former online) s := by
  unfold State.testBegin
  repeat' first
    | with_reducible first
      | exact Same.refl _ | assumption | refine (State.setReg_same (hb.sub (by decide)) ..).trans ?_
      | refine (State.withSpr_same (hb.sub (by decide)) ..).trans ?_
      | refine (State.setF_same (hb.sub (by decide)) ..).trans ?_ | refine Same.ite ?_ ?_ | intro _
    | split
    | dsimp only

theorem State.engTest_same (hb : Blind π [.regs, .spr]) (s : State) (w : W64) : Same π (State.engTest s w) s := by
  unfold State.engTest
  repeat' first
    | with_reducible first
      | exact Same.refl _ | assumption | refine (State.testBegin_same hb ..).trans ?_
      | refine (State.testCmd_same (hb.sub (by decide)) (h_start := ?_) ..).trans ?_
      | refine (State.setEng_same (hb.sub (by decide)) ..).trans ?_ | intro _
    | split
    | dsimp only

theorem State.redTest_same (hb : Blind π [.regs, .arb, .spr]) (s : State) (w : W64) : Same π (State.redTest s w) s := by
  unfold State.redTest
  repeat' first
    | with_reducible first
      | exact Same.refl _ | assumption | refine (State.testBegin_same (hb.sub (by decide)) ..).trans ?_
      | refine (State.setRed_same (hb.sub (by decide)) ..).trans ?_
      | refine (State.testCmd_same (hb.sub (by decide)) (h_start := ?_) ..).trans ?_ | intro _
    | split
    | dsimp only

theorem State.shadowTest_same (hb : Blind π [.regs, .ic, .arb, .err, .spr, .out]) (s : State) (w : W64) (selfTest : Bool) :
    Same π (State.shadowTest s w selfTest) s := by
  unfold State.shadowTest
  repeat' first
    | with_reducible first
      | exact Same.refl _ | assumption | refine (State.testBegin_same (hb.sub (by decide)) ..).trans ?_
      | refine (State.setRed_same (hb.sub (by decide)) ..).trans ?_
      | refine (State.testCmd_same (hb.sub (by decide)) (h_start := ?_) ..).trans ?_
      | refine (State.withSpr_same (hb.sub (by decide)) ..).trans ?_
      | refine (State.setF_same (hb.sub (by decide)) ..).trans ?_
      | refine (State.endTest_same (hb.sub (by decide)) ..).trans ?_ | refine Same.ite ?_ ?_ | intro _
    | split
    | dsimp only

theorem State.shadowEnd_same (hb : Blind π [.regs, .spr]) (s : State) (w : W64) : Same π (State.shadowEnd s w) s := by
  unfold State.shadowEnd
  repeat' first
    | with_reducible first
      | exact Same.refl _ | assumption | refine (State.testBegin_same hb ..).trans ?_
      | refine (State.testCmd_same (hb.sub (by decide)) (h_start := ?_) ..).trans ?_ | intro _
    | split
    | dsimp only

theorem State.laneTestCmd_same (hb : Blind π [.regs, .spr]) (s : State) (w : W64) : Same π (State.laneTestCmd s w) s := by
  unfold State.laneTestCmd
  repeat' first
    | with_reducible first
      | exact Same.refl _ | assumption | refine (State.testBegin_same hb ..).trans ?_
      | refine (State.testCmd_same (hb.sub (by decide)) (h_start := ?_) ..).trans ?_
      | refine (State.withSpr_same (hb.sub (by decide)) ..).trans ?_
      | refine (State.setF_same (hb.sub (by decide)) ..).trans ?_ | intro _
    | split
    | dsimp only

theorem State.portTestCmd_same (hb : Blind π [.regs, .spr]) (s : State) (w : W64) : Same π (State.portTestCmd s w) s := by
  unfold State.portTestCmd
  repeat' first
    | with_reducible first
      | exact Same.refl _ | assumption | refine (State.testBegin_same hb ..).trans ?_
      | refine (State.testCmd_same (hb.sub (by decide)) (h_start := ?_) ..).trans ?_ | intro _
    | split
    | dsimp only

theorem execEngineSelfTest_same (hb : Blind π [.regs, .spr]) (w : W64) (s : State) : SameR π (execEngineSelfTest w s) s := by
  unfold execEngineSelfTest
  repeat' first
    | with_reducible first
      | refine SameR.guarded ?_ ?_ | refine SameR.next ?_ | refine SameR.ite ?_ ?_ | exact Same.refl _ | assumption
      | refine (State.engTest_same hb ..).trans ?_ | intro _
    | split
    | dsimp only

theorem execReductionSelfTest_same (hb : Blind π [.regs, .arb, .spr]) (w : W64) (s : State) :
    SameR π (execReductionSelfTest w s) s := by
  unfold execReductionSelfTest
  repeat' first
    | with_reducible first
      | refine SameR.guarded ?_ ?_ | refine SameR.next ?_ | refine SameR.ite ?_ ?_ | exact Same.refl _ | assumption
      | refine (State.redTest_same hb ..).trans ?_ | intro _
    | split
    | dsimp only

theorem execShadowStart_same (hb : Blind π [.regs, .ic, .arb, .err, .spr, .out]) (w : W64) (selfTest : Bool) (s : State) :
    SameR π (execShadowStart w selfTest s) s := by
  unfold execShadowStart
  repeat' first
    | with_reducible first
      | refine SameR.guarded ?_ ?_ | refine SameR.next ?_ | refine SameR.ite ?_ ?_ | exact Same.refl _ | assumption
      | refine (State.shadowTest_same hb ..).trans ?_ | intro _
    | split
    | dsimp only

theorem execShadowStop_same (hb : Blind π [.regs, .spr]) (w : W64) (s : State) : SameR π (execShadowStop w s) s := by
  unfold execShadowStop
  repeat' first
    | with_reducible first
      | refine SameR.guarded ?_ ?_ | refine SameR.next ?_ | refine SameR.ite ?_ ?_ | exact Same.refl _ | assumption
      | refine (State.shadowEnd_same hb ..).trans ?_ | intro _
    | split
    | dsimp only

theorem execLaneTest_same (hb : Blind π [.regs, .spr]) (w : W64) (s : State) : SameR π (execLaneTest w s) s := by
  unfold execLaneTest
  repeat' first
    | with_reducible first
      | refine SameR.guarded ?_ ?_ | refine SameR.next ?_ | refine SameR.ite ?_ ?_ | exact Same.refl _ | assumption
      | refine (State.laneTestCmd_same hb ..).trans ?_ | intro _
    | split
    | dsimp only

theorem execPortTest_same (hb : Blind π [.regs, .spr]) (w : W64) (s : State) : SameR π (execPortTest w s) s := by
  unfold execPortTest
  repeat' first
    | with_reducible first
      | refine SameR.guarded ?_ ?_ | refine SameR.next ?_ | refine SameR.ite ?_ ?_ | exact Same.refl _ | assumption
      | refine (State.portTestCmd_same hb ..).trans ?_ | intro _
    | split
    | dsimp only

theorem State.testUnitEnd_same (hb : Blind π [.regs, .ic, .arb, .err, .spr, .out]) (s : State) (pass : Bool) :
    Same π (State.testUnitEnd s pass) s := by
  unfold State.testUnitEnd
  repeat' first
    | with_reducible first
      | exact Same.refl _ | assumption | refine (State.setRed_same (hb.sub (by decide)) ..).trans ?_
      | refine (State.withSpr_same (hb.sub (by decide)) ..).trans ?_
      | refine (State.retireLane_same (hb.sub (by decide)) ..).trans ?_
      | refine (State.setF_same (hb.sub (by decide)) ..).trans ?_
      | refine (State.setEng_same (hb.sub (by decide)) ..).trans ?_
      | refine (State.failOut_same (hb.sub (by decide)) ..).trans ?_ | refine Same.ite ?_ ?_ | intro _
    | split
    | dsimp only

theorem State.laneTestEnd_same (hb : Blind π [.regs, .ic, .arb, .trace, .pat, .lace, .err, .spr, .mem, .out]) (s : State)
    (errors : Nat) (checked : W64) :
    Same π (State.laneTestEnd s errors checked) s := by
  unfold State.laneTestEnd
  repeat' first
    | with_reducible first
      | exact Same.refl _ | assumption | refine (State.recover_same (hb.sub (by decide)) ..).trans ?_
      | refine (State.testUnitEnd_same (hb.sub (by decide)) ..).trans ?_
      | refine (State.endTest_same (hb.sub (by decide)) ..).trans ?_ | refine Same.ite ?_ ?_ | intro _
    | split
    | dsimp only

theorem execTestDone_same (hb : Blind π [.regs, .ic, .arb, .trace, .pat, .lace, .err, .spr, .mem, .out]) (pass : Bool)
    (errors : W32) (checked : W64) (s : State) :
    SameR π (execTestDone pass errors checked s) s := by
  unfold execTestDone
  repeat' first
    | with_reducible first
      | refine SameR.guarded ?_ ?_ | refine SameR.next ?_ | refine SameR.ite ?_ ?_ | exact Same.refl _ | assumption
      | refine (State.laneTestEnd_same hb ..).trans ?_ | refine (State.testUnitEnd_same (hb.sub (by decide)) ..).trans ?_
      | refine (State.endTest_same (hb.sub (by decide)) ..).trans ?_ | refine Same.ite ?_ ?_ | refine Same.ite_fst ?_ ?_
      | intro _
    | split
    | dsimp only


end Sys2Proof.Machine
end

