-- ==== Sys2Proof/Laws/FrameCommands.lean ====
section
/-!
SUPPORT. Frames of the remaining commands, and the clock: each lemma `X_same` says which parts of the state `X` can
change, and that everything which does not look at them stays.
-/
namespace Sys2Proof.Machine

variable {β : Type} {π : State → β}

/-! ## Module DataPath -/

theorem State.readBack_same (hb : Blind π [.arb]) (s : State) (res : Nat) (w : SentRead) :
    Same π (State.readBack s res w) s := by
  unfold State.readBack
  repeat' first
    | with_reducible first
      | exact Same.refl _ | assumption | refine (State.arbBusy_same hb ..).trans ?_
      | refine (State.backRead_same hb ..).trans ?_ | refine Same.ite ?_ ?_ | intro _
    | split
    | dsimp only

theorem State.readTable_same (hb : Blind π [.regs]) (s : State) (f : Flight) (d : Dir) (a n : Nat) (ans : ReadAns) :
    Same π (State.readTable s f d a n ans).1 s := by
  unfold State.readTable
  repeat' first
    | with_reducible first
      | exact Same.refl _ | assumption | refine (State.portRead_same hb ..).trans ?_ | refine (Same.foldl _ _ _ ?_).trans ?_
      | refine (Same.foldl_fst _ _ _ ?_).trans ?_ | refine Same.ite ?_ ?_ | refine Same.ite_fst ?_ ?_ | intro _
    | split
    | dsimp only

theorem State.endUnread_same (hb : Blind π
    (Part.but [.pending, .mr, .pd, .park, .tb, .adm, .spr, .pins, .memSize, .lastRead, .free])) (s : State) (f : Flight) (st : Nat) :
    Same π (State.endUnread s f st) s := by
  unfold State.endUnread
  repeat' first
    | with_reducible first
      | exact Same.refl _ | assumption | refine (State.endEntry_same (hb.sub (by decide)) ..).trans ?_
      | refine (State.settle_same hb ..).trans ?_ | intro _
    | split
    | dsimp only

theorem execFragmentTableReadDone_same (hb : Blind π (Part.but [.pending, .mr, .pd, .tb, .memSize])) (q : BitVec 22)
    (i : W32) (d : Dir) (ans : ReadAns) (s : State) :
    SameR π (execFragmentTableReadDone q i d ans s) s := by
  unfold execFragmentTableReadDone
  repeat' first
    | with_reducible first
      | refine SameR.guarded ?_ ?_ | refine SameR.next ?_ | refine SameR.ite ?_ ?_ | exact Same.refl _ | assumption
      | refine (State.updFl_same (hb.sub (by decide)) ..).trans ?_ | refine (State.openStitch_same hb ..).trans ?_
      | refine (State.readBack_same (hb.sub (by decide)) ..).trans ?_
      | refine (State.readTable_same (hb.sub (by decide)) ..).trans ?_
      | refine (State.backRead_same (hb.sub (by decide)) ..).trans ?_
      | refine (State.endUnread_same (hb.sub (by decide)) ..).trans ?_ | refine (Same.forEach _ _ _ ?_).trans ?_
      | refine Same.ite ?_ ?_ | refine Same.ite_fst ?_ ?_ | intro _
    | split
    | dsimp only

theorem execSourceListReadDone_same (hb : Blind π (Part.but [.pending, .mr, .pd, .tb, .memSize, .lastRead, .free]))
    (q : BitVec 22) (i : W32) (ans : ReadAns) (s : State) :
    SameR π (execSourceListReadDone q i ans s) s := by
  unfold execSourceListReadDone
  repeat' first
    | with_reducible first
      | refine SameR.guarded ?_ ?_ | refine SameR.next ?_ | refine SameR.ite ?_ ?_ | exact Same.refl _ | assumption
      | refine (State.updFl_same (hb.sub (by decide)) ..).trans ?_ | refine (State.malformed_same hb ..).trans ?_
      | refine (State.readBack_same (hb.sub (by decide)) ..).trans ?_
      | refine (State.readTable_same (hb.sub (by decide)) ..).trans ?_
      | refine (State.backRead_same (hb.sub (by decide)) ..).trans ?_
      | refine (State.endUnread_same (hb.sub (by decide)) ..).trans ?_ | refine Same.ite ?_ ?_ | refine Same.ite_fst ?_ ?_
      | intro _
    | split
    | dsimp only

theorem execDataReadDone_same (hb : Blind π (Part.but [.pending, .mr, .pd, .park, .tb, .memSize])) (e src : Nat)
    (ans : ReadAns) (s : State) :
    SameR π (execDataReadDone e src ans s) s := by
  unfold execDataReadDone
  repeat' first
    | with_reducible first
      | refine SameR.guarded ?_ ?_ | refine SameR.next ?_ | refine SameR.ite ?_ ?_ | exact Same.refl _ | assumption
      | refine (State.stageRead_same (hb.sub (by decide)) ..).trans ?_ | refine (State.engineGo_same hb ..).trans ?_
      | refine (State.goneRead_same (hb.sub (by decide)) ..).trans ?_ | intro _
    | split
    | dsimp only

theorem State.reap_same (hb : Blind π [.fl]) (s : State) (q : Nat) (i : W32) : Same π (State.reap s q i) s := by
  unfold State.reap
  repeat' first
    | with_reducible first
      | exact Same.refl _ | assumption | refine (State.dropFl_same hb ..).trans ?_ | refine Same.ite ?_ ?_ | intro _
    | split
    | dsimp only

theorem State.failWrite_same (hb : Blind π
    (Part.but [.pending, .mr, .pd, .park, .tb, .adm, .spr, .pins, .memSize, .lastRead, .free])) (s : State) (q : Nat) (i : W32) (w st : Nat) :
    Same π (State.failWrite s q i w st) s := by
  unfold State.failWrite
  repeat' first
    | with_reducible first
      | exact Same.refl _ | assumption | refine (State.updFl_same (hb.sub (by decide)) ..).trans ?_
      | refine (State.endEntry_same (hb.sub (by decide)) ..).trans ?_
      | refine (State.reap_same (hb.sub (by decide)) ..).trans ?_ | refine (State.settle_same hb ..).trans ?_ | intro _
    | split
    | dsimp only

theorem State.wroteData_same (hb : Blind π
    (Part.but [.pending, .mr, .pd, .park, .tb, .adm, .spr, .pins, .memSize, .lastRead, .free])) (s : State) (q : Nat) (i : W32) (x : DataWrite) :
    Same π (State.wroteData s q i x) s := by
  unfold State.wroteData
  repeat' first
    | with_reducible first
      | exact Same.refl _ | assumption | refine (State.updFl_same (hb.sub (by decide)) ..).trans ?_
      | refine (State.reap_same (hb.sub (by decide)) ..).trans ?_ | refine (State.settle_same hb ..).trans ?_
      | refine Same.ite ?_ ?_ | intro _
    | split
    | dsimp only

theorem State.acceptWrite_same (hb : Blind π [.regs, .fl, .mem]) (s : State) (q : Nat) (x : DataWrite) (poison : Bool) :
    Same π (State.acceptWrite s q x poison) s := by
  unfold State.acceptWrite
  repeat' first
    | with_reducible first
      | exact Same.refl _ | assumption | refine (State.cover_same (hb.sub (by decide)) ..).trans ?_
      | refine (State.land_same (hb.sub (by decide)) ..).trans ?_ | intro _
    | split
    | dsimp only

theorem execDataWriteAck_same (hb : Blind π
    (Part.but [.pending, .mr, .pd, .park, .tb, .adm, .spr, .pins, .memSize, .lastRead, .free])) (q : BitVec 22) (i : W32) (w : Nat) (s : State) :
    SameR π (execDataWriteAck q i w s) s := by
  unfold execDataWriteAck
  repeat' first
    | with_reducible first
      | refine SameR.guarded ?_ ?_ | refine SameR.next ?_ | refine SameR.ite ?_ ?_ | exact Same.refl _ | assumption
      | refine (State.updFl_same (hb.sub (by decide)) ..).trans ?_ | refine (State.cnt_same (hb.sub (by decide)) ..).trans ?_
      | refine (State.failWrite_same hb ..).trans ?_ | refine (State.acceptWrite_same (hb.sub (by decide)) ..).trans ?_
      | refine (State.wroteData_same hb ..).trans ?_ | refine Same.ite ?_ ?_ | refine Same.ite_fst ?_ ?_ | intro _
    | split
    | dsimp only

theorem execEntryComplete_same (hb : Blind π
    (Part.but [.pending, .mr, .pd, .park, .lines, .tb, .adm, .spr, .pins, .memSize, .lastRead, .free])) (q : BitVec 22) (i : W32) (s : State) :
    SameR π (execEntryComplete q i s) s := by
  unfold execEntryComplete
  repeat' first
    | with_reducible first
      | refine SameR.guarded ?_ ?_ | refine SameR.next ?_ | refine SameR.ite ?_ ?_ | exact Same.refl _ | assumption
      | refine (State.tryComplete_same hb ..).trans ?_ | intro _
    | split
    | dsimp only

theorem State.releaseHeld_same (hb : Blind π [.regs, .ic, .out]) (s : State) (p : Nat) : Same π (State.releaseHeld s p) s := by
  unfold State.releaseHeld
  repeat' first
    | with_reducible first
      | exact Same.refl _ | assumption | refine (State.withIc_same (hb.sub (by decide)) ..).trans ?_
      | refine (State.sendMsg_same hb ..).trans ?_ | refine (Same.forEach _ _ _ ?_).trans ?_ | refine Same.ite ?_ ?_
      | refine Same.ite_fst ?_ ?_ | intro _
    | split
    | dsimp only

theorem State.sendFlushes_same (hb : Blind π [.ic, .out]) (s : State) : Same π (State.sendFlushes s) s := by
  unfold State.sendFlushes
  repeat' first
    | with_reducible first
      | exact Same.refl _ | assumption | refine (State.withIc_same (hb.sub (by decide)) ..).trans ?_
      | refine (State.emit_same (hb.sub (by decide)) ..).trans ?_ | refine (Same.forEach _ _ _ ?_).trans ?_
      | refine Same.ite ?_ ?_ | intro _
    | split
    | dsimp only

theorem execFlushReadDone_same (hb : Blind π
    (Part.but [.pending, .mr, .pd, .park, .lines, .tb, .adm, .spr, .pins, .memSize, .lastRead, .free])) (q : BitVec 22) (i : W32) (p : Fin 2) (s : State) :
    SameR π (execFlushReadDone q i p s) s := by
  unfold execFlushReadDone
  repeat' first
    | with_reducible first
      | refine SameR.guarded ?_ ?_ | refine SameR.next ?_ | refine SameR.ite ?_ ?_ | exact Same.refl _ | assumption
      | refine (State.updFl_same (hb.sub (by decide)) ..).trans ?_
      | refine (State.releaseHeld_same (hb.sub (by decide)) ..).trans ?_ | refine (State.finish_same hb ..).trans ?_
      | refine Same.ite ?_ ?_ | refine Same.ite_fst ?_ ?_ | intro _
    | split
    | dsimp only

theorem State.remoteFail_same (hb : Blind π
    (Part.but [.pending, .mr, .pd, .park, .tb, .adm, .spr, .pins, .memSize, .lastRead, .free])) (s : State) (q : Nat) (i : W32) (reason ofs : Nat) :
    Same π (State.remoteFail s q i reason ofs) s := by
  unfold State.remoteFail
  repeat' first
    | with_reducible first
      | exact Same.refl _ | assumption | refine (State.endEntry_same (hb.sub (by decide)) ..).trans ?_
      | refine (State.reap_same (hb.sub (by decide)) ..).trans ?_ | refine (State.setF_same (hb.sub (by decide)) ..).trans ?_
      | refine (State.settle_same hb ..).trans ?_ | intro _
    | split
    | dsimp only

theorem execDeliveryReport_same (hb : Blind π
    (Part.but [.pending, .mr, .pd, .park, .tb, .adm, .spr, .pins, .memSize, .lastRead, .free])) (q : BitVec 22) (i : W32) (w : Nat) (reason : Nat) (s : State) :
    SameR π (execDeliveryReport q i w reason s) s := by
  unfold execDeliveryReport
  repeat' first
    | with_reducible first
      | refine SameR.guarded ?_ ?_ | refine SameR.next ?_ | refine SameR.ite ?_ ?_ | exact Same.refl _ | assumption
      | refine (State.updFl_same (hb.sub (by decide)) ..).trans ?_ | refine (State.remoteFail_same hb ..).trans ?_
      | refine (State.wroteData_same hb ..).trans ?_ | refine Same.ite ?_ ?_ | refine Same.ite_fst ?_ ?_ | intro _
    | split
    | dsimp only

theorem State.dropGet_same (hb : Blind π [.fl]) (s : State) (q : Nat) (i : W32) (e : Nat) :
    Same π (State.dropGet s q i e) s := by
  unfold State.dropGet
  repeat' first
    | with_reducible first
      | exact Same.refl _ | assumption | refine (State.updStitch_same hb ..).trans ?_ | intro _
    | split
    | dsimp only

theorem execGetResponse_same (hb : Blind π (Part.but [.pending, .mr, .pd, .park, .tb, .memSize])) (e : Nat)
    (data : Segment) (ans : NetAns) (s : State) :
    SameR π (execGetResponse e data ans s) s := by
  unfold execGetResponse
  repeat' first
    | with_reducible first
      | refine SameR.guarded ?_ ?_ | refine SameR.next ?_ | refine SameR.ite ?_ ?_ | exact Same.refl _ | assumption
      | refine (State.stageBytes_same (hb.sub (by decide)) ..).trans ?_
      | refine (State.remoteFail_same (hb.sub (by decide)) ..).trans ?_ | refine (State.engineGo_same hb ..).trans ?_
      | refine (State.dropGet_same (hb.sub (by decide)) ..).trans ?_ | refine Same.ite ?_ ?_ | refine Same.ite_fst ?_ ?_
      | intro _
    | split
    | dsimp only

theorem execNetpTimeout_same (hb : Blind π
    (Part.but [.pending, .mr, .pd, .park, .tb, .adm, .spr, .pins, .memSize, .lastRead, .free])) (q : BitVec 22) (i : W32) (s : State) :
    SameR π (execNetpTimeout q i s) s := by
  unfold execNetpTimeout
  repeat' first
    | with_reducible first
      | refine SameR.guarded ?_ ?_ | refine SameR.next ?_ | refine SameR.ite ?_ ?_ | exact Same.refl _ | assumption
      | refine (State.updFl_same (hb.sub (by decide)) ..).trans ?_ | refine (State.remoteFail_same hb ..).trans ?_
      | refine (State.dropGet_same (hb.sub (by decide)) ..).trans ?_ | intro _
    | split
    | dsimp only

theorem execChkInjArm_same (hb : Blind π [.regs]) (hop : BitVec 3) (s : State) : SameR π (execChkInjArm hop s) s := by
  unfold execChkInjArm
  repeat' first
    | with_reducible first
      | refine SameR.guarded ?_ ?_ | refine SameR.next ?_ | refine SameR.ite ?_ ?_ | exact Same.refl _ | assumption
      | refine (State.setF_same hb ..).trans ?_ | intro _
    | split
    | dsimp only

theorem execMerge_same (hb : Blind π [.regs, .mem]) (a : W64) (new : List Byte) (s : State) :
    SameR π (execMerge a new s) s := by
  unfold execMerge
  repeat' first
    | with_reducible first
      | refine SameR.guarded ?_ ?_ | refine SameR.next ?_ | refine SameR.ite ?_ ?_ | exact Same.refl _ | assumption
      | refine (State.writeWord_same hb ..).trans ?_ | intro _
    | split
    | dsimp only


/-! ## Module Mirror -/

theorem State.updMq_same (hb : Blind π [.cache, .pair]) (s : State) (q : Nat) (g : QCtx → QCtx) :
    Same π (State.updMq s q g) s := by
  unfold State.updMq
  repeat' first
    | with_reducible first
      | exact Same.refl _ | assumption | refine (State.warm_same (hb.sub (by decide)) ..).trans ?_
      | refine (State.setMq_same (hb.sub (by decide)) ..).trans ?_ | refine Same.ite ?_ ?_ | intro _
    | split
    | dsimp only

theorem State.updMcq_same (hb : Blind π [.cache, .pair]) (s : State) (c : Nat) (g : CqCtx → CqCtx) :
    Same π (State.updMcq s c g) s := by
  unfold State.updMcq
  repeat' first
    | with_reducible first
      | exact Same.refl _ | assumption | refine (State.warm_same (hb.sub (by decide)) ..).trans ?_
      | refine (State.setMcq_same (hb.sub (by decide)) ..).trans ?_ | refine Same.ite ?_ ?_ | intro _
    | split
    | dsimp only

theorem State.recSnap_same (hb : Blind π [.cache, .pair]) (s : State) (r : MRec) : Same π (State.recSnap s r) s := by
  unfold State.recSnap
  repeat' first
    | with_reducible first
      | exact Same.refl _ | assumption | refine (State.updMq_same hb ..).trans ?_ | intro _
    | split
    | dsimp only

theorem State.recCi_same (hb : Blind π [.regs, .cache, .pair, .err]) (s : State) (r : MRec) : Same π (State.recCi s r) s := by
  unfold State.recCi
  repeat' first
    | with_reducible first
      | exact Same.refl _ | assumption | refine (State.updMq_same (hb.sub (by decide)) ..).trans ?_
      | refine (State.withPair_same (hb.sub (by decide)) ..).trans ?_
      | refine (State.log_same (hb.sub (by decide)) ..).trans ?_ | intro _
    | split
    | dsimp only

theorem State.recStart_same (hb : Blind π [.regs, .ctr, .pair, .err]) (s : State) (r : MRec) :
    Same π (State.recStart s r) s := by
  unfold State.recStart
  repeat' first
    | with_reducible first
      | exact Same.refl _ | assumption | refine (State.updLog_same (hb.sub (by decide)) ..).trans ?_
      | refine (State.addMirror_same (hb.sub (by decide)) ..).trans ?_ | refine Same.ite ?_ ?_ | intro _
    | split
    | dsimp only

theorem State.recComplete_same (hb : Blind π [.regs, .ctr, .pair, .err]) (s : State) (r : MRec) (rec : List W64) :
    Same π (State.recComplete s r rec) s := by
  unfold State.recComplete
  repeat' first
    | with_reducible first
      | exact Same.refl _ | assumption | refine (State.updLog_same (hb.sub (by decide)) ..).trans ?_
      | refine (State.addMirror_same (hb.sub (by decide)) ..).trans ?_ | refine Same.ite ?_ ?_ | intro _
    | split
    | dsimp only

theorem State.recCtr_same (hb : Blind π [.regs, .ctr, .cache, .pair, .err]) (s : State) (r : MRec) :
    Same π (State.recCtr s r) s := by
  unfold State.recCtr
  repeat' first
    | with_reducible first
      | exact Same.refl _ | assumption | refine (State.warm_same (hb.sub (by decide)) ..).trans ?_
      | refine (State.setCtr_same (hb.sub (by decide)) ..).trans ?_
      | refine (State.updLog_same (hb.sub (by decide)) ..).trans ?_ | refine Same.ite ?_ ?_ | intro _
    | split
    | dsimp only

theorem State.recQCtx_same (hb : Blind π [.cache, .pair]) (s : State) (r : MRec) (ctx : List W64) :
    Same π (State.recQCtx s r ctx) s := by
  unfold State.recQCtx
  repeat' first
    | with_reducible first
      | exact Same.refl _ | assumption | refine (State.warm_same (hb.sub (by decide)) ..).trans ?_
      | refine (State.setMq_same (hb.sub (by decide)) ..).trans ?_ | intro _
    | split
    | dsimp only

theorem State.recEffect_same (hb : Blind π [.regs, .ctr, .cache, .ic, .pair, .err, .out]) (s : State) (x0 : Instr) :
    Same π (State.recEffect s x0) s := by
  unfold State.recEffect
  repeat' first
    | with_reducible first
      | exact Same.refl _ | assumption | refine (State.recSnap_same (hb.sub (by decide)) ..).trans ?_
      | refine (State.chill_same (hb.sub (by decide)) ..).trans ?_
      | refine (State.setKeep_same (hb.sub (by decide)) ..).trans ?_
      | refine (State.warm_same (hb.sub (by decide)) ..).trans ?_
      | refine (State.recStart_same (hb.sub (by decide)) ..).trans ?_
      | refine (State.updMcq_same (hb.sub (by decide)) ..).trans ?_
      | refine (State.recCtr_same (hb.sub (by decide)) ..).trans ?_
      | refine (State.setMq_same (hb.sub (by decide)) ..).trans ?_
      | refine (State.recQCtx_same (hb.sub (by decide)) ..).trans ?_
      | refine (State.setCtr_same (hb.sub (by decide)) ..).trans ?_
      | refine (State.setMcq_same (hb.sub (by decide)) ..).trans ?_
      | refine (State.raise_same (hb.sub (by decide)) ..).trans ?_
      | refine (State.recComplete_same (hb.sub (by decide)) ..).trans ?_
      | refine (State.recCi_same (hb.sub (by decide)) ..).trans ?_ | refine Same.ite ?_ ?_ | intro _
    | split
    | dsimp only

theorem State.applyRec_same (hb : Blind π [.regs, .q, .cq, .ctr, .cache, .ic, .arb, .pair, .lace, .err, .out]) (s : State)
    (c : Instr) :
    Same π (State.applyRec s c) s := by
  unfold State.applyRec
  repeat' first
    | with_reducible first
      | exact Same.refl _ | assumption | refine (State.recEffect_same (hb.sub (by decide)) ..).trans ?_
      | refine (State.ctrlMsg_same (hb.sub (by decide)) ..).trans ?_
      | refine (State.consume_same (hb.sub (by decide)) ..).trans ?_
      | refine (State.withPair_same (hb.sub (by decide)) ..).trans ?_
      | refine (State.checkDrain_same (hb.sub (by decide)) ..).trans ?_ | refine Same.ite ?_ ?_ | intro _
    | split
    | dsimp only

theorem State.takeRec_same (hb : Blind π [.regs, .q, .cq, .ctr, .cache, .ic, .arb, .pair, .lace, .err, .out]) (s : State)
    (c : Instr) :
    Same π (State.takeRec s c) s := by
  unfold State.takeRec
  repeat' first
    | with_reducible first
      | exact Same.refl _ | assumption | refine (State.withCache_same (hb.sub (by decide)) ..).trans ?_
      | refine (State.countLookup_same (hb.sub (by decide)) ..).trans ?_
      | refine (State.consume_same (hb.sub (by decide)) ..).trans ?_ | refine (State.applyRec_same hb ..).trans ?_
      | refine Same.ite ?_ ?_ | intro _
    | split
    | dsimp only

theorem execSnap_same (hb : Blind π [.regs, .q, .cq, .ctr, .cache, .ic, .arb, .pair, .lace, .err, .out]) (r : MRec)
    (s : State) :
    SameR π (execSnap r s) s := by
  unfold execSnap
  repeat' first
    | with_reducible first
      | refine SameR.guarded ?_ ?_ | refine SameR.next ?_ | refine SameR.ite ?_ ?_ | exact Same.refl _ | assumption
      | refine (State.takeRec_same hb ..).trans ?_ | intro _
    | split
    | dsimp only

theorem execCi_same (hb : Blind π [.regs, .q, .cq, .ctr, .cache, .ic, .arb, .pair, .lace, .err, .out]) (r : MRec) (s : State) :
    SameR π (execCi r s) s := by
  unfold execCi
  repeat' first
    | with_reducible first
      | refine SameR.guarded ?_ ?_ | refine SameR.next ?_ | refine SameR.ite ?_ ?_ | exact Same.refl _ | assumption
      | refine (State.takeRec_same hb ..).trans ?_ | intro _
    | split
    | dsimp only

theorem execStart_same (hb : Blind π [.regs, .q, .cq, .ctr, .cache, .ic, .arb, .pair, .lace, .err, .out]) (r : MRec)
    (s : State) :
    SameR π (execStart r s) s := by
  unfold execStart
  repeat' first
    | with_reducible first
      | refine SameR.guarded ?_ ?_ | refine SameR.next ?_ | refine SameR.ite ?_ ?_ | exact Same.refl _ | assumption
      | refine (State.takeRec_same hb ..).trans ?_ | intro _
    | split
    | dsimp only

theorem execComplete_same (hb : Blind π [.regs, .q, .cq, .ctr, .cache, .ic, .arb, .pair, .lace, .err, .out]) (r : MRec)
    (rec : List W64) (s : State) :
    SameR π (execComplete r rec s) s := by
  unfold execComplete
  repeat' first
    | with_reducible first
      | refine SameR.guarded ?_ ?_ | refine SameR.next ?_ | refine SameR.ite ?_ ?_ | exact Same.refl _ | assumption
      | refine (State.takeRec_same hb ..).trans ?_ | intro _
    | split
    | dsimp only

theorem execCqpi_same (hb : Blind π [.regs, .q, .cq, .ctr, .cache, .ic, .arb, .pair, .lace, .err, .out]) (r : MRec)
    (s : State) :
    SameR π (execCqpi r s) s := by
  unfold execCqpi
  repeat' first
    | with_reducible first
      | refine SameR.guarded ?_ ?_ | refine SameR.next ?_ | refine SameR.ite ?_ ?_ | exact Same.refl _ | assumption
      | refine (State.takeRec_same hb ..).trans ?_ | intro _
    | split
    | dsimp only

theorem execCqci_same (hb : Blind π [.regs, .q, .cq, .ctr, .cache, .ic, .arb, .pair, .lace, .err, .out]) (r : MRec)
    (s : State) :
    SameR π (execCqci r s) s := by
  unfold execCqci
  repeat' first
    | with_reducible first
      | refine SameR.guarded ?_ ?_ | refine SameR.next ?_ | refine SameR.ite ?_ ?_ | exact Same.refl _ | assumption
      | refine (State.takeRec_same hb ..).trans ?_ | intro _
    | split
    | dsimp only

theorem execCtr_same (hb : Blind π [.regs, .q, .cq, .ctr, .cache, .ic, .arb, .pair, .lace, .err, .out]) (r : MRec) (s : State) :
    SameR π (execCtr r s) s := by
  unfold execCtr
  repeat' first
    | with_reducible first
      | refine SameR.guarded ?_ ?_ | refine SameR.next ?_ | refine SameR.ite ?_ ?_ | exact Same.refl _ | assumption
      | refine (State.takeRec_same hb ..).trans ?_ | intro _
    | split
    | dsimp only

theorem execQGone_same (hb : Blind π [.regs, .q, .cq, .ctr, .cache, .ic, .arb, .pair, .lace, .err, .out]) (r : MRec)
    (s : State) :
    SameR π (execQGone r s) s := by
  unfold execQGone
  repeat' first
    | with_reducible first
      | refine SameR.guarded ?_ ?_ | refine SameR.next ?_ | refine SameR.ite ?_ ?_ | exact Same.refl _ | assumption
      | refine (State.takeRec_same hb ..).trans ?_ | intro _
    | split
    | dsimp only

theorem execCqGone_same (hb : Blind π [.regs, .q, .cq, .ctr, .cache, .ic, .arb, .pair, .lace, .err, .out]) (r : MRec)
    (s : State) :
    SameR π (execCqGone r s) s := by
  unfold execCqGone
  repeat' first
    | with_reducible first
      | refine SameR.guarded ?_ ?_ | refine SameR.next ?_ | refine SameR.ite ?_ ?_ | exact Same.refl _ | assumption
      | refine (State.takeRec_same hb ..).trans ?_ | intro _
    | split
    | dsimp only

theorem execSyncEnd_same (hb : Blind π [.regs, .q, .cq, .ctr, .cache, .ic, .arb, .pair, .lace, .err, .out]) (r : MRec)
    (s : State) :
    SameR π (execSyncEnd r s) s := by
  unfold execSyncEnd
  repeat' first
    | with_reducible first
      | refine SameR.guarded ?_ ?_ | refine SameR.next ?_ | refine SameR.ite ?_ ?_ | exact Same.refl _ | assumption
      | refine (State.takeRec_same hb ..).trans ?_ | intro _
    | split
    | dsimp only

theorem execQCtx_same (hb : Blind π [.regs, .q, .cq, .ctr, .cache, .ic, .arb, .pair, .lace, .err, .out]) (r : MRec)
    (ctx : List W64) (s : State) :
    SameR π (execQCtx r ctx s) s := by
  unfold execQCtx
  repeat' first
    | with_reducible first
      | refine SameR.guarded ?_ ?_ | refine SameR.next ?_ | refine SameR.ite ?_ ?_ | exact Same.refl _ | assumption
      | refine (State.takeRec_same hb ..).trans ?_ | intro _
    | split
    | dsimp only

theorem execCqCtx_same (hb : Blind π [.regs, .q, .cq, .ctr, .cache, .ic, .arb, .pair, .lace, .err, .out]) (r : MRec)
    (ctx : List W64) (s : State) :
    SameR π (execCqCtx r ctx s) s := by
  unfold execCqCtx
  repeat' first
    | with_reducible first
      | refine SameR.guarded ?_ ?_ | refine SameR.next ?_ | refine SameR.ite ?_ ?_ | exact Same.refl _ | assumption
      | refine (State.takeRec_same hb ..).trans ?_ | intro _
    | split
    | dsimp only

theorem execCtrCtx_same (hb : Blind π [.regs, .q, .cq, .ctr, .cache, .ic, .arb, .pair, .lace, .err, .out]) (r : MRec)
    (ctx : List W64) (s : State) :
    SameR π (execCtrCtx r ctx s) s := by
  unfold execCtrCtx
  repeat' first
    | with_reducible first
      | refine SameR.guarded ?_ ?_ | refine SameR.next ?_ | refine SameR.ite ?_ ?_ | exact Same.refl _ | assumption
      | refine (State.takeRec_same hb ..).trans ?_ | intro _
    | split
    | dsimp only

theorem State.clearMirror_same (hb : Blind π [.regs, .pair, .err]) (s : State) (k : Nat) :
    Same π (State.clearMirror s k) s := by
  unfold State.clearMirror
  repeat' first
    | with_reducible first
      | exact Same.refl _ | assumption | refine (State.withPair_same (hb.sub (by decide)) ..).trans ?_
      | refine (State.log_same (hb.sub (by decide)) ..).trans ?_ | refine Same.ite ?_ ?_ | refine Same.ite_fst ?_ ?_ | intro _
    | split
    | dsimp only

theorem execSyncClearStitch_same
    (hb : Blind π [.regs, .q, .ic, .arb, .trace, .adm, .pat, .pair, .lace, .err, .spr, .mem, .out]) (s : State) :
    SameR π (execSyncClearStitch s) s := by
  unfold execSyncClearStitch
  repeat' first
    | with_reducible first
      | refine SameR.guarded ?_ ?_ | refine SameR.next ?_ | refine SameR.ite ?_ ?_ | exact Same.refl _ | assumption
      | refine (State.admStitch_same (hb.sub (by decide)) (h_g := ?_) ..).trans ?_
      | refine (State.ctrlMsg_same (hb.sub (by decide)) ..).trans ?_
      | refine (State.clearMirror_same (hb.sub (by decide)) ..).trans ?_ | refine Same.ite ?_ ?_ | refine Same.ite_fst ?_ ?_
      | intro _
    | split
    | dsimp only


/-! ## Module ContextOps -/

theorem State.applyWaiting_same (hb : Blind π (Part.but [.pending, .mr, .pd, .tb, .memSize])) (s : State) (w : Waiting) :
    Same π (State.applyWaiting s w) s := by
  unfold State.applyWaiting
  repeat' first
    | with_reducible first
      | exact Same.refl _ | assumption | refine (State.applyIntake_same hb ..).trans ?_
      | refine (State.applyRec_same (hb.sub (by decide)) ..).trans ?_ | refine Same.ite ?_ ?_ | intro _
    | split
    | dsimp only

theorem State.replayOne_same (hb : Blind π (Part.but [.pending, .mr, .pd, .tb, .memSize])) (also : CtxKind × Nat)
    (s : State) (w : Waiting) :
    Same π (State.replayOne also s w) s := by
  unfold State.replayOne
  repeat' first
    | with_reducible first
      | exact Same.refl _ | assumption | refine (State.applyWaiting_same hb ..).trans ?_
      | refine (State.withCache_same (hb.sub (by decide)) ..).trans ?_
      | refine (State.countLookup_same (hb.sub (by decide)) ..).trans ?_ | refine Same.ite ?_ ?_ | intro _
    | split
    | dsimp only

theorem State.replay_same (hb : Blind π (Part.but [.pending, .mr, .pd, .tb, .memSize])) (s : State) (also : CtxKind × Nat) :
    Same π (State.replay s also) s := by
  unfold State.replay
  repeat' first
    | with_reducible first
      | exact Same.refl _ | assumption | refine (State.withCache_same (hb.sub (by decide)) ..).trans ?_
      | refine (State.replayOne_same hb ..).trans ?_ | refine (Same.foldl _ _ _ ?_).trans ?_ | intro _
    | split
    | dsimp only

theorem State.retryEnds_same (hb : Blind π
    (Part.but [.pending, .mr, .pd, .park, .lines, .tb, .adm, .spr, .pins, .memSize, .lastRead, .free])) (s : State) :
    Same π (State.retryEnds s) s := by
  unfold State.retryEnds
  repeat' first
    | with_reducible first
      | exact Same.refl _ | assumption | refine (State.withCache_same (hb.sub (by decide)) ..).trans ?_
      | refine (State.tryComplete_same hb ..).trans ?_ | refine (State.finish_same hb ..).trans ?_
      | refine (Same.forEach _ _ _ ?_).trans ?_ | intro _
    | split
    | dsimp only

theorem State.retryHeld_same (hb : Blind π
    (Part.but [.pending, .mr, .pd, .park, .lines, .tb, .adm, .spr, .pins, .memSize, .lastRead, .free])) (s : State) :
    Same π (State.retryHeld s) s := by
  unfold State.retryHeld
  repeat' first
    | with_reducible first
      | exact Same.refl _ | assumption | refine (State.drainRing_same hb ..).trans ?_
      | refine (State.refillSpill_same hb ..).trans ?_ | refine (Same.forEach _ _ _ ?_).trans ?_ | intro _
    | split
    | dsimp only

theorem State.fetchAhead_same (hb : Blind π [.cache]) (s : State) (k : CtxKind) (n : Nat) :
    Same π (State.fetchAhead s k n) s := by
  unfold State.fetchAhead
  repeat' first
    | with_reducible first
      | exact Same.refl _ | assumption | refine (State.prefetch_same hb ..).trans ?_ | intro _
    | split
    | dsimp only

theorem execContextFetchDone_same (hb : Blind π (Part.but [.pending, .mr, .pd, .tb, .memSize])) (k : CtxKind) (n : Nat)
    (bad : Bool) (s : State) :
    SameR π (execContextFetchDone k n bad s) s := by
  unfold execContextFetchDone
  repeat' first
    | with_reducible first
      | refine SameR.guarded ?_ ?_ | refine SameR.next ?_ | refine SameR.ite ?_ ?_ | exact Same.refl _ | assumption
      | refine (State.retryEnds_same (hb.sub (by decide)) ..).trans ?_
      | refine (State.decodeTick_same (hb.sub (by decide)) ..).trans ?_
      | refine (State.bring_same (hb.sub (by decide)) ..).trans ?_ | refine (State.cnt_same (hb.sub (by decide)) ..).trans ?_
      | refine (State.replay_same hb ..).trans ?_
      | refine (State.insertCtx_same (hb.sub (by decide)) (by assumption)).trans ?_
      | refine (State.arbBusy_same (hb.sub (by decide)) ..).trans ?_
      | refine (State.fetchAhead_same (hb.sub (by decide)) ..).trans ?_
      | refine (State.retryHeld_same (hb.sub (by decide)) ..).trans ?_
      | refine (State.serveBacks_same (hb.sub (by decide)) ..).trans ?_
      | refine (State.fatal_same (hb.sub (by decide)) ..).trans ?_
      | refine (State.backRead_same (hb.sub (by decide)) ..).trans ?_ | refine (State.takeBack_same hb ..).trans ?_
      | refine Same.ite ?_ ?_ | refine Same.ite_fst ?_ ?_ | intro _
    | split
    | dsimp only


/-! ## Module Net -/

theorem execKeyCheckRequest_same (hb : Blind π [.regs, .out]) (key : W32) (ofs len : Nat) (r : RemoteRight) (s : State) :
    SameR π (execKeyCheckRequest key ofs len r s) s := by
  unfold execKeyCheckRequest
  repeat' first
    | with_reducible first
      | refine SameR.guarded ?_ ?_ | refine SameR.next ?_ | refine SameR.ite ?_ ?_ | exact Same.refl _ | assumption
      | refine (State.cnt_same (hb.sub (by decide)) ..).trans ?_ | refine (State.emit_same (hb.sub (by decide)) ..).trans ?_
      | refine Same.ite ?_ ?_ | refine Same.ite_fst ?_ ?_ | intro _
    | split
    | dsimp only

theorem State.foldFail_same
    (hb : Blind π [.regs, .cache, .ic, .arb, .lines, .adm, .pair, .lace, .err, .spr, .pins, .out, .lastRead, .free]) (s : State) (hop st : Nat) (reason : Nat) :
    Same π (State.foldFail s hop st reason) s := by
  unfold State.foldFail
  repeat' first
    | with_reducible first
      | exact Same.refl _ | assumption | refine (State.noteFail_same (hb.sub (by decide)) ..).trans ?_
      | refine (State.withFree_same (hb.sub (by decide)) ..).trans ?_
      | refine (State.chargeRed_same (hb.sub (by decide)) ..).trans ?_
      | refine (State.emit_same (hb.sub (by decide)) ..).trans ?_ | refine Same.ite ?_ ?_ | intro _
    | split
    | dsimp only

theorem State.refuseFold_same (hb : Blind π [.out]) (s : State) (reason : Nat) : Same π (State.refuseFold s reason) s := by
  unfold State.refuseFold
  repeat' first
    | with_reducible first
      | exact Same.refl _ | assumption | refine (State.emit_same hb ..).trans ?_ | intro _
    | split
    | dsimp only

theorem State.applyFold_same (hb : Blind π
    (Part.but [.pending, .q, .cq, .ctr, .mr, .pd, .park, .cqs, .tb, .trace, .pat, .memSize])) (s : State) (w : WaitFold) :
    Same π (State.applyFold s w) s := by
  unfold State.applyFold
  repeat' first
    | with_reducible first
      | exact Same.refl _ | assumption | refine (State.answer_same (hb.sub (by decide)) ..).trans ?_
      | refine (State.sat_same (hb.sub (by decide)) ..).trans ?_ | refine (State.verify_same (hb.sub (by decide)) ..).trans ?_
      | refine (State.shadowHop_same (hb.sub (by decide)) ..).trans ?_
      | refine (State.writeBytes_same (hb.sub (by decide)) ..).trans ?_
      | refine (State.wrapAdd_same (hb.sub (by decide)) ..).trans ?_
      | refine (State.countExc_same (hb.sub (by decide)) ..).trans ?_
      | refine (State.foldFail_same (hb.sub (by decide)) ..).trans ?_
      | refine (State.crossHop_same (hb.sub (by decide)) ..).trans ?_
      | refine (State.arbBusy_same (hb.sub (by decide)) ..).trans ?_
      | refine (State.refuseFold_same (hb.sub (by decide)) ..).trans ?_
      | refine (State.cover_same (hb.sub (by decide)) ..).trans ?_ | refine (State.emit_same (hb.sub (by decide)) ..).trans ?_
      | refine Same.ite ?_ ?_ | refine Same.ite_fst ?_ ?_ | intro _
    | split
    | dsimp only

theorem State.fold_same (hb : Blind π
    (Part.but [.pending, .q, .cq, .ctr, .mr, .pd, .park, .cqs, .tb, .trace, .pat, .memSize])) (s : State) (f : FoldSeg) (ans : ReadAns) (lost : Bool) :
    Same π (State.fold s f ans lost) s := by
  unfold State.fold
  repeat' first
    | with_reducible first
      | exact Same.refl _ | assumption | refine (State.applyFold_same hb ..).trans ?_
      | refine (State.withArb_same (hb.sub (by decide)) ..).trans ?_
      | refine (State.cnt_same (hb.sub (by decide)) ..).trans ?_
      | refine (State.refuseFold_same (hb.sub (by decide)) ..).trans ?_ | refine Same.ite ?_ ?_ | refine Same.ite_fst ?_ ?_
      | intro _
    | split
    | dsimp only

theorem State.serveFolds_same (hb : Blind π
    (Part.but [.pending, .q, .cq, .ctr, .mr, .pd, .park, .cqs, .tb, .trace, .pat, .memSize])) (x0 : Nat) (s : State) :
    Same π (State.serveFolds x0 s) s := by
  induction x0 generalizing s with
  | zero => exact rfl
  | succ n ih =>
    unfold State.serveFolds
    repeat' first
      | with_reducible first
        | exact Same.refl _ | assumption | refine (State.applyFold_same hb ..).trans ?_
        | refine (State.withArb_same (hb.sub (by decide)) ..).trans ?_ | refine (ih ..).trans ?_ | intro _
      | split
      | dsimp only

theorem execFoldSegment_same (hb : Blind π
    (Part.but [.pending, .q, .cq, .ctr, .mr, .pd, .park, .cqs, .tb, .trace, .pat, .memSize])) (f : FoldSeg) (s : State) :
    SameR π (execFoldSegment f s) s := by
  unfold execFoldSegment
  repeat' first
    | with_reducible first
      | refine SameR.guarded ?_ ?_ | refine SameR.next ?_ | refine SameR.ite ?_ ?_ | exact Same.refl _ | assumption
      | refine (State.fold_same hb ..).trans ?_ | intro _
    | split
    | dsimp only


/-! ## Module Trigger -/

theorem execArrivalNotification_same (hb : Blind π (Part.but [.pending, .mr, .pd, .tb, .memSize])) (w : W64) (s : State) :
    SameR π (execArrivalNotification w s) s := by
  unfold execArrivalNotification
  repeat' first
    | with_reducible first
      | refine SameR.guarded ?_ ?_ | refine SameR.next ?_ | refine SameR.ite ?_ ?_ | exact Same.refl _ | assumption
      | refine (State.arrivalIn_same hb ..).trans ?_ | intro _
    | split
    | dsimp only

theorem execTrigCounterRead_same (hb : Blind π (Part.but [.pending, .mr, .pd, .tb, .memSize])) (info : Bool) (s : State) :
    SameR π (execTrigCounterRead info s) s := by
  unfold execTrigCounterRead
  repeat' first
    | with_reducible first
      | refine SameR.guarded ?_ ?_ | refine SameR.next ?_ | refine SameR.ite ?_ ?_ | exact Same.refl _ | assumption
      | refine (State.beginRead_same (hb.sub (by decide)) ..).trans ?_ | refine (State.readTrig_same hb ..).trans ?_ | intro _
    | split
    | dsimp only

theorem State.readParked_same
    (hb : Blind π [.regs, .cache, .ic, .arb, .lines, .adm, .pair, .lace, .err, .spr, .pins, .out, .lastRead]) (s : State) (x : Nat × W32) :
    Same π (State.readParked s x).1 s := by
  unfold State.readParked
  repeat' first
    | with_reducible first
      | exact Same.refl _ | assumption | refine (State.memStat_same (hb.sub (by decide)) ..).trans ?_
      | refine (State.arbBusy_same (hb.sub (by decide)) ..).trans ?_ | refine (State.fatal_same hb ..).trans ?_
      | refine Same.ite ?_ ?_ | refine Same.ite_fst ?_ ?_ | intro _
    | split
    | dsimp only

theorem State.releaseWaiter_same (hb : Blind π (Part.but [.pending, .q, .cq, .ctr, .mr, .pd, .cqs, .tb, .memSize, .free]))
    (s : State) (x : Nat × W32) :
    Same π (State.releaseWaiter s x) s := by
  unfold State.releaseWaiter
  repeat' first
    | with_reducible first
      | exact Same.refl _ | assumption | refine (State.releasePark_same (hb.sub (by decide)) ..).trans ?_
      | refine (State.readParked_same (hb.sub (by decide)) ..).trans ?_ | refine Same.ite ?_ ?_ | refine Same.ite_fst ?_ ?_
      | intro _
    | split
    | dsimp only

theorem execParkRelease_same (hb : Blind π (Part.but [.pending, .q, .cq, .ctr, .mr, .pd, .cqs, .tb, .memSize, .free]))
    (s : State) :
    SameR π (execParkRelease s) s := by
  unfold execParkRelease
  repeat' first
    | with_reducible first
      | refine SameR.guarded ?_ ?_ | refine SameR.next ?_ | refine SameR.ite ?_ ?_ | exact Same.refl _ | assumption
      | refine (State.releaseWaiter_same hb ..).trans ?_ | refine (Same.forEach _ _ _ ?_).trans ?_ | refine Same.ite ?_ ?_
      | refine Same.ite_fst ?_ ?_ | intro _
    | split
    | dsimp only

theorem execParkSpillRefill_same
    (hb : Blind π [.regs, .park, .cache, .ic, .arb, .lines, .adm, .pair, .lace, .err, .spr, .pins, .out, .lastRead]) (s : State) :
    SameR π (execParkSpillRefill s) s := by
  unfold execParkSpillRefill
  repeat' first
    | with_reducible first
      | refine SameR.guarded ?_ ?_ | refine SameR.next ?_ | refine SameR.ite ?_ ?_ | exact Same.refl _ | assumption
      | refine (State.unpark_same (hb.sub (by decide)) ..).trans ?_
      | refine (State.demand_same (hb.sub (by decide)) ..).trans ?_
      | refine (State.readParked_same (hb.sub (by decide)) ..).trans ?_
      | refine (State.withPark_same (hb.sub (by decide)) ..).trans ?_ | refine Same.ite ?_ ?_ | refine Same.ite_fst ?_ ?_
      | intro _
    | split
    | dsimp only


/-! ## Module Arb -/

theorem State.sendRead_same (hb : Blind π [.arb]) (s : State) (x : Nat × SentRead) : Same π (State.sendRead s x) s := by
  unfold State.sendRead
  repeat' first
    | with_reducible first
      | exact Same.refl _ | assumption | refine (State.withArb_same hb ..).trans ?_
      | refine (State.arbBusy_same hb ..).trans ?_ | refine Same.ite ?_ ?_ | refine Same.ite_fst ?_ ?_ | intro _
    | split
    | dsimp only

theorem State.sendRecs_same (hb : Blind π [.cqs, .arb]) (s : State) : Same π (State.sendRecs s) s := by
  unfold State.sendRecs
  repeat' first
    | with_reducible first
      | exact Same.refl _ | assumption | refine (State.withCqs_same (hb.sub (by decide)) ..).trans ?_
      | refine (State.arbBusy_same (hb.sub (by decide)) ..).trans ?_ | refine (Same.forEach _ _ _ ?_).trans ?_
      | refine Same.ite ?_ ?_ | refine Same.ite_fst ?_ ?_ | intro _
    | split
    | dsimp only

theorem State.sendOwn_same (hb : Blind π [.cqs, .arb]) (s : State) : Same π (State.sendOwn s) s := by
  unfold State.sendOwn
  repeat' first
    | with_reducible first
      | exact Same.refl _ | assumption | refine (State.sendRead_same (hb.sub (by decide)) ..).trans ?_
      | refine (State.sendRecs_same hb ..).trans ?_ | refine (Same.forEach _ _ _ ?_).trans ?_ | refine Same.ite ?_ ?_
      | intro _
    | split
    | dsimp only

theorem State.wake_same (hb : Blind π (Part.but [.pending, .mr, .pd, .park, .tb, .memSize])) (s : State) (res : Nat) :
    Same π (State.wake s res) s := by
  unfold State.wake
  repeat' first
    | with_reducible first
      | exact Same.refl _ | assumption | refine (State.sendOwn_same (hb.sub (by decide)) ..).trans ?_
      | refine (State.turns_same hb ..).trans ?_ | refine (State.serveElog_same (hb.sub (by decide)) ..).trans ?_
      | refine (State.serveBacks_same (hb.sub (by decide)) ..).trans ?_
      | refine (State.pump_same (hb.sub (by decide)) ..).trans ?_ | refine Same.ite ?_ ?_ | intro _
    | split
    | dsimp only

theorem State.wakeAll_same (hb : Blind π (Part.but [.pending, .mr, .pd, .park, .tb, .memSize])) (s : State) (res : Nat) :
    Same π (State.wakeAll s res) s := by
  unfold State.wakeAll
  repeat' first
    | with_reducible first
      | exact Same.refl _ | assumption | refine (State.wake_same hb ..).trans ?_
      | refine (State.serveFolds_same (hb.sub (by decide)) ..).trans ?_ | intro _
    | split
    | dsimp only

theorem State.phaseOf_same (hb : Blind π (Part.but [.pending, .mr, .pd, .park, .tb, .memSize])) (s : State) (res : Nat)
    (cob : Bool) :
    Same π (State.phaseOf s res cob) s := by
  unfold State.phaseOf
  repeat' first
    | with_reducible first
      | exact Same.refl _ | assumption | refine (State.wake_same hb ..).trans ?_
      | refine (State.arbPhase_same (hb.sub (by decide)) ..).trans ?_ | intro _
    | split
    | dsimp only

theorem execArbPhase_same (hb : Blind π (Part.but [.pending, .mr, .pd, .park, .tb, .memSize])) (res : Nat) (cob : Bool)
    (s : State) :
    SameR π (execArbPhase res cob s) s := by
  unfold execArbPhase
  repeat' first
    | with_reducible first
      | refine SameR.guarded ?_ ?_ | refine SameR.next ?_ | refine SameR.ite ?_ ?_ | exact Same.refl _ | assumption
      | refine (State.wakeAll_same hb ..).trans ?_ | refine (State.arbPhase_same (hb.sub (by decide)) ..).trans ?_ | intro _
    | split
    | dsimp only

theorem State.takeChannel_same (hb : Blind π [.regs, .arb, .trace, .pat, .mem]) (s : State) (res c : Nat) (o : Owner)
    (x : Nat) :
    Same π (State.takeChannel s res c o x) s := by
  unfold State.takeChannel
  repeat' first
    | with_reducible first
      | exact Same.refl _ | assumption | refine (State.setCand_same (hb.sub (by decide)) ..).trans ?_
      | refine (State.cnt_same (hb.sub (by decide)) ..).trans ?_
      | refine (State.giveChannel_same (hb.sub (by decide)) ..).trans ?_
      | refine (State.traceEv_same (hb.sub (by decide)) ..).trans ?_
      | refine (State.freeChannel_same (hb.sub (by decide)) ..).trans ?_ | refine Same.ite ?_ ?_ | intro _
    | split
    | dsimp only

theorem execChannelTake_same (hb : Blind π (Part.but [.pending, .mr, .pd, .park, .tb, .memSize])) (res c : Nat) (s : State) :
    SameR π (execChannelTake res c s) s := by
  unfold execChannelTake
  repeat' first
    | with_reducible first
      | refine SameR.guarded ?_ ?_ | refine SameR.next ?_ | refine SameR.ite ?_ ?_ | exact Same.refl _ | assumption
      | refine (State.wakeAll_same hb ..).trans ?_ | refine (State.takeChannel_same (hb.sub (by decide)) ..).trans ?_
      | refine Same.ite ?_ ?_ | refine Same.ite_fst ?_ ?_ | intro _
    | split
    | dsimp only

theorem State.faultRequester_same (hb : Blind π (Part.but [.pending, .mr, .pd, .park, .tb, .memSize, .free])) (s : State)
    (res req : Nat) :
    Same π (State.faultRequester s res req) s := by
  unfold State.faultRequester
  repeat' first
    | with_reducible first
      | exact Same.refl _ | assumption | refine (State.withArb_same (hb.sub (by decide)) ..).trans ?_
      | refine (State.failEng_same hb ..).trans ?_ | refine (State.setF_same (hb.sub (by decide)) ..).trans ?_
      | refine (State.withTrace_same (hb.sub (by decide)) ..).trans ?_
      | refine (State.refuseFold_same (hb.sub (by decide)) ..).trans ?_
      | refine (State.halt_same (hb.sub (by decide)) ..).trans ?_
      | refine (State.hardHalt_same (hb.sub (by decide)) ..).trans ?_
      | refine (State.emit_same (hb.sub (by decide)) ..).trans ?_ | refine Same.ite ?_ ?_ | intro _
    | split
    | dsimp only

theorem execWdogBite_same (hb : Blind π (Part.but [.pending, .mr, .pd, .park, .tb, .memSize, .free])) (res c : Nat)
    (s : State) :
    SameR π (execWdogBite res c s) s := by
  unfold execWdogBite
  repeat' first
    | with_reducible first
      | refine SameR.guarded ?_ ?_ | refine SameR.next ?_ | refine SameR.ite ?_ ?_ | exact Same.refl _ | assumption
      | refine (State.withArb_same (hb.sub (by decide)) ..).trans ?_
      | refine (State.cnt_same (hb.sub (by decide)) ..).trans ?_
      | refine (State.traceEv_same (hb.sub (by decide)) ..).trans ?_ | refine (State.faultRequester_same hb ..).trans ?_
      | refine (State.setF_same (hb.sub (by decide)) ..).trans ?_ | refine (State.raise_same (hb.sub (by decide)) ..).trans ?_
      | refine (State.freeChannel_same (hb.sub (by decide)) ..).trans ?_
      | refine (State.log_same (hb.sub (by decide)) ..).trans ?_ | refine Same.ite ?_ ?_ | refine Same.ite_fst ?_ ?_ | intro _
    | split
    | dsimp only

theorem execArbCommit_same (hb : Blind π [.regs]) (w : W64) (s : State) : SameR π (execArbCommit w s) s := by
  unfold execArbCommit
  repeat' first
    | with_reducible first
      | refine SameR.guarded ?_ ?_ | refine SameR.next ?_ | refine SameR.ite ?_ ?_ | exact Same.refl _ | assumption
      | refine (State.setF_same hb ..).trans ?_ | intro _
    | split
    | dsimp only

theorem execArbFreeze_same (hb : Blind π [.regs]) (res : Nat) (on : Bool) (s : State) : SameR π (execArbFreeze res on s) s := by
  unfold execArbFreeze
  repeat' first
    | with_reducible first
      | refine SameR.guarded ?_ ?_ | refine SameR.next ?_ | refine SameR.ite ?_ ?_ | exact Same.refl _ | assumption
      | refine (State.setF_same hb ..).trans ?_ | intro _
    | split
    | dsimp only

theorem State.applySlots_same (hb : Blind π [.regs]) (s : State) (res : Nat) : Same π (State.applySlots s res) s := by
  unfold State.applySlots
  repeat' first
    | with_reducible first
      | exact Same.refl _ | assumption | refine (State.setF_same hb ..).trans ?_ | refine (Same.foldl _ _ _ ?_).trans ?_
      | intro _
    | split
    | dsimp only

theorem execSlotAdvance_same (hb : Blind π [.regs, .arb]) (res : Nat) (s : State) : SameR π (execSlotAdvance res s) s := by
  unfold execSlotAdvance
  repeat' first
    | with_reducible first
      | refine SameR.guarded ?_ ?_ | refine SameR.next ?_ | refine SameR.ite ?_ ?_ | exact Same.refl _ | assumption
      | refine (State.setOwner_same (hb.sub (by decide)) ..).trans ?_
      | refine (State.cnt_same (hb.sub (by decide)) ..).trans ?_ | refine (State.setF_same (hb.sub (by decide)) ..).trans ?_
      | refine (State.applySlots_same (hb.sub (by decide)) ..).trans ?_ | refine (Same.forEach _ _ _ ?_).trans ?_
      | refine Same.ite ?_ ?_ | refine Same.ite_fst ?_ ?_ | intro _
    | split
    | dsimp only

theorem execSlotCommit_same (hb : Blind π [.regs]) (res : Nat) (s : State) : SameR π (execSlotCommit res s) s := by
  unfold execSlotCommit
  repeat' first
    | with_reducible first
      | refine SameR.guarded ?_ ?_ | refine SameR.next ?_ | refine SameR.ite ?_ ?_ | exact Same.refl _ | assumption
      | refine (State.setF_same hb ..).trans ?_ | intro _
    | split
    | dsimp only


/-! ## Module AdmSys -/

theorem State.fenceQueues_same (hb : Blind π [.q, .arb, .pair, .lace, .out]) (s : State) (adopted : Bool) :
    Same π (State.fenceQueues s adopted) s := by
  unfold State.fenceQueues
  repeat' first
    | with_reducible first
      | exact Same.refl _ | assumption | refine (State.snapQ_same (hb.sub (by decide)) ..).trans ?_
      | refine (State.setQ_same (hb.sub (by decide)) ..).trans ?_ | refine (Same.forEach _ _ _ ?_).trans ?_
      | refine Same.ite ?_ ?_ | intro _
    | split
    | dsimp only

theorem State.releaseFenced_same (hb : Blind π [.q, .fl, .arb, .pair, .lace, .out]) (s : State) (adopted : Bool) :
    Same π (State.releaseFenced s adopted) s := by
  unfold State.releaseFenced
  repeat' first
    | with_reducible first
      | exact Same.refl _ | assumption | refine (State.snapQ_same (hb.sub (by decide)) ..).trans ?_
      | refine (State.setQ_same (hb.sub (by decide)) ..).trans ?_ | refine (State.release_same hb ..).trans ?_
      | refine (Same.forEach _ _ _ ?_).trans ?_ | refine Same.ite ?_ ?_ | intro _
    | split
    | dsimp only

theorem State.fenceBegin_same
    (hb : Blind π [.regs, .q, .cq, .ctr, .fl, .cqs, .ic, .arb, .trace, .adm, .pat, .pair, .lace, .mem, .out]) (s : State) (st : Stream) (o : AdmOpen) :
    Same π (State.fenceBegin s st o) s := by
  unfold State.fenceBegin
  repeat' first
    | with_reducible first
      | exact Same.refl _ | assumption | refine (State.admDone_same hb ..).trans ?_
      | refine (State.releaseFenced_same (hb.sub (by decide)) ..).trans ?_
      | refine (State.fenceQueues_same (hb.sub (by decide)) ..).trans ?_
      | refine (State.setAdm_same (hb.sub (by decide)) ..).trans ?_ | refine Same.getD ?_ | refine Same.ite ?_ ?_ | intro _
    | split
    | dsimp only

theorem execFenceAll_same (hb : Blind π
    (Part.but [.pending, .mr, .pd, .park, .cache, .lines, .tb, .pins, .memSize, .lastRead, .free])) (st : Stream) (s : State) :
    SameR π (execFenceAll st s) s := by
  unfold execFenceAll
  repeat' first
    | with_reducible first
      | refine SameR.guarded ?_ ?_ | refine SameR.next ?_ | refine SameR.ite ?_ ?_ | exact Same.refl _ | assumption
      | refine (State.cmdStitch_same (hb.sub (by decide)) (h_g := ?_) ..).trans ?_
      | refine (State.fenceBegin_same (hb.sub (by decide)) ..).trans ?_
      | refine (State.admDone_same (hb.sub (by decide)) ..).trans ?_
      | refine (State.openAdm_same (hb.sub (by decide)) ..).trans ?_ | refine Same.getD ?_ | refine Same.ite ?_ ?_
      | refine Same.ite_fst ?_ ?_ | intro _
    | split
    | dsimp only

theorem State.setOffline_same (hb : Blind π [.regs, .arb]) (s : State) (red : Bool) (u : Nat) :
    Same π (State.setOffline s red u) s := by
  unfold State.setOffline
  repeat' first
    | with_reducible first
      | exact Same.refl _ | assumption | refine (State.setRed_same hb ..).trans ?_
      | refine (State.setEng_same (hb.sub (by decide)) ..).trans ?_ | refine Same.ite ?_ ?_ | intro _
    | split
    | dsimp only

theorem State.offlineBegin_same (hb : Blind π
    (Part.but [.pending, .mr, .pd, .park, .cache, .lines, .tb, .pins, .memSize, .lastRead, .free])) (s : State) (st : Stream) (o : AdmOpen) :
    Same π (State.offlineBegin s st o) s := by
  unfold State.offlineBegin
  repeat' first
    | with_reducible first
      | exact Same.refl _ | assumption | refine (State.admDone_same (hb.sub (by decide)) ..).trans ?_
      | refine (State.setOffline_same (hb.sub (by decide)) ..).trans ?_
      | refine (State.withSpr_same (hb.sub (by decide)) ..).trans ?_
      | refine (State.spareIn_same (hb.sub (by decide)) ..).trans ?_
      | refine (State.setAdm_same (hb.sub (by decide)) ..).trans ?_ | refine Same.getD ?_ | refine Same.ite ?_ ?_ | intro _
    | split
    | dsimp only

theorem execUnitOffline_same (hb : Blind π
    (Part.but [.pending, .mr, .pd, .park, .cache, .lines, .tb, .pins, .memSize, .lastRead, .free])) (st : Stream) (s : State) :
    SameR π (execUnitOffline st s) s := by
  unfold execUnitOffline
  repeat' first
    | with_reducible first
      | refine SameR.guarded ?_ ?_ | refine SameR.next ?_ | refine SameR.ite ?_ ?_ | exact Same.refl _ | assumption
      | refine (State.cmdStitch_same (hb.sub (by decide)) (h_g := ?_) ..).trans ?_
      | refine (State.admDone_same (hb.sub (by decide)) ..).trans ?_ | refine (State.offlineBegin_same hb ..).trans ?_
      | refine (State.openAdm_same (hb.sub (by decide)) ..).trans ?_ | refine Same.getD ?_ | refine Same.ite ?_ ?_
      | refine Same.ite_fst ?_ ?_ | intro _
    | split
    | dsimp only

theorem State.decay_same (hb : Blind π [.mem]) (s : State) (single double : List Nat) :
    Same π (State.decay s single double) s := by
  unfold State.decay
  repeat' first
    | with_reducible first
      | exact Same.refl _ | assumption | refine (State.putSyn_same hb ..).trans ?_ | refine (Same.foldl _ _ _ ?_).trans ?_
      | refine Same.ite ?_ ?_ | intro _
    | split
    | dsimp only

theorem State.flushBlock_same (hb : Blind π [.regs, .mem]) (s : State) (a : Nat) : Same π (State.flushBlock s a) s := by
  unfold State.flushBlock
  repeat' first
    | with_reducible first
      | exact Same.refl _ | assumption | refine (State.writePkg_same hb ..).trans ?_ | refine (Same.forEach _ _ _ ?_).trans ?_
      | intro _
    | split
    | dsimp only

theorem State.rewriteWord_same (hb : Blind π [.mem]) (s : State) (k : Nat) : Same π (State.rewriteWord s k) s := by
  unfold State.rewriteWord
  repeat' first
    | with_reducible first
      | exact Same.refl _ | assumption | refine (State.putPkgs_same hb ..).trans ?_
      | refine (State.putSyn_same hb ..).trans ?_ | intro _
    | split
    | dsimp only

theorem State.scrubBlock_same (hb : Blind π [.regs, .err, .mem]) (s : State) (a : Nat) : Same π (State.scrubBlock s a).1 s := by
  unfold State.scrubBlock
  repeat' first
    | with_reducible first
      | exact Same.refl _ | assumption | refine (State.rewriteWord_same (hb.sub (by decide)) ..).trans ?_
      | refine (State.sat_same (hb.sub (by decide)) ..).trans ?_ | refine (State.log_same (hb.sub (by decide)) ..).trans ?_
      | refine (Same.forEach _ _ _ ?_).trans ?_ | intro _
    | split
    | dsimp only

theorem State.scrubStitch_same (hb : Blind π
    (Part.but [.pending, .mr, .pd, .park, .cache, .lines, .tb, .spr, .pins, .memSize, .lastRead, .free])) (s : State) (st : Stream) (o : AdmOpen) :
    Same π (State.scrubStitch s st o) s := by
  unfold State.scrubStitch
  repeat' first
    | with_reducible first
      | exact Same.refl _ | assumption | refine (State.admDone_same (hb.sub (by decide)) ..).trans ?_
      | refine (State.touchBlock_same (hb.sub (by decide)) ..).trans ?_
      | refine (State.scrubBlock_same (hb.sub (by decide)) ..).trans ?_
      | refine (State.flushBlock_same (hb.sub (by decide)) ..).trans ?_
      | refine (State.setAdm_same (hb.sub (by decide)) ..).trans ?_ | refine Same.getD ?_ | refine Same.ite ?_ ?_
      | refine Same.ite_fst ?_ ?_ | intro _
    | split
    | dsimp only

theorem execScrubCstore_same (hb : Blind π
    (Part.but [.pending, .mr, .pd, .park, .cache, .lines, .tb, .pins, .memSize, .lastRead, .free])) (st : Stream) (single double : List Nat) (s : State) :
    SameR π (execScrubCstore st single double s) s := by
  unfold execScrubCstore
  repeat' first
    | with_reducible first
      | refine SameR.guarded ?_ ?_ | refine SameR.next ?_ | refine SameR.ite ?_ ?_ | exact Same.refl _ | assumption
      | refine (State.cmdStitch_same (hb.sub (by decide)) (h_g := ?_) ..).trans ?_
      | refine (State.admDone_same (hb.sub (by decide)) ..).trans ?_
      | refine (State.scrubStitch_same (hb.sub (by decide)) ..).trans ?_
      | refine (State.openAdm_same (hb.sub (by decide)) ..).trans ?_
      | refine (State.decay_same (hb.sub (by decide)) ..).trans ?_ | refine Same.ite ?_ ?_ | refine Same.ite_fst ?_ ?_
      | intro _
    | split
    | dsimp only

theorem State.doTraceStart_same (hb : Blind π [.regs, .trace]) (s : State) (w : List W64) :
    Same π (State.doTraceStart s w).1 s := by
  unfold State.doTraceStart
  repeat' first
    | with_reducible first
      | exact Same.refl _ | assumption | refine (State.setF_same (hb.sub (by decide)) ..).trans ?_
      | refine (State.withTrace_same (hb.sub (by decide)) ..).trans ?_ | refine Same.getD ?_ | intro _
    | split
    | dsimp only

theorem execTraceStart_same (hb : Blind π
    (Part.but [.pending, .mr, .pd, .park, .cache, .lines, .tb, .pins, .memSize, .lastRead, .free])) (st : Stream) (s : State) :
    SameR π (execTraceStart st s) s := by
  unfold execTraceStart
  repeat' first
    | with_reducible first
      | refine SameR.guarded ?_ ?_ | refine SameR.next ?_ | refine SameR.ite ?_ ?_ | exact Same.refl _ | assumption
      | refine (State.oneStitch_same hb (h_act := ?_) ..).trans ?_
      | refine (State.doTraceStart_same (hb.sub (by decide)) ..).trans ?_ | intro _
    | split
    | dsimp only

theorem State.traceEnd_same
    (hb : Blind π [.regs, .q, .cq, .ctr, .fl, .cqs, .ic, .arb, .trace, .adm, .pat, .pair, .lace, .mem, .out]) (s : State) (st : Stream) (o : AdmOpen) :
    Same π (State.traceEnd s st o) s := by
  unfold State.traceEnd
  repeat' first
    | with_reducible first
      | exact Same.refl _ | assumption | refine (State.admDone_same hb ..).trans ?_
      | refine (State.sat_same (hb.sub (by decide)) ..).trans ?_
      | refine (State.withTrace_same (hb.sub (by decide)) ..).trans ?_ | refine Same.ite ?_ ?_ | intro _
    | split
    | dsimp only

theorem State.traceStopBegin_same
    (hb : Blind π [.regs, .q, .cq, .ctr, .fl, .cqs, .ic, .arb, .trace, .adm, .pat, .pair, .lace, .mem, .out]) (s : State) (st : Stream) (o : AdmOpen) :
    Same π (State.traceStopBegin s st o) s := by
  unfold State.traceStopBegin
  repeat' first
    | with_reducible first
      | exact Same.refl _ | assumption | refine (State.admDone_same hb ..).trans ?_
      | refine (State.traceEnd_same hb ..).trans ?_ | refine (State.setF_same (hb.sub (by decide)) ..).trans ?_
      | refine (State.setAdm_same (hb.sub (by decide)) ..).trans ?_ | refine Same.ite ?_ ?_ | intro _
    | split
    | dsimp only

theorem execTraceStop_same (hb : Blind π
    (Part.but [.pending, .mr, .pd, .park, .cache, .lines, .tb, .pins, .memSize, .lastRead, .free])) (st : Stream) (s : State) :
    SameR π (execTraceStop st s) s := by
  unfold execTraceStop
  repeat' first
    | with_reducible first
      | refine SameR.guarded ?_ ?_ | refine SameR.next ?_ | refine SameR.ite ?_ ?_ | exact Same.refl _ | assumption
      | refine (State.cmdStitch_same (hb.sub (by decide)) (h_g := ?_) ..).trans ?_
      | refine (State.traceEnd_same (hb.sub (by decide)) ..).trans ?_
      | refine (State.openAdm_same (hb.sub (by decide)) ..).trans ?_
      | refine (State.traceStopBegin_same (hb.sub (by decide)) ..).trans ?_ | refine Same.ite ?_ ?_
      | refine Same.ite_fst ?_ ?_ | intro _
    | split
    | dsimp only

theorem execUnitOnline_same
    (hb : Blind π [.regs, .q, .cq, .ctr, .fl, .cqs, .ic, .arb, .trace, .adm, .pat, .pair, .lace, .mem, .out]) (st : Stream) (s : State) :
    SameR π (execUnitOnline st s) s := by
  unfold execUnitOnline
  repeat' first
    | with_reducible first
      | refine SameR.guarded ?_ ?_ | refine SameR.next ?_ | refine SameR.ite ?_ ?_ | exact Same.refl _ | assumption
      | refine (State.fwOpen_same hb ..).trans ?_ | intro _
    | split
    | dsimp only

theorem execSetMirror_same
    (hb : Blind π [.regs, .q, .cq, .ctr, .fl, .cqs, .ic, .arb, .trace, .adm, .pat, .pair, .lace, .mem, .out]) (st : Stream) (s : State) :
    SameR π (execSetMirror st s) s := by
  unfold execSetMirror
  repeat' first
    | with_reducible first
      | refine SameR.guarded ?_ ?_ | refine SameR.next ?_ | refine SameR.ite ?_ ?_ | exact Same.refl _ | assumption
      | refine (State.fwOpen_same hb ..).trans ?_ | intro _
    | split
    | dsimp only

theorem execFwCmd_same
    (hb : Blind π [.regs, .q, .cq, .ctr, .fl, .cqs, .ic, .arb, .trace, .adm, .pat, .pair, .lace, .mem, .out]) (st : Stream) (s : State) :
    SameR π (execFwCmd st s) s := by
  unfold execFwCmd
  repeat' first
    | with_reducible first
      | refine SameR.guarded ?_ ?_ | refine SameR.next ?_ | refine SameR.ite ?_ ?_ | exact Same.refl _ | assumption
      | refine (State.fwOpen_same hb ..).trans ?_ | intro _
    | split
    | dsimp only

theorem execFwTimeout_same
    (hb : Blind π [.regs, .q, .cq, .ctr, .fl, .cqs, .ic, .arb, .trace, .adm, .pat, .pair, .lace, .mem, .out]) (s : State) :
    SameR π (execFwTimeout s) s := by
  unfold execFwTimeout
  repeat' first
    | with_reducible first
      | refine SameR.guarded ?_ ?_ | refine SameR.next ?_ | refine SameR.ite ?_ ?_ | exact Same.refl _ | assumption
      | refine (State.fwEnd_same hb ..).trans ?_ | intro _
    | split
    | dsimp only

theorem execAdmFwDone_same
    (hb : Blind π [.regs, .q, .cq, .ctr, .fl, .cqs, .ic, .arb, .trace, .adm, .pat, .pair, .lace, .mem, .out]) (w : W64) (s : State) :
    SameR π (execAdmFwDone w s) s := by
  unfold execAdmFwDone
  repeat' first
    | with_reducible first
      | refine SameR.guarded ?_ ?_ | refine SameR.next ?_ | refine SameR.ite ?_ ?_ | exact Same.refl _ | assumption
      | refine (State.cnt_same (hb.sub (by decide)) ..).trans ?_ | refine (State.fwEnd_same hb ..).trans ?_
      | refine Same.ite ?_ ?_ | refine Same.ite_fst ?_ ?_ | intro _
    | split
    | dsimp only

theorem State.admFields_same (hb : Blind π [.regs]) (s : State) (w : W64) : Same π (State.admFields s w) s := by
  unfold State.admFields
  repeat' first
    | with_reducible first
      | exact Same.refl _ | assumption | refine (State.setReg_same hb ..).trans ?_ | intro _
    | split
    | dsimp only

theorem State.startRing_same (hb : Blind π [.regs, .q, .cq, .cqs, .cache, .adm, .pat, .mem]) (s : State) :
    Same π (State.startRing s) s := by
  unfold State.startRing
  repeat' first
    | with_reducible first
      | exact Same.refl _ | assumption | refine (State.withCqs_same (hb.sub (by decide)) ..).trans ?_
      | refine (State.touchBlock_same (hb.sub (by decide)) ..).trans ?_
      | refine (State.warm_same (hb.sub (by decide)) ..).trans ?_ | refine (State.setC_same (hb.sub (by decide)) ..).trans ?_
      | refine (State.setF_same (hb.sub (by decide)) ..).trans ?_
      | refine (State.withAdm_same (hb.sub (by decide)) ..).trans ?_
      | refine (State.setQ_same (hb.sub (by decide)) ..).trans ?_ | intro _
    | split
    | dsimp only

theorem execAdmEnable_same (hb : Blind π [.regs, .q, .cq, .cqs, .cache, .adm, .pat, .mem]) (w : W64) (s : State) :
    SameR π (execAdmEnable w s) s := by
  unfold execAdmEnable
  repeat' first
    | with_reducible first
      | refine SameR.guarded ?_ ?_ | refine SameR.next ?_ | refine SameR.ite ?_ ?_ | exact Same.refl _ | assumption
      | refine (State.admFields_same (hb.sub (by decide)) ..).trans ?_
      | refine (State.setF_same (hb.sub (by decide)) ..).trans ?_
      | refine (State.withAdm_same (hb.sub (by decide)) ..).trans ?_ | refine (State.startRing_same hb ..).trans ?_
      | refine Same.ite ?_ ?_ | refine Same.ite_fst ?_ ?_ | intro _
    | split
    | dsimp only

theorem execAdmDisable_same (hb : Blind π [.regs, .q, .adm]) (w : W64) (s : State) : SameR π (execAdmDisable w s) s := by
  unfold execAdmDisable
  repeat' first
    | with_reducible first
      | refine SameR.guarded ?_ ?_ | refine SameR.next ?_ | refine SameR.ite ?_ ?_ | exact Same.refl _ | assumption
      | refine (State.stopRing_same hb ..).trans ?_ | refine (State.admFields_same (hb.sub (by decide)) ..).trans ?_
      | refine (State.withAdm_same (hb.sub (by decide)) ..).trans ?_ | refine Same.ite ?_ ?_ | refine Same.ite_fst ?_ ?_
      | intro _
    | split
    | dsimp only

theorem execAdmCobLock_same (hb : Blind π [.regs]) (w : W64) (s : State) : SameR π (execAdmCobLock w s) s := by
  unfold execAdmCobLock
  repeat' first
    | with_reducible first
      | refine SameR.guarded ?_ ?_ | refine SameR.next ?_ | refine SameR.ite ?_ ?_ | exact Same.refl _ | assumption
      | refine (State.setF_same hb ..).trans ?_ | refine Same.ite ?_ ?_ | refine Same.ite_fst ?_ ?_ | intro _
    | split
    | dsimp only

theorem execAdmCobGo_same
    (hb : Blind π [.regs, .q, .cq, .ctr, .fl, .cqs, .ic, .arb, .trace, .adm, .pat, .pair, .lace, .mem, .out]) (w : W64) (s : State) :
    SameR π (execAdmCobGo w s) s := by
  unfold execAdmCobGo
  repeat' first
    | with_reducible first
      | refine SameR.guarded ?_ ?_ | refine SameR.next ?_ | refine SameR.ite ?_ ?_ | exact Same.refl _ | assumption
      | refine (State.admDone_same hb ..).trans ?_ | refine (State.lineUp_same (hb.sub (by decide)) ..).trans ?_
      | refine (State.setF_same (hb.sub (by decide)) ..).trans ?_
      | refine (State.withAdm_same (hb.sub (by decide)) ..).trans ?_
      | refine (State.setAdm_same (hb.sub (by decide)) ..).trans ?_ | refine Same.ite ?_ ?_ | refine Same.ite_fst ?_ ?_
      | intro _
    | split
    | dsimp only

theorem execClearStitch_same (hb : Blind π [.regs, .q, .ic, .arb, .trace, .adm, .pat, .err, .spr, .mem, .out]) (s : State) :
    SameR π (execClearStitch s) s := by
  unfold execClearStitch
  repeat' first
    | with_reducible first
      | refine SameR.guarded ?_ ?_ | refine SameR.next ?_ | refine SameR.ite ?_ ?_ | exact Same.refl _ | assumption
      | refine (State.clearStep_same (hb.sub (by decide)) ..).trans ?_
      | refine (State.admStitch_same hb (h_g := ?_) ..).trans ?_ | refine Same.ite ?_ ?_ | refine Same.ite_fst ?_ ?_ | intro _
    | split
    | dsimp only


/-! ## Module Irq -/

theorem State.rederive_same (hb : Blind π [.regs]) (s : State) (t : Nat) : Same π (State.rederive s t) s := by
  unfold State.rederive
  repeat' first
    | with_reducible first
      | exact Same.refl _ | assumption | refine (State.setPend_same hb ..).trans ?_ | refine (Same.forEach _ _ _ ?_).trans ?_
      | refine Same.ite ?_ ?_ | intro _
    | split
    | dsimp only

theorem execIcSet_same (hb : Blind π [.regs, .ic, .out]) (src : BitVec 10) (s : State) : SameR π (execIcSet src s) s := by
  unfold execIcSet
  repeat' first
    | with_reducible first
      | refine SameR.guarded ?_ ?_ | refine SameR.next ?_ | refine SameR.ite ?_ ?_ | exact Same.refl _ | assumption
      | refine (State.raise_same hb ..).trans ?_ | intro _
    | split
    | dsimp only

theorem execExtIntAssert_same (hb : Blind π [.regs, .ic, .out]) (n : Nat) (s : State) : SameR π (execExtIntAssert n s) s := by
  unfold execExtIntAssert
  repeat' first
    | with_reducible first
      | refine SameR.guarded ?_ ?_ | refine SameR.next ?_ | refine SameR.ite ?_ ?_ | exact Same.refl _ | assumption
      | refine (State.setF_same (hb.sub (by decide)) ..).trans ?_ | refine (State.raise_same hb ..).trans ?_ | intro _
    | split
    | dsimp only

theorem execExtIntRearm_same (hb : Blind π [.regs, .ic, .out]) (n : Nat) (s : State) : SameR π (execExtIntRearm n s) s := by
  unfold execExtIntRearm
  repeat' first
    | with_reducible first
      | refine SameR.guarded ?_ ?_ | refine SameR.next ?_ | refine SameR.ite ?_ ?_ | exact Same.refl _ | assumption
      | refine (State.raise_same hb ..).trans ?_ | intro _
    | split
    | dsimp only

theorem execExtIntGlitch_same (hb : Blind π [.regs, .ic, .out]) (n : Nat) (s : State) : SameR π (execExtIntGlitch n s) s := by
  unfold execExtIntGlitch
  repeat' first
    | with_reducible first
      | refine SameR.guarded ?_ ?_ | refine SameR.next ?_ | refine SameR.ite ?_ ?_ | exact Same.refl _ | assumption
      | refine (State.cnt_same (hb.sub (by decide)) ..).trans ?_ | refine (State.raise_same hb ..).trans ?_
      | refine Same.ite ?_ ?_ | refine Same.ite_fst ?_ ?_ | intro _
    | split
    | dsimp only

theorem execExtIntDeassert_same (hb : Blind π [.regs]) (n : Nat) (s : State) : SameR π (execExtIntDeassert n s) s := by
  unfold execExtIntDeassert
  repeat' first
    | with_reducible first
      | refine SameR.guarded ?_ ?_ | refine SameR.next ?_ | refine SameR.ite ?_ ?_ | exact Same.refl _ | assumption
      | refine (State.setF_same hb ..).trans ?_ | intro _
    | split
    | dsimp only

theorem State.claim_same (hb : Blind π [.regs, .ic, .out, .lastRead]) (s : State) (t : Nat) : Same π (State.claim s t) s := by
  unfold State.claim
  split
  · exact (State.ret_same (hb.sub (by decide)) ..).trans (State.cnt_same (hb.sub (by decide)) ..)
  · refine (State.ret_same (hb.sub (by decide)) ..).trans ?_
    refine (State.judgeAll_same (hb.sub (by decide)) ..).trans ?_
    refine (State.setStack_same (hb.sub (by decide)) ..).trans ?_
    refine (State.endSignal_same (hb.sub (by decide)) ..).trans ?_
    refine (State.setPend_same (hb.sub (by decide)) ..).trans ?_
    exact (State.setF_same (hb.sub (by decide)) ..).trans (State.setF_same (hb.sub (by decide)) ..)

theorem execIcClaim_same (hb : Blind π [.regs, .ic, .out, .lastRead]) (t : Nat) (s : State) : SameR π (execIcClaim t s) s := by
  unfold execIcClaim
  repeat' first
    | with_reducible first
      | refine SameR.guarded ?_ ?_ | refine SameR.next ?_ | refine SameR.ite ?_ ?_ | exact Same.refl _ | assumption
      | refine (State.claim_same hb ..).trans ?_ | refine (State.beginRead_same (hb.sub (by decide)) ..).trans ?_ | intro _
    | split
    | dsimp only

theorem State.eoi_same (hb : Blind π [.regs, .ic, .out]) (s : State) (t src : Nat) : Same π (State.eoi s t src) s := by
  unfold State.eoi
  repeat' first
    | with_reducible first
      | exact Same.refl _ | assumption | refine (State.cnt_same (hb.sub (by decide)) ..).trans ?_
      | refine (State.rederive_same (hb.sub (by decide)) ..).trans ?_
      | refine (State.setStack_same (hb.sub (by decide)) ..).trans ?_
      | refine (State.setF_same (hb.sub (by decide)) ..).trans ?_ | refine (State.judgeAll_same hb ..).trans ?_
      | refine Same.ite ?_ ?_ | refine Same.ite_fst ?_ ?_ | intro _
    | split
    | dsimp only

theorem execIcEoi_same (hb : Blind π [.regs, .ic, .out]) (t : Nat) (src : BitVec 10) (s : State) :
    SameR π (execIcEoi t src s) s := by
  unfold execIcEoi
  repeat' first
    | with_reducible first
      | refine SameR.guarded ?_ ?_ | refine SameR.next ?_ | refine SameR.ite ?_ ?_ | exact Same.refl _ | assumption
      | refine (State.eoi_same hb ..).trans ?_ | intro _
    | split
    | dsimp only

theorem execResync_same (hb : Blind π [.regs, .ic, .out]) (t : Nat) (s : State) : SameR π (execResync t s) s := by
  unfold execResync
  repeat' first
    | with_reducible first
      | refine SameR.guarded ?_ ?_ | refine SameR.next ?_ | refine SameR.ite ?_ ?_ | exact Same.refl _ | assumption
      | refine (State.rederive_same (hb.sub (by decide)) ..).trans ?_ | refine (State.judgeAll_same hb ..).trans ?_ | intro _
    | split
    | dsimp only

theorem execIcCntClear_same (hb : Blind π [.regs, .ic, .out]) (src : Nat) (s : State) : SameR π (execIcCntClear src s) s := by
  unfold execIcCntClear
  repeat' first
    | with_reducible first
      | refine SameR.guarded ?_ ?_ | refine SameR.next ?_ | refine SameR.ite ?_ ?_ | exact Same.refl _ | assumption
      | refine (State.judgeMsg_same hb ..).trans ?_ | refine (State.setPend_same (hb.sub (by decide)) ..).trans ?_
      | refine (State.setF_same (hb.sub (by decide)) ..).trans ?_ | intro _
    | split
    | dsimp only

theorem State.msgFail_same (hb : Blind π [.regs, .ic, .err, .mem, .out]) (s : State) (m : HostMsg) :
    Same π (State.msgFail s m) s := by
  unfold State.msgFail
  repeat' first
    | with_reducible first
      | exact Same.refl _ | assumption | refine (State.withIc_same (hb.sub (by decide)) ..).trans ?_
      | refine (State.logIn_same (hb.sub (by decide)) ..).trans ?_ | refine (State.cnt_same (hb.sub (by decide)) ..).trans ?_
      | refine (State.writeHost_same (hb.sub (by decide)) ..).trans ?_
      | refine (State.setF_same (hb.sub (by decide)) ..).trans ?_ | refine (State.raise_same (hb.sub (by decide)) ..).trans ?_
      | refine Same.ite ?_ ?_ | intro _
    | split
    | dsimp only

theorem execMsgFail_same (hb : Blind π [.regs, .ic, .err, .mem, .out]) (src : Nat) (s : State) :
    SameR π (execMsgFail src s) s := by
  unfold execMsgFail
  repeat' first
    | with_reducible first
      | refine SameR.guarded ?_ ?_ | refine SameR.next ?_ | refine SameR.ite ?_ ?_ | exact Same.refl _ | assumption
      | refine (State.msgFail_same hb ..).trans ?_ | intro _
    | split
    | dsimp only

theorem State.cobSleep_same (hb : Blind π [.regs]) (s : State) (c st : Nat) : Same π (State.cobSleep s c st) s := by
  unfold State.cobSleep
  repeat' first
    | with_reducible first
      | exact Same.refl _ | assumption | refine (State.cnt_same hb ..).trans ?_ | refine (State.setF_same hb ..).trans ?_
      | refine Same.ite ?_ ?_ | intro _
    | split
    | dsimp only

theorem execCobWait_same (hb : Blind π [.regs]) (c : Nat) (s : State) : SameR π (execCobWait c s) s := by
  unfold execCobWait
  repeat' first
    | with_reducible first
      | refine SameR.guarded ?_ ?_ | refine SameR.next ?_ | refine SameR.ite ?_ ?_ | exact Same.refl _ | assumption
      | refine (State.cobSleep_same hb ..).trans ?_ | intro _
    | split
    | dsimp only

theorem execCobDoze_same (hb : Blind π [.regs]) (c : Nat) (s : State) : SameR π (execCobDoze c s) s := by
  unfold execCobDoze
  repeat' first
    | with_reducible first
      | refine SameR.guarded ?_ ?_ | refine SameR.next ?_ | refine SameR.ite ?_ ?_ | exact Same.refl _ | assumption
      | refine (State.cobSleep_same hb ..).trans ?_ | intro _
    | split
    | dsimp only

theorem execCobWake_same (hb : Blind π [.regs]) (c : Nat) (s : State) : SameR π (execCobWake c s) s := by
  unfold execCobWake
  repeat' first
    | with_reducible first
      | refine SameR.guarded ?_ ?_ | refine SameR.next ?_ | refine SameR.ite ?_ ?_ | exact Same.refl _ | assumption
      | refine (State.cnt_same hb ..).trans ?_ | refine (State.setF_same hb ..).trans ?_ | intro _
    | split
    | dsimp only


/-! ## Module Ports -/
theorem State.after_same {s : State} {r : Res} (h : SameR π r s) : Same π (s.after r) s := by
  cases r with
  | next t => exact h.on t rfl
  | fault _ => exact rfl
  | refused _ => exact rfl

theorem State.lostWrite_same (hb : Blind π
    (Part.but [.pending, .mr, .pd, .park, .tb, .adm, .spr, .pins, .memSize, .lastRead, .free])) (s : State) (q : Nat) (i : W32) (w sp st : Nat) (count : State → State) (h_count : ∀ s , Same π (count s ) s) :
    Same π (State.lostWrite s q i w sp st count) s := by
  unfold State.lostWrite
  repeat' first
    | with_reducible first
      | exact Same.refl _ | assumption | refine (h_count ..).trans ?_ | refine (State.failWrite_same hb ..).trans ?_
      | refine Same.ite ?_ ?_ | intro _
    | split
    | dsimp only

theorem State.lostRecord_same
    (hb : Blind π [.regs, .q, .cq, .fl, .cqs, .ic, .arb, .trace, .pat, .pair, .lace, .err, .mem, .out]) (s : State) (c sp : Nat) (count : State → State) (h_count : ∀ s , Same π (count s ) s) :
    Same π (State.lostRecord s c sp count) s := by
  unfold State.lostRecord
  repeat' first
    | with_reducible first
      | exact Same.refl _ | assumption | refine (h_count ..).trans ?_ | refine (State.breakRing_same hb ..).trans ?_
      | refine Same.ite ?_ ?_ | intro _
    | split
    | dsimp only

theorem State.lostResponse_same (hb : Blind π
    (Part.but [.pending, .mr, .pd, .park, .cache, .lines, .tb, .pins, .memSize, .lastRead, .free])) (s : State) (st : Stream) (sp : Nat) (counted : Bool) :
    Same π (State.lostResponse s st sp counted) s := by
  unfold State.lostResponse
  repeat' first
    | with_reducible first
      | exact Same.refl _ | assumption | refine (State.queryCq_same hb ..).trans ?_
      | refine (State.queryWq_same hb ..).trans ?_ | refine Same.ite ?_ ?_ | intro _
    | split
    | dsimp only

theorem State.lostCopy_same (hb : Blind π [.regs, .trace]) (s : State) (sp : Nat) (count : State → State)
    (h_count : ∀ s , Same π (count s ) s) :
    Same π (State.lostCopy s sp count) s := by
  unfold State.lostCopy
  repeat' first
    | with_reducible first
      | exact Same.refl _ | assumption | refine (h_count ..).trans ?_ | refine (State.traceFail_same hb ..).trans ?_
      | refine Same.ite ?_ ?_ | intro _
    | split
    | dsimp only

theorem State.lostReserved_same
    (hb : Blind π [.regs, .cache, .ic, .arb, .lines, .adm, .pair, .lace, .err, .spr, .pins, .out, .lastRead]) (s : State) (ofs : Nat) (count : State → State) (h_count : ∀ s , Same π (count s ) s) :
    Same π (State.lostReserved s ofs count) s := by
  unfold State.lostReserved
  repeat' first
    | with_reducible first
      | exact Same.refl _ | assumption | refine (h_count ..).trans ?_ | refine (State.fatal_same hb ..).trans ?_
      | refine Same.ite ?_ ?_ | intro _
    | split
    | dsimp only

theorem execTransactionRejected_same (hb : Blind π (Part.but [.pending, .mr, .pd, .tb, .memSize])) (t : Txn) (s : State) :
    SameR π (execTransactionRejected t s) s := by
  unfold execTransactionRejected
  repeat' first
    | with_reducible first
      | refine SameR.guarded ?_ ?_ | refine SameR.next ?_ | refine SameR.ite ?_ ?_ | exact Same.refl _ | assumption
      | refine (State.fold_same (hb.sub (by decide)) ..).trans ?_
      | refine (State.portReject_same (hb.sub (by decide)) ..).trans ?_
      | exact execSourceListReadDone_same (hb.sub (by decide)) ..
      | refine (State.lostRecord_same (hb.sub (by decide)) (h_count := ?_) ..).trans ?_
      | refine (State.msgFail_same (hb.sub (by decide)) ..).trans ?_ | exact execDataReadDone_same (hb.sub (by decide)) ..
      | refine (State.lostCopy_same (hb.sub (by decide)) (h_count := ?_) ..).trans ?_
      | refine (State.lostResponse_same (hb.sub (by decide)) ..).trans ?_
      | refine (State.lostWrite_same (hb.sub (by decide)) (h_count := ?_) ..).trans ?_
      | exact execEntryFetchDone_same (hb.sub (by decide)) .. | exact execFragmentTableReadDone_same hb ..
      | refine (State.emit_same (hb.sub (by decide)) ..).trans ?_ | refine (State.after_same ?_).trans ?_
      | refine Same.ite ?_ ?_ | refine Same.ite_fst ?_ ?_ | intro _
    | split
    | dsimp only

theorem execMemWriteError_same (hb : Blind π (Part.but [.pending, .mr, .pd, .park, .tb, .memSize])) (t : Txn) (s : State) :
    SameR π (execMemWriteError t s) s := by
  unfold execMemWriteError
  repeat' first
    | with_reducible first
      | refine SameR.guarded ?_ ?_ | refine SameR.next ?_ | refine SameR.ite ?_ ?_ | exact Same.refl _ | assumption
      | refine (State.fold_same (hb.sub (by decide)) ..).trans ?_
      | refine (State.lostReserved_same (hb.sub (by decide)) (h_count := ?_) ..).trans ?_
      | refine (State.lostRecord_same (hb.sub (by decide)) (h_count := ?_) ..).trans ?_
      | refine (State.lostCopy_same (hb.sub (by decide)) (h_count := ?_) ..).trans ?_
      | refine (State.lostResponse_same (hb.sub (by decide)) ..).trans ?_
      | refine (State.lostWrite_same (hb.sub (by decide)) (h_count := ?_) ..).trans ?_ | refine Same.ite ?_ ?_
      | refine Same.ite_fst ?_ ?_ | intro _
    | split
    | dsimp only

theorem execMempAddressError_same (hb : Blind π (Part.but [.pending, .mr, .pd, .tb, .memSize])) (t : Txn) (s : State) :
    SameR π (execMempAddressError t s) s := by
  unfold execMempAddressError
  repeat' first
    | with_reducible first
      | refine SameR.guarded ?_ ?_ | refine SameR.next ?_ | refine SameR.ite ?_ ?_ | exact Same.refl _ | assumption
      | refine (State.fold_same (hb.sub (by decide)) ..).trans ?_
      | refine (State.portReject_same (hb.sub (by decide)) ..).trans ?_
      | exact execSourceListReadDone_same (hb.sub (by decide)) ..
      | refine (State.lostReserved_same (hb.sub (by decide)) (h_count := ?_) ..).trans ?_
      | refine (State.lostRecord_same (hb.sub (by decide)) (h_count := ?_) ..).trans ?_
      | exact execDataReadDone_same (hb.sub (by decide)) ..
      | refine (State.lostCopy_same (hb.sub (by decide)) (h_count := ?_) ..).trans ?_
      | refine (State.lostResponse_same (hb.sub (by decide)) ..).trans ?_
      | refine (State.lostWrite_same (hb.sub (by decide)) (h_count := ?_) ..).trans ?_
      | exact execEntryFetchDone_same (hb.sub (by decide)) .. | exact execFragmentTableReadDone_same hb ..
      | refine (State.after_same ?_).trans ?_ | refine Same.ite ?_ ?_ | refine Same.ite_fst ?_ ?_ | intro _
    | split
    | dsimp only


/-! ## Module Takeover -/

theorem execMirrorAck_same (hb : Blind π
    (Part.but [.pending, .mr, .pd, .park, .lines, .tb, .adm, .spr, .pins, .memSize, .lastRead])) (seq : W32) (s : State) :
    SameR π (execMirrorAck seq s) s := by
  unfold execMirrorAck
  repeat' first
    | with_reducible first
      | refine SameR.guarded ?_ ?_ | refine SameR.next ?_ | refine SameR.ite ?_ ?_ | exact Same.refl _ | assumption
      | refine (State.takeAck_same hb ..).trans ?_ | refine (State.consume_same (hb.sub (by decide)) ..).trans ?_
      | refine Same.ite ?_ ?_ | refine Same.ite_fst ?_ ?_ | intro _
    | split
    | dsimp only

theorem execReady_same (hb : Blind π [.arb, .pair, .lace, .out]) (s : State) : SameR π (execReady s) s := by
  unfold execReady
  repeat' first
    | with_reducible first
      | refine SameR.guarded ?_ ?_ | refine SameR.next ?_ | refine SameR.ite ?_ ?_ | exact Same.refl _ | assumption
      | refine (State.consume_same (hb.sub (by decide)) ..).trans ?_
      | refine (State.withPair_same (hb.sub (by decide)) ..).trans ?_ | refine (State.sendSnapshots_same hb ..).trans ?_
      | refine Same.ite ?_ ?_ | refine Same.ite_fst ?_ ?_ | intro _
    | split
    | dsimp only

theorem execSendState_same (hb : Blind π
    (Part.but [.pending, .mr, .pd, .park, .lines, .tb, .adm, .spr, .pins, .memSize, .lastRead])) (st : BitVec 3) (s : State) :
    SameR π (execSendState st s) s := by
  unfold execSendState
  repeat' first
    | with_reducible first
      | refine SameR.guarded ?_ ?_ | refine SameR.next ?_ | refine SameR.ite ?_ ?_ | exact Same.refl _ | assumption
      | refine (State.setSend_same hb ..).trans ?_ | refine (State.startSync_same hb ..).trans ?_
      | refine (State.countLoss_same (hb.sub (by decide)) ..).trans ?_ | refine (State.goOff_same hb ..).trans ?_
      | refine (State.consume_same (hb.sub (by decide)) ..).trans ?_
      | refine (State.withPair_same (hb.sub (by decide)) ..).trans ?_ | refine Same.ite ?_ ?_ | refine Same.ite_fst ?_ ?_
      | intro _
    | split
    | dsimp only

theorem State.loadNotice_same (hb : Blind π [.regs]) (s : State) (n : Notice) : Same π (State.loadNotice s n) s := by
  unfold State.loadNotice
  repeat' first
    | with_reducible first
      | exact Same.refl _ | assumption | refine (State.setReg_same hb ..).trans ?_ | refine (State.setF_same hb ..).trans ?_
      | intro _
    | split
    | dsimp only

theorem State.takeNotice_same (hb : Blind π
    (Part.but [.pending, .mr, .pd, .park, .lines, .tb, .adm, .spr, .pins, .memSize, .lastRead])) (s : State) (n : Notice) :
    Same π (State.takeNotice s n) s := by
  unfold State.takeNotice
  repeat' first
    | with_reducible first
      | exact Same.refl _ | assumption | refine (State.loadNotice_same (hb.sub (by decide)) ..).trans ?_
      | refine (State.condition_same hb ..).trans ?_ | refine (State.raise_same (hb.sub (by decide)) ..).trans ?_
      | refine (State.withPair_same (hb.sub (by decide)) ..).trans ?_ | refine Same.ite ?_ ?_ | intro _
    | split
    | dsimp only

theorem execHaltNotice_same (hb : Blind π
    (Part.but [.pending, .mr, .pd, .park, .lines, .tb, .adm, .spr, .pins, .memSize, .lastRead])) (n : Notice) (s : State) :
    SameR π (execHaltNotice n s) s := by
  unfold execHaltNotice
  repeat' first
    | with_reducible first
      | refine SameR.guarded ?_ ?_ | refine SameR.next ?_ | refine SameR.ite ?_ ?_ | exact Same.refl _ | assumption
      | refine (State.ctrlMsg_same (hb.sub (by decide)) ..).trans ?_
      | refine (State.consume_same (hb.sub (by decide)) ..).trans ?_ | refine (State.takeNotice_same hb ..).trans ?_ | intro _
    | split
    | dsimp only

theorem execHaltAck_same (hb : Blind π [.pair, .lace]) (qid : BitVec 22) (a : W32) (s : State) :
    SameR π (execHaltAck qid a s) s := by
  unfold execHaltAck
  repeat' first
    | with_reducible first
      | refine SameR.guarded ?_ ?_ | refine SameR.next ?_ | refine SameR.ite ?_ ?_ | exact Same.refl _ | assumption
      | refine (State.consume_same (hb.sub (by decide)) ..).trans ?_
      | refine (State.withPair_same (hb.sub (by decide)) ..).trans ?_ | intro _
    | split
    | dsimp only

theorem execHaltNoticeResend_same (hb : Blind π [.arb, .pair, .lace, .out]) (s : State) :
    SameR π (execHaltNoticeResend s) s := by
  unfold execHaltNoticeResend
  repeat' first
    | with_reducible first
      | refine SameR.guarded ?_ ?_ | refine SameR.next ?_ | refine SameR.ite ?_ ?_ | exact Same.refl _ | assumption
      | refine (State.sendNotice_same hb ..).trans ?_ | intro _
    | split
    | dsimp only

theorem State.signChange_same (hb : Blind π [.regs, .ic, .out]) (s : State) (d : Fld) (v : Nat) :
    Same π (State.signChange s d v) s := by
  unfold State.signChange
  repeat' first
    | with_reducible first
      | exact Same.refl _ | assumption | refine (State.setF_same (hb.sub (by decide)) ..).trans ?_
      | refine (State.raise_same hb ..).trans ?_ | refine Same.ite ?_ ?_ | intro _
    | split
    | dsimp only

theorem execFellowAliveChange_same (hb : Blind π [.regs, .ic, .out]) (level : Bool) (s : State) :
    SameR π (execFellowAliveChange level s) s := by
  unfold execFellowAliveChange
  repeat' first
    | with_reducible first
      | refine SameR.guarded ?_ ?_ | refine SameR.next ?_ | refine SameR.ite ?_ ?_ | exact Same.refl _ | assumption
      | refine (State.signChange_same hb ..).trans ?_ | intro _
    | split
    | dsimp only

theorem execHaltInChange_same (hb : Blind π
    (Part.but [.pending, .mr, .pd, .park, .lines, .tb, .adm, .spr, .pins, .memSize, .lastRead])) (asserted : Bool) (s : State) :
    SameR π (execHaltInChange asserted s) s := by
  unfold execHaltInChange
  repeat' first
    | with_reducible first
      | refine SameR.guarded ?_ ?_ | refine SameR.next ?_ | refine SameR.ite ?_ ?_ | exact Same.refl _ | assumption
      | refine (State.startSync_same hb ..).trans ?_ | refine (State.signChange_same (hb.sub (by decide)) ..).trans ?_
      | refine Same.ite ?_ ?_ | refine Same.ite_fst ?_ ?_ | intro _
    | split
    | dsimp only

theorem execTakeoverDelay_same (hb : Blind π
    (Part.but [.pending, .mr, .pd, .park, .lines, .tb, .adm, .spr, .pins, .memSize, .lastRead])) (s : State) :
    SameR π (execTakeoverDelay s) s := by
  unfold execTakeoverDelay
  repeat' first
    | with_reducible first
      | refine SameR.guarded ?_ ?_ | refine SameR.next ?_ | refine SameR.ite ?_ ?_ | exact Same.refl _ | assumption
      | refine (State.condition_same hb ..).trans ?_ | refine (State.enterLost_same hb ..).trans ?_ | refine Same.ite ?_ ?_
      | refine Same.ite_fst ?_ ?_ | intro _
    | split
    | dsimp only

theorem State.adoptCmd_same (hb : Blind π
    (Part.but [.pending, .mr, .pd, .park, .lines, .tb, .adm, .spr, .pins, .memSize, .lastRead])) (s : State) :
    Same π (State.adoptCmd s) s := by
  unfold State.adoptCmd
  repeat' first
    | with_reducible first
      | exact Same.refl _ | assumption | refine (State.cnt_same (hb.sub (by decide)) ..).trans ?_
      | refine (State.takeOver_same hb ..).trans ?_ | refine (State.raise_same (hb.sub (by decide)) ..).trans ?_
      | refine Same.ite ?_ ?_ | intro _
    | split
    | dsimp only

theorem execAdopt_same (hb : Blind π
    (Part.but [.pending, .mr, .pd, .park, .lines, .tb, .adm, .spr, .pins, .memSize, .lastRead])) (w : W64) (s : State) :
    SameR π (execAdopt w s) s := by
  unfold execAdopt
  repeat' first
    | with_reducible first
      | refine SameR.guarded ?_ ?_ | refine SameR.next ?_ | refine SameR.ite ?_ ?_ | exact Same.refl _ | assumption
      | refine (State.adoptCmd_same hb ..).trans ?_ | intro _
    | split
    | dsimp only

theorem execHaltCommand_same (hb : Blind π [.regs, .ic, .arb, .lines, .adm, .pair, .lace, .spr, .pins, .out]) (w : W64)
    (s : State) :
    SameR π (execHaltCommand w s) s := by
  unfold execHaltCommand
  repeat' first
    | with_reducible first
      | refine SameR.guarded ?_ ?_ | refine SameR.next ?_ | refine SameR.ite ?_ ?_ | exact Same.refl _ | assumption
      | refine (State.halt_same hb ..).trans ?_ | intro _
    | split
    | dsimp only

theorem execDrainLimit_same (hb : Blind π [.regs, .q, .cq, .pair]) (s : State) : SameR π (execDrainLimit s) s := by
  unfold execDrainLimit
  repeat' first
    | with_reducible first
      | refine SameR.guarded ?_ ?_ | refine SameR.next ?_ | refine SameR.ite ?_ ?_ | exact Same.refl _ | assumption
      | refine (State.startAdopt_same hb ..).trans ?_ | intro _
    | split
    | dsimp only

theorem State.scanEnd_same (hb : Blind π
    (Part.but [.pending, .mr, .pd, .park, .lines, .tb, .adm, .spr, .pins, .memSize, .lastRead])) (s : State) :
    Same π (State.scanEnd s) s := by
  unfold State.scanEnd
  repeat' first
    | with_reducible first
      | exact Same.refl _ | assumption | refine (State.setKeep_same (hb.sub (by decide)) ..).trans ?_
      | refine (State.endAdoption_same hb ..).trans ?_ | refine (State.setF_same (hb.sub (by decide)) ..).trans ?_
      | refine (State.raise_same (hb.sub (by decide)) ..).trans ?_ | refine Same.ite ?_ ?_ | intro _
    | split
    | dsimp only

theorem State.adoptScan_same (hb : Blind π
    (Part.but [.pending, .mr, .pd, .park, .lines, .tb, .adm, .spr, .pins, .memSize, .lastRead])) (s : State) :
    Same π (State.adoptScan s) s := by
  unfold State.adoptScan
  repeat' first
    | with_reducible first
      | exact Same.refl _ | assumption | refine (State.scanEnd_same hb ..).trans ?_
      | refine (State.withPair_same (hb.sub (by decide)) ..).trans ?_
      | refine (State.adoptQueue_same (hb.sub (by decide)) ..).trans ?_ | refine (Same.forEach _ _ _ ?_).trans ?_ | intro _
    | split
    | dsimp only

theorem execAdoptionStitch_same (hb : Blind π
    (Part.but [.pending, .mr, .pd, .park, .lines, .tb, .pins, .memSize, .lastRead])) (s : State) :
    SameR π (execAdoptionStitch s) s := by
  unfold execAdoptionStitch
  repeat' first
    | with_reducible first
      | refine SameR.guarded ?_ ?_ | refine SameR.next ?_ | refine SameR.ite ?_ ?_ | exact Same.refl _ | assumption
      | refine (State.admStitch_same (hb.sub (by decide)) (h_g := ?_) ..).trans ?_
      | refine (State.adoptScan_same (hb.sub (by decide)) ..).trans ?_ | refine Same.ite ?_ ?_ | refine Same.ite_fst ?_ ?_
      | intro _
    | split
    | dsimp only

theorem execPairCqCi_same (hb : Blind π
    (Part.but [.pending, .mr, .pd, .park, .lines, .tb, .adm, .spr, .pins, .memSize, .lastRead, .free])) (w : W64) (s : State) :
    SameR π (execPairCqCi w s) s := by
  unfold execPairCqCi
  repeat' first
    | with_reducible first
      | refine SameR.guarded ?_ ?_ | refine SameR.next ?_ | refine SameR.ite ?_ ?_ | exact Same.refl _ | assumption
      | refine (State.judgeCi_same hb ..).trans ?_ | intro _
    | split
    | dsimp only

theorem execPairQmode_same (hb : Blind π
    (Part.but [.pending, .mr, .pd, .park, .lines, .tb, .adm, .spr, .pins, .memSize, .lastRead])) (w : W64) (s : State) :
    SameR π (execPairQmode w s) s := by
  unfold execPairQmode
  repeat' first
    | with_reducible first
      | refine SameR.guarded ?_ ?_ | refine SameR.next ?_ | refine SameR.ite ?_ ?_ | exact Same.refl _ | assumption
      | refine (State.mirrorRetry_same hb ..).trans ?_ | refine (State.retryMode_same (hb.sub (by decide)) ..).trans ?_
      | refine (State.updQ_same (hb.sub (by decide)) ..).trans ?_ | intro _
    | split
    | dsimp only

theorem State.ciInterval_same (hb : Blind π [.arb, .pair, .lace, .out]) (s : State) (n : Nat) :
    Same π (State.ciInterval s n) s := by
  unfold State.ciInterval
  repeat' first
    | with_reducible first
      | exact Same.refl _ | assumption | refine (State.sendCi_same hb ..).trans ?_
      | refine (State.withPair_same (hb.sub (by decide)) ..).trans ?_ | refine Same.ite ?_ ?_ | refine Same.ite_fst ?_ ?_
      | intro _
    | split
    | dsimp only

theorem State.cqciInterval_same (hb : Blind π [.arb, .pair, .lace, .out]) (s : State) (n : Nat) :
    Same π (State.cqciInterval s n) s := by
  unfold State.cqciInterval
  repeat' first
    | with_reducible first
      | exact Same.refl _ | assumption | refine (State.mirrorDelta_same hb ..).trans ?_
      | refine (State.withPair_same (hb.sub (by decide)) ..).trans ?_ | refine Same.ite ?_ ?_ | refine Same.ite_fst ?_ ?_
      | intro _
    | split
    | dsimp only

theorem execCiRecordInterval_same (hb : Blind π [.arb, .pair, .lace, .out]) (ring : Bool) (n : Nat) (s : State) :
    SameR π (execCiRecordInterval ring n s) s := by
  unfold execCiRecordInterval
  repeat' first
    | with_reducible first
      | refine SameR.guarded ?_ ?_ | refine SameR.next ?_ | refine SameR.ite ?_ ?_ | exact Same.refl _ | assumption
      | refine (State.cqciInterval_same hb ..).trans ?_ | refine (State.ciInterval_same hb ..).trans ?_
      | refine Same.ite ?_ ?_ | refine Same.ite_fst ?_ ?_ | intro _
    | split
    | dsimp only


/-! ## Module RegAccess -/

theorem State.badAccess_same (hb : Blind π [.regs]) (s : State) (a : Agent) (ofs cause : Nat) :
    Same π (State.badAccess s a ofs cause) s := by
  unfold State.badAccess
  repeat' first
    | with_reducible first
      | exact Same.refl _ | assumption | refine (State.cnt_same hb ..).trans ?_ | refine (State.setF_same hb ..).trans ?_
      | intro _
    | split
    | dsimp only

theorem State.clearRc_same (hb : Blind π [.regs]) (s : State) (r : Reg) (o a k : Nat) : Same π (State.clearRc s r o a k) s := by
  unfold State.clearRc
  repeat' first
    | with_reducible first
      | exact Same.refl _ | assumption | refine (State.setF_same hb ..).trans ?_ | refine (Same.foldl _ _ _ ?_).trans ?_
      | intro _
    | split
    | dsimp only

theorem State.readOne_same (hb : Blind π (Part.but [.pending, .mr, .pd, .tb, .memSize])) (s : State) (a : Agent)
    (ofs size : Nat) :
    Same π (State.readOne s a ofs size) s := by
  unfold State.readOne
  repeat' first
    | with_reducible first
      | exact Same.refl _ | assumption | refine (State.ret_same (hb.sub (by decide)) ..).trans ?_
      | refine (State.claim_same (hb.sub (by decide)) ..).trans ?_
      | refine (State.clearRc_same (hb.sub (by decide)) ..).trans ?_
      | refine (State.badAccess_same (hb.sub (by decide)) ..).trans ?_ | refine (State.readTrig_same hb ..).trans ?_
      | refine (State.readErrWord_same (hb.sub (by decide)) ..).trans ?_ | refine Same.ite ?_ ?_ | intro _
    | split
    | dsimp only

theorem State.holdAccess_same (hb : Blind π [.cache]) (s : State) (c : Instr) : Same π (State.holdAccess s c) s := by
  unfold State.holdAccess
  repeat' first
    | with_reducible first
      | exact Same.refl _ | assumption | refine (State.withCache_same hb ..).trans ?_ | intro _
    | split
    | dsimp only

theorem State.readParts_same (hb : Blind π (Part.but [.pending, .mr, .pd, .tb, .memSize])) (a : Agent) (x0 : List
    (Nat × Nat)) (s : State) :
    Same π (State.readParts a x0 s) s := by
  induction x0 generalizing a s with
  | nil => exact rfl
  | cons a r ih =>
    unfold State.readParts
    repeat' first
      | with_reducible first
        | exact Same.refl _ | assumption | refine (State.withCache_same (hb.sub (by decide)) ..).trans ?_
        | refine (State.readOne_same hb ..).trans ?_ | refine (ih ..).trans ?_ | refine Same.ite ?_ ?_
        | refine Same.ite_fst ?_ ?_ | intro _
      | split
      | dsimp only

theorem State.readNow_same (hb : Blind π (Part.but [.pending, .mr, .pd, .tb, .memSize])) (s : State) (a : Agent)
    (ofs size : Nat) (first : Bool) :
    Same π (State.readNow s a ofs size first) s := by
  unfold State.readNow
  repeat' first
    | with_reducible first
      | exact Same.refl _ | assumption | refine (State.ret_same (hb.sub (by decide)) ..).trans ?_
      | refine (State.readParts_same hb ..).trans ?_ | refine (State.beginRead_same (hb.sub (by decide)) ..).trans ?_
      | refine (State.badAccess_same (hb.sub (by decide)) ..).trans ?_ | refine Same.ite ?_ ?_ | intro _
    | split
    | dsimp only

theorem execRegisterRead_same (hb : Blind π (Part.but [.pending, .mr, .pd, .tb, .memSize])) (a : Agent) (ofs size : Nat)
    (s : State) :
    SameR π (execRegisterRead a ofs size s) s := by
  unfold execRegisterRead
  repeat' first
    | with_reducible first
      | refine SameR.guarded ?_ ?_ | refine SameR.next ?_ | refine SameR.ite ?_ ?_ | exact Same.refl _ | assumption
      | refine (State.holdAccess_same (hb.sub (by decide)) ..).trans ?_ | refine (State.readNow_same hb ..).trans ?_
      | refine Same.ite ?_ ?_ | refine Same.ite_fst ?_ ?_ | intro _
    | split
    | dsimp only

theorem State.plainWrite_same (hb : Blind π [.regs]) (s : State) (r : Reg) (i j o lo n w : Nat) :
    Same π (State.plainWrite s r i j o lo n w) s := by
  unfold State.plainWrite
  repeat' first
    | with_reducible first
      | exact Same.refl _ | assumption | refine (State.setF_same hb ..).trans ?_
      | refine (State.setFields_same hb ..).trans ?_ | refine (Same.foldl _ _ _ ?_).trans ?_ | refine Same.ite ?_ ?_ | intro _
    | split
    | dsimp only

theorem State.pairCmd_same (hb : Blind π (Part.but [.pending, .mr, .pd, .park, .tb, .memSize, .lastRead])) (s : State)
    (w : W64) :
    Same π (State.pairCmd s w) s := by
  unfold State.pairCmd
  repeat' first
    | with_reducible first
      | exact Same.refl _ | assumption | exact execHaltCommand_same (hb.sub (by decide)) ..
      | exact execAdopt_same (hb.sub (by decide)) .. | refine (State.after_same ?_).trans ?_ | intro _
    | split
    | dsimp only

theorem State.mirrorOff_same (hb : Blind π
    (Part.but [.pending, .mr, .pd, .park, .lines, .tb, .adm, .spr, .pins, .memSize, .lastRead])) (s : State) :
    Same π (State.mirrorOff s) s := by
  unfold State.mirrorOff
  repeat' first
    | with_reducible first
      | exact Same.refl _ | assumption | refine (State.goOff_same hb ..).trans ?_ | refine Same.ite ?_ ?_ | intro _
    | split
    | dsimp only

theorem State.testWrite_same (hb : Blind π [.regs, .ic, .arb, .err, .spr, .out, .free]) (s : State) (w : W64) :
    Same π (State.testWrite s w) s := by
  unfold State.testWrite
  repeat' first
    | with_reducible first
      | exact Same.refl _ | assumption | refine (State.withFree_same (hb.sub (by decide)) ..).trans ?_
      | refine (State.engTest_same (hb.sub (by decide)) ..).trans ?_
      | refine (State.laneTestCmd_same (hb.sub (by decide)) ..).trans ?_
      | refine (State.redTest_same (hb.sub (by decide)) ..).trans ?_
      | refine (State.setF_same (hb.sub (by decide)) ..).trans ?_
      | refine (State.shadowTest_same (hb.sub (by decide)) ..).trans ?_
      | refine (State.shadowEnd_same (hb.sub (by decide)) ..).trans ?_
      | refine (State.portTestCmd_same (hb.sub (by decide)) ..).trans ?_ | intro _
    | split
    | dsimp only

theorem State.cobCmd_same (hb : Blind π [.regs]) (s : State) (c : Nat) (w : W64) : Same π (State.cobCmd s c w) s := by
  unfold State.cobCmd
  repeat' first
    | with_reducible first
      | exact Same.refl _ | assumption | refine (State.cobSleep_same hb ..).trans ?_ | intro _
    | split
    | dsimp only

theorem State.writeReg_same (hb : Blind π (Part.but [.pending, .memSize, .lastRead])) (s : State) (r : Reg)
    (i j o lo n : Nat) (w : W64) :
    Same π (State.writeReg s r i j o lo n w) s := by
  unfold State.writeReg
  repeat' first
    | with_reducible first
      | exact Same.refl _ | assumption | refine (State.testWrite_same (hb.sub (by decide)) ..).trans ?_
      | refine (State.patCmd_same (hb.sub (by decide)) ..).trans ?_ | exact execLaceEnable_same (hb.sub (by decide)) ..
      | exact execAdmFwDone_same (hb.sub (by decide)) .. | refine (State.resetCmd_same hb ..).trans ?_
      | refine (State.pairCmd_same (hb.sub (by decide)) ..).trans ?_
      | refine (State.writeErrCi_same (hb.sub (by decide)) ..).trans ?_
      | refine (State.plainWrite_same (hb.sub (by decide)) ..).trans ?_ | exact execAdmCobGo_same (hb.sub (by decide)) ..
      | refine (State.writeTraceCi_same (hb.sub (by decide)) ..).trans ?_ | exact execResync_same (hb.sub (by decide)) ..
      | refine (State.eoi_same (hb.sub (by decide)) ..).trans ?_ | refine (State.cobCmd_same (hb.sub (by decide)) ..).trans ?_
      | refine (State.setF_same (hb.sub (by decide)) ..).trans ?_ | exact execAdmEnable_same (hb.sub (by decide)) ..
      | exact execPairQmode_same (hb.sub (by decide)) .. | refine (State.mirrorOff_same (hb.sub (by decide)) ..).trans ?_
      | exact execAdmCobLock_same (hb.sub (by decide)) .. | refine (State.judgeAll_same (hb.sub (by decide)) ..).trans ?_
      | exact execChkInjArm_same (hb.sub (by decide)) .. | exact execAdmDisable_same (hb.sub (by decide)) ..
      | exact execSlotCommit_same (hb.sub (by decide)) .. | exact execRetrain_same (hb.sub (by decide)) ..
      | refine (State.raise_same (hb.sub (by decide)) ..).trans ?_ | exact execArbCommit_same (hb.sub (by decide)) ..
      | exact execIcCntClear_same (hb.sub (by decide)) .. | exact execPairCqCi_same (hb.sub (by decide)) ..
      | refine (State.after_same ?_).trans ?_ | refine Same.ite ?_ ?_ | intro _
    | split
    | dsimp only

theorem State.writeOne_same (hb : Blind π (Part.but [.pending, .memSize, .lastRead])) (s : State) (a : Agent)
    (ofs size v : Nat) :
    Same π (State.writeOne s a ofs size v) s := by
  unfold State.writeOne
  repeat' first
    | with_reducible first
      | exact Same.refl _ | assumption | refine (State.badAccess_same (hb.sub (by decide)) ..).trans ?_
      | refine (State.writeReg_same hb ..).trans ?_ | refine Same.ite ?_ ?_ | intro _
    | split
    | dsimp only

theorem State.writeNow_same (hb : Blind π (Part.but [.pending, .memSize, .lastRead])) (s : State) (a : Agent)
    (ofs size : Nat) (data : List Byte) (parityOk : Bool) :
    Same π (State.writeNow s a ofs size data parityOk) s := by
  unfold State.writeNow
  repeat' first
    | with_reducible first
      | exact Same.refl _ | assumption | refine (State.cnt_same (hb.sub (by decide)) ..).trans ?_
      | refine (State.badAccess_same (hb.sub (by decide)) ..).trans ?_ | refine (State.writeOne_same hb ..).trans ?_
      | refine (State.raise_same (hb.sub (by decide)) ..).trans ?_ | refine (Same.foldl _ _ _ ?_).trans ?_
      | refine (Same.foldl_fst _ _ _ ?_).trans ?_ | refine Same.ite ?_ ?_ | refine Same.ite_fst ?_ ?_ | intro _
    | split
    | dsimp only

theorem execRegisterWrite_same (hb : Blind π (Part.but [.pending, .memSize, .lastRead])) (a : Agent) (ofs size : Nat)
    (data : List Byte) (parityOk : Bool) (s : State) :
    SameR π (execRegisterWrite a ofs size data parityOk s) s := by
  unfold execRegisterWrite
  repeat' first
    | with_reducible first
      | refine SameR.guarded ?_ ?_ | refine SameR.next ?_ | refine SameR.ite ?_ ?_ | exact Same.refl _ | assumption
      | refine (State.holdAccess_same (hb.sub (by decide)) ..).trans ?_ | refine (State.writeNow_same hb ..).trans ?_
      | refine Same.ite ?_ ?_ | refine Same.ite_fst ?_ ?_ | intro _
    | split
    | dsimp only

theorem State.serveAccs_same (hb : Blind π (Part.but [.pending, .memSize])) (x0 : Nat) (s : State) :
    Same π (State.serveAccs x0 s) s := by
  induction x0 generalizing s with
  | zero => exact rfl
  | succ n ih =>
    unfold State.serveAccs
    repeat' first
      | with_reducible first
        | exact Same.refl _ | assumption | refine (State.withCache_same (hb.sub (by decide)) ..).trans ?_
        | refine (State.readNow_same (hb.sub (by decide)) ..).trans ?_
        | refine (State.writeNow_same (hb.sub (by decide)) ..).trans ?_ | refine (ih ..).trans ?_ | intro _
      | split
      | dsimp only


/-! ## Module Clock -/

theorem State.tbTick_same (hb : Blind π [.tb]) (s : State) : Same π (State.tbTick s) s := by
  unfold State.tbTick
  repeat' first
    | with_reducible first
      | exact Same.refl _ | assumption | refine (State.withTb_same hb ..).trans ?_ | refine Same.ite ?_ ?_ | intro _
    | split
    | dsimp only

theorem State.laceTick_same (hb : Blind π [.lace, .out]) (s : State) : Same π (State.laceTick s) s := by
  unfold State.laceTick
  repeat' first
    | with_reducible first
      | exact Same.refl _ | assumption | refine (State.idleStripe_same hb ..).trans ?_ | refine Same.ite ?_ ?_ | intro _
    | split
    | dsimp only

theorem State.heldTick_same (hb : Blind π (Part.but [.pending, .memSize])) (s : State) : Same π (State.heldTick s) s := by
  unfold State.heldTick
  repeat' first
    | with_reducible first
      | exact Same.refl _ | assumption | refine (State.serveAccs_same hb ..).trans ?_ | intro _
    | split
    | dsimp only

theorem tick_same (hb : Blind π (Part.but [.pending, .memSize])) (s : State) : SameR π (tick s) s := by
  unfold tick
  repeat' first
    | with_reducible first
      | refine SameR.guarded ?_ ?_ | refine SameR.next ?_ | refine SameR.ite ?_ ?_ | exact Same.refl _ | assumption
      | refine (State.sendOwn_same (hb.sub (by decide)) ..).trans ?_
      | refine (State.decodeTick_same (hb.sub (by decide)) ..).trans ?_
      | refine (State.lineUp_same (hb.sub (by decide)) ..).trans ?_ | refine (State.heldTick_same hb ..).trans ?_
      | refine (State.arbTick_same (hb.sub (by decide)) ..).trans ?_
      | refine (State.tbTick_same (hb.sub (by decide)) ..).trans ?_
      | refine (State.sendFlushes_same (hb.sub (by decide)) ..).trans ?_
      | refine (State.mirrorTick_same (hb.sub (by decide)) ..).trans ?_
      | refine (State.retireBanks_same (hb.sub (by decide)) ..).trans ?_
      | refine (State.laceTick_same (hb.sub (by decide)) ..).trans ?_
      | refine (State.serveElog_same (hb.sub (by decide)) ..).trans ?_
      | refine (State.landBacks_same (hb.sub (by decide)) ..).trans ?_
      | refine (State.haltTick_same (hb.sub (by decide)) ..).trans ?_
      | refine (State.landMsgs_same (hb.sub (by decide)) ..).trans ?_ | intro _
    | split
    | dsimp only


/-! ## Module Scheduler -/

theorem execEngineBind_same (hb : Blind π (Part.but [.pending, .mr, .pd, .tb, .memSize])) (e : Nat) (s : State) :
    SameR π (execEngineBind e s) s := by
  unfold execEngineBind
  repeat' first
    | with_reducible first
      | refine SameR.guarded ?_ ?_ | refine SameR.next ?_ | refine SameR.ite ?_ ?_ | exact Same.refl _ | assumption
      | refine (State.bindEntry_same hb ..).trans ?_ | refine Same.ite ?_ ?_ | refine Same.ite_fst ?_ ?_ | intro _
    | split
    | dsimp only

theorem execCut_same (hb : Blind π [.regs, .fl]) (s : State) : SameR π (execCut s) s := by
  unfold execCut
  repeat' first
    | with_reducible first
      | refine SameR.guarded ?_ ?_ | refine SameR.next ?_ | refine SameR.ite ?_ ?_ | exact Same.refl _ | assumption
      | refine (State.updStitch_same (hb.sub (by decide)) ..).trans ?_
      | refine (State.cnt_same (hb.sub (by decide)) ..).trans ?_ | refine Same.ite ?_ ?_ | refine Same.ite_fst ?_ ?_ | intro _
    | split
    | dsimp only

theorem State.tryEnd_same (hb : Blind π (Part.but [.pending, .mr, .pd, .park, .tb, .memSize])) (s : State) (e : Nat) :
    Same π (State.tryEnd s e) s := by
  unfold State.tryEnd
  repeat' first
    | with_reducible first
      | exact Same.refl _ | assumption | refine (State.goOn_same hb ..).trans ?_
      | refine (State.endStitch_same (hb.sub (by decide)) ..).trans ?_ | refine (State.issueUnits_same hb ..).trans ?_
      | refine (State.ackBursts_same (hb.sub (by decide)) ..).trans ?_ | refine Same.ite ?_ ?_ | intro _
    | split
    | dsimp only

theorem execStitchEnd_same (hb : Blind π (Part.but [.pending, .mr, .pd, .park, .tb, .memSize])) (e : Nat) (s : State) :
    SameR π (execStitchEnd e s) s := by
  unfold execStitchEnd
  repeat' first
    | with_reducible first
      | refine SameR.guarded ?_ ?_ | refine SameR.next ?_ | refine SameR.ite ?_ ?_ | exact Same.refl _ | assumption
      | refine (State.tryEnd_same hb ..).trans ?_ | intro _
    | split
    | dsimp only

theorem execPacewaitRelease_same (hb : Blind π (Part.but [.pending, .mr, .pd, .park, .tb, .memSize])) (e : Nat) (s : State) :
    SameR π (execPacewaitRelease e s) s := by
  unfold execPacewaitRelease
  repeat' first
    | with_reducible first
      | refine SameR.guarded ?_ ?_ | refine SameR.next ?_ | refine SameR.ite ?_ ?_ | exact Same.refl _ | assumption
      | refine (State.updFl_same (hb.sub (by decide)) ..).trans ?_
      | refine (State.updStitch_same (hb.sub (by decide)) ..).trans ?_
      | refine (State.setEng_same (hb.sub (by decide)) ..).trans ?_ | refine (State.tryEnd_same hb ..).trans ?_
      | refine Same.ite ?_ ?_ | refine Same.ite_fst ?_ ?_ | intro _
    | split
    | dsimp only


/-! ## Module Entries -/

theorem State.feedGet_same (hb : Blind π [.fl]) (s : State) (q : Nat) (i : W32) (e : Nat) (data : List Byte) :
    Same π (State.feedGet s q i e data).1 s := by
  unfold State.feedGet
  repeat' first
    | with_reducible first
      | exact Same.refl _ | assumption | refine (State.stageBytes_same hb ..).trans ?_ | refine Same.ite ?_ ?_
      | refine Same.ite_fst ?_ ?_ | intro _
    | split
    | dsimp only

theorem State.phasesFor_same (hb : Blind π (Part.but [.pending, .mr, .pd, .park, .tb, .memSize])) (s : State) (e : Nat) :
    Same π (State.phasesFor s e) s := by
  unfold State.phasesFor
  repeat' first
    | with_reducible first
      | exact Same.refl _ | assumption | refine (State.phaseOf_same hb ..).trans ?_ | refine (Same.forEach _ _ _ ?_).trans ?_
      | refine Same.ite ?_ ?_ | intro _
    | split
    | dsimp only

theorem State.stitchTurn_same (hb : Blind π (Part.but [.pending, .mr, .pd, .park, .tb, .memSize])) (s : State) (q : Nat)
    (i : W32) (e : Nat) (data : List Byte) :
    Same π (State.stitchTurn s q i e data).1 s := by
  unfold State.stitchTurn
  repeat' first
    | with_reducible first
      | exact Same.refl _ | assumption | refine (State.goOn_same hb ..).trans ?_
      | refine (State.issueUnits_same hb ..).trans ?_ | refine (State.stageRead_same (hb.sub (by decide)) ..).trans ?_
      | refine (State.feedGet_same (hb.sub (by decide)) ..).trans ?_ | refine (State.phasesFor_same hb ..).trans ?_
      | refine Same.getD ?_ | refine Same.ite ?_ ?_ | refine Same.ite_fst ?_ ?_ | intro _
    | split
    | dsimp only

theorem State.runStitch_same (hb : Blind π (Part.but [.pending, .mr, .pd, .park, .tb, .memSize])) (x0 : Nat) (s : State)
    (x2 : Nat) (x3 : W32) (x4 : Nat) (x5 : List Byte) :
    Same π (State.runStitch x0 s x2 x3 x4 x5).1 s := by
  induction x0 generalizing s x2 x3 x4 x5 with
  | zero => exact rfl
  | succ n ih =>
    unfold State.runStitch
    split
    · exact Same.refl _
    split
    · exact Same.refl _
    refine Same.ite_fst (Same.refl _) ?_
    exact Same.ite_fst (State.stitchTurn_same hb ..) ((ih ..).trans (State.stitchTurn_same hb ..))

theorem State.runEntry_same (hb : Blind π (Part.but [.pending, .mr, .pd, .tb, .memSize])) (x0 : Nat) (s : State)
    (x2 : Nat) (x3 : W32) (x4 : List Byte) :
    Same π (State.runEntry x0 s x2 x3 x4) s := by
  induction x0 generalizing s x2 x3 x4 with
  | zero => exact rfl
  | succ n ih =>
    unfold State.runEntry
    repeat' first
      | with_reducible first
        | exact Same.refl _ | assumption | refine (State.runStitch_same (hb.sub (by decide)) ..).trans ?_
        | refine (State.turns_same (hb.sub (by decide)) ..).trans ?_
        | refine (State.tryEnd_same (hb.sub (by decide)) ..).trans ?_ | refine (State.bindEntry_same hb ..).trans ?_
        | refine (ih ..).trans ?_ | refine Same.ite ?_ ?_ | refine Same.ite_fst ?_ ?_ | intro _
      | split
      | dsimp only

theorem State.runOp_same (hb : Blind π (Part.but [.pending, .mr, .pd, .tb, .memSize])) (s : State) (q : Nat) (i : W32)
    (op : Nat) (data : List Byte) :
    Same π (State.runOp s q i op data) s := by
  unfold State.runOp
  repeat' first
    | with_reducible first
      | exact Same.refl _ | assumption | refine (State.takeUp_same (hb.sub (by decide)) ..).trans ?_
      | refine (State.runEntry_same hb ..).trans ?_ | refine Same.ite ?_ ?_ | intro _
    | split
    | dsimp only

theorem execNop_same (hb : Blind π (Part.but [.pending, .mr, .pd, .tb, .memSize])) (q : BitVec 22) (i : W32) (s : State) :
    SameR π (execNop q i s) s := by
  unfold execNop
  repeat' first
    | with_reducible first
      | refine SameR.guarded ?_ ?_ | refine SameR.next ?_ | refine SameR.ite ?_ ?_ | exact Same.refl _ | assumption
      | refine (State.runOp_same hb ..).trans ?_ | intro _
    | split
    | dsimp only

theorem execMove_same (hb : Blind π (Part.but [.pending, .mr, .pd, .tb, .memSize])) (q : BitVec 22) (i : W32) (s : State) :
    SameR π (execMove q i s) s := by
  unfold execMove
  repeat' first
    | with_reducible first
      | refine SameR.guarded ?_ ?_ | refine SameR.next ?_ | refine SameR.ite ?_ ?_ | exact Same.refl _ | assumption
      | refine (State.runOp_same hb ..).trans ?_ | intro _
    | split
    | dsimp only

theorem execMoveSg_same (hb : Blind π (Part.but [.pending, .mr, .pd, .tb, .memSize])) (q : BitVec 22) (i : W32) (s : State) :
    SameR π (execMoveSg q i s) s := by
  unfold execMoveSg
  repeat' first
    | with_reducible first
      | refine SameR.guarded ?_ ?_ | refine SameR.next ?_ | refine SameR.ite ?_ ?_ | exact Same.refl _ | assumption
      | refine (State.runOp_same hb ..).trans ?_ | intro _
    | split
    | dsimp only

theorem execFill_same (hb : Blind π (Part.but [.pending, .mr, .pd, .tb, .memSize])) (q : BitVec 22) (i : W32) (s : State) :
    SameR π (execFill q i s) s := by
  unfold execFill
  repeat' first
    | with_reducible first
      | refine SameR.guarded ?_ ?_ | refine SameR.next ?_ | refine SameR.ite ?_ ?_ | exact Same.refl _ | assumption
      | refine (State.runOp_same hb ..).trans ?_ | intro _
    | split
    | dsimp only

theorem execCompare_same (hb : Blind π (Part.but [.pending, .mr, .pd, .tb, .memSize])) (q : BitVec 22) (i : W32) (s : State) :
    SameR π (execCompare q i s) s := by
  unfold execCompare
  repeat' first
    | with_reducible first
      | refine SameR.guarded ?_ ?_ | refine SameR.next ?_ | refine SameR.ite ?_ ?_ | exact Same.refl _ | assumption
      | refine (State.runOp_same hb ..).trans ?_ | intro _
    | split
    | dsimp only

theorem execCheck_same (hb : Blind π (Part.but [.pending, .mr, .pd, .tb, .memSize])) (q : BitVec 22) (i : W32) (s : State) :
    SameR π (execCheck q i s) s := by
  unfold execCheck
  repeat' first
    | with_reducible first
      | refine SameR.guarded ?_ ?_ | refine SameR.next ?_ | refine SameR.ite ?_ ?_ | exact Same.refl _ | assumption
      | refine (State.runOp_same hb ..).trans ?_ | intro _
    | split
    | dsimp only

theorem execPut_same (hb : Blind π (Part.but [.pending, .mr, .pd, .tb, .memSize])) (q : BitVec 22) (i : W32) (s : State) :
    SameR π (execPut q i s) s := by
  unfold execPut
  repeat' first
    | with_reducible first
      | refine SameR.guarded ?_ ?_ | refine SameR.next ?_ | refine SameR.ite ?_ ?_ | exact Same.refl _ | assumption
      | refine (State.runOp_same hb ..).trans ?_ | intro _
    | split
    | dsimp only

theorem execGet_same (hb : Blind π (Part.but [.pending, .mr, .pd, .tb, .memSize])) (q : BitVec 22) (i : W32)
    (data : List Byte) (s : State) :
    SameR π (execGet q i data s) s := by
  unfold execGet
  repeat' first
    | with_reducible first
      | refine SameR.guarded ?_ ?_ | refine SameR.next ?_ | refine SameR.ite ?_ ?_ | exact Same.refl _ | assumption
      | refine (State.runOp_same hb ..).trans ?_ | intro _
    | split
    | dsimp only

theorem execPutSg_same (hb : Blind π (Part.but [.pending, .mr, .pd, .tb, .memSize])) (q : BitVec 22) (i : W32) (s : State) :
    SameR π (execPutSg q i s) s := by
  unfold execPutSg
  repeat' first
    | with_reducible first
      | refine SameR.guarded ?_ ?_ | refine SameR.next ?_ | refine SameR.ite ?_ ?_ | exact Same.refl _ | assumption
      | refine (State.runOp_same hb ..).trans ?_ | intro _
    | split
    | dsimp only

theorem execGetSg_same (hb : Blind π (Part.but [.pending, .mr, .pd, .tb, .memSize])) (q : BitVec 22) (i : W32)
    (data : List Byte) (s : State) :
    SameR π (execGetSg q i data s) s := by
  unfold execGetSg
  repeat' first
    | with_reducible first
      | refine SameR.guarded ?_ ?_ | refine SameR.next ?_ | refine SameR.ite ?_ ?_ | exact Same.refl _ | assumption
      | refine (State.runOp_same hb ..).trans ?_ | intro _
    | split
    | dsimp only

theorem execReduce_same (hb : Blind π (Part.but [.pending, .mr, .pd, .tb, .memSize])) (q : BitVec 22) (i : W32) (s : State) :
    SameR π (execReduce q i s) s := by
  unfold execReduce
  repeat' first
    | with_reducible first
      | refine SameR.guarded ?_ ?_ | refine SameR.next ?_ | refine SameR.ite ?_ ?_ | exact Same.refl _ | assumption
      | refine (State.runOp_same hb ..).trans ?_ | intro _
    | split
    | dsimp only

theorem execReduceRemote_same (hb : Blind π (Part.but [.pending, .mr, .pd, .tb, .memSize])) (q : BitVec 22) (i : W32)
    (s : State) :
    SameR π (execReduceRemote q i s) s := by
  unfold execReduceRemote
  repeat' first
    | with_reducible first
      | refine SameR.guarded ?_ ?_ | refine SameR.next ?_ | refine SameR.ite ?_ ?_ | exact Same.refl _ | assumption
      | refine (State.runOp_same hb ..).trans ?_ | intro _
    | split
    | dsimp only

theorem execQuench_same (hb : Blind π (Part.but [.pending, .mr, .pd, .tb, .memSize])) (q : BitVec 22) (i : W32) (s : State) :
    SameR π (execQuench q i s) s := by
  unfold execQuench
  repeat' first
    | with_reducible first
      | refine SameR.guarded ?_ ?_ | refine SameR.next ?_ | refine SameR.ite ?_ ?_ | exact Same.refl _ | assumption
      | refine (State.runOp_same hb ..).trans ?_ | intro _
    | split
    | dsimp only

theorem execTrigAdd_same (hb : Blind π (Part.but [.pending, .mr, .pd, .tb, .memSize])) (q : BitVec 22) (i : W32) (s : State) :
    SameR π (execTrigAdd q i s) s := by
  unfold execTrigAdd
  repeat' first
    | with_reducible first
      | refine SameR.guarded ?_ ?_ | refine SameR.next ?_ | refine SameR.ite ?_ ?_ | exact Same.refl _ | assumption
      | refine (State.runOp_same hb ..).trans ?_ | intro _
    | split
    | dsimp only

theorem execFence_same (hb : Blind π (Part.but [.pending, .mr, .pd, .tb, .memSize])) (q : BitVec 22) (i : W32) (s : State) :
    SameR π (execFence q i s) s := by
  unfold execFence
  repeat' first
    | with_reducible first
      | refine SameR.guarded ?_ ?_ | refine SameR.next ?_ | refine SameR.ite ?_ ?_ | exact Same.refl _ | assumption
      | refine (State.runOp_same hb ..).trans ?_ | intro _
    | split
    | dsimp only

theorem execMark_same (hb : Blind π (Part.but [.pending, .mr, .pd, .tb, .memSize])) (q : BitVec 22) (i : W32) (s : State) :
    SameR π (execMark q i s) s := by
  unfold execMark
  repeat' first
    | with_reducible first
      | refine SameR.guarded ?_ ?_ | refine SameR.next ?_ | refine SameR.ite ?_ ?_ | exact Same.refl _ | assumption
      | refine (State.runOp_same hb ..).trans ?_ | intro _
    | split
    | dsimp only


/-! ## Module Lines -/

theorem State.kickLine_same (hb : Blind π (Part.but [.pending, .mr, .pd, .park, .tb, .memSize])) (s : State) (n : Nat) :
    Same π (State.kickLine s n) s := by
  unfold State.kickLine
  repeat' first
    | with_reducible first
      | exact Same.refl _ | assumption | refine (State.goOn_same hb ..).trans ?_ | refine (Same.forEach _ _ _ ?_).trans ?_
      | refine Same.ite ?_ ?_ | refine Same.ite_fst ?_ ?_ | intro _
    | split
    | dsimp only

theorem execDreqAssert_same (hb : Blind π (Part.but [.pending, .mr, .pd, .park, .tb, .memSize])) (n : Nat) (s : State) :
    SameR π (execDreqAssert n s) s := by
  unfold execDreqAssert
  repeat' first
    | with_reducible first
      | refine SameR.guarded ?_ ?_ | refine SameR.next ?_ | refine SameR.ite ?_ ?_ | exact Same.refl _ | assumption
      | refine (State.kickLine_same hb ..).trans ?_ | refine (State.cnt_same (hb.sub (by decide)) ..).trans ?_
      | refine (State.setF_same (hb.sub (by decide)) ..).trans ?_ | refine Same.ite ?_ ?_ | refine Same.ite_fst ?_ ?_
      | intro _
    | split
    | dsimp only

theorem execDreqDeassert_same (hb : Blind π (Part.but [.pending, .mr, .pd, .park, .tb, .memSize])) (n : Nat) (s : State) :
    SameR π (execDreqDeassert n s) s := by
  unfold execDreqDeassert
  repeat' first
    | with_reducible first
      | refine SameR.guarded ?_ ?_ | refine SameR.next ?_ | refine SameR.ite ?_ ?_ | exact Same.refl _ | assumption
      | refine (State.kickLine_same hb ..).trans ?_ | refine (State.setF_same (hb.sub (by decide)) ..).trans ?_
      | refine Same.ite ?_ ?_ | refine Same.ite_fst ?_ ?_ | intro _
    | split
    | dsimp only

theorem execDackPulseStart_same (hb : Blind π [.lines]) (n : Nat) (s : State) : SameR π (execDackPulseStart n s) s := by
  unfold execDackPulseStart
  repeat' first
    | with_reducible first
      | refine SameR.guarded ?_ ?_ | refine SameR.next ?_ | refine SameR.ite ?_ ?_ | exact Same.refl _ | assumption
      | refine (State.updLine_same hb ..).trans ?_ | intro _
    | split
    | dsimp only

theorem execDackPulseEnd_same (hb : Blind π (Part.but [.pending, .mr, .pd, .park, .tb, .memSize])) (n : Nat) (s : State) :
    SameR π (execDackPulseEnd n s) s := by
  unfold execDackPulseEnd
  repeat' first
    | with_reducible first
      | refine SameR.guarded ?_ ?_ | refine SameR.next ?_ | refine SameR.ite ?_ ?_ | exact Same.refl _ | assumption
      | refine (State.updLine_same (hb.sub (by decide)) ..).trans ?_ | refine (State.kickLine_same hb ..).trans ?_
      | refine Same.ite ?_ ?_ | refine Same.ite_fst ?_ ?_ | intro _
    | split
    | dsimp only

theorem execInternalAcknowledgement_same (hb : Blind π (Part.but [.pending, .mr, .pd, .park, .tb, .memSize])) (n : Nat)
    (s : State) :
    SameR π (execInternalAcknowledgement n s) s := by
  unfold execInternalAcknowledgement
  repeat' first
    | with_reducible first
      | refine SameR.guarded ?_ ?_ | refine SameR.next ?_ | refine SameR.ite ?_ ?_ | exact Same.refl _ | assumption
      | refine (State.updLine_same (hb.sub (by decide)) ..).trans ?_ | refine (State.kickLine_same hb ..).trans ?_
      | refine Same.ite ?_ ?_ | refine Same.ite_fst ?_ ?_ | intro _
    | split
    | dsimp only

theorem execDreqGlitch_same (hb : Blind π [.regs]) (n : Nat) (s : State) : SameR π (execDreqGlitch n s) s := by
  unfold execDreqGlitch
  repeat' first
    | with_reducible first
      | refine SameR.guarded ?_ ?_ | refine SameR.next ?_ | refine SameR.ite ?_ ?_ | exact Same.refl _ | assumption
      | refine (State.cnt_same hb ..).trans ?_ | intro _
    | split
    | dsimp only


end Sys2Proof.Machine
end

