-- ==== Sys2Proof/Laws/Tbl.lean ====
section
/-!
SUPPORT. The laws of sparse tables: read after write, writes elsewhere, and that a write keeps the canonical form.
-/
namespace Sys2Proof.Machine

variable {α : Type}

theorem Tbl.get_erase_self (d : Nat → α) (t : Tbl α) (k : Nat) : Tbl.get d (t.erase k) k = d k := by
  induction t with
  | nil => rfl
  | cons p r ih =>
    obtain ⟨a, v⟩ := p
    by_cases h : k = a <;> simp [Tbl.erase, Tbl.get, h] <;> simp_all

theorem Tbl.get_erase_ne (d : Nat → α) (t : Tbl α) {k j : Nat} (h : j ≠ k) :
    Tbl.get d (t.erase k) j = Tbl.get d t j := by
  induction t with
  | nil => rfl
  | cons p r ih =>
    obtain ⟨a, v⟩ := p
    by_cases hk : k = a
    · subst hk; simp [Tbl.erase, Tbl.get, h, ih]
    · by_cases hj : j = a <;> simp [Tbl.erase, Tbl.get, hk, hj, ih]

theorem Tbl.get_ins_ne (d : Nat → α) (t : Tbl α) {k j : Nat} (v : α) (h : j ≠ k) :
    Tbl.get d (t.ins k v) j = Tbl.get d t j := by
  induction t with
  | nil => simp [Tbl.ins, Tbl.get, h]
  | cons p r ih =>
    obtain ⟨a, w⟩ := p
    by_cases hlt : k < a
    · simp [Tbl.ins, Tbl.get, hlt, h]
    · by_cases hj : j = a <;> simp [Tbl.ins, Tbl.get, hlt, hj, ih]

/-- No entry of the table has key `k`. -/
def Tbl.lacks (t : Tbl α) (k : Nat) : Prop := ∀ p ∈ t, p.1 ≠ k

theorem Tbl.erase_lacks (t : Tbl α) (k : Nat) : Tbl.lacks (t.erase k) k := by
  induction t with
  | nil => intro p hp; cases hp
  | cons p r ih =>
    obtain ⟨a, v⟩ := p
    by_cases h : k = a
    · simpa [Tbl.erase, h] using ih
    · intro q hq
      simp only [Tbl.erase, h, if_false, List.mem_cons] at hq
      rcases hq with rfl | hq
      · exact fun e => h e.symm
      · exact ih q hq

theorem Tbl.get_ins_self (d : Nat → α) (t : Tbl α) (k : Nat) (v : α) (h : Tbl.lacks t k) :
    Tbl.get d (t.ins k v) k = v := by
  induction t with
  | nil => simp [Tbl.ins, Tbl.get]
  | cons p r ih =>
    obtain ⟨a, w⟩ := p
    have ha : k ≠ a := fun e => h (a, w) (by simp) e.symm
    have hr : Tbl.lacks r k := fun q hq => h q (by simp [hq])
    by_cases hlt : k < a
    · simp [Tbl.ins, Tbl.get, hlt]
    · simp [Tbl.ins, Tbl.get, hlt, ha, ih hr]

/-- Read after write at the same key. -/
@[simp] theorem Tbl.get_set_self [DecidableEq α] (d : Nat → α) (t : Tbl α) (k : Nat) (v : α) :
    Tbl.get d (Tbl.set d t k v) k = v := by
  unfold Tbl.set
  by_cases h : v = d k
  · rw [if_pos h, Tbl.get_erase_self, h]
  · rw [if_neg h, Tbl.get_ins_self _ _ _ _ (Tbl.erase_lacks t k)]

/-- A write leaves every other key alone. -/
theorem Tbl.get_set_ne [DecidableEq α] (d : Nat → α) (t : Tbl α) {k j : Nat} (v : α) (h : j ≠ k) :
    Tbl.get d (Tbl.set d t k v) j = Tbl.get d t j := by
  unfold Tbl.set
  by_cases hv : v = d k
  · rw [if_pos hv, Tbl.get_erase_ne _ _ h]
  · rw [if_neg hv, Tbl.get_ins_ne _ _ _ h, Tbl.get_erase_ne _ _ h]

/-- Read after write, both cases at once. -/
theorem Tbl.get_set [DecidableEq α] (d : Nat → α) (t : Tbl α) (k j : Nat) (v : α) :
    Tbl.get d (Tbl.set d t k v) j = if j = k then v else Tbl.get d t j := by
  by_cases h : j = k
  · subst h; simp
  · rw [if_neg h, Tbl.get_set_ne d t v h]

@[simp] theorem Tbl.get_upd_self [DecidableEq α] (d : Nat → α) (t : Tbl α) (k : Nat) (f : α → α) :
    Tbl.get d (Tbl.upd d t k f) k = f (Tbl.get d t k) := by simp [Tbl.upd]

theorem Tbl.get_upd_ne [DecidableEq α] (d : Nat → α) (t : Tbl α) {k j : Nat} (f : α → α) (h : j ≠ k) :
    Tbl.get d (Tbl.upd d t k f) j = Tbl.get d t j := by
  simp [Tbl.upd, Tbl.get_set_ne d t _ h]

theorem Tbl.risingFrom_mono {lo lo' : Nat} (t : Tbl α) (h : lo ≤ lo') (ht : Tbl.risingFrom lo' t = true) :
    Tbl.risingFrom lo t = true := by
  cases t with
  | nil => rfl
  | cons p r =>
    obtain ⟨a, v⟩ := p
    simp only [Tbl.risingFrom, Bool.and_eq_true, decide_eq_true_eq] at ht ⊢
    exact ⟨by omega, ht.2⟩

theorem Tbl.risingFrom_erase {lo : Nat} (t : Tbl α) (k : Nat) (ht : Tbl.risingFrom lo t = true) :
    Tbl.risingFrom lo (t.erase k) = true := by
  induction t generalizing lo with
  | nil => rfl
  | cons p r ih =>
    obtain ⟨a, v⟩ := p
    simp only [Tbl.risingFrom, Bool.and_eq_true, decide_eq_true_eq] at ht
    by_cases h : k = a
    · simp only [Tbl.erase, h, if_true]
      have := ih ht.2
      subst h
      exact Tbl.risingFrom_mono (lo' := k + 1) _ (by omega) this
    · simp only [Tbl.erase, h, if_false, Tbl.risingFrom, Bool.and_eq_true, decide_eq_true_eq]
      exact ⟨ht.1, ih ht.2⟩

theorem Tbl.risingFrom_ins {lo : Nat} (t : Tbl α) (k : Nat) (v : α) (hk : lo ≤ k) (hl : Tbl.lacks t k)
    (ht : Tbl.risingFrom lo t = true) : Tbl.risingFrom lo (t.ins k v) = true := by
  induction t generalizing lo with
  | nil => simp [Tbl.ins, Tbl.risingFrom, hk]
  | cons p r ih =>
    obtain ⟨a, w⟩ := p
    have ha : a ≠ k := hl (a, w) (by simp)
    have hr : Tbl.lacks r k := fun q hq => hl q (by simp [hq])
    simp only [Tbl.risingFrom, Bool.and_eq_true, decide_eq_true_eq] at ht
    by_cases hlt : k < a
    · simp only [Tbl.ins, hlt, if_true, Tbl.risingFrom, Bool.and_eq_true, decide_eq_true_eq]
      exact ⟨hk, by omega, ht.2⟩
    · simp only [Tbl.ins, hlt, if_false, Tbl.risingFrom, Bool.and_eq_true, decide_eq_true_eq]
      exact ⟨ht.1, ih (by omega) hr ht.2⟩

theorem Tbl.mem_ins {t : Tbl α} {k : Nat} {v : α} {p : Nat × α} (h : p ∈ t.ins k v) : p = (k, v) ∨ p ∈ t := by
  induction t with
  | nil => simpa [Tbl.ins] using h
  | cons q r ih =>
    obtain ⟨a, w⟩ := q
    by_cases hlt : k < a
    · simpa [Tbl.ins, hlt] using h
    · simp only [Tbl.ins, hlt, if_false, List.mem_cons] at h ⊢
      rcases h with h | h
      · exact Or.inr (Or.inl h)
      · rcases ih h with h | h
        · exact Or.inl h
        · exact Or.inr (Or.inr h)

theorem Tbl.mem_of_mem_erase {t : Tbl α} {k : Nat} {p : Nat × α} (h : p ∈ t.erase k) : p ∈ t := by
  induction t with
  | nil => simp [Tbl.erase] at h
  | cons q r ih =>
    obtain ⟨a, w⟩ := q
    by_cases hk : k = a
    · simp only [Tbl.erase, hk, if_true] at h
      exact List.mem_cons_of_mem _ (ih (by simpa [hk] using h))
    · simp only [Tbl.erase, hk, if_false, List.mem_cons] at h ⊢
      exact h.imp id ih

/-- A write keeps the canonical form. -/
theorem Tbl.wf_set [DecidableEq α] (d : Nat → α) (t : Tbl α) (k : Nat) (v : α) (h : Tbl.wf d t = true) :
    Tbl.wf d (Tbl.set d t k v) = true := by
  simp only [Tbl.wf, Bool.and_eq_true, List.all_eq_true, Bool.not_eq_true', decide_eq_false_iff_not] at h ⊢
  unfold Tbl.set
  by_cases hv : v = d k
  · rw [if_pos hv]
    exact ⟨Tbl.risingFrom_erase t k h.1, fun p hp => h.2 p (Tbl.mem_of_mem_erase hp)⟩
  · rw [if_neg hv]
    refine ⟨Tbl.risingFrom_ins _ k v (Nat.zero_le _) (Tbl.erase_lacks t k) (Tbl.risingFrom_erase t k h.1), ?_⟩
    intro p hp
    rcases Tbl.mem_ins hp with rfl | hp
    · exact hv
    · exact h.2 p (Tbl.mem_of_mem_erase hp)

theorem Tbl.wf_upd [DecidableEq α] (d : Nat → α) (t : Tbl α) (k : Nat) (f : α → α) (h : Tbl.wf d t = true) :
    Tbl.wf d (Tbl.upd d t k f) = true := Tbl.wf_set d t k _ h

theorem Tbl.risingFrom_filter {lo : Nat} (t : Tbl α) (g : Nat × α → Bool) (ht : Tbl.risingFrom lo t = true) :
    Tbl.risingFrom lo (t.filter g) = true := by
  induction t generalizing lo with
  | nil => rfl
  | cons p r ih =>
    obtain ⟨a, v⟩ := p
    simp only [Tbl.risingFrom, Bool.and_eq_true, decide_eq_true_eq] at ht
    rw [List.filter_cons]
    split
    · simp only [Tbl.risingFrom, Bool.and_eq_true, decide_eq_true_eq]
      exact ⟨ht.1, ih ht.2⟩
    · exact Tbl.risingFrom_mono _ (by omega) (ih ht.2)

/-- Dropping entries keeps the canonical form. -/
theorem Tbl.wf_filter [DecidableEq α] (d : Nat → α) (t : Tbl α) (g : Nat × α → Bool) (h : Tbl.wf d t = true) :
    Tbl.wf d (t.filter g) = true := by
  simp only [Tbl.wf, Bool.and_eq_true, List.all_eq_true] at h ⊢
  exact ⟨Tbl.risingFrom_filter t g h.1, fun p hp => h.2 p (List.mem_of_mem_filter hp)⟩

end Sys2Proof.Machine
end

