-- ==== Sys2Proof/Laws/Memory.lean ====
section
/-!
SUPPORT. Every operation keeps a sound state sound: memory images in canonical form, and every structure within its
bounds. For those that touch none of these, the frame says so (`Same.kept`).
-/
namespace Sys2Proof.Machine

/-- What soundness looks at. -/
def State.vitals (s : State) : Memory × (List (Nat × W32) × List (Nat × W32)) × List Held × Tbl (List Nat) × Tbl (List (Nat × Nat)) :=
  (s.mem, (s.park.onChip, s.park.spill), s.cqs.spill, s.cache.ways, s.ic.stk)

theorem Blind.vitals : Blind State.vitals (Part.but [.mem, .park, .cqs, .cache, .ic]) :=
  ⟨fun x hx => by cases x <;> first | exact fun _ _ => rfl | exact absurd hx (by decide)⟩

/-- `t` is sound where `s` is: its memory images are in canonical form, and every structure is within its bounds. -/
structure Kept (t s : State) : Prop where
  keep : s.sound → t.sound

theorem Kept.refl (s : State) : Kept s s := ⟨fun h => h⟩

theorem Kept.trans {a b c : State} (h : Kept a b) (k : Kept b c) : Kept a c := ⟨fun x => h.keep (k.keep x)⟩

theorem Kept.of {t s : State} (m : s.sound → Memory.wf t.mem = true) (c : s.sound → t.park.onChip.length ≤ 16384)
    (p : s.sound → t.park.spill.length ≤ 65536) (g : s.sound → ∀ g, t.spillLevel g ≤ 4096)
    (w : s.sound → ∀ x ∈ t.cache.ways, x.2.length ≤ 16) (i : s.sound → ∀ x ∈ t.ic.stk, risesToTop x.2) : Kept t s :=
  ⟨fun h => ⟨m h, c h, p h, g h, w h, i h⟩⟩

theorem Same.kept {t s : State} (h : Same State.vitals t s) : Kept t s := by
  have e : t.vitals = s.vitals := h
  simp only [State.vitals, Prod.mk.injEq] at e
  obtain ⟨e1, ⟨e2, e3⟩, e4, e5, e6⟩ := e
  refine Kept.of (fun k => e1 ▸ k.1) (fun k => e2 ▸ k.2.1) (fun k => e3 ▸ k.2.2.1) (fun k g => ?_) (fun k => e5 ▸ k.2.2.2.2.1)
    (fun k => e6 ▸ k.2.2.2.2.2)
  unfold State.spillLevel
  rw [e4]
  exact k.2.2.2.1 g

theorem State.withMem_kept {s : State} {v : Memory} (h : Memory.wf s.mem = true → Memory.wf v = true) : Kept (s.withMem v) s :=
  Kept.of (fun k => h k.1) (fun k => k.2.1) (fun k => k.2.2.1) (fun k => k.2.2.2.1) (fun k => k.2.2.2.2.1) (fun k => k.2.2.2.2.2)

theorem State.withPark_kept {s : State} {v : Park} (h : s.sound → v.onChip.length ≤ 16384) (k : s.sound → v.spill.length ≤ 65536) :
    Kept (s.withPark v) s :=
  Kept.of (fun k => k.1) h k (fun k => k.2.2.2.1) (fun k => k.2.2.2.2.1) (fun k => k.2.2.2.2.2)

theorem State.withCqs_kept {s : State} {v : Cqs}
    (h : s.sound → ∀ g, (v.spill.filter (fun h => decide (cqGroup h.c = g))).length ≤ 4096) : Kept (s.withCqs v) s :=
  Kept.of (fun k => k.1) (fun k => k.2.1) (fun k => k.2.2.1) h (fun k => k.2.2.2.2.1) (fun k => k.2.2.2.2.2)

theorem State.withCqs_stay {s : State} {v : Cqs} (h : v.spill = s.cqs.spill) : Kept (s.withCqs v) s :=
  State.withCqs_kept (fun k g => by rw [h]; exact k.2.2.2.1 g)

theorem State.withCqs_sub {s : State} {v : Cqs} (h : v.spill.Sublist s.cqs.spill) : Kept (s.withCqs v) s :=
  State.withCqs_kept (fun k g => Nat.le_trans ((h.filter _).length_le) (k.2.2.2.1 g))

theorem State.withCache_kept {s : State} {v : Cache} (h : s.sound → ∀ x ∈ v.ways, x.2.length ≤ 16) : Kept (s.withCache v) s :=
  Kept.of (fun k => k.1) (fun k => k.2.1) (fun k => k.2.2.1) (fun k => k.2.2.2.1) h (fun k => k.2.2.2.2.2)

theorem State.withCache_stay {s : State} {v : Cache} (h : v.ways = s.cache.ways) : Kept (s.withCache v) s :=
  State.withCache_kept (fun k => by rw [h]; exact k.2.2.2.2.1)

theorem State.withIc_kept {s : State} {v : IcState} (h : s.sound → ∀ x ∈ v.stk, risesToTop x.2) : Kept (s.withIc v) s :=
  Kept.of (fun k => k.1) (fun k => k.2.1) (fun k => k.2.2.1) (fun k => k.2.2.2.1) (fun k => k.2.2.2.2.1) h

theorem State.withIc_stay {s : State} {v : IcState} (h : v.stk = s.ic.stk) : Kept (s.withIc v) s :=
  State.withIc_kept (fun k => by rw [h]; exact k.2.2.2.2.2)

theorem Kept.ite {c : Prop} [Decidable c] {a b s : State} (ha : Kept a s) (hb : Kept b s) : Kept (if c then a else b) s := by
  split <;> assumption

theorem Kept.ite_dep {c : Prop} [Decidable c] {a b s : State} (ha : c → Kept a s) (hb : ¬c → Kept b s) :
    Kept (if c then a else b) s := by
  split
  · exact ha ‹_›
  · exact hb ‹_›

theorem Kept.ite_fst {γ : Type} {c : Prop} [Decidable c] {a b : State × γ} {s : State} (ha : Kept a.1 s) (hb : Kept b.1 s) :
    Kept (if c then a else b).1 s := by
  split <;> assumption

theorem Kept.foldl {α : Type} (l : List α) (g : State → α → State) (s : State) (h : ∀ s a, Kept (g s a) s) :
    Kept (l.foldl g s) s := by
  induction l generalizing s with
  | nil => exact Kept.refl s
  | cons a r ih => exact (ih _).trans (h _ _)

theorem Kept.forEach {α : Type} (l : List α) (g : α → State → State) (s : State) (h : ∀ a s, Kept (g a s) s) :
    Kept (Sys2Proof.Machine.forEach l g s) s := Kept.foldl _ _ _ (fun s a => h a s)

theorem Kept.foldl_fst {α γ : Type} (l : List α) (g : State × γ → α → State × γ) (x : State × γ)
    (h : ∀ x a, Kept (g x a).1 x.1) : Kept (l.foldl g x).1 x.1 := by
  induction l generalizing x with
  | nil => exact Kept.refl _
  | cons a r ih => exact (ih _).trans (h _ _)

theorem Kept.getD {o : Option State} {s : State} (h : ∀ t, o = some t → Kept t s) : Kept (o.getD s) s := by
  cases o with
  | none => exact Kept.refl s
  | some t => exact h t rfl

/-- Where `r` answers a next state, that state is sound where `s` is. -/
structure KeptR (r : Res) (s : State) : Prop where
  on : ∀ t, r = .next t → Kept t s

theorem SameR.kept {r : Res} {s : State} (h : SameR State.vitals r s) : KeptR r s := ⟨fun t e => (h.on t e).kept⟩

theorem KeptR.next {t s : State} (h : Kept t s) : KeptR (.next t) s := by
  exact ⟨fun u hu => by cases hu; exact h⟩

theorem KeptR.guarded {c : Bool} {a t s : State} (ha :
    Kept a s) (h : Kept t s) : KeptR (Sys2Proof.Machine.guarded c a t) s := by
  refine ⟨fun u hu => ?_⟩
  unfold Sys2Proof.Machine.guarded at hu
  cases hu
  split
  · exact h
  · exact ha

theorem KeptR.ite {c : Prop} [Decidable c] {a b : Res} {s : State} (ha : KeptR a s) (hb : KeptR b s) :
    KeptR (if c then a else b) s := by
  split <;> assumption

theorem State.after_kept {s : State} {r : Res} (h : KeptR r s) : Kept (s.after r) s := by
  cases r with
  | next t => exact h.on t rfl
  | fault _ => exact Kept.refl s
  | refused _ => exact Kept.refl s

/-! ## The writers themselves -/

theorem Memory.wf_iff (m : Memory) : Memory.wf m = true ↔ Tbl.wf (fun _ => 0) m.host = true ∧ Tbl.wf (fun _ => false) m.hpoison = true
    ∧ Tbl.wf (fun _ => 0) m.pkg = true ∧ Tbl.wf (fun _ => 0) m.syn = true ∧ Tbl.wf (fun _ => 0xFF) m.flash = true := by
  simp only [Memory.wf, Bool.and_eq_true, and_assoc]

theorem State.putPkg_kept (s : State) (a : Nat) (b : Byte) : Kept (s.putPkg a b) s := by
  refine State.withMem_kept (fun h => ?_)
  rw [Memory.wf_iff] at h ⊢
  obtain ⟨a1, a2, a3, a4, a5⟩ := h
  exact ⟨a1, a2, Tbl.wf_set _ _ _ _ a3, a4, a5⟩

theorem State.putSyn_kept (s : State) (k y : Nat) : Kept (s.putSyn k y) s := by
  refine State.withMem_kept (fun h => ?_)
  rw [Memory.wf_iff] at h ⊢
  obtain ⟨a1, a2, a3, a4, a5⟩ := h
  exact ⟨a1, a2, a3, Tbl.wf_set _ _ _ _ a4, a5⟩

theorem State.putHost_kept (s : State) (p : Option Nat) (a : Nat) (b : Byte) : Kept (s.putHost p a b) s := by
  refine State.withMem_kept (fun h => ?_)
  rw [Memory.wf_iff] at h ⊢
  obtain ⟨a1, a2, a3, a4, a5⟩ := h
  exact ⟨Tbl.wf_set _ _ _ _ a1, a2, a3, a4, a5⟩

theorem State.putBeat_kept (s : State) (p : Option Nat) (a : Nat) (b : Bool) : Kept (s.putBeat p a b) s := by
  refine State.withMem_kept (fun h => ?_)
  rw [Memory.wf_iff] at h ⊢
  obtain ⟨a1, a2, a3, a4, a5⟩ := h
  exact ⟨a1, Tbl.wf_set _ _ _ _ a2, a3, a4, a5⟩

theorem State.wipe_kept (s : State) (n : Nat) : Kept (s.wipe n) s := by
  unfold State.wipe
  dsimp only
  split
  · exact Kept.refl s
  · refine State.withMem_kept (fun h => ?_)
    rw [Memory.wf_iff] at h ⊢
    obtain ⟨a1, a2, a3, a4, a5⟩ := h
    exact ⟨a1, a2, Tbl.wf_filter _ _ _ a3, Tbl.wf_filter _ _ _ a4, a5⟩

theorem State.programCopy_kept (s : State) (c : Nat) (l : List Byte) : Kept (s.programCopy c l) s := by
  unfold State.programCopy
  dsimp only
  refine (Kept.foldl _ _ _ ?_).trans ?_
  · intro s x
    refine State.withMem_kept (fun h => ?_)
    rw [Memory.wf_iff] at h ⊢
    obtain ⟨a1, a2, a3, a4, a5⟩ := h
    exact ⟨a1, a2, a3, a4, Tbl.wf_set _ _ _ _ a5⟩
  · refine State.withMem_kept (fun h => ?_)
    rw [Memory.wf_iff] at h ⊢
    obtain ⟨a1, a2, a3, a4, a5⟩ := h
    exact ⟨a1, a2, a3, a4, Tbl.wf_filter _ _ _ a5⟩

theorem State.stopProgram_kept' (s : State) : Kept s.stopProgram s := by
  unfold State.stopProgram
  split
  · exact (State.programCopy_kept ..).trans (Same.kept (State.withFree_same (Blind.vitals.sub (by decide)) ..))
  · exact Kept.refl s

theorem State.afterReset_kept (s : State) : Kept s.afterReset s := by
  refine Kept.of (fun k => k.1) ?_ ?_ ?_ ?_ ?_ <;> intro _ <;> simp [State.afterReset, State.reset, State.spillLevel]

theorem State.softReset_kept (s : State) : Kept s.softReset s := by
  unfold State.softReset
  dsimp only
  iterate 5 refine (Same.kept (State.setF_same (Blind.vitals.sub (by decide)) ..)).trans ?_
  refine (Same.kept (State.withPat_same (Blind.vitals.sub (by decide)) ..)).trans ?_
  refine (Same.kept (State.withErr_same (Blind.vitals.sub (by decide)) ..)).trans ?_
  refine (Same.kept (State.withMr_same (Blind.vitals.sub (by decide)) ..)).trans ?_
  refine (Same.kept (State.withRegs_same (Blind.vitals.sub (by decide)) ..)).trans ?_
  exact (State.afterReset_kept _).trans (State.stopProgram_kept' s)

theorem State.orWait_kept {s t u : State} (hs : Kept s u) (ht : Kept t u) : Kept (s.orWait t) u := by
  unfold State.orWait
  split <;> assumption


/-! ## Parts of the structures -/

theorem Tbl.mem_set {α : Type} [DecidableEq α] {d : Nat → α} {t : Tbl α} {k : Nat} {v : α} {p : Nat × α} (h : p ∈ Tbl.set d t k v) :
    p = (k, v) ∨ p ∈ t := by
  unfold Tbl.set at h
  split at h
  · exact .inr (Tbl.mem_of_mem_erase h)
  · rcases Tbl.mem_ins h with h | h
    · exact .inl h
    · exact .inr (Tbl.mem_of_mem_erase h)

theorem Tbl.get_mem {α : Type} (d : Nat → α) (t : Tbl α) (k : Nat) : Tbl.get d t k = d k ∨ (k, Tbl.get d t k) ∈ t := by
  induction t with
  | nil => exact .inl rfl
  | cons x r ih =>
    unfold Tbl.get
    split
    · rename_i h
      subst h
      exact .inr (List.mem_cons_self ..)
    · rcases ih with h | h
      · exact .inl h
      · exact .inr (List.mem_cons_of_mem _ h)

theorem State.waysOf_length {s : State} (h : s.sound) (k : CtxKind) (n : Nat) : (s.waysOf k n).length ≤ 16 := by
  unfold State.waysOf
  rcases Tbl.get_mem (fun _ => []) s.cache.ways (cacheKey k n) with e | e
  · rw [e]; exact Nat.zero_le _
  · exact h.2.2.2.2.1 _ e

theorem State.setWays_kept' {s : State} {k : CtxKind} {n : Nat} {l : List Nat} (h : s.sound → l.length ≤ 16) :
    Kept (s.setWays k n l) s := by
  refine State.withCache_kept (fun hs x hx => ?_)
  dsimp only at hx
  rcases Tbl.mem_set hx with e | e
  · rw [e]; exact h hs
  · exact hs.2.2.2.2.1 _ e

/-- One element left out of a list that has it makes room for another. -/
theorem length_moved {l : List Nat} {n : Nat} (m : Nat) (h : n ∈ l) : (l.filter (fun x => decide (x ≠ n)) ++ [m]).length ≤ l.length := by
  rw [List.length_append, List.length_singleton]
  refine Nat.lt_of_le_of_ne (List.length_filter_le _ _) (fun e => ?_)
  have := List.length_filter_eq_length_iff.1 e n h
  simp at this

theorem State.stack_rises {s : State} (h : s.sound) (t : Nat) : risesToTop (s.stack t) := by
  unfold State.stack
  rcases Tbl.get_mem (fun _ => []) s.ic.stk t with e | e
  · rw [e]; exact List.Pairwise.nil
  · exact h.2.2.2.2.2 _ e

theorem State.setStack_kept' {s : State} {t : Nat} {l : List (Nat × Nat)} (h : s.sound → risesToTop l) :
    Kept (s.setStack t l) s := by
  refine State.withIc_kept (fun hs x hx => ?_)
  dsimp only at hx
  rcases Tbl.mem_set hx with e | e
  · rw [e]; exact h hs
  · exact hs.2.2.2.2.2 _ e

theorem State.putPkgs_kept (s : State) (x0 : Nat) (x1 : List Byte) : Kept (State.putPkgs s x0 x1) s := by
  induction x1 generalizing s x0 with
  | nil => exact Kept.refl _
  | cons b r ih => exact (ih ..).trans (State.putPkg_kept ..)

theorem State.writeWord_kept (s : State) (a : Nat) (b : List Byte) (poison : Bool) : Kept (State.writeWord s a b poison) s := by
  unfold State.writeWord
  repeat' first
    | with_reducible first
      | exact Kept.refl _ | assumption | refine (State.putSyn_kept ..).trans ?_ | refine (State.putPkgs_kept ..).trans ?_
      | refine (State.cnt_same (Blind.vitals.sub (by decide)) ..).kept.trans ?_
      | refine (State.memStat_same (Blind.vitals.sub (by decide)) ..).kept.trans ?_ | refine Kept.ite ?_ ?_ | intro _
    | split
    | dsimp only

theorem State.pkgWrite_kept (x0 : Nat) (s : State) (x2 : Nat) (x3 : List Byte) (x4 : Bool) :
    Kept (State.pkgWrite x0 s x2 x3 x4) s := by
  induction x0 generalizing s x2 x3 x4 with
  | zero => exact Kept.refl _
  | succ n ih =>
    unfold State.pkgWrite
    repeat' first
      | with_reducible first
        | exact Kept.refl _ | assumption | refine (State.writeWord_kept ..).trans ?_ | refine (ih ..).trans ?_
        | refine Kept.ite ?_ ?_ | intro _
      | split
      | dsimp only

theorem State.writePkg_kept (s : State) (a : Nat) (b : List Byte) (poison : Bool) : Kept (State.writePkg s a b poison) s := by
  unfold State.writePkg
  repeat' first
    | with_reducible first
      | exact Kept.refl _ | assumption | refine (State.pkgWrite_kept ..).trans ?_ | intro _
    | split
    | dsimp only

theorem State.writeHost_kept (s : State) (p : Option Nat) (a : Nat) (b : List Byte) (poison : Bool) :
    Kept (State.writeHost s p a b poison) s := by
  unfold State.writeHost
  repeat' first
    | with_reducible first
      | exact Kept.refl _ | assumption | refine (State.putHost_kept ..).trans ?_ | refine (State.putBeat_kept ..).trans ?_
      | refine (Kept.foldl _ _ _ ?_).trans ?_ | refine (Kept.foldl_fst _ _ _ ?_).trans ?_ | refine Kept.ite ?_ ?_
      | refine Kept.ite_fst ?_ ?_ | intro _
    | split
    | dsimp only

theorem State.writeBytes_kept (s : State) (space : Nat) (p : Option Nat) (a : Nat) (b : List Byte) (poison : Bool) :
    Kept (State.writeBytes s space p a b poison) s := by
  unfold State.writeBytes
  repeat' first
    | with_reducible first
      | exact Kept.refl _ | assumption | refine (State.writeHost_kept ..).trans ?_ | refine (State.writePkg_kept ..).trans ?_
      | refine Kept.ite ?_ ?_ | intro _
    | split
    | dsimp only

theorem State.touchBlock_kept (s : State) (n : Nat) : Kept (State.touchBlock s n) s := by
  unfold State.touchBlock
  repeat' first
    | with_reducible first
      | exact Kept.refl _ | assumption | refine (State.wipe_kept ..).trans ?_
      | refine (State.withPat_same (Blind.vitals.sub (by decide)) ..).kept.trans ?_
      | refine (State.wrapAdd_same (Blind.vitals.sub (by decide)) ..).kept.trans ?_ | refine Kept.ite ?_ ?_ | intro _
    | split
    | dsimp only

theorem State.traceIn_kept (s : State) (dom m code unit aux arg32 arg64 : Nat) :
    Kept (State.traceIn s dom m code unit aux arg32 arg64) s := by
  unfold State.traceIn
  repeat' first
    | with_reducible first
      | exact Kept.refl _ | assumption | refine (State.touchBlock_kept ..).trans ?_
      | refine (State.cnt_same (Blind.vitals.sub (by decide)) ..).kept.trans ?_
      | refine (State.withTrace_same (Blind.vitals.sub (by decide)) ..).kept.trans ?_ | refine Kept.ite ?_ ?_ | intro _
    | split
    | dsimp only

theorem State.traceEv_kept (s : State) (m code unit aux arg32 arg64 : Nat) :
    Kept (State.traceEv s m code unit aux arg32 arg64) s := by
  unfold State.traceEv
  repeat' first
    | with_reducible first
      | exact Kept.refl _ | assumption | refine (State.traceIn_kept ..).trans ?_ | intro _
    | split
    | dsimp only

theorem State.sendMsg_kept (s : State) (n : Nat) : Kept (State.sendMsg s n) s := by
  unfold State.sendMsg
  repeat' first
    | with_reducible first
      | exact Kept.refl _ | assumption | refine (State.emit_same (Blind.vitals.sub (by decide)) ..).kept.trans ?_
      | refine (State.wrapAdd_same (Blind.vitals.sub (by decide)) ..).kept.trans ?_
      | refine (State.withIc_stay (by rfl)).trans ?_ | intro _
    | split
    | dsimp only

theorem State.landMsg_kept (s : State) (m : HostMsg) : Kept (State.landMsg s m) s := by
  unfold State.landMsg
  dsimp only
  refine (State.withIc_stay ?_).trans (State.writeHost_kept ..)
  exact (congrArg IcState.stk (State.writeHost_same (Blind.ic.sub (by decide)) ..)).symm

theorem State.landMsgs_kept (s : State) : Kept (State.landMsgs s) s := by
  unfold State.landMsgs
  repeat' first
    | with_reducible first
      | exact Kept.refl _ | assumption | refine (State.landMsg_kept ..).trans ?_ | refine (Kept.forEach _ _ _ ?_).trans ?_
      | intro _
    | split
    | dsimp only

theorem State.leaveMsg_kept (s : State) (n : Nat) : Kept (State.leaveMsg s n) s := by
  unfold State.leaveMsg
  repeat' first
    | with_reducible first
      | exact Kept.refl _ | assumption | refine (State.sendMsg_kept ..).trans ?_
      | refine (State.setF_same (Blind.vitals.sub (by decide)) ..).kept.trans ?_
      | refine (State.withIc_stay (by rfl)).trans ?_ | intro _
    | split
    | dsimp only

theorem State.endSignal_kept (s : State) (n : Nat) : Kept (State.endSignal s n) s := by
  unfold State.endSignal
  repeat' first
    | with_reducible first
      | exact Kept.refl _ | assumption | refine (State.setF_same (Blind.vitals.sub (by decide)) ..).kept.trans ?_
      | refine (State.withIc_stay (by rfl)).trans ?_ | intro _
    | split
    | dsimp only

theorem State.judgeMsg_kept (s : State) (n : Nat) : Kept (State.judgeMsg s n) s := by
  unfold State.judgeMsg
  repeat' first
    | with_reducible first
      | exact Kept.refl _ | assumption | refine (State.leaveMsg_kept ..).trans ?_ | refine (State.endSignal_kept ..).trans ?_
      | refine (State.withIc_stay (by rfl)).trans ?_ | refine Kept.ite ?_ ?_ | refine Kept.ite_fst ?_ ?_ | intro _
    | split
    | dsimp only

theorem State.judgeAll_kept (s : State) : Kept (State.judgeAll s) s := by
  unfold State.judgeAll
  repeat' first
    | with_reducible first
      | exact Kept.refl _ | assumption | refine (State.judgeMsg_kept ..).trans ?_ | refine (Kept.forEach _ _ _ ?_).trans ?_
      | intro _
    | split
    | dsimp only

theorem State.owe_kept (s : State) (n : Nat) (flush : Option Nat) : Kept (State.owe s n flush) s := by
  unfold State.owe
  repeat' first
    | with_reducible first
      | exact Kept.refl _ | assumption | refine (State.withIc_stay (by rfl)).trans ?_ | intro _
    | split
    | dsimp only

theorem State.raiseVia_kept (s : State) (flush : Option Nat) (n : Nat) : Kept (State.raiseVia s flush n) s := by
  unfold State.raiseVia
  repeat' first
    | with_reducible first
      | exact Kept.refl _ | assumption | refine (State.owe_kept ..).trans ?_ | refine (State.judgeMsg_kept ..).trans ?_
      | refine (State.addEvent_same (Blind.vitals.sub (by decide)) ..).kept.trans ?_
      | refine (State.event1_same (Blind.vitals.sub (by decide)) ..).kept.trans ?_
      | refine (State.storm_same (Blind.vitals.sub (by decide)) ..).kept.trans ?_ | refine Kept.ite ?_ ?_ | intro _
    | split
    | dsimp only

theorem State.raise_kept (s : State) (n : Nat) : Kept (State.raise s n) s := by
  unfold State.raise
  repeat' first
    | with_reducible first
      | exact Kept.refl _ | assumption | refine (State.raiseVia_kept ..).trans ?_ | intro _
    | split
    | dsimp only

theorem State.putLog_kept (s : State) (r : List W64) : Kept (State.putLog s r) s := by
  unfold State.putLog
  repeat' first
    | with_reducible first
      | exact Kept.refl _ | assumption | refine (State.touchBlock_kept ..).trans ?_ | refine (State.raise_kept ..).trans ?_
      | refine (State.arbBusy_same (Blind.vitals.sub (by decide)) ..).kept.trans ?_
      | refine (State.cnt_same (Blind.vitals.sub (by decide)) ..).kept.trans ?_
      | refine (State.log_same (Blind.vitals.sub (by decide)) ..).kept.trans ?_
      | refine (State.withErr_same (Blind.vitals.sub (by decide)) ..).kept.trans ?_
      | refine (State.wrapAdd_same (Blind.vitals.sub (by decide)) ..).kept.trans ?_ | refine Kept.ite ?_ ?_ | intro _
    | split
    | dsimp only

theorem State.flushLog_kept (s : State) : Kept (State.flushLog s) s := by
  unfold State.flushLog
  repeat' first
    | with_reducible first
      | exact Kept.refl _ | assumption | refine (State.putLog_kept ..).trans ?_
      | refine (State.rollLog_same (Blind.vitals.sub (by decide)) ..).kept.trans ?_
      | refine (State.withErr_same (Blind.vitals.sub (by decide)) ..).kept.trans ?_ | refine (Kept.forEach _ _ _ ?_).trans ?_
      | refine Kept.ite ?_ ?_ | intro _
    | split
    | dsimp only

theorem State.serveElog_kept (s : State) : Kept (State.serveElog s) s := by
  unfold State.serveElog
  repeat' first
    | with_reducible first
      | exact Kept.refl _ | assumption | refine (State.flushLog_kept ..).trans ?_
      | refine (State.arbBusy_same (Blind.vitals.sub (by decide)) ..).kept.trans ?_
      | refine (State.ret_same (Blind.vitals.sub (by decide)) ..).kept.trans ?_
      | refine (State.withErr_same (Blind.vitals.sub (by decide)) ..).kept.trans ?_ | refine (Kept.forEach _ _ _ ?_).trans ?_
      | refine Kept.ite ?_ ?_ | intro _
    | split
    | dsimp only

theorem State.setLace_kept (s : State) (st : Nat) : Kept (State.setLace s st) s := by
  unfold State.setLace
  repeat' first
    | with_reducible first
      | exact Kept.refl _ | assumption | refine (State.traceIn_kept ..).trans ?_ | refine (State.raise_kept ..).trans ?_
      | refine (State.clearPart_same (Blind.vitals.sub (by decide)) ..).kept.trans ?_
      | refine (State.setF_same (Blind.vitals.sub (by decide)) ..).kept.trans ?_
      | refine (State.train_same (Blind.vitals.sub (by decide)) ..).kept.trans ?_ | refine Kept.ite ?_ ?_ | intro _
    | split
    | dsimp only

theorem State.laceCnt_kept (s : State) (d : Fld) : Kept (State.laceCnt s d) s := by
  unfold State.laceCnt
  repeat' first
    | with_reducible first
      | exact Kept.refl _ | assumption | refine (State.raise_kept ..).trans ?_
      | refine (State.cnt_same (Blind.vitals.sub (by decide)) ..).kept.trans ?_ | refine Kept.ite ?_ ?_ | intro _
    | split
    | dsimp only

theorem State.halt_kept (s : State) (hc cause q : Nat) (idx : W32) : Kept (State.halt s hc cause q idx) s := by
  unfold State.halt
  repeat' first
    | with_reducible first
      | exact Kept.refl _ | assumption | refine (State.raise_kept ..).trans ?_
      | refine (State.sendNotice_same (Blind.vitals.sub (by decide)) ..).kept.trans ?_
      | refine (State.setF_same (Blind.vitals.sub (by decide)) ..).kept.trans ?_
      | refine (State.setReg_same (Blind.vitals.sub (by decide)) ..).kept.trans ?_
      | refine (State.stopUnits_same (Blind.vitals.sub (by decide)) ..).kept.trans ?_
      | refine (State.withArb_same (Blind.vitals.sub (by decide)) ..).kept.trans ?_
      | refine (State.withLines_same (Blind.vitals.sub (by decide)) ..).kept.trans ?_
      | refine (State.withPair_same (Blind.vitals.sub (by decide)) ..).kept.trans ?_
      | refine (State.withPins_same (Blind.vitals.sub (by decide)) ..).kept.trans ?_ | refine Kept.ite ?_ ?_
      | refine Kept.ite_fst ?_ ?_ | intro _
    | split
    | dsimp only

theorem State.zeroReads_kept (s : State) : Kept (State.zeroReads s) s := by
  unfold State.zeroReads
  repeat' first
    | with_reducible first
      | exact Kept.refl _ | assumption | refine (State.ret_same (Blind.vitals.sub (by decide)) ..).kept.trans ?_
      | refine (State.withErr_same (Blind.vitals.sub (by decide)) ..).kept.trans ?_
      | refine (State.withCache_stay (by rfl)).trans ?_ | refine (Kept.forEach _ _ _ ?_).trans ?_ | intro _
    | split
    | dsimp only

theorem State.hardHalt_kept (s : State) (code : Nat) : Kept (State.hardHalt s code) s := by
  unfold State.hardHalt
  repeat' first
    | with_reducible first
      | exact Kept.refl _ | assumption | refine (State.zeroReads_kept ..).trans ?_
      | refine (State.setF_same (Blind.vitals.sub (by decide)) ..).kept.trans ?_
      | refine (State.setReg_same (Blind.vitals.sub (by decide)) ..).kept.trans ?_
      | refine (State.withPair_same (Blind.vitals.sub (by decide)) ..).kept.trans ?_ | intro _
    | split
    | dsimp only

theorem State.fatal_kept (s : State) (code item arg32 arg64 : Nat) : Kept (State.fatal s code item arg32 arg64) s := by
  unfold State.fatal
  repeat' first
    | with_reducible first
      | exact Kept.refl _ | assumption | refine (State.hardHalt_kept ..).trans ?_ | refine (State.halt_kept ..).trans ?_
      | refine (State.raise_kept ..).trans ?_ | refine (State.log_same (Blind.vitals.sub (by decide)) ..).kept.trans ?_
      | refine Kept.ite ?_ ?_ | intro _
    | split
    | dsimp only

theorem State.spareIn_kept (s : State) (red : Bool) (u : Nat) : Kept (State.spareIn s red u) s := by
  unfold State.spareIn
  repeat' first
    | with_reducible first
      | exact Kept.refl _ | assumption | refine (State.raise_kept ..).trans ?_
      | refine (State.dropShadow_same (Blind.vitals.sub (by decide)) ..).kept.trans ?_
      | refine (State.log_same (Blind.vitals.sub (by decide)) ..).kept.trans ?_
      | refine (State.setEng_same (Blind.vitals.sub (by decide)) ..).kept.trans ?_
      | refine (State.setRed_same (Blind.vitals.sub (by decide)) ..).kept.trans ?_ | refine Kept.ite ?_ ?_ | intro _
    | split
    | dsimp only

theorem State.replaceFailed_kept (s : State) (red : Bool) (u : Nat) : Kept (State.replaceFailed s red u) s := by
  unfold State.replaceFailed
  repeat' first
    | with_reducible first
      | exact Kept.refl _ | assumption | refine (State.fatal_kept ..).trans ?_ | refine (State.raise_kept ..).trans ?_
      | refine (State.spareIn_kept ..).trans ?_ | refine (State.log_same (Blind.vitals.sub (by decide)) ..).kept.trans ?_
      | refine Kept.ite ?_ ?_ | intro _
    | split
    | dsimp only

theorem State.grant_kept (s : State) (res c req : Nat) : Kept (State.grant s res c req) s := by
  unfold State.grant
  repeat' first
    | with_reducible first
      | exact Kept.refl _ | assumption | refine (State.traceEv_kept ..).trans ?_
      | refine (State.giveChannel_same (Blind.vitals.sub (by decide)) ..).kept.trans ?_ | intro _
    | split
    | dsimp only

theorem State.dropOwner_kept (s : State) (res c : Nat) (o : Owner) (still : Nat → Bool) :
    Kept (State.dropOwner s res c o still) s := by
  unfold State.dropOwner
  repeat' first
    | with_reducible first
      | exact Kept.refl _ | assumption | refine (State.grant_kept ..).trans ?_
      | refine (State.freeChannel_same (Blind.vitals.sub (by decide)) ..).kept.trans ?_ | refine Kept.ite ?_ ?_ | intro _
    | split
    | dsimp only

theorem State.dropOwners_kept (s : State) (res : Nat) (raised : List Nat) (busy : Nat → Bool) :
    Kept (State.dropOwners s res raised busy) s := by
  unfold State.dropOwners
  repeat' first
    | with_reducible first
      | exact Kept.refl _ | assumption | refine (State.dropOwner_kept ..).trans ?_ | refine (Kept.forEach _ _ _ ?_).trans ?_
      | refine Kept.ite ?_ ?_ | refine Kept.ite_fst ?_ ?_ | intro _
    | split
    | dsimp only

theorem State.dropReq_kept (s : State) (res req : Nat) : Kept (State.dropReq s res req) s := by
  unfold State.dropReq
  repeat' first
    | with_reducible first
      | exact Kept.refl _ | assumption | refine (State.dropOwner_kept ..).trans ?_
      | refine (State.setCand_same (Blind.vitals.sub (by decide)) ..).kept.trans ?_ | refine (Kept.forEach _ _ _ ?_).trans ?_
      | intro _
    | split
    | dsimp only

theorem State.dropChannels_kept (s : State) (req : Nat) : Kept (State.dropChannels s req) s := by
  unfold State.dropChannels
  repeat' first
    | with_reducible first
      | exact Kept.refl _ | assumption | refine (State.dropReq_kept ..).trans ?_ | refine (Kept.forEach _ _ _ ?_).trans ?_
      | intro _
    | split
    | dsimp only

theorem State.grantFree_kept (s : State) (res : Nat) (x0 : List Nat) : Kept (State.grantFree s res x0) s := by
  induction x0 generalizing s res with
  | nil => exact Kept.refl _
  | cons a r ih =>
    unfold State.grantFree
    repeat' first
      | with_reducible first
        | exact Kept.refl _ | assumption | refine (State.grant_kept ..).trans ?_ | refine (ih ..).trans ?_ | intro _
      | split
      | dsimp only

theorem State.leaveUnits_kept (s : State) (res : Nat) : Kept (State.leaveUnits s res) s := by
  unfold State.leaveUnits
  repeat' first
    | with_reducible first
      | exact Kept.refl _ | assumption | refine (State.spareIn_kept ..).trans ?_
      | refine (State.noLeave_same (Blind.vitals.sub (by decide)) ..).kept.trans ?_
      | refine (State.setRed_same (Blind.vitals.sub (by decide)) ..).kept.trans ?_ | refine (Kept.forEach _ _ _ ?_).trans ?_
      | refine Kept.ite ?_ ?_ | refine Kept.ite_fst ?_ ?_ | intro _
    | split
    | dsimp only

theorem State.arbPhase_kept (s : State) (res : Nat) (raised : List Nat) (busy : Nat → Bool) :
    Kept (State.arbPhase s res raised busy) s := by
  unfold State.arbPhase
  repeat' first
    | with_reducible first
      | exact Kept.refl _ | assumption | refine (State.grantFree_kept ..).trans ?_
      | refine (State.leaveUnits_kept ..).trans ?_ | refine (State.dropOwners_kept ..).trans ?_
      | refine (State.applyCommit_same (Blind.vitals.sub (by decide)) ..).kept.trans ?_
      | refine (State.chooseVictims_same (Blind.vitals.sub (by decide)) ..).kept.trans ?_
      | refine (State.clearTakes_same (Blind.vitals.sub (by decide)) ..).kept.trans ?_
      | refine (State.endRefusals_same (Blind.vitals.sub (by decide)) ..).kept.trans ?_
      | refine (State.setCand_same (Blind.vitals.sub (by decide)) ..).kept.trans ?_ | refine Kept.ite ?_ ?_ | intro _
    | split
    | dsimp only


theorem State.touch_kept (s : State) (k : CtxKind) (n : Nat) : Kept (State.touch s k n) s := by
  unfold State.touch
  split
  · rename_i h
    exact State.setWays_kept' (fun hs => Nat.le_trans (length_moved n h) (State.waysOf_length hs k n))
  · exact Kept.refl s

theorem State.insertCtx_kept {s : State} {k : CtxKind} {n : Nat} {t : State} (h : State.insertCtx s k n = some t) :
    Kept t s := by
  unfold State.insertCtx at h
  split at h
  · cases h; exact Kept.refl s
  · split at h
    · cases h; exact State.touch_kept ..
    · split at h
      · rename_i hl
        cases h
        exact State.setWays_kept' (fun _ => by rw [List.length_append, List.length_singleton]; exact hl)
      · split at h
        · rename_i m hm
          cases h
          refine (State.withCache_stay (by rfl)).trans (State.setWays_kept' (fun hs => ?_))
          exact Nat.le_trans (length_moved n (List.mem_of_find?_eq_some hm)) (State.waysOf_length hs k n)
        · cases h

theorem State.warm_kept (s : State) (k : CtxKind) (n : Nat) : Kept (State.warm s k n) s := by
  unfold State.warm
  repeat' first
    | with_reducible first
      | exact Kept.refl _ | assumption | refine (State.insertCtx_kept (by assumption)).trans ?_ | refine Kept.getD ?_
      | intro _
    | split
    | dsimp only

theorem State.demandOne_kept (s : State) (k : CtxKind) (n : Nat) : Kept (State.demandOne s k n).1 s := by
  unfold State.demandOne
  repeat' first
    | with_reducible first
      | exact Kept.refl _ | assumption | refine (State.touch_kept ..).trans ?_
      | refine (State.countCtx_same (Blind.vitals.sub (by decide)) ..).kept.trans ?_
      | refine (State.withCache_stay (by rfl)).trans ?_ | refine Kept.ite ?_ ?_ | refine Kept.ite_fst ?_ ?_ | intro _
    | split
    | dsimp only

theorem State.demand_kept (s : State) (l : List (CtxKind × Nat)) : Kept (State.demand s l).1 s := by
  unfold State.demand
  repeat' first
    | with_reducible first
      | exact Kept.refl _ | assumption | refine (State.demandOne_kept ..).trans ?_ | refine (Kept.foldl _ _ _ ?_).trans ?_
      | refine (Kept.foldl_fst _ _ _ ?_).trans ?_ | refine Kept.ite ?_ ?_ | refine Kept.ite_fst ?_ ?_ | intro _
    | split
    | dsimp only

theorem State.bring_kept (s : State) (k : CtxKind) (n : Nat) : Kept (State.bring s k n) s := by
  unfold State.bring
  repeat' first
    | with_reducible first
      | exact Kept.refl _ | assumption | refine (State.withCache_stay (by rfl)).trans ?_ | refine Kept.ite ?_ ?_ | intro _
    | split
    | dsimp only

theorem State.prefetch_kept (s : State) (k : CtxKind) (n : Nat) : Kept (State.prefetch s k n) s := by
  unfold State.prefetch
  repeat' first
    | with_reducible first
      | exact Kept.refl _ | assumption | refine (State.withCache_stay (by rfl)).trans ?_ | refine Kept.ite ?_ ?_ | intro _
    | split
    | dsimp only

theorem State.chill_kept (s : State) (k : CtxKind) (n : Nat) : Kept (State.chill s k n) s := by
  unfold State.chill
  exact State.setWays_kept' (fun hs => Nat.le_trans (List.length_filter_le _ _) (State.waysOf_length hs k n))

theorem State.writeCtx_kept (s : State) (x : CtxKind × Nat) : Kept (State.writeCtx s x) s := by
  unfold State.writeCtx
  repeat' first
    | with_reducible first
      | exact Kept.refl _ | assumption | refine (State.writePkg_kept ..).trans ?_ | refine (State.touchBlock_kept ..).trans ?_
      | refine Kept.ite ?_ ?_ | refine Kept.ite_fst ?_ ?_ | intro _
    | split
    | dsimp only

theorem State.serveBacks_kept (s : State) : Kept (State.serveBacks s) s := by
  unfold State.serveBacks
  repeat' first
    | with_reducible first
      | exact Kept.refl _ | assumption | refine (State.writeCtx_kept ..).trans ?_
      | refine (State.arbBusy_same (Blind.vitals.sub (by decide)) ..).kept.trans ?_
      | refine (State.withCache_stay (by rfl)).trans ?_ | refine (Kept.forEach _ _ _ ?_).trans ?_ | refine Kept.ite ?_ ?_
      | intro _
    | split
    | dsimp only

theorem State.spillEntry_kept (s : State) (q : Nat) (i : W32) (h : s.park.spill.length < 65536) :
    Kept (s.spillEntry q i) s := by
  unfold State.spillEntry
  dsimp only
  have e : ∀ raw, (((s.touchBlock (storeBlock (parkOffset s.freeSlot))).writePkg (s.pat.csBase + parkOffset s.freeSlot) raw false).arbBusy
      resCstore 71).park = s.park := fun raw =>
    Eq.trans (State.arbBusy_same (Blind.park.sub (by decide)) ..)
      (Eq.trans (State.writePkg_same (Blind.park.sub (by decide)) ..)
        (State.touchBlock_same (Blind.park.sub (by decide)) ..))
  have e' : ∀ raw, (((s.touchBlock (storeBlock (parkOffset s.freeSlot))).writePkg (s.pat.csBase + parkOffset s.freeSlot) raw false).arbBusy
      resCstore 71).park.spill.length + 1 ≤ 65536 := fun raw => by
    rw [e]
    exact h
  refine Kept.trans (State.withPark_kept (fun k => k.2.1) (fun k => ?_))
    ((State.arbBusy_same (Blind.vitals.sub (by decide)) ..).kept.trans ((State.writePkg_kept ..).trans (State.touchBlock_kept ..)))
  dsimp only
  rw [List.length_append]
  exact e' _

theorem State.parkEntry_kept (s : State) (q : Nat) (i : W32) (n : Nat) (h : s.parkOpen n = true) :
    Kept (s.parkEntry q i n) s := by
  unfold State.parkEntry
  dsimp only
  split
  · rename_i hc
    refine Kept.trans (State.withPark_kept (fun _ => ?_) (fun k => k.2.2.1)) (State.updFl_same (Blind.vitals.sub (by decide)) ..).kept
    simp only [State.chipSlot, parkSlots, Bool.and_eq_true, decide_eq_true_eq] at hc
    show (s.park.onChip ++ [(q, i)]).length ≤ 16384
    rw [List.length_append]
    exact of_decide_eq_true hc.1
  · rename_i hc
    simp only [State.parkOpen, hc, parkSpillSlots, Bool.false_or, Bool.and_eq_true] at h
    exact (State.spillEntry_kept (s.updFl q i _) q i (of_decide_eq_true h.1)).trans (State.updFl_same (Blind.vitals.sub (by decide)) ..).kept

theorem State.unpark_kept (s : State) (q : Nat) (i : W32) : Kept (State.unpark s q i) s := by
  unfold State.unpark
  exact State.withPark_kept (fun k => Nat.le_trans (List.length_filter_le _ _) k.2.1)
    (fun k => Nat.le_trans (List.length_filter_le _ _) k.2.2.1)

theorem State.releasePark_kept (s : State) (q : Nat) (i : W32) : Kept (State.releasePark s q i) s := by
  unfold State.releasePark
  repeat' first
    | with_reducible first
      | exact Kept.refl _ | assumption | refine (State.traceEv_kept ..).trans ?_ | refine (State.unpark_kept ..).trans ?_
      | refine (State.updFl_same (Blind.vitals.sub (by decide)) ..).kept.trans ?_
      | refine (State.wrapAdd_same (Blind.vitals.sub (by decide)) ..).kept.trans ?_ | intro _
    | split
    | dsimp only

theorem State.parkOrWait_kept (s : State) (q : Nat) (i : W32) (e : Entry) : Kept (State.parkOrWait s q i e) s := by
  unfold State.parkOrWait
  dsimp only
  have hd : Kept (if s.mustSpill (ctrIdx q e.waitCtr) then (s, true) else s.demand [(.counter, ctrIdx q e.waitCtr)]).1 s :=
    Kept.ite_fst (Kept.refl _) (State.demand_kept ..)
  generalize (if s.mustSpill (ctrIdx q e.waitCtr) then (s, true) else s.demand [(.counter, ctrIdx q e.waitCtr)]) = d at hd ⊢
  split
  · split
    · exact hd
    · rename_i h
      have hp : d.1.parkOpen (ctrIdx q e.waitCtr) = true := by
        simp only [Bool.or_eq_true, Bool.not_eq_true', not_or, Bool.not_eq_false] at h
        exact h.2
      have hk := (State.parkEntry_kept d.1 q i _ hp).trans hd
      exact Kept.ite ((State.releasePark_kept ..).trans hk) hk
  · repeat' first
    | with_reducible first
      | exact Kept.refl _ | assumption | refine (State.releasePark_kept ..).trans ?_ | refine (State.demand_kept ..).trans ?_
      | refine (State.raise_kept ..).trans ?_ | refine (State.cnt_same (Blind.vitals.sub (by decide)) ..).kept.trans ?_
      | refine (State.updFl_same (Blind.vitals.sub (by decide)) ..).kept.trans ?_ | refine Kept.ite ?_ ?_
      | refine Kept.ite_fst ?_ ?_ | intro _
    | split
    | dsimp only

theorem State.withdraw_kept (s : State) (q : Nat) (p : Flight → Bool) : Kept (State.withdraw s q p).1 s := by
  unfold State.withdraw
  repeat' first
    | with_reducible first
      | exact Kept.refl _ | assumption | refine (State.unpark_kept ..).trans ?_
      | refine (State.release_same (Blind.vitals.sub (by decide)) ..).kept.trans ?_ | refine (Kept.forEach _ _ _ ?_).trans ?_
      | intro _
    | split
    | dsimp only

theorem State.enterFull_kept (s : State) (c : Nat) : Kept (State.enterFull s c) s := by
  unfold State.enterFull
  repeat' first
    | with_reducible first
      | exact Kept.refl _ | assumption | refine (State.traceEv_kept ..).trans ?_ | refine (State.raise_kept ..).trans ?_
      | refine (State.cnt_same (Blind.vitals.sub (by decide)) ..).kept.trans ?_
      | refine (State.setC_same (Blind.vitals.sub (by decide)) ..).kept.trans ?_
      | refine (State.setF_same (Blind.vitals.sub (by decide)) ..).kept.trans ?_
      | refine (State.stallQueues_same (Blind.vitals.sub (by decide)) ..).kept.trans ?_ | intro _
    | split
    | dsimp only

theorem State.spillRec_kept (s : State) (h : Held) (hl : s.spillLevel (cqGroup h.c) < 4096) : Kept (s.spillRec h) s := by
  unfold State.spillRec
  dsimp only
  have h1 : Kept (s.withCqs { s.cqs with spill := s.cqs.spill ++ [h] }) s := by
    refine State.withCqs_kept (fun k g => ?_)
    have kg := k.2.2.2.1 g
    unfold State.spillLevel at hl kg
    rw [List.filter_append, List.length_append]
    by_cases hg : cqGroup h.c = g
    · subst hg
      exact Nat.le_trans (Nat.add_le_add_left (List.length_filter_le _ _) _) hl
    · simpa [hg] using kg
  exact Kept.ite ((State.enterFull_kept ..).trans ((State.peak_same (Blind.vitals.sub (by decide)) ..).kept.trans h1))
    ((State.peak_same (Blind.vitals.sub (by decide)) ..).kept.trans h1)

theorem State.issueRec_kept (s : State) (h : Held) : Kept (State.issueRec s h) s := by
  unfold State.issueRec
  exact (State.withCqs_stay (by rfl)).trans (State.setC_same (Blind.vitals.sub (by decide)) ..).kept

theorem State.placeRec_kept (s : State) (h : Held) : Kept (State.placeRec s h) s := by
  have hc := (State.completed_same (Blind.vitals.sub (by decide)) s h.q h.idx).kept
  unfold State.placeRec
  refine Kept.ite ((State.release_same (Blind.vitals.sub (by decide)) ..).kept.trans hc) ?_
  refine Kept.ite ((State.issueRec_kept ..).trans hc) ?_
  split
  · rename_i hl
    refine (State.spillRec_kept _ _ ?_).trans hc
    simp only [Bool.and_eq_true, decide_eq_true_eq, spillCap] at hl
    have e : (s.completed h.q h.idx).cqs = s.cqs := State.completed_same (Blind.cqs.sub (by decide)) ..
    unfold State.spillLevel at hl ⊢
    rw [e]
    exact of_decide_eq_true hl.1
  · exact (State.updFl_same (Blind.vitals.sub (by decide)) ..).kept.trans (State.withCqs_stay (by rfl))

theorem State.quarNote_kept (s : State) (q cause : Nat) (cidx : W32) (n : Nat) : Kept (State.quarNote s q cause cidx n) s := by
  unfold State.quarNote
  repeat' first
    | with_reducible first
      | exact Kept.refl _ | assumption | refine (State.raise_kept ..).trans ?_
      | refine (State.log_same (Blind.vitals.sub (by decide)) ..).kept.trans ?_ | intro _
    | split
    | dsimp only

theorem State.noteAfter_kept (s : State) (f : Option Flight) : Kept (State.noteAfter s f) s := by
  unfold State.noteAfter
  repeat' first
    | with_reducible first
      | exact Kept.refl _ | assumption | refine (State.quarNote_kept ..).trans ?_ | intro _
    | split
    | dsimp only

theorem State.postEntry_kept (s : State) (q : Nat) (i : W32) : Kept (State.postEntry s q i) s := by
  unfold State.postEntry
  repeat' first
    | with_reducible first
      | exact Kept.refl _ | assumption | refine (State.noteAfter_kept ..).trans ?_ | refine (State.placeRec_kept ..).trans ?_
      | refine (State.completed_same (Blind.vitals.sub (by decide)) ..).kept.trans ?_
      | refine (State.release_same (Blind.vitals.sub (by decide)) ..).kept.trans ?_ | refine Kept.ite ?_ ?_ | intro _
    | split
    | dsimp only

theorem State.refillSpill_kept (x0 : Nat) (s : State) (x2 : Nat) : Kept (State.refillSpill x0 s x2) s := by
  induction x0 generalizing s x2 with
  | zero => exact Kept.refl _
  | succ n ih =>
    unfold State.refillSpill
    refine Kept.ite_dep (fun hl => ?_) (fun _ => Kept.refl _)
    split
    · exact Kept.refl _
    · rename_i h hf
      dsimp only
      refine Kept.ite (State.demand_kept ..) ?_
      refine (ih ..).trans ((State.noteAfter_kept ..).trans ((State.spillRec_kept _ _ ?_).trans
        ((State.completed_same (Blind.vitals.sub (by decide)) ..).kept.trans ((State.withCqs_stay (by rfl)).trans (State.demand_kept ..)))))
      have hg := List.find?_some hf
      rw [decide_eq_true_eq] at hg
      unfold State.spillLevel at hl ⊢
      have e : ∀ u : State, (u.completed h.q h.idx).cqs = u.cqs := fun u =>
        State.completed_same (Blind.cqs.sub (by decide)) ..
      have e' : (s.demand (s.signalNeeds h)).1.cqs = s.cqs := State.demand_same (Blind.cqs.sub (by decide)) ..
      rw [e, hg]
      show (List.filter _ (s.demand (s.signalNeeds h)).1.cqs.spill).length < 4096
      rw [e']
      exact hl

theorem State.drainHeld_kept (x0 : Nat) (s : State) (x2 : Nat) : Kept (State.drainHeld x0 s x2) s := by
  induction x0 generalizing s x2 with
  | zero => exact Kept.refl _
  | succ n ih =>
    unfold State.drainHeld
    refine Kept.ite ?_ (Kept.refl _)
    split
    · exact (ih ..).trans ((State.refillSpill_kept ..).trans ((State.issueRec_kept ..).trans
        (State.withCqs_sub List.erase_sublist)))
    · split
      · exact Kept.refl _
      · dsimp only
        refine Kept.ite (State.demand_kept ..) ?_
        exact (ih ..).trans ((State.noteAfter_kept ..).trans ((State.issueRec_kept ..).trans
          ((State.completed_same (Blind.vitals.sub (by decide)) ..).kept.trans ((State.withCqs_stay (by rfl)).trans (State.demand_kept ..)))))

theorem State.leaveFull_kept (s : State) (c : Nat) : Kept (State.leaveFull s c) s := by
  unfold State.leaveFull
  repeat' first
    | with_reducible first
      | exact Kept.refl _ | assumption | refine (State.traceEv_kept ..).trans ?_
      | refine (State.setC_same (Blind.vitals.sub (by decide)) ..).kept.trans ?_
      | refine (State.unstall_same (Blind.vitals.sub (by decide)) ..).kept.trans ?_ | refine (Kept.forEach _ _ _ ?_).trans ?_
      | refine Kept.ite ?_ ?_ | intro _
    | split
    | dsimp only

theorem State.drainRing_kept (s : State) (c : Nat) : Kept (State.drainRing s c) s := by
  unfold State.drainRing
  repeat' first
    | with_reducible first
      | exact Kept.refl _ | assumption | refine (State.drainHeld_kept ..).trans ?_ | refine (State.leaveFull_kept ..).trans ?_
      | refine Kept.ite ?_ ?_ | intro _
    | split
    | dsimp only

theorem State.judgeCiNow_kept (s : State) (c : Nat) (v : W32) (t : W64) : Kept (State.judgeCiNow s c v t) s := by
  unfold State.judgeCiNow
  repeat' first
    | with_reducible first
      | exact Kept.refl _ | assumption | refine (State.raise_kept ..).trans ?_ | refine (State.drainRing_kept ..).trans ?_
      | refine (State.cnt_same (Blind.vitals.sub (by decide)) ..).kept.trans ?_
      | refine (State.mirrorCqci_same (Blind.vitals.sub (by decide)) ..).kept.trans ?_
      | refine (State.setC_same (Blind.vitals.sub (by decide)) ..).kept.trans ?_
      | refine (State.setF_same (Blind.vitals.sub (by decide)) ..).kept.trans ?_ | refine Kept.ite ?_ ?_ | intro _
    | split
    | dsimp only

theorem State.judgeCi_kept (s : State) (c : Nat) (v : W32) (t : W64) : Kept (State.judgeCi s c v t) s := by
  unfold State.judgeCi
  repeat' first
    | with_reducible first
      | exact Kept.refl _ | assumption | refine (State.judgeCiNow_kept ..).trans ?_
      | refine (State.withPair_same (Blind.vitals.sub (by decide)) ..).kept.trans ?_ | refine Kept.ite ?_ ?_
      | refine Kept.ite_fst ?_ ?_ | intro _
    | split
    | dsimp only

theorem State.coalesce_kept (s : State) (c n : Nat) : Kept (State.coalesce s c n) s := by
  unfold State.coalesce
  repeat' first
    | with_reducible first
      | exact Kept.refl _ | assumption | refine (State.raiseVia_kept ..).trans ?_
      | refine (State.setC_same (Blind.vitals.sub (by decide)) ..).kept.trans ?_ | refine (Kept.foldl _ _ _ ?_).trans ?_
      | refine Kept.ite ?_ ?_ | intro _
    | split
    | dsimp only

theorem State.reheld_kept (s : State) (c : Nat) (k : Cqs) (m : List Held) (hm : ∀ h ∈ m, h.c = c)
    (hk : k.spill = m.take (spillCap - s.spillLevel (cqGroup c)) ++ s.cqs.spill) : Kept (s.withCqs k) s := by
  refine State.withCqs_kept (fun k g => ?_)
  have kg := k.2.2.2.1 g
  rw [hk, List.filter_append, List.length_append]
  by_cases hg : cqGroup c = g
  · subst hg
    have h1 := List.length_filter_le (fun h : Held => decide (cqGroup h.c = cqGroup c)) (m.take (spillCap - s.spillLevel (cqGroup c)))
    rw [List.length_take] at h1
    unfold spillCap at h1 ⊢
    unfold State.spillLevel at h1 kg ⊢
    omega
  · have h0 : (m.take (spillCap - s.spillLevel (cqGroup c))).filter (fun h => decide (cqGroup h.c = g)) = [] := by
      rw [List.filter_eq_nil_iff]
      intro h hh
      rw [hm h (List.mem_of_mem_take hh)]
      simpa using hg
    rw [h0]
    unfold State.spillLevel at kg
    simpa using kg


theorem State.breakRing_kept (s : State) (c : Nat) (mem : Bool) : Kept (State.breakRing s c mem) s := by
  have h1 := fun k => State.reheld_kept s c k ((s.cqs.issued.filter (fun y => decide (y.2.c = c))).map (·.2)) (by simp)
  unfold State.breakRing
  dsimp only
  refine (State.stallQueues_same (Blind.vitals.sub (by decide)) ..).kept.trans ?_
  refine (State.raise_kept ..).trans ((State.logIn_same (Blind.vitals.sub (by decide)) ..).kept.trans ?_)
  have h2 := fun x y z k hk => (State.peak_same (Blind.vitals.sub (by decide)) (State.setC (s.withCqs k) c x) y z).kept.trans
    ((State.setC_same (Blind.vitals.sub (by decide)) ..).kept.trans (h1 k hk))
  exact Kept.ite ((State.traceEv_kept ..).trans (h2 _ _ _ _ rfl)) (h2 _ _ _ _ rfl)

theorem State.endLater_kept (s : State) (q : Nat) (i : W32) : Kept (State.endLater s q i) s := by
  unfold State.endLater
  repeat' first
    | with_reducible first
      | exact Kept.refl _ | assumption | refine (State.withCache_stay (by rfl)).trans ?_ | intro _
    | split
    | dsimp only

theorem State.finish_kept (s : State) (q : Nat) (i : W32) : Kept (State.finish s q i) s := by
  unfold State.finish
  repeat' first
    | with_reducible first
      | exact Kept.refl _ | assumption | refine (State.endLater_kept ..).trans ?_ | refine (State.demand_kept ..).trans ?_
      | refine (State.postEntry_kept ..).trans ?_ | refine State.orWait_kept ?_ ?_ | refine Kept.ite ?_ ?_
      | refine Kept.ite_fst ?_ ?_ | intro _
    | split
    | dsimp only

theorem State.tryComplete_kept (s : State) (q : Nat) (i : W32) : Kept (State.tryComplete s q i) s := by
  unfold State.tryComplete
  repeat' first
    | with_reducible first
      | exact Kept.refl _ | assumption | refine (State.demand_kept ..).trans ?_ | refine (State.finish_kept ..).trans ?_
      | refine (State.endLater_kept ..).trans ?_ | refine (State.emit_same (Blind.vitals.sub (by decide)) ..).kept.trans ?_
      | refine (State.mirrorRec_same (Blind.vitals.sub (by decide)) ..).kept.trans ?_
      | refine (State.updFl_same (Blind.vitals.sub (by decide)) ..).kept.trans ?_ | refine State.orWait_kept ?_ ?_
      | refine Kept.ite ?_ ?_ | refine Kept.ite_fst ?_ ?_ | intro _
    | split
    | dsimp only

theorem State.settle_kept (s : State) (q : Nat) (i : W32) : Kept (State.settle s q i) s := by
  unfold State.settle
  repeat' first
    | with_reducible first
      | exact Kept.refl _ | assumption | refine (State.tryComplete_kept ..).trans ?_
      | refine (State.dropKept_same (Blind.vitals.sub (by decide)) ..).kept.trans ?_
      | refine (State.updFl_same (Blind.vitals.sub (by decide)) ..).kept.trans ?_ | refine Kept.ite ?_ ?_
      | refine Kept.ite_fst ?_ ?_ | intro _
    | split
    | dsimp only

theorem State.quarantine_kept (s : State) (q cause : Nat) (cidx : W32) (entry : Option W32) :
    Kept (State.quarantine s q cause cidx entry) s := by
  unfold State.quarantine
  repeat' first
    | with_reducible first
      | exact Kept.refl _ | assumption | refine (State.withdraw_kept ..).trans ?_ | refine (State.quarNote_kept ..).trans ?_
      | refine (State.settle_kept ..).trans ?_ | refine (State.snapQ_same (Blind.vitals.sub (by decide)) ..).kept.trans ?_
      | refine (State.updFl_same (Blind.vitals.sub (by decide)) ..).kept.trans ?_
      | refine (State.updQ_same (Blind.vitals.sub (by decide)) ..).kept.trans ?_ | intro _
    | split
    | dsimp only

theorem State.malformed_kept (s : State) (q cause : Nat) (cidx : W32) (entry : Option W32) :
    Kept (State.malformed s q cause cidx entry) s := by
  unfold State.malformed
  repeat' first
    | with_reducible first
      | exact Kept.refl _ | assumption | refine (State.quarantine_kept ..).trans ?_ | refine (State.halt_kept ..).trans ?_
      | refine (State.updQ_same (Blind.vitals.sub (by decide)) ..).kept.trans ?_ | refine Kept.ite ?_ ?_ | intro _
    | split
    | dsimp only

theorem State.land_kept (s : State) (pasid : Option Nat) (x : DataWrite) (poison : Bool) :
    Kept (State.land s pasid x poison) s := by
  unfold State.land
  repeat' first
    | with_reducible first
      | exact Kept.refl _ | assumption | refine (State.writeBytes_kept ..).trans ?_ | refine (Kept.forEach _ _ _ ?_).trans ?_
      | intro _
    | split
    | dsimp only

theorem State.seen_kept (s : State) (space p : Nat) (pasid : Option Nat) : Kept (State.seen s space p pasid) s := by
  unfold State.seen
  repeat' first
    | with_reducible first
      | exact Kept.refl _ | assumption | refine (State.land_kept ..).trans ?_ | refine (Kept.forEach _ _ _ ?_).trans ?_
      | intro _
    | split
    | dsimp only

theorem State.crossAll_kept (s : State) (h st : Nat) (judge : State → Nat × Nat → State × Bool) (x0 : List (Nat × Nat))
    (h_judge : ∀ s y0, Kept (judge s y0).1 s) :
    Kept (State.crossAll s h st judge x0).1 s := by
  induction x0 generalizing s with
  | nil => exact Kept.refl _
  | cons a r ih =>
    unfold State.crossAll
    exact Kept.ite_fst (h_judge ..) ((ih ..).trans (h_judge ..))

theorem State.noteFail_kept (s : State) (q i cfg : Nat) (c : ChkFail) (fold : Bool) :
    Kept (State.noteFail s q i cfg c fold) s := by
  unfold State.noteFail
  repeat' first
    | with_reducible first
      | exact Kept.refl _ | assumption | refine (State.raise_kept ..).trans ?_
      | refine (State.cnt_same (Blind.vitals.sub (by decide)) ..).kept.trans ?_
      | refine (State.log_same (Blind.vitals.sub (by decide)) ..).kept.trans ?_
      | refine (State.showChk_same (Blind.vitals.sub (by decide)) ..).kept.trans ?_ | refine Kept.ite ?_ ?_ | intro _
    | split
    | dsimp only

theorem State.failEng_kept (s : State) (e reason : Nat) : Kept (State.failEng s e reason) s := by
  unfold State.failEng
  repeat' first
    | with_reducible first
      | exact Kept.refl _ | assumption | refine (State.settle_kept ..).trans ?_
      | refine (State.replaceFailed_kept ..).trans ?_ | refine (State.fatal_kept ..).trans ?_
      | refine (State.giveBack_same (Blind.vitals.sub (by decide)) ..).kept.trans ?_
      | refine (State.log_same (Blind.vitals.sub (by decide)) ..).kept.trans ?_
      | refine (State.looseReads_same (Blind.vitals.sub (by decide)) ..).kept.trans ?_
      | refine (State.noLeave_same (Blind.vitals.sub (by decide)) ..).kept.trans ?_
      | refine (State.retireEng_same (Blind.vitals.sub (by decide)) ..).kept.trans ?_
      | refine (State.updFl_same (Blind.vitals.sub (by decide)) ..).kept.trans ?_
      | refine (State.withAdm_same (Blind.vitals.sub (by decide)) ..).kept.trans ?_ | refine Kept.ite ?_ ?_
      | refine Kept.ite_fst ?_ ?_ | intro _
    | split
    | dsimp only

theorem State.failRed_kept (s : State) (u reason : Nat) : Kept (State.failRed s u reason) s := by
  unfold State.failRed
  repeat' first
    | with_reducible first
      | exact Kept.refl _ | assumption | refine (State.replaceFailed_kept ..).trans ?_
      | refine (State.log_same (Blind.vitals.sub (by decide)) ..).kept.trans ?_
      | refine (State.noLeave_same (Blind.vitals.sub (by decide)) ..).kept.trans ?_
      | refine (State.retireRed_same (Blind.vitals.sub (by decide)) ..).kept.trans ?_ | refine Kept.ite ?_ ?_ | intro _
    | split
    | dsimp only

theorem State.chargeEng_kept (s : State) (e : Nat) : Kept (State.chargeEng s e) s := by
  unfold State.chargeEng
  repeat' first
    | with_reducible first
      | exact Kept.refl _ | assumption | refine (State.failEng_kept ..).trans ?_
      | refine (State.cnt_same (Blind.vitals.sub (by decide)) ..).kept.trans ?_ | refine Kept.ite ?_ ?_ | intro _
    | split
    | dsimp only

theorem State.chargeRed_kept (s : State) (u reason : Nat) : Kept (State.chargeRed s u reason) s := by
  unfold State.chargeRed
  repeat' first
    | with_reducible first
      | exact Kept.refl _ | assumption | refine (State.failRed_kept ..).trans ?_
      | refine (State.cnt_same (Blind.vitals.sub (by decide)) ..).kept.trans ?_ | refine Kept.ite ?_ ?_ | intro _
    | split
    | dsimp only

theorem State.chargeFail_kept (s : State) (e : Nat) (c : ChkFail) : Kept (State.chargeFail s e c) s := by
  unfold State.chargeFail
  repeat' first
    | with_reducible first
      | exact Kept.refl _ | assumption | refine (State.chargeEng_kept ..).trans ?_ | refine (State.chargeRed_kept ..).trans ?_
      | refine Kept.ite ?_ ?_ | intro _
    | split
    | dsimp only

theorem State.ctlHop_kept (s : State) (q i h : Nat) : Kept (State.ctlHop s q i h) s := by
  unfold State.ctlHop
  repeat' first
    | with_reducible first
      | exact Kept.refl _ | assumption | refine (State.noteFail_kept ..).trans ?_
      | refine (State.crossHop_same (Blind.vitals.sub (by decide)) ..).kept.trans ?_
      | refine (State.withFree_same (Blind.vitals.sub (by decide)) ..).kept.trans ?_ | refine Kept.ite ?_ ?_
      | refine Kept.ite_fst ?_ ?_ | intro _
    | split
    | dsimp only

theorem State.ctlHops_kept (s : State) (q i space : Nat) : Kept (State.ctlHops s q i space) s := by
  unfold State.ctlHops
  repeat' first
    | with_reducible first
      | exact Kept.refl _ | assumption | refine (State.ctlHop_kept ..).trans ?_ | intro _
    | split
    | dsimp only

theorem State.freeEngine_kept (s : State) (e : Nat) : Kept (State.freeEngine s e) s := by
  unfold State.freeEngine
  repeat' first
    | with_reducible first
      | exact Kept.refl _ | assumption | refine (State.spareIn_kept ..).trans ?_
      | refine (State.noLeave_same (Blind.vitals.sub (by decide)) ..).kept.trans ?_
      | refine (State.setEng_same (Blind.vitals.sub (by decide)) ..).kept.trans ?_ | refine Kept.ite ?_ ?_ | intro _
    | split
    | dsimp only

theorem State.endStitch_kept (s : State) (q : Nat) (i : W32) (e : Nat) : Kept (State.endStitch s q i e) s := by
  unfold State.endStitch
  repeat' first
    | with_reducible first
      | exact Kept.refl _ | assumption | refine (State.settle_kept ..).trans ?_ | refine (State.traceEv_kept ..).trans ?_
      | refine (State.freeEngine_kept ..).trans ?_ | refine (State.dropChannels_kept ..).trans ?_
      | refine (State.applyLine_same (Blind.vitals.sub (by decide)) ..).kept.trans ?_
      | refine (State.applyMode_same (Blind.vitals.sub (by decide)) ..).kept.trans ?_
      | refine (State.freeBursts_same (Blind.vitals.sub (by decide)) ..).kept.trans ?_
      | refine (State.looseReads_same (Blind.vitals.sub (by decide)) ..).kept.trans ?_
      | refine (State.setF_same (Blind.vitals.sub (by decide)) ..).kept.trans ?_
      | refine (State.updFl_same (Blind.vitals.sub (by decide)) ..).kept.trans ?_
      | refine (State.updQ_same (Blind.vitals.sub (by decide)) ..).kept.trans ?_ | refine State.orWait_kept ?_ ?_
      | refine Kept.ite ?_ ?_ | intro _
    | split
    | dsimp only

theorem State.showPace_kept (s : State) (q : Nat) (i : W32) (e : Nat) : Kept (State.showPace s q i e) s := by
  unfold State.showPace
  repeat' first
    | with_reducible first
      | exact Kept.refl _ | assumption | refine (State.dropChannels_kept ..).trans ?_
      | refine (State.setEng_same (Blind.vitals.sub (by decide)) ..).kept.trans ?_ | refine Kept.ite ?_ ?_ | intro _
    | split
    | dsimp only

theorem State.issueUnit_kept (s : State) (q : Nat) (i : W32) (e : Nat) (f : Flight) (x : Stitch) (b : Nat) :
    Kept (State.issueUnit s q i e f x b) s := by
  unfold State.issueUnit
  repeat' first
    | with_reducible first
      | exact Kept.refl _ | assumption | refine (State.noteFail_kept ..).trans ?_ | refine (State.chargeFail_kept ..).trans ?_
      | refine (State.arbBusy_same (Blind.vitals.sub (by decide)) ..).kept.trans ?_
      | refine (State.consume_same (Blind.vitals.sub (by decide)) ..).kept.trans ?_
      | refine (State.countExc_same (Blind.vitals.sub (by decide)) ..).kept.trans ?_
      | refine (State.endEntry_same (Blind.vitals.sub (by decide)) ..).kept.trans ?_
      | refine (State.issueBytes_same (Blind.vitals.sub (by decide)) ..).kept.trans ?_
      | refine (State.judgeIn_same (Blind.vitals.sub (by decide)) ..).kept.trans ?_
      | refine (State.judgeOut_same (Blind.vitals.sub (by decide)) ..).kept.trans ?_
      | refine (State.produce_same (Blind.vitals.sub (by decide)) ..).kept.trans ?_
      | refine (State.updFl_same (Blind.vitals.sub (by decide)) ..).kept.trans ?_
      | refine (State.updStitch_same (Blind.vitals.sub (by decide)) ..).kept.trans ?_ | refine Kept.getD ?_
      | refine Kept.ite ?_ ?_ | refine Kept.ite_fst ?_ ?_ | intro _
    | split
    | dsimp only

theorem State.issueUnits_kept (x0 : Nat) (s : State) (x2 : Nat) (x3 : W32) (x4 : Nat) (x5 : Bool) :
    Kept (State.issueUnits x0 s x2 x3 x4 x5) s := by
  induction x0 generalizing s x2 x3 x4 x5 with
  | zero => exact Kept.refl _
  | succ n ih =>
    unfold State.issueUnits
    repeat' first
      | with_reducible first
        | exact Kept.refl _ | assumption | refine (State.issueUnit_kept ..).trans ?_ | refine (ih ..).trans ?_
        | refine Kept.ite ?_ ?_ | intro _
      | split
      | dsimp only

theorem State.goBy_kept (m : Nat) (s : State) (q : Nat) (i : W32) (e : Nat) : Kept (State.goBy m s q i e) s := by
  unfold State.goBy
  repeat' first
    | with_reducible first
      | exact Kept.refl _ | assumption | refine (State.issueUnits_kept ..).trans ?_ | refine (State.showPace_kept ..).trans ?_
      | refine (State.ackBursts_same (Blind.vitals.sub (by decide)) ..).kept.trans ?_
      | refine (State.askGet_same (Blind.vitals.sub (by decide)) ..).kept.trans ?_
      | refine (State.issueReads_same (Blind.vitals.sub (by decide)) ..).kept.trans ?_
      | refine (State.letBursts_same (Blind.vitals.sub (by decide)) ..).kept.trans ?_ | refine Kept.ite ?_ ?_ | intro _
    | split
    | dsimp only

theorem State.goOn_kept (s : State) (q : Nat) (i : W32) (e : Nat) : Kept (State.goOn s q i e) s := by
  unfold State.goOn
  repeat' first
    | with_reducible first
      | exact Kept.refl _ | assumption | refine (State.goBy_kept ..).trans ?_ | intro _
    | split
    | dsimp only

theorem State.engineTurn_kept (s : State) (e : Nat) : Kept (State.engineTurn s e) s := by
  unfold State.engineTurn
  repeat' first
    | with_reducible first
      | exact Kept.refl _ | assumption | refine (State.issueUnits_kept ..).trans ?_ | refine (State.goBy_kept ..).trans ?_
      | refine (State.showPace_kept ..).trans ?_
      | refine (State.ackBursts_same (Blind.vitals.sub (by decide)) ..).kept.trans ?_ | refine Kept.ite ?_ ?_ | intro _
    | split
    | dsimp only

theorem State.turns_kept (x0 : Nat) (s : State) (x2 : Nat) : Kept (State.turns x0 s x2) s := by
  induction x0 generalizing s x2 with
  | zero => exact Kept.refl _
  | succ n ih =>
    unfold State.turns
    repeat' first
      | with_reducible first
        | exact Kept.refl _ | assumption | refine (State.engineTurn_kept ..).trans ?_
        | refine (State.withArb_same (Blind.vitals.sub (by decide)) ..).kept.trans ?_ | refine (ih ..).trans ?_ | intro _
      | split
      | dsimp only

theorem State.engineGo_kept (s : State) (e : Nat) : Kept (State.engineGo s e) s := by
  unfold State.engineGo
  repeat' first
    | with_reducible first
      | exact Kept.refl _ | assumption | refine (State.issueUnits_kept ..).trans ?_ | refine (State.goBy_kept ..).trans ?_
      | refine (State.turns_kept ..).trans ?_ | refine (Kept.foldl _ _ _ ?_).trans ?_ | intro _
    | split
    | dsimp only

theorem State.openStitch_kept (s : State) (q : Nat) (i : W32) (e : Nat) : Kept (State.openStitch s q i e) s := by
  unfold State.openStitch
  repeat' first
    | with_reducible first
      | exact Kept.refl _ | assumption | refine (State.endStitch_kept ..).trans ?_ | refine (State.goOn_kept ..).trans ?_
      | refine (State.malformed_kept ..).trans ?_
      | refine (State.endEntry_same (Blind.vitals.sub (by decide)) ..).kept.trans ?_
      | refine (State.updStitch_same (Blind.vitals.sub (by decide)) ..).kept.trans ?_ | refine Kept.ite ?_ ?_ | intro _
    | split
    | dsimp only

theorem State.bindUnit_kept (s : State) (q : Nat) (i : W32) (e : Nat) : Kept (State.bindUnit s q i e) s := by
  unfold State.bindUnit
  repeat' first
    | with_reducible first
      | exact Kept.refl _ | assumption | refine (State.openStitch_kept ..).trans ?_ | refine (State.traceEv_kept ..).trans ?_
      | refine (State.setEng_same (Blind.vitals.sub (by decide)) ..).kept.trans ?_
      | refine (State.setF_same (Blind.vitals.sub (by decide)) ..).kept.trans ?_
      | refine (State.updFl_same (Blind.vitals.sub (by decide)) ..).kept.trans ?_
      | refine (State.withArb_same (Blind.vitals.sub (by decide)) ..).kept.trans ?_ | refine Kept.ite ?_ ?_ | intro _
    | split
    | dsimp only

theorem State.bindEntry_kept (s : State) (q : Nat) (i : W32) (e : Nat) : Kept (State.bindEntry s q i e) s := by
  unfold State.bindEntry
  repeat' first
    | with_reducible first
      | exact Kept.refl _ | assumption | refine (State.settle_kept ..).trans ?_ | refine (State.demand_kept ..).trans ?_
      | refine (State.bindUnit_kept ..).trans ?_
      | refine (State.beginEntry_same (Blind.vitals.sub (by decide)) ..).kept.trans ?_
      | refine (State.endEntry_same (Blind.vitals.sub (by decide)) ..).kept.trans ?_ | refine Kept.ite ?_ ?_
      | refine Kept.ite_fst ?_ ?_ | intro _
    | split
    | dsimp only

theorem State.takeNow_kept (s : State) (q : Nat) (i : W32) : Kept (State.takeNow s q i) s := by
  unfold State.takeNow
  repeat' first
    | with_reducible first
      | exact Kept.refl _ | assumption | refine (State.settle_kept ..).trans ?_ | refine (State.demand_kept ..).trans ?_
      | refine (State.tryComplete_kept ..).trans ?_
      | refine (State.addCtr_same (Blind.vitals.sub (by decide)) ..).kept.trans ?_
      | refine (State.beginEntry_same (Blind.vitals.sub (by decide)) ..).kept.trans ?_
      | refine (State.emit_same (Blind.vitals.sub (by decide)) ..).kept.trans ?_
      | refine (State.updFl_same (Blind.vitals.sub (by decide)) ..).kept.trans ?_ | refine Kept.ite ?_ ?_
      | refine Kept.ite_fst ?_ ?_ | intro _
    | split
    | dsimp only

theorem State.takeUp_kept (s : State) (q : Nat) (i : W32) : Kept (State.takeUp s q i) s := by
  unfold State.takeUp
  repeat' first
    | with_reducible first
      | exact Kept.refl _ | assumption | refine (State.takeNow_kept ..).trans ?_ | refine State.orWait_kept ?_ ?_
      | refine Kept.ite ?_ ?_ | intro _
    | split
    | dsimp only

theorem State.writeRecs_kept (s : State) (x : CqCtx) (l : List (W32 × Held)) : Kept (State.writeRecs s x l) s := by
  unfold State.writeRecs
  repeat' first
    | with_reducible first
      | exact Kept.refl _ | assumption | refine (State.ctlHops_kept ..).trans ?_ | refine (State.writeBytes_kept ..).trans ?_
      | refine (Kept.foldl _ _ _ ?_).trans ?_ | refine (Kept.foldl_fst _ _ _ ?_).trans ?_ | intro _
    | split
    | dsimp only

theorem State.writeBack_kept (s : State) (c : Nat) (x : CqCtx) (last : W32 × Held) : Kept (State.writeBack s c x last) s := by
  unfold State.writeBack
  repeat' first
    | with_reducible first
      | exact Kept.refl _ | assumption | refine (State.ctlHops_kept ..).trans ?_
      | refine (State.withCqs_stay (by rfl)).trans ?_ | intro _
    | split
    | dsimp only

theorem State.landBack_kept (s : State) (c : Nat) : Kept (State.landBack s c) s := by
  unfold State.landBack
  repeat' first
    | with_reducible first
      | exact Kept.refl _ | assumption | refine (State.writeBytes_kept ..).trans ?_
      | refine (State.breakRing_kept ..).trans ?_ | refine (State.cnt_same (Blind.vitals.sub (by decide)) ..).kept.trans ?_
      | refine (State.withCqs_stay (by rfl)).trans ?_ | refine Kept.ite ?_ ?_ | refine Kept.ite_fst ?_ ?_ | intro _
    | split
    | dsimp only

theorem State.landBacks_kept (s : State) : Kept (State.landBacks s) s := by
  unfold State.landBacks
  repeat' first
    | with_reducible first
      | exact Kept.refl _ | assumption | refine (State.landBack_kept ..).trans ?_ | refine (Kept.forEach _ _ _ ?_).trans ?_
      | intro _
    | split
    | dsimp only

theorem State.batchNow_kept (s : State) (c : Nat) (l : List (W32 × Held)) (last : W32 × Held) :
    Kept (State.batchNow s c l last) s := by
  unfold State.batchNow
  repeat' first
    | with_reducible first
      | exact Kept.refl _ | assumption | refine (State.writeBack_kept ..).trans ?_ | refine (State.coalesce_kept ..).trans ?_
      | refine (State.mirrorDelta_same (Blind.vitals.sub (by decide)) ..).kept.trans ?_
      | refine (State.release_same (Blind.vitals.sub (by decide)) ..).kept.trans ?_ | refine (Kept.forEach _ _ _ ?_).trans ?_
      | refine Kept.ite ?_ ?_ | refine Kept.ite_fst ?_ ?_ | intro _
    | split
    | dsimp only

theorem State.batchDone_kept (s : State) (c : Nat) (l : List (W32 × Held)) (last : W32 × Held) :
    Kept (State.batchDone s c l last) s := by
  unfold State.batchDone
  repeat' first
    | with_reducible first
      | exact Kept.refl _ | assumption | refine (State.batchNow_kept ..).trans ?_
      | refine (State.withPair_same (Blind.vitals.sub (by decide)) ..).kept.trans ?_ | refine Kept.ite ?_ ?_ | intro _
    | split
    | dsimp only

theorem State.ackRecs_kept (s : State) (c : Nat) : Kept (State.ackRecs s c) s := by
  unfold State.ackRecs
  dsimp only
  have hl := State.landBack_kept s c
  generalize s.landBack c = u at hl ⊢
  split
  · exact hl
  · refine Kept.ite hl ?_
    rename_i last _
    have e : (u.arbBusy (u.cctx c).res 69).cqs = u.cqs := State.arbBusy_same (Blind.cqs.sub (by decide)) ..
    have h1 : Kept ((u.arbBusy (u.cctx c).res 69).withCqs { u.cqs with issued := u.cqs.issued.filter (fun y => !decide (y ∈ u.batchOf c)) }) s :=
      (State.withCqs_stay (by rw [e])).trans ((State.arbBusy_same (Blind.vitals.sub (by decide)) ..).kept.trans hl)
    generalize ((u.arbBusy (u.cctx c).res 69).withCqs { u.cqs with issued := u.cqs.issued.filter (fun y => !decide (y ∈ u.batchOf c)) }) = v at h1 ⊢
    have h2 : ∀ i, Kept ((v.cnt IZ_MEMP_STAT_addr_err).withCqs { v.cqs with issued := i }) s := fun i =>
      (State.withCqs_stay (by rfl)).trans ((State.cnt_same (Blind.vitals.sub (by decide)) ..).kept.trans h1)
    exact Kept.ite (Kept.ite ((State.breakRing_kept ..).trans (h2 _)) (h2 _))
      (Kept.ite ((State.batchDone_kept ..).trans ((State.writeRecs_kept ..).trans h1)) ((State.writeRecs_kept ..).trans h1))

theorem State.settleRing_kept (x0 : Nat) (s : State) (x2 : Nat) : Kept (State.settleRing x0 s x2) s := by
  induction x0 generalizing s x2 with
  | zero => 
    unfold State.settleRing
    repeat' first
      | with_reducible first
        | exact Kept.refl _ | assumption | refine (State.landBack_kept ..).trans ?_ | refine (State.ackRecs_kept ..).trans ?_
        | refine Kept.ite ?_ ?_ | intro _
      | split
      | dsimp only
  | succ n ih =>
    unfold State.settleRing
    repeat' first
      | with_reducible first
        | exact Kept.refl _ | assumption | refine (State.landBack_kept ..).trans ?_ | refine (State.ackRecs_kept ..).trans ?_
        | refine (ih ..).trans ?_ | refine Kept.ite ?_ ?_ | intro _
      | split
      | dsimp only

theorem execRecordWriteAck_kept (c : Nat) (s : State) : KeptR (execRecordWriteAck c s) s := by
  unfold execRecordWriteAck
  repeat' first
    | with_reducible first
      | refine KeptR.guarded ?_ ?_ | refine KeptR.next ?_ | refine KeptR.ite ?_ ?_ | exact Kept.refl _ | assumption
      | refine (State.ackRecs_kept ..).trans ?_ | intro _
    | split
    | dsimp only

theorem execRingBroken_kept (c : Nat) (mem : Bool) (s : State) : KeptR (execRingBroken c mem s) s := by
  unfold execRingBroken
  repeat' first
    | with_reducible first
      | refine KeptR.guarded ?_ ?_ | refine KeptR.next ?_ | refine KeptR.ite ?_ ?_ | exact Kept.refl _ | assumption
      | refine (State.breakRing_kept ..).trans ?_ | refine (State.cnt_same (Blind.vitals.sub (by decide)) ..).kept.trans ?_
      | refine Kept.ite ?_ ?_ | refine Kept.ite_fst ?_ ?_ | intro _
    | split
    | dsimp only

theorem execCqCoalTimer_kept (c : Nat) (s : State) : KeptR (execCqCoalTimer c s) s := by
  unfold execCqCoalTimer
  repeat' first
    | with_reducible first
      | refine KeptR.guarded ?_ ?_ | refine KeptR.next ?_ | refine KeptR.ite ?_ ?_ | exact Kept.refl _ | assumption
      | refine (State.raiseVia_kept ..).trans ?_ | refine (State.setC_same (Blind.vitals.sub (by decide)) ..).kept.trans ?_
      | intro _
    | split
    | dsimp only

theorem State.arrivalBad_kept (s : State) (w : W64) (cause : Nat) : Kept (State.arrivalBad s w cause) s := by
  unfold State.arrivalBad
  repeat' first
    | with_reducible first
      | exact Kept.refl _ | assumption | refine (State.raise_kept ..).trans ?_
      | refine (State.cnt_same (Blind.vitals.sub (by decide)) ..).kept.trans ?_
      | refine (State.setF_same (Blind.vitals.sub (by decide)) ..).kept.trans ?_ | intro _
    | split
    | dsimp only

theorem State.arriveNow_kept (s : State) (w : W64) (t : W64) : Kept (State.arriveNow s w t) s := by
  unfold State.arriveNow
  repeat' first
    | with_reducible first
      | exact Kept.refl _ | assumption | refine (State.arrivalBad_kept ..).trans ?_
      | refine (State.mirrorCtrAt_same (Blind.vitals.sub (by decide)) ..).kept.trans ?_
      | refine (State.setCtr_same (Blind.vitals.sub (by decide)) ..).kept.trans ?_ | refine Kept.ite ?_ ?_ | intro _
    | split
    | dsimp only

theorem State.applyArrival_kept (s : State) (w : W64) (t : W64) : Kept (State.applyArrival s w t) s := by
  unfold State.applyArrival
  repeat' first
    | with_reducible first
      | exact Kept.refl _ | assumption | refine (State.arriveNow_kept ..).trans ?_
      | refine (State.withPair_same (Blind.vitals.sub (by decide)) ..).kept.trans ?_ | refine Kept.ite ?_ ?_ | intro _
    | split
    | dsimp only

theorem State.stray_kept (s : State) (q cause : Nat) : Kept (State.stray s q cause) s := by
  unfold State.stray
  repeat' first
    | with_reducible first
      | exact Kept.refl _ | assumption | refine (State.raise_kept ..).trans ?_
      | refine (State.cnt_same (Blind.vitals.sub (by decide)) ..).kept.trans ?_
      | refine (State.setF_same (Blind.vitals.sub (by decide)) ..).kept.trans ?_ | intro _
    | split
    | dsimp only

theorem State.applyRing_kept (s : State) (q : Nat) (t : W64) : Kept (State.applyRing s q t) s := by
  unfold State.applyRing
  repeat' first
    | with_reducible first
      | exact Kept.refl _ | assumption | refine (State.malformed_kept ..).trans ?_
      | refine (State.snapOrWait_same (Blind.vitals.sub (by decide)) ..).kept.trans ?_
      | refine (State.updQ_same (Blind.vitals.sub (by decide)) ..).kept.trans ?_ | refine Kept.ite ?_ ?_ | intro _
    | split
    | dsimp only

theorem State.readCi_kept (s : State) (q size : Nat) : Kept (State.readCi s q size) s := by
  unfold State.readCi
  repeat' first
    | with_reducible first
      | exact Kept.refl _ | assumption | refine (State.stray_kept ..).trans ?_
      | refine (State.ret_same (Blind.vitals.sub (by decide)) ..).kept.trans ?_
      | refine (State.withFree_same (Blind.vitals.sub (by decide)) ..).kept.trans ?_ | refine Kept.ite ?_ ?_ | intro _
    | split
    | dsimp only

theorem State.applyIntake_kept (s : State) (c : Instr) (t : W64) : Kept (State.applyIntake s c t) s := by
  unfold State.applyIntake
  repeat' first
    | with_reducible first
      | exact Kept.refl _ | assumption | refine (State.readCi_kept ..).trans ?_ | refine (State.judgeCi_kept ..).trans ?_
      | refine (State.applyRing_kept ..).trans ?_ | refine (State.touch_kept ..).trans ?_
      | refine (State.applyArrival_kept ..).trans ?_ | refine (State.stray_kept ..).trans ?_
      | refine (State.applyPi_same (Blind.vitals.sub (by decide)) ..).kept.trans ?_
      | refine (State.applyTrigRead_same (Blind.vitals.sub (by decide)) ..).kept.trans ?_
      | refine (Kept.foldl _ _ _ ?_).trans ?_ | refine (Kept.foldl_fst _ _ _ ?_).trans ?_ | refine Kept.ite ?_ ?_
      | refine Kept.ite_fst ?_ ?_ | intro _
    | split
    | dsimp only

theorem State.intakeAt_kept (s : State) (c : Instr) (t : W64) : Kept (State.intakeAt s c t) s := by
  unfold State.intakeAt
  repeat' first
    | with_reducible first
      | exact Kept.refl _ | assumption | refine (State.stray_kept ..).trans ?_ | refine (State.applyIntake_kept ..).trans ?_
      | refine (State.countLookup_same (Blind.vitals.sub (by decide)) ..).kept.trans ?_
      | refine (State.withCache_stay (by rfl)).trans ?_ | refine Kept.getD ?_ | refine Kept.ite ?_ ?_ | intro _
    | split
    | dsimp only

theorem State.intake_kept (s : State) (c : Instr) : Kept (State.intake s c) s := by
  unfold State.intake
  repeat' first
    | with_reducible first
      | exact Kept.refl _ | assumption | refine (State.intakeAt_kept ..).trans ?_ | intro _
    | split
    | dsimp only

theorem State.arrivalIn_kept (s : State) (w : W64) : Kept (State.arrivalIn s w) s := by
  unfold State.arrivalIn
  repeat' first
    | with_reducible first
      | exact Kept.refl _ | assumption | refine (State.intakeAt_kept ..).trans ?_ | refine Kept.ite ?_ ?_ | intro _
    | split
    | dsimp only

theorem State.readTrig_kept (s : State) (c : Instr) : Kept (State.readTrig s c) s := by
  unfold State.readTrig
  repeat' first
    | with_reducible first
      | exact Kept.refl _ | assumption | refine (State.intake_kept ..).trans ?_
      | refine (State.ret_same (Blind.vitals.sub (by decide)) ..).kept.trans ?_ | refine Kept.ite ?_ ?_ | intro _
    | split
    | dsimp only

theorem State.accept_kept (s : State) (p : Nat) (parityOk : Bool) (c : Instr) : Kept (State.accept s p parityOk c) s := by
  unfold State.accept
  repeat' first
    | with_reducible first
      | exact Kept.refl _ | assumption | refine (State.intake_kept ..).trans ?_ | refine (State.stray_kept ..).trans ?_
      | refine (State.raise_kept ..).trans ?_ | refine (State.cnt_same (Blind.vitals.sub (by decide)) ..).kept.trans ?_
      | refine (State.peak_same (Blind.vitals.sub (by decide)) ..).kept.trans ?_ | refine Kept.ite ?_ ?_ | intro _
    | split
    | dsimp only

theorem State.aperture_kept (s : State) (p : Nat) (parityOk : Bool) (c : Instr) : Kept (State.aperture s p parityOk c) s := by
  unfold State.aperture
  repeat' first
    | with_reducible first
      | exact Kept.refl _ | assumption | refine (State.accept_kept ..).trans ?_
      | refine (State.withCache_stay (by rfl)).trans ?_ | refine Kept.ite ?_ ?_ | intro _
    | split
    | dsimp only

theorem State.takeBack_kept (x0 : Nat) (s : State) : Kept (State.takeBack x0 s) s := by
  induction x0 generalizing s with
  | zero => exact Kept.refl _
  | succ n ih =>
    unfold State.takeBack
    repeat' first
      | with_reducible first
        | exact Kept.refl _ | assumption | refine (State.accept_kept ..).trans ?_ | refine (ih ..).trans ?_
        | refine (State.withCache_stay (by rfl)).trans ?_ | intro _
      | split
      | dsimp only

theorem execPiWrite_kept (p : Fin 2) (q : BitVec 21) (pi : W32) (parityOk : Bool) (s : State) :
    KeptR (execPiWrite p q pi parityOk s) s := by
  unfold execPiWrite
  repeat' first
    | with_reducible first
      | refine KeptR.guarded ?_ ?_ | refine KeptR.next ?_ | refine KeptR.ite ?_ ?_ | exact Kept.refl _ | assumption
      | refine (State.aperture_kept ..).trans ?_ | intro _
    | split
    | dsimp only

theorem execRing_kept (p : Fin 2) (q : BitVec 21) (parityOk : Bool) (s : State) : KeptR (execRing p q parityOk s) s := by
  unfold execRing
  repeat' first
    | with_reducible first
      | refine KeptR.guarded ?_ ?_ | refine KeptR.next ?_ | refine KeptR.ite ?_ ?_ | exact Kept.refl _ | assumption
      | refine (State.aperture_kept ..).trans ?_ | intro _
    | split
    | dsimp only

theorem execPiAndRing_kept (p : Fin 2) (q : BitVec 21) (size : Nat) (pi : W32) (parityOk : Bool) (s : State) :
    KeptR (execPiAndRing p q size pi parityOk s) s := by
  unfold execPiAndRing
  repeat' first
    | with_reducible first
      | refine KeptR.guarded ?_ ?_ | refine KeptR.next ?_ | refine KeptR.ite ?_ ?_ | exact Kept.refl _ | assumption
      | refine (State.aperture_kept ..).trans ?_ | intro _
    | split
    | dsimp only

theorem execCqCiWrite_kept (p : Fin 2) (q : BitVec 21) (v : W32) (parityOk : Bool) (s : State) :
    KeptR (execCqCiWrite p q v parityOk s) s := by
  unfold execCqCiWrite
  repeat' first
    | with_reducible first
      | refine KeptR.guarded ?_ ?_ | refine KeptR.next ?_ | refine KeptR.ite ?_ ?_ | exact Kept.refl _ | assumption
      | refine (State.aperture_kept ..).trans ?_ | intro _
    | split
    | dsimp only

theorem execApertureMisformedAccess_kept (p : Fin 2) (q : BitVec 21) (write : ApAccess) (ofs size : Nat) (s : State) :
    KeptR (execApertureMisformedAccess p q write ofs size s) s := by
  unfold execApertureMisformedAccess
  repeat' first
    | with_reducible first
      | refine KeptR.guarded ?_ ?_ | refine KeptR.next ?_ | refine KeptR.ite ?_ ?_ | exact Kept.refl _ | assumption
      | refine (State.readCi_kept ..).trans ?_ | refine (State.intake_kept ..).trans ?_
      | refine (State.aperture_kept ..).trans ?_
      | refine (State.beginRead_same (Blind.vitals.sub (by decide)) ..).kept.trans ?_
      | refine (State.ret_same (Blind.vitals.sub (by decide)) ..).kept.trans ?_ | refine Kept.ite ?_ ?_
      | refine Kept.ite_fst ?_ ?_ | intro _
    | split
    | dsimp only

theorem State.decodeOne_kept (s : State) (q : Nat) (i : W32) : Kept (State.decodeOne s q i) s := by
  unfold State.decodeOne
  repeat' first
    | with_reducible first
      | exact Kept.refl _ | assumption | refine (State.parkOrWait_kept ..).trans ?_
      | refine (State.malformed_kept ..).trans ?_ | refine (State.updFl_same (Blind.vitals.sub (by decide)) ..).kept.trans ?_
      | refine Kept.ite ?_ ?_ | intro _
    | split
    | dsimp only

theorem State.decodeRun_kept (x0 : Nat) (s : State) (x2 : Nat) : Kept (State.decodeRun x0 s x2) s := by
  induction x0 generalizing s x2 with
  | zero => exact Kept.refl _
  | succ n ih =>
    unfold State.decodeRun
    repeat' first
      | with_reducible first
        | exact Kept.refl _ | assumption | refine (State.decodeOne_kept ..).trans ?_ | refine (ih ..).trans ?_
        | refine Kept.ite ?_ ?_ | intro _
      | split
      | dsimp only

theorem State.decodeTick_kept (s : State) : Kept (State.decodeTick s) s := by
  unfold State.decodeTick
  repeat' first
    | with_reducible first
      | exact Kept.refl _ | assumption | refine (State.decodeRun_kept ..).trans ?_ | refine (Kept.forEach _ _ _ ?_).trans ?_
      | intro _
    | split
    | dsimp only

theorem State.takeAdmin_kept (s : State) (raw : List Byte) : Kept (State.takeAdmin s raw) s := by
  unfold State.takeAdmin
  repeat' first
    | with_reducible first
      | exact Kept.refl _ | assumption | refine (State.malformed_kept ..).trans ?_
      | refine (State.acceptMtOf_same (Blind.vitals.sub (by decide)) ..).kept.trans ?_
      | refine (State.lineUp_same (Blind.vitals.sub (by decide)) ..).kept.trans ?_
      | refine (State.updQ_same (Blind.vitals.sub (by decide)) ..).kept.trans ?_
      | refine (State.withAdm_same (Blind.vitals.sub (by decide)) ..).kept.trans ?_ | intro _
    | split
    | dsimp only

theorem State.takeAll_kept (s : State) (q : Nat) (x0 : List (List Byte)) : Kept (State.takeAll s q x0) s := by
  induction x0 generalizing s q with
  | nil => exact Kept.refl _
  | cons a r ih =>
    unfold State.takeAll
    repeat' first
      | with_reducible first
        | exact Kept.refl _ | assumption | refine (State.takeAdmin_kept ..).trans ?_
        | refine (State.takeEntry_same (Blind.vitals.sub (by decide)) ..).kept.trans ?_ | refine (ih ..).trans ?_
        | refine Kept.ite ?_ ?_ | intro _
      | split
      | dsimp only

theorem State.fetchFail_kept (s : State) (q : Nat) (f : PortFail) : Kept (State.fetchFail s q f) s := by
  unfold State.fetchFail
  repeat' first
    | with_reducible first
      | exact Kept.refl _ | assumption | refine (State.malformed_kept ..).trans ?_ | intro _
    | split
    | dsimp only

theorem execEntryFetchDone_kept (q : BitVec 22) (ans : ReadAns) (s : State) : KeptR (execEntryFetchDone q ans s) s := by
  unfold execEntryFetchDone
  repeat' first
    | with_reducible first
      | refine KeptR.guarded ?_ ?_ | refine KeptR.next ?_ | refine KeptR.ite ?_ ?_ | exact Kept.refl _ | assumption
      | refine (State.fetchFail_kept ..).trans ?_ | refine (State.decodeRun_kept ..).trans ?_
      | refine (State.takeAll_kept ..).trans ?_ | refine (State.arbBusy_same (Blind.vitals.sub (by decide)) ..).kept.trans ?_
      | refine (State.backRead_same (Blind.vitals.sub (by decide)) ..).kept.trans ?_
      | refine (State.portRead_same (Blind.vitals.sub (by decide)) ..).kept.trans ?_ | refine Kept.ite ?_ ?_
      | refine Kept.ite_fst ?_ ?_ | intro _
    | split
    | dsimp only

theorem execParkFullRetry_kept (q : BitVec 22) (s : State) : KeptR (execParkFullRetry q s) s := by
  unfold execParkFullRetry
  repeat' first
    | with_reducible first
      | refine KeptR.guarded ?_ ?_ | refine KeptR.next ?_ | refine KeptR.ite ?_ ?_ | exact Kept.refl _ | assumption
      | refine (State.decodeRun_kept ..).trans ?_ | refine (State.parkOrWait_kept ..).trans ?_ | refine Kept.ite ?_ ?_
      | refine Kept.ite_fst ?_ ?_ | intro _
    | split
    | dsimp only

theorem State.doAct_kept (s : State) (x0 : MirrorAct) : Kept (State.doAct s x0) s := by
  unfold State.doAct
  repeat' first
    | with_reducible first
      | exact Kept.refl _ | assumption | refine (State.judgeCiNow_kept ..).trans ?_
      | refine (State.arriveNow_kept ..).trans ?_ | refine (State.batchNow_kept ..).trans ?_
      | refine (State.stallNow_same (Blind.vitals.sub (by decide)) ..).kept.trans ?_
      | refine (State.unstallNow_same (Blind.vitals.sub (by decide)) ..).kept.trans ?_ | refine Kept.ite ?_ ?_ | intro _
    | split
    | dsimp only

theorem State.serveActs_kept (x0 : Nat) (s : State) : Kept (State.serveActs x0 s) s := by
  induction x0 generalizing s with
  | zero => exact Kept.refl _
  | succ n ih =>
    unfold State.serveActs
    repeat' first
      | with_reducible first
        | exact Kept.refl _ | assumption | refine (State.doAct_kept ..).trans ?_
        | refine (State.withPair_same (Blind.vitals.sub (by decide)) ..).kept.trans ?_ | refine (ih ..).trans ?_
        | refine Kept.ite ?_ ?_ | intro _
      | split
      | dsimp only

theorem State.mirrorRetry_kept (s : State) : Kept (State.mirrorRetry s) s := by
  unfold State.mirrorRetry
  repeat' first
    | with_reducible first
      | exact Kept.refl _ | assumption | refine (State.serveActs_kept ..).trans ?_ | refine (State.finish_kept ..).trans ?_
      | refine (State.advanceCi_same (Blind.vitals.sub (by decide)) ..).kept.trans ?_
      | refine (State.retryMode_same (Blind.vitals.sub (by decide)) ..).kept.trans ?_
      | refine (State.serveOwed_same (Blind.vitals.sub (by decide)) ..).kept.trans ?_
      | refine (State.serveRings_same (Blind.vitals.sub (by decide)) ..).kept.trans ?_ | refine State.orWait_kept ?_ ?_
      | refine (Kept.forEach _ _ _ ?_).trans ?_ | intro _
    | split
    | dsimp only

theorem State.mirrorTick_kept (s : State) : Kept (State.mirrorTick s) s := by
  unfold State.mirrorTick
  repeat' first
    | with_reducible first
      | exact Kept.refl _ | assumption | refine (State.mirrorRetry_kept ..).trans ?_ | refine State.orWait_kept ?_ ?_
      | refine Kept.ite ?_ ?_ | intro _
    | split
    | dsimp only

theorem State.setSend_kept (s : State) (st : Nat) : Kept (State.setSend s st) s := by
  unfold State.setSend
  repeat' first
    | with_reducible first
      | exact Kept.refl _ | assumption | refine (State.mirrorRetry_kept ..).trans ?_
      | refine (State.announce_same (Blind.vitals.sub (by decide)) ..).kept.trans ?_
      | refine (State.dropMirror_same (Blind.vitals.sub (by decide)) ..).kept.trans ?_
      | refine (State.setF_same (Blind.vitals.sub (by decide)) ..).kept.trans ?_ | refine Kept.ite ?_ ?_ | intro _
    | split
    | dsimp only

theorem State.countLoss_kept (s : State) : Kept (State.countLoss s) s := by
  unfold State.countLoss
  repeat' first
    | with_reducible first
      | exact Kept.refl _ | assumption | refine (State.raise_kept ..).trans ?_
      | refine (State.cnt_same (Blind.vitals.sub (by decide)) ..).kept.trans ?_ | intro _
    | split
    | dsimp only

theorem State.enterLost_kept (s : State) : Kept (State.enterLost s) s := by
  unfold State.enterLost
  repeat' first
    | with_reducible first
      | exact Kept.refl _ | assumption | refine (State.setSend_kept ..).trans ?_ | refine (State.countLoss_kept ..).trans ?_
      | refine (State.setKeep_same (Blind.vitals.sub (by decide)) ..).kept.trans ?_ | refine Kept.ite ?_ ?_ | intro _
    | split
    | dsimp only

theorem State.goOff_kept (s : State) : Kept (State.goOff s) s := by
  unfold State.goOff
  repeat' first
    | with_reducible first
      | exact Kept.refl _ | assumption | refine (State.setSend_kept ..).trans ?_
      | refine (State.announce_same (Blind.vitals.sub (by decide)) ..).kept.trans ?_
      | refine (State.setKeep_same (Blind.vitals.sub (by decide)) ..).kept.trans ?_ | refine Kept.ite ?_ ?_ | intro _
    | split
    | dsimp only

theorem State.startSync_kept (s : State) : Kept (State.startSync s) s := by
  unfold State.startSync
  repeat' first
    | with_reducible first
      | exact Kept.refl _ | assumption | refine (State.setSend_kept ..).trans ?_ | refine (State.goOff_kept ..).trans ?_
      | refine (State.announce_same (Blind.vitals.sub (by decide)) ..).kept.trans ?_
      | refine (State.dropMirror_same (Blind.vitals.sub (by decide)) ..).kept.trans ?_
      | refine (State.setKeep_same (Blind.vitals.sub (by decide)) ..).kept.trans ?_
      | refine (State.withPair_same (Blind.vitals.sub (by decide)) ..).kept.trans ?_ | refine Kept.ite ?_ ?_ | intro _
    | split
    | dsimp only

theorem State.takeAck_kept (s : State) (a : W32) : Kept (State.takeAck s a) s := by
  unfold State.takeAck
  repeat' first
    | with_reducible first
      | exact Kept.refl _ | assumption | refine (State.setSend_kept ..).trans ?_ | refine (State.mirrorRetry_kept ..).trans ?_
      | refine (State.raise_kept ..).trans ?_ | refine (State.mirroredTo_same (Blind.vitals.sub (by decide)) ..).kept.trans ?_
      | refine (State.snapObj_same (Blind.vitals.sub (by decide)) ..).kept.trans ?_
      | refine (State.withPair_same (Blind.vitals.sub (by decide)) ..).kept.trans ?_ | refine (Kept.forEach _ _ _ ?_).trans ?_
      | refine Kept.ite ?_ ?_ | refine Kept.ite_fst ?_ ?_ | intro _
    | split
    | dsimp only

theorem State.takeOver_kept (s : State) : Kept (State.takeOver s) s := by
  unfold State.takeOver
  repeat' first
    | with_reducible first
      | exact Kept.refl _ | assumption | refine (State.setSend_kept ..).trans ?_ | refine (State.countLoss_kept ..).trans ?_
      | refine (State.checkDrain_same (Blind.vitals.sub (by decide)) ..).kept.trans ?_
      | refine (State.setF_same (Blind.vitals.sub (by decide)) ..).kept.trans ?_
      | refine (State.startAdopt_same (Blind.vitals.sub (by decide)) ..).kept.trans ?_
      | refine (State.withPair_same (Blind.vitals.sub (by decide)) ..).kept.trans ?_ | refine Kept.ite ?_ ?_ | intro _
    | split
    | dsimp only

theorem State.condition_kept (s : State) : Kept (State.condition s) s := by
  unfold State.condition
  repeat' first
    | with_reducible first
      | exact Kept.refl _ | assumption | refine (State.takeOver_kept ..).trans ?_ | refine (State.raise_kept ..).trans ?_
      | refine (State.cnt_same (Blind.vitals.sub (by decide)) ..).kept.trans ?_
      | refine (State.setF_same (Blind.vitals.sub (by decide)) ..).kept.trans ?_ | refine Kept.ite ?_ ?_ | intro _
    | split
    | dsimp only

theorem State.endAdoption_kept (s : State) : Kept (State.endAdoption s) s := by
  unfold State.endAdoption
  dsimp only
  have h0 : Kept (forEach ((s.cqs.issued.map (fun y => y.2.c) ++ s.cqs.wbs.map (·.1)).dedup.filter (fun c => decide (2 ^ 18 ≤ c)))
      (fun c s => s.settleRing s.cqs.issued.length c) s) s :=
    Kept.forEach _ _ _ (fun c s => State.settleRing_kept ..)
  generalize (forEach ((s.cqs.issued.map (fun y => y.2.c) ++ s.cqs.wbs.map (·.1)).dedup.filter (fun c => decide (2 ^ 18 ≤ c)))
      (fun c s => s.settleRing s.cqs.issued.length c) s) = u at h0 ⊢
  refine (State.startSync_kept ..).trans ?_
  refine (State.setF_same (Blind.vitals.sub (by decide)) ..).kept.trans ?_
  refine (State.setF_same (Blind.vitals.sub (by decide)) ..).kept.trans ?_
  refine (Kept.forEach _ _ _ (fun g s => State.refillSpill_kept ..)).trans ?_
  refine (State.withFl_same (Blind.vitals.sub (by decide)) ..).kept.trans ?_
  refine Kept.trans (State.withCqs_sub (show List.Sublist (List.filter _ u.cqs.spill) u.cqs.spill from List.filter_sublist)) ?_
  refine (State.withCtr_same (Blind.vitals.sub (by decide)) ..).kept.trans ?_
  exact (State.withCq_same (Blind.vitals.sub (by decide)) ..).kept.trans h0

theorem State.dropAdopted_kept (s : State) (q : Nat) : Kept (State.dropAdopted s q) s := by
  unfold State.dropAdopted
  repeat' first
    | with_reducible first
      | exact Kept.refl _ | assumption | refine (State.endAdoption_kept ..).trans ?_
      | refine (State.setF_same (Blind.vitals.sub (by decide)) ..).kept.trans ?_
      | refine (State.setMq_same (Blind.vitals.sub (by decide)) ..).kept.trans ?_ | refine Kept.ite ?_ ?_ | intro _
    | split
    | dsimp only

theorem State.admDone_kept (s : State) (st : Stream) (o : AdmOpen) (status value : Nat) :
    Kept (State.admDone s st o status value) s := by
  unfold State.admDone
  repeat' first
    | with_reducible first
      | exact Kept.refl _ | assumption | refine (State.placeRec_kept ..).trans ?_ | refine (State.raise_kept ..).trans ?_
      | refine (State.setAdm_same (Blind.vitals.sub (by decide)) ..).kept.trans ?_
      | refine (State.setF_same (Blind.vitals.sub (by decide)) ..).kept.trans ?_
      | refine (State.stopRing_same (Blind.vitals.sub (by decide)) ..).kept.trans ?_ | refine Kept.ite ?_ ?_ | intro _
    | split
    | dsimp only

theorem State.askFor_kept (s : State) (res e : Nat) : Kept (State.askFor s res e) s := by
  unfold State.askFor
  repeat' first
    | with_reducible first
      | exact Kept.refl _ | assumption | refine (State.arbPhase_kept ..).trans ?_ | refine Kept.ite ?_ ?_ | intro _
    | split
    | dsimp only

theorem State.admBind_kept (s : State) (e idx : Nat) : Kept (State.admBind s e idx) s := by
  unfold State.admBind
  repeat' first
    | with_reducible first
      | exact Kept.refl _ | assumption | refine (State.traceEv_kept ..).trans ?_
      | refine (State.setEng_same (Blind.vitals.sub (by decide)) ..).kept.trans ?_
      | refine (State.setF_same (Blind.vitals.sub (by decide)) ..).kept.trans ?_ | intro _
    | split
    | dsimp only

theorem State.admReturn_kept (s : State) (who e : Nat) : Kept (State.admReturn s who e) s := by
  unfold State.admReturn
  repeat' first
    | with_reducible first
      | exact Kept.refl _ | assumption | refine (State.traceEv_kept ..).trans ?_
      | refine (State.dropChannels_kept ..).trans ?_
      | refine (State.lineEnd_same (Blind.vitals.sub (by decide)) ..).kept.trans ?_
      | refine (State.setEng_same (Blind.vitals.sub (by decide)) ..).kept.trans ?_
      | refine (State.setF_same (Blind.vitals.sub (by decide)) ..).kept.trans ?_
      | refine (State.updQ_same (Blind.vitals.sub (by decide)) ..).kept.trans ?_ | refine Kept.ite ?_ ?_ | intro _
    | split
    | dsimp only

theorem State.admStitch_kept (s : State) (who idx : Nat) (needs : List Nat) (g : State → State) (h_g : ∀ s , Kept (g s ) s) :
    Kept (State.admStitch s who idx needs g) s := by
  unfold State.admStitch
  repeat' first
    | with_reducible first
      | exact Kept.refl _ | assumption | refine (h_g ..).trans ?_ | refine (State.admReturn_kept ..).trans ?_
      | refine (State.askFor_kept ..).trans ?_ | refine (State.admBind_kept ..).trans ?_
      | refine (State.arbBusy_same (Blind.vitals.sub (by decide)) ..).kept.trans ?_
      | refine (State.withAdm_same (Blind.vitals.sub (by decide)) ..).kept.trans ?_ | refine (Kept.foldl _ _ _ ?_).trans ?_
      | refine Kept.ite ?_ ?_ | intro _
    | split
    | dsimp only

theorem State.cmdStitch_kept (s : State) (st : Stream) (o : AdmOpen) (needs : List Nat) (g : State → State)
    (h_g : ∀ s , Kept (g s ) s) :
    Kept (State.cmdStitch s st o needs g) s := by
  unfold State.cmdStitch
  repeat' first
    | with_reducible first
      | exact Kept.refl _ | assumption | refine (h_g ..).trans ?_ | refine (State.admStitch_kept (h_g := ?_) ..).trans ?_
      | refine State.orWait_kept ?_ ?_ | intro _
    | split
    | dsimp only

theorem State.oneStitch_kept (s : State) (st : Stream) (op : Nat) (judge : State → List W64 → List (Bool × Nat))
    (act : State → List W64 → State × Nat) (needs : List Nat) (h_act : ∀ s y0, Kept (act s y0).1 s) :
    Kept (State.oneStitch s st op judge act needs) s := by
  unfold State.oneStitch
  repeat' first
    | with_reducible first
      | exact Kept.refl _ | assumption | refine (h_act ..).trans ?_ | refine (State.admDone_kept ..).trans ?_
      | refine (State.cmdStitch_kept (h_g := ?_) ..).trans ?_
      | refine (State.openAdm_same (Blind.vitals.sub (by decide)) ..).kept.trans ?_ | refine Kept.ite ?_ ?_
      | refine Kept.ite_fst ?_ ?_ | intro _
    | split
    | dsimp only

theorem State.fwHand_kept (s : State) (st : Stream) (o : AdmOpen) : Kept (State.fwHand s st o) s := by
  unfold State.fwHand
  repeat' first
    | with_reducible first
      | exact Kept.refl _ | assumption | refine (State.admDone_kept ..).trans ?_ | refine (State.raise_kept ..).trans ?_
      | refine (State.setAdm_same (Blind.vitals.sub (by decide)) ..).kept.trans ?_
      | refine (State.setF_same (Blind.vitals.sub (by decide)) ..).kept.trans ?_
      | refine (State.setReg_same (Blind.vitals.sub (by decide)) ..).kept.trans ?_
      | refine (State.withAdm_same (Blind.vitals.sub (by decide)) ..).kept.trans ?_
      | refine (State.wrapAdd_same (Blind.vitals.sub (by decide)) ..).kept.trans ?_ | refine Kept.getD ?_
      | refine (Kept.foldl _ _ _ ?_).trans ?_ | refine Kept.ite ?_ ?_ | intro _
    | split
    | dsimp only

theorem State.fwOpen_kept (s : State) (st : Stream) (is : Nat → Bool) (judge : State → List W64 → List (Bool × Nat)) :
    Kept (State.fwOpen s st is judge) s := by
  unfold State.fwOpen
  repeat' first
    | with_reducible first
      | exact Kept.refl _ | assumption | refine (State.admDone_kept ..).trans ?_ | refine (State.fwHand_kept ..).trans ?_
      | refine (State.lineUp_same (Blind.vitals.sub (by decide)) ..).kept.trans ?_
      | refine (State.openAdm_same (Blind.vitals.sub (by decide)) ..).kept.trans ?_ | refine Kept.ite ?_ ?_ | intro _
    | split
    | dsimp only

theorem State.fwEnd_kept (s : State) (status value : Nat) : Kept (State.fwEnd s status value) s := by
  unfold State.fwEnd
  repeat' first
    | with_reducible first
      | exact Kept.refl _ | assumption | refine (State.admDone_kept ..).trans ?_ | refine (State.fwHand_kept ..).trans ?_
      | refine (State.setF_same (Blind.vitals.sub (by decide)) ..).kept.trans ?_
      | refine (State.withAdm_same (Blind.vitals.sub (by decide)) ..).kept.trans ?_ | refine Kept.ite ?_ ?_ | intro _
    | split
    | dsimp only

theorem State.clearStep_kept (s : State) : Kept (State.clearStep s) s := by
  unfold State.clearStep
  repeat' first
    | with_reducible first
      | exact Kept.refl _ | assumption | refine (State.wipe_kept ..).trans ?_
      | refine (State.clearEnd_same (Blind.vitals.sub (by decide)) ..).kept.trans ?_
      | refine (State.passEarly_same (Blind.vitals.sub (by decide)) ..).kept.trans ?_
      | refine (State.wrapAdd_same (Blind.vitals.sub (by decide)) ..).kept.trans ?_ | refine Kept.ite ?_ ?_ | intro _
    | split
    | dsimp only

theorem State.doCreateWq_kept (s : State) (w : List W64) : Kept (State.doCreateWq s w).1 s := by
  unfold State.doCreateWq
  repeat' first
    | with_reducible first
      | exact Kept.refl _ | assumption | refine (State.warm_kept ..).trans ?_ | refine (State.touchBlock_kept ..).trans ?_
      | refine (State.changeMirror_same (Blind.vitals.sub (by decide)) ..).kept.trans ?_ | intro _
    | split
    | dsimp only

theorem execCreateWq_kept (st : Stream) (s : State) : KeptR (execCreateWq st s) s := by
  unfold execCreateWq
  repeat' first
    | with_reducible first
      | refine KeptR.guarded ?_ ?_ | refine KeptR.next ?_ | refine KeptR.ite ?_ ?_ | exact Kept.refl _ | assumption
      | refine (State.oneStitch_kept (h_act := ?_) ..).trans ?_ | refine (State.doCreateWq_kept ..).trans ?_ | intro _
    | split
    | dsimp only

theorem execModifyWq_kept (st : Stream) (s : State) : KeptR (execModifyWq st s) s := by
  unfold execModifyWq
  repeat' first
    | with_reducible first
      | refine KeptR.guarded ?_ ?_ | refine KeptR.next ?_ | refine KeptR.ite ?_ ?_ | exact Kept.refl _ | assumption
      | refine (State.oneStitch_kept (h_act := ?_) ..).trans ?_
      | refine (State.doModifyWq_same (Blind.vitals.sub (by decide)) ..).kept.trans ?_ | refine Kept.ite ?_ ?_
      | refine Kept.ite_fst ?_ ?_ | intro _
    | split
    | dsimp only

theorem State.query_kept (s : State) (st : Stream) (op : Nat) (judge : List W64 → List (Bool × Nat))
    (bytes : State → List W64 → List Byte) (space : List W64 → Nat) (fail : Option Bool) :
    Kept (State.query s st op judge bytes space fail) s := by
  unfold State.query
  repeat' first
    | with_reducible first
      | exact Kept.refl _ | assumption | refine (State.writeBytes_kept ..).trans ?_ | refine (State.admDone_kept ..).trans ?_
      | refine (State.cmdStitch_kept (h_g := ?_) ..).trans ?_
      | refine (State.cnt_same (Blind.vitals.sub (by decide)) ..).kept.trans ?_
      | refine (State.openAdm_same (Blind.vitals.sub (by decide)) ..).kept.trans ?_
      | refine (State.portReject_same (Blind.vitals.sub (by decide)) ..).kept.trans ?_ | refine Kept.ite ?_ ?_ | intro _
    | split
    | dsimp only

theorem State.queryWq_kept (s : State) (st : Stream) (fail : Option Bool) : Kept (State.queryWq s st fail) s := by
  unfold State.queryWq
  repeat' first
    | with_reducible first
      | exact Kept.refl _ | assumption | refine (State.query_kept ..).trans ?_ | intro _
    | split
    | dsimp only

theorem execQueryWq_kept (st : Stream) (s : State) : KeptR (execQueryWq st s) s := by
  unfold execQueryWq
  repeat' first
    | with_reducible first
      | refine KeptR.guarded ?_ ?_ | refine KeptR.next ?_ | refine KeptR.ite ?_ ?_ | exact Kept.refl _ | assumption
      | refine (State.queryWq_kept ..).trans ?_ | intro _
    | split
    | dsimp only

theorem State.discard_kept (s : State) (q : Nat) (cut : Bool) : Kept (State.discard s q cut) s := by
  unfold State.discard
  repeat' first
    | with_reducible first
      | exact Kept.refl _ | assumption | refine (State.settle_kept ..).trans ?_
      | refine (State.advanceCi_same (Blind.vitals.sub (by decide)) ..).kept.trans ?_
      | refine (State.setQ_same (Blind.vitals.sub (by decide)) ..).kept.trans ?_
      | refine (State.updFl_same (Blind.vitals.sub (by decide)) ..).kept.trans ?_
      | refine (State.withFl_same (Blind.vitals.sub (by decide)) ..).kept.trans ?_ | refine (Kept.forEach _ _ _ ?_).trans ?_
      | refine Kept.ite ?_ ?_ | intro _
    | split
    | dsimp only

theorem State.detach_kept (s : State) (q : Nat) : Kept (State.detach s q) s := by
  unfold State.detach
  dsimp only
  refine Kept.trans (State.withCqs_kept (fun k g => ?_)) ?_
  · have e : ∀ (f : Held → Held) (l : List Held), (∀ h, (f h).c = h.c) →
        ((l.map f).filter (fun h => decide (cqGroup h.c = g))).length = (l.filter (fun h => decide (cqGroup h.c = g))).length := by
      intro f l hf
      rw [List.filter_map, List.length_map]
      simp [Function.comp_def, hf]
    dsimp only
    rw [e _ _ (fun h => by split <;> rfl)]
    exact k.2.2.2.1 g
  · exact (State.withPair_same (Blind.vitals.sub (by decide)) ..).kept.trans
      ((State.withArb_same (Blind.vitals.sub (by decide)) ..).kept.trans (State.withFl_same (Blind.vitals.sub (by decide)) ..).kept)

theorem State.freeQueue_kept (s : State) (q : Nat) : Kept (State.freeQueue s q) s := by
  unfold State.freeQueue
  repeat' first
    | with_reducible first
      | exact Kept.refl _ | assumption | refine (State.chill_kept ..).trans ?_ | refine (State.detach_kept ..).trans ?_
      | refine (State.dropAdopted_kept ..).trans ?_
      | refine (State.changeMirror_same (Blind.vitals.sub (by decide)) ..).kept.trans ?_
      | refine (State.setQ_same (Blind.vitals.sub (by decide)) ..).kept.trans ?_
      | refine (State.unbindLine_same (Blind.vitals.sub (by decide)) ..).kept.trans ?_ | refine Kept.ite ?_ ?_ | intro _
    | split
    | dsimp only

theorem State.destroyEnd_kept (s : State) (st : Stream) (o : AdmOpen) : Kept (State.destroyEnd s st o) s := by
  unfold State.destroyEnd
  repeat' first
    | with_reducible first
      | exact Kept.refl _ | assumption | refine (State.freeQueue_kept ..).trans ?_ | refine (State.admDone_kept ..).trans ?_
      | refine (State.cmdStitch_kept (h_g := ?_) ..).trans ?_ | refine Kept.ite ?_ ?_ | intro _
    | split
    | dsimp only

theorem State.destroyBegin_kept (s : State) (st : Stream) (o : AdmOpen) : Kept (State.destroyBegin s st o) s := by
  unfold State.destroyBegin
  repeat' first
    | with_reducible first
      | exact Kept.refl _ | assumption | refine (State.admDone_kept ..).trans ?_ | refine (State.discard_kept ..).trans ?_
      | refine (State.setAdm_same (Blind.vitals.sub (by decide)) ..).kept.trans ?_
      | refine (State.setQ_same (Blind.vitals.sub (by decide)) ..).kept.trans ?_ | refine Kept.getD ?_ | refine Kept.ite ?_ ?_
      | intro _
    | split
    | dsimp only

theorem State.destroyNext_kept (s : State) (st : Stream) (o : AdmOpen) : Kept (State.destroyNext s st o) s := by
  unfold State.destroyNext
  repeat' first
    | with_reducible first
      | exact Kept.refl _ | assumption | refine (State.unpark_kept ..).trans ?_
      | refine (State.cmdStitch_kept (h_g := ?_) ..).trans ?_ | refine (State.destroyEnd_kept ..).trans ?_
      | refine (State.discard_kept ..).trans ?_
      | refine (State.advanceCi_same (Blind.vitals.sub (by decide)) ..).kept.trans ?_
      | refine (State.setAdm_same (Blind.vitals.sub (by decide)) ..).kept.trans ?_
      | refine (State.updFl_same (Blind.vitals.sub (by decide)) ..).kept.trans ?_
      | refine (State.updQ_same (Blind.vitals.sub (by decide)) ..).kept.trans ?_ | refine (Kept.forEach _ _ _ ?_).trans ?_
      | refine Kept.ite ?_ ?_ | intro _
    | split
    | dsimp only

theorem execDestroyWq_kept (st : Stream) (s : State) : KeptR (execDestroyWq st s) s := by
  unfold execDestroyWq
  repeat' first
    | with_reducible first
      | refine KeptR.guarded ?_ ?_ | refine KeptR.next ?_ | refine KeptR.ite ?_ ?_ | exact Kept.refl _ | assumption
      | refine (State.destroyNext_kept ..).trans ?_ | refine (State.destroyBegin_kept ..).trans ?_
      | refine (State.cmdStitch_kept (h_g := ?_) ..).trans ?_
      | refine (State.openAdm_same (Blind.vitals.sub (by decide)) ..).kept.trans ?_ | refine Kept.ite ?_ ?_
      | refine Kept.ite_fst ?_ ?_ | intro _
    | split
    | dsimp only

theorem execDestroyDrainTimeout_kept (st : Stream) (s : State) : KeptR (execDestroyDrainTimeout st s) s := by
  unfold execDestroyDrainTimeout
  repeat' first
    | with_reducible first
      | refine KeptR.guarded ?_ ?_ | refine KeptR.next ?_ | refine KeptR.ite ?_ ?_ | exact Kept.refl _ | assumption
      | refine (State.discard_kept ..).trans ?_ | refine (State.setAdm_same (Blind.vitals.sub (by decide)) ..).kept.trans ?_
      | refine Kept.ite ?_ ?_ | refine Kept.ite_fst ?_ ?_ | intro _
    | split
    | dsimp only

theorem execResumeWq_kept (st : Stream) (s : State) : KeptR (execResumeWq st s) s := by
  unfold execResumeWq
  repeat' first
    | with_reducible first
      | refine KeptR.guarded ?_ ?_ | refine KeptR.next ?_ | refine KeptR.ite ?_ ?_ | exact Kept.refl _ | assumption
      | refine (State.oneStitch_kept (h_act := ?_) ..).trans ?_
      | refine (State.doResumeWq_same (Blind.vitals.sub (by decide)) ..).kept.trans ?_
      | refine (State.lineUp_same (Blind.vitals.sub (by decide)) ..).kept.trans ?_
      | refine (State.openAdm_same (Blind.vitals.sub (by decide)) ..).kept.trans ?_ | refine Kept.ite ?_ ?_
      | refine Kept.ite_fst ?_ ?_ | intro _
    | split
    | dsimp only

theorem execAdminNop_kept (st : Stream) (s : State) : KeptR (execAdminNop st s) s := by
  unfold execAdminNop
  repeat' first
    | with_reducible first
      | refine KeptR.guarded ?_ ?_ | refine KeptR.next ?_ | refine KeptR.ite ?_ ?_ | exact Kept.refl _ | assumption
      | refine (State.oneStitch_kept (h_act := ?_) ..).trans ?_ | intro _
    | split
    | dsimp only

theorem State.doCreateCq_kept (s : State) (w : List W64) : Kept (State.doCreateCq s w).1 s := by
  unfold State.doCreateCq
  repeat' first
    | with_reducible first
      | exact Kept.refl _ | assumption | refine (State.warm_kept ..).trans ?_ | refine (State.touchBlock_kept ..).trans ?_
      | refine (State.setC_same (Blind.vitals.sub (by decide)) ..).kept.trans ?_ | intro _
    | split
    | dsimp only

theorem execCreateCq_kept (st : Stream) (s : State) : KeptR (execCreateCq st s) s := by
  unfold execCreateCq
  repeat' first
    | with_reducible first
      | refine KeptR.guarded ?_ ?_ | refine KeptR.next ?_ | refine KeptR.ite ?_ ?_ | exact Kept.refl _ | assumption
      | refine (State.doCreateCq_kept ..).trans ?_ | refine (State.oneStitch_kept (h_act := ?_) ..).trans ?_ | intro _
    | split
    | dsimp only

theorem execModifyCq_kept (st : Stream) (s : State) : KeptR (execModifyCq st s) s := by
  unfold execModifyCq
  repeat' first
    | with_reducible first
      | refine KeptR.guarded ?_ ?_ | refine KeptR.next ?_ | refine KeptR.ite ?_ ?_ | exact Kept.refl _ | assumption
      | refine (State.oneStitch_kept (h_act := ?_) ..).trans ?_
      | refine (State.doModifyCq_same (Blind.vitals.sub (by decide)) ..).kept.trans ?_ | refine Kept.ite ?_ ?_
      | refine Kept.ite_fst ?_ ?_ | intro _
    | split
    | dsimp only

theorem State.queryCq_kept (s : State) (st : Stream) (fail : Option Bool) : Kept (State.queryCq s st fail) s := by
  unfold State.queryCq
  repeat' first
    | with_reducible first
      | exact Kept.refl _ | assumption | refine (State.query_kept ..).trans ?_ | intro _
    | split
    | dsimp only

theorem execQueryCq_kept (st : Stream) (s : State) : KeptR (execQueryCq st s) s := by
  unfold execQueryCq
  repeat' first
    | with_reducible first
      | refine KeptR.guarded ?_ ?_ | refine KeptR.next ?_ | refine KeptR.ite ?_ ?_ | exact Kept.refl _ | assumption
      | refine (State.queryCq_kept ..).trans ?_ | intro _
    | split
    | dsimp only

theorem State.freeRing_kept (s : State) (c : Nat) : Kept (State.freeRing s c) s := by
  unfold State.freeRing
  repeat' first
    | with_reducible first
      | exact Kept.refl _ | assumption | refine (State.chill_kept ..).trans ?_
      | refine (State.setC_same (Blind.vitals.sub (by decide)) ..).kept.trans ?_ | intro _
    | split
    | dsimp only

theorem List.foldl_erase_sublist {α : Type} [BEq α] (a l : List α) : (a.foldl (fun l h => l.erase h) l).Sublist l := by
  induction a generalizing l with
  | nil => exact List.Sublist.refl l
  | cons x r ih => exact (ih _).trans List.erase_sublist


theorem State.dropHeld_kept (s : State) (c : Nat) : Kept (State.dropHeld s c).1 s := by
  unfold State.dropHeld
  dsimp only
  refine (State.refillSpill_kept ..).trans ?_
  refine (Kept.forEach _ _ _ (fun a s => (State.release_same (Blind.vitals.sub (by decide)) ..).kept)).trans ?_
  refine (Kept.forEach _ _ _ (fun a s => (State.completed_same (Blind.vitals.sub (by decide)) ..).kept)).trans ?_
  exact State.withCqs_sub (List.foldl_erase_sublist _ _)

theorem State.destroyCqBegin_kept (s : State) (st : Stream) (o : AdmOpen) : Kept (State.destroyCqBegin s st o) s := by
  unfold State.destroyCqBegin
  repeat' first
    | with_reducible first
      | exact Kept.refl _ | assumption | refine (State.admDone_kept ..).trans ?_ | refine (State.freeRing_kept ..).trans ?_
      | refine (State.setAdm_same (Blind.vitals.sub (by decide)) ..).kept.trans ?_
      | refine (State.updC_same (Blind.vitals.sub (by decide)) ..).kept.trans ?_ | refine Kept.ite ?_ ?_ | intro _
    | split
    | dsimp only

theorem State.destroyCqNext_kept (s : State) (st : Stream) (o : AdmOpen) : Kept (State.destroyCqNext s st o) s := by
  unfold State.destroyCqNext
  repeat' first
    | with_reducible first
      | exact Kept.refl _ | assumption | refine (State.admDone_kept ..).trans ?_ | refine (State.dropHeld_kept ..).trans ?_
      | refine (State.freeRing_kept ..).trans ?_ | refine (State.setAdm_same (Blind.vitals.sub (by decide)) ..).kept.trans ?_
      | refine Kept.ite ?_ ?_ | refine Kept.ite_fst ?_ ?_ | intro _
    | split
    | dsimp only

theorem execDestroyCq_kept (st : Stream) (s : State) : KeptR (execDestroyCq st s) s := by
  unfold execDestroyCq
  repeat' first
    | with_reducible first
      | refine KeptR.guarded ?_ ?_ | refine KeptR.next ?_ | refine KeptR.ite ?_ ?_ | exact Kept.refl _ | assumption
      | refine (State.destroyCqBegin_kept ..).trans ?_ | refine (State.destroyCqNext_kept ..).trans ?_
      | refine (State.cmdStitch_kept (h_g := ?_) ..).trans ?_
      | refine (State.openAdm_same (Blind.vitals.sub (by decide)) ..).kept.trans ?_ | refine Kept.ite ?_ ?_
      | refine Kept.ite_fst ?_ ?_ | intro _
    | split
    | dsimp only

theorem execCreatePd_kept (st : Stream) (s : State) : KeptR (execCreatePd st s) s := by
  unfold execCreatePd
  repeat' first
    | with_reducible first
      | refine KeptR.guarded ?_ ?_ | refine KeptR.next ?_ | refine KeptR.ite ?_ ?_ | exact Kept.refl _ | assumption
      | refine (State.oneStitch_kept (h_act := ?_) ..).trans ?_
      | refine (State.setPd_same (Blind.vitals.sub (by decide)) ..).kept.trans ?_ | intro _
    | split
    | dsimp only

theorem execDestroyPd_kept (st : Stream) (s : State) : KeptR (execDestroyPd st s) s := by
  unfold execDestroyPd
  repeat' first
    | with_reducible first
      | refine KeptR.guarded ?_ ?_ | refine KeptR.next ?_ | refine KeptR.ite ?_ ?_ | exact Kept.refl _ | assumption
      | refine (State.oneStitch_kept (h_act := ?_) ..).trans ?_
      | refine (State.setPd_same (Blind.vitals.sub (by decide)) ..).kept.trans ?_ | intro _
    | split
    | dsimp only

theorem State.doCreateMr_kept (s : State) (w : List W64) : Kept (State.doCreateMr s w).1 s := by
  unfold State.doCreateMr
  repeat' first
    | with_reducible first
      | exact Kept.refl _ | assumption | refine (State.touchBlock_kept ..).trans ?_
      | refine (State.setMr_same (Blind.vitals.sub (by decide)) ..).kept.trans ?_ | refine Kept.getD ?_ | intro _
    | split
    | dsimp only

theorem execCreateMr_kept (st : Stream) (s : State) : KeptR (execCreateMr st s) s := by
  unfold execCreateMr
  repeat' first
    | with_reducible first
      | refine KeptR.guarded ?_ ?_ | refine KeptR.next ?_ | refine KeptR.ite ?_ ?_ | exact Kept.refl _ | assumption
      | refine (State.oneStitch_kept (h_act := ?_) ..).trans ?_ | refine (State.doCreateMr_kept ..).trans ?_ | intro _
    | split
    | dsimp only

theorem execDestroyMr_kept (st : Stream) (s : State) : KeptR (execDestroyMr st s) s := by
  unfold execDestroyMr
  repeat' first
    | with_reducible first
      | refine KeptR.guarded ?_ ?_ | refine KeptR.next ?_ | refine KeptR.ite ?_ ?_ | exact Kept.refl _ | assumption
      | refine (State.oneStitch_kept (h_act := ?_) ..).trans ?_
      | refine (State.setMr_same (Blind.vitals.sub (by decide)) ..).kept.trans ?_ | intro _
    | split
    | dsimp only

theorem State.endWaiters_kept (s : State) (n : Nat) : Kept (State.endWaiters s n) s := by
  unfold State.endWaiters
  repeat' first
    | with_reducible first
      | exact Kept.refl _ | assumption | refine (State.unpark_kept ..).trans ?_ | refine (State.tryComplete_kept ..).trans ?_
      | refine (State.updFl_same (Blind.vitals.sub (by decide)) ..).kept.trans ?_ | refine (Kept.forEach _ _ _ ?_).trans ?_
      | intro _
    | split
    | dsimp only

theorem State.clearRun_kept (s : State) (g : Counter → Counter) (discard : Bool) (done ended : Nat) (x0 : List Nat) :
    Kept (State.clearRun s g discard done ended x0).1 s := by
  induction x0 generalizing s g discard done ended with
  | nil => exact Kept.refl _
  | cons a r ih =>
    unfold State.clearRun
    repeat' first
      | with_reducible first
        | exact Kept.refl _ | assumption | refine (State.endWaiters_kept ..).trans ?_
        | refine (State.clearOne_same (Blind.vitals.sub (by decide)) ..).kept.trans ?_ | refine (ih ..).trans ?_
        | refine Kept.ite ?_ ?_ | refine Kept.ite_fst ?_ ?_ | intro _
      | split
      | dsimp only

theorem State.clearTrigStitch_kept (s : State) (st : Stream) (o : AdmOpen) : Kept (State.clearTrigStitch s st o) s := by
  unfold State.clearTrigStitch
  repeat' first
    | with_reducible first
      | exact Kept.refl _ | assumption | refine (State.clearRun_kept ..).trans ?_ | refine (State.admDone_kept ..).trans ?_
      | refine (State.touchBlock_kept ..).trans ?_
      | refine (State.setAdm_same (Blind.vitals.sub (by decide)) ..).kept.trans ?_ | refine Kept.getD ?_
      | refine (Kept.forEach _ _ _ ?_).trans ?_ | refine Kept.ite ?_ ?_ | refine Kept.ite_fst ?_ ?_ | intro _
    | split
    | dsimp only

theorem execClearTrig_kept (st : Stream) (s : State) : KeptR (execClearTrig st s) s := by
  unfold execClearTrig
  repeat' first
    | with_reducible first
      | refine KeptR.guarded ?_ ?_ | refine KeptR.next ?_ | refine KeptR.ite ?_ ?_ | exact Kept.refl _ | assumption
      | refine (State.clearTrigStitch_kept ..).trans ?_ | refine (State.admDone_kept ..).trans ?_
      | refine (State.cmdStitch_kept (h_g := ?_) ..).trans ?_
      | refine (State.openAdm_same (Blind.vitals.sub (by decide)) ..).kept.trans ?_ | refine Kept.ite ?_ ?_
      | refine Kept.ite_fst ?_ ?_ | intro _
    | split
    | dsimp only

theorem execBindRl_kept (st : Stream) (s : State) : KeptR (execBindRl st s) s := by
  unfold execBindRl
  repeat' first
    | with_reducible first
      | refine KeptR.guarded ?_ ?_ | refine KeptR.next ?_ | refine KeptR.ite ?_ ?_ | exact Kept.refl _ | assumption
      | refine (State.oneStitch_kept (h_act := ?_) ..).trans ?_
      | refine (State.doBindRl_same (Blind.vitals.sub (by decide)) ..).kept.trans ?_ | intro _
    | split
    | dsimp only

theorem State.endTest_kept (s : State) (result errors : Nat) (checked : W64) :
    Kept (State.endTest s result errors checked) s := by
  unfold State.endTest
  repeat' first
    | with_reducible first
      | exact Kept.refl _ | assumption | refine (State.raise_kept ..).trans ?_
      | refine (State.log_same (Blind.vitals.sub (by decide)) ..).kept.trans ?_
      | refine (State.setF_same (Blind.vitals.sub (by decide)) ..).kept.trans ?_
      | refine (State.setReg_same (Blind.vitals.sub (by decide)) ..).kept.trans ?_ | refine Kept.ite ?_ ?_ | intro _
    | split
    | dsimp only

theorem State.attempt_kept (s : State) : Kept (State.attempt s) s := by
  unfold State.attempt
  repeat' first
    | with_reducible first
      | exact Kept.refl _ | assumption | refine (State.setLace_kept ..).trans ?_
      | refine (State.unlock_same (Blind.vitals.sub (by decide)) ..).kept.trans ?_ | intro _
    | split
    | dsimp only

theorem State.goDown_kept (s : State) : Kept (State.goDown s) s := by
  unfold State.goDown
  repeat' first
    | with_reducible first
      | exact Kept.refl _ | assumption | refine (State.raise_kept ..).trans ?_
      | refine (State.cnt_same (Blind.vitals.sub (by decide)) ..).kept.trans ?_
      | refine (State.setF_same (Blind.vitals.sub (by decide)) ..).kept.trans ?_ | refine Kept.ite ?_ ?_ | intro _
    | split
    | dsimp only

theorem State.failAttempt_kept (s : State) : Kept (State.failAttempt s) s := by
  unfold State.failAttempt
  repeat' first
    | with_reducible first
      | exact Kept.refl _ | assumption | refine (State.attempt_kept ..).trans ?_ | refine (State.setLace_kept ..).trans ?_
      | refine (State.cnt_same (Blind.vitals.sub (by decide)) ..).kept.trans ?_
      | refine (State.dropSession_same (Blind.vitals.sub (by decide)) ..).kept.trans ?_ | refine Kept.ite ?_ ?_ | intro _
    | split
    | dsimp only

theorem State.startReplay_kept (s : State) (v : Nat) : Kept (State.startReplay s v) s := by
  unfold State.startReplay
  repeat' first
    | with_reducible first
      | exact Kept.refl _ | assumption | refine (State.traceIn_kept ..).trans ?_ | refine (State.laceCnt_kept ..).trans ?_
      | refine (State.pump_same (Blind.vitals.sub (by decide)) ..).kept.trans ?_
      | refine (State.setVc_same (Blind.vitals.sub (by decide)) ..).kept.trans ?_ | refine Kept.ite ?_ ?_ | intro _
    | split
    | dsimp only

theorem State.takeAckNo_kept (s : State) (v a : Nat) : Kept (State.takeAckNo s v a) s := by
  unfold State.takeAckNo
  repeat' first
    | with_reducible first
      | exact Kept.refl _ | assumption | refine (State.laceCnt_kept ..).trans ?_
      | refine (State.setVc_same (Blind.vitals.sub (by decide)) ..).kept.trans ?_ | refine Kept.ite ?_ ?_ | intro _
    | split
    | dsimp only

theorem State.applyFeedback_kept (s : State) (v a lim : Nat) : Kept (State.applyFeedback s v a lim) s := by
  unfold State.applyFeedback
  repeat' first
    | with_reducible first
      | exact Kept.refl _ | assumption | refine (State.takeAckNo_kept ..).trans ?_
      | refine (State.pump_same (Blind.vitals.sub (by decide)) ..).kept.trans ?_
      | refine (State.setVc_same (Blind.vitals.sub (by decide)) ..).kept.trans ?_ | refine Kept.ite ?_ ?_ | intro _
    | split
    | dsimp only

theorem State.stopLaneTest_kept (s : State) : Kept (State.stopLaneTest s) s := by
  unfold State.stopLaneTest
  repeat' first
    | with_reducible first
      | exact Kept.refl _ | assumption | refine (State.endTest_kept ..).trans ?_
      | refine (State.setF_same (Blind.vitals.sub (by decide)) ..).kept.trans ?_ | refine Kept.ite ?_ ?_ | intro _
    | split
    | dsimp only

theorem State.recover_kept (s : State) : Kept (State.recover s) s := by
  unfold State.recover
  repeat' first
    | with_reducible first
      | exact Kept.refl _ | assumption | refine (State.setLace_kept ..).trans ?_
      | refine (State.stopLaneTest_kept ..).trans ?_ | refine (State.laceCnt_kept ..).trans ?_
      | refine (State.unlock_same (Blind.vitals.sub (by decide)) ..).kept.trans ?_
      | refine (State.withLace_same (Blind.vitals.sub (by decide)) ..).kept.trans ?_ | refine Kept.ite ?_ ?_ | intro _
    | split
    | dsimp only

theorem State.newSession_kept (s : State) (fellow : Nat) : Kept (State.newSession s fellow) s := by
  unfold State.newSession
  repeat' first
    | with_reducible first
      | exact Kept.refl _ | assumption | refine (State.enterLost_kept ..).trans ?_
      | refine (State.dropSession_same (Blind.vitals.sub (by decide)) ..).kept.trans ?_
      | refine (State.setF_same (Blind.vitals.sub (by decide)) ..).kept.trans ?_
      | refine (State.withPair_same (Blind.vitals.sub (by decide)) ..).kept.trans ?_ | intro _
    | split
    | dsimp only

theorem State.syncUp_kept (s : State) (fresh : Bool) : Kept (State.syncUp s fresh) s := by
  unfold State.syncUp
  repeat' first
    | with_reducible first
      | exact Kept.refl _ | assumption | refine (State.goOff_kept ..).trans ?_ | refine (State.startSync_kept ..).trans ?_
      | refine (State.announce_same (Blind.vitals.sub (by decide)) ..).kept.trans ?_ | refine Kept.ite ?_ ?_ | intro _
    | split
    | dsimp only

theorem State.linkUp_kept (s : State) (role : Bool) (fellow : Nat) : Kept (State.linkUp s role fellow) s := by
  unfold State.linkUp
  repeat' first
    | with_reducible first
      | exact Kept.refl _ | assumption | refine (State.startReplay_kept ..).trans ?_ | refine (State.setLace_kept ..).trans ?_
      | refine (State.newSession_kept ..).trans ?_ | refine (State.syncUp_kept ..).trans ?_
      | refine (State.pump_same (Blind.vitals.sub (by decide)) ..).kept.trans ?_
      | refine (State.sendFeedback_same (Blind.vitals.sub (by decide)) ..).kept.trans ?_
      | refine (State.setF_same (Blind.vitals.sub (by decide)) ..).kept.trans ?_
      | refine (State.withLace_same (Blind.vitals.sub (by decide)) ..).kept.trans ?_ | refine (Kept.foldl _ _ _ ?_).trans ?_
      | refine Kept.ite ?_ ?_ | intro _
    | split
    | dsimp only

theorem State.acceptPkt_kept (s : State) (v u sq : Nat) (payload : List Byte) : Kept (State.acceptPkt s v u sq payload) s := by
  unfold State.acceptPkt
  repeat' first
    | with_reducible first
      | exact Kept.refl _ | assumption | refine (State.laceCnt_kept ..).trans ?_
      | refine (State.setVc_same (Blind.vitals.sub (by decide)) ..).kept.trans ?_ | refine (Kept.foldl _ _ _ ?_).trans ?_
      | refine (Kept.foldl_fst _ _ _ ?_).trans ?_ | refine Kept.ite ?_ ?_ | refine Kept.ite_fst ?_ ?_ | intro _
    | split
    | dsimp only

theorem State.receive_kept (s : State) (b : List Byte) : Kept (State.receive s b) s := by
  unfold State.receive
  repeat' first
    | with_reducible first
      | exact Kept.refl _ | assumption | refine (State.acceptPkt_kept ..).trans ?_
      | refine (State.applyFeedback_kept ..).trans ?_ | refine (State.laceCnt_kept ..).trans ?_
      | refine (State.withLace_same (Blind.vitals.sub (by decide)) ..).kept.trans ?_ | refine Kept.ite ?_ ?_ | intro _
    | split
    | dsimp only

theorem State.enterHoldover_kept (s : State) : Kept (State.enterHoldover s) s := by
  unfold State.enterHoldover
  repeat' first
    | with_reducible first
      | exact Kept.refl _ | assumption | refine (State.raise_kept ..).trans ?_
      | refine (State.cnt_same (Blind.vitals.sub (by decide)) ..).kept.trans ?_
      | refine (State.setF_same (Blind.vitals.sub (by decide)) ..).kept.trans ?_ | refine Kept.ite ?_ ?_ | intro _
    | split
    | dsimp only

theorem execTsSample_kept (t : W64) (valid : Bool) (s : State) : KeptR (execTsSample t valid s) s := by
  unfold execTsSample
  repeat' first
    | with_reducible first
      | refine KeptR.guarded ?_ ?_ | refine KeptR.next ?_ | refine KeptR.ite ?_ ?_ | exact Kept.refl _ | assumption
      | refine (State.enterHoldover_kept ..).trans ?_ | refine (State.raise_kept ..).trans ?_
      | refine (State.judgeStep_same (Blind.vitals.sub (by decide)) ..).kept.trans ?_
      | refine (State.setF_same (Blind.vitals.sub (by decide)) ..).kept.trans ?_
      | refine (State.withTb_same (Blind.vitals.sub (by decide)) ..).kept.trans ?_ | refine Kept.ite ?_ ?_
      | refine Kept.ite_fst ?_ ?_ | intro _
    | split
    | dsimp only

theorem execTsSampleMissing_kept (s : State) : KeptR (execTsSampleMissing s) s := by
  unfold execTsSampleMissing
  repeat' first
    | with_reducible first
      | refine KeptR.guarded ?_ ?_ | refine KeptR.next ?_ | refine KeptR.ite ?_ ?_ | exact Kept.refl _ | assumption
      | refine (State.enterHoldover_kept ..).trans ?_
      | refine (State.withTb_same (Blind.vitals.sub (by decide)) ..).kept.trans ?_ | refine Kept.ite ?_ ?_
      | refine Kept.ite_fst ?_ ?_ | intro _
    | split
    | dsimp only

theorem execTraceCopy_kept (s : State) : KeptR (execTraceCopy s) s := by
  unfold execTraceCopy
  repeat' first
    | with_reducible first
      | refine KeptR.guarded ?_ ?_ | refine KeptR.next ?_ | refine KeptR.ite ?_ ?_ | exact Kept.refl _ | assumption
      | refine (State.ctlHops_kept ..).trans ?_ | refine (State.writeBytes_kept ..).trans ?_
      | refine (State.arbBusy_same (Blind.vitals.sub (by decide)) ..).kept.trans ?_
      | refine (State.cnt_same (Blind.vitals.sub (by decide)) ..).kept.trans ?_
      | refine (State.traceFail_same (Blind.vitals.sub (by decide)) ..).kept.trans ?_
      | refine (State.withTrace_same (Blind.vitals.sub (by decide)) ..).kept.trans ?_
      | refine (State.wrapAdd_same (Blind.vitals.sub (by decide)) ..).kept.trans ?_ | refine Kept.ite ?_ ?_
      | refine Kept.ite_fst ?_ ?_ | intro _
    | split
    | dsimp only

theorem State.stopProgram_kept (s : State) : Kept (State.stopProgram s) s := by
  unfold State.stopProgram
  repeat' first
    | with_reducible first
      | exact Kept.refl _ | assumption | refine (State.programCopy_kept ..).trans ?_
      | refine (State.withFree_same (Blind.vitals.sub (by decide)) ..).kept.trans ?_ | refine Kept.ite ?_ ?_ | intro _
    | split
    | dsimp only

theorem State.hardReset_kept (s : State) : Kept (State.hardReset s) s := by
  unfold State.hardReset
  repeat' first
    | with_reducible first
      | exact Kept.refl _ | assumption | refine (State.stopProgram_kept ..).trans ?_
      | refine (State.afterReset_kept ..).trans ?_ | refine (State.after_kept ?_).trans ?_ | intro _
    | split
    | dsimp only

theorem State.haltTick_kept (s : State) : Kept (State.haltTick s) s := by
  unfold State.haltTick
  repeat' first
    | with_reducible first
      | exact Kept.refl _ | assumption | refine (State.softReset_kept ..).trans ?_
      | refine (State.haltRecord_same (Blind.vitals.sub (by decide)) ..).kept.trans ?_
      | refine (State.withPair_same (Blind.vitals.sub (by decide)) ..).kept.trans ?_ | refine Kept.ite ?_ ?_ | intro _
    | split
    | dsimp only

theorem execResetAssert_kept (s : State) : KeptR (execResetAssert s) s := by
  unfold execResetAssert
  repeat' first
    | with_reducible first
      | refine KeptR.guarded ?_ ?_ | refine KeptR.next ?_ | refine KeptR.ite ?_ ?_ | exact Kept.refl _ | assumption
      | refine (State.hardReset_kept ..).trans ?_ | intro _
    | split
    | dsimp only

theorem State.resetCmd_kept (s : State) (soft hard : Bool) : Kept (State.resetCmd s soft hard) s := by
  unfold State.resetCmd
  repeat' first
    | with_reducible first
      | exact Kept.refl _ | assumption | refine (State.hardReset_kept ..).trans ?_ | refine (State.halt_kept ..).trans ?_
      | refine (State.softReset_kept ..).trans ?_
      | refine (State.withPat_same (Blind.vitals.sub (by decide)) ..).kept.trans ?_ | refine Kept.ite ?_ ?_ | intro _
    | split
    | dsimp only

theorem execSoftReset_kept (w : W64) (s : State) : KeptR (execSoftReset w s) s := by
  unfold execSoftReset
  repeat' first
    | with_reducible first
      | refine KeptR.guarded ?_ ?_ | refine KeptR.next ?_ | refine KeptR.ite ?_ ?_ | exact Kept.refl _ | assumption
      | refine (State.resetCmd_kept ..).trans ?_ | intro _
    | split
    | dsimp only

theorem execHardReset_kept (w : W64) (s : State) : KeptR (execHardReset w s) s := by
  unfold execHardReset
  repeat' first
    | with_reducible first
      | refine KeptR.guarded ?_ ?_ | refine KeptR.next ?_ | refine KeptR.ite ?_ ?_ | exact Kept.refl _ | assumption
      | refine (State.resetCmd_kept ..).trans ?_ | intro _
    | split
    | dsimp only

theorem State.startOutputs_kept (s : State) : Kept (State.startOutputs s) s := by
  unfold State.startOutputs
  repeat' first
    | with_reducible first
      | exact Kept.refl _ | assumption | refine (State.attempt_kept ..).trans ?_ | refine (State.judgeAll_kept ..).trans ?_
      | refine (State.raise_kept ..).trans ?_ | refine (State.setF_same (Blind.vitals.sub (by decide)) ..).kept.trans ?_
      | refine (State.setQ_same (Blind.vitals.sub (by decide)) ..).kept.trans ?_
      | refine (State.withPat_same (Blind.vitals.sub (by decide)) ..).kept.trans ?_
      | refine (State.withPins_same (Blind.vitals.sub (by decide)) ..).kept.trans ?_
      | refine (State.withTb_same (Blind.vitals.sub (by decide)) ..).kept.trans ?_ | refine Kept.ite ?_ ?_ | intro _
    | split
    | dsimp only

theorem execPatternApply_kept (s : State) : KeptR (execPatternApply s) s := by
  unfold execPatternApply
  repeat' first
    | with_reducible first
      | refine KeptR.guarded ?_ ?_ | refine KeptR.next ?_ | refine KeptR.ite ?_ ?_ | exact Kept.refl _ | assumption
      | refine (State.startOutputs_kept ..).trans ?_
      | refine (State.applyPattern_same (Blind.vitals.sub (by decide)) ..).kept.trans ?_ | intro _
    | split
    | dsimp only

theorem State.patResult_kept (s : State) (r : Nat) : Kept (State.patResult s r) s := by
  unfold State.patResult
  repeat' first
    | with_reducible first
      | exact Kept.refl _ | assumption | refine (State.raise_kept ..).trans ?_
      | refine (State.setF_same (Blind.vitals.sub (by decide)) ..).kept.trans ?_ | intro _
    | split
    | dsimp only

theorem State.applyWindow_kept (s : State) : Kept (State.applyWindow s) s := by
  unfold State.applyWindow
  repeat' first
    | with_reducible first
      | exact Kept.refl _ | assumption | refine (State.startOutputs_kept ..).trans ?_
      | refine (State.patResult_kept ..).trans ?_
      | refine (State.applyPattern_same (Blind.vitals.sub (by decide)) ..).kept.trans ?_
      | refine (State.recordCopy_same (Blind.vitals.sub (by decide)) ..).kept.trans ?_ | refine Kept.ite ?_ ?_
      | refine Kept.ite_fst ?_ ?_ | intro _
    | split
    | dsimp only

theorem State.programWindow_kept (s : State) (c : Nat) : Kept (State.programWindow s c) s := by
  unfold State.programWindow
  repeat' first
    | with_reducible first
      | exact Kept.refl _ | assumption | refine (State.patResult_kept ..).trans ?_
      | refine (State.recordCopy_same (Blind.vitals.sub (by decide)) ..).kept.trans ?_
      | refine (State.setF_same (Blind.vitals.sub (by decide)) ..).kept.trans ?_
      | refine (State.withPat_same (Blind.vitals.sub (by decide)) ..).kept.trans ?_
      | refine (State.withPins_same (Blind.vitals.sub (by decide)) ..).kept.trans ?_ | refine Kept.ite ?_ ?_
      | refine Kept.ite_fst ?_ ?_ | intro _
    | split
    | dsimp only

theorem State.patCmd_kept (s : State) (w : W64) : Kept (State.patCmd s w) s := by
  unfold State.patCmd
  repeat' first
    | with_reducible first
      | exact Kept.refl _ | assumption | refine (State.applyWindow_kept ..).trans ?_
      | refine (State.programWindow_kept ..).trans ?_
      | refine (State.setF_same (Blind.vitals.sub (by decide)) ..).kept.trans ?_ | refine Kept.ite ?_ ?_ | intro _
    | split
    | dsimp only

theorem execPatApply_kept (w : W64) (s : State) : KeptR (execPatApply w s) s := by
  unfold execPatApply
  repeat' first
    | with_reducible first
      | refine KeptR.guarded ?_ ?_ | refine KeptR.next ?_ | refine KeptR.ite ?_ ?_ | exact Kept.refl _ | assumption
      | refine (State.patCmd_kept ..).trans ?_ | intro _
    | split
    | dsimp only

theorem execPatProgram_kept (w : W64) (s : State) : KeptR (execPatProgram w s) s := by
  unfold execPatProgram
  repeat' first
    | with_reducible first
      | refine KeptR.guarded ?_ ?_ | refine KeptR.next ?_ | refine KeptR.ite ?_ ?_ | exact Kept.refl _ | assumption
      | refine (State.patCmd_kept ..).trans ?_ | intro _
    | split
    | dsimp only

theorem execFlashProgramDone_kept (written : Nat) (complete : Bool) (s : State) :
    KeptR (execFlashProgramDone written complete s) s := by
  unfold execFlashProgramDone
  repeat' first
    | with_reducible first
      | refine KeptR.guarded ?_ ?_ | refine KeptR.next ?_ | refine KeptR.ite ?_ ?_ | exact Kept.refl _ | assumption
      | refine (State.programCopy_kept ..).trans ?_ | refine (State.patResult_kept ..).trans ?_
      | refine (State.recordCopy_same (Blind.vitals.sub (by decide)) ..).kept.trans ?_
      | refine (State.setF_same (Blind.vitals.sub (by decide)) ..).kept.trans ?_
      | refine (State.withPins_same (Blind.vitals.sub (by decide)) ..).kept.trans ?_ | refine Kept.ite ?_ ?_
      | refine Kept.ite_fst ?_ ?_ | intro _
    | split
    | dsimp only

theorem execLaceDetect_kept (l : BitVec 9) (s : State) : KeptR (execLaceDetect l s) s := by
  unfold execLaceDetect
  repeat' first
    | with_reducible first
      | refine KeptR.guarded ?_ ?_ | refine KeptR.next ?_ | refine KeptR.ite ?_ ?_ | exact Kept.refl _ | assumption
      | refine (State.attempt_kept ..).trans ?_ | refine (State.setLace_kept ..).trans ?_ | refine Kept.ite ?_ ?_
      | refine Kept.ite_fst ?_ ?_ | intro _
    | split
    | dsimp only

theorem execLaceLock_kept (cdr comma : BitVec 9) (rx : List (List (BitVec 40))) (s : State) :
    KeptR (execLaceLock cdr comma rx s) s := by
  unfold execLaceLock
  repeat' first
    | with_reducible first
      | refine KeptR.guarded ?_ ?_ | refine KeptR.next ?_ | refine KeptR.ite ?_ ?_ | exact Kept.refl _ | assumption
      | refine (State.setLace_kept ..).trans ?_ | refine (State.lockBy_same (Blind.vitals.sub (by decide)) ..).kept.trans ?_
      | refine Kept.getD ?_ | refine (Kept.foldl _ _ _ ?_).trans ?_ | refine Kept.ite ?_ ?_ | refine Kept.ite_fst ?_ ?_
      | intro _
    | split
    | dsimp only

theorem execLaneLockWaitExpiry_kept (s : State) : KeptR (execLaneLockWaitExpiry s) s := by
  unfold execLaneLockWaitExpiry
  repeat' first
    | with_reducible first
      | refine KeptR.guarded ?_ ?_ | refine KeptR.next ?_ | refine KeptR.ite ?_ ?_ | exact Kept.refl _ | assumption
      | refine (State.setLace_kept ..).trans ?_ | intro _
    | split
    | dsimp only

theorem execLaceDeskew_kept (rx : List (List (BitVec 40))) (s : State) : KeptR (execLaceDeskew rx s) s := by
  unfold execLaceDeskew
  repeat' first
    | with_reducible first
      | refine KeptR.guarded ?_ ?_ | refine KeptR.next ?_ | refine KeptR.ite ?_ ?_ | exact Kept.refl _ | assumption
      | refine (State.setLace_kept ..).trans ?_ | refine (State.setF_same (Blind.vitals.sub (by decide)) ..).kept.trans ?_
      | refine Kept.getD ?_ | refine (Kept.foldl _ _ _ ?_).trans ?_ | refine Kept.ite ?_ ?_ | refine Kept.ite_fst ?_ ?_
      | intro _
    | split
    | dsimp only

theorem execLaceConfig_kept (rx : List (BitVec 40)) (s : State) : KeptR (execLaceConfig rx s) s := by
  unfold execLaceConfig
  repeat' first
    | with_reducible first
      | refine KeptR.guarded ?_ ?_ | refine KeptR.next ?_ | refine KeptR.ite ?_ ?_ | exact Kept.refl _ | assumption
      | refine (State.failAttempt_kept ..).trans ?_ | refine (State.linkUp_kept ..).trans ?_
      | refine (State.lastTs2_same (Blind.vitals.sub (by decide)) ..).kept.trans ?_
      | refine (State.setF_same (Blind.vitals.sub (by decide)) ..).kept.trans ?_
      | refine (State.train_same (Blind.vitals.sub (by decide)) ..).kept.trans ?_
      | refine (State.useLanes_same (Blind.vitals.sub (by decide)) ..).kept.trans ?_
      | refine (State.withLace_same (Blind.vitals.sub (by decide)) ..).kept.trans ?_ | refine Kept.ite ?_ ?_
      | refine Kept.ite_fst ?_ ?_ | intro _
    | split
    | dsimp only

theorem execAttemptTimeout_kept (s : State) : KeptR (execAttemptTimeout s) s := by
  unfold execAttemptTimeout
  repeat' first
    | with_reducible first
      | refine KeptR.guarded ?_ ?_ | refine KeptR.next ?_ | refine KeptR.ite ?_ ?_ | exact Kept.refl _ | assumption
      | refine (State.failAttempt_kept ..).trans ?_ | intro _
    | split
    | dsimp only

theorem execPacket_kept (b : List Byte) (s : State) : KeptR (execPacket b s) s := by
  unfold execPacket
  repeat' first
    | with_reducible first
      | refine KeptR.guarded ?_ ?_ | refine KeptR.next ?_ | refine KeptR.ite ?_ ?_ | exact Kept.refl _ | assumption
      | refine (State.receive_kept ..).trans ?_ | intro _
    | split
    | dsimp only

theorem execFeedback_kept (b : List Byte) (s : State) : KeptR (execFeedback b s) s := by
  unfold execFeedback
  repeat' first
    | with_reducible first
      | refine KeptR.guarded ?_ ?_ | refine KeptR.next ?_ | refine KeptR.ite ?_ ?_ | exact Kept.refl _ | assumption
      | refine (State.receive_kept ..).trans ?_ | intro _
    | split
    | dsimp only

theorem execReplayTimeout_kept (v : Fin 3) (s : State) : KeptR (execReplayTimeout v s) s := by
  unfold execReplayTimeout
  repeat' first
    | with_reducible first
      | refine KeptR.guarded ?_ ?_ | refine KeptR.next ?_ | refine KeptR.ite ?_ ?_ | exact Kept.refl _ | assumption
      | refine (State.startReplay_kept ..).trans ?_ | refine (State.recover_kept ..).trans ?_
      | refine (State.raise_kept ..).trans ?_ | refine (State.setVc_same (Blind.vitals.sub (by decide)) ..).kept.trans ?_
      | refine Kept.ite ?_ ?_ | refine Kept.ite_fst ?_ ?_ | intro _
    | split
    | dsimp only

theorem State.writeSpill_kept (s : State) (n : Nat) (b : List Byte) : Kept (State.writeSpill s n b) s := by
  unfold State.writeSpill
  repeat' first
    | with_reducible first
      | exact Kept.refl _ | assumption | refine (State.writePkg_kept ..).trans ?_ | refine (State.touchBlock_kept ..).trans ?_
      | refine (Kept.foldl _ _ _ ?_).trans ?_ | intro _
    | split
    | dsimp only

theorem execReplaySpill_kept (s : State) : KeptR (execReplaySpill s) s := by
  unfold execReplaySpill
  repeat' first
    | with_reducible first
      | refine KeptR.guarded ?_ ?_ | refine KeptR.next ?_ | refine KeptR.ite ?_ ?_ | exact Kept.refl _ | assumption
      | refine (State.writeSpill_kept ..).trans ?_
      | refine (State.arbBusy_same (Blind.vitals.sub (by decide)) ..).kept.trans ?_
      | refine (State.peak_same (Blind.vitals.sub (by decide)) ..).kept.trans ?_
      | refine (State.pump_same (Blind.vitals.sub (by decide)) ..).kept.trans ?_
      | refine (State.setVc_same (Blind.vitals.sub (by decide)) ..).kept.trans ?_
      | refine (State.withLace_same (Blind.vitals.sub (by decide)) ..).kept.trans ?_ | refine Kept.ite ?_ ?_
      | refine Kept.ite_fst ?_ ?_ | intro _
    | split
    | dsimp only

theorem execRefill_kept (v : Fin 3) (s : State) : KeptR (execRefill v s) s := by
  unfold execRefill
  repeat' first
    | with_reducible first
      | refine KeptR.guarded ?_ ?_ | refine KeptR.next ?_ | refine KeptR.ite ?_ ?_ | exact Kept.refl _ | assumption
      | refine (State.fatal_kept ..).trans ?_ | refine (State.arbBusy_same (Blind.vitals.sub (by decide)) ..).kept.trans ?_
      | refine (State.cnt_same (Blind.vitals.sub (by decide)) ..).kept.trans ?_
      | refine (State.pump_same (Blind.vitals.sub (by decide)) ..).kept.trans ?_
      | refine (State.setVc_same (Blind.vitals.sub (by decide)) ..).kept.trans ?_ | refine Kept.ite ?_ ?_
      | refine Kept.ite_fst ?_ ?_ | intro _
    | split
    | dsimp only

theorem State.loseLock_kept (s : State) (lane : Nat) : Kept (State.loseLock s lane) s := by
  unfold State.loseLock
  repeat' first
    | with_reducible first
      | exact Kept.refl _ | assumption | refine (State.recover_kept ..).trans ?_
      | refine (State.cnt_same (Blind.vitals.sub (by decide)) ..).kept.trans ?_
      | refine (State.setF_same (Blind.vitals.sub (by decide)) ..).kept.trans ?_ | refine Kept.ite ?_ ?_ | intro _
    | split
    | dsimp only

theorem execLossOfLock_kept (lane : Nat) (lost : Bool) (s : State) : KeptR (execLossOfLock lane lost s) s := by
  unfold execLossOfLock
  repeat' first
    | with_reducible first
      | refine KeptR.guarded ?_ ?_ | refine KeptR.next ?_ | refine KeptR.ite ?_ ?_ | exact Kept.refl _ | assumption
      | refine (State.loseLock_kept ..).trans ?_ | refine (State.recover_kept ..).trans ?_ | refine Kept.ite ?_ ?_
      | refine Kept.ite_fst ?_ ?_ | intro _
    | split
    | dsimp only

theorem execRetrain_kept (w : W64) (s : State) : KeptR (execRetrain w s) s := by
  unfold execRetrain
  repeat' first
    | with_reducible first
      | refine KeptR.guarded ?_ ?_ | refine KeptR.next ?_ | refine KeptR.ite ?_ ?_ | exact Kept.refl _ | assumption
      | refine (State.attempt_kept ..).trans ?_ | refine (State.recover_kept ..).trans ?_ | refine Kept.ite ?_ ?_
      | refine Kept.ite_fst ?_ ?_ | intro _
    | split
    | dsimp only

theorem execLinkDown_kept (s : State) : KeptR (execLinkDown s) s := by
  unfold execLinkDown
  repeat' first
    | with_reducible first
      | refine KeptR.guarded ?_ ?_ | refine KeptR.next ?_ | refine KeptR.ite ?_ ?_ | exact Kept.refl _ | assumption
      | refine (State.goDown_kept ..).trans ?_ | refine (State.withLace_same (Blind.vitals.sub (by decide)) ..).kept.trans ?_
      | refine Kept.ite ?_ ?_ | refine Kept.ite_fst ?_ ?_ | intro _
    | split
    | dsimp only

theorem State.retireLane_kept (s : State) (i : Nat) : Kept (State.retireLane s i) s := by
  unfold State.retireLane
  repeat' first
    | with_reducible first
      | exact Kept.refl _ | assumption | refine (State.raise_kept ..).trans ?_
      | refine (State.logIn_same (Blind.vitals.sub (by decide)) ..).kept.trans ?_
      | refine (State.setF_same (Blind.vitals.sub (by decide)) ..).kept.trans ?_ | refine Kept.ite ?_ ?_ | intro _
    | split
    | dsimp only

theorem State.markBad_kept (s : State) (lane : Nat) : Kept (State.markBad s lane) s := by
  unfold State.markBad
  repeat' first
    | with_reducible first
      | exact Kept.refl _ | assumption | refine (State.retireLane_kept ..).trans ?_ | refine (State.recover_kept ..).trans ?_
      | refine (State.raise_kept ..).trans ?_ | refine (State.withLace_same (Blind.vitals.sub (by decide)) ..).kept.trans ?_
      | refine Kept.ite ?_ ?_ | intro _
    | split
    | dsimp only

theorem execLaneErrorWindow_kept (lane : Nat) (rx : List (BitVec 40)) (s : State) :
    KeptR (execLaneErrorWindow lane rx s) s := by
  unfold execLaneErrorWindow
  repeat' first
    | with_reducible first
      | refine KeptR.guarded ?_ ?_ | refine KeptR.next ?_ | refine KeptR.ite ?_ ?_ | exact Kept.refl _ | assumption
      | refine (State.loseLock_kept ..).trans ?_ | refine (State.markBad_kept ..).trans ?_
      | refine (State.laneWords_same (Blind.vitals.sub (by decide)) ..).kept.trans ?_
      | refine (State.sat_same (Blind.vitals.sub (by decide)) ..).kept.trans ?_ | refine Kept.ite ?_ ?_
      | refine Kept.ite_fst ?_ ?_ | intro _
    | split
    | dsimp only

theorem State.laceOff_kept (s : State) : Kept (State.laceOff s) s := by
  unfold State.laceOff
  repeat' first
    | with_reducible first
      | exact Kept.refl _ | assumption | refine (State.goDown_kept ..).trans ?_ | refine (State.setLace_kept ..).trans ?_
      | refine (State.stopLaneTest_kept ..).trans ?_
      | refine (State.dropSession_same (Blind.vitals.sub (by decide)) ..).kept.trans ?_
      | refine (State.withLace_same (Blind.vitals.sub (by decide)) ..).kept.trans ?_ | intro _
    | split
    | dsimp only

theorem execLaceEnable_kept (on : Bool) (s : State) : KeptR (execLaceEnable on s) s := by
  unfold execLaceEnable
  repeat' first
    | with_reducible first
      | refine KeptR.guarded ?_ ?_ | refine KeptR.next ?_ | refine KeptR.ite ?_ ?_ | exact Kept.refl _ | assumption
      | refine (State.laceOff_kept ..).trans ?_ | refine (State.attempt_kept ..).trans ?_
      | refine (State.setF_same (Blind.vitals.sub (by decide)) ..).kept.trans ?_ | refine Kept.ite ?_ ?_
      | refine Kept.ite_fst ?_ ?_ | intro _
    | split
    | dsimp only

theorem State.sound_forEach {α : Type} (l : List α) (g : α → State → State) (s : State) (h : ∀ a ∈ l, ∀ s : State, s.sound → (g a s).sound)
    (hs : s.sound) : (Sys2Proof.Machine.forEach l g s).sound := by
  unfold Sys2Proof.Machine.forEach
  induction l generalizing s with
  | nil => exact hs
  | cons a r ih =>
    exact ih (g a s) (fun b hb => h b (List.mem_cons_of_mem _ hb)) (h a (List.mem_cons_self ..) s hs)


theorem State.emptyBank_kept (s : State) (b : Nat) : Kept (State.emptyBank s b) s := by
  unfold State.emptyBank
  dsimp only
  refine ⟨fun h => State.sound_forEach _ _ _ (fun a ha u hu => ?_) ((State.withCache_stay (by rfl)).keep h)⟩
  refine (State.withCache_kept (fun hs x hx => ?_)).keep hu
  dsimp only at hx
  rcases Tbl.mem_set hx with e | e
  · rw [e]
    exact Nat.le_trans (List.length_filter_le _ _) (h.2.2.2.2.1 _ (List.mem_of_mem_filter ha))
  · exact hs.2.2.2.2.1 _ e

theorem State.retireBanks_kept (s : State) : Kept (State.retireBanks s) s := by
  unfold State.retireBanks
  repeat' first
    | with_reducible first
      | exact Kept.refl _ | assumption | refine (State.emptyBank_kept ..).trans ?_ | refine (State.raise_kept ..).trans ?_
      | refine (State.log_same (Blind.vitals.sub (by decide)) ..).kept.trans ?_
      | refine (State.setF_same (Blind.vitals.sub (by decide)) ..).kept.trans ?_
      | refine (State.withSpr_same (Blind.vitals.sub (by decide)) ..).kept.trans ?_ | refine (Kept.forEach _ _ _ ?_).trans ?_
      | refine Kept.ite ?_ ?_ | intro _
    | split
    | dsimp only

theorem State.rowFails_kept (s : State) (a row : Nat) (fatal : Bool) : Kept (State.rowFails s a row fatal) s := by
  unfold State.rowFails
  repeat' first
    | with_reducible first
      | exact Kept.refl _ | assumption | refine (State.retireBanks_kept ..).trans ?_ | refine (State.fatal_kept ..).trans ?_
      | refine (State.log_same (Blind.vitals.sub (by decide)) ..).kept.trans ?_
      | refine (State.rowOut_same (Blind.vitals.sub (by decide)) ..).kept.trans ?_
      | refine (State.setF_same (Blind.vitals.sub (by decide)) ..).kept.trans ?_
      | refine (State.withSpr_same (Blind.vitals.sub (by decide)) ..).kept.trans ?_ | refine Kept.ite ?_ ?_ | intro _
    | split
    | dsimp only

theorem State.lostContext_kept (s : State) (k : CtxKind) (n row : Nat) : Kept (State.lostContext s k n row) s := by
  unfold State.lostContext
  repeat' first
    | with_reducible first
      | exact Kept.refl _ | assumption | refine (State.chill_kept ..).trans ?_ | refine (State.rowFails_kept ..).trans ?_
      | refine (State.fatal_kept ..).trans ?_ | refine (State.prefetch_kept ..).trans ?_
      | refine (State.cnt_same (Blind.vitals.sub (by decide)) ..).kept.trans ?_
      | refine (State.withFree_same (Blind.vitals.sub (by decide)) ..).kept.trans ?_ | refine Kept.ite ?_ ?_ | intro _
    | split
    | dsimp only

theorem State.lostRow_kept (s : State) (a row : Nat) : Kept (State.lostRow s a row) s := by
  unfold State.lostRow
  repeat' first
    | with_reducible first
      | exact Kept.refl _ | assumption | refine (State.rowFails_kept ..).trans ?_ | refine (State.fatal_kept ..).trans ?_
      | intro _
    | split
    | dsimp only

theorem State.bistNext_kept (s : State) (faulty : Bool) : Kept (State.bistNext s faulty) s := by
  unfold State.bistNext
  repeat' first
    | with_reducible first
      | exact Kept.refl _ | assumption | refine (State.rowFails_kept ..).trans ?_
      | refine (State.cnt_same (Blind.vitals.sub (by decide)) ..).kept.trans ?_
      | refine (State.withSpr_same (Blind.vitals.sub (by decide)) ..).kept.trans ?_ | refine Kept.ite ?_ ?_ | intro _
    | split
    | dsimp only

theorem execBistRow_kept (found : RowReport) (s : State) : KeptR (execBistRow found s) s := by
  unfold execBistRow
  repeat' first
    | with_reducible first
      | refine KeptR.guarded ?_ ?_ | refine KeptR.next ?_ | refine KeptR.ite ?_ ?_ | exact Kept.refl _ | assumption
      | refine (State.lostRow_kept ..).trans ?_ | refine (State.lostContext_kept ..).trans ?_
      | refine (State.bistNext_kept ..).trans ?_ | refine (State.cnt_same (Blind.vitals.sub (by decide)) ..).kept.trans ?_
      | refine Kept.ite ?_ ?_ | refine Kept.ite_fst ?_ ?_ | intro _
    | split
    | dsimp only

theorem execControlStateParityError_kept (red : Bool) (u : Nat) (s : State) :
    KeptR (execControlStateParityError red u s) s := by
  unfold execControlStateParityError
  repeat' first
    | with_reducible first
      | refine KeptR.guarded ?_ ?_ | refine KeptR.next ?_ | refine KeptR.ite ?_ ?_ | exact Kept.refl _ | assumption
      | refine (State.failEng_kept ..).trans ?_ | refine (State.failRed_kept ..).trans ?_
      | refine (State.failOut_same (Blind.vitals.sub (by decide)) ..).kept.trans ?_
      | refine (State.refuseHand_same (Blind.vitals.sub (by decide)) ..).kept.trans ?_ | refine Kept.ite ?_ ?_
      | refine Kept.ite_fst ?_ ?_ | intro _
    | split
    | dsimp only

theorem State.testCmd_kept (s : State) (w : W64) (pre : Bool) (start : State → State) (h_start : ∀ s , Kept (start s ) s) :
    Kept (State.testCmd s w pre start) s := by
  unfold State.testCmd
  repeat' first
    | with_reducible first
      | exact Kept.refl _ | assumption | refine (h_start ..).trans ?_
      | refine (State.setF_same (Blind.vitals.sub (by decide)) ..).kept.trans ?_ | refine Kept.ite ?_ ?_ | intro _
    | split
    | dsimp only

theorem State.shadowTest_kept (s : State) (w : W64) (selfTest : Bool) : Kept (State.shadowTest s w selfTest) s := by
  unfold State.shadowTest
  repeat' first
    | with_reducible first
      | exact Kept.refl _ | assumption | refine (State.testCmd_kept (h_start := ?_) ..).trans ?_
      | refine (State.endTest_kept ..).trans ?_ | refine (State.setF_same (Blind.vitals.sub (by decide)) ..).kept.trans ?_
      | refine (State.setRed_same (Blind.vitals.sub (by decide)) ..).kept.trans ?_
      | refine (State.testBegin_same (Blind.vitals.sub (by decide)) ..).kept.trans ?_
      | refine (State.withSpr_same (Blind.vitals.sub (by decide)) ..).kept.trans ?_ | refine Kept.ite ?_ ?_ | intro _
    | split
    | dsimp only

theorem execShadowStart_kept (w : W64) (selfTest : Bool) (s : State) : KeptR (execShadowStart w selfTest s) s := by
  unfold execShadowStart
  repeat' first
    | with_reducible first
      | refine KeptR.guarded ?_ ?_ | refine KeptR.next ?_ | refine KeptR.ite ?_ ?_ | exact Kept.refl _ | assumption
      | refine (State.shadowTest_kept ..).trans ?_ | intro _
    | split
    | dsimp only

theorem State.testUnitEnd_kept (s : State) (pass : Bool) : Kept (State.testUnitEnd s pass) s := by
  unfold State.testUnitEnd
  repeat' first
    | with_reducible first
      | exact Kept.refl _ | assumption | refine (State.retireLane_kept ..).trans ?_
      | refine (State.failOut_same (Blind.vitals.sub (by decide)) ..).kept.trans ?_
      | refine (State.setEng_same (Blind.vitals.sub (by decide)) ..).kept.trans ?_
      | refine (State.setF_same (Blind.vitals.sub (by decide)) ..).kept.trans ?_
      | refine (State.setRed_same (Blind.vitals.sub (by decide)) ..).kept.trans ?_
      | refine (State.withSpr_same (Blind.vitals.sub (by decide)) ..).kept.trans ?_ | refine Kept.ite ?_ ?_ | intro _
    | split
    | dsimp only

theorem State.laneTestEnd_kept (s : State) (errors : Nat) (checked : W64) : Kept (State.laneTestEnd s errors checked) s := by
  unfold State.laneTestEnd
  repeat' first
    | with_reducible first
      | exact Kept.refl _ | assumption | refine (State.testUnitEnd_kept ..).trans ?_ | refine (State.recover_kept ..).trans ?_
      | refine (State.endTest_kept ..).trans ?_ | refine Kept.ite ?_ ?_ | intro _
    | split
    | dsimp only

theorem execTestDone_kept (pass : Bool) (errors : W32) (checked : W64) (s : State) :
    KeptR (execTestDone pass errors checked s) s := by
  unfold execTestDone
  repeat' first
    | with_reducible first
      | refine KeptR.guarded ?_ ?_ | refine KeptR.next ?_ | refine KeptR.ite ?_ ?_ | exact Kept.refl _ | assumption
      | refine (State.laneTestEnd_kept ..).trans ?_ | refine (State.testUnitEnd_kept ..).trans ?_
      | refine (State.endTest_kept ..).trans ?_ | refine Kept.ite ?_ ?_ | refine Kept.ite_fst ?_ ?_ | intro _
    | split
    | dsimp only

theorem State.endUnread_kept (s : State) (f : Flight) (st : Nat) : Kept (State.endUnread s f st) s := by
  unfold State.endUnread
  repeat' first
    | with_reducible first
      | exact Kept.refl _ | assumption | refine (State.settle_kept ..).trans ?_
      | refine (State.endEntry_same (Blind.vitals.sub (by decide)) ..).kept.trans ?_ | intro _
    | split
    | dsimp only

theorem execFragmentTableReadDone_kept (q : BitVec 22) (i : W32) (d : Dir) (ans : ReadAns) (s : State) :
    KeptR (execFragmentTableReadDone q i d ans s) s := by
  unfold execFragmentTableReadDone
  repeat' first
    | with_reducible first
      | refine KeptR.guarded ?_ ?_ | refine KeptR.next ?_ | refine KeptR.ite ?_ ?_ | exact Kept.refl _ | assumption
      | refine (State.endUnread_kept ..).trans ?_ | refine (State.openStitch_kept ..).trans ?_
      | refine (State.backRead_same (Blind.vitals.sub (by decide)) ..).kept.trans ?_
      | refine (State.readBack_same (Blind.vitals.sub (by decide)) ..).kept.trans ?_
      | refine (State.readTable_same (Blind.vitals.sub (by decide)) ..).kept.trans ?_
      | refine (State.updFl_same (Blind.vitals.sub (by decide)) ..).kept.trans ?_ | refine (Kept.forEach _ _ _ ?_).trans ?_
      | refine Kept.ite ?_ ?_ | refine Kept.ite_fst ?_ ?_ | intro _
    | split
    | dsimp only

theorem execSourceListReadDone_kept (q : BitVec 22) (i : W32) (ans : ReadAns) (s : State) :
    KeptR (execSourceListReadDone q i ans s) s := by
  unfold execSourceListReadDone
  repeat' first
    | with_reducible first
      | refine KeptR.guarded ?_ ?_ | refine KeptR.next ?_ | refine KeptR.ite ?_ ?_ | exact Kept.refl _ | assumption
      | refine (State.endUnread_kept ..).trans ?_ | refine (State.malformed_kept ..).trans ?_
      | refine (State.backRead_same (Blind.vitals.sub (by decide)) ..).kept.trans ?_
      | refine (State.readBack_same (Blind.vitals.sub (by decide)) ..).kept.trans ?_
      | refine (State.readTable_same (Blind.vitals.sub (by decide)) ..).kept.trans ?_
      | refine (State.updFl_same (Blind.vitals.sub (by decide)) ..).kept.trans ?_ | refine Kept.ite ?_ ?_
      | refine Kept.ite_fst ?_ ?_ | intro _
    | split
    | dsimp only

theorem execDataReadDone_kept (e src : Nat) (ans : ReadAns) (s : State) : KeptR (execDataReadDone e src ans s) s := by
  unfold execDataReadDone
  repeat' first
    | with_reducible first
      | refine KeptR.guarded ?_ ?_ | refine KeptR.next ?_ | refine KeptR.ite ?_ ?_ | exact Kept.refl _ | assumption
      | refine (State.engineGo_kept ..).trans ?_
      | refine (State.goneRead_same (Blind.vitals.sub (by decide)) ..).kept.trans ?_
      | refine (State.stageRead_same (Blind.vitals.sub (by decide)) ..).kept.trans ?_ | intro _
    | split
    | dsimp only

theorem State.failWrite_kept (s : State) (q : Nat) (i : W32) (w st : Nat) : Kept (State.failWrite s q i w st) s := by
  unfold State.failWrite
  repeat' first
    | with_reducible first
      | exact Kept.refl _ | assumption | refine (State.settle_kept ..).trans ?_
      | refine (State.endEntry_same (Blind.vitals.sub (by decide)) ..).kept.trans ?_
      | refine (State.reap_same (Blind.vitals.sub (by decide)) ..).kept.trans ?_
      | refine (State.updFl_same (Blind.vitals.sub (by decide)) ..).kept.trans ?_ | intro _
    | split
    | dsimp only

theorem State.wroteData_kept (s : State) (q : Nat) (i : W32) (x : DataWrite) : Kept (State.wroteData s q i x) s := by
  unfold State.wroteData
  repeat' first
    | with_reducible first
      | exact Kept.refl _ | assumption | refine (State.settle_kept ..).trans ?_
      | refine (State.reap_same (Blind.vitals.sub (by decide)) ..).kept.trans ?_
      | refine (State.updFl_same (Blind.vitals.sub (by decide)) ..).kept.trans ?_ | refine Kept.ite ?_ ?_ | intro _
    | split
    | dsimp only

theorem State.acceptWrite_kept (s : State) (q : Nat) (x : DataWrite) (poison : Bool) :
    Kept (State.acceptWrite s q x poison) s := by
  unfold State.acceptWrite
  repeat' first
    | with_reducible first
      | exact Kept.refl _ | assumption | refine (State.land_kept ..).trans ?_
      | refine (State.cover_same (Blind.vitals.sub (by decide)) ..).kept.trans ?_ | intro _
    | split
    | dsimp only

theorem execDataWriteAck_kept (q : BitVec 22) (i : W32) (w : Nat) (s : State) : KeptR (execDataWriteAck q i w s) s := by
  unfold execDataWriteAck
  repeat' first
    | with_reducible first
      | refine KeptR.guarded ?_ ?_ | refine KeptR.next ?_ | refine KeptR.ite ?_ ?_ | exact Kept.refl _ | assumption
      | refine (State.acceptWrite_kept ..).trans ?_ | refine (State.wroteData_kept ..).trans ?_
      | refine (State.failWrite_kept ..).trans ?_ | refine (State.cnt_same (Blind.vitals.sub (by decide)) ..).kept.trans ?_
      | refine (State.updFl_same (Blind.vitals.sub (by decide)) ..).kept.trans ?_ | refine Kept.ite ?_ ?_
      | refine Kept.ite_fst ?_ ?_ | intro _
    | split
    | dsimp only

theorem execEntryComplete_kept (q : BitVec 22) (i : W32) (s : State) : KeptR (execEntryComplete q i s) s := by
  unfold execEntryComplete
  repeat' first
    | with_reducible first
      | refine KeptR.guarded ?_ ?_ | refine KeptR.next ?_ | refine KeptR.ite ?_ ?_ | exact Kept.refl _ | assumption
      | refine (State.tryComplete_kept ..).trans ?_ | intro _
    | split
    | dsimp only

theorem State.releaseHeld_kept (s : State) (p : Nat) : Kept (State.releaseHeld s p) s := by
  unfold State.releaseHeld
  repeat' first
    | with_reducible first
      | exact Kept.refl _ | assumption | refine (State.sendMsg_kept ..).trans ?_
      | refine (State.withIc_stay (by rfl)).trans ?_ | refine (Kept.forEach _ _ _ ?_).trans ?_ | refine Kept.ite ?_ ?_
      | refine Kept.ite_fst ?_ ?_ | intro _
    | split
    | dsimp only

theorem State.sendFlushes_kept (s : State) : Kept (State.sendFlushes s) s := by
  unfold State.sendFlushes
  repeat' first
    | with_reducible first
      | exact Kept.refl _ | assumption | refine (State.emit_same (Blind.vitals.sub (by decide)) ..).kept.trans ?_
      | refine (State.withIc_stay (by rfl)).trans ?_ | refine (Kept.forEach _ _ _ ?_).trans ?_ | refine Kept.ite ?_ ?_
      | intro _
    | split
    | dsimp only

theorem execFlushReadDone_kept (q : BitVec 22) (i : W32) (p : Fin 2) (s : State) : KeptR (execFlushReadDone q i p s) s := by
  unfold execFlushReadDone
  repeat' first
    | with_reducible first
      | refine KeptR.guarded ?_ ?_ | refine KeptR.next ?_ | refine KeptR.ite ?_ ?_ | exact Kept.refl _ | assumption
      | refine (State.releaseHeld_kept ..).trans ?_ | refine (State.finish_kept ..).trans ?_
      | refine (State.updFl_same (Blind.vitals.sub (by decide)) ..).kept.trans ?_ | refine Kept.ite ?_ ?_
      | refine Kept.ite_fst ?_ ?_ | intro _
    | split
    | dsimp only

theorem State.remoteFail_kept (s : State) (q : Nat) (i : W32) (reason ofs : Nat) :
    Kept (State.remoteFail s q i reason ofs) s := by
  unfold State.remoteFail
  repeat' first
    | with_reducible first
      | exact Kept.refl _ | assumption | refine (State.settle_kept ..).trans ?_
      | refine (State.endEntry_same (Blind.vitals.sub (by decide)) ..).kept.trans ?_
      | refine (State.reap_same (Blind.vitals.sub (by decide)) ..).kept.trans ?_
      | refine (State.setF_same (Blind.vitals.sub (by decide)) ..).kept.trans ?_ | intro _
    | split
    | dsimp only

theorem execDeliveryReport_kept (q : BitVec 22) (i : W32) (w : Nat) (reason : Nat) (s : State) :
    KeptR (execDeliveryReport q i w reason s) s := by
  unfold execDeliveryReport
  repeat' first
    | with_reducible first
      | refine KeptR.guarded ?_ ?_ | refine KeptR.next ?_ | refine KeptR.ite ?_ ?_ | exact Kept.refl _ | assumption
      | refine (State.remoteFail_kept ..).trans ?_ | refine (State.wroteData_kept ..).trans ?_
      | refine (State.updFl_same (Blind.vitals.sub (by decide)) ..).kept.trans ?_ | refine Kept.ite ?_ ?_
      | refine Kept.ite_fst ?_ ?_ | intro _
    | split
    | dsimp only

theorem execGetResponse_kept (e : Nat) (data : Segment) (ans : NetAns) (s : State) :
    KeptR (execGetResponse e data ans s) s := by
  unfold execGetResponse
  repeat' first
    | with_reducible first
      | refine KeptR.guarded ?_ ?_ | refine KeptR.next ?_ | refine KeptR.ite ?_ ?_ | exact Kept.refl _ | assumption
      | refine (State.remoteFail_kept ..).trans ?_ | refine (State.engineGo_kept ..).trans ?_
      | refine (State.dropGet_same (Blind.vitals.sub (by decide)) ..).kept.trans ?_
      | refine (State.stageBytes_same (Blind.vitals.sub (by decide)) ..).kept.trans ?_ | refine Kept.ite ?_ ?_
      | refine Kept.ite_fst ?_ ?_ | intro _
    | split
    | dsimp only

theorem execNetpTimeout_kept (q : BitVec 22) (i : W32) (s : State) : KeptR (execNetpTimeout q i s) s := by
  unfold execNetpTimeout
  repeat' first
    | with_reducible first
      | refine KeptR.guarded ?_ ?_ | refine KeptR.next ?_ | refine KeptR.ite ?_ ?_ | exact Kept.refl _ | assumption
      | refine (State.remoteFail_kept ..).trans ?_
      | refine (State.dropGet_same (Blind.vitals.sub (by decide)) ..).kept.trans ?_
      | refine (State.updFl_same (Blind.vitals.sub (by decide)) ..).kept.trans ?_ | intro _
    | split
    | dsimp only

theorem execMerge_kept (a : W64) (new : List Byte) (s : State) : KeptR (execMerge a new s) s := by
  unfold execMerge
  repeat' first
    | with_reducible first
      | refine KeptR.guarded ?_ ?_ | refine KeptR.next ?_ | refine KeptR.ite ?_ ?_ | exact Kept.refl _ | assumption
      | refine (State.writeWord_kept ..).trans ?_ | intro _
    | split
    | dsimp only

theorem State.updMq_kept (s : State) (q : Nat) (g : QCtx → QCtx) : Kept (State.updMq s q g) s := by
  unfold State.updMq
  repeat' first
    | with_reducible first
      | exact Kept.refl _ | assumption | refine (State.warm_kept ..).trans ?_
      | refine (State.setMq_same (Blind.vitals.sub (by decide)) ..).kept.trans ?_ | refine Kept.ite ?_ ?_ | intro _
    | split
    | dsimp only

theorem State.updMcq_kept (s : State) (c : Nat) (g : CqCtx → CqCtx) : Kept (State.updMcq s c g) s := by
  unfold State.updMcq
  repeat' first
    | with_reducible first
      | exact Kept.refl _ | assumption | refine (State.warm_kept ..).trans ?_
      | refine (State.setMcq_same (Blind.vitals.sub (by decide)) ..).kept.trans ?_ | refine Kept.ite ?_ ?_ | intro _
    | split
    | dsimp only

theorem State.recSnap_kept (s : State) (r : MRec) : Kept (State.recSnap s r) s := by
  unfold State.recSnap
  repeat' first
    | with_reducible first
      | exact Kept.refl _ | assumption | refine (State.updMq_kept ..).trans ?_ | intro _
    | split
    | dsimp only

theorem State.recCi_kept (s : State) (r : MRec) : Kept (State.recCi s r) s := by
  unfold State.recCi
  repeat' first
    | with_reducible first
      | exact Kept.refl _ | assumption | refine (State.updMq_kept ..).trans ?_
      | refine (State.log_same (Blind.vitals.sub (by decide)) ..).kept.trans ?_
      | refine (State.withPair_same (Blind.vitals.sub (by decide)) ..).kept.trans ?_ | intro _
    | split
    | dsimp only

theorem State.recCtr_kept (s : State) (r : MRec) : Kept (State.recCtr s r) s := by
  unfold State.recCtr
  repeat' first
    | with_reducible first
      | exact Kept.refl _ | assumption | refine (State.warm_kept ..).trans ?_
      | refine (State.setCtr_same (Blind.vitals.sub (by decide)) ..).kept.trans ?_
      | refine (State.updLog_same (Blind.vitals.sub (by decide)) ..).kept.trans ?_ | refine Kept.ite ?_ ?_ | intro _
    | split
    | dsimp only

theorem State.recQCtx_kept (s : State) (r : MRec) (ctx : List W64) : Kept (State.recQCtx s r ctx) s := by
  unfold State.recQCtx
  repeat' first
    | with_reducible first
      | exact Kept.refl _ | assumption | refine (State.warm_kept ..).trans ?_
      | refine (State.setMq_same (Blind.vitals.sub (by decide)) ..).kept.trans ?_ | intro _
    | split
    | dsimp only

theorem State.recEffect_kept (s : State) (x0 : Instr) : Kept (State.recEffect s x0) s := by
  unfold State.recEffect
  repeat' first
    | with_reducible first
      | exact Kept.refl _ | assumption | refine (State.recCtr_kept ..).trans ?_ | refine (State.chill_kept ..).trans ?_
      | refine (State.recQCtx_kept ..).trans ?_ | refine (State.warm_kept ..).trans ?_
      | refine (State.updMcq_kept ..).trans ?_ | refine (State.recSnap_kept ..).trans ?_
      | refine (State.recCi_kept ..).trans ?_ | refine (State.raise_kept ..).trans ?_
      | refine (State.recComplete_same (Blind.vitals.sub (by decide)) ..).kept.trans ?_
      | refine (State.recStart_same (Blind.vitals.sub (by decide)) ..).kept.trans ?_
      | refine (State.setCtr_same (Blind.vitals.sub (by decide)) ..).kept.trans ?_
      | refine (State.setKeep_same (Blind.vitals.sub (by decide)) ..).kept.trans ?_
      | refine (State.setMcq_same (Blind.vitals.sub (by decide)) ..).kept.trans ?_
      | refine (State.setMq_same (Blind.vitals.sub (by decide)) ..).kept.trans ?_ | refine Kept.ite ?_ ?_ | intro _
    | split
    | dsimp only

theorem State.applyRec_kept (s : State) (c : Instr) : Kept (State.applyRec s c) s := by
  unfold State.applyRec
  repeat' first
    | with_reducible first
      | exact Kept.refl _ | assumption | refine (State.recEffect_kept ..).trans ?_
      | refine (State.checkDrain_same (Blind.vitals.sub (by decide)) ..).kept.trans ?_
      | refine (State.consume_same (Blind.vitals.sub (by decide)) ..).kept.trans ?_
      | refine (State.ctrlMsg_same (Blind.vitals.sub (by decide)) ..).kept.trans ?_
      | refine (State.withPair_same (Blind.vitals.sub (by decide)) ..).kept.trans ?_ | refine Kept.ite ?_ ?_ | intro _
    | split
    | dsimp only

theorem State.takeRec_kept (s : State) (c : Instr) : Kept (State.takeRec s c) s := by
  unfold State.takeRec
  repeat' first
    | with_reducible first
      | exact Kept.refl _ | assumption | refine (State.applyRec_kept ..).trans ?_
      | refine (State.consume_same (Blind.vitals.sub (by decide)) ..).kept.trans ?_
      | refine (State.countLookup_same (Blind.vitals.sub (by decide)) ..).kept.trans ?_
      | refine (State.withCache_stay (by rfl)).trans ?_ | refine Kept.ite ?_ ?_ | intro _
    | split
    | dsimp only

theorem execSnap_kept (r : MRec) (s : State) : KeptR (execSnap r s) s := by
  unfold execSnap
  repeat' first
    | with_reducible first
      | refine KeptR.guarded ?_ ?_ | refine KeptR.next ?_ | refine KeptR.ite ?_ ?_ | exact Kept.refl _ | assumption
      | refine (State.takeRec_kept ..).trans ?_ | intro _
    | split
    | dsimp only

theorem execCi_kept (r : MRec) (s : State) : KeptR (execCi r s) s := by
  unfold execCi
  repeat' first
    | with_reducible first
      | refine KeptR.guarded ?_ ?_ | refine KeptR.next ?_ | refine KeptR.ite ?_ ?_ | exact Kept.refl _ | assumption
      | refine (State.takeRec_kept ..).trans ?_ | intro _
    | split
    | dsimp only

theorem execStart_kept (r : MRec) (s : State) : KeptR (execStart r s) s := by
  unfold execStart
  repeat' first
    | with_reducible first
      | refine KeptR.guarded ?_ ?_ | refine KeptR.next ?_ | refine KeptR.ite ?_ ?_ | exact Kept.refl _ | assumption
      | refine (State.takeRec_kept ..).trans ?_ | intro _
    | split
    | dsimp only

theorem execComplete_kept (r : MRec) (rec : List W64) (s : State) : KeptR (execComplete r rec s) s := by
  unfold execComplete
  repeat' first
    | with_reducible first
      | refine KeptR.guarded ?_ ?_ | refine KeptR.next ?_ | refine KeptR.ite ?_ ?_ | exact Kept.refl _ | assumption
      | refine (State.takeRec_kept ..).trans ?_ | intro _
    | split
    | dsimp only

theorem execCqpi_kept (r : MRec) (s : State) : KeptR (execCqpi r s) s := by
  unfold execCqpi
  repeat' first
    | with_reducible first
      | refine KeptR.guarded ?_ ?_ | refine KeptR.next ?_ | refine KeptR.ite ?_ ?_ | exact Kept.refl _ | assumption
      | refine (State.takeRec_kept ..).trans ?_ | intro _
    | split
    | dsimp only

theorem execCqci_kept (r : MRec) (s : State) : KeptR (execCqci r s) s := by
  unfold execCqci
  repeat' first
    | with_reducible first
      | refine KeptR.guarded ?_ ?_ | refine KeptR.next ?_ | refine KeptR.ite ?_ ?_ | exact Kept.refl _ | assumption
      | refine (State.takeRec_kept ..).trans ?_ | intro _
    | split
    | dsimp only

theorem execCtr_kept (r : MRec) (s : State) : KeptR (execCtr r s) s := by
  unfold execCtr
  repeat' first
    | with_reducible first
      | refine KeptR.guarded ?_ ?_ | refine KeptR.next ?_ | refine KeptR.ite ?_ ?_ | exact Kept.refl _ | assumption
      | refine (State.takeRec_kept ..).trans ?_ | intro _
    | split
    | dsimp only

theorem execQGone_kept (r : MRec) (s : State) : KeptR (execQGone r s) s := by
  unfold execQGone
  repeat' first
    | with_reducible first
      | refine KeptR.guarded ?_ ?_ | refine KeptR.next ?_ | refine KeptR.ite ?_ ?_ | exact Kept.refl _ | assumption
      | refine (State.takeRec_kept ..).trans ?_ | intro _
    | split
    | dsimp only

theorem execCqGone_kept (r : MRec) (s : State) : KeptR (execCqGone r s) s := by
  unfold execCqGone
  repeat' first
    | with_reducible first
      | refine KeptR.guarded ?_ ?_ | refine KeptR.next ?_ | refine KeptR.ite ?_ ?_ | exact Kept.refl _ | assumption
      | refine (State.takeRec_kept ..).trans ?_ | intro _
    | split
    | dsimp only

theorem execSyncEnd_kept (r : MRec) (s : State) : KeptR (execSyncEnd r s) s := by
  unfold execSyncEnd
  repeat' first
    | with_reducible first
      | refine KeptR.guarded ?_ ?_ | refine KeptR.next ?_ | refine KeptR.ite ?_ ?_ | exact Kept.refl _ | assumption
      | refine (State.takeRec_kept ..).trans ?_ | intro _
    | split
    | dsimp only

theorem execQCtx_kept (r : MRec) (ctx : List W64) (s : State) : KeptR (execQCtx r ctx s) s := by
  unfold execQCtx
  repeat' first
    | with_reducible first
      | refine KeptR.guarded ?_ ?_ | refine KeptR.next ?_ | refine KeptR.ite ?_ ?_ | exact Kept.refl _ | assumption
      | refine (State.takeRec_kept ..).trans ?_ | intro _
    | split
    | dsimp only

theorem execCqCtx_kept (r : MRec) (ctx : List W64) (s : State) : KeptR (execCqCtx r ctx s) s := by
  unfold execCqCtx
  repeat' first
    | with_reducible first
      | refine KeptR.guarded ?_ ?_ | refine KeptR.next ?_ | refine KeptR.ite ?_ ?_ | exact Kept.refl _ | assumption
      | refine (State.takeRec_kept ..).trans ?_ | intro _
    | split
    | dsimp only

theorem execCtrCtx_kept (r : MRec) (ctx : List W64) (s : State) : KeptR (execCtrCtx r ctx s) s := by
  unfold execCtrCtx
  repeat' first
    | with_reducible first
      | refine KeptR.guarded ?_ ?_ | refine KeptR.next ?_ | refine KeptR.ite ?_ ?_ | exact Kept.refl _ | assumption
      | refine (State.takeRec_kept ..).trans ?_ | intro _
    | split
    | dsimp only

theorem execSyncClearStitch_kept (s : State) : KeptR (execSyncClearStitch s) s := by
  unfold execSyncClearStitch
  repeat' first
    | with_reducible first
      | refine KeptR.guarded ?_ ?_ | refine KeptR.next ?_ | refine KeptR.ite ?_ ?_ | exact Kept.refl _ | assumption
      | refine (State.admStitch_kept (h_g := ?_) ..).trans ?_
      | refine (State.clearMirror_same (Blind.vitals.sub (by decide)) ..).kept.trans ?_
      | refine (State.ctrlMsg_same (Blind.vitals.sub (by decide)) ..).kept.trans ?_ | refine Kept.ite ?_ ?_
      | refine Kept.ite_fst ?_ ?_ | intro _
    | split
    | dsimp only

theorem State.applyWaiting_kept (s : State) (w : Waiting) : Kept (State.applyWaiting s w) s := by
  unfold State.applyWaiting
  repeat' first
    | with_reducible first
      | exact Kept.refl _ | assumption | refine (State.applyIntake_kept ..).trans ?_
      | refine (State.applyRec_kept ..).trans ?_ | refine Kept.ite ?_ ?_ | intro _
    | split
    | dsimp only

theorem State.replayOne_kept (also : CtxKind × Nat) (s : State) (w : Waiting) : Kept (State.replayOne also s w) s := by
  unfold State.replayOne
  repeat' first
    | with_reducible first
      | exact Kept.refl _ | assumption | refine (State.applyWaiting_kept ..).trans ?_
      | refine (State.countLookup_same (Blind.vitals.sub (by decide)) ..).kept.trans ?_
      | refine (State.withCache_stay (by rfl)).trans ?_ | refine Kept.ite ?_ ?_ | intro _
    | split
    | dsimp only

theorem State.replay_kept (s : State) (also : CtxKind × Nat) : Kept (State.replay s also) s := by
  unfold State.replay
  repeat' first
    | with_reducible first
      | exact Kept.refl _ | assumption | refine (State.replayOne_kept ..).trans ?_
      | refine (State.withCache_stay (by rfl)).trans ?_ | refine (Kept.foldl _ _ _ ?_).trans ?_ | intro _
    | split
    | dsimp only

theorem State.retryEnds_kept (s : State) : Kept (State.retryEnds s) s := by
  unfold State.retryEnds
  repeat' first
    | with_reducible first
      | exact Kept.refl _ | assumption | refine (State.finish_kept ..).trans ?_ | refine (State.tryComplete_kept ..).trans ?_
      | refine (State.withCache_stay (by rfl)).trans ?_ | refine (Kept.forEach _ _ _ ?_).trans ?_ | intro _
    | split
    | dsimp only

theorem State.retryHeld_kept (s : State) : Kept (State.retryHeld s) s := by
  unfold State.retryHeld
  repeat' first
    | with_reducible first
      | exact Kept.refl _ | assumption | refine (State.drainRing_kept ..).trans ?_
      | refine (State.refillSpill_kept ..).trans ?_ | refine (Kept.forEach _ _ _ ?_).trans ?_ | intro _
    | split
    | dsimp only

theorem State.fetchAhead_kept (s : State) (k : CtxKind) (n : Nat) : Kept (State.fetchAhead s k n) s := by
  unfold State.fetchAhead
  repeat' first
    | with_reducible first
      | exact Kept.refl _ | assumption | refine (State.prefetch_kept ..).trans ?_ | intro _
    | split
    | dsimp only

theorem execContextFetchDone_kept (k : CtxKind) (n : Nat) (bad : Bool) (s : State) :
    KeptR (execContextFetchDone k n bad s) s := by
  unfold execContextFetchDone
  repeat' first
    | with_reducible first
      | refine KeptR.guarded ?_ ?_ | refine KeptR.next ?_ | refine KeptR.ite ?_ ?_ | exact Kept.refl _ | assumption
      | refine (State.retryHeld_kept ..).trans ?_ | refine (State.takeBack_kept ..).trans ?_
      | refine (State.replay_kept ..).trans ?_ | refine (State.decodeTick_kept ..).trans ?_
      | refine (State.fetchAhead_kept ..).trans ?_ | refine (State.fatal_kept ..).trans ?_
      | refine (State.retryEnds_kept ..).trans ?_ | refine (State.bring_kept ..).trans ?_
      | refine (State.insertCtx_kept (by assumption)).trans ?_ | refine (State.serveBacks_kept ..).trans ?_
      | refine (State.arbBusy_same (Blind.vitals.sub (by decide)) ..).kept.trans ?_
      | refine (State.backRead_same (Blind.vitals.sub (by decide)) ..).kept.trans ?_
      | refine (State.cnt_same (Blind.vitals.sub (by decide)) ..).kept.trans ?_ | refine Kept.ite ?_ ?_
      | refine Kept.ite_fst ?_ ?_ | intro _
    | split
    | dsimp only

theorem State.foldFail_kept (s : State) (hop st : Nat) (reason : Nat) : Kept (State.foldFail s hop st reason) s := by
  unfold State.foldFail
  repeat' first
    | with_reducible first
      | exact Kept.refl _ | assumption | refine (State.noteFail_kept ..).trans ?_ | refine (State.chargeRed_kept ..).trans ?_
      | refine (State.emit_same (Blind.vitals.sub (by decide)) ..).kept.trans ?_
      | refine (State.withFree_same (Blind.vitals.sub (by decide)) ..).kept.trans ?_ | refine Kept.ite ?_ ?_ | intro _
    | split
    | dsimp only

theorem State.applyFold_kept (s : State) (w : WaitFold) : Kept (State.applyFold s w) s := by
  unfold State.applyFold
  repeat' first
    | with_reducible first
      | exact Kept.refl _ | assumption | refine (State.foldFail_kept ..).trans ?_ | refine (State.writeBytes_kept ..).trans ?_
      | refine (State.answer_same (Blind.vitals.sub (by decide)) ..).kept.trans ?_
      | refine (State.arbBusy_same (Blind.vitals.sub (by decide)) ..).kept.trans ?_
      | refine (State.countExc_same (Blind.vitals.sub (by decide)) ..).kept.trans ?_
      | refine (State.cover_same (Blind.vitals.sub (by decide)) ..).kept.trans ?_
      | refine (State.crossHop_same (Blind.vitals.sub (by decide)) ..).kept.trans ?_
      | refine (State.emit_same (Blind.vitals.sub (by decide)) ..).kept.trans ?_
      | refine (State.refuseFold_same (Blind.vitals.sub (by decide)) ..).kept.trans ?_
      | refine (State.sat_same (Blind.vitals.sub (by decide)) ..).kept.trans ?_
      | refine (State.shadowHop_same (Blind.vitals.sub (by decide)) ..).kept.trans ?_
      | refine (State.verify_same (Blind.vitals.sub (by decide)) ..).kept.trans ?_
      | refine (State.wrapAdd_same (Blind.vitals.sub (by decide)) ..).kept.trans ?_ | refine Kept.ite ?_ ?_
      | refine Kept.ite_fst ?_ ?_ | intro _
    | split
    | dsimp only

theorem State.fold_kept (s : State) (f : FoldSeg) (ans : ReadAns) (lost : Bool) : Kept (State.fold s f ans lost) s := by
  unfold State.fold
  repeat' first
    | with_reducible first
      | exact Kept.refl _ | assumption | refine (State.applyFold_kept ..).trans ?_
      | refine (State.cnt_same (Blind.vitals.sub (by decide)) ..).kept.trans ?_
      | refine (State.refuseFold_same (Blind.vitals.sub (by decide)) ..).kept.trans ?_
      | refine (State.withArb_same (Blind.vitals.sub (by decide)) ..).kept.trans ?_ | refine Kept.ite ?_ ?_
      | refine Kept.ite_fst ?_ ?_ | intro _
    | split
    | dsimp only

theorem State.serveFolds_kept (x0 : Nat) (s : State) : Kept (State.serveFolds x0 s) s := by
  induction x0 generalizing s with
  | zero => exact Kept.refl _
  | succ n ih =>
    unfold State.serveFolds
    repeat' first
      | with_reducible first
        | exact Kept.refl _ | assumption | refine (State.applyFold_kept ..).trans ?_
        | refine (State.withArb_same (Blind.vitals.sub (by decide)) ..).kept.trans ?_ | refine (ih ..).trans ?_ | intro _
      | split
      | dsimp only

theorem execFoldSegment_kept (f : FoldSeg) (s : State) : KeptR (execFoldSegment f s) s := by
  unfold execFoldSegment
  repeat' first
    | with_reducible first
      | refine KeptR.guarded ?_ ?_ | refine KeptR.next ?_ | refine KeptR.ite ?_ ?_ | exact Kept.refl _ | assumption
      | refine (State.fold_kept ..).trans ?_ | intro _
    | split
    | dsimp only

theorem execArrivalNotification_kept (w : W64) (s : State) : KeptR (execArrivalNotification w s) s := by
  unfold execArrivalNotification
  repeat' first
    | with_reducible first
      | refine KeptR.guarded ?_ ?_ | refine KeptR.next ?_ | refine KeptR.ite ?_ ?_ | exact Kept.refl _ | assumption
      | refine (State.arrivalIn_kept ..).trans ?_ | intro _
    | split
    | dsimp only

theorem execTrigCounterRead_kept (info : Bool) (s : State) : KeptR (execTrigCounterRead info s) s := by
  unfold execTrigCounterRead
  repeat' first
    | with_reducible first
      | refine KeptR.guarded ?_ ?_ | refine KeptR.next ?_ | refine KeptR.ite ?_ ?_ | exact Kept.refl _ | assumption
      | refine (State.readTrig_kept ..).trans ?_
      | refine (State.beginRead_same (Blind.vitals.sub (by decide)) ..).kept.trans ?_ | intro _
    | split
    | dsimp only

theorem State.readParked_kept (s : State) (x : Nat × W32) : Kept (State.readParked s x).1 s := by
  unfold State.readParked
  repeat' first
    | with_reducible first
      | exact Kept.refl _ | assumption | refine (State.fatal_kept ..).trans ?_
      | refine (State.arbBusy_same (Blind.vitals.sub (by decide)) ..).kept.trans ?_
      | refine (State.memStat_same (Blind.vitals.sub (by decide)) ..).kept.trans ?_ | refine Kept.ite ?_ ?_
      | refine Kept.ite_fst ?_ ?_ | intro _
    | split
    | dsimp only

theorem State.releaseWaiter_kept (s : State) (x : Nat × W32) : Kept (State.releaseWaiter s x) s := by
  unfold State.releaseWaiter
  repeat' first
    | with_reducible first
      | exact Kept.refl _ | assumption | refine (State.readParked_kept ..).trans ?_
      | refine (State.releasePark_kept ..).trans ?_ | refine Kept.ite ?_ ?_ | refine Kept.ite_fst ?_ ?_ | intro _
    | split
    | dsimp only

theorem execParkRelease_kept (s : State) : KeptR (execParkRelease s) s := by
  unfold execParkRelease
  repeat' first
    | with_reducible first
      | refine KeptR.guarded ?_ ?_ | refine KeptR.next ?_ | refine KeptR.ite ?_ ?_ | exact Kept.refl _ | assumption
      | refine (State.releaseWaiter_kept ..).trans ?_ | refine (Kept.forEach _ _ _ ?_).trans ?_ | refine Kept.ite ?_ ?_
      | refine Kept.ite_fst ?_ ?_ | intro _
    | split
    | dsimp only

theorem execParkSpillRefill_kept (s : State) : KeptR (execParkSpillRefill s) s := by
  unfold execParkSpillRefill
  split
  · rename_i hc
    simp only [Bool.and_eq_true, decide_eq_true_eq, parkSlots] at hc
    split
    · exact KeptR.next (Kept.refl _)
    · dsimp only
      rename_i x _
      have e : ∀ l, ((s.demand l).1.readParked x).1.park = s.park := fun l => Eq.trans
        (State.readParked_same (Blind.park.sub (by decide)) ..) (State.demand_same (Blind.park.sub (by decide)) ..)
      have e' : ∀ l, ((((s.demand l).1.readParked x).1.unpark x.1 x.2).park.onChip ++ [x]).length ≤ 16384 := fun l => by
        rw [List.length_append]
        show (List.filter _ ((s.demand l).1.readParked x).1.park.onChip).length + 1 ≤ 16384
        rw [e]
        exact Nat.lt_of_le_of_lt (List.length_filter_le _ _) (of_decide_eq_true hc.1.2)
      refine KeptR.ite (KeptR.next (State.demand_kept ..)) ?_
      refine KeptR.ite (KeptR.next ((State.readParked_kept ..).trans (State.demand_kept ..))) (KeptR.next ?_)
      refine Kept.trans (State.withPark_kept (fun _ => e' _) (fun k => k.2.2.1))
        ((State.unpark_kept ..).trans ((State.readParked_kept ..).trans (State.demand_kept ..)))
  · exact KeptR.next (Kept.refl _)

theorem State.sendRecs_kept (s : State) : Kept (State.sendRecs s) s := by
  unfold State.sendRecs
  repeat' first
    | with_reducible first
      | exact Kept.refl _ | assumption | refine (State.arbBusy_same (Blind.vitals.sub (by decide)) ..).kept.trans ?_
      | refine (State.withCqs_stay (by rfl)).trans ?_ | refine (Kept.forEach _ _ _ ?_).trans ?_ | refine Kept.ite ?_ ?_
      | refine Kept.ite_fst ?_ ?_ | intro _
    | split
    | dsimp only

theorem State.sendOwn_kept (s : State) : Kept (State.sendOwn s) s := by
  unfold State.sendOwn
  repeat' first
    | with_reducible first
      | exact Kept.refl _ | assumption | refine (State.sendRecs_kept ..).trans ?_
      | refine (State.sendRead_same (Blind.vitals.sub (by decide)) ..).kept.trans ?_ | refine (Kept.forEach _ _ _ ?_).trans ?_
      | refine Kept.ite ?_ ?_ | intro _
    | split
    | dsimp only

theorem State.wake_kept (s : State) (res : Nat) : Kept (State.wake s res) s := by
  unfold State.wake
  repeat' first
    | with_reducible first
      | exact Kept.refl _ | assumption | refine (State.turns_kept ..).trans ?_ | refine (State.serveElog_kept ..).trans ?_
      | refine (State.serveBacks_kept ..).trans ?_ | refine (State.sendOwn_kept ..).trans ?_
      | refine (State.pump_same (Blind.vitals.sub (by decide)) ..).kept.trans ?_ | refine Kept.ite ?_ ?_ | intro _
    | split
    | dsimp only

theorem State.wakeAll_kept (s : State) (res : Nat) : Kept (State.wakeAll s res) s := by
  unfold State.wakeAll
  repeat' first
    | with_reducible first
      | exact Kept.refl _ | assumption | refine (State.serveFolds_kept ..).trans ?_ | refine (State.wake_kept ..).trans ?_
      | intro _
    | split
    | dsimp only

theorem State.phaseOf_kept (s : State) (res : Nat) (cob : Bool) : Kept (State.phaseOf s res cob) s := by
  unfold State.phaseOf
  repeat' first
    | with_reducible first
      | exact Kept.refl _ | assumption | refine (State.arbPhase_kept ..).trans ?_ | refine (State.wake_kept ..).trans ?_
      | intro _
    | split
    | dsimp only

theorem execArbPhase_kept (res : Nat) (cob : Bool) (s : State) : KeptR (execArbPhase res cob s) s := by
  unfold execArbPhase
  repeat' first
    | with_reducible first
      | refine KeptR.guarded ?_ ?_ | refine KeptR.next ?_ | refine KeptR.ite ?_ ?_ | exact Kept.refl _ | assumption
      | refine (State.wakeAll_kept ..).trans ?_ | refine (State.arbPhase_kept ..).trans ?_ | intro _
    | split
    | dsimp only

theorem State.takeChannel_kept (s : State) (res c : Nat) (o : Owner) (x : Nat) : Kept (State.takeChannel s res c o x) s := by
  unfold State.takeChannel
  repeat' first
    | with_reducible first
      | exact Kept.refl _ | assumption | refine (State.traceEv_kept ..).trans ?_
      | refine (State.cnt_same (Blind.vitals.sub (by decide)) ..).kept.trans ?_
      | refine (State.freeChannel_same (Blind.vitals.sub (by decide)) ..).kept.trans ?_
      | refine (State.giveChannel_same (Blind.vitals.sub (by decide)) ..).kept.trans ?_
      | refine (State.setCand_same (Blind.vitals.sub (by decide)) ..).kept.trans ?_ | refine Kept.ite ?_ ?_ | intro _
    | split
    | dsimp only

theorem execChannelTake_kept (res c : Nat) (s : State) : KeptR (execChannelTake res c s) s := by
  unfold execChannelTake
  repeat' first
    | with_reducible first
      | refine KeptR.guarded ?_ ?_ | refine KeptR.next ?_ | refine KeptR.ite ?_ ?_ | exact Kept.refl _ | assumption
      | refine (State.wakeAll_kept ..).trans ?_ | refine (State.takeChannel_kept ..).trans ?_ | refine Kept.ite ?_ ?_
      | refine Kept.ite_fst ?_ ?_ | intro _
    | split
    | dsimp only

theorem State.faultRequester_kept (s : State) (res req : Nat) : Kept (State.faultRequester s res req) s := by
  unfold State.faultRequester
  repeat' first
    | with_reducible first
      | exact Kept.refl _ | assumption | refine (State.halt_kept ..).trans ?_ | refine (State.failEng_kept ..).trans ?_
      | refine (State.hardHalt_kept ..).trans ?_ | refine (State.emit_same (Blind.vitals.sub (by decide)) ..).kept.trans ?_
      | refine (State.refuseFold_same (Blind.vitals.sub (by decide)) ..).kept.trans ?_
      | refine (State.setF_same (Blind.vitals.sub (by decide)) ..).kept.trans ?_
      | refine (State.withArb_same (Blind.vitals.sub (by decide)) ..).kept.trans ?_
      | refine (State.withTrace_same (Blind.vitals.sub (by decide)) ..).kept.trans ?_ | refine Kept.ite ?_ ?_ | intro _
    | split
    | dsimp only

theorem execWdogBite_kept (res c : Nat) (s : State) : KeptR (execWdogBite res c s) s := by
  unfold execWdogBite
  repeat' first
    | with_reducible first
      | refine KeptR.guarded ?_ ?_ | refine KeptR.next ?_ | refine KeptR.ite ?_ ?_ | exact Kept.refl _ | assumption
      | refine (State.raise_kept ..).trans ?_ | refine (State.faultRequester_kept ..).trans ?_
      | refine (State.traceEv_kept ..).trans ?_ | refine (State.cnt_same (Blind.vitals.sub (by decide)) ..).kept.trans ?_
      | refine (State.freeChannel_same (Blind.vitals.sub (by decide)) ..).kept.trans ?_
      | refine (State.log_same (Blind.vitals.sub (by decide)) ..).kept.trans ?_
      | refine (State.setF_same (Blind.vitals.sub (by decide)) ..).kept.trans ?_
      | refine (State.withArb_same (Blind.vitals.sub (by decide)) ..).kept.trans ?_ | refine Kept.ite ?_ ?_
      | refine Kept.ite_fst ?_ ?_ | intro _
    | split
    | dsimp only

theorem State.fenceBegin_kept (s : State) (st : Stream) (o : AdmOpen) : Kept (State.fenceBegin s st o) s := by
  unfold State.fenceBegin
  repeat' first
    | with_reducible first
      | exact Kept.refl _ | assumption | refine (State.admDone_kept ..).trans ?_
      | refine (State.fenceQueues_same (Blind.vitals.sub (by decide)) ..).kept.trans ?_
      | refine (State.releaseFenced_same (Blind.vitals.sub (by decide)) ..).kept.trans ?_
      | refine (State.setAdm_same (Blind.vitals.sub (by decide)) ..).kept.trans ?_ | refine Kept.getD ?_
      | refine Kept.ite ?_ ?_ | intro _
    | split
    | dsimp only

theorem execFenceAll_kept (st : Stream) (s : State) : KeptR (execFenceAll st s) s := by
  unfold execFenceAll
  repeat' first
    | with_reducible first
      | refine KeptR.guarded ?_ ?_ | refine KeptR.next ?_ | refine KeptR.ite ?_ ?_ | exact Kept.refl _ | assumption
      | refine (State.admDone_kept ..).trans ?_ | refine (State.fenceBegin_kept ..).trans ?_
      | refine (State.cmdStitch_kept (h_g := ?_) ..).trans ?_
      | refine (State.openAdm_same (Blind.vitals.sub (by decide)) ..).kept.trans ?_ | refine Kept.getD ?_
      | refine Kept.ite ?_ ?_ | refine Kept.ite_fst ?_ ?_ | intro _
    | split
    | dsimp only

theorem State.offlineBegin_kept (s : State) (st : Stream) (o : AdmOpen) : Kept (State.offlineBegin s st o) s := by
  unfold State.offlineBegin
  repeat' first
    | with_reducible first
      | exact Kept.refl _ | assumption | refine (State.admDone_kept ..).trans ?_ | refine (State.spareIn_kept ..).trans ?_
      | refine (State.setAdm_same (Blind.vitals.sub (by decide)) ..).kept.trans ?_
      | refine (State.setOffline_same (Blind.vitals.sub (by decide)) ..).kept.trans ?_
      | refine (State.withSpr_same (Blind.vitals.sub (by decide)) ..).kept.trans ?_ | refine Kept.getD ?_
      | refine Kept.ite ?_ ?_ | intro _
    | split
    | dsimp only

theorem execUnitOffline_kept (st : Stream) (s : State) : KeptR (execUnitOffline st s) s := by
  unfold execUnitOffline
  repeat' first
    | with_reducible first
      | refine KeptR.guarded ?_ ?_ | refine KeptR.next ?_ | refine KeptR.ite ?_ ?_ | exact Kept.refl _ | assumption
      | refine (State.admDone_kept ..).trans ?_ | refine (State.cmdStitch_kept (h_g := ?_) ..).trans ?_
      | refine (State.offlineBegin_kept ..).trans ?_
      | refine (State.openAdm_same (Blind.vitals.sub (by decide)) ..).kept.trans ?_ | refine Kept.getD ?_
      | refine Kept.ite ?_ ?_ | refine Kept.ite_fst ?_ ?_ | intro _
    | split
    | dsimp only

theorem State.decay_kept (s : State) (single double : List Nat) : Kept (State.decay s single double) s := by
  unfold State.decay
  repeat' first
    | with_reducible first
      | exact Kept.refl _ | assumption | refine (State.putSyn_kept ..).trans ?_ | refine (Kept.foldl _ _ _ ?_).trans ?_
      | refine Kept.ite ?_ ?_ | intro _
    | split
    | dsimp only

theorem State.flushBlock_kept (s : State) (a : Nat) : Kept (State.flushBlock s a) s := by
  unfold State.flushBlock
  repeat' first
    | with_reducible first
      | exact Kept.refl _ | assumption | refine (State.writePkg_kept ..).trans ?_ | refine (Kept.forEach _ _ _ ?_).trans ?_
      | intro _
    | split
    | dsimp only

theorem State.rewriteWord_kept (s : State) (k : Nat) : Kept (State.rewriteWord s k) s := by
  unfold State.rewriteWord
  repeat' first
    | with_reducible first
      | exact Kept.refl _ | assumption | refine (State.putSyn_kept ..).trans ?_ | refine (State.putPkgs_kept ..).trans ?_
      | intro _
    | split
    | dsimp only

theorem State.scrubBlock_kept (s : State) (a : Nat) : Kept (State.scrubBlock s a).1 s := by
  unfold State.scrubBlock
  repeat' first
    | with_reducible first
      | exact Kept.refl _ | assumption | refine (State.rewriteWord_kept ..).trans ?_
      | refine (State.log_same (Blind.vitals.sub (by decide)) ..).kept.trans ?_
      | refine (State.sat_same (Blind.vitals.sub (by decide)) ..).kept.trans ?_ | refine (Kept.forEach _ _ _ ?_).trans ?_
      | intro _
    | split
    | dsimp only

theorem State.scrubStitch_kept (s : State) (st : Stream) (o : AdmOpen) : Kept (State.scrubStitch s st o) s := by
  unfold State.scrubStitch
  repeat' first
    | with_reducible first
      | exact Kept.refl _ | assumption | refine (State.admDone_kept ..).trans ?_ | refine (State.touchBlock_kept ..).trans ?_
      | refine (State.flushBlock_kept ..).trans ?_ | refine (State.scrubBlock_kept ..).trans ?_
      | refine (State.setAdm_same (Blind.vitals.sub (by decide)) ..).kept.trans ?_ | refine Kept.getD ?_
      | refine Kept.ite ?_ ?_ | refine Kept.ite_fst ?_ ?_ | intro _
    | split
    | dsimp only

theorem execScrubCstore_kept (st : Stream) (single double : List Nat) (s : State) :
    KeptR (execScrubCstore st single double s) s := by
  unfold execScrubCstore
  repeat' first
    | with_reducible first
      | refine KeptR.guarded ?_ ?_ | refine KeptR.next ?_ | refine KeptR.ite ?_ ?_ | exact Kept.refl _ | assumption
      | refine (State.admDone_kept ..).trans ?_ | refine (State.cmdStitch_kept (h_g := ?_) ..).trans ?_
      | refine (State.decay_kept ..).trans ?_ | refine (State.scrubStitch_kept ..).trans ?_
      | refine (State.openAdm_same (Blind.vitals.sub (by decide)) ..).kept.trans ?_ | refine Kept.ite ?_ ?_
      | refine Kept.ite_fst ?_ ?_ | intro _
    | split
    | dsimp only

theorem execTraceStart_kept (st : Stream) (s : State) : KeptR (execTraceStart st s) s := by
  unfold execTraceStart
  repeat' first
    | with_reducible first
      | refine KeptR.guarded ?_ ?_ | refine KeptR.next ?_ | refine KeptR.ite ?_ ?_ | exact Kept.refl _ | assumption
      | refine (State.oneStitch_kept (h_act := ?_) ..).trans ?_
      | refine (State.doTraceStart_same (Blind.vitals.sub (by decide)) ..).kept.trans ?_ | intro _
    | split
    | dsimp only

theorem State.traceEnd_kept (s : State) (st : Stream) (o : AdmOpen) : Kept (State.traceEnd s st o) s := by
  unfold State.traceEnd
  repeat' first
    | with_reducible first
      | exact Kept.refl _ | assumption | refine (State.admDone_kept ..).trans ?_
      | refine (State.sat_same (Blind.vitals.sub (by decide)) ..).kept.trans ?_
      | refine (State.withTrace_same (Blind.vitals.sub (by decide)) ..).kept.trans ?_ | refine Kept.ite ?_ ?_ | intro _
    | split
    | dsimp only

theorem State.traceStopBegin_kept (s : State) (st : Stream) (o : AdmOpen) : Kept (State.traceStopBegin s st o) s := by
  unfold State.traceStopBegin
  repeat' first
    | with_reducible first
      | exact Kept.refl _ | assumption | refine (State.admDone_kept ..).trans ?_ | refine (State.traceEnd_kept ..).trans ?_
      | refine (State.setAdm_same (Blind.vitals.sub (by decide)) ..).kept.trans ?_
      | refine (State.setF_same (Blind.vitals.sub (by decide)) ..).kept.trans ?_ | refine Kept.ite ?_ ?_ | intro _
    | split
    | dsimp only

theorem execTraceStop_kept (st : Stream) (s : State) : KeptR (execTraceStop st s) s := by
  unfold execTraceStop
  repeat' first
    | with_reducible first
      | refine KeptR.guarded ?_ ?_ | refine KeptR.next ?_ | refine KeptR.ite ?_ ?_ | exact Kept.refl _ | assumption
      | refine (State.traceStopBegin_kept ..).trans ?_ | refine (State.cmdStitch_kept (h_g := ?_) ..).trans ?_
      | refine (State.traceEnd_kept ..).trans ?_ | refine (State.openAdm_same (Blind.vitals.sub (by decide)) ..).kept.trans ?_
      | refine Kept.ite ?_ ?_ | refine Kept.ite_fst ?_ ?_ | intro _
    | split
    | dsimp only

theorem execUnitOnline_kept (st : Stream) (s : State) : KeptR (execUnitOnline st s) s := by
  unfold execUnitOnline
  repeat' first
    | with_reducible first
      | refine KeptR.guarded ?_ ?_ | refine KeptR.next ?_ | refine KeptR.ite ?_ ?_ | exact Kept.refl _ | assumption
      | refine (State.fwOpen_kept ..).trans ?_ | intro _
    | split
    | dsimp only

theorem execSetMirror_kept (st : Stream) (s : State) : KeptR (execSetMirror st s) s := by
  unfold execSetMirror
  repeat' first
    | with_reducible first
      | refine KeptR.guarded ?_ ?_ | refine KeptR.next ?_ | refine KeptR.ite ?_ ?_ | exact Kept.refl _ | assumption
      | refine (State.fwOpen_kept ..).trans ?_ | intro _
    | split
    | dsimp only

theorem execFwCmd_kept (st : Stream) (s : State) : KeptR (execFwCmd st s) s := by
  unfold execFwCmd
  repeat' first
    | with_reducible first
      | refine KeptR.guarded ?_ ?_ | refine KeptR.next ?_ | refine KeptR.ite ?_ ?_ | exact Kept.refl _ | assumption
      | refine (State.fwOpen_kept ..).trans ?_ | intro _
    | split
    | dsimp only

theorem execFwTimeout_kept (s : State) : KeptR (execFwTimeout s) s := by
  unfold execFwTimeout
  repeat' first
    | with_reducible first
      | refine KeptR.guarded ?_ ?_ | refine KeptR.next ?_ | refine KeptR.ite ?_ ?_ | exact Kept.refl _ | assumption
      | refine (State.fwEnd_kept ..).trans ?_ | intro _
    | split
    | dsimp only

theorem execAdmFwDone_kept (w : W64) (s : State) : KeptR (execAdmFwDone w s) s := by
  unfold execAdmFwDone
  repeat' first
    | with_reducible first
      | refine KeptR.guarded ?_ ?_ | refine KeptR.next ?_ | refine KeptR.ite ?_ ?_ | exact Kept.refl _ | assumption
      | refine (State.fwEnd_kept ..).trans ?_ | refine (State.cnt_same (Blind.vitals.sub (by decide)) ..).kept.trans ?_
      | refine Kept.ite ?_ ?_ | refine Kept.ite_fst ?_ ?_ | intro _
    | split
    | dsimp only

theorem State.startRing_kept (s : State) : Kept (State.startRing s) s := by
  unfold State.startRing
  dsimp only
  refine (State.warm_kept ..).trans ((State.warm_kept ..).trans ?_)
  refine (State.setF_same (Blind.vitals.sub (by decide)) ..).kept.trans ?_
  refine (State.setF_same (Blind.vitals.sub (by decide)) ..).kept.trans ?_
  refine (State.setC_same (Blind.vitals.sub (by decide)) ..).kept.trans ?_
  refine (State.setQ_same (Blind.vitals.sub (by decide)) ..).kept.trans ?_
  refine (State.touchBlock_kept ..).trans ((State.touchBlock_kept ..).trans ?_)
  refine Kept.trans (State.withCqs_sub (show List.Sublist (List.filter _ s.cqs.spill) s.cqs.spill from List.filter_sublist)) ?_
  exact (State.withAdm_same (Blind.vitals.sub (by decide)) ..).kept

theorem execAdmEnable_kept (w : W64) (s : State) : KeptR (execAdmEnable w s) s := by
  unfold execAdmEnable
  repeat' first
    | with_reducible first
      | refine KeptR.guarded ?_ ?_ | refine KeptR.next ?_ | refine KeptR.ite ?_ ?_ | exact Kept.refl _ | assumption
      | refine (State.startRing_kept ..).trans ?_
      | refine (State.admFields_same (Blind.vitals.sub (by decide)) ..).kept.trans ?_
      | refine (State.setF_same (Blind.vitals.sub (by decide)) ..).kept.trans ?_
      | refine (State.withAdm_same (Blind.vitals.sub (by decide)) ..).kept.trans ?_ | refine Kept.ite ?_ ?_
      | refine Kept.ite_fst ?_ ?_ | intro _
    | split
    | dsimp only

theorem execAdmCobGo_kept (w : W64) (s : State) : KeptR (execAdmCobGo w s) s := by
  unfold execAdmCobGo
  repeat' first
    | with_reducible first
      | refine KeptR.guarded ?_ ?_ | refine KeptR.next ?_ | refine KeptR.ite ?_ ?_ | exact Kept.refl _ | assumption
      | refine (State.admDone_kept ..).trans ?_ | refine (State.lineUp_same (Blind.vitals.sub (by decide)) ..).kept.trans ?_
      | refine (State.setAdm_same (Blind.vitals.sub (by decide)) ..).kept.trans ?_
      | refine (State.setF_same (Blind.vitals.sub (by decide)) ..).kept.trans ?_
      | refine (State.withAdm_same (Blind.vitals.sub (by decide)) ..).kept.trans ?_ | refine Kept.ite ?_ ?_
      | refine Kept.ite_fst ?_ ?_ | intro _
    | split
    | dsimp only

theorem execClearStitch_kept (s : State) : KeptR (execClearStitch s) s := by
  unfold execClearStitch
  repeat' first
    | with_reducible first
      | refine KeptR.guarded ?_ ?_ | refine KeptR.next ?_ | refine KeptR.ite ?_ ?_ | exact Kept.refl _ | assumption
      | refine (State.admStitch_kept (h_g := ?_) ..).trans ?_ | refine (State.clearStep_kept ..).trans ?_
      | refine Kept.ite ?_ ?_ | refine Kept.ite_fst ?_ ?_ | intro _
    | split
    | dsimp only

theorem execIcSet_kept (src : BitVec 10) (s : State) : KeptR (execIcSet src s) s := by
  unfold execIcSet
  repeat' first
    | with_reducible first
      | refine KeptR.guarded ?_ ?_ | refine KeptR.next ?_ | refine KeptR.ite ?_ ?_ | exact Kept.refl _ | assumption
      | refine (State.raise_kept ..).trans ?_ | intro _
    | split
    | dsimp only

theorem execExtIntAssert_kept (n : Nat) (s : State) : KeptR (execExtIntAssert n s) s := by
  unfold execExtIntAssert
  repeat' first
    | with_reducible first
      | refine KeptR.guarded ?_ ?_ | refine KeptR.next ?_ | refine KeptR.ite ?_ ?_ | exact Kept.refl _ | assumption
      | refine (State.raise_kept ..).trans ?_ | refine (State.setF_same (Blind.vitals.sub (by decide)) ..).kept.trans ?_
      | intro _
    | split
    | dsimp only

theorem execExtIntRearm_kept (n : Nat) (s : State) : KeptR (execExtIntRearm n s) s := by
  unfold execExtIntRearm
  repeat' first
    | with_reducible first
      | refine KeptR.guarded ?_ ?_ | refine KeptR.next ?_ | refine KeptR.ite ?_ ?_ | exact Kept.refl _ | assumption
      | refine (State.raise_kept ..).trans ?_ | intro _
    | split
    | dsimp only

theorem execExtIntGlitch_kept (n : Nat) (s : State) : KeptR (execExtIntGlitch n s) s := by
  unfold execExtIntGlitch
  repeat' first
    | with_reducible first
      | refine KeptR.guarded ?_ ?_ | refine KeptR.next ?_ | refine KeptR.ite ?_ ?_ | exact Kept.refl _ | assumption
      | refine (State.raise_kept ..).trans ?_ | refine (State.cnt_same (Blind.vitals.sub (by decide)) ..).kept.trans ?_
      | refine Kept.ite ?_ ?_ | refine Kept.ite_fst ?_ ?_ | intro _
    | split
    | dsimp only

theorem maxBy_mem {α : Type} {b : α → α → Bool} {l : List α} {x : α} (h : maxBy b l = some x) : x ∈ l := by
  induction l generalizing x with
  | nil => cases h
  | cons a r ih =>
    unfold maxBy at h
    split at h
    · cases h
      exact List.mem_cons_self ..
    · rename_i y hy
      split at h
      · cases h
        exact List.mem_cons_of_mem _ (ih hy)
      · cases h
        exact List.mem_cons_self ..


theorem State.claim_kept (s : State) (t : Nat) : Kept (State.claim s t) s := by
  unfold State.claim
  split
  · repeat' first
    | with_reducible first
      | exact Kept.refl _ | assumption | refine (State.judgeAll_kept ..).trans ?_ | refine (State.endSignal_kept ..).trans ?_
      | refine (State.cnt_same (Blind.vitals.sub (by decide)) ..).kept.trans ?_
      | refine (State.ret_same (Blind.vitals.sub (by decide)) ..).kept.trans ?_
      | refine (State.setF_same (Blind.vitals.sub (by decide)) ..).kept.trans ?_
      | refine (State.setPend_same (Blind.vitals.sub (by decide)) ..).kept.trans ?_ | intro _
    | split
    | dsimp only
  · rename_i n hn
    have hs := maxBy_mem hn
    simp only [List.mem_filter, Bool.and_eq_true, decide_eq_true_eq, State.signals] at hs
    have hp : s.running t < s.f (IC_SRC_CFG_prio n) := by
      have h := hs.2.1.1.2
      rw [hs.2.1.2] at h
      exact h
    unfold State.running at hp
    dsimp only
    refine (State.ret_same (Blind.vitals.sub (by decide)) ..).kept.trans ((State.judgeAll_kept ..).trans ?_)
    have hk : Kept ((((s.setF (IC_CNT_active n) 1).setF (IC_CNT_count n) (s.f (IC_CNT_count n) - 1)).setPend n false).endSignal n) s := by
      repeat' first
        | with_reducible first
          | exact Kept.refl _ | assumption | refine (State.judgeAll_kept ..).trans ?_
          | refine (State.endSignal_kept ..).trans ?_
          | refine (State.cnt_same (Blind.vitals.sub (by decide)) ..).kept.trans ?_
          | refine (State.ret_same (Blind.vitals.sub (by decide)) ..).kept.trans ?_
          | refine (State.setF_same (Blind.vitals.sub (by decide)) ..).kept.trans ?_
          | refine (State.setPend_same (Blind.vitals.sub (by decide)) ..).kept.trans ?_ | intro _
        | split
        | dsimp only
    refine (State.setStack_kept' (fun k => ?_)).trans hk
    have kr := State.stack_rises k t
    have e : ((((s.setF (IC_CNT_active n) 1).setF (IC_CNT_count n) (s.f (IC_CNT_count n) - 1)).setPend n false).endSignal n).stack t
        = s.stack t := by
      have e1 : ∀ u : State, (u.endSignal n).stack t = u.stack t := fun u => rfl
      have e2 : ∀ u v : State, u.ic = v.ic → u.stack t = v.stack t := fun u v h => by unfold State.stack; rw [h]
      rw [e1]
      refine (e2 _ _ (State.setPend_same (Blind.ic.sub (by decide)) ..)).trans ?_
      refine (e2 _ _ (State.setF_same (Blind.ic.sub (by decide)) ..)).trans ?_
      exact e2 _ _ (State.setF_same (Blind.ic.sub (by decide)) ..)
    rw [e] at kr ⊢
    refine List.Pairwise.cons (fun y hy => ?_) kr
    cases hst : s.stack t with
    | nil => rw [hst] at hy; cases hy
    | cons x r =>
      rw [hst] at hy hp kr
      rcases List.mem_cons.1 hy with hy | hy
      · rw [hy]
        exact hp
      · exact Nat.lt_trans (List.rel_of_pairwise_cons kr hy) hp

theorem execIcClaim_kept (t : Nat) (s : State) : KeptR (execIcClaim t s) s := by
  unfold execIcClaim
  repeat' first
    | with_reducible first
      | refine KeptR.guarded ?_ ?_ | refine KeptR.next ?_ | refine KeptR.ite ?_ ?_ | exact Kept.refl _ | assumption
      | refine (State.claim_kept ..).trans ?_ | refine (State.beginRead_same (Blind.vitals.sub (by decide)) ..).kept.trans ?_
      | intro _
    | split
    | dsimp only

theorem State.eoi_kept (s : State) (t src : Nat) : Kept (State.eoi s t src) s := by
  unfold State.eoi
  split
  · repeat' first
    | with_reducible first
      | exact Kept.refl _ | assumption | refine (State.judgeAll_kept ..).trans ?_
      | refine (State.cnt_same (Blind.vitals.sub (by decide)) ..).kept.trans ?_
      | refine (State.rederive_same (Blind.vitals.sub (by decide)) ..).kept.trans ?_
      | refine (State.setF_same (Blind.vitals.sub (by decide)) ..).kept.trans ?_ | refine Kept.ite ?_ ?_
      | refine Kept.ite_fst ?_ ?_ | intro _
    | split
    | dsimp only
  · rename_i x r hx
    have h1 : Kept (s.setStack t r) s := State.setStack_kept' (fun k => by
      have h := State.stack_rises k t
      rw [hx] at h
      exact h.of_cons)
    repeat' first
      | with_reducible first
        | exact Kept.refl _ | assumption | refine (State.judgeAll_kept ..).trans ?_
        | refine (State.cnt_same (Blind.vitals.sub (by decide)) ..).kept.trans ?_
        | refine (State.rederive_same (Blind.vitals.sub (by decide)) ..).kept.trans ?_
        | refine (State.setF_same (Blind.vitals.sub (by decide)) ..).kept.trans ?_ | refine Kept.ite ?_ ?_
        | refine Kept.ite_fst ?_ ?_ | intro _
      | split
      | dsimp only

theorem execIcEoi_kept (t : Nat) (src : BitVec 10) (s : State) : KeptR (execIcEoi t src s) s := by
  unfold execIcEoi
  repeat' first
    | with_reducible first
      | refine KeptR.guarded ?_ ?_ | refine KeptR.next ?_ | refine KeptR.ite ?_ ?_ | exact Kept.refl _ | assumption
      | refine (State.eoi_kept ..).trans ?_ | intro _
    | split
    | dsimp only

theorem execResync_kept (t : Nat) (s : State) : KeptR (execResync t s) s := by
  unfold execResync
  repeat' first
    | with_reducible first
      | refine KeptR.guarded ?_ ?_ | refine KeptR.next ?_ | refine KeptR.ite ?_ ?_ | exact Kept.refl _ | assumption
      | refine (State.judgeAll_kept ..).trans ?_
      | refine (State.rederive_same (Blind.vitals.sub (by decide)) ..).kept.trans ?_ | intro _
    | split
    | dsimp only

theorem execIcCntClear_kept (src : Nat) (s : State) : KeptR (execIcCntClear src s) s := by
  unfold execIcCntClear
  repeat' first
    | with_reducible first
      | refine KeptR.guarded ?_ ?_ | refine KeptR.next ?_ | refine KeptR.ite ?_ ?_ | exact Kept.refl _ | assumption
      | refine (State.judgeMsg_kept ..).trans ?_ | refine (State.setF_same (Blind.vitals.sub (by decide)) ..).kept.trans ?_
      | refine (State.setPend_same (Blind.vitals.sub (by decide)) ..).kept.trans ?_ | intro _
    | split
    | dsimp only

theorem State.msgFail_kept (s : State) (m : HostMsg) : Kept (State.msgFail s m) s := by
  unfold State.msgFail
  repeat' first
    | with_reducible first
      | exact Kept.refl _ | assumption | refine (State.writeHost_kept ..).trans ?_ | refine (State.raise_kept ..).trans ?_
      | refine (State.cnt_same (Blind.vitals.sub (by decide)) ..).kept.trans ?_
      | refine (State.logIn_same (Blind.vitals.sub (by decide)) ..).kept.trans ?_
      | refine (State.setF_same (Blind.vitals.sub (by decide)) ..).kept.trans ?_
      | refine (State.withIc_stay (by rfl)).trans ?_ | refine Kept.ite ?_ ?_ | intro _
    | split
    | dsimp only

theorem execMsgFail_kept (src : Nat) (s : State) : KeptR (execMsgFail src s) s := by
  unfold execMsgFail
  repeat' first
    | with_reducible first
      | refine KeptR.guarded ?_ ?_ | refine KeptR.next ?_ | refine KeptR.ite ?_ ?_ | exact Kept.refl _ | assumption
      | refine (State.msgFail_kept ..).trans ?_ | intro _
    | split
    | dsimp only

theorem State.lostWrite_kept (s : State) (q : Nat) (i : W32) (w sp st : Nat) (count : State → State) (h_count : ∀ s , Kept
    (count s ) s) :
    Kept (State.lostWrite s q i w sp st count) s := by
  unfold State.lostWrite
  repeat' first
    | with_reducible first
      | exact Kept.refl _ | assumption | refine (h_count ..).trans ?_ | refine (State.failWrite_kept ..).trans ?_
      | refine Kept.ite ?_ ?_ | intro _
    | split
    | dsimp only

theorem State.lostRecord_kept (s : State) (c sp : Nat) (count : State → State) (h_count : ∀ s , Kept (count s ) s) :
    Kept (State.lostRecord s c sp count) s := by
  unfold State.lostRecord
  repeat' first
    | with_reducible first
      | exact Kept.refl _ | assumption | refine (h_count ..).trans ?_ | refine (State.breakRing_kept ..).trans ?_
      | refine Kept.ite ?_ ?_ | intro _
    | split
    | dsimp only

theorem State.lostResponse_kept (s : State) (st : Stream) (sp : Nat) (counted : Bool) :
    Kept (State.lostResponse s st sp counted) s := by
  unfold State.lostResponse
  repeat' first
    | with_reducible first
      | exact Kept.refl _ | assumption | refine (State.queryWq_kept ..).trans ?_ | refine (State.queryCq_kept ..).trans ?_
      | refine Kept.ite ?_ ?_ | intro _
    | split
    | dsimp only

theorem State.lostCopy_kept (s : State) (sp : Nat) (count : State → State) (h_count : ∀ s , Kept (count s ) s) :
    Kept (State.lostCopy s sp count) s := by
  unfold State.lostCopy
  repeat' first
    | with_reducible first
      | exact Kept.refl _ | assumption | refine (h_count ..).trans ?_
      | refine (State.traceFail_same (Blind.vitals.sub (by decide)) ..).kept.trans ?_ | refine Kept.ite ?_ ?_ | intro _
    | split
    | dsimp only

theorem State.lostReserved_kept (s : State) (ofs : Nat) (count : State → State) (h_count : ∀ s , Kept (count s ) s) :
    Kept (State.lostReserved s ofs count) s := by
  unfold State.lostReserved
  repeat' first
    | with_reducible first
      | exact Kept.refl _ | assumption | refine (h_count ..).trans ?_ | refine (State.fatal_kept ..).trans ?_
      | refine Kept.ite ?_ ?_ | intro _
    | split
    | dsimp only

theorem execTransactionRejected_kept (t : Txn) (s : State) : KeptR (execTransactionRejected t s) s := by
  unfold execTransactionRejected
  repeat' first
    | with_reducible first
      | refine KeptR.guarded ?_ ?_ | refine KeptR.next ?_ | refine KeptR.ite ?_ ?_ | exact Kept.refl _ | assumption
      | refine (State.lostRecord_kept (h_count := ?_) ..).trans ?_ | refine (State.lostCopy_kept (h_count := ?_) ..).trans ?_
      | exact execEntryFetchDone_kept .. | refine (State.fold_kept ..).trans ?_ | refine (State.lostResponse_kept ..).trans ?_
      | exact execSourceListReadDone_kept .. | exact execFragmentTableReadDone_kept ..
      | refine (State.msgFail_kept ..).trans ?_ | refine (State.lostWrite_kept (h_count := ?_) ..).trans ?_
      | exact execDataReadDone_kept .. | refine (State.emit_same (Blind.vitals.sub (by decide)) ..).kept.trans ?_
      | refine (State.portReject_same (Blind.vitals.sub (by decide)) ..).kept.trans ?_ | refine (State.after_kept ?_).trans ?_
      | refine Kept.ite ?_ ?_ | refine Kept.ite_fst ?_ ?_ | intro _
    | split
    | dsimp only

theorem execMemWriteError_kept (t : Txn) (s : State) : KeptR (execMemWriteError t s) s := by
  unfold execMemWriteError
  repeat' first
    | with_reducible first
      | refine KeptR.guarded ?_ ?_ | refine KeptR.next ?_ | refine KeptR.ite ?_ ?_ | exact Kept.refl _ | assumption
      | refine (State.lostRecord_kept (h_count := ?_) ..).trans ?_ | refine (State.lostCopy_kept (h_count := ?_) ..).trans ?_
      | refine (State.lostReserved_kept (h_count := ?_) ..).trans ?_ | refine (State.fold_kept ..).trans ?_
      | refine (State.lostResponse_kept ..).trans ?_ | refine (State.lostWrite_kept (h_count := ?_) ..).trans ?_
      | refine Kept.ite ?_ ?_ | refine Kept.ite_fst ?_ ?_ | intro _
    | split
    | dsimp only

theorem execMempAddressError_kept (t : Txn) (s : State) : KeptR (execMempAddressError t s) s := by
  unfold execMempAddressError
  repeat' first
    | with_reducible first
      | refine KeptR.guarded ?_ ?_ | refine KeptR.next ?_ | refine KeptR.ite ?_ ?_ | exact Kept.refl _ | assumption
      | refine (State.lostRecord_kept (h_count := ?_) ..).trans ?_ | refine (State.lostCopy_kept (h_count := ?_) ..).trans ?_
      | exact execEntryFetchDone_kept .. | refine (State.lostReserved_kept (h_count := ?_) ..).trans ?_
      | refine (State.fold_kept ..).trans ?_ | refine (State.lostResponse_kept ..).trans ?_
      | exact execSourceListReadDone_kept .. | exact execFragmentTableReadDone_kept ..
      | refine (State.lostWrite_kept (h_count := ?_) ..).trans ?_ | exact execDataReadDone_kept ..
      | refine (State.portReject_same (Blind.vitals.sub (by decide)) ..).kept.trans ?_ | refine (State.after_kept ?_).trans ?_
      | refine Kept.ite ?_ ?_ | refine Kept.ite_fst ?_ ?_ | intro _
    | split
    | dsimp only

theorem execMirrorAck_kept (seq : W32) (s : State) : KeptR (execMirrorAck seq s) s := by
  unfold execMirrorAck
  repeat' first
    | with_reducible first
      | refine KeptR.guarded ?_ ?_ | refine KeptR.next ?_ | refine KeptR.ite ?_ ?_ | exact Kept.refl _ | assumption
      | refine (State.takeAck_kept ..).trans ?_ | refine (State.consume_same (Blind.vitals.sub (by decide)) ..).kept.trans ?_
      | refine Kept.ite ?_ ?_ | refine Kept.ite_fst ?_ ?_ | intro _
    | split
    | dsimp only

theorem execSendState_kept (st : BitVec 3) (s : State) : KeptR (execSendState st s) s := by
  unfold execSendState
  repeat' first
    | with_reducible first
      | refine KeptR.guarded ?_ ?_ | refine KeptR.next ?_ | refine KeptR.ite ?_ ?_ | exact Kept.refl _ | assumption
      | refine (State.startSync_kept ..).trans ?_ | refine (State.goOff_kept ..).trans ?_
      | refine (State.countLoss_kept ..).trans ?_ | refine (State.setSend_kept ..).trans ?_
      | refine (State.consume_same (Blind.vitals.sub (by decide)) ..).kept.trans ?_
      | refine (State.withPair_same (Blind.vitals.sub (by decide)) ..).kept.trans ?_ | refine Kept.ite ?_ ?_
      | refine Kept.ite_fst ?_ ?_ | intro _
    | split
    | dsimp only

theorem State.takeNotice_kept (s : State) (n : Notice) : Kept (State.takeNotice s n) s := by
  unfold State.takeNotice
  repeat' first
    | with_reducible first
      | exact Kept.refl _ | assumption | refine (State.condition_kept ..).trans ?_ | refine (State.raise_kept ..).trans ?_
      | refine (State.loadNotice_same (Blind.vitals.sub (by decide)) ..).kept.trans ?_
      | refine (State.withPair_same (Blind.vitals.sub (by decide)) ..).kept.trans ?_ | refine Kept.ite ?_ ?_ | intro _
    | split
    | dsimp only

theorem execHaltNotice_kept (n : Notice) (s : State) : KeptR (execHaltNotice n s) s := by
  unfold execHaltNotice
  repeat' first
    | with_reducible first
      | refine KeptR.guarded ?_ ?_ | refine KeptR.next ?_ | refine KeptR.ite ?_ ?_ | exact Kept.refl _ | assumption
      | refine (State.takeNotice_kept ..).trans ?_
      | refine (State.consume_same (Blind.vitals.sub (by decide)) ..).kept.trans ?_
      | refine (State.ctrlMsg_same (Blind.vitals.sub (by decide)) ..).kept.trans ?_ | intro _
    | split
    | dsimp only

theorem State.signChange_kept (s : State) (d : Fld) (v : Nat) : Kept (State.signChange s d v) s := by
  unfold State.signChange
  repeat' first
    | with_reducible first
      | exact Kept.refl _ | assumption | refine (State.raise_kept ..).trans ?_
      | refine (State.setF_same (Blind.vitals.sub (by decide)) ..).kept.trans ?_ | refine Kept.ite ?_ ?_ | intro _
    | split
    | dsimp only

theorem execFellowAliveChange_kept (level : Bool) (s : State) : KeptR (execFellowAliveChange level s) s := by
  unfold execFellowAliveChange
  repeat' first
    | with_reducible first
      | refine KeptR.guarded ?_ ?_ | refine KeptR.next ?_ | refine KeptR.ite ?_ ?_ | exact Kept.refl _ | assumption
      | refine (State.signChange_kept ..).trans ?_ | intro _
    | split
    | dsimp only

theorem execHaltInChange_kept (asserted : Bool) (s : State) : KeptR (execHaltInChange asserted s) s := by
  unfold execHaltInChange
  repeat' first
    | with_reducible first
      | refine KeptR.guarded ?_ ?_ | refine KeptR.next ?_ | refine KeptR.ite ?_ ?_ | exact Kept.refl _ | assumption
      | refine (State.startSync_kept ..).trans ?_ | refine (State.signChange_kept ..).trans ?_ | refine Kept.ite ?_ ?_
      | refine Kept.ite_fst ?_ ?_ | intro _
    | split
    | dsimp only

theorem execTakeoverDelay_kept (s : State) : KeptR (execTakeoverDelay s) s := by
  unfold execTakeoverDelay
  repeat' first
    | with_reducible first
      | refine KeptR.guarded ?_ ?_ | refine KeptR.next ?_ | refine KeptR.ite ?_ ?_ | exact Kept.refl _ | assumption
      | refine (State.condition_kept ..).trans ?_ | refine (State.enterLost_kept ..).trans ?_ | refine Kept.ite ?_ ?_
      | refine Kept.ite_fst ?_ ?_ | intro _
    | split
    | dsimp only

theorem State.adoptCmd_kept (s : State) : Kept (State.adoptCmd s) s := by
  unfold State.adoptCmd
  repeat' first
    | with_reducible first
      | exact Kept.refl _ | assumption | refine (State.raise_kept ..).trans ?_ | refine (State.takeOver_kept ..).trans ?_
      | refine (State.cnt_same (Blind.vitals.sub (by decide)) ..).kept.trans ?_ | refine Kept.ite ?_ ?_ | intro _
    | split
    | dsimp only

theorem execAdopt_kept (w : W64) (s : State) : KeptR (execAdopt w s) s := by
  unfold execAdopt
  repeat' first
    | with_reducible first
      | refine KeptR.guarded ?_ ?_ | refine KeptR.next ?_ | refine KeptR.ite ?_ ?_ | exact Kept.refl _ | assumption
      | refine (State.adoptCmd_kept ..).trans ?_ | intro _
    | split
    | dsimp only

theorem execHaltCommand_kept (w : W64) (s : State) : KeptR (execHaltCommand w s) s := by
  unfold execHaltCommand
  repeat' first
    | with_reducible first
      | refine KeptR.guarded ?_ ?_ | refine KeptR.next ?_ | refine KeptR.ite ?_ ?_ | exact Kept.refl _ | assumption
      | refine (State.halt_kept ..).trans ?_ | intro _
    | split
    | dsimp only

theorem State.scanEnd_kept (s : State) : Kept (State.scanEnd s) s := by
  unfold State.scanEnd
  repeat' first
    | with_reducible first
      | exact Kept.refl _ | assumption | refine (State.endAdoption_kept ..).trans ?_ | refine (State.raise_kept ..).trans ?_
      | refine (State.setF_same (Blind.vitals.sub (by decide)) ..).kept.trans ?_
      | refine (State.setKeep_same (Blind.vitals.sub (by decide)) ..).kept.trans ?_ | refine Kept.ite ?_ ?_ | intro _
    | split
    | dsimp only

theorem State.adoptScan_kept (s : State) : Kept (State.adoptScan s) s := by
  unfold State.adoptScan
  repeat' first
    | with_reducible first
      | exact Kept.refl _ | assumption | refine (State.scanEnd_kept ..).trans ?_
      | refine (State.adoptQueue_same (Blind.vitals.sub (by decide)) ..).kept.trans ?_
      | refine (State.withPair_same (Blind.vitals.sub (by decide)) ..).kept.trans ?_ | refine (Kept.forEach _ _ _ ?_).trans ?_
      | intro _
    | split
    | dsimp only

theorem execAdoptionStitch_kept (s : State) : KeptR (execAdoptionStitch s) s := by
  unfold execAdoptionStitch
  repeat' first
    | with_reducible first
      | refine KeptR.guarded ?_ ?_ | refine KeptR.next ?_ | refine KeptR.ite ?_ ?_ | exact Kept.refl _ | assumption
      | refine (State.adoptScan_kept ..).trans ?_ | refine (State.admStitch_kept (h_g := ?_) ..).trans ?_
      | refine Kept.ite ?_ ?_ | refine Kept.ite_fst ?_ ?_ | intro _
    | split
    | dsimp only

theorem execPairCqCi_kept (w : W64) (s : State) : KeptR (execPairCqCi w s) s := by
  unfold execPairCqCi
  repeat' first
    | with_reducible first
      | refine KeptR.guarded ?_ ?_ | refine KeptR.next ?_ | refine KeptR.ite ?_ ?_ | exact Kept.refl _ | assumption
      | refine (State.judgeCi_kept ..).trans ?_ | intro _
    | split
    | dsimp only

theorem execPairQmode_kept (w : W64) (s : State) : KeptR (execPairQmode w s) s := by
  unfold execPairQmode
  repeat' first
    | with_reducible first
      | refine KeptR.guarded ?_ ?_ | refine KeptR.next ?_ | refine KeptR.ite ?_ ?_ | exact Kept.refl _ | assumption
      | refine (State.mirrorRetry_kept ..).trans ?_
      | refine (State.retryMode_same (Blind.vitals.sub (by decide)) ..).kept.trans ?_
      | refine (State.updQ_same (Blind.vitals.sub (by decide)) ..).kept.trans ?_ | intro _
    | split
    | dsimp only

theorem State.readOne_kept (s : State) (a : Agent) (ofs size : Nat) : Kept (State.readOne s a ofs size) s := by
  unfold State.readOne
  repeat' first
    | with_reducible first
      | exact Kept.refl _ | assumption | refine (State.readTrig_kept ..).trans ?_ | refine (State.claim_kept ..).trans ?_
      | refine (State.badAccess_same (Blind.vitals.sub (by decide)) ..).kept.trans ?_
      | refine (State.clearRc_same (Blind.vitals.sub (by decide)) ..).kept.trans ?_
      | refine (State.readErrWord_same (Blind.vitals.sub (by decide)) ..).kept.trans ?_
      | refine (State.ret_same (Blind.vitals.sub (by decide)) ..).kept.trans ?_ | refine Kept.ite ?_ ?_ | intro _
    | split
    | dsimp only

theorem State.holdAccess_kept (s : State) (c : Instr) : Kept (State.holdAccess s c) s := by
  unfold State.holdAccess
  repeat' first
    | with_reducible first
      | exact Kept.refl _ | assumption | refine (State.withCache_stay (by rfl)).trans ?_ | intro _
    | split
    | dsimp only

theorem State.readParts_kept (a : Agent) (x0 : List (Nat × Nat)) (s : State) : Kept (State.readParts a x0 s) s := by
  induction x0 generalizing a s with
  | nil => exact Kept.refl _
  | cons a r ih =>
    unfold State.readParts
    repeat' first
      | with_reducible first
        | exact Kept.refl _ | assumption | refine (State.readOne_kept ..).trans ?_ | refine (ih ..).trans ?_
        | refine (State.withCache_stay (by rfl)).trans ?_ | refine Kept.ite ?_ ?_ | refine Kept.ite_fst ?_ ?_ | intro _
      | split
      | dsimp only

theorem State.readNow_kept (s : State) (a : Agent) (ofs size : Nat) (first : Bool) :
    Kept (State.readNow s a ofs size first) s := by
  unfold State.readNow
  repeat' first
    | with_reducible first
      | exact Kept.refl _ | assumption | refine (State.readParts_kept ..).trans ?_
      | refine (State.badAccess_same (Blind.vitals.sub (by decide)) ..).kept.trans ?_
      | refine (State.beginRead_same (Blind.vitals.sub (by decide)) ..).kept.trans ?_
      | refine (State.ret_same (Blind.vitals.sub (by decide)) ..).kept.trans ?_ | refine Kept.ite ?_ ?_ | intro _
    | split
    | dsimp only

theorem execRegisterRead_kept (a : Agent) (ofs size : Nat) (s : State) : KeptR (execRegisterRead a ofs size s) s := by
  unfold execRegisterRead
  repeat' first
    | with_reducible first
      | refine KeptR.guarded ?_ ?_ | refine KeptR.next ?_ | refine KeptR.ite ?_ ?_ | exact Kept.refl _ | assumption
      | refine (State.holdAccess_kept ..).trans ?_ | refine (State.readNow_kept ..).trans ?_ | refine Kept.ite ?_ ?_
      | refine Kept.ite_fst ?_ ?_ | intro _
    | split
    | dsimp only

theorem State.pairCmd_kept (s : State) (w : W64) : Kept (State.pairCmd s w) s := by
  unfold State.pairCmd
  repeat' first
    | with_reducible first
      | exact Kept.refl _ | assumption | exact execHaltCommand_kept .. | exact execAdopt_kept ..
      | refine (State.after_kept ?_).trans ?_ | intro _
    | split
    | dsimp only

theorem State.mirrorOff_kept (s : State) : Kept (State.mirrorOff s) s := by
  unfold State.mirrorOff
  repeat' first
    | with_reducible first
      | exact Kept.refl _ | assumption | refine (State.goOff_kept ..).trans ?_ | refine Kept.ite ?_ ?_ | intro _
    | split
    | dsimp only

theorem State.testWrite_kept (s : State) (w : W64) : Kept (State.testWrite s w) s := by
  unfold State.testWrite
  repeat' first
    | with_reducible first
      | exact Kept.refl _ | assumption | refine (State.shadowTest_kept ..).trans ?_
      | refine (State.engTest_same (Blind.vitals.sub (by decide)) ..).kept.trans ?_
      | refine (State.laneTestCmd_same (Blind.vitals.sub (by decide)) ..).kept.trans ?_
      | refine (State.portTestCmd_same (Blind.vitals.sub (by decide)) ..).kept.trans ?_
      | refine (State.redTest_same (Blind.vitals.sub (by decide)) ..).kept.trans ?_
      | refine (State.setF_same (Blind.vitals.sub (by decide)) ..).kept.trans ?_
      | refine (State.shadowEnd_same (Blind.vitals.sub (by decide)) ..).kept.trans ?_
      | refine (State.withFree_same (Blind.vitals.sub (by decide)) ..).kept.trans ?_ | intro _
    | split
    | dsimp only

theorem State.writeReg_kept (s : State) (r : Reg) (i j o lo n : Nat) (w : W64) : Kept (State.writeReg s r i j o lo n w) s := by
  unfold State.writeReg
  repeat' first
    | with_reducible first
      | exact Kept.refl _ | assumption | exact execPairCqCi_kept .. | refine (State.resetCmd_kept ..).trans ?_
      | exact execRetrain_kept .. | refine (State.judgeAll_kept ..).trans ?_ | exact execAdmFwDone_kept ..
      | exact execPairQmode_kept .. | refine (State.raise_kept ..).trans ?_ | refine (State.testWrite_kept ..).trans ?_
      | exact execLaceEnable_kept .. | refine (State.mirrorOff_kept ..).trans ?_ | refine (State.eoi_kept ..).trans ?_
      | refine (State.patCmd_kept ..).trans ?_ | refine (State.pairCmd_kept ..).trans ?_ | exact execResync_kept ..
      | exact execIcCntClear_kept .. | exact execAdmCobGo_kept .. | exact execAdmEnable_kept ..
      | refine (State.cobCmd_same (Blind.vitals.sub (by decide)) ..).kept.trans ?_
      | refine (State.plainWrite_same (Blind.vitals.sub (by decide)) ..).kept.trans ?_
      | refine (State.setF_same (Blind.vitals.sub (by decide)) ..).kept.trans ?_
      | refine (State.writeErrCi_same (Blind.vitals.sub (by decide)) ..).kept.trans ?_
      | refine (State.writeTraceCi_same (Blind.vitals.sub (by decide)) ..).kept.trans ?_
      | exact (execAdmCobLock_same (Blind.vitals.sub (by decide)) ..).kept
      | exact (execAdmDisable_same (Blind.vitals.sub (by decide)) ..).kept
      | exact (execArbCommit_same (Blind.vitals.sub (by decide)) ..).kept
      | exact (execChkInjArm_same (Blind.vitals.sub (by decide)) ..).kept
      | exact (execSlotCommit_same (Blind.vitals.sub (by decide)) ..).kept | refine (State.after_kept ?_).trans ?_
      | refine Kept.ite ?_ ?_ | intro _
    | split
    | dsimp only

theorem State.writeOne_kept (s : State) (a : Agent) (ofs size v : Nat) : Kept (State.writeOne s a ofs size v) s := by
  unfold State.writeOne
  repeat' first
    | with_reducible first
      | exact Kept.refl _ | assumption | refine (State.writeReg_kept ..).trans ?_
      | refine (State.badAccess_same (Blind.vitals.sub (by decide)) ..).kept.trans ?_ | refine Kept.ite ?_ ?_ | intro _
    | split
    | dsimp only

theorem State.writeNow_kept (s : State) (a : Agent) (ofs size : Nat) (data : List Byte) (parityOk : Bool) :
    Kept (State.writeNow s a ofs size data parityOk) s := by
  unfold State.writeNow
  repeat' first
    | with_reducible first
      | exact Kept.refl _ | assumption | refine (State.raise_kept ..).trans ?_ | refine (State.writeOne_kept ..).trans ?_
      | refine (State.badAccess_same (Blind.vitals.sub (by decide)) ..).kept.trans ?_
      | refine (State.cnt_same (Blind.vitals.sub (by decide)) ..).kept.trans ?_ | refine (Kept.foldl _ _ _ ?_).trans ?_
      | refine (Kept.foldl_fst _ _ _ ?_).trans ?_ | refine Kept.ite ?_ ?_ | refine Kept.ite_fst ?_ ?_ | intro _
    | split
    | dsimp only

theorem execRegisterWrite_kept (a : Agent) (ofs size : Nat) (data : List Byte) (parityOk : Bool) (s : State) :
    KeptR (execRegisterWrite a ofs size data parityOk s) s := by
  unfold execRegisterWrite
  repeat' first
    | with_reducible first
      | refine KeptR.guarded ?_ ?_ | refine KeptR.next ?_ | refine KeptR.ite ?_ ?_ | exact Kept.refl _ | assumption
      | refine (State.writeNow_kept ..).trans ?_ | refine (State.holdAccess_kept ..).trans ?_ | refine Kept.ite ?_ ?_
      | refine Kept.ite_fst ?_ ?_ | intro _
    | split
    | dsimp only

theorem State.serveAccs_kept (x0 : Nat) (s : State) : Kept (State.serveAccs x0 s) s := by
  induction x0 generalizing s with
  | zero => exact Kept.refl _
  | succ n ih =>
    unfold State.serveAccs
    repeat' first
      | with_reducible first
        | exact Kept.refl _ | assumption | refine (State.writeNow_kept ..).trans ?_ | refine (State.readNow_kept ..).trans ?_
        | refine (ih ..).trans ?_ | refine (State.withCache_stay (by rfl)).trans ?_ | intro _
      | split
      | dsimp only

theorem State.heldTick_kept (s : State) : Kept (State.heldTick s) s := by
  unfold State.heldTick
  repeat' first
    | with_reducible first
      | exact Kept.refl _ | assumption | refine (State.serveAccs_kept ..).trans ?_ | intro _
    | split
    | dsimp only

theorem tick_kept (s : State) : KeptR (tick s) s := by
  unfold tick
  repeat' first
    | with_reducible first
      | refine KeptR.guarded ?_ ?_ | refine KeptR.next ?_ | refine KeptR.ite ?_ ?_ | exact Kept.refl _ | assumption
      | refine (State.sendFlushes_kept ..).trans ?_ | refine (State.mirrorTick_kept ..).trans ?_
      | refine (State.serveElog_kept ..).trans ?_ | refine (State.heldTick_kept ..).trans ?_
      | refine (State.haltTick_kept ..).trans ?_ | refine (State.decodeTick_kept ..).trans ?_
      | refine (State.landMsgs_kept ..).trans ?_ | refine (State.retireBanks_kept ..).trans ?_
      | refine (State.landBacks_kept ..).trans ?_ | refine (State.sendOwn_kept ..).trans ?_
      | refine (State.arbTick_same (Blind.vitals.sub (by decide)) ..).kept.trans ?_
      | refine (State.laceTick_same (Blind.vitals.sub (by decide)) ..).kept.trans ?_
      | refine (State.lineUp_same (Blind.vitals.sub (by decide)) ..).kept.trans ?_
      | refine (State.tbTick_same (Blind.vitals.sub (by decide)) ..).kept.trans ?_ | intro _
    | split
    | dsimp only

theorem execEngineBind_kept (e : Nat) (s : State) : KeptR (execEngineBind e s) s := by
  unfold execEngineBind
  repeat' first
    | with_reducible first
      | refine KeptR.guarded ?_ ?_ | refine KeptR.next ?_ | refine KeptR.ite ?_ ?_ | exact Kept.refl _ | assumption
      | refine (State.bindEntry_kept ..).trans ?_ | refine Kept.ite ?_ ?_ | refine Kept.ite_fst ?_ ?_ | intro _
    | split
    | dsimp only

theorem State.tryEnd_kept (s : State) (e : Nat) : Kept (State.tryEnd s e) s := by
  unfold State.tryEnd
  repeat' first
    | with_reducible first
      | exact Kept.refl _ | assumption | refine (State.goOn_kept ..).trans ?_ | refine (State.endStitch_kept ..).trans ?_
      | refine (State.issueUnits_kept ..).trans ?_
      | refine (State.ackBursts_same (Blind.vitals.sub (by decide)) ..).kept.trans ?_ | refine Kept.ite ?_ ?_ | intro _
    | split
    | dsimp only

theorem execStitchEnd_kept (e : Nat) (s : State) : KeptR (execStitchEnd e s) s := by
  unfold execStitchEnd
  repeat' first
    | with_reducible first
      | refine KeptR.guarded ?_ ?_ | refine KeptR.next ?_ | refine KeptR.ite ?_ ?_ | exact Kept.refl _ | assumption
      | refine (State.tryEnd_kept ..).trans ?_ | intro _
    | split
    | dsimp only

theorem execPacewaitRelease_kept (e : Nat) (s : State) : KeptR (execPacewaitRelease e s) s := by
  unfold execPacewaitRelease
  repeat' first
    | with_reducible first
      | refine KeptR.guarded ?_ ?_ | refine KeptR.next ?_ | refine KeptR.ite ?_ ?_ | exact Kept.refl _ | assumption
      | refine (State.tryEnd_kept ..).trans ?_ | refine (State.setEng_same (Blind.vitals.sub (by decide)) ..).kept.trans ?_
      | refine (State.updFl_same (Blind.vitals.sub (by decide)) ..).kept.trans ?_
      | refine (State.updStitch_same (Blind.vitals.sub (by decide)) ..).kept.trans ?_ | refine Kept.ite ?_ ?_
      | refine Kept.ite_fst ?_ ?_ | intro _
    | split
    | dsimp only

theorem State.phasesFor_kept (s : State) (e : Nat) : Kept (State.phasesFor s e) s := by
  unfold State.phasesFor
  repeat' first
    | with_reducible first
      | exact Kept.refl _ | assumption | refine (State.phaseOf_kept ..).trans ?_ | refine (Kept.forEach _ _ _ ?_).trans ?_
      | refine Kept.ite ?_ ?_ | intro _
    | split
    | dsimp only

theorem State.stitchTurn_kept (s : State) (q : Nat) (i : W32) (e : Nat) (data : List Byte) :
    Kept (State.stitchTurn s q i e data).1 s := by
  unfold State.stitchTurn
  repeat' first
    | with_reducible first
      | exact Kept.refl _ | assumption | refine (State.phasesFor_kept ..).trans ?_ | refine (State.goOn_kept ..).trans ?_
      | refine (State.issueUnits_kept ..).trans ?_
      | refine (State.feedGet_same (Blind.vitals.sub (by decide)) ..).kept.trans ?_
      | refine (State.stageRead_same (Blind.vitals.sub (by decide)) ..).kept.trans ?_ | refine Kept.getD ?_
      | refine Kept.ite ?_ ?_ | refine Kept.ite_fst ?_ ?_ | intro _
    | split
    | dsimp only

theorem State.runStitch_kept (x0 : Nat) (s : State) (x2 : Nat) (x3 : W32) (x4 : Nat) (x5 : List Byte) :
    Kept (State.runStitch x0 s x2 x3 x4 x5).1 s := by
  induction x0 generalizing s x2 x3 x4 x5 with
  | zero => exact Kept.refl _
  | succ n ih =>
    unfold State.runStitch
    repeat' first
      | with_reducible first
        | exact Kept.refl _ | assumption | refine (State.stitchTurn_kept ..).trans ?_ | refine (ih ..).trans ?_
        | refine Kept.ite ?_ ?_ | refine Kept.ite_fst ?_ ?_ | intro _
      | split
      | dsimp only

theorem State.runEntry_kept (x0 : Nat) (s : State) (x2 : Nat) (x3 : W32) (x4 : List Byte) :
    Kept (State.runEntry x0 s x2 x3 x4) s := by
  induction x0 generalizing s x2 x3 x4 with
  | zero => exact Kept.refl _
  | succ n ih =>
    unfold State.runEntry
    repeat' first
      | with_reducible first
        | exact Kept.refl _ | assumption | refine (State.turns_kept ..).trans ?_ | refine (State.runStitch_kept ..).trans ?_
        | refine (State.tryEnd_kept ..).trans ?_ | refine (State.bindEntry_kept ..).trans ?_ | refine (ih ..).trans ?_
        | refine Kept.ite ?_ ?_ | refine Kept.ite_fst ?_ ?_ | intro _
      | split
      | dsimp only

theorem State.runOp_kept (s : State) (q : Nat) (i : W32) (op : Nat) (data : List Byte) :
    Kept (State.runOp s q i op data) s := by
  unfold State.runOp
  repeat' first
    | with_reducible first
      | exact Kept.refl _ | assumption | refine (State.takeUp_kept ..).trans ?_ | refine (State.runEntry_kept ..).trans ?_
      | refine Kept.ite ?_ ?_ | intro _
    | split
    | dsimp only

theorem execNop_kept (q : BitVec 22) (i : W32) (s : State) : KeptR (execNop q i s) s := by
  unfold execNop
  repeat' first
    | with_reducible first
      | refine KeptR.guarded ?_ ?_ | refine KeptR.next ?_ | refine KeptR.ite ?_ ?_ | exact Kept.refl _ | assumption
      | refine (State.runOp_kept ..).trans ?_ | intro _
    | split
    | dsimp only

theorem execMove_kept (q : BitVec 22) (i : W32) (s : State) : KeptR (execMove q i s) s := by
  unfold execMove
  repeat' first
    | with_reducible first
      | refine KeptR.guarded ?_ ?_ | refine KeptR.next ?_ | refine KeptR.ite ?_ ?_ | exact Kept.refl _ | assumption
      | refine (State.runOp_kept ..).trans ?_ | intro _
    | split
    | dsimp only

theorem execMoveSg_kept (q : BitVec 22) (i : W32) (s : State) : KeptR (execMoveSg q i s) s := by
  unfold execMoveSg
  repeat' first
    | with_reducible first
      | refine KeptR.guarded ?_ ?_ | refine KeptR.next ?_ | refine KeptR.ite ?_ ?_ | exact Kept.refl _ | assumption
      | refine (State.runOp_kept ..).trans ?_ | intro _
    | split
    | dsimp only

theorem execFill_kept (q : BitVec 22) (i : W32) (s : State) : KeptR (execFill q i s) s := by
  unfold execFill
  repeat' first
    | with_reducible first
      | refine KeptR.guarded ?_ ?_ | refine KeptR.next ?_ | refine KeptR.ite ?_ ?_ | exact Kept.refl _ | assumption
      | refine (State.runOp_kept ..).trans ?_ | intro _
    | split
    | dsimp only

theorem execCompare_kept (q : BitVec 22) (i : W32) (s : State) : KeptR (execCompare q i s) s := by
  unfold execCompare
  repeat' first
    | with_reducible first
      | refine KeptR.guarded ?_ ?_ | refine KeptR.next ?_ | refine KeptR.ite ?_ ?_ | exact Kept.refl _ | assumption
      | refine (State.runOp_kept ..).trans ?_ | intro _
    | split
    | dsimp only

theorem execCheck_kept (q : BitVec 22) (i : W32) (s : State) : KeptR (execCheck q i s) s := by
  unfold execCheck
  repeat' first
    | with_reducible first
      | refine KeptR.guarded ?_ ?_ | refine KeptR.next ?_ | refine KeptR.ite ?_ ?_ | exact Kept.refl _ | assumption
      | refine (State.runOp_kept ..).trans ?_ | intro _
    | split
    | dsimp only

theorem execPut_kept (q : BitVec 22) (i : W32) (s : State) : KeptR (execPut q i s) s := by
  unfold execPut
  repeat' first
    | with_reducible first
      | refine KeptR.guarded ?_ ?_ | refine KeptR.next ?_ | refine KeptR.ite ?_ ?_ | exact Kept.refl _ | assumption
      | refine (State.runOp_kept ..).trans ?_ | intro _
    | split
    | dsimp only

theorem execGet_kept (q : BitVec 22) (i : W32) (data : List Byte) (s : State) : KeptR (execGet q i data s) s := by
  unfold execGet
  repeat' first
    | with_reducible first
      | refine KeptR.guarded ?_ ?_ | refine KeptR.next ?_ | refine KeptR.ite ?_ ?_ | exact Kept.refl _ | assumption
      | refine (State.runOp_kept ..).trans ?_ | intro _
    | split
    | dsimp only

theorem execPutSg_kept (q : BitVec 22) (i : W32) (s : State) : KeptR (execPutSg q i s) s := by
  unfold execPutSg
  repeat' first
    | with_reducible first
      | refine KeptR.guarded ?_ ?_ | refine KeptR.next ?_ | refine KeptR.ite ?_ ?_ | exact Kept.refl _ | assumption
      | refine (State.runOp_kept ..).trans ?_ | intro _
    | split
    | dsimp only

theorem execGetSg_kept (q : BitVec 22) (i : W32) (data : List Byte) (s : State) : KeptR (execGetSg q i data s) s := by
  unfold execGetSg
  repeat' first
    | with_reducible first
      | refine KeptR.guarded ?_ ?_ | refine KeptR.next ?_ | refine KeptR.ite ?_ ?_ | exact Kept.refl _ | assumption
      | refine (State.runOp_kept ..).trans ?_ | intro _
    | split
    | dsimp only

theorem execReduce_kept (q : BitVec 22) (i : W32) (s : State) : KeptR (execReduce q i s) s := by
  unfold execReduce
  repeat' first
    | with_reducible first
      | refine KeptR.guarded ?_ ?_ | refine KeptR.next ?_ | refine KeptR.ite ?_ ?_ | exact Kept.refl _ | assumption
      | refine (State.runOp_kept ..).trans ?_ | intro _
    | split
    | dsimp only

theorem execReduceRemote_kept (q : BitVec 22) (i : W32) (s : State) : KeptR (execReduceRemote q i s) s := by
  unfold execReduceRemote
  repeat' first
    | with_reducible first
      | refine KeptR.guarded ?_ ?_ | refine KeptR.next ?_ | refine KeptR.ite ?_ ?_ | exact Kept.refl _ | assumption
      | refine (State.runOp_kept ..).trans ?_ | intro _
    | split
    | dsimp only

theorem execQuench_kept (q : BitVec 22) (i : W32) (s : State) : KeptR (execQuench q i s) s := by
  unfold execQuench
  repeat' first
    | with_reducible first
      | refine KeptR.guarded ?_ ?_ | refine KeptR.next ?_ | refine KeptR.ite ?_ ?_ | exact Kept.refl _ | assumption
      | refine (State.runOp_kept ..).trans ?_ | intro _
    | split
    | dsimp only

theorem execTrigAdd_kept (q : BitVec 22) (i : W32) (s : State) : KeptR (execTrigAdd q i s) s := by
  unfold execTrigAdd
  repeat' first
    | with_reducible first
      | refine KeptR.guarded ?_ ?_ | refine KeptR.next ?_ | refine KeptR.ite ?_ ?_ | exact Kept.refl _ | assumption
      | refine (State.runOp_kept ..).trans ?_ | intro _
    | split
    | dsimp only

theorem execFence_kept (q : BitVec 22) (i : W32) (s : State) : KeptR (execFence q i s) s := by
  unfold execFence
  repeat' first
    | with_reducible first
      | refine KeptR.guarded ?_ ?_ | refine KeptR.next ?_ | refine KeptR.ite ?_ ?_ | exact Kept.refl _ | assumption
      | refine (State.runOp_kept ..).trans ?_ | intro _
    | split
    | dsimp only

theorem execMark_kept (q : BitVec 22) (i : W32) (s : State) : KeptR (execMark q i s) s := by
  unfold execMark
  repeat' first
    | with_reducible first
      | refine KeptR.guarded ?_ ?_ | refine KeptR.next ?_ | refine KeptR.ite ?_ ?_ | exact Kept.refl _ | assumption
      | refine (State.runOp_kept ..).trans ?_ | intro _
    | split
    | dsimp only

theorem State.kickLine_kept (s : State) (n : Nat) : Kept (State.kickLine s n) s := by
  unfold State.kickLine
  repeat' first
    | with_reducible first
      | exact Kept.refl _ | assumption | refine (State.goOn_kept ..).trans ?_ | refine (Kept.forEach _ _ _ ?_).trans ?_
      | refine Kept.ite ?_ ?_ | refine Kept.ite_fst ?_ ?_ | intro _
    | split
    | dsimp only

theorem execDreqAssert_kept (n : Nat) (s : State) : KeptR (execDreqAssert n s) s := by
  unfold execDreqAssert
  repeat' first
    | with_reducible first
      | refine KeptR.guarded ?_ ?_ | refine KeptR.next ?_ | refine KeptR.ite ?_ ?_ | exact Kept.refl _ | assumption
      | refine (State.kickLine_kept ..).trans ?_ | refine (State.cnt_same (Blind.vitals.sub (by decide)) ..).kept.trans ?_
      | refine (State.setF_same (Blind.vitals.sub (by decide)) ..).kept.trans ?_ | refine Kept.ite ?_ ?_
      | refine Kept.ite_fst ?_ ?_ | intro _
    | split
    | dsimp only

theorem execDreqDeassert_kept (n : Nat) (s : State) : KeptR (execDreqDeassert n s) s := by
  unfold execDreqDeassert
  repeat' first
    | with_reducible first
      | refine KeptR.guarded ?_ ?_ | refine KeptR.next ?_ | refine KeptR.ite ?_ ?_ | exact Kept.refl _ | assumption
      | refine (State.kickLine_kept ..).trans ?_ | refine (State.setF_same (Blind.vitals.sub (by decide)) ..).kept.trans ?_
      | refine Kept.ite ?_ ?_ | refine Kept.ite_fst ?_ ?_ | intro _
    | split
    | dsimp only

theorem execDackPulseEnd_kept (n : Nat) (s : State) : KeptR (execDackPulseEnd n s) s := by
  unfold execDackPulseEnd
  repeat' first
    | with_reducible first
      | refine KeptR.guarded ?_ ?_ | refine KeptR.next ?_ | refine KeptR.ite ?_ ?_ | exact Kept.refl _ | assumption
      | refine (State.kickLine_kept ..).trans ?_ | refine (State.updLine_same (Blind.vitals.sub (by decide)) ..).kept.trans ?_
      | refine Kept.ite ?_ ?_ | refine Kept.ite_fst ?_ ?_ | intro _
    | split
    | dsimp only

theorem execInternalAcknowledgement_kept (n : Nat) (s : State) : KeptR (execInternalAcknowledgement n s) s := by
  unfold execInternalAcknowledgement
  repeat' first
    | with_reducible first
      | refine KeptR.guarded ?_ ?_ | refine KeptR.next ?_ | refine KeptR.ite ?_ ?_ | exact Kept.refl _ | assumption
      | refine (State.kickLine_kept ..).trans ?_ | refine (State.updLine_same (Blind.vitals.sub (by decide)) ..).kept.trans ?_
      | refine Kept.ite ?_ ?_ | refine Kept.ite_fst ?_ ?_ | intro _
    | split
    | dsimp only


end Sys2Proof.Machine
end

