-- ==== Sys2Proof/Laws/Objects.lean ====
section
/-!
SUPPORT. Contexts, counters, regions, domains and request lines: what a read gives after a write.
-/
namespace Sys2Proof.Machine

theorem State.qctx_setQ (s : State) (q k : Nat) (c : QCtx) : (s.setQ q c).qctx k = if k = q then c else s.qctx k := by
  unfold State.qctx State.setQ; exact Tbl.get_set _ _ _ _ _
theorem State.cctx_setC (s : State) (c k : Nat) (x : CqCtx) : (s.setC c x).cctx k = if k = c then x else s.cctx k := by
  unfold State.cctx State.setC; exact Tbl.get_set _ _ _ _ _
theorem State.ctrOf_setCtr (s : State) (n k : Nat) (x : Counter) : (s.setCtr n x).ctrOf k = if k = n then x else s.ctrOf k := by
  unfold State.ctrOf State.setCtr; exact Tbl.get_set _ _ _ _ _
theorem State.mrOf_setMr (s : State) (n k : Nat) (x : Region) : (s.setMr n x).mrOf k = if k = n then x else s.mrOf k := by
  unfold State.mrOf State.setMr; exact Tbl.get_set _ _ _ _ _
theorem State.pdOf_setPd (s : State) (n k : Nat) (b : Bool) : (s.setPd n b).pdOf k = if k = n then b else s.pdOf k := by
  unfold State.pdOf State.setPd; exact Tbl.get_set _ _ _ _ _
theorem State.line_updLine (s : State) (n k : Nat) (g : Line → Line) :
    (s.updLine n g).line k = if k = n then g (s.line n) else s.line k := by
  unfold State.line State.updLine; exact Tbl.get_set _ _ _ _ _

/-! What depends on one component reads the same when that component is the same. -/

theorem State.qctx_of_q {t s : State} (h : t.q = s.q) (k : Nat) : t.qctx k = s.qctx k := by unfold State.qctx; rw [h]
theorem State.cctx_of_cq {t s : State} (h : t.cq = s.cq) (k : Nat) : t.cctx k = s.cctx k := by unfold State.cctx; rw [h]
theorem State.ctrOf_of_ctr {t s : State} (h : t.ctr = s.ctr) (k : Nat) : t.ctrOf k = s.ctrOf k := by unfold State.ctrOf; rw [h]
theorem State.f_of_regs {t s : State} (h : t.regs = s.regs) (d : Fld) : t.f d = s.f d := by unfold State.f State.reg; rw [h]
theorem State.flight_of_fl {t s : State} (h : t.fl = s.fl) (q : Nat) (i : W32) : t.flight? q i = s.flight? q i := by
  unfold State.flight?; rw [h]

theorem find_updWhere {α : Type} (p r : α → Bool) (g : α → α) (l : List α) (h : ∀ x, p x = true → r (g x) = r x) :
    (updWhere p g l).find? r = (l.find? r).map (fun x => if p x then g x else x) := by
  unfold updWhere
  induction l with
  | nil => rfl
  | cons x l ih =>
    rw [List.map_cons, List.find?_cons, List.find?_cons]
    have e : r (if p x = true then g x else x) = r x := by
      split_ifs with k
      · exact h x k
      · rfl
    rw [e]
    cases r x
    · exact ih
    · rfl

/-- The flight of the entry that an update changes. -/
theorem State.flight_updFl (s : State) (q : Nat) (i : W32) (g : Flight → Flight)
    (hg : ∀ f, (g f).q = f.q ∧ (g f).idx = f.idx) : (s.updFl q i g).flight? q i = (s.flight? q i).map g := by
  unfold State.flight? State.updFl
  simp only [State.withFl]
  rw [find_updWhere _ _ _ _ (by intro x _; rw [(hg x).1, (hg x).2])]
  cases h : s.fl.find? (fun f => decide (f.q = q) && decide (f.idx = i)) with
  | none => rfl
  | some f =>
    have := List.find?_some h
    simp only [Option.map_some, this, if_true]

/-- Every other entry is left alone. -/
theorem State.flight_updFl_ne (s : State) (q : Nat) (i : W32) (g : Flight → Flight)
    (hg : ∀ f, (g f).q = f.q ∧ (g f).idx = f.idx) (q' : Nat) (i' : W32) (h : ¬ (q' = q ∧ i' = i)) :
    (s.updFl q i g).flight? q' i' = s.flight? q' i' := by
  unfold State.flight? State.updFl
  simp only [State.withFl]
  rw [find_updWhere _ _ _ _ (by intro x _; rw [(hg x).1, (hg x).2])]
  cases k : s.fl.find? (fun f => decide (f.q = q') && decide (f.idx = i')) with
  | none => rfl
  | some f =>
    have a := List.find?_some k
    have b : ¬ ((decide (f.q = q) && decide (f.idx = i)) = true) := by
      intro c
      simp only [Bool.and_eq_true, decide_eq_true_eq] at a c
      exact h ⟨a.1.symm.trans c.1, a.2.symm.trans c.2⟩
    simp only [Option.map_some, if_neg b]

theorem State.flight_some {s : State} {q : Nat} {i : W32} {f : Flight} (h : s.flight? q i = some f) : f.q = q ∧ f.idx = i := by
  have := List.find?_some h
  simpa using this

end Sys2Proof.Machine
end

