-- ==== Sys2Proof/Laws/Regs.lean ====
section
/-!
SUPPORT. Register words and their fields: what a read gives after a write, and which registers raising an interrupt source,
logging an error and tracing an event leave alone.
-/
namespace Sys2Proof.Machine

theorem bits_mod (v lo n k : Nat) (h : lo + n ≤ k) : bits (v % 2 ^ k) lo n = bits v lo n := by
  unfold bits
  obtain ⟨m, rfl⟩ := Nat.exists_eq_add_of_le h
  have e : ∀ u : Nat, u / 2 ^ lo % 2 ^ n = u % 2 ^ (lo + n) / 2 ^ lo := by
    intro u; rw [Nat.pow_add, Nat.mod_mul_right_div_self]
  rw [e, e, Nat.mod_mod_of_dvd _ (Nat.pow_dvd_pow 2 (Nat.le_add_right (lo + n) m))]

theorem putBits_div (v lo n x : Nat) : putBits v lo n x / 2 ^ (lo + n) = v / 2 ^ (lo + n) := by
  unfold putBits
  have h2 : x % 2 ^ n * 2 ^ lo + v % 2 ^ lo < 2 ^ (lo + n) := by
    have a : x % 2 ^ n + 1 ≤ 2 ^ n := Nat.mod_lt _ (by positivity)
    have b : v % 2 ^ lo < 2 ^ lo := Nat.mod_lt _ (by positivity)
    calc _ < x % 2 ^ n * 2 ^ lo + 2 ^ lo := by omega
      _ = (x % 2 ^ n + 1) * 2 ^ lo := by ring
      _ ≤ 2 ^ n * 2 ^ lo := Nat.mul_le_mul_right _ a
      _ = 2 ^ (lo + n) := by rw [Nat.pow_add]; ring
  rw [Nat.add_assoc, Nat.mul_comm, Nat.mul_add_div (by positivity), Nat.div_eq_of_lt h2, Nat.add_zero]

theorem bits_putBits_self (v lo n x : Nat) : bits (putBits v lo n x) lo n = x % 2 ^ n := by
  unfold bits putBits
  have b : v % 2 ^ lo < 2 ^ lo := Nat.mod_lt _ (by positivity)
  have e : v / 2 ^ (lo + n) * 2 ^ (lo + n) + x % 2 ^ n * 2 ^ lo + v % 2 ^ lo
      = 2 ^ lo * (2 ^ n * (v / 2 ^ (lo + n)) + x % 2 ^ n) + v % 2 ^ lo := by rw [Nat.pow_add]; ring
  rw [e, Nat.mul_add_div (by positivity), Nat.div_eq_of_lt b, Nat.add_zero, Nat.mul_add_mod, Nat.mod_mod]

theorem bits_putBits_ne (v lo n x lo' n' : Nat) (h : lo' + n' ≤ lo ∨ lo + n ≤ lo') :
    bits (putBits v lo n x) lo' n' = bits v lo' n' := by
  rcases h with h | h
  · have e : putBits v lo n x % 2 ^ lo = v % 2 ^ lo := by
      unfold putBits
      have e : v / 2 ^ (lo + n) * 2 ^ (lo + n) + x % 2 ^ n * 2 ^ lo + v % 2 ^ lo
          = 2 ^ lo * (2 ^ n * (v / 2 ^ (lo + n)) + x % 2 ^ n) + v % 2 ^ lo := by rw [Nat.pow_add]; ring
      rw [e, Nat.mul_add_mod, Nat.mod_mod]
    rw [← bits_mod _ lo' n' lo h, e, bits_mod _ lo' n' lo h]
  · obtain ⟨m, rfl⟩ := Nat.exists_eq_add_of_le h
    unfold bits
    rw [Nat.pow_add, ← Nat.div_div_eq_div_mul, putBits_div, Nat.div_div_eq_div_mul]

theorem State.reg_setReg (s : State) (o o' : Nat) (v : W64) :
    (s.setReg o v).reg o' = if o' = o then v else s.reg o' := by
  unfold State.reg State.setReg; exact Tbl.get_set _ _ _ _ _

theorem State.reg_setF_ne (s : State) (d : Fld) (n o : Nat) (h : o ≠ d.ofs) : (s.setF d n).reg o = s.reg o := by
  unfold State.setF; rw [State.reg_setReg, if_neg h]

/-- A field reads what was written to it. -/
theorem State.f_setF_self (s : State) (d : Fld) (n : Nat) (h : d.lo + d.w ≤ 64) : (s.setF d n).f d = n % 2 ^ d.w := by
  unfold State.f State.setF
  rw [State.reg_setReg, if_pos rfl, BitVec.toNat_ofNat, bits_mod _ _ _ _ h, bits_putBits_self]

/-- A field of another register, or of other bits, is left alone. -/
theorem State.f_setF_ne (s : State) (d d' : Fld) (n : Nat) (h : d'.lo + d'.w ≤ 64)
    (k : d'.ofs ≠ d.ofs ∨ d'.lo + d'.w ≤ d.lo ∨ d.lo + d.w ≤ d'.lo) : (s.setF d n).f d' = s.f d' := by
  unfold State.f State.setF
  rw [State.reg_setReg]
  by_cases e : d'.ofs = d.ofs
  · rw [if_pos e, BitVec.toNat_ofNat, bits_mod _ _ _ _ h, bits_putBits_ne _ _ _ _ _ _ (by tauto), e]
  · rw [if_neg e]

theorem State.f_cnt_self (s : State) (d : Fld) (h : d.lo + d.w ≤ 64) : (s.cnt d).f d = satAdd d.w (s.f d) 1 := by
  unfold State.cnt State.sat
  rw [State.f_setF_self _ _ _ h]
  apply Nat.mod_eq_of_lt
  unfold satAdd
  have : 0 < 2 ^ d.w := by positivity
  omega

theorem State.f_cnt_ne (s : State) (d d' : Fld) (h : d'.lo + d'.w ≤ 64)
    (k : d'.ofs ≠ d.ofs ∨ d'.lo + d'.w ≤ d.lo ∨ d.lo + d.w ≤ d'.lo) : (s.cnt d).f d' = s.f d' :=
  State.f_setF_ne _ _ _ _ h k

/-- The register words of the interrupt controller. -/
abbrev icReg (o : Nat) : Prop := 0x40000 ≤ o ∧ o < 0x50000

theorem State.reg_withIc (s : State) (v : IcState) (o : Nat) : (s.withIc v).reg o = s.reg o := rfl
theorem State.reg_withOut (s : State) (v : List Out) (o : Nat) : (s.withOut v).reg o = s.reg o := rfl
theorem State.reg_emit (s : State) (x : Out) (o : Nat) : (s.emit x).reg o = s.reg o := rfl

/-- A field whose bits lie in the interrupt controller's block leaves every other register word alone. -/
theorem State.reg_setF_ic (s : State) (d : Fld) (n o : Nat) (ho : ¬ icReg o) (hd : icReg d.ofs) :
    (s.setF d n).reg o = s.reg o := State.reg_setF_ne _ _ _ _ (fun e => ho (e ▸ hd))

theorem icReg_cnt {n : Nat} (h : n < 1024) : icReg (IC_CNT n) := by unfold icReg IC_CNT; omega
theorem icReg_pend {n : Nat} (h : n < 1024) : icReg (IC_PEND (n / 64)) := by unfold icReg IC_PEND; omega
theorem icReg_storm {n : Nat} (h : n < 1024) : icReg (IC_STORM_SRC (n / 64)) := by unfold icReg IC_STORM_SRC; omega
theorem State.srcTgt_lt (s : State) (n : Nat) : s.srcTgt n < 8 := Nat.mod_lt _ (by show 0 < 2 ^ 3; decide)
theorem State.icReg_mask (s : State) {n : Nat} (h : n < 1024) : icReg (IC_MASK (s.srcTgt n) (n / 64)) := by
  have := s.srcTgt_lt n
  unfold icReg IC_MASK; omega

theorem State.sendMsg_reg (s : State) (n o : Nat) (ho : ¬ icReg o) : (s.sendMsg n).reg o = s.reg o := by
  unfold State.sendMsg State.wrapAdd
  exact State.reg_setF_ic _ _ _ _ ho (by decide)

theorem State.leaveMsg_reg (s : State) (n o : Nat) (h : n < 1024) (ho : ¬ icReg o) : (s.leaveMsg n).reg o = s.reg o := by
  have hc : icReg (IC_CNT_sent n).ofs := icReg_cnt h
  unfold State.leaveMsg
  dsimp only
  split
  · rw [State.reg_withIc, State.reg_setF_ic _ _ _ _ ho hc]
  · rw [State.sendMsg_reg _ _ _ ho, State.reg_setF_ic _ _ _ _ ho hc]

theorem State.endSignal_reg (s : State) (n o : Nat) (h : n < 1024) (ho : ¬ icReg o) : (s.endSignal n).reg o = s.reg o := by
  have hc : icReg (IC_CNT_sent n).ofs := icReg_cnt h
  unfold State.endSignal
  dsimp only
  rw [State.reg_setF_ic _ _ _ _ ho hc, State.reg_withIc]

theorem State.judgeMsg_reg (s : State) (n o : Nat) (h : n < 1024) (ho : ¬ icReg o) : (s.judgeMsg n).reg o = s.reg o := by
  unfold State.judgeMsg
  dsimp only
  split_ifs
  · rw [State.leaveMsg_reg _ _ _ h ho, State.reg_withIc]
  · rfl
  · rfl
  · exact State.endSignal_reg _ _ _ h ho
  · rfl

theorem State.addEvent_reg (s : State) (n o : Nat) (h : n < 1024) (ho : ¬ icReg o) : (s.addEvent n).reg o = s.reg o := by
  unfold State.addEvent
  dsimp only
  split_ifs
  · exact State.reg_setF_ic _ _ _ _ ho (icReg_cnt h)
  · unfold State.setPend
    rw [State.reg_setF_ic _ _ _ _ ho (icReg_pend h), State.reg_setF_ic _ _ _ _ ho (icReg_cnt h)]

theorem State.storm_reg (s : State) (n o : Nat) (h : n < 1024) (ho : ¬ icReg o) : (s.storm n).reg o = s.reg o := by
  have a : icReg IC_STORM := by decide
  unfold State.storm
  dsimp only
  split_ifs
  · rw [State.reg_setF_ic _ _ _ _ ho (State.icReg_mask _ h),
      State.reg_setF_ic _ _ _ _ ho (icReg_storm h), State.reg_setF_ic _ _ _ _ ho a]
    exact State.reg_setF_ic _ _ _ _ ho a
  · rw [State.reg_setF_ic _ _ _ _ ho (icReg_storm h), State.reg_setF_ic _ _ _ _ ho a]
    exact State.reg_setF_ic _ _ _ _ ho a

theorem State.event1_reg (s : State) (n o : Nat) (h : n < 1024) (ho : ¬ icReg o) : (s.event1 n).reg o = s.reg o := by
  unfold State.event1
  split_ifs
  · exact State.reg_setF_ic _ _ _ _ ho (by decide : icReg IC_STORM)
  · exact State.addEvent_reg _ _ _ h ho

/-- An event on a source changes no register outside the interrupt controller. -/
theorem State.raiseVia_reg (s : State) (fl : Option Nat) (n o : Nat) (h : n < 1024) (ho : ¬ icReg o) :
    (s.raiseVia fl n).reg o = s.reg o := by
  unfold State.raiseVia
  by_cases h0 : n = 0
  · rw [if_pos h0]
  have e : (s.owe n fl).reg o = s.reg o := by unfold State.owe; cases fl <;> rfl
  rw [if_neg h0]
  dsimp only
  split_ifs
  · rw [State.judgeMsg_reg _ _ _ (by decide) ho, State.judgeMsg_reg _ _ _ h ho, State.event1_reg _ _ _ (by decide) ho,
      State.storm_reg _ _ _ h ho, State.addEvent_reg _ _ _ h ho, e]
  · rw [State.judgeMsg_reg _ _ _ h ho, State.event1_reg _ _ _ h ho, e]

theorem State.raise_reg (s : State) (n o : Nat) (h : n < 1024) (ho : ¬ icReg o) : (s.raise n).reg o = s.reg o :=
  State.raiseVia_reg _ _ _ _ h ho

theorem State.f_of_reg {t s : State} (d : Fld) (h : t.reg d.ofs = s.reg d.ofs) : t.f d = s.f d := by
  unfold State.f; rw [h]

/-- An event on a source changes no field outside the interrupt controller. -/
theorem State.f_raise (s : State) (n : Nat) (d : Fld) (h : n < 1024) (ho : ¬ icReg d.ofs) : (s.raise n).f d = s.f d :=
  State.f_of_reg d (State.raise_reg _ _ _ h ho)

theorem State.f_raiseVia (s : State) (fl : Option Nat) (n : Nat) (d : Fld) (h : n < 1024) (ho : ¬ icReg d.ofs) :
    (s.raiseVia fl n).f d = s.f d :=
  State.f_of_reg d (State.raiseVia_reg _ _ _ _ h ho)

theorem State.wipe_reg (s : State) (n o : Nat) : (s.wipe n).reg o = s.reg o := by
  unfold State.wipe
  dsimp only
  split <;> rfl

/-- A first write into a block while the clear is under way counts it, and changes no other register. -/
theorem State.touchBlock_reg (s : State) (n o : Nat) (h : o ≠ PAT_CLEAR) : (s.touchBlock n).reg o = s.reg o := by
  unfold State.touchBlock
  dsimp only
  split_ifs
  · show ((s.wipe n).wrapAdd PAT_CLEAR_blocks 1).reg o = s.reg o
    unfold State.wrapAdd
    exact (State.reg_setF_ne _ _ _ _ h).trans (State.wipe_reg s n o)
  · rfl

/-- A trace event changes TB_TRACE_LOST, and PAT_CLEAR while the clear is under way, alone. -/
theorem State.traceIn_reg (s : State) (dom m code unit aux a b o : Nat) (h : o ≠ TB_TRACE_LOST) (h2 : o ≠ PAT_CLEAR) :
    (s.traceIn dom m code unit aux a b).reg o = s.reg o := by
  unfold State.traceIn
  dsimp only
  split_ifs
  · exact State.touchBlock_reg _ _ _ h2
  · unfold State.cnt State.sat
    rw [State.reg_setF_ne _ _ _ _ (by exact h)]
    rfl
  · rfl

theorem State.traceEv_reg (s : State) (m code unit aux a b o : Nat) (h : o ≠ TB_TRACE_LOST) (h2 : o ≠ PAT_CLEAR) :
    (s.traceEv m code unit aux a b).reg o = s.reg o := State.traceIn_reg _ _ _ _ _ _ _ _ _ h h2

/-- The registers of the error log (ERR_COUNT to ERR_FIRST). -/
abbrev errReg (o : Nat) : Prop := 0xb0000 ≤ o ∧ o < 0xc0000

theorem State.reg_withErr (s : State) (v : ErrState) (o : Nat) : (s.withErr v).reg o = s.reg o := rfl

theorem State.setFirst_reg (s : State) (c : Nat) (r : List W64) (o : Nat) (h : c < 8) (ho : ¬ errReg o) :
    (s.setFirst c r).reg o = s.reg o := by
  have a : ∀ (t : State) (w : Nat) (v : W64), w < 4 → (t.setReg (ERR_FIRST c w) v).reg o = t.reg o := by
    intro t w v hw
    rw [State.reg_setReg, if_neg]
    rintro rfl
    exact ho (by unfold errReg ERR_FIRST; omega)
  have e : List.range 4 = [0, 1, 2, 3] := rfl
  unfold State.setFirst
  rw [e]
  simp only [List.foldl]
  rw [a _ 3 _ (by decide), a _ 2 _ (by decide), a _ 1 _ (by decide), a _ 0 _ (by decide)]

theorem State.capture_reg (s : State) (c : Nat) (r : LogRec) (o : Nat) (h : c < 8) (ho : ¬ errReg o) :
    (s.capture c r).reg o = s.reg o := by
  have b : o ≠ ERR_FIRST_VALID := by rintro rfl; exact ho (by decide)
  have d : o ≠ ERR_COUNT c := by rintro rfl; exact ho (by unfold errReg ERR_COUNT; omega)
  unfold State.capture State.cnt State.sat
  dsimp only
  split_ifs
  · rw [State.setFirst_reg _ _ _ _ h ho, State.reg_setF_ne _ _ _ _ b, State.reg_setF_ne _ _ _ _ d]
  · rw [State.reg_setF_ne _ _ _ _ b, State.reg_setF_ne _ _ _ _ d]
  · rw [State.reg_setF_ne _ _ _ _ b, State.setFirst_reg _ _ _ _ h ho, State.reg_withErr, State.reg_setF_ne _ _ _ _ d]

theorem State.arbBusy_reg (s : State) (r q o : Nat) : (s.arbBusy r q).reg o = s.reg o := rfl

theorem State.putLog_reg (s : State) (r : List W64) (o : Nat) (ho : ¬ errReg o) (hi : ¬ icReg o) (h : o ≠ PAT_CLEAR) :
    (s.putLog r).reg o = s.reg o := by
  have c1 : o ≠ ERR_LOG_STAT := by rintro rfl; exact ho (by decide)
  have c2 : o ≠ ERR_LOG_PI := by rintro rfl; exact ho (by decide)
  unfold State.putLog State.cnt State.sat State.wrapAdd
  dsimp only
  split_ifs
  · exact State.reg_setF_ne _ _ _ _ c1
  · rw [State.raise_reg _ _ _ (by decide) hi, State.reg_setF_ne _ _ _ _ c2, State.reg_withErr, State.arbBusy_reg,
      State.touchBlock_reg _ _ _ h]

theorem State.rollLog_reg (s : State) (o : Nat) : s.rollLog.reg o = s.reg o := rfl

/-- Making a log record changes no register outside the error block. -/
theorem State.logIn_reg (s : State) (dom code cls item aux a b o : Nat) (hc : cls < 8) (ho : ¬ errReg o) :
    (s.logIn dom code cls item aux a b).reg o = s.reg o := by
  unfold State.logIn
  dsimp only
  split_ifs
  · rfl
  · rw [State.capture_reg _ _ _ _ hc ho, State.reg_withErr]
  · rw [State.capture_reg _ _ _ _ hc ho, State.reg_withErr, State.rollLog_reg]

theorem State.log_reg (s : State) (code cls item aux a b o : Nat) (hc : cls < 8) (ho : ¬ errReg o) :
    (s.log code cls item aux a b).reg o = s.reg o := State.logIn_reg _ _ _ _ _ _ _ _ _ hc ho

/-! ## What an event does to its source -/

theorem State.reg_setF_self (s : State) (d : Fld) (n : Nat) :
    (s.setF d n).reg d.ofs = BitVec.ofNat 64 (putBits (s.reg d.ofs).toNat d.lo d.w n) := by
  unfold State.setF; rw [State.reg_setReg, if_pos rfl]

/-- Issuing or withdrawing a message changes the sent bit of its source and IC_MSG_STAT, and no other field. -/
theorem State.f_judgeMsg (s : State) (n : Nat) (d : Fld) (hd : d.lo + d.w ≤ 64)
    (h1 : d.ofs ≠ IC_MSG_STAT) (h2 : d.ofs ≠ IC_CNT n ∨ d.lo + d.w ≤ 9 ∨ 10 ≤ d.lo) : (s.judgeMsg n).f d = s.f d := by
  have a : ∀ t : State, (t.sendMsg n).f d = t.f d := by
    intro t
    unfold State.sendMsg State.wrapAdd
    dsimp only
    rw [State.f_setF_ne _ _ _ _ hd (Or.inl h1)]; rfl
  have b : ∀ (t : State) (v : Nat), (t.setF (IC_CNT_sent n) v).f d = t.f d := by
    intro t v
    exact State.f_setF_ne _ _ _ _ hd (by
      rcases h2 with h | h | h
      · exact Or.inl h
      · exact Or.inr (Or.inl h)
      · exact Or.inr (Or.inr h))
  have c : ∀ t : State, (t.leaveMsg n).f d = t.f d := by
    intro t
    unfold State.leaveMsg
    dsimp only
    split
    · exact b t 1
    · rw [a, b]
  have e : ∀ t : State, (t.endSignal n).f d = t.f d := by
    intro t
    unfold State.endSignal
    dsimp only
    rw [b]; rfl
  unfold State.judgeMsg
  dsimp only
  split_ifs
  · rw [c]; rfl
  · rfl
  · rfl
  · exact e s
  · rfl

theorem State.f_lt (s : State) (d : Fld) : s.f d < 2 ^ d.w := Nat.mod_lt _ (by positivity)

theorem State.f_setPend_cnt (s : State) (n m : Nat) (b : Bool) (d : Fld) (hn : n < 1024) (hd : d.ofs = IC_CNT m)
    (hw : d.lo + d.w ≤ 64) : (s.setPend n b).f d = s.f d :=
  State.f_setF_ne _ _ _ _ hw (Or.inl (by rw [hd]; unfold IC_CNT IC_PEND; simp only []; omega))

theorem State.f_addEvent_count (s : State) (n : Nat) (h : n < 1024) :
    (s.addEvent n).f (IC_CNT_count n) = (s.f (IC_CNT_count n) + 1) % 256 := by
  unfold State.addEvent
  dsimp only
  split_ifs
  · exact State.f_setF_self _ _ _ (by simp [IC_CNT_count])
  · rw [State.f_setPend_cnt _ _ n _ _ h rfl (by simp [IC_CNT_count])]
    exact State.f_setF_self _ _ _ (by simp [IC_CNT_count])

theorem State.f_storm (s : State) (n : Nat) (d : Fld) (hd : d.lo + d.w ≤ 64) (h2 : d.ofs ≠ IC_STORM)
    (h4 : d.ofs < 0x40180 ∨ 0x42000 ≤ d.ofs) (h : n < 1024) : (s.storm n).f d = s.f d := by
  have a : d.ofs ≠ IC_STORM_SRC (n / 64) := by unfold IC_STORM_SRC; omega
  have b : ∀ t : State, d.ofs ≠ IC_MASK (t.srcTgt n) (n / 64) := by
    intro t; have := t.srcTgt_lt n; unfold IC_MASK; omega
  unfold State.storm
  dsimp only
  have c : ∀ t : State, (((t.cnt IC_STORM_count).setF IC_STORM_last_src n).setF ⟨IC_STORM_SRC (n / 64), n % 64, 1⟩ 1).f d = t.f d := by
    intro t
    rw [State.f_setF_ne _ _ _ _ hd (Or.inl a), State.f_setF_ne _ _ _ _ hd (Or.inl h2)]
    exact State.f_setF_ne _ _ _ _ hd (Or.inl h2)
  split_ifs
  · rw [State.f_setF_ne _ _ _ _ hd (Or.inl (b _)), c]
  · exact c s

/-- Judging a message leaves every count as it is. -/
theorem State.f_judgeMsg_count (s : State) (n m : Nat) : (s.judgeMsg m).f (IC_CNT_count n) = s.f (IC_CNT_count n) :=
  State.f_judgeMsg _ _ _ (by simp [IC_CNT_count]) (by simp only [IC_CNT_count, IC_CNT, IC_MSG_STAT]; omega)
    (Or.inr (Or.inl (by simp [IC_CNT_count])))

/-- An event is counted, up to 255 (R289). -/
theorem State.f_raiseVia_count (s : State) (fl : Option Nat) (n : Nat) (h : n < 1024) (h0 : n ≠ 0) :
    (s.raiseVia fl n).f (IC_CNT_count n) = min 255 (s.f (IC_CNT_count n) + 1) := by
  have lt : s.f (IC_CNT_count n) < 256 := State.f_lt s (IC_CNT_count n)
  unfold State.raiseVia
  rw [if_neg h0]
  dsimp only
  have ef : (s.owe n fl).f (IC_CNT_count n) = s.f (IC_CNT_count n) := by unfold State.owe; cases fl <;> rfl
  rw [ef]
  split_ifs with h1
  · have e : ∀ t : State, (t.event1 54).f (IC_CNT_count n) = t.f (IC_CNT_count n) := by
      intro t
      unfold State.event1
      split_ifs
      · exact State.f_setF_ne _ _ _ _ (by simp [IC_CNT_count]) (Or.inl (by simp only [IC_CNT_count, IC_CNT, IC_STORM_dropped, IC_STORM]; omega))
      · unfold State.addEvent
        dsimp only
        have k : (IC_CNT_count n).ofs ≠ IC_CNT 54 := by simp only [IC_CNT_count, IC_CNT]; omega
        split_ifs
        · exact State.f_setF_ne _ _ _ _ (by simp [IC_CNT_count]) (Or.inl k)
        · rw [State.f_setPend_cnt _ _ n _ _ (by decide) rfl (by simp [IC_CNT_count])]
          exact State.f_setF_ne _ _ _ _ (by simp [IC_CNT_count]) (Or.inl k)
    rw [State.f_judgeMsg_count, State.f_judgeMsg_count, e, State.f_storm _ _ _ (by simp [IC_CNT_count])
      (by simp only [IC_CNT_count, IC_CNT, IC_STORM]; omega) (by simp only [IC_CNT_count, IC_CNT]; omega) h,
      State.f_addEvent_count _ _ h, ef]
    omega
  · rw [State.f_judgeMsg_count]
    unfold State.event1
    rw [ef]
    split_ifs with h2
    · unfold State.cnt State.sat
      rw [State.f_setF_ne _ _ _ _ (by simp [IC_CNT_count]) (Or.inl (by simp only [IC_CNT_count, IC_CNT, IC_STORM_dropped, IC_STORM]; omega)), ef]
      omega
    · rw [State.f_addEvent_count _ _ h, ef]
      omega

theorem State.f_raise_count (s : State) (n : Nat) (h : n < 1024) (h0 : n ≠ 0) :
    (s.raise n).f (IC_CNT_count n) = min 255 (s.f (IC_CNT_count n) + 1) := State.f_raiseVia_count _ _ _ h h0

theorem putBits_bit (v i : Nat) (x : Nat) (j : Nat) :
    bit (putBits v i 1 x) j = if j = i then decide (x % 2 = 1) else bit v j := by
  have e : ∀ u k : Nat, bit u k = decide (bits u k 1 = 1) := by
    intro u k; unfold bit bits; simp only [pow_one]; rw [Bool.eq_iff_iff]; simp
  rw [e, e]
  split_ifs with k
  · rw [k, bits_putBits_self, pow_one]
  · rw [bits_putBits_ne _ _ _ _ _ _ (by omega)]

theorem bit_mod64 (v j : Nat) (h : j < 64) : bit (v % 2 ^ 64) j = bit v j := by
  have e : ∀ u : Nat, bit u j = decide (bits u j 1 = 1) := by
    intro u; unfold bit bits; simp only [pow_one]; rw [Bool.eq_iff_iff]; simp
  rw [e, e, bits_mod _ _ _ _ (by omega)]

/-- A pending bit reads what was written to it. -/
theorem State.pend_setPend (s : State) (n m : Nat) (b : Bool) (_hn : n < 1024) (_hm : m < 1024) :
    (s.setPend n b).pend m = if m = n then b else s.pend m := by
  unfold State.pend State.setPend
  have f64 : ∀ (t : State) (k : Nat), t.f (IC_PEND_pend k) = (t.reg (IC_PEND k)).toNat := by
    intro t k
    show (t.reg (IC_PEND k)).toNat / 2 ^ 0 % 2 ^ 64 = _
    rw [pow_zero, Nat.div_one]; exact Nat.mod_eq_of_lt (t.reg (IC_PEND k)).isLt
  rw [f64, f64]
  by_cases e : m / 64 = n / 64
  · rw [e]
    have g := State.reg_setF_self s ⟨IC_PEND (n / 64), n % 64, 1⟩ (b2n b)
    simp only [] at g
    rw [g, BitVec.toNat_ofNat, bit_mod64 _ _ (Nat.mod_lt _ (by decide)), putBits_bit]
    have : (m % 64 = n % 64) ↔ m = n := by omega
    simp only [this]
    split_ifs
    · cases b <;> rfl
    · rfl
  · rw [State.reg_setF_ne _ _ _ _ (by show IC_PEND (m / 64) ≠ IC_PEND (n / 64); unfold IC_PEND; omega)]
    rw [if_neg (by rintro rfl; exact e rfl)]

theorem State.pend_of_f {t s : State} (m : Nat) (h : t.f (IC_PEND_pend (m / 64)) = s.f (IC_PEND_pend (m / 64))) : t.pend m = s.pend m := by
  unfold State.pend; rw [h]

theorem State.pend_judgeMsg (s : State) (n m : Nat) (hm : m < 1024) : (s.judgeMsg n).pend m = s.pend m := by
  apply State.pend_of_f
  apply State.f_judgeMsg _ _ _ (by simp [IC_PEND_pend]) <;> simp only [IC_PEND_pend, IC_PEND, IC_MSG_STAT, IC_CNT] <;> omega

theorem State.pend_storm (s : State) (n m : Nat) (hn : n < 1024) (hm : m < 1024) : (s.storm n).pend m = s.pend m := by
  apply State.pend_of_f
  apply State.f_storm _ _ _ (by simp [IC_PEND_pend]) _ _ hn <;> simp only [IC_PEND_pend, IC_PEND, IC_STORM] <;> omega

theorem State.pend_addEvent (s : State) (n m : Nat) (hn : n < 1024) (hm : m < 1024) :
    (s.addEvent n).pend m = (s.pend m || (decide (m = n) && !s.srcActive n)) := by
  have ne : (IC_PEND_pend (m / 64)).ofs ≠ (IC_CNT_count n).ofs := by simp only [IC_PEND_pend, IC_PEND, IC_CNT_count, IC_CNT]; omega
  have e : ∀ v, (s.setF (IC_CNT_count n) v).pend m = s.pend m := by
    intro v; apply State.pend_of_f; exact State.f_setF_ne _ _ _ _ (by simp [IC_PEND_pend]) (Or.inl ne)
  have a : ∀ v, (s.setF (IC_CNT_count n) v).srcActive n = s.srcActive n := by
    intro v; unfold State.srcActive State.fb
    rw [State.f_setF_ne _ _ _ _ (by simp [IC_CNT_active]) (Or.inr (Or.inr (by simp [IC_CNT_count, IC_CNT_active])))]
  unfold State.addEvent
  dsimp only
  rw [a]
  split_ifs with h
  · rw [e, h]; simp
  · rw [State.pend_setPend _ _ _ _ hn hm, e]
    by_cases k : m = n <;> simp [k, h]

/-- An event makes its source pending unless it is active (R289). -/
theorem State.pend_raiseVia (s : State) (fl : Option Nat) (n : Nat) (hn : n < 1024) (h0 : n ≠ 0)
    (hc : s.f (IC_CNT_count n) ≠ 255) (ha : s.srcActive n = false) : (s.raiseVia fl n).pend n = true := by
  unfold State.raiseVia
  rw [if_neg h0]
  dsimp only
  have ef : (s.owe n fl).f (IC_CNT_count n) = s.f (IC_CNT_count n) := by unfold State.owe; cases fl <;> rfl
  have ea : (s.owe n fl).srcActive n = false := by rw [← ha]; unfold State.owe; cases fl <;> rfl
  rw [ef]
  split_ifs with h1
  · have e : ∀ t : State, t.pend n = true → (t.event1 54).pend n = true := by
      intro t ht
      unfold State.event1
      split_ifs
      · rw [← ht]; apply State.pend_of_f
        unfold State.cnt State.sat
        exact State.f_setF_ne _ _ _ _ (by simp [IC_PEND_pend]) (Or.inl (by simp only [IC_PEND_pend, IC_PEND, IC_STORM_dropped, IC_STORM]; omega))
      · rw [State.pend_addEvent _ _ _ (by decide) hn, ht]; rfl
    rw [State.pend_judgeMsg _ _ _ hn, State.pend_judgeMsg _ _ _ hn]
    apply e
    rw [State.pend_storm _ _ _ hn hn, State.pend_addEvent _ _ _ hn hn, ea]; simp
  · rw [State.pend_judgeMsg _ _ _ hn]
    unfold State.event1
    rw [ef, if_neg hc, State.pend_addEvent _ _ _ hn hn, ea]; simp

theorem State.pend_raise (s : State) (n : Nat) (hn : n < 1024) (h0 : n ≠ 0)
    (hc : s.f (IC_CNT_count n) ≠ 255) (ha : s.srcActive n = false) : (s.raise n).pend n = true :=
  State.pend_raiseVia _ _ _ hn h0 hc ha

end Sys2Proof.Machine
end

