-- ==== Sys2Proof/WellFormed.lean ====
section
/-!
DEFINITION. Which commands name things the part has: the ranges that the spec gives a command's operands. A command that is
not well-formed cannot arrive at the block; the meanings are total and leave the state as it was, or ignore what is out of
range.
-/
namespace Sys2Proof

/-- An engine (R99). -/
def engineOk (e : Nat) : Bool := decide (e < 68)
/-- A completion ring, own or adopted (R17, R370). -/
def ringOk (c : Nat) : Bool := decide (c < 2 ^ 19)
/-- A resource of the arbiters (R259). -/
def resourceOk (r : Nat) : Bool := decide (r < 7)
/-- An interrupt target (R287). -/
def targetOk (t : Nat) : Bool := decide (t < 8)
/-- An interrupt source that exists (R287). -/
def sourceOk (n : Nat) : Bool := decide (0 < n) && decide (n < 1024)
/-- A Lace lane (R377). -/
def laneOk (i : Nat) : Bool := decide (i < 9)
/-- A control-region access: inside the region (R471). -/
def regionOk (ofs size : Nat) : Bool := decide (0 < size) && decide (ofs + size ≤ 0x100000)

/-- The sizes that the aperture accepts as PI and RING in one write at offset 0: those aligned to themselves (R30, log entry
20). -/
def ringSizeOk (size : Nat) : Bool := decide (size ∈ [16, 32, 64])

/-- The number of a context of its kind (R43, R347). -/
def ctxNoOk : CtxKind → Nat → Bool
  | .queue, n => decide (n < 2 ^ 22)
  | .ring, n => decide (n < 2 ^ 19)
  | .counter, n => decide (n < 2 ^ 21)

/-- A reason of R443. -/
def reasonOk (r : Nat) : Bool := decide (r ≤ 8)

/-- An answer of NETP. -/
def NetAns.wf : NetAns → Bool
  | .failed r => decide (0 < r) && reasonOk r
  | _ => true

/-- A fold segment of at most 256 bytes (R442). -/
def FoldSeg.wf (f : FoldSeg) : Bool := decide (f.data.length ≤ 256) && decide (f.redType < 16) && decide (f.redOp < 8)

/-- What steps 1 to 3 of R339 take from outside. -/
def Boot.wf (b : Boot) : Bool :=
  b.badEngines.all engineOk && b.badUnits.all (fun u => decide (u < 17)) && decide (b.keyHash.length = 48)
    && decide (b.fuseRepairs.length = 24) && b.fuseRepairs.all (fun n => decide (n ≤ 8))

/-- Rows of arrays 16 to 23 (R426). -/
def rowsFrom16 : List Nat := [4096, 8192, 2048, 2048, 128, 1024, 256, 4096]

/-- What is found in an array lies in one of R426. -/
def RowReport.wf : RowReport → Bool
  | .corrected a => decide (a < 24)
  | .lostContext k n row => ctxNoOk k n && decide (row < 2688)
  | .lostRow a row => decide (16 ≤ a) && decide (row < rowsFrom16.getD (a - 16) 0)
  | _ => true

/-- A transaction that a port turns away. -/
def Txn.wf : Txn → Bool
  | .dataRead e k => engineOk e && decide (k < 16)
  | .record c => ringOk c
  | .hostMessage n => sourceOk n
  | .cobAccess c _ => decide (c < 4)
  | .foldWrite f => f.wf
  | _ => true

/-- A command that can arrive. -/
def Instr.wf : Instr → Bool
  | .piAndRing _ _ n _ _ => ringSizeOk n
  | .apertureMisformedAccess _ _ _ o n => decide (0 < n) && decide (o < 512)
  | .contextFetchDone k n _ => ctxNoOk k n
  | .engineBind e => engineOk e
  | .stitchEnd e => engineOk e
  | .pacewaitRelease e => engineOk e
  | .dataReadDone e k _ => engineOk e && decide (k < 16)
  | .getResponse e d a => engineOk e && decide (d.bytes.length ≤ 256) && a.wf
  | .deliveryReport _ _ _ r => reasonOk r
  | .recordWriteAck c => ringOk c
  | .ringBroken c _ => ringOk c
  | .cqCoalTimer c => ringOk c
  | .dreqAssert n => decide (n < 256)
  | .dreqDeassert n => decide (n < 256)
  | .dreqGlitch n => decide (n < 32)
  | .dackPulseStart n => decide (n < 32)
  | .dackPulseEnd n => decide (n < 32)
  | .internalAcknowledgement n => decide (32 ≤ n) && decide (n < 256)
  | .foldSegment f => f.wf
  | .arbPhase r _ => resourceOk r
  | .channelTake r c => resourceOk r && decide (c < 32)
  | .wdogBite r c => resourceOk r && decide (c < 32)
  | .arbFreeze r _ => resourceOk r
  | .slotAdvance r => resourceOk r
  | .slotCommit r => resourceOk r
  | .extIntAssert n => decide (n < 16)
  | .extIntRearm n => decide (n < 16)
  | .extIntGlitch n => decide (n < 16)
  | .extIntDeassert n => decide (n < 16)
  | .icClaim t => targetOk t
  | .icEoi t _ => targetOk t
  | .resync t => targetOk t
  | .icCntClear n => sourceOk n
  | .msgFail n => sourceOk n
  | .cobWait c => decide (c < 4)
  | .cobDoze c => decide (c < 4)
  | .cobWake c => decide (c < 4)
  | .resetDeassert b => b.wf
  | .complete _ l => decide (l.length = 4)
  | .qCtx _ l => decide (l.length = 10)
  | .cqCtx _ l => decide (l.length = 8)
  | .ctrCtx _ l => decide (l.length = 2)
  | .laceLock _ _ l => decide (l.length ≤ 9)
  | .laceDeskew l => decide (l.length ≤ 9)
  | .adaptationFreeze i => laneOk i
  | .lossOfLock i _ => laneOk i
  | .laneErrorWindow i _ => laneOk i
  | .transactionRejected t => t.wf
  | .memWriteError t => t.wf
  | .mempAddressError t => t.wf
  | .merge a l => decide (0 < l.length) && decide (l.length < 8) && decide (a.toNat % 8 + l.length ≤ 8)
  | .registerWrite _ o n l _ => regionOk o n && decide (l.length = n)
  | .registerRead _ o n => regionOk o n
  | .ciRecordInterval r n => if r then decide (n < 2 ^ 18) else decide (n < 2 ^ 21)
  | .controlStateParityError r u => if r then decide (u < 17) else engineOk u
  | .piWrite _ _ _ _ | .ring _ _ _ | .cqCiWrite _ _ _ _ | .entryFetchDone _ _ | .haltNoticeResend => true
  | .fragmentTableReadDone _ _ _ _ | .sourceListReadDone _ _ _ | .nop _ _ | .move _ _ | .moveSg _ _ | .fill _ _ => true
  | .compare _ _ | .check _ _ | .put _ _ | .get _ _ _ | .putSg _ _ | .getSg _ _ _ | .reduce _ _ | .reduceRemote _ _ => true
  | .quench _ _ | .trigAdd _ _ | .fence _ _ | .mark _ _ | .cut | .dataWriteAck _ _ _ | .entryComplete _ _ => true
  | .flushReadDone _ _ _ | .tsSample _ _ | .tsSampleMissing | .traceCopy | .traceCiWrite _ | .netpTimeout _ _ => true
  | .keyCheckRequest _ _ _ _ | .arrivalNotification _ | .parkRelease | .parkSpillRefill | .parkFullRetry _ => true
  | .chkInjArm _ | .admEnable _ | .admDisable _ | .adminNop _ | .createWq _ | .destroyWq _ | .destroyDrainTimeout _ => true
  | .modifyWq _ | .resumeWq _ | .queryWq _ | .createCq _ | .destroyCq _ | .modifyCq _ | .queryCq _ | .createPd _ => true
  | .destroyPd _ | .createMr _ | .destroyMr _ | .bindRl _ | .unitOffline _ | .unitOnline _ | .scrubCstore _ _ _ => true
  | .clearTrig _ | .fenceAll _ | .setMirror _ | .traceStart _ | .traceStop _ | .fwCmd _ | .fwTimeout | .admFwDone _ => true
  | .admCobLock _ | .admCobGo _ | .clearStitch | .arbCommit _ | .icSet _ | .resetAssert | .sfdpReadDone _ => true
  | .copySelect | .copyReadDone | .patternVerifyDone | .patternApply | .patApply _ | .patProgram _ => true
  | .flashProgramDone _ _ | .softReset _ | .hardReset _ | .snap _ | .ci _ | .start _ | .cqpi _ | .cqci _ | .ctr _ => true
  | .qGone _ | .cqGone _ | .syncEnd _ | .mirrorAck _ | .haltNotice _ | .haltAck _ _ | .ready | .sendState _ => true
  | .fellowAliveChange _ | .haltInChange _ | .takeoverDelay | .adopt _ | .haltCommand _ | .drainLimit => true
  | .adoptionStitch | .pairCqCi _ | .pairQmode _ | .laceDetect _ | .laceConfig _ | .attemptTimeout => true
  | .soloProbe | .packet _ | .feedback _ | .feedbackTimer _ | .replayTimeout _ | .replaySpill | .refill _ => true
  | .retrainBlock | .retrain _ | .linkDown | .laceEnable _ | .errLogCi _ | .errLogRead _ | .trigCounterRead _ => true
  | .bistRow r => r.wf
  | .engineSelfTest _ | .reductionSelfTest _ | .shadowStart _ _ | .shadowStop _ | .laneTest _ => true
  | .portTest _ | .testDone _ _ _ | .ppsIn | .ppsOut _ | .laneLockWaitExpiry | .syncClearStitch => true

end Sys2Proof
end

