-- ==== Sys2Proof/Tests/Slice0.lean ====
section
/-!
SUPPORT. Tests: the commands that cannot arrive, a state and operands for the hypotheses of every claim, and values that the
spec works out.
-/
namespace Sys2Proof.Tests
open Sys2Proof Sys2Proof.Machine

set_option Elab.async false

/-! ## Small states -/

/-- The reset state with some register fields set. -/
def st (l : List (Fld × Nat)) : State := l.foldl (fun s x => s.setF x.1 x.2) State.reset
/-- A mover in RUN. -/
def runSt : State := st [(PAT_STAT_phase, 7)]
/-- A mover in HALTED. -/
def haltSt : State := st [(PAT_STAT_phase, 8)]
/-- A READY queue with 64 slots on ring 3. -/
def aq : QCtx := { QCtx.zero with state := .ready, sizeLog2 := 6, cqid := 3, cls := .user, rank := 1, stitchLog2 := 16 }
/-- An ACTIVE ring with 8 slots. -/
def ac : CqCtx := { CqCtx.zero with state := .active, sizeLog2 := 3 }
/-- An entry of all zero fields with an opcode. -/
def ent (op : Nat) : Entry := { decodeEntry [] with opcode := op }
/-- An entry of queue 5, as far as decoding has brought it. -/
def fly (i : W32) (e : Entry) (p : Phase) : Flight := { freshFlight 5 i [] 0 16 with e := e, phase := p }
/-- Queue 5 and ring 3, hot, in RUN. -/
def work (c : QCtx) (x : CqCtx) : State := (((runSt.setQ 5 c).setC 3 x).setWays .queue 5 [5]).setWays .ring 3 [3]
/-- The same with some entries in flight. -/
def busy (c : QCtx) (l : List Flight) : State := (work c ac).withFl l

/-- Owners put on channels: resource, channel, requester. -/
def own (l : List (Nat × Nat × Nat)) (s : State) : State :=
  l.foldl (fun s x => s.setOwner x.1 x.2.1 (some { req := x.2.2, slot := false, age := 0, idle := 0, take := none })) s

/-! ## Hypotheses of the claims -/

theorem test_witness_StepRunsTheFrontCommand : (State.reset.withPending [.cut, .resetAssert]).pending = .cut :: [.resetAssert] := rfl

theorem test_witness_IdleStepAdvancesMoverTime : runSt.pending = [] ∧ runSt.resting := by
  unfold State.resting; decide +kernel

theorem test_witness_ResetLeavesTheStatedValues : 1023 < 1024 := by decide

theorem test_witness_EveryStepKeepsStateSound : State.reset.sound ∧ ∃ t, step State.reset = .next t :=
  ⟨⟨rfl, Nat.zero_le _, Nat.zero_le _, fun _ => Nat.zero_le _, (fun _ h => nomatch h), (fun _ h => nomatch h)⟩, _, rfl⟩

theorem test_witness_EveryCommandCompletes :
    exec (.icSet 0) State.reset = .next State.reset ∧ ∀ b, Instr.icSet 0 ≠ .resetDeassert b :=
  ⟨rfl, fun _ h => by cases h⟩

theorem test_witness_OnlyTheirCommandsChangeStores :
    storesMemory (.icSet 0) = false ∧ changesRegions (.icSet 0) = false ∧ changesDomains (.icSet 0) = false
      ∧ exec (.icSet 0) State.reset = .next State.reset := ⟨rfl, rfl, rfl, rfl⟩

/-- PI 5 and S 4 in the slot, CI 1: room for indices up to 65. -/
def dbQ : QCtx := { aq with pi := 5, snap := 4, fetch := 4, ci := 1 }

theorem test_witness_ProducerIndexWrites :
    ((work dbQ ac).takesNow 1 (.piWrite 1 5 9 true) ∧ (work dbQ ac).slotClosed 5 = false
      ∧ ((work dbQ ac).qctx 5).state ≠ .destroying)
    ∧ ((work dbQ ac).takesNow 0 (.piAndRing 0 5 16 65 true) ∧ (work dbQ ac).takesNow 0 (.piAndRing 0 5 64 65 true)
      ∧ (work dbQ ac).slotClosed 5 = false ∧ (work dbQ ac).qMirrored 5 = false ∧ ((work dbQ ac).qctx 5).state = .ready
      ∧ (∀ x ∈ (work dbQ ac).pair.ringWait, x.1 ≠ 5) ∧ idxDiff 65 ((work dbQ ac).qctx 5).ci ≤ 2 ^ ((work dbQ ac).qctx 5).sizeLog2
      ∧ idxDiff ((work dbQ ac).qctx 5).snap ((work dbQ ac).qctx 5).ci ≤ idxDiff 65 ((work dbQ ac).qctx 5).ci) := by
  unfold State.takesNow; decide +kernel

/-- The same queue mirrored, with a mirror to send to. -/
def mirQ : State := (work { dbQ with mirror := .async } ac).setF PAIR_STAT_send_state 2

theorem test_witness_RingTakesTheSnapshot :
    ((work dbQ ac).takesNow 0 (.ring 0 5 true) ∧ (work dbQ ac).slotClosed 5 = false ∧ ((work dbQ ac).qctx 5).state = .ready
      ∧ idxDiff ((work dbQ ac).qctx 5).pi ((work dbQ ac).qctx 5).ci ≤ 2 ^ ((work dbQ ac).qctx 5).sizeLog2
      ∧ idxDiff ((work dbQ ac).qctx 5).snap ((work dbQ ac).qctx 5).ci ≤ idxDiff ((work dbQ ac).qctx 5).pi ((work dbQ ac).qctx 5).ci
      ∧ (work dbQ ac).qMirrored 5 = false)
    ∧ (mirQ.takesNow 0 (.ring 0 5 true) ∧ mirQ.slotClosed 5 = false ∧ mirQ.qMirrored 5 = true ∧ mirQ.mirrorOn = true
      ∧ mirQ.mirrorRoom 1 = true ∧ (∀ x ∈ mirQ.pair.ringWait, x.1 ≠ 5))
    ∧ ((work { dbQ with state := .fenced } ac).takesNow 0 (.ring 0 5 true)
      ∧ (work { dbQ with state := .fenced } ac).slotClosed 5 = false) := by
  unfold State.takesNow; decide +kernel

/-- A PI one too far ahead of CI 1, and one behind S 4: of a USER queue, and of one of the KERNEL class. -/
def badRing (v : W32) (k : QClass) : State := work { dbQ with pi := v, cls := k } ac

/-- The hypotheses of a malformed RING on queue 5. -/
def badHyps (s : State) : Prop :=
  s.takesNow 0 (.ring 0 5 true) ∧ s.slotClosed 5 = false ∧ (s.qctx 5).state = .ready ∧ s.pair.ringWait = [] ∧ s.strict = false
    ∧ s.qMirrored 5 = false ∧ (∀ f ∈ s.flsOf 5, f.phase ≠ .parked)

theorem test_witness_RingTakesTheSnapshot_bad :
    badHyps (badRing 66 .user) ∧ badHyps (badRing 3 .user) ∧ badHyps (badRing 66 .kernel) ∧ badHyps (badRing 3 .kernel) := by
  unfold badHyps State.takesNow; decide +kernel

theorem test_witness_RingTakesTheSnapshot_index :
    2 ^ dbQ.sizeLog2 < idxDiff 66 dbQ.ci ∧ idxDiff 3 dbQ.ci ≤ 2 ^ dbQ.sizeLog2 ∧ idxDiff 3 dbQ.ci < idxDiff dbQ.snap dbQ.ci := by
  decide +kernel

/-- Ring 3 with six records not consumed. -/
def ciRing : State := work dbQ { ac with pi := 10, ci := 4 }

theorem test_witness_CqCiWriteIsJudged :
    (ciRing.takesNow 0 (.cqCiWrite 0 5 10 true) ∧ ciRing.slotClosed 5 = false ∧ (ciRing.qctx 5).cqid < 2 ^ 18
      ∧ (ciRing.cctx (ciRing.qctx 5).cqid).state ≠ CqState.free)
    ∧ (idxDiff (ciRing.cctx 3).pi 10 ≤ idxDiff (ciRing.cctx 3).pi (ciRing.cctx 3).ci
      ∧ idxDiff (ciRing.cctx 3).pi 4 ≤ idxDiff (ciRing.cctx 3).pi (ciRing.cctx 3).ci
      ∧ (ciRing.cctx 3).state ≠ .full ∧ ciRing.spilledOf 3 = 0 ∧ ciRing.waitsFor 3 = false ∧ ciRing.cMirrored 3 = false ∧ ciRing.pair.acts = [])
    ∧ (ciRing.takesNow 0 (.cqCiWrite 0 5 11 true) ∧ idxDiff (ciRing.cctx 3).pi (ciRing.cctx 3).ci < idxDiff (ciRing.cctx 3).pi 11
      ∧ idxDiff (ciRing.cctx 3).pi (ciRing.cctx 3).ci < idxDiff (ciRing.cctx 3).pi 3) := by
  unfold State.takesNow; decide +kernel

theorem test_witness_MisformedAccessIsCounted :
    (runSt.served = true ∧ runSt.halted = false ∧ runSt.intakeLevel 0 < 1024 ∧ runSt.heldBack 0 = false ∧ writeForm 0 5 = false ∧ writeForm 0 65 = false ∧ writeForm 0x10 8 = false)
    ∧ (∀ n ∈ [4, 5, 8], blocked (work dbQ ac).cache.waits (.apertureMisformedAccess 0 5 .read 0x10 n) = false
      ∧ (work dbQ ac).cold [] (.apertureMisformedAccess 0 5 .read 0x10 n) = false) ∧ haltSt.halted = true := by
  decide +kernel

/-- Fifteen of the sixteen ways of queue 5's set are taken, its context is asked for, and CCACHE owns a channel. -/
def ways15 : State :=
  let s := ((own [(6, 0, 70)] runSt).setQ 5 aq).setWays .queue 5 ((List.range 15).map (fun k => 5 + 4096 * (k + 1)))
  s.withCache { s.cache with wanted := [(.queue, 5, false)] }

theorem test_witness_ContextArrivesInItsSet :
    (CtxKind.queue, 5) ∈ ways15.sought ∧ ways15.owns resCstore 70 = true ∧ 7 ≤ ways15.phase ∧ (ways15.waysOf .queue 5).length < 16
      ∧ ways15.bankRetired (5 % 16) = false ∧ 5 % 16 ∉ ways15.spr.retiring ∧ ways15.cache.waits = [] ∧ ways15.cache.back = []
      ∧ ways15.cache.ends = [] ∧ (∀ f ∈ ways15.fl, f.phase ≠ .fetched) ∧ ways15.run = true ∧ ways15.pair.hard = false := by
  decide +kernel


/-- Queue 5 with three entries handed over and not fetched; FETCH owns a channel of host port 0. -/
def fetchSt : State := own [(0, 0, 68)] (work { aq with pi := 3, snap := 3 } ac)
/-- The same with one entry, of all zero bytes, and with an undefined opcode. -/
def fetch1 : State := own [(0, 0, 68)] (work { aq with pi := 1, snap := 1 } ac)
def fetchBad : State := fetch1.writeHost none 0 [0xFF] false
/-- Queue 5 can be fetched from, and its read is sound. -/
def fetchHyps (s : State) : Prop :=
  s.canFetch 5 = true ∧ s.owns (portRes (spaceOf (s.qctx 5).device) (s.qctx 5).port) 68 = true
    ∧ s.readRoom (portRes (spaceOf (s.qctx 5).device) (s.qctx 5).port) = true
    ∧ (s.readMarks (spaceOf (s.qctx 5).device) (s.qctx 5).port (s.qctx 5).pasidOf ((s.qctx 5).slotAddr (s.qctx 5).fetch)
        (64 * (s.qctx 5).fetchLen) .ok).any id = false
    ∧ (s.qctx 5).device = false ∧ s.isOut (portRes 0 (s.qctx 5).port) (.entries 5) = false
/-- It is one entry, of a USER queue with no other. -/
def oneHyps (s : State) : Prop :=
  (s.qctx 5).fetchLen = 1 ∧ s.flsOf 5 = [] ∧ (s.qctx 5).cls = .user ∧ s.strict = false ∧ s.qMirrored 5 = false
    ∧ (s.cctx (s.qctx 5).cqid).state ≠ .free
/-- The entry waits at decode for a parking slot: on chip, or, its bank being retired, in the spill, whose PSPILL owns a channel. -/
def waitF : Flight := fly 0 { ent 0 with flags := 16, waitCtr := 7, threshold := 1 } .waitPark
def waitSt : State := (busy { aq with pi := 1, snap := 1, fetch := 1 } [waitF]).setWays .counter 7 [7]
def waitSpill : State := own [(6, 0, 71)] (waitSt.setF (SPR_ARRAY_retired 7) 1)
def waitHyps (s : State) : Prop :=
  (s.flsOf 5).find? (fun g => decide (g.phase = .waitPark)) = some waitF ∧ s.flight? 5 waitF.idx = some waitF
    ∧ (s.qctx 5).fetching = true ∧ s.run = true ∧ s.parkOpen (ctrIdx 5 waitF.e.waitCtr) = true

theorem test_witness_FetchAndDecodeGoInOrder :
    ((5 : BitVec 22) ≠ 0 ∧ fetchHyps fetchSt ∧ (fetchSt.qctx 5).fetchLen = 3) ∧ (fetchHyps fetch1 ∧ oneHyps fetch1)
    ∧ (fetchHyps fetchBad ∧ oneHyps fetchBad)
    ∧ (waitHyps waitSt ∧ waitSt.atHand [(.counter, ctrIdx 5 waitF.e.waitCtr)] = true)
    ∧ (waitHyps waitSpill ∧ waitSpill.mustSpill (ctrIdx 5 waitF.e.waitCtr) = true) := by
  unfold fetchHyps oneHyps waitHyps; decide +kernel

theorem test_witness_FetchAndDecodeGoInOrder_decode :
    fetch1.decodeCause 5 (List.replicate 64 0) (decodeEntry (List.replicate 64 0)) = none
    ∧ fetch1.trigPd 5 (decodeEntry (List.replicate 64 0)) = false ∧ (decodeEntry (List.replicate 64 0)).waitEn = false
    ∧ (fetchBad.catchRead 0 0 none 0 64).bytes = 0xFF :: List.replicate 63 0
    ∧ fetchBad.decodeCause 5 (0xFF :: List.replicate 63 0) (decodeEntry (0xFF :: List.replicate 63 0)) = some 0x11 := by decide +kernel

/-- A MOVE_SG of 512 bytes whose source table lies at 0x1000 and is not read. -/
def sgE : Entry := { ent 0x02 with flags := 2, length := 512, src := 0x1000, dst := 0x8000 }
def sgF : Flight := fly 0 sgE .started
def sgSt : State := own [(0, 0, 68)] (busy { aq with pi := 1, snap := 1, fetch := 1 } [sgF])
/-- A REDUCE of two sources, whose list of zeros lies at 0x1000. -/
def redE : Entry := { ent 0x20 with opspec := 1, length := 512, src := 0x1000, dst := 0x8000, redType := 3 }
def redF : Flight := fly 0 redE .started
def redSt0 : State := own [(0, 0, 68)] (busy { aq with pi := 1, snap := 1, fetch := 1 } [redF])

theorem test_witness_TablesAndListsAreRead :
    (sgSt.flight? 5 0 = some sgF ∧ sgSt.mayRead sgF = true ∧ sgE.ft .src = true ∧ sgF.tableDone .src = false
      ∧ sgSt.fetchMay (sgSt.tableRes sgF .src) = true
      ∧ (sgSt.readTable sgF .src (tableRead sgE .src []).1 (tableRead sgE .src []).2 .ok).2 = none)
    ∧ (redSt0.flight? 5 0 = some redF ∧ redSt0.listDue redF = true ∧ redSt0.fetchMay (redSt0.tableRes redF .src) = true
      ∧ (redSt0.readTable redF .src redE.src.toNat (16 * redE.nsrc) .ok).2 = none
      ∧ listCause redE (Sys2Proof.Machine.fragsOf 16 (redSt0.tableBytes redF .src redE.src.toNat (16 * redE.nsrc))) = none
      ∧ (redSt0.readTable redF .src redE.src.toNat (16 * redE.nsrc) .rejected).2 = some stXlat
      ∧ stXlat ≠ stMalformed) := by decide +kernel

def nopF : Flight := fly 0 (ent 0x00) .startable
def nopSt : State := busy { aq with pi := 1, snap := 1, fetch := 1 } [nopF]
def put0 : Entry := { ent 0x10 with dst := 0x0000400000000040, ordClass := 2, dstSpace := 2 }
def put0F : Flight := fly 0 put0 .startable
def put0St : State := busy { aq with pi := 1, snap := 1, fetch := 1 } [put0F]

theorem test_witness_EntriesWithoutAnEngine :
    (entryCommand (.nop 5 0) = some (0x00, 5, 0, []) ∧ entryCommand (.put 5 0) = some (0x10, 5, 0, []))
    ∧ (nopSt.flight? 5 0 = some nopF ∧ (ent 0x00).opcode = 0x00 ∧ (ent 0x00).length = 0 ∧ (ent 0x00).isPut = false
      ∧ nopSt.mayBegin nopF ∧ nopF.unbound ∧ nopF.status = stOk ∧ nopSt.atHand (upNeeds 5 nopF) = true)
    ∧ (put0St.flight? 5 0 = some put0F ∧ put0.opcode = 0x10 ∧ put0.length = 0 ∧ put0.dstFt = false
      ∧ put0St.ordReady put0F [nodeOf put0.dst.toNat] = true ∧ put0St.mayBegin put0F ∧ put0F.unbound ∧ put0F.status = stOk
      ∧ put0St.atHand (upNeeds 5 put0F) = true) := by
  refine ⟨⟨rfl, rfl⟩, ?_⟩; unfold State.mayBegin Flight.unbound; decide +kernel

def addE : Entry := { ent 0x30 with src := 9, dst := 3 }
def addF : Flight := fly 0 addE .startable
def addSt : State := (busy { aq with pi := 1, snap := 1, fetch := 1 } [addF]).setWays .counter 9 [9]
def fenceF : Flight := fly 0 (ent 0x31) .startable
def fenceSt : State := busy { aq with pi := 1, snap := 1, fetch := 1 } [fenceF]

theorem test_witness_CounterAndFenceEntries :
    (addSt.flight? 5 0 = some addF ∧ addE.opcode = 0x30 ∧ addE.length = 0
      ∧ addSt.mayBegin addF ∧ addF.unbound ∧ addF.status = stOk ∧ addF.skipAdd = false ∧ addSt.atHand (upNeeds 5 addF) = true
      ∧ addSt.sending 5 = false)
    ∧ (fenceSt.flight? 5 0 = some fenceF ∧ fenceF.e.opcode = 0x31 ∧ fenceF.e.length = 0 ∧ fenceSt.mayBegin fenceF
      ∧ fenceF.unbound ∧ fenceF.status = stOk ∧ fenceF.redExc = false ∧ fenceF.logged = none ∧ fenceF.quar = none
      ∧ fenceF.postsRecord = true ∧ fenceF.signalsAt = false ∧ fenceSt.sending 5 = false
      ∧ fenceSt.hot .queue 5 = true ∧ fenceSt.atHand [(.ring, fenceSt.recRing fenceF)] = true
      ∧ (fenceSt.cctx (fenceSt.recRing fenceF)).state = .active ∧ fenceSt.direct (fenceSt.recRing fenceF) = true) := by
  unfold State.mayBegin Flight.unbound; decide +kernel

/-- A MOVE of 100 bytes from 0x1000 to 0x8000 in host memory. -/
def movE : Entry := { ent 0x01 with length := 100, src := 0x1000, dst := 0x8000 }
def movF : Flight := fly 0 movE .startable
def movSt : State := (busy { aq with pi := 1, snap := 1, fetch := 1 } [movF]).setF IZ_SCHED_CFG_eng_per_queue 16

theorem test_witness_DataEntryWritesItsResult :
    entryCommand (.move 5 0) = some (0x01, 5, 0, []) ∧ movSt.flight? 5 0 = some movF ∧ movE.opcode = 0x01 ∧ movE.length ≠ 0
      ∧ movSt.engIn 0 = some 0 ∧ movSt.nextBind = some (5, movF) ∧ haltSt.nextBind = none := by decide +kernel

/-- A FILL, a COMPARE of two places that are equal or differ, a CHECK, a PUT, a GET, and a REDUCE whose list is read. -/
def dataSt (f : Flight) : State := movSt.withFl [f]
def fillF : Flight := fly 0 { ent 0x03 with length := 100, dst := 0x8000 } .startable
def cmpF : Flight := fly 0 { ent 0x04 with length := 100, src := 0x1000, dst := 0x8000 } .startable
def cmpSt : State := (dataSt cmpF).writeHost none 0x1050 [1, 2, 3] false
def chkF : Flight := fly 0 { ent 0x05 with length := 100, src := 0x1000 } .startable
def getF0 : Flight := fly 0 { ent 0x11 with length := 100, src := 0x40, dst := 0x8000, srcSpace := 2 } .startable
def sumF : Flight := { fly 0 { ent 0x20 with opspec := 1, length := 64, src := 0x1000, dst := 0x8000, redType := 3 } .started with
  srcList := some [⟨0x2000, 64, 0⟩, ⟨0x3000, 64, 0⟩] }

/-- What `State.oneUnit` asks of an entry beside its reads. -/
def unitHyps (s : State) (f : Flight) : Prop :=
  ((f.phase = .startable ∧ f.e.hasList = false) ∨ (f.phase = .started ∧ f.srcList.isSome = true))
    ∧ (f.redo = [] ∧ f.stitches = [] ∧ f.writes = [] ∧ f.kept = none) ∧ f.next = 0 ∧ f.done = []
    ∧ f.status = stOk ∧ f.ended = false ∧ f.e.length ≤ 256 ∧ f.e.piOp = 0 ∧ 8 ≤ f.stitchLog2 ∧ 8 ≤ (s.qctx f.q).stitchLog2
    ∧ s.startChecks f 0 f.e.length = .ok ∧ f.badOverlap = false ∧ (s.qctx f.q).rlBind = false ∧ (s.qctx f.q).newMirror = none
    ∧ (s.qctx f.q).newLine = none ∧ (s.needsStart f && f.startSeq.isNone) = false ∧ s.atHand [(.queue, f.q)] = true
    ∧ s.fb IZ_CHK_INJ_armed = false ∧ s.spr.shadow = none ∧ (f.e.isRed = true → s.channels 4 ≠ [])

/-- Reader `k` reads run `r`, sound. -/
def readHyps (s : State) (f : Flight) (k : Nat) (r : Run) : Prop :=
  runAt (f.reader k).2 0 (f.e.sideLen (f.reader k).1) = some r ∧ r.n = f.e.sideLen (f.reader k).1
    ∧ (f.e.space (f.reader k).1 = 2 ↔ f.e.isGet = true)
    ∧ (f.e.isGet = false → s.readBad (f.e.space (f.reader k).1) (s.qctx f.q).pasidOf r.addr r.n = false
        ∧ (f.e.space (f.reader k).1 ≠ 0 → s.pkgOut r.addr r.n = false))

theorem oneUnit_of {s : State} {f : Flight} (h : unitHyps s f)
    (g : f.e.isGet = true → ∃ r, runAt (f.fragsOf .dst) 0 f.e.length = some r ∧ r.n = f.e.length)
    (l : ∀ k, k < f.e.readers → ∃ r, readHyps s f k r) : s.oneUnit f := by
  obtain ⟨a, b, c, d, e, i, j, m, n, o, p, q, r, u, v, w, x, y, z, z'⟩ := h
  exact ⟨a, b, c, d, e, i, j, m, n, o, p, q, r, u, v, w, x, y, z, z', g, l⟩

theorem test_witness_DataEntryWritesItsResult_alone : movSt.uncontested :=
  ⟨rfl, fun _ => rfl,
    (by have h : ∀ res < 7, ∀ r < 80, movSt.requests res false r = false := by decide +kernel
        exact fun res r a b => h res a r b),
    by decide +kernel⟩

theorem test_witness_DataEntryWritesItsResult_move : movSt.oneUnit movF := by
  refine oneUnit_of (by unfold unitHyps; decide +kernel) (fun h => nomatch h) fun k hk => ?_
  obtain rfl : k = 0 := Nat.lt_one_iff.mp hk
  exact ⟨⟨0x1000, 0, 100⟩, by unfold readHyps; decide +kernel⟩

theorem test_witness_DataEntryWritesItsResult_fill : (dataSt fillF).oneUnit fillF :=
  oneUnit_of (by unfold unitHyps; decide +kernel) (fun h => nomatch h) fun _ hk => nomatch hk

theorem test_witness_DataEntryWritesItsResult_compare : cmpSt.oneUnit cmpF
    ∧ cmpF.firstDiff (cmpSt.fedStitch cmpF []) 0 100 = some 80 ∧ cmpF.firstDiff ((dataSt cmpF).fedStitch cmpF []) 0 100 = none := by
  refine ⟨oneUnit_of (by unfold unitHyps; decide +kernel) (fun h => nomatch h) fun k hk => ?_, by decide +kernel⟩
  match k, hk with
  | 0, _ => exact ⟨⟨0x1000, 0, 100⟩, by unfold readHyps; decide +kernel⟩
  | 1, _ => exact ⟨⟨0x8000, 0, 100⟩, by unfold readHyps; decide +kernel⟩

theorem test_witness_DataEntryWritesItsResult_check : (dataSt chkF).oneUnit chkF ∧ chkF.e.isCheck = true := by
  refine ⟨oneUnit_of (by unfold unitHyps; decide +kernel) (fun h => nomatch h) fun k hk => ?_, by decide +kernel⟩
  obtain rfl : k = 0 := Nat.lt_one_iff.mp hk
  exact ⟨⟨0x1000, 0, 100⟩, by unfold readHyps; decide +kernel⟩

theorem test_witness_DataEntryWritesItsResult_get : (dataSt getF0).oneUnit getF0 := by
  refine oneUnit_of (by unfold unitHyps; decide +kernel) (fun _ => ⟨⟨0x8000, 0, 100⟩, by decide +kernel⟩) fun k hk => ?_
  obtain rfl : k = 0 := Nat.lt_one_iff.mp hk
  exact ⟨⟨0x40, 0, 100⟩, by unfold readHyps; decide +kernel⟩

theorem test_witness_DataEntryWritesItsResult_reduce : (dataSt sumF).oneUnit sumF := by
  refine oneUnit_of (by unfold unitHyps; decide +kernel) (fun h => nomatch h) fun k hk => ?_
  match k, hk with
  | 0, _ => exact ⟨⟨0x2000, 0, 64⟩, by unfold readHyps; decide +kernel⟩
  | 1, _ => exact ⟨⟨0x3000, 0, 64⟩, by unfold readHyps; decide +kernel⟩


def movSt1 : State := movSt.withFl [fly 0 movE .started]
/-- A REDUCE that may start, and so is to read its source list. -/
def lstF : Flight := fly 0 redE .startable
def lstSt : State := movSt.withFl [lstF]
/-- A read of 100 bytes that is out. -/
def out100 : ReadOut := { bytes := List.replicate 100 0, bad := [], fixes := 0 }
/-- The stitch of a MOVE on engine 2. -/
def stitch2 : Stitch :=
  { eng := 2, lo := 0, hi := 100, wr := 0, ready := true, stop := false, cut := false, cutFor := none, rank := 1, line := none,
    paced := 0, ends := [], asked := 0, pat := 0, born := 1, stage := [[]], rds := [[out100]], sums := [[]] }
def bound (x : Stitch) : Flight := { fly 0 movE .started with next := 100, stitches := [x] }
/-- Every engine bound, engine 2 to that stitch at rank 1, and an entry of a queue of rank 3 that waits. -/
def cutSt : State :=
  let s := (List.range 68).foldl (fun s e => s.setEng e 1) ((movSt.setF IZ_SCHED_CFG_preempt_en 1).setF IZ_SCHED_CFG_preempt_rank 3)
  ((s.setF (IZ_ENG_STATE_rank 2) 1).setQ 6 { aq with rank := 3 }).withFl [bound stitch2, { fly 0 movE .startable with q := 6 }]

theorem test_witness_EnginesAreBoundAndCut :
    (movSt1.engSt 2 = 0 ∧ movSt1.nextBind = some (5, fly 0 movE .started) ∧ movSt1.flight? 5 0 = some (fly 0 movE .started)
      ∧ (fly 0 movE .started).nextUnit = some (0, 100) ∧ (fly 0 movE .started).stitch? 2 = none
      ∧ movSt1.atHand [(.queue, 5)] = true ∧ (movSt1.qctx 5).rlBind = false
      ∧ movSt1.startChecks (fly 0 movE .started) 0 100 = .ok)
    ∧ (lstSt.engSt 2 = 0 ∧ lstSt.nextBind = some (5, lstF) ∧ lstSt.flight? 5 0 = some lstF ∧ redE.hasList = true
      ∧ lstSt.atHand [(.queue, 5)] = true ∧ (lstSt.needsStart lstF && lstF.startSeq.isNone) = false
      ∧ lstSt.plainKey lstF .dst = .ok)
    ∧ (runSt.engSt 2 = 0 ∧ runSt.nextBind = none)
    ∧ (cutSt.run = true ∧ cutSt.fb IZ_SCHED_CFG_preempt_en = true ∧ cutSt.engIn 0 = none ∧ cutSt.cutNext = some (6, 3)
      ∧ (∃ y ∈ cutSt.running68, cutSt.mayCut 3 y)) := by
  unfold State.mayCut; decide +kernel

theorem test_witness_EnginesAreBoundAndCut_free : movSt1.ownsNothing 2 := fun _ => rfl

/-- A MOVE_SG that has started and whose source table is not read. -/
def moreF : Flight := fly 0 { ent 0x02 with flags := 2, length := 100, src := 0x1000, dst := 0x8000 } .started
def moreSt : State := movSt.withFl [moreF]

theorem test_witness_EnginesAreBoundAndCut_more :
    moreSt.engSt 2 = 0 ∧ moreSt.nextBind = some (5, moreF) ∧ moreSt.flight? 5 0 = some moreF ∧ moreF.nextUnit = some (0, 100)
      ∧ moreF.stitch? 2 = none ∧ moreSt.atHand [(.queue, 5)] = true ∧ (moreSt.qctx 5).rlBind = false
      ∧ moreSt.startChecks moreF 0 100 = .more := by decide +kernel

def doneF : Flight := bound { stitch2 with wr := 100 }
def doneSt : State := (movSt.withFl [doneF]).setEng 2 1
def paceX : Stitch := { stitch2 with wr := 40, paced := 40, line := some (7, false) }
def paceSt : State := (movSt.withFl [bound paceX]).setEng 2 2

theorem test_witness_EnginesComeBack :
    (doneSt.onEngine 2 = some (doneF, { stitch2 with wr := 100 }) ∧ doneSt.flight? 5 0 = some doneF ∧ doneSt.engSt 2 = 1
      ∧ (false, 2) ∉ doneSt.spr.leaving ∧ stOk ≠ stMalformed ∧ (doneSt.qctx 5).newMirror = none ∧ (doneSt.qctx 5).newLine = none)
    ∧ (paceSt.onEngine 2 = some (bound paceX, paceX) ∧ paceSt.flight? 5 0 = some (bound paceX)
      ∧ paceSt.engSt 2 = 2 ∧ paceSt.run = true ∧ movE.piOp = 0 ∧ (40 : Nat) ≤ 40 ∧ 40 < 100 ∧ (false, 2) ∉ paceSt.spr.leaving
      ∧ (bound paceX).ended = false ∧ (paceSt.qctx 5).newMirror = none ∧ (paceSt.qctx 5).newLine = none) := by decide +kernel

def readSt : State := (movSt.withFl [bound stitch2]).setEng 2 1

theorem test_witness_DataReadIsStaged :
    readSt.arb.gone.find? (fun y => decide (y.eng = 2) && decide (y.src = 0)) = none ∧ stitch2.stop = false
      ∧ readSt.onEngine 2 = some (bound stitch2, stitch2) ∧ readSt.flight? 5 0 = some (bound stitch2) ∧ readSt.run = true
      ∧ 0 < movE.readers ∧ stitch2.rds.getD 0 [] = out100 :: []
      ∧ runAt ((bound stitch2).reader 0).2 (movE.sideOfs ((bound stitch2).reader 0).1 0 + (stitch2.stage.getD 0 []).length) 100
          = some ⟨0x1000, 0, 100⟩
      ∧ (out100.marks (movE.space ((bound stitch2).reader 0).1) 0x1000 .ok).any id = false
      ∧ movE.space ((bound stitch2).reader 0).1 = 0 ∧ readSt.engSt 2 ≠ 2 ∧ readSt.arb.own = [] ∧ movE.writes = true := by decide +kernel

/-- A data write of four bytes, to host memory or to in-package memory. -/
def wr4 (space addr : Nat) : DataWrite :=
  { w := 1, eng := 2, space := space, addr := addr, bytes := [1, 2, 3, 4], parity := [true, true, false, true], poison := false,
    lo := 0, hi := 4, ord := 0, past := [] }
def held4 (space addr : Nat) : Flight := { fly 0 movE .started with next := 100, writes := [wr4 space addr] }
def wrSt (space addr : Nat) : State := (busy { aq with pi := 1, snap := 1, fetch := 1 } [held4 space addr]).withMemSize 0x100000000

theorem test_witness_HostWriteStandsInMemory :
    (wrSt 0 0x8000).flight? 5 0 = some (held4 0 0x8000)
      ∧ (held4 0 0x8000).writes.find? (fun y => decide (y.w = 1)) = some (wr4 0 0x8000) ∧ (wrSt 0 0x8000).pair.hard = false
      ∧ (wr4 0 (2 ^ 64 - 4)).addr + 4 ≤ 2 ^ 64 := by decide +kernel

theorem test_witness_PackageMemoryWrites :
    ((wrSt 1 0xFFFFFFFC).flight? 5 0 = some (held4 1 0xFFFFFFFC)
      ∧ (held4 1 0xFFFFFFFC).writes.find? (fun y => decide (y.w = 1)) = some (wr4 1 0xFFFFFFFC) ∧ (wr4 1 0xFFFFFFFC).space = 1
      ∧ (wrSt 1 0xFFFFFFFC).pair.hard = false ∧ (wrSt 1 0xFFFFFFFC).pkgOut 0xFFFFFFFC 4 = false)
    ∧ (0 < [(1 : Byte)].length ∧ [(1 : Byte)].length < 8 ∧ 7 + [(1 : Byte)].length ≤ 8 ∧ (wrSt 1 0).pkgOut 0xFFFFFFFF 1 = false) := by
  decide +kernel

/-- A MOVE at data done whose signal counter 9 is at hand. -/
def complF : Flight := { fly 0 { movE with flags := 32, sigCtr := 9, increment := 1 } .dataDone with done := [(0, 100)], next := 100 }
def complSt : State := (busy { aq with pi := 1, snap := 1, fetch := 1 } [complF]).setWays .counter 9 [9]

theorem test_witness_EntryCompletesAndPostsItsRecord :
    complSt.flight? 5 0 = some complF ∧ complF.phase = .dataDone ∧ complSt.run = true ∧ complSt.mayFinish complF = true
      ∧ complSt.sending 5 = false ∧ complSt.flushPort { complF with doneMt := complSt.mt } = none
      ∧ complSt.atHand [(.queue, 5)] = true ∧ complSt.postsAtOnce complF ∧ complF.signalsAt = true := by
  unfold State.postsAtOnce; decide +kernel

def getE : Entry := { ent 0x11 with length := 4, dst := 0x8000, srcSpace := 2 }
def getX : Stitch := { stitch2 with hi := 4, asked := 4, rds := [[]] }
def getF : Flight := { fly 0 getE .started with next := 4, stitches := [getX] }
def getSt : State := (busy { aq with pi := 1, snap := 1, fetch := 1 } [getF]).setEng 2 1
/-- The same entry where only a flushing read of port 0 keeps its record. -/
def flushF : Flight := { complF with phase := .mirrorWait, flush := [true, false] }
def flushSt : State := (busy { aq with pi := 1, snap := 1, fetch := 1 } [flushF]).setWays .counter 9 [9]

theorem test_witness_NetworkAnswers :
    (complSt.flight? 5 0 = some complF ∧ complF.phase ≠ .mirrorWait)
    ∧ (flushSt.flight? 5 0 = some flushF ∧ flushSt.run = true ∧ flushF.phase = .mirrorWait
      ∧ flushSt.seqAcked flushF.complSeq = true ∧ (flushF.flush.set 0 false).any id = false ∧ flushSt.sending 5 = false
      ∧ flushSt.postsAtOnce flushF)
    ∧ ((wrSt 2 0x40).flight? 5 0 = some (held4 2 0x40)
      ∧ (held4 2 0x40).writes.find? (fun y => decide (y.w = 1)) = some (wr4 2 0x40) ∧ (wr4 2 0x40).space = 2
      ∧ (held4 2 0x40).status ≠ stMalformed ∧ (held4 2 0x40).phase ≠ .released
      ∧ (held4 2 0x40).ended = false ∧ (held4 2 0x40).writes.find? (fun y => decide (y.space = 2)) = some (wr4 2 0x40))
    ∧ (getSt.onEngine 2 = some (getF, getX) ∧ getSt.flight? 5 0 = some getF
      ∧ getE.isGet = true ∧ 0 < getX.unanswered ∧ [(1 : Byte), 2, 3, 4].length = getX.unanswered ∧ getSt.run = true
      ∧ getSt.engSt 2 ≠ 2 ∧ getSt.arb.own = [] ∧ getF.ended = false ∧ getF.status ≠ stMalformed ∧ getF.phase ≠ .released
      ∧ getF.writes.find? (fun y => decide (y.space = 2)) = none
      ∧ getF.stitches.find? (fun x => getE.isGet && decide (0 < x.unanswered)) = some getX) := by
  unfold State.postsAtOnce; decide +kernel

/-- A record of the ring, issued at index 9; CPOST owns a channel of its port. -/
def rec9 : Held := { c := 3, r := complF.record, q := 5, idx := 0, at_ := 0 }
def recSt : State :=
  own [(0, 0, 69)] ((work aq { ac with ringBase := 0x2000, pi := 10, ci := 9 }).withCqs { spill := [], waiting := [], issued := [(9, rec9)], wbs := [] })

theorem test_witness_RecordStandsInItsRing :
    recSt.cqs.issued.filter (fun y => decide (y.2.c = 3)) = [(9, rec9)] ∧ (recSt.cctx 3).device = false
      ∧ (recSt.cctx 3).wbEn = false ∧ recSt.pair.hard = false ∧ recSt.owns (recSt.cctx 3).res 69 = true
      ∧ (recSt.cctx 3).slotAddr 9 + 32 ≤ 2 ^ 64 := by decide +kernel

def coalSt : State := work aq { ac with irqEn := true, irqSrc := 1023, coalTime := 1, uncovered := 1 }

theorem test_witness_RingsBreakAndCoalesce :
    ((recSt.cctx 3).state = .active ∧ recSt.run = true ∧ (recSt.cctx 3).device = false)
    ∧ ((coalSt.cctx 3).irqEn = true ∧ (coalSt.cctx 3).coalTime ≠ 0 ∧ 0 < (coalSt.cctx 3).uncovered ∧ coalSt.run = true
      ∧ 0 < (coalSt.cctx 3).irqSrc ∧ (coalSt.cctx 3).irqSrc < 1024) := by decide +kernel

def lineSt (pulses : Nat) (low : Bool) : State := (runSt.updLine 31 (fun _ => { out := 1, pulses := pulses, low := low })).updLine 255 (fun _ => { out := 1, pulses := 0, low := false })
theorem test_witness_RequestLines :
    (255 < 256 ∧ 7 ≤ runSt.phase ∧ runSt.fb (RL_STATE_level 255) = false ∧ runSt.fl = [] ∧ 31 < 32)
    ∧ ((runSt.setF (RL_STATE_level 255) 1).fb (RL_STATE_level 255) = true ∧ 7 ≤ (runSt.setF (RL_STATE_level 255) 1).phase)
    ∧ ((lineSt 1 false).run = true ∧ 0 < ((lineSt 1 false).line 31).pulses ∧ ((lineSt 1 false).line 31).low = false
      ∧ ((lineSt 0 true).line 31).low = true ∧ 0 < ((lineSt 0 true).line 255).out) := by decide +kernel

def tbSt (p : W64) : State := runSt.withTb { runSt.tb with mt := 500, prev := some p, missing := 3 }
theorem test_witness_TimeSamples :
    ((tbSt 448).tb.prev = some 448 ∧ (448 : W64).toNat + 52 ≤ (500 : W64).toNat) ∧ ((tbSt 448).tb.prev = some 448 ∧ (447 : W64).toNat < (448 : W64).toNat)
    ∧ ((tbSt 448).f TB_STAT_holdover = 0 ∧ 3 ≤ (tbSt 448).tb.missing) ∧ State.reset.tb.missing < 3 := by decide +kernel

/-- Two records to copy at place 127; TRACE owns channels of the context store and of host port 0. -/
def traceSt : State :=
  ((own [(6, 0, 76), (0, 0, 76)] (runSt.withTrace { runSt.trace with recs := [[1, 2, 3, 4], [5, 6, 7, 8]], base := 0x2000, sizeLog2 := 12 })).setF
    TB_TRACE_PI_pi 127).setF TB_TRACE_CI_ci 127
def traceBad : State := traceSt.setF TB_TRACE_CI_ci 120
theorem test_witness_TraceDrainCopiesAndIsConsumed :
    (0 < traceSt.copyLen ∧ traceSt.run = true ∧ traceSt.trace.failed = false ∧ traceSt.trace.device = false
      ∧ traceSt.owns resCstore 76 = true ∧ traceSt.owns traceSt.traceRes 76 = true ∧ traceSt.fb IZ_CHK_INJ_armed = false
      ∧ traceSt.trace.base.toNat + traceSt.f TB_TRACE_PI_pi % traceSt.drainRecs * 32 + 32 * traceSt.copyLen ≤ 2 ^ 64
      ∧ traceSt.trace.recs.map List.length = [4, 4])
    ∧ (traceBad.served = true
      ∧ idxDiff (BitVec.ofNat 32 (traceBad.f TB_TRACE_PI_pi)) 127 ≤ idxDiff (BitVec.ofNat 32 (traceBad.f TB_TRACE_PI_pi)) (BitVec.ofNat 32 (traceBad.f TB_TRACE_CI_ci))
      ∧ idxDiff (BitVec.ofNat 32 (traceBad.f TB_TRACE_PI_pi)) (BitVec.ofNat 32 (traceBad.f TB_TRACE_CI_ci)) < idxDiff (BitVec.ofNat 32 (traceBad.f TB_TRACE_PI_pi)) 128) := by
  decide +kernel

def ppsSt : State := (st [(PAT_STAT_phase, 7), (TB_PPS_CFG_in_en, 1), (TB_PPS_CFG_out_en, 1)]).withTb { State.reset.tb with mt := 4000000000, second := 1 }
theorem test_witness_SecondPulses :
    ppsSt.fb TB_PPS_CFG_in_en = true ∧ 7 ≤ ppsSt.phase ∧ ppsSt.fb TB_PPS_CFG_out_en = true ∧ ppsSt.run = true
      ∧ ppsSt.pins.ppsOut = false ∧ ppsSt.tb.second * 4000000000 ≤ ppsSt.mt.toNat + ppsSt.f TB_PPS_CFG_lead := by decide +kernel

/-- Region 4, tag 1, of 4 KiB of host memory. -/
def keySt : State := runSt.setMr 4 { Region.zero with valid := true, tag := 1, hostBacked := true, base := 0x10000, size := 4096, pasid := 6, rred := true }
def seg8 : FoldSeg :=
  { key := 0x100004, ofs := 0xFF8, redType := 4, redOp := 0, repro := false, outCarrier := false, data := [1, 0, 0, 0, 2, 0, 0, 0],
    chk := segCheck [1, 0, 0, 0, 2, 0, 0, 0], poison := false }
def waitFold : WaitFold := { seg := seg8, ans := .ok, lost := false, region := keySt.mrOf 4, hostp := 0 }
/-- FOLD owns a reduction unit and a channel of host port 0. -/
def foldSt : State := own [(4, 0, 75), (0, 0, 75)] keySt
theorem test_witness_NetworkTarget :
    ((keySt.remoteKey 0x100004 0 4096 .rred).2 = 0 ∧ (keySt.remoteKey 0x100004 1 4096 .rred).2 ≠ 0 ∧ keySt.run = true)
    ∧ (keySt.remoteKey 0x100004 seg8.ofs (foldLen seg8) .rred = (keySt.mrOf 4, 0) ∧ keySt.f IZ_RED_CFG_fold_hostp = 0
      ∧ foldLegal { seg8 with redType := 9 } = false ∧ keySt.foldOpen waitFold = false)
    ∧ (foldSt.remoteKey 0x100004 seg8.ofs (foldLen seg8) .rred = (foldSt.mrOf 4, 0) ∧ foldLegal seg8 = true
      ∧ seg8.data.length % foldIn seg8 = 0 ∧ ((foldSt.mrOf 4).base + seg8.ofs) % foldDst seg8 = 0
      ∧ foldSt.f IZ_RED_CFG_fold_hostp = 0 ∧ foldSt.foldOpen waitFold = true ∧ foldSt.arb.folds = [] ∧ segCheck seg8.data = seg8.chk
      ∧ foldSt.fb IZ_CHK_INJ_armed = false ∧ foldSt.spr.shadow = none ∧ foldSt.fl = [] ∧ (foldSt.mrOf 4).hostBacked = true
      ∧ foldSt.hostBad (some 6) ((foldSt.mrOf 4).base + seg8.ofs) (foldLen seg8) = false
      ∧ (foldSt.mrOf 4).base + seg8.ofs + foldLen seg8 ≤ 2 ^ 64) := by decide +kernel

/-- Increment 4,095 for counter 2^20 - 1 in domain 7. -/
def arr : W64 := 0x7FFFFFFFF
def ctrSt : State := (runSt.setCtr 0xFFFFF { Counter.zero with valid := true, pd := 7, remoteEn := true }).setWays .counter 0xFFFFF [0xFFFFF]
def parkF (i : W32) (t : Nat) : Flight := fly i { ent 0 with flags := 16, waitCtr := 7, threshold := t } .parked
/-- Two parked entries, of which the first may go; PSPILL owns a channel of CSTORE where it says so. -/
def parkSt (a b : List (Nat × W32)) (o : List (Nat × Nat × Nat)) : State :=
  own o (((busy aq [parkF 0 0, parkF 1 9]).withPark { onChip := a, spill := b, slots := b.zipIdx }).setWays .counter 7 [7])
theorem test_witness_TriggerCounters :
    (ctrSt.run = true ∧ bits arr.toNat 20 12 ≠ 0 ∧ bit arr.toNat 48 = false ∧ ctrSt.cold [] (.arrivalNotification arr) = false
      ∧ ctrSt.actWaits (ctrSt.arrivalSends arr) = false
      ∧ (ctrSt.ctrOf (bits arr.toNat 0 20)).valid = true ∧ (ctrSt.ctrOf (bits arr.toNat 0 20)).pd = bits arr.toNat 32 16
      ∧ (ctrSt.ctrOf (bits arr.toNat 0 20)).remoteEn = true)
    ∧ (runSt.cold [] (.arrivalNotification arr) = false ∧ runSt.actWaits (runSt.arrivalSends arr) = false
      ∧ (runSt.ctrOf (bits arr.toNat 0 20)).valid = false)
    ∧ ((parkSt [(5, 0)] [(5, 1)] []).releasable.take 4 = [(5, 0)] ∧ (parkSt [(5, 1)] [(5, 0)] [(6, 0, 71)]).releasable.take 4 = [(5, 0)]
      ∧ (parkSt [(5, 1)] [(5, 0)] [(6, 0, 71)]).run = true
      ∧ (parkSt [(5, 1)] [(5, 0)] [(6, 0, 71)]).pkgBad
          ((parkSt [(5, 1)] [(5, 0)] [(6, 0, 71)]).pat.csBase + parkOffset ((parkSt [(5, 1)] [(5, 0)] [(6, 0, 71)]).spillSlot (5, 0))) 64 = false)
    ∧ ((parkSt [(5, 1)] [(5, 0)] [(6, 0, 71)]).park.onChip.length < parkSlots
      ∧ (parkSt [(5, 1)] [(5, 0)] [(6, 0, 71)]).owns resCstore 71 = true
      ∧ (parkSt [(5, 1)] [(5, 0)] [(6, 0, 71)]).park.spill.find? (parkSt [(5, 1)] [(5, 0)] [(6, 0, 71)]).mayComeBack = some (5, 0)
      ∧ (parkSt [(5, 1)] [(5, 0)] [(6, 0, 71)]).flight? 5 0 = some (parkF 0 0)
      ∧ (parkSt [(5, 1)] [(5, 0)] [(6, 0, 71)]).atHand [(.counter, ctrIdx 5 7)] = true)
    ∧ (ctrSt.served = true ∧ ctrSt.pair.hard = false ∧ ctrSt.cold [] (.trigCounterRead true) = false) := by decide +kernel

/-! ### Checks and reductions -/

/-- The stitch on engine 2 that has staged these bytes whole for each reader, with the checks held for the block at 0. -/
def fed (hi : Nat) (l : List (List Byte)) : Stitch :=
  { stitch2 with hi := hi, rds := [[], []], stage := l.map (fun b => b.map (fun x => SByte.mk x false)),
                 sums := l.map (fun b => [(0, BitVec.ofNat 32 (crc32c b))]) }
/-- An entry on that stitch; engine 2 owns a channel of host port 0 and a reduction unit. -/
def unitF (e : Entry) (x : Stitch) : Flight := { fly 0 e .started with next := e.length, stitches := [x] }
def unitSt (e : Entry) (x : Stitch) : State := own [(0, 0, 2), (4, 0, 2)] (((movSt.withFl [unitF e x]).setEng 2 1).setF SPR_POLICY_chk_limit 0)
/-- What `State.lastUnit` asks beside what is staged. -/
def lastHyps (s : State) (f : Flight) (x : Stitch) : Prop :=
  (2 : Nat) < 68 ∧ s.onEngine 2 = some (f, x) ∧ s.flight? f.q f.idx = some f ∧ s.run = true ∧ x.ready = true ∧ x.stop = false ∧ x.line = none
    ∧ x.ends = [] ∧ x.wr < x.hi ∧ f.unitEnd x.wr x.hi = x.hi
def lastHyps2 (s : State) (f : Flight) : Prop :=
  s.ownsIssue f 2 = true ∧ f.ended = false ∧ f.status = stOk ∧ (s.qctx f.q).newMirror = none ∧ (s.qctx f.q).newLine = none

theorem lastUnit_of {s : State} {f : Flight} {x : Stitch} (h : lastHyps s f x) (k : ∀ j, j < f.e.readers → f.hasStaged x x.hi j = true)
    (g : lastHyps2 s f) : s.lastUnit 2 f x := by
  obtain ⟨a, b, c, d, e, i, j, m, n, o⟩ := h
  exact ⟨a, b, c, d, e, i, j, m, n, o, k, g⟩

/-- What is sound of reader `k`'s bytes, for a unit of one check block. -/
def soundHyps (f : Flight) (x : Stitch) (k : Nat) : Prop :=
  anyBad (f.stagedFor x k x.wr x.hi) = false ∧ cuts 512 x.wr x.hi = [(x.wr, x.hi)]
    ∧ x.heldSum k x.wr = BitVec.ofNat 32 (crc32c (f.blockBytes x k x.wr x.hi))

theorem blockSound_of {s : State} {f : Flight} {x : Stitch} (i : s.fb IZ_CHK_INJ_armed = false)
    (h : ∀ k, k < f.e.readers → soundHyps f x k) : s.blockSound f x :=
  ⟨i, fun k hk => ⟨(h k hk).1, fun c hc => by
    obtain ⟨-, b, d⟩ := h k hk
    rw [b, List.mem_singleton] at hc
    subst hc; exact d⟩⟩

/-- Four bytes moved; compared, and differing at the last; checked; summed as two INT32 elements from two sources. -/
def movE4 : Entry := { movE with length := 4 }
def cmpE4 : Entry := { ent 0x04 with length := 4, src := 0x1000, dst := 0x8000 }
def chkE4 : Entry := { ent 0x05 with length := 4, src := 0x1000 }
def sumE8 : Entry := { ent 0x20 with opspec := 1, length := 8, src := 0x1000, dst := 0x8000, redType := 5 }
def sumF8 (x : Stitch) : Flight := { unitF sumE8 x with srcList := some [⟨0x2000, 8, 0⟩, ⟨0x3000, 8, 0⟩] }
def x4 : Stitch := fed 4 [[1, 2, 3, 4]]
def cmpX : Stitch := fed 4 [[1, 2, 3, 4], [1, 2, 3, 5]]
def sumX : Stitch := fed 8 [[1, 0, 0, 0, 0xFF, 0xFF, 0xFF, 0x7F], [2, 0, 0, 0, 1, 0, 0, 0]]
def sumSt : State := (unitSt sumE8 sumX).withFl [sumF8 sumX]

theorem test_witness_LastUnitIsJudgedAndIssued :
    ((unitSt movE4 x4).lastUnit 2 (unitF movE4 x4) x4 ∧ (unitSt movE4 x4).passesChecks (unitF movE4 x4) x4 x4.wr x4.hi
      ∧ (unitF movE4 x4).badOverlap = false ∧ movE4.writes = true)
    ∧ ((unitSt chkE4 x4).lastUnit 2 (unitF chkE4 x4) x4 ∧ (unitSt chkE4 x4).passesChecks (unitF chkE4 x4) x4 x4.wr x4.hi
      ∧ (unitF chkE4 x4).badOverlap = false ∧ chkE4.isCheck = true) := by
  refine ⟨⟨lastUnit_of (by unfold lastHyps; decide +kernel) (fun j hj => ?_) (by unfold lastHyps2; decide +kernel),
      ⟨blockSound_of (by decide +kernel) fun j hj => ?_, by decide +kernel⟩, by decide +kernel⟩,
    lastUnit_of (by unfold lastHyps; decide +kernel) (fun j hj => ?_) (by unfold lastHyps2; decide +kernel),
      ⟨blockSound_of (by decide +kernel) fun j hj => ?_, by decide +kernel⟩, by decide +kernel⟩
  all_goals (obtain rfl : j = 0 := Nat.lt_one_iff.mp hj); first | decide +kernel | (unfold soundHyps; decide +kernel)

theorem test_witness_LastUnitIsJudgedAndIssued_two :
    ((unitSt cmpE4 cmpX).lastUnit 2 (unitF cmpE4 cmpX) cmpX ∧ (unitSt cmpE4 cmpX).passesChecks (unitF cmpE4 cmpX) cmpX cmpX.wr cmpX.hi
      ∧ (unitF cmpE4 cmpX).badOverlap = false ∧ cmpE4.isCompare = true ∧ (unitF cmpE4 cmpX).firstDiff cmpX 0 4 = some 3)
    ∧ (sumSt.lastUnit 2 (sumF8 sumX) sumX ∧ sumSt.passesChecks (sumF8 sumX) sumX sumX.wr sumX.hi
      ∧ (sumF8 sumX).badOverlap = false ∧ sumE8.writes = true) := by
  refine ⟨⟨lastUnit_of (by unfold lastHyps; decide +kernel) (fun j hj => ?_) (by unfold lastHyps2; decide +kernel),
      ⟨blockSound_of (by decide +kernel) fun j hj => ?_, by decide +kernel⟩, by decide +kernel⟩,
    lastUnit_of (by unfold lastHyps; decide +kernel) (fun j hj => ?_) (by unfold lastHyps2; decide +kernel),
      ⟨blockSound_of (by decide +kernel) fun j hj => ?_, by decide +kernel⟩, by decide +kernel⟩
  all_goals match j, hj with
    | 0, _ => first | decide +kernel | (unfold soundHyps; decide +kernel)
    | 1, _ => first | decide +kernel | (unfold soundHyps; decide +kernel)

/-- The same MOVE with a byte that arrived damaged, and with a CRC that is not that of its bytes. -/
def badX : Stitch := { x4 with stage := [[⟨1, false⟩, ⟨2, true⟩, ⟨3, false⟩, ⟨4, false⟩]] }
def crcX : Stitch := { x4 with sums := [[(0, 7)]] }

theorem test_witness_ChecksFail :
    ((unitSt movE4 badX).lastUnit 2 (unitF movE4 badX) badX ∧ (unitSt movE4 crcX).lastUnit 2 (unitF movE4 crcX) crcX)
    ∧ (anyBad ((unitF movE4 badX).stagedFor badX 0 0 4) = true ∧ anyBad ((unitF movE4 crcX).stagedFor crcX 0 0 4) = false
      ∧ crcX.heldSum 0 0 ≠ BitVec.ofNat 32 (crc32c ((unitF movE4 crcX).blockBytes crcX 0 0 4))
      ∧ movE4.writes = true ∧ movE4.isRed = false ∧ movE4.isFill = false ∧ movE4.piOp = 0 ∧ movE4.srcSpace ≤ 2 ∧ movE4.dstSpace ≤ 2
      ∧ (unitSt movE4 crcX).fb IZ_CHK_INJ_armed = false ∧ (unitSt movE4 crcX).f SPR_POLICY_chk_limit = 0
      ∧ (unitSt movE4 crcX).pair.hard = false ∧ (unitSt movE4 crcX).err.chk = none)
    ∧ (runSt.served = true ∧ runSt.fb IZ_CHK_INJ_armed = false ∧ (runSt.setF IZ_CHK_INJ_armed 1).served = true
      ∧ (runSt.setF IZ_CHK_INJ_armed 1).fb IZ_CHK_INJ_armed = true) := by
  refine ⟨⟨lastUnit_of (by unfold lastHyps; decide +kernel) (fun j hj => ?_) (by unfold lastHyps2; decide +kernel),
    lastUnit_of (by unfold lastHyps; decide +kernel) (fun j hj => ?_) (by unfold lastHyps2; decide +kernel)⟩, by decide +kernel⟩
  all_goals (obtain rfl : j = 0 := Nat.lt_one_iff.mp hj); decide +kernel

/-- A CHECK with pi_op 2 of one block of 512 bytes with its tuple. -/
def piE : Entry := { ent 0x05 with length := 512, src := 0x1000, piOp := 2 }
def zeros : List Byte := List.replicate 512 0
def piX (tuple : List Byte) : Stitch := { fed 512 [zeros ++ tuple] with sums := [[(0, BitVec.ofNat 32 (crc32c zeros))]] }
def piSt (tuple : List Byte) : State := unitSt piE (piX tuple)
def piF (tuple : List Byte) : Flight := { unitF piE (piX tuple) with piCfg := 0x1FFFF1234 }
/-- The guard of 512 zeros is 0. The tuples: whole; not checked; guard wrong; tag 1235; reference 1. -/
def tupOk : List Byte := [0, 0, 0x12, 0x34, 0, 0, 0, 0]
def tupNot : List Byte := [1, 1, 0xFF, 0xFF, 0, 0, 0, 7]
def tupGuard : List Byte := [0, 1, 0x12, 0x34, 0, 0, 0, 0]
def tupApp : List Byte := [0, 0, 0x12, 0x35, 0, 0, 0, 0]
def tupRef : List Byte := [0, 0, 0x12, 0x34, 0, 0, 0, 1]
/-- The clause of `Obligations.TupleIsJudged` that holds of a tuple: not checked, or the status of the check that fails. -/
def tupCase (tuple : List Byte) : Nat × Nat × Nat × Bool :=
  let l := ((piF tuple).stagedFor (piX tuple) 0 0 512).map (·.b)
  (beNat ((l.drop 512).take 2), beNat ((l.drop 514).take 2), beNat ((l.drop 516).take 4), l.take 512 == zeros)

set_option maxRecDepth 100000 in
theorem test_witness_TupleIsJudged_hypotheses :
    (piSt tupGuard).lastUnit 2 (unitF piE (piX tupGuard)) (piX tupGuard)
      ∧ (piSt tupGuard).blockSound (unitF piE (piX tupGuard)) (piX tupGuard) := by
  refine ⟨lastUnit_of (by unfold lastHyps; decide +kernel) (fun j hj => ?_) (by unfold lastHyps2; decide +kernel),
    blockSound_of (by decide +kernel) fun j hj => ?_⟩
  all_goals (obtain rfl : j = 0 := Nat.lt_one_iff.mp hj); first | decide +kernel | (unfold soundHyps; decide +kernel)

set_option maxRecDepth 100000 in
theorem test_witness_TupleIsJudged :
    (piE.isRed = false ∧ piE.isFill = false ∧ piE.isCompare = false ∧ piE.piOp = 2 ∧ piE.piB = 512 ∧ piE.piType = false
      ∧ piE.refTag 0 = 0 ∧ crc16 zeros = 0 ∧ bits 0x1FFFF1234 0 16 = 0x1234 ∧ bits 0x1FFFF1234 16 16 = 0xFFFF ∧ bit 0x1FFFF1234 32 = true)
    ∧ tupCase tupOk = (0, 0x1234, 0, true) ∧ tupCase tupNot = (0x101, 0xFFFF, 7, true) ∧ tupCase tupGuard = (1, 0x1234, 0, true)
    ∧ tupCase tupApp = (0, 0x1235, 0, true) ∧ tupCase tupRef = (0, 0x1234, 1, true) := by decide +kernel

/-- Two FP32 numbers and an infinity, in two orders, the second parted into two carriers that are merged. -/
def carA : Car := (((Car.empty narrow).deposit 1 0x7F800000).deposit 1 0xC0000000).deposit 1 0x3F800000
def carB : Car := (((Car.empty narrow).deposit 1 0x3F800000).deposit 1 0x7F800000).merge narrow ((Car.empty narrow).deposit 1 0xC0000000)
theorem test_witness_CarriersIgnoreOrder :
    (∃ l m, Carried narrow l carA ∧ Carried narrow m carB ∧ l.Perm m) ∧ (3 : Nat) ≤ 3 := by
  refine ⟨⟨[(1, 0x3F800000), (1, 0xC0000000), (1, 0x7F800000)], [(1, 0x7F800000), (1, 0x3F800000)] ++ [(1, 0xC0000000)], ?_, ?_, by decide⟩,
    Nat.le_refl 3⟩
  · exact .deposit 1 _ _ _ (by decide) rfl (.deposit 1 _ _ _ (by decide) rfl (.deposit 1 _ _ _ (by decide) rfl .empty))
  · exact .merge _ _ _ _ (.deposit 1 _ _ _ (by decide) rfl (.deposit 1 _ _ _ (by decide) rfl .empty)) (.deposit 1 _ _ _ (by decide) rfl .empty)

theorem test_witness_NativeResults :
    (isFp 3 = true ∧ (1 : Nat) ≠ 0 ∧ [0x7E00, 0x3C00].Perm [0x3C00, 0x7E00] ∧ 0x7E00 < 2 ^ (8 * elemBytes 3))
    ∧ (isFp 6 = false ∧ 0xFFFFFFFF < 2 ^ (8 * elemBytes 6) ∧ [1, 0xFFFFFFFF].Perm [0xFFFFFFFF, 1])
    ∧ (0x80000001 < 2 ^ (8 * elemBytes 1) ∧ fpDecode (fmtOf 1) 0x80000001 ≠ .nan false ∧ fpDecode (fmtOf 1) 0x80000001 ≠ .nan true) := by
  decide +kernel
/-! ### Admin commands -/

/-- A command with opcode `op` and words 1 to 5. -/
def cmd (op w1 w2 w3 w4 w5 : Nat) : AdmOpen :=
  openCmd { idx := 0, words := [op, w1, w2, w3, w4, w5, 0, 0].map (BitVec.ofNat 64), acceptMt := 0 }
/-- It is open in the COB stream. -/
def inCob (s : State) (o : AdmOpen) : State := s.withAdm { s.adm with cob := some o }
/-- Engine 2 is bound to the stitch of stream `who` and owns channel 0 of each resource that it needs. -/
def admOwns (who : Nat) (needs : List Nat) (s : State) : State :=
  own (needs.map (fun r => (r, 0, 2))) (s.withAdm { s.adm with eng := some (2, who, needs) })
/-- It is the ring stream's next entry. -/
def inRing (s : State) (o : AdmOpen) : State :=
  (((s.setQ 0 { aq with cls := .admin, cqid := 0 }).setC 0 { ac with sizeLog2 := 6 }).setF ADM_CFG_enable 1).withAdm { s.adm with fetched := [o.cmd] }

theorem cob_runs {s : State} {op : Nat} {o : AdmOpen}
    (h : s.admCmd .cob op = some o ∧ s.admMay .cob = true ∧ o.begun = false ∧ s.mirrorOn = false) : s.admRuns .cob op o :=
  ⟨h.1, h.2.1, h.2.2.1, .inl h.2.2.2, fun x => by cases x⟩

theorem ring_reports {s : State}
    (h : (s.cctx 0).state = .active ∧ s.direct 0 = true ∧ s.fl = [] ∧ s.adm.disabling = false) : s.ringReports :=
  ⟨h.1, h.2.1, fun i => by simp [State.flight?, h.2.2.1], h.2.2.2⟩

theorem ring_runs {s : State} {op : Nat} {o : AdmOpen}
    (h : s.admCmd .ring op = some o ∧ s.admMay .ring = true ∧ o.begun = false ∧ s.mirrorOn = false)
    (r : (s.cctx 0).state = .active ∧ s.direct 0 = true ∧ s.fl = [] ∧ s.adm.disabling = false) : s.admRuns .ring op o :=
  ⟨h.1, h.2.1, h.2.2.1, .inl h.2.2.2, fun _ => ring_reports r⟩

/-- Domain 0xFFFF exists, and ring 3 belongs to it. -/
def objSt : State := (runSt.setC 3 { ac with pd := 0xFFFF }).setPd 0xFFFF true
/-- CREATE_WQ: queue 8, USER, ring 3, 16 slots, initial index 2^32 - 2. -/
def cwq : AdmOpen := cmd 0x01 0x4000 (8 + 0xFFFFFFFE * 2 ^ 32) 3 (0xFFFF + 2 * 2 ^ 16 + 4 * 2 ^ 22 + 12 * 2 ^ 27 + 2 ^ 38) 0
theorem test_witness_CreationSetsTheIndices :
    (State.admRuns (inCob objSt cwq) .cob 0x01 cwq ∧ refuse ((inCob objSt cwq).judgeCreateWq cwq.cmd.words) = none)
    ∧ (State.admRuns (inRing objSt cwq) .ring 0x01 cwq ∧ refuse ((inRing objSt cwq).judgeCreateWq cwq.cmd.words) = none) :=
  ⟨⟨cob_runs (by decide +kernel), by decide +kernel⟩, ⟨ring_runs (by decide +kernel) (by decide +kernel), by decide +kernel⟩⟩

def ccq : AdmOpen := cmd 0x08 0x4000 0 (2 ^ 18 - 1) (0xFFFF * 2 ^ 32) (6 * 2 ^ 4)
def dcq : AdmOpen := cmd 0x09 0 0 3 0 0
theorem test_witness_RingsAreCreatedAndDestroyed :
    (State.admRuns (inCob objSt ccq) .cob 0x08 ccq ∧ refuse ((inCob objSt ccq).judgeCreateCq ccq.cmd.words) = none)
    ∧ (State.admRuns (inRing objSt dcq) .ring 0x09 dcq ∧ refuse ((inRing objSt dcq).judgeDestroyCq dcq.cmd.words) = none
      ∧ (inRing objSt dcq).heldOf 3 = [] ∧ (inRing objSt dcq).ringQuiet 3 = true) :=
  ⟨⟨cob_runs (by decide +kernel), by decide +kernel⟩, ⟨ring_runs (by decide +kernel) (by decide +kernel), by decide +kernel⟩⟩

def cpd : AdmOpen := cmd 0x10 0 0 0xFFFE 0 0
def dpd : AdmOpen := cmd 0x11 0 0 0xFFFE 0 0
/-- A region of 2^48 - 1 bytes that ends at 2^64. -/
def cmr : AdmOpen := cmd 0x12 (2 ^ 64 - 2 ^ 48 + 1) (2 ^ 48 - 1) (2 ^ 20 - 1 + 0xFFFF * 2 ^ 20) 0 0
def dmr : AdmOpen := cmd 0x13 0 0 (4 + 4095 * 2 ^ 20) 0 0
def pdSt : State := objSt.setPd 0xFFFE true
def mrSt : State := objSt.setMr 4 { Region.zero with valid := true, tag := 4095 }
theorem test_witness_DomainsAndRegionsComeAndGo :
    (State.admRuns (inCob objSt cpd) .cob 0x10 cpd ∧ (inCob objSt cpd).pdOf 0xFFFE = false)
    ∧ (State.admRuns (inCob pdSt dpd) .cob 0x11 dpd ∧ (inCob pdSt dpd).pdOf 0xFFFE = true ∧ (inCob pdSt dpd).pdUsed 0xFFFE = false)
    ∧ (State.admRuns (admOwns 2 [3] (inCob objSt cmr)) .cob 0x12 cmr ∧ refuse ((admOwns 2 [3] (inCob objSt cmr)).judgeCreateMr cmr.cmd.words) = none
      ∧ (admOwns 2 [3] (inCob objSt cmr)).adm.eng = some (2, streamNo .cob, [3]) ∧ (admOwns 2 [3] (inCob objSt cmr)).owns 3 2 = true)
    ∧ (State.admRuns (inCob mrSt dmr) .cob 0x13 dmr ∧ refuse ((inCob mrSt dmr).judgeDestroyMr dmr.cmd.words) = none) :=
  ⟨⟨cob_runs (by decide +kernel), by decide +kernel⟩, ⟨cob_runs (by decide +kernel), by decide +kernel⟩,
    ⟨cob_runs (by decide +kernel), by decide +kernel⟩, ⟨cob_runs (by decide +kernel), by decide +kernel⟩⟩

/-- Queue 5 as well. -/
def objQ : State := objSt.setQ 5 aq
def mwq : AdmOpen := cmd 0x03 0 5 (0xF + 15 * 2 ^ 4 + 20 * 2 ^ 8 + 3 * 2 ^ 16) 0 0
def mcq : AdmOpen := cmd 0x0A 0 0 3 (0xFFFF * 2 ^ 48) (2 ^ 9 + 1023 * 2 ^ 10)
def brl : AdmOpen := cmd 0x18 0 5 255 0 0
def url : AdmOpen := cmd 0x18 0 5 (255 + 2 ^ 9) 0 0
def objR : State := objSt.setQ 5 { aq with rlBind := true, rlLine := 255 }
/-- A stitch of queue 5 is bound. -/
def objX : State := (objQ.withFl [bound stitch2]).setEng 2 1
def qwq : AdmOpen := cmd 0x05 0x4000 5 0 0 0
def qcq : AdmOpen := cmd 0x0B 0x4000 0 3 0 0
def anop : AdmOpen := cmd 0x00 0 0 0 0 0
theorem test_witness_ObjectsAreModifiedAndQueried :
    (State.admRuns (inCob objQ mwq) .cob 0x03 mwq ∧ refuse ((inCob objQ mwq).judgeModifyWq mwq.cmd.words) = none)
    ∧ (State.admRuns (inCob objQ mcq) .cob 0x0A mcq ∧ refuse ((inCob objQ mcq).judgeModifyCq mcq.cmd.words) = none)
    ∧ (State.admRuns (inCob objQ brl) .cob 0x18 brl ∧ refuse ((inCob objQ brl).judgeBindRl brl.cmd.words) = none
      ∧ ((inCob objQ brl).qctx 5).newLine = none ∧ (inCob objQ brl).hasStitch 5 = false
      ∧ bit (brl.cmd.words.getD 3 0).toNat 9 = false)
    ∧ (State.admRuns (inCob objR url) .cob 0x18 url ∧ refuse ((inCob objR url).judgeBindRl url.cmd.words) = none
      ∧ ((inCob objR url).qctx 5).newLine = none ∧ (inCob objR url).hasStitch 5 = false
      ∧ bit (url.cmd.words.getD 3 0).toNat 9 = true)
    ∧ (State.admRuns (inCob objX brl) .cob 0x18 brl ∧ refuse ((inCob objX brl).judgeBindRl brl.cmd.words) = none
      ∧ ((inCob objX brl).qctx 5).newLine = none ∧ (inCob objX brl).hasStitch 5 = true)
    ∧ (State.admRuns (admOwns 2 [0] (inCob objQ qwq)) .cob 0x05 qwq
      ∧ (admOwns 2 [0] (inCob objQ qwq)).adm.eng = some (2, streamNo .cob, [portRes 0 0]) ∧ (admOwns 2 [0] (inCob objQ qwq)).owns 0 2 = true
      ∧ refuse (judgeQueryWq qwq.cmd.words) = none ∧ admF qwq.cmd.words 2 32 1 = 0
      ∧ admF qwq.cmd.words 1 0 64 + ((inCob objQ qwq).queryWqBytes qwq.cmd.words).length ≤ 2 ^ 64)
    ∧ (State.admRuns (admOwns 2 [0] (inCob objQ qcq)) .cob 0x0B qcq
      ∧ (admOwns 2 [0] (inCob objQ qcq)).adm.eng = some (2, streamNo .cob, [portRes 0 0]) ∧ (admOwns 2 [0] (inCob objQ qcq)).owns 0 2 = true
      ∧ refuse (judgeQueryCq qcq.cmd.words) = none ∧ admF qcq.cmd.words 3 32 1 = 0
      ∧ admF qcq.cmd.words 1 0 64 + ((inCob objQ qcq).queryCqBytes qcq.cmd.words).length ≤ 2 ^ 64)
    ∧ State.admRuns (inRing objQ anop) .ring 0x00 anop :=
  ⟨⟨cob_runs (by decide +kernel), by decide +kernel⟩, ⟨cob_runs (by decide +kernel), by decide +kernel⟩,
    ⟨cob_runs (by decide +kernel), by decide +kernel⟩, ⟨cob_runs (by decide +kernel), by decide +kernel⟩,
    ⟨cob_runs (by decide +kernel), by decide +kernel⟩, ⟨cob_runs (by decide +kernel), by decide +kernel⟩,
    ⟨cob_runs (by decide +kernel), by decide +kernel⟩, ring_runs (by decide +kernel) (by decide +kernel)⟩

theorem test_witness_RefusedCommandsChangeNothing :
    oneStitchCommand (.createWq .cob) = some (.cob, 0x01, State.judgeCreateWq) ∧ State.admRuns (inCob runSt cwq) .cob 0x01 cwq
      ∧ refuse ((inCob runSt cwq).judgeCreateWq cwq.cmd.words) = some 0x04 :=
  ⟨rfl, cob_runs (by decide +kernel), by decide +kernel⟩

/-- DESTROY_WQ of queue 5 that drains, at its first stitch and at its last. -/
def dwq : AdmOpen := cmd 0x02 0 5 1 0 0
def dwqIn : AdmOpen := { dwq with begun := true, phase := 1 }
def dwqWait : AdmOpen := { dwq with begun := true, phase := 2 }
def goneSt : State := inCob (runSt.setQ 5 { aq with state := .destroying, destroy := .wait }) dwqIn
def cutDrain : State := inCob (runSt.setQ 5 { aq with state := .destroying, destroy := .wait, pi := 2, snap := 2 }) dwqWait
def rwq : AdmOpen := cmd 0x04 0 5 0 0 0
theorem test_witness_QueuesAreDestroyedAndResumed :
    (State.admRuns (inCob objQ dwq) .cob 0x02 dwq ∧ refuse ((inCob objQ dwq).judgeDestroyWq dwq.cmd.words) = none
      ∧ bit (dwq.cmd.words.getD 2 0).toNat 32 = false ∧ admF dwq.cmd.words 3 0 32 ≠ 0)
    ∧ (goneSt.admCmd .cob 0x02 = some dwqIn ∧ goneSt.admMay .cob = true ∧ dwqIn.begun = true ∧ goneSt.mirrorOn = false
      ∧ 0 < admF dwqIn.cmd.words 2 0 22 ∧ admF dwqIn.cmd.words 2 0 22 < 2 ^ 21 ∧ (goneSt.qctx 5).destroy ≠ .discard
      ∧ (goneSt.qctx 5).ci = (goneSt.qctx 5).snap ∧ goneSt.mayFree 5 = true)
    ∧ (cutDrain.admCmd .cob 0x02 = some dwqWait ∧ cutDrain.run = true ∧ dwqWait.phase = 2
      ∧ (cutDrain.qctx 5).ci ≠ (cutDrain.qctx 5).snap ∧ cutDrain.flsOf 5 = [])
    ∧ (State.admRuns (inCob (runSt.setQ 5 { aq with state := .fenced }) rwq) .cob 0x04 rwq
      ∧ refuse ((inCob (runSt.setQ 5 { aq with state := .fenced }) rwq).judgeResumeWq rwq.cmd.words) = none)
    ∧ (State.admRuns (inCob (runSt.setQ 5 { aq with state := .quarantined }) rwq) .cob 0x04 rwq
      ∧ refuse ((inCob (runSt.setQ 5 { aq with state := .quarantined }) rwq).judgeResumeWq rwq.cmd.words) = none
      ∧ (inCob (runSt.setQ 5 { aq with state := .quarantined }) rwq).stillRuns 5 = false ∧ bit (rwq.cmd.words.getD 2 0).toNat 32 = false) :=
  ⟨⟨cob_runs (by decide +kernel), by decide +kernel⟩, by decide +kernel, by decide +kernel,
    ⟨cob_runs (by decide +kernel), by decide +kernel⟩, ⟨cob_runs (by decide +kernel), by decide +kernel⟩⟩

def fen (w : Nat) : AdmOpen := cmd 0x28 0 0 w 0 0
def off (w : Nat) : AdmOpen := cmd 0x20 0 0 w 0 0
def scr : AdmOpen := cmd 0x22 0 0 (csSize - 65536 + 65536 * 2 ^ 32) 0 0
def clt : AdmOpen := cmd 0x23 0 0 (2 ^ 20 - 1024 + 1024 * 2 ^ 20) 0xFFFF 0
def tst : AdmOpen := cmd 0x30 0x4000 0 (12 * 2) 0 0
def tsp : AdmOpen := cmd 0x31 0 0 0 0 0
def tspIn : AdmOpen := { tsp with begun := true }
def clrSt : State := admOwns 3 [6] (runSt.setF PAT_STAT_clearing 1)
theorem test_witness_SystemCommandsTakeEffect :
    (State.admRuns (inCob objQ (fen 0)) .cob 0x28 (fen 0) ∧ 5 ∈ (inCob objQ (fen 0)).fenceScope false ∧ ((inCob objQ (fen 0)).qctx 5).state = .ready
      ∧ (∀ f ∈ (inCob objQ (fen 0)).fl, f.phase ≠ .started))
    ∧ (State.admRuns (inCob objSt (off 67)) .cob 0x20 (off 67) ∧ refuse ((inCob objSt (off 67)).judgeOffline (off 67).cmd.words) = none
      ∧ (inCob objSt (off 67)).unitSt false 67 = 4)
    ∧ (State.admRuns (inCob objSt (off 0)) .cob 0x20 (off 0) ∧ refuse ((inCob objSt (off 0)).judgeOffline (off 0).cmd.words) = none
      ∧ (inCob objSt (off 0)).unitSt false 0 = 0 ∧ (inCob objSt (off 0)).spr.shadow = none)
    ∧ (State.admRuns (inCob (objSt.setEng 7 1) (off 7)) .cob 0x20 (off 7)
      ∧ refuse ((inCob (objSt.setEng 7 1) (off 7)).judgeOffline (off 7).cmd.words) = none ∧ (inCob (objSt.setEng 7 1) (off 7)).unitSt false 7 = 1
      ∧ (inCob (objSt.setEng 7 1) (off 7)).adm.eng = none)
    ∧ (State.admRuns (admOwns 2 [6] (inCob objSt scr)) .cob 0x22 scr ∧ refuse (judgeScrub scr.cmd.words) = none ∧ admF scr.cmd.words 3 32 32 = 65536
      ∧ scr.done = 0 ∧ scr.value = 0 ∧ bit (scr.cmd.words.getD 4 0).toNat 0 = false ∧ (inCob objSt scr).fb PAT_STAT_clearing = false
      ∧ (admOwns 2 [6] (inCob objSt scr)).adm.eng = some (2, streamNo .cob, [resCstore]) ∧ (admOwns 2 [6] (inCob objSt scr)).owns resCstore 2 = true)
    ∧ (State.admRuns (inCob objSt clt) .cob 0x23 clt ∧ refuse ((inCob objSt clt).judgeClearTrig clt.cmd.words) = none
      ∧ admF clt.cmd.words 3 20 21 ≤ 1024 ∧ clt.done = 0 ∧ clt.value = 0 ∧ (inCob objSt clt).fb PAT_STAT_clearing = false
      ∧ (inCob objSt clt).park.onChip = [] ∧ (inCob objSt clt).park.spill = [] ∧ (inCob objSt clt).waitersOf (2 ^ 20 - 1024) = [])
    ∧ (State.admRuns (inCob objSt tst) .cob 0x30 tst ∧ refuse ((inCob objSt tst).judgeTraceStart tst.cmd.words) = none)
    ∧ (State.admRuns (inCob (objSt.setF TB_TRACE_CFG_on 1) tsp) .cob 0x31 tsp
      ∧ (inCob (objSt.setF TB_TRACE_CFG_on 1) tsp).fb TB_TRACE_CFG_on = true)
    ∧ ((inCob objSt tspIn).admCmd .cob 0x31 = some tspIn ∧ tspIn.begun = true ∧ (inCob objSt tspIn).run = true
      ∧ (inCob objSt tspIn).traceQuiet = true)
    ∧ (clrSt.fb PAT_STAT_clearing = true ∧ clrSt.run = true ∧ clrSt.adm.eng = some (2, 3, clrSt.clearNeeds) ∧ clrSt.owns resCstore 2 = true
      ∧ clrSt.clearNeeds = [resCstore] ∧ clrSt.turnOf 3 = true
      ∧ clrSt.pat.early = [] ∧ clrSt.clearNext < clearBlocks ∧ clrSt.fb TB_TRACE_CFG_on = false) :=
  ⟨⟨cob_runs (by decide +kernel), by decide +kernel⟩, ⟨cob_runs (by decide +kernel), by decide +kernel⟩,
    ⟨cob_runs (by decide +kernel), by decide +kernel⟩, ⟨cob_runs (by decide +kernel), by decide +kernel⟩,
    ⟨cob_runs (by decide +kernel), by decide +kernel⟩, ⟨cob_runs (by decide +kernel), by decide +kernel⟩,
    ⟨cob_runs (by decide +kernel), by decide +kernel⟩, ⟨cob_runs (by decide +kernel), by decide +kernel⟩,
    by decide +kernel, by decide +kernel⟩

def fwc : AdmOpen := cmd 0xC0 1 2 3 4 5
def fwSt : State := inCob (runSt.setF ADM_FW_CFG_ready 1) fwc
def fwWith : State := (inCob runSt { fwc with phase := 3, begun := true }).withAdm { (inCob runSt { fwc with phase := 3, begun := true }).adm with fw := some .cob }
theorem test_witness_FirmwareServesItsCommands :
    firmwareCommand (.fwCmd .cob) = some (.cob, isFwCmd, fun _ _ => [])
    ∧ (fwSt.admNext .cob = some fwc ∧ isFwCmd (admOp fwc.cmd.words) = true ∧ fwSt.run = true ∧ fwc.phase ≠ 3 ∧ fwSt.fb ADM_FW_CFG_ready = true
      ∧ fwSt.adm.fw = none ∧ refuse [] = none)
    ∧ ((inCob runSt fwc).admNext .cob = some fwc ∧ refuse ((!(inCob runSt fwc).fb ADM_FW_CFG_ready, 0x0F) :: []) = some 0x0F)
    ∧ (fwWith.adm.fw = some .cob ∧ fwWith.admOf .cob = some { fwc with phase := 3, begun := true } ∧ fwWith.admOf .ring = none ∧ fwWith.run = true
      ∧ (fwWith.setF ADM_FW_CFG_timeout 1).f ADM_FW_CFG_timeout ≠ 0
      ∧ bits (0x1122 : W64).toNat 40 16 = fwWith.f ADM_FW_CFG_seq ∧ bits (2 ^ 40 : W64).toNat 40 16 ≠ fwWith.f ADM_FW_CFG_seq) :=
  ⟨rfl, by decide +kernel, by decide +kernel, by decide +kernel⟩

/-- ADM_CFG of a legal ring stream: its fields as the write brings them. -/
def admW : W64 := BitVec.ofNat 64 (4 * 2 ^ 6 + 6 * 2 ^ 11)
def busySt : State := (runSt.setF ADM_CFG_enable 1).withAdm { runSt.adm with ring := some anop }
theorem test_witness_AdminStreamsAreSwitched :
    (runSt.served = true ∧ runSt.fb ADM_CFG_enable = false ∧ (runSt.admFields admW).run = true ∧ (runSt.admFields admW).admFieldsOk = true
      ∧ (runSt.admFields 0).admFieldsOk = false)
    ∧ ((runSt.setF ADM_CFG_enable 1).fb ADM_CFG_enable = true ∧ (runSt.setF ADM_CFG_enable 1).adm.ring = none ∧ busySt.adm.ring ≠ none)
    ∧ (bits (0 : W64).toNat 0 3 = 0 ∧ 0 < bits (4 : W64).toNat 0 3 ∧ bits (4 : W64).toNat 0 3 ≤ 4 ∧ runSt.f ADM_COB_LOCK_holder = 0)
    ∧ (bit (1 : W64).toNat 0 = true ∧ runSt.run = true ∧ runSt.f ADM_COB_RES_busy = 0
      ∧ admCause false ((List.range 8).map (fun k => runSt.reg (ADM_COB_CMD k))) = none
      ∧ admCause false ((List.range 8).map (fun k => (runSt.setReg (ADM_COB_CMD 0) 0x7F).reg (ADM_COB_CMD k))) ≠ none) := by decide +kernel

/-- Channel 2 of resource 0 is engine 3's, and is to pass to engine 9, a candidate. -/
def owner3 : Owner := { req := 3, slot := false, age := 0, idle := 2 ^ 31, take := some 9 }
def arbSt : State := (runSt.setOwner 0 2 (some owner3)).setCand 0 [9]
def wdogSt (req : Nat) : State := runSt.setOwner 6 0 (some { owner3 with req := req })
/-- Cobbler's core owns channel 0 of the frozen context store, and requests it still. -/
def frozen6 : State := (own [(6, 0, 78)] runSt).setF (ARB_CTL_freeze 6) 1
theorem test_witness_ArbitrationPhases :
    (frozen6.halted = false ∧ (6 : Nat) < 7 ∧ frozen6.fb (ARB_CTL_freeze 6) = true ∧ frozen6.ownerOf 6 1 = none
      ∧ (frozen6.ownerOf 6 0).map (·.req) = some 78 ∧ 78 ∈ frozen6.heard 6 (frozen6.raised 6 true))
    ∧ (runSt.halted = false ∧ runSt.spr.leaving = [] ∧ runSt.fb (ARB_CTL_freeze 6) = false
      ∧ runSt.heard 6 (runSt.raised 6 true) = [78] ∧ runSt.owned 6 = [] ∧ runSt.channels 6 ≠ [])
    ∧ ((runSt.arbPhase 0 (runSt.raised 0 false) (runSt.inFlight 0)).owned 0 = []
      ∧ (runSt.arbPhase 0 (runSt.raised 0 false) (runSt.inFlight 0)).arb.folds = []
      ∧ (runSt.arbPhase 0 (runSt.raised 0 false) (runSt.inFlight 0)).fetchDue = []
      ∧ (runSt.arbPhase 0 (runSt.raised 0 false) (runSt.inFlight 0)).sought = []
      ∧ (runSt.arbPhase 0 (runSt.raised 0 false) (runSt.inFlight 0)).cqs.issued = [])
    ∧ bit ((runSt.setF ARB_COMMIT_pending 64).f ARB_COMMIT_pending) 6 = true
    ∧ (arbSt.ownerOf 0 2 = some owner3 ∧ owner3.take = some 9 ∧ 9 ∈ arbSt.candOf 0 ∧ 2 ∈ arbSt.channels 0
      ∧ arbSt.inFlight 0 owner3.req = false) := by decide +kernel

/-- FOLD has a fold in hand at its reduction unit. -/
def foldBite : State :=
  let s := runSt.setOwner 4 0 (some { owner3 with req := 75 })
  s.withArb { s.arb with folds := [waitFold] }
theorem test_witness_ArbiterWatchdogAndControls :
    ((wdogSt 78).ownerOf 6 0 = some { owner3 with req := 78 } ∧ 2 ^ (wdogSt 78).f (ARB_CTL_wdog_log2 6) ≤ owner3.idle
      ∧ (wdogSt 78).pair.hard = false)
    ∧ ((wdogSt 76).ownerOf 6 0 = some { owner3 with req := 76 }
      ∧ (wdogSt 77).ownerOf 6 0 = some { owner3 with req := 77 } ∧ 68 ≤ 77 ∧ 77 ∉ [75, 76, 78] ∧ (wdogSt 77).halted = false
      ∧ arbSt.ownerOf 0 2 = some owner3 ∧ owner3.req < 68 ∧ 2 ^ arbSt.f (ARB_CTL_wdog_log2 0) ≤ owner3.idle
      ∧ arbSt.engSt 3 ≠ 7)
    ∧ (foldBite.ownerOf 4 0 = some { owner3 with req := 75 } ∧ foldBite.foldInHand 4 = some waitFold
      ∧ 2 ^ foldBite.f (ARB_CTL_wdog_log2 4) ≤ owner3.idle ∧ foldBite.pair.hard = false)
    ∧ (runSt.served = true ∧ runSt.run = true)
    ∧ ((runSt.setF (ARB_SLOT_CFG_position 6) 255).setF (ARB_SLOT_CFG_pending 6) 1).fb (ARB_SLOT_CFG_pending 6) = true := by decide +kernel

/-- Sources 9 and 1023 pend at target 7, of priority 5 and 6. -/
def icSt : State :=
  st [(PAT_STAT_phase, 7), (IC_SRC_CFG_target 9, 7), (IC_SRC_CFG_prio 9, 5), (IC_SRC_CFG_target 1023, 7), (IC_SRC_CFG_prio 1023, 6),
    (IC_CNT_count 9, 2), (IC_CNT_count 1023, 255), (⟨IC_PEND 0, 9, 1⟩, 1), (⟨IC_PEND 15, 63, 1⟩, 1), (IC_MASK_mask 7 0, 0), (IC_MASK_mask 7 15, 0)]
theorem icSt_signals : ((List.range 1024).filter icSt.signals) = [9, 1023] := by decide +kernel
theorem test_witness_ClaimTakesTheSource :
    (icSt.served = true ∧ icSt.signals 1023 = true ∧ icSt.srcTgt 1023 = 7
      ∧ ∀ m, 0 < m → m < 1024 → m ≠ 1023 → icSt.signals m = true → icSt.srcTgt m = 7 →
        icSt.f (IC_SRC_CFG_prio m) < icSt.f (IC_SRC_CFG_prio 1023)
          ∨ (icSt.f (IC_SRC_CFG_prio m) = icSt.f (IC_SRC_CFG_prio 1023) ∧ 1023 < m))
    ∧ (∀ m, 0 < m → m < 1024 → icSt.signals m = true → icSt.srcTgt m ≠ 0) := by
  have h : ∀ m, m < 1024 → icSt.signals m = true → m ∈ [9, 1023] := fun m hm hs => by
    rw [← icSt_signals]; exact List.mem_filter.2 ⟨List.mem_range.2 hm, hs⟩
  refine ⟨⟨by decide +kernel, by decide +kernel, by decide +kernel, fun m _ hm hn hs _ => ?_⟩, fun m _ hm hs => ?_⟩
  · have := h m hm hs
    simp [hn] at this; subst this; exact .inl (by decide +kernel)
  · have := h m hm hs
    simp at this; rcases this with rfl | rfl <;> decide +kernel

theorem test_witness_EndOfInterruptPops :
    (icSt.served = true ∧ icSt.stack 7 = []) ∧ (icSt.setStack 7 [(9, 5)]).stack 7 = (9, 5) :: [] ∧ (0 < 9 ∧ icSt.srcTgt 9 = 7) := by
  decide +kernel

theorem test_witness_EventsAreCounted :
    runSt.served = true ∧ (1023 : BitVec 10) ≠ 0 ∧ icSt.f (IC_CNT_count 1023) = 255 ∧ (icSt.setF (IC_CNT_count 9) 254).f (IC_CNT_count 9) = 254
      ∧ runSt.srcActive 1023 = false ∧ runSt.fb (IC_LINE_STATE_level 15) = false
      ∧ (runSt.setF (IC_LINE_STATE_level 15) 1).fb (IC_LINE_STATE_level 15) = true
      ∧ (runSt.setF (IC_LINE_CFG_mode 15) 1).fb (IC_LINE_CFG_mode 15) = true := by decide +kernel

def wakeSt : State := st [(PAT_STAT_phase, 7), (IC_SRC_CFG_target 9, 3), (IC_SRC_CFG_prio 9, 1), (IC_CNT_count 9, 1), (⟨IC_PEND 0, 9, 1⟩, 1), (COB_PWR_state 3, 2)]
/-- The latest message of source 1023, landed or not. -/
def msg9 (l : Bool) : HostMsg := { src := 1023, vector := 4095, hostp := false, addr := 0x1000, data := 7, landed := l, old := [1, 2, 3, 4] }
def msgSt (l : Bool) : State := runSt.withIc { runSt.ic with msgs := [msg9 l] }
theorem test_witness_MessagesFailAndCoresSleep :
    ((msgSt false).msgOf 1023 = some (msg9 false) ∧ (msgSt true).msgOf 1023 = some (msg9 true) ∧ (msg9 true).landed = true)
    ∧ (runSt.served = true ∧ runSt.wakes 3 = false) ∧ (wakeSt.wakes 3 = true ∧ wakeSt.fb (COB_PWR_state 3) = true ∧ wakeSt.served = true) := by
  decide +kernel

/-- IZ_RESET with its key: soft, hard, both. -/
def keyW (n : Nat) : W64 := BitVec.ofNat 64 (0x5A170000 + n)
theorem test_witness_ResetsKeepWhatTheyKeep :
    (runSt.served = true ∧ resetKey (keyW 3) = true ∧ bit (keyW 3).toNat 1 = true ∧ bit (keyW 3).toNat 0 = true)
    ∧ (imgLen (State.reset.imgRead 2) ≤ 2 ^ 22 ∧ runSt.fb PAT_STAT_busy = false)
    ∧ (resetKey (keyW 1) = true ∧ bit (keyW 1).toNat 0 = true ∧ bit (keyW 1).toNat 1 = false ∧ runSt.run = true
      ∧ (st [(PAT_STAT_phase, 6)]).served = true ∧ (st [(PAT_STAT_phase, 6)]).run = false)
    ∧ resetKey 3 = false := by decide +kernel

/-! ### Startup -/

/-- A smallest image: a header of generation 7, GLOBAL and CSTORE (region table at 320 MiB) and the trailer: 512 bytes, unsigned;
in memory that reads 0, and in flash that reads 0xFF. -/
def imgPkg : Tbl Byte :=
    [(0, 73), (1, 90), (2, 80), (3, 84), (4, 1), (6, 2), (8, 7), (13, 2), (60, 190), (61, 190), (62, 226), (63, 169)] ++ 
    [(64, 1), (68, 128), (72, 64), (76, 103), (77, 235), (78, 200), (79, 3), (80, 2), (84, 192), (88, 64), (92, 48), (93, 231)] ++ 
    [(94, 198), (95, 129), (203, 20), (256, 73), (257, 90), (258, 67), (259, 77), (260, 7), (265, 2), (268, 235), (269, 144), (270, 158)] ++ 
    [(271, 189), (316, 38), (317, 148), (318, 113), (319, 98)]
/-- `b` stands at offset 128 in GLOBAL, where 0 belongs. -/
def imgFlash (b : Byte) : Tbl Byte := (List.range' 0 512).map (fun k => (k, if k = 128 then b else Tbl.get (fun _ => 0) imgPkg k))
def flashIm (b : Byte) (p : Nat) : State :=
  let s := (st [(PAT_STAT_phase, p)]).withMem { State.reset.mem with flash := imgFlash b }
  (s.withPat { s.pat with present := true, cand := some 0, passed := [0] }).withMemSize 0x100000000
def flashSt (p : Nat) : State := flashIm 0 p
def winSt (p : Nat) : State := ((st [(PAT_STAT_phase, p)]).withMem { State.reset.mem with pkg := imgPkg }).withMemSize 0x100000000
/-- The image as the window reads it, and as copy A reads it. -/
def rdW : Nat → Byte := fun k => Tbl.get (fun _ => 0) imgPkg k
def rdIm (b : Byte) : Nat → Byte := fun k => if k < 512 then (if k = 128 then b else Tbl.get (fun _ => 0) imgPkg k) else 0xFF#8
def rdF : Nat → Byte := rdIm 0

theorem get_rows (d g : Nat → Byte) (n a j : Nat) :
    Tbl.get d ((List.range' a n).map (fun k => (k, g k))) j = if a ≤ j ∧ j < a + n then g j else d j := by
  induction n generalizing a with
  | zero => simp [Tbl.get]
  | succ n ih =>
    simp only [List.range'_succ, List.map_cons, Tbl.get, ih]
    by_cases h : j = a
    · subst h; simp
    · simp only [h, if_false]
      by_cases h2 : a + 1 ≤ j ∧ j < a + 1 + n
      · rw [if_pos h2, if_pos (by omega)]
      · rw [if_neg h2, if_neg (by omega)]
theorem imgRead_Im (b : Byte) (p : Nat) : (flashIm b p).imgRead 0 = rdIm b := by
  funext k
  show Tbl.get (fun _ => 0xFF#8) (imgFlash b) (0 + k) = rdIm b k
  simp [imgFlash, get_rows, rdIm]
theorem imgRead_F (p : Nat) : (flashSt p).imgRead 0 = rdF := imgRead_Im 0 p
theorem imgRead_W (p : Nat) (h : (winSt p).f PAT_WIN_BASE_base = 0) : (winSt p).imgRead 2 = rdW := by
  funext k
  have hm : (winSt p).mem = { State.reset.mem with pkg := imgPkg } := rfl
  have hs : (winSt p).synOf k = 0 := by simp [State.synOf, hm, State.reset, Tbl.get]
  simp [State.imgRead, h, State.pkgFixed, hs, judgeSyn, State.pkgByte, hm, rdW]

theorem imgBytes_append (rd : Nat → Byte) (o n m : Nat) : imgBytes rd o (n + m) = imgBytes rd o n ++ imgBytes rd (o + n) m := by
  simp [imgBytes, List.range_add, Function.comp_def, Nat.add_assoc]
/-- The CRC register after `n` bytes of an image from `o`. -/
def crcReg (rd : Nat → Byte) (o n : Nat) (c : W32) : W32 := (imgBytes rd o n).foldl (crcByte 0x82F63B78#32) c
theorem crcReg_append (rd : Nat → Byte) (o n m : Nat) (c : W32) : crcReg rd o (n + m) c = crcReg rd (o + n) m (crcReg rd o n c) := by
  simp [crcReg, imgBytes_append]
theorem crcReg_body {rd : Nat → Byte} {a b c : W32} (h1 : crcReg rd 0 64 0xFFFFFFFF#32 = a) (h2 : crcReg rd 64 64 a = b)
    (h3 : crcReg rd 128 64 b = c) {d : W32} (h4 : crcReg rd 192 64 c = d) : crc32c (imgBytes rd 0 256) = (~~~ d).toNat := by
  have e1 := crcReg_append rd 0 64 192 0xFFFFFFFF#32
  have e2 := crcReg_append rd 64 64 128 a
  have e3 := crcReg_append rd 128 64 64 b
  rw [h1] at e1; rw [h2] at e2; rw [h3] at e3
  exact congrArg (fun x => (~~~ x).toNat) (e1.trans (e2.trans (e3.trans h4)))
theorem judged_valid {s : State} {rd : Nat → Byte} (h1 : judgeHead rd = (0, 0))
    (h2 : (imgTable rd).find? (fun x => !scrcOk rd x.2 || !contentsOk s.memSize.toNat rd x.2) = none) (h3 : imageCrcOk rd = true)
    (h4 : trailerZero rd = true) (h5 : imgSigned rd = false) (h6 : s.fb PAT_STAT_sig_required = false) : s.judgeImage rd = (1, 0) := by
  simp [State.judgeImage, h1, h2, h3, h4, h5, h6]

theorem img_crc_W : crc32c (imgBytes rdW 0 256) = 3181285611 :=
  crcReg_body (a := 3080238136#32) (b := 573895021#32) (c := 3779242781#32) (d := 1113681684#32) (by decide +kernel) (by decide +kernel) (by decide +kernel) (by decide +kernel)
theorem img_crc_F : crc32c (imgBytes rdF 0 256) = 3181285611 :=
  crcReg_body (a := 3080238136#32) (b := 573895021#32) (c := 3779242781#32) (d := 1113681684#32) (by decide +kernel) (by decide +kernel) (by decide +kernel) (by decide +kernel)
/-- The image's section table. -/
def imgSecs : List (Nat × Section) := [(0, ⟨1, 0, 0x80, 64, 0x03C8EB67⟩), (1, ⟨2, 0, 0xC0, 64, 0x81C6E730⟩)]
theorem img_table_W : imgTable rdW = imgSecs := by decide +kernel
theorem img_table_F : imgTable rdF = imgSecs := by decide +kernel
theorem img_head_W : judgeHead rdW = (0, 0) := by
  have h : badEntry rdW = none := by rw [badEntry, img_table_W]; decide +kernel
  have h1 : headerSound rdW = true := by decide +kernel
  have h2 : trailerSound rdW = true := by decide +kernel
  have h3 : imgNum rdW 0 4 ≠ 0xFFFFFFFF := by decide +kernel
  simp [judgeHead, h, h1, h2, h3]
theorem img_head_F : judgeHead rdF = (0, 0) := by
  have h : badEntry rdF = none := by rw [badEntry, img_table_F]; decide +kernel
  have h1 : headerSound rdF = true := by decide +kernel
  have h2 : trailerSound rdF = true := by decide +kernel
  have h3 : imgNum rdF 0 4 ≠ 0xFFFFFFFF := by decide +kernel
  simp [judgeHead, h, h1, h2, h3]
theorem img_whole_W : imageCrcOk rdW = true := by
  have h : imgTrailer rdW = 256 := by decide +kernel
  rw [imageCrcOk, h, img_crc_W]; decide +kernel
theorem img_whole_F : imageCrcOk rdF = true := by
  have h : imgTrailer rdF = 256 := by decide +kernel
  rw [imageCrcOk, h, img_crc_F]; decide +kernel
theorem copy_reads_sound : readSound rdF = true := by
  rw [readSound, img_whole_F, Bool.and_true, img_table_F]; decide +kernel
theorem test_window_is_valid : ((winSt 6).judgeImage ((winSt 6).imgRead 2)).1 = 1 := by
  rw [imgRead_W 6 (by decide +kernel)]
  have h := judged_valid (s := winSt 6) img_head_W (by rw [img_table_W]; decide +kernel) img_whole_W (by decide +kernel) (by decide +kernel) (by decide +kernel)
  rw [h]
theorem test_copy_is_valid : ((flashSt 4).judgeImage ((flashSt 4).imgRead 0)).1 = 1 := by
  rw [imgRead_F]
  have h := judged_valid (s := flashSt 4) img_head_F (by rw [img_table_F]; decide +kernel) img_whole_F (by decide +kernel) (by decide +kernel) (by decide +kernel)
  rw [h]
/-- With a wrong byte in GLOBAL the first scrc does not hold. -/
theorem copy_reads_bad : readSound (rdIm 1) = false := by
  have h : imgTable (rdIm 1) = imgSecs := by decide +kernel
  have h2 : (imgSecs.all fun x => scrcOk (rdIm 1) x.2) = false := by decide +kernel
  rw [readSound, h, h2, Bool.false_and]
theorem head_ok {rd : Nat → Byte} (h : badEntry rd = none) (h1 : headerSound rd = true) (h2 : trailerSound rd = true)
    (h3 : imgNum rd 0 4 ≠ 0xFFFFFFFF) : judgeHead rd = (0, 0) := by
  simp [judgeHead, h, h1, h2, h3]
theorem judged_bad {s : State} {rd : Nat → Byte} {x : Nat × Section} (h1 : judgeHead rd = (0, 0))
    (h2 : (imgTable rd).find? (fun x => !scrcOk rd x.2 || !contentsOk s.memSize.toNat rd x.2) = some x) : (s.judgeImage rd).1 = 6 := by
  simp [State.judgeImage, h1, h2]
theorem copy_is_bad {s : State} (hs : s.memSize.toNat = 0x100000000) : (s.judgeImage (rdIm 1)).1 ≠ 1 := by
  have h : imgTable (rdIm 1) = imgSecs := by decide +kernel
  have h1 : (imgSecs.find? (fun x => !scrcOk (rdIm 1) x.2 || !contentsOk 0x100000000 (rdIm 1) x.2)) = some (0, ⟨1, 0, 0x80, 64, 0x03C8EB67⟩) := by
    decide +kernel
  have h2 : judgeHead (rdIm 1) = (0, 0) :=
    head_ok (by rw [badEntry, h]; decide +kernel) (by decide +kernel) (by decide +kernel) (by decide +kernel)
  have h3 := judged_bad (s := s) h2 (by rw [h, hs]; exact h1)
  rw [h3]; decide

def bootB : Boot :=
  { role := true, fellowAlive := true, haltIn := false, memSize := 0x100000000, sigRequired := true, keyProgrammed := true,
    keyHash := List.replicate 48 1, badEngines := [67], badUnits := [], fuseRepairs := List.replicate 24 0 }
/-- What a flash of 8 MiB with a 1-1-4 read (opcode 6BH, 8 dummy cycles) answers: a basic table of 20 double words at address 16, which names a clock
of 133 MHz. -/
def sfdp1 : Sfdp :=
  { table := [0x53, 0x46, 0x44, 0x50, 6, 1, 0, 0xFF, 0, 6, 1, 20, 16, 0, 0, 0xFF] ++ [0, 0, 0x40, 0] ++ [0xFF, 0xFF, 0xFF, 3] ++ [0, 0, 8, 0x6B]
      ++ List.replicate 64 0 ++ [6, 0, 0, 0] }
/-- Both copies passed their heads; copy A then fails. -/
def twoSt (p : Nat) : State := (flashIm 1 p).withPat { State.reset.pat with present := true, cand := some 0, passed := [0, 1] }
theorem twoSt_read (p : Nat) : (twoSt p).imgRead 0 = rdIm 1 := imgRead_Im 1 p
theorem test_witness_StartupRunsItsSteps :
    (State.reset.phase = 0 ∧ State.reset.pat.bySoft = false ∧ 67 < 68 ∧ 67 ∈ bootB.badEngines ∧ State.reset.reg (SPR_ENG_RETIRED 0) = 0
      ∧ State.reset.reg (SPR_ENG_RETIRED 1) = 0 ∧ sfdpPresent sfdp1 = true ∧ sfdpClock sfdp1 = some 133 ∧ sfdpPresent { table := [] } = false)
    ∧ ((st [(PAT_STAT_phase, 1)]).phase = 1 ∧ (flashSt 2).phase = 2 ∧ (flashSt 2).copyPasses 0 ∧ ¬ (flashSt 2).copyPasses 1
      ∧ (st [(PAT_STAT_phase, 2)]).phase = 2 ∧ ¬ (st [(PAT_STAT_phase, 2)]).copyPasses 0 ∧ ¬ (st [(PAT_STAT_phase, 2)]).copyPasses 1)
    ∧ ((flashSt 3).pat.cand = some 0 ∧ (flashSt 3).phase = 3 ∧ readSound ((flashSt 3).imgRead 0) = true
      ∧ (twoSt 3).phase = 3 ∧ readSound ((twoSt 3).imgRead 0) = false ∧ (twoSt 3).pat.passed.filter (fun x => decide (x ≠ 0)) = [1])
    ∧ ((flashSt 4).phase = 4 ∧ ((flashSt 4).judgeImage ((flashSt 4).imgRead 0)).1 = 1
      ∧ (twoSt 4).phase = 4 ∧ ((twoSt 4).judgeImage ((twoSt 4).imgRead 0)).1 ≠ 1)
    ∧ (flashSt 5).phase = 5 := by
  have hp : (flashSt 2).copyPasses 0 := ⟨by decide +kernel, by rw [imgRead_F, img_head_F]⟩
  have hn : ∀ c, (st [(PAT_STAT_phase, 2)]).absent c = true := fun c => by simp [State.absent]; exact .inl rfl
  have ha : ¬ (flashSt 2).copyPasses 1 := fun h => by
    have : (flashSt 2).absent 1 = true := by decide +kernel
    rw [h.1] at this; cases this
  exact ⟨by decide +kernel, ⟨by decide +kernel, by decide +kernel, hp, ha, by decide +kernel, fun h => absurd (hn 0) (by rw [h.1]; decide), fun h => absurd (hn 1) (by rw [h.1]; decide)⟩,
    ⟨rfl, by decide +kernel, by rw [imgRead_F]; exact copy_reads_sound, by decide +kernel,
      by rw [twoSt_read]; exact copy_reads_bad, by decide +kernel⟩,
    ⟨by decide +kernel, test_copy_is_valid, by decide +kernel, by rw [twoSt_read]; exact copy_is_bad (by decide +kernel)⟩, by decide +kernel⟩

theorem test_witness_WindowIsAppliedAndProgrammed :
    ((winSt 6).served = true ∧ bit (keyW 1).toNat 0 = true ∧ resetKey (keyW 1) = true ∧ bit (keyW 1).toNat 1 = false
      ∧ (winSt 6).fb PAT_STAT_busy = false ∧ (winSt 6).phase = 6 ∧ ((winSt 6).judgeImage ((winSt 6).imgRead 2)).1 = 1)
    ∧ (((st [(PAT_STAT_phase, 6)]).judgeImage ((st [(PAT_STAT_phase, 6)]).imgRead 2)).1 ≠ 1 ∧ resetKey 1 = false)
    ∧ (bit (keyW 2).toNat 1 = true ∧ bit (keyW 2).toNat 0 = false ∧ resetKey (keyW 2) = true
      ∧ (winSt 6).reserved ((winSt 6).f PAT_WIN_BASE_base * 2 ^ 22) 4194304 = false
      ∧ (winSt 6).absent (b2n (bit (keyW 2).toNat 2)) = true)
    ∧ (let s := (winSt 6).withPat { State.reset.pat with present := true }
      s.onlyValid (b2n (bit (keyW 2).toNat 2)) = false ∧ s.absent (b2n (bit (keyW 2).toNat 2)) = false)
    ∧ ((runSt.setF PAT_STAT_busy 1).fb PAT_STAT_busy = true ∧ imgLen ((runSt.setF PAT_STAT_busy 1).imgRead 2) ≤ 2 ^ 22) :=
  ⟨⟨by decide +kernel, by decide +kernel, by decide +kernel, by decide +kernel, by decide +kernel, by decide +kernel, test_window_is_valid⟩,
    by decide +kernel, by decide +kernel, by decide +kernel, by decide +kernel⟩

/-! ### The pair -/

/-- A keeper with a complete mirror, and a record it takes next. -/
def keepSt : State := runSt.setF PAIR_STAT_keep_state 2
def mrec : MRec := { seq := 0, qid := 5, item := 2 ^ 20 - 1, ccause := 1, a := 7, b := 0, mt := 0 }
/-- Queue 5 is mirrored, and its mirrored context hot. -/
def keepQ : State := (keepSt.setMq 5 aq).setWays .queue (5 + 2 ^ 21) [5 + 2 ^ 21]
theorem test_witness_MirrorRecordsAreApplied :
    (∀ c ∈ [Instr.snap mrec, .ci mrec, .start mrec, .complete mrec [0, 0, 0, 0], .cqpi mrec, .cqci mrec, .ctr mrec, .qGone mrec, .cqGone mrec,
      .syncEnd mrec, .qCtx mrec (List.replicate 10 0), .cqCtx mrec (List.replicate 8 0), .ctrCtx mrec [0, 0]], keepSt.takesRecord c mrec)
    ∧ (keepQ.takesRecord (.snap mrec) mrec ∧ keepQ.takesRecord (.ci mrec) mrec ∧ keepQ.present 5 = true)
    ∧ (let s := keepSt.setF PAIR_STAT_phase 1; s.takesRecord (.snap mrec) mrec) := by
  refine ⟨fun c hc => ⟨by decide +kernel, by decide +kernel, by decide +kernel, ?_, .inl (by decide +kernel)⟩,
    ⟨⟨by decide +kernel, by decide +kernel, by decide +kernel, by decide +kernel, .inl (by decide +kernel)⟩,
      ⟨by decide +kernel, by decide +kernel, by decide +kernel, by decide +kernel, .inl (by decide +kernel)⟩, by decide +kernel⟩,
    ⟨by decide +kernel, by decide +kernel, by decide +kernel, by decide +kernel, .inr (fun _ h => by cases h)⟩⟩
  revert c; decide +kernel

def sendSt : State := (runSt.setF PAIR_STAT_send_state 2).withPair { runSt.pair with seq := 3, acked := 0, endSeq := some 2, ciSent := [(5, 1, 4)], deferCi := [(5, true), (6, false)], deferCqci := [(3, false), (4, true)] }
/-- The link is up and a mirror may be kept. -/
def syncSt : State := st [(PAT_STAT_phase, 7), (LACE_STAT_state, 5), (PAIR_CFG_mirror_en, 1), (PAIR_MIRROR_BASE_base, 1), (PAIR_STAT_send_state, 4)]
/-- Nothing of a state waits for the mirror. -/
theorem idle_mirror {s : State} (h : s.pair.ringWait = [] ∧ s.pair.acts = [] ∧ s.queues = [] ∧ s.fl = []) : s.mirrorIdle :=
  ⟨h.1, h.2.1, by simp [h.2.2.1], by simp [h.2.2.2]⟩
theorem test_witness_OwnerFollowsItsKeeper :
    (sendSt.mirrorOn = true ∧ sendSt.run = true ∧ idxDiff 2 sendSt.pair.acked < idxDiff sendSt.pair.seq sendSt.pair.acked
      ∧ (5, 1, 4) ∈ sendSt.pair.ciSent ∧ idxBefore 1 (2 + 1) = true ∧ (∀ y ∈ sendSt.pair.ciSent, y.1 = 5 → y = (5, 1, 4))
      ∧ ¬ idxDiff 3 sendSt.pair.acked < idxDiff sendSt.pair.seq sendSt.pair.acked)
    ∧ ((runSt.setF PAIR_STAT_send_state 1).run = true ∧ (runSt.setF PAIR_STAT_send_state 1).f PAIR_STAT_send_state = 1 ∧ runSt.pair.readyIn = false
      ∧ runSt.pair.owed = [])
    ∧ (State.reset.run = false ∧ runSt.mirrorIdle ∧ runSt.f PAIR_STAT_send_state ≠ 4 ∧ runSt.f PAIR_STAT_phase = 0
      ∧ sendSt.mirrorIdle ∧ sendSt.f PAIR_STAT_send_state ≠ 0
      ∧ (runSt.setF PAIR_STAT_send_state 4).f PAIR_STAT_send_state = 4 ∧ (runSt.setF PAIR_STAT_send_state 4).mirrorBarred = true
      ∧ (runSt.setF PAIR_STAT_send_state 4).mirrorIdle
      ∧ syncSt.mirrorIdle ∧ syncSt.f PAIR_STAT_send_state = 4 ∧ syncSt.mirrorBarred = false ∧ syncSt.laceUp = true ∧ syncSt.pair.noticed = false
      ∧ syncSt.fb PAIR_STAT_halt_in = false ∧ syncSt.run = true ∧ (syncSt.setF PAIR_STAT_halt_in 1).fb PAIR_STAT_halt_in = true
      ∧ runSt.laceUp = false ∧ (runSt.setF PAIR_CFG_mirror_en 1).pair.noticed = false)
    ∧ (bits (3 * 2 ^ 21 : W64).toNat 21 2 = 3 ∧ modeOf (bits (2 * 2 ^ 21 + 5 : W64).toNat 21 2) = some .sync
      ∧ bits (2 * 2 ^ 21 + 5 : W64).toNat 0 21 = 5 ∧ (readSt.qctx 5).state ≠ .free ∧ readSt.run = true ∧ readSt.mirrorOn = false
      ∧ (∃ f ∈ readSt.flsOf 5, f.stitches ≠ []) ∧ (∀ f ∈ movSt.flsOf 5, f.stitches = []))
    ∧ (sendSt.pair.deferCi.find? (fun x => decide (x.1 = 5)) = some (5, true) ∧ sendSt.mirrorRoom 1 = true
      ∧ sendSt.pair.deferCi.find? (fun x => decide (x.1 = 6)) = some (6, false)
      ∧ sendSt.pair.deferCqci.find? (fun x => decide (x.1 = 3)) = some (3, false)
      ∧ sendSt.pair.deferCqci.find? (fun x => decide (x.1 = 4)) = some (4, true))
    ∧ (let s := runSt.setC (9 + 2 ^ 18) { ac with pi := 4, ci := 1 }
      s.pair.acts = [] ∧ s.run = true ∧ (s.cctx (9 + 2 ^ 18)).state ≠ CqState.free ∧ (s.cctx (9 + 2 ^ 18)).state ≠ .full ∧ idxDiff (s.cctx (9 + 2 ^ 18)).pi 4 ≤ idxDiff (s.cctx (9 + 2 ^ 18)).pi (s.cctx (9 + 2 ^ 18)).ci
      ∧ s.cMirrored (9 + 2 ^ 18) = false ∧ s.spilledOf (9 + 2 ^ 18) = 0 ∧ s.waitsFor (9 + 2 ^ 18) = false
      ∧ idxDiff (s.cctx (9 + 2 ^ 18)).pi (s.cctx (9 + 2 ^ 18)).ci < idxDiff (s.cctx (9 + 2 ^ 18)).pi 5) := by
  refine ⟨by decide +kernel, by decide +kernel, ⟨by decide +kernel, idle_mirror (by decide +kernel), by decide +kernel, by decide +kernel,
    idle_mirror (by decide +kernel), by decide +kernel, by decide +kernel, by decide +kernel, idle_mirror (by decide +kernel),
    idle_mirror (by decide +kernel), by decide +kernel⟩, by decide +kernel, by decide +kernel, by decide +kernel⟩

def notice1 : Notice := { qid := 5, a := 9, b := 1, mt := 77 }
/-- A halted mover whose link is up, CTRL alone owning the transmitter. -/
def resendSt : State :=
  let s := own [(5, 0, 79)] (st [(PAT_STAT_phase, 8), (LACE_STAT_state, 5)])
  (s.withLace { s.lace with ctrl := Vc.fresh 32 }).withPair { s.pair with notice := List.replicate 32 0 }
theorem test_witness_SignsAndNotices :
    (runSt.run = true ∧ haltSt.halted = true ∧ runSt.pair.noticed = false
      ∧ (let s := (runSt.withPair { runSt.pair with noticed := true }).setReg PAIR_NOTICE_MT 77
        s.pair.noticed = true ∧ s.reg PAIR_NOTICE_MT = notice1.mt)
      ∧ (let s := keepSt.setF PAIR_CFG_auto 1
        s.run = true ∧ s.f PAIR_STAT_keep_state = 2 ∧ s.fb PAIR_CFG_auto = true))
    ∧ ((0 : BitVec 22).toNat = haltSt.f PAIR_HALT_qid ∧ (0 : W32).toNat = haltSt.f PAIR_HALT_IDX_index)
    ∧ (resendSt.halted = true ∧ resendSt.pair.noticeAck = false ∧ resendSt.pair.notices < 16 ∧ resendSt.ctrlOwns
      ∧ resendSt.canSend 0 [resendSt.pair.notice] = true ∧ resendSt.lace.fbDue = [] ∧ resendSt.pair.ctrl = [] ∧ runSt.halted = false)
    ∧ (runSt.phase ≠ 0 ∧ runSt.fb PAIR_STAT_fellow_alive ≠ true ∧ runSt.fb PAIR_STAT_halt_in ≠ true)
    ∧ (pairKey (keyW 2) = true ∧ bit (keyW 2).toNat 1 = true ∧ pairKey 2 = false) := by
  unfold State.ctrlOwns; decide +kernel

def downSt : State := runSt.setF LACE_STAT_down 1
def adoptSt (n : Bool) : State := ((keepSt.setF PAIR_STAT_cond 1).setF PAIR_CFG_drain_limit 1).withPair { runSt.pair with noticed := n, applied := 0 }
/-- Draining, with the notice of a MALFORMED halt at queue 5, which is mirrored. -/
def drainSt : State :=
  ((((keepSt.setF PAIR_STAT_phase 1).setF PAIR_NOTICE_halt_cause 1).setF PAIR_NOTICE_qid 5).withPair { runSt.pair with noticed := true }).setMq 5 aq
def foundSt : State := admOwns 3 [3] <| (keepSt.setF PAIR_STAT_phase 2).setMq 5 { aq with snap := 4, ci := 1 }
/-- The mirror is being cleared, at its last stitch. -/
def clearSt : State := admOwns 3 [3] <| (runSt.setF PAIR_STAT_keep_state 1).withPair { runSt.pair with clears := 67 }
/-- The scan is at its last bits: queue 2^21 - 1 is mirrored, or none is. -/
def lastSt (l : List Nat) : State :=
  admOwns 3 [3] <| l.foldl (fun s q => s.setMq q aq) ((keepSt.setF PAIR_STAT_phase 2).withPair { runSt.pair with scan := 2 ^ 21 - 1 })
theorem test_witness_TakeoverAdoptsTheMirror :
    (downSt.run = true ∧ downSt.fb LACE_STAT_down = true ∧ downSt.sign = true ∧ downSt.f PAIR_STAT_keep_state ≠ 3 ∧ downSt.fb PAIR_STAT_cond = false
      ∧ (downSt.setF PAIR_STAT_cond 1).fb PAIR_STAT_cond = true ∧ (downSt.setF PAIR_STAT_cond 1).sign = true
      ∧ ((sendSt.setF LACE_STAT_down 1).setF PAIR_STAT_fellow_alive 1).sign = false
      ∧ ((sendSt.setF LACE_STAT_down 1).setF PAIR_STAT_fellow_alive 1).mirrorIdle
      ∧ ((sendSt.setF LACE_STAT_down 1).setF PAIR_STAT_fellow_alive 1).f PAIR_STAT_send_state = 2)
    ∧ (pairKey (keyW 1) = true ∧ bit (keyW 1).toNat 0 = true ∧ runSt.f PAIR_STAT_keep_state ≠ 2 ∧ keepSt.f PAIR_STAT_keep_state = 2
      ∧ keepSt.f PAIR_STAT_phase = 0 ∧ keepSt.run = true ∧ keepSt.mirrorIdle ∧ (keepSt.setF PAIR_STAT_phase 3).f PAIR_STAT_phase ≠ 0)
    ∧ ((adoptSt true).pair.noticed = true ∧ (adoptSt true).f PAIR_CFG_drain_limit ≠ 0 ∧ (adoptSt true).f PAIR_STAT_phase = 0
      ∧ (adoptSt true).f PAIR_STAT_keep_state = 2
      ∧ idxBefore (BitVec.ofNat 32 ((adoptSt true).f PAIR_NOTICE_IDX_last_seq)) (adoptSt true).pair.applied = false
      ∧ (adoptSt false).pair.noticed = false ∧ (adoptSt false).fb PAIR_STAT_cond = true
      ∧ (adoptSt true).mirrorIdle ∧ (adoptSt false).mirrorIdle)
    ∧ (drainSt.run = true ∧ drainSt.f PAIR_STAT_phase = 1 ∧ drainSt.pair.noticed = true ∧ drainSt.f PAIR_NOTICE_halt_cause = 1
      ∧ drainSt.f PAIR_NOTICE_qid < 2 ^ 21 ∧ drainSt.present (drainSt.f PAIR_NOTICE_qid) = true
      ∧ (drainSt.qctx (drainSt.f PAIR_NOTICE_qid + 2 ^ 21)).state = .free)
    ∧ (foundSt.mayBackground = true ∧ foundSt.f PAIR_STAT_phase = 2 ∧ foundSt.adoptList = [5] ∧ foundSt.adoptNext ≠ 2 ^ 21)
    ∧ ((lastSt [2 ^ 21 - 1]).mayBackground = true ∧ (lastSt [2 ^ 21 - 1]).adoptNext = 2 ^ 21 ∧ (lastSt [2 ^ 21 - 1]).adoptList = [2 ^ 21 - 1]
      ∧ (lastSt [2 ^ 21 - 1]).f PAIR_ADOPT_adopted + 256 < 2 ^ PAIR_ADOPT_adopted.w
      ∧ (lastSt []).mayBackground = true ∧ (lastSt []).adoptNext = 2 ^ 21 ∧ (lastSt []).adoptList = [] ∧ (lastSt []).f PAIR_ADOPT_adopted = 0)
    ∧ (clearSt.mayBackground = true ∧ clearSt.f PAIR_STAT_keep_state = 1 ∧ clearSt.pair.clears < 68)
    ∧ (foundSt.adm.eng = some (2, 3, [3]) ∧ foundSt.owns 3 2 = true ∧ (lastSt []).adm.eng = some (2, 3, [3]) ∧ (lastSt []).owns 3 2 = true
      ∧ clearSt.adm.eng = some (2, 3, [3]) ∧ clearSt.owns 3 2 = true) := by
  refine ⟨⟨by decide +kernel, by decide +kernel, by decide +kernel, by decide +kernel, by decide +kernel, by decide +kernel, by decide +kernel,
      by decide +kernel, idle_mirror (by decide +kernel), by decide +kernel⟩,
    ⟨by decide +kernel, by decide +kernel, by decide +kernel, by decide +kernel, by decide +kernel, by decide +kernel, idle_mirror (by decide +kernel),
      by decide +kernel⟩,
    ⟨by decide +kernel, by decide +kernel, by decide +kernel, by decide +kernel, by decide +kernel, by decide +kernel, by decide +kernel,
      idle_mirror (by decide +kernel), idle_mirror (by decide +kernel)⟩, by decide +kernel, by decide +kernel, by decide +kernel, by decide +kernel,
    by decide +kernel⟩

/-! ### The link -/

def laneSt (n : Nat) : State := runSt.setF LACE_STAT_state n
/-- Lanes 0 to 4 good. -/
def goodSt : State := (List.range 5).foldl (fun s i => (s.setF (LACE_LANE_rx_good i) 1).setF (LACE_LANE_rx_from i) i) (laneSt 4)
/-- Symbols as the words of a lane, from a running disparity. The first argument bounds them. -/
def asWords : Nat → Bool → List Sym → List (BitVec 40)
  | 0, _, _ => []
  | n + 1, rd, l => if l.isEmpty then [] else let e := encodeWord rd (l.take 4); e.1 :: asWords n e.2 (l.drop 4)
/-- Eight training sets. -/
def eight (l : List Sym) : List (BitVec 40) := asWords 32 false (List.replicate 8 l).flatten
/-- TS2 of a fellow that finds all nine lanes good and is to send on the lanes `u`. -/
def rxTs2 (u : Nat) : TsIn := { two := true, lane := 0, role := true, recov := false, session := 3, good := 0x1FF, use := u }
/-- R382: eight TS2 of a lane are taken; one is not. -/
theorem test_eight_ts2 : eightSets (eight (ts2 0 true false 3 0x1FF 0xF)) = some (false, List.replicate 8 (rxTs2 0xF)) := by decide +kernel
theorem test_one_set : eightSets ((eight (ts2 0 true false 3 0x1FF 0xF)).take 4) = none := by decide +kernel
theorem same_of {l : List (BitVec 40)} {x : TsIn} (h : eightSets l = some (false, List.replicate 8 x)) (ht : x.two = true) :
    sameTs2 l = some x := by
  delta sameTs2; rw [h]; simp [List.replicate, ht]
theorem test_same_ts2 : sameTs2 (eight (ts2 0 true false 3 0x1FF 0xF)) = some (rxTs2 0xF) := same_of test_eight_ts2 rfl
/-- R384: TS1 of lane 3. -/
theorem test_ts1 : (tsOf (ts1 3 true false)).map (fun x => (x.two, x.lane, x.role, x.recov)) = some (false, 3, true, false) := by decide +kernel
/-- R377: D21.5 and K28.5 in the code groups of 8b/10b. -/
theorem test_code_groups : encode10 false (dsym 0xB5) = 0b1010101010 ∧ encode10 false symCom = 0b0011111010
    ∧ encode10 true symCom = 0b1100000101 ∧ decode10 false 0b1100000101 = .disparity symCom ∧ decode10 false 0b1111111111 = .invalid := by
  decide +kernel
/-- Lane 0 is locked, in DESKEW; four AOS arrive on it after `n` symbols. -/
def deskewSt : State := (List.range 1).foldl (fun s i => (s.setF (LACE_LANE_rx_locked i) 1).setF (LACE_LANE_rx_from i) i) (laneSt 3)
def aosRx (n : Nat) : List (List (BitVec 40)) :=
  let l := (List.replicate 4 (aos ++ List.replicate 256 (dsym 0))).flatten
  [asWords 200 false (List.replicate n (dsym 0) ++ l.take 788)]
/-- R382: where the fourth AOS of a lane stands; lanes whose fourth AOS stand 8 symbols apart align, and lanes further apart do not. -/
theorem test_deskew : (deskewSt.aosOf (aosRx 8)).take 1 = [some 788] := by decide +kernel
theorem test_skew : alignedMap [some 780, some 788] = 3 ∧ alignedMap [some 780, some 792] = 1 := by decide +kernel
theorem test_witness_TheLinkTrains :
    (laneCount (0x007 : BitVec 9).toNat < 4 ∧ 4 ≤ laneCount (0x1E0 : BitVec 9).toNat ∧ (laneSt 1).laceSt = 1 ∧ (laneSt 6).laceSt = 6)
    ∧ ((laneSt 2).laceSt = 2 ∧ (laneSt 3).laceSt = 3 ∧ (eightSets (eight (ts2 0 true false 3 0x1FF 0xF))).isSome = true
      ∧ 4 ≤ ((List.range 4).foldl (fun s i => s.setF (LACE_LANE_rx_locked i) 1) (laneSt 2)).locked
      ∧ bit (0x1FF : BitVec 9).toNat 0 = true ∧ bit (0 : BitVec 9).toNat 0 = false ∧ eightSets [] = none)
    ∧ (deskewSt.laceSt = 3 ∧ 0 < deskewSt.locked ∧ (deskewSt.aosOf (aosRx 8)).take 1 = [some 788]
      ∧ (List.range 9).filter (fun i => deskewSt.fb (LACE_LANE_rx_locked i)) = [0]
      ∧ (deskewSt.aosOf []).getD 0 none = none ∧ deskewSt.fb (LACE_LANE_rx_locked 0) = true ∧ (laneSt 3).locked = 0)
    ∧ (sameTs2 [] = none ∧ goodSt.laceSt = 4 ∧ sameTs2 (eight (ts2 0 true false 3 0x1FF 0xF)) = some (rxTs2 0xF)
      ∧ (rxTs2 0xF).use = useOf goodSt.goodMap ∧ useOf (rxTs2 0xF).good ≠ 0 ∧ (rxTs2 0xF).use ≠ 0 ∧ (rxTs2 0xF).use ≠ useOf (laneSt 4).goodMap
      ∧ goodSt.mirrorIdle ∧ (rxTs2 0).use = useOf (laneSt 4).goodMap)
    ∧ (runSt.served = true ∧ runSt.laceSt = 0 ∧ 7 ≤ runSt.phase ∧ runSt.pair.hard = false ∧ (laneSt 6).pair.hard = false) := by
  refine ⟨by decide +kernel, ⟨by decide +kernel, by decide +kernel, ?_, by decide +kernel⟩,
    ⟨by decide +kernel, by decide +kernel, test_deskew, by decide +kernel⟩,
    ⟨by decide +kernel, by decide +kernel, test_same_ts2, by decide +kernel, by decide +kernel, by decide +kernel, by decide +kernel,
      idle_mirror (by decide +kernel), by decide +kernel⟩, by decide +kernel⟩
  rw [test_eight_ts2]; rfl

/-- The link is UP, and lane 0 receives a data lane. -/
def upSt : State := ((laneSt 5).setF (LACE_LANE_rx_from 0) 0).withLace { runSt.lace with fellowUse := 1 }
/-- Lane 0 is locked as well. -/
def lockSt : State := upSt.setF (LACE_LANE_rx_locked 0) 1
theorem test_witness_TheLinkRecovers :
    (8 < 9 ∧ upSt.laceSt ≠ 0 ∧ upSt.rxData 0 = true ∧ upSt.laceSt = 5 ∧ (laneSt 2).laceSt ≠ 5 ∧ (laneSt 2).laceSt ≠ 0)
    ∧ (bit (1 : W64).toNat 0 = true ∧ (upSt.setF LACE_CFG_enable 1).laceMay = true ∧ (upSt.setF LACE_CFG_enable 1).laceSt = 5
      ∧ ((laneSt 2).setF LACE_CFG_enable 1).laceMay = true)
    ∧ (let s := (upSt.setF LACE_LANE_CFG_err_limit 1).setF SPR_POLICY_lane_retire 1
      s.f LACE_LANE_CFG_err_limit ≠ 0 ∧ s.f LACE_LANE_CFG_err_limit < (s.laneWords 0 [0]).2.1 ∧ 0 ∉ s.lace.bad
      ∧ s.fb SPR_POLICY_lane_retire = true ∧ s.fb SPR_TEST_STAT_busy = false)
    ∧ (upSt.setF LACE_LANE_CFG_err_limit 0).f LACE_LANE_CFG_err_limit = 0
    ∧ (let s := (laneSt 2).withLace { runSt.lace with recovery := true }; s.lace.recovery = true ∧ s.laceSt ≠ 5)
    ∧ (upSt.laceUp = true ∧ upSt.lace.block = 0 ∧ upSt.lace.phys.part = [])
    ∧ ((lockSt.laneWords 0 (List.replicate 4 0)).2.2 = true ∧ lockSt.fb (LACE_LANE_rx_locked 0) = true ∧ lockSt.rxData 0 = true
      ∧ lockSt.laceSt = 5 ∧ (lockSt.laneWords 0 (List.replicate 3 0)).2.2 = false) := by decide +kernel

/-- A feedback packet of the first channel, made as R392 makes it, and what is wrong with others. -/
def fb0 : List Byte := packetBytes 3 0 0 (upSt.fbWord 0) []
def pkt (i : Nat) (sp : Bool) : Pkt := { seq := i, slots := [List.replicate 32 0], spilled := sp, pos := 0, back := false, born := i }
def vcSt (l : List Pkt) : State :=
  own [(6, 0, 73)] (upSt.withLace { upSt.lace with ctrl := { Vc.fresh 32 with next := l.length, sent := l.length, store := l, stalled := some 1 } })
/-- A MIRROR packet on chip, and no room for another. -/
def spillSt : State :=
  own [(6, 0, 73)] ((upSt.withLace { upSt.lace with mirror := { Vc.fresh 1024 with next := 1, sent := 1, store := [pkt 0 false] } }).setF (SPR_ARRAY_rows_out 18) 1919)
theorem test_witness_PacketsAreJudgedAndReplayed :
    (upSt.laceUp = true ∧ packetSound fb0 = true ∧ headerOk (leNat (fb0.take 8)) = true ∧ packetSound (fb0.take 11) = false
      ∧ packetSound (packetBytes 3 0 1 0 []) = true ∧ headerOk (leNat ((packetBytes 3 0 1 0 []).take 8)) = false)
    ∧ (upSt.laceQuiet ∧ (own [(5, 0, 79)] upSt).ctrlOwns ∧ (own [(5, 0, 79)] upSt).laceUp = true ∧ runSt.laceUp = false)
    ∧ ((vcSt [pkt 0 false, pkt 1 true]).laceUp = true ∧ ((vcSt [pkt 0 false, pkt 1 true]).vc 0).outst ≠ 0 ∧ (vcSt [pkt 0 false, pkt 1 true]).laceQuiet
      ∧ ((vcSt []).vc 0).expiries + 1 < (vcSt []).f LACE_REPLAY_CFG_max_replays)
    ∧ ((vcSt [pkt 0 false, pkt 1 true]).refillNext 0 = some (pkt 1 true) ∧ (vcSt [pkt 0 false, pkt 1 true]).run = true
      ∧ (vcSt [pkt 0 false, pkt 1 true]).owns resCstore 73 = true)
    ∧ (spillSt.oldestOnChip = some (1, pkt 0 false) ∧ spillSt.run = true ∧ spillSt.owns resCstore 73 = true ∧ spillSt.chipFull = true
      ∧ spillSt.lace.spillHead + unitsOf (pkt 0 false).slots + 1 ≤ spillSt.spillTail + 262144 ∧ spillSt.fb PAT_STAT_clearing = false
      ∧ spillSt.pat.csBase % 8 = 0 ∧ unitsOf (pkt 0 false).slots ≤ 4 ∧ (pkt 0 false).slots.map List.length = [32])
    ∧ ((vcSt [pkt 0 false, pkt 1 true]).readSpill 0 (unitsOf (pkt 1 true).slots + 1)).2 = true := by
  unfold State.laceQuiet State.ctrlOwns; decide +kernel

/-! ### Service -/

/-- A record in the error log; ELOG owns a channel of CSTORE. -/
def logSt : State := own [(6, 0, 77)] (runSt.putLog [1, 2, 3, 4])
/-- Queue 5 is hot and free: its stored copy does not differ. -/
def cleanSt : State := runSt.setWays .queue 5 [5]
theorem test_witness_ErrorLogAndFailures :
    (logSt.served = true ∧ idxDiff (BitVec.ofNat 32 (logSt.f ERR_LOG_PI_pi)) 1 ≤ idxDiff (BitVec.ofNat 32 (logSt.f ERR_LOG_PI_pi)) (BitVec.ofNat 32 (logSt.f ERR_LOG_CI_ci))
      ∧ idxDiff (BitVec.ofNat 32 (logSt.f ERR_LOG_PI_pi)) (BitVec.ofNat 32 (logSt.f ERR_LOG_CI_ci)) < idxDiff (BitVec.ofNat 32 (logSt.f ERR_LOG_PI_pi)) 2)
    ∧ (logSt.pair.hard = false ∧ logSt.elogOpen = true ∧ logSt.err.reads = [] ∧ runSt.elogOpen = false ∧ logSt.f ERR_LOG_CI_ci ≠ logSt.f ERR_LOG_PI_pi ∧ logSt.err.log = [(0, [1, 2, 3, 4])]
      ∧ logSt.f ERR_LOG_CI_ci % 4096 = 0)
    ∧ (let s := (runSt.setF SPR_POLICY_bist_en 1).withSpr { runSt.spr with array := 23 }
      s.fb SPR_POLICY_bist_en = true ∧ s.run = true ∧ s.spr.array < 24 ∧ (s.spr.array < 16 → s.bankRetired s.spr.array = false) ∧ s.f (SPR_ARRAY_repair_used s.spr.array) < 8)
    ∧ (runSt.run = true ∧ (23 : Nat) < 24 ∧ runSt.pair.hard = false ∧ runSt.f (SPR_ARRAY_repair_used 23) < 8
      ∧ runSt.hot .ring 3 = false ∧ (work aq ac).hot .queue 5 = true ∧ (work aq ac).dirty .queue 5 = true
      ∧ cleanSt.hot .queue 5 = true ∧ cleanSt.dirty .queue 5 = false ∧ cleanSt.f (SPR_ARRAY_repair_used (5 % 16)) < 8)
    ∧ ((runSt.setRed 16 2).redSt 16 = 2 ∧ foldSt.spr.shadow = none ∧ (runSt.withArb { runSt.arb with folds := [waitFold] }).arb.folds = waitFold :: [])
    ∧ (runSt.run = true ∧ runSt.engSt 67 ≠ 7 ∧ runSt.redSt 16 ≠ 7 ∧ runSt.spr.shadow = none
      ∧ engInService ((runSt.setEng 67 5).engSt 67) = false ∧ redInService ((runSt.setRed 16 5).redSt 16) = false) := by decide +kernel

/-- SPR_TEST_CMD with its key: kind, unit, shadow, duration. -/
def testW (kind unit shadow dur : Nat) : W64 := BitVec.ofNat 64 (0x5A17 * 2 ^ 16 + kind + unit * 2 ^ 3 + shadow * 2 ^ 10 + dur * 2 ^ 32)
def ranSt (kind unit : Nat) : State := (st [(PAT_STAT_phase, 7), (SPR_TEST_STAT_busy, 1), (SPR_TEST_STAT_kind, kind)]).withSpr { State.reset.spr with unit := unit }
def shadowSt : State := runSt.withSpr { runSt.spr with shadow := some (3, 16, 4) }
theorem test_witness_TestsRunInService :
    (runSt.served = true ∧ runSt.testOf 0 (.engineSelfTest 0) ∧ bits (0 : W64).toNat 16 16 ≠ 0x5A17)
    ∧ (bits (testW 0 67 0 0).toNat 16 16 = 0x5A17 ∧ runSt.fb SPR_TEST_STAT_busy = false ∧ runSt.run = true ∧ testKind (testW 0 67 0 0) 0 = true
      ∧ testUnit (testW 0 67 0 0) < 68 ∧ (runSt.setEng 67 5).engSt (testUnit (testW 0 67 0 0)) = 5)
    ∧ (testKind (testW 1 16 0 0) 1 = true ∧ testUnit (testW 1 16 0 0) < 17 ∧ runSt.redSt (testUnit (testW 1 16 0 0)) = 4)
    ∧ (testKind (testW 2 3 16 0) 2 = true ∧ runSt.redSt (testUnit (testW 2 3 16 0)) ≤ 2 ∧ testShadow (testW 2 3 16 0) < 17
      ∧ runSt.redSt (testShadow (testW 2 3 16 0)) = 4 ∧ runSt.spr.shadow = none)
    ∧ (testKind (testW 3 0 0 0) 3 = true ∧ shadowSt.spr.shadow = some (3, 16, 4))
    ∧ (testKind (testW 4 8 0 255) 4 = true ∧ (runSt.setF (LACE_LANE_tx_use 8) 1).f (LACE_LANE_tx_use (testUnit (testW 4 8 0 255))) = 1
      ∧ bits (testW 4 8 0 255).toNat 32 8 ≠ 0)
    ∧ (testKind (testW 5 6 0 0) 5 = true ∧ (runSt.setF (ARB_CTL_freeze 6) 1).drainedRes (testUnit (testW 5 6 0 0)) = true)
    ∧ ((ranSt 0 67).fb SPR_TEST_STAT_busy = true ∧ (ranSt 0 67).run = true ∧ (ranSt 0 67).f SPR_TEST_STAT_kind ≠ 3 ∧ (ranSt 0 67).spr.unit < 68
      ∧ ((ranSt 0 67).setEng 67 6).engSt 67 = 6 ∧ (ranSt 1 16).spr.former < 16 ∧ ((ranSt 1 16).setRed 16 6).redSt 16 = 6
      ∧ (ranSt 4 8).f SPR_TEST_STAT_kind = 4 ∧ (ranSt 4 8).spr.unit < 9 ∧ (ranSt 4 8).spr.far = false ∧ (ranSt 4 8).fb SPR_POLICY_lane_retire = true
      ∧ ((ranSt 4 8).setF SPR_POLICY_lane_retire 0).fb SPR_POLICY_lane_retire = false)
    ∧ ((ranSt 3 3).f SPR_TEST_STAT_kind = 3 ∧ (ranSt 3 3).fb SPR_TEST_STAT_busy = true ∧ (ranSt 3 3).run = true
      ∧ ((ranSt 3 3).withSpr shadowSt.spr).spr.shadow = some (3, 16, 4)) :=
  ⟨⟨by decide +kernel, .inl ⟨rfl, by decide +kernel⟩, by decide +kernel⟩, by decide +kernel, by decide +kernel, by decide +kernel,
    by decide +kernel, by decide +kernel, by decide +kernel, by decide +kernel, by decide +kernel⟩

/-- Core 3 has a read of the error log that waits. -/
def readWaits : State := runSt.withErr { runSt.err with reads := [(some .cob3, 0, 0, 64)] }
theorem test_witness_RegisterAccessesAndRejections :
    (runSt.served = true ∧ runSt.agentWaits .cob3 = false ∧ runSt.elogOpen = false ∧ logSt.elogOpen = true ∧ logSt.err.reads = []
      ∧ readWaits.served = true ∧ readWaits.agentWaits .cob3 = true ∧ PAT_STAT < 0x100000 ∧ regAt PAT_STAT = some (.patStat, 0, 0) ∧ Reg.patStat ∉ [.icClaim, .izTrigVal, .izTrigInfo, .errLogRd])
    ∧ (accesses 0xFFFFD 8 = [] ∧ accesses 0 3 = [])
    ∧ (IZ_RED_CFG % 8 = 0 ∧ regAt 0xFFFF8 = none ∧ regAt IZ_RED_CFG = some (.izRedCfg, 0, 0) ∧ Reg.izRedCfg ∈ plainRegs ∧ instanceOk .izRedCfg 0 0 = true
      ∧ portOf .hostp1 = some 1)
    ∧ (∃ ofs r i, ofs < 0x100000 ∧ ofs % 8 = 0 ∧ regAt ofs = some (r, i, 0) ∧ closedTo r i .hostp0 = true)
    ∧ (readSt.burstIn 2 0 0 = true ∧ (readSt.withFl [{ bound stitch2 with e := { movE with srcSpace := 1 } }]).burstIn 2 0 1 = true)
    ∧ ((readSt.qctx 5).device = false ∧ ((runSt.setQ 5 { aq with device := true }).qctx 5).device = true)
    ∧ (runSt.run = true ∧ runSt.pair.hard = false) := by
  refine ⟨by decide +kernel, by decide +kernel, by decide +kernel, ⟨COB_PWR 0, .cobPwr, 0, by decide +kernel⟩, by decide +kernel,
    by decide +kernel, by decide +kernel⟩

/-! ### The spec's own values -/

/-- The ASCII bytes "123456789". -/
def digits : List Byte := [0x31, 0x32, 0x33, 0x34, 0x35, 0x36, 0x37, 0x38, 0x39]
/-- R71. -/
theorem test_crc32c : crc32c digits = 0xE3069283 := by decide +kernel
/-- R392. -/
theorem test_crc32 : crc32 digits = 0xCBF43926 := by decide +kernel
/-- R223. -/
theorem test_guard : crc16 digits = 0xD0DB := by decide +kernel
/-- R159: +Inf and -Inf meet in each type. -/
theorem test_nan : (fpAdd (fmtOf 0) 0x7FF0000000000000 0xFFF0000000000000).1 = 0x7FF8000000000000 ∧ (fpAdd (fmtOf 1) 0x7F800000 0xFF800000).1 = 0x7FC00000
    ∧ (fpAdd (fmtOf 2) 0x7F80 0xFF80).1 = 0x7FC0 ∧ (fpAdd (fmtOf 3) 0x7C00 0xFC00).1 = 0x7E00 := by decide +kernel
/-- R158: ties to even, an overflow to infinity, and a subnormal result that is kept. -/
theorem test_round : (fpAdd (fmtOf 3) 0x6800 0x3C00).1 = 0x6800 ∧ (fpAdd (fmtOf 3) 0x6801 0x3C00).1 = 0x6802
    ∧ (fpAdd (fmtOf 3) 0x7BFF 0x7BFF).1 = 0x7C00 ∧ (fpAdd (fmtOf 3) 0x0001 0x0001).1 = 0x0002 := by decide +kernel
/-- R160. -/
theorem test_zeros : (fpMinMax (fmtOf 3) false 0x8000 0).1 = 0x8000 ∧ (fpMinMax (fmtOf 3) false 0 0x8000).1 = 0x8000
    ∧ (fpMinMax (fmtOf 3) true 0x8000 0).1 = 0 ∧ (fpMinMax (fmtOf 3) true 0 0x8000).1 = 0 := by decide +kernel
/-- R154: 2^30 + 1 - 2^30 in binary32 loses the 1 in native mode and keeps it in reproducible mode. -/
theorem test_reproducible : (reduceElem 1 0 true false false [0x4E800000, 0x3F800000, 0xCE800000]).1 = 0x3F800000
    ∧ (reduceElem 1 0 false false false [0x4E800000, 0x3F800000, 0xCE800000]).1 = 0 := by decide +kernel
/-- R166: the empty carrier quenches to +0. -/
theorem test_empty_carrier : (reduceElem 0 0 true true false [0]).1 = 0 ∧ (reduceElem 0 0 true true true [0]).1 = 0 := by decide +kernel
/-- The digest of "abc" that FIPS 180-4's examples give; its first and last bytes. -/
theorem test_sha384 : (sha384 [0x61, 0x62, 0x63]).take 4 = [0xCB, 0x00, 0x75, 0x3F] ∧ (sha384 [0x61, 0x62, 0x63]).drop 44 = [0x34, 0xC8, 0x25, 0xA7] := by
  decide +kernel
/-- No word spells a command. -/
theorem test_no_words (n w : Nat) : decodeTableWord n w = none := rfl

/-! ### Commands that cannot arrive -/

theorem test_ill_formed_ring_size_low : Instr.wf (.piAndRing 0 1 15 0 true) = false := by decide
theorem test_ill_formed_ring_size_odd : Instr.wf (.piAndRing 0 1 24 0 true) = false := by decide
theorem test_ill_formed_ring_size_high : Instr.wf (.piAndRing 0 1 65 0 true) = false := by decide
theorem test_ill_formed_misformed_size : Instr.wf (.apertureMisformedAccess 0 1 (.write true) 0 0) = false := by decide
theorem test_ill_formed_misformed_offset : Instr.wf (.apertureMisformedAccess 0 1 (.write true) 512 4) = false := by decide
theorem test_ill_formed_queue_number : Instr.wf (.contextFetchDone .queue 0x400000 false) = false := by decide
theorem test_ill_formed_ring_number : Instr.wf (.contextFetchDone .ring 0x80000 false) = false := by decide
theorem test_ill_formed_counter_number : Instr.wf (.contextFetchDone .counter 0x200000 false) = false := by decide
theorem test_ill_formed_engine : Instr.wf (.engineBind 68) = false := by decide
theorem test_ill_formed_engine_end : Instr.wf (.stitchEnd 68) = false := by decide
theorem test_ill_formed_engine_pace : Instr.wf (.pacewaitRelease 68) = false := by decide
theorem test_ill_formed_source : Instr.wf (.dataReadDone 0 16 .ok) = false := by decide
theorem test_ill_formed_get_engine : Instr.wf (.getResponse 68 ⟨[], 0⟩ .ok) = false := by decide
theorem test_ill_formed_get_reason_zero : Instr.wf (.getResponse 0 ⟨[], 0⟩ (.failed 0)) = false := by decide
theorem test_ill_formed_get_reason : Instr.wf (.getResponse 0 ⟨[], 0⟩ (.failed 9)) = false := by decide
theorem test_ill_formed_delivery_reason : Instr.wf (.deliveryReport 1 0 0 9) = false := by decide
theorem test_ill_formed_ring_ack : Instr.wf (.recordWriteAck 0x80000) = false := by decide
theorem test_ill_formed_ring_broken : Instr.wf (.ringBroken 0x80000 false) = false := by decide
theorem test_ill_formed_ring_timer : Instr.wf (.cqCoalTimer 0x80000) = false := by decide
theorem test_ill_formed_dreq : Instr.wf (.dreqAssert 256) = false := by decide
theorem test_ill_formed_dreq_off : Instr.wf (.dreqDeassert 256) = false := by decide
theorem test_ill_formed_dreq_pin : Instr.wf (.dreqGlitch 32) = false := by decide
theorem test_ill_formed_dack : Instr.wf (.dackPulseStart 32) = false := by decide
theorem test_ill_formed_dack_end : Instr.wf (.dackPulseEnd 32) = false := by decide
theorem test_ill_formed_internal_line_low : Instr.wf (.internalAcknowledgement 31) = false := by decide
theorem test_ill_formed_internal_line_high : Instr.wf (.internalAcknowledgement 256) = false := by decide
theorem test_ill_formed_fold_type : Instr.wf (.foldSegment ⟨0, 0, 16, 0, false, false, [], false, 0⟩) = false := by decide
theorem test_ill_formed_fold_op : Instr.wf (.foldSegment ⟨0, 0, 0, 8, false, false, [], false, 0⟩) = false := by decide
theorem test_ill_formed_fold_length : Instr.wf (.foldSegment ⟨0, 0, 0, 0, false, false, List.replicate 257 0, false, 0⟩) = false := by decide +kernel
theorem test_ill_formed_resource : Instr.wf (.arbPhase 7 false) = false := by decide
theorem test_ill_formed_channel : Instr.wf (.channelTake 0 32) = false := by decide
theorem test_ill_formed_bite : Instr.wf (.wdogBite 7 0) = false := by decide
theorem test_ill_formed_freeze : Instr.wf (.arbFreeze 7 true) = false := by decide
theorem test_ill_formed_slot : Instr.wf (.slotAdvance 7) = false := by decide
theorem test_ill_formed_slot_commit : Instr.wf (.slotCommit 7) = false := by decide
theorem test_ill_formed_ext_int : Instr.wf (.extIntAssert 16) = false := by decide
theorem test_ill_formed_ext_rearm : Instr.wf (.extIntRearm 16) = false := by decide
theorem test_ill_formed_ext_glitch : Instr.wf (.extIntGlitch 16) = false := by decide
theorem test_ill_formed_ext_off : Instr.wf (.extIntDeassert 16) = false := by decide
theorem test_ill_formed_target : Instr.wf (.icClaim 8) = false := by decide
theorem test_ill_formed_eoi_target : Instr.wf (.icEoi 8 1) = false := by decide
theorem test_ill_formed_resync_target : Instr.wf (.resync 8) = false := by decide
theorem test_ill_formed_source_zero : Instr.wf (.icCntClear 0) = false := by decide
theorem test_ill_formed_source_high : Instr.wf (.msgFail 1024) = false := by decide
theorem test_ill_formed_core_wait : Instr.wf (.cobWait 4) = false := by decide
theorem test_ill_formed_core_doze : Instr.wf (.cobDoze 4) = false := by decide
theorem test_ill_formed_core_wake : Instr.wf (.cobWake 4) = false := by decide
theorem test_ill_formed_boot_engine : Instr.wf (.resetDeassert { bootB with badEngines := [68] }) = false := by decide
theorem test_ill_formed_boot_unit : Instr.wf (.resetDeassert { bootB with badUnits := [17] }) = false := by decide
theorem test_ill_formed_boot_key : Instr.wf (.resetDeassert { bootB with keyHash := [] }) = false := by decide
theorem test_ill_formed_boot_repairs : Instr.wf (.resetDeassert { bootB with fuseRepairs := [] }) = false := by decide
theorem test_ill_formed_boot_repair_count : Instr.wf (.resetDeassert { bootB with fuseRepairs := List.replicate 24 9 }) = false := by decide
theorem test_ill_formed_record_words : Instr.wf (.complete ⟨0, 0, 0, 0, 1, 0, 0⟩ [0]) = false := by decide
theorem test_ill_formed_queue_words : Instr.wf (.qCtx ⟨0, 0, 0, 0, 1, 0, 0⟩ []) = false := by decide
theorem test_ill_formed_ring_words : Instr.wf (.cqCtx ⟨0, 0, 0, 0, 1, 0, 0⟩ []) = false := by decide
theorem test_ill_formed_counter_words : Instr.wf (.ctrCtx ⟨0, 0, 0, 0, 1, 0, 0⟩ []) = false := by decide
theorem test_ill_formed_lock_list : Instr.wf (.laceLock 0 0 (List.replicate 10 [])) = false := by decide
theorem test_ill_formed_deskew_list : Instr.wf (.laceDeskew (List.replicate 10 [])) = false := by decide
theorem test_ill_formed_array : Instr.wf (.bistRow (.corrected 24)) = false := by decide
theorem test_ill_formed_lost_context : Instr.wf (.bistRow (.lostContext .ring 0x80000 0)) = false := by decide
theorem test_ill_formed_lost_way_row : Instr.wf (.bistRow (.lostContext .ring 3 2688)) = false := by decide
theorem test_ill_formed_lost_array : Instr.wf (.bistRow (.lostRow 15 0)) = false := by decide
theorem test_ill_formed_lost_row : Instr.wf (.bistRow (.lostRow 23 100000)) = false := by decide
theorem test_ill_formed_get_length : Instr.wf (.getResponse 0 ⟨List.replicate 257 0, 0⟩ .ok) = false := by decide +kernel
theorem test_ill_formed_lane : Instr.wf (.adaptationFreeze 9) = false := by decide
theorem test_ill_formed_lane_lost : Instr.wf (.lossOfLock 9 true) = false := by decide
theorem test_ill_formed_lane_window : Instr.wf (.laneErrorWindow 9 []) = false := by decide
theorem test_ill_formed_rejected_source : Instr.wf (.transactionRejected (.dataRead 0 16)) = false := by decide
theorem test_ill_formed_rejected_record : Instr.wf (.transactionRejected (.record 0x80000)) = false := by decide
theorem test_ill_formed_rejected_message : Instr.wf (.transactionRejected (.hostMessage 0)) = false := by decide
theorem test_ill_formed_rejected_core : Instr.wf (.transactionRejected (.cobAccess 4 true)) = false := by decide
theorem test_ill_formed_rejected_fold : Instr.wf (.transactionRejected (.foldWrite ⟨0, 0, 16, 0, false, false, [], false, 0⟩)) = false := by decide
theorem test_ill_formed_write_error : Instr.wf (.memWriteError (.dataRead 68 0)) = false := by decide
theorem test_ill_formed_address_error : Instr.wf (.mempAddressError (.dataRead 68 0)) = false := by decide
theorem test_ill_formed_merge_empty : Instr.wf (.merge 0 []) = false := by decide
theorem test_ill_formed_merge_whole : Instr.wf (.merge 0 (List.replicate 8 0)) = false := by decide
theorem test_ill_formed_merge_across : Instr.wf (.merge 7 [0, 0]) = false := by decide
theorem test_ill_formed_write_outside : Instr.wf (.registerWrite .hostp0 0x100000 4 [0, 0, 0, 0] true) = false := by decide
theorem test_ill_formed_write_length : Instr.wf (.registerWrite .hostp0 0 4 [0] true) = false := by decide
theorem test_ill_formed_read_empty : Instr.wf (.registerRead .hostp0 0 0) = false := by decide
theorem test_ill_formed_interval_ring : Instr.wf (.ciRecordInterval true 0x40000) = false := by decide
theorem test_ill_formed_interval_queue : Instr.wf (.ciRecordInterval false 0x200000) = false := by decide
theorem test_ill_formed_parity_unit : Instr.wf (.controlStateParityError true 17) = false := by decide
theorem test_ill_formed_parity_engine : Instr.wf (.controlStateParityError false 68) = false := by decide
/-- One command of each shape that does arrive. -/
theorem test_well_formed : (Instr.wf (.piAndRing 0 1 16 0 true) && Instr.wf (.engineBind 67) && Instr.wf (.resetDeassert bootB)
    && Instr.wf (.registerWrite .cob3 0xFFFF8 8 (List.replicate 8 0) true) && Instr.wf (.merge 6 [0, 0])) = true := by decide

end Sys2Proof.Tests
end

section
/-!
PROOFS. Frames as one statement: what a frame law of every projection says of the parts of the state.
-/
namespace Sys2Proof.Machine

theorem Part.mem_but {x y : Part} (h : y ≠ x) : y ∈ Part.but [x] := by
  have all : y ∈ Part.all := by cases y <;> decide
  exact List.mem_filter.mpr ⟨all, by simp [h]⟩

/-- Two states that agree under every projection blind to the parts of `l` differ in those parts only. -/
theorem onlyChanges_of_same {l : List Part} {s t : State} (h : ∀ {β : Type} (π : State → β), Blind π l → Same π t s) :
    onlyChanges l s t := by
  intro x hx
  have sub : ∀ y ∈ l, y ∈ Part.but [x] := fun y hy => Part.mem_but (fun e => hx (e ▸ hy))
  cases x with
  | pending => exact h _ (Blind.pending.sub sub)
  | regs => exact h _ (Blind.regs.sub sub)
  | q => exact h _ (Blind.q.sub sub)
  | cq => exact h _ (Blind.cq.sub sub)
  | ctr => exact h _ (Blind.ctr.sub sub)
  | mr => exact h _ (Blind.mr.sub sub)
  | pd => exact h _ (Blind.pd.sub sub)
  | fl => exact h _ (Blind.fl.sub sub)
  | park => exact h _ (Blind.park.sub sub)
  | cqs => exact h _ (Blind.cqs.sub sub)
  | cache => exact h _ (Blind.cache.sub sub)
  | ic => exact h _ (Blind.ic.sub sub)
  | arb => exact h _ (Blind.arb.sub sub)
  | lines => exact h _ (Blind.lines.sub sub)
  | tb => exact h _ (Blind.tb.sub sub)
  | trace => exact h _ (Blind.trace.sub sub)
  | adm => exact h _ (Blind.adm.sub sub)
  | pat => exact h _ (Blind.pat.sub sub)
  | pair => exact h _ (Blind.pair.sub sub)
  | lace => exact h _ (Blind.lace.sub sub)
  | err => exact h _ (Blind.err.sub sub)
  | spr => exact h _ (Blind.spr.sub sub)
  | pins => exact h _ (Blind.pins.sub sub)
  | mem => exact h _ (Blind.mem.sub sub)
  | memSize => exact h _ (Blind.memSize.sub sub)
  | out => exact h _ (Blind.out.sub sub)
  | lastRead => exact h _ (Blind.lastRead.sub sub)
  | free => exact h _ (Blind.free.sub sub)

theorem onlyChanges.trans {l : List Part} {s t u : State} (h : onlyChanges l s t) (k : onlyChanges l t u) :
    onlyChanges l s u := by
  intro x hx
  have a := h x hx
  have b := k x hx
  cases x <;> exact Eq.trans b a

theorem onlyChanges.mono {l m : List Part} {s t : State} (h : onlyChanges l s t) (k : ∀ x ∈ l, x ∈ m) : onlyChanges m s t :=
  fun x hx => h x (fun hl => hx (k x hl))

theorem onlyChanges_withCache (s : State) (v : Cache) : onlyChanges [.cache] s (s.withCache v) :=
  onlyChanges_of_same (fun _ hb => State.withCache_same hb s v)
theorem onlyChanges_withLastRead (s : State) (v : List W64) : onlyChanges [.lastRead] s (s.withLastRead v) :=
  onlyChanges_of_same (fun _ hb => State.withLastRead_same hb s v)

end Sys2Proof.Machine
end

section
/-!
PROOFS. The fields of a register word: they lie apart, and what a run of field writes to one register leaves.
-/
namespace Sys2Proof.Machine

/-- Two fields of one register share no bit. -/
def FDef.apart (d e : FDef) : Prop := d.lo + d.w ≤ e.lo ∨ e.lo + e.w ≤ d.lo

theorem Reg.fields_inWord (r : Reg) : ∀ d ∈ r.fields, d.lo + d.w ≤ 64 ∧ 0 < d.w := by
  cases r <;> decide

theorem Reg.fields_apart (r : Reg) : ∀ d ∈ r.fields, ∀ e ∈ r.fields, e ≠ d → d.apart e := by
  unfold FDef.apart
  cases r <;> decide

/-- A run of operations none of which changes the word at `o` leaves it as it was. -/
theorem State.foldl_reg {α : Type} (l : List α) (g : State → α → State) (o : Nat) (s : State)
    (h : ∀ s, ∀ a ∈ l, (g s a).reg o = s.reg o) : (l.foldl g s).reg o = s.reg o := by
  induction l generalizing s with
  | nil => rfl
  | cons a l ih =>
    rw [List.foldl_cons, ih _ (fun s b hb => h s b (List.mem_cons_of_mem _ hb))]
    exact h s a (by simp)

/-- Write to each field of `l` that `c` takes its value under `v`: the run of writes that a read's clearing and a plain write
of one register are. -/
def State.putFields (s : State) (o : Nat) (c : FDef → Bool) (v : FDef → Nat) (l : List FDef) : State :=
  l.foldl (fun s d => if c d = true then s.setF ⟨o, d.lo, d.w⟩ (v d) else s) s

theorem State.setFields_eq (s : State) (r : Reg) (o : Nat) (l : List FDef) (w : Nat) :
    s.setFields r o l w = s.putFields o (fun d => valueOk r d.lo (bits w d.lo d.w)) (fun d => bits w d.lo d.w) l := rfl

theorem State.clearRc_eq (s : State) (r : Reg) (o a k : Nat) :
    s.clearRc r o a k = s.putFields o (fun _ => true) (fun _ => 0)
      (r.fields.filter (fun d => decide (d.acc = .rc) && touches d.lo d.w a k)) := rfl

theorem State.putFields_onlyChanges (s : State) (o : Nat) (c : FDef → Bool) (v : FDef → Nat) (l : List FDef) :
    onlyChanges [.regs] s (s.putFields o c v l) :=
  onlyChanges_of_same (fun _ hb => Same.foldl _ _ _ (fun s _ => Same.ite (State.setF_same hb s _ _) (Same.refl s)))

theorem State.putFields_keepsRegs (s : State) (o : Nat) (c : FDef → Bool) (v : FDef → Nat) (l : List FDef) :
    keepsRegs (fun x => x = o) s (s.putFields o c v l) := by
  exact fun x hx => State.foldl_reg _ _ _ s (fun s d _ => by split; exacts [State.reg_setF_ne _ _ _ _ hx, rfl])

/-- A field that lies apart from the others of the run is written if it is in the run and taken, and else left alone. -/
theorem State.f_putFields (s : State) (o : Nat) (c : FDef → Bool) (v : FDef → Nat) (l : List FDef) (d : FDef)
    (hd : d.lo + d.w ≤ 64) (hl : ∀ e ∈ l, e ≠ d → d.apart e) :
    (s.putFields o c v l).f ⟨o, d.lo, d.w⟩ = if d ∈ l ∧ c d = true then v d % 2 ^ d.w else s.f ⟨o, d.lo, d.w⟩ := by
  unfold State.putFields
  induction l generalizing s with
  | nil => simp
  | cons e l ih =>
    rw [List.foldl_cons, ih _ (fun x hx => hl x (List.mem_cons_of_mem _ hx))]
    by_cases hed : e = d
    · subst hed
      by_cases hc : c e = true
      · rw [if_pos hc, State.f_setF_self s ⟨o, e.lo, e.w⟩ (v e) hd]
        simp [hc]
      · simp [hc]
    · have keep : (if c e = true then s.setF ⟨o, e.lo, e.w⟩ (v e) else s).f ⟨o, d.lo, d.w⟩ = s.f ⟨o, d.lo, d.w⟩ := by
        split
        · exact State.f_setF_ne s ⟨o, e.lo, e.w⟩ ⟨o, d.lo, d.w⟩ (v e) hd (.inr (hl e (by simp) hed))
        · rfl
      rw [keep]
      simp [Ne.symm hed]

end Sys2Proof.Machine
end

section
/-!
PROOFS. Bad accesses: what counting one leaves in IZ_BAD_ACCESS.
-/
namespace Sys2Proof.Machine

theorem agentNo_lt (a : Agent) : agentNo a < 8 := by cases a <;> decide

theorem State.badAccess_onlyChanges (s : State) (a : Agent) (ofs cause : Nat) :
    onlyChanges [.regs] s (s.badAccess a ofs cause) :=
  onlyChanges_of_same (fun _ hb => (State.setF_same hb _ _ _).trans ((State.setF_same hb _ _ _).trans
    ((State.setF_same hb _ _ _).trans (State.cnt_same hb s _))))

/-- A bad access is counted with its offset, cause and agent. -/
theorem State.badAccess_counted (s : State) (a : Agent) (ofs cause : Nat) (ho : ofs < 0x100000) (hc : cause < 4) :
    s.badCounted a ofs cause (s.badAccess a ofs cause) := by
  have fits : ∀ d ∈ [IZ_BAD_ACCESS_count, IZ_BAD_ACCESS_last_ofs, IZ_BAD_ACCESS_last_cause, IZ_BAD_ACCESS_last_agent],
      d.lo + d.w ≤ 64 := by decide
  simp only [List.mem_cons, List.not_mem_nil, or_false, forall_eq_or_imp, forall_eq] at fits
  obtain ⟨f1, f2, f3, f4⟩ := fits
  have ne := fun (t : State) (d d' : Fld) (n : Nat) (h : d'.lo + d'.w ≤ 64) (k : d'.lo + d'.w ≤ d.lo) =>
    t.f_setF_ne d d' n h (.inr (.inl k))
  unfold State.badAccess
  refine ⟨?_, ?_, ?_, ?_, fun o h => ?_⟩
  · rw [ne _ _ _ _ f1 (by decide), ne _ _ _ _ f1 (by decide), ne _ _ _ _ f1 (by decide), State.f_cnt_self _ _ f1]
  · rw [ne _ _ _ _ f2 (by decide), ne _ _ _ _ f2 (by decide), State.f_setF_self _ _ _ f2]
    exact Nat.mod_eq_of_lt ho
  · rw [ne _ _ _ _ f3 (by decide), State.f_setF_self _ _ _ f3]
    exact Nat.mod_eq_of_lt hc
  · rw [State.f_setF_self _ _ _ f4]
    exact Nat.mod_eq_of_lt (agentNo_lt a)
  · rw [State.reg_setF_ne _ _ _ _ h, State.reg_setF_ne _ _ _ _ h, State.reg_setF_ne _ _ _ _ h]
    exact State.reg_setF_ne _ _ _ _ h

/-- Whether an access is counted shows in the register words alone. -/
theorem State.badCounted_of_regs {s s' t t' : State} {a : Agent} {ofs cause : Nat} (hs : s'.regs = s.regs) (ht : t'.regs = t.regs)
    (h : s.badCounted a ofs cause t) : s'.badCounted a ofs cause t' := by
  unfold State.badCounted keepsRegs State.f State.reg at *
  rw [hs, ht]
  exact h

end Sys2Proof.Machine
end

section
/-!
PROOFS. Register accesses of a legal form: the access that takes effect, the one that waits, and the one word that an 8-byte
access moves.
-/
namespace Sys2Proof.Machine

theorem regAt_aligned {ofs : Nat} {x : Reg × Nat × Nat} (h : regAt ofs = some x) : ofs % 8 = 0 := by
  unfold regAt at h
  split at h
  · assumption
  · cases h

theorem accesses_word {ofs : Nat} (h : ofs % 8 = 0) : accesses ofs 8 = [(ofs, 8)] := by
  unfold accesses
  rw [if_pos ⟨.inr rfl, h⟩]

theorem guarded_true {b : Bool} (h : b = true) (s t : State) : guarded b s t = .next t := by
  rw [h]; rfl

/-- A register access of an agent none of whose reads waits takes effect. -/
theorem exec_registerRead {a : Agent} {ofs : Nat} (size : Nat) {s : State} (hs : s.served = true) (ho : ofs < 0x100000)
    (hw : s.agentWaits a = false) : exec (.registerRead a ofs size) s = .next (s.readNow a ofs size true) :=
  (guarded_true (by simp [hs, ho]) _ _).trans (by rw [if_neg (by simp [hw])])

theorem exec_registerWrite {a : Agent} {ofs : Nat} (size : Nat) (data : List Byte) (ok : Bool) {s : State} (hs : s.served = true)
    (ho : ofs < 0x100000) (hw : s.agentWaits a = false) :
    exec (.registerWrite a ofs size data ok) s = .next (s.writeNow a ofs size data ok) :=
  (guarded_true (by simp [hs, ho]) _ _).trans (by rw [if_neg (by simp [hw])])

/-- One behind a read that waits is held as it came. -/
theorem exec_registerRead_held {a : Agent} {ofs : Nat} (size : Nat) {s : State} (hs : s.served = true) (ho : ofs < 0x100000)
    (hw : s.agentWaits a = true) : exec (.registerRead a ofs size) s = .next (s.holdAccess (.registerRead a ofs size)) :=
  (guarded_true (by simp [hs, ho]) _ _).trans (by rw [if_pos hw])

theorem exec_registerWrite_held {a : Agent} {ofs : Nat} (size : Nat) (data : List Byte) (ok : Bool) {s : State}
    (hs : s.served = true) (ho : ofs < 0x100000) (hw : s.agentWaits a = true) :
    exec (.registerWrite a ofs size data ok) s = .next (s.holdAccess (.registerWrite a ofs size data ok)) :=
  (guarded_true (by simp [hs, ho]) _ _).trans (by rw [if_pos hw])

theorem State.holdAccess_onlyChanges (s : State) (c : Instr) : onlyChanges [.cache] s (s.holdAccess c) := onlyChanges_withCache s _

/-- An 8-byte read is one read of its word: no part of it is left to wait. -/
theorem State.readNow_word (s : State) (a : Agent) {ofs : Nat} (h : ofs % 8 = 0) :
    s.readNow a ofs 8 true = s.beginRead.readOne a ofs 8 := by
  unfold State.readNow
  rw [accesses_word h]
  show State.readParts a [(ofs, 8)] s.beginRead = _
  simp only [State.readParts, List.map_nil, List.nil_append, ite_eq_right_iff]
  exact fun _ => rfl

theorem State.readNow_misformed (s : State) (a : Agent) {ofs size : Nat} (h : accesses ofs size = []) :
    s.readNow a ofs size true = (s.beginRead.badAccess a ofs 1).ret 0 := by
  unfold State.readNow
  rw [h]
  rfl

theorem State.writeNow_word (s : State) (a : Agent) {ofs : Nat} {data : List Byte} (h : ofs % 8 = 0) (hd : data.length = 8) :
    s.writeNow a ofs 8 data true = s.writeOne a ofs 8 (leNat data) := by
  unfold State.writeNow
  rw [accesses_word h]
  simp [← hd]

theorem State.writeNow_misformed (s : State) (a : Agent) {ofs size : Nat} (data : List Byte) (h : accesses ofs size = []) :
    s.writeNow a ofs size data true = s.badAccess a ofs 1 := by
  unfold State.writeNow
  rw [h]
  rfl

/-- A write with a bad beat from a host port is discarded, counted and reported (R440). -/
theorem State.writeNow_parity (s : State) {a : Agent} {p : Nat} (ofs size : Nat) (data : List Byte) (h : portOf a = some p) :
    s.writeNow a ofs size data false = (s.cnt (IZ_HOSTP_STAT_parity_in p)).raise 40 := by
  unfold State.writeNow
  simp [h]

theorem word_offset {ofs : Nat} (h : ofs % 8 = 0) : ofs / 8 * 8 = ofs := by omega

theorem bits_word (w : W64) : BitVec.ofNat 64 (bits w.toNat 0 64) = w := by
  unfold bits
  rw [pow_zero, Nat.div_one]
  rw [Nat.mod_eq_of_lt w.isLt, BitVec.ofNat_toNat, BitVec.setWidth_eq]

/-- The registers whose read is a command of its own. -/
def ownRead : List Reg := [.icClaim, .izTrigVal, .izTrigInfo, .errLogRd]

/-- A read of a whole word of any other register clears its RC fields and returns what the register shows. -/
theorem State.readOne_word (s : State) (a : Agent) {ofs i j : Nat} {r : Reg} (h : regAt ofs = some (r, i, j)) (hr : r ∉ ownRead) :
    s.readOne a ofs 8 = (s.clearRc r ofs 0 64).ret (s.view r i j ofs) := by
  have h8 := regAt_aligned h
  unfold State.readOne
  simp only [word_offset h8, h, h8, Nat.mul_zero]
  split
  · exact absurd (by decide) hr
  · exact absurd (by decide) hr
  · exact absurd (by decide) hr
  · exact absurd (by decide) hr
  · rw [bits_word]

theorem State.readOne_icClaim (s : State) (a : Agent) {g : Nat} (h : g < 8) : s.readOne a (IC_CLAIM g) 8 = s.claim g := by
  have hat : regAt (IC_CLAIM g) = some (.icClaim, g, 0) := by interval_cases g <;> decide
  have h8 := regAt_aligned hat
  unfold State.readOne
  simp [word_offset h8, hat, h8]

theorem State.readOne_errLogRd (s : State) (a : Agent) (w : Fin 4) :
    s.readOne a (ERR_LOG_RD w.val) 8 = s.readErrWord (some a) w.val 0 64 := by
  have hat : regAt (ERR_LOG_RD w.val) = some (.errLogRd, w.val, 0) := by revert w; decide
  have h8 := regAt_aligned hat
  unfold State.readOne
  simp [word_offset h8, hat, h8]

/-- What a register shows does not depend on what the read before it returned. -/
theorem State.view_beginRead (s : State) (r : Reg) (i j o : Nat) : s.beginRead.view r i j o = s.view r i j o := by
  cases r <;> rfl

theorem State.clearRc_onlyChanges (s : State) (r : Reg) (o a k : Nat) : onlyChanges [.regs] s (s.clearRc r o a k) := by
  rw [State.clearRc_eq]
  exact State.putFields_onlyChanges _ _ _ _ _

theorem State.clearRc_keepsRegs (s : State) (r : Reg) (o a k : Nat) : keepsRegs (fun x => x = o) s (s.clearRc r o a k) := by
  rw [State.clearRc_eq]
  exact State.putFields_keepsRegs _ _ _ _ _

/-- A read of a whole word clears every RC field of its register. -/
theorem State.f_clearRc (s : State) (r : Reg) (o : Nat) {d : FDef} (hd : d ∈ r.fields) (hrc : d.acc = .rc) :
    (s.clearRc r o 0 64).f ⟨o, d.lo, d.w⟩ = 0 := by
  obtain ⟨hw, h0⟩ := r.fields_inWord d hd
  have hm : d ∈ r.fields.filter (fun d => decide (d.acc = .rc) && touches d.lo d.w 0 64) := by
    simp only [List.mem_filter, hd, hrc, touches, Bool.and_eq_true, decide_eq_true_eq, true_and]
    omega
  rw [State.clearRc_eq, State.f_putFields _ _ _ _ _ _ hw
    (fun e he => r.fields_apart d hd e (List.mem_of_mem_filter he))]
  simp [hm]

/-- A register without RC fields keeps its word when it is read. -/
theorem State.clearRc_none (s : State) {r : Reg} (o : Nat) (h : ∀ d ∈ r.fields, d.acc ≠ .rc) : s.clearRc r o 0 64 = s := by
  have e : r.fields.filter (fun d => decide (d.acc = .rc) && touches d.lo d.w 0 64) = [] := by
    simp only [List.filter_eq_nil_iff, Bool.and_eq_true, decide_eq_true_eq]
    exact fun d hd k => h d hd k.1
  rw [State.clearRc_eq, e]
  rfl

end Sys2Proof.Machine
end

section
/-!
PROOFS. Register writes of a whole word: the reserved, the closed and the plain register.
-/
namespace Sys2Proof.Machine

theorem State.writeOne_reserved (s : State) (a : Agent) {ofs : Nat} (size v : Nat) (h8 : ofs % 8 = 0) (h : regAt ofs = none) :
    s.writeOne a ofs size v = s.badAccess a ofs 0 := by
  unfold State.writeOne
  simp only [word_offset h8, h]

theorem State.writeOne_closed (s : State) {a : Agent} {ofs i j : Nat} {r : Reg} (size v : Nat) (h : regAt ofs = some (r, i, j))
    (hc : closedTo r i a = true) : s.writeOne a ofs size v = s.badAccess a ofs 2 := by
  unfold State.writeOne
  simp only [word_offset (regAt_aligned h), h, hc, if_true]

/-- A write of a whole word is one write of its register, with or without a WO field. -/
theorem State.writeOne_word (s : State) {a : Agent} {ofs i j : Nat} {r : Reg} (v : Nat) (h : regAt ofs = some (r, i, j))
    (hc : closedTo r i a = false) : s.writeOne a ofs 8 v = s.writeReg r i j ofs 0 64 (BitVec.ofNat 64 v) := by
  have h8 := regAt_aligned h
  unfold State.writeOne
  simp [word_offset h8, h, hc, h8]

theorem plainRegs_open (i : Nat) (a : Agent) : ∀ r ∈ plainRegs, closedTo r i a = false := by
  simp [plainRegs, closedTo]

theorem State.writeReg_plain (s : State) (i j o lo n : Nat) (w : W64) :
    ∀ r ∈ plainRegs, s.writeReg r i j o lo n w = s.plainWrite r i j o lo n w.toNat := by
  simp [plainRegs, State.writeReg]

theorem plainRegs_ne_patWinBase {r : Reg} (h : r ∈ plainRegs) : r ≠ .patWinBase := by
  rintro rfl; exact absurd h (by decide)

theorem plainRegs_noW1c : ∀ r ∈ plainRegs, ∀ d ∈ r.fields, d.acc ≠ .w1c := by decide

/-- A field of a word that a write replaces whole takes the bits written. -/
theorem bits_putBits_word (v w lo n : Nat) (h : lo + n ≤ 64) : bits (putBits v 0 64 (bits w 0 64)) lo n = bits w lo n := by
  have low : ∀ u : Nat, bits u lo n = bits (bits u 0 64) lo n := by
    intro u
    rw [← bits_mod u lo n 64 h]
    unfold bits
    rw [pow_zero, Nat.div_one]
  rw [low, bits_putBits_self, low w]
  unfold bits
  rw [Nat.mod_mod]

/-- A write of a whole plain register writes its RW fields and nothing else (R5). -/
theorem State.plainWrite_word (s : State) {r : Reg} (h : r ∈ plainRegs) {i j : Nat} (hi : instanceOk r i j = true) (o w : Nat) :
    s.plainWrite r i j o 0 64 w
      = s.setFields r o (r.fields.filter (fun d => decide (d.acc = .rw))) (putBits (s.reg o).toNat 0 64 (bits w 0 64)) := by
  have mine : ∀ d ∈ r.fields, touches d.lo d.w 0 64 = true := by
    intro d hd
    have := r.fields_inWord d hd
    simp only [touches, Bool.and_eq_true, decide_eq_true_eq]
    omega
  have soft : r.fields.filter (fun d => (decide (d.acc = .rw) || (decide (d.acc = .rws) && decide (r = .patWinBase)))
      && touches d.lo d.w 0 64) = r.fields.filter (fun d => decide (d.acc = .rw)) :=
    List.filter_congr (fun d hd => by simp [mine d hd, plainRegs_ne_patWinBase h])
  have noClear : r.fields.filter (fun d => decide (d.acc = .w1c) && touches d.lo d.w 0 64) = [] := by
    simp only [List.filter_eq_nil_iff, Bool.and_eq_true, decide_eq_true_eq]
    exact fun d hd k => plainRegs_noW1c r h d hd k.1
  unfold State.plainWrite
  simp only [hi, if_true, soft, noClear, List.foldl_nil]

theorem State.plainWrite_keepsRegs (s : State) {r : Reg} (h : r ∈ plainRegs) {i j : Nat} (hi : instanceOk r i j = true)
    (o w : Nat) : keepsRegs (fun x => x = o) s (s.plainWrite r i j o 0 64 w) := by
  rw [State.plainWrite_word s h hi, State.setFields_eq]
  exact State.putFields_keepsRegs _ _ _ _ _

theorem State.plainWrite_onlyChanges (s : State) {r : Reg} (h : r ∈ plainRegs) {i j : Nat} (hi : instanceOk r i j = true)
    (o w : Nat) : onlyChanges [.regs] s (s.plainWrite r i j o 0 64 w) := by
  rw [State.plainWrite_word s h hi, State.setFields_eq]
  exact State.putFields_onlyChanges _ _ _ _ _

/-- An RW field takes the value written unless that is reserved; every other field keeps its own (R5, R9). -/
theorem State.f_plainWrite (s : State) {r : Reg} (h : r ∈ plainRegs) {i j : Nat} (hi : instanceOk r i j = true) (o w : Nat)
    {d : FDef} (hd : d ∈ r.fields) :
    (s.plainWrite r i j o 0 64 w).f ⟨o, d.lo, d.w⟩
      = if d.acc = .rw ∧ valueOk r d.lo (bits w d.lo d.w) = true then bits w d.lo d.w else s.f ⟨o, d.lo, d.w⟩ := by
  have hw := (r.fields_inWord d hd).1
  rw [State.plainWrite_word s h hi, State.setFields_eq,
    State.f_putFields _ _ _ _ _ _ hw (fun e he => r.fields_apart d hd e (List.mem_of_mem_filter he)),
    bits_putBits_word _ _ _ _ hw]
  have short : bits w d.lo d.w % 2 ^ d.w = bits w d.lo d.w := Nat.mod_mod _ _
  simp [List.mem_filter, hd, short]

/-- A write of IC_SET raises the source it names (R288). -/
theorem State.writeOne_icSet (s : State) (a : Agent) (v : Nat) : s.writeOne a IC_SET 8 v = s.raise (v % 2 ^ 10) := by
  have hat : regAt IC_SET = some (.icSet, 0, 0) := by decide
  rw [State.writeOne_word s v hat rfl]
  show s.raise (bits (BitVec.ofNat 64 v).toNat 0 10) = _
  rw [BitVec.toNat_ofNat, bits_mod _ _ _ _ (by decide)]
  unfold bits
  rw [pow_zero, Nat.div_one]

end Sys2Proof.Machine
end

section
/-!
PROOFS. A fatal error of a mover in RUN: the registers that its halt leaves alone, and what it sets.
-/
namespace Sys2Proof.Machine

/-- The register words that say which state an engine or a reduction unit is in. -/
abbrev unitReg (o : Nat) : Prop := (0x400 ≤ o ∧ o < 0x488) ∨ (0x1000 ≤ o ∧ o < 0x1220)
/-- The register words of the halt notice. -/
abbrev haltReg (o : Nat) : Prop := 0x900c0 ≤ o ∧ o < 0x900d8

theorem State.setRed_reg (s : State) (u st o : Nat) (h : o ≠ IZ_RED_STATE u) : (s.setRed u st).reg o = s.reg o := by
  unfold State.setRed
  rw [State.reg_setF_ne _ _ _ _ h]
  split <;> rfl

/-- Stopping the engines and reduction units changes no other register. -/
theorem State.stopUnits_reg (s : State) (o : Nat) (ho : ¬ unitReg o) : s.stopUnits.reg o = s.reg o := by
  unfold State.stopUnits
  dsimp only
  rw [State.foldl_reg (List.range 17), State.foldl_reg (List.range 68)]
  · rfl
  · intro t e he
    have ne : o ≠ IZ_ENG_STATE e := by
      have := List.mem_range.mp he
      rintro rfl; exact ho (by unfold unitReg IZ_ENG_STATE; omega)
    split
    · exact State.reg_setF_ne _ _ _ _ ne
    · rfl
  · intro t u hu
    have ne : o ≠ IZ_RED_STATE u := by
      have := List.mem_range.mp hu
      rintro rfl; exact ho (by unfold unitReg IZ_RED_STATE; omega)
    split
    · exact State.setRed_reg _ _ _ _ ne
    · rfl

/-- What a halt records first: source 45 and the words of the halt notice (R361, R363). -/
def State.haltNoted (s : State) (hc cause q : Nat) (idx : W32) : State :=
  let s := s.raise 45
  let s := (s.setF PAIR_HALT_halt_cause hc).setF PAIR_HALT_cause (if hc = 1 then cause else 0)
  let s := (s.setF PAIR_HALT_qid q).setF PAIR_HALT_IDX_index idx.toNat
  (s.setF PAIR_HALT_IDX_last_seq s.pair.lastSent.toNat).setReg PAIR_HALT_MT s.mt

theorem State.haltNoted_reg (s : State) (hc cause q : Nat) (idx : W32) (o : Nat) (hi : ¬ icReg o) (hh : ¬ haltReg o) :
    (s.haltNoted hc cause q idx).reg o = s.reg o := by
  have n1 : o ≠ PAIR_HALT := by rintro rfl; exact hh (by decide)
  have n2 : o ≠ PAIR_HALT_IDX := by rintro rfl; exact hh (by decide)
  have n3 : o ≠ PAIR_HALT_MT := by rintro rfl; exact hh (by decide)
  unfold State.haltNoted
  dsimp only
  rw [State.reg_setReg, if_neg n3, State.reg_setF_ne _ _ _ _ n2, State.reg_setF_ne _ _ _ _ n2, State.reg_setF_ne _ _ _ _ n1,
    State.reg_setF_ne _ _ _ _ n1, State.reg_setF_ne _ _ _ _ n1, State.raise_reg _ _ _ (by decide) hi]

theorem State.f_setReg_ne (s : State) (o : Nat) (v : W64) (d : Fld) (h : d.ofs ≠ o) : (s.setReg o v).f d = s.f d :=
  State.f_of_reg d (by rw [State.reg_setReg, if_neg h])

theorem State.f_haltNoted_cause (s : State) (hc cause q : Nat) (idx : W32) :
    (s.haltNoted hc cause q idx).f PAIR_HALT_halt_cause = hc % 2 ^ 8 := by
  have fits : PAIR_HALT_halt_cause.lo + PAIR_HALT_halt_cause.w ≤ 64 := by decide
  unfold State.haltNoted
  dsimp only
  rw [State.f_setReg_ne _ _ _ _ (by decide),
    State.f_setF_ne _ _ _ _ fits (.inl (by decide)), State.f_setF_ne _ _ _ _ fits (.inl (by decide)),
    State.f_setF_ne _ _ _ _ fits (.inr (by decide)), State.f_setF_ne _ _ _ _ fits (.inr (by decide)),
    State.f_setF_self _ _ _ fits]
  rfl

/-- The register words after a halt that begins: those of the notice, the stopped units and the phase. Its links to the rest of
the pair change none (R363). -/
theorem State.halt_regs (s : State) (hc cause q : Nat) (idx : W32) (h : s.halted = false) :
    (s.halt hc cause q idx).regs = ((s.haltNoted hc cause q idx).stopUnits.setF PAT_STAT_phase 8).regs := by
  unfold State.halt
  rw [if_neg (by simp [h])]
  exact State.sendNotice_same (Blind.regs.sub (by decide)) _

theorem State.halt_haltOut (s : State) (hc cause q : Nat) (idx : W32) (h : s.halted = false) :
    (s.halt hc cause q idx).pins.haltOut = true := by
  unfold State.halt
  rw [if_neg (by simp [h])]
  exact congrArg Pins.haltOut (State.sendNotice_same (Blind.pins.sub (by decide)) _)

theorem State.halt_reg (s : State) (hc cause q : Nat) (idx : W32) (h : s.halted = false) (o : Nat) (hi : ¬ icReg o)
    (hh : ¬ haltReg o) (hu : ¬ unitReg o) (hp : o ≠ PAT_STAT) : (s.halt hc cause q idx).reg o = s.reg o := by
  have e : (s.halt hc cause q idx).reg o = ((s.haltNoted hc cause q idx).stopUnits.setF PAT_STAT_phase 8).reg o := by
    unfold State.reg; rw [State.halt_regs s hc cause q idx h]
  rw [e, State.reg_setF_ne _ _ _ _ hp, State.stopUnits_reg _ _ hu, State.haltNoted_reg _ _ _ _ _ _ hi hh]

/-- A halt that begins leaves the mover HALTED with its cause. -/
theorem State.halt_halted (s : State) (hc cause q : Nat) (idx : W32) (h : s.halted = false) :
    (s.halt hc cause q idx).halted = true := by
  unfold State.halted State.phase
  rw [State.f_of_regs (State.halt_regs s hc cause q idx h), State.f_setF_self _ _ _ (by decide)]
  rfl

theorem State.f_halt_cause (s : State) (hc cause q : Nat) (idx : W32) (h : s.halted = false) :
    (s.halt hc cause q idx).f PAIR_HALT_halt_cause = hc % 2 ^ 8 := by
  rw [State.f_of_regs (State.halt_regs s hc cause q idx h), State.f_setF_ne _ _ _ _ (by decide) (.inl (by decide)),
    State.f_of_reg _ (State.stopUnits_reg _ _ (by decide)), State.f_haltNoted_cause]

/-- In RUN a fatal error is logged and halts the mover with cause FATAL (R417). -/
theorem State.fatal_run (s : State) (code item a b : Nat) (hr : s.run = true) (hh : s.pair.hard = false) :
    s.fatal code item a b = (s.log 0x30 5 item code a b).halt 4 code 0 0 ∧ (s.log 0x30 5 item code a b).halted = false := by
  have seven : s.f PAT_STAT_phase = 7 := of_decide_eq_true hr
  have up : s.halted = false := by unfold State.halted State.phase; rw [seven]; rfl
  have logged : (s.log 0x30 5 item code a b).halted = false := by
    unfold State.halted State.phase
    rw [State.f_of_reg _ (State.log_reg _ _ _ _ _ _ _ _ (by decide) (by decide)), seven]
    rfl
  unfold State.fatal
  simp [hh, up, logged]

/-- What a fatal error in RUN leaves: a HALTED mover with cause FATAL and its ball asserted (R363, R417). -/
theorem State.fatal_halts (s : State) (code item a b : Nat) (hr : s.run = true) (hh : s.pair.hard = false) :
    (s.fatal code item a b).halted = true ∧ (s.fatal code item a b).f PAIR_HALT_halt_cause = 4
      ∧ (s.fatal code item a b).pins.haltOut = true := by
  obtain ⟨e, up⟩ := s.fatal_run code item a b hr hh
  rw [e]
  exact ⟨State.halt_halted _ _ _ _ _ up, State.f_halt_cause _ _ _ _ _ up, State.halt_haltOut _ _ _ _ _ up⟩

/-- A fatal error in RUN changes no register outside the error log, the interrupt controller, the units' states, the halt notice and
the phase. -/
theorem State.fatal_reg (s : State) (code item a b : Nat) (hr : s.run = true) (hh : s.pair.hard = false) (o : Nat)
    (he : ¬ errReg o) (hi : ¬ icReg o) (hn : ¬ haltReg o) (hu : ¬ unitReg o) (hp : o ≠ PAT_STAT) :
    (s.fatal code item a b).reg o = s.reg o := by
  obtain ⟨e, up⟩ := s.fatal_run code item a b hr hh
  rw [e, State.halt_reg _ _ _ _ _ up _ hi hn hu hp, State.log_reg _ _ _ _ _ _ _ _ (by decide) he]

theorem State.fatal_onlyChanges (s : State) (code item a b : Nat) :
    onlyChanges [.regs, .cache, .ic, .arb, .lines, .adm, .pair, .lace, .err, .spr, .pins, .out, .lastRead] s (s.fatal code item a b) :=
  onlyChanges_of_same (fun _ hb => State.fatal_same hb s code item a b)

end Sys2Proof.Machine
end

section
/-!
PROOFS. Accesses that a port turns away have the effect of the command that reports them (R439, R450, R489).
-/
namespace Sys2Proof.Machine

/-- A step that answers a next state is the step to the state it leaves. -/
theorem State.next_after (s : State) {r : Res} (h : ∃ t, r = .next t) : (.next (s.after r) : Res) = r := by
  obtain ⟨t, rfl⟩ := h
  rfl

theorem execDataReadDone_next (e k : Nat) (ans : ReadAns) (s : State) : ∃ t, execDataReadDone e k ans s = .next t := by
  unfold execDataReadDone
  split
  · exact ⟨_, rfl⟩
  · split <;> exact ⟨_, rfl⟩

theorem execEntryFetchDone_next (q : BitVec 22) (ans : ReadAns) (s : State) : ∃ t, execEntryFetchDone q ans s = .next t := by
  unfold execEntryFetchDone
  dsimp only
  split
  · split <;> exact ⟨_, rfl⟩
  · split <;> exact ⟨_, rfl⟩

theorem State.portReject_host (s : State) (p : Nat) : s.portReject 0 p = s.cnt (IZ_HOSTP_STAT_xlat p) := if_pos rfl
theorem State.portReject_package (s : State) (p : Nat) : s.portReject 1 p = s.cnt IZ_MEMP_STAT_addr_err := if_neg (by decide)

theorem spaceOf_eq_iff (d b : Bool) : spaceOf d = spaceOf b ↔ (d = true ↔ b = true) := by
  cases d <;> cases b <;> decide

/-- A ring whose host port rejects its record breaks (R141, R439). -/
theorem exec_record_rejected (c : Nat) (s : State) :
    exec (.transactionRejected (.record c)) s = exec (.ringBroken c false) s := by
  show Host.Outcome.next (s.lostRecord c 0 (fun s => s.portReject 0 (b2n (s.cctx c).hostpSel))) = execRingBroken c false s
  have side : spaceOf (s.cctx c).device = 0 ↔ ((s.cctx c).device = true ↔ false = true) := spaceOf_eq_iff _ false
  unfold State.lostRecord execRingBroken
  simp only [side, State.portReject_host, apply_ite Host.Outcome.next]
  rfl

/-- A ring whose record in-package memory fails to store breaks (R141, R489). -/
theorem exec_record_writeError (c : Nat) (s : State) :
    exec (.memWriteError (.record c)) s = exec (.ringBroken c true) s := by
  show Host.Outcome.next (s.lostRecord c 1 (fun s => s)) = execRingBroken c true s
  have side : spaceOf (s.cctx c).device = 1 ↔ ((s.cctx c).device = true ↔ true = true) := spaceOf_eq_iff _ true
  unfold State.lostRecord execRingBroken
  simp only [side, apply_ite Host.Outcome.next]
  rfl

theorem exec_dataRead_rejected {e k : Nat} {s : State} (h : s.burstIn e k 0 = true) :
    exec (.transactionRejected (.dataRead e k)) s = exec (.dataReadDone e k .rejected) s :=
  (congrArg Host.Outcome.next (if_pos h)).trans (s.next_after (execDataReadDone_next e k .rejected s))

theorem exec_dataRead_outside {e k : Nat} {s : State} (h : s.burstIn e k 1 = true) :
    exec (.mempAddressError (.dataRead e k)) s = exec (.dataReadDone e k .rejected) s :=
  (congrArg Host.Outcome.next (if_pos h)).trans (s.next_after (execDataReadDone_next e k .rejected s))

theorem exec_entryFetch_rejected {q : BitVec 22} {s : State} (h : (s.qctx q.toNat).device = false) :
    exec (.transactionRejected (.entryFetch q)) s = exec (.entryFetchDone q .rejected) s :=
  (congrArg Host.Outcome.next (if_neg (by simp [h]))).trans (s.next_after (execEntryFetchDone_next q .rejected s))

theorem exec_entryFetch_outside {q : BitVec 22} {s : State} (h : (s.qctx q.toNat).device = true) :
    exec (.mempAddressError (.entryFetch q)) s = exec (.entryFetchDone q .rejected) s :=
  (congrArg Host.Outcome.next (if_pos h)).trans (s.next_after (execEntryFetchDone_next q .rejected s))

/-- A core whose access is rejected gets its error, and its port counts it. -/
theorem exec_cobAccess_rejected (c : Nat) (p : Bool) {s : State} (hs : s.served = true) :
    exec (.transactionRejected (.cobAccess c p)) s = .next ((s.cnt (IZ_HOSTP_STAT_xlat (b2n p))).emit (.cobError (some c))) := by
  show guarded s.served s ((s.portReject 0 (b2n p)).emit (.cobError (some c))) = _
  rw [hs, State.portReject_host]
  rfl

theorem State.run_phase {s : State} (h : s.run = true) : 7 ≤ s.phase := (of_decide_eq_true h).ge

/-- A write to a reserved area that in-package memory fails to store is a fatal error (R417). -/
theorem exec_reserved_writeError (o : Nat) {s : State} (h : s.run = true) :
    exec (.memWriteError (.reserved o)) s = .next (s.fatal 0x03 0 0 o) := by
  show Host.Outcome.next (s.lostReserved o (fun s => s)) = _
  unfold State.lostReserved
  rw [if_pos (State.run_phase h)]

/-- An access to a reserved area outside in-package memory is counted and a fatal error (R417, R450). -/
theorem exec_reserved_outside (o : Nat) {s : State} (h : s.run = true) :
    exec (.mempAddressError (.reserved o)) s = .next ((s.cnt IZ_MEMP_STAT_addr_err).fatal 0x03 0 0 o) := by
  show Host.Outcome.next (s.lostReserved o (fun s => s.portReject 1 0)) = _
  unfold State.lostReserved
  rw [if_pos (State.run_phase h)]
  simp only [State.portReject_package]

end Sys2Proof.Machine
end

section
/-!
PROOFS. The claim on register accesses and rejections, part by part.
-/
namespace Sys2Proof.Machine

/-- A read of a word returns what the register shows and clears its RC fields (R473, R474). -/
theorem registerRead_word {a : Agent} {ofs i j : Nat} {r : Reg} {s : State} (hs : s.served = true) (ho : ofs < 0x100000)
    (hw : s.agentWaits a = false) (h : regAt ofs = some (r, i, j)) (hr : r ∉ ownRead) :
    ∃ t, exec (.registerRead a ofs 8) s = .next t ∧ t.lastRead = [s.view r i j ofs]
      ∧ (∀ d ∈ r.fields, d.acc = .rc → t.f ⟨ofs, d.lo, d.w⟩ = 0) ∧ keepsRegs (fun o => o = ofs) s t
      ∧ onlyChanges [.regs, .lastRead] s t ∧ ((∀ d ∈ r.fields, d.acc ≠ .rc) → t.regs = s.regs) := by
  have cleared := s.beginRead.clearRc_onlyChanges r ofs 0 64
  refine ⟨(s.beginRead.clearRc r ofs 0 64).ret (s.view r i j ofs), ?_, ?_, ?_, ?_, ?_, ?_⟩
  · rw [exec_registerRead 8 hs ho hw, State.readNow_word s a (regAt_aligned h), State.readOne_word _ a h hr, State.view_beginRead]
  · have e : (s.beginRead.clearRc r ofs 0 64).lastRead = [] := cleared .lastRead (by decide)
    show (s.beginRead.clearRc r ofs 0 64).lastRead ++ [s.view r i j ofs] = _
    rw [e]; rfl
  · exact fun d hd hrc => State.f_clearRc s.beginRead r ofs hd hrc
  · exact s.beginRead.clearRc_keepsRegs r ofs 0 64
  · refine ((onlyChanges_withLastRead s []).mono (by decide)).trans ((cleared.mono (by decide)).trans ?_)
    exact (onlyChanges_withLastRead _ _).mono (by decide)
  · intro hn
    rw [State.clearRc_none _ ofs hn]
    rfl

/-- An access behind a read that waits is held as it came (R475). -/
theorem registerAccess_held {a : Agent} {ofs : Nat} (size : Nat) {s : State} (hs : s.served = true) (ho : ofs < 0x100000)
    (hw : s.agentWaits a = true) :
    (∃ t, exec (.registerRead a ofs size) s = .next t
        ∧ t.cache = { s.cache with accs := s.cache.accs ++ [{ c := .registerRead a ofs size, first := true }] } ∧ onlyChanges [.cache] s t)
      ∧ (∀ data ok, ∃ t, exec (.registerWrite a ofs size data ok) s = .next t ∧ onlyChanges [.cache] s t
          ∧ t.cache = { s.cache with accs := s.cache.accs ++ [{ c := .registerWrite a ofs size data ok, first := true }] }) :=
  ⟨⟨_, exec_registerRead_held size hs ho hw, rfl, State.holdAccess_onlyChanges s _⟩,
    fun data ok => ⟨_, exec_registerWrite_held size data ok hs ho hw, State.holdAccess_onlyChanges s _, rfl⟩⟩

theorem errLogRd_inRegion (w : Fin 4) : ERR_LOG_RD w.val < 0x100000 := by revert w; decide
theorem errLogRd_aligned (w : Fin 4) : ERR_LOG_RD w.val % 8 = 0 := by revert w; decide

/-- A read of ERR_LOG_RD reads the log word for its agent (R414). -/
theorem registerRead_errLogRd {a : Agent} {s : State} (hs : s.served = true) (hw : s.agentWaits a = false) (w : Fin 4) :
    exec (.registerRead a (ERR_LOG_RD w.val) 8) s = .next (s.beginRead.readErrWord (some a) w.val 0 64) := by
  rw [exec_registerRead 8 hs (errLogRd_inRegion w) hw, State.readNow_word s a (errLogRd_aligned w), State.readOne_errLogRd]

/-- A log word that is answered at once is answered to any agent alike. -/
theorem State.readErrWord_answered {s : State} (h : s.pair.hard = true ∨ (s.elogOpen = true ∧ s.err.reads = []))
    (a b : Option Agent) (w lo n : Nat) : s.readErrWord a w lo n = s.readErrWord b w lo n := by
  unfold State.readErrWord
  rcases h with h | ⟨h, k⟩
  · rw [if_pos h, if_pos h]
  · simp [h, k]

/-- One that is not waits for ELOG (R273, R414). -/
theorem State.readErrWord_waits {s : State} (hh : s.pair.hard = false) (h : s.elogOpen = false ∨ s.err.reads ≠ [])
    (a : Option Agent) (w lo n : Nat) :
    s.readErrWord a w lo n = s.withErr { s.err with reads := s.err.reads ++ [(a, w, lo, n)] } := by
  unfold State.readErrWord
  rcases h with h | h <;> simp [hh, h]

/-- A read of ERR_LOG_RD or IC_CLAIM is that command (R295, R414). -/
theorem registerRead_ownRead {a : Agent} {s : State} (hs : s.served = true) (hw : s.agentWaits a = false) :
    ((s.pair.hard = true ∨ (s.elogOpen = true ∧ s.err.reads = [])) →
        ∀ w : Fin 4, exec (.registerRead a (ERR_LOG_RD w.val) 8) s = exec (.errLogRead w) s)
      ∧ (s.pair.hard = false → (s.elogOpen = false ∨ s.err.reads ≠ []) →
        ∀ w : Fin 4, ∃ t, exec (.registerRead a (ERR_LOG_RD w.val) 8) s = .next t
          ∧ t.lastRead = [] ∧ t.err = { s.err with reads := s.err.reads ++ [(some a, w.val, 0, 64)] } ∧ onlyChanges [.err, .lastRead] s t)
      ∧ (∀ g, g < 8 → exec (.registerRead a (IC_CLAIM g) 8) s = exec (.icClaim g) s) := by
  refine ⟨fun h w => ?_, fun hh h w => ?_, fun g hg => ?_⟩
  · show _ = guarded s.served s (s.beginRead.readErrWord none w.val 0 64)
    rw [registerRead_errLogRd hs hw, State.readErrWord_answered (s := s.beginRead) h (some a) none, hs]
    rfl
  · refine ⟨_, registerRead_errLogRd hs hw w, ?_⟩
    rw [State.readErrWord_waits (s := s.beginRead) hh h]
    exact ⟨rfl, rfl, onlyChanges_of_same (fun _ hb => (State.withErr_same (hb.sub (by decide)) _ _).trans
      (State.beginRead_same (hb.sub (by decide)) s))⟩
  · have at8 : IC_CLAIM g % 8 = 0 := by unfold IC_CLAIM; omega
    show _ = guarded (s.served && decide (g < 8)) s (s.beginRead.claim g)
    rw [exec_registerRead 8 hs (by unfold IC_CLAIM; omega) hw, State.readNow_word s a at8, State.readOne_icClaim _ a hg, hs,
      decide_eq_true hg]
    rfl

/-- A misformed access is counted; a read of that form returns zero (R473, R476). -/
theorem registerAccess_misformed {a : Agent} {ofs size : Nat} {s : State} (hs : s.served = true) (ho : ofs < 0x100000)
    (hw : s.agentWaits a = false) (h : accesses ofs size = []) :
    (∃ t, exec (.registerRead a ofs size) s = .next t ∧ t.lastRead = [0] ∧ s.badCounted a ofs 1 t ∧ onlyChanges [.regs, .lastRead] s t)
      ∧ (∀ data, ∃ t, exec (.registerWrite a ofs size data true) s = .next t ∧ s.badCounted a ofs 1 t ∧ onlyChanges [.regs] s t) := by
  constructor
  · refine ⟨_, (exec_registerRead size hs ho hw).trans (by rw [State.readNow_misformed s a h]), ?_, ?_, ?_⟩
    · have e : (s.beginRead.badAccess a ofs 1).lastRead = [] := s.beginRead.badAccess_onlyChanges a ofs 1 .lastRead (by decide)
      show (s.beginRead.badAccess a ofs 1).lastRead ++ [0] = _
      rw [e]; rfl
    · exact State.badCounted_of_regs s.beginRead_regs.symm (State.ret_regs _ _) (s.beginRead.badAccess_counted a ofs 1 ho (by decide))
    · refine ((onlyChanges_withLastRead s []).mono (by decide)).trans ?_
      refine ((s.beginRead.badAccess_onlyChanges a ofs 1).mono (by decide)).trans ?_
      exact (onlyChanges_withLastRead _ _).mono (by decide)
  · intro data
    refine ⟨_, (exec_registerWrite size data true hs ho hw).trans (by rw [State.writeNow_misformed s a data h]), ?_, ?_⟩
    · exact s.badAccess_counted a ofs 1 ho (by decide)
    · exact s.badAccess_onlyChanges a ofs 1

/-- A write of a plain register sets each RW field whose value is legal (R5, R9). -/
theorem registerWrite_plain {a : Agent} {ofs i j : Nat} {r : Reg} {data : List Byte} {s : State} (hs : s.served = true)
    (ho : ofs < 0x100000) (hw : s.agentWaits a = false) (hd : data.length = 8) (h : regAt ofs = some (r, i, j))
    (hr : r ∈ plainRegs) (hi : instanceOk r i j = true) :
    ∃ t, exec (.registerWrite a ofs 8 data true) s = .next t ∧ keepsRegs (fun o => o = ofs) s t ∧ onlyChanges [.regs] s t
      ∧ (∀ d ∈ r.fields, d.acc = .rw → t.f ⟨ofs, d.lo, d.w⟩
          = if valueOk r d.lo (bits (leNat data) d.lo d.w) = true then bits (leNat data) d.lo d.w else s.f ⟨ofs, d.lo, d.w⟩)
      ∧ (∀ d ∈ r.fields, d.acc ≠ .rw → d.acc ≠ .w1c → t.f ⟨ofs, d.lo, d.w⟩ = s.f ⟨ofs, d.lo, d.w⟩) := by
  have step : exec (.registerWrite a ofs 8 data true) s
      = .next (s.plainWrite r i j ofs 0 64 (BitVec.ofNat 64 (leNat data)).toNat) := by
    rw [exec_registerWrite 8 data true hs ho hw, State.writeNow_word s a (regAt_aligned h) hd,
      State.writeOne_word s _ h (plainRegs_open i a r hr), State.writeReg_plain s _ _ _ _ _ _ r hr]
  refine ⟨_, step, s.plainWrite_keepsRegs hr hi _ _, s.plainWrite_onlyChanges hr hi _ _, fun d hm hrw => ?_, fun d hm hrw _ => ?_⟩
  · rw [s.f_plainWrite hr hi _ _ hm, BitVec.toNat_ofNat, bits_mod _ _ _ _ (r.fields_inWord d hm).1]
    simp [hrw]
  · rw [s.f_plainWrite hr hi _ _ hm, if_neg (fun k => hrw k.1)]

/-- A write with a bad beat from a host port is counted there and raises source 40, and stores nothing (R440). -/
theorem registerWrite_parity {a : Agent} {ofs p : Nat} (size : Nat) (data : List Byte) {s : State} (hs : s.served = true)
    (ho : ofs < 0x100000) (hw : s.agentWaits a = false) (hp : portOf a = some p) :
    ∃ t, exec (.registerWrite a ofs size data false) s = .next t
      ∧ t.f (IZ_HOSTP_STAT_parity_in p) = satAdd (IZ_HOSTP_STAT_parity_in p).w (s.f (IZ_HOSTP_STAT_parity_in p)) 1
      ∧ t.f (IC_CNT_count 40) = min 255 (s.f (IC_CNT_count 40) + 1) ∧ onlyChanges [.regs, .ic, .out] s t := by
  have p2 : p < 2 := by cases a <;> simp [portOf] at hp <;> omega
  have off : (IZ_HOSTP_STAT_parity_in p).ofs < 0x1000 := by simp only [IZ_HOSTP_STAT_parity_in, IZ_HOSTP_STAT]; omega
  refine ⟨(s.cnt (IZ_HOSTP_STAT_parity_in p)).raise 40, ?_, ?_, ?_, ?_⟩
  · rw [exec_registerWrite size data false hs ho hw, State.writeNow_parity s ofs size data hp]
  · rw [State.f_raise _ _ _ (by decide) (by unfold icReg; omega), State.f_cnt_self _ _ (by simp [IZ_HOSTP_STAT_parity_in])]
  · rw [State.f_raise_count _ _ (by decide) (by decide), State.f_cnt_ne _ _ _ (by decide) (.inl ?_)]
    have : (IC_CNT_count 40).ofs = 0x44140 := rfl
    omega
  · exact onlyChanges_of_same (fun _ hb => (State.raise_same hb _ 40).trans (State.cnt_same (hb.sub (by decide)) s _))

/-- What an 8-byte write does by where it lands (R5, R440, R473 to R477). -/
theorem registerWrite_word {a : Agent} {ofs : Nat} {data : List Byte} {s : State} (hs : s.served = true) (ho : ofs < 0x100000)
    (hw : s.agentWaits a = false) (h8 : ofs % 8 = 0) (hd : data.length = 8) :
    (regAt ofs = none → ∃ t, exec (.registerWrite a ofs 8 data true) s = .next t ∧ s.badCounted a ofs 0 t ∧ onlyChanges [.regs] s t)
      ∧ (∀ r i j, regAt ofs = some (r, i, j) → closedTo r i a = true →
          ∃ t, exec (.registerWrite a ofs 8 data true) s = .next t ∧ s.badCounted a ofs 2 t ∧ onlyChanges [.regs] s t)
      ∧ exec (.registerWrite a IC_SET 8 data true) s = exec (.icSet (BitVec.ofNat 10 (leNat data))) s := by
  refine ⟨fun h => ⟨s.badAccess a ofs 0, ?_, s.badAccess_counted a ofs 0 ho (by decide), s.badAccess_onlyChanges a ofs 0⟩,
    fun r i j h hc => ⟨s.badAccess a ofs 2, ?_, s.badAccess_counted a ofs 2 ho (by decide), s.badAccess_onlyChanges a ofs 2⟩, ?_⟩
  · rw [exec_registerWrite 8 data true hs ho hw, State.writeNow_word s a h8 hd, State.writeOne_reserved s a _ _ h8 h]
  · rw [exec_registerWrite 8 data true hs ho hw, State.writeNow_word s a h8 hd, State.writeOne_closed s _ _ h hc]
  · show _ = guarded s.served s (s.raise (BitVec.ofNat 10 (leNat data)).toNat)
    rw [exec_registerWrite 8 data true hs (by decide) hw, State.writeNow_word s a (by decide) hd, State.writeOne_icSet, hs,
      BitVec.toNat_ofNat]
    rfl

/-- A rejected access of a core shows in its port's count and at the boundary alone (R439). -/
theorem cobAccess_rejected (c : Nat) (p : Bool) {s : State} (hs : s.served = true) :
    ∃ t, exec (.transactionRejected (.cobAccess c p)) s = .next t ∧ t.out = s.out ++ [.cobError (some c)]
      ∧ t.f (IZ_HOSTP_STAT_xlat (b2n p)) = satAdd (IZ_HOSTP_STAT_xlat (b2n p)).w (s.f (IZ_HOSTP_STAT_xlat (b2n p))) 1
      ∧ keepsRegs (fun o => o = IZ_HOSTP_STAT (b2n p)) s t ∧ onlyChanges [.regs, .out] s t := by
  refine ⟨_, exec_cobAccess_rejected c p hs, ?_, ?_, fun o ho => ?_, ?_⟩
  · exact congrArg (· ++ [Out.cobError (some c)]) (State.cnt_same (Blind.out.sub (by decide)) s _)
  · rw [State.f_of_reg _ (State.reg_emit _ _ _), State.f_cnt_self _ _ (by simp [IZ_HOSTP_STAT_xlat])]
  · exact (State.reg_emit _ _ _).trans (State.reg_setF_ne s (IZ_HOSTP_STAT_xlat (b2n p)) _ o ho)
  · exact onlyChanges_of_same (fun _ hb => (State.withOut_same (hb.sub (by decide)) _ _).trans
      (State.cnt_same (hb.sub (by decide)) s _))

/-- A failed access to a reserved area halts a mover in RUN with cause FATAL, and changes no queue, entry or memory (R417, R450). -/
theorem reservedAccess_fails (o : Nat) {s : State} (hr : s.run = true) (hh : s.pair.hard = false) :
    (∃ t, exec (.memWriteError (.reserved o)) s = .next t ∧ t.halted = true ∧ t.f PAIR_HALT_halt_cause = 4 ∧ t.pins.haltOut = true
        ∧ t.q = s.q ∧ t.fl = s.fl ∧ t.mem = s.mem)
      ∧ (∃ t, exec (.mempAddressError (.reserved o)) s = .next t ∧ t.halted = true ∧ t.f PAIR_HALT_halt_cause = 4
          ∧ t.f IZ_MEMP_STAT_addr_err = satAdd IZ_MEMP_STAT_addr_err.w (s.f IZ_MEMP_STAT_addr_err) 1
          ∧ t.q = s.q ∧ t.fl = s.fl ∧ t.mem = s.mem) := by
  constructor
  · obtain ⟨halted, cause, ball⟩ := s.fatal_halts 0x03 0 0 o hr hh
    have keeps := s.fatal_onlyChanges 0x03 0 0 o
    exact ⟨_, exec_reserved_writeError o hr, halted, cause, ball, keeps .q (by decide), keeps .fl (by decide), keeps .mem (by decide)⟩
  · have counted_run : (s.cnt IZ_MEMP_STAT_addr_err).run = true := by
      unfold State.run State.phase
      rw [State.f_cnt_ne _ _ _ (by decide) (.inl (by decide))]
      exact hr
    have hard : (s.cnt IZ_MEMP_STAT_addr_err).pair.hard = false := by rw [State.cnt_pair, hh]
    obtain ⟨halted, cause, -⟩ := (s.cnt IZ_MEMP_STAT_addr_err).fatal_halts 0x03 0 0 o counted_run hard
    have keeps := (s.cnt IZ_MEMP_STAT_addr_err).fatal_onlyChanges 0x03 0 0 o
    have counted := State.f_of_reg IZ_MEMP_STAT_addr_err ((s.cnt IZ_MEMP_STAT_addr_err).fatal_reg 0x03 0 0 o counted_run hard
      IZ_MEMP_STAT (by decide) (by decide) (by decide) (by decide) (by decide))
    exact ⟨_, exec_reserved_outside o hr, halted, cause, counted.trans (s.f_cnt_self _ (by decide)),
      (keeps .q (by decide)).trans (State.cnt_q s _), (keeps .fl (by decide)).trans (State.cnt_fl s _),
      (keeps .mem (by decide)).trans (State.cnt_mem s _)⟩

end Sys2Proof.Machine

open Sys2Proof Sys2Proof.Machine

/-- Settles O60, part by part: reads of a word, accesses that wait, reads that are commands, misformed accesses, writes of a word,
and the accesses that a port turns away. -/
theorem registerAccessesAndRejections : Obligations.RegisterAccessesAndRejections := by
  unfold Obligations.RegisterAccessesAndRejections
  refine ⟨fun _ _ _ _ _ _ hs ho hw h hr => registerRead_word hs ho hw h hr, fun _ _ size _ hs ho hw => registerAccess_held size hs ho hw,
    fun _ _ hs hw => registerRead_ownRead hs hw, fun _ _ _ _ hs ho hw h => registerAccess_misformed hs ho hw h, ?_,
    fun c s => ⟨exec_record_rejected c s, exec_record_writeError c s⟩,
    fun _ _ _ => ⟨exec_dataRead_rejected, exec_dataRead_outside⟩, fun _ _ => ⟨exec_entryFetch_rejected, exec_entryFetch_outside⟩,
    fun c p _ hs => cobAccess_rejected c p hs, fun o _ hr hh => reservedAccess_fails o hr hh⟩
  intro a ofs data s hs ho hw h8 hd
  obtain ⟨reserved, closed, icSet⟩ := registerWrite_word hs ho hw h8 hd
  exact ⟨reserved, closed, fun r i j h hr hi => registerWrite_plain hs ho hw hd h hr hi, icSet,
    fun p hp => registerWrite_parity 8 data hs ho hw hp⟩
end

section
/-!
PROOFS. Every step keeps a sound state sound.
-/
namespace Sys2Proof.Machine

/-- Every command keeps a sound state sound: one law of Laws/Memory.lean for each, or the frame of a command that touches
nothing that soundness looks at. -/
theorem exec_kept (c : Instr) (s : State) : KeptR (exec c s) s :=
  match c with
  | .piWrite .. => execPiWrite_kept ..
  | .ring .. => execRing_kept ..
  | .piAndRing .. => execPiAndRing_kept ..
  | .cqCiWrite .. => execCqCiWrite_kept ..
  | .apertureMisformedAccess .. => execApertureMisformedAccess_kept ..
  | .contextFetchDone .. => execContextFetchDone_kept ..
  | .entryFetchDone .. => execEntryFetchDone_kept ..
  | .haltNoticeResend => (execHaltNoticeResend_same (Blind.vitals.sub (by decide)) ..).kept
  | .fragmentTableReadDone .. => execFragmentTableReadDone_kept ..
  | .sourceListReadDone .. => execSourceListReadDone_kept ..
  | .nop .. => execNop_kept ..
  | .move .. => execMove_kept ..
  | .moveSg .. => execMoveSg_kept ..
  | .fill .. => execFill_kept ..
  | .compare .. => execCompare_kept ..
  | .check .. => execCheck_kept ..
  | .put .. => execPut_kept ..
  | .get .. => execGet_kept ..
  | .putSg .. => execPutSg_kept ..
  | .getSg .. => execGetSg_kept ..
  | .reduce .. => execReduce_kept ..
  | .reduceRemote .. => execReduceRemote_kept ..
  | .quench .. => execQuench_kept ..
  | .trigAdd .. => execTrigAdd_kept ..
  | .fence .. => execFence_kept ..
  | .mark .. => execMark_kept ..
  | .engineBind .. => execEngineBind_kept ..
  | .cut => (execCut_same (Blind.vitals.sub (by decide)) ..).kept
  | .stitchEnd .. => execStitchEnd_kept ..
  | .dataReadDone .. => execDataReadDone_kept ..
  | .dataWriteAck .. => execDataWriteAck_kept ..
  | .entryComplete .. => execEntryComplete_kept ..
  | .flushReadDone .. => execFlushReadDone_kept ..
  | .recordWriteAck .. => execRecordWriteAck_kept ..
  | .ringBroken .. => execRingBroken_kept ..
  | .cqCoalTimer .. => execCqCoalTimer_kept ..
  | .dreqAssert .. => execDreqAssert_kept ..
  | .dreqDeassert .. => execDreqDeassert_kept ..
  | .dackPulseEnd .. => execDackPulseEnd_kept ..
  | .pacewaitRelease .. => execPacewaitRelease_kept ..
  | .tsSample .. => execTsSample_kept ..
  | .tsSampleMissing => execTsSampleMissing_kept ..
  | .traceCopy => execTraceCopy_kept ..
  | .traceCiWrite .. => (execTraceCiWrite_same (Blind.vitals.sub (by decide)) ..).kept
  | .foldSegment .. => execFoldSegment_kept ..
  | .deliveryReport .. => execDeliveryReport_kept ..
  | .getResponse .. => execGetResponse_kept ..
  | .netpTimeout .. => execNetpTimeout_kept ..
  | .keyCheckRequest .. => (execKeyCheckRequest_same (Blind.vitals.sub (by decide)) ..).kept
  | .arrivalNotification .. => execArrivalNotification_kept ..
  | .parkRelease => execParkRelease_kept ..
  | .parkSpillRefill => execParkSpillRefill_kept ..
  | .parkFullRetry .. => execParkFullRetry_kept ..
  | .chkInjArm .. => (execChkInjArm_same (Blind.vitals.sub (by decide)) ..).kept
  | .admEnable .. => execAdmEnable_kept ..
  | .admDisable .. => (execAdmDisable_same (Blind.vitals.sub (by decide)) ..).kept
  | .adminNop .. => execAdminNop_kept ..
  | .createWq .. => execCreateWq_kept ..
  | .destroyWq .. => execDestroyWq_kept ..
  | .destroyDrainTimeout .. => execDestroyDrainTimeout_kept ..
  | .modifyWq .. => execModifyWq_kept ..
  | .resumeWq .. => execResumeWq_kept ..
  | .queryWq .. => execQueryWq_kept ..
  | .createCq .. => execCreateCq_kept ..
  | .destroyCq .. => execDestroyCq_kept ..
  | .modifyCq .. => execModifyCq_kept ..
  | .queryCq .. => execQueryCq_kept ..
  | .createPd .. => execCreatePd_kept ..
  | .destroyPd .. => execDestroyPd_kept ..
  | .createMr .. => execCreateMr_kept ..
  | .destroyMr .. => execDestroyMr_kept ..
  | .bindRl .. => execBindRl_kept ..
  | .unitOffline .. => execUnitOffline_kept ..
  | .unitOnline .. => execUnitOnline_kept ..
  | .scrubCstore .. => execScrubCstore_kept ..
  | .clearTrig .. => execClearTrig_kept ..
  | .fenceAll .. => execFenceAll_kept ..
  | .setMirror .. => execSetMirror_kept ..
  | .traceStart .. => execTraceStart_kept ..
  | .traceStop .. => execTraceStop_kept ..
  | .fwCmd .. => execFwCmd_kept ..
  | .fwTimeout => execFwTimeout_kept ..
  | .admFwDone .. => execAdmFwDone_kept ..
  | .admCobLock .. => (execAdmCobLock_same (Blind.vitals.sub (by decide)) ..).kept
  | .admCobGo .. => execAdmCobGo_kept ..
  | .clearStitch => execClearStitch_kept ..
  | .arbPhase .. => execArbPhase_kept ..
  | .channelTake .. => execChannelTake_kept ..
  | .wdogBite .. => execWdogBite_kept ..
  | .arbCommit .. => (execArbCommit_same (Blind.vitals.sub (by decide)) ..).kept
  | .arbFreeze .. => (execArbFreeze_same (Blind.vitals.sub (by decide)) ..).kept
  | .slotAdvance .. => (execSlotAdvance_same (Blind.vitals.sub (by decide)) ..).kept
  | .slotCommit .. => (execSlotCommit_same (Blind.vitals.sub (by decide)) ..).kept
  | .icSet .. => execIcSet_kept ..
  | .extIntAssert .. => execExtIntAssert_kept ..
  | .extIntRearm .. => execExtIntRearm_kept ..
  | .icClaim .. => execIcClaim_kept ..
  | .icEoi .. => execIcEoi_kept ..
  | .resync .. => execResync_kept ..
  | .icCntClear .. => execIcCntClear_kept ..
  | .msgFail .. => execMsgFail_kept ..
  | .cobWait .. => (execCobWait_same (Blind.vitals.sub (by decide)) ..).kept
  | .cobDoze .. => (execCobDoze_same (Blind.vitals.sub (by decide)) ..).kept
  | .cobWake .. => (execCobWake_same (Blind.vitals.sub (by decide)) ..).kept
  | .resetAssert => execResetAssert_kept ..
  | .resetDeassert .. => (execResetDeassert_same (Blind.vitals.sub (by decide)) ..).kept
  | .sfdpReadDone .. => (execSfdpReadDone_same (Blind.vitals.sub (by decide)) ..).kept
  | .copySelect => (execCopySelect_same (Blind.vitals.sub (by decide)) ..).kept
  | .copyReadDone => (execCopyReadDone_same (Blind.vitals.sub (by decide)) ..).kept
  | .patternVerifyDone => (execPatternVerifyDone_same (Blind.vitals.sub (by decide)) ..).kept
  | .patternApply => execPatternApply_kept ..
  | .patApply .. => execPatApply_kept ..
  | .patProgram .. => execPatProgram_kept ..
  | .flashProgramDone .. => execFlashProgramDone_kept ..
  | .softReset .. => execSoftReset_kept ..
  | .hardReset .. => execHardReset_kept ..
  | .snap .. => execSnap_kept ..
  | .ci .. => execCi_kept ..
  | .start .. => execStart_kept ..
  | .complete .. => execComplete_kept ..
  | .cqpi .. => execCqpi_kept ..
  | .cqci .. => execCqci_kept ..
  | .ctr .. => execCtr_kept ..
  | .qGone .. => execQGone_kept ..
  | .cqGone .. => execCqGone_kept ..
  | .syncEnd .. => execSyncEnd_kept ..
  | .qCtx .. => execQCtx_kept ..
  | .cqCtx .. => execCqCtx_kept ..
  | .ctrCtx .. => execCtrCtx_kept ..
  | .mirrorAck .. => execMirrorAck_kept ..
  | .haltNotice .. => execHaltNotice_kept ..
  | .haltAck .. => (execHaltAck_same (Blind.vitals.sub (by decide)) ..).kept
  | .ready => (execReady_same (Blind.vitals.sub (by decide)) ..).kept
  | .sendState .. => execSendState_kept ..
  | .fellowAliveChange .. => execFellowAliveChange_kept ..
  | .haltInChange .. => execHaltInChange_kept ..
  | .takeoverDelay => execTakeoverDelay_kept ..
  | .adopt .. => execAdopt_kept ..
  | .haltCommand .. => execHaltCommand_kept ..
  | .drainLimit => (execDrainLimit_same (Blind.vitals.sub (by decide)) ..).kept
  | .adoptionStitch => execAdoptionStitch_kept ..
  | .pairCqCi .. => execPairCqCi_kept ..
  | .pairQmode .. => execPairQmode_kept ..
  | .laceDetect .. => execLaceDetect_kept ..
  | .laceLock .. => execLaceLock_kept ..
  | .laceDeskew .. => execLaceDeskew_kept ..
  | .laceConfig .. => execLaceConfig_kept ..
  | .attemptTimeout => execAttemptTimeout_kept ..
  | .soloProbe => (execSoloProbe_same (Blind.vitals.sub (by decide)) ..).kept
  | .packet .. => execPacket_kept ..
  | .feedback .. => execFeedback_kept ..
  | .feedbackTimer .. => (execFeedbackTimer_same (Blind.vitals.sub (by decide)) ..).kept
  | .replayTimeout .. => execReplayTimeout_kept ..
  | .replaySpill => execReplaySpill_kept ..
  | .refill .. => execRefill_kept ..
  | .retrainBlock => (execRetrainBlock_same (Blind.vitals.sub (by decide)) ..).kept
  | .adaptationFreeze .. => (execAdaptationFreeze_same (Blind.vitals.sub (by decide)) ..).kept
  | .lossOfLock .. => execLossOfLock_kept ..
  | .retrain .. => execRetrain_kept ..
  | .linkDown => execLinkDown_kept ..
  | .laneErrorWindow .. => execLaneErrorWindow_kept ..
  | .laceEnable .. => execLaceEnable_kept ..
  | .errLogCi .. => (execErrLogCi_same (Blind.vitals.sub (by decide)) ..).kept
  | .errLogRead .. => (execErrLogRead_same (Blind.vitals.sub (by decide)) ..).kept
  | .trigCounterRead .. => execTrigCounterRead_kept ..
  | .bistRow .. => execBistRow_kept ..
  | .engineSelfTest .. => (execEngineSelfTest_same (Blind.vitals.sub (by decide)) ..).kept
  | .reductionSelfTest .. => (execReductionSelfTest_same (Blind.vitals.sub (by decide)) ..).kept
  | .shadowStart .. => execShadowStart_kept ..
  | .shadowStop .. => (execShadowStop_same (Blind.vitals.sub (by decide)) ..).kept
  | .laneTest .. => (execLaneTest_same (Blind.vitals.sub (by decide)) ..).kept
  | .portTest .. => (execPortTest_same (Blind.vitals.sub (by decide)) ..).kept
  | .testDone .. => execTestDone_kept ..
  | .transactionRejected .. => execTransactionRejected_kept ..
  | .memWriteError .. => execMemWriteError_kept ..
  | .mempAddressError .. => execMempAddressError_kept ..
  | .merge .. => execMerge_kept ..
  | .ppsIn => (execPpsIn_same (Blind.vitals.sub (by decide)) ..).kept
  | .ppsOut .. => (execPpsOut_same (Blind.vitals.sub (by decide)) ..).kept
  | .registerWrite .. => execRegisterWrite_kept ..
  | .registerRead .. => execRegisterRead_kept ..
  | .extIntGlitch .. => execExtIntGlitch_kept ..
  | .extIntDeassert .. => (execExtIntDeassert_same (Blind.vitals.sub (by decide)) ..).kept
  | .dreqGlitch .. => (execDreqGlitch_same (Blind.vitals.sub (by decide)) ..).kept
  | .internalAcknowledgement .. => execInternalAcknowledgement_kept ..
  | .dackPulseStart .. => (execDackPulseStart_same (Blind.vitals.sub (by decide)) ..).kept
  | .laneLockWaitExpiry => execLaneLockWaitExpiry_kept ..
  | .syncClearStitch => execSyncClearStitch_kept ..
  | .ciRecordInterval .. => (execCiRecordInterval_same (Blind.vitals.sub (by decide)) ..).kept
  | .controlStateParityError .. => execControlStateParityError_kept ..

/-- Whatever waits, the next step keeps a sound state sound: an idle cycle, or the command in front. -/
theorem step_kept (s : State) : KeptR (step s) s := by
  unfold step
  split
  · exact tick_kept s
  · next c r _ =>
    exact ⟨fun t ht => ((exec_kept c _).on t ht).trans (State.withPending_same (Blind.vitals.sub (by decide)) s r).kept⟩

end Sys2Proof.Machine

open Sys2Proof Sys2Proof.Machine

/-- Settles O4: soundness is kept by every command and by the idle cycle (`step_kept`). -/
theorem everyStepKeepsStateSound : Obligations.EveryStepKeepsStateSound := by
  unfold Obligations.EveryStepKeepsStateSound
  exact fun s t hs ht => ((step_kept s).on t ht).keep hs
end

section
/-!
PROOFS. The context cache: what a lookup reads, which lookups a change leaves alone, and what looking a context up that is at
hand does (R43 to R47).
-/
namespace Sys2Proof.Machine

/-! ## Parts that two states share -/

theorem onlyChanges.refl (l : List Part) (s : State) : onlyChanges l s s := fun x _ => by cases x <;> rfl

theorem keepsRegs.refl (P : Nat → Prop) (s : State) : keepsRegs P s s := fun _ _ => rfl

theorem keepsRegs.trans {P : Nat → Prop} {s t u : State} (h : keepsRegs P s t) (k : keepsRegs P t u) : keepsRegs P s u :=
  fun o ho => (k o ho).trans (h o ho)

theorem keepsRegs.mono {P Q : Nat → Prop} {s t : State} (h : keepsRegs P s t) (k : ∀ o, P o → Q o) : keepsRegs Q s t :=
  fun o ho => h o (fun hp => ho (k o hp))

/-- A state that keeps the table of registers keeps every register. -/
theorem keepsRegs_of_regs {P : Nat → Prop} {s t : State} (h : t.regs = s.regs) : keepsRegs P s t :=
  fun o _ => by unfold State.reg; rw [h]

theorem keepsQueues_of_q {q : Nat} {s t : State} (h : t.q = s.q) : keepsQueues q s t := fun k _ => State.qctx_of_q h k

/-- A write of one field changes the word of its register alone. -/
theorem State.setF_keepsRegs (s : State) (d : Fld) (n : Nat) : keepsRegs (fun o => o = d.ofs) s (s.setF d n) :=
  fun o ho => State.reg_setF_ne s d n o ho

theorem State.setF_onlyChanges (s : State) (d : Fld) (n : Nat) : onlyChanges [.regs] s (s.setF d n) :=
  onlyChanges_of_same (fun _ hb => State.setF_same hb s d n)

theorem State.setQ_onlyChanges (s : State) (q : Nat) (c : QCtx) : onlyChanges [.q] s (s.setQ q c) :=
  onlyChanges_of_same (fun _ hb => State.setQ_same hb s q c)

theorem State.qctx_setQ_self (s : State) (q : Nat) (c : QCtx) : (s.setQ q c).qctx q = c := by
  rw [State.qctx_setQ, if_pos rfl]

theorem State.setQ_keepsQueues (s : State) (q : Nat) (c : QCtx) : keepsQueues q s (s.setQ q c) :=
  fun k hk => by rw [State.qctx_setQ, if_neg hk]

/-! ## What a lookup reads -/

/-- Whether a context is hot shows in the ways of the cache and the register of its bank. -/
theorem State.hot_congr {s t : State} (k : CtxKind) (n : Nat) (hc : t.cache.ways = s.cache.ways)
    (hr : t.reg (SPR_ARRAY (n % 16)) = s.reg (SPR_ARRAY (n % 16))) : t.hot k n = s.hot k n := by
  unfold State.hot State.waysOf State.bankRetired State.fb
  rw [hc, State.f_of_reg (SPR_ARRAY_retired (n % 16)) hr]

theorem State.ctxExists_congr {s t : State} (k : CtxKind) (n : Nat) (hq : t.q = s.q) (hc : t.cq = s.cq) (hn : t.ctr = s.ctr)
    (hp : t.pair = s.pair) : t.ctxExists k n = s.ctxExists k n := by
  unfold State.ctxExists
  rw [State.qctx_of_q hq, State.cctx_of_cq hc, State.ctrOf_of_ctr hn, hp]

theorem State.brought_congr {s t : State} (k : CtxKind) (n : Nat) (h : t.cache.wanted = s.cache.wanted) :
    t.brought k n = s.brought k n := by
  unfold State.brought
  rw [h]

/-- The registers that the lookup of a context which is at hand leaves alone. -/
abbrev hitReg (o : Nat) : Prop := o = WQ_CTX_HIT

theorem spr_not_hit (b : Nat) : ¬ hitReg (SPR_ARRAY b) := by
  unfold hitReg SPR_ARRAY WQ_CTX_HIT
  omega

/-! ## The way that a lookup makes the most recently used -/

theorem State.touch_onlyChanges (s : State) (k : CtxKind) (n : Nat) : onlyChanges [.cache] s (s.touch k n) :=
  onlyChanges_of_same (fun _ hb => State.touch_same hb s k n)

theorem State.touch_wanted (s : State) (k : CtxKind) (n : Nat) : (s.touch k n).cache.wanted = s.cache.wanted := by
  unfold State.touch
  split <;> rfl

theorem State.waysOf_setWays (s : State) (k j : CtxKind) (n m : Nat) (l : List Nat) :
    (s.setWays k n l).waysOf j m = if cacheKey j m = cacheKey k n then l else s.waysOf j m := by
  unfold State.waysOf State.setWays
  exact Tbl.get_set _ _ _ _ _

/-- A set holds the same contexts when one of them is made its most recently used way. -/
theorem State.mem_waysOf_touch (s : State) (k j : CtxKind) (n m : Nat) : m ∈ (s.touch k n).waysOf j m ↔ m ∈ s.waysOf j m := by
  unfold State.touch
  split
  case isFalse => exact Iff.rfl
  case isTrue held =>
    rw [State.waysOf_setWays]
    split
    case isFalse => exact Iff.rfl
    case isTrue same =>
      have ways : s.waysOf j m = s.waysOf k n := by unfold State.waysOf; rw [same]
      rw [ways, List.mem_append, List.mem_filter, List.mem_singleton, decide_eq_true_eq]
      by_cases e : m = n
      · subst e; simp [held]
      · simp [e]

theorem State.hot_touch (s : State) (k j : CtxKind) (n m : Nat) : (s.touch k n).hot j m = s.hot j m := by
  have regs : (s.touch k n).regs = s.regs := s.touch_onlyChanges k n .regs (by decide)
  unfold State.hot State.bankRetired State.fb
  rw [State.f_of_regs regs, decide_eq_decide.mpr (s.mem_waysOf_touch k j n m)]

/-! ## Looking up a context that is at hand -/

/-- The lookup of a context at hand changes the order of its set, what has been brought, and the count of hits. -/
theorem State.demandOne_onlyChanges (s : State) (k : CtxKind) (n : Nat) : onlyChanges [.regs, .cache] s (s.demandOne k n).1 :=
  onlyChanges_of_same (fun _ hb => State.demandOne_same hb s k n)

/-- What the lookup of a context does that is at hand: it is not there at all, its fetch has brought it, or it is hot. -/
theorem State.demandOne_atHand {s : State} {k : CtxKind} {n : Nat} (h : s.atHand [(k, n)] = true) :
    s.demandOne k n = (s, true)
      ∨ (∃ t : State, t = s.withCache { s.cache with wanted := s.cache.wanted.filter (fun x => !decide (x = (k, n, true))) }
          ∧ s.demandOne k n = (if t.hot k n then t.touch k n else t, true))
      ∨ s.hot k n = true ∧ s.demandOne k n = ((s.touch k n).countCtx k true, true) := by
  unfold State.demandOne
  by_cases he : s.ctxExists k n = true
  case neg => exact .inl (if_pos (by simpa using he))
  rw [if_neg (by simp [he])]
  by_cases hb : s.brought k n = true
  case pos => rw [if_pos hb]; exact .inr (.inl ⟨_, rfl, rfl⟩)
  rw [if_neg hb]
  have hot : s.hot k n = true := by simpa [State.atHand, he, hb] using h
  rw [if_pos hot]
  exact .inr (.inr ⟨hot, rfl⟩)

theorem State.countCtx_keepsRegs (s : State) (k : CtxKind) : keepsRegs hitReg s (s.countCtx k true) := by
  unfold State.countCtx
  split
  · exact s.setF_keepsRegs WQ_CTX_HIT_hits _
  · exact keepsRegs.refl _ s

theorem State.countCtx_cache (s : State) (k : CtxKind) (b : Bool) : (s.countCtx k b).cache = s.cache :=
  (onlyChanges_of_same (fun _ hb => State.countCtx_same hb s k b) : onlyChanges [.regs] s _) .cache (by decide)

theorem State.touch_keepsRegs (P : Nat → Prop) (s : State) (k : CtxKind) (n : Nat) : keepsRegs P s (s.touch k n) :=
  keepsRegs_of_regs (s.touch_onlyChanges k n .regs (by decide))

/-- Every context that is hot stays hot when another one is looked up. -/
theorem State.demandOne_hot {s : State} {k : CtxKind} {n : Nat} (h : s.atHand [(k, n)] = true) (j : CtxKind) (m : Nat) :
    (s.demandOne k n).1.hot j m = s.hot j m := by
  obtain e | ⟨t, rfl, e⟩ | ⟨-, e⟩ := State.demandOne_atHand h <;> rw [e]
  · split
    · exact State.hot_touch _ k j n m
    · rfl
  · rw [State.hot_congr j m (by rw [State.countCtx_cache]) ((s.touch k n).countCtx_keepsRegs k _ (spr_not_hit _)), State.hot_touch]

theorem State.demandOne_keepsRegs {s : State} {k : CtxKind} {n : Nat} (h : s.atHand [(k, n)] = true) :
    keepsRegs hitReg s (s.demandOne k n).1 := by
  obtain e | ⟨t, rfl, e⟩ | ⟨-, e⟩ := State.demandOne_atHand h <;> rw [e]
  · exact keepsRegs.refl _ s
  · split
    · exact State.touch_keepsRegs _ _ k n
    · exact keepsRegs.refl _ s
  · exact (s.touch_keepsRegs _ k n).trans ((s.touch k n).countCtx_keepsRegs k)

/-- What has been brought for other work is still there when one context is looked up. -/
theorem State.demandOne_brought {s : State} {k : CtxKind} {n : Nat} (h : s.atHand [(k, n)] = true) {j : CtxKind} {m : Nat}
    (ne : (j, m) ≠ (k, n)) : (s.demandOne k n).1.brought j m = s.brought j m := by
  have kept : ∀ w : List (CtxKind × Nat × Bool),
      ((j, m, true) ∈ w.filter (fun x => !decide (x = (k, n, true)))) ↔ (j, m, true) ∈ w := by
    intro w
    simp only [List.mem_filter, Bool.not_eq_true', decide_eq_false_iff_not, and_iff_left_iff_imp]
    exact fun _ e => ne (by cases e; rfl)
  obtain e | ⟨t, rfl, e⟩ | ⟨-, e⟩ := State.demandOne_atHand h <;> rw [e]
  · have filtered : ∀ u : State, u.cache.wanted = s.cache.wanted.filter (fun x => !decide (x = (k, n, true))) →
        u.brought j m = s.brought j m := by
      intro u hu
      unfold State.brought
      rw [hu, decide_eq_decide.mpr (kept s.cache.wanted)]
    split
    · exact filtered _ (State.touch_wanted _ k n)
    · exact filtered _ rfl
  · exact State.brought_congr j m (by rw [State.countCtx_cache, State.touch_wanted])

theorem State.atHand_cons (s : State) (x : CtxKind × Nat) (l : List (CtxKind × Nat)) :
    s.atHand (x :: l) = (s.atHand [x] && s.atHand l) := by
  simp [State.atHand]

/-- A context that is hot, or another one that is at hand, stays at hand when one is looked up. -/
theorem State.demandOne_atHand_other {s : State} {x y : CtxKind × Nat} (h : s.atHand [x] = true) (hy : s.atHand [y] = true)
    (ne : s.hot y.1 y.2 = true ∨ y ≠ x) : (s.demandOne x.1 x.2).1.atHand [y] = true := by
  have frame := s.demandOne_onlyChanges x.1 x.2
  have exs : (s.demandOne x.1 x.2).1.ctxExists y.1 y.2 = s.ctxExists y.1 y.2 :=
    State.ctxExists_congr _ _ (frame .q (by decide)) (frame .cq (by decide)) (frame .ctr (by decide)) (frame .pair (by decide))
  have hot := State.demandOne_hot h y.1 y.2
  obtain hy' | ne := ne
  · simp [State.atHand, hot, hy']
  · have b := State.demandOne_brought h (j := y.1) (m := y.2) ne
    simpa [State.atHand, exs, hot, b] using hy

/-- The lookup of contexts at hand changes the order of the cache, what has been brought, and the count of hits. -/
theorem State.demand_onlyChanges (s : State) (l : List (CtxKind × Nat)) : onlyChanges [.regs, .cache] s (s.demand l).1 :=
  onlyChanges_of_same (fun _ hb => State.demand_same hb s l)

theorem State.demand_ok {s : State} {l : List (CtxKind × Nat)} (h : s.atHand l = true) : (s.demand l).2 = true := by
  unfold State.demand
  rw [if_pos h]

theorem State.demand_nil (s : State) : s.demand [] = (s, true) := rfl

theorem State.demand_one {s : State} {x : CtxKind × Nat} (h : s.atHand [x] = true) : (s.demand [x]).1 = (s.demandOne x.1 x.2).1 := by
  unfold State.demand
  rw [if_pos h]
  rfl

theorem State.demand_one_keepsRegs {s : State} {x : CtxKind × Nat} (h : s.atHand [x] = true) :
    keepsRegs hitReg s (s.demand [x]).1 := by
  rw [State.demand_one h]
  exact State.demandOne_keepsRegs h

theorem State.demand_one_hot {s : State} {x : CtxKind × Nat} (h : s.atHand [x] = true) (j : CtxKind) (m : Nat) :
    (s.demand [x]).1.hot j m = s.hot j m := by
  rw [State.demand_one h]
  exact State.demandOne_hot h j m

end Sys2Proof.Machine
end

section
/-!
PROOFS. Aperture writes of a queue slot that are applied as they come: what their arrival leaves, and what PI and RING do to the
queue (R24, R29 to R42).
-/
namespace Sys2Proof.Machine

/-! ## Arrival -/

/-- The registers that the arrival of an aperture write on port `p` may change. -/
abbrev arrivalReg (p o : Nat) : Prop := o = WQ_INTAKE_LEVEL p ∨ o = WQ_CTX_HIT

/-- The state in which a write for queue `q` takes effect that has come through port `p`: the intake's peak and the lookup are counted,
and the queue's context is the most recently used way of its set. -/
def State.arrived (s : State) (p q : Nat) (c : Instr) : State :=
  let s := (s.peak (WQ_INTAKE_LEVEL_peak p) (s.intakeLevel p + 1)).countLookup c
  if s.hot .queue q then s.touch .queue q else s

theorem State.countLookup_onlyChanges (s : State) (c : Instr) : onlyChanges [.regs] s (s.countLookup c) :=
  onlyChanges_of_same (fun _ hb => State.countLookup_same hb s c)

theorem State.arrived_onlyChanges (s : State) (p q : Nat) (c : Instr) : onlyChanges [.regs, .cache] s (s.arrived p q c) := by
  have counted : onlyChanges [.regs, .cache] s ((s.peak (WQ_INTAKE_LEVEL_peak p) (s.intakeLevel p + 1)).countLookup c) :=
    ((s.setF_onlyChanges _ _).trans (State.countLookup_onlyChanges _ c)).mono (by simp)
  unfold State.arrived
  dsimp only
  split
  · exact counted.trans ((State.touch_onlyChanges _ .queue q).mono (by simp))
  · exact counted

theorem spr_not_intake (p b : Nat) (h : p < 2) : SPR_ARRAY b ≠ WQ_INTAKE_LEVEL p := by
  unfold SPR_ARRAY WQ_INTAKE_LEVEL
  omega

/-- The queue's context needs no fetch: a queue that is there is hot. -/
theorem State.cold_queue {s : State} {c : Instr} {q : Nat} (hn : s.needs c = [(.queue, q)]) (h : s.cold [] c = false) :
    s.ctxExists .queue q = true → s.hot .queue q = true := by
  intro he
  simpa [State.cold, hn, he] using h

theorem State.countLookup_keepsRegs {s : State} {c : Instr} {q : Nat} (hn : s.needs c = [(.queue, q)])
    (hot : s.ctxExists .queue q = true → s.hot .queue q = true) : keepsRegs hitReg s (s.countLookup c) := by
  unfold State.countLookup
  rw [hn]
  dsimp only
  split
  · next he => rw [hot he]; exact s.countCtx_keepsRegs .queue
  · exact keepsRegs.refl _ s

/-- Arrival counts the peak level of its port and the lookup, and changes no other register. -/
theorem State.arrived_keepsRegs {s : State} {p q : Nat} {c : Instr} (hp : p < 2) (hn : ∀ t : State, t.needs c = [(.queue, q)])
    (h : s.cold [] c = false) : keepsRegs (arrivalReg p) s (s.arrived p q c) := by
  have level : keepsRegs (arrivalReg p) s (s.peak (WQ_INTAKE_LEVEL_peak p) (s.intakeLevel p + 1)) :=
    (s.setF_keepsRegs (WQ_INTAKE_LEVEL_peak p) _).mono (fun _ => .inl)
  have peak : onlyChanges [.regs] s (s.peak (WQ_INTAKE_LEVEL_peak p) (s.intakeLevel p + 1)) := s.setF_onlyChanges _ _
  have hot : (s.peak (WQ_INTAKE_LEVEL_peak p) (s.intakeLevel p + 1)).ctxExists .queue q = true →
      (s.peak (WQ_INTAKE_LEVEL_peak p) (s.intakeLevel p + 1)).hot .queue q = true := by
    rw [State.ctxExists_congr .queue q (peak .q (by decide)) (peak .cq (by decide)) (peak .ctr (by decide)) (peak .pair (by decide)),
      State.hot_congr .queue q (congrArg Cache.ways (peak .cache (by decide)))
        (s.setF_keepsRegs (WQ_INTAKE_LEVEL_peak p) _ _ (spr_not_intake p _ hp))]
    exact State.cold_queue (hn s) h
  have counted := level.trans ((State.countLookup_keepsRegs (hn _) hot).mono (fun _ => .inr))
  unfold State.arrived
  dsimp only
  split
  · exact counted.trans (State.touch_keepsRegs _ _ .queue q)
  · exact counted

theorem State.halted_congr {s t : State} (h : t.reg PAT_STAT = s.reg PAT_STAT) : t.halted = s.halted := by
  unfold State.halted State.phase
  rw [State.f_of_reg PAT_STAT_phase h]

theorem State.slotClosed_congr {s t : State} (q : Nat) (hq : t.q = s.q) (hr : t.reg ADM_CFG = s.reg ADM_CFG) :
    t.slotClosed q = s.slotClosed q := by
  unfold State.slotClosed State.fb
  rw [State.qctx_of_q hq, State.f_of_reg ADM_CFG_enable hr]

theorem patStat_not_arrival {p : Nat} (h : p < 2) : ¬ arrivalReg p PAT_STAT := by
  unfold arrivalReg PAT_STAT WQ_INTAKE_LEVEL WQ_CTX_HIT
  omega

theorem admCfg_not_arrival {p : Nat} (h : p < 2) : ¬ arrivalReg p ADM_CFG := by
  unfold arrivalReg ADM_CFG WQ_INTAKE_LEVEL WQ_CTX_HIT
  omega

/-- A write of an accepted form for the open slot of queue `q` that is applied as it comes is looked up, counted and applied. -/
theorem State.aperture_takesNow {s : State} {p q : Nat} {c : Instr} (hp : p < 2) (h : s.takesNow p c) (hd : isDoorbell c = true)
    (hs : slotOf c = some (p, q)) (ho : s.slotClosed q = false) (hn : ∀ t : State, t.needs c = [(.queue, q)]) :
    s.aperture p true c = State.applyIntake ((s.peak (WQ_INTAKE_LEVEL_peak p) (s.intakeLevel p + 1)).countLookup c) c (s.mtIn 1) := by
  obtain ⟨served, running, room, free, first, warm⟩ := h
  have opened : s.portOpen p = true := by simp [State.portOpen, room]
  have accepted : s.aperture p true c = s.accept p true c := by
    unfold State.aperture
    rw [if_neg (by simp [served]), if_pos (by simp [opened, free])]
  rw [accepted]
  unfold State.accept
  rw [if_neg (by simp [running])]
  simp only [hd, if_true, Bool.not_true, Bool.false_eq_true, if_false]
  have peak : onlyChanges [.regs] s (s.peak (WQ_INTAKE_LEVEL_peak p) (s.intakeLevel p + 1)) := s.setF_onlyChanges _ _
  have level : keepsRegs (arrivalReg p) s (s.peak (WQ_INTAKE_LEVEL_peak p) (s.intakeLevel p + 1)) :=
    (s.setF_keepsRegs (WQ_INTAKE_LEVEL_peak p) _).mono (fun _ => .inl)
  generalize s.peak (WQ_INTAKE_LEVEL_peak p) (s.intakeLevel p + 1) = u at peak level
  have taken : u.intake c = State.applyIntake (u.countLookup c) c (s.mtIn 1) := by
    have looked := u.countLookup_onlyChanges c
    have both := peak.trans looked
    have closed : u.discards c = false := by
      simp [State.discards, hd, hs, State.slotClosed_congr q (peak .q (by decide)) (level _ (admCfg_not_arrival hp)), ho]
    have behind : blocked u.cache.waits c = false := by rw [show u.cache = s.cache from peak .cache (by decide)]; exact first
    have hot : u.ctxExists .queue q = true → u.hot .queue q = true := by
      rw [State.ctxExists_congr .queue q (peak .q (by decide)) (peak .cq (by decide)) (peak .ctr (by decide)) (peak .pair (by decide)),
        State.hot_congr .queue q (congrArg Cache.ways (peak .cache (by decide)))
          (level _ (by rintro (e | e); exacts [spr_not_intake p _ hp e, spr_not_hit _ e]))]
      exact State.cold_queue (hn s) warm
    have cold : (u.countLookup c).cold [] c = false := by
      have ex := State.ctxExists_congr .queue q (looked .q (by decide)) (looked .cq (by decide)) (looked .ctr (by decide))
        (looked .pair (by decide))
      have ht := State.hot_congr .queue q (congrArg Cache.ways (looked .cache (by decide)))
        (State.countLookup_keepsRegs (hn u) hot _ (spr_not_hit (q % 16)))
      unfold State.cold
      rw [hn]
      simp only [List.any_cons, List.any_nil, Bool.or_false, ex, ht]
      cases e : u.ctxExists .queue q <;> simp [hot, e]
    have time : u.mtIn 1 = s.mtIn 1 := by unfold State.mtIn; rw [show u.tb = s.tb from peak .tb (by decide)]
    unfold State.intake State.intakeAt
    rw [if_neg (by simp [closed]), if_neg (by simp [behind])]
    simp only [cold, Bool.false_eq_true, if_false, time]
  cases c with
  | apertureMisformedAccess _ _ _ _ _ => exact absurd hd Bool.false_ne_true
  | _ => exact taken

/-- The state in which such a write is applied is still not halted and its slot is still open. -/
theorem State.arrived_open {s : State} {p q : Nat} {c : Instr} (hp : p < 2) (h : s.takesNow p c) (ho : s.slotClosed q = false)
    (hn : ∀ t : State, t.needs c = [(.queue, q)]) :
    ((s.peak (WQ_INTAKE_LEVEL_peak p) (s.intakeLevel p + 1)).countLookup c).halted = false
      ∧ (s.arrived p q c).slotClosed q = false := by
  obtain ⟨-, running, -, -, -, warm⟩ := h
  have regs := State.arrived_keepsRegs (c := c) hp hn warm
  have same : (s.arrived p q c).reg PAT_STAT = ((s.peak (WQ_INTAKE_LEVEL_peak p) (s.intakeLevel p + 1)).countLookup c).reg PAT_STAT := by
    unfold State.arrived
    dsimp only
    split
    · exact State.touch_keepsRegs (fun _ => False) _ _ _ _ (by simp)
    · rfl
  refine ⟨?_, ?_⟩
  · rw [State.halted_congr (same.symm.trans (regs _ (patStat_not_arrival hp))), running]
  · rw [State.slotClosed_congr q (s.arrived_onlyChanges p q c .q (by decide)) (regs _ (admCfg_not_arrival hp)), ho]

theorem State.mirrorOn_congr {s t : State} (h : t.reg PAIR_STAT = s.reg PAIR_STAT) : t.mirrorOn = s.mirrorOn := by
  unfold State.mirrorOn
  rw [State.f_of_reg PAIR_STAT_send_state h]

theorem pairStat_not_arrival {p : Nat} (h : p < 2) : ¬ arrivalReg p PAIR_STAT := by
  unfold arrivalReg PAIR_STAT WQ_INTAKE_LEVEL WQ_CTX_HIT
  omega

theorem exec_piWrite {p : Fin 2} {q : BitVec 21} {v : W32} {s : State} (h : s.takesNow p.val (.piWrite p q v true))
    (ho : s.slotClosed q.toNat = false) :
    exec (.piWrite p q v true) s = .next ((s.arrived p.val q.toNat (.piWrite p q v true)).applyPi q.toNat v) := by
  obtain ⟨up, opened⟩ := State.arrived_open p.isLt h ho (fun _ => rfl)
  show Host.Outcome.next (s.aperture p.val true (.piWrite p q v true)) = _
  rw [State.aperture_takesNow p.isLt h rfl rfl ho (fun _ => rfl)]
  unfold State.applyIntake
  rw [if_neg (by simp [up])]
  exact congrArg Host.Outcome.next (if_neg (ne_true_of_eq_false opened))

theorem exec_ring {p : Fin 2} {q : BitVec 21} {s : State} (h : s.takesNow p.val (.ring p q true))
    (ho : s.slotClosed q.toNat = false) :
    exec (.ring p q true) s = .next ((s.arrived p.val q.toNat (.ring p q true)).applyRing q.toNat (s.mtIn 1)) := by
  obtain ⟨up, opened⟩ := State.arrived_open p.isLt h ho (fun _ => rfl)
  show Host.Outcome.next (s.aperture p.val true (.ring p q true)) = _
  rw [State.aperture_takesNow p.isLt h rfl rfl ho (fun _ => rfl)]
  unfold State.applyIntake
  rw [if_neg (by simp [up])]
  exact congrArg Host.Outcome.next (if_neg (ne_true_of_eq_false opened))

theorem exec_piAndRing {p : Fin 2} {q : BitVec 21} {n : Nat} {v : W32} {s : State} (hn : n = 16 ∨ n = 32 ∨ n = 64)
    (h : s.takesNow p.val (.piAndRing p q n v true)) (ho : s.slotClosed q.toNat = false) :
    exec (.piAndRing p q n v true) s
      = .next (((s.arrived p.val q.toNat (.piAndRing p q n v true)).applyPi q.toNat v).applyRing q.toNat (s.mtIn 1)) := by
  obtain ⟨up, opened⟩ := State.arrived_open p.isLt h ho (fun _ => rfl)
  refine (guarded_true (by simpa using hn) _ _).trans ?_
  rw [State.aperture_takesNow p.isLt h rfl rfl ho (fun _ => rfl)]
  unfold State.applyIntake
  rw [if_neg (by simp [up])]
  exact congrArg Host.Outcome.next (if_neg (ne_true_of_eq_false opened))

/-! ## PI and RING at the queue -/

theorem State.applyPi_open {s : State} {q : Nat} (v : W32) (h : (s.qctx q).state ≠ .free) (k : (s.qctx q).state ≠ .destroying) :
    s.applyPi q v = s.setQ q { s.qctx q with pi := v } := by
  unfold State.applyPi
  split
  case h_5 e => exact absurd e h
  case h_6 e => exact absurd e k
  all_goals rfl

/-- No accepted RING of the queue waits: the next one is judged against S. -/
theorem State.snapOf_none {s : State} {q : Nat} (h : ∀ x ∈ s.pair.ringWait, x.1 ≠ q) : s.snapOf q = (s.qctx q).snap := by
  have none : s.pair.ringWait.filter (fun x => decide (x.1 = q)) = [] := by
    simpa [List.filter_eq_nil_iff] using fun a b c hx => h (a, b, c) hx
  unfold State.snapOf
  rw [none]
  rfl

/-- The three outcomes of a RING of a queue that takes work, in the order in which they are judged (R41). -/
theorem State.applyRing_running {s : State} {q : Nat} (t : W64) (h : (s.qctx q).state = .ready ∨ (s.qctx q).state = .stopped)
    (hw : ∀ x ∈ s.pair.ringWait, x.1 ≠ q) :
    s.applyRing q t = if 2 ^ (s.qctx q).sizeLog2 < idxDiff (s.qctx q).pi (s.qctx q).ci then s.malformed q 0x01 (s.qctx q).pi none
      else if idxDiff (s.qctx q).pi (s.qctx q).ci < idxDiff (s.qctx q).snap (s.qctx q).ci then s.malformed q 0x02 (s.qctx q).pi none
      else s.snapOrWait q (s.qctx q).pi t := by
  unfold State.applyRing
  rw [State.snapOf_none hw]
  obtain e | e := h <;> simp only [e]

/-- One whose records find room is taken at once. -/
theorem State.snapOrWait_now {s : State} {q : Nat} (v : W32) (t : W64) (hw : ∀ x ∈ s.pair.ringWait, x.1 ≠ q)
    (hr : s.qMirrored q = true → s.mirrorOn = true → s.mirrorRoom 1 = true) : s.snapOrWait q v t = s.acceptSnap q v t := by
  have alone : s.pair.ringWait.any (fun x => decide (x.1 = q)) = false := by
    simpa using fun a b c hx => hw (a, b, c) hx
  unfold State.snapOrWait
  rw [if_neg]
  rw [alone, Bool.or_false]
  cases a : s.qMirrored q <;> cases b : s.mirrorOn <;> simp [a, b, hr]

theorem QCtx.rung_eq (c : QCtx) (v : W32) (t : W64) :
    ({ c with snap := v, rings := c.rings + 1,
              accepts := if decide (v ≠ c.snap) then c.accepts ++ [{ old := c.snap, new := v, mt := t }] else c.accepts } : QCtx)
      = c.rung v t := by
  unfold QCtx.rung
  by_cases e : v = c.snap <;> simp [e]

theorem State.mirrorDeltaAt_onlyChanges (s : State) (t : W64) (dom : Nat) (k : CtxKind) (n code cc qid : Nat) (a : W32) (b : W64)
    (l : List W64) : onlyChanges [.arb, .pair, .lace, .out] s (s.mirrorDeltaAt t dom k n code cc qid a b l) :=
  onlyChanges_of_same (fun _ hb => State.mirrorDeltaAt_same hb s t dom k n code cc qid a b l)

/-- An accepted snapshot: S, the count and the acceptance in the queue's context, and its record on a mirrored queue. -/
theorem State.acceptSnap_queue (s : State) (q : Nat) (v : W32) (t : W64) :
    (s.acceptSnap q v t).q = (s.setQ q ((s.qctx q).rung v t)).q := by
  unfold State.acceptSnap
  dsimp only
  rw [QCtx.rung_eq]
  split
  · exact State.mirrorDeltaAt_onlyChanges _ _ _ _ _ _ _ _ _ _ _ .q (by decide)
  · rfl

theorem State.qMirrored_setQ {s : State} {q : Nat} {c : QCtx} (hm : c.mirror = (s.qctx q).mirror)
    (hs : c.state = (s.qctx q).state) : (s.setQ q c).qMirrored q = s.qMirrored q := by
  unfold State.qMirrored
  rw [State.qctx_setQ_self, hm, hs]

theorem State.acceptSnap_alone {s : State} {q : Nat} (v : W32) (t : W64) (h : s.qMirrored q = false) :
    s.acceptSnap q v t = s.setQ q ((s.qctx q).rung v t) := by
  unfold State.acceptSnap
  dsimp only
  rw [QCtx.rung_eq, State.qMirrored_setQ (s := s) (q := q) (c := (s.qctx q).rung v t) rfl rfl, h, Bool.and_false]
  rfl

/-- A RING in legal order of a queue that is not mirrored sets S, and changes nothing else. -/
theorem State.applyRing_alone {s : State} {q : Nat} (t : W64) (hs : (s.qctx q).state = .ready ∨ (s.qctx q).state = .stopped)
    (hw : ∀ x ∈ s.pair.ringWait, x.1 ≠ q) (hm : s.qMirrored q = false)
    (hr : idxDiff (s.qctx q).pi (s.qctx q).ci ≤ 2 ^ (s.qctx q).sizeLog2)
    (hb : idxDiff (s.qctx q).snap (s.qctx q).ci ≤ idxDiff (s.qctx q).pi (s.qctx q).ci) :
    s.applyRing q t = s.setQ q ((s.qctx q).rung (s.qctx q).pi t) := by
  rw [State.applyRing_running t hs hw, if_neg (not_lt.mpr hr), if_neg (not_lt.mpr hb),
    State.snapOrWait_now _ _ hw (by simp [hm]), State.acceptSnap_alone _ _ hm]

theorem State.qMirrored_congr {s t : State} (h : t.q = s.q) (q : Nat) : t.qMirrored q = s.qMirrored q := by
  unfold State.qMirrored
  rw [State.qctx_of_q h]

/-! ## PI_WRITE and PI_AND_RING -/

/-- A queue whose slot is open is there. -/
theorem State.slotOpen_state {s : State} {q : Nat} (h : s.slotClosed q = false) : (s.qctx q).state ≠ .free := by
  intro e
  simp [State.slotClosed, e] at h

theorem piWrite_stores {p : Fin 2} {q : BitVec 21} {v : W32} {s : State} (h : s.takesNow p.val (.piWrite p q v true))
    (ho : s.slotClosed q.toNat = false) (hd : (s.qctx q.toNat).state ≠ .destroying) :
    ∃ t, exec (.piWrite p q v true) s = .next t ∧ t.qctx q.toNat = { s.qctx q.toNat with pi := v }
      ∧ keepsQueues q.toNat s t ∧ onlyChanges [.regs, .q, .cache] s t
      ∧ keepsRegs (fun o => o = WQ_INTAKE_LEVEL p.val ∨ o = WQ_CTX_HIT) s t := by
  have came := s.arrived_onlyChanges p.val q.toNat (.piWrite p q v true)
  have regs := State.arrived_keepsRegs (c := .piWrite p q v true) p.isLt (fun _ => rfl) h.2.2.2.2.2
  have e := exec_piWrite h ho
  generalize s.arrived p.val q.toNat (.piWrite p q v true) = u at came regs e
  have ctx := State.qctx_of_q (came .q (by decide))
  rw [State.applyPi_open v (by rw [ctx]; exact State.slotOpen_state ho) (by rw [ctx]; exact hd)] at e
  refine ⟨_, e, ?_, fun k hk => ?_, (came.mono (by simp)).trans ((u.setQ_onlyChanges _ _).mono (by simp)),
    regs.trans (keepsRegs_of_regs rfl)⟩
  · rw [State.qctx_setQ_self, ctx]
  · rw [State.setQ_keepsQueues _ _ _ k hk, ctx]

theorem piAndRing_rings {p : Fin 2} {q : BitVec 21} {n : Nat} {v : W32} {s : State} (hn : n = 16 ∨ n = 32 ∨ n = 64)
    (h : s.takesNow p.val (.piAndRing p q n v true)) (ho : s.slotClosed q.toNat = false) (hm : s.qMirrored q.toNat = false)
    (hs : (s.qctx q.toNat).state = .ready ∨ (s.qctx q.toNat).state = .stopped) (hw : ∀ x ∈ s.pair.ringWait, x.1 ≠ q.toNat)
    (hr : idxDiff v (s.qctx q.toNat).ci ≤ 2 ^ (s.qctx q.toNat).sizeLog2)
    (hb : idxDiff (s.qctx q.toNat).snap (s.qctx q.toNat).ci ≤ idxDiff v (s.qctx q.toNat).ci) :
    ∃ t, exec (.piAndRing p q n v true) s = .next t
      ∧ t.qctx q.toNat = { s.qctx q.toNat with pi := v }.rung v (s.mtIn 1)
      ∧ keepsQueues q.toNat s t ∧ onlyChanges [.regs, .q, .cache] s t := by
  have came := s.arrived_onlyChanges p.val q.toNat (.piAndRing p q n v true)
  have e := exec_piAndRing hn h ho
  generalize s.arrived p.val q.toNat (.piAndRing p q n v true) = u at came e
  have ctx := State.qctx_of_q (came .q (by decide))
  have live : (u.qctx q.toNat).state ≠ .destroying := by rw [ctx]; obtain e | e := hs <;> simp [e]
  rw [State.applyPi_open v (by rw [ctx]; exact State.slotOpen_state ho) live, ctx] at e
  have set := State.qctx_setQ_self u q.toNat { s.qctx q.toNat with pi := v }
  have alone : (u.setQ q.toNat { s.qctx q.toNat with pi := v }).qMirrored q.toNat = false := by
    rw [← hm, ← State.qMirrored_congr (came .q (by decide))]
    exact State.qMirrored_setQ (by rw [ctx]) (by rw [ctx])
  have stored := u.setQ_onlyChanges q.toNat { s.qctx q.toNat with pi := v }
  have kept := u.setQ_keepsQueues q.toNat { s.qctx q.toNat with pi := v }
  generalize u.setQ q.toNat { s.qctx q.toNat with pi := v } = w at e set alone stored kept
  have wait : ∀ x ∈ w.pair.ringWait, x.1 ≠ q.toNat := by
    rw [show w.pair = s.pair from (stored .pair (by decide)).trans (came .pair (by decide))]; exact hw
  rw [State.applyRing_alone _ (by rw [set]; exact hs) wait alone (by rw [set]; exact hr) (by rw [set]; exact hb), set] at e
  refine ⟨_, e, State.qctx_setQ_self _ _ _, fun k hk => ?_,
    (came.mono (by simp)).trans ((stored.trans (State.setQ_onlyChanges _ _ _)).mono (by simp))⟩
  rw [State.setQ_keepsQueues _ _ _ k hk, kept k hk, ctx]

/-! ## RING -/

/-- A RING in legal order that finds room for its record. -/
theorem ring_takes {p : Fin 2} {q : BitVec 21} {s : State} (h : s.takesNow p.val (.ring p q true))
    (ho : s.slotClosed q.toNat = false) (hs : (s.qctx q.toNat).state = .ready ∨ (s.qctx q.toNat).state = .stopped)
    (hr : idxDiff (s.qctx q.toNat).pi (s.qctx q.toNat).ci ≤ 2 ^ (s.qctx q.toNat).sizeLog2)
    (hb : idxDiff (s.qctx q.toNat).snap (s.qctx q.toNat).ci ≤ idxDiff (s.qctx q.toNat).pi (s.qctx q.toNat).ci)
    (hw : ∀ x ∈ s.pair.ringWait, x.1 ≠ q.toNat)
    (hm : s.qMirrored q.toNat = true → s.mirrorOn = true → s.mirrorRoom 1 = true) :
    ∃ t, exec (.ring p q true) s = .next t
      ∧ t.qctx q.toNat = (s.qctx q.toNat).rung (s.qctx q.toNat).pi (s.mtIn 1)
      ∧ idxDiff (t.qctx q.toNat).snap (t.qctx q.toNat).ci ≤ 2 ^ (t.qctx q.toNat).sizeLog2
      ∧ keepsQueues q.toNat s t
      ∧ (s.qMirrored q.toNat = false → onlyChanges [.regs, .q, .cache] s t) := by
  have came := s.arrived_onlyChanges p.val q.toNat (.ring p q true)
  have regs := State.arrived_keepsRegs (c := .ring p q true) p.isLt (fun _ => rfl) h.2.2.2.2.2
  have e := exec_ring h ho
  generalize s.arrived p.val q.toNat (.ring p q true) = u at came regs e
  have ctx := State.qctx_of_q (came .q (by decide))
  have pair := came .pair (by decide)
  have wait : ∀ x ∈ u.pair.ringWait, x.1 ≠ q.toNat := by rw [pair]; exact hw
  have same := State.qMirrored_congr (came .q (by decide)) q.toNat
  have room : u.qMirrored q.toNat = true → u.mirrorOn = true → u.mirrorRoom 1 = true := by
    have on : u.mirrorOn = s.mirrorOn := State.mirrorOn_congr (regs _ (pairStat_not_arrival p.isLt))
    have rm : u.mirrorRoom 1 = s.mirrorRoom 1 := by unfold State.mirrorRoom; rw [pair]
    rw [same, on, rm]; exact hm
  rw [State.applyRing_running _ (by rw [ctx]; exact hs) wait, ctx, if_neg (not_lt.mpr hr), if_neg (not_lt.mpr hb),
    State.snapOrWait_now _ _ wait room] at e
  have after : (u.acceptSnap q.toNat (s.qctx q.toNat).pi (s.mtIn 1)).qctx q.toNat
      = (s.qctx q.toNat).rung (s.qctx q.toNat).pi (s.mtIn 1) := by
    rw [State.qctx_of_q (State.acceptSnap_queue u _ _ _), State.qctx_setQ_self, ctx]
  refine ⟨_, e, after, ?_, fun k hk => ?_, fun hq => ?_⟩
  · rw [after]; exact hr
  · rw [State.qctx_of_q (State.acceptSnap_queue u _ _ _), State.setQ_keepsQueues _ _ _ k hk, ctx]
  · rw [State.acceptSnap_alone _ _ (same.trans hq)]
    exact (came.mono (by simp)).trans ((u.setQ_onlyChanges _ _).mono (by simp))

/-- A RING of a queue that takes none is counted. -/
theorem ring_ignored {p : Fin 2} {q : BitVec 21} {s : State} (h : s.takesNow p.val (.ring p q true))
    (ho : s.slotClosed q.toNat = false)
    (hs : (s.qctx q.toNat).state = .quarantined ∨ (s.qctx q.toNat).state = .fenced ∨ (s.qctx q.toNat).state = .destroying) :
    ∃ t, exec (.ring p q true) s = .next t
      ∧ t.qctx q.toNat = { s.qctx q.toNat with ringIgnored := satAdd 16 (s.qctx q.toNat).ringIgnored 1 }
      ∧ keepsQueues q.toNat s t ∧ onlyChanges [.regs, .q, .cache] s t := by
  have came := s.arrived_onlyChanges p.val q.toNat (.ring p q true)
  have e := exec_ring h ho
  generalize s.arrived p.val q.toNat (.ring p q true) = u at came e
  have ctx := State.qctx_of_q (came .q (by decide))
  have counted : u.applyRing q.toNat (s.mtIn 1)
      = u.setQ q.toNat { u.qctx q.toNat with ringIgnored := satAdd 16 (u.qctx q.toNat).ringIgnored 1 } := by
    rw [← ctx] at hs
    unfold State.applyRing State.updQ
    obtain e | e | e := hs <;> simp only [e]
  rw [counted] at e
  refine ⟨_, e, ?_, fun k hk => ?_, (came.mono (by simp)).trans ((u.setQ_onlyChanges _ _).mono (by simp))⟩
  · rw [State.qctx_setQ_self, ctx]
  · rw [State.setQ_keepsQueues _ _ _ k hk, ctx]

/-! ## A RING whose indices are out of order (R41, R81, R82) -/

theorem State.log_onlyChanges (s : State) (code cls item aux a b : Nat) :
    onlyChanges [.regs, .err] s (s.log code cls item aux a b) :=
  onlyChanges_of_same (fun _ hb => State.log_same hb s code cls item aux a b)

theorem State.raise_onlyChanges (s : State) (n : Nat) : onlyChanges [.regs, .ic, .out] s (s.raise n) :=
  onlyChanges_of_same (fun _ hb => State.raise_same hb s n)

theorem State.quarNote_onlyChanges (s : State) (q cause : Nat) (i : W32) (n : Nat) :
    onlyChanges [.regs, .err, .ic, .out] s (s.quarNote q cause i n) :=
  ((State.log_onlyChanges s _ _ _ _ _ _).mono (by simp)).trans ((State.raise_onlyChanges _ 33).mono (by simp))

/-- The record of a quarantine counts one event on source 33. -/
theorem State.f_quarNote_count (s : State) (q cause : Nat) (i : W32) (n : Nat) :
    (s.quarNote q cause i n).f (IC_CNT_count 33) = min 255 (s.f (IC_CNT_count 33) + 1) := by
  unfold State.quarNote
  rw [State.f_raise_count _ _ (by decide) (by decide),
    State.f_of_reg _ (State.log_reg s _ _ _ _ _ _ _ (by decide) (by decide))]

/-- The quarantine of a queue by a RING that withdraws nothing. -/
theorem State.quarantine_ring {s : State} {q : Nat} (cause : Nat) (cidx : W32) (hm : s.qMirrored q = false)
    (hs : (s.qctx q).state ≠ .free) (hp : ∀ f ∈ s.flsOf q, f.phase ≠ .parked) :
    s.quarantine q cause cidx none
      = (s.setQ q { s.qctx q with cause := cause, causeIndex := cidx, state := .quarantined }).quarNote q cause cidx 0 := by
  have set := State.qctx_setQ_self s q { s.qctx q with cause := cause, causeIndex := cidx, state := .quarantined }
  have alone : (s.setQ q { s.qctx q with cause := cause, causeIndex := cidx, state := .quarantined }).qMirrored q = false := by
    have plain : (s.qctx q).mirror = .none ∨ q = 0 ∨ isAdopted q = true := by
      unfold State.qMirrored at hm
      by_cases a : isAdopted q = true
      · exact .inr (.inr a)
      by_cases b : q = 0
      · exact .inr (.inl b)
      exact .inl (by simpa [a, b, hs] using hm)
    unfold State.qMirrored
    rw [set]
    obtain e | e | e := plain <;> simp [e]
  have none : ((s.setQ q { s.qctx q with cause := cause, causeIndex := cidx, state := .quarantined }).flsOf q).filter
      (fun f => decide (some f.idx ≠ none) && (decide (f.phase = .parked) || (decide (f.phase = .startable) && false))) = [] := by
    rw [List.filter_eq_nil_iff]
    intro f hf
    simpa using hp f hf
  unfold State.quarantine State.withdraw State.updQ
  dsimp only
  rw [none]
  simp only [forEach, List.foldl_nil, List.length_nil]
  generalize s.setQ q { s.qctx q with cause := cause, causeIndex := cidx, state := .quarantined } = w at alone
  unfold State.snapQ
  rw [if_neg]
  rw [State.qMirrored_congr ((w.quarNote_onlyChanges q cause cidx 0) .q (by decide)), alone]
  exact Bool.false_ne_true

/-- The field of a register that the halt notice's words hold, as a halt that begins leaves it. -/
theorem State.f_halt_noted (s : State) (hc cause q : Nat) (idx : W32) (h : s.halted = false) (d : Fld) (hd : d.lo + d.w ≤ 64)
    (hh : haltReg d.ofs) : (s.halt hc cause q idx).f d = (s.haltNoted hc cause q idx).f d := by
  have unit : ¬ unitReg d.ofs := by unfold unitReg; omega
  have phase : d.ofs ≠ PAT_STAT := by unfold PAT_STAT; omega
  rw [State.f_of_regs (State.halt_regs s hc cause q idx h), State.f_setF_ne _ _ _ _ hd (.inl phase),
    State.f_of_reg _ (State.stopUnits_reg _ _ unit)]

/-- What a halt for a malformation records: the cause, the queue and the index (R363). -/
theorem State.f_haltNoted_malformed (s : State) (cause q : Nat) (idx : W32) (hc : cause < 2 ^ 8) (hq : q < 2 ^ 22) :
    (s.haltNoted 1 cause q idx).f PAIR_HALT_cause = cause ∧ (s.haltNoted 1 cause q idx).f PAIR_HALT_qid = q
      ∧ (s.haltNoted 1 cause q idx).f PAIR_HALT_IDX_index = idx.toNat := by
  unfold State.haltNoted
  simp only [if_true]
  refine ⟨?_, ?_, ?_⟩
  · rw [State.f_setReg_ne _ _ _ _ (by decide), State.f_setF_ne _ _ _ _ (by decide) (.inl (by decide)),
      State.f_setF_ne _ _ _ _ (by decide) (.inl (by decide)), State.f_setF_ne _ _ _ _ (by decide) (.inr (by decide)),
      State.f_setF_self _ _ _ (by decide)]
    exact Nat.mod_eq_of_lt hc
  · rw [State.f_setReg_ne _ _ _ _ (by decide), State.f_setF_ne _ _ _ _ (by decide) (.inl (by decide)),
      State.f_setF_ne _ _ _ _ (by decide) (.inl (by decide)), State.f_setF_self _ _ _ (by decide)]
    exact Nat.mod_eq_of_lt hq
  · rw [State.f_setReg_ne _ _ _ _ (by decide), State.f_setF_ne _ _ _ _ (by decide) (.inr (by decide)),
      State.f_setF_self _ _ _ (by decide)]
    exact Nat.mod_eq_of_lt idx.isLt

theorem State.halt_q (s : State) (hc cause q : Nat) (idx : W32) : (s.halt hc cause q idx).q = s.q :=
  State.halt_same (Blind.q.sub (by decide)) s hc cause q idx

/-- The cause with which a RING is found out of order (R41). -/
def QCtx.ringFault (c : QCtx) (cause : Nat) : Prop :=
  cause = 0x01 ∧ 2 ^ c.sizeLog2 < idxDiff c.pi c.ci
    ∨ cause = 0x02 ∧ idxDiff c.pi c.ci ≤ 2 ^ c.sizeLog2 ∧ idxDiff c.pi c.ci < idxDiff c.snap c.ci

theorem State.applyRing_malformed {s : State} {q cause : Nat} (t : W64)
    (hs : (s.qctx q).state = .ready ∨ (s.qctx q).state = .stopped) (hw : ∀ x ∈ s.pair.ringWait, x.1 ≠ q)
    (h : (s.qctx q).ringFault cause) : s.applyRing q t = s.malformed q cause (s.qctx q).pi none := by
  rw [State.applyRing_running t hs hw]
  obtain ⟨rfl, beyond⟩ | ⟨rfl, within, behind⟩ := h
  · rw [if_pos beyond]
  · rw [if_neg (not_lt.mpr within), if_pos behind]

theorem ring_quarantines {p : Fin 2} {q : BitVec 21} {cause : Nat} {s : State} (h : s.takesNow p.val (.ring p q true))
    (ho : s.slotClosed q.toNat = false) (hs : (s.qctx q.toNat).state = .ready ∨ (s.qctx q.toNat).state = .stopped)
    (hw : ∀ x ∈ s.pair.ringWait, x.1 ≠ q.toNat) (hf : (s.qctx q.toNat).ringFault cause) (hu : (s.qctx q.toNat).cls = .user)
    (ht : s.strict = false) (hm : s.qMirrored q.toNat = false) (hp : ∀ f ∈ s.flsOf q.toNat, f.phase ≠ .parked) :
    ∃ t, exec (.ring p q true) s = .next t
      ∧ t.qctx q.toNat = { s.qctx q.toNat with cause := cause, causeIndex := (s.qctx q.toNat).pi, state := .quarantined }
      ∧ t.f (IC_CNT_count 33) = min 255 (s.f (IC_CNT_count 33) + 1)
      ∧ keepsQueues q.toNat s t ∧ onlyChanges [.regs, .q, .cache, .err, .ic, .out] s t := by
  have came := s.arrived_onlyChanges p.val q.toNat (.ring p q true)
  have regs := State.arrived_keepsRegs (c := .ring p q true) p.isLt (fun _ => rfl) h.2.2.2.2.2
  have e := exec_ring h ho
  generalize s.arrived p.val q.toNat (.ring p q true) = u at came regs e
  have ctx := State.qctx_of_q (came .q (by decide))
  have strict : u.strict = false := by
    unfold State.strict State.fb at ht ⊢
    rw [State.f_of_reg PAT_STAT_strict_user (regs _ (patStat_not_arrival p.isLt)), ht]
  have fls : ∀ f ∈ u.flsOf q.toNat, f.phase ≠ .parked := by
    unfold State.flsOf
    rw [came .fl (by decide)]
    exact hp
  rw [State.applyRing_malformed _ (by rw [ctx]; exact hs) (by rw [came .pair (by decide)]; exact hw) (by rw [ctx]; exact hf)] at e
  unfold State.malformed at e
  rw [if_pos ⟨by rw [ctx]; exact hu, by simp [strict]⟩,
    State.quarantine_ring _ _ ((State.qMirrored_congr (came .q (by decide)) _).trans hm)
      (by rw [ctx]; obtain e | e := hs <;> simp [e]) fls, ctx] at e
  have set := State.qctx_setQ_self u q.toNat { s.qctx q.toNat with cause := cause, causeIndex := (s.qctx q.toNat).pi, state := .quarantined }
  have kept := u.setQ_keepsQueues q.toNat { s.qctx q.toNat with cause := cause, causeIndex := (s.qctx q.toNat).pi, state := .quarantined }
  have stored := u.setQ_onlyChanges q.toNat { s.qctx q.toNat with cause := cause, causeIndex := (s.qctx q.toNat).pi, state := .quarantined }
  generalize u.setQ q.toNat { s.qctx q.toNat with cause := cause, causeIndex := (s.qctx q.toNat).pi, state := .quarantined } = w
    at e set kept stored
  have noted := w.quarNote_onlyChanges q.toNat cause (s.qctx q.toNat).pi 0
  have same := State.qctx_of_q (noted .q (by decide))
  refine ⟨_, e, (same _).trans set, ?_, fun k hk => ?_,
    (came.mono (by simp)).trans ((stored.mono (by simp)).trans (noted.mono (by simp)))⟩
  · rw [State.f_quarNote_count, State.f_of_regs (stored .regs (by decide)),
      State.f_of_reg _ (regs _ (by rintro (e | e) <;> simp [IC_CNT_count, IC_CNT, WQ_INTAKE_LEVEL, WQ_CTX_HIT] at e; omega))]
  · rw [same, kept k hk, ctx]

theorem ring_halts {p : Fin 2} {q : BitVec 21} {cause : Nat} {s : State} (h : s.takesNow p.val (.ring p q true))
    (ho : s.slotClosed q.toNat = false) (hs : (s.qctx q.toNat).state = .ready ∨ (s.qctx q.toNat).state = .stopped)
    (hw : ∀ x ∈ s.pair.ringWait, x.1 ≠ q.toNat) (hf : (s.qctx q.toNat).ringFault cause)
    (hu : (s.qctx q.toNat).cls ≠ .user ∨ s.strict = true) :
    ∃ t, exec (.ring p q true) s = .next t ∧ t.halted = true ∧ t.f PAIR_HALT_halt_cause = 1 ∧ t.f PAIR_HALT_cause = cause
      ∧ t.f PAIR_HALT_qid = q.toNat ∧ t.f PAIR_HALT_IDX_index = (s.qctx q.toNat).pi.toNat
      ∧ (t.qctx q.toNat).snap = (s.qctx q.toNat).snap ∧ keepsQueues q.toNat s t := by
  have came := s.arrived_onlyChanges p.val q.toNat (.ring p q true)
  have regs := State.arrived_keepsRegs (c := .ring p q true) p.isLt (fun _ => rfl) h.2.2.2.2.2
  have e := exec_ring h ho
  generalize s.arrived p.val q.toNat (.ring p q true) = u at came regs e
  have ctx := State.qctx_of_q (came .q (by decide))
  have strict : u.strict = s.strict := by
    unfold State.strict State.fb
    rw [State.f_of_reg PAT_STAT_strict_user (regs _ (patStat_not_arrival p.isLt))]
  rw [State.applyRing_malformed _ (by rw [ctx]; exact hs) (by rw [came .pair (by decide)]; exact hw) (by rw [ctx]; exact hf)] at e
  unfold State.malformed State.updQ at e
  rw [if_neg (by rw [ctx, strict]; rintro ⟨a, b⟩; exact hu.elim (fun k => k a) (fun k => b k)), ctx] at e
  have set := State.qctx_setQ_self u q.toNat { s.qctx q.toNat with cause := cause, causeIndex := (s.qctx q.toNat).pi }
  have kept := u.setQ_keepsQueues q.toNat { s.qctx q.toNat with cause := cause, causeIndex := (s.qctx q.toNat).pi }
  have stored := u.setQ_onlyChanges q.toNat { s.qctx q.toNat with cause := cause, causeIndex := (s.qctx q.toNat).pi }
  generalize u.setQ q.toNat { s.qctx q.toNat with cause := cause, causeIndex := (s.qctx q.toNat).pi } = w at e set kept stored
  have up : w.halted = false := by
    rw [State.halted_congr (s := u) (by unfold State.reg; rw [stored .regs (by decide)]),
      State.halted_congr (regs _ (patStat_not_arrival p.isLt)), h.2.1]
  have small : cause < 2 ^ 8 := by obtain ⟨rfl, -⟩ | ⟨rfl, -⟩ := hf <;> decide
  have qid : q.toNat < 2 ^ 22 := lt_trans q.isLt (by decide)
  obtain ⟨fc, fq, fi⟩ := w.f_haltNoted_malformed cause q.toNat (s.qctx q.toNat).pi small qid
  have noted := w.f_halt_noted 1 cause q.toNat (s.qctx q.toNat).pi up
  have same := State.qctx_of_q (w.halt_q 1 cause q.toNat (s.qctx q.toNat).pi)
  refine ⟨_, e, State.halt_halted _ _ _ _ _ up, State.f_halt_cause _ _ _ _ _ up, ?_, ?_, ?_, ?_, fun k hk => ?_⟩
  · rw [noted _ (by decide) (by decide), fc]
  · rw [noted _ (by decide) (by decide), fq]
  · rw [noted _ (by decide) (by decide), fi]
  · rw [same, set]
  · rw [same, kept k hk, ctx]

end Sys2Proof.Machine

open Sys2Proof Sys2Proof.Machine

/-- Settles O7: PI_WRITE and PI_AND_RING, each from the state in which its arrival leaves the queue. -/
theorem producerIndexWrites : Obligations.ProducerIndexWrites := by
  unfold Obligations.ProducerIndexWrites
  exact ⟨fun _ _ _ _ h ho hd => piWrite_stores h ho hd,
    fun _ _ _ _ _ hn h ho hm hs hw hr hb => piAndRing_rings hn h ho hm hs hw hr hb⟩

/-- Settles O8: a RING in legal order, one out of order on a User queue and on any other, and one of a queue that takes none. -/
theorem ringTakesTheSnapshot : Obligations.RingTakesTheSnapshot := by
  unfold Obligations.RingTakesTheSnapshot
  intro p q s h ho
  refine ⟨fun hs hr hb hw hm => ring_takes h ho hs hr hb hw hm, fun cause hs hw hf => ⟨fun hu ht hm hp => ?_, fun hu => ?_⟩,
    fun hs => ring_ignored h ho hs⟩
  · exact ring_quarantines h ho hs hw hf hu ht hm hp
  · exact ring_halts h ho hs hw hf hu
end

section
/-!
PROOFS. Entries that are taken up without an engine: the lookups they need, their start, and the end of their data (R85, R93,
R102, R106).
-/
namespace Sys2Proof.Machine

/-! ## Looking up several contexts at hand -/

/-- Different contexts that are at hand are looked up one by one: only the hits are counted, every hot context stays hot, and what was
brought for others stays brought. -/
theorem State.demandAll_keeps {l : List (CtxKind × Nat)} {s : State} (h : s.atHand l = true) (nd : l.Nodup) :
    keepsRegs hitReg s (l.foldl (fun s x => (s.demandOne x.1 x.2).1) s)
      ∧ (∀ j m, (l.foldl (fun s x => (s.demandOne x.1 x.2).1) s).hot j m = s.hot j m)
      ∧ (∀ y, s.atHand [y] = true → s.hot y.1 y.2 = true ∨ y ∉ l →
          (l.foldl (fun s x => (s.demandOne x.1 x.2).1) s).atHand [y] = true) := by
  induction l generalizing s with
  | nil => exact ⟨keepsRegs.refl _ s, fun _ _ => rfl, fun _ hy _ => hy⟩
  | cons x l ih =>
    rw [State.atHand_cons, Bool.and_eq_true] at h
    obtain ⟨hx, hl⟩ := h
    obtain ⟨fresh, nd⟩ := List.nodup_cons.mp nd
    have each : ∀ y ∈ l, s.atHand [y] = true := by
      intro y hy
      have := List.all_eq_true.mp hl y hy
      simpa [State.atHand] using this
    have rest : (s.demandOne x.1 x.2).1.atHand l = true := by
      refine List.all_eq_true.mpr (fun y hy => ?_)
      have ne : y ≠ x := fun e => fresh (e ▸ hy)
      simpa [State.atHand] using State.demandOne_atHand_other hx (each y hy) (.inr ne)
    obtain ⟨regs, hot, other⟩ := ih rest nd
    refine ⟨(State.demandOne_keepsRegs hx).trans regs, fun j m => ?_, fun y hy hh => ?_⟩
    · rw [List.foldl_cons, hot, State.demandOne_hot hx]
    · have ne : s.hot y.1 y.2 = true ∨ y ≠ x := hh.imp id (fun k e => k (e ▸ List.mem_cons_self))
      refine other y (State.demandOne_atHand_other hx hy ne) (hh.imp (fun k => ?_) (fun k m => k (List.mem_cons_of_mem _ m)))
      rw [State.demandOne_hot hx, k]

theorem State.demand_eq_fold {s : State} {l : List (CtxKind × Nat)} (h : s.atHand l = true) :
    (s.demand l).1 = l.foldl (fun s x => (s.demandOne x.1 x.2).1) s := by
  unfold State.demand
  rw [if_pos h]

theorem upNeeds_nodup (q : Nat) (f : Flight) : (upNeeds q f).Nodup := by
  unfold upNeeds
  split <;> simp

/-- A ring is no context that taking up an entry needs. -/
theorem ring_not_upNeeds (q c : Nat) (f : Flight) : (CtxKind.ring, c) ∉ upNeeds q f := by
  unfold upNeeds
  split <;> simp

/-! ## Entries in flight -/

theorem State.updFl_onlyChanges (s : State) (q : Nat) (i : W32) (g : Flight → Flight) : onlyChanges [.fl] s (s.updFl q i g) :=
  onlyChanges_of_same (fun _ hb => State.updFl_same hb s q i g)

/-- Only the entry that an update names counts. -/
theorem State.updFl_congr {s : State} {q : Nat} {i : W32} {g h : Flight → Flight} (e : ∀ f, f.q = q → f.idx = i → g f = h f) :
    s.updFl q i g = s.updFl q i h := by
  unfold State.updFl updWhere
  refine congrArg s.withFl (List.map_congr_left (fun f _ => ?_))
  split
  · next k =>
    simp only [Bool.and_eq_true, decide_eq_true_eq] at k
    exact e f k.1 k.2
  · rfl

theorem State.updFl_keepsFlights (s : State) (q : Nat) (i : W32) (g : Flight → Flight) (hg : ∀ f, (g f).q = f.q ∧ (g f).idx = f.idx) :
    keepsFlights q i s (s.updFl q i g) :=
  fun k j h => State.flight_updFl_ne s q i g hg k j h

theorem keepsFlights.trans {q : Nat} {i : W32} {s t u : State} (h : keepsFlights q i s t) (k : keepsFlights q i t u) :
    keepsFlights q i s u := fun a b n => (k a b n).trans (h a b n)

theorem keepsFlights_of_fl {q : Nat} {i : W32} {s t : State} (h : t.fl = s.fl) : keepsFlights q i s t :=
  fun _ _ _ => State.flight_of_fl h _ _

/-! ## The start of an entry -/

section
variable {s t : State} (hq : t.q = s.q) (hf : t.fl = s.fl) (hp : t.pair = s.pair) (h1 : t.reg PAT_STAT = s.reg PAT_STAT)
  (h2 : t.reg PAIR_STAT = s.reg PAIR_STAT)

include h1 in
theorem State.run_congr : t.run = s.run := by
  unfold State.run State.phase
  rw [State.f_of_reg PAT_STAT_phase h1]

include hq h2 in
theorem State.sending_congr (q : Nat) : t.sending q = s.sending q := by
  unfold State.sending
  rw [State.qMirrored_congr hq, State.mirrorOn_congr h2]

include hp in
theorem State.mirrorRoom_congr (n : Nat) : t.mirrorRoom n = s.mirrorRoom n := by
  unfold State.mirrorRoom
  rw [hp]

include hp h2 in
theorem State.seqAcked_congr (x : Option W32) : t.seqAcked x = s.seqAcked x := by
  unfold State.seqAcked
  rw [hp, State.mirrorOn_congr h2]

include hp h2 in
theorem State.snapOpen_congr (k : CtxKind) (n : Nat) : t.snapOpen k n = s.snapOpen k n := by
  unfold State.snapOpen State.snapSent State.snapOwed State.mirrorLive
  rw [hp, State.mirrorOn_congr h2, State.f_of_reg PAIR_STAT_send_state h2]

include hf in
theorem State.earlierDone_congr (q : Nat) (i : W32) : t.earlierDone q i = s.earlierDone q i := by
  unfold State.earlierDone State.flsOf
  rw [hf]

include hq hf hp h2 in
theorem State.startOk_congr (f : Flight) : t.startOk f = s.startOk f := by
  have mirrored : t.qMirrored = s.qMirrored := funext (fun k => State.qMirrored_congr hq k)
  have ctx : t.qctx = s.qctx := funext (State.qctx_of_q hq)
  unfold State.startOk State.tracked State.queues State.flsOf
  rw [State.earlierDone_congr hf, State.sending_congr hq h2, hf, hq, hp, mirrored, ctx]

include hq h2 in
theorem State.needsStart_congr (f : Flight) : t.needsStart f = s.needsStart f := by
  unfold State.needsStart
  rw [State.sending_congr hq h2, State.qctx_of_q hq]

include hq hf hp h1 h2 in
/-- Whether an entry may start shows in the queues, the flights, the pair, and the registers of the phase and of the pair. -/
theorem State.canStart_congr (f : Flight) : t.canStart f = s.canStart f := by
  unfold State.canStart
  rw [State.run_congr h1, State.qctx_of_q hq, State.startOk_congr hq hf hp h2, State.needsStart_congr hq h2,
    State.snapOpen_congr hp h2, State.mirrorRoom_congr hp]
  cases f.startSeq with
  | none => rfl
  | some v => rw [State.seqAcked_congr hp h2]

end

theorem State.begun_congr {s t : State} (f : Flight) (hq : t.q = s.q) (h1 : t.reg IZ_RED_CFG = s.reg IZ_RED_CFG)
    (h2 : t.reg IZ_CHK_CFG = s.reg IZ_CHK_CFG) (h3 : t.reg IZ_PI_CFG = s.reg IZ_PI_CFG) : t.begun f = s.begun f := by
  unfold State.begun
  rw [State.qctx_of_q hq, h1, h2, h3]

/-- An entry that may begin starts, and keeps the settings in force. -/
theorem State.beginEntry_begun {s : State} {q : Nat} {i : W32} {f : Flight} (hf : s.flight? q i = some f) (hb : s.mayBegin f) :
    s.beginEntry q i = (s.updFl q i s.begun, true) := by
  obtain ⟨can, alone⟩ := hb
  unfold State.beginEntry
  rw [hf]
  simp only [can, alone, Bool.not_true, Bool.false_eq_true, if_false]
  rw [State.updFl_congr (h := s.begun) (fun g hq _ => by unfold State.begun; rw [hq])]

/-- The state in which an entry stands that is taken up, once it has started. -/
def State.takenUp (s : State) (q : Nat) (i : W32) (f : Flight) : State := (s.demand (upNeeds q f)).1.updFl q i s.begun

/-- The write that a zero-length PUT holds until its arrival is reported (R55). -/
def Flight.arrivalWrite (f : Flight) : DataWrite :=
  { w := f.wnext, eng := 127, space := 2, addr := f.e.dst.toNat, bytes := [], parity := [], poison := false, lo := 0, hi := 0,
    ord := 0, past := [] }

/-- What taking an entry up does once it has started (R93, R108, R196). -/
def State.takenOn (u : State) (q : Nat) (i : W32) (f : Flight) : State :=
  let s := if f.e.isTrigAdd && !f.skipAdd then u.addCtr (ctrIdx q f.e.src.toNat) f.e.dst false 1 q i else u
  let s := if f.e.isPut && !f.e.dstFt then
      (s.emit (.put q (nodeOf f.e.dst.toNat) f.e.dstKey (remOfs f.e.dst.toNat) f.e.ordClass [] (segCheck []) false)).updFl q i
        (fun g => { g with writes := g.writes ++ [f.arrivalWrite], wnext := g.wnext + 1 })
    else s
  if f.e.opcode = 0x31 then (s.settle q i).tryComplete q i else s.settle q i

/-- A register that the lookups of an entry leave alone. -/
theorem upNeeds_keepsRegs {s : State} {q : Nat} {f : Flight} (h : s.atHand (upNeeds q f) = true) :
    keepsRegs hitReg s (s.demand (upNeeds q f)).1 := by
  rw [State.demand_eq_fold h]
  exact (State.demandAll_keeps h (upNeeds_nodup q f)).1

/-- An entry that may begin, whose turn has come and whose contexts are at hand is taken up. -/
theorem State.takeNow_takenUp {s : State} {q : Nat} {i : W32} {f : Flight} (hf : s.flight? q i = some f) (hb : s.mayBegin f)
    (ho : (f.e.isPut && !f.e.dstFt) = true → s.ordReady f [nodeOf f.e.dst.toNat] = true)
    (hn : s.atHand (upNeeds q f) = true) : s.takeNow q i = (s.takenUp q i f).takenOn q i f := by
  have frame := s.demand_onlyChanges (upNeeds q f)
  have regs := upNeeds_keepsRegs hn
  have ok := State.demand_ok hn
  have turn : (!s.canStart f || ((f.e.isPut && !f.e.dstFt) && !s.ordReady f [nodeOf f.e.dst.toNat])) = false := by
    rw [hb.1, Bool.not_true, Bool.false_or, Bool.and_eq_false_iff, Bool.not_eq_false']
    by_cases e : (f.e.isPut && !f.e.dstFt) = true
    · exact .inr (ho e)
    · exact .inl (Bool.eq_false_of_not_eq_true e)
  unfold State.takeNow
  simp only [hf, turn, Bool.false_eq_true, if_false, ok, Bool.not_true]
  unfold State.takenUp
  generalize (s.demand (upNeeds q f)).1 = d at frame regs
  have flight : d.flight? q i = some f := (State.flight_of_fl (frame .fl (by decide)) q i).trans hf
  have can := State.canStart_congr (frame .q (by decide)) (frame .fl (by decide)) (frame .pair (by decide))
    (regs PAT_STAT (by decide)) (regs PAIR_STAT (by decide)) f
  have needs := State.needsStart_congr (frame .q (by decide)) (regs PAIR_STAT (by decide)) f
  have begun : d.begun = s.begun := funext (fun g => State.begun_congr g (frame .q (by decide)) (regs _ (by decide))
    (regs _ (by decide)) (regs _ (by decide)))
  rw [State.beginEntry_begun flight ⟨can.trans hb.1, by rw [needs]; exact hb.2⟩, begun]
  rfl

/-- What the start of an entry leaves: the queue and what it sends are as they were, and only this entry has changed. -/
theorem State.takenUp_spec {s : State} {q : Nat} {i : W32} {f : Flight} (hf : s.flight? q i = some f)
    (hn : s.atHand (upNeeds q f) = true) :
    (s.takenUp q i f).flight? q i = some (s.begun f) ∧ keepsFlights q i s (s.takenUp q i f)
      ∧ keepsRegs hitReg s (s.takenUp q i f) ∧ onlyChanges [.fl, .cache, .regs] s (s.takenUp q i f) := by
  have frame := s.demand_onlyChanges (upNeeds q f)
  have regs := upNeeds_keepsRegs hn
  unfold State.takenUp
  generalize (s.demand (upNeeds q f)).1 = d at frame regs
  have fl := frame .fl (by decide)
  refine ⟨?_, ?_, ?_, (frame.mono (by simp)).trans ((d.updFl_onlyChanges q i _).mono (by simp))⟩
  · rw [State.flight_updFl d q i s.begun (fun _ => ⟨rfl, rfl⟩), State.flight_of_fl fl, hf]
    rfl
  · exact (keepsFlights_of_fl fl).trans (d.updFl_keepsFlights q i _ (fun _ => ⟨rfl, rfl⟩))
  · exact regs.trans (keepsRegs_of_regs rfl)

/-- The contexts that were hot stay so, and every ring that was at hand. -/
theorem State.takenUp_cache {s : State} {q : Nat} {i : W32} {f : Flight} (hn : s.atHand (upNeeds q f) = true) :
    (∀ j m, (s.takenUp q i f).hot j m = s.hot j m)
      ∧ (∀ c, s.atHand [(.ring, c)] = true → (s.takenUp q i f).atHand [(.ring, c)] = true) := by
  obtain ⟨-, hot, other⟩ := State.demandAll_keeps hn (upNeeds_nodup q f)
  rw [← State.demand_eq_fold hn] at hot other
  exact ⟨hot, fun c hc => other (.ring, c) hc (.inr (ring_not_upNeeds q c f))⟩

/-! ## Data done -/

theorem State.dropKept_none {s : State} {q : Nat} {i : W32} {f : Flight} (hf : s.flight? q i = some f) (hk : f.kept = none) :
    s.dropKept q i = s := by
  unfold State.dropKept
  rw [hf]
  simp only [hk]

/-- A started entry with nothing left to do reaches data done. -/
theorem State.settle_dataDone {s : State} {q : Nat} {i : W32} {f : Flight} (hf : s.flight? q i = some f) (hp : f.phase = .started)
    (hl : f.e.length ≤ f.next) (hu : f.unbound) (hs : f.status ≠ stMalformed) :
    s.settle q i = s.updFl q i (fun g => { g with phase := .dataDone }) := by
  obtain ⟨redo, stitches, writes, kept⟩ := hu
  unfold State.settle
  rw [hf]
  simp only [hp, hl, redo, stitches, writes, hs, State.dropKept_none hf kept, decide_true, Bool.and_true, Bool.or_true,
    List.all_nil, List.isEmpty_nil, Bool.true_or, if_true, if_false]

/-- One with writes that are not accepted yet stays started. -/
theorem State.settle_writing {s : State} {q : Nat} {i : W32} {f : Flight} (hf : s.flight? q i = some f) (hw : f.writes ≠ [])
    (hs : f.status ≠ stMalformed) : s.settle q i = s := by
  have busy : (f.writes.isEmpty || decide (f.status = stMalformed)) = false := by simp [hw, hs]
  unfold State.settle
  rw [hf]
  simp only [busy, Bool.and_false, Bool.false_eq_true, if_false]

/-- What sends no record that has to wait goes on at once. -/
theorem State.takeUp_now {s : State} {q : Nat} {i : W32}
    (h : s.sending q = true → (s.takeNow q i).pair.owed.length ≤ s.pair.owed.length) : s.takeUp q i = s.takeNow q i := by
  unfold State.takeUp
  split
  · next k => unfold State.orWait; rw [if_neg (fun a => absurd a.1 (not_lt.mpr (h k)))]
  · rfl

/-- A work entry's own command runs the entry. -/
theorem exec_entryCommand {c : Instr} {op : Nat} {q : BitVec 22} {i : W32} {data : List Byte} (s : State)
    (hc : entryCommand c = some (op, q, i, data)) : exec c s = .next (s.runOp q.toNat i op data) := by
  cases c <;> cases hc <;> rfl

/-- The command of an entry that needs no engine takes it up. -/
theorem exec_takesUp {c : Instr} {op : Nat} {q : BitVec 22} {i : W32} {data : List Byte} {s : State} {f : Flight}
    (hc : entryCommand c = some (op, q, i, data)) (hf : s.flight? q.toNat i = some f) (ho : f.e.opcode = op)
    (hn : f.e.noEngine = true) : exec c s = .next (s.takeUp q.toNat i) := by
  rw [exec_entryCommand s hc]
  unfold State.runOp
  rw [hf]
  simp only [ho, ne_eq, not_true_eq_false, if_false, hn, if_true]

end Sys2Proof.Machine
end

section
/-!
PROOFS. Entries without an engine: zero-length entries, the arrival of a zero-length PUT, and TRIG_ADD (R55, R93, R102, R196).
-/
namespace Sys2Proof.Machine

/-! ## What the Lace transmitter leaves of what waits for the mirror queue -/

theorem State.sendPkt_pair (s : State) (v : Nat) (l : List (List Byte)) : (s.sendPkt v l).pair = s.pair :=
  State.sendPkt_same (Blind.pair.sub (by decide)) s v l

theorem State.ctrlNext_owed {s t : State} (h : s.ctrlNext = some t) : t.pair.owed = s.pair.owed := by
  unfold State.ctrlNext at h
  split at h
  · cases h
    exact congrArg PairState.owed (State.sendBytes_same (Blind.pair.sub (by decide)) _ _)
  · split at h
    · cases h
    · split at h
      · cases h
        rw [State.sendPkt_pair]
        rfl
      · cases h

theorem State.mirrorNext_owed {s t : State} {v : Nat} (h : s.mirrorNext v = some t) : t.pair.owed = s.pair.owed := by
  unfold State.mirrorNext at h
  split at h
  · cases h
  · split at h
    · cases h
      rw [State.sendPkt_pair]
      rfl
    · cases h

theorem State.laceNext_owed {s t : State} {r : Nat} (h : s.laceNext r = some t) : t.pair.owed = s.pair.owed := by
  unfold State.laceNext at h
  split at h
  · cases h
  split at h
  · exact State.ctrlNext_owed h
  · obtain ⟨x, -, rfl⟩ := Option.map_eq_some_iff.mp h
    exact congrArg PairState.owed (State.sendReplay_same (Blind.pair.sub (by decide)) _ _ _ _)
  · exact State.mirrorNext_owed h
  · exact State.mirrorNext_owed h
  · cases h

/-- Sending on the link leaves the records that wait for room as they were. -/
theorem State.pumpN_owed (n : Nat) (s : State) : (s.pumpN n).pair.owed = s.pair.owed := by
  induction n generalizing s with
  | zero => rfl
  | succ n ih =>
    unfold State.pumpN
    split
    · next r t h =>
      obtain ⟨x, -, hx⟩ := List.exists_of_findSome?_eq_some h
      obtain ⟨u, hu, e⟩ := Option.map_eq_some_iff.mp hx
      cases e
      rw [ih, ← State.laceNext_owed hu]
      rfl
    · rfl

theorem State.mirrorNow_owed (s : State) (code dom : Nat) (x : MRec) (l : List W64) :
    (s.mirrorNow code dom x l).pair.owed = s.pair.owed := by
  unfold State.mirrorNow State.pump
  exact State.pumpN_owed _ _

/-- A record that finds room leaves none waiting that did not wait. -/
theorem State.mirrorDeltaAt_owed {s : State} (t : W64) (dom : Nat) (k : CtxKind) (n code cc qid : Nat) (a : W32) (b : W64)
    (l : List W64) (h : s.mirrorRoom 1 = true) : (s.mirrorDeltaAt t dom k n code cc qid a b l).pair.owed = s.pair.owed := by
  unfold State.mirrorDeltaAt State.mirrorRecAt
  simp only [h, if_true]
  split_ifs
  · rfl
  · exact State.mirrorNow_owed _ _ _ _ _
  · rfl

/-! ## Counters -/

theorem keepsCounters_of_ctr {n : Nat} {s t : State} (h : t.ctr = s.ctr) : keepsCounters n s t :=
  fun _ _ => State.ctrOf_of_ctr h _

/-- An addition to a counter changes its value, modulo 2^64, and no other counter. -/
theorem State.addCtr_ctrOf (s : State) (n : Nat) (v : W64) (sync : Bool) (cc q : Nat) (i : W32) (k : Nat) :
    (s.addCtr n v sync cc q i).ctrOf k = if k = n then { s.ctrOf n with value := (s.ctrOf n).value + v } else s.ctrOf k := by
  rw [← State.ctrOf_setCtr]
  apply State.ctrOf_of_ctr
  unfold State.addCtr
  dsimp only
  split
  · rfl
  · exact State.mirrorCtr_same (Blind.ctr.sub (by decide)) _ _ _ _ _

theorem State.addCtr_onlyChanges (s : State) (n : Nat) (v : W64) (sync : Bool) (cc q : Nat) (i : W32) :
    onlyChanges [.ctr, .arb, .pair, .lace, .out] s (s.addCtr n v sync cc q i) :=
  onlyChanges_of_same (fun _ hb => State.addCtr_same hb s n v sync cc q i)

theorem State.addCtr_owed {s : State} (n : Nat) (v : W64) (sync : Bool) (cc q : Nat) (i : W32) (h : s.mirrorRoom 1 = true) :
    (s.addCtr n v sync cc q i).pair.owed = s.pair.owed := by
  unfold State.addCtr
  dsimp only
  split
  · rfl
  · unfold State.mirrorCtr State.mirrorCtrAt
    split
    · exact State.mirrorDeltaAt_owed _ _ _ _ _ _ _ _ _ _ h
    · rfl

/-! ## Entries with nothing to move (R93, R102) -/

/-- What is begun has nothing bound or issued, as before, and its work is not done yet. -/
theorem State.begun_unbound {s : State} {f : Flight} (h : f.unbound) : (s.begun f).unbound := h

/-- A started entry of length 0 that is taken on, and neither adds, sends nor completes at once, reaches data done. -/
theorem State.takenOn_dataDone {u : State} {q : Nat} {i : W32} {f g : Flight} (hg : u.flight? q i = some g) (hp : g.phase = .started)
    (he : g.e = f.e) (h0 : f.e.length = 0) (hu : g.unbound) (hs : g.status = stOk) (ht : (f.e.isTrigAdd && !f.skipAdd) = false)
    (ha : (f.e.isPut && !f.e.dstFt) = false) (hc : f.e.opcode ≠ 0x31) :
    u.takenOn q i f = u.updFl q i (fun g => { g with phase := .dataDone }) := by
  unfold State.takenOn
  simp only [ht, ha, hc, Bool.false_eq_true, if_false]
  exact State.settle_dataDone hg hp (by rw [he, h0]; exact Nat.zero_le _) hu (by rw [hs]; decide)

/-- The state after an entry reached data done, against the one in which it had started. -/
theorem State.dataDone_spec {s u : State} {q : Nat} {i : W32} {g : Flight} (hg : u.flight? q i = some g) (hk : keepsFlights q i s u) :
    (u.updFl q i (fun g => { g with phase := .dataDone })).flight? q i = some { g with phase := .dataDone }
      ∧ keepsFlights q i s (u.updFl q i (fun g => { g with phase := .dataDone })) := by
  refine ⟨?_, hk.trans (u.updFl_keepsFlights q i _ (fun _ => ⟨rfl, rfl⟩))⟩
  rw [State.flight_updFl u q i (fun g => { g with phase := .dataDone }) (fun _ => ⟨rfl, rfl⟩), hg]
  rfl

theorem entry_reaches_dataDone {c : Instr} {op : Nat} {q : BitVec 22} {i : W32} {data : List Byte} {s : State} {f : Flight}
    (hc : entryCommand c = some (op, q, i, data)) (h30 : op ≠ 0x30) (h31 : op ≠ 0x31) (hf : s.flight? q.toNat i = some f)
    (ho : f.e.opcode = op) (h0 : f.e.length = 0) (hput : f.e.isPut = true → f.e.dstFt = true) (hb : s.mayBegin f) (hu : f.unbound)
    (hs : f.status = stOk) (hn : s.atHand (upNeeds q.toNat f) = true) :
    ∃ t, exec c s = .next t ∧ t.flight? q.toNat i = some { s.begun f with phase := .dataDone }
      ∧ keepsFlights q.toNat i s t ∧ keepsRegs (fun o => o = WQ_CTX_HIT) s t ∧ onlyChanges [.fl, .cache, .regs] s t := by
  have silent : (f.e.isPut && !f.e.dstFt) = false := by
    cases e : f.e.isPut
    · rfl
    · simp [hput e]
  have noAdd : (f.e.isTrigAdd && !f.skipAdd) = false := by simp [Entry.isTrigAdd, ho, h30]
  have e := exec_takesUp hc hf ho (by simp [Entry.noEngine, h0])
  obtain ⟨flight, keeps, regs, frame⟩ := State.takenUp_spec hf hn
  have now := State.takeNow_takenUp hf hb (by simp [silent]) hn
  generalize s.takenUp q.toNat i f = u at flight keeps regs frame now
  have done : u.takenOn q.toNat i f = u.updFl q.toNat i (fun g => { g with phase := .dataDone }) :=
    State.takenOn_dataDone flight rfl rfl h0 (State.begun_unbound hu) hs noAdd silent (by rw [ho]; exact h31)
  rw [done] at now
  rw [State.takeUp_now (by rw [now]; exact fun _ => le_of_eq (congrArg (List.length ∘ PairState.owed) (frame .pair (by decide)))), now] at e
  obtain ⟨after, kept⟩ := State.dataDone_spec flight keeps
  exact ⟨_, e, after, kept, regs.trans (keepsRegs_of_regs rfl), frame.trans ((u.updFl_onlyChanges _ _ _).mono (by simp))⟩

/-! ## The arrival of a zero-length PUT (R55, R112) -/

theorem State.emit_onlyChanges (s : State) (o : Out) : onlyChanges [.out] s (s.emit o) :=
  onlyChanges_of_same (fun _ hb => State.emit_same hb s o)

/-- The segment that a zero-length PUT presents (R55, R442). -/
def Flight.arrival (f : Flight) (q : Nat) : Out :=
  .put q (nodeOf f.e.dst.toNat) f.e.dstKey (remOfs f.e.dst.toNat) f.e.ordClass [] (segCheck []) false

theorem State.takenOn_arrives {u : State} {q : Nat} {i : W32} {f g : Flight} (hg : u.flight? q i = some g)
    (hs : g.status = stOk) (ht : f.e.isTrigAdd = false) (ha : (f.e.isPut && !f.e.dstFt) = true) (hc : f.e.opcode ≠ 0x31) :
    u.takenOn q i f
      = (u.emit (f.arrival q)).updFl q i (fun g => { g with writes := g.writes ++ [f.arrivalWrite], wnext := g.wnext + 1 }) := by
  unfold State.takenOn
  simp only [ht, ha, hc, Bool.false_and, Bool.false_eq_true, if_false, if_true]
  have after : ((u.emit (f.arrival q)).updFl q i (fun g => { g with writes := g.writes ++ [f.arrivalWrite], wnext := g.wnext + 1 })).flight? q i
      = some { g with writes := g.writes ++ [f.arrivalWrite], wnext := g.wnext + 1 } := by
    rw [State.flight_updFl (u.emit (f.arrival q)) q i (fun g => { g with writes := g.writes ++ [f.arrivalWrite], wnext := g.wnext + 1 })
      (fun _ => ⟨rfl, rfl⟩), State.flight_of_fl (t := u.emit (f.arrival q)) (s := u) rfl, hg]
    rfl
  exact State.settle_writing after (by simp) (by show g.status ≠ stMalformed; rw [hs]; decide)

theorem put_arrives {c : Instr} {op : Nat} {q : BitVec 22} {i : W32} {data : List Byte} {s : State} {f : Flight}
    (hc : entryCommand c = some (op, q, i, data)) (hop : op = 0x10 ∨ op = 0x12) (hf : s.flight? q.toNat i = some f)
    (ho : f.e.opcode = op) (h0 : f.e.length = 0) (hd : f.e.dstFt = false) (hr : s.ordReady f [nodeOf f.e.dst.toNat] = true)
    (hb : s.mayBegin f) (hu : f.unbound) (hs : f.status = stOk) (hn : s.atHand (upNeeds q.toNat f) = true) :
    ∃ t, exec c s = .next t
      ∧ t.out = s.out ++ [f.arrival q.toNat]
      ∧ t.flight? q.toNat i = some { s.begun f with writes := [f.arrivalWrite], wnext := f.wnext + 1 }
      ∧ keepsFlights q.toNat i s t ∧ keepsRegs (fun o => o = WQ_CTX_HIT) s t ∧ onlyChanges [.fl, .out, .cache, .regs] s t := by
  have put : (f.e.isPut && !f.e.dstFt) = true := by obtain rfl | rfl := hop <;> simp [Entry.isPut, ho, hd]
  have noAdd : f.e.isTrigAdd = false := by obtain rfl | rfl := hop <;> simp [Entry.isTrigAdd, ho]
  have e := exec_takesUp hc hf ho (by simp [Entry.noEngine, h0])
  obtain ⟨flight, keeps, regs, frame⟩ := State.takenUp_spec hf hn
  have now := State.takeNow_takenUp hf hb (fun _ => hr) hn
  generalize s.takenUp q.toNat i f = u at flight keeps regs frame now
  rw [State.takenOn_arrives flight hs noAdd put (by obtain rfl | rfl := hop <;> simp [ho])] at now
  rw [State.takeUp_now (by rw [now]; exact fun _ => le_of_eq (congrArg (List.length ∘ PairState.owed) (frame .pair (by decide)))), now] at e
  have sent := (u.emit_onlyChanges (f.arrival q.toNat)).mono (m := [.fl, .out, .cache, .regs]) (by simp)
  have held := ((u.emit (f.arrival q.toNat)).updFl_onlyChanges q.toNat i
    (fun g => { g with writes := g.writes ++ [f.arrivalWrite], wnext := g.wnext + 1 })).mono (m := [.fl, .out, .cache, .regs]) (by simp)
  refine ⟨_, e, ?_, ?_, ?_, regs.trans (keepsRegs_of_regs rfl), (frame.mono (by simp)).trans (sent.trans held)⟩
  · show u.out ++ [f.arrival q.toNat] = _
    rw [show u.out = s.out from frame .out (by decide)]
  · rw [State.flight_updFl (u.emit (f.arrival q.toNat)) q.toNat i (fun g => { g with writes := g.writes ++ [f.arrivalWrite], wnext := g.wnext + 1 })
      (fun _ => ⟨rfl, rfl⟩), State.flight_of_fl (t := u.emit (f.arrival q.toNat)) (s := u) rfl, flight]
    have none : (s.begun f).writes = [] := hu.2.2.1
    show some { s.begun f with writes := (s.begun f).writes ++ [f.arrivalWrite], wnext := f.wnext + 1 } = _
    rw [none, List.nil_append]
  · exact (keeps.trans (keepsFlights_of_fl rfl)).trans ((u.emit (f.arrival q.toNat)).updFl_keepsFlights q.toNat i _ (fun _ => ⟨rfl, rfl⟩))

/-! ## TRIG_ADD (R196) -/

theorem trigAdd_adds {q : BitVec 22} {i : W32} {s : State} {f : Flight} (hf : s.flight? q.toNat i = some f)
    (ho : f.e.opcode = 0x30) (h0 : f.e.length = 0) (hb : s.mayBegin f) (hu : f.unbound) (hs : f.status = stOk)
    (ha : f.skipAdd = false) (hn : s.atHand (upNeeds q.toNat f) = true) (hr : s.sending q.toNat = true → s.mirrorRoom 1 = true) :
    ∃ t, exec (.trigAdd q i) s = .next t
      ∧ t.ctrOf (ctrIdx q.toNat f.e.src.toNat) = { s.ctrOf (ctrIdx q.toNat f.e.src.toNat) with
          value := (s.ctrOf (ctrIdx q.toNat f.e.src.toNat)).value + f.e.dst }
      ∧ keepsCounters (ctrIdx q.toNat f.e.src.toNat) s t
      ∧ t.flight? q.toNat i = some { s.begun f with phase := .dataDone }
      ∧ keepsFlights q.toNat i s t ∧ keepsRegs (fun o => o = WQ_CTX_HIT) s t
      ∧ onlyChanges [.ctr, .fl, .pair, .lace, .out, .cache, .regs, .arb] s t := by
  have adds : (f.e.isTrigAdd && !f.skipAdd) = true := by simp [Entry.isTrigAdd, ho, ha]
  have silent : (f.e.isPut && !f.e.dstFt) = false := by simp [Entry.isPut, ho]
  have e := exec_takesUp (c := .trigAdd q i) rfl hf ho (by simp [Entry.noEngine, h0])
  obtain ⟨flight, keeps, regs, frame⟩ := State.takenUp_spec hf hn
  have now := State.takeNow_takenUp hf hb (by simp [silent]) hn
  generalize s.takenUp q.toNat i f = u at flight keeps regs frame now
  have added := u.addCtr_onlyChanges (ctrIdx q.toNat f.e.src.toNat) f.e.dst false 1 q.toNat i
  have counter := u.addCtr_ctrOf (ctrIdx q.toNat f.e.src.toNat) f.e.dst false 1 q.toNat i
  have owed : s.sending q.toNat = true →
      (u.addCtr (ctrIdx q.toNat f.e.src.toNat) f.e.dst false 1 q.toNat i).pair.owed = u.pair.owed := fun k =>
    State.addCtr_owed _ _ _ _ _ _ (by rw [State.mirrorRoom_congr (frame .pair (by decide))]; exact hr k)
  have on : u.takenOn q.toNat i f = State.settle (u.addCtr (ctrIdx q.toNat f.e.src.toNat) f.e.dst false 1 q.toNat i) q.toNat i := by
    unfold State.takenOn
    simp only [adds, silent, ho, Bool.false_eq_true, if_false, if_true]
    rfl
  rw [on] at now
  generalize u.addCtr (ctrIdx q.toNat f.e.src.toNat) f.e.dst false 1 q.toNat i = v at added counter owed now
  have same : v.flight? q.toNat i = some (s.begun f) := (State.flight_of_fl (added .fl (by decide)) _ _).trans flight
  rw [State.settle_dataDone same rfl (by show f.e.length ≤ _; rw [h0]; exact Nat.zero_le _) (State.begun_unbound hu)
    (by show f.status ≠ stMalformed; rw [hs]; decide)] at now
  rw [State.takeUp_now (by
    rw [now]
    refine fun k => le_of_eq (congrArg List.length ?_)
    show v.pair.owed = s.pair.owed
    rw [owed k, show u.pair = s.pair from frame .pair (by decide)]), now] at e
  obtain ⟨after, kept⟩ := State.dataDone_spec same (keeps.trans (keepsFlights_of_fl (added .fl (by decide))))
  have ctr := State.ctrOf_of_ctr (frame .ctr (by decide))
  have sameCtr := fun k => State.ctrOf_of_ctr (s := v) (t := v.updFl q.toNat i (fun g => { g with phase := .dataDone })) rfl k
  refine ⟨_, e, ?_, fun k hk => ?_, after, kept, (regs.trans (keepsRegs_of_regs (added .regs (by decide)))).trans (keepsRegs_of_regs rfl),
    (frame.mono (by simp)).trans ((added.mono (by simp)).trans ((v.updFl_onlyChanges _ _ _).mono (by simp)))⟩
  · rw [sameCtr, counter, if_pos rfl, ctr]
  · rw [sameCtr, counter, if_neg hk, ctr]

end Sys2Proof.Machine

open Sys2Proof Sys2Proof.Machine

/-- Settles O13: entries with nothing to move, and zero-length PUTs. -/
theorem entriesWithoutAnEngine : Obligations.EntriesWithoutAnEngine := by
  unfold Obligations.EntriesWithoutAnEngine
  exact ⟨fun _ _ _ _ _ _ _ hc h30 h31 hf ho h0 hput hb hu hs hn => entry_reaches_dataDone hc h30 h31 hf ho h0 hput hb hu hs hn,
    fun _ _ _ _ _ _ _ hc hop hf ho h0 hd hr hb hu hs hn => put_arrives hc hop hf ho h0 hd hr hb hu hs hn⟩
end

section
/-!
PROOFS. The completion of an entry: its record goes straight to its ring (R107, R127, R139, R194).
-/
namespace Sys2Proof.Machine

/-! ## What a record's place depends on -/

theorem keepsRings_of_cq {c : Nat} {s t : State} (h : t.cq = s.cq) : keepsRings c s t := fun _ _ => State.cctx_of_cq h _

theorem keepsRings.trans {c : Nat} {s t u : State} (h : keepsRings c s t) (k : keepsRings c t u) : keepsRings c s u :=
  fun a b => (k a b).trans (h a b)

theorem keepsCounters.trans {n : Nat} {s t u : State} (h : keepsCounters n s t) (k : keepsCounters n t u) : keepsCounters n s u :=
  fun a b => (k a b).trans (h a b)

/-- The ring of an entry's record depends on its queue, its rings, and what the entry is and how it ends. -/
theorem State.recRing_congr {s t : State} {f g : Flight} (hq : t.q = s.q) (hc : t.cq = s.cq) (h1 : g.q = f.q) (h2 : g.e = f.e)
    (h3 : g.finalStatus = f.finalStatus) : t.recRing g = s.recRing f := by
  unfold State.recRing
  rw [h1, h2, h3, State.qctx_of_q hq]
  dsimp only
  rw [State.cctx_of_cq hc]

theorem State.direct_congr {s t : State} (c : Nat) (hc : t.cq = s.cq) (hs : t.cqs = s.cqs) : t.direct c = s.direct c := by
  unfold State.direct State.spilledOf State.waitsFor
  rw [State.cctx_of_cq hc, hs]

theorem State.endNeeds_congr {s t : State} {f g : Flight} (h : t.recRing g = s.recRing f) (h1 : g.q = f.q) (h2 : g.e = f.e)
    (h3 : g.postsRecord = f.postsRecord) (h4 : g.signalsAt = f.signalsAt) : t.endNeeds g = s.endNeeds f := by
  unfold State.endNeeds
  rw [h, h1, h2, h3, h4]

/-- Two states of an entry that end it alike: the same work with the same result. -/
structure Flight.endsLike (g f : Flight) : Prop where
  q : g.q = f.q
  idx : g.idx = f.idx
  e : g.e = f.e
  status : g.status = f.status
  redExc : g.redExc = f.redExc
  logged : g.logged = f.logged
  skipSignal : g.skipSignal = f.skipSignal

theorem Flight.endsLike.finalStatus {g f : Flight} (h : g.endsLike f) : g.finalStatus = f.finalStatus := by
  unfold Flight.finalStatus
  rw [h.logged, h.status, h.redExc]

theorem Flight.endsLike.signalsAt {g f : Flight} (h : g.endsLike f) : g.signalsAt = f.signalsAt := by
  unfold Flight.signalsAt
  rw [h.finalStatus, h.e, h.skipSignal]

theorem Flight.endsLike.postsRecord {g f : Flight} (h : g.endsLike f) : g.postsRecord = f.postsRecord := by
  unfold Flight.postsRecord
  rw [h.finalStatus, h.e]

/-! ## The parts of posting -/

/-- The registers that a completion may count in. -/
theorem State.completed_onlyChanges (s : State) (q : Nat) (i : W32) :
    onlyChanges [.regs, .ctr, .fl, .arb, .pair, .lace, .out] s (s.completed q i) :=
  onlyChanges_of_same (fun _ hb => State.completed_same hb s q i)

/-- How a completion counts the status its entry ends with. -/
def State.countsEnd (s : State) (f : Flight) (q : Nat) (i : W32) : State :=
  let s := if f.finalStatus = stRedExcept then (s.setF IZ_RED_LAST_qid q).setF IZ_RED_LAST_index i.toNat else s
  if f.finalStatus = stRemote then s.cnt IZ_NETP_STAT_remote_err else s

theorem State.countsEnd_onlyChanges (s : State) (f : Flight) (q : Nat) (i : W32) : onlyChanges [.regs] s (s.countsEnd f q i) := by
  have last : onlyChanges [.regs] s ((s.setF IZ_RED_LAST_qid q).setF IZ_RED_LAST_index i.toNat) :=
    (s.setF_onlyChanges _ _).trans (State.setF_onlyChanges _ _ _)
  have remote : ∀ t : State, onlyChanges [.regs] t (t.cnt IZ_NETP_STAT_remote_err) := fun t =>
    onlyChanges_of_same fun _ hb => State.cnt_same hb t _
  unfold State.countsEnd
  dsimp only
  split_ifs
  · exact last.trans (remote _)
  · exact remote _
  · exact last
  · exact onlyChanges.refl _ _

/-- An entry that has not completed does: it is posted, its signal is added, and its status is counted (R195). -/
theorem State.completed_eq {s : State} {q : Nat} {i : W32} {f : Flight} (hf : s.flight? q i = some f)
    (hp : f.phase.completed = false) :
    s.completed q i =
      (let u := s.updFl q i (fun g => { g with phase := .posted })
       (if f.signalsAt then u.addCtr (ctrIdx q f.e.sigCtr) (BitVec.ofNat 64 f.e.increment) f.complSeq.isSome 0 q i
         else u).countsEnd f q i) := by
  unfold State.completed
  rw [hf]
  simp only [hp, Bool.false_eq_true, if_false]
  rfl

/-- What a completion leaves: its entry is posted, the others are as they were, and its counter has gained what it signals. -/
theorem State.completed_spec {s : State} {q : Nat} {i : W32} {f : Flight} (hf : s.flight? q i = some f)
    (hp : f.phase.completed = false) :
    (s.completed q i).flight? q i = some { f with phase := .posted } ∧ keepsFlights q i s (s.completed q i)
      ∧ (f.signalsAt = true → ((s.completed q i).ctrOf (ctrIdx q f.e.sigCtr)).value
          = (s.ctrOf (ctrIdx q f.e.sigCtr)).value + BitVec.ofNat 64 f.e.increment)
      ∧ (f.signalsAt = false → (s.completed q i).ctr = s.ctr) ∧ keepsCounters (ctrIdx q f.e.sigCtr) s (s.completed q i) := by
  rw [State.completed_eq hf hp]
  dsimp only
  have flight : (s.updFl q i (fun g => { g with phase := .posted })).flight? q i = some { f with phase := .posted } := by
    rw [State.flight_updFl s q i (fun g => { g with phase := .posted }) (fun _ => ⟨rfl, rfl⟩), hf]
    rfl
  have keeps := s.updFl_keepsFlights q i (fun g => { g with phase := .posted }) (fun _ => ⟨rfl, rfl⟩)
  have ctr : (s.updFl q i (fun g => { g with phase := .posted })).ctr = s.ctr := rfl
  generalize s.updFl q i (fun g => { g with phase := .posted }) = u at flight keeps ctr
  have counted := fun v : State => v.countsEnd_onlyChanges f q i
  by_cases hs : f.signalsAt = true
  · rw [if_pos hs]
    have counts := counted (u.addCtr (ctrIdx q f.e.sigCtr) (BitVec.ofNat 64 f.e.increment) f.complSeq.isSome 0 q i)
    have cs := counts .ctr (by decide)
    have added := u.addCtr_onlyChanges (ctrIdx q f.e.sigCtr) (BitVec.ofNat 64 f.e.increment) f.complSeq.isSome 0 q i
    have value := u.addCtr_ctrOf (ctrIdx q f.e.sigCtr) (BitVec.ofNat 64 f.e.increment) f.complSeq.isSome 0 q i
    have sameFl := (counts .fl (by decide)).trans (added .fl (by decide))
    refine ⟨(State.flight_of_fl sameFl q i).trans flight, keeps.trans (keepsFlights_of_fl sameFl), fun _ => ?_,
      fun k => absurd (hs.symm.trans k) (by decide), fun k hk => ?_⟩
    · rw [State.ctrOf_of_ctr cs, value, if_pos rfl, State.ctrOf_of_ctr ctr]
    · rw [State.ctrOf_of_ctr cs, value, if_neg hk, State.ctrOf_of_ctr ctr]
  · rw [if_neg hs]
    have fl := counted u .fl (by decide)
    have cs := counted u .ctr (by decide)
    exact ⟨(State.flight_of_fl fl q i).trans flight, keeps.trans (keepsFlights_of_fl fl), fun k => absurd k hs,
      fun _ => cs.trans ctr, keepsCounters_of_ctr (cs.trans ctr)⟩

/-- A completion that signals nothing and reports nothing to a register changes none. -/
theorem State.completed_regs {s : State} {q : Nat} {i : W32} {f : Flight} (hf : s.flight? q i = some f)
    (hp : f.phase.completed = false) (hs : f.signalsAt = false) (h1 : f.finalStatus ≠ stRedExcept) (h2 : f.finalStatus ≠ stRemote) :
    s.completed q i = s.updFl q i (fun g => { g with phase := .posted }) := by
  rw [State.completed_eq hf hp]
  simp only [hs, Bool.false_eq_true, if_false, State.countsEnd, h1, h2]

theorem State.issueRec_onlyChanges (s : State) (h : Held) : onlyChanges [.cq, .cqs] s (s.issueRec h) :=
  onlyChanges_of_same (fun _ hb => State.issueRec_same hb s h)

/-- The record of an entry whose ring takes it at once is issued there, and the entry has completed. -/
theorem State.postEntry_direct {s : State} {q : Nat} {i : W32} {f : Flight} (hf : s.flight? q i = some f)
    (hp : f.phase.completed = false) (hr : f.postsRecord = true) (hq : f.quar = none)
    (ha : (s.cctx (s.recRing f)).state = .active) (hd : s.direct (s.recRing f) = true) :
    s.postEntry q i = (s.completed q i).issueRec { c := s.recRing f, r := f.record, q := q, idx := i } := by
  obtain ⟨flight, -⟩ := State.completed_spec hf hp
  have there : (s.cctx (s.recRing f)).state ≠ .free := by rw [ha]; decide
  have placed : s.placeRec { c := s.recRing f, r := f.record, q := q, idx := i }
      = (s.completed q i).issueRec { c := s.recRing f, r := f.record, q := q, idx := i } := by
    unfold State.placeRec
    rw [if_neg there, if_pos hd]
  have fl := (s.completed q i).issueRec_onlyChanges { c := s.recRing f, r := f.record, q := q, idx := i } .fl (by decide)
  have waits : ((s.completed q i).issueRec { c := s.recRing f, r := f.record, q := q, idx := i }).recWaiting q i = false := by
    unfold State.recWaiting
    rw [State.flight_of_fl fl, flight]
    rfl
  unfold State.postEntry
  rw [hf]
  simp only [hr, if_true, placed, waits, Bool.false_eq_true, if_false]
  unfold State.noteAfter
  simp only [hq]

/-- What posting leaves. -/
theorem State.postEntry_posted {s : State} {q : Nat} {i : W32} {f : Flight} (hf : s.flight? q i = some f)
    (hp : f.phase.completed = false) (hr : f.postsRecord = true) (hq : f.quar = none)
    (ha : (s.cctx (s.recRing f)).state = .active) (hd : s.direct (s.recRing f) = true) :
    posted f f.record s (s.postEntry q i)
      ∧ onlyChanges [.regs, .cq, .ctr, .fl, .cqs, .pair, .lace, .out, .arb] s (s.postEntry q i) := by
  rw [State.postEntry_direct hf hp hr hq ha hd]
  obtain ⟨eq, ei⟩ := State.flight_some hf
  subst eq ei
  obtain ⟨flight, keeps, signal, still, others⟩ := State.completed_spec hf hp
  have done := s.completed_onlyChanges f.q f.idx
  generalize s.completed f.q f.idx = u at flight keeps signal still others done
  have cq := done .cq (by decide)
  have ring : u.cctx (s.recRing f) = s.cctx (s.recRing f) := State.cctx_of_cq cq _
  have issued := u.issueRec_onlyChanges { c := s.recRing f, r := f.record, q := f.q, idx := f.idx }
  have fl := issued .fl (by decide)
  have ctr := issued .ctr (by decide)
  have cctx : ∀ k, (u.issueRec { c := s.recRing f, r := f.record, q := f.q, idx := f.idx }).cctx k
      = if k = s.recRing f then { s.cctx (s.recRing f) with pi := (s.cctx (s.recRing f)).pi + 1 } else s.cctx k := by
    intro k
    show (u.setC (s.recRing f) { u.cctx (s.recRing f) with pi := (u.cctx (s.recRing f)).pi + 1 }).cctx k = _
    rw [State.cctx_setC, ring, State.cctx_of_cq cq]
  refine ⟨⟨⟨_, (State.flight_of_fl fl _ _).trans flight, rfl⟩, ?_, ?_, fun h => ?_, fun h => ctr.trans (still h),
    others.trans (keepsCounters_of_ctr ctr), fun k hk => ?_, keeps.trans (keepsFlights_of_fl fl)⟩,
    (done.mono (by simp)).trans (issued.mono (by simp))⟩
  · show u.cqs.issued ++ [((u.cctx (s.recRing f)).pi, _)] = _
    rw [ring, show u.cqs = s.cqs from done .cqs (by decide), show u.tb = s.tb from done .tb (by decide)]
  · rw [cctx, if_pos rfl]
  · rw [State.ctrOf_of_ctr ctr, signal h]
  · rw [cctx, if_neg hk]

/-! ## A completion that is decided is posted (R44, R103, R355) -/

/-- An entry whose completion waits for nothing more is posted with its contexts looked up. -/
theorem State.finish_posts {s : State} {q : Nat} {i : W32} {f : Flight} (hf : s.flight? q i = some f) (hp : f.phase = .mirrorWait)
    (hk : s.seqAcked f.complSeq = true) (hl : f.flush.any id = false) (hr : s.run = true) (hs : s.sending q = false)
    (hn : s.atHand (s.endNeeds f) = true) : s.finish q i = (s.demand (s.endNeeds f)).1.postEntry q i := by
  have go : (decide (f.phase = .mirrorWait) && s.seqAcked f.complSeq && !f.flush.any id && s.run) = true := by
    rw [hp, hk, hl, hr]
    rfl
  unfold State.finish
  rw [hf]
  simp only [go, if_true, State.demand_ok hn, hs, Bool.not_true, Bool.false_eq_true, if_false]

/-- What a change leaves alone that touches neither the entry's end nor the rings: the record goes to the same place. -/
theorem posted_congr {s u t : State} {f g : Flight} {r : CRec} (h : posted g r u t) (hg : g.endsLike f) (hr : u.recRing g = s.recRing f)
    (hu : onlyChanges [.regs, .cache, .fl, .out, .ic] s u) (hk : keepsFlights f.q f.idx s u) : posted f r s t := by
  obtain ⟨flight, issued, ring, signal, still, counters, rings, flights⟩ := h
  have cq := State.cctx_of_cq (hu .cq (by decide))
  have ctr := State.ctrOf_of_ctr (hu .ctr (by decide))
  rw [hg.q, hg.idx] at flight issued flights
  rw [hr, cq, show u.cqs = s.cqs from hu .cqs (by decide), show u.tb = s.tb from hu .tb (by decide)] at issued
  rw [hr, cq] at ring
  rw [hg.signalsAt, hg.q, hg.e, ctr] at signal
  rw [hg.signalsAt] at still
  rw [hg.q, hg.e] at counters
  rw [hr] at rings
  exact ⟨flight, issued, ring, signal, fun k => (still k).trans (hu .ctr (by decide)),
    (keepsCounters_of_ctr (hu .ctr (by decide))).trans counters, (keepsRings_of_cq (hu .cq (by decide))).trans rings, hk.trans flights⟩

/-- An entry whose completion is decided, whose contexts are at hand and whose ring takes its record posts it. -/
theorem State.finish_posted {s : State} {q : Nat} {i : W32} {f : Flight} (hf : s.flight? q i = some f) (hp : f.phase = .mirrorWait)
    (hk : s.seqAcked f.complSeq = true) (hl : f.flush.any id = false) (hr : s.run = true) (hs : s.sending q = false)
    (hn : s.postsAtOnce f) :
    posted f f.record s (s.finish q i)
      ∧ onlyChanges [.regs, .cache, .cq, .ctr, .fl, .cqs, .pair, .lace, .out, .arb] s (s.finish q i) := by
  obtain ⟨posts, quar, hand, active, direct⟩ := hn
  rw [State.finish_posts hf hp hk hl hr hs hand]
  have looked := s.demand_onlyChanges (s.endNeeds f)
  generalize (s.demand (s.endNeeds f)).1 = d at looked
  have fl := looked .fl (by decide)
  have cq := looked .cq (by decide)
  have ring : d.recRing f = s.recRing f := State.recRing_congr (looked .q (by decide)) cq rfl rfl rfl
  obtain ⟨post, frame⟩ := State.postEntry_posted (s := d) ((State.flight_of_fl fl q i).trans hf) (by rw [hp]; rfl) posts quar
    (by rw [ring, State.cctx_of_cq cq]; exact active)
    (by rw [ring, State.direct_congr _ cq (looked .cqs (by decide))]; exact direct)
  exact ⟨posted_congr post ⟨rfl, rfl, rfl, rfl, rfl, rfl, rfl⟩ ring (looked.mono (by simp)) (keepsFlights_of_fl fl),
    (looked.mono (by simp)).trans (frame.mono (by simp))⟩

end Sys2Proof.Machine
end

section
/-!
PROOFS. The decision of an entry's completion, and the entries that complete as they are decided (R44, R107, R108).
-/
namespace Sys2Proof.Machine

/-! ## The decision -/

/-- An entry whose completion is decided, with no flushing read and no COMPLETE record to wait for. -/
def Flight.decided (f : Flight) (mt : W64) : Flight :=
  { f with phase := .mirrorWait, doneMt := mt, flush := [false, false], flushed := true, complSeq := none }

/-- The state in which an entry's completion has been decided. -/
def State.decided (s : State) (q : Nat) (i : W32) : State :=
  (s.demand [(.queue, q)]).1.updFl q i (fun g => g.decided s.mt)

theorem State.flushPort_congr {s t : State} {f g : Flight} (hq : t.q = s.q) (hc : t.cq = s.cq) (hg : g.endsLike f)
    (hw : g.wnext = f.wnext) : t.flushPort g = s.flushPort f := by
  unfold State.flushPort
  rw [State.recRing_congr hq hc hg.q hg.e hg.finalStatus, hg.postsRecord, hg.q, hg.e, hw, State.qctx_of_q hq, State.cctx_of_cq hc]

theorem State.demandQueue_keeps {s : State} {q : Nat} (h : s.atHand [(.queue, q)] = true) :
    keepsRegs hitReg s (s.demand [(.queue, q)]).1
      ∧ (∀ y, s.atHand [y] = true → y.1 ≠ .queue → (s.demand [(.queue, q)]).1.atHand [y] = true) := by
  obtain ⟨regs, -, other⟩ := State.demandAll_keeps h (List.nodup_singleton _)
  rw [← State.demand_eq_fold h] at regs other
  refine ⟨regs, fun y hy k => other y hy (.inr (fun m => k ?_))⟩
  rw [List.mem_singleton.mp m]

/-- What a decision leaves: the entry waits for nothing more, and no other has changed. -/
theorem State.decided_spec {s : State} {q : Nat} {i : W32} {f : Flight} (hf : s.flight? q i = some f)
    (hh : s.atHand [(.queue, q)] = true) :
    (s.decided q i).flight? q i = some (f.decided s.mt) ∧ keepsFlights q i s (s.decided q i) ∧ keepsRegs hitReg s (s.decided q i)
      ∧ onlyChanges [.regs, .cache, .fl] s (s.decided q i) := by
  have frame := s.demand_onlyChanges [(.queue, q)]
  obtain ⟨regs, -⟩ := State.demandQueue_keeps hh
  unfold State.decided
  generalize (s.demand [(.queue, q)]).1 = d at frame regs
  have fl := frame .fl (by decide)
  refine ⟨?_, ?_, regs.trans (keepsRegs_of_regs rfl), (frame.mono (by simp)).trans ((d.updFl_onlyChanges q i _).mono (by simp))⟩
  · rw [State.flight_updFl d q i (fun g => g.decided s.mt) (fun _ => ⟨rfl, rfl⟩), State.flight_of_fl fl, hf]
    rfl
  · exact (keepsFlights_of_fl fl).trans (d.updFl_keepsFlights q i _ (fun _ => ⟨rfl, rfl⟩))

/-- A ring or a counter that was at hand stays so. -/
theorem State.decided_atHand {s : State} {q : Nat} {i : W32} (hh : s.atHand [(.queue, q)] = true) {l : List (CtxKind × Nat)}
    (hl : s.atHand l = true) (hn : ∀ y ∈ l, y.1 ≠ .queue) : (s.decided q i).atHand l = true := by
  obtain ⟨-, other⟩ := State.demandQueue_keeps hh
  refine List.all_eq_true.mpr (fun y hy => ?_)
  have one : s.atHand [y] = true := by
    have := List.all_eq_true.mp hl y hy
    simpa [State.atHand] using this
  have kept := other y one (hn y hy)
  have same : (s.decided q i).atHand [y] = (s.demand [(.queue, q)]).1.atHand [y] := rfl
  rw [← same] at kept
  simpa [State.atHand] using kept

theorem endNeeds_not_queue (s : State) (f : Flight) : ∀ y ∈ s.endNeeds f, y.1 ≠ .queue := by
  intro y hy
  unfold State.endNeeds at hy
  rcases List.mem_append.mp hy with h | h <;> split at h <;> simp at h <;> rw [h] <;> exact CtxKind.noConfusion

/-- An entry at data done that its ordering lets complete is decided and goes on to its end. -/
theorem State.tryComplete_decides {s : State} {q : Nat} {i : W32} {f : Flight} (hf : s.flight? q i = some f) (hp : f.phase = .dataDone)
    (hr : s.run = true) (hm : s.mayFinish f = true) (hs : s.sending q = false) (hl : s.flushPort f = none)
    (hh : s.atHand [(.queue, q)] = true) : s.tryComplete q i = (s.decided q i).finish q i := by
  have frame := s.demand_onlyChanges [(.queue, q)]
  obtain ⟨regs, -⟩ := State.demandQueue_keeps hh
  have ok := State.demand_ok hh
  have goes : ¬ (f.phase ≠ .dataDone ∨ ¬ s.run ∨ ¬ s.mayFinish f ∨ s.flushWaits f) := by
    simp [hp, hr, hm, State.flushWaits, hl]
  unfold State.tryComplete State.decided
  simp only [hf, goes, hs, ok, Bool.false_and, Bool.not_true, Bool.false_eq_true, if_false]
  generalize (s.demand [(.queue, q)]).1 = d at frame regs
  have mt : d.mt = s.mt := congrArg (·.mt) (frame .tb (by decide))
  have sending : d.sending q = false := (State.sending_congr (frame .q (by decide)) (regs PAIR_STAT (by decide)) q).trans hs
  have port : ∀ m, d.flushPort { f with doneMt := m } = none := fun _ =>
    (State.flushPort_congr (f := f) (frame .q (by decide)) (frame .cq (by decide)) ⟨rfl, rfl, rfl, rfl, rfl, rfl, rfl⟩ rfl).trans hl
  simp only [sending, port, Bool.false_and, Bool.false_eq_true, if_false, mt]
  rfl

/-! ## Records that are issued as their completion is decided -/

/-- A record that goes straight to its ring still does when only the lookups and the entries have changed. -/
theorem State.postsAtOnce_congr {s t : State} {f g : Flight} (hn : s.postsAtOnce f) (hg : g.endsLike f) (hu : g.quar = f.quar)
    (hk : onlyChanges [.regs, .cache, .fl, .out, .ic] s t) (hh : t.atHand (s.endNeeds f) = true) :
    t.recRing g = s.recRing f ∧ t.postsAtOnce g := by
  obtain ⟨posts, quar, -, active, direct⟩ := hn
  have cq := hk .cq (by decide)
  have ring : t.recRing g = s.recRing f := State.recRing_congr (hk .q (by decide)) cq hg.q hg.e hg.finalStatus
  refine ⟨ring, hg.postsRecord.trans posts, hu.trans quar, ?_, ?_, ?_⟩
  · rw [State.endNeeds_congr ring hg.q hg.e hg.postsRecord hg.signalsAt]
    exact hh
  · rw [ring, State.cctx_of_cq cq]
    exact active
  · rw [ring, State.direct_congr _ cq (hk .cqs (by decide))]
    exact direct

theorem Flight.decided_endsLike (f : Flight) (mt : W64) : (f.decided mt).endsLike f := ⟨rfl, rfl, rfl, rfl, rfl, rfl, rfl⟩

/-- What a decision leaves ready for the record of its entry. -/
theorem State.decided_ready {s : State} {q : Nat} {i : W32} {f : Flight} (hf : s.flight? q i = some f) (hr : s.run = true)
    (hs : s.sending q = false) (hh : s.atHand [(.queue, q)] = true) (hn : s.postsAtOnce f) :
    (s.decided q i).run = true ∧ (s.decided q i).sending q = false ∧ (s.decided q i).recRing (f.decided s.mt) = s.recRing f
      ∧ (s.decided q i).postsAtOnce (f.decided s.mt) := by
  obtain ⟨-, -, regs, frame⟩ := State.decided_spec hf hh
  obtain ⟨ring, ready⟩ := State.postsAtOnce_congr hn (f.decided_endsLike s.mt) rfl (frame.mono (by simp))
    (State.decided_atHand hh hn.2.2.1 (endNeeds_not_queue s f))
  exact ⟨(State.run_congr (regs PAT_STAT (by decide))).trans hr,
    (State.sending_congr (frame .q (by decide)) (regs PAIR_STAT (by decide)) q).trans hs, ring, ready⟩

/-- An entry that is decided posts its record, stamped with Mover Time as done. -/
theorem State.tryComplete_posted {s : State} {q : Nat} {i : W32} {f : Flight} (hf : s.flight? q i = some f) (hp : f.phase = .dataDone)
    (hr : s.run = true) (hm : s.mayFinish f = true) (hs : s.sending q = false) (hl : s.flushPort f = none)
    (hh : s.atHand [(.queue, q)] = true) (hn : s.postsAtOnce f) :
    posted f { f with doneMt := s.mt }.record s (s.tryComplete q i)
      ∧ onlyChanges [.regs, .cache, .cq, .ctr, .fl, .cqs, .pair, .lace, .out, .arb] s (s.tryComplete q i) := by
  obtain ⟨eq, ei⟩ := State.flight_some hf
  obtain ⟨flight, keeps, -, frame⟩ := State.decided_spec hf hh
  obtain ⟨run, still, ring, ready⟩ := State.decided_ready (i := i) hf hr hs hh hn
  rw [State.tryComplete_decides hf hp hr hm hs hl hh]
  generalize s.decided q i = d at flight keeps frame run still ring ready
  obtain ⟨post, rest⟩ := State.finish_posted flight rfl rfl rfl run still ready
  rw [← eq, ← ei] at keeps
  exact ⟨posted_congr post (f.decided_endsLike s.mt) ring (frame.mono (by simp)) keeps, (frame.mono (by simp)).trans rest⟩

/-! ## FENCE (R108) -/

theorem idxBefore_self (i : W32) : idxBefore i i = false := by simp [idxBefore, idxDiff]

/-- An entry counts as no earlier one of its own. -/
theorem State.earlierDone_updFl (s : State) (q : Nat) (i : W32) (g : Flight → Flight) (hg : ∀ f, (g f).q = f.q ∧ (g f).idx = f.idx)
    (h : s.earlierDone q i = true) : (s.updFl q i g).earlierDone q i = true := by
  refine List.all_eq_true.mpr (fun x hx => ?_)
  obtain ⟨mem, hq⟩ := List.mem_filter.mp hx
  obtain ⟨y, hy, rfl⟩ := List.mem_map.mp mem
  by_cases k : (decide (y.q = q) && decide (y.idx = i)) = true
  · have own : y.idx = i := by simp only [Bool.and_eq_true, decide_eq_true_eq] at k; exact k.2
    rw [if_pos k, (hg y).2, own, idxBefore_self]
    rfl
  · rw [if_neg k] at hq ⊢
    exact List.all_eq_true.mp h y (List.mem_filter.mpr ⟨hy, hq⟩)

/-- What a FENCE that starts finds done before it stays done as it starts and reaches data done. -/
def State.fenced (s : State) (q : Nat) (i : W32) (f : Flight) : State :=
  (s.takenUp q i f).updFl q i (fun g => { g with phase := .dataDone })

theorem State.earlierDone_fenced {s : State} {q : Nat} {i : W32} {f : Flight} (h : s.earlierDone q i = true) :
    (s.fenced q i f).earlierDone q i = true := by
  have looked := s.demand_onlyChanges (upNeeds q f)
  unfold State.fenced State.takenUp
  generalize (s.demand (upNeeds q f)).1 = d at looked
  refine State.earlierDone_updFl _ q i (fun g => { g with phase := .dataDone }) (fun _ => ⟨rfl, rfl⟩)
    (State.earlierDone_updFl d q i s.begun (fun _ => ⟨rfl, rfl⟩) ?_)
  rw [State.earlierDone_congr (looked .fl (by decide))]
  exact h

theorem State.canStart_startOk {s : State} {f : Flight} (h : s.canStart f = true) : s.run = true ∧ s.startOk f = true := by
  unfold State.canStart at h
  simp only [Bool.and_eq_true] at h
  exact ⟨h.1.1.1.2, h.1.2⟩

theorem State.startOk_earlierDone {s : State} {f : Flight} (h : s.startOk f = true) (ho : f.e.opcode = 0x31) :
    s.earlierDone f.q f.idx = true := by
  unfold State.startOk at h
  simp only [Bool.and_eq_true] at h
  simpa [ho] using h.1.2

/-- What a FENCE leaves that reaches data done as it starts. -/
theorem State.fenced_spec {s : State} {q : Nat} {i : W32} {f : Flight} (hf : s.flight? q i = some f)
    (hn : s.atHand (upNeeds q f) = true) :
    (s.fenced q i f).flight? q i = some { s.begun f with phase := .dataDone } ∧ keepsFlights q i s (s.fenced q i f)
      ∧ keepsRegs hitReg s (s.fenced q i f) ∧ onlyChanges [.regs, .cache, .fl] s (s.fenced q i f) := by
  obtain ⟨flight, keeps, regs, frame⟩ := State.takenUp_spec hf hn
  unfold State.fenced
  generalize s.takenUp q i f = u at flight keeps regs frame
  obtain ⟨after, kept⟩ := State.dataDone_spec flight keeps
  exact ⟨after, kept, regs.trans (keepsRegs_of_regs rfl), (frame.mono (by simp)).trans ((u.updFl_onlyChanges _ _ _).mono (by simp))⟩

/-- A FENCE that may begin reaches data done at once and goes on to its completion (R108). -/
theorem State.takeNow_fenced {s : State} {q : Nat} {i : W32} {f : Flight} (hf : s.flight? q i = some f) (ho : f.e.opcode = 0x31)
    (h0 : f.e.length = 0) (hb : s.mayBegin f) (hu : f.unbound) (hs : f.status = stOk) (hn : s.atHand (upNeeds q f) = true) :
    s.takeNow q i = (s.fenced q i f).tryComplete q i := by
  have adds : (f.e.isTrigAdd && !f.skipAdd) = false := by simp [Entry.isTrigAdd, ho]
  have silent : (f.e.isPut && !f.e.dstFt) = false := by simp [Entry.isPut, ho]
  obtain ⟨flight, -⟩ := State.takenUp_spec hf hn
  rw [State.takeNow_takenUp hf hb (fun k => absurd (silent.symm.trans k) (by decide)) hn]
  unfold State.fenced State.takenOn
  simp only [adds, silent, ho, Bool.false_eq_true, if_false, if_true]
  rw [State.settle_dataDone flight rfl (by show f.e.length ≤ _; rw [h0]; exact Nat.zero_le _) (State.begun_unbound hu)
    (by show f.status ≠ stMalformed; rw [hs]; decide)]

/-- An entry that signals nothing and ends well posts its record with only the lookups counted. -/
theorem State.finish_silent {s : State} {q : Nat} {i : W32} {f : Flight} (hf : s.flight? q i = some f) (hp : f.phase = .mirrorWait)
    (hk : s.seqAcked f.complSeq = true) (hl : f.flush.any id = false) (hr : s.run = true) (hs : s.sending q = false)
    (hn : s.postsAtOnce f) (hg : f.signalsAt = false) (ho : f.finalStatus = stOk) :
    keepsRegs hitReg s (s.finish q i) ∧ onlyChanges [.regs, .cache, .fl, .cq, .cqs] s (s.finish q i) := by
  obtain ⟨posts, quar, hand, active, direct⟩ := hn
  have needs : s.endNeeds f = [(.ring, s.recRing f)] := by simp [State.endNeeds, posts, hg]
  rw [State.finish_posts hf hp hk hl hr hs hand]
  have looked := s.demand_onlyChanges (s.endNeeds f)
  have regs : keepsRegs hitReg s (s.demand (s.endNeeds f)).1 := by
    rw [needs] at hand ⊢
    exact State.demand_one_keepsRegs hand
  generalize (s.demand (s.endNeeds f)).1 = d at looked regs
  have cq := looked .cq (by decide)
  have ring : d.recRing f = s.recRing f := State.recRing_congr (looked .q (by decide)) cq rfl rfl rfl
  have flight : d.flight? q i = some f := (State.flight_of_fl (looked .fl (by decide)) q i).trans hf
  have going : f.phase.completed = false := by rw [hp]; rfl
  rw [State.postEntry_direct flight going posts quar (by rw [ring, State.cctx_of_cq cq]; exact active)
      (by rw [ring, State.direct_congr _ cq (looked .cqs (by decide))]; exact direct),
    State.completed_regs flight going hg (by rw [ho]; decide) (by rw [ho]; decide)]
  have ended := d.updFl_onlyChanges q i (fun g => { g with phase := .posted })
  have issued := (d.updFl q i (fun g => { g with phase := .posted })).issueRec_onlyChanges
    { c := d.recRing f, r := f.record, q := q, idx := i }
  exact ⟨(regs.trans (keepsRegs_of_regs (ended .regs (by decide)))).trans (keepsRegs_of_regs (issued .regs (by decide))),
    (looked.mono (by simp)).trans ((ended.mono (by simp)).trans (issued.mono (by simp)))⟩

theorem State.tryComplete_silent {s : State} {q : Nat} {i : W32} {f : Flight} (hf : s.flight? q i = some f) (hp : f.phase = .dataDone)
    (hr : s.run = true) (hm : s.mayFinish f = true) (hs : s.sending q = false) (hl : s.flushPort f = none)
    (hh : s.atHand [(.queue, q)] = true) (hn : s.postsAtOnce f) (hg : f.signalsAt = false) (ho : f.finalStatus = stOk) :
    keepsRegs hitReg s (s.tryComplete q i) ∧ onlyChanges [.regs, .cache, .fl, .cq, .cqs] s (s.tryComplete q i) := by
  obtain ⟨flight, -, regs, frame⟩ := State.decided_spec hf hh
  obtain ⟨run, still, -, ready⟩ := State.decided_ready (i := i) hf hr hs hh hn
  have ends := f.decided_endsLike s.mt
  rw [State.tryComplete_decides hf hp hr hm hs hl hh]
  generalize s.decided q i = d at flight regs frame run still ready
  obtain ⟨kept, rest⟩ := State.finish_silent flight rfl rfl rfl run still ready (ends.signalsAt.trans hg) (ends.finalStatus.trans ho)
  exact ⟨regs.trans kept, (frame.mono (by simp)).trans rest⟩

/-- A FENCE whose turn has come, on a queue that sends no mirror records, completes as it starts. -/
theorem fence_completes {q : BitVec 22} {i : W32} {s : State} {f : Flight} (hf : s.flight? q.toNat i = some f)
    (ho : f.e.opcode = 0x31) (h0 : f.e.length = 0) (hb : s.mayBegin f) (hu : f.unbound) (hs : f.status = stOk) (hx : f.redExc = false)
    (hl : f.logged = none) (hq : f.quar = none) (hp : f.postsRecord = true) (hg : f.signalsAt = false) (hm : s.sending q.toNat = false)
    (hh : s.hot .queue q.toNat = true) (hr : s.atHand [(.ring, s.recRing f)] = true) (ha : (s.cctx (s.recRing f)).state = .active)
    (hd : s.direct (s.recRing f) = true) :
    ∃ t g r, exec (.fence q i) s = .next t ∧ t.flight? q.toNat i = some g ∧ g.phase = .posted
      ∧ t.cqs.issued = s.cqs.issued ++ [((s.cctx (s.recRing f)).pi, { c := s.recRing f, r := r, q := q.toNat, idx := i, at_ := s.tb.cycle })]
      ∧ r.seq = i ∧ r.status = stOk ∧ r.opcode = 0x31
      ∧ t.cctx (s.recRing f) = { s.cctx (s.recRing f) with pi := (s.cctx (s.recRing f)).pi + 1 }
      ∧ keepsRings (s.recRing f) s t ∧ keepsFlights q.toNat i s t ∧ keepsRegs (fun o => o = WQ_CTX_HIT) s t
      ∧ onlyChanges [.cq, .fl, .cqs, .cache, .regs] s t := by
  have needs : upNeeds q.toNat f = [(.queue, q.toNat)] := by simp [upNeeds, Entry.isTrigAdd, ho]
  have hand : s.atHand (upNeeds q.toNat f) = true := by rw [needs]; simp [State.atHand, hh]
  have e := exec_takesUp (c := .fence q i) rfl hf ho (by simp [Entry.noEngine, h0])
  obtain ⟨eq, ei⟩ := State.flight_some hf
  obtain ⟨go, order⟩ := State.canStart_startOk hb.1
  have earlier := State.earlierDone_fenced (f := f) (State.startOk_earlierDone order ho)
  have final : f.finalStatus = stOk := by simp [Flight.finalStatus, hl, hs, hx]
  obtain ⟨flight, keeps, regs, frame⟩ := State.fenced_spec hf hand
  obtain ⟨hot, rings⟩ := State.takenUp_cache (i := i) hand
  have queue : (s.fenced q.toNat i f).atHand [(.queue, q.toNat)] = true := by
    have := (hot .queue q.toNat).trans hh
    have same : (s.fenced q.toNat i f).hot .queue q.toNat = (s.takenUp q.toNat i f).hot .queue q.toNat := rfl
    simp [State.atHand, same, this]
  have like : Flight.endsLike { s.begun f with phase := .dataDone } f := ⟨rfl, rfl, rfl, rfl, rfl, rfl, rfl⟩
  have ends : s.endNeeds f = [(.ring, s.recRing f)] := by simp [State.endNeeds, hp, hg]
  obtain ⟨ring, ready⟩ := State.postsAtOnce_congr (s := s) (f := f) ⟨hp, hq, by rw [ends]; exact hr, ha, hd⟩ like rfl (frame.mono (by simp))
    (by rw [ends]; exact rings _ hr)
  rw [eq, ei] at earlier
  rw [State.takeUp_now (fun k => absurd (hm.symm.trans k) (by decide)), State.takeNow_fenced hf ho h0 hb hu hs hand] at e
  have stat := regs PAIR_STAT (by decide)
  generalize s.fenced q.toNat i f = u at earlier flight keeps regs frame queue ring ready e stat
  have run := (State.run_congr (regs PAT_STAT (by decide))).trans go
  have still := (State.sending_congr (frame .q (by decide)) stat q.toNat).trans hm
  have mayFinish : u.mayFinish { s.begun f with phase := .dataDone } = true := by
    unfold State.mayFinish
    rw [show (u.earlierDone _ _) = true from eq ▸ ei ▸ earlier]
    simp
  have port : u.flushPort { s.begun f with phase := .dataDone } = none := by
    unfold State.flushPort
    rw [if_neg]
    rintro ⟨-, w, -⟩
    simp [State.begun, Entry.writes, Entry.isPlain, ho] at w
  obtain ⟨post, -⟩ := State.tryComplete_posted flight rfl run mayFinish still port queue ready
  obtain ⟨silent, rest⟩ := State.tryComplete_silent flight rfl run mayFinish still port queue ready (like.signalsAt.trans hg)
    (like.finalStatus.trans final)
  obtain ⟨⟨g, done, phase⟩, issued, pi, -, -, -, others, flights⟩ := posted_congr post like ring (frame.mono (by simp)) (eq.symm ▸ ei.symm ▸ keeps)
  rw [eq, ei] at done issued flights
  refine ⟨_, g, _, e, done, phase, issued, ?_, ?_, ?_, pi, others, flights, regs.trans silent,
    (frame.mono (by simp)).trans (rest.mono (by simp))⟩
  · simp [Flight.record, State.begun, hl, ei]
  · simp [Flight.record, State.begun, hl, Flight.finalStatus, hs, hx]
  · simp [Flight.record, State.begun, hl, ho]

end Sys2Proof.Machine

open Sys2Proof Sys2Proof.Machine

/-- Settles O14: TRIG_ADD adds its addend, and FENCE completes as it starts. -/
theorem counterAndFenceEntries : Obligations.CounterAndFenceEntries := by
  unfold Obligations.CounterAndFenceEntries
  exact ⟨fun _ _ _ _ hf ho h0 hb hu hs ha hn hr => trigAdd_adds hf ho h0 hb hu hs ha hn hr,
    fun _ _ _ _ hf ho h0 hb hu hs hx hl hq hp hg hm hh hr ha hd => fence_completes hf ho h0 hb hu hs hx hl hq hp hg hm hh hr ha hd⟩

/-- Settles O25: the entry is decided, and its record goes to a ring that takes it at once. -/
theorem entryCompletesAndPostsItsRecord : Obligations.EntryCompletesAndPostsItsRecord := by
  intro q i s f hf hp hr hm hs hl hh hn
  exact ⟨_, rfl, State.tryComplete_posted hf hp hr hm hs hl hh hn⟩
end

section
/-!
PROOFS. Flushing reads that return (R103, R303).
-/
namespace Sys2Proof.Machine

/-- What every step of a fold keeps holds after it. -/
theorem forEach_keeps {α : Type} {P : State → Prop} {g : α → State → State} (hg : ∀ x s, P s → P (g x s)) (l : List α) {s : State}
    (h : P s) : P (forEach l g s) := by
  unfold forEach
  induction l generalizing s with
  | nil => exact h
  | cons x l ih => exact ih (hg x s h)

theorem State.sendMsg_held (s : State) (n : Nat) : (s.sendMsg n).ic.held = s.ic.held := by
  have counts : ∀ t : State, (t.wrapAdd IC_MSG_STAT_sent 1).ic = t.ic := fun t =>
    onlyChanges_of_same (l := [.regs]) (fun _ hb => State.wrapAdd_same hb t _ _) .ic (by decide)
  unfold State.sendMsg
  dsimp only
  rw [counts]
  rfl

/-- The messages that wait for port `p` leave, and no others. -/
theorem State.releaseHeld_held (s : State) (p : Nat) :
    (s.releaseHeld p).ic.held = s.ic.held.filter (fun x => !(decide (x.2 = p) && decide (x ∉ s.ic.unread))) := by
  unfold State.releaseHeld
  dsimp only
  refine forEach_keeps (P := fun t => t.ic.held = _) (fun x t h => ?_) _ ?_
  · split
    · rw [State.sendMsg_held]
      exact h
    · exact h
  · refine List.filter_congr (fun x hx => ?_)
    simp [hx]

theorem State.releaseHeld_reg {s : State} {p o : Nat} (ho : ¬ icReg o) : (s.releaseHeld p).reg o = s.reg o := by
  unfold State.releaseHeld
  dsimp only
  refine forEach_keeps (P := fun t => t.reg o = s.reg o) (fun x t h => ?_) _ rfl
  split
  · rw [State.sendMsg_reg _ _ _ ho]
    exact h
  · exact h

/-- An entry for which the flushing read on port `p` has returned. -/
def Flight.flushed_ (f : Flight) (p : Nat) : Flight := { f with flush := f.flush.set p false }

/-- The state in which a flushing read has returned. -/
def State.flushDone (s : State) (q : Nat) (i : W32) (p : Nat) : State :=
  (s.releaseHeld p).updFl q i (fun f => f.flushed_ p)

theorem exec_flushReadDone (q : BitVec 22) (i : W32) (p : Fin 2) (s : State) :
    exec (.flushReadDone q i p) s = .next (if (s.flushDone q.toNat i p.val).run then (s.flushDone q.toNat i p.val).finish q.toNat i
      else s.flushDone q.toNat i p.val) := rfl

theorem spr_not_ic (b : Nat) (h : b < 16) : ¬ icReg (SPR_ARRAY b) := by
  unfold icReg SPR_ARRAY
  omega

/-- What a flushing read that returns leaves. -/
theorem State.flushDone_spec {s : State} {q : Nat} {i : W32} {p : Nat} {f : Flight} (hf : s.flight? q i = some f) :
    (s.flushDone q i p).flight? q i = some (f.flushed_ p) ∧ keepsFlights q i s (s.flushDone q i p)
      ∧ (s.flushDone q i p).ic.held = s.ic.held.filter (fun x => !(decide (x.2 = p) && decide (x ∉ s.ic.unread)))
      ∧ (∀ o, ¬ icReg o → (s.flushDone q i p).reg o = s.reg o) ∧ onlyChanges [.regs, .fl, .ic, .out] s (s.flushDone q i p) := by
  have held := s.releaseHeld_held p
  have regs := fun o (ho : ¬ icReg o) => State.releaseHeld_reg (s := s) (p := p) ho
  have frame : onlyChanges [.regs, .ic, .out] s (s.releaseHeld p) := onlyChanges_of_same (fun _ hb => State.releaseHeld_same hb s p)
  unfold State.flushDone
  generalize s.releaseHeld p = u at held regs frame
  have fl := frame .fl (by decide)
  refine ⟨?_, ?_, held, regs, (frame.mono (by simp)).trans ((u.updFl_onlyChanges q i _).mono (by simp))⟩
  · rw [State.flight_updFl u q i (fun f => f.flushed_ p) (fun _ => ⟨rfl, rfl⟩), State.flight_of_fl fl, hf]
    rfl
  · exact (keepsFlights_of_fl fl).trans (u.updFl_keepsFlights q i _ (fun _ => ⟨rfl, rfl⟩))

/-- An entry that waits for nothing at its end does not go on. -/
theorem State.finish_other {s : State} {q : Nat} {i : W32} {f : Flight} (hf : s.flight? q i = some f) (hp : f.phase ≠ .mirrorWait) :
    s.finish q i = s := by
  unfold State.finish
  rw [hf]
  simp only [hp, decide_false, Bool.false_and, Bool.false_eq_true, if_false]

/-- Where no record waits for it, a flushing read frees its port and the messages that wait there. -/
theorem flushReadDone_frees {q : BitVec 22} {i : W32} {p : Fin 2} {s : State} {f : Flight} (hf : s.flight? q.toNat i = some f)
    (h : s.run = false ∨ f.phase ≠ .mirrorWait) : exec (.flushReadDone q i p) s = .next (s.flushDone q.toNat i p.val) := by
  obtain ⟨flight, -, -, regs, -⟩ := State.flushDone_spec (p := p.val) hf
  rw [exec_flushReadDone]
  split
  · next run =>
    rcases h with halted | phase
    · rw [State.run_congr (regs PAT_STAT (by decide)), halted] at run
      exact absurd run (by decide)
    · rw [State.finish_other flight phase]
  · rfl

/-- A context at hand stays so as messages and entries change. -/
theorem State.atHand_congr {s t : State} {l : List (CtxKind × Nat)} (hk : onlyChanges [.regs, .fl, .ic, .out] s t)
    (hr : ∀ o, ¬ icReg o → t.reg o = s.reg o) : t.atHand l = s.atHand l := by
  have cache : t.cache = s.cache := hk .cache (by decide)
  refine congrArg (fun g => l.all g) (funext (fun x => ?_))
  rw [State.ctxExists_congr _ _ (hk .q (by decide)) (hk .cq (by decide)) (hk .ctr (by decide)) (hk .pair (by decide)),
    State.hot_congr _ _ (by rw [cache]) (hr _ (spr_not_ic _ (Nat.mod_lt _ (by decide)))), State.brought_congr (s := s) (t := t) _ _ (by rw [cache])]

/-- A record that waited for this flushing read alone is posted. -/
theorem flushReadDone_posts {q : BitVec 22} {i : W32} {p : Fin 2} {s : State} {f : Flight} (hf : s.flight? q.toNat i = some f)
    (hr : s.run = true) (hp : f.phase = .mirrorWait) (hk : s.seqAcked f.complSeq = true) (hl : (f.flush.set p.val false).any id = false)
    (hs : s.sending q.toNat = false) (hn : s.postsAtOnce f) :
    ∃ t, exec (.flushReadDone q i p) s = .next t ∧ posted f f.record s t
      ∧ t.ic.held = s.ic.held.filter (fun x => !(decide (x.2 = p.val) && decide (x ∉ s.ic.unread)))
      ∧ onlyChanges [.regs, .cache, .cq, .ctr, .fl, .cqs, .pair, .lace, .out, .arb, .ic] s t := by
  obtain ⟨eq, ei⟩ := State.flight_some hf
  obtain ⟨flight, keeps, held, regs, frame⟩ := State.flushDone_spec (p := p.val) hf
  have hand := State.atHand_congr (l := s.endNeeds f) frame regs
  have like : (f.flushed_ p.val).endsLike f := ⟨rfl, rfl, rfl, rfl, rfl, rfl, rfl⟩
  obtain ⟨ring, ready⟩ := State.postsAtOnce_congr hn like rfl (frame.mono (by simp)) (hand.trans hn.2.2.1)
  rw [exec_flushReadDone]
  generalize s.flushDone q.toNat i p.val = u at flight keeps held regs frame ring ready
  have stat := regs PAIR_STAT (by decide)
  have run := (State.run_congr (regs PAT_STAT (by decide))).trans hr
  obtain ⟨post, rest⟩ := State.finish_posted flight hp
    ((State.seqAcked_congr (frame .pair (by decide)) stat f.complSeq).trans hk) hl run
    ((State.sending_congr (frame .q (by decide)) stat q.toNat).trans hs) ready
  refine ⟨_, by rw [if_pos run], posted_congr post like ring (frame.mono (by simp)) (eq.symm ▸ ei.symm ▸ keeps), ?_,
    (frame.mono (by simp)).trans (rest.mono (by simp))⟩
  rw [← held]
  exact congrArg (·.held) (rest .ic (by decide))

end Sys2Proof.Machine
end

section
/-!
PROOFS. Reports, responses and timeouts of requests to other movers (R102, R211, R216, R442, R443).
-/
namespace Sys2Proof.Machine

/-! ## What settling an entry leaves (R102) -/

/-- The entry as it settles: what it had kept may be given up, and it may reach data done. -/
def Flight.settled (f : Flight) (p : Phase) (k : Option Stitch) : Flight := { f with phase := p, kept := k }

theorem State.dropKept_spec {s : State} {q : Nat} {i : W32} {f : Flight} (hf : s.flight? q i = some f) :
    (s.dropKept q i).flight? q i = some { f with kept := none } ∧ keepsFlights q i s (s.dropKept q i)
      ∧ onlyChanges [.fl, .lines] s (s.dropKept q i) := by
  have frame : onlyChanges [.fl, .lines] s (s.dropKept q i) := onlyChanges_of_same (fun _ hb => State.dropKept_same hb s q i)
  refine ⟨?_, ?_, frame⟩ <;> unfold State.dropKept <;> rw [hf] <;> dsimp only <;> split
  · next h => rw [hf, ← h]
  · next x h =>
    have fl : (s.freeBursts x.ends).fl = s.fl :=
      onlyChanges_of_same (l := [.lines]) (fun _ hb => State.freeBursts_same hb s x.ends) .fl (by decide)
    rw [State.flight_updFl _ q i (fun f => { f with kept := none }) (fun _ => ⟨rfl, rfl⟩), State.flight_of_fl fl, hf]
    rfl
  · exact keepsFlights_of_fl rfl
  · next x h =>
    have fl : (s.freeBursts x.ends).fl = s.fl :=
      onlyChanges_of_same (l := [.lines]) (fun _ hb => State.freeBursts_same hb s x.ends) .fl (by decide)
    exact (keepsFlights_of_fl fl).trans (State.updFl_keepsFlights _ q i _ (fun _ => ⟨rfl, rfl⟩))

/-- Settling an entry that is not malformed changes its phase and what it had kept, and of other things only request lines. -/
theorem State.settle_spec {s : State} {q : Nat} {i : W32} {f : Flight} (hf : s.flight? q i = some f) (hs : f.status ≠ stMalformed) :
    (∃ p k, (s.settle q i).flight? q i = some (f.settled p k) ∧ (p = .released → f.phase = .released))
      ∧ keepsFlights q i s (s.settle q i) ∧ onlyChanges [.fl, .lines] s (s.settle q i) := by
  obtain ⟨flight, keeps, frame⟩ := State.dropKept_spec hf
  unfold State.settle
  rw [hf]
  simp only [hs, if_false]
  split
  · generalize s.dropKept q i = d at flight keeps frame
    refine ⟨⟨.dataDone, none, ?_, fun h => absurd h (by decide)⟩,
      keeps.trans (d.updFl_keepsFlights q i _ (fun _ => ⟨rfl, rfl⟩)), frame.trans ((d.updFl_onlyChanges q i _).mono (by simp))⟩
    rw [State.flight_updFl d q i (fun g => { g with phase := .dataDone }) (fun _ => ⟨rfl, rfl⟩), flight]
    rfl
  · exact ⟨⟨f.phase, f.kept, hf, id⟩, keepsFlights_of_fl rfl, onlyChanges.refl _ s⟩

/-- What is left of an entry is removed only when CI has passed it. -/
theorem State.reap_unreleased {s : State} {q : Nat} {i : W32} {f : Flight} (hf : s.flight? q i = some f) (hp : f.phase ≠ .released) :
    s.reap q i = s := by
  unfold State.reap
  rw [hf]
  simp only [hp, decide_false, Bool.false_and, Bool.false_eq_true, if_false]

theorem State.settle_reap {s : State} {q : Nat} {i : W32} {f : Flight} (hf : s.flight? q i = some f) (hs : f.status ≠ stMalformed)
    (hp : f.phase ≠ .released) :
    (∃ p k, ((s.settle q i).reap q i).flight? q i = some (f.settled p k))
      ∧ keepsFlights q i s ((s.settle q i).reap q i) ∧ onlyChanges [.fl, .lines] s ((s.settle q i).reap q i) := by
  obtain ⟨⟨p, k, flight, released⟩, keeps, frame⟩ := State.settle_spec hf hs
  rw [State.reap_unreleased flight (fun h => hp (released h))]
  exact ⟨⟨p, k, flight⟩, keeps, frame⟩

/-! ## A request that fails (R443) -/

/-- The entry of a failed request ends with REMOTE_ERR at the request's job offset, with its reason recorded. -/
def failedAt (q : Nat) (i : W32) (f : Flight) (reason ofs : Nat) (s t : State) : Prop :=
  ∃ g, t.f IZ_NETP_STAT_last_reason = reason ∧ t.flight? q i = some g ∧ g.ended = true ∧ g.status = stRemote ∧ g.failOfs = ofs
    ∧ g.writes = f.writes ∧ keepsFlights q i s t ∧ keepsRegs (fun o => o = IZ_NETP_STAT) s t ∧ onlyChanges [.regs, .fl, .lines] s t

theorem State.endEntry_spec {s : State} {q : Nat} {i : W32} {f : Flight} (hf : s.flight? q i = some f) (he : f.ended = false)
    (st ofs : Nat) :
    (∃ g, (s.endEntry q i st ofs).flight? q i = some g ∧ g.ended = true ∧ g.status = st ∧ g.failOfs = ofs ∧ g.writes = f.writes
      ∧ g.phase = f.phase) ∧ keepsFlights q i s (s.endEntry q i st ofs) ∧ onlyChanges [.fl] s (s.endEntry q i st ofs) := by
  refine ⟨?_, s.updFl_keepsFlights q i _ (fun f => by split <;> exact ⟨rfl, rfl⟩), s.updFl_onlyChanges q i _⟩
  unfold State.endEntry
  rw [State.flight_updFl _ _ _ _ (fun f => by split <;> exact ⟨rfl, rfl⟩), hf, Option.map_some, he]
  exact ⟨_, rfl, rfl, rfl, rfl, rfl, rfl⟩

theorem State.remoteFail_spec {s : State} {q : Nat} {i : W32} {f : Flight} (hf : s.flight? q i = some f) (he : f.ended = false)
    (hp : f.phase ≠ .released) {reason : Nat} (hr : reason < 16) (ofs : Nat) :
    failedAt q i f reason ofs s (s.remoteFail q i reason ofs) := by
  have noted := s.setF_onlyChanges IZ_NETP_STAT_last_reason reason
  have regs := s.setF_keepsRegs IZ_NETP_STAT_last_reason reason
  have value := s.f_setF_self IZ_NETP_STAT_last_reason reason (by decide)
  rw [Nat.mod_eq_of_lt (show reason < 2 ^ IZ_NETP_STAT_last_reason.w from hr)] at value
  unfold State.remoteFail
  generalize s.setF IZ_NETP_STAT_last_reason reason = u at noted regs value
  have fl := noted .fl (by decide)
  obtain ⟨⟨g, flight, ended, status, at_, writes, phase⟩, keeps, frame⟩ :=
    State.endEntry_spec ((State.flight_of_fl fl q i).trans hf) he stRemote ofs
  generalize u.endEntry q i stRemote ofs = v at flight keeps frame
  obtain ⟨⟨p, k, after⟩, kept, rest⟩ := State.settle_reap flight (by rw [status]; decide) (by rw [phase]; exact hp)
  have sameRegs := (rest .regs (by decide)).trans (frame .regs (by decide))
  exact ⟨_, (State.f_of_regs sameRegs _).trans value, after, ended, status, at_, writes,
    (keepsFlights_of_fl fl).trans (keeps.trans kept), regs.trans (keepsRegs_of_regs sameRegs),
    (noted.mono (by simp)).trans ((frame.mono (by simp)).trans (rest.mono (by simp)))⟩

/-- A failure after the entry alone has changed. -/
theorem failedAt_of_updFl {s : State} {q : Nat} {i : W32} {f : Flight} (hf : s.flight? q i = some f) {h : Flight → Flight}
    (hh : ∀ f, (h f).q = f.q ∧ (h f).idx = f.idx) (he : (h f).ended = false) (hp : (h f).phase ≠ .released) {reason : Nat}
    (hr : reason < 16) (ofs : Nat) : failedAt q i (h f) reason ofs s ((s.updFl q i h).remoteFail q i reason ofs) := by
  have flight : (s.updFl q i h).flight? q i = some (h f) := by
    rw [State.flight_updFl _ _ _ _ hh, hf]
    rfl
  obtain ⟨g, why, after, ended, status, at_, writes, keeps, regs, frame⟩ := State.remoteFail_spec flight he hp hr ofs
  exact ⟨g, why, after, ended, status, at_, writes, (s.updFl_keepsFlights q i h hh).trans keeps,
    (keepsRegs_of_regs rfl).trans regs, ((s.updFl_onlyChanges q i h).mono (by simp)).trans frame⟩

/-! ## Delivery reports -/

/-- The entry without write `w`. -/
def Flight.without (w : Nat) (f : Flight) : Flight := { f with writes := f.writes.filter (fun y => decide (y.w ≠ w)) }

/-- The entry with write `x` done. -/
def Flight.wrote (x : DataWrite) (f : Flight) : Flight :=
  { f.without x.w with done := if x.lo < x.hi then f.done ++ [(x.lo, x.hi)] else f.done }

theorem State.wroteData_eq (s : State) (q : Nat) (i : W32) (x : DataWrite) :
    s.wroteData q i x = ((s.updFl q i (Flight.wrote x)).settle q i).reap q i := rfl

theorem State.wroteData_spec {s : State} {q : Nat} {i : W32} {f : Flight} (hf : s.flight? q i = some f) (hs : f.status ≠ stMalformed)
    (hp : f.phase ≠ .released) (x : DataWrite) :
    (∃ p k, (s.wroteData q i x).flight? q i = some ((f.wrote x).settled p k)) ∧ keepsFlights q i s (s.wroteData q i x)
      ∧ onlyChanges [.fl, .lines] s (s.wroteData q i x) := by
  have flight : (s.updFl q i (Flight.wrote x)).flight? q i = some (f.wrote x) := by
    rw [State.flight_updFl s q i (Flight.wrote x) (fun _ => ⟨rfl, rfl⟩), hf]
    rfl
  obtain ⟨after, kept, rest⟩ := State.settle_reap flight hs hp
  rw [State.wroteData_eq]
  exact ⟨after, (s.updFl_keepsFlights q i (Flight.wrote x) (fun _ => ⟨rfl, rfl⟩)).trans kept, ((s.updFl_onlyChanges q i _).mono (by simp)).trans rest⟩

section
variable {q : BitVec 22} {i : W32} {s : State} {f : Flight} (hf : s.flight? q.toNat i = some f)
include hf

theorem deliveryReport_delivers {w : Nat} {x : DataWrite} (hx : f.writes.find? (fun y => decide (y.w = w)) = some x)
    (h2 : x.space = 2) (hs : f.status ≠ stMalformed) (hp : f.phase ≠ .released) :
    ∃ t g, exec (.deliveryReport q i w 0) s = .next t ∧ t.flight? q.toNat i = some g
      ∧ g.writes = f.writes.filter (fun y => decide (y.w ≠ w)) ∧ g.done = (if x.lo < x.hi then f.done ++ [(x.lo, x.hi)] else f.done)
      ∧ g.status = f.status ∧ keepsFlights q.toNat i s t ∧ onlyChanges [.fl, .lines] s t := by
  obtain ⟨eq, -⟩ := State.flight_some hf
  have named : x.w = w := of_decide_eq_true (List.find?_some hx :)
  have e : exec (.deliveryReport q i w 0) s = .next (s.wroteData f.q i x) := by
    show execDeliveryReport q i w 0 s = _
    unfold execDeliveryReport
    simp [hf, hx, h2]
  rw [e, eq]
  obtain ⟨⟨p, k, after⟩, kept, rest⟩ := State.wroteData_spec hf hs hp x
  exact ⟨_, _, rfl, after, by rw [← named]; rfl, rfl, rfl, kept, rest⟩

theorem deliveryReport_fails {w reason : Nat} {x : DataWrite} (hx : f.writes.find? (fun y => decide (y.w = w)) = some x)
    (h2 : x.space = 2) (hp : f.phase ≠ .released) (h0 : 0 < reason) (hr : reason < 16) (he : f.ended = false) :
    ∃ t, exec (.deliveryReport q i w reason) s = .next t ∧ failedAt q.toNat i (f.without w) reason x.lo s t := by
  obtain ⟨eq, -⟩ := State.flight_some hf
  refine ⟨_, ?_, failedAt_of_updFl hf (h := Flight.without w) (fun _ => ⟨rfl, rfl⟩) he hp hr x.lo⟩
  show execDeliveryReport q i w reason s = _
  unfold execDeliveryReport
  simp only [hf, hx, h2, Nat.mod_eq_of_lt hr, Nat.pos_iff_ne_zero.mp h0, eq, ne_eq, not_true_eq_false, if_false]
  rfl

/-! ## Timeouts -/

theorem netpTimeout_fails {x : DataWrite} (hx : f.writes.find? (fun y => decide (y.space = 2)) = some x)
    (hp : f.phase ≠ .released) (he : f.ended = false) :
    ∃ t, exec (.netpTimeout q i) s = .next t ∧ failedAt q.toNat i (f.without x.w) 6 x.lo s t := by
  obtain ⟨eq, -⟩ := State.flight_some hf
  refine ⟨_, ?_, failedAt_of_updFl hf (h := Flight.without x.w) (fun _ => ⟨rfl, rfl⟩) he hp (by decide) x.lo⟩
  show execNetpTimeout q i s = _
  unfold execNetpTimeout
  simp only [hf, hx, eq]
  rfl

theorem netpTimeout_failsGet {x : Stitch} (hw : f.writes.find? (fun y => decide (y.space = 2)) = none)
    (hx : f.stitches.find? (fun x => f.e.isGet && decide (0 < x.unanswered)) = some x) (hp : f.phase ≠ .released) (he : f.ended = false) :
    ∃ t g, exec (.netpTimeout q i) s = .next t ∧ failedAt q.toNat i g 6 (x.asked - x.unanswered) s t := by
  obtain ⟨eq, -⟩ := State.flight_some hf
  refine ⟨_, _, ?_, failedAt_of_updFl hf
    (h := fun f => f.updStitch x.eng (fun x => { x with asked := x.asked - x.unanswered })) (fun _ => ⟨rfl, rfl⟩) he hp (by decide) _⟩
  show execNetpTimeout q i s = _
  unfold execNetpTimeout
  simp only [hf, hw, hx, eq]
  rfl

end

end Sys2Proof.Machine
end

section
/-!
PROOFS. Responses to GET requests (R211, R216, R442, R443).
-/
namespace Sys2Proof.Machine

/-! ## The stitch on an engine -/

theorem State.onEngine_some {s : State} {e : Nat} {f : Flight} {x : Stitch} (h : s.onEngine e = some (f, x)) :
    s.fl.find? (fun f => (f.stitch? e).isSome) = some f ∧ f.stitch? e = some x := by
  unfold State.onEngine at h
  split at h
  · next g hg =>
    obtain ⟨y, hy, k⟩ := Option.map_eq_some_iff.mp h
    cases k
    exact ⟨hg, hy⟩
  · cases h

/-- A change of the stitch on an engine is read back there. -/
theorem Flight.stitch_updStitch {f : Flight} {e : Nat} {x : Stitch} {g : Stitch → Stitch} (hg : ∀ y, (g y).eng = y.eng)
    (h : f.stitch? e = some x) : (f.updStitch e g).stitch? e = some (g x) := by
  have on := List.find?_some (show f.stitches.find? (fun y => decide (y.eng = e)) = some x from h)
  unfold Flight.stitch? Flight.updStitch
  rw [find_updWhere _ _ _ _ (fun y _ => by rw [hg y]), show f.stitches.find? _ = some x from h, Option.map_some, if_pos on]

theorem Flight.stitch_updStitch_isSome (f : Flight) (e : Nat) {g : Stitch → Stitch} (hg : ∀ y, (g y).eng = y.eng) :
    ((f.updStitch e g).stitch? e).isSome = (f.stitch? e).isSome := by
  unfold Flight.stitch? Flight.updStitch
  rw [find_updWhere _ _ _ _ (fun y _ => by rw [hg y]), Option.isSome_map]

theorem State.onEngine_updStitch {s : State} {e : Nat} {f : Flight} {x : Stitch} {g : Stitch → Stitch} (hg : ∀ y, (g y).eng = y.eng)
    (h : s.onEngine e = some (f, x)) : (s.updStitch f.q f.idx e g).onEngine e = some (f.updStitch e g, g x) := by
  obtain ⟨first, on⟩ := State.onEngine_some h
  have found : (s.updStitch f.q f.idx e g).fl.find? (fun f => (f.stitch? e).isSome) = some (f.updStitch e g) := by
    show (updWhere _ _ s.fl).find? _ = _
    rw [find_updWhere _ _ _ _ (fun y _ => Flight.stitch_updStitch_isSome y e hg), first]
    simp
  unfold State.onEngine
  rw [found]
  dsimp only
  rw [Flight.stitch_updStitch hg on]
  rfl

/-- What a change of a stitch leaves. -/
theorem State.updStitch_spec {s : State} {e : Nat} {f : Flight} {x : Stitch} {g : Stitch → Stitch} (hg : ∀ y, (g y).eng = y.eng)
    (h : s.onEngine e = some (f, x)) (hf : s.flight? f.q f.idx = some f) :
    (s.updStitch f.q f.idx e g).flight? f.q f.idx = some (f.updStitch e g) ∧ (f.updStitch e g).stitch? e = some (g x)
      ∧ keepsFlights f.q f.idx s (s.updStitch f.q f.idx e g) ∧ onlyChanges [.fl] s (s.updStitch f.q f.idx e g) := by
  refine ⟨?_, Flight.stitch_updStitch hg (State.onEngine_some h).2, s.updFl_keepsFlights _ _ _ (fun _ => ⟨rfl, rfl⟩),
    s.updFl_onlyChanges _ _ _⟩
  unfold State.updStitch
  rw [State.flight_updFl s f.q f.idx (fun f => f.updStitch e g) (fun _ => ⟨rfl, rfl⟩), hf]
  rfl

theorem Flight.updStitch_idem (f : Flight) (e : Nat) {g : Stitch → Stitch} (hg : ∀ y, (g y).eng = y.eng) (hi : ∀ y, g (g y) = g y) :
    (f.updStitch e g).updStitch e g = f.updStitch e g := by
  unfold Flight.updStitch updWhere
  dsimp only
  congr 1
  rw [List.map_map]
  refine List.map_congr_left (fun y _ => ?_)
  by_cases k : y.eng = e
  · simp [k, hg, hi]
  · simp [k]

theorem State.updStitch_idem (s : State) (q : Nat) (i : W32) (e : Nat) {g : Stitch → Stitch} (hg : ∀ y, (g y).eng = y.eng)
    (hi : ∀ y, g (g y) = g y) : (s.updStitch q i e g).updStitch q i e g = s.updStitch q i e g := by
  unfold State.updStitch State.updFl
  show s.withFl _ = s.withFl _
  refine congrArg s.withFl ?_
  unfold updWhere
  show (s.fl.map _).map _ = _
  rw [List.map_map]
  refine List.map_congr_left (fun f _ => ?_)
  by_cases k : f.q = q ∧ f.idx = i
  · obtain ⟨rfl, rfl⟩ := k
    simp [Flight.updStitch_idem f e hg hi, show (f.updStitch e g).q = f.q from rfl, show (f.updStitch e g).idx = f.idx from rfl]
  · have no : (decide (f.q = q) && decide (f.idx = i)) = false := by simpa using k
    simp only [Function.comp_apply, no, Bool.false_eq_true, if_false]

/-! ## An engine that owns nothing goes nowhere (R260) -/

/-- The stitch on engine `e` is that of a GET that no line paces, and no engine owns a channel. -/
structure State.idleGet (u : State) (e : Nat) (f : Flight) (x : Stitch) : Prop where
  on : u.onEngine e = some (f, x)
  flight : u.flight? f.q f.idx = some f
  get : f.e.isGet = true
  line : x.line = none
  ends : x.ends = []
  eng : u.engSt e ≠ 2
  own : u.arb.own = []

/-- The stitch without the bursts that have reached the point at which they are acknowledged (R118). -/
def State.acked (s : State) (f : Flight) (x z : Stitch) : Stitch :=
  let reached (b : Nat × Nat) : Bool :=
    if s.fb (RL_CFG_ack_point b.1) then decide (b.2 ≤ x.wr) else (List.range f.e.readers).all (f.hasStaged x b.2)
  { z with ends := z.ends.filter (fun b => !reached b) }

theorem State.acked_idem (s : State) (f : Flight) (x z : Stitch) : s.acked f x (s.acked f x z) = s.acked f x z := by
  unfold State.acked
  simp

theorem State.owns_nothing {s : State} (h : s.arb.own = []) (res e : Nat) : s.owns res e = false := by
  unfold State.owns
  rw [h]
  rfl

theorem Entry.isGet_writes {e : Entry} (h : e.isGet = true) :
    e.writes = true ∧ e.isFill = false ∧ e.readers = 1 := by
  have op : e.opcode = 0x11 ∨ e.opcode = 0x13 := by simpa [Entry.isGet] using h
  rcases op with op | op <;>
    simp [Entry.writes, Entry.isPlain, Entry.isTrigAdd, Entry.isCompare, Entry.isCheck, Entry.isFill, Entry.readers, Entry.nsrc,
      Entry.hasList, op]

section
variable {u : State} {e : Nat} {f : Flight} {x : Stitch} (h : u.idleGet e f x)
include h

theorem State.idleGet.stitch : f.stitch? e = some x := (State.onEngine_some h.on).2

theorem State.idleGet.issueUnits (n : Nat) : u.issueUnits n f.q f.idx e false = u := by
  cases n with
  | zero => rfl
  | succ n =>
    have no : u.ownsIssue f e = false := by
      unfold State.ownsIssue
      rw [State.owns_nothing h.own, (Entry.isGet_writes h.get).1]
      rfl
    unfold State.issueUnits
    simp only [h.flight, h.stitch, no, Bool.and_false, Bool.false_and, Bool.false_eq_true, if_false]

theorem State.idleGet.letBursts (n : Nat) : u.letBursts n f.q f.idx e = u := by
  cases n with
  | zero => rfl
  | succ n =>
    unfold State.letBursts
    simp only [h.flight, h.stitch, h.line]

theorem State.idleGet.askGet : u.askGet f.q f.idx e = u := by
  unfold State.askGet
  simp only [h.flight, h.stitch, State.owns_nothing h.own, Bool.and_false, Bool.false_and, Bool.false_eq_true, if_false]

theorem State.idleGet.showPace : u.showPace f.q f.idx e = u := by
  unfold State.showPace
  simp only [h.flight, h.stitch, h.line, h.eng, if_false]

theorem State.idleGet.ackBursts : u.ackBursts f.q f.idx e = u.updStitch f.q f.idx e (u.acked f x) := by
  unfold State.ackBursts
  simp only [h.flight, h.stitch, h.ends, List.filter_nil, List.foldl_nil]
  rfl

theorem State.idleGet.turns (n res : Nat) : u.turns n res = u := by
  cases n with
  | zero => rfl
  | succ n =>
    have none : u.owned res = [] := by
      unfold State.owned State.ownerOf
      rw [h.own]
      exact List.filterMap_eq_nil_iff.mpr (fun _ _ => rfl)
    unfold State.turns State.nextTurn
    simp only [none, List.filter_nil, List.append_nil, List.find?_nil, Option.map_none]

theorem State.idleGet.acked : (u.updStitch f.q f.idx e (u.acked f x)).idleGet e (f.updStitch e (u.acked f x)) x := by
  have same : u.acked f x x = x := by
    unfold State.acked
    rw [h.ends]
    cases x
    have ends := h.ends
    dsimp only at ends
    subst ends
    rfl
  have on := State.onEngine_updStitch (g := u.acked f x) (fun _ => rfl) h.on
  rw [same] at on
  exact ⟨on, (State.updStitch_spec (g := u.acked f x) (fun _ => rfl) h.on h.flight).1, h.get, h.line, h.ends, h.eng, h.own⟩

/-- What the engine does is acknowledge bursts that are held under its number. -/
theorem State.idleGet.engineGo : u.engineGo e = u.updStitch f.q f.idx e (u.acked f x) := by
  have after := h.acked
  unfold State.engineGo State.goBy
  simp only [h.on, h.issueUnits, h.letBursts, h.flight, h.stitch, (Entry.isGet_writes h.get).2.1, Bool.false_and, Bool.false_eq_true,
    if_false, Nat.zero_sub, State.issueReads, h.askGet, h.ackBursts, (Entry.isGet_writes h.get).2.2]
  rw [show (u.updStitch f.q f.idx e (u.acked f x)).letBursts 256 f.q f.idx e = _ from after.letBursts 256,
    show (u.updStitch f.q f.idx e (u.acked f x)).showPace f.q f.idx e = _ from after.showPace]
  exact after.turns _ _

/-- It does so once. -/
theorem State.idleGet.engineGo_twice : (u.engineGo e).engineGo e = u.engineGo e := by
  rw [h.engineGo, h.acked.engineGo]
  exact State.updStitch_idem u f.q f.idx e (fun _ => rfl) (u.acked_idem f x)

end

/-! ## Responses -/

/-- The stitch of a GET with the bytes of its response staged. -/
def Flight.answeredBy (f : Flight) (l : List SByte) (x : Stitch) : Stitch :=
  f.sumUp { x with stage := onReader f.e.readers 0 (· ++ l) x.stage }

theorem onReader_single {α : Type} (g : List α → List α) (l : List (List α)) : onReader 1 0 g l = [g (l.getD 0 [])] := rfl

section
variable {e : Nat} {data : List Byte} {chk : W32} {s : State} {f : Flight} {x : Stitch} (on : s.onEngine e = some (f, x))
  (hf : s.flight? f.q f.idx = some f) (hg : f.e.isGet = true) (hu : 0 < x.unanswered)
include on hg hu

theorem exec_getResponse_arrives {ans : NetAns} (ha : ans = .ok ∨ ans = .poison) (hl : data.length = x.unanswered)
    (hs : x.stop = false) (hr : s.run = true) :
    exec (.getResponse e ⟨data, chk⟩ ans) s = .next ((s.updStitch f.q f.idx e (f.answeredBy
      (data.map (fun b => SByte.mk b (decide (ans = .poison) || decide (segCheck data ≠ chk)))))).engineGo e) := by
  show execGetResponse e ⟨data, chk⟩ ans s = _
  unfold execGetResponse
  simp only [on, hg, hl, hs, hr, Nat.pos_iff_ne_zero.mp hu, Bool.not_true, decide_false, Bool.or_false, Bool.false_eq_true, ne_eq,
    not_true_eq_false, if_false]
  rcases ha with rfl | rfl <;> rfl

include hf in
theorem getResponse_arrives {ans : NetAns} (ha : ans = .ok ∨ ans = .poison) (hl : data.length = x.unanswered)
    (hs : x.stop = false) (hr : s.run = true) :
    ∃ u g y, exec (.getResponse e ⟨data, chk⟩ ans) s = .next (u.engineGo e)
        ∧ u.flight? f.q f.idx = some g ∧ g.stitch? e = some y ∧ y.wr = x.wr
        ∧ y.stage = [x.stage.getD 0 [] ++ data.map (fun b => SByte.mk b (decide (ans = .poison) || decide (segCheck data ≠ chk)))]
        ∧ keepsFlights f.q f.idx s u ∧ onlyChanges [.fl] s u
        ∧ (x.line = none → x.ends = [] → s.engSt e ≠ 2 → s.arb.own = [] → exec (.getResponse e ⟨data, chk⟩ ans) s = .next u) := by
  rw [exec_getResponse_arrives on hg hu ha hl hs hr]
  generalize data.map (fun b => SByte.mk b (decide (ans = .poison) || decide (segCheck data ≠ chk))) = l
  have eng : ∀ y, (f.answeredBy l y).eng = y.eng := fun _ => rfl
  obtain ⟨flight, stitch, keeps, frame⟩ := State.updStitch_spec eng on hf
  have stage : (f.answeredBy l x).stage = [x.stage.getD 0 [] ++ l] := by
    show onReader f.e.readers 0 (· ++ l) x.stage = _
    rw [(Entry.isGet_writes hg).2.2, onReader_single]
  by_cases quiet : x.line = none ∧ x.ends = [] ∧ s.engSt e ≠ 2 ∧ s.arb.own = []
  · obtain ⟨line, ends, idle, own⟩ := quiet
    have staged : (s.updStitch f.q f.idx e (f.answeredBy l)).idleGet e (f.updStitch e (f.answeredBy l)) (f.answeredBy l x) :=
      ⟨State.onEngine_updStitch eng on, flight, hg, line, ends, idle, own⟩
    have twice := staged.engineGo_twice
    have after := staged.acked
    rw [← staged.engineGo] at after
    refine ⟨_, _, _, congrArg _ twice.symm, after.flight, after.stitch, rfl, stage, keeps.trans ?_, frame.trans ?_, fun _ _ _ _ => rfl⟩
    · rw [staged.engineGo]
      exact State.updFl_keepsFlights _ _ _ _ (fun _ => ⟨rfl, rfl⟩)
    · rw [staged.engineGo]
      exact State.updFl_onlyChanges _ _ _ _
  · exact ⟨_, _, _, rfl, flight, stitch, rfl, stage, keeps, frame, fun h1 h2 h3 h4 => absurd ⟨h1, h2, h3, h4⟩ quiet⟩

include hf in
theorem getResponse_fails {reason : Nat} (hr : reason < 16) (he : f.ended = false) (hp : f.phase ≠ .released) :
    ∃ t g, exec (.getResponse e ⟨data, chk⟩ (.failed reason)) s = .next t
      ∧ failedAt f.q f.idx g reason (x.asked - x.unanswered) s t := by
  refine ⟨_, _, ?_, failedAt_of_updFl hf
    (h := fun f => f.updStitch e (fun x => { x with asked := x.asked - x.unanswered })) (fun _ => ⟨rfl, rfl⟩) he hp hr _⟩
  show execGetResponse e ⟨data, chk⟩ (.failed reason) s = _
  unfold execGetResponse
  simp only [on, hg, Nat.mod_eq_of_lt hr, Nat.pos_iff_ne_zero.mp hu, Bool.not_true, decide_false, Bool.or_false, Bool.false_eq_true, if_false]
  rfl

end

end Sys2Proof.Machine

open Sys2Proof Sys2Proof.Machine

/-- Settles O26: flushing reads, delivery reports, GET responses and timeouts. -/
theorem networkAnswers : Obligations.NetworkAnswers := by
  unfold Obligations.NetworkAnswers
  refine ⟨fun q i p s f hf => ⟨fun h => ?_, fun hr hp hk hl hs hn => flushReadDone_posts hf hr hp hk hl hs hn⟩,
    fun q i w reason s f x hf hx h2 hs hp => ⟨?_, fun h0 hr he => ?_⟩,
    fun e data chk s f x on hf hg hu => ⟨fun ans ha hl hs hr => getResponse_arrives on hf hg hu ha hl hs hr, fun reason hr he hs hp => ?_⟩,
    fun q i s f hf he hs hp => ⟨fun x hx => ?_, fun x hw hx => ?_⟩⟩
  · obtain ⟨flight, keeps, held, -, frame⟩ := State.flushDone_spec (p := p.val) hf
    exact ⟨_, flushReadDone_frees hf h, flight, held, keeps, frame⟩
  · rintro rfl
    exact deliveryReport_delivers hf hx h2 hs hp
  · obtain ⟨t, run, g, why, flight, ended, status, at_, writes, keeps, regs, frame⟩ := deliveryReport_fails hf hx h2 hp h0 hr he
    exact ⟨t, g, run, why, flight, ended, status, at_, writes, keeps, regs, frame⟩
  · obtain ⟨t, -, run, g, why, flight, ended, status, at_, -, keeps, regs, frame⟩ := getResponse_fails on hf hg hu hr he hp
    exact ⟨t, g, run, why, flight, ended, status, at_, keeps, regs, frame⟩
  · obtain ⟨t, run, g, why, flight, ended, status, at_, writes, keeps, regs, frame⟩ := netpTimeout_fails hf hx hp he
    exact ⟨t, g, run, why, flight, ended, status, at_, writes, keeps, regs, frame⟩
  · obtain ⟨t, -, run, g, why, flight, ended, status, at_, -, keeps, regs, frame⟩ := netpTimeout_failsGet hf hw hx hp he
    exact ⟨t, g, run, why, flight, ended, status, at_, keeps, regs, frame⟩
end

section
/-!
PROOFS. A creation whose stitch is held by an engine that does not exist (R94, R255, R257).
-/
namespace Sys2Proof.Machine

/-- The number beyond the 68 engines whose row of IZ_ENG_STATE would stand at ADM_COB_RES. -/
def strayEngine : Nat := 15906

theorem strayEngine_row : IZ_ENG_STATE strayEngine = ADM_COB_RES := by decide

/-- CREATE_WQ of queue 8: class USER, ring 3, protection domain 1, 16 slots, initial index 5. -/
def strayCreate : AdmOpen :=
  openCmd { idx := 0, acceptMt := 0,
            words := [0x01, 0x4000, 8 + 5 * 2 ^ 32, 3, 1 + 2 * 2 ^ 16 + 4 * 2 ^ 22 + 12 * 2 ^ 27 + 2 ^ 38, 0, 0, 0].map (BitVec.ofNat 64) }

/-- A mover in RUN with protection domain 1 and ring 3, whose COB stream has the command open; ranks do not follow the queues,
and the stitch waits on the stray engine, which is set to rank 1. -/
def strayState : State :=
  let s := ((State.reset.setF PAT_STAT_phase 7).setF IZ_SCHED_CFG_rank_follow 0).setF (ARB_RANK_active 3 strayEngine) 1
  let s := (s.setC 3 { CqCtx.zero with state := .active, sizeLog2 := 3, pd := 1 }).setPd 1 true
  s.withAdm { s.adm with cob := some strayCreate, eng := some (strayEngine, 2, []) }

theorem strayState_runs : strayState.admRuns .cob 0x01 strayCreate := by
  refine ⟨by decide +kernel, by decide +kernel, rfl, .inl (by decide +kernel), fun h => by cases h⟩

theorem strayState_accepts : refuse (strayState.judgeCreateWq strayCreate.cmd.words) = none := by decide +kernel

/-- The result that ADM_COB_RES shows as the stitch returns. -/
def strayValue : Option Nat :=
  match exec (.createWq .cob) strayState with
  | .next t => some (t.f ADM_COB_RES_value)
  | _ => none

/-- The rank that the engine keeps lands in the value of ADM_COB_RES. -/
theorem strayValue_eq : strayValue = some 1024 := by decide +kernel

end Sys2Proof.Machine

open Sys2Proof Sys2Proof.Machine

/-- Refutes O34: no hypothesis keeps the number of the engine that an admin stitch waits on below 68. Where the stitch of a CREATE_WQ
in the COB stream waits on the number whose row would stand at ADM_COB_RES, the rank that is kept there as the stitch returns
overwrites the value just reported. -/
theorem not_creationSetsTheIndices : ¬ Obligations.CreationSetsTheIndices := by
  unfold Obligations.CreationSetsTheIndices
  intro h
  obtain ⟨t, run, -, -, -, -, -, -, -, -, -, -, -, -, reported⟩ := h .cob strayState strayCreate strayState_runs strayState_accepts
  obtain ⟨-, -, -, value, -⟩ := reported
  have shown : strayValue = some (t.f ADM_COB_RES_value) := by
    unfold strayValue
    rw [run]
  rw [strayValue_eq, value] at shown
  exact absurd shown (by decide)
end

section
/-!
PROOFS. What memory holds after a write: host bytes (R220, R440) and whole words of in-package memory (R447).
-/
namespace Sys2Proof.Machine

/-! ## Host memory -/

theorem State.hostByte_putHost (s : State) (p p' : Option Nat) (a a' : Nat) (b : Byte) :
    (s.putHost p a b).hostByte p' a' = if hostKey p' a' = hostKey p a then b else s.hostByte p' a' :=
  Tbl.get_set _ _ _ _ _

theorem State.putHost_mem (s : State) (p : Option Nat) (a : Nat) (b : Byte) :
    (s.putHost p a b).mem.pkg = s.mem.pkg ∧ (s.putHost p a b).mem.syn = s.mem.syn := ⟨rfl, rfl⟩

/-- Consecutive host bytes, one by one. -/
def State.putHosts (s : State) (p : Option Nat) (a : Nat) (b : List Byte) : State :=
  ((List.range b.length).zip b).foldl (fun s x => s.putHost p (a + x.1) x.2) s

theorem State.putHosts_concat (s : State) (p : Option Nat) (a : Nat) (b : List Byte) (x : Byte) :
    s.putHosts p a (b ++ [x]) = (s.putHosts p a b).putHost p (a + b.length) x := by
  unfold State.putHosts
  rw [List.length_append, List.length_singleton, List.range_succ, List.zip_append (by simp), List.foldl_append]
  rfl

/-- Addresses less than 2^64 apart are different host bytes. -/
theorem hostKey_ne (p : Option Nat) (a : Nat) {j n : Nat} (h : j < n) (hn : n < 2 ^ 64) : hostKey p (a + j) ≠ hostKey p (a + n) := by
  unfold hostKey
  omega

theorem State.hostByte_putHosts_of_ne (s : State) (p : Option Nat) (a : Nat) (b : List Byte) {p' : Option Nat} {a' : Nat}
    (h : ∀ j, j < b.length → hostKey p' a' ≠ hostKey p (a + j)) : (s.putHosts p a b).hostByte p' a' = s.hostByte p' a' := by
  induction b using List.reverseRecOn with
  | nil => rfl
  | append_singleton b x ih =>
    rw [List.length_append, List.length_singleton] at h
    rw [State.putHosts_concat, State.hostByte_putHost, if_neg (h _ (Nat.lt_succ_self _)), ih (fun j hj => h j (Nat.lt_succ_of_lt hj))]

theorem State.hostByte_putHosts (s : State) (p : Option Nat) (a : Nat) (b : List Byte) (hb : b.length ≤ 2 ^ 64) {j : Nat}
    (hj : j < b.length) : (s.putHosts p a b).hostByte p (a + j) = b[j] := by
  induction b using List.reverseRecOn with
  | nil => exact absurd hj (Nat.not_lt_zero j)
  | append_singleton b x ih =>
    rw [List.length_append, List.length_singleton] at hb hj
    rw [State.putHosts_concat, State.hostByte_putHost]
    rcases Nat.lt_succ_iff_lt_or_eq.mp hj with below | rfl
    · rw [if_neg (hostKey_ne p a below hb), ih (Nat.le_of_succ_le hb) below, List.getElem_append_left below]
    · rw [if_pos rfl, List.getElem_concat_length rfl]

theorem State.putHosts_mem (s : State) (p : Option Nat) (a : Nat) (b : List Byte) :
    (s.putHosts p a b).mem.pkg = s.mem.pkg ∧ (s.putHosts p a b).mem.syn = s.mem.syn := by
  induction b using List.reverseRecOn with
  | nil => exact ⟨rfl, rfl⟩
  | append_singleton b x ih =>
    rw [State.putHosts_concat]
    exact ih

theorem State.putBeat_mem (s : State) (p : Option Nat) (a : Nat) (bad : Bool) :
    (s.putBeat p a bad).mem.host = s.mem.host ∧ (s.putBeat p a bad).mem.pkg = s.mem.pkg ∧ (s.putBeat p a bad).mem.syn = s.mem.syn :=
  ⟨rfl, rfl, rfl⟩

theorem State.putBeats_mem (s : State) (p : Option Nat) (a : Nat) (bad : Bool) (l : List Nat) :
    (l.foldl (fun s j => s.putBeat p (a + j) bad) s).mem.host = s.mem.host
      ∧ (l.foldl (fun s j => s.putBeat p (a + j) bad) s).mem.pkg = s.mem.pkg
      ∧ (l.foldl (fun s j => s.putBeat p (a + j) bad) s).mem.syn = s.mem.syn := by
  induction l generalizing s with
  | nil => exact ⟨rfl, rfl, rfl⟩
  | cons j l ih => exact ih (s.putBeat p (a + j) bad)

/-- The marks of a write are beside its bytes. -/
theorem State.writeHost_mem (s : State) (p : Option Nat) (a : Nat) (b : List Byte) (poison : Bool) :
    (s.writeHost p a b poison).mem.host = (s.putHosts p a b).mem.host ∧ (s.writeHost p a b poison).mem.pkg = s.mem.pkg
      ∧ (s.writeHost p a b poison).mem.syn = s.mem.syn := by
  obtain ⟨pkg, syn⟩ := s.putHosts_mem p a b
  unfold State.writeHost
  rw [show ((List.range b.length).zip b).foldl (fun s x => s.putHost p (a + x.1) x.2) s = s.putHosts p a b from rfl]
  generalize s.putHosts p a b = u at pkg syn
  dsimp only
  split <;>
  · obtain ⟨h1, h2, h3⟩ := State.putBeats_mem u p a _ _
    exact ⟨h1, h2.trans pkg, h3.trans syn⟩

theorem State.hostByte_of_host {s t : State} (h : t.mem.host = s.mem.host) (p : Option Nat) (a : Nat) : t.hostByte p a = s.hostByte p a := by
  unfold State.hostByte
  rw [h]

theorem State.hostBytes_of_host {s t : State} (h : t.mem.host = s.mem.host) (p : Option Nat) (a n : Nat) :
    t.hostBytes p a n = s.hostBytes p a n := by
  unfold State.hostBytes
  exact List.map_congr_left (fun j _ => State.hostByte_of_host h p (a + j))

/-- A read after a write of the same host bytes. -/
theorem State.hostBytes_writeHost (s : State) (p : Option Nat) (a : Nat) (b : List Byte) (poison : Bool) (hb : b.length ≤ 2 ^ 64) :
    (s.writeHost p a b poison).hostBytes p a b.length = b := by
  rw [State.hostBytes_of_host (s.writeHost_mem p a b poison).1]
  refine List.ext_getElem (by simp [State.hostBytes]) (fun j h1 h2 => ?_)
  simp only [State.hostBytes, List.getElem_map, List.getElem_range]
  exact State.hostByte_putHosts s p a b hb h2

theorem State.hostByte_writeHost_of_ne (s : State) (p : Option Nat) (a : Nat) (b : List Byte) (poison : Bool) {p' : Option Nat} {a' : Nat}
    (h : ∀ j, j < b.length → hostKey p' a' ≠ hostKey p (a + j)) : (s.writeHost p a b poison).hostByte p' a' = s.hostByte p' a' := by
  rw [State.hostByte_of_host (s.writeHost_mem p a b poison).1, State.hostByte_putHosts_of_ne s p a b h]

/-! ## In-package memory -/

theorem State.pkgByte_putPkgs (s : State) (a : Nat) (b : List Byte) (k : Nat) :
    (s.putPkgs a b).pkgByte k = if h : a ≤ k ∧ k - a < b.length then b[k - a]'h.2 else s.pkgByte k := by
  induction b generalizing s a with
  | nil => simp [State.putPkgs]
  | cons x b ih =>
    unfold State.putPkgs
    rw [ih]
    have put : (s.putPkg a x).pkgByte k = if k = a then x else s.pkgByte k := Tbl.get_set _ _ _ _ _
    have len : (x :: b).length = b.length + 1 := rfl
    rw [put]
    by_cases ha : k = a
    · subst ha
      simp
    · by_cases hk : a ≤ k ∧ k - a < (x :: b).length
      · rw [dif_pos hk, dif_pos (by omega)]
        have e : k - a = (k - (a + 1)) + 1 := by omega
        simp only [e, List.getElem_cons_succ]
      · rw [dif_neg hk, dif_neg (by omega), if_neg ha]

/-- Writing bytes as they stand changes nothing else of memory. -/
theorem State.putPkgs_mem (s : State) (a : Nat) (b : List Byte) :
    (s.putPkgs a b).mem.syn = s.mem.syn ∧ (s.putPkgs a b).mem.host = s.mem.host ∧ (s.putPkgs a b).mem.hpoison = s.mem.hpoison := by
  induction b generalizing s a with
  | nil => exact ⟨rfl, rfl, rfl⟩
  | cons x b ih => exact ih (s.putPkg a x) (a + 1)

/-- A sound write of whole words, from byte `a` on, has turned `s` into `t`. -/
structure wroteWords (a : Nat) (b : List Byte) (s t : State) : Prop where
  pkg : ∀ k, t.pkgByte k = if h : a ≤ k ∧ k - a < b.length then b[k - a]'h.2 else s.pkgByte k
  syn : ∀ k, t.synOf k = if a ≤ k ∧ k - a < b.length then 0 else s.synOf k
  host : t.mem.host = s.mem.host
  hpoison : t.mem.hpoison = s.mem.hpoison
  frame : onlyChanges [.mem] s t

theorem State.writeWord_wrote (s : State) {a : Nat} {b : List Byte} (ha : a % 8 = 0) (hb : b.length = 8) :
    wroteWords a b s (s.writeWord a b false) := by
  obtain ⟨syn, host, hpoison⟩ := s.putPkgs_mem a b
  have pkg := s.pkgByte_putPkgs a b
  have frame : onlyChanges [.mem] s (s.putPkgs a b) := onlyChanges_of_same (fun _ hb => State.putPkgs_same hb s a b)
  unfold State.writeWord
  rw [if_pos hb]
  generalize s.putPkgs a b = u at syn host hpoison pkg frame
  refine ⟨pkg, fun k => ?_, host, hpoison, frame.trans (onlyChanges_of_same (fun _ hb => State.putSyn_same hb u _ _))⟩
  have same : (k / 8 = a / 8) ↔ (a ≤ k ∧ k - a < b.length) := by omega
  have put : (u.putSyn (a / 8) 0).synOf k = (if k / 8 = a / 8 then 0#8 else Tbl.get (fun _ => 0#8) u.mem.syn (k / 8)).toNat :=
    congrArg BitVec.toNat (Tbl.get_set (fun _ => 0#8) u.mem.syn (a / 8) (k / 8) (BitVec.ofNat 8 0))
  show (u.putSyn (a / 8) 0).synOf k = _
  rw [put, syn]
  by_cases h : k / 8 = a / 8
  · rw [if_pos h, if_pos (same.mp h)]
    rfl
  · rw [if_neg h, if_neg (fun x => h (same.mpr x))]
    rfl

theorem wroteWords.trans {a m : Nat} {b c : List Byte} {s t u : State} (h : wroteWords a b s t) (k : wroteWords m c t u)
    (hm : m = a + b.length) : wroteWords a (b ++ c) s u := by
  subst hm
  refine ⟨fun x => ?_, fun x => ?_, k.host.trans h.host, k.hpoison.trans h.hpoison, h.frame.trans k.frame⟩
  · rw [k.pkg, h.pkg]
    by_cases h1 : a ≤ x ∧ x - a < b.length
    · rw [dif_neg (by omega), dif_pos h1, dif_pos (by rw [List.length_append]; omega), List.getElem_append_left h1.2]
    · by_cases h2 : a + b.length ≤ x ∧ x - (a + b.length) < c.length
      · rw [dif_pos h2, dif_pos (by rw [List.length_append]; omega), List.getElem_append_right (by omega)]
        simp only [Nat.sub_add_eq]
      · rw [dif_neg h2, dif_neg h1, dif_neg (by rw [List.length_append]; omega)]
  · rw [k.syn, h.syn, List.length_append]
    split_ifs <;> first | rfl | omega

/-- A write of whole words stands as it was sent. -/
theorem State.pkgWrite_wrote {n : Nat} (s : State) {a m : Nat} {b : List Byte} (ha : a % 8 = 0) (hb : b.length = 8 * m) (hn : m < n) :
    wroteWords a b s (s.pkgWrite n a b false) := by
  induction n generalizing s a m b with
  | zero => exact absurd hn (Nat.not_lt_zero m)
  | succ n ih =>
    unfold State.pkgWrite
    cases m with
    | zero =>
      have nil : b = [] := List.eq_nil_of_length_eq_zero hb
      subst nil
      exact ⟨fun k => by simp, fun k => by simp, rfl, rfl, onlyChanges.refl _ s⟩
    | succ m =>
      have some : b.isEmpty = false := by cases b with | nil => simp at hb | cons => rfl
      have eight : (b.take 8).length = 8 := by rw [List.length_take]; omega
      have first := s.writeWord_wrote ha eight
      have rest := ih (s.writeWord a (b.take 8) false) (a := a + 8) (m := m) (b := b.drop 8) (by omega)
        (by rw [List.length_drop]; omega) (by omega)
      have both := first.trans rest (by rw [eight])
      rw [List.take_append_drop] at both
      simpa [some, ha] using both

theorem State.writePkg_wrote (s : State) {a m : Nat} {b : List Byte} (ha : a % 8 = 0) (hb : b.length = 8 * m) :
    wroteWords a b s (s.writePkg a b false) :=
  s.pkgWrite_wrote ha hb (by omega)

/-- What was written reads back, without correction. -/
theorem wroteWords.pkgBytes {a : Nat} {b : List Byte} {s t : State} (h : wroteWords a b s t) : t.pkgBytes a b.length = b := by
  refine List.ext_getElem (by simp [State.pkgBytes]) (fun j h1 h2 => ?_)
  have inside : a ≤ a + j ∧ a + j - a < b.length := ⟨Nat.le_add_right a j, by omega⟩
  have sound : t.synOf (a + j) = 0 := by rw [h.syn, if_pos inside]
  have byte : t.pkgByte (a + j) = b[j] := by
    rw [h.pkg, dif_pos inside]
    simp
  have fixed : t.pkgFixed (a + j) = t.pkgByte (a + j) := by
    unfold State.pkgFixed
    rw [sound]
    rfl
  simp only [State.pkgBytes, List.getElem_map, List.getElem_range]
  rw [fixed, byte]

theorem mem_wordsOf {a n k : Nat} (h : k ∈ wordsOf a n) : 0 < n ∧ a / 8 ≤ k ∧ k ≤ (a + n - 1) / 8 := by
  unfold wordsOf at h
  split at h
  · cases h
  · next h0 =>
    obtain ⟨j, hj, rfl⟩ := List.mem_map.mp h
    have := List.mem_range.mp hj
    omega

theorem wroteWords.pkgBad {a m : Nat} {b : List Byte} {s t : State} (h : wroteWords a b s t) (ha : a % 8 = 0)
    (hb : b.length = 8 * m) : t.pkgBad a b.length = false := by
  refine List.any_eq_false.mpr (fun k hk => ?_)
  obtain ⟨h0, h1, h2⟩ := mem_wordsOf hk
  have sound : t.synOf (8 * k) = 0 := by rw [h.syn, if_pos (by omega)]
  unfold State.wordBad
  rw [sound]
  exact Bool.false_ne_true

theorem wroteWords.outside {a : Nat} {b : List Byte} {s t : State} (h : wroteWords a b s t) {k : Nat}
    (hk : k < a ∨ a + b.length ≤ k) : t.pkgByte k = s.pkgByte k ∧ t.synOf k = s.synOf k := by
  refine ⟨?_, ?_⟩
  · rw [h.pkg, dif_neg (by omega)]
  · rw [h.syn, if_neg (by omega)]

theorem State.pkgFixed_of_mem {s t : State} (h : t.mem = s.mem) (a : Nat) : t.pkgFixed a = s.pkgFixed a := by
  unfold State.pkgFixed State.synOf State.pkgByte
  rw [h]

theorem State.pkgBytes_of_mem {s t : State} (h : t.mem = s.mem) (a n : Nat) : t.pkgBytes a n = s.pkgBytes a n :=
  List.map_congr_left (fun j _ => State.pkgFixed_of_mem h (a + j))

theorem State.pkgBad_of_mem {s t : State} (h : t.mem = s.mem) (a n : Nat) : t.pkgBad a n = s.pkgBad a n := by
  have word : t.wordBad = s.wordBad := funext (fun k => by unfold State.wordBad State.synOf; rw [h])
  unfold State.pkgBad
  rw [word]

theorem State.pkgByte_of_mem {s t : State} (h : t.mem = s.mem) (a : Nat) : t.pkgByte a = s.pkgByte a ∧ t.synOf a = s.synOf a := by
  unfold State.pkgByte State.synOf
  rw [h]
  exact ⟨rfl, rfl⟩

end Sys2Proof.Machine
end

section
/-!
PROOFS. Records that are accepted at their ring (R21, R128, R132).
-/
namespace Sys2Proof.Machine

/-! ## Registers below the interrupt controller, whatever the source -/

/-- The rows that an event on source `n` writes stand in the interrupt controller's block or above it. -/
theorem ic_rows (n t : Nat) : 0x40000 ≤ IC_CNT n ∧ 0x40000 ≤ IC_PEND n ∧ 0x40000 ≤ IC_STORM_SRC n ∧ 0x40000 ≤ IC_MASK t n := by
  unfold IC_CNT IC_PEND IC_STORM_SRC IC_MASK
  omega

section
variable {o : Nat} (ho : o < 0x40000)
include ho

theorem State.reg_setF_low (s : State) (d : Fld) (n : Nat) (hd : 0x40000 ≤ d.ofs) : (s.setF d n).reg o = s.reg o :=
  State.reg_setF_ne _ _ _ _ (fun e => absurd (e ▸ hd) (Nat.not_le.mpr ho))

theorem not_icReg_low : ¬ icReg o := fun h => absurd h.1 (Nat.not_le.mpr ho)

theorem State.leaveMsg_low (s : State) (n : Nat) : (s.leaveMsg n).reg o = s.reg o := by
  have row := State.reg_setF_low ho s (IC_CNT_sent n) 1 (ic_rows n 0).1
  unfold State.leaveMsg
  dsimp only
  split
  · rw [State.reg_withIc, row]
  · rw [State.sendMsg_reg _ _ _ (not_icReg_low ho), row]

theorem State.endSignal_low (s : State) (n : Nat) : (s.endSignal n).reg o = s.reg o := by
  unfold State.endSignal
  dsimp only
  rw [State.reg_setF_low ho _ (IC_CNT_sent n) _ (ic_rows n 0).1, State.reg_withIc]

theorem State.judgeMsg_low (s : State) (n : Nat) : (s.judgeMsg n).reg o = s.reg o := by
  unfold State.judgeMsg
  dsimp only
  split_ifs
  · rw [State.leaveMsg_low ho, State.reg_withIc]
  · rfl
  · rfl
  · exact State.endSignal_low ho _ _
  · rfl

theorem State.addEvent_low (s : State) (n : Nat) : (s.addEvent n).reg o = s.reg o := by
  have row := State.reg_setF_low ho s (IC_CNT_count n) (s.f (IC_CNT_count n) + 1) (ic_rows n 0).1
  unfold State.addEvent State.setPend
  dsimp only
  split_ifs
  · exact row
  · rw [State.reg_setF_low ho _ ⟨IC_PEND (n / 64), n % 64, 1⟩ _ (ic_rows (n / 64) 0).2.1, row]

theorem State.storm_low (s : State) (n : Nat) : (s.storm n).reg o = s.reg o := by
  have row := fun t : State => State.reg_setF_low ho t ⟨IC_STORM_SRC (n / 64), n % 64, 1⟩ 1 (ic_rows (n / 64) 0).2.2.1
  have counts : ((s.cnt IC_STORM_count).setF IC_STORM_last_src n).reg o = s.reg o := by
    rw [State.reg_setF_low ho _ IC_STORM_last_src _ (by decide)]
    exact State.reg_setF_low ho _ IC_STORM_count _ (by decide)
  unfold State.storm
  dsimp only
  split_ifs
  · rw [State.reg_setF_low ho _ ⟨IC_MASK _ (n / 64), n % 64, 1⟩ _ (ic_rows (n / 64) _).2.2.2, row, counts]
  · rw [row, counts]

theorem State.event1_low (s : State) (n : Nat) : (s.event1 n).reg o = s.reg o := by
  unfold State.event1
  split_ifs
  · exact State.reg_setF_low ho _ IC_STORM_dropped _ (by decide)
  · exact State.addEvent_low ho _ _

theorem State.raiseVia_low (s : State) (p : Option Nat) (n : Nat) : (s.raiseVia p n).reg o = s.reg o := by
  have owed : (s.owe n p).reg o = s.reg o := by unfold State.owe; cases p <;> rfl
  unfold State.raiseVia
  dsimp only
  split_ifs
  · rfl
  · rw [State.judgeMsg_low ho, State.judgeMsg_low ho, State.event1_low ho, State.storm_low ho, State.addEvent_low ho, owed]
  · rw [State.judgeMsg_low ho, State.event1_low ho, owed]

theorem State.coalesce_low (s : State) (c n : Nat) : (s.coalesce c n).reg o = s.reg o := by
  unfold State.coalesce
  dsimp only
  split_ifs
  · generalize (s.cctx c).uncovered + n = u
    refine List.foldlRecOn (motive := fun t : State => t.reg o = s.reg o) _ _ rfl (fun t h _ _ => ?_)
    rw [State.raiseVia_low ho, h]
  · rfl

end

/-! ## Hops that nothing is armed for (R217, R232) -/

theorem State.ctlHop_unarmed {s : State} (h : s.fb IZ_CHK_INJ_armed = false) (q i n : Nat) : s.ctlHop q i n = s := by
  unfold State.ctlHop State.crossHop
  simp [h]

theorem State.ctlHops_unarmed {s : State} (h : s.fb IZ_CHK_INJ_armed = false) (q i space : Nat) : s.ctlHops q i space = s := by
  unfold State.ctlHops
  rw [State.ctlHop_unarmed h, State.ctlHop_unarmed h]

theorem State.unarmed_of_reg {s t : State} (h : t.reg IZ_CHK_INJ = s.reg IZ_CHK_INJ) (k : s.fb IZ_CHK_INJ_armed = false) :
    t.fb IZ_CHK_INJ_armed = false := by
  unfold State.fb
  rw [State.f_of_reg IZ_CHK_INJ_armed h]
  exact k

/-! ## What follows an accepted batch -/

theorem State.raises_cq (s : State) (p : Option Nat) (n : Nat) (l : List Nat) :
    (l.foldl (fun s _ => s.raiseVia p n) s).cq = s.cq :=
  List.foldlRecOn (motive := fun t : State => t.cq = s.cq) l _ rfl (fun t h _ _ =>
    (onlyChanges_of_same (l := [.regs, .ic, .out]) (fun _ hb => State.raiseVia_same hb t p n) .cq (by decide)).trans h)

theorem State.coalesce_wbEn (s : State) (c n : Nat) : ((s.coalesce c n).cctx c).wbEn = (s.cctx c).wbEn := by
  unfold State.coalesce
  dsimp only
  split_ifs
  · rw [State.cctx_of_cq (State.raises_cq _ _ _ _), State.cctx_setC, if_pos rfl]
  · rfl

theorem State.cMirrored_congr {s t : State} (hq : t.q = s.q) (c : Nat) : t.cMirrored c = s.cMirrored c := by
  have mirrored : t.qMirrored = s.qMirrored := funext (fun k => State.qMirrored_congr hq k)
  have bound : t.boundTo c = s.boundTo c := by
    unfold State.boundTo State.queues
    rw [hq, show t.qctx = s.qctx from funext (State.qctx_of_q hq)]
  unfold State.cMirrored
  rw [mirrored, bound]

/-- The index after a batch's last record is issued to wb_addr. -/
theorem State.writeBack_unarmed {s : State} (h : s.fb IZ_CHK_INJ_armed = false) (c : Nat) (x : CqCtx) (last : W32 × Held) :
    s.writeBack c x last = s.withCqs { s.cqs with wbs := s.cqs.wbs ++ [(c, last.1 + 1)] } := by
  unfold State.writeBack
  rw [State.ctlHops_unarmed h]

theorem State.reg_of_regs {s t : State} (h : t.regs = s.regs) (o : Nat) : t.reg o = s.reg o := by
  unfold State.reg
  rw [h]

/-- What an accepted batch leaves where nothing is armed: of records and write-backs, only the one that it issues itself is new. -/
theorem State.batchNow_spec {s : State} (h : s.fb IZ_CHK_INJ_armed = false) (c : Nat) (l : List (W32 × Held)) (last : W32 × Held) :
    (s.batchNow c l last).cqs
        = { s.cqs with wbs := if (s.cctx c).wbEn then s.cqs.wbs ++ [(c, last.1 + 1)] else s.cqs.wbs }
      ∧ onlyChanges [.regs, .q, .cq, .fl, .cqs, .ic, .arb, .pair, .lace, .out] s (s.batchNow c l last) := by
  have told : onlyChanges [.arb, .pair, .lace, .out] s
      (if s.cMirrored c then s.mirrorDelta .ring c 0x06 0 0 (last.1 + 1) 0 [] else s) := by
    split
    · exact onlyChanges_of_same (fun _ hb => State.mirrorDelta_same hb s ..)
    · exact onlyChanges.refl _ s
  unfold State.batchNow
  dsimp only
  generalize (if s.cMirrored c then s.mirrorDelta .ring c 0x06 0 0 (last.1 + 1) 0 [] else s) = u at told
  have freed : onlyChanges [.q, .fl, .arb, .pair, .lace, .out] u (forEach l (fun y s => s.release y.2.q y.2.idx) u) :=
    onlyChanges_of_same (fun _ hb => Same.forEach _ _ _ (fun y t => State.release_same hb t y.2.q y.2.idx))
  generalize forEach l (fun y s => s.release y.2.q y.2.idx) u = v at freed
  have raised : onlyChanges [.regs, .cq, .ic, .out] v (v.coalesce c l.length) :=
    onlyChanges_of_same (fun _ hb => State.coalesce_same hb v c l.length)
  have wbEn := v.coalesce_wbEn c l.length
  have low := State.coalesce_low (show IZ_CHK_INJ < 0x40000 by decide) v c l.length
  generalize v.coalesce c l.length = w at raised wbEn low
  have cqs : w.cqs = s.cqs := (raised .cqs (by decide)).trans ((freed .cqs (by decide)).trans (told .cqs (by decide)))
  have unarmed : w.fb IZ_CHK_INJ_armed = false :=
    State.unarmed_of_reg (low.trans (State.reg_of_regs ((freed .regs (by decide)).trans (told .regs (by decide))) _)) h
  have wb : (w.cctx c).wbEn = (s.cctx c).wbEn := by
    rw [wbEn, State.cctx_of_cq ((freed .cq (by decide)).trans (told .cq (by decide)))]
  have frame : onlyChanges [.regs, .q, .cq, .fl, .cqs, .ic, .arb, .pair, .lace, .out] s w :=
    (told.mono (by simp)).trans ((freed.mono (by simp)).trans (raised.mono (by simp)))
  rw [wb, State.writeBack_unarmed unarmed]
  split
  · refine ⟨?_, frame.trans (onlyChanges_of_same (l := [.cqs]) (fun _ hb => State.withCqs_same hb w _) |>.mono (by simp))⟩
    rw [← cqs]
    rfl
  · exact ⟨by rw [cqs], frame⟩

/-- Where the ring is not mirrored and no action waits, the batch is done at once. -/
theorem State.batchDone_now {s : State} {c : Nat} (h : s.pair.acts = []) (hm : s.cMirrored c = false) (l : List (W32 × Held))
    (last : W32 × Held) : s.batchDone c l last = s.batchNow c l last := by
  unfold State.batchDone State.actWaits
  simp [h, hm]

/-- What a batch leaves that is done or waits for room for its record. -/
theorem State.batchDone_spec {s : State} (h : s.fb IZ_CHK_INJ_armed = false) (c : Nat) (l : List (W32 × Held)) (last : W32 × Held) :
    (s.batchDone c l last).cqs.issued = s.cqs.issued ∧ (s.batchDone c l last).cqs.spill = s.cqs.spill
      ∧ (s.batchDone c l last).cqs.waiting = s.cqs.waiting
      ∧ onlyChanges [.regs, .q, .cq, .fl, .cqs, .ic, .arb, .pair, .lace, .out] s (s.batchDone c l last) := by
  obtain ⟨cqs, frame⟩ := State.batchNow_spec h c l last
  unfold State.batchDone
  dsimp only
  split
  · exact ⟨rfl, rfl, rfl, onlyChanges_of_same (l := [.pair]) (fun _ hb => State.withPair_same hb s _) |>.mono (by simp)⟩
  · exact ⟨by rw [cqs], by rw [cqs], by rw [cqs], frame⟩

/-! ## A ring with one record issued (R128) -/

section
variable {s : State} {c : Nat} {i : W32} {h : Held} (one : s.cqs.issued.filter (fun y => decide (y.2.c = c)) = [(i, h)])
include one

theorem State.batchOf_single : s.batchOf c = [(i, h)] := by
  unfold State.batchOf
  rw [one]
  simp

/-- The ring's record is all that leaves. -/
theorem State.issued_without : s.cqs.issued.filter (fun y => !decide (y ∈ [(i, h)])) = s.cqs.issued.filter (fun y => !decide (y.2.c = c)) := by
  have mine : ∀ y ∈ s.cqs.issued, y ∈ [(i, h)] ↔ y.2.c = c := by
    intro y hy
    rw [← one, List.mem_filter, decide_eq_true_eq]
    exact ⟨fun k => k.2, fun k => ⟨hy, k⟩⟩
  refine List.filter_congr (fun y hy => ?_)
  rw [decide_eq_decide.mpr (mine y hy)]

/-- The state in which the ring's records have left CPOST. -/
def State.recordOut (s : State) (c : Nat) : State :=
  (s.arbBusy (s.cctx c).res 69).withCqs { s.cqs with issued := s.cqs.issued.filter (fun y => !decide (y.2.c = c)) }

/-- The state in which its record stands in the ring. -/
def State.recordIn (s : State) (c : Nat) (i : W32) (h : Held) : State :=
  (s.recordOut c).writeBytes (spaceOf (s.cctx c).device) (s.cctx c).pasidOf ((s.cctx c).slotAddr i)
    (wordBytes (h.r.words i (s.cctx c).sizeLog2)) false

theorem State.ackRecs_single (wb : s.cqs.wbs.find? (fun y => decide (y.1 = c)) = none) (hard : s.pair.hard = false)
    (unarmed : s.fb IZ_CHK_INJ_armed = false) (out : h.sent = true ∨ s.owns (s.cctx c).res 69 = true)
    (room : (s.cctx c).device = true → s.pkgOut ((s.cctx c).slotAddr i) 32 = false) :
    s.ackRecs c = if (s.recordIn c i h).run then (s.recordIn c i h).batchDone c [(i, h)] (i, h) else s.recordIn c i h := by
  have land : s.landBack c = s := by unfold State.landBack; rw [wb]
  have batch := State.batchOf_single one
  have goes : s.batchOut (s.cctx c) [(i, h)] = true := by
    unfold State.batchOut
    rcases out with k | k <;> simp [k]
  have inside : ((s.cctx c).device && [(i, h)].any (fun y => (s.recordOut c).pkgOut ((s.cctx c).slotAddr y.1) 32)) = false := by
    show ((s.cctx c).device && [(i, h)].any (fun y => s.pkgOut ((s.cctx c).slotAddr y.1) 32)) = false
    by_cases d : (s.cctx c).device = true
    · simp [room d]
    · simp [Bool.eq_false_of_not_eq_true d]
  have left : (s.arbBusy (s.cctx c).res 69).withCqs { s.cqs with issued := s.cqs.issued.filter (fun y => !decide (y ∈ [(i, h)])) }
      = s.recordOut c := by rw [State.issued_without one]; rfl
  have armed : (s.recordOut c).fb IZ_CHK_INJ_armed = false := unarmed
  have soft : (s.recordOut c).pair.hard = false := hard
  have written : (s.recordOut c).writeRecs (s.cctx c) [(i, h)] = s.recordIn c i h := by
    unfold State.writeRecs State.recordIn
    rw [List.foldl_cons, List.foldl_nil, State.ctlHops_unarmed armed, soft]
  unfold State.ackRecs
  simp only [land, batch, List.getLast?_singleton, goes, hard, Bool.not_true, Bool.false_and, Bool.or_false, Bool.false_eq_true, if_false]
  rw [left, inside, written]
  rfl

end

/-- A record is four words. -/
theorem recordBytes_length (r : CRec) (i : W32) (k : Nat) : (wordBytes (r.words i k)).length = 32 := rfl

/-- What stands in memory where a ring in the package takes its record. -/
theorem State.recordIn_wrote {s : State} {c : Nat} {i : W32} {h : Held} (d : (s.cctx c).device = true)
    (ha : (s.cctx c).slotAddr i % 8 = 0) :
    wroteWords ((s.cctx c).slotAddr i) (wordBytes (h.r.words i (s.cctx c).sizeLog2)) (s.recordOut c) (s.recordIn c i h) := by
  unfold State.recordIn State.writeBytes spaceOf
  rw [d]
  exact State.writePkg_wrote (m := 4) _ ha rfl

/-- What stands in memory where a ring in host memory takes its record. -/
theorem State.recordIn_host {s : State} {c : Nat} (i : W32) (h : Held) (d : (s.cctx c).device = false) :
    s.recordIn c i h = (s.recordOut c).writeHost (s.cctx c).pasidOf ((s.cctx c).slotAddr i) (wordBytes (h.r.words i (s.cctx c).sizeLog2)) false := by
  unfold State.recordIn State.writeBytes spaceOf
  rw [d]
  rfl

theorem State.recordOut_onlyChanges (s : State) (c : Nat) : onlyChanges [.arb, .cqs] s (s.recordOut c) := by
  have busy : onlyChanges [.arb] s (s.arbBusy (s.cctx c).res 69) := onlyChanges_of_same (fun _ hb => State.arbBusy_same hb s _ _)
  exact (busy.mono (by simp)).trans (onlyChanges_of_same (l := [.cqs]) (fun _ hb => State.withCqs_same hb _ _) |>.mono (by simp))

theorem State.recordIn_onlyChanges {s : State} {c : Nat} {i : W32} {h : Held}
    (ha : (s.cctx c).device = true → (s.cctx c).slotAddr i % 8 = 0) :
    onlyChanges [.mem] (s.recordOut c) (s.recordIn c i h) := by
  cases d : (s.cctx c).device with
  | true => exact (State.recordIn_wrote d (ha d)).frame
  | false =>
    rw [State.recordIn_host i h d]
    exact onlyChanges_of_same (fun _ hb => State.writeHost_same hb _ _ _ _ _)

/-- The record that stands in its ring, in a state whose memory is as its write left it. -/
theorem recordIn_memory {s t : State} {c : Nat} {i : W32} {h : Held} (hm : t.mem = (s.recordIn c i h).mem)
    (ha : (s.cctx c).device = true → (s.cctx c).slotAddr i % 8 = 0) :
    ((s.cctx c).device = false →
        t.hostBytes (s.cctx c).pasidOf ((s.cctx c).slotAddr i) 32 = wordBytes (h.r.words i (s.cctx c).sizeLog2)
        ∧ (∀ p a, (∀ j, j < 32 → hostKey p a ≠ hostKey (s.cctx c).pasidOf ((s.cctx c).slotAddr i + j)) → t.hostByte p a = s.hostByte p a)
        ∧ t.mem.pkg = s.mem.pkg ∧ t.mem.syn = s.mem.syn)
      ∧ ((s.cctx c).device = true →
        t.pkgBytes ((s.cctx c).slotAddr i) 32 = wordBytes (h.r.words i (s.cctx c).sizeLog2) ∧ t.pkgBad ((s.cctx c).slotAddr i) 32 = false
        ∧ (∀ a, (a < (s.cctx c).slotAddr i ∨ (s.cctx c).slotAddr i + 32 ≤ a) → t.pkgByte a = s.pkgByte a ∧ t.synOf a = s.synOf a)
        ∧ t.mem.host = s.mem.host ∧ t.mem.hpoison = s.mem.hpoison) := by
  have before : (s.recordOut c).mem = s.mem := s.recordOut_onlyChanges c .mem (by decide)
  refine ⟨fun d => ?_, fun d => ?_⟩
  · rw [State.recordIn_host i h d] at hm
    obtain ⟨-, pkg, syn⟩ := (s.recordOut c).writeHost_mem (s.cctx c).pasidOf ((s.cctx c).slotAddr i)
      (wordBytes (h.r.words i (s.cctx c).sizeLog2)) false
    refine ⟨?_, fun p a hk => ?_, ?_, ?_⟩
    · rw [State.hostBytes_of_host (congrArg (·.host) hm)]
      exact State.hostBytes_writeHost (s.recordOut c) _ _ (wordBytes (h.r.words i (s.cctx c).sizeLog2)) false (by rw [recordBytes_length]; decide)
    · rw [State.hostByte_of_host (congrArg (·.host) hm), State.hostByte_writeHost_of_ne _ _ _ (wordBytes (h.r.words i (s.cctx c).sizeLog2)) _ hk,
        State.hostByte_of_host (congrArg (·.host) before)]
    · rw [hm, pkg, before]
    · rw [hm, syn, before]
  · have wrote := State.recordIn_wrote (h := h) d (ha d)
    refine ⟨?_, ?_, fun a hk => ?_, ?_, ?_⟩
    · rw [State.pkgBytes_of_mem hm]
      exact wrote.pkgBytes
    · rw [State.pkgBad_of_mem hm]
      exact wrote.pkgBad (m := 4) (ha d) rfl
    · obtain ⟨byte, syn⟩ := wrote.outside hk
      obtain ⟨byte', syn'⟩ := State.pkgByte_of_mem hm a
      obtain ⟨byte₀, syn₀⟩ := State.pkgByte_of_mem before a
      exact ⟨byte'.trans (byte.trans byte₀), syn'.trans (syn.trans syn₀)⟩
    · rw [hm, wrote.host, before]
    · rw [hm, wrote.hpoison, before]

/-- RECORD_WRITE_ACK of a ring with one record issued. -/
theorem recordWriteAck_stands {c : Nat} {i : W32} {h : Held} {s : State}
    (one : s.cqs.issued.filter (fun y => decide (y.2.c = c)) = [(i, h)])
    (wb : s.cqs.wbs.find? (fun y => decide (y.1 = c)) = none) (hard : s.pair.hard = false) (unarmed : s.fb IZ_CHK_INJ_armed = false)
    (out : h.sent = true ∨ s.owns (s.cctx c).res 69 = true)
    (room : (s.cctx c).device = true → (s.cctx c).slotAddr i % 8 = 0 ∧ s.pkgOut ((s.cctx c).slotAddr i) 32 = false) :
    (s.ackRecs c).cqs.issued = s.cqs.issued.filter (fun y => !decide (y.2.c = c))
      ∧ (s.ackRecs c).cqs.spill = s.cqs.spill ∧ (s.ackRecs c).cqs.waiting = s.cqs.waiting ∧ (s.ackRecs c).mem = (s.recordIn c i h).mem
      ∧ (s.run = true → s.pair.acts = [] → s.cMirrored c = false →
        (s.ackRecs c).cqs.wbs = if (s.cctx c).wbEn then s.cqs.wbs ++ [(c, i + 1)] else s.cqs.wbs)
      ∧ onlyChanges [.regs, .q, .cq, .fl, .cqs, .ic, .arb, .pair, .lace, .mem, .out] s (s.ackRecs c) := by
  have written := State.recordIn_onlyChanges (s := s) (c := c) (i := i) (h := h) (fun d => (room d).1)
  have cqs : (s.recordIn c i h).cqs = (s.recordOut c).cqs := written .cqs (by decide)
  have frame : onlyChanges [.arb, .cqs, .mem] s (s.recordIn c i h) := ((s.recordOut_onlyChanges c).mono (by simp)).trans (written.mono (by simp))
  have run : (s.recordIn c i h).run = s.run := State.run_congr (State.reg_of_regs (frame .regs (by decide)) _)
  have calm := State.unarmed_of_reg (State.reg_of_regs (frame .regs (by decide)) _) unarmed
  have mirrored := State.cMirrored_congr (frame .q (by decide)) c
  have ring := State.cctx_of_cq (frame .cq (by decide)) c
  have pair := frame .pair (by decide)
  rw [State.ackRecs_single one wb hard unarmed out (fun d => (room d).2), run]
  generalize s.recordIn c i h = u at cqs frame calm mirrored ring pair
  cases hr : s.run with
  | false =>
    rw [if_neg Bool.false_ne_true]
    exact ⟨by rw [cqs]; rfl, by rw [cqs]; rfl, by rw [cqs]; rfl, rfl, fun k => absurd k (by decide), frame.mono (by simp)⟩
  | true =>
    obtain ⟨issued, spill, waiting, rest⟩ := State.batchDone_spec calm c [(i, h)] (i, h)
    rw [if_pos rfl]
    refine ⟨by rw [issued, cqs]; rfl, by rw [spill, cqs]; rfl, by rw [waiting, cqs]; rfl, rest .mem (by decide),
      fun _ acts unmirrored => ?_, (frame.mono (by simp)).trans (rest.mono (by simp))⟩
    rw [State.batchDone_now ((congrArg (·.acts) pair).trans acts) (mirrored.trans unmirrored),
      (State.batchNow_spec calm c [(i, h)] (i, h)).1, ring, cqs]
    rfl

/-! ## A ring with a write-back out (R132) -/

/-- The oldest write-back of a ring in host memory lands at wb_addr. -/
theorem State.ackRecs_writeBack {s : State} {c : Nat} {y : Nat × W32} (none : s.cqs.issued.filter (fun y => decide (y.2.c = c)) = [])
    (wb : s.cqs.wbs.find? (fun y => decide (y.1 = c)) = some y) (hard : s.pair.hard = false) (host : (s.cctx c).device = false) :
    s.ackRecs c = (s.withCqs { s.cqs with wbs := s.cqs.wbs.erase y }).writeHost (s.cctx c).pasidOf (s.cctx c).wbAddr.toNat
      (leBytes 8 y.2.toNat) false := by
  have land : s.landBack c = (s.withCqs { s.cqs with wbs := s.cqs.wbs.erase y }).writeHost (s.cctx c).pasidOf (s.cctx c).wbAddr.toNat
      (leBytes 8 y.2.toNat) false := by
    unfold State.landBack State.writeBytes spaceOf
    rw [wb]
    simp only [host, Bool.false_and, Bool.false_eq_true, if_false, if_true]
    rw [show (s.withCqs { s.cqs with wbs := s.cqs.wbs.erase y }).pair.hard = false from hard]
  have frame : onlyChanges [.mem] (s.withCqs { s.cqs with wbs := s.cqs.wbs.erase y }) (s.landBack c) := by
    rw [land]
    exact onlyChanges_of_same (fun _ hb => State.writeHost_same hb _ _ _ _ _)
  have empty : (s.landBack c).batchOf c = [] := by
    unfold State.batchOf
    rw [show (s.landBack c).cqs = { s.cqs with wbs := s.cqs.wbs.erase y } from frame .cqs (by decide)]
    dsimp only
    rw [none]
  unfold State.ackRecs
  simp only [empty, List.getLast?_nil]
  exact land

end Sys2Proof.Machine

open Sys2Proof Sys2Proof.Machine

/-- Settles O27: the record stands in its ring, and its write-back is issued after it and lands. -/
theorem recordStandsInItsRing : Obligations.RecordStandsInItsRing := by
  unfold Obligations.RecordStandsInItsRing
  refine ⟨fun c i h s one wb hard unarmed out room => ?_, fun c y s none wb hard host => ?_⟩
  · obtain ⟨issued, spill, waiting, mem, back, frame⟩ := recordWriteAck_stands one wb hard unarmed out room
    obtain ⟨inHost, inPackage⟩ := recordIn_memory mem (fun d => (room d).1)
    exact ⟨_, rfl, issued, spill, waiting, inHost, inPackage, back, frame⟩
  · have e := State.ackRecs_writeBack none wb hard host
    have wbs : onlyChanges [.cqs] s (s.withCqs { s.cqs with wbs := s.cqs.wbs.erase y }) :=
      onlyChanges_of_same (fun _ hb => State.withCqs_same hb s _)
    have frame : ∀ t : State, onlyChanges [.mem] t (t.writeHost (s.cctx c).pasidOf (s.cctx c).wbAddr.toNat (leBytes 8 y.2.toNat) false) :=
      fun t => onlyChanges_of_same (fun _ hb => State.writeHost_same hb t _ _ _ _)
    refine ⟨s.ackRecs c, rfl, ?_⟩
    rw [e]
    refine ⟨congrArg (·.wbs) (frame _ .cqs (by decide)), ?_, fun p a hk => ?_, (wbs.mono (by simp)).trans ((frame _).mono (by simp))⟩
    · exact State.hostBytes_writeHost _ _ _ (leBytes 8 y.2.toNat) false (by decide : (8 : Nat) ≤ 2 ^ 64)
    · exact State.hostByte_writeHost_of_ne _ _ _ (leBytes 8 y.2.toNat) _ hk
end

section
/-!
PROOFS. A record that waits for a context as another one arrives (R44, R138, R191).
-/
namespace Sys2Proof.Machine

/-- The record of an entry of queue 5 for ring 3. -/
def heldRecord : Held :=
  { c := 3, q := 5, idx := 0,
    r := { seq := 0, qid := 5, status := stOk, replayed := false, uncertain := false, adopted := false, bytesDone := 0, opcode := 0,
           acceptMt := 0, doneDelta := 0, userTag := 0 } }

/-- A mover in RUN where work has asked for the context of queue 5, CCACHE owns a channel of the context store, and a record waits
outside the spill of its group, which has room. -/
def heldState : State :=
  let s := (State.reset.setF PAT_STAT_phase 7).setOwner resCstore 0 (some { req := 70, slot := false, age := 0, idle := 0, take := none })
  let s := s.withCache { s.cache with wanted := [(.queue, 5, false)] }
  s.withCqs { s.cqs with waiting := [heldRecord] }

/-- The records that wait as the context of queue 5 has arrived. -/
def stillHeld : Option (List Held) :=
  match exec (.contextFetchDone .queue 5 false) heldState with
  | .next t => some t.cqs.waiting
  | _ => none

/-- The arrival has moved the record into the spill. -/
theorem stillHeld_eq : stillHeld = some [] := by decide +kernel

end Sys2Proof.Machine

open Sys2Proof Sys2Proof.Machine

/-- Refutes O10: a completion record that waits for room in its group's spill is looked at again as any context arrives, and no
hypothesis keeps such records away; the arrival then changes the held records, and not the cache alone. -/
theorem not_contextArrivesInItsSet : ¬ Obligations.ContextArrivesInItsSet := by
  unfold Obligations.ContextArrivesInItsSet
  intro h
  obtain ⟨arrives, -⟩ := h .queue 5 heldState (by decide +kernel) (by decide +kernel) (by decide +kernel)
  obtain ⟨t, run, -, -, frame⟩ := arrives (by decide +kernel) (by decide +kernel) (by decide +kernel) rfl rfl rfl
    (fun f hf => absurd hf List.not_mem_nil)
  have waits : stillHeld = some [heldRecord] := by
    unfold stillHeld
    rw [run]
    exact congrArg (fun c : Cqs => some c.waiting) (frame .cqs (by decide))
  rw [stillHeld_eq] at waits
  cases waits
end

section
/-!
PROOFS. A stitch that is bound again after its queue has left its request line (R89, R101, R117, R118).
-/
namespace Sys2Proof.Machine

/-- What an entry has kept of a stitch that line 7 paced: it was issued up to job offset 40, has 40 more bytes staged, and the burst
that ends at 80 is not acknowledged. -/
def keptPaced : Stitch :=
  { eng := 0, lo := 0, hi := 100, wr := 40, ready := true, stop := false, cut := false, cutFor := none, rank := 1,
    line := some (7, false), paced := 80, ends := [(7, 80)], asked := 0, pat := 0, born := 0,
    stage := [List.replicate 40 (SByte.mk 0 false)], rds := [[]], sums := [[]] }

/-- A MOVE of 100 bytes in host memory, started, with job offsets from 40 on to bind again. -/
def releasedMove : Flight :=
  { freshFlight 5 0 [] 0 16 with
    e := { decodeEntry [] with opcode := 0x01, length := 100, src := 0x1000, dst := 0x8000 }, phase := .started, next := 100,
    redo := [(40, 100)], kept := some keptPaced }

/-- A mover in RUN with that entry on the hot READY queue 5, which is bound to no line; bursts of line 7 are acknowledged as they
are staged. -/
def releasedState : State :=
  let s := ((State.reset.setF PAT_STAT_phase 7).setF IZ_SCHED_CFG_eng_per_queue 16).setF (RL_CFG_ack_point 7) 0
  let s := s.setQ 5 { QCtx.zero with state := .ready, cls := .user, sizeLog2 := 6, stitchLog2 := 16, rank := 1, cqid := 3,
                                     pi := 1, snap := 1, fetch := 1 }
  ((s.setC 3 { CqCtx.zero with state := .active, sizeLog2 := 3 }).warm .queue 5).withFl [releasedMove]

/-- The acknowledgements of line 7 as the rest of the entry is bound. -/
def boundPulses : Option Nat :=
  match exec (.engineBind 2) releasedState with
  | .next t => some (t.line 7).pulses
  | _ => none

/-- The kept burst is acknowledged on its line. -/
theorem boundPulses_eq : boundPulses = some 1 := by decide +kernel

end Sys2Proof.Machine

open Sys2Proof Sys2Proof.Machine

/-- Refutes O16: no hypothesis keeps away what an entry has kept of a paced stitch. Where the queue has left its line since, the stitch
that is bound again acknowledges a kept burst, and the request line changes. -/
theorem not_enginesAreBoundAndCut : ¬ Obligations.EnginesAreBoundAndCut := by
  unfold Obligations.EnginesAreBoundAndCut
  intro h
  obtain ⟨engines, -⟩ := h
  obtain ⟨binds, -⟩ := engines 2 releasedState (by decide) (by decide +kernel)
  obtain ⟨t, -, -, run, -, -, -, -, -, -, -, -, -, -, -, -, frame⟩ := binds 5 releasedMove 40 100 (by decide +kernel) (by decide)
    (by decide +kernel) rfl (by decide +kernel) rfl (by decide +kernel) (by decide +kernel) (fun _ => rfl) (.inl (by decide +kernel))
  have pulses : boundPulses = some (releasedState.line 7).pulses := by
    unfold boundPulses State.line
    rw [run]
    exact congrArg (fun l => some (Tbl.get (fun _ => Line.zero) l 7).pulses) (frame .lines (by decide))
  rw [boundPulses_eq] at pulses
  exact absurd pulses (by decide +kernel)
end

section
/-!
PROOFS. The fetch of entries: what a read that FETCH makes brings, and how the entries that it brings join the flights (R20, R39).
-/
namespace Sys2Proof.Machine

/-! ## A read brings the same whatever the arbiters hold -/

theorem State.withArb_foldl {α : Type} {g : State → α → State} (hg : ∀ s v x, g (s.withArb v) x = (g s x).withArb v) (l : List α)
    (s : State) (v : ArbState) : l.foldl g (s.withArb v) = (l.foldl g s).withArb v := by
  induction l generalizing s with
  | nil => rfl
  | cons x r ih => rw [List.foldl_cons, List.foldl_cons, hg, ih]

theorem State.withArb_writeHost (s : State) (v : ArbState) (p : Option Nat) (a : Nat) (b : List Byte) (poison : Bool) :
    (s.withArb v).writeHost p a b poison = (s.writeHost p a b poison).withArb v := by
  unfold State.writeHost
  dsimp only
  rw [State.withArb_foldl (fun _ _ _ => rfl)]
  split
  · exact State.withArb_foldl (fun _ _ _ => rfl) _ _ v
  · exact State.withArb_foldl (fun _ _ _ => rfl) _ _ v

theorem State.withArb_putPkgs (s : State) (v : ArbState) (a : Nat) (b : List Byte) :
    (s.withArb v).putPkgs a b = (s.putPkgs a b).withArb v := by
  induction b generalizing s a with
  | nil => rfl
  | cons x r ih => exact ih (s.putPkg a x) (a + 1)

theorem State.withArb_sat (s : State) (v : ArbState) (d : Fld) (n : Nat) : (s.withArb v).sat d n = (s.sat d n).withArb v := rfl

theorem State.withArb_memStat (s : State) (v : ArbState) (a n : Nat) : (s.withArb v).memStat a n = (s.memStat a n).withArb v := by
  unfold State.memStat
  rw [State.withArb_sat, State.withArb_sat]
  rfl

theorem State.withArb_writeWord (s : State) (v : ArbState) (a : Nat) (b : List Byte) (poison : Bool) :
    (s.withArb v).writeWord a b poison = (s.writeWord a b poison).withArb v := by
  have syn : ∀ (t : State) (k y : Nat), (t.withArb v).putSyn k y = (t.putSyn k y).withArb v := fun _ _ _ => rfl
  have bad : ∀ k, (s.withArb v).wordBad k = s.wordBad k := fun _ => rfl
  have fixed : ∀ k n, (s.withArb v).pkgBytes k n = s.pkgBytes k n := fun _ _ => rfl
  have merged : ∀ (p : Bool) (t : State), (if p then (t.withArb v).sat IZ_MEMP_STAT_merge_poison 1 else t.withArb v)
      = (if p then t.sat IZ_MEMP_STAT_merge_poison 1 else t).withArb v := by
    intro p t
    cases p
    · rfl
    · exact t.withArb_sat v _ 1
  unfold State.writeWord State.cnt
  dsimp only
  split
  · rw [State.withArb_putPkgs, syn]
  · rw [bad, fixed, State.withArb_memStat, merged, State.withArb_putPkgs, State.withArb_putPkgs, syn]

theorem State.withArb_pkgWrite (n : Nat) (s : State) (v : ArbState) (a : Nat) (b : List Byte) (poison : Bool) :
    (s.withArb v).pkgWrite n a b poison = (s.pkgWrite n a b poison).withArb v := by
  induction n generalizing s a b with
  | zero => rfl
  | succ n ih =>
    unfold State.pkgWrite
    split
    · rfl
    · dsimp only
      rw [State.withArb_writeWord, ih]

theorem State.withArb_land (s : State) (v : ArbState) (p : Option Nat) (x : DataWrite) (poison : Bool) :
    (s.withArb v).land p x poison = (s.land p x poison).withArb v := by
  unfold State.land forEach
  refine State.withArb_foldl (fun s v r => ?_) _ s v
  unfold State.writeBytes State.writePkg
  split
  · exact s.withArb_writeHost v p _ _ _
  · exact State.withArb_pkgWrite _ s v _ _ _

theorem State.withArb_seen (s : State) (v : ArbState) (space p : Nat) (pasid : Option Nat) :
    (s.withArb v).seen space p pasid = (s.seen space p pasid).withArb v :=
  State.withArb_foldl (fun s v x => s.withArb_land v pasid x x.poison) _ s v

/-- What a read brings shows in memory, in the writes under way, and in the queues that made them. -/
theorem State.withArb_catchRead (s : State) (v : ArbState) (space p : Nat) (pasid : Option Nat) (a n : Nat) :
    (s.withArb v).catchRead space p pasid a n = s.catchRead space p pasid a n := by
  unfold State.catchRead
  rw [State.withArb_seen]
  rfl

theorem State.catchRead_length (s : State) (space p : Nat) (pasid : Option Nat) (a n : Nat) :
    (s.catchRead space p pasid a n).bytes.length = n := by
  unfold State.catchRead State.readBytes
  dsimp only
  split
  · simp [State.hostBytes]
  · simp [State.pkgBytes]

/-! ## The answer of the port -/

/-- A read that brings sound data from where there is memory does not fail, and counts in the memory's register alone. -/
theorem State.portRead_sound {s : State} {space p : Nat} {pasid : Option Nat} {a n : Nat}
    (hm : (s.readMarks space p pasid a n .ok).any id = false) (hd : space ≠ 0 → s.pkgOut a n = false) :
    (s.portRead space p pasid a n .ok).2 = none
      ∧ keepsRegs (fun o => o = IZ_MEMP_STAT) s (s.portRead space p pasid a n .ok).1 := by
  have sound : ((s.catchRead space p pasid a n).marks space a .ok).any id = false := hm
  unfold State.portRead State.answer
  simp only [sound, s.catchRead_length, Bool.false_eq_true, if_false]
  by_cases h0 : space = 0
  · rw [if_pos h0]
    exact ⟨rfl, keepsRegs.refl _ s⟩
  · rw [if_neg h0, if_neg (by simp [hd h0])]
    exact ⟨rfl, (State.setF_keepsRegs _ IZ_MEMP_STAT_corrected _).trans (State.setF_keepsRegs _ IZ_MEMP_STAT_uncorrectable _)⟩

theorem State.portRead_onlyChanges (s : State) (space p : Nat) (pasid : Option Nat) (a n : Nat) (ans : ReadAns) :
    onlyChanges [.regs] s (s.portRead space p pasid a n ans).1 :=
  onlyChanges_of_same (fun _ hb => State.portRead_same hb s space p pasid a n ans)

/-! ## The command -/

/-- The resource of a ring's fetch reads. -/
def State.fetchRes (s : State) (q : Nat) : Nat := portRes (spaceOf (s.qctx q).device) (s.qctx q).port

/-- The arbiters' side of a fetch read: one that is out comes back, another one goes out on FETCH's channel at once. -/
def State.fetchTurn (s : State) (q : Nat) : State :=
  if s.isOut (s.fetchRes q) (.entries q) then s.backRead (s.fetchRes q) (.entries q) else s.arbBusy (s.fetchRes q) 68

theorem State.fetchTurn_eq (s : State) (q : Nat) : ∃ v, s.fetchTurn q = s.withArb v := by
  unfold State.fetchTurn
  split
  · exact ⟨_, rfl⟩
  · exact ⟨_, rfl⟩

/-- The read of queue `q`'s next entries as it is made now. -/
def State.fetchRead (s : State) (q : Nat) (ans : ReadAns) : State × Option PortFail :=
  (s.fetchTurn q).portRead (spaceOf (s.qctx q).device) (s.qctx q).port (s.qctx q).pasidOf ((s.qctx q).slotAddr (s.qctx q).fetch)
    (64 * (s.qctx q).fetchLen) ans

/-- The bytes that it brings. -/
def State.fetchBytes (s : State) (q : Nat) : List Byte :=
  (s.catchRead (spaceOf (s.qctx q).device) (s.qctx q).port (s.qctx q).pasidOf ((s.qctx q).slotAddr (s.qctx q).fetch)
    (64 * (s.qctx q).fetchLen)).bytes

section
variable {q : BitVec 22} {s : State} (hc : s.canFetch q.toNat = true) (ho : s.owns (s.fetchRes q.toNat) 68 = true)
  (hr : s.readRoom (s.fetchRes q.toNat) = true)
include hc ho hr

theorem exec_entryFetchDone_reads {ans : ReadAns} (h : (s.fetchRead q.toNat ans).2 = none) :
    exec (.entryFetchDone q ans) s
      = .next (((s.fetchRead q.toNat ans).1.takeAll q.toNat (entriesOf (s.qctx q.toNat).fetchLen (s.fetchBytes q.toNat))).decodeRun 4 q.toNat) := by
  have may : s.fetchMay (s.fetchRes q.toNat) = true := by unfold State.fetchMay; rw [ho, hr]; rfl
  obtain ⟨v, turn⟩ := s.fetchTurn_eq q.toNat
  have bytes : ((s.fetchTurn q.toNat).catchRead (spaceOf (s.qctx q.toNat).device) (s.qctx q.toNat).port (s.qctx q.toNat).pasidOf
      ((s.qctx q.toNat).slotAddr (s.qctx q.toNat).fetch) (64 * (s.qctx q.toNat).fetchLen)).bytes = s.fetchBytes q.toNat := by
    rw [turn, State.withArb_catchRead]
    rfl
  show execEntryFetchDone q ans s = _
  unfold execEntryFetchDone
  dsimp only
  rw [if_pos (by rw [hc, show s.fetchMay (portRes _ _) = true from may, Bool.or_true]; rfl)]
  unfold State.fetchRead State.fetchTurn State.fetchRes at h bytes ⊢
  rw [h]
  dsimp only
  rw [bytes]

theorem exec_entryFetchDone_fails {ans : ReadAns} {f : PortFail} (h : (s.fetchRead q.toNat ans).2 = some f) :
    exec (.entryFetchDone q ans) s = .next ((s.fetchRead q.toNat ans).1.fetchFail q.toNat f) := by
  have may : s.fetchMay (s.fetchRes q.toNat) = true := by unfold State.fetchMay; rw [ho, hr]; rfl
  show execEntryFetchDone q ans s = _
  unfold execEntryFetchDone
  dsimp only
  rw [if_pos (by rw [hc, show s.fetchMay (portRes _ _) = true from may, Bool.or_true]; rfl)]
  unfold State.fetchRead State.fetchTurn State.fetchRes at h ⊢
  rw [h]

/-- A host read of a ring that is rejected makes the queue malformed (R42). -/
theorem entryFetchDone_rejected (hd : (s.qctx q.toNat).device = false) (hn : s.isOut (s.fetchRes q.toNat) (.entries q.toNat) = false) :
    exec (.entryFetchDone q .rejected) s
      = .next (((s.arbBusy (s.fetchRes q.toNat) 68).cnt (IZ_HOSTP_STAT_xlat (s.qctx q.toNat).port)).malformed
          q.toNat 0x03 (s.qctx q.toNat).fetch none) := by
  have turn : s.fetchTurn q.toNat = s.arbBusy (s.fetchRes q.toNat) 68 := by
    unfold State.fetchTurn
    rw [hn]
    rfl
  have read : s.fetchRead q.toNat .rejected
      = ((s.arbBusy (s.fetchRes q.toNat) 68).cnt (IZ_HOSTP_STAT_xlat (s.qctx q.toNat).port), some .xlat) := by
    unfold State.fetchRead State.portRead State.answer
    rw [turn, hd, if_pos (show spaceOf false = 0 from rfl)]
  have same : (((s.arbBusy (s.fetchRes q.toNat) 68).cnt (IZ_HOSTP_STAT_xlat (s.qctx q.toNat).port)).qctx q.toNat) = s.qctx q.toNat :=
    (State.qctx_of_q (onlyChanges_of_same (l := [.regs]) (fun _ hb => State.cnt_same hb _ _) .q (by decide)) _).trans rfl
  rw [exec_entryFetchDone_fails hc ho hr (f := .xlat) (by rw [read]), read]
  unfold State.fetchFail
  rw [same]

end

/-! ## The entries taken -/

/-- A flight that an entry read as `raw` becomes as F passes it. -/
structure Flight.taken (g : Flight) (q : Nat) (i : W32) (raw : List Byte) : Prop where
  q : g.q = q
  idx : g.idx = i
  phase : g.phase = .fetched
  e : g.e = decodeEntry g.raw
  raw : g.raw = raw

theorem freshFlight_taken (q : Nat) (i : W32) (raw : List Byte) (mt : W64) (k : Nat) : (freshFlight q i raw mt k).taken q i raw :=
  ⟨rfl, rfl, rfl, rfl, rfl⟩

theorem Flight.adopt_taken {g : Flight} {q : Nat} {i : W32} {raw : List Byte} (h : g.taken q i raw) (m : MirrorMode) (l : DoneLog) :
    (g.adopt m l).taken q i raw := by
  obtain ⟨h1, h2, h3, h4, h5⟩ := h
  unfold Flight.adopt
  dsimp only
  cases m
  all_goals dsimp only
  all_goals split
  all_goals exact ⟨h1, h2, h3, h4, h5⟩

theorem State.acceptMtOf_onlyChanges (s : State) (q : Nat) (i : W32) : onlyChanges [.free] s (s.acceptMtOf q i).1 :=
  onlyChanges_of_same (fun _ hb => State.acceptMtOf_same hb s q i)

theorem State.adoptRing_onlyChanges (s : State) (c : Nat) : onlyChanges [.cq] s (s.adoptRing c) :=
  onlyChanges_of_same (fun _ hb => State.adoptRing_same hb s c)

/-- The context of a queue whose F has passed one entry more. -/
def QCtx.passed (c : QCtx) : QCtx :=
  { c with fetch := c.fetch + 1, accepts := c.accepts.filter (fun x => idxBefore (c.fetch + 1) x.new) }

/-- The state in which the flight of the entry that F passes joins the others. -/
def State.passing (s : State) (q : Nat) : State := (s.acceptMtOf q (s.qctx q).fetch).1.setQ q (s.qctx q).passed

theorem State.passing_spec (s : State) (q : Nat) :
    (s.passing q).qctx q = (s.qctx q).passed ∧ keepsQueues q s (s.passing q) ∧ onlyChanges [.q, .free] s (s.passing q) := by
  have mt := s.acceptMtOf_onlyChanges q (s.qctx q).fetch
  have ctx := State.qctx_of_q (mt .q (by decide))
  exact ⟨State.qctx_setQ_self _ _ _, fun k hk => (State.setQ_keepsQueues _ _ _ k hk).trans (ctx k),
    (mt.mono (by simp)).trans ((State.setQ_onlyChanges _ _ _).mono (by simp))⟩

/-- An entry that F passes joins the flights; an adopted one may bring a ring that its record goes to. -/
theorem State.takeEntry_eq (s : State) (q : Nat) (raw : List Byte) :
    ∃ g u, g.taken q (s.qctx q).fetch raw
      ∧ (isAdopted q = false → u = s.passing q ∧ g = freshFlight q (s.qctx q).fetch raw (s.acceptMtOf q (s.qctx q).fetch).2 (s.qctx q).stitchLog2)
      ∧ onlyChanges [.cq] (s.passing q) u ∧ s.takeEntry q raw = u.withFl (u.fl ++ [g]) := by
  have ctx := State.qctx_of_q (s.acceptMtOf_onlyChanges q (s.qctx q).fetch .q (by decide)) q
  have passing : s.passing q = (s.acceptMtOf q (s.qctx q).fetch).1.updQ q (fun c => { c with
      fetch := c.fetch + 1, accepts := (s.qctx q).accepts.filter (fun x => idxBefore ((s.qctx q).fetch + 1) x.new) }) := by
    unfold State.passing State.updQ QCtx.passed
    rw [ctx]
  have fresh := freshFlight_taken q (s.qctx q).fetch raw (s.acceptMtOf q (s.qctx q).fetch).2 (s.qctx q).stitchLog2
  unfold State.takeEntry
  dsimp only
  rw [← passing]
  by_cases adopted : isAdopted q = true
  case neg =>
    have own := Bool.eq_false_of_not_eq_true adopted
    rw [own]
    exact ⟨_, _, fresh, fun _ => ⟨rfl, rfl⟩, onlyChanges.refl _ _, rfl⟩
  case pos =>
    refine ⟨_, _, ?_, fun own => absurd adopted (by rw [own]; decide), ?_, rfl⟩
    · rw [adopted]
      exact Flight.adopt_taken fresh _ _
    · split_ifs
      · exact State.adoptRing_onlyChanges _ _
      · exact onlyChanges.refl _ _

/-- F passes an entry: its flight joins the others, and only its queue's context changes. -/
theorem State.takeEntry_spec (s : State) (q : Nat) (raw : List Byte) :
    (∃ g, (s.takeEntry q raw).fl = s.fl ++ [g] ∧ g.taken q (s.qctx q).fetch raw)
      ∧ (s.takeEntry q raw).qctx q = (s.qctx q).passed ∧ keepsQueues q s (s.takeEntry q raw)
      ∧ onlyChanges [.q, .cq, .fl, .free] s (s.takeEntry q raw) := by
  obtain ⟨ctx, others, passed⟩ := s.passing_spec q
  obtain ⟨g, u, taken, -, ring, e⟩ := s.takeEntry_eq q raw
  have joins : onlyChanges [.fl] u (u.withFl (u.fl ++ [g])) := onlyChanges_of_same (fun _ hb => State.withFl_same hb u _)
  have same := State.qctx_of_q ((joins .q (by decide)).trans (ring .q (by decide)))
  rw [e]
  refine ⟨⟨g, ?_, taken⟩, (same q).trans ctx, fun k hk => (same k).trans (others k hk),
    (passed.mono (by simp)).trans ((ring.mono (by simp)).trans (joins.mono (by simp)))⟩
  show u.fl ++ [g] = _
  rw [show u.fl = (s.passing q).fl from ring .fl (by decide), show (s.passing q).fl = s.fl from passed .fl (by decide)]

/-- What taking entries leaves: flights of the bytes read join the others in index order, and F passes them. -/
structure took (q : Nat) (l : List (List Byte)) (s t : State) : Prop where
  flights : ∃ gs : List Flight, t.fl = s.fl ++ gs ∧ gs.length = l.length
    ∧ ∀ j raw, l[j]? = some raw → ∃ g : Flight, gs[j]? = some g ∧ g.taken q ((s.qctx q).fetch + BitVec.ofNat 32 j) raw
  fetch : (t.qctx q).fetch = (s.qctx q).fetch + BitVec.ofNat 32 l.length
  snap : (t.qctx q).snap = (s.qctx q).snap
  queues : keepsQueues q s t
  frame : onlyChanges [.q, .cq, .fl, .free] s t

theorem took.cons {q : Nat} {raw : List Byte} {l : List (List Byte)} {s t : State} (h : took q l (s.takeEntry q raw) t) :
    took q (raw :: l) s t := by
  obtain ⟨⟨g, joins, taken⟩, ctx, queues, frame⟩ := s.takeEntry_spec q raw
  obtain ⟨⟨gs, flights, count, each⟩, fetch, snap, rest, changes⟩ := h
  rw [ctx] at each fetch snap
  have next : ∀ j, (s.qctx q).fetch + BitVec.ofNat 32 (j + 1) = (s.qctx q).passed.fetch + BitVec.ofNat 32 j := by
    intro j
    rw [Nat.add_comm j 1, BitVec.ofNat_add, ← BitVec.add_assoc]
    rfl
  refine ⟨⟨g :: gs, ?_, congrArg Nat.succ count, fun j b hj => ?_⟩, ?_, snap, fun k hk => (rest k hk).trans (queues k hk), frame.trans changes⟩
  · rw [flights, joins, List.append_assoc]
    rfl
  · cases j with
    | zero =>
      cases hj
      exact ⟨g, rfl, by simpa using taken⟩
    | succ j => rw [next]; exact each j b hj
  · rw [fetch, List.length_cons, next]

/-- Entries of a queue but the admin queue are taken one by one. -/
theorem State.takeAll_took {q : Nat} (h0 : q ≠ 0) {l : List (List Byte)} {s : State} (hr : s.run = true) : took q l s (s.takeAll q l) := by
  induction l generalizing s with
  | nil => exact ⟨⟨[], by simp [State.takeAll], rfl, by simp⟩, by simp [State.takeAll], rfl, fun _ _ => rfl, onlyChanges.refl _ _⟩
  | cons raw l ih =>
    have regs : (s.takeEntry q raw).regs = s.regs := (s.takeEntry_spec q raw).2.2.2 .regs (by decide)
    have run : (s.takeEntry q raw).run = true := (State.run_congr (by unfold State.reg; rw [regs])).trans hr
    have e : s.takeAll q (raw :: l) = (s.takeEntry q raw).takeAll q l := by
      rw [State.takeAll, if_pos hr, if_neg h0]
    rw [e]
    exact took.cons (ih run)

theorem entriesOf_length (n : Nat) (b : List Byte) : (entriesOf n b).length = n := by
  induction n generalizing b with
  | zero => rfl
  | succ n ih => exact congrArg Nat.succ (ih _)

theorem entriesOf_get {n : Nat} (b : List Byte) {j : Nat} (h : j < n) : (entriesOf n b)[j]? = some ((b.drop (64 * j)).take 64) := by
  induction n generalizing b j with
  | zero => exact absurd h (Nat.not_lt_zero j)
  | succ n ih =>
    cases j with
    | zero => rfl
    | succ j =>
      show (entriesOf n (b.drop 64))[j]? = _
      rw [ih _ (Nat.lt_of_succ_lt_succ h), List.drop_drop, Nat.mul_succ, Nat.add_comm]

theorem idxDiff_add {a b : W32} {k : Nat} (h : k ≤ idxDiff a b) : idxDiff a (b + BitVec.ofNat 32 k) + k = idxDiff a b := by
  unfold idxDiff at *
  bv_omega

end Sys2Proof.Machine
end

section
/-!
PROOFS. The decode of an entry that is its queue's only one: a malformed entry condemns its queue, and the quarantine stands however
the entry's record finds its ring (R79, R82, R138).
-/
namespace Sys2Proof.Machine

/-! ## A queue with one entry -/

theorem State.flight_of_flsOf {s : State} {q : Nat} {g : Flight} (h : s.flsOf q = [g]) : s.flight? q g.idx = some g := by
  have found : (s.flsOf q).find? (fun f => decide (f.idx = g.idx)) = some g := by rw [h]; simp
  unfold State.flsOf at found
  rw [List.find?_filter] at found
  unfold State.flight?
  simpa using found

theorem State.flsOf_of_fl {s t : State} (h : t.fl = s.fl) (q : Nat) : t.flsOf q = s.flsOf q := by
  unfold State.flsOf
  rw [h]

theorem State.flsOf_updFl (s : State) (q : Nat) (i : W32) {h : Flight → Flight} (hh : ∀ f, (h f).q = f.q) :
    (s.updFl q i h).flsOf q = (s.flsOf q).map (fun f => if decide (f.q = q) && decide (f.idx = i) then h f else f) := by
  unfold State.flsOf State.updFl updWhere State.withFl
  dsimp only
  rw [List.filter_map]
  refine congrArg (List.map _) (List.filter_congr (fun f _ => ?_))
  rw [Function.comp]
  split
  · rw [hh]
  · rfl

/-- An entry that waits at decode, parks, or is released from parking changes its phase; all else that happens leaves the flights. -/
def Flight.inPhase (p : Phase) (f : Flight) : Flight := { f with phase := p }

theorem State.parkEntry_onlyChanges (s : State) (q : Nat) (i : W32) (n : Nat) :
    onlyChanges [.regs, .park, .arb, .pat, .mem] (s.updFl q i (Flight.inPhase .parked)) (s.parkEntry q i n) := by
  unfold State.parkEntry
  dsimp only
  split
  · exact (onlyChanges_of_same (l := [.park]) (fun _ hb => State.withPark_same hb _ _)).mono (by simp)
  · exact onlyChanges_of_same (fun _ hb => State.spillEntry_same hb (s.updFl q i (Flight.inPhase .parked)) q i)

theorem State.releasePark_onlyChanges (s : State) (q : Nat) (i : W32) :
    onlyChanges [.regs, .park, .trace, .pat, .mem] (s.updFl q i (Flight.inPhase .startable)) (s.releasePark q i) := by
  have out : onlyChanges [.park] (s.updFl q i (Flight.inPhase .startable)) ((s.unpark q i).updFl q i (Flight.inPhase .startable)) :=
    (onlyChanges_of_same (fun _ hb => State.unpark_same hb (s.updFl q i (Flight.inPhase .startable)) q i) :
      onlyChanges [.park] _ ((s.updFl q i (Flight.inPhase .startable)).unpark q i))
  unfold State.releasePark
  change onlyChanges _ _ (State.traceEv (((s.unpark q i).updFl q i (Flight.inPhase .startable)).wrapAdd IZ_TRIG_RELEASED_released 1) _ _ _ _ _ _)
  generalize (s.unpark q i).updFl q i (Flight.inPhase .startable) = u at out
  have counted := u.setF_onlyChanges IZ_TRIG_RELEASED_released (u.f IZ_TRIG_RELEASED_released + 1)
  have traced : onlyChanges [.regs, .trace, .pat, .mem] (u.wrapAdd IZ_TRIG_RELEASED_released 1)
      ((u.wrapAdd IZ_TRIG_RELEASED_released 1).traceEv 1 0x03 0 0 q i.toNat) :=
    onlyChanges_of_same (fun _ hb => State.traceEv_same hb _ 1 3 0 0 q i.toNat)
  exact (out.mono (by simp)).trans ((counted.mono (by simp)).trans (traced.mono (by simp)))

/-- The only entry of queue `q` is the one read as `raw`. -/
def sole (q : Nat) (i : W32) (e : Entry) (raw : List Byte) (s : State) : Prop :=
  ∃ g, s.flsOf q = [g] ∧ g.idx = i ∧ g.e = e ∧ g.raw = raw

section
variable {q : Nat} {i : W32} {e : Entry} {raw : List Byte} {s t : State}

theorem sole.of_fl (h : sole q i e raw s) (hf : t.fl = s.fl) : sole q i e raw t := by
  obtain ⟨g, one, rest⟩ := h
  exact ⟨g, (State.flsOf_of_fl hf q).trans one, rest⟩

theorem sole.updFl (h : sole q i e raw s) (j : W32) {k : Flight → Flight}
    (hk : ∀ f, (k f).q = f.q ∧ (k f).idx = f.idx ∧ (k f).e = f.e ∧ (k f).raw = f.raw) : sole q i e raw (s.updFl q j k) := by
  obtain ⟨g, one, h1, h2, h3⟩ := h
  obtain ⟨-, k1, k2, k3⟩ := hk g
  rw [sole, s.flsOf_updFl q j (fun f => (hk f).1), one]
  refine ⟨_, rfl, ?_⟩
  dsimp only
  split
  · exact ⟨k1.trans h1, k2.trans h2, k3.trans h3⟩
  · exact ⟨h1, h2, h3⟩

theorem sole.inPhase (h : sole q i e raw s) (j : W32) (p : Phase) : sole q i e raw (s.updFl q j (Flight.inPhase p)) :=
  h.updFl j (fun _ => ⟨rfl, rfl, rfl, rfl⟩)

theorem sole.parkOrWait (h : sole q i e raw s) (j : W32) (x : Entry) : sole q i e raw (s.parkOrWait q j x) := by
  have parks : ∀ {t : State} (n : Nat), sole q i e raw t → sole q i e raw (t.parkEntry q j n) := fun n ht =>
    (ht.inPhase j .parked).of_fl (State.parkEntry_onlyChanges _ q j n .fl (by decide))
  have releases : ∀ {t : State}, sole q i e raw t → sole q i e raw (t.releasePark q j) := fun ht =>
    (ht.inPhase j .startable).of_fl (State.releasePark_onlyChanges _ q j .fl (by decide))
  unfold State.parkOrWait
  dsimp only
  by_cases room : s.parkRoom (ctrIdx q x.waitCtr) = true
  case neg =>
    rw [if_neg room]
    have moved := h.inPhase j .waitPark
    change sole q i e raw (State.raise ((s.updFl q j (Flight.inPhase .waitPark)).cnt IZ_TRIG_STAT_park_full) 38)
    generalize s.updFl q j (Flight.inPhase .waitPark) = u at moved
    have counted : (u.cnt IZ_TRIG_STAT_park_full).fl = u.fl := rfl
    exact (moved.of_fl counted).of_fl (State.raise_onlyChanges _ 38 .fl (by decide))
  case pos =>
    rw [if_pos room]
    have found : sole q i e raw (if s.mustSpill (ctrIdx q x.waitCtr) then (s, true) else s.demand [(.counter, ctrIdx q x.waitCtr)]).1 := by
      split
      · exact h
      · exact h.of_fl (s.demand_onlyChanges _ .fl (by decide))
    generalize (if s.mustSpill (ctrIdx q x.waitCtr) then (s, true) else s.demand [(.counter, ctrIdx q x.waitCtr)]) = d at found
    split
    · exact found
    · have parked := parks (ctrIdx q x.waitCtr) found
      split
      · exact releases parked
      · exact parked

theorem sole.flight (h : sole q i e raw s) : ∃ g, s.flight? q i = some g ∧ g.e = e := by
  obtain ⟨g, one, rfl, rfl, -⟩ := h
  exact ⟨g, State.flight_of_flsOf one, rfl⟩

end

/-! ## The checks of decode -/

/-- What the checks of R79 find shows in the queue's context and in the rings. -/
theorem State.decodeCause_congr {s t : State} {q : Nat} (hq : (t.qctx q).echk = (s.qctx q).echk) (hp : (t.qctx q).pd = (s.qctx q).pd)
    (hc : t.cq = s.cq) (raw : List Byte) (e : Entry) : t.decodeCause q raw e = s.decodeCause q raw e := by
  have ring := State.cctx_of_cq hc (ringOf q e.cqOvr)
  unfold State.decodeCause State.badCq
  rw [hq, hp, ring]

theorem State.trigPd_congr {s t : State} {q : Nat} (hp : (t.qctx q).pd = (s.qctx q).pd) (hc : t.ctr = s.ctr) (e : Entry) :
    t.trigPd q e = s.trigPd q e := by
  unfold State.trigPd State.ctrOk
  rw [hp, State.ctrOf_of_ctr hc, State.ctrOf_of_ctr hc, State.ctrOf_of_ctr hc]

/-- Decode does nothing in a queue that is not fetched from. -/
theorem State.decodeRun_still (n : Nat) {s : State} {q : Nat} (h : (s.qctx q).fetching = false) : s.decodeRun n q = s := by
  cases n with
  | zero => rfl
  | succ n =>
    unfold State.decodeRun
    rw [h]
    simp

/-- Decode does nothing where no entry is left to decode. -/
theorem State.decodeRun_none (n : Nat) {s : State} {q : Nat} (h : ∀ g ∈ s.flsOf q, g.phase ≠ .fetched) : s.decodeRun n q = s := by
  cases n with
  | zero => rfl
  | succ n =>
    have none : (s.flsOf q).find? (fun f => decide (f.phase = .fetched)) = Option.none :=
      List.find?_eq_none.mpr (fun g hg => by simpa using h g hg)
    unfold State.decodeRun
    rw [none]
    split <;> rfl

theorem State.decodeOne_passing {s : State} {q : Nat} {i : W32} {f : Flight} (hf : s.flight? q i = some f)
    (hc : s.decodeCause q f.raw f.e = none) :
    s.decodeOne q i = if f.logged.isSome then s.updFl q i (Flight.inPhase .dataDone)
      else if s.trigPd q f.e then s.updFl q i (fun f => { f with phase := .dataDone, status := stTrigPd, ended := true })
      else if f.e.waitEn then s.parkOrWait q i f.e else s.updFl q i (Flight.inPhase .startable) := by
  unfold State.decodeOne
  rw [hf]
  dsimp only
  rw [hc]
  rfl

/-- An entry that passes its checks stays its queue's only one while decode runs. -/
theorem State.decodeRun_sole (n : Nat) {s : State} {q : Nat} {i : W32} {e : Entry} {raw : List Byte} (h : sole q i e raw s)
    (hc : s.decodeCause q raw e = none) : sole q i e raw (s.decodeRun n q) := by
  induction n generalizing s with
  | zero => exact h
  | succ n ih =>
    obtain ⟨g, one, rfl, rfl, rfl⟩ := h
    have h : sole q g.idx g.e g.raw s := ⟨g, one, rfl, rfl, rfl⟩
    have decoded : sole q g.idx g.e g.raw (s.decodeOne q g.idx) ∧ (s.decodeOne q g.idx).q = s.q ∧ (s.decodeOne q g.idx).cq = s.cq := by
      rw [State.decodeOne_passing (State.flight_of_flsOf one) hc]
      split_ifs
      · exact ⟨h.inPhase _ _, rfl, rfl⟩
      · exact ⟨h.updFl _ (fun _ => ⟨rfl, rfl, rfl, rfl⟩), rfl, rfl⟩
      · have frame := onlyChanges_of_same (fun _ hb => State.parkOrWait_same hb s q g.idx g.e)
        exact ⟨h.parkOrWait _ _, frame .q (by decide), frame .cq (by decide)⟩
      · exact ⟨h.inPhase _ _, rfl, rfl⟩
    obtain ⟨still, hq, hr⟩ := decoded
    have next := ih still (by
      rw [State.decodeCause_congr (congrArg QCtx.echk (State.qctx_of_q hq q)) (congrArg QCtx.pd (State.qctx_of_q hq q)) hr, hc])
    unfold State.decodeRun
    rw [one]
    split
    · rw [List.find?_singleton]
      by_cases fetched : g.phase = .fetched
      · rw [if_pos (by simpa using fetched)]
        dsimp only
        split
        · exact next
        · exact h
      · rw [if_neg (by simpa using fetched)]
        exact h
    · exact h

section
variable {s : State} {q : Nat} {g : Flight} (one : s.flsOf q = [g]) (hp : g.phase = .fetched) (hr : s.run = true)
  (hf : (s.qctx q).fetching = true)
include one hp hr hf

/-- The only entry of a queue is decoded at once: none before it waits to start. -/
theorem State.decodeRun_first (n : Nat) : s.decodeRun (n + 1) q = State.decodeRun n (s.decodeOne q g.idx) q := by
  have now : s.judgedNow q g = true := by
    unfold State.judgedNow
    rw [one]
    simp [idxBefore_self]
  rw [State.decodeRun, one, List.find?_singleton, if_pos (by simp [hr, hf, hp]), if_pos (by simp [hp])]
  exact if_pos now

/-- One that passes its checks and waits on no counter becomes startable. -/
theorem State.decodeRun_startable (n : Nat) (hc : s.decodeCause q g.raw g.e = none) (hl : g.logged = none) (ht : s.trigPd q g.e = false)
    (hw : g.e.waitEn = false) : s.decodeRun (n + 1) q = s.updFl q g.idx (Flight.inPhase .startable) := by
  have passes : s.decodeOne q g.idx = s.updFl q g.idx (Flight.inPhase .startable) := by
    rw [State.decodeOne_passing (State.flight_of_flsOf one) hc, hl, ht, hw]
    rfl
  have own : g.q = q := (State.flight_some (State.flight_of_flsOf one)).1
  have fls := s.flsOf_updFl q g.idx (h := Flight.inPhase .startable) (fun _ => rfl)
  rw [one] at fls
  rw [State.decodeRun_first one hp hr hf, passes]
  refine State.decodeRun_none n (fun f h => ?_)
  rw [fls] at h
  simp only [List.map_cons, List.map_nil, List.mem_singleton, own, decide_true, Bool.and_self, if_true] at h
  rw [h]
  exact Phase.noConfusion

end

end Sys2Proof.Machine
end

section
/-!
PROOFS. A queue that a malformed entry quarantines: its state, its cause and the entry's status stand whatever becomes of the entry's
record (R79, R81, R82, R136 to R141).
-/
namespace Sys2Proof.Machine

/-- An entry that ended as malformed before it started. -/
structure Flight.condemned (g : Flight) (e : Entry) (cause : Nat) : Prop where
  e : g.e = e
  ended : g.ended = true
  status : g.status = stMalformed
  cause : g.malCause = cause
  began : g.began = false
  logged : g.logged = none

/-- Queue `q` is quarantined for its entry `i`, with the cause found in it. -/
structure condemned (q : Nat) (i : W32) (e : Entry) (cause : Nat) (s : State) : Prop where
  state : (s.qctx q).state = .quarantined
  caused : (s.qctx q).cause = cause
  index : (s.qctx q).causeIndex = i
  flight : ∃ g : Flight, s.flight? q i = some g ∧ g.condemned e cause

/-- The ring of the queue's records is there. -/
def State.ringThere (s : State) (q : Nat) : Prop := (s.cctx (ringOf q (s.qctx q).cqid)).state ≠ .free

theorem Flight.condemned.final {g : Flight} {e : Entry} {cause : Nat} (h : g.condemned e cause) :
    g.finalStatus = stMalformed ∧ g.postsRecord = true := by
  have final : g.finalStatus = stMalformed := by
    unfold Flight.finalStatus
    rw [h.logged, h.status]
    exact if_neg (fun k => absurd k.1 (by decide))
  refine ⟨final, ?_⟩
  unfold Flight.postsRecord
  rw [final]
  simp [show stMalformed ≠ stOk by decide]

section
variable {q : Nat} {i : W32} {e : Entry} {cause : Nat} {s t : State}

/-! ## What leaves the quarantine as it is -/

theorem condemned.keep {l : List Part} (h : condemned q i e cause s) (k : onlyChanges l s t) (hl : Part.q ∉ l ∧ Part.fl ∉ l := by decide) :
    condemned q i e cause t := by
  have ctx : t.qctx q = s.qctx q := State.qctx_of_q (k .q hl.1) q
  obtain ⟨h1, h2, h3, g, hg, hc⟩ := h
  rw [← ctx] at h1 h2 h3
  exact ⟨h1, h2, h3, g, (State.flight_of_fl (k .fl hl.2) q i).trans hg, hc⟩

theorem State.ringThere.keep {l : List Part} (h : s.ringThere q) (k : onlyChanges l s t) (hl : Part.q ∉ l ∧ Part.cq ∉ l := by decide) :
    t.ringThere q := by
  unfold State.ringThere
  rw [State.qctx_of_q (k .q hl.1), State.cctx_of_cq (k .cq hl.2)]
  exact h

theorem condemned.updFl (h : condemned q i e cause s) {k : Flight → Flight} (hk : ∀ f, (k f).q = f.q ∧ (k f).idx = f.idx)
    (hc : ∀ f : Flight, f.condemned e cause → (k f).condemned e cause) : condemned q i e cause (s.updFl q i k) := by
  obtain ⟨h1, h2, h3, g, hg, hgc⟩ := h
  refine ⟨h1, h2, h3, k g, ?_, hc g hgc⟩
  rw [State.flight_updFl s q i k hk, hg]
  rfl

/-- The queues of a ring stop at the next break points of their stitches; the quarantine of one of them stands. -/
theorem condemned.stopStitches (h : condemned q i e cause s) (k : Nat) : condemned q i e cause (s.stopStitches k) := by
  obtain ⟨h1, h2, h3, g, hg, hgc⟩ := h
  have found : (s.stopStitches k).flight? q i = (s.flight? q i).map (fun f =>
      if decide (f.q = k) && !boundByR91 (s.qctx k) f.e then
        { f with stitches := f.stitches.map (fun x => { x with stop := true }) } else f) :=
    find_updWhere _ _ _ _ (fun _ _ => rfl)
  rw [hg] at found
  refine ⟨h1, h2, h3, _, found, ?_⟩
  obtain ⟨c1, c2, c3, c4, c5, c6⟩ := hgc
  dsimp only
  split <;> exact ⟨c1, c2, c3, c4, c5, c6⟩

/-- Another queue's context, or one of its own that keeps the quarantine, is written. -/
theorem condemned.setQ (h : condemned q i e cause s) {k : Nat} {c : QCtx}
    (hc : k = q → c.state = .quarantined ∧ c.cause = cause ∧ c.causeIndex = i) : condemned q i e cause (s.setQ k c) := by
  obtain ⟨h1, h2, h3, flight⟩ := h
  by_cases e : q = k
  · obtain ⟨c1, c2, c3⟩ := hc e.symm
    have ctx : (s.setQ k c).qctx q = c := by rw [State.qctx_setQ, if_pos e]
    exact ⟨by rw [ctx, c1], by rw [ctx, c2], by rw [ctx, c3], flight⟩
  · have ctx : (s.setQ k c).qctx q = s.qctx q := by rw [State.qctx_setQ, if_neg e]
    exact ⟨by rw [ctx, h1], by rw [ctx, h2], by rw [ctx, h3], flight⟩

theorem condemned.stallNow (h : condemned q i e cause s) (k : Nat) : condemned q i e cause (s.stallNow k) := by
  have snap : ∀ {t : State}, condemned q i e cause t → condemned q i e cause (t.snapQ k) := fun ht =>
    ht.keep (onlyChanges_of_same (fun _ hb => State.snapQ_same hb _ k))
  have flagged : condemned q i e cause (s.setQ k { s.qctx k with cqStall := true }) :=
    h.setQ (fun own => by subst own; exact ⟨h.state, h.caused, h.index⟩)
  unfold State.stallNow
  dsimp only
  split
  · exact h
  · split
    case h_1 ready =>
      have stopped := (h.setQ (k := k) (c := { s.qctx k with cqStall := true, state := .stopped, cqStalls := satAdd 16 (s.qctx k).cqStalls 1 })
        (fun own => absurd (ready.symm.trans (own ▸ h.state)) (by decide))).stopStitches k
      exact snap stopped
    · exact flagged
    · exact flagged
    · exact flagged
    · exact h

theorem condemned.stallQueues (h : condemned q i e cause s) (c : Nat) : condemned q i e cause (s.stallQueues c) := by
  unfold State.stallQueues
  refine forEach_keeps (fun k t ht => ?_) _ h
  dsimp only
  split
  · exact ht.keep (onlyChanges_of_same (fun _ hb => State.addAct_same hb t (.stall k)))
  · exact ht.stallNow k

theorem condemned.enterFull (h : condemned q i e cause s) (c : Nat) : condemned q i e cause (s.enterFull c) := by
  unfold State.enterFull
  dsimp only
  refine condemned.stallQueues ?_ c
  have full := h.keep (onlyChanges_of_same (fun _ hb => State.setC_same hb s c
    { s.cctx c with state := .full, fullEvents := satAdd 16 (s.cctx c).fullEvents 1, stallMt := s.mt }))
  generalize s.setC c { s.cctx c with state := .full, fullEvents := satAdd 16 (s.cctx c).fullEvents 1, stallMt := s.mt } = u at full
  have counted := (full.keep (onlyChanges_of_same (fun _ hb => State.cnt_same hb u CQ_FULL_STAT_count))).keep
    (State.setF_onlyChanges _ CQ_FULL_STAT_last_cqid (c % 2 ^ 18))
  have raised := counted.keep (State.raise_onlyChanges _ 34)
  exact raised.keep (onlyChanges_of_same (fun _ hb => State.traceEv_same hb _ 4 0x30 0 0 c (s.cctx c).pi.toNat))

/-! ## The record of the malformed entry -/

theorem condemned.spillRec (h : condemned q i e cause s) (r : Held) : condemned q i e cause (s.spillRec r) := by
  unfold State.spillRec
  dsimp only
  have spilled := h.keep (onlyChanges_of_same (fun _ hb => State.withCqs_same hb s { s.cqs with spill := s.cqs.spill ++ [r] }))
  generalize s.withCqs { s.cqs with spill := s.cqs.spill ++ [r] } = u at spilled
  have peaked := spilled.keep (onlyChanges_of_same (fun _ hb => State.peak_same hb u (CQ_SPILL_peak (cqGroup r.c)) (u.spillLevel (cqGroup r.c))))
  split
  · exact peaked.enterFull r.c
  · exact peaked

theorem condemned.completed (h : condemned q i e cause s) : condemned q i e cause (s.completed q i) := by
  obtain ⟨h1, h2, h3, g, hg, hc⟩ := id h
  by_cases done : g.phase.completed = true
  · have same : s.completed q i = s := by
      unfold State.completed
      rw [hg]
      exact if_pos done
    rw [same]
    exact h
  · obtain ⟨flight, -⟩ := State.completed_spec hg (Bool.eq_false_of_not_eq_true done)
    have ctx : (s.completed q i).qctx q = s.qctx q := State.qctx_of_q (s.completed_onlyChanges q i .q (by decide)) q
    obtain ⟨c1, c2, c3, c4, c5, c6⟩ := hc
    exact ⟨by rw [ctx, h1], by rw [ctx, h2], by rw [ctx, h3], _, flight, ⟨c1, c2, c3, c4, c5, c6⟩⟩

/-- The record of the entry is issued, spilled, or waits: its ring is there, so it is not dropped and the entry is not released. -/
theorem condemned.placeRec (h : condemned q i e cause s) {r : Held} (hq : r.q = q) (hi : r.idx = i) (hr : (s.cctx r.c).state ≠ .free) :
    condemned q i e cause (s.placeRec r) := by
  unfold State.placeRec
  rw [if_neg hr, hq, hi]
  split
  · exact h.completed.keep (State.issueRec_onlyChanges _ r)
  · split
    · exact h.completed.spillRec r
    · have waits := h.keep (onlyChanges_of_same (fun _ hb => State.withCqs_same hb s { s.cqs with waiting := s.cqs.waiting ++ [r] }))
      exact waits.updFl (k := Flight.inPhase .recWait) (fun _ => ⟨rfl, rfl⟩) (fun f hf => ⟨hf.1, hf.2, hf.3, hf.4, hf.5, hf.6⟩)

theorem condemned.postEntry (h : condemned q i e cause s) (hr : s.ringThere q) : condemned q i e cause (s.postEntry q i) := by
  obtain ⟨-, -, -, g, hg, hc⟩ := id h
  obtain ⟨final, posts⟩ := hc.final
  obtain ⟨own, -⟩ := State.flight_some hg
  have ring : s.recRing g = ringOf q (s.qctx q).cqid := by
    unfold State.recRing
    rw [final, own]
    simp
  have placed := h.placeRec (r := { c := s.recRing g, r := g.record, q := q, idx := i }) rfl rfl (by rw [ring]; exact hr)
  unfold State.postEntry
  rw [hg]
  dsimp only
  rw [if_pos posts]
  split
  · exact placed
  · exact placed.keep (onlyChanges_of_same (fun _ hb => State.noteAfter_same hb _ (some g)))

theorem condemned.finish (h : condemned q i e cause s) (hr : s.ringThere q) : condemned q i e cause (s.finish q i) := by
  obtain ⟨-, -, -, g, hg, -⟩ := id h
  have looked := s.demand_onlyChanges (s.endNeeds g)
  have found := h.keep looked
  have there := hr.keep looked
  unfold State.finish
  rw [hg]
  dsimp only
  split
  · generalize s.demand (s.endNeeds g) = d at found there
    split
    · exact found.keep (onlyChanges_of_same (fun _ hb => State.endLater_same hb d.1 q i))
    · split
      · unfold State.orWait
        split
        · exact h
        · exact found.postEntry there
      · exact found.postEntry there
  · exact h

/-- An entry whose completion is decided. -/
def Flight.awaiting (mt : W64) (fl : List Bool) (sq : Option W32) (g : Flight) : Flight :=
  { g with phase := .mirrorWait, doneMt := mt, flush := fl, flushed := true, complSeq := sq }

/-- What deciding a completion can do: nothing, let it wait for its queue's context, or finish it as far as it may (R44, R355). -/
theorem State.tryComplete_cases (s : State) (q : Nat) (i : W32) :
    s.tryComplete q i = s ∨ s.tryComplete q i = (s.demand [(.queue, q)]).1.endLater q i
      ∨ ∃ u mt fl sq, onlyChanges [.regs, .cache, .arb, .pair, .lace, .out] s u
          ∧ s.tryComplete q i = (u.updFl q i (Flight.awaiting mt fl sq)).finish q i := by
  have looked := s.demand_onlyChanges [(.queue, q)]
  unfold State.tryComplete
  cases hf : s.flight? q i with
  | none => exact .inl rfl
  | some f =>
    dsimp only
    split
    · exact .inl rfl
    split
    · exact .inl rfl
    generalize s.demand [(.queue, q)] = d at looked
    split
    · exact .inr (.inl rfl)
    refine .inr (.inr ⟨_, _, _, _, looked.mono (by simp) |>.trans ?_, rfl⟩)
    have sent : ∀ (b : Prop) [Decidable b] (x : W64) (w : List W64),
        onlyChanges [.regs, .cache, .arb, .pair, .lace, .out] d.1 (if b then d.1.mirrorRec 0x05 q 0 q i x w else d.1) := by
      intro b _ x w
      split
      · exact (onlyChanges_of_same (fun _ hb => State.mirrorRec_same hb d.1 5 q 0 q i x w)).mono (by simp)
      · exact onlyChanges.refl _ _
    split
    · exact (sent _ _ _).trans ((onlyChanges_of_same (fun _ hb => State.emit_same hb _ _)).mono (by simp))
    · exact sent _ _ _

theorem condemned.tryComplete (h : condemned q i e cause s) (hr : s.ringThere q) : condemned q i e cause (s.tryComplete q i) := by
  obtain stays | waits | ⟨u, mt, fl, sq, frame, goes⟩ := s.tryComplete_cases q i
  · rw [stays]
    exact h
  · rw [waits]
    exact (h.keep (s.demand_onlyChanges _)).keep (onlyChanges_of_same (fun _ hb => State.endLater_same hb _ q i))
  · rw [goes]
    have decided := (h.keep frame).updFl (k := Flight.awaiting mt fl sq) (fun _ => ⟨rfl, rfl⟩)
      (fun f hf => ⟨hf.1, hf.2, hf.3, hf.4, hf.5, hf.6⟩)
    exact decided.finish ((hr.keep frame).keep (u.updFl_onlyChanges q i _))

theorem condemned.dropKept (h : condemned q i e cause s) : condemned q i e cause (s.dropKept q i) := by
  unfold State.dropKept
  split
  · exact h
  · split
    · exact h
    · exact (h.keep (onlyChanges_of_same (fun _ hb => State.freeBursts_same hb s _))).updFl (fun _ => ⟨rfl, rfl⟩)
        (fun f hf => ⟨hf.1, hf.2, hf.3, hf.4, hf.5, hf.6⟩)

theorem condemned.settle (h : condemned q i e cause s) (hr : s.ringThere q) : condemned q i e cause (s.settle q i) := by
  have there := hr.keep (onlyChanges_of_same (fun _ hb => State.dropKept_same hb s q i))
  have ready := h.dropKept.updFl (k := Flight.inPhase .dataDone) (fun _ => ⟨rfl, rfl⟩) (fun f hf => ⟨hf.1, hf.2, hf.3, hf.4, hf.5, hf.6⟩)
  unfold State.settle
  split
  · exact h
  · dsimp only
    split
    · split
      · exact ready.tryComplete (there.keep (State.updFl_onlyChanges _ q i _))
      · exact ready
    · exact h

/-! ## The quarantine -/

/-- An entry that ends as malformed, with `n` entries withdrawn for it. -/
def Flight.malformedBy (cause n : Nat) (f : Flight) : Flight :=
  { f with status := stMalformed, malCause := cause, ended := true, redExc := false, quar := some n,
           stitches := f.stitches.map (fun (x : Stitch) => { x with stop := true }) }

/-- The quarantine for the only entry of a queue: it withdraws nothing, and stands. -/
theorem State.quarantine_condemns {g : Flight} (one : s.flsOf q = [g]) (hb : g.began = false) (hl : g.logged = none)
    (hr : s.ringThere q) : condemned q g.idx g.e cause (s.quarantine q cause g.idx (some g.idx)) := by
  have set := s.qctx_setQ_self q { s.qctx q with cause := cause, causeIndex := g.idx, state := .quarantined }
  have ring : (s.setQ q { s.qctx q with cause := cause, causeIndex := g.idx, state := .quarantined }).ringThere q := by
    unfold State.ringThere
    rw [set]
    exact hr
  have same : (s.setQ q { s.qctx q with cause := cause, causeIndex := g.idx, state := .quarantined }).flsOf q = [g] := one
  unfold State.quarantine State.withdraw State.updQ
  dsimp only
  rw [same]
  generalize s.setQ q { s.qctx q with cause := cause, causeIndex := g.idx, state := .quarantined } = u at set ring same
  have stays : [g].filter (fun f => decide (some f.idx ≠ some g.idx) && (decide (f.phase = .parked) ||
      (decide (f.phase = .startable) && idxBefore f.idx g.idx))) = [] := by simp
  rw [stays]
  have ends : condemned q g.idx g.e cause (u.updFl q g.idx (Flight.malformedBy cause 0)) := by
    refine ⟨congrArg QCtx.state set, congrArg QCtx.cause set, congrArg QCtx.causeIndex set, Flight.malformedBy cause 0 g, ?_,
      ⟨rfl, rfl, rfl, rfl, hb, hl⟩⟩
    rw [State.flight_updFl u q g.idx (Flight.malformedBy cause 0) (fun _ => ⟨rfl, rfl⟩), State.flight_of_flsOf same]
    rfl
  exact (ends.settle (ring.keep (u.updFl_onlyChanges q g.idx _))).keep (onlyChanges_of_same (fun _ hb => State.snapQ_same hb _ q))

/-- An entry that fails a check of R79, and is its queue's only one, quarantines a User queue where STRICT_USER is off. -/
theorem State.decodeRun_condemns {g : Flight} (one : s.flsOf q = [g]) (hp : g.phase = .fetched) (hb : g.began = false)
    (hl : g.logged = none) (hrun : s.run = true) (hf : (s.qctx q).fetching = true) (hu : (s.qctx q).cls = .user)
    (hs : s.strict = false) (hr : s.ringThere q) (hc : s.decodeCause q g.raw g.e = some cause) (n : Nat) :
    condemned q g.idx g.e cause (s.decodeRun (n + 1) q) := by
  have judged : s.decodeOne q g.idx = (s.updFl q g.idx (Flight.inPhase .startable)).quarantine q cause g.idx (some g.idx) := by
    unfold State.decodeOne
    rw [State.flight_of_flsOf one]
    dsimp only
    rw [hc]
    dsimp only
    have lenient : (s.updFl q g.idx (Flight.inPhase .startable)).strict = false := hs
    exact if_pos ⟨hu, fun k => Bool.false_ne_true (lenient.symm.trans k)⟩
  have own : g.q = q := (State.flight_some (State.flight_of_flsOf one)).1
  have fls := s.flsOf_updFl q g.idx (h := Flight.inPhase .startable) (fun _ => rfl)
  rw [one] at fls
  simp only [List.map_cons, List.map_nil, own, decide_true, Bool.and_self, if_true] at fls
  have stands : condemned q g.idx g.e cause ((s.updFl q g.idx (Flight.inPhase .startable)).quarantine q cause g.idx (some g.idx)) :=
    State.quarantine_condemns (g := Flight.inPhase .startable g) fls hb hl (hr.keep (s.updFl_onlyChanges q g.idx _))
  rw [State.decodeRun_first one hp hrun hf, judged, State.decodeRun_still n]
  · exact stands
  · unfold QCtx.fetching
    rw [stands.state]
    rfl

end

end Sys2Proof.Machine
end

section
/-!
PROOFS. Entry fetch and decode: an entry that waits at decode parks once there is room (R193, R200, R201), and the obligation on
fetching and decoding in order.
-/
namespace Sys2Proof.Machine

/-! ## Room for a parked entry -/

theorem State.parkOpen_room {s : State} {n : Nat} (h : s.parkOpen n = true) : s.parkRoom n = true := by
  unfold State.parkOpen at h
  unfold State.parkRoom
  rw [Bool.or_eq_true, Bool.and_eq_true] at h
  rw [Bool.or_eq_true]
  exact h.imp_right And.left

/-- Whether an entry may park shows in the parked entries, the flights, the channels, and the register of the counter's bank. -/
theorem State.parkOpen_congr {s t : State} {n : Nat} (hp : t.park = s.park) (hf : t.fl = s.fl) (ha : t.arb = s.arb)
    (hr : t.reg (SPR_ARRAY (n % 16)) = s.reg (SPR_ARRAY (n % 16))) : t.parkOpen n = s.parkOpen n := by
  have flight : t.flight? = s.flight? := funext (fun q => funext (State.flight_of_fl hf q))
  have bank : t.bankRetired (n % 16) = s.bankRetired (n % 16) := by
    unfold State.bankRetired State.fb
    rw [State.f_of_reg (SPR_ARRAY_retired (n % 16)) hr]
  have locked : t.lockedCtrs = s.lockedCtrs := by
    unfold State.lockedCtrs
    rw [hp, flight]
  have spills : t.mustSpill n = s.mustSpill n := by
    unfold State.mustSpill
    rw [bank, locked, hp, flight]
  unfold State.parkOpen State.chipSlot State.owns
  rw [hp, spills, ha]

/-- The lookup of the counter that an entry waits on; an entry bound for the spill looks none up. -/
def State.parkLook (s : State) (n : Nat) : State × Bool := if s.mustSpill n then (s, true) else s.demand [(.counter, n)]

theorem State.parkLook_open {s : State} {n : Nat} (ho : s.parkOpen n = true) (hn : s.mustSpill n = true ∨ s.atHand [(.counter, n)] = true) :
    (s.parkLook n).2 = true ∧ (s.parkLook n).1.parkOpen n = true ∧ onlyChanges [.regs, .cache] s (s.parkLook n).1 := by
  unfold State.parkLook
  split
  · exact ⟨rfl, ho, onlyChanges.refl _ s⟩
  · next chip =>
    have hand := hn.resolve_left chip
    have frame := s.demand_onlyChanges [(.counter, n)]
    exact ⟨State.demand_ok hand, (State.parkOpen_congr (frame .park (by decide)) (frame .fl (by decide)) (frame .arb (by decide))
      (State.demand_one_keepsRegs hand _ (spr_not_hit _))).trans ho, frame⟩

/-- An entry for which there is room parks, and is released in the same decision when its condition holds. -/
theorem State.parkOrWait_open {s : State} {q : Nat} {i : W32} {e : Entry} (ho : s.parkOpen (ctrIdx q e.waitCtr) = true)
    (hn : s.mustSpill (ctrIdx q e.waitCtr) = true ∨ s.atHand [(.counter, ctrIdx q e.waitCtr)] = true) :
    s.parkOrWait q i e
      = (let u := (s.parkLook (ctrIdx q e.waitCtr)).1.parkEntry q i (ctrIdx q e.waitCtr)
         if condHolds (u.ctrOf (ctrIdx q e.waitCtr)).value e.threshold then u.releasePark q i else u) := by
  obtain ⟨ok, opens, -⟩ := State.parkLook_open ho hn
  unfold State.parkOrWait
  dsimp only
  rw [if_pos (State.parkOpen_room ho)]
  unfold State.parkLook at ok opens ⊢
  generalize (if s.mustSpill (ctrIdx q e.waitCtr) = true then (s, true) else s.demand [(.counter, ctrIdx q e.waitCtr)]) = d at ok opens
  rw [if_neg (by rw [ok, opens]; decide)]

theorem State.inPhase_flight {s : State} {q : Nat} {i : W32} {f : Flight} (hf : s.flight? q i = some f) (p : Phase) :
    (s.updFl q i (Flight.inPhase p)).flight? q i = some (f.inPhase p) ∧ keepsFlights q i s (s.updFl q i (Flight.inPhase p)) := by
  refine ⟨?_, s.updFl_keepsFlights q i _ (fun _ => ⟨rfl, rfl⟩)⟩
  rw [State.flight_updFl s q i (Flight.inPhase p) (fun _ => ⟨rfl, rfl⟩), hf]
  rfl

theorem State.parkEntry_spec {s : State} {q : Nat} {i : W32} {f : Flight} (hf : s.flight? q i = some f) (n : Nat) :
    (s.parkEntry q i n).flight? q i = some (f.inPhase .parked) ∧ keepsFlights q i s (s.parkEntry q i n)
      ∧ onlyChanges [.regs, .fl, .park, .arb, .pat, .mem] s (s.parkEntry q i n) := by
  obtain ⟨flight, others⟩ := State.inPhase_flight hf .parked
  have frame := s.parkEntry_onlyChanges q i n
  have fl := frame .fl (by decide)
  exact ⟨(State.flight_of_fl fl q i).trans flight, others.trans (keepsFlights_of_fl fl),
    ((s.updFl_onlyChanges q i _).mono (by simp)).trans (frame.mono (by simp))⟩

theorem State.releasePark_spec {s : State} {q : Nat} {i : W32} {f : Flight} (hf : s.flight? q i = some f) :
    (s.releasePark q i).flight? q i = some (f.inPhase .startable) ∧ keepsFlights q i s (s.releasePark q i)
      ∧ onlyChanges [.regs, .fl, .park, .trace, .pat, .mem] s (s.releasePark q i) := by
  obtain ⟨flight, others⟩ := State.inPhase_flight hf .startable
  have frame := s.releasePark_onlyChanges q i
  have fl := frame .fl (by decide)
  exact ⟨(State.flight_of_fl fl q i).trans flight, others.trans (keepsFlights_of_fl fl),
    ((s.updFl_onlyChanges q i _).mono (by simp)).trans (frame.mono (by simp))⟩

theorem State.parkOrWait_spec {s : State} {q : Nat} {i : W32} {f : Flight} (hf : s.flight? q i = some f)
    (ho : s.parkOpen (ctrIdx q f.e.waitCtr) = true)
    (hn : s.mustSpill (ctrIdx q f.e.waitCtr) = true ∨ s.atHand [(.counter, ctrIdx q f.e.waitCtr)] = true) :
    (s.parkOrWait q i f.e).flight? q i
        = some (f.inPhase (if condHolds (s.ctrOf (ctrIdx q f.e.waitCtr)).value f.e.threshold then .startable else .parked))
      ∧ keepsFlights q i s (s.parkOrWait q i f.e)
      ∧ onlyChanges [.regs, .fl, .park, .trace, .cache, .pat, .arb, .mem] s (s.parkOrWait q i f.e) := by
  obtain ⟨-, -, looked⟩ := State.parkLook_open ho hn
  rw [State.parkOrWait_open ho hn]
  dsimp only
  generalize (s.parkLook (ctrIdx q f.e.waitCtr)).1 = d at looked
  have fl := looked .fl (by decide)
  obtain ⟨parked, others, frame⟩ := State.parkEntry_spec ((State.flight_of_fl fl q i).trans hf) (ctrIdx q f.e.waitCtr)
  have value : (d.parkEntry q i (ctrIdx q f.e.waitCtr)).ctrOf (ctrIdx q f.e.waitCtr) = s.ctrOf (ctrIdx q f.e.waitCtr) :=
    State.ctrOf_of_ctr ((frame .ctr (by decide)).trans (looked .ctr (by decide))) _
  rw [value]
  generalize d.parkEntry q i (ctrIdx q f.e.waitCtr) = u at parked others frame
  have kept := (keepsFlights_of_fl fl).trans others
  have changes := (looked.mono (by simp)).trans (frame.mono (by simp) : onlyChanges [.regs, .fl, .park, .trace, .cache, .pat, .arb, .mem] d u)
  split
  · obtain ⟨released, rest, changed⟩ := State.releasePark_spec parked
    exact ⟨released, kept.trans rest, changes.trans (changed.mono (by simp))⟩
  · exact ⟨parked, kept, changes⟩

/-- The entry that waits at decode parks, and decode goes on behind it. -/
theorem parkFullRetry_parks {q : BitVec 22} {s : State} {f : Flight}
    (hw : (s.flsOf q.toNat).find? (fun g => decide (g.phase = .waitPark)) = some f) (hd : (s.qctx q.toNat).fetching = true)
    (hr : s.run = true) (ho : s.parkOpen (ctrIdx q.toNat f.e.waitCtr) = true) :
    exec (.parkFullRetry q) s = .next (State.decodeRun 4 (s.parkOrWait q.toNat f.idx f.e) q.toNat) := by
  show execParkFullRetry q s = _
  unfold execParkFullRetry
  dsimp only
  rw [hw]
  dsimp only
  rw [if_pos (by rw [hr, hd, State.parkOpen_room ho]; rfl)]

/-! ## One entry that is fetched into a queue of its own -/

section
variable {q : BitVec 22} {s : State} (h0 : q ≠ 0) (hc : s.canFetch q.toNat = true) (ho : s.owns (s.fetchRes q.toNat) 68 = true)
  (hr : s.readRoom (s.fetchRes q.toNat) = true)
  (hm : (s.readMarks (spaceOf (s.qctx q.toNat).device) (s.qctx q.toNat).port (s.qctx q.toNat).pasidOf ((s.qctx q.toNat).slotAddr (s.qctx q.toNat).fetch)
    (64 * (s.qctx q.toNat).fetchLen) .ok).any id = false)
  (hd : (s.qctx q.toNat).device = true → s.pkgOut ((s.qctx q.toNat).slotAddr (s.qctx q.toNat).fetch) (64 * (s.qctx q.toNat).fetchLen) = false)

/-- The state in which the entries that a fetch read brought are taken. -/
def State.fetched (s : State) (q : Nat) : State :=
  (s.fetchRead q .ok).1.takeAll q (entriesOf (s.qctx q).fetchLen (s.fetchBytes q))

include hm hd in
/-- A fetch read of sound data. -/
theorem State.fetchRead_sound : (s.fetchRead q.toNat .ok).2 = none ∧ (s.fetchRead q.toNat .ok).1.run = s.run
    ∧ (s.fetchRead q.toNat .ok).1.strict = s.strict ∧ onlyChanges [.regs, .arb] s (s.fetchRead q.toNat .ok).1 := by
  obtain ⟨v, turn⟩ := s.fetchTurn_eq q.toNat
  have marks := hm
  unfold State.readMarks at marks
  rw [← State.withArb_catchRead s v] at marks
  have place : spaceOf (s.qctx q.toNat).device ≠ 0 → (s.withArb v).pkgOut ((s.qctx q.toNat).slotAddr (s.qctx q.toNat).fetch)
      (64 * (s.qctx q.toNat).fetchLen) = false := by
    intro k
    refine hd ?_
    unfold spaceOf at k
    by_contra no
    exact k (if_neg no)
  obtain ⟨ok, regs⟩ := State.portRead_sound (s := s.withArb v) marks place
  have frame := (s.withArb v).portRead_onlyChanges (spaceOf (s.qctx q.toNat).device) (s.qctx q.toNat).port (s.qctx q.toNat).pasidOf
    ((s.qctx q.toNat).slotAddr (s.qctx q.toNat).fetch) (64 * (s.qctx q.toNat).fetchLen) .ok
  have stat := regs PAT_STAT (by decide)
  have busy : onlyChanges [.arb] s (s.withArb v) := onlyChanges_of_same (fun _ hb => State.withArb_same hb s v)
  unfold State.fetchRead
  rw [turn]
  refine ⟨ok, State.run_congr (s := s.withArb v) stat, ?_, (busy.mono (by simp)).trans (frame.mono (by simp))⟩
  unfold State.strict State.fb
  rw [State.f_of_reg PAT_STAT_strict_user stat]
  rfl

include hc ho hr hm hd in
theorem exec_entryFetchDone_fetched : exec (.entryFetchDone q .ok) s = .next ((s.fetched q.toNat).decodeRun 4 q.toNat) :=
  exec_entryFetchDone_reads hc ho hr (State.fetchRead_sound hm hd).1

include hc in
theorem State.canFetch_fetching : s.run = true ∧ (s.qctx q.toNat).fetching = true := by
  unfold State.canFetch at hc
  simp only [Bool.and_eq_true] at hc
  obtain ⟨⟨⟨⟨run, fetching⟩, -⟩, -⟩, -⟩ := hc
  exact ⟨run, fetching⟩

include h0 hc hm hd in
/-- The entries read are taken in order, and nothing but their queue, their flights and the count of the port changes. -/
theorem State.fetched_took : took q.toNat (entriesOf (s.qctx q.toNat).fetchLen (s.fetchBytes q.toNat)) (s.fetchRead q.toNat .ok).1 (s.fetched q.toNat) := by
  obtain ⟨-, run, -, -⟩ := State.fetchRead_sound hm hd
  obtain ⟨up, -⟩ := State.canFetch_fetching hc
  refine State.takeAll_took (fun k => h0 (BitVec.eq_of_toNat_eq ?_)) (run.trans up)
  simpa using k

include h0 hc hm hd in
/-- One entry read into an empty queue of the mover's own is its only one, not yet begun, with no record of the fellow's. -/
theorem State.fetched_one (h1 : (s.qctx q.toNat).fetchLen = 1) (hn : s.flsOf q.toNat = []) (own : isAdopted q.toNat = false) :
    ∃ g : Flight, (s.fetched q.toNat).flsOf q.toNat = [g] ∧ g.taken q.toNat (s.qctx q.toNat).fetch (s.fetchBytes q.toNat)
      ∧ g.began = false ∧ g.logged = none ∧ (s.fetched q.toNat).qctx q.toNat = (s.qctx q.toNat).passed
      ∧ (s.fetched q.toNat).run = true ∧ (s.fetched q.toNat).strict = s.strict
      ∧ onlyChanges [.regs, .arb, .q, .fl, .free] s (s.fetched q.toNat) := by
  obtain ⟨-, run, strict, read⟩ := State.fetchRead_sound hm hd
  obtain ⟨up, -⟩ := State.canFetch_fetching hc
  have nonzero : q.toNat ≠ 0 := fun k => h0 (BitVec.eq_of_toNat_eq (by simpa using k))
  have whole : (s.fetchBytes q.toNat).take 64 = s.fetchBytes q.toNat := by
    refine List.take_of_length_le (Nat.le_of_eq ?_)
    unfold State.fetchBytes
    rw [State.catchRead_length, h1]
  have e : s.fetched q.toNat = (s.fetchRead q.toNat .ok).1.takeEntry q.toNat (s.fetchBytes q.toNat) := by
    unfold State.fetched
    rw [h1, entriesOf, entriesOf, whole, State.takeAll, if_pos (run.trans up), if_neg nonzero]
    rfl
  rw [e]
  generalize (s.fetchRead q.toNat .ok).1 = r at run strict read
  have ctx := State.qctx_of_q (read .q (by decide)) q.toNat
  obtain ⟨passed, -, frame⟩ := r.passing_spec q.toNat
  obtain ⟨g, u, taken, fresh, -, joins⟩ := r.takeEntry_eq q.toNat (s.fetchBytes q.toNat)
  obtain ⟨rfl, hg⟩ := fresh own
  rw [ctx] at taken passed
  have flights : (r.passing q.toNat).fl = s.fl := (frame .fl (by decide)).trans (read .fl (by decide))
  have regs : (r.passing q.toNat).regs = r.regs := frame .regs (by decide)
  have joined := onlyChanges_of_same (l := [.fl]) (fun _ hb => State.withFl_same hb (r.passing q.toNat) ((r.passing q.toNat).fl ++ [g]))
  rw [joins]
  refine ⟨g, ?_, taken, by rw [hg]; rfl, by rw [hg]; rfl, passed, ?_, ?_,
    (read.mono (by simp)).trans ((frame.mono (by simp)).trans (joined.mono (by simp)))⟩
  · unfold State.flsOf at hn ⊢
    show ((r.passing q.toNat).fl ++ [g]).filter _ = _
    rw [flights, List.filter_append, hn, List.nil_append, List.filter_singleton, taken.q]
    simp
  · exact (State.run_congr (s := r) (by unfold State.reg; exact congrArg (fun t => Tbl.get regReset t PAT_STAT) regs)).trans (run.trans up)
  · rw [← strict]
    unfold State.strict State.fb State.f State.reg
    exact congrArg (fun t => decide (bits (Tbl.get regReset t PAT_STAT_strict_user.ofs).toNat _ _ ≠ 0)) regs

theorem isAdopted_own {n : Nat} (h : n < 2 ^ 21) : isAdopted n = false := by
  unfold isAdopted bit
  rw [Nat.div_eq_of_lt h]
  rfl

include h0 hc ho hr hm hd in
/-- What becomes of an entry that is read into an empty User queue of the mover's own: one that fails a check condemns its queue, one
that passes them and waits on no counter becomes startable. -/
theorem entryFetchDone_one (h1 : (s.qctx q.toNat).fetchLen = 1) (hn : s.flsOf q.toNat = []) (hq : q.toNat < 2 ^ 21)
    (hu : (s.qctx q.toNat).cls = .user) (hs : s.strict = false) (hring : (s.cctx (s.qctx q.toNat).cqid).state ≠ .free) :
    ∃ t g, exec (.entryFetchDone q .ok) s = .next t ∧ t.flight? q.toNat (s.qctx q.toNat).fetch = some g
      ∧ g.e = decodeEntry (s.fetchBytes q.toNat)
      ∧ (∀ cause, s.decodeCause q.toNat (s.fetchBytes q.toNat) (decodeEntry (s.fetchBytes q.toNat)) = some cause →
          (t.qctx q.toNat).state = .quarantined ∧ (t.qctx q.toNat).cause = cause
            ∧ (t.qctx q.toNat).causeIndex = (s.qctx q.toNat).fetch ∧ g.ended = true ∧ g.status = stMalformed ∧ g.malCause = cause
            ∧ g.began = false)
      ∧ (s.decodeCause q.toNat (s.fetchBytes q.toNat) (decodeEntry (s.fetchBytes q.toNat)) = none →
          s.trigPd q.toNat (decodeEntry (s.fetchBytes q.toNat)) = false → (decodeEntry (s.fetchBytes q.toNat)).waitEn = false →
          (t.qctx q.toNat).state = (s.qctx q.toNat).state ∧ g.phase = .startable) := by
  have own := isAdopted_own hq
  obtain ⟨g, one, taken, began, logged, ctx, run, strict, frame⟩ := State.fetched_one h0 hc hm hd h1 hn own
  obtain ⟨-, fetching⟩ := State.canFetch_fetching hc
  have e := exec_entryFetchDone_fetched hc ho hr hm hd
  generalize s.fetched q.toNat = u at one ctx run strict frame e
  have cq := frame .cq (by decide)
  have ring : u.ringThere q.toNat := by
    unfold State.ringThere ringOf
    rw [ctx, own, State.cctx_of_cq cq]
    exact hring
  have fetches : (u.qctx q.toNat).fetching = true := by rw [ctx]; exact fetching
  have check := State.decodeCause_congr (s := s) (t := u) (q := q.toNat) (by rw [ctx]; rfl) (by rw [ctx]; rfl) cq
  obtain ⟨-, idx, phase, work, raw⟩ := taken
  have bytes : g.e = decodeEntry (s.fetchBytes q.toNat) := by rw [work, raw]
  rw [← raw, ← work] at *
  rw [← idx]
  cases hcause : s.decodeCause q.toNat g.raw g.e with
  | some cause =>
    have stands := State.decodeRun_condemns one phase began logged run fetches (by rw [ctx]; exact hu) (strict.trans hs) ring
      ((check _ _).trans hcause) 3
    obtain ⟨state, caused, index, f, hf, ends⟩ := stands
    refine ⟨_, f, e, hf, ends.e, fun c hc' => ?_, fun k => absurd k (by simp)⟩
    cases hc'
    exact ⟨state, caused, index, ends.ended, ends.status, ends.cause, ends.began⟩
  | none =>
    have passes := (check g.raw g.e).trans hcause
    obtain ⟨f, hf, he⟩ := (State.decodeRun_sole 4 ⟨g, one, rfl, rfl, rfl⟩ passes).flight
    refine ⟨_, f, e, hf, he, fun c hc' => absurd hc' (by simp), fun _ ht hw => ?_⟩
    have pd := State.trigPd_congr (s := s) (t := u) (q := q.toNat) (by rw [ctx]; rfl) (frame .ctr (by decide)) g.e
    have runs := State.decodeRun_startable one phase run fetches 3 passes logged (pd.trans ht) hw
    have flight := (State.inPhase_flight (State.flight_of_flsOf one) .startable).1
    rw [runs, flight] at hf
    rw [runs]
    refine ⟨?_, by cases hf; rfl⟩
    show (u.qctx q.toNat).state = _
    rw [ctx]
    rfl

include h0 hc hm hd in
/-- The entries that a sound read brings, as they go to decode. -/
theorem State.fetched_spec :
    ((s.fetched q.toNat).qctx q.toNat).fetch = (s.qctx q.toNat).fetch + BitVec.ofNat 32 (s.qctx q.toNat).fetchLen
      ∧ ((s.fetched q.toNat).qctx q.toNat).snap = (s.qctx q.toNat).snap
      ∧ (∃ l : List Flight, (s.fetched q.toNat).fl = s.fl ++ l ∧ l.length = (s.qctx q.toNat).fetchLen
          ∧ ∀ j, j < (s.qctx q.toNat).fetchLen → ∃ g : Flight, l[j]? = some g
            ∧ g.taken q.toNat ((s.qctx q.toNat).fetch + BitVec.ofNat 32 j) (((s.fetchBytes q.toNat).drop (64 * j)).take 64))
      ∧ keepsQueues q.toNat s (s.fetched q.toNat) ∧ onlyChanges [.regs, .q, .cq, .fl, .arb, .free] s (s.fetched q.toNat) := by
  obtain ⟨-, -, -, read⟩ := State.fetchRead_sound hm hd
  obtain ⟨⟨l, flights, count, each⟩, fetch, snap, queues, frame⟩ := State.fetched_took h0 hc hm hd
  have ctx := State.qctx_of_q (read .q (by decide))
  rw [entriesOf_length] at count fetch
  rw [ctx] at fetch snap each
  refine ⟨fetch, snap, ⟨l, flights.trans (by rw [show (s.fetchRead q.toNat .ok).1.fl = s.fl from read .fl (by decide)]), count,
    fun j hj => each j _ (entriesOf_get _ hj)⟩, fun k hk => (queues k hk).trans (ctx k),
    (read.mono (by simp)).trans (frame.mono (by simp))⟩

end

theorem QCtx.fetchLen_le (c : QCtx) : c.fetchLen ≤ idxDiff c.snap c.fetch := by
  unfold QCtx.fetchLen
  omega

end Sys2Proof.Machine

open Sys2Proof Sys2Proof.Machine

/-- Settles O11: what a read takes joins the flights one entry at a time, and one entry in a queue of its own is decoded alone; its
quarantine stands while its record is issued, spilled or held back. -/
theorem fetchAndDecodeGoInOrder : Obligations.FetchAndDecodeGoInOrder := by
  unfold Obligations.FetchAndDecodeGoInOrder
  refine ⟨fun q s h0 hc ho hr => ⟨fun hm hd => ?_, fun hd hn => ?_⟩,
    fun q s f hw hd hf hr ho hn => ⟨_, parkFullRetry_parks hw hd hr ho, State.parkOrWait_spec hf ho hn⟩⟩
  · obtain ⟨fetch, snap, ⟨l, flights, count, each⟩, queues, frame⟩ := State.fetched_spec h0 hc hm hd
    refine ⟨s.fetched q.toNat, l, exec_entryFetchDone_fetched hc ho hr hm hd, fetch, ?_, flights, count, fun j hj => ?_, queues, frame,
      fun h1 hn hq hu hs _ hring => ?_⟩
    · rw [fetch, snap]
      exact idxDiff_add (QCtx.fetchLen_le _)
    · obtain ⟨g, here, own, idx, phase, work, raw⟩ := each j hj
      exact ⟨g, here, own, idx, phase, work, raw⟩
    · obtain ⟨t, g, rest⟩ := entryFetchDone_one h0 hc ho hr hm hd h1 hn hq hu hs hring
      refine ⟨s.fetchBytes q.toNat, t, g, ?_, rest⟩
      unfold State.fetchBytes
      rw [h1]
  · have res : portRes 0 (s.qctx q.toNat).port = s.fetchRes q.toNat := by
      unfold State.fetchRes
      rw [hd]
      rfl
    rw [res] at hn ⊢
    exact entryFetchDone_rejected hc ho hr hd hn
end

section
/-!
PROOFS. A creation of a domain whose stitch is held by an engine that does not exist (R94, R255, R257).
-/
namespace Sys2Proof.Machine

/-- CREATE_PD of domain 2. -/
def strayDomain : AdmOpen :=
  openCmd { idx := 0, acceptMt := 0, words := [0x10, 0, 0, 2, 0, 0, 0, 0].map (BitVec.ofNat 64) }

/-- The mover of `strayState`, whose COB stream has the creation of a domain open instead; its stitch waits on the stray engine. -/
def strayDomainState : State := strayState.withAdm { strayState.adm with cob := some strayDomain }

theorem strayDomainState_runs : strayDomainState.admRuns .cob 0x10 strayDomain :=
  ⟨by decide +kernel, by decide +kernel, rfl, .inl (by decide +kernel), nofun⟩

theorem strayDomainState_free : strayDomainState.pdOf (admF strayDomain.cmd.words 3 0 16) = false := by decide +kernel

/-- The result that ADM_COB_RES shows as the stitch returns. -/
def strayDomainValue : Option Nat :=
  match exec (.createPd .cob) strayDomainState with
  | .next t => some (t.f ADM_COB_RES_value)
  | _ => none

/-- The rank that the engine keeps lands in the value of ADM_COB_RES, which is to be 0. -/
theorem strayDomainValue_eq : strayDomainValue = some 1024 := by decide +kernel

end Sys2Proof.Machine

open Sys2Proof Sys2Proof.Machine

/-- Refutes O36: no hypothesis keeps the number of the engine that an admin stitch waits on below 68. Where the stitch of a CREATE_PD
in the COB stream waits on the number whose row would stand at ADM_COB_RES, the rank that is kept there as the stitch returns
overwrites the value just reported. -/
theorem not_domainsAndRegionsComeAndGo : ¬ Obligations.DomainsAndRegionsComeAndGo := by
  unfold Obligations.DomainsAndRegionsComeAndGo
  intro h
  obtain ⟨create, -⟩ := h .cob strayDomainState strayDomain
  obtain ⟨t, run, -, -, -, -, -, reported⟩ := create strayDomainState_runs strayDomainState_free
  obtain ⟨-, -, -, value, -⟩ := reported
  have shown : strayDomainValue = some (t.f ADM_COB_RES_value) := by
    unfold strayDomainValue
    rw [run]
  rw [strayDomainValue_eq, value] at shown
  exact absurd shown (by decide)
end

section
/-!
PROOFS. A source list that cannot be read, of an entry that has kept a burst of a paced stitch (R77, R80, R102, R117).
-/
namespace Sys2Proof.Machine

/-- A started REDUCE of one source in host memory, whose list is still to be read, with what `keptPaced` has of a stitch that line 7
paced. -/
def keptReduce : Flight :=
  { freshFlight 5 0 [] 0 16 with
    e := { decodeEntry [] with opcode := 0x20, length := 100, src := 0x1000, dst := 0x8000 }, phase := .started, kept := some keptPaced }

/-- A mover in RUN with that entry on the READY queue 5. FETCH owns a channel of host port 0, and the burst is outstanding on
line 7. -/
def unreadState : State :=
  let s := (State.reset.setF PAT_STAT_phase 7).setQ 5 { QCtx.zero with state := .ready, sizeLog2 := 6, pi := 1, snap := 1, fetch := 1 }
  let s := s.setOwner 0 0 (some { req := 68, slot := false, age := 0, idle := 0, take := none })
  (s.updLine 7 (fun y => { y with out := 1 })).withFl [keptReduce]

/-- The bursts outstanding on line 7 after the host rejects the read of the list. -/
def unreadBursts : Option Nat :=
  match exec (.sourceListReadDone 5 0 .rejected) unreadState with
  | .next t => some (t.line 7).out
  | _ => none

/-- The kept burst is given up as the entry ends. -/
theorem unreadBursts_eq : unreadBursts = some 0 := by decide +kernel

end Sys2Proof.Machine

open Sys2Proof Sys2Proof.Machine

/-- Refutes O12: no hypothesis keeps away what an entry has kept of a paced stitch. Where the read of a source list fails, the entry
reaches data done, its kept burst is given up, and the request line changes. -/
theorem not_tablesAndListsAreRead : ¬ Obligations.TablesAndListsAreRead := by
  unfold Obligations.TablesAndListsAreRead
  rintro ⟨-, lists⟩
  obtain ⟨-, fails⟩ := lists 5 0 .rejected unreadState keptReduce (by decide +kernel) (by decide +kernel) (by decide +kernel)
  obtain ⟨t, -, run, -, -, -, -, frame⟩ := fails stXlat (by decide +kernel) (by decide)
  have bursts : unreadBursts = some (unreadState.line 7).out := by
    unfold unreadBursts State.line
    rw [run]
    exact congrArg (fun l => some (Tbl.get (fun _ => Line.zero) l 7).out) (frame .lines (by decide))
  rw [unreadBursts_eq] at bursts
  exact absurd bursts (by decide +kernel)
end

section
/-!
PROOFS. The network port's requests of the mover as target: key checks, and folds that arrive (R66, R69, R177 to R181, R446).
-/
namespace Sys2Proof.Machine

/-! ## Hops and reads that nothing disturbs -/

theorem State.crossHop_unarmed {s : State} (h : s.fb IZ_CHK_INJ_armed = false) (n : Nat) : s.crossHop n = (s, false) := by
  unfold State.crossHop
  simp [h]

theorem State.verify_unarmed {s : State} (h : s.fb IZ_CHK_INJ_armed = false) (n : Nat) (held : W32) (b : List Byte) :
    s.verify n held b = (s, decide (BitVec.ofNat 32 (crc32c b) ≠ held)) := by
  unfold State.verify
  rw [State.crossHop_unarmed h]
  rfl

theorem State.shadowHop_none {s : State} (h : s.spr.shadow = none) (u : Option Nat) : s.shadowHop u = (s, false) := by
  unfold State.shadowHop
  rw [h]

theorem evenOnes_parityBit (b : Byte) : evenOnes b (parityBit b) = true := by
  unfold evenOnes parityBit b2n
  simp only [decide_eq_true_eq]
  split <;> omega

theorem State.outWrites_nil {s : State} (h : ∀ f ∈ s.fl, f.writes = []) (space p : Nat) (pasid : Option Nat) :
    s.outWrites space p pasid = [] := by
  have none : s.fl.flatMap (fun f => f.writes.filter (fun x => s.sameWay space p pasid f.q x
      && !(decide (space = 1) && s.pkgOut x.addr x.bytes.length))) = [] :=
    List.flatMap_eq_nil_iff.mpr (fun f hf => by rw [h f hf]; rfl)
  unfold State.outWrites
  rw [none]
  rfl

/-- With no write on its way a read sees memory as it stands. -/
theorem State.seen_self {s : State} (h : ∀ f ∈ s.fl, f.writes = []) (space p : Nat) (pasid : Option Nat) : s.seen space p pasid = s := by
  unfold State.seen
  rw [State.outWrites_nil h]
  rfl

/-- The beats that [a, a + n) touches are those that its bytes lie in. -/
theorem beatBad_of_hostBad {s : State} {p : Option Nat} {a n : Nat} (h : s.hostBad p a n = false) {k : Nat}
    (hk : k < (a + n - 1) / 32 - a / 32 + 1) (hn : n ≠ 0) : s.beatBad p ((a / 32 + k) * 32) = false := by
  have clear : ∀ j < n, s.beatBad p (a + j) = false := by simpa [State.hostBad] using h
  have inside := clear (max a ((a / 32 + k) * 32) - a) (by omega)
  have beat : hostKey p (a + (max a ((a / 32 + k) * 32) - a)) / 32 = hostKey p ((a / 32 + k) * 32) / 32 := by
    unfold hostKey
    cases p <;> dsimp only <;> omega
  unfold State.beatBad at inside ⊢
  rwa [← beat]

/-- What a read of sound host memory brings with no write on its way. -/
theorem State.catchRead_host {s : State} (h : ∀ f ∈ s.fl, f.writes = []) {pasid : Option Nat} {a n : Nat}
    (hb : s.hostBad pasid a n = false) (p : Nat) :
    s.catchRead 0 p pasid a n = { bytes := s.hostBytes pasid a n, bad := [], fixes := 0 } := by
  unfold State.catchRead
  rw [State.seen_self h]
  simp only [if_true, unitLen, State.readBytes, Nat.zero_ne_one, if_false, ReadOut.mk.injEq, true_and, and_true]
  refine List.filter_eq_nil_iff.mpr (fun k hk => ?_)
  split at hk
  · cases hk
  · next hn => simp [beatBad_of_hostBad hb (List.mem_range.mp hk) hn]

/-- Sound bytes come through a host port sound. -/
theorem State.answer_host_sound (s : State) (p a : Nat) (b : List Byte) :
    s.answer 0 p a { bytes := b, bad := [], fixes := 0 } .ok = (s, none) := by
  have sound : (ReadOut.marks { bytes := b, bad := [], fixes := 0 } 0 a .ok).any id = false := by
    simp [ReadOut.marks, ReadOut.markAt, damagedUnits, evenOnes_parityBit]
  unfold State.answer
  simp [sound]

/-- No write is on its way that a new one could run ahead of. -/
theorem State.cover_self {s : State} (h : ∀ f ∈ s.fl, f.writes = []) (space p : Nat) (pasid : Option Nat) (ord a n : Nat) :
    s.cover space p pasid ord a n = s := by
  unfold State.cover
  dsimp only
  rw [List.map_congr_left (g := id) (fun f hf => by rw [h f hf]; rfl), List.map_id]
  rfl

/-! ## Key checks (R69, R446) -/

theorem keyCheckRequest_answers {key : W32} {ofs len : Nat} {r : RemoteRight} {s : State} (hr : s.run = true) :
    exec (.keyCheckRequest key ofs len r) s = .next (
      if (s.remoteKey key.toNat ofs len r).2 = 0 then
        s.emit (.keyPass (s.remoteKey key.toNat ofs len r).1.hostBacked ((s.remoteKey key.toNat ofs len r).1.base + ofs)
          (s.remoteKey key.toNat ofs len r).1.pasid)
      else (s.cnt IZ_NETP_STAT_keychk_fail).emit (.keyFail (s.remoteKey key.toNat ofs len r).2)) := by
  show execKeyCheckRequest key ofs len r s = _
  unfold execKeyCheckRequest
  rw [if_pos hr]
  dsimp only
  split <;> rfl

theorem State.f_emit (s : State) (x : Out) (d : Fld) : (s.emit x).f d = s.f d := rfl

/-- A key check that fails is counted and answered. -/
theorem State.keyRefused_spec (s : State) (x : Out) :
    ((s.cnt IZ_NETP_STAT_keychk_fail).emit x).out = s.out ++ [x]
      ∧ ((s.cnt IZ_NETP_STAT_keychk_fail).emit x).f IZ_NETP_STAT_keychk_fail
          = satAdd IZ_NETP_STAT_keychk_fail.w (s.f IZ_NETP_STAT_keychk_fail) 1
      ∧ keepsRegs (fun o => o = IZ_NETP_STAT) s ((s.cnt IZ_NETP_STAT_keychk_fail).emit x)
      ∧ onlyChanges [.regs, .out] s ((s.cnt IZ_NETP_STAT_keychk_fail).emit x) := by
  have regs : keepsRegs (fun o => o = IZ_NETP_STAT) s (s.cnt IZ_NETP_STAT_keychk_fail) := s.setF_keepsRegs IZ_NETP_STAT_keychk_fail _
  have frame := onlyChanges_of_same (l := [.regs]) (fun _ hb => State.cnt_same hb s IZ_NETP_STAT_keychk_fail)
  refine ⟨congrArg (· ++ [x]) (frame .out (by decide)), ?_, regs.trans (keepsRegs_of_regs rfl),
    (frame.mono (by simp)).trans ((State.emit_onlyChanges _ x).mono (by simp))⟩
  rw [State.f_emit, State.f_cnt_self _ _ (by decide)]

/-! ## The judgement of a fold (R177 to R179) -/

theorem foldSegment_refused {f : FoldSeg} {s : State} (hr : s.run = true)
    (hk : (s.remoteKey f.key.toNat f.ofs (foldLen f) .rred).2 ≠ 0) :
    exec (.foldSegment f) s = .next ((s.cnt IZ_NETP_STAT_keychk_fail).emit (.foldResponse (s.remoteKey f.key.toNat f.ofs (foldLen f) .rred).2)) := by
  show execFoldSegment f s = _
  unfold execFoldSegment State.fold
  rw [if_pos hr]
  dsimp only
  rw [if_pos hk]
  rfl

/-- A fold that passes its key check, as it is judged. -/
def State.judgedFold (s : State) (f : FoldSeg) (r : Region) : WaitFold :=
  { seg := f, ans := .ok, lost := false, region := r, hostp := s.f IZ_RED_CFG_fold_hostp }

section
variable {f : FoldSeg} {s : State} {r : Region} (hr : s.run = true) (hk : s.remoteKey f.key.toNat f.ofs (foldLen f) .rred = (r, 0))
include hr hk

theorem foldSegment_illegal (h : foldLegal f = false ∨ f.data.length % foldIn f ≠ 0 ∨ (r.base + f.ofs) % foldDst f ≠ 0) :
    exec (.foldSegment f) s = .next (s.emit (.foldResponse 5)) := by
  show execFoldSegment f s = _
  unfold execFoldSegment State.fold
  rw [if_pos hr, hk]
  dsimp only
  rw [if_neg (by decide), if_pos (by simpa [or_assoc] using h)]
  rfl

variable (hl : foldLegal f = true) (hd : f.data.length % foldIn f = 0) (ha : (r.base + f.ofs) % foldDst f = 0)
include hl hd ha

theorem foldSegment_legal :
    exec (.foldSegment f) s = .next (
      if s.foldOpen (s.judgedFold f r) && s.arb.folds.isEmpty then s.applyFold (s.judgedFold f r)
      else s.withArb { s.arb with folds := s.arb.folds ++ [s.judgedFold f r] }) := by
  show execFoldSegment f s = _
  unfold execFoldSegment State.fold
  rw [if_pos hr, hk]
  dsimp only
  rw [if_neg (by decide), if_neg (by simp [hl, hd, ha])]
  rfl

end

/-! ## A fold into host memory (R177, R178, R181) -/

/-- The host bytes that stand at a fold's destination after it. -/
def State.foldedBytes (s : State) (f : FoldSeg) (r : Region) : List Byte :=
  (foldBytes f.redType f.redOp f.repro f.outCarrier (s.hostBytes (some r.pasid) (r.base + f.ofs) (foldLen f)) f.data).1

/-- Counting a fold's exceptions changes IZ_RED_EXCEPT alone. -/
theorem State.countExc_keepsRegs (s : State) (l : List Exc) : keepsRegs (fun o => o = IZ_RED_EXCEPT) s (s.countExc l) := by
  unfold State.countExc
  exact (((s.setF_keepsRegs IZ_RED_EXCEPT_carrier _).trans (State.setF_keepsRegs _ IZ_RED_EXCEPT_invalid _)).trans
    (State.setF_keepsRegs _ IZ_RED_EXCEPT_overflow _)).trans (State.setF_keepsRegs _ IZ_RED_EXCEPT_integer _)

/-- What a fold counts before it is written: the blocks of the unit that folds, and exceptions. -/
def State.foldCounts (s : State) (l : List Exc) : State :=
  (match (s.sat IZ_CHK_STAT_ecc_corrected 0).redIn 2 with
    | some u => (s.sat IZ_CHK_STAT_ecc_corrected 0).wrapAdd (IZ_RED_STATE_blocks u) 1
    | none => s.sat IZ_CHK_STAT_ecc_corrected 0).countExc l

theorem State.foldCounts_spec (s : State) (l : List Exc) :
    (s.foldCounts l).reg IZ_CHK_INJ = s.reg IZ_CHK_INJ ∧ onlyChanges [.regs] s (s.foldCounts l) := by
  have ecc : (s.sat IZ_CHK_STAT_ecc_corrected 0).reg IZ_CHK_INJ = s.reg IZ_CHK_INJ :=
    s.setF_keepsRegs IZ_CHK_STAT_ecc_corrected _ _ (by decide)
  have first : onlyChanges [.regs] s (s.sat IZ_CHK_STAT_ecc_corrected 0) := s.setF_onlyChanges IZ_CHK_STAT_ecc_corrected _
  unfold State.foldCounts
  generalize s.sat IZ_CHK_STAT_ecc_corrected 0 = u at ecc first
  have counts := fun t : State => t.countExc_keepsRegs l IZ_CHK_INJ (by decide)
  have frame := fun t : State => onlyChanges_of_same (l := [.regs]) (fun _ hb => State.countExc_same hb t l)
  rw [counts]
  split
  · next k h =>
    have small : k < 17 := List.mem_range.mp (List.mem_of_find?_eq_some h)
    have row : IZ_CHK_INJ ≠ (IZ_RED_STATE_blocks k).ofs := by
      show IZ_CHK_INJ ≠ IZ_RED_STATE k
      unfold IZ_CHK_INJ IZ_RED_STATE
      omega
    exact ⟨(u.setF_keepsRegs (IZ_RED_STATE_blocks k) _ _ row).trans ecc, first.trans ((u.setF_onlyChanges (IZ_RED_STATE_blocks k) _).trans (frame _))⟩
  · exact ⟨ecc, first.trans (frame u)⟩

/-- A sound segment folds into sound host memory: its bytes are written, and it is answered applied. -/
theorem State.applyFold_host {s : State} {w : WaitFold} (ok : w.ans = .ok) (kept : w.lost = false) (sound : w.seg.poison = false)
    (chk : segCheck w.seg.data = w.seg.chk) (unarmed : s.fb IZ_CHK_INJ_armed = false) (alone : s.spr.shadow = none)
    (quiet : ∀ f ∈ s.fl, f.writes = []) (host : w.region.hostBacked = true)
    (good : s.hostBad (some w.region.pasid) (w.region.base + w.seg.ofs) (foldLen w.seg) = false) :
    ∃ u, onlyChanges [.regs, .arb] s u
      ∧ s.applyFold w = (u.writeHost (some w.region.pasid) (w.region.base + w.seg.ofs) (s.foldedBytes w.seg w.region) false).emit
          (.foldResponse 0) := by
  have busy : onlyChanges [.arb] s ((s.arbBusy 4 75).arbBusy w.res 75) :=
    onlyChanges_of_same (fun _ hb => (State.arbBusy_same hb _ _ _).trans (State.arbBusy_same hb _ _ _))
  have bytes : ∀ n, ((s.arbBusy 4 75).arbBusy w.res 75).hostBytes (some w.region.pasid) (w.region.base + w.seg.ofs) n
      = s.hostBytes (some w.region.pasid) (w.region.base + w.seg.ofs) n := fun _ => rfl
  have armed : ((s.arbBusy 4 75).arbBusy w.res 75).fb IZ_CHK_INJ_armed = false := unarmed
  have writes : ∀ f ∈ ((s.arbBusy 4 75).arbBusy w.res 75).fl, f.writes = [] := quiet
  have clean : ((s.arbBusy 4 75).arbBusy w.res 75).hostBad (some w.region.pasid) (w.region.base + w.seg.ofs) (foldLen w.seg) = false := good
  unfold State.applyFold
  dsimp only
  rw [host]
  generalize (s.arbBusy 4 75).arbBusy w.res 75 = b at busy bytes armed writes clean
  simp only [if_true, State.crossHop_unarmed armed, sound, chk, State.catchRead_host writes clean, ok, State.answer_host_sound, ne_eq,
    not_true_eq_false, decide_false, Bool.or_false, Bool.false_eq_true, if_false, Option.isSome_none, bytes]
  have ecc : (b.sat IZ_CHK_STAT_ecc_corrected 0).fb IZ_CHK_INJ_armed = false :=
    State.unarmed_of_reg (b.setF_keepsRegs IZ_CHK_STAT_ecc_corrected _ _ (by decide)) armed
  simp only [State.crossHop_unarmed ecc, Bool.false_eq_true, if_false]
  generalize hn : foldBytes w.seg.redType w.seg.redOp w.seg.repro w.seg.outCarrier
    (s.hostBytes (some w.region.pasid) (w.region.base + w.seg.ofs) (foldLen w.seg)) w.seg.data = n
  obtain ⟨reg, frame⟩ := b.foldCounts_spec n.2
  have folded : s.foldedBytes w.seg w.region = n.1 := by
    unfold State.foldedBytes
    rw [hn]
  rw [folded]
  unfold State.foldCounts at reg frame
  generalize State.countExc _ n.2 = u at reg frame
  have uarmed := State.unarmed_of_reg reg armed
  have ushadow : u.spr.shadow = none := by rw [show u.spr = s.spr from (frame .spr (by decide)).trans (busy .spr (by decide)), alone]
  have uwrites : ∀ f ∈ u.fl, f.writes = [] := by rw [show u.fl = b.fl from frame .fl (by decide)]; exact writes
  simp only [State.shadowHop_none ushadow, State.verify_unarmed uarmed, kept, State.cover_self uwrites, segCheck, ne_eq, not_true_eq_false,
    decide_false, Bool.false_eq_true, if_false]
  exact ⟨u, (busy.mono (by simp)).trans (frame.mono (by simp)), rfl⟩

/-- A write to host memory: the bytes there, every other byte, and what lies beside. -/
theorem State.writeHost_spec (s : State) (p : Option Nat) (a : Nat) (b : List Byte) (poison : Bool) :
    (b.length ≤ 2 ^ 64 → ∀ j, j < b.length → (s.writeHost p a b poison).hostByte p (a + j) = b.getD j 0)
      ∧ (∀ p' a', (∀ j, j < b.length → hostKey p' a' ≠ hostKey p (a + j)) → (s.writeHost p a b poison).hostByte p' a' = s.hostByte p' a')
      ∧ (s.writeHost p a b poison).mem.pkg = s.mem.pkg ∧ (s.writeHost p a b poison).mem.syn = s.mem.syn
      ∧ onlyChanges [.mem] s (s.writeHost p a b poison) := by
  obtain ⟨host, pkg, syn⟩ := s.writeHost_mem p a b poison
  refine ⟨fun hb j hj => ?_, fun p' a' h => s.hostByte_writeHost_of_ne p a b poison h, pkg, syn,
    onlyChanges_of_same (fun _ hb => State.writeHost_same hb s p a b poison)⟩
  rw [State.hostByte_of_host host, State.hostByte_putHosts s p a b hb hj, List.getD_eq_getElem _ _ hj]

end Sys2Proof.Machine

open Sys2Proof Sys2Proof.Machine

/-- Settles O32: key checks, folds that are refused, folds that wait, and a fold into host memory. -/
theorem networkTarget : Obligations.NetworkTarget := by
  unfold Obligations.NetworkTarget
  refine ⟨fun key ofs len r s hr => ⟨fun h => ?_, fun h => ?_⟩, fun f s hr => ⟨fun h => ?_, fun r w hk hw => ⟨fun h => ?_, fun hl hd ha => ?_⟩⟩⟩
  · exact ⟨_, by rw [keyCheckRequest_answers hr, if_pos h], State.emit_onlyChanges _ _, rfl⟩
  · obtain ⟨out, counted, -, frame⟩ := s.keyRefused_spec (.keyFail (s.remoteKey key.toNat ofs len r).2)
    exact ⟨_, by rw [keyCheckRequest_answers hr, if_neg h], out, counted, frame⟩
  · exact ⟨_, foldSegment_refused hr h, s.keyRefused_spec _⟩
  · exact ⟨_, foldSegment_illegal hr hk h, rfl, State.emit_onlyChanges _ _⟩
  · subst hw
    have runs := foldSegment_legal hr hk hl hd ha
    refine ⟨fun h => ⟨_, ?_, rfl, onlyChanges_of_same (l := [.arb]) (fun _ hb => State.withArb_same hb s
      { s.arb with folds := s.arb.folds ++ [s.judgedFold f r] })⟩, fun ho hf sound chk unarmed alone quiet host good => ?_⟩
    · rw [runs, if_neg]
      have shut : ¬ (s.foldOpen (s.judgedFold f r) = true ∧ s.arb.folds = []) := fun x => h.elim (fun c => by
        rw [show s.foldOpen (s.judgedFold f r) = false from c] at x
        exact absurd x.1 (by decide)) (fun c => c x.2)
      simpa using shut
    · obtain ⟨u, before, applied⟩ := State.applyFold_host (w := s.judgedFold f r) rfl rfl sound chk unarmed alone quiet host good
      obtain ⟨written, others, pkg, syn, stored⟩ :=
        u.writeHost_spec (some r.pasid) (r.base + f.ofs) (s.foldedBytes f r) false
      have mem := before .mem (by decide)
      have same : ∀ p a, u.hostByte p a = s.hostByte p a := State.hostByte_of_host (congrArg Memory.host mem)
      have run : exec (.foldSegment f) s = .next ((u.writeHost (some r.pasid) (r.base + f.ofs) (s.foldedBytes f r) false).emit
          (.foldResponse 0)) := by
        rw [runs, if_pos (by rw [hf, show s.foldOpen (s.judgedFold f r) = true from ho]; rfl)]
        exact congrArg _ applied
      exact ⟨_, _, run, rfl, fun hb => written (Nat.le_of_add_left_le hb), fun p a h => (others p a h).trans (same p a),
        pkg.trans (congrArg Memory.pkg mem), syn.trans (congrArg Memory.syn mem), by simp [State.emit, State.withOut],
        (before.mono (by simp)).trans ((stored.mono (by simp)).trans ((State.emit_onlyChanges _ _).mono (by simp)))⟩
end

section
/-!
PROOFS. A FILL whose fill_sel is wider than its field (R49, R61, R62, R99).
-/
namespace Sys2Proof.Machine

/-- The pattern number beyond the 16 patterns whose register would stand at the row of engine 0 in IZ_ENG_STATE. -/
def strayPattern : Nat := 448

theorem strayPattern_row : IZ_FILL_PAT strayPattern = IZ_ENG_STATE 0 := by decide

/-- A FILL of 8 bytes of host memory with that pattern. -/
def strayFill : Flight :=
  { freshFlight 5 0 [] 0 16 with
    e := { decodeEntry [] with opcode := 0x03, length := 8, dst := 0x8000, fillSel := 0x10 + strayPattern }, phase := .startable }

/-- A mover in RUN with that entry on the hot READY queue 5. -/
def strayFillState : State :=
  let s := (State.reset.setF PAT_STAT_phase 7).setF IZ_SCHED_CFG_eng_per_queue 16
  let s := s.setQ 5 { QCtx.zero with state := .ready, cls := .user, sizeLog2 := 6, stitchLog2 := 16, rank := 1, cqid := 3,
                                     pi := 1, snap := 1, fetch := 1 }
  ((s.setC 3 { CqCtx.zero with state := .active, sizeLog2 := 3 }).warm .queue 5).withFl [strayFill]

theorem strayFillState_uncontested : strayFillState.uncontested := by
  have silent : ∀ res < 7, ∀ r < 80, strayFillState.requests res false r = false := by decide +kernel
  exact ⟨rfl, fun _ => rfl, fun res r h k => silent res h r k, by decide +kernel⟩

theorem strayFill_oneUnit : strayFillState.oneUnit strayFill := by
  unfold State.oneUnit Flight.unbound
  refine ⟨.inl (by decide +kernel), by decide +kernel, rfl, rfl, rfl, rfl, by decide +kernel, rfl, by decide, by decide +kernel,
    by decide +kernel, by decide +kernel, by decide +kernel, by decide +kernel, by decide +kernel, by decide +kernel, by decide +kernel,
    by decide +kernel, rfl, fun h => ?_, fun h => ?_, fun k h => ?_⟩
  · exact absurd h (by decide +kernel)
  · exact absurd h (by decide +kernel)
  · exact absurd h (by rw [show strayFill.e.readers = 0 by decide +kernel]; exact Nat.not_lt_zero k)

/-- The bytes that an entry's writes present. -/
def shownBytes (l : List (Nat × Nat × List Byte × Nat × Nat × Bool)) : List Byte := l.flatMap (·.2.2.1)

/-- The bytes that the command issues. -/
def strayFilled : Option (List Byte) :=
  match exec (.fill 5 0) strayFillState with
  | .next t => (t.flight? 5 0).map (fun g => shownBytes (g.writes.map DataWrite.shown))
  | _ => none

/-- They are the row of the engine that is bound: BOUND, to queue 5, with rank 1. -/
theorem strayFilled_eq : strayFilled = some [0x51, 0, 0, 4, 0, 0, 0, 0] := by decide +kernel

/-- The bytes of the pattern as the row stands before. -/
theorem strayFill_pattern :
    shownBytes ((strayFill.unitRuns 0 8).map
      (strayFill.writeAt 0 (strayFillState.produce strayFill (strayFillState.fedStitch strayFill []) 0 8).2.1 false)) = List.replicate 8 0 := by
  decide +kernel

end Sys2Proof.Machine

open Sys2Proof Sys2Proof.Machine

/-- Refutes O15: no hypothesis keeps fill_sel within its 8 bits. A FILL whose pattern number names the row of IZ_ENG_STATE of the engine
that takes it writes that row as it stands once the engine is bound, and not as it stood before the command. -/
theorem not_dataEntryWritesItsResult : ¬ Obligations.DataEntryWritesItsResult := by
  unfold Obligations.DataEntryWritesItsResult
  intro h
  obtain ⟨-, whole⟩ := h (.fill 5 0) 0x03 5 0 [] strayFillState strayFill rfl (by decide) (by decide) (by decide +kernel) rfl (by decide)
  obtain ⟨t, g, run, flight, -, -, -, written, -⟩ := whole 0 (by decide +kernel) (by decide +kernel) strayFillState_uncontested
    strayFill_oneUnit (fun get => absurd get (by decide))
  obtain ⟨writes, -⟩ := written (by decide)
  have filled : strayFilled = some (shownBytes (g.writes.map DataWrite.shown)) := by
    unfold strayFilled
    rw [run]
    exact congrArg (Option.map (fun g : Flight => shownBytes (g.writes.map DataWrite.shown))) flight
  rw [strayFilled_eq, writes, show strayFill.e.length = 8 from rfl, strayFill_pattern] at filled
  exact absurd filled (by decide)
end

section
/-!
PROOFS. The end of a stitch: the registers that it leaves alone, and what becomes of its entry (R96, R101, R113, R116, R263).
-/
namespace Sys2Proof.Machine

/-! ## Registers -/

/-- An event on another source is not counted here. -/
theorem State.f_addEvent_count_ne (s : State) {m n : Nat} (h : m ≠ n) (hn : n < 1024) :
    (s.addEvent n).f (IC_CNT_count m) = s.f (IC_CNT_count m) := by
  have row : (IC_CNT_count m).ofs ≠ (IC_CNT_count n).ofs := by simp only [IC_CNT_count, IC_CNT]; omega
  have counted : ∀ v, (s.setF (IC_CNT_count n) v).f (IC_CNT_count m) = s.f (IC_CNT_count m) :=
    fun v => State.f_setF_ne _ _ _ _ (by simp [IC_CNT_count]) (.inl row)
  unfold State.addEvent
  dsimp only
  split_ifs
  · exact counted _
  · rw [State.f_setPend_cnt _ _ m _ _ hn rfl (by simp [IC_CNT_count]), counted]

theorem State.f_event1_count_ne (s : State) {m n : Nat} (h : m ≠ n) (hn : n < 1024) :
    (s.event1 n).f (IC_CNT_count m) = s.f (IC_CNT_count m) := by
  unfold State.event1
  split_ifs
  · exact State.f_setF_ne _ _ _ _ (by simp [IC_CNT_count])
      (.inl (by simp only [IC_CNT_count, IC_CNT, IC_STORM_dropped, IC_STORM]; omega))
  · exact s.f_addEvent_count_ne h hn

/-- An event on source `n` changes no other count but that of source 54, which a storm raises (R290). -/
theorem State.f_raise_count_ne (s : State) {m n : Nat} (h : m ≠ n) (h54 : m ≠ 54) (hn : n < 1024) :
    (s.raise n).f (IC_CNT_count m) = s.f (IC_CNT_count m) := by
  unfold State.raise State.raiseVia State.owe
  dsimp only
  split_ifs
  · rfl
  · rw [State.f_judgeMsg_count, State.f_judgeMsg_count, State.f_event1_count_ne _ h54 (by decide), State.f_storm _ _ _ (by simp [IC_CNT_count])
      (by simp only [IC_CNT_count, IC_CNT, IC_STORM]; omega) (by simp only [IC_CNT_count, IC_CNT]; omega) hn, s.f_addEvent_count_ne h hn]
  · rw [State.f_judgeMsg_count, s.f_event1_count_ne h hn]

theorem State.setFirst_count (s : State) (c k : Nat) (r : List W64) (hc : c < 8) (hk : k < 8) :
    (s.setFirst c r).reg (ERR_COUNT k) = s.reg (ERR_COUNT k) := by
  unfold State.setFirst
  refine State.foldl_reg _ _ _ s (fun t w hw => ?_)
  rw [State.reg_setReg, if_neg]
  unfold ERR_COUNT ERR_FIRST
  omega

/-- Capturing a record of a class changes, of the counts, that of its class. -/
theorem State.capture_count (s : State) (c k : Nat) (r : LogRec) (hc : c < 8) (hk : k < 8) :
    (s.capture c r).reg (ERR_COUNT k) = (s.cnt (ERR_COUNT_count c)).reg (ERR_COUNT k) := by
  have valid : ERR_COUNT k ≠ ERR_FIRST_VALID := by unfold ERR_COUNT ERR_FIRST_VALID; omega
  unfold State.capture
  dsimp only
  split_ifs
  · rw [State.setFirst_count _ _ _ _ hc hk, State.reg_setF_ne _ _ _ _ valid]
  · rw [State.reg_setF_ne _ _ _ _ valid]
  · rw [State.reg_setF_ne _ _ _ _ valid, State.setFirst_count _ _ _ _ hc hk, State.reg_withErr]

/-- A record of the error log is counted in its class (R416). -/
theorem State.log_count (s : State) (hh : s.pair.hard = false) (code c k item aux a b : Nat) (hc : c < 8) (hk : k < 8) :
    (s.log code c item aux a b).reg (ERR_COUNT k) = (s.cnt (ERR_COUNT_count c)).reg (ERR_COUNT k) := by
  unfold State.log State.logIn
  rw [hh]
  simp only [Bool.false_eq_true, if_false]
  rw [State.capture_count _ _ _ _ hc hk]
  split_ifs <;> rfl

theorem State.log_count_ne (s : State) (code c k item aux a b : Nat) (hc : c < 8) (hk : k < 8) (h : k ≠ c) :
    (s.log code c item aux a b).reg (ERR_COUNT k) = s.reg (ERR_COUNT k) := by
  cases hh : s.pair.hard
  · rw [s.log_count hh code c k item aux a b hc hk]
    refine State.reg_setF_ne _ _ _ _ ?_
    show ERR_COUNT k ≠ ERR_COUNT c
    unfold ERR_COUNT
    omega
  · unfold State.log State.logIn
    rw [hh]
    rfl

/-- The register words that the end of a stitch may change. -/
def endRow (o : Nat) : Prop := (unitReg o ∨ o = TB_TRACE_LOST ∨ o = PAT_CLEAR) ∨ icReg o ∨ errReg o

/-- What the end of a stitch leaves of the registers: every word that does not stand for units, traces, interrupts and error records, every
count of events but those of sources 46 and 54, and the count of error records of class 1. -/
structure endsQuietly (s t : State) : Prop where
  regs : keepsRegs endRow s t
  counts : ∀ m, m < 1024 → m ≠ 46 → m ≠ 54 → t.f (IC_CNT_count m) = s.f (IC_CNT_count m)
  errors : t.reg (ERR_COUNT 1) = s.reg (ERR_COUNT 1)

theorem endsQuietly.refl (s : State) : endsQuietly s s := ⟨keepsRegs.refl _ s, fun _ _ _ _ => rfl, rfl⟩

theorem endsQuietly.trans {s t u : State} (h : endsQuietly s t) (k : endsQuietly t u) : endsQuietly s u :=
  ⟨h.regs.trans k.regs, fun m h1 h2 h3 => (k.counts m h1 h2 h3).trans (h.counts m h1 h2 h3), k.errors.trans h.errors⟩

theorem endsQuietly.of_keeps {s t : State} (h : keepsRegs (fun o => unitReg o ∨ o = TB_TRACE_LOST ∨ o = PAT_CLEAR) s t) :
    endsQuietly s t := by
  refine ⟨h.mono (fun o => .inl), fun m hm _ _ => State.f_of_reg _ (h (IC_CNT m) ?_), h _ ?_⟩
  · unfold unitReg IC_CNT TB_TRACE_LOST PAT_CLEAR
    omega
  · unfold unitReg ERR_COUNT TB_TRACE_LOST PAT_CLEAR
    omega

theorem endsQuietly.of_regs {s t : State} (h : t.regs = s.regs) : endsQuietly s t := .of_keeps (keepsRegs_of_regs h)

theorem State.setEng_quiet (s : State) {e : Nat} (he : e < 68) (d : Fld) (hd : d.ofs = IZ_ENG_STATE e) (n : Nat) :
    endsQuietly s (s.setF d n) := by
  refine .of_keeps ((s.setF_keepsRegs d n).mono (fun o h => .inl (.inr ?_)))
  rw [h, hd]
  unfold IZ_ENG_STATE
  omega

theorem State.traceEv_quiet (s : State) (m code unit aux a b : Nat) : endsQuietly s (s.traceEv m code unit aux a b) := by
  refine .of_keeps (fun o h => ?_)
  simp only [not_or] at h
  exact s.traceEv_reg m code unit aux a b o h.2.1 h.2.2

theorem State.showUnit_quiet (s : State) {res c : Nat} (hc : c < arbChannels res) (o : Option Nat) : endsQuietly s (s.showUnit res c o) := by
  unfold State.showUnit
  split_ifs with h
  · exact .refl s
  · have small : c < 17 := by
      have four : res = 4 := by omega
      subst four
      exact hc
    have row : ∀ x, ¬ (unitReg x ∨ x = TB_TRACE_LOST ∨ x = PAT_CLEAR) → x ≠ IZ_RED_STATE c := by
      rintro _ k rfl
      exact k (.inl (.inl (by unfold IZ_RED_STATE; omega)))
    refine .of_keeps (fun x k => ?_)
    split
    · exact State.setRed_reg _ _ _ _ (row x k)
    · rw [State.reg_setF_ne _ _ _ _ (row x k), State.setRed_reg _ _ _ _ (row x k)]
    · rw [State.reg_setF_ne _ _ _ _ (row x k), State.setRed_reg _ _ _ _ (row x k)]

theorem State.freeChannel_quiet (s : State) {res c : Nat} (hc : c < arbChannels res) : endsQuietly s (s.freeChannel res c) := by
  unfold State.freeChannel
  have free : endsQuietly s (s.setOwner res c none) := .of_regs rfl
  exact free.trans (State.showUnit_quiet _ hc none)

/-- Giving a channel, before the unit that stands for it shows it. -/
def State.handOver (s : State) (res c req : Nat) : State :=
  let rank := s.candRank res req
  let s := s.setOwner res c (some { req := req, slot := decide (rank = 16), age := s.arb.stamp, idle := 0, take := none })
  let s := s.withArb { s.arb with stamp := s.arb.stamp + 1, rr := Tbl.set (fun _ => 0) s.arb.rr (arbKey res rank) ((req + 1) % 80) }
  s.setCand res ((s.candOf res).filter (fun x => decide (x ≠ req)))

theorem State.handOver_regs (s : State) (res c req : Nat) : (s.handOver res c req).regs = s.regs := by
  unfold State.handOver
  generalize s.candRank res req = rank
  rfl

theorem State.giveChannel_quiet (s : State) {res c : Nat} (hc : c < arbChannels res) (req : Nat) :
    endsQuietly s (s.giveChannel res c req) := by
  have step : s.giveChannel res c req = (s.handOver res c req).showUnit res c (some req) := by
    unfold State.giveChannel State.handOver
    rfl
  rw [step]
  exact (endsQuietly.of_regs (s.handOver_regs res c req)).trans (State.showUnit_quiet _ hc _)

theorem State.grant_quiet (s : State) {res c : Nat} (hc : c < arbChannels res) (req : Nat) : endsQuietly s (s.grant res c req) := by
  unfold State.grant
  exact (s.giveChannel_quiet hc req).trans (State.traceEv_quiet _ _ _ _ _ _ _)

theorem State.dropOwner_quiet (s : State) {res c : Nat} (hc : c < arbChannels res) (o : Owner) (still : Nat → Bool) :
    endsQuietly s (s.dropOwner res c o still) := by
  unfold State.dropOwner
  split
  · split_ifs
    · exact (s.freeChannel_quiet hc).trans (State.grant_quiet _ hc _)
    · exact s.freeChannel_quiet hc
  · exact s.freeChannel_quiet hc

theorem State.owned_channel {s : State} {res : Nat} {x : Nat × Owner} (h : x ∈ s.owned res) : x.1 < arbChannels res := by
  unfold State.owned at h
  obtain ⟨c, hc, h⟩ := List.mem_filterMap.mp h
  obtain ⟨o, -, rfl⟩ := Option.map_eq_some_iff.mp h
  exact List.mem_range.mp (List.mem_of_mem_filter hc)

theorem State.dropChannels_quiet (s : State) (req : Nat) : endsQuietly s (s.dropChannels req) := by
  refine forEach_keeps (P := endsQuietly s) (fun res t h => h.trans ?_) _ (.refl s)
  unfold State.dropReq forEach
  refine List.foldlRecOn (motive := endsQuietly t) _ _ (.of_regs rfl) (fun u h x hx => h.trans ?_)
  exact u.dropOwner_quiet (State.owned_channel (List.mem_of_mem_filter hx)) x.2 _

theorem State.spareTaken_quiet (s : State) (x u : Nat) (hx : x < 68) :
    endsQuietly s (((s.setEng x 0).log 0x21 0 x (b2n false) u 0).raise 46) := by
  refine (s.setEng_quiet hx (IZ_ENG_STATE_state x) rfl 0).trans ⟨fun o h => ?_, fun m hm h46 h54 => ?_, ?_⟩
  · simp only [endRow, not_or] at h
    rw [State.raise_reg _ _ _ (by decide) h.2.1, State.log_reg _ _ _ _ _ _ _ _ (by decide) h.2.2]
    rfl
  · have row : ¬ errReg (IC_CNT_count m).ofs := by
      show ¬ errReg (IC_CNT m)
      unfold IC_CNT
      omega
    rw [State.f_raise_count_ne _ h46 h54 (by decide), State.f_of_reg _ (State.log_reg _ _ _ _ _ _ _ _ (by decide) row)]
    rfl
  · rw [State.raise_reg _ _ _ (by decide) (by decide), State.log_count_ne _ _ _ _ _ _ _ _ (by decide) (by decide) (by decide)]
    rfl

theorem State.spareIn_quiet (s : State) (u : Nat) : endsQuietly s (s.spareIn false u) := by
  have engine : s.spareOf false = s.engIn 4 := rfl
  unfold State.spareIn
  rw [engine]
  split
  · split
    · next x hx => exact s.spareTaken_quiet x u (List.mem_range.mp (List.mem_of_find?_eq_some hx))
    · exact .refl s
  · exact .refl s

theorem State.freeEngine_quiet (s : State) {e : Nat} (he : e < 68) : endsQuietly s (s.freeEngine e) := by
  have set := fun (t : State) (n : Nat) => t.setEng_quiet he (IZ_ENG_STATE_state e) rfl n
  have noLeave : endsQuietly s (s.noLeave false e) := .of_regs rfl
  unfold State.freeEngine
  dsimp only
  split
  · split
    · exact (noLeave.trans (set _ 5)).trans (State.spareIn_quiet _ e)
    · exact noLeave.trans (set _ 0)
  · split
    · exact set s 0
    · exact .refl s

end Sys2Proof.Machine
end

section
/-!
PROOFS. The stitch on an engine through the commands that change its entry, and its end (R75, R96, R101, R105, R118).
-/
namespace Sys2Proof.Machine

/-! ## The stitch that an engine holds -/

/-- Entry `f` holds stitch `x` on engine `e`, and stands in the state as the first of its queue and index and the first on that engine. -/
structure State.bound (u : State) (e : Nat) (f : Flight) (x : Stitch) : Prop where
  on : u.onEngine e = some (f, x)
  flight : u.flight? f.q f.idx = some f

section
variable {u t : State} {e : Nat} {f : Flight} {x : Stitch}

theorem State.bound.stitch (h : u.bound e f x) : f.stitch? e = some x := (State.onEngine_some h.on).2

theorem State.bound.of_fl (h : u.bound e f x) (k : t.fl = u.fl) : t.bound e f x := by
  refine ⟨?_, (State.flight_of_fl k _ _).trans h.flight⟩
  rw [← h.on]
  unfold State.onEngine
  rw [k]

/-- A change of the entry that leaves every engine its stitch. -/
theorem State.bound.updFl (h : u.bound e f x) {g : Flight → Flight} (hg : ∀ f, (g f).q = f.q ∧ (g f).idx = f.idx)
    (hs : ∀ f, ((g f).stitch? e).isSome = (f.stitch? e).isSome) {y : Stitch} (hy : (g f).stitch? e = some y) :
    (u.updFl f.q f.idx g).bound e (g f) y := by
  have first := (State.onEngine_some h.on).1
  have found : (u.updFl f.q f.idx g).fl.find? (fun f => (f.stitch? e).isSome) = some (g f) := by
    show (updWhere _ _ u.fl).find? _ = _
    rw [find_updWhere _ _ _ _ (fun y _ => hs y), first]
    simp
  refine ⟨?_, ?_⟩
  · unfold State.onEngine
    rw [found]
    dsimp only
    rw [hy]
    rfl
  · rw [(hg f).1, (hg f).2, State.flight_updFl _ _ _ _ hg, h.flight]
    rfl

/-- A change of the entry that leaves its stitches. -/
theorem State.bound.updOther (h : u.bound e f x) {g : Flight → Flight} (hg : ∀ f, (g f).q = f.q ∧ (g f).idx = f.idx)
    (hs : ∀ f, (g f).stitches = f.stitches) : (u.updFl f.q f.idx g).bound e (g f) x := by
  have same : ∀ f, (g f).stitch? e = f.stitch? e := fun f => by unfold Flight.stitch?; rw [hs]
  exact h.updFl hg (fun f => by rw [same]) ((same f).trans h.stitch)

/-- A change of the stitch. -/
theorem State.bound.updStitch (h : u.bound e f x) {g : Stitch → Stitch} (hg : ∀ y, (g y).eng = y.eng) :
    (u.updStitch f.q f.idx e g).bound e (f.updStitch e g) (g x) :=
  h.updFl (g := fun f => f.updStitch e g) (fun _ => ⟨rfl, rfl⟩) (fun f => f.stitch_updStitch_isSome e hg) (Flight.stitch_updStitch hg h.stitch)

end

/-! ## Writes are issued (R75, R105) -/

/-- The entry with further writes. -/
def Flight.issuing (f : Flight) (l : List DataWrite) (n : Nat) : Flight := { f with writes := f.writes ++ l, wnext := n }

theorem State.issueRun_spec {u : State} {e : Nat} {f : Flight} {x : Stitch} (h : u.bound e f x) (eng a : Nat) (bytes : List Byte)
    (poison : Bool) (r : Run) : ∃ w n, (u.issueRun f.q f.idx eng a bytes poison r).bound e (f.issuing [w] n) x
      ∧ w.shown = f.writeAt a bytes poison r := by
  unfold State.issueRun
  rw [h.flight]
  refine ⟨_, _, State.bound.updOther (g := fun f => f.issuing [_] _) (State.bound.of_fl h ?_) (fun _ => ⟨rfl, rfl⟩) (fun _ => rfl), rfl⟩
  show State.fl (if _ then _ else _) = _
  split_ifs <;> rfl

theorem State.issueRuns_spec {u : State} {e : Nat} {f : Flight} {x : Stitch} (h : u.bound e f x) (eng a : Nat) (bytes : List Byte)
    (poison : Bool) (l : List Run) :
    ∃ ws n, (l.foldl (fun s r => s.issueRun f.q f.idx eng a bytes poison r) u).bound e (f.issuing ws n) x
      ∧ ws.map DataWrite.shown = l.map (f.writeAt a bytes poison) := by
  induction l generalizing u f with
  | nil => exact ⟨[], f.wnext, by simpa [Flight.issuing] using h, rfl⟩
  | cons r l ih =>
    obtain ⟨w, n, after, shown⟩ := State.issueRun_spec h eng a bytes poison r
    obtain ⟨ws, m, last, rest⟩ := ih after
    refine ⟨w :: ws, m, ?_, ?_⟩
    · simpa [Flight.issuing] using last
    · rw [List.map_cons, List.map_cons, shown, rest]
      rfl

/-- The two are one entry, at different times. -/
def Flight.sameEntry (f g : Flight) : Prop := f.q = g.q ∧ f.idx = g.idx ∧ f.e = g.e

theorem Flight.sameEntry.writeAt {f g : Flight} (h : f.sameEntry g) : f.writeAt = g.writeAt := by
  obtain ⟨-, -, he⟩ := h
  unfold Flight.writeAt
  rw [he]

/-- The writes of job offsets [b, c) of a unit from `a` on join the entry's. -/
theorem State.issueBytes_spec {u : State} {e : Nat} {f : Flight} {x : Stitch} (h : u.bound e f x) {f₀ : Flight} (hf : f.sameEntry f₀)
    (eng a : Nat) (bytes : List Byte) (poison : Bool) (b c : Nat) :
    ∃ ws n, (u.issueBytes f₀.q f₀.idx f₀ eng a bytes poison b c).bound e (f.issuing ws n) x
      ∧ ws.map DataWrite.shown = (f₀.unitRuns b c).map (f₀.writeAt a bytes poison) := by
  obtain ⟨ws, n, after, shown⟩ := State.issueRuns_spec h eng a bytes poison (f₀.unitRuns b c)
  rw [hf.writeAt] at shown
  obtain ⟨hq, hi, -⟩ := hf
  rw [hq, hi] at after
  exact ⟨ws, n, after, shown⟩

end Sys2Proof.Machine
end

section
/-!
PROOFS. The end of a stitch (R96, R101).
-/
namespace Sys2Proof.Machine

/-- What the judgement and the writes of an entry show of it. -/
def Flight.outcome (f : Flight) : Bool × Nat × Nat × List DataWrite × List (Nat × Nat) := (f.ended, f.status, f.failOfs, f.writes, f.done)

theorem Flight.outcome_eq {g : Flight} {a : Bool} {b c : Nat} {l : List DataWrite} {m : List (Nat × Nat)}
    (h : g.outcome = (a, b, c, l, m)) : g.ended = a ∧ g.status = b ∧ g.failOfs = c ∧ g.writes = l ∧ g.done = m := by
  simpa [Flight.outcome] using h

theorem Flight.stitch_unbind (f : Flight) (e : Nat) : (f.unbind e).stitch? e = none := by
  have gone : (f.stitches.filter (fun y => decide (y.eng ≠ e))).find? (fun x => decide (x.eng = e)) = none :=
    List.find?_eq_none.mpr (fun y hy => by simpa using (List.mem_filter.mp hy).2)
  unfold Flight.unbind
  split
  · assumption
  · dsimp only
    split_ifs <;> exact gone

theorem Flight.unbind_outcome (f : Flight) (e : Nat) :
    (f.unbind e).outcome = f.outcome ∧ (f.unbind e).q = f.q ∧ (f.unbind e).idx = f.idx := by
  unfold Flight.unbind
  split
  · exact ⟨rfl, rfl, rfl⟩
  · dsimp only
    split_ifs <;> exact ⟨rfl, rfl, rfl⟩

section
variable {u : State} {e : Nat} {f : Flight} {x : Stitch}

/-- What a stitch with no paced burst out leaves of its reads. -/
theorem State.bound.leaveReads (h : u.bound e f x) (hx : x.ends = []) (keeps : Prop) [Decidable keeps] :
    ∃ g, (if keeps then u.updFl f.q f.idx (fun f => { f with kept := some x }) else (u.looseReads f e).freeBursts x.ends).bound e g x
      ∧ g.q = f.q ∧ g.idx = f.idx ∧ g.outcome = f.outcome
      ∧ onlyChanges [.fl, .arb] u
        (if keeps then u.updFl f.q f.idx (fun f => { f with kept := some x }) else (u.looseReads f e).freeBursts x.ends) := by
  have loose := onlyChanges_of_same (l := [.arb]) (fun _ hb => State.looseReads_same hb u f e)
  split_ifs
  · exact ⟨_, h.updOther (g := fun f => { f with kept := some x }) (fun _ => ⟨rfl, rfl⟩) (fun _ => rfl), rfl, rfl, rfl,
      (u.updFl_onlyChanges _ _ _).mono (by simp)⟩
  · rw [hx]
    exact ⟨f, h.of_fl (loose .fl (by decide)), rfl, rfl, rfl, loose.mono (by simp)⟩

/-- The rest of the stitch goes back to its entry, and its engine returns. -/
def State.handBack (u : State) (q : Nat) (i : W32) (e n : Nat) : State :=
  (((u.updFl q i (fun f => f.unbind e)).setF (IZ_ENG_STATE_rank e) n).dropChannels e).freeEngine e

theorem State.bound.handBack (h : u.bound e f x) (he : e < 68) (n : Nat) :
    (∃ g, (u.handBack f.q f.idx e n).flight? f.q f.idx = some g ∧ g.stitch? e = none ∧ g.outcome = f.outcome)
      ∧ endsQuietly u (u.handBack f.q f.idx e n) ∧ (u.handBack f.q f.idx e n).q = u.q := by
  have flight : (u.updFl f.q f.idx (fun f => f.unbind e)).flight? f.q f.idx = some (f.unbind e) := by
    rw [State.flight_updFl _ _ _ _ (fun f => (f.unbind_outcome e).2), h.flight]
    rfl
  unfold State.handBack
  have quiet : endsQuietly u (u.updFl f.q f.idx (fun f => f.unbind e)) := .of_regs rfl
  have queues : (u.updFl f.q f.idx (fun f => f.unbind e)).q = u.q := rfl
  generalize u.updFl f.q f.idx (fun f => f.unbind e) = v at flight quiet queues
  have ranked := v.setEng_quiet he (IZ_ENG_STATE_rank e) rfl n
  have rankFrame := v.setF_onlyChanges (IZ_ENG_STATE_rank e) n
  generalize v.setF (IZ_ENG_STATE_rank e) n = w at ranked rankFrame
  have dropped := w.dropChannels_quiet e
  have dropFrame := onlyChanges_of_same (l := [.regs, .arb, .trace, .pat, .mem]) (fun _ hb => State.dropChannels_same hb w e)
  generalize w.dropChannels e = y at dropped dropFrame
  have freed := y.freeEngine_quiet he
  have freeFrame := onlyChanges_of_same (l := [.regs, .ic, .arb, .err, .spr, .out]) (fun _ hb => State.freeEngine_same hb y e)
  have fl : (y.freeEngine e).fl = v.fl := (freeFrame .fl (by decide)).trans ((dropFrame .fl (by decide)).trans (rankFrame .fl (by decide)))
  have q : (y.freeEngine e).q = v.q := (freeFrame .q (by decide)).trans ((dropFrame .q (by decide)).trans (rankFrame .q (by decide)))
  exact ⟨⟨_, (State.flight_of_fl fl _ _).trans flight, f.stitch_unbind e, (f.unbind_outcome e).1⟩,
    quiet.trans (ranked.trans (dropped.trans freed)), q.trans queues⟩

/-- A queue for which no change of mode or line waits is left as it is at the end of a stitch. -/
theorem State.boundary_still {u : State} {q : Nat} (hm : (u.qctx q).newMirror = none) (hl : (u.qctx q).newLine = none) :
    (u.applyLine q).orWait ((u.applyLine q).applyMode q) = u := by
  have line : u.applyLine q = u := by
    unfold State.applyLine
    rw [hl]
  have mode : u.applyMode q = u := by
    unfold State.applyMode
    rw [hm]
  rw [line, mode]
  exact ite_self _

/-- A traced event and the settling of an entry that is not malformed leave its outcome. -/
theorem State.traced_settle {u : State} {q : Nat} {i : W32} {f : Flight} (hf : u.flight? q i = some f) (hs : f.status ≠ stMalformed)
    (m code n aux a b : Nat) :
    (∃ p k, ((u.traceEv m code n aux a b).settle q i).flight? q i = some (f.settled p k))
      ∧ endsQuietly u ((u.traceEv m code n aux a b).settle q i) := by
  have traced := u.traceEv_quiet m code n aux a b
  have frame := onlyChanges_of_same (l := [.regs, .trace, .pat, .mem]) (fun _ hb => State.traceEv_same hb u m code n aux a b)
  obtain ⟨⟨p, k, settled, -⟩, -, settleFrame⟩ := State.settle_spec ((State.flight_of_fl (frame .fl (by decide)) _ _).trans hf) hs
  exact ⟨⟨p, k, settled⟩, traced.trans (.of_regs (settleFrame .regs (by decide)))⟩

/-- The end of a stitch with no paced burst out, of a queue for which no change of mode or line waits, changes nothing of the entry's
outcome. -/
theorem State.bound.endStitch (h : u.bound e f x) (he : e < 68) (hx : x.ends = []) (hs : f.status ≠ stMalformed)
    (hm : (u.qctx f.q).newMirror = none) (hl : (u.qctx f.q).newLine = none) :
    (∃ g, (u.endStitch f.q f.idx e).flight? f.q f.idx = some g ∧ g.stitch? e = none ∧ g.outcome = f.outcome)
      ∧ endsQuietly u (u.endStitch f.q f.idx e) := by
  unfold State.endStitch
  rw [h.flight]
  dsimp only
  rw [h.stitch]
  dsimp only
  generalize (!x.stop && decide (x.hi ≤ x.wr) && decide (x.hi < x.paced)) = keeps
  obtain ⟨g, left, gq, gi, outcome, frame⟩ := h.leaveReads hx (keeps = true)
  generalize (if keeps = true then u.updFl f.q f.idx (fun f => { f with kept := some x }) else (u.looseReads f e).freeBursts x.ends) = v
    at left frame
  obtain ⟨⟨k, flight, noStitch, same⟩, quiet, queues⟩ := left.handBack he (v.engRank 3 e)
  rw [gq, gi] at flight quiet queues
  unfold State.handBack at flight quiet queues
  generalize (((v.updFl f.q f.idx (fun f => f.unbind e)).setF (IZ_ENG_STATE_rank e) (v.engRank 3 e)).dropChannels e).freeEngine e = w
    at flight quiet queues
  have context : (w.updQ f.q (fun c => { c with servedMt := w.mt, served := true })).qctx f.q
      = { u.qctx f.q with servedMt := w.mt, served := true } := by
    unfold State.updQ
    rw [State.qctx_setQ_self, State.qctx_of_q (queues.trans (frame .q (by decide)))]
  have marked : endsQuietly w (w.updQ f.q (fun c => { c with servedMt := w.mt, served := true })) := .of_regs rfl
  have flight : (w.updQ f.q (fun c => { c with servedMt := w.mt, served := true })).flight? f.q f.idx = some k := flight
  generalize w.updQ f.q (fun c => { c with servedMt := w.mt, served := true }) = y at context marked flight
  rw [State.boundary_still (u := y) (by rw [context]; exact hm) (by rw [context]; exact hl)]
  have status : k.status = f.status := (Flight.outcome_eq (same.trans outcome)).2.1
  obtain ⟨⟨p, z, settled⟩, last⟩ := State.traced_settle flight (by rwa [status]) 0 0x02 e (b2n x.cut) f.q (x.wr - x.lo)
  exact ⟨⟨_, settled, noStitch, same.trans outcome⟩,
    (endsQuietly.of_regs (frame .regs (by decide))).trans (quiet.trans (marked.trans last))⟩

end

end Sys2Proof.Machine
end

section
/-!
PROOFS. STITCH_END of a stitch with one unit left (R96, R101).
-/
namespace Sys2Proof.Machine

/-- Nothing is left to issue of the stitch: it was stopped, or has issued all. -/
def Stitch.finished (x : Stitch) : Prop := x.stop = true ∨ x.ready = true ∧ x.hi ≤ x.wr

theorem State.bound.issueUnits_over {u : State} {e : Nat} {f : Flight} {x : Stitch} (h : u.bound e f x) (hx : x.finished) (n : Nat)
    (final : Bool) : u.issueUnits n f.q f.idx e final = u := by
  cases n with
  | zero => rfl
  | succ n =>
    unfold State.issueUnits
    rw [h.flight]
    dsimp only
    rw [h.stitch]
    dsimp only
    refine if_neg (fun k => ?_)
    simp only [Bool.and_eq_true, Bool.not_eq_true', decide_eq_true_eq] at k
    obtain ⟨⟨⟨⟨⟨⟨⟨-, going⟩, rest⟩, -⟩, -⟩, -⟩, -⟩, -⟩ := k
    rcases hx with stop | ⟨-, all⟩
    · rw [stop] at going
      cases going
    · omega

/-- A stitch with no paced burst out has none to acknowledge. -/
theorem State.bound.ackBursts {u : State} {e : Nat} {f : Flight} {x : Stitch} (h : u.bound e f x) (hx : x.ends = []) :
    ∃ g, (u.ackBursts f.q f.idx e).bound e g x ∧ g.q = f.q ∧ g.idx = f.idx ∧ g.outcome = f.outcome
      ∧ (u.ackBursts f.q f.idx e).regs = u.regs ∧ (u.ackBursts f.q f.idx e).q = u.q := by
  unfold State.ackBursts
  rw [h.flight]
  dsimp only
  rw [h.stitch]
  dsimp only
  rw [hx, List.filter_nil, List.foldl_nil]
  generalize (fun b : Nat × Nat =>
    !(if u.fb (RL_CFG_ack_point b.1) then decide (b.2 ≤ x.wr) else (List.range f.e.readers).all (f.hasStaged x b.2))) = waits
  have acked := h.updStitch (g := fun x => { x with ends := x.ends.filter waits }) (fun _ => rfl)
  have same : ({ x with ends := x.ends.filter waits } : Stitch) = x := by
    rw [hx, List.filter_nil, ← hx]
  rw [same] at acked
  exact ⟨_, acked, rfl, rfl, rfl, rfl, rfl⟩

theorem State.lastUnit.issueUnits {s : State} {e : Nat} {f : Flight} {x : Stitch} (h : s.lastUnit e f x) (n : Nat) :
    s.issueUnits (n + 1) f.q f.idx e true = (s.issueUnit f.q f.idx e f x x.hi).issueUnits n f.q f.idx e true := by
  obtain ⟨-, on, flight, run, ready, stop, line, -, left, whole, staged, owns, -⟩ := h
  rw [State.issueUnits]
  rw [flight]
  dsimp only
  rw [(State.onEngine_some on).2]
  dsimp only
  rw [whole]
  refine if_pos ?_
  simp [ready, stop, left, line, owns, run]
  exact fun k hk => staged k hk

/-- STITCH_END of the last unit of a stitch: the unit is judged and issued, and the stitch ends with nothing else changed of its entry's
outcome. -/
theorem State.lastUnit.stitchEnd {s : State} {e : Nat} {f : Flight} {x : Stitch} (h : s.lastUnit e f x) {g : Flight} {y : Stitch}
    (hb : (s.issueUnit f.q f.idx e f x x.hi).bound e g y) (hg : g.q = f.q ∧ g.idx = f.idx) (hover : y.finished) (hends : y.ends = [])
    (hs : g.status ≠ stMalformed) (hq : (s.issueUnit f.q f.idx e f x x.hi).q = s.q) :
    ∃ t k, exec (.stitchEnd e) s = .next t ∧ t.flight? f.q f.idx = some k ∧ k.stitch? e = none ∧ k.outcome = g.outcome
      ∧ endsQuietly (s.issueUnit f.q f.idx e f x x.hi) t := by
  have unit := h.issueUnits x.units
  obtain ⟨he, on, -, -, -, -, -, -, -, -, -, -, -, -, hm, hl⟩ := h
  generalize s.issueUnit f.q f.idx e f x x.hi = u at unit hb hq
  rw [← hg.1, ← hg.2, hb.issueUnits_over hover] at unit
  obtain ⟨k, acked, kq, ki, outcome, regs, queues⟩ := hb.ackBursts hends
  have status : k.status = g.status := (Flight.outcome_eq outcome).2.1
  have ends : s.tryEnd e = (u.ackBursts g.q g.idx e).endStitch k.q k.idx e := by
    unfold State.tryEnd
    rw [on]
    dsimp only
    rw [← hg.1, ← hg.2, unit, acked.on]
    refine if_pos ?_
    rcases hover with stop | ⟨ready, all⟩
    · simp [stop]
    · simp [ready, all]
  have context : (u.ackBursts g.q g.idx e).qctx k.q = s.qctx f.q :=
    (State.qctx_of_q (queues.trans hq) _).trans (by rw [kq, hg.1])
  obtain ⟨⟨z, flight, noStitch, same⟩, quiet⟩ := acked.endStitch he hends (by rwa [status]) (by rwa [context]) (by rwa [context])
  have run : exec (.stitchEnd e) s = .next (s.tryEnd e) := rfl
  rw [run, ends]
  rw [hg.1, hg.2] at regs
  rw [kq, ki, hg.1, hg.2] at flight quiet ⊢
  exact ⟨_, z, rfl, flight, noStitch, same.trans outcome, (endsQuietly.of_regs regs).trans quiet⟩

end Sys2Proof.Machine
end

section
/-!
PROOFS. The checks of a unit that is sound: every hop is passed (R214 to R217, R226, R228, R229).
-/
namespace Sys2Proof.Machine

/-! ## Blocks of a unit (R212) -/

theorem mem_cutsN {k n : Nat} (hn : 0 < n) {a b : Nat} {c : Nat × Nat} (h : c ∈ cutsN k n a b) : a ≤ c.1 ∧ c.2 ≤ b := by
  induction k generalizing a with
  | zero => cases h
  | succ k ih =>
    rw [cutsN] at h
    split_ifs at h with hab
    · cases h
    · rcases List.mem_cons.mp h with rfl | h
      · exact ⟨le_refl a, min_le_left _ _⟩
      · obtain ⟨low, high⟩ := ih h
        have next : a < (a / n + 1) * n := by
          rw [mul_comm]
          exact Nat.lt_mul_div_succ a hn
        exact ⟨le_trans (le_min (by omega) next.le) low, high⟩

theorem mem_cuts {n : Nat} (hn : 0 < n) {a b : Nat} {c : Nat × Nat} (h : c ∈ cuts n a b) : a ≤ c.1 ∧ c.2 ≤ b := mem_cutsN hn h

theorem cuts_single {n a b : Nat} (h : a < b) (hn : b ≤ (a / n + 1) * n) : cuts n a b = [(a, b)] := by
  obtain ⟨k, hk⟩ : ∃ k, b - a = k + 1 := ⟨b - a - 1, by omega⟩
  have rest : cutsN k n b b = [] := by
    cases k with
    | zero => rfl
    | succ k => exact if_pos (le_refl b)
  unfold cuts
  rw [hk, cutsN, if_neg (by omega), min_eq_left hn, rest]

theorem Entry.sideOfs_mono (e : Entry) (d : Dir) {x y : Nat} (h : x ≤ y) : e.sideOfs d x ≤ e.sideOfs d y := by
  unfold Entry.sideOfs
  split
  · exact Nat.add_le_add h (Nat.mul_le_mul_left _ (Nat.div_le_div_right h))
  · exact Nat.mul_le_mul_right _ h

/-- What is staged of a block is among what is staged of a range that holds it. -/
theorem Flight.stagedFor_subset (f : Flight) (x : Stitch) (k : Nat) {a b : Nat} {c : Nat × Nat} (hx : x.wr ≤ a) (h : a ≤ c.1 ∧ c.2 ≤ b) :
    f.stagedFor x k c.1 c.2 ⊆ f.stagedFor x k a b := by
  have low := f.e.sideOfs_mono (f.reader k).1 h.1
  have high := f.e.sideOfs_mono (f.reader k).1 h.2
  have base := f.e.sideOfs_mono (f.reader k).1 hx
  unfold Flight.stagedFor Stitch.part
  dsimp only
  generalize f.e.sideOfs (f.reader k).1 c.1 = lo at *
  generalize f.e.sideOfs (f.reader k).1 c.2 = hi at *
  generalize f.e.sideOfs (f.reader k).1 a = A at *
  generalize f.e.sideOfs (f.reader k).1 b = B at *
  generalize f.e.sideOfs (f.reader k).1 x.wr = w at *
  intro z hz
  obtain ⟨j, hj⟩ := List.mem_iff_getElem?.mp hz
  rw [List.getElem?_take] at hj
  split_ifs at hj with small
  rw [List.getElem?_drop] at hj
  refine List.mem_iff_getElem?.mpr ⟨lo - A + j, ?_⟩
  rw [List.getElem?_take, if_pos (by omega), List.getElem?_drop, ← hj]
  congr 1
  omega

theorem anyBad_of_subset {l m : List SByte} (h : l ⊆ m) (hm : anyBad m = false) : anyBad l = false := by
  rw [anyBad, List.any_eq_false] at hm ⊢
  exact fun z hz => hm z (h hz)

theorem Entry.readers_pos {e : Entry} (h : e.isFill = false) : 0 < e.readers := by
  unfold Entry.readers Entry.nsrc
  rw [h]
  simp only [Bool.false_eq_true, if_false]
  split_ifs <;> omega

/-! ## Hops that are passed -/

theorem State.crossAll_passed {s : State} {judge : State → Nat × Nat → State × Bool} {l : List (Nat × Nat)}
    (h : ∀ c ∈ l, judge s c = (s, false)) (n st : Nat) : s.crossAll n st judge l = (s, none) := by
  induction l with
  | nil => rfl
  | cons c l ih =>
    rw [State.crossAll, h c List.mem_cons_self]
    exact ih (fun d hd => h d (List.mem_cons_of_mem _ hd))

section
variable {s : State} {f : Flight} {x : Stitch}

/-- Input check block `c` of reader `k` crosses the in-hop of its space, unless an earlier one has failed (R216). -/
def State.readerHop (f : Flight) (x : Stitch) (c : Nat × Nat) (y : State × Option ChkFail) (k : Nat) : State × Option ChkFail :=
  match y.2 with
  | some _ => y
  | none =>
    let n := inHop (f.e.space (f.reader k).1)
    y.1.crossAll n stPoison (fun s c => ((s.crossHop n).1, (s.crossHop n).2 || anyBad (f.stagedFor x k c.1 c.2))) [c]

theorem State.inHops_cons (s : State) (f : Flight) (x : Stitch) (c : Nat × Nat) (l : List (Nat × Nat)) :
    s.inHops f x (c :: l) = (match (List.range f.e.readers).foldl (State.readerHop f x c) (s, none) with
      | (t, some n) => (t, some n)
      | (t, none) => t.inHops f x l) := by
  have step : s.inHops f x (c :: l) = (match ((List.range f.e.readers).foldl (State.readerHop f x c) (s, none)).2 with
      | some _ => (List.range f.e.readers).foldl (State.readerHop f x c) (s, none)
      | none => ((List.range f.e.readers).foldl (State.readerHop f x c) (s, none)).1.inHops f x l) := rfl
  rw [step]
  generalize (List.range f.e.readers).foldl (State.readerHop f x c) (s, none) = y
  obtain ⟨t, _ | n⟩ := y <;> rfl

/-- With no injection armed a reader's block fails where a byte of it arrived damaged. -/
theorem State.readerHop_unarmed {s : State} (hi : s.fb IZ_CHK_INJ_armed = false) (c : Nat × Nat) (k : Nat) :
    State.readerHop f x c (s, none) k = (s, if anyBad (f.stagedFor x k c.1 c.2) then
      some { hop := inHop (f.e.space (f.reader k).1), status := stPoison, ofs := c.1, till := c.2, sound := c.1 } else none) := by
  unfold State.readerHop State.crossAll
  dsimp only
  rw [State.crossHop_unarmed hi, Bool.false_or]
  split_ifs <;> rfl

theorem State.inHops_passed (hi : s.fb IZ_CHK_INJ_armed = false) {l : List (Nat × Nat)}
    (h : ∀ c ∈ l, ∀ k, k < f.e.readers → anyBad (f.stagedFor x k c.1 c.2) = false) : s.inHops f x l = (s, none) := by
  induction l with
  | nil => rfl
  | cons c l ih =>
    have readers : (List.range f.e.readers).foldl (State.readerHop f x c) (s, none) = (s, none) := by
      refine List.foldlRecOn (motive := fun y => y = (s, none)) _ _ rfl (fun y hy k hk => ?_)
      rw [hy, State.readerHop_unarmed hi, h c List.mem_cons_self k (List.mem_range.mp hk)]
      rfl
    rw [State.inHops_cons, readers]
    exact ih (fun d hd => h d (List.mem_cons_of_mem _ hd))

theorem State.blockSound.inHops (h : s.blockSound f x) : s.inHops f x (cuts 512 x.wr x.hi) = (s, none) :=
  State.inHops_passed h.1 (fun c hc k hk =>
    anyBad_of_subset (f.stagedFor_subset x k (le_refl _) (mem_cuts (by decide) hc)) (h.2 k hk).1)

theorem State.passesChecks.judgeIn (h : s.passesChecks f x x.wr x.hi) : s.judgeIn f x x.wr x.hi = (s, none) := by
  obtain ⟨sound, tuple, -⟩ := h
  unfold State.judgeIn
  rw [sound.inHops]
  dsimp only
  rw [tuple]

/-- The CRC held for a block of the unit is that of its bytes. -/
theorem State.blockSound.held (h : s.blockSound f x) {k : Nat} (hk : k < f.e.readers) {c : Nat × Nat} (hc : c ∈ cuts 512 x.wr x.hi) :
    BitVec.ofNat 32 (crc32c (f.blockBytes x k c.1 c.2)) = x.heldSum k c.1 := ((h.2 k hk).2 c hc).symm

end

/-- What the checks of a reduction's result blocks leave: everything but the counts of blocks of the reduction units. -/
def countsBlocks (s t : State) : Prop := onlyChanges [.regs] s t ∧ keepsRegs (fun o => ∃ u, u < 17 ∧ o = IZ_RED_STATE u) s t

theorem countsBlocks.refl (s : State) : countsBlocks s s := ⟨onlyChanges.refl _ s, keepsRegs.refl _ s⟩

theorem State.countBlocks_spec (s : State) (e n : Nat) : countsBlocks s (s.countBlocks e n) := by
  refine ⟨onlyChanges_of_same (fun _ hb => State.countBlocks_same hb s e n), ?_⟩
  unfold State.countBlocks
  split
  · next u hu =>
    refine (s.setF_keepsRegs (IZ_RED_STATE_blocks u) _).mono (fun o h => ⟨u, ?_, h⟩)
    exact List.mem_range.mp (List.mem_of_find?_eq_some hu)
  · exact keepsRegs.refl _ s

theorem countsBlocks.unarmed {s t : State} (h : countsBlocks s t) (hi : s.fb IZ_CHK_INJ_armed = false) : t.fb IZ_CHK_INJ_armed = false := by
  have row : ¬ ∃ u, u < 17 ∧ IZ_CHK_INJ = IZ_RED_STATE u := by
    rintro ⟨u, hu, k⟩
    unfold IZ_CHK_INJ IZ_RED_STATE at k
    omega
  rw [← hi]
  unfold State.fb
  rw [State.f_of_reg IZ_CHK_INJ_armed (h.2 IZ_CHK_INJ row)]

section
variable {s : State} {f : Flight} {x : Stitch}

theorem State.blockSound.redHop (h : s.blockSound f x) {t : State}
    (ht : t.fb IZ_CHK_INJ_armed = false) (c : Nat × Nat) : t.redHop f x x.wr x.hi c = (t, false) := by
  unfold State.redHop
  rw [State.crossHop_unarmed ht]
  have equal : ∀ k ∈ List.range f.e.readers, ∀ y ∈ cuts 512 x.wr x.hi,
      BitVec.ofNat 32 (crc32c (f.blockBytes x k y.1 y.2)) = x.heldSum k y.1 := fun k hk y hy => h.held (List.mem_range.mp hk) hy
  refine Prod.ext rfl ?_
  dsimp only
  rw [Bool.false_or]
  refine List.any_eq_false.mpr (fun k hk => ?_)
  rw [Bool.not_eq_true]
  refine List.any_eq_false.mpr (fun y hy => ?_)
  simp [equal k hk y hy]

theorem State.passesChecks.judgeRed (h : s.passesChecks f x x.wr x.hi) (l : List (Nat × Nat)) :
    ∃ t, s.judgeRed f x x.wr x.hi l = (t, none) ∧ countsBlocks s t := by
  obtain ⟨sound, -, shadow⟩ := h
  have counted := s.countBlocks_spec x.eng l.length
  refine ⟨_, ?_, counted⟩
  unfold State.judgeRed
  generalize s.countBlocks x.eng l.length = t at counted
  rw [State.crossAll_passed (fun c _ => sound.redHop (counted.unarmed sound.1) c)]
  dsimp only
  rw [State.crossAll_passed (fun c _ => State.shadowHop_none (by rw [counted.1 .spr (by decide)]; exact shadow) _)]

theorem State.blockSound.leaveHop (h : s.blockSound f x) {t : State} (ht : t.fb IZ_CHK_INJ_armed = false) (bytes : List Byte)
    {c : Nat × Nat} (hc : c ∈ f.e.outBlocks x.wr x.hi) : t.leaveHop f x x.wr bytes c = (t, false) := by
  unfold State.leaveHop
  dsimp only
  split
  · rw [State.verify_unarmed ht]
    simp
  · next plain =>
    simp only [Bool.or_eq_true, not_or, Bool.not_eq_true] at plain
    rw [Entry.outBlocks, plain.1] at hc
    rw [State.verify_unarmed ht, h.held (Entry.readers_pos plain.2) hc]
    simp

theorem State.blockSound.selfHop (h : s.blockSound f x) (t : State) {c : Nat × Nat} (hc : c ∈ cuts 512 x.wr x.hi) :
    t.selfHop f x c = (t, false) := by
  unfold State.selfHop
  simp only [Prod.mk.injEq, true_and, List.any_eq_false, List.mem_range, decide_eq_true_eq]
  exact fun k hk => not_not.mpr (h.held hk hc)

theorem Entry.isRed_of_judged {e : Entry} (h : (e.isCompare || e.isCheck) = true) : e.isRed = false := by
  simp only [Entry.isCompare, Entry.isCheck, Bool.or_eq_true, decide_eq_true_eq] at h
  rcases h with h | h <;> simp [Entry.isRed, Entry.hasList, h]

/-- Every hop between the bytes of a sound unit and their issue is passed. -/
theorem State.passesChecks.judgeOut (h : s.passesChecks f x x.wr x.hi) (bytes : List Byte) :
    ∃ t, s.judgeOut f x x.wr x.hi bytes = (t, none) ∧ countsBlocks s t := by
  have made : ∃ t, (if f.e.isRed then s.judgeRed f x x.wr x.hi (f.e.outBlocks x.wr x.hi)
      else if f.e.isFill then s.crossAll 7 stChk (fun s _ => s.crossHop 7) (f.e.outBlocks x.wr x.hi) else (s, none)) = (t, none)
      ∧ countsBlocks s t := by
    split_ifs
    · exact h.judgeRed _
    · exact ⟨s, State.crossAll_passed (fun c _ => State.crossHop_unarmed h.1.1 7) _ _, .refl s⟩
    · exact ⟨s, rfl, .refl s⟩
  obtain ⟨t, made, counted⟩ := made
  refine ⟨t, ?_, counted⟩
  unfold State.judgeOut
  dsimp only
  rw [made]
  dsimp only
  split_ifs with writes judged
  · rw [State.crossAll_passed (fun c hc => h.1.leaveHop (counted.unarmed h.1.1) bytes hc)]
  · refine State.crossAll_passed (fun c hc => h.1.selfHop t ?_) _ _
    rwa [Entry.outBlocks, Entry.isRed_of_judged judged] at hc
  · rfl

theorem State.produce_state (h : f.badOverlap = false) (s : State) (a b : Nat) : (s.produce f x a b).1 = s := by
  unfold State.produce
  dsimp only
  rw [h, if_neg Bool.false_ne_true]
  split_ifs <;> rfl

end

end Sys2Proof.Machine
end

section
/-!
PROOFS. A unit is taken up: its writes or its judged range, its exceptions, its staging (R75, R105, R184, R228, R229).
-/
namespace Sys2Proof.Machine

/-! ## Exceptions (R184) -/

theorem State.f_sat_self (s : State) (d : Fld) (n : Nat) (h : d.lo + d.w ≤ 64) : (s.sat d n).f d = satAdd d.w (s.f d) n := by
  unfold State.sat
  rw [State.f_setF_self _ _ _ h, Nat.mod_eq_of_lt]
  have pos := Nat.two_pow_pos d.w
  unfold satAdd
  omega

theorem State.f_sat_ne (s : State) (d d' : Fld) (n : Nat) (h : d'.lo + d'.w ≤ 64)
    (hd : d'.ofs ≠ d.ofs ∨ d'.lo + d'.w ≤ d.lo ∨ d.lo + d.w ≤ d'.lo) : (s.sat d n).f d' = s.f d' := State.f_setF_ne _ _ _ _ h hd

theorem State.countExc_counts (s : State) (l : List Exc) : s.countsExceptions l (s.countExc l) := by
  unfold State.countExc
  dsimp only
  refine ⟨?_, ?_, ?_, ?_⟩
  · rw [State.f_sat_ne _ _ _ _ (by decide) (by decide), State.f_sat_ne _ _ _ _ (by decide) (by decide),
      State.f_sat_ne _ _ _ _ (by decide) (by decide), State.f_sat_self _ _ _ (by decide)]
  · rw [State.f_sat_ne _ _ _ _ (by decide) (by decide), State.f_sat_ne _ _ _ _ (by decide) (by decide),
      State.f_sat_self _ _ _ (by decide), State.f_sat_ne _ _ _ _ (by decide) (by decide)]
  · rw [State.f_sat_ne _ _ _ _ (by decide) (by decide), State.f_sat_self _ _ _ (by decide),
      State.f_sat_ne _ _ _ _ (by decide) (by decide), State.f_sat_ne _ _ _ _ (by decide) (by decide)]
  · rw [State.f_sat_self _ _ _ (by decide), State.f_sat_ne _ _ _ _ (by decide) (by decide),
      State.f_sat_ne _ _ _ _ (by decide) (by decide), State.f_sat_ne _ _ _ _ (by decide) (by decide)]

/-- The counts of exceptions stand in one register. -/
theorem countsExceptions_congr {s t s' t' : State} {l : List Exc} (h : s.countsExceptions l t) (hs : s.reg IZ_RED_EXCEPT = s'.reg IZ_RED_EXCEPT)
    (ht : t'.reg IZ_RED_EXCEPT = t.reg IZ_RED_EXCEPT) : s'.countsExceptions l t' := by
  have before : ∀ d : Fld, d.ofs = IZ_RED_EXCEPT → s.f d = s'.f d := fun d hd => State.f_of_reg d (by rw [hd]; exact hs)
  have after : ∀ d : Fld, d.ofs = IZ_RED_EXCEPT → t'.f d = t.f d := fun d hd => State.f_of_reg d (by rw [hd]; exact ht)
  obtain ⟨carrier, invalid, overflow, integer⟩ := h
  refine ⟨?_, ?_, ?_, ?_⟩
  · rw [after _ rfl, carrier, before _ rfl]
  · rw [after _ rfl, invalid, before _ rfl]
  · rw [after _ rfl, overflow, before _ rfl]
  · rw [after _ rfl, integer, before _ rfl]

/-! ## The unit is taken up -/

/-- The entry with the exceptions `l` of result elements noted, as far as it reports them (R185). -/
def Flight.noting (l : List Exc) (f : Flight) : Flight := { f with redExc := f.redExc || l.any (reported f.redCfg) }

/-- What a unit [x.wr, b), judged up to `n`, makes of the state: its writes, or its range as judged, up to a difference `m`. -/
def State.takeUnit (s : State) (e : Nat) (f : Flight) (x : Stitch) (bytes : List Byte) (exc : List Exc) (m : Option Nat) (n b : Nat) :
    State :=
  let s := if f.e.writes then s.issueBytes f.q f.idx f e x.wr bytes false x.wr n
    else s.updFl f.q f.idx (fun f => { f with done := f.done ++ [(x.wr, m.getD n)] })
  let s := (s.countExc exc).updFl f.q f.idx (Flight.noting exc)
  s.updStitch f.q f.idx e (fun y => f.consume y (if f.e.writes then n else b))

/-- The stitch with its units issued up to job offset `n`. -/
def Stitch.cameTo (x : Stitch) (n : Nat) (y : Stitch) : Prop :=
  y.wr = n ∧ y.hi = x.hi ∧ y.ready = x.ready ∧ y.ends = x.ends

section
variable {s : State} {e : Nat} {f : Flight} {x : Stitch}

/-- The writes, or the range, that a unit adds to its entry. -/
theorem State.bound.addUnit (h : s.bound e f x) (bytes : List Byte) (m : Option Nat) (n : Nat) :
    ∃ g ws, (if f.e.writes then s.issueBytes f.q f.idx f e x.wr bytes false x.wr n
        else s.updFl f.q f.idx (fun f => { f with done := f.done ++ [(x.wr, m.getD n)] })).bound e g x ∧ g.sameEntry f
      ∧ g.outcome = (f.ended, f.status, f.failOfs, f.writes ++ ws, f.done ++ if f.e.writes then [] else [(x.wr, m.getD n)])
      ∧ ws.map DataWrite.shown = (if f.e.writes then (f.unitRuns x.wr n).map (f.writeAt x.wr bytes false) else [])
      ∧ onlyChanges [.fl, .arb, .out] s (if f.e.writes then s.issueBytes f.q f.idx f e x.wr bytes false x.wr n
        else s.updFl f.q f.idx (fun f => { f with done := f.done ++ [(x.wr, m.getD n)] })) := by
  split_ifs
  · obtain ⟨ws, k, after, shown⟩ := State.issueBytes_spec h ⟨rfl, rfl, rfl⟩ e x.wr bytes false x.wr n
    refine ⟨_, ws, after, ⟨rfl, rfl, rfl⟩, ?_, shown, onlyChanges_of_same (fun _ hb => State.issueBytes_same hb ..)⟩
    rw [List.append_nil]
    rfl
  · refine ⟨_, [], h.updOther (g := fun f => { f with done := f.done ++ [(x.wr, m.getD n)] }) (fun _ => ⟨rfl, rfl⟩) (fun _ => rfl),
      ⟨rfl, rfl, rfl⟩, ?_, rfl, (s.updFl_onlyChanges _ _ _).mono (by simp)⟩
    rw [List.append_nil]
    rfl

theorem State.bound.takeUnit (h : s.bound e f x) (bytes : List Byte) (exc : List Exc) (m : Option Nat) (n b : Nat) :
    ∃ g y ws, (s.takeUnit e f x bytes exc m n b).bound e g y ∧ g.sameEntry f ∧ x.cameTo (if f.e.writes then n else b) y
      ∧ g.outcome = (f.ended, f.status, f.failOfs, f.writes ++ ws, f.done ++ if f.e.writes then [] else [(x.wr, m.getD n)])
      ∧ ws.map DataWrite.shown = (if f.e.writes then (f.unitRuns x.wr n).map (f.writeAt x.wr bytes false) else [])
      ∧ s.countsExceptions exc (s.takeUnit e f x bytes exc m n b)
      ∧ keepsRegs (fun o => o = IZ_RED_EXCEPT) s (s.takeUnit e f x bytes exc m n b)
      ∧ onlyChanges [.regs, .fl, .arb, .out] s (s.takeUnit e f x bytes exc m n b) := by
  obtain ⟨g, ws, added, same, outcome, shown, frame⟩ := h.addUnit bytes m n
  unfold State.takeUnit
  dsimp only
  generalize (if f.e.writes then s.issueBytes f.q f.idx f e x.wr bytes false x.wr n
    else s.updFl f.q f.idx (fun f => { f with done := f.done ++ [(x.wr, m.getD n)] })) = u at added frame
  have regs : u.regs = s.regs := frame .regs (by decide)
  have counts := u.countExc_counts exc
  have counted := u.countExc_keepsRegs exc
  have countFrame := onlyChanges_of_same (l := [.regs]) (fun _ hb => State.countExc_same hb u exc)
  generalize u.countExc exc = v at counts counted countFrame
  obtain ⟨gq, gi, ge⟩ := same
  have noted := (added.of_fl (countFrame .fl (by decide))).updOther (g := Flight.noting exc) (fun _ => ⟨rfl, rfl⟩) (fun _ => rfl)
  rw [gq, gi] at noted
  have noteFrame := v.updFl_onlyChanges f.q f.idx (Flight.noting exc)
  generalize v.updFl f.q f.idx (Flight.noting exc) = w at noted noteFrame
  have consumed := noted.updStitch (g := fun y => f.consume y (if f.e.writes then n else b)) (fun _ => rfl)
  have noteQ : (g.noting exc).q = f.q := gq
  have noteI : (g.noting exc).idx = f.idx := gi
  rw [noteQ, noteI] at consumed
  have consumeFrame := w.updFl_onlyChanges f.q f.idx (fun g => g.updStitch e (fun y => f.consume y (if f.e.writes then n else b)))
  have afterRegs : (w.updStitch f.q f.idx e (fun y => f.consume y (if f.e.writes then n else b))).regs = v.regs :=
    (consumeFrame .regs (by decide)).trans (noteFrame .regs (by decide))
  refine ⟨_, _, ws, consumed, ⟨noteQ, noteI, ge⟩, ⟨rfl, rfl, rfl, rfl⟩, outcome, shown, ?_, ?_, ?_⟩
  · exact countsExceptions_congr counts (keepsRegs_of_regs (P := fun _ => False) regs _ id)
      (keepsRegs_of_regs (P := fun _ => False) afterRegs _ id)
  · exact (keepsRegs_of_regs regs).trans (counted.trans (keepsRegs_of_regs afterRegs))
  · exact (frame.mono (by simp)).trans ((countFrame.mono (by simp)).trans
      ((noteFrame.mono (by simp)).trans (consumeFrame.mono (by simp))))

/-! ## The entry ends (R80, R218, R228) -/

/-- Whether a stitch goes on below the failure at job offset `n`. -/
def Flight.goesOn (f : Flight) (n : Nat) (x : Stitch) : Bool := (f.e.isCompare || f.e.isCheck) && decide (x.hi ≤ n)

/-- What the end of an entry makes of it. -/
def Flight.endingAt (f : Flight) (st n : Nat) : Flight :=
  if f.ended && (decide (f.status = stMalformed) || decide (f.failOfs ≤ n)) then f
  else { f with status := st, failOfs := n, ended := true, redExc := false,
                stitches := f.stitches.map (fun x => if f.goesOn n x then x else { x with stop := true }) }

theorem State.endEntry_eq (s : State) (q : Nat) (i : W32) (st n : Nat) : s.endEntry q i st n = s.updFl q i (fun f => f.endingAt st n) := rfl

theorem Flight.endingAt_stitch (f : Flight) (st n e : Nat) (h : f.ended = false) :
    (f.endingAt st n).stitch? e = (f.stitch? e).map (fun x => if f.goesOn n x then x else { x with stop := true }) := by
  unfold Flight.endingAt Flight.stitch?
  rw [h, Bool.false_and, if_neg Bool.false_ne_true]
  dsimp only
  rw [List.find?_map]
  congr 2
  funext x
  dsimp only [Function.comp_apply]
  split_ifs <;> rfl

theorem Flight.endingAt_keeps (f : Flight) (st n : Nat) : (f.endingAt st n).q = f.q ∧ (f.endingAt st n).idx = f.idx := by
  unfold Flight.endingAt
  split_ifs <;> exact ⟨rfl, rfl⟩

theorem Flight.endingAt_isSome (f : Flight) (st n e : Nat) : ((f.endingAt st n).stitch? e).isSome = (f.stitch? e).isSome := by
  unfold Flight.endingAt Flight.stitch?
  split_ifs
  · rfl
  · dsimp only
    rw [List.find?_map, Option.isSome_map]
    congr 2
    funext x
    dsimp only [Function.comp_apply]
    split_ifs <;> rfl

/-- An entry that ends for the first time shows why and where, and stops its stitch unless that lies below. -/
theorem State.bound.endEntry (h : s.bound e f x) (hf : f.ended = false) (st n : Nat) :
    (s.endEntry f.q f.idx st n).bound e (f.endingAt st n) (if f.goesOn n x then x else { x with stop := true })
      ∧ (f.endingAt st n).sameEntry f ∧ (f.endingAt st n).outcome = (true, st, n, f.writes, f.done) := by
  refine ⟨?_, ?_, ?_⟩
  · rw [State.endEntry_eq]
    exact h.updFl (g := fun f => f.endingAt st n) (fun f => f.endingAt_keeps st n) (fun f => f.endingAt_isSome st n e)
      (by rw [f.endingAt_stitch st n e hf, h.stitch]; rfl)
  · exact ⟨(f.endingAt_keeps st n).1, (f.endingAt_keeps st n).2, by unfold Flight.endingAt; split_ifs <;> rfl⟩
  · unfold Flight.endingAt
    rw [hf, Bool.false_and, if_neg Bool.false_ne_true]
    rfl

end

end Sys2Proof.Machine
end

section
/-!
PROOFS. A unit by its judgement (R214 to R222, R228, R229).
-/
namespace Sys2Proof.Machine

/-- The judgement of a unit [a, b): its checks on the way in, and on the way out where those pass. -/
def State.judgeUnit (s : State) (f : Flight) (x : Stitch) (a b : Nat) : State × Option ChkFail :=
  let j := s.judgeIn f x a b
  let p := j.1.produce f x a b
  match j.2 with
  | some c => (p.1, some c)
  | none => p.1.judgeOut f x a b p.2.1

/-- What a unit [a, b) makes of what is staged. -/
def State.madeOf (s : State) (f : Flight) (x : Stitch) (a b : Nat) : List Byte × List Exc := ((s.judgeIn f x a b).1.produce f x a b).2

/-- The first difference that a COMPARE finds in [a, b), below `n`. -/
def Flight.miscompare (f : Flight) (x : Stitch) (a b n : Nat) : Option Nat :=
  if f.e.isCompare then (f.firstDiff x a b).filter (fun d => decide (d < n)) else none

/-- The unit [x.wr, b) is taken up as far as job offset `n`: a COMPARE that finds a difference there ends. -/
def State.takeTo (s : State) (e : Nat) (f : Flight) (x : Stitch) (made : List Byte × List Exc) (n b : Nat) : State :=
  let t := s.takeUnit e f x made.1 made.2 (f.miscompare x x.wr b n) n b
  match f.miscompare x x.wr b n with
  | some d => t.endEntry f.q f.idx stMiscompare d
  | none => t

/-- A unit whose check `c` failed ends its entry: counted and recorded, its block written as poisoned if that is on, and its unit
charged. -/
def State.failUnit (s : State) (e : Nat) (f : Flight) (x : Stitch) (bytes : List Byte) (b : Nat) (c : ChkFail) : State :=
  let s := (s.noteFail f.q f.idx.toNat f.chkCfg c).endEntry f.q f.idx c.status c.ofs
  let s := if f.e.writes && bit f.chkCfg 0 then s.issueBytes f.q f.idx f e x.wr bytes true c.ofs (min c.till b) else s
  s.chargeFail e c

/-- What is left of a unit's issue once it is judged. -/
def issueJudged (k : State × Option ChkFail) (res e : Nat) (f : Flight) (x : Stitch) (b : Nat) (made : List Byte × List Exc) : State :=
  let g := match k.2 with | some c => min c.sound b | none => b
  let t := ((k.1.arbBusy res e).arbBusy 4 e).takeTo e f x made g b
  match k.2 with
  | none => t
  | some c => t.failUnit e f x made.1 b c

theorem State.issueUnit_eq (s : State) (e : Nat) (f : Flight) (x : Stitch) (b : Nat) : s.issueUnit f.q f.idx e f x b
    = issueJudged (s.judgeUnit f x x.wr b) (s.writeRes f) e f x b (s.madeOf f x x.wr b) := rfl

/-- Nothing but idle counts changes as the channels of a unit are used. -/
theorem State.arbBusy_onlyChanges (s : State) (res req : Nat) : onlyChanges [.arb] s (s.arbBusy res req) :=
  onlyChanges_of_same (fun _ hb => State.arbBusy_same hb s res req)

/-! ## The first difference of a COMPARE (R228) -/

theorem firstIdx_lt {α : Type} {p : α → Bool} {l : List α} {n m : Nat} (h : firstIdx p l n = some m) : m < n + l.length := by
  induction l generalizing n with
  | nil => cases h
  | cons y l ih =>
    rw [firstIdx] at h
    split_ifs at h
    · cases h
      simp
    · have := ih h
      simp only [List.length_cons]
      omega

theorem Flight.stagedFor_length (f : Flight) (x : Stitch) (k a b : Nat) :
    (f.stagedFor x k a b).length ≤ f.e.sideOfs (f.reader k).1 b - f.e.sideOfs (f.reader k).1 a := by
  unfold Flight.stagedFor Stitch.part
  dsimp only
  rw [List.length_take]
  exact min_le_left _ _

/-- A side without protection information of an entry that makes no reduction takes a byte for each job byte. -/
theorem Entry.sideOfs_plain {e : Entry} {d : Dir} (hr : e.isRed = false) (hp : e.piSide d = false) (n : Nat) : e.sideOfs d n = n := by
  have noList : e.hasList = false := by
    rw [Entry.isRed, Bool.or_eq_false_iff] at hr
    exact hr.1
  unfold Entry.sideOfs Entry.factor Entry.outCarrier
  rw [hp, noList]
  cases d <;> simp [hr]

/-- One side of a COMPARE bears no protection information. -/
theorem Entry.compare_side {e : Entry} (h : e.isCompare = true) : ∃ d, ∀ n, e.sideOfs d n = n := by
  have op : e.opcode = 0x04 := of_decide_eq_true h
  have noRed : e.isRed = false := by simp [Entry.isRed, Entry.hasList, op]
  by_cases one : e.piOp = 1
  · exact ⟨.src, Entry.sideOfs_plain noRed (by simp [Entry.piSide, one])⟩
  · exact ⟨.dst, Entry.sideOfs_plain noRed (by simp [Entry.piSide, one, Entry.writes, h])⟩

theorem Flight.firstDiff_lt {f : Flight} (h : f.e.isCompare = true) {x : Stitch} {a b d : Nat} (hd : f.firstDiff x a b = some d) : d < b := by
  have two : (f.reader 1).1 = .dst := by simp [Flight.reader, h]
  have one : (f.reader 0).1 = .src := by simp [Flight.reader]
  have source := f.stagedFor_length x 0 a b
  have other := f.stagedFor_length x 1 a b
  rw [one] at source
  rw [two] at other
  have short : min (f.stagedFor x 0 a b).length (f.stagedFor x 1 a b).length ≤ b - a := by
    obtain ⟨d, plain⟩ := Entry.compare_side h
    cases d with
    | src => exact (min_le_left _ _).trans (by rwa [plain, plain] at source)
    | dst => exact (min_le_right _ _).trans (by rwa [plain, plain] at other)
  obtain ⟨m, hm, rfl⟩ := Option.map_eq_some_iff.mp hd
  have := firstIdx_lt hm
  rw [List.length_zip, List.length_map, List.length_map] at this
  omega

end Sys2Proof.Machine
end

section
/-!
PROOFS. The last unit of a stitch, judged sound (R75, R101, R102, R154, R184, R228, R229).
-/
namespace Sys2Proof.Machine

section
variable {s : State} {e : Nat} {f : Flight} {x : Stitch}

/-- What taking up a unit makes of its entry, and of the registers. -/
theorem State.bound.takeTo (h : s.bound e f x) (hf : f.ended = false) (made : List Byte × List Exc) (n b : Nat) :
    ∃ g y ws, (s.takeTo e f x made n b).bound e g y ∧ g.sameEntry f ∧ x.cameTo (if f.e.writes then n else b) y
      ∧ g.outcome = ((f.miscompare x x.wr b n).isSome, (f.miscompare x x.wr b n).elim f.status (fun _ => stMiscompare),
          (f.miscompare x x.wr b n).getD f.failOfs, f.writes ++ ws,
          f.done ++ if f.e.writes then [] else [(x.wr, (f.miscompare x x.wr b n).getD n)])
      ∧ ws.map DataWrite.shown = (if f.e.writes then (f.unitRuns x.wr n).map (f.writeAt x.wr made.1 false) else [])
      ∧ s.countsExceptions made.2 (s.takeTo e f x made n b)
      ∧ keepsRegs (fun o => o = IZ_RED_EXCEPT) s (s.takeTo e f x made n b)
      ∧ onlyChanges [.regs, .fl, .arb, .out] s (s.takeTo e f x made n b) := by
  unfold State.takeTo
  obtain ⟨g, y, ws, taken, same, came, outcome, shown, counts, regs, frame⟩ := h.takeUnit made.1 made.2 (f.miscompare x x.wr b n) n b
  dsimp only
  generalize s.takeUnit e f x made.1 made.2 (f.miscompare x x.wr b n) n b = t at taken counts regs frame
  rw [hf] at outcome
  cases hm : f.miscompare x x.wr b n with
  | none =>
    rw [hm] at outcome
    exact ⟨g, y, ws, taken, same, came, outcome, shown, counts, regs, frame⟩
  | some d =>
    rw [hm] at outcome
    obtain ⟨going, -, -, writes, done⟩ := Flight.outcome_eq outcome
    obtain ⟨gq, gi, ge⟩ := same
    obtain ⟨ended, ⟨endQ, endI, endE⟩, endOutcome⟩ := taken.endEntry going stMiscompare d
    have endFrame := onlyChanges_of_same (l := [.fl]) (fun _ hb => State.endEntry_same hb t g.q g.idx stMiscompare d)
    rw [gq, gi] at ended endFrame
    have endRegs : (t.endEntry f.q f.idx stMiscompare d).regs = t.regs := endFrame .regs (by decide)
    refine ⟨_, _, ws, ended, ⟨endQ.trans gq, endI.trans gi, endE.trans ge⟩, ?_, ?_, shown, ?_, ?_, ?_⟩
    · cases g.goesOn d y <;> exact came
    · rw [endOutcome, writes, done]
      rfl
    · exact countsExceptions_congr counts rfl (keepsRegs_of_regs (P := fun _ => False) endRegs _ id)
    · exact regs.trans (keepsRegs_of_regs endRegs)
    · exact frame.trans (endFrame.mono (by simp))

/-- A unit whose checks pass is judged so, with nothing but counts of result blocks changed. -/
theorem State.passesChecks.judgeUnit (h : s.passesChecks f x x.wr x.hi) (hb : f.badOverlap = false) :
    (∃ u, s.judgeUnit f x x.wr x.hi = (u, none) ∧ countsBlocks s u) ∧ s.madeOf f x x.wr x.hi = (s.produce f x x.wr x.hi).2 := by
  obtain ⟨u, out, counted⟩ := h.judgeOut (s.produce f x x.wr x.hi).2.1
  refine ⟨⟨u, ?_, counted⟩, ?_⟩
  · unfold State.judgeUnit
    dsimp only
    rw [h.judgeIn]
    dsimp only
    rw [State.produce_state hb, out]
  · unfold State.madeOf
    rw [h.judgeIn]

/-- What the last unit of a stitch makes of its entry when its checks pass. -/
theorem State.lastUnit.passed (h : s.lastUnit e f x) (hp : s.passesChecks f x x.wr x.hi) (hb : f.badOverlap = false) :
    ∃ t g ws, exec (.stitchEnd e) s = .next t ∧ t.flight? f.q f.idx = some g ∧ g.stitch? e = none
      ∧ g.outcome = ((f.miscompare x x.wr x.hi x.hi).isSome, (f.miscompare x x.wr x.hi x.hi).elim f.status (fun _ => stMiscompare),
          (f.miscompare x x.wr x.hi x.hi).getD f.failOfs, f.writes ++ ws,
          f.done ++ if f.e.writes then [] else [(x.wr, (f.miscompare x x.wr x.hi x.hi).getD x.hi)])
      ∧ ws.map DataWrite.shown = (if f.e.writes then (f.unitRuns x.wr x.hi).map (f.writeAt x.wr (s.produce f x x.wr x.hi).2.1 false) else [])
      ∧ s.countsExceptions (s.produce f x x.wr x.hi).2.2 t := by
  obtain ⟨-, on, flight, -, ready, -, -, ends, -, -, -, -, going, status, -, -⟩ := id h
  obtain ⟨⟨u, judged, counted⟩, made⟩ := hp.judgeUnit hb
  have unit : s.issueUnit f.q f.idx e f x x.hi
      = ((u.arbBusy (s.writeRes f) e).arbBusy 4 e).takeTo e f x (s.produce f x x.wr x.hi).2 x.hi x.hi := by
    rw [State.issueUnit_eq, judged, made]
    rfl
  have busy := (u.arbBusy_onlyChanges (s.writeRes f) e).trans ((u.arbBusy (s.writeRes f) e).arbBusy_onlyChanges 4 e)
  generalize (u.arbBusy (s.writeRes f) e).arbBusy 4 e = w at unit busy
  have held : w.bound e f x := State.bound.of_fl ⟨on, flight⟩ ((busy .fl (by decide)).trans (counted.1 .fl (by decide)))
  obtain ⟨g, y, ws, taken, ⟨gq, gi, -⟩, ⟨wr, hi, yready, yends⟩, outcome, shown, counts, -, frame⟩ :=
    held.takeTo going (s.produce f x x.wr x.hi).2 x.hi x.hi
  rw [← unit] at taken counts frame
  have finished : y.finished := .inr ⟨yready.trans ready, by rw [wr, hi, ite_self]⟩
  have wellFormed : g.status ≠ stMalformed := by
    obtain ⟨-, why, -⟩ := Flight.outcome_eq outcome
    rw [why, status]
    cases f.miscompare x x.wr x.hi x.hi <;> simp [stMiscompare, stOk, stMalformed]
  have queues : (s.issueUnit f.q f.idx e f x x.hi).q = s.q :=
    (frame .q (by decide)).trans ((busy .q (by decide)).trans (counted.1 .q (by decide)))
  obtain ⟨t, k, run, flight', noStitch, same, quiet⟩ := h.stitchEnd taken ⟨gq, gi⟩ finished (yends.trans ends) wellFormed queues
  have row : ¬ endRow IZ_RED_EXCEPT := by
    unfold endRow
    decide
  have before : w.reg IZ_RED_EXCEPT = s.reg IZ_RED_EXCEPT :=
    (keepsRegs_of_regs (P := fun _ => False) (busy .regs (by decide)) _ id).trans (counted.2 _ (by
      rintro ⟨n, -, row⟩
      unfold IZ_RED_EXCEPT IZ_RED_STATE at row
      omega))
  exact ⟨t, k, ws, run, flight', noStitch, same.trans outcome, shown,
    countsExceptions_congr counts before (quiet.regs _ row)⟩

/-- A COMPARE finds its first difference within the unit. -/
theorem Flight.miscompare_whole {f : Flight} (h : f.e.isCompare = true) (x : Stitch) (a b : Nat) : f.miscompare x a b b = f.firstDiff x a b := by
  unfold Flight.miscompare
  rw [if_pos h]
  cases hd : f.firstDiff x a b with
  | none => rfl
  | some d => simp [Option.filter, Flight.firstDiff_lt h hd]

theorem Flight.miscompare_other {f : Flight} (h : f.e.isCompare = false) (x : Stitch) (a b n : Nat) : f.miscompare x a b n = none := by
  unfold Flight.miscompare
  rw [h]
  rfl

theorem Entry.writes_judged {e : Entry} (h : e.writes = true) : e.isCompare = false ∧ e.isCheck = false := by
  simp only [Entry.writes, Bool.and_eq_true, Bool.not_eq_true'] at h
  exact ⟨h.1.2, h.2⟩

theorem Entry.isCheck_only {e : Entry} (h : e.isCheck = true) : e.isCompare = false ∧ e.writes = false := by
  have op : e.opcode = 0x05 := of_decide_eq_true h
  exact ⟨by simp [Entry.isCompare, op], by simp [Entry.writes, h]⟩

end

end Sys2Proof.Machine

open Sys2Proof Sys2Proof.Machine

/-- Settles O18: the unit passes every hop, is taken up, and its stitch ends with nothing else changed of its entry. -/
theorem lastUnitIsJudgedAndIssued : Obligations.LastUnitIsJudgedAndIssued := by
  intro e s f x h hp hb
  obtain ⟨t, g, ws, run, flight, noStitch, outcome, shown, counts⟩ := h.passed hp hb
  obtain ⟨ended, status, failOfs, writes, done⟩ := Flight.outcome_eq outcome
  refine ⟨t, g, run, flight, noStitch, fun hw => ?_, fun hc => ?_, fun hc => ?_, counts⟩
  · rw [Flight.miscompare_other (Entry.writes_judged hw).1] at ended
    rw [hw, if_pos rfl] at shown
    exact ⟨ended, by rw [writes, List.map_append, shown]⟩
  · have noWrite : f.e.writes = false := by simp [Entry.writes, hc]
    rw [Flight.miscompare_whole hc] at ended status failOfs done
    rw [noWrite] at done
    cases hd : f.firstDiff x x.wr x.hi with
    | none =>
      rw [hd] at ended done
      exact ⟨ended, done⟩
    | some d =>
      rw [hd] at ended status failOfs done
      exact ⟨ended, status, failOfs, done⟩
  · obtain ⟨noCompare, noWrite⟩ := Entry.isCheck_only hc
    rw [Flight.miscompare_other noCompare] at ended done
    rw [noWrite] at done
    exact ⟨ended, done⟩
end

section
/-!
PROOFS. A failed check: what is counted and recorded of it (R218, R222, R231).
-/
namespace Sys2Proof.Machine

/-! ## What is recorded, and what leaves it alone -/

/-- Failed check `c` of entry `i` of queue `q`, no T10 one, is recorded between `s` and `t` (R222, R231). -/
structure recordsCheck (q i : Nat) (c : ChkFail) (s t : State) : Prop where
  port : t.f IZ_CHK_STAT_port_fail = satAdd IZ_CHK_STAT_port_fail.w (s.f IZ_CHK_STAT_port_fail) (b2n (decide (c.hop ≤ 2)))
  chk : t.f IZ_CHK_STAT_chk_fail = satAdd IZ_CHK_STAT_chk_fail.w (s.f IZ_CHK_STAT_chk_fail) (b2n (!decide (c.hop ≤ 2)))
  qid : t.f IZ_CHK_LAST_qid = q
  hop : t.f IZ_CHK_LAST_hop = c.hop
  index : t.f IZ_CHK_LAST_index = i
  ofs : t.f IZ_CHK_LAST_OFS_ofs = c.ofs
  status : t.f IZ_CHK_LAST_OFS_status = c.status
  source : t.f (IC_CNT_count (if c.hop ≤ 2 then 40 else 39)) = min 255 (s.f (IC_CNT_count (if c.hop ≤ 2 then 40 else 39)) + 1)
  record : t.f (ERR_COUNT_count 1) = satAdd (ERR_COUNT_count 1).w (s.f (ERR_COUNT_count 1)) 1

/-- The registers of failed checks, the counts of events but two, and the count of error records of class 1 stay as they are. -/
structure keepsChecks (s t : State) : Prop where
  stat : t.reg IZ_CHK_STAT = s.reg IZ_CHK_STAT
  last : t.reg IZ_CHK_LAST = s.reg IZ_CHK_LAST
  ofs : t.reg IZ_CHK_LAST_OFS = s.reg IZ_CHK_LAST_OFS
  counts : ∀ m, m < 1024 → m ≠ 46 → m ≠ 54 → t.f (IC_CNT_count m) = s.f (IC_CNT_count m)
  errors : t.reg (ERR_COUNT 1) = s.reg (ERR_COUNT 1)

theorem keepsChecks.trans {s t u : State} (h : keepsChecks s t) (k : keepsChecks t u) : keepsChecks s u :=
  ⟨k.stat.trans h.stat, k.last.trans h.last, k.ofs.trans h.ofs, fun m h1 h2 h3 => (k.counts m h1 h2 h3).trans (h.counts m h1 h2 h3),
    k.errors.trans h.errors⟩

theorem keepsChecks.of_regs {s t : State} (h : t.regs = s.regs) : keepsChecks s t := by
  have all := fun o => keepsRegs_of_regs (P := fun _ => False) h o id
  exact ⟨all _, all _, all _, fun _ _ _ _ => State.f_of_regs h _, all _⟩

theorem endsQuietly.keepsChecks {s t : State} (h : endsQuietly s t) : keepsChecks s t := by
  have row : ¬ endRow IZ_CHK_STAT ∧ ¬ endRow IZ_CHK_LAST ∧ ¬ endRow IZ_CHK_LAST_OFS := by
    unfold endRow
    decide
  exact ⟨h.regs _ row.1, h.regs _ row.2.1, h.regs _ row.2.2, h.counts, h.errors⟩

/-- A register word that does not stand for checks, events or error records. -/
def otherRow (o : Nat) : Prop := ¬ icReg o ∧ ¬ errReg o ∧ o ≠ IZ_CHK_STAT ∧ o ≠ IZ_CHK_LAST ∧ o ≠ IZ_CHK_LAST_OFS

theorem keepsChecks.of_row {s t : State} {d : Nat} (h : keepsRegs (fun o => o = d) s t) (hd : otherRow d) : keepsChecks s t := by
  obtain ⟨ic, err, stat, last, ofs⟩ := hd
  refine ⟨h _ (Ne.symm stat), h _ (Ne.symm last), h _ (Ne.symm ofs), fun m hm _ _ => State.f_of_reg _ (h (IC_CNT m) ?_), h _ ?_⟩
  · rintro rfl
    exact ic (by unfold icReg IC_CNT; omega)
  · rintro rfl
    exact err (by decide)

theorem recordsCheck.congr {q i : Nat} {c : ChkFail} {s s' t t' : State} (h : recordsCheck q i c s t) (hs : keepsChecks s' s)
    (ht : keepsChecks t t') : recordsCheck q i c s' t' := by
  have stat := fun (d : Fld) (k : d.ofs = IZ_CHK_STAT) => State.f_of_reg (t := s) (s := s') d (by rw [k]; exact hs.stat)
  have stat' := fun (d : Fld) (k : d.ofs = IZ_CHK_STAT) => State.f_of_reg (t := t') (s := t) d (by rw [k]; exact ht.stat)
  have last' := fun (d : Fld) (k : d.ofs = IZ_CHK_LAST) => State.f_of_reg (t := t') (s := t) d (by rw [k]; exact ht.last)
  have ofs' := fun (d : Fld) (k : d.ofs = IZ_CHK_LAST_OFS) => State.f_of_reg (t := t') (s := t) d (by rw [k]; exact ht.ofs)
  have source : (if c.hop ≤ 2 then 40 else 39) < 1024 ∧ (if c.hop ≤ 2 then 40 else 39) ≠ 46 ∧ (if c.hop ≤ 2 then 40 else 39) ≠ 54 := by
    split_ifs <;> decide
  have errors := State.f_of_reg (t := s) (s := s') (ERR_COUNT_count 1) hs.errors
  have errors' := State.f_of_reg (t := t') (s := t) (ERR_COUNT_count 1) ht.errors
  exact
    { port := by rw [stat' _ rfl, h.port, stat _ rfl]
      chk := by rw [stat' _ rfl, h.chk, stat _ rfl]
      qid := by rw [last' _ rfl, h.qid]
      hop := by rw [last' _ rfl, h.hop]
      index := by rw [last' _ rfl, h.index]
      ofs := by rw [ofs' _ rfl, h.ofs]
      status := by rw [ofs' _ rfl, h.status]
      source := by rw [ht.counts _ source.1 source.2.1 source.2.2, h.source, hs.counts _ source.1 source.2.1 source.2.2]
      record := by rw [errors', h.record, errors] }

/-! ## A failed check is noted -/

/-- The fields that name a failed check can hold it (R231). -/
structure ChkFail.fits (c : ChkFail) (q i : Nat) : Prop where
  queue : q < 2 ^ 22
  entry : i < 2 ^ 32
  ofs : c.ofs < 2 ^ 48
  hop : c.hop < 2 ^ 3
  status : c.status < 2 ^ 8

/-- Where no failure of this cycle is recorded, one goes behind the last. -/
theorem State.chkLater_first {s : State} (h : ∀ y, s.err.chk = some y → y.cycle ≠ s.tb.cycle) (q : Nat) (i : W32) (fold : Bool) :
    s.chkLater q i fold = true := by
  unfold State.chkLater
  split
  · rfl
  · next y hy => simp [h y hy]

/-- IZ_CHK_LAST and IZ_CHK_LAST_OFS name the failed check. -/
theorem State.showChk_spec {s : State} {q i : Nat} {c : ChkFail} {fold : Bool} (hl : s.chkLater q (BitVec.ofNat 32 i) fold = true)
    (hc : c.fits q i) : ((s.showChk q i c fold).f IZ_CHK_LAST_qid = q ∧ (s.showChk q i c fold).f IZ_CHK_LAST_hop = c.hop
      ∧ (s.showChk q i c fold).f IZ_CHK_LAST_index = i ∧ (s.showChk q i c fold).f IZ_CHK_LAST_OFS_ofs = c.ofs
      ∧ (s.showChk q i c fold).f IZ_CHK_LAST_OFS_status = c.status)
      ∧ keepsRegs (fun o => o = IZ_CHK_LAST ∨ o = IZ_CHK_LAST_OFS) s (s.showChk q i c fold)
      ∧ onlyChanges [.regs, .err] s (s.showChk q i c fold) := by
  have named : ∀ (v : ErrState) (t : State) (d : Fld), (t.withErr v).f d = t.f d := fun _ _ _ => rfl
  refine ⟨?_, ?_, onlyChanges_of_same (fun _ hb => State.showChk_same hb s q i c fold)⟩ <;> unfold State.showChk <;> rw [if_pos hl] <;>
    dsimp only
  · refine ⟨?_, ?_, ?_, ?_, ?_⟩ <;> rw [named]
    · rw [State.f_setF_ne _ _ _ _ (by decide) (by decide), State.f_setF_ne _ _ _ _ (by decide) (by decide),
        State.f_setF_ne _ _ _ _ (by decide) (by decide), State.f_setF_ne _ _ _ _ (by decide) (by decide), State.f_setF_self _ _ _ (by decide)]
      exact Nat.mod_eq_of_lt hc.queue
    · rw [State.f_setF_ne _ _ _ _ (by decide) (by decide), State.f_setF_ne _ _ _ _ (by decide) (by decide),
        State.f_setF_ne _ _ _ _ (by decide) (by decide), State.f_setF_self _ _ _ (by decide)]
      exact Nat.mod_eq_of_lt hc.hop
    · rw [State.f_setF_ne _ _ _ _ (by decide) (by decide), State.f_setF_ne _ _ _ _ (by decide) (by decide), State.f_setF_self _ _ _ (by decide)]
      exact Nat.mod_eq_of_lt hc.entry
    · rw [State.f_setF_ne _ _ _ _ (by decide) (by decide), State.f_setF_self _ _ _ (by decide)]
      exact Nat.mod_eq_of_lt hc.ofs
    · rw [State.f_setF_self _ _ _ (by decide)]
      exact Nat.mod_eq_of_lt hc.status
  · have row := fun (t : State) (d : Fld) (n : Nat) (hd : d.ofs = IZ_CHK_LAST ∨ d.ofs = IZ_CHK_LAST_OFS) =>
      (t.setF_keepsRegs d n).mono (Q := fun o => o = IZ_CHK_LAST ∨ o = IZ_CHK_LAST_OFS) (fun o ho => by rwa [ho])
    exact ((((row s IZ_CHK_LAST_qid _ (.inl rfl)).trans (row _ IZ_CHK_LAST_hop _ (.inl rfl))).trans
      (row _ IZ_CHK_LAST_index _ (.inl rfl))).trans (row _ IZ_CHK_LAST_OFS_ofs _ (.inr rfl))).trans
      ((row _ IZ_CHK_LAST_OFS_status _ (.inr rfl)).trans (fun o _ => State.reg_withErr _ _ o))

/-- The register words that noting a failed check changes. -/
def noteRow (o : Nat) : Prop := o = IZ_CHK_STAT ∨ o = IZ_CHK_LAST ∨ o = IZ_CHK_LAST_OFS ∨ icReg o ∨ errReg o

/-- The count that a failed check, no T10 one, adds to. -/
def ChkFail.stat (c : ChkFail) : Fld := if c.hop ≤ 2 then IZ_CHK_STAT_port_fail else IZ_CHK_STAT_chk_fail

/-- Adding nothing to a field that saturates leaves its value. -/
theorem State.satAdd_zero (s : State) (d : Fld) : satAdd d.w (s.f d) 0 = s.f d := by
  have := s.f_lt d
  unfold satAdd
  omega

theorem State.cnt_stat (s : State) (c : ChkFail) :
    (s.cnt c.stat).f IZ_CHK_STAT_port_fail
        = satAdd IZ_CHK_STAT_port_fail.w (s.f IZ_CHK_STAT_port_fail) (b2n (decide (c.hop ≤ 2)))
      ∧ (s.cnt c.stat).f IZ_CHK_STAT_chk_fail
        = satAdd IZ_CHK_STAT_chk_fail.w (s.f IZ_CHK_STAT_chk_fail) (b2n (!decide (c.hop ≤ 2)))
      ∧ keepsRegs (fun o => o = IZ_CHK_STAT) s (s.cnt c.stat) := by
  unfold ChkFail.stat
  by_cases h : c.hop ≤ 2
  · rw [if_pos h, decide_eq_true h]
    refine ⟨State.f_cnt_self _ _ (by decide), ?_, s.setF_keepsRegs IZ_CHK_STAT_port_fail _⟩
    rw [State.f_cnt_ne _ _ _ (by decide) (by decide)]
    exact (s.satAdd_zero _).symm
  · rw [if_neg h, decide_eq_false h]
    refine ⟨?_, State.f_cnt_self _ _ (by decide), s.setF_keepsRegs IZ_CHK_STAT_chk_fail _⟩
    rw [State.f_cnt_ne _ _ _ (by decide) (by decide)]
    exact (s.satAdd_zero _).symm

theorem State.noteFail_eq {s : State} {q i cfg : Nat} {c : ChkFail} {fold : Bool} (hp : c.isPi = false) :
    s.noteFail q i cfg c fold
      = (((s.cnt c.stat).showChk q i c fold).log 0x10 1 q (c.hop + c.status * 256) i c.ofs).raise (if c.hop ≤ 2 then 40 else 39) := by
  unfold State.noteFail ChkFail.stat
  simp only [hp, Bool.false_eq_true, if_false, Bool.not_false, Bool.true_or, if_true]
  split_ifs <;> rfl

/-- A failed check, no T10 one, is counted, recorded, logged and raised. -/
theorem State.noteFail_spec {s : State} {q i : Nat} {c : ChkFail} (cfg : Nat) (hp : c.isPi = false) (hh : s.pair.hard = false)
    (hl : ∀ y, s.err.chk = some y → y.cycle ≠ s.tb.cycle) (hc : c.fits q i) :
    recordsCheck q i c s (s.noteFail q i cfg c) ∧ keepsRegs noteRow s (s.noteFail q i cfg c)
      ∧ onlyChanges [.regs, .ic, .err, .out] s (s.noteFail q i cfg c) := by
  have frame : onlyChanges [.regs, .ic, .err, .out] s (s.noteFail q i cfg c) :=
    onlyChanges_of_same (fun _ hb => State.noteFail_same hb s q i cfg c false)
  rw [State.noteFail_eq hp] at frame ⊢
  obtain ⟨port, chk, counted⟩ := s.cnt_stat c
  have countFrame := onlyChanges_of_same (l := [.regs]) (fun _ hb => State.cnt_same hb s c.stat)
  generalize s.cnt c.stat = u at frame port chk counted countFrame
  have err : u.err = s.err := countFrame .err (by decide)
  have tb : u.tb = s.tb := countFrame .tb (by decide)
  obtain ⟨⟨qid, hop, index, ofs, status⟩, shown, showFrame⟩ :=
    State.showChk_spec (u.chkLater_first (by rw [err, tb]; exact hl) q (BitVec.ofNat 32 i) false) hc
  generalize u.showChk q i c false = v at frame qid hop index ofs status shown showFrame
  have hard : v.pair.hard = false := by
    rw [showFrame .pair (by decide), countFrame .pair (by decide)]
    exact hh
  have logged := fun o (ho : ¬ errReg o) => v.log_reg 0x10 1 q (c.hop + c.status * 256) i c.ofs o (by decide) ho
  have logCount := v.log_count hard 0x10 1 1 q (c.hop + c.status * 256) i c.ofs (by decide) (by decide)
  generalize v.log 0x10 1 q (c.hop + c.status * 256) i c.ofs = w at frame logged logCount
  have source : (if c.hop ≤ 2 then 40 else 39) < 1024 ∧ (if c.hop ≤ 2 then 40 else 39) ≠ 0 := by split_ifs <;> decide
  generalize hn : (if c.hop ≤ 2 then 40 else 39) = n at frame source ⊢
  have raised := fun o (ho : ¬ icReg o) => w.raise_reg n o source.1 ho
  have sum := w.f_raise_count n source.1 source.2
  generalize w.raise n = t at frame raised sum
  -- a field that neither the log nor the event changes
  have kept : ∀ d : Fld, ¬ icReg d.ofs → ¬ errReg d.ofs → t.f d = v.f d := fun d h1 h2 =>
    State.f_of_reg d ((raised _ h1).trans (logged _ h2))
  have before : v.f (IC_CNT_count n) = s.f (IC_CNT_count n) := by
    refine State.f_of_reg _ ((shown _ ?_).trans (counted _ ?_))
    · show ¬ (IC_CNT n = IZ_CHK_LAST ∨ IC_CNT n = IZ_CHK_LAST_OFS)
      unfold IC_CNT IZ_CHK_LAST IZ_CHK_LAST_OFS
      omega
    · show IC_CNT n ≠ IZ_CHK_STAT
      unfold IC_CNT IZ_CHK_STAT
      omega
  have notErr : ¬ errReg (IC_CNT_count n).ofs := by
    show ¬ errReg (IC_CNT n)
    unfold errReg IC_CNT
    omega
  have errors : v.f (ERR_COUNT_count 1) = s.f (ERR_COUNT_count 1) :=
    State.f_of_reg _ ((shown _ (by decide)).trans (counted _ (by decide)))
  refine ⟨{ port := ?_, chk := ?_, qid := ?_, hop := ?_, index := ?_, ofs := ?_, status := ?_, source := ?_, record := ?_ }, ?_, frame⟩
  · rw [kept _ (by decide) (by decide), State.f_of_reg IZ_CHK_STAT_port_fail (shown IZ_CHK_STAT (by decide)), port]
  · rw [kept _ (by decide) (by decide), State.f_of_reg IZ_CHK_STAT_chk_fail (shown IZ_CHK_STAT (by decide)), chk]
  · rw [kept _ (by decide) (by decide), qid]
  · rw [kept _ (by decide) (by decide), hop]
  · rw [kept _ (by decide) (by decide), index]
  · rw [kept _ (by decide) (by decide), ofs]
  · rw [kept _ (by decide) (by decide), status]
  · rw [hn, sum, State.f_of_reg _ (logged _ notErr), before]
  · rw [State.f_of_reg (ERR_COUNT_count 1) (raised (ERR_COUNT 1) (by decide)), State.f_of_reg (ERR_COUNT_count 1) logCount,
      State.f_cnt_self _ _ (by decide), errors]
  · intro o ho
    simp only [noteRow, not_or] at ho
    obtain ⟨stat, last, lastOfs, ic, err⟩ := ho
    rw [raised o ic, logged o err, shown o (by simp [last, lastOfs]), counted o stat]

end Sys2Proof.Machine
end

section
/-!
PROOFS. The last unit of a copying stitch, with a check that fails; an injection that is armed (R214, R216, R218 to R222, R232).
-/
namespace Sys2Proof.Machine

/-! ## The judgement of one check block (R214, R216) -/

/-- The entry copies bytes without protection information: it writes, and neither reduces nor fills. -/
structure Entry.copies (e : Entry) : Prop where
  writes : e.writes = true
  red : e.isRed = false
  fill : e.isFill = false
  pi : e.piOp = 0

theorem Entry.copies.readers {e : Entry} (h : e.copies) : e.readers = 1 := by
  have noList : e.hasList = false := by
    have := h.red
    rw [Entry.isRed, Bool.or_eq_false_iff] at this
    exact this.1
  unfold Entry.readers Entry.nsrc
  rw [h.fill, (Entry.writes_judged h.writes).1, noList]
  rfl

theorem runs_zero (l : List Frag) (o : Nat) : runs l o 0 = [] := rfl

theorem Flight.unitRuns_self (f : Flight) (a : Nat) : f.unitRuns a a = [] := by
  unfold Flight.unitRuns
  rw [Nat.sub_self, runs_zero]
  rfl

/-- The failed check of the one block that a unit consists of: POISON at the in-hop or CHK at the out-hop. -/
def Entry.blockFail (e : Entry) (x : Stitch) (bad : Bool) : ChkFail :=
  { hop := if bad then e.srcSpace else 4 + e.dstSpace, status := if bad then stPoison else stChk, ofs := x.wr, till := x.hi, sound := x.wr }

theorem Entry.blockFail_kind (e : Entry) (x : Stitch) (bad : Bool) : (e.blockFail x bad).isPi = false ∧ (e.blockFail x bad).status < 2 ^ 8
    ∧ (e.blockFail x bad).status ≠ stMalformed := by
  cases bad <;> simp [Entry.blockFail, ChkFail.isPi, stPoison, stChk, stPiGuard, stPiRef, stPiApp, stMalformed]

section
variable {s : State} {e : Nat} {f : Flight} {x : Stitch}

theorem Flight.oneBlock (hc : f.e.copies) (hx : x.wr < x.hi) (hu : f.unitEnd x.wr x.hi = x.hi) : cuts 512 x.wr x.hi = [(x.wr, x.hi)] := by
  unfold Flight.unitEnd at hu
  rw [hc.pi, if_neg (by simp)] at hu
  exact cuts_single hx (min_eq_left_iff.mp hu)

/-- A block with a byte that arrived damaged fails at its in-hop. -/
theorem State.judgeIn_damaged (hi : s.fb IZ_CHK_INJ_armed = false) (hc : f.e.copies) (hb : cuts 512 x.wr x.hi = [(x.wr, x.hi)])
    (bad : anyBad (f.stagedFor x 0 x.wr x.hi) = true) : s.judgeIn f x x.wr x.hi = (s, some (f.e.blockFail x true)) := by
  have reader : (f.reader 0).1 = .src := by simp [Flight.reader]
  have first : (List.range f.e.readers).foldl (State.readerHop f x (x.wr, x.hi)) (s, none)
      = (s, some { hop := inHop f.e.srcSpace, status := stPoison, ofs := x.wr, till := x.hi, sound := x.wr }) := by
    rw [hc.readers]
    show State.readerHop f x (x.wr, x.hi) (s, none) 0 = _
    rw [State.readerHop_unarmed hi, bad, reader]
    rfl
  unfold State.judgeIn
  rw [hb, State.inHops_cons, first]
  dsimp only
  rw [hc.red, hc.writes]
  rfl

/-- A block whose bytes arrived sound passes its in-hop. -/
theorem State.judgeIn_sound (hi : s.fb IZ_CHK_INJ_armed = false) (hc : f.e.copies) (hb : cuts 512 x.wr x.hi = [(x.wr, x.hi)])
    (sound : anyBad (f.stagedFor x 0 x.wr x.hi) = false) : s.judgeIn f x x.wr x.hi = (s, none) := by
  have passed : s.inHops f x (cuts 512 x.wr x.hi) = (s, none) := State.inHops_passed hi (fun c hcut k hk => by
    rw [hb, List.mem_singleton] at hcut
    rw [hc.readers, Nat.lt_one_iff] at hk
    rw [hcut, hk]
    exact sound)
  have noTuple : f.piCheck x x.wr x.hi = none := by
    unfold Flight.piCheck
    rw [if_neg (by simp [hc.pi])]
  unfold State.judgeIn
  rw [passed]
  dsimp only
  rw [noTuple]

/-- A block that its CRC does not match fails at its out-hop. -/
theorem State.judgeOut_mismatch (hi : s.fb IZ_CHK_INJ_armed = false) (hc : f.e.copies) (hb : cuts 512 x.wr x.hi = [(x.wr, x.hi)])
    (crc : x.heldSum 0 x.wr ≠ BitVec.ofNat 32 (crc32c (f.blockBytes x 0 x.wr x.hi))) (bytes : List Byte) :
    s.judgeOut f x x.wr x.hi bytes = (s, some (f.e.blockFail x false)) := by
  have leaves : s.leaveHop f x x.wr bytes (x.wr, x.hi) = (s, true) := by
    unfold State.leaveHop
    dsimp only
    rw [hc.red, hc.fill, Bool.or_false, if_neg Bool.false_ne_true, State.verify_unarmed hi]
    simp [Ne.symm crc]
  have fails : s.crossAll (outHop f.e.dstSpace) stChk (fun s c => s.leaveHop f x x.wr bytes c) [(x.wr, x.hi)]
      = (s, some (f.e.blockFail x false)) := by
    unfold State.crossAll
    rw [leaves]
    rfl
  unfold State.judgeOut Entry.outBlocks
  dsimp only
  rw [hc.red, hc.fill, hc.writes, hb]
  simp only [Bool.false_eq_true, if_false, if_true]
  rw [fails]

/-- The judgement of a unit of one block that fails. -/
theorem State.judgeUnit_fails (hi : s.fb IZ_CHK_INJ_armed = false) (hc : f.e.copies) (hb : cuts 512 x.wr x.hi = [(x.wr, x.hi)])
    (h : anyBad (f.stagedFor x 0 x.wr x.hi) = true ∨ x.heldSum 0 x.wr ≠ BitVec.ofNat 32 (crc32c (f.blockBytes x 0 x.wr x.hi))) :
    s.judgeUnit f x x.wr x.hi = (s, some (f.e.blockFail x (anyBad (f.stagedFor x 0 x.wr x.hi))))
      ∧ s.madeOf f x x.wr x.hi = (s.produce f x x.wr x.hi).2 := by
  have noOverlap : f.badOverlap = false := by
    unfold Flight.badOverlap
    dsimp only
    rw [hc.red]
    rfl
  unfold State.judgeUnit State.madeOf
  dsimp only
  cases bad : anyBad (f.stagedFor x 0 x.wr x.hi) with
  | true =>
    rw [State.judgeIn_damaged hi hc hb bad]
    dsimp only
    rw [State.produce_state noOverlap]
    exact ⟨rfl, rfl⟩
  | false =>
    rw [State.judgeIn_sound hi hc hb bad]
    dsimp only
    rw [State.produce_state noOverlap, State.judgeOut_mismatch hi hc hb (h.resolve_left (by simp [bad]))]
    exact ⟨rfl, rfl⟩

/-! ## The failure's consequences (R218, R219, R421) -/

/-- With no check limit set a failure is at most counted against its engine. -/
theorem State.chargeFail_spec (hl : s.f SPR_POLICY_chk_limit = 0) (he : e < 68) {c : ChkFail} (hc : c.hop ≠ 3) :
    keepsRegs (fun o => o = SPR_ENG_HEALTH e) s (s.chargeFail e c) ∧ onlyChanges [.regs] s (s.chargeFail e c) := by
  unfold State.chargeFail
  rw [if_neg hc, if_pos he]
  split_ifs
  · exact ⟨keepsRegs.refl _ s, onlyChanges.refl _ s⟩
  · have regs : keepsRegs (fun o => o = SPR_ENG_HEALTH e) s (s.cnt (SPR_ENG_HEALTH_chk e)) := s.setF_keepsRegs (SPR_ENG_HEALTH_chk e) _
    have frame := onlyChanges_of_same (l := [.regs]) (fun _ hb => State.cnt_same hb s (SPR_ENG_HEALTH_chk e))
    have row : SPR_POLICY ≠ SPR_ENG_HEALTH e := by
      unfold SPR_POLICY SPR_ENG_HEALTH
      omega
    unfold State.chargeEng
    dsimp only
    generalize s.cnt (SPR_ENG_HEALTH_chk e) = t at regs frame
    have limit : t.f SPR_POLICY_chk_limit = 0 := (State.f_of_reg SPR_POLICY_chk_limit (regs SPR_POLICY row)).trans hl
    rw [if_neg (fun k => k.1 limit)]
    exact ⟨regs, frame⟩

/-- The writes of a block whose check failed: none, or poisoned ones. -/
theorem State.bound.poisonWrites (h : s.bound e f x) {f₀ : Flight} (hf : f.sameEntry f₀) (on : Bool) (a : Nat) (bytes : List Byte)
    (b c : Nat) : ∃ g ws, (if on then s.issueBytes f₀.q f₀.idx f₀ e a bytes true b c else s).bound e g x ∧ g.sameEntry f₀
      ∧ g.outcome = (f.ended, f.status, f.failOfs, f.writes ++ ws, f.done)
      ∧ ws.map DataWrite.shown = (if on then (f₀.unitRuns b c).map (f₀.writeAt a bytes true) else [])
      ∧ onlyChanges [.fl, .arb, .out] s (if on then s.issueBytes f₀.q f₀.idx f₀ e a bytes true b c else s) := by
  cases on with
  | false => exact ⟨f, [], h, hf, by rw [List.append_nil]; rfl, rfl, onlyChanges.refl _ s⟩
  | true =>
    obtain ⟨ws, n, after, shown⟩ := State.issueBytes_spec h hf e a bytes true b c
    exact ⟨_, ws, after, hf, rfl, shown, onlyChanges_of_same (fun _ hb => State.issueBytes_same hb ..)⟩

/-- What a failed check leaves of a stitch of an entry that writes. -/
theorem State.bound.failUnit (h : s.bound e f x) (he : e < 68) {f₀ : Flight} (hf : f.sameEntry f₀) (hw : f₀.e.writes = true)
    (going : f.ended = false) (hl : s.f SPR_POLICY_chk_limit = 0) (hh : s.pair.hard = false)
    (fresh : ∀ y, s.err.chk = some y → y.cycle ≠ s.tb.cycle) {c : ChkFail} (pi : c.isPi = false) (hop : c.hop ≠ 3)
    (fits : c.fits f₀.q f₀.idx.toNat) (z : Stitch) (bytes : List Byte) (b : Nat) :
    ∃ g y ws, (s.failUnit e f₀ z bytes b c).bound e g y ∧ g.sameEntry f₀ ∧ y.stop = true ∧ y.ends = x.ends
      ∧ g.outcome = (true, c.status, c.ofs, f.writes ++ ws, f.done)
      ∧ ws.map DataWrite.shown = (if bit f₀.chkCfg 0 then (f₀.unitRuns c.ofs (min c.till b)).map (f₀.writeAt z.wr bytes true) else [])
      ∧ recordsCheck f₀.q f₀.idx.toNat c s (s.failUnit e f₀ z bytes b c) ∧ (s.failUnit e f₀ z bytes b c).q = s.q := by
  obtain ⟨fq, fi, fe⟩ := id hf
  obtain ⟨recorded, noted, noteFrame⟩ := State.noteFail_spec f₀.chkCfg pi hh fresh fits
  unfold State.failUnit
  dsimp only
  generalize s.noteFail f₀.q f₀.idx.toNat f₀.chkCfg c = t at recorded noted noteFrame
  have limit : t.f SPR_POLICY_chk_limit = 0 := by
    refine (State.f_of_reg SPR_POLICY_chk_limit (noted SPR_POLICY ?_)).trans hl
    unfold noteRow
    decide
  -- the entry ends and its stitch stops
  obtain ⟨ended, ⟨endQ, endI, endE⟩, endOutcome⟩ := (h.of_fl (noteFrame .fl (by decide))).endEntry going c.status c.ofs
  have endFrame := onlyChanges_of_same (l := [.fl]) (fun _ hb => State.endEntry_same hb t f.q f.idx c.status c.ofs)
  have stops : f.goesOn c.ofs x = false := by
    obtain ⟨noCompare, noCheck⟩ := Entry.writes_judged hw
    unfold Flight.goesOn
    rw [fe, noCompare, noCheck]
    rfl
  rw [fq, fi] at ended endFrame
  rw [stops, if_neg Bool.false_ne_true] at ended
  generalize f.endingAt c.status c.ofs = g at ended endQ endI endE endOutcome
  generalize t.endEntry f₀.q f₀.idx c.status c.ofs = u at ended endFrame
  -- its block may be written poisoned
  rw [hw, Bool.true_and]
  obtain ⟨k, ws, written, same, outcome, shown, writeFrame⟩ :=
    ended.poisonWrites ⟨endQ.trans fq, endI.trans fi, endE.trans fe⟩ (bit f₀.chkCfg 0) z.wr bytes c.ofs (min c.till b)
  generalize (if bit f₀.chkCfg 0 then u.issueBytes f₀.q f₀.idx f₀ e z.wr bytes true c.ofs (min c.till b) else u) = v at written writeFrame
  have regs : v.regs = t.regs := (writeFrame .regs (by decide)).trans (endFrame .regs (by decide))
  obtain ⟨charged, chargeFrame⟩ := State.chargeFail_spec (s := v) ((State.f_of_regs regs _).trans limit) he hop
  generalize v.chargeFail e c = w at charged chargeFrame
  obtain ⟨isEnded, isStatus, isOfs, isWrites, isDone⟩ := Flight.outcome_eq endOutcome
  rw [isEnded, isStatus, isOfs, isWrites, isDone] at outcome
  have row : otherRow (SPR_ENG_HEALTH e) := by
    unfold otherRow icReg errReg SPR_ENG_HEALTH IZ_CHK_STAT IZ_CHK_LAST IZ_CHK_LAST_OFS
    omega
  refine ⟨k, _, ws, written.of_fl (chargeFrame .fl (by decide)), same, rfl, rfl, outcome, shown, ?_, ?_⟩
  · exact recorded.congr (.of_regs rfl) ((keepsChecks.of_regs regs).trans (.of_row charged row))
  · exact (chargeFrame .q (by decide)).trans ((writeFrame .q (by decide)).trans ((endFrame .q (by decide)).trans (noteFrame .q (by decide))))

/-- The last unit of a copying stitch, one check block that fails. -/
theorem State.lastUnit.failed (h : s.lastUnit e f x) (hc : f.e.copies) (hq : f.q < 2 ^ 22) (hx : x.hi < 2 ^ 48) (hsrc : f.e.srcSpace ≤ 2)
    (hdst : f.e.dstSpace ≤ 2) (hi : s.fb IZ_CHK_INJ_armed = false) (hl : s.f SPR_POLICY_chk_limit = 0) (hh : s.pair.hard = false)
    (fresh : ∀ y, s.err.chk = some y → y.cycle ≠ s.tb.cycle) {bad : Bool} (hbad : bad = anyBad (f.stagedFor x 0 x.wr x.hi))
    (fails : bad = true ∨ x.heldSum 0 x.wr ≠ BitVec.ofNat 32 (crc32c (f.blockBytes x 0 x.wr x.hi))) :
    ∃ t g ws, exec (.stitchEnd e) s = .next t ∧ t.flight? f.q f.idx = some g
      ∧ g.outcome = (true, if bad then stPoison else stChk, x.wr, f.writes ++ ws, f.done)
      ∧ ws.map DataWrite.shown
          = (if bit f.chkCfg 0 then (f.unitRuns x.wr x.hi).map (f.writeAt x.wr (s.produce f x x.wr x.hi).2.1 true) else [])
      ∧ recordsCheck f.q f.idx.toNat (f.e.blockFail x bad) s t := by
  obtain ⟨he, on, flight, -, -, -, -, ends, left, whole, -, -, going, -, -, -⟩ := id h
  obtain ⟨judged, made⟩ := State.judgeUnit_fails hi hc (Flight.oneBlock hc left whole) (hbad ▸ fails)
  rw [← hbad] at judged
  have sound : min (f.e.blockFail x bad).sound x.hi = x.wr := min_eq_left left.le
  have unit : s.issueUnit f.q f.idx e f x x.hi
      = (((s.arbBusy (s.writeRes f) e).arbBusy 4 e).takeTo e f x (s.produce f x x.wr x.hi).2 x.wr x.hi).failUnit e f x
        (s.produce f x x.wr x.hi).2.1 x.hi (f.e.blockFail x bad) := by
    rw [State.issueUnit_eq, judged, made]
    unfold issueJudged
    dsimp only
    rw [sound]
  have busy := (s.arbBusy_onlyChanges (s.writeRes f) e).trans ((s.arbBusy (s.writeRes f) e).arbBusy_onlyChanges 4 e)
  generalize (s.arbBusy (s.writeRes f) e).arbBusy 4 e = u at unit busy
  -- nothing of the block is issued as sound
  obtain ⟨g, y, issued, taken, same, ⟨-, -, -, yends⟩, outcome, noneShown, -, counted, takeFrame⟩ :=
    (State.bound.of_fl ⟨on, flight⟩ (busy .fl (by decide))).takeTo going (s.produce f x x.wr x.hi).2 x.wr x.hi
  rw [f.unitRuns_self, List.map_nil, ite_self, List.map_eq_nil_iff] at noneShown
  rw [Flight.miscompare_other (Entry.writes_judged hc.writes).1, hc.writes, noneShown, List.append_nil, if_pos rfl, List.append_nil] at outcome
  generalize u.takeTo e f x (s.produce f x x.wr x.hi).2 x.wr x.hi = v at unit taken counted takeFrame
  obtain ⟨gEnded, -, -, gWrites, gDone⟩ := Flight.outcome_eq outcome
  have regs : keepsRegs (fun o => o = IZ_RED_EXCEPT) s v := (keepsRegs_of_regs (busy .regs (by decide))).trans counted
  have limit : v.f SPR_POLICY_chk_limit = 0 := (State.f_of_reg SPR_POLICY_chk_limit (regs SPR_POLICY (by decide))).trans hl
  have hard : v.pair.hard = false := by
    rw [takeFrame .pair (by decide), busy .pair (by decide)]
    exact hh
  have first : ∀ y, v.err.chk = some y → y.cycle ≠ v.tb.cycle := by
    rw [takeFrame .err (by decide), busy .err (by decide), takeFrame .tb (by decide), busy .tb (by decide)]
    exact fresh
  obtain ⟨noPi, small, wellFormed⟩ := f.e.blockFail_kind x bad
  have hop : (f.e.blockFail x bad).hop = (if bad then f.e.srcSpace else 4 + f.e.dstSpace) := rfl
  have fits : (f.e.blockFail x bad).fits f.q f.idx.toNat :=
    { queue := hq
      entry := f.idx.isLt
      ofs := left.trans hx
      hop := by rw [hop]; split_ifs <;> omega
      status := small }
  -- the entry ends, and what its failure asks for follows
  obtain ⟨k, z, ws, failed, ⟨kq, ki, -⟩, stop, zends, failOutcome, shown, recorded, queues⟩ :=
    taken.failUnit he same hc.writes gEnded limit hard first noPi (by rw [hop]; split_ifs <;> omega) fits x
      (s.produce f x x.wr x.hi).2.1 x.hi
  rw [← unit] at failed recorded queues
  obtain ⟨-, kStatus, -⟩ := Flight.outcome_eq failOutcome
  obtain ⟨t, j, run, found, -, sameOutcome, quiet⟩ := h.stitchEnd failed ⟨kq, ki⟩ (.inl stop) (zends.trans (yends.trans ends))
    (by rwa [kStatus]) (queues.trans ((takeFrame .q (by decide)).trans (busy .q (by decide))))
  refine ⟨t, j, ws, run, found, ?_, ?_, recorded.congr (.of_row regs (by unfold otherRow; decide)) quiet.keepsChecks⟩
  · rw [sameOutcome, failOutcome, gWrites, gDone]
    rfl
  · rw [shown, show min (f.e.blockFail x bad).till x.hi = x.hi from min_self _]
    rfl

end

/-! ## An injection (R232) -/

theorem chkInjArm_arms {s : State} (hop : BitVec 3) (hs : s.served = true) (hi : s.fb IZ_CHK_INJ_armed = false) :
    ∃ t, exec (.chkInjArm hop) s = .next t ∧ t.f IZ_CHK_INJ_hop = hop.toNat ∧ t.f IZ_CHK_INJ_armed = 1
      ∧ keepsRegs (fun o => o = IZ_CHK_INJ) s t ∧ onlyChanges [.regs] s t := by
  refine ⟨_, guarded_true (by rw [hs, hi]; rfl) _ _, ?_, State.f_setF_self _ _ _ (by decide), ?_, ?_⟩
  · rw [State.f_setF_ne _ _ _ _ (by decide) (by decide), State.f_setF_self _ _ _ (by decide)]
    exact Nat.mod_eq_of_lt hop.isLt
  · exact (s.setF_keepsRegs IZ_CHK_INJ_hop _).trans (State.setF_keepsRegs _ IZ_CHK_INJ_armed _)
  · exact (s.setF_onlyChanges IZ_CHK_INJ_hop _).trans (State.setF_onlyChanges _ IZ_CHK_INJ_armed _)

theorem chkInjArm_armed {s : State} (hop : BitVec 3) (hi : s.fb IZ_CHK_INJ_armed = true) : exec (.chkInjArm hop) s = .next s := by
  show guarded (s.served && !s.fb IZ_CHK_INJ_armed) s _ = _
  rw [hi, Bool.not_true, Bool.and_false]
  rfl

end Sys2Proof.Machine

open Sys2Proof Sys2Proof.Machine

/-- Settles O19: the one block is judged at its in-hop and its out-hop, and its failure is noted before the stitch ends. -/
theorem checksFail : Obligations.ChecksFail := by
  refine ⟨?_, fun hop s hs => ⟨chkInjArm_arms hop hs, chkInjArm_armed hop⟩⟩
  intro e s f x bad h hw hr hfill hpi hq hx hsrc hdst hi hl hh fresh hbad fails
  obtain ⟨t, g, ws, run, found, outcome, shown, recorded⟩ :=
    h.failed ⟨hw, hr, hfill, hpi⟩ hq hx hsrc hdst hi hl hh fresh hbad fails
  obtain ⟨ended, status, failOfs, writes, -⟩ := Flight.outcome_eq outcome
  have atPort : decide ((f.e.blockFail x bad).hop ≤ 2) = bad := by
    cases bad
    · exact decide_eq_false (show ¬ 4 + f.e.dstSpace ≤ 2 by omega)
    · exact decide_eq_true hsrc
  have source : (if (f.e.blockFail x bad).hop ≤ 2 then 40 else 39) = (if bad then 40 else 39) := by
    cases bad
    · exact if_neg (of_decide_eq_false atPort)
    · exact if_pos (of_decide_eq_true atPort)
  have port := recorded.port
  have chk := recorded.chk
  have raised := recorded.source
  rw [atPort] at port chk
  rw [source] at raised
  exact ⟨t, g, run, found, ended, failOfs, status, by rw [writes, List.map_append, shown], port, chk, recorded.qid, recorded.index,
    recorded.ofs, recorded.hop, recorded.status.trans status.symm, raised, recorded.record⟩
end

section
/-!
PROOFS. An admin command that stores nothing, whose stitch is traced while the background clear is under way (R94, R152, R341).
-/
namespace Sys2Proof.Machine

/-- A NOP of the admin stream. -/
def tracedNop : AdmOpen := openCmd { idx := 0, acceptMt := 0, words := List.replicate 8 0 }

/-- A mover in RUN whose COB stream has the NOP open, with the background clear under way and stitches traced. The block of the trace
ring's first record is still to be cleared, and memory holds a byte there. -/
def tracedState : State :=
  let s := ((State.reset.setF PAT_STAT_phase 7).setF PAT_STAT_clearing 1).putPkg (traceOffset 0) 1
  let s := (s.setF TB_TRACE_CFG_on 1).setF TB_TRACE_CFG_mask 1
  s.withAdm { s.adm with cob := some tracedNop }

/-- The byte of the trace ring's block as the NOP's stitch has returned. -/
def tracedByte : Option Byte :=
  match exec (.adminNop .cob) tracedState with
  | .next t => some (t.pkgByte (traceOffset 0))
  | _ => none

/-- The block has been cleared out of turn. -/
theorem tracedByte_eq : tracedByte = some 0 := by decide +kernel

theorem tracedState_byte : tracedState.pkgByte (traceOffset 0) = 1 := by decide +kernel

end Sys2Proof.Machine

open Sys2Proof Sys2Proof.Machine

/-- Refutes O6: every admin stitch is traced as it is bound and as it returns, and a trace record clears its block first where the
background clear has not come to it. ADMIN_NOP is such a command and storesMemory does not list it: where its stitch is the first
one traced, a byte in the block of the trace ring is lost. -/
theorem not_onlyTheirCommandsChangeStores : ¬ Obligations.OnlyTheirCommandsChangeStores := by
  unfold Obligations.OnlyTheirCommandsChangeStores
  rintro ⟨memory, -, -⟩
  obtain ⟨t, run⟩ : ∃ t, exec (.adminNop .cob) tracedState = .next t := ⟨_, rfl⟩
  have kept : t.pkgByte (traceOffset 0) = tracedState.pkgByte (traceOffset 0) :=
    (State.pkgByte_of_mem (memory (.adminNop .cob) tracedState t rfl run) _).1
  have shown : tracedByte = some (t.pkgByte (traceOffset 0)) := by
    unfold tracedByte
    rw [run]
  rw [tracedByte_eq, kept, tracedState_byte] at shown
  exact absurd shown (by decide)
end

section
/-!
PROOFS. Request lines: edges, glitches and acknowledgements (R115 to R120).
-/
namespace Sys2Proof.Machine

/-! ## The stitches that a line paces -/

/-- A run of operations each of which leaves the state in which it starts leaves it as a whole. -/
theorem forEach_still {α : Type} {g : α → State → State} {s : State} (l : List α) (h : ∀ x ∈ l, g x s = s) : forEach l g s = s :=
  List.foldlRecOn (motive := fun t => t = s) l _ rfl (fun t ht x hx => by subst ht; exact h x hx)

/-- A line that paces no stitch moves none. -/
theorem State.kickLine_notPaced {s : State} {n : Nat} (h : s.notPaced n) : s.kickLine n = s := by
  refine forEach_still _ fun f hf => forEach_still _ fun x hx => ?_
  cases hl : x.line with
  | none => rfl
  | some l => exact if_neg fun k => h f hf x hx l hl k.1

theorem State.notPaced_congr {s t : State} {n : Nat} (hf : t.fl = s.fl) (h : s.notPaced n) : t.notPaced n := by
  unfold State.notPaced
  rwa [hf]

/-- A change that leaves the entries alone moves nothing where the line paces no stitch. -/
theorem onlyChanges.kickLine {l : List Part} {s u : State} {n : Nat} (k : onlyChanges l s u) (hl : Part.fl ∉ l) (h : s.notPaced n) :
    u.kickLine n = u := State.kickLine_notPaced (State.notPaced_congr (k .fl hl) h)

/-! ## Fields of one row -/

/-- A field of a row that is written reads what was written, as far as it holds it. -/
theorem State.f_setF_here (s : State) {o lo w : Nat} (v : Nat) (h : lo + w ≤ 64) : (s.setF ⟨o, lo, w⟩ v).f ⟨o, lo, w⟩ = v % 2 ^ w :=
  State.f_setF_self s _ v h

/-- Another field of the row stays. -/
theorem State.f_setF_beside (s : State) {o lo w lo' w' : Nat} (v : Nat) (h : lo' + w' ≤ 64 ∧ (lo' + w' ≤ lo ∨ lo + w ≤ lo')) :
    (s.setF ⟨o, lo, w⟩ v).f ⟨o, lo', w'⟩ = s.f ⟨o, lo', w'⟩ := State.f_setF_ne s _ _ v h.1 (.inr h.2)

/-! ## Edges (R116) -/

theorem State.linesOn_started {s : State} {n : Nat} (hn : n < 256) (hp : 7 ≤ s.phase) : s.linesOn n = true := by
  unfold State.linesOn
  rw [decide_eq_true hn, decide_eq_true hp]
  rfl

/-- The edge of line `n` on a queue in edge mode: one request more, or one lost (R116). -/
def State.edgeIn (s : State) (n : Nat) : State :=
  if !s.edgeBound n then s
  else if s.f (RL_STATE_pending n) = 255 then s.cnt (RL_STATE_lost n)
  else s.setF (RL_STATE_pending n) (s.f (RL_STATE_pending n) + 1)

theorem exec_dreqAssert {s : State} {n : Nat} (hn : s.linesOn n = true) (h : s.fb (RL_STATE_level n) = false) :
    exec (.dreqAssert n) s = .next (((s.setF (RL_STATE_level n) 1).edgeIn n).kickLine n) :=
  if_pos (by rw [hn, h]; rfl)

theorem State.edgeIn_onlyChanges (s : State) (n : Nat) : onlyChanges [.regs] s (s.edgeIn n) := by
  unfold State.edgeIn
  split_ifs
  · exact onlyChanges.refl _ s
  · exact s.setF_onlyChanges _ _
  · exact s.setF_onlyChanges _ _

theorem State.edgeIn_keepsRegs (s : State) (n : Nat) : keepsRegs (fun o => o = RL_STATE n) s (s.edgeIn n) := by
  unfold State.edgeIn
  split_ifs
  · exact keepsRegs.refl _ s
  · exact s.setF_keepsRegs (RL_STATE_lost n) _
  · exact s.setF_keepsRegs (RL_STATE_pending n) _

theorem State.f_edgeIn_level (s : State) (n : Nat) : (s.edgeIn n).f (RL_STATE_level n) = s.f (RL_STATE_level n) := by
  unfold State.edgeIn
  split_ifs
  · rfl
  · exact s.f_setF_beside _ (by decide)
  · exact s.f_setF_beside _ (by decide)

theorem State.pending_le (s : State) (n : Nat) : s.f (RL_STATE_pending n) ≤ 255 := Nat.le_of_lt_succ (s.f_lt (RL_STATE_pending n))

theorem State.f_edgeIn_pending (s : State) (n : Nat) : (s.edgeIn n).f (RL_STATE_pending n)
    = if s.edgeBound n && decide (s.f (RL_STATE_pending n) < 255) then s.f (RL_STATE_pending n) + 1 else s.f (RL_STATE_pending n) := by
  have le := s.pending_le n
  unfold State.edgeIn
  cases s.edgeBound n with
  | false => rfl
  | true =>
    by_cases full : s.f (RL_STATE_pending n) = 255
    · rw [if_neg (by decide), if_pos full, if_neg (by simp [full])]
      exact s.f_setF_beside _ (by decide)
    · have room : s.f (RL_STATE_pending n) < 255 := by omega
      rw [if_neg (by decide), if_neg full, if_pos (by simp [room])]
      exact (s.f_setF_here _ (by decide)).trans (Nat.mod_eq_of_lt (show _ < 256 by omega))

theorem State.f_edgeIn_lost (s : State) (n : Nat) : (s.edgeIn n).f (RL_STATE_lost n)
    = if s.edgeBound n && decide (s.f (RL_STATE_pending n) = 255) then satAdd 16 (s.f (RL_STATE_lost n)) 1 else s.f (RL_STATE_lost n) := by
  unfold State.edgeIn
  cases s.edgeBound n with
  | false => rfl
  | true =>
    by_cases full : s.f (RL_STATE_pending n) = 255
    · rw [if_neg (by decide), if_pos full, if_pos (by simp [full])]
      exact State.f_cnt_self s (RL_STATE_lost n) (show 32 + 16 ≤ 64 by decide)
    · rw [if_neg (by decide), if_neg full, if_neg (by simp [full])]
      exact s.f_setF_beside _ (by decide)

/-- The level of a line says nothing of the requests that it has, of those it has lost, and of the queue that it paces. -/
theorem State.setLevel_spec (s : State) (n v : Nat) : (s.setF (RL_STATE_level n) v).f (RL_STATE_pending n) = s.f (RL_STATE_pending n)
    ∧ (s.setF (RL_STATE_level n) v).f (RL_STATE_lost n) = s.f (RL_STATE_lost n)
    ∧ (s.setF (RL_STATE_level n) v).edgeBound n = s.edgeBound n := by
  have bound : (s.setF (RL_STATE_level n) v).f (RL_STATE_bound n) = s.f (RL_STATE_bound n) := s.f_setF_beside v (by decide)
  have qid : (s.setF (RL_STATE_level n) v).f (RL_STATE_qid n) = s.f (RL_STATE_qid n) := s.f_setF_beside v (by decide)
  refine ⟨s.f_setF_beside v (by decide), s.f_setF_beside v (by decide), ?_⟩
  unfold State.edgeBound State.fb
  rw [bound, qid]
  rfl

theorem dreqAssert_asserts {n : Nat} {s : State} (hn : n < 256) (hp : 7 ≤ s.phase) (h : s.fb (RL_STATE_level n) = false) :
    ∃ u, exec (.dreqAssert n) s = .next (u.kickLine n) ∧ u.f (RL_STATE_level n) = 1
      ∧ u.f (RL_STATE_pending n) = (if s.edgeBound n && decide (s.f (RL_STATE_pending n) < 255) then s.f (RL_STATE_pending n) + 1 else s.f (RL_STATE_pending n))
      ∧ u.f (RL_STATE_lost n) = (if s.edgeBound n && decide (s.f (RL_STATE_pending n) = 255) then satAdd 16 (s.f (RL_STATE_lost n)) 1 else s.f (RL_STATE_lost n))
      ∧ keepsRegs (fun o => o = RL_STATE n) s u ∧ onlyChanges [.regs] s u ∧ (s.notPaced n → u.kickLine n = u) := by
  obtain ⟨pending, lost, bound⟩ := s.setLevel_spec n 1
  have frame : onlyChanges [.regs] s ((s.setF (RL_STATE_level n) 1).edgeIn n) :=
    (s.setF_onlyChanges _ _).trans (State.edgeIn_onlyChanges _ n)
  refine ⟨_, exec_dreqAssert (State.linesOn_started hn hp) h, ?_, ?_, ?_, ?_, frame, frame.kickLine (by decide)⟩
  · exact (State.f_edgeIn_level _ n).trans (s.f_setF_here 1 (by decide))
  · rw [State.f_edgeIn_pending, pending, bound]
  · rw [State.f_edgeIn_lost, pending, lost, bound]
  · exact (s.setF_keepsRegs (RL_STATE_level n) 1).trans (State.edgeIn_keepsRegs _ n)

theorem dreqDeassert_clears {n : Nat} {s : State} (hn : n < 256) (hp : 7 ≤ s.phase) (h : s.fb (RL_STATE_level n) = true) :
    ∃ u, exec (.dreqDeassert n) s = .next (u.kickLine n) ∧ u.f (RL_STATE_level n) = 0
      ∧ u.f (RL_STATE_pending n) = s.f (RL_STATE_pending n)
      ∧ keepsRegs (fun o => o = RL_STATE n) s u ∧ onlyChanges [.regs] s u ∧ (s.notPaced n → u.kickLine n = u) := by
  have frame : onlyChanges [.regs] s (s.setF (RL_STATE_level n) 0) := s.setF_onlyChanges _ _
  refine ⟨_, if_pos (by rw [State.linesOn_started hn hp, h]; rfl), ?_, (s.setLevel_spec n 0).1, s.setF_keepsRegs (RL_STATE_level n) 0, frame,
    frame.kickLine (by decide)⟩
  exact s.f_setF_here 0 (by decide)

/-- A pulse that the filter drops is counted (R115). -/
theorem dreqGlitch_counts {n : Nat} {s : State} (hn : n < 32) (hp : 7 ≤ s.phase) :
    ∃ t, exec (.dreqGlitch n) s = .next t ∧ t.f (RL_STATE_glitches n) = satAdd 16 (s.f (RL_STATE_glitches n)) 1
      ∧ t.f (RL_STATE_level n) = s.f (RL_STATE_level n) ∧ t.f (RL_STATE_pending n) = s.f (RL_STATE_pending n)
      ∧ keepsRegs (fun o => o = RL_STATE n) s t ∧ onlyChanges [.regs] s t := by
  refine ⟨s.cnt (RL_STATE_glitches n), guarded_true ?_ _ _, State.f_cnt_self s (RL_STATE_glitches n) (show 48 + 16 ≤ 64 by decide), ?_, ?_,
    s.setF_keepsRegs (RL_STATE_glitches n) _, s.setF_onlyChanges _ _⟩
  · rw [decide_eq_true hn, State.linesOn_started (by omega) hp]
    rfl
  · exact s.f_setF_beside _ (by decide)
  · exact s.f_setF_beside _ (by decide)

/-! ## Acknowledgements (R117, R118) -/

theorem State.updLine_onlyChanges (s : State) (n : Nat) (g : Line → Line) : onlyChanges [.lines] s (s.updLine n g) :=
  onlyChanges_of_same (fun _ hb => State.updLine_same hb s n g)

theorem State.line_updLine_self (s : State) (n : Nat) (g : Line → Line) : (s.updLine n g).line n = g (s.line n) := by
  rw [State.line_updLine, if_pos rfl]

theorem State.line_updLine_ne (s : State) {n m : Nat} (g : Line → Line) (h : m ≠ n) : (s.updLine n g).line m = s.line m := by
  rw [State.line_updLine, if_neg h]

/-- A change of line `n` that its stitches then take up: the other lines stand, and with none paced nothing else changes. -/
theorem State.updLine_kicks (s : State) (n : Nat) (g : Line → Line) : (s.updLine n g).line n = g (s.line n)
    ∧ (∀ m, m ≠ n → (s.updLine n g).line m = s.line m) ∧ onlyChanges [.lines] s (s.updLine n g)
    ∧ (s.notPaced n → (s.updLine n g).kickLine n = s.updLine n g) :=
  ⟨s.line_updLine_self n g, fun _ h => s.line_updLine_ne g h, s.updLine_onlyChanges n g, (s.updLine_onlyChanges n g).kickLine (by decide)⟩

theorem dackPulseStart_drives {n : Nat} {s : State} (hn : n < 32) (hr : s.run = true) (hp : 0 < (s.line n).pulses) (hl : (s.line n).low = false) :
    ∃ t, exec (.dackPulseStart n) s = .next t ∧ t.line n = { s.line n with low := true, pulses := (s.line n).pulses - 1 }
      ∧ (∀ m, m ≠ n → t.line m = s.line m) ∧ onlyChanges [.lines] s t := by
  refine ⟨_, guarded_true ?_ _ _, s.line_updLine_self n _, fun _ h => s.line_updLine_ne _ h, s.updLine_onlyChanges n _⟩
  rw [decide_eq_true hn, decide_eq_true hp, hr, hl]
  rfl

end Sys2Proof.Machine

open Sys2Proof Sys2Proof.Machine

/-- Settles O29: an edge counts in the line's register, an acknowledgement in its line, and a line that paces no stitch moves none. -/
theorem requestLines : Obligations.RequestLines := by
  unfold Obligations.RequestLines
  refine ⟨fun n s hn hp => ⟨dreqAssert_asserts hn hp, dreqDeassert_clears hn hp, fun h => dreqGlitch_counts h hp⟩, fun n s => ⟨dackPulseStart_drives, ?_, ?_⟩⟩
  · exact fun hn hl => ⟨_, if_pos ⟨hn, hl⟩, s.updLine_kicks n _⟩
  · exact fun lo hi ho => ⟨_, if_pos ⟨lo, hi, ho⟩, s.updLine_kicks n _⟩
end

section
/-!
PROOFS. What in-package memory reads after a write of any bytes of a word: whole words, and merges (R447 to R450).
-/
namespace Sys2Proof.Machine

/-! ## The parts of a write -/

/-- The byte at address `k`, read after `b` has been put at `a`, is one of `b` or what stood there. -/
theorem State.pkgByte_putPkgs_getD (s : State) (a : Nat) (b : List Byte) (k : Nat) :
    (s.putPkgs a b).pkgByte k = if a ≤ k ∧ k < a + b.length then b.getD (k - a) 0 else s.pkgByte k := by
  rw [State.pkgByte_putPkgs]
  by_cases h : a ≤ k ∧ k - a < b.length
  · rw [dif_pos h, if_pos (by omega), List.getD_eq_getElem _ _ h.2]
  · rw [dif_neg h, if_neg (by omega)]

theorem State.synOf_putSyn (s : State) (k y a : Nat) : (s.putSyn k y).synOf a = if a / 8 = k then y % 2 ^ 8 else s.synOf a := by
  have put : (s.putSyn k y).synOf a = (if a / 8 = k then BitVec.ofNat 8 y else Tbl.get (fun _ => 0#8) s.mem.syn (a / 8)).toNat :=
    congrArg BitVec.toNat (Tbl.get_set (fun _ => 0#8) s.mem.syn k (a / 8) (BitVec.ofNat 8 y))
  rw [put]
  split_ifs
  · exact BitVec.toNat_ofNat y 8
  · rfl

theorem State.synOf_putPkgs (s : State) (a : Nat) (b : List Byte) (k : Nat) : (s.putPkgs a b).synOf k = s.synOf k := by
  unfold State.synOf
  rw [(s.putPkgs_mem a b).1]

theorem State.putPkgs_flash (s : State) (a : Nat) (b : List Byte) : (s.putPkgs a b).mem.flash = s.mem.flash := by
  induction b generalizing s a with
  | nil => rfl
  | cons x b ih => exact ih (s.putPkg a x) (a + 1)

/-- A byte reads after correction as it did where it and its word's syndrome stand as they did. -/
theorem State.pkgFixed_congr {s t : State} {a : Nat} (hy : t.synOf a = s.synOf a) (hb : t.pkgByte a = s.pkgByte a) :
    t.pkgFixed a = s.pkgFixed a := by
  unfold State.pkgFixed
  rw [hy, hb]

/-- The syndrome that a word gets as it is written: sound, or marked as poisoned (R220, R448). -/
def writtenSyn (bad : Bool) : Nat := if bad then 0xFF else 0

theorem judgeSyn_written (bad : Bool) : judgeSyn (writtenSyn bad) = if bad then .poisoned else .sound := by cases bad <;> rfl

/-- A word just written needs no correction. -/
theorem State.pkgFixed_written {s : State} {a : Nat} {bad : Bool} (h : s.synOf a = writtenSyn bad) : s.pkgFixed a = s.pkgByte a := by
  unfold State.pkgFixed
  rw [h, judgeSyn_written]
  cases bad <;> rfl

theorem State.wordBad_written {s : State} {k : Nat} (h : s.synOf (8 * k) = writtenSyn true) : s.wordBad k = true := by
  unfold State.wordBad
  rw [h]
  rfl

theorem State.synOf_word (s : State) {a b : Nat} (h : a / 8 = b / 8) : s.synOf a = s.synOf b := by
  unfold State.synOf
  rw [h]

/-! ## The counts of a merge (R449, R470) -/

/-- Word `k` is read for a merge, and counted. -/
def State.mergeCounts (s : State) (k : Nat) : State :=
  if s.wordBad k then (s.memStat (8 * k) 8).cnt IZ_MEMP_STAT_merge_poison else s.memStat (8 * k) 8

theorem State.mergeCounts_onlyChanges (s : State) (k : Nat) : onlyChanges [.regs] s (s.mergeCounts k) := by
  have counted : onlyChanges [.regs] s (s.memStat (8 * k) 8) := onlyChanges_of_same (fun _ hb => State.memStat_same hb s _ _)
  unfold State.mergeCounts
  split_ifs
  · exact counted.trans (State.setF_onlyChanges _ _ _)
  · exact counted

theorem State.mergeCounts_keepsRegs (s : State) (k : Nat) : keepsRegs (fun o => o = IZ_MEMP_STAT) s (s.mergeCounts k) := by
  have counted : keepsRegs (fun o => o = IZ_MEMP_STAT) s (s.memStat (8 * k) 8) :=
    (s.setF_keepsRegs IZ_MEMP_STAT_corrected _).trans (State.setF_keepsRegs _ IZ_MEMP_STAT_uncorrectable _)
  unfold State.mergeCounts
  split_ifs
  · exact counted.trans (State.setF_keepsRegs _ IZ_MEMP_STAT_merge_poison _)
  · exact counted

theorem wordsOf_word (k : Nat) : wordsOf (8 * k) 8 = [k] := by
  unfold wordsOf
  rw [if_neg (by decide), show (8 * k + 8 - 1) / 8 - 8 * k / 8 + 1 = 1 by omega, show 8 * k / 8 = k by omega]
  simp

theorem length_filter_singleton (p : Nat → Bool) (k : Nat) : ([k].filter p).length = b2n (p k) := by
  cases h : p k <;> simp [h, b2n]

theorem State.memStat_word (s : State) (k : Nat) : s.memStat (8 * k) 8
    = (s.sat IZ_MEMP_STAT_corrected (b2n (s.wordFixed k))).sat IZ_MEMP_STAT_uncorrectable (b2n (s.wordBad k)) := by
  unfold State.memStat State.pkgFixes
  rw [wordsOf_word, length_filter_singleton, length_filter_singleton]

/-- What a merge counts of its word: a correction, or that it could not be corrected. -/
theorem State.mergeCounts_counts (s : State) (k : Nat) :
    (s.mergeCounts k).f IZ_MEMP_STAT_merge_poison = satAdd IZ_MEMP_STAT_merge_poison.w (s.f IZ_MEMP_STAT_merge_poison) (b2n (s.wordBad k))
      ∧ (s.mergeCounts k).f IZ_MEMP_STAT_uncorrectable = satAdd IZ_MEMP_STAT_uncorrectable.w (s.f IZ_MEMP_STAT_uncorrectable) (b2n (s.wordBad k))
      ∧ (s.mergeCounts k).f IZ_MEMP_STAT_corrected = satAdd IZ_MEMP_STAT_corrected.w (s.f IZ_MEMP_STAT_corrected) (b2n (s.wordFixed k)) := by
  have merged : (s.memStat (8 * k) 8).f IZ_MEMP_STAT_merge_poison = s.f IZ_MEMP_STAT_merge_poison := by
    rw [s.memStat_word, State.f_sat_ne _ _ _ _ (by decide) (by decide), State.f_sat_ne _ _ _ _ (by decide) (by decide)]
  have lost : (s.memStat (8 * k) 8).f IZ_MEMP_STAT_uncorrectable
      = satAdd IZ_MEMP_STAT_uncorrectable.w (s.f IZ_MEMP_STAT_uncorrectable) (b2n (s.wordBad k)) := by
    rw [s.memStat_word, State.f_sat_self _ _ _ (by decide), State.f_sat_ne _ _ _ _ (by decide) (by decide)]
  have mended : (s.memStat (8 * k) 8).f IZ_MEMP_STAT_corrected
      = satAdd IZ_MEMP_STAT_corrected.w (s.f IZ_MEMP_STAT_corrected) (b2n (s.wordFixed k)) := by
    rw [s.memStat_word, State.f_sat_ne _ _ _ _ (by decide) (by decide), State.f_sat_self _ _ _ (by decide)]
  unfold State.mergeCounts
  cases hb : s.wordBad k with
  | false =>
    rw [hb] at lost
    exact ⟨merged.trans (s.satAdd_zero _).symm, lost, mended⟩
  | true =>
    rw [hb] at lost
    refine ⟨?_, (State.f_cnt_ne _ _ _ (by decide) (by decide)).trans lost, (State.f_cnt_ne _ _ _ (by decide) (by decide)).trans mended⟩
    exact (State.f_cnt_self _ _ (by decide)).trans (by rw [merged]; rfl)

/-! ## The part of a write that falls in one word -/

/-- The marks that a word gets as bytes `b` are written to it: those of the write, and of the word where it keeps bytes of its own. -/
def State.wordMarked (s : State) (k : Nat) (b : List Byte) (poison : Bool) : Bool := poison || (!decide (b.length = 8) && s.wordBad k)

theorem State.writeWord_part (s : State) {a : Nat} {b : List Byte} (poison : Bool) (h : b.length ≠ 8) : s.writeWord a b poison
    = (((s.mergeCounts (a / 8)).putPkgs (8 * (a / 8)) (s.pkgBytes (8 * (a / 8)) 8)).putPkgs a b).putSyn (a / 8)
        (writtenSyn (poison || s.wordBad (a / 8))) := if_neg h

theorem State.writeWord_whole (s : State) {a : Nat} {b : List Byte} (poison : Bool) (h : b.length = 8) : s.writeWord a b poison
    = (s.putPkgs a b).putSyn (a / 8) (writtenSyn poison) := if_pos h

theorem State.pkgBytes_getD (s : State) (a : Nat) {n j : Nat} (h : j < n) : (s.pkgBytes a n).getD j 0 = s.pkgFixed (a + j) := by
  rw [List.getD_eq_getElem _ _ (by simpa [State.pkgBytes] using h)]
  simp [State.pkgBytes]

/-- What a word and the others hold after bytes of it were written. -/
theorem State.writeWord_stored (s : State) {a : Nat} {b : List Byte} (poison : Bool) (hw : a % 8 + b.length ≤ 8) :
    (∀ k, (s.writeWord a b poison).synOf k = if k / 8 = a / 8 then writtenSyn (s.wordMarked (a / 8) b poison) else s.synOf k)
      ∧ (∀ k, (s.writeWord a b poison).pkgByte k = if a ≤ k ∧ k < a + b.length then b.getD (k - a) 0
          else if k / 8 = a / 8 then s.pkgFixed k else s.pkgByte k) := by
  have mark : ∀ m, writtenSyn m % 2 ^ 8 = writtenSyn m := fun m => by cases m <;> rfl
  by_cases whole : b.length = 8
  · have marked : s.wordMarked (a / 8) b poison = poison := by simp [State.wordMarked, whole]
    rw [s.writeWord_whole poison whole, marked]
    refine ⟨fun k => ?_, fun k => ?_⟩
    · rw [State.synOf_putSyn, State.synOf_putPkgs, mark]
    · refine (s.pkgByte_putPkgs_getD a b k).trans ?_
      split_ifs with h1 h2
      · rfl
      · omega
      · rfl
  · have marked : s.wordMarked (a / 8) b poison = (poison || s.wordBad (a / 8)) := by simp [State.wordMarked, whole]
    have mem : (s.mergeCounts (a / 8)).mem = s.mem := s.mergeCounts_onlyChanges _ .mem (by decide)
    rw [s.writeWord_part poison whole, marked]
    refine ⟨fun k => ?_, fun k => ?_⟩
    · rw [State.synOf_putSyn, State.synOf_putPkgs, State.synOf_putPkgs, mark, (State.pkgByte_of_mem mem k).2]
    · refine (State.pkgByte_putPkgs_getD _ a b k).trans ?_
      rw [State.pkgByte_putPkgs_getD, (State.pkgByte_of_mem mem k).1, show (s.pkgBytes (8 * (a / 8)) 8).length = 8 by simp [State.pkgBytes]]
      split_ifs with h1 h2 h3 h3
      · rfl
      · rw [State.pkgBytes_getD s _ (by omega), show 8 * (a / 8) + (k - 8 * (a / 8)) = k by omega]
      · omega
      · omega
      · rfl

theorem State.writeWord_mem (s : State) (a : Nat) (b : List Byte) (poison : Bool) : (s.writeWord a b poison).mem.host = s.mem.host
    ∧ (s.writeWord a b poison).mem.hpoison = s.mem.hpoison ∧ (s.writeWord a b poison).mem.flash = s.mem.flash := by
  by_cases whole : b.length = 8
  · rw [s.writeWord_whole poison whole]
    obtain ⟨-, host, hpoison⟩ := s.putPkgs_mem a b
    exact ⟨host, hpoison, s.putPkgs_flash a b⟩
  · have mem : (s.mergeCounts (a / 8)).mem = s.mem := s.mergeCounts_onlyChanges _ .mem (by decide)
    rw [s.writeWord_part poison whole, ← mem]
    generalize s.mergeCounts (a / 8) = u
    obtain ⟨-, host, hpoison⟩ := u.putPkgs_mem (8 * (a / 8)) (s.pkgBytes (8 * (a / 8)) 8)
    obtain ⟨-, host', hpoison'⟩ := (u.putPkgs (8 * (a / 8)) (s.pkgBytes (8 * (a / 8)) 8)).putPkgs_mem a b
    exact ⟨host'.trans host, hpoison'.trans hpoison, (State.putPkgs_flash _ _ _).trans (State.putPkgs_flash _ _ _)⟩

/-! ## A write of any bytes -/

/-- A write of bytes `b` at address `a` has turned `s` into `t`: they read back, every other byte reads as it did, and where the write is
poisoned its words read so, as do those that did. -/
structure wrotePkg (a : Nat) (b : List Byte) (poison : Bool) (s t : State) : Prop where
  fixed : ∀ k, t.pkgFixed k = if a ≤ k ∧ k < a + b.length then b.getD (k - a) 0 else s.pkgFixed k
  marked : poison = true → ∀ k, a ≤ k → k < a + b.length → t.wordBad (k / 8) = true
  stays : poison = true → ∀ k, s.wordBad k = true → t.wordBad k = true
  others : t.mem.host = s.mem.host ∧ t.mem.hpoison = s.mem.hpoison ∧ t.mem.flash = s.mem.flash
  frame : onlyChanges [.regs, .mem] s t

theorem wrotePkg.nil (a : Nat) (poison : Bool) (s : State) : wrotePkg a [] poison s s :=
  ⟨fun k => (if_neg (by rw [List.length_nil]; omega)).symm, fun _ k h1 h2 => by rw [List.length_nil] at h2; omega, fun _ _ h => h,
    ⟨rfl, rfl, rfl⟩, onlyChanges.refl _ s⟩

theorem State.writeWord_wrotePkg (s : State) {a : Nat} {b : List Byte} (poison : Bool) (hw : a % 8 + b.length ≤ 8) :
    wrotePkg a b poison s (s.writeWord a b poison) := by
  obtain ⟨syn, byte⟩ := s.writeWord_stored poison hw
  have others := s.writeWord_mem a b poison
  have frame : onlyChanges [.regs, .mem] s (s.writeWord a b poison) := onlyChanges_of_same (fun _ hb => State.writeWord_same hb s a b poison)
  generalize s.writeWord a b poison = t at syn byte others frame
  have poisoned : poison = true → ∀ k, k / 8 = a / 8 → t.wordBad (k / 8) = true := by
    intro hp k hk
    refine State.wordBad_written ?_
    rw [syn, if_pos (by omega), State.wordMarked, hp, Bool.true_or]
  refine ⟨fun k => ?_, fun hp k h1 h2 => poisoned hp k (by omega), fun hp k hk => ?_, others, frame⟩
  · by_cases word : k / 8 = a / 8
    · have written : t.synOf k = writtenSyn (s.wordMarked (a / 8) b poison) := by rw [syn, if_pos word]
      rw [State.pkgFixed_written written, byte, if_pos word]
    · rw [if_neg (by omega)]
      exact State.pkgFixed_congr (by rw [syn, if_neg word]) (by rw [byte, if_neg (by omega), if_neg word])
  · by_cases word : k = a / 8
    · subst word
      exact poisoned hp a rfl
    · unfold State.wordBad at hk ⊢
      rwa [syn, if_neg (by omega)]

theorem wrotePkg.trans {a m : Nat} {b c : List Byte} {poison : Bool} {s t u : State} (h : wrotePkg a b poison s t)
    (k : wrotePkg m c poison t u) (hm : m = a + b.length) : wrotePkg a (b ++ c) poison s u := by
  subst hm
  obtain ⟨host, hpoison, flash⟩ := h.others
  obtain ⟨host', hpoison', flash'⟩ := k.others
  refine ⟨fun x => ?_, fun hp x h1 h2 => ?_, fun hp x hx => k.stays hp x (h.stays hp x hx),
    ⟨host'.trans host, hpoison'.trans hpoison, flash'.trans flash⟩, h.frame.trans k.frame⟩
  · rw [k.fixed, h.fixed, List.length_append]
    by_cases h1 : a ≤ x ∧ x < a + b.length
    · rw [if_neg (by omega), if_pos h1, if_pos (by omega), List.getD_append _ _ _ _ (by omega)]
    · by_cases h2 : a + b.length ≤ x ∧ x < a + b.length + c.length
      · rw [if_pos h2, if_pos (by omega), List.getD_append_right _ _ _ _ (by omega), Nat.sub_add_eq]
      · rw [if_neg h2, if_neg h1, if_neg (by omega)]
  · rw [List.length_append] at h2
    by_cases h3 : x < a + b.length
    · exact k.stays hp _ (h.marked hp x h1 h3)
    · exact k.marked hp x (by omega) (by omega)

theorem State.pkgWrite_nil (n : Nat) (s : State) (a : Nat) (poison : Bool) : s.pkgWrite n a [] poison = s := by cases n <;> rfl

/-- A write goes word by word, and ends where its bytes do. -/
theorem State.pkgWrite_wrotePkg {n : Nat} (s : State) {a : Nat} {b : List Byte} (poison : Bool) (hn : a % 8 + b.length ≤ 8 * n) :
    wrotePkg a b poison s (s.pkgWrite n a b poison) := by
  induction n generalizing s a b with
  | zero =>
    have nil : b = [] := List.eq_nil_of_length_eq_zero (by omega)
    subst nil
    exact wrotePkg.nil a poison s
  | succ n ih =>
    unfold State.pkgWrite
    cases empty : b.isEmpty with
    | true =>
      rw [if_pos rfl, List.isEmpty_iff.mp empty]
      exact wrotePkg.nil a poison s
    | false =>
      have first := s.writeWord_wrotePkg (a := a) (b := b.take (8 - a % 8)) poison (by rw [List.length_take]; omega)
      rw [if_neg Bool.false_ne_true]
      dsimp only
      rcases Nat.le_total b.length (8 - a % 8) with short | long
      · rw [List.take_of_length_le short] at first
        rwa [List.drop_of_length_le short, List.take_of_length_le short, State.pkgWrite_nil]
      · have rest := ih (s.writeWord a (b.take (8 - a % 8)) poison) (a := a + (8 - a % 8)) (b := b.drop (8 - a % 8))
          (by rw [List.length_drop]; omega)
        have both := first.trans rest (by rw [List.length_take]; omega)
        rwa [List.take_append_drop] at both

theorem State.writePkg_wrotePkg (s : State) (a : Nat) (b : List Byte) (poison : Bool) : wrotePkg a b poison s (s.writePkg a b poison) :=
  s.pkgWrite_wrotePkg poison (by omega)

end Sys2Proof.Machine
end
section
/-!
PROOFS. A data write that stands in memory: each of its bytes that no later write has written is put there once (R102, R438, R447).
-/
namespace Sys2Proof.Machine

/-! ## The ranges of a write that are not spent -/

theorem mem_cutOut_iff (c r : Nat × Nat) (a : Nat) :
    (∃ p ∈ cutOut c r, p.1 ≤ a ∧ a < p.2) ↔ (r.1 ≤ a ∧ a < r.2) ∧ ¬ (c.1 ≤ a ∧ a < c.2) := by
  simp only [cutOut, List.mem_filter, List.mem_cons, List.not_mem_nil, or_false, decide_eq_true_eq]
  constructor
  · rintro ⟨p, ⟨rfl | rfl, -⟩, h⟩ <;> dsimp only at h <;> omega
  · rintro ⟨h, k⟩
    by_cases below : a < c.1
    · exact ⟨_, ⟨.inl rfl, by dsimp only; omega⟩, by dsimp only; omega⟩
    · exact ⟨_, ⟨.inr rfl, by dsimp only; omega⟩, by dsimp only; omega⟩

theorem cutOut_within {c r p : Nat × Nat} (h : p ∈ cutOut c r) : r.1 ≤ p.1 ∧ p.2 ≤ r.2 := by
  simp only [cutOut, List.mem_filter, List.mem_cons, List.not_mem_nil, or_false] at h
  obtain ⟨rfl | rfl, -⟩ := h <;> dsimp only <;> omega

/-- An address lies in what is left of the ranges `l` when it lies in one of them and in none that is cut out. -/
theorem mem_cutAll_iff (past l : List (Nat × Nat)) (a : Nat) :
    (∃ r ∈ past.foldl (fun l c => l.flatMap (cutOut c)) l, r.1 ≤ a ∧ a < r.2)
      ↔ (∃ r ∈ l, r.1 ≤ a ∧ a < r.2) ∧ ∀ c ∈ past, ¬ (c.1 ≤ a ∧ a < c.2) := by
  induction past generalizing l with
  | nil => simp
  | cons c past ih =>
    have one : (∃ r ∈ l.flatMap (cutOut c), r.1 ≤ a ∧ a < r.2) ↔ (∃ r ∈ l, r.1 ≤ a ∧ a < r.2) ∧ ¬ (c.1 ≤ a ∧ a < c.2) := by
      constructor
      · rintro ⟨p, hp, h⟩
        obtain ⟨r, hr, hp⟩ := List.mem_flatMap.mp hp
        obtain ⟨inside, out⟩ := (mem_cutOut_iff c r a).mp ⟨p, hp, h⟩
        exact ⟨⟨r, hr, inside⟩, out⟩
      · rintro ⟨⟨r, hr, inside⟩, out⟩
        obtain ⟨p, hp, h⟩ := (mem_cutOut_iff c r a).mpr ⟨inside, out⟩
        exact ⟨p, List.mem_flatMap.mpr ⟨r, hr, hp⟩, h⟩
    rw [List.foldl_cons, ih, one, List.forall_mem_cons, and_assoc]

theorem DataWrite.spent_false_iff (x : DataWrite) (a : Nat) : x.spent a = false ↔ ∀ c ∈ x.past, ¬ (c.1 ≤ a ∧ a < c.2) := by
  simp [DataWrite.spent]

/-- What a write still writes: its own bytes, but for the spent ones. -/
theorem DataWrite.mem_pieces_iff (x : DataWrite) (a : Nat) :
    (∃ r ∈ x.pieces, r.1 ≤ a ∧ a < r.2) ↔ (x.addr ≤ a ∧ a < x.addr + x.bytes.length) ∧ x.spent a = false := by
  rw [x.spent_false_iff, DataWrite.pieces, mem_cutAll_iff]
  simp

theorem DataWrite.pieces_within (x : DataWrite) : ∀ r ∈ x.pieces, x.addr ≤ r.1 ∧ r.2 ≤ x.addr + x.bytes.length := by
  refine List.foldlRecOn (motive := fun l : List (Nat × Nat) => ∀ r ∈ l, x.addr ≤ r.1 ∧ r.2 ≤ x.addr + x.bytes.length) x.past _ ?_ ?_
  · intro r hr
    rw [List.mem_singleton.mp hr]
    exact ⟨le_rfl, le_rfl⟩
  · intro l hl c _ p hp
    obtain ⟨r, hr, hp⟩ := List.mem_flatMap.mp hp
    obtain ⟨lo, hi⟩ := hl r hr
    obtain ⟨lo', hi'⟩ := cutOut_within hp
    omega

/-- The bytes that a write has for a range of its own. -/
def DataWrite.piece (x : DataWrite) (r : Nat × Nat) : List Byte := (x.bytes.drop (r.1 - x.addr)).take (r.2 - r.1)

section
variable {x : DataWrite} {r : Nat × Nat} (h : r ∈ x.pieces)
include h

theorem DataWrite.piece_length : (x.piece r).length = r.2 - r.1 := by
  have := x.pieces_within r h
  unfold DataWrite.piece
  rw [List.length_take, List.length_drop]
  omega

theorem DataWrite.piece_getD {a : Nat} (lo : r.1 ≤ a) (hi : a < r.2) : (x.piece r).getD (a - r.1) 0 = x.bytes.getD (a - x.addr) 0 := by
  have := x.pieces_within r h
  rw [List.getD_eq_getElem _ _ (by rw [DataWrite.piece_length h]; omega), List.getD_eq_getElem _ _ (by omega)]
  simp only [DataWrite.piece, List.getElem_take, List.getElem_drop]
  congr 1
  omega

end

/-! ## Runs of writes -/

/-- A place to which every write of a run that hits it brings `v`, and which the others leave. -/
theorem forEach_reads {α β : Type} {g : α → State → State} {rd : State → β} {v : β} {hit : α → Prop} [DecidablePred hit] (l : List α)
    (h : ∀ r ∈ l, ∀ s, rd (g r s) = if hit r then v else rd s) (s : State) :
    rd (forEach l g s) = if ∃ r ∈ l, hit r then v else rd s := by
  induction l generalizing s with
  | nil => simp [forEach]
  | cons r l ih =>
    have rest : rd (forEach l g (g r s)) = if ∃ r ∈ l, hit r then v else rd (g r s) := ih (fun x hx => h x (List.mem_cons_of_mem r hx)) (g r s)
    show rd (forEach l g (g r s)) = _
    rw [rest, h r List.mem_cons_self s]
    by_cases later : ∃ x ∈ l, hit x <;> by_cases now : hit r <;> simp [later, now]

/-- What one step of a run brings about, and every step keeps, holds after it. -/
theorem forEach_reaches {α : Type} {P : State → Prop} {g : α → State → State} (keep : ∀ x s, P s → P (g x s)) {l : List α}
    (some : ∃ x ∈ l, ∀ s, P (g x s)) (s : State) : P (forEach l g s) := by
  obtain ⟨x, hx, reach⟩ := some
  obtain ⟨before, after, rfl⟩ := List.append_of_mem hx
  unfold forEach
  rw [List.foldl_append, List.foldl_cons]
  exact forEach_keeps keep after (reach _)

/-! ## In-package memory -/

section
variable {x : DataWrite} (hx : x.space = 1) (s : State) (p : Option Nat) (poison : Bool)
include hx

theorem State.land_package : s.land p x poison
    = forEach x.pieces (fun r s => s.writePkg r.1 (x.piece r) (poison || !x.parityOk)) s := by
  unfold State.land State.writeBytes
  rw [hx]
  rfl

/-- Each byte of the package reads as the write brings it, or as it did. -/
theorem State.pkgFixed_land (a : Nat) : (s.land p x poison).pkgFixed a
    = if (x.addr ≤ a ∧ a < x.addr + x.bytes.length) ∧ x.spent a = false then x.bytes.getD (a - x.addr) 0 else s.pkgFixed a := by
  rw [State.land_package hx]
  simp only [← x.mem_pieces_iff a]
  refine forEach_reads (rd := fun s => s.pkgFixed a) (hit := fun r : Nat × Nat => r.1 ≤ a ∧ a < r.2) _ (fun r hr s => ?_) s
  have len := DataWrite.piece_length hr
  show (s.writePkg r.1 (x.piece r) _).pkgFixed a = _
  rw [(s.writePkg_wrotePkg r.1 (x.piece r) _).fixed]
  by_cases inside : r.1 ≤ a ∧ a < r.2
  · rw [if_pos inside, if_pos (by omega), DataWrite.piece_getD hr inside.1 inside.2]
  · rw [if_neg inside, if_neg (by omega)]

/-- A poisoned write leaves every word that it writes to poisoned. -/
theorem State.wordBad_land {a : Nat} (ha : x.addr ≤ a ∧ a < x.addr + x.bytes.length) (free : x.spent a = false) :
    (s.land p x true).wordBad (a / 8) = true := by
  obtain ⟨r, hr, lo, hi⟩ := (x.mem_pieces_iff a).mpr ⟨ha, free⟩
  have len := DataWrite.piece_length hr
  rw [State.land_package hx]
  refine forEach_reaches (P := fun s => s.wordBad (a / 8) = true) (fun r s h => ?_) ⟨r, hr, fun s => ?_⟩ s
  · exact (s.writePkg_wrotePkg r.1 (x.piece r) _).stays rfl _ h
  · exact (s.writePkg_wrotePkg r.1 (x.piece r) _).marked rfl a lo (by omega)

/-- Host memory and flash stand. -/
theorem State.land_package_others : (s.land p x poison).mem.host = s.mem.host ∧ (s.land p x poison).mem.hpoison = s.mem.hpoison
    ∧ (s.land p x poison).mem.flash = s.mem.flash := by
  rw [State.land_package hx]
  refine forEach_keeps (P := fun t => t.mem.host = s.mem.host ∧ t.mem.hpoison = s.mem.hpoison ∧ t.mem.flash = s.mem.flash)
    (fun r t h => ?_) _ ⟨rfl, rfl, rfl⟩
  obtain ⟨host, hpoison, flash⟩ := (t.writePkg_wrotePkg r.1 (x.piece r) (poison || !x.parityOk)).others
  exact ⟨host.trans h.1, hpoison.trans h.2.1, flash.trans h.2.2⟩

end

/-! ## Host memory -/

/-- Different addresses below 2^64 are different host bytes. -/
theorem hostKey_inj {p : Option Nat} {a b : Nat} (ha : a < 2 ^ 64) (hb : b < 2 ^ 64) (h : hostKey p a = hostKey p b) : a = b := by
  unfold hostKey at h
  omega

theorem State.putHosts_flash (s : State) (p : Option Nat) (a : Nat) (b : List Byte) : (s.putHosts p a b).mem.flash = s.mem.flash :=
  List.foldlRecOn (motive := fun t : State => t.mem.flash = s.mem.flash) _ _ rfl (fun _ h _ _ => h)

theorem State.writeHost_flash (s : State) (p : Option Nat) (a : Nat) (b : List Byte) (poison : Bool) :
    (s.writeHost p a b poison).mem.flash = s.mem.flash := by
  have put := s.putHosts_flash p a b
  unfold State.writeHost
  rw [show ((List.range b.length).zip b).foldl (fun s x => s.putHost p (a + x.1) x.2) s = s.putHosts p a b from rfl]
  generalize s.putHosts p a b = u at put
  dsimp only
  split
  · exact List.foldlRecOn (motive := fun t : State => t.mem.flash = s.mem.flash) _ _ put (fun _ h _ _ => h)
  · exact List.foldlRecOn (motive := fun t : State => t.mem.flash = s.mem.flash) _ _ put (fun _ h _ _ => h)

section
variable {x : DataWrite} (hx : x.space = 0) (s : State) (p : Option Nat) (poison : Bool)
include hx

theorem State.land_host : s.land p x poison
    = forEach x.pieces (fun r s => s.writeHost p r.1 (x.piece r) (poison || !x.parityOk)) s := by
  unfold State.land State.writeBytes
  rw [hx]
  rfl

/-- Each byte of the write's own range reads as the write brings it, or as it did. -/
theorem State.hostByte_land (top : x.addr + x.bytes.length ≤ 2 ^ 64) {j : Nat} (hj : j < x.bytes.length) :
    (s.land p x poison).hostByte p (x.addr + j) = if x.spent (x.addr + j) then s.hostByte p (x.addr + j) else x.bytes.getD j 0 := by
  have brought : (s.land p x poison).hostByte p (x.addr + j)
      = if ∃ r ∈ x.pieces, r.1 ≤ x.addr + j ∧ x.addr + j < r.2 then x.bytes.getD j 0 else s.hostByte p (x.addr + j) := by
    rw [State.land_host hx]
    refine forEach_reads (rd := fun s => s.hostByte p (x.addr + j)) (hit := fun r : Nat × Nat => r.1 ≤ x.addr + j ∧ x.addr + j < r.2) _
      (fun r hr s => ?_) s
    have len := DataWrite.piece_length hr
    have within := x.pieces_within r hr
    by_cases inside : r.1 ≤ x.addr + j ∧ x.addr + j < r.2
    · have at_ : r.1 + (x.addr + j - r.1) = x.addr + j := by omega
      have put := s.hostByte_putHosts p r.1 (x.piece r) (by omega) (j := x.addr + j - r.1) (by omega)
      have got := DataWrite.piece_getD hr inside.1 inside.2
      rw [at_] at put
      rw [List.getD_eq_getElem _ _ (by omega), Nat.add_sub_cancel_left] at got
      rw [if_pos inside, State.hostByte_of_host (s.writeHost_mem p r.1 (x.piece r) _).1, put, got]
    · rw [if_neg inside]
      refine s.hostByte_writeHost_of_ne p r.1 _ _ (fun m hm same => inside ?_)
      have := hostKey_inj (by omega) (by omega) same
      omega
  simp only [brought, x.mem_pieces_iff]
  cases x.spent (x.addr + j) <;> simp [hj]

/-- A byte under another key stands. -/
theorem State.hostByte_land_of_ne {p' : Option Nat} {a : Nat} (h : ∀ j, j < x.bytes.length → hostKey p' a ≠ hostKey p (x.addr + j)) :
    (s.land p x poison).hostByte p' a = s.hostByte p' a := by
  have brought := forEach_reads (g := fun r s => s.writeHost p r.1 (x.piece r) (poison || !x.parityOk)) (rd := fun s => s.hostByte p' a)
    (v := s.hostByte p' a) (hit := fun _ => False) x.pieces (fun r hr s => ?_) s
  · rw [State.land_host hx, brought, ite_self]
  · have len := DataWrite.piece_length hr
    have within := x.pieces_within r hr
    rw [if_neg not_false]
    refine s.hostByte_writeHost_of_ne p r.1 _ _ (fun m hm => ?_)
    have other := h (r.1 + m - x.addr) (by omega)
    rwa [show x.addr + (r.1 + m - x.addr) = r.1 + m by omega] at other

/-- In-package memory and flash stand. -/
theorem State.land_host_others : (s.land p x poison).mem.pkg = s.mem.pkg ∧ (s.land p x poison).mem.syn = s.mem.syn
    ∧ (s.land p x poison).mem.flash = s.mem.flash ∧ onlyChanges [.mem] s (s.land p x poison) := by
  rw [State.land_host hx]
  refine forEach_keeps (P := fun t => t.mem.pkg = s.mem.pkg ∧ t.mem.syn = s.mem.syn ∧ t.mem.flash = s.mem.flash ∧ onlyChanges [.mem] s t)
    (fun r t h => ?_) _ ⟨rfl, rfl, rfl, onlyChanges.refl _ s⟩
  obtain ⟨pkg, syn, flash, frame⟩ := h
  obtain ⟨-, pkg', syn'⟩ := t.writeHost_mem p r.1 (x.piece r) (poison || !x.parityOk)
  exact ⟨pkg'.trans pkg, syn'.trans syn, (t.writeHost_flash p r.1 _ _).trans flash,
    frame.trans (onlyChanges_of_same (fun _ hb => State.writeHost_same hb t p _ _ _))⟩

end

end Sys2Proof.Machine
end

section
/-!
PROOFS. The acknowledgement of a data write: what is issued later on its way, its place in memory, and its entry (R102, R438, R447).
-/
namespace Sys2Proof.Machine

/-! ## What the write has covered of earlier ones -/

/-- Write `y` of queue `k` was issued before write `x` of queue `q`, goes the same way and shares a byte with it. -/
def State.covers (s : State) (q : Nat) (x : DataWrite) (k : Nat) (y : DataWrite) : Bool :=
  decide (y.ord < x.ord) && s.sameWay x.space (s.qctx q).port (s.qctx q).pasidOf k y && overlaps y.addr y.bytes.length x.addr x.bytes.length

theorem State.covers_overlaps {s : State} {q k : Nat} {x y : DataWrite} (h : s.covers q x k y = true) :
    overlaps y.addr y.bytes.length x.addr x.bytes.length = true := (Bool.and_eq_true_iff.mp h).2

/-- The write with range `r` spent. -/
def DataWrite.spend (r : Nat × Nat) (y : DataWrite) : DataWrite := { y with past := r :: y.past }

/-- The entry whose writes in `hits` have range `r` spent. -/
def Flight.coverBy (hits : DataWrite → Bool) (r : Nat × Nat) (f : Flight) : Flight :=
  if f.writes.any hits then { f with writes := f.writes.map (fun y => if hits y then y.spend r else y) } else f

theorem Flight.coverBy_keeps (hits : DataWrite → Bool) (r : Nat × Nat) (f : Flight) :
    (f.coverBy hits r).q = f.q ∧ (f.coverBy hits r).idx = f.idx ∧ (f.coverBy hits r).status = f.status := by
  unfold Flight.coverBy
  split <;> exact ⟨rfl, rfl, rfl⟩

/-- An entry none of whose writes is covered stands. -/
theorem Flight.coverBy_none {hits : DataWrite → Bool} (r : Nat × Nat) {f : Flight} (h : ∀ y ∈ f.writes, hits y = false) :
    f.coverBy hits r = f := if_neg (by simpa using h)

/-- One that loses the only write that may be covered has lost it all the same. -/
theorem Flight.wrote_coverBy {hits : DataWrite → Bool} (r : Nat × Nat) {f : Flight} {x : DataWrite}
    (h : ∀ y ∈ f.writes, y.w ≠ x.w → hits y = false) : (f.coverBy hits r).wrote x = f.wrote x := by
  have left : (f.writes.map (fun y => if hits y then y.spend r else y)).filter (fun y => decide (y.w ≠ x.w))
      = f.writes.filter (fun y => decide (y.w ≠ x.w)) := by
    have w : ∀ y : DataWrite, (if hits y then y.spend r else y).w = y.w := fun y => by split <;> rfl
    rw [List.filter_map, List.map_congr_left (g := id), List.map_id]
    · exact List.filter_congr (fun y _ => by simp only [Function.comp_apply, w])
    · intro y hy
      obtain ⟨hy, hw⟩ := List.mem_filter.mp hy
      simp only [Function.comp_apply, w, decide_eq_true_eq] at hw
      exact if_neg (by rw [h y hy hw]; exact Bool.false_ne_true)
  unfold Flight.coverBy
  split
  · unfold Flight.wrote Flight.without
    dsimp only
    rw [left]
  · rfl

/-- An entry as write `x` of queue `q` is accepted: what its earlier writes still hold for the same bytes is spent. -/
def State.coveredBy (s : State) (q : Nat) (x : DataWrite) (f : Flight) : Flight :=
  f.coverBy (s.covers q x f.q) (x.addr, x.addr + x.bytes.length)

theorem State.coveredBy_keeps (s : State) (q : Nat) (x : DataWrite) (f : Flight) :
    (s.coveredBy q x f).q = f.q ∧ (s.coveredBy q x f).idx = f.idx ∧ (s.coveredBy q x f).status = f.status := f.coverBy_keeps _ _

/-- The state with the entries so changed. -/
def State.covering (s : State) (q : Nat) (x : DataWrite) : State := s.withFl (s.fl.map (s.coveredBy q x))

theorem State.acceptWrite_eq (s : State) (q : Nat) (x : DataWrite) (poison : Bool) :
    s.acceptWrite q x poison = (s.covering q x).land (s.qctx q).pasidOf x poison := rfl

theorem State.flight_covering (s : State) (q : Nat) (x : DataWrite) (k : Nat) (j : W32) :
    (s.covering q x).flight? k j = (s.flight? k j).map (s.coveredBy q x) := by
  show (s.fl.map _).find? _ = _
  rw [List.find?_map]
  refine congrArg (Option.map _) (congrArg (fun p => s.fl.find? p) (funext fun f => ?_))
  obtain ⟨hq, hi, -⟩ := s.coveredBy_keeps q x f
  simp only [Function.comp_apply, hq, hi]

/-! ## The acknowledgement -/

theorem State.flight_names {s : State} {q : Nat} {i : W32} {f : Flight} (h : s.flight? q i = some f) : f.q = q ∧ f.idx = i := by
  simpa using List.find?_some h

/-- The state in which write `x` of entry `i` of queue `q` stands in memory and is taken from its entry. -/
def State.accepted (s : State) (q : Nat) (i : W32) (x : DataWrite) : State := (s.acceptWrite q x x.poison).updFl q i (Flight.wrote x)

theorem State.land_onlyChanges (s : State) (p : Option Nat) (x : DataWrite) (poison : Bool) :
    onlyChanges [.regs, .mem] s (s.land p x poison) := onlyChanges_of_same (fun _ hb => State.land_same hb s p x poison)

/-- The entries after write `x` of entry `i` of queue `q` was accepted. -/
theorem State.flight_accepted (s : State) (q : Nat) (i : W32) (x : DataWrite) (k : Nat) (j : W32) : (s.accepted q i x).flight? k j
    = if k = q ∧ j = i then (s.flight? k j).map (fun f => (s.coveredBy q x f).wrote x) else (s.flight? k j).map (s.coveredBy q x) := by
  have landed : (s.acceptWrite q x x.poison).flight? k j = (s.flight? k j).map (s.coveredBy q x) := by
    rw [State.acceptWrite_eq, State.flight_of_fl ((s.covering q x).land_onlyChanges _ x x.poison .fl (by decide)), State.flight_covering]
  unfold State.accepted
  split_ifs with same
  · obtain ⟨rfl, rfl⟩ := same
    rw [State.flight_updFl _ k j (Flight.wrote x) (fun _ => ⟨rfl, rfl⟩), landed, Option.map_map]
    rfl
  · rw [State.flight_updFl_ne _ q i (Flight.wrote x) (fun _ => ⟨rfl, rfl⟩) k j same, landed]

section
variable {q : Nat} {i : W32} {s : State} {f : Flight} (hf : s.flight? q i = some f) (x : DataWrite)
include hf

/-- Settling and reaping the entry leave memory as the write left it. -/
theorem State.accepted_settles (hs : f.status ≠ stMalformed) :
    (((s.accepted q i x).settle q i).reap q i).mem = ((s.covering q x).land (s.qctx q).pasidOf x x.poison).mem := by
  have flight : (s.accepted q i x).flight? q i = some ((s.coveredBy q x f).wrote x) := by
    rw [State.flight_accepted, if_pos ⟨rfl, rfl⟩, hf]
    rfl
  have status : ((s.coveredBy q x f).wrote x).status ≠ stMalformed := (s.coveredBy_keeps q x f).2.2.trans_ne hs
  obtain ⟨-, -, frame⟩ := State.settle_spec flight status
  exact (onlyChanges_of_same (l := [.fl]) (fun _ hb => State.reap_same hb _ q i) .mem (by decide)).trans (frame .mem (by decide))

/-- A write that shares no byte with another one changes its entry alone. -/
theorem State.accepted_alone (alone : s.writesAlone q i x) :
    (s.accepted q i x).flight? q i = some (f.wrote x) ∧ keepsFlights q i s (s.accepted q i x) := by
  have free : ∀ g ∈ s.fl, ∀ y ∈ g.writes, ¬ (g.q = q ∧ g.idx = i ∧ y.w = x.w) → s.covers q x g.q y = false := by
    intro g hg y hy other
    by_contra h
    have shares := State.covers_overlaps (Bool.eq_true_of_not_eq_false h)
    rw [alone g hg y hy other] at shares
    exact Bool.false_ne_true shares
  refine ⟨?_, fun k j other => ?_⟩
  · rw [State.flight_accepted, if_pos ⟨rfl, rfl⟩, hf]
    exact congrArg some (Flight.wrote_coverBy _ (fun y hy hw => free f (List.mem_of_find?_eq_some hf) y hy (fun h => hw h.2.2)))
  · rw [State.flight_accepted, if_neg other]
    cases hg : s.flight? k j with
    | none => rfl
    | some g =>
      obtain ⟨hq, hi⟩ := State.flight_names hg
      refine congrArg some (Flight.coverBy_none _ (fun y hy => free g (List.mem_of_find?_eq_some hg) y hy (fun h => other ?_)))
      exact ⟨hq.symm.trans h.1, hi.symm.trans h.2.1⟩

end

/-- An acknowledged write inside memory is accepted, and its entry settles. -/
theorem exec_dataWriteAck_accepted {q : BitVec 22} {i : W32} {w : Nat} {s : State} {f : Flight} {x : DataWrite}
    (hf : s.flight? q.toNat i = some f) (hx : f.writes.find? (fun y => decide (y.w = w)) = some x) (hs : x.space ≠ 2)
    (hh : s.pair.hard = false) (inside : x.space = 1 → s.pkgOut x.addr x.bytes.length = false) :
    exec (.dataWriteAck q i w) s = .next (((s.accepted q.toNat i x).settle q.toNat i).reap q.toNat i) := by
  obtain ⟨names, -⟩ := State.flight_names hf
  have within : ¬ (x.space = 1 ∧ s.pkgOut x.addr x.bytes.length = true) := fun h => by
    rw [inside h.1] at h
    exact Bool.false_ne_true h.2
  show execDataWriteAck q i w s = _
  unfold execDataWriteAck
  simp only [hf, hx, hs, hh, within, names, if_false, Bool.false_eq_true]
  rfl

end Sys2Proof.Machine
end

section
/-!
PROOFS. In-package writes and merges (R447, R449).
-/
namespace Sys2Proof.Machine

theorem dataWriteAck_package {q : BitVec 22} {i : W32} {w : Nat} {s : State} {f : Flight} {x : DataWrite}
    (hf : s.flight? q.toNat i = some f) (hm : f.status ≠ stMalformed) (hx : f.writes.find? (fun y => decide (y.w = w)) = some x)
    (hs : x.space = 1) (hh : s.pair.hard = false) (inside : s.pkgOut x.addr x.bytes.length = false) :
    ∃ t, exec (.dataWriteAck q i w) s = .next t
      ∧ (∀ j, j < x.bytes.length → t.pkgFixed (x.addr + j) = if x.spent (x.addr + j) then s.pkgFixed (x.addr + j) else x.bytes.getD j 0)
      ∧ (∀ a, a < x.addr ∨ x.addr + x.bytes.length ≤ a → t.pkgFixed a = s.pkgFixed a)
      ∧ (x.poison = true → ∀ j, j < x.bytes.length → x.spent (x.addr + j) = false → t.wordBad ((x.addr + j) / 8) = true)
      ∧ t.mem.host = s.mem.host ∧ t.mem.hpoison = s.mem.hpoison ∧ t.mem.flash = s.mem.flash := by
  have mem := State.accepted_settles hf x hm
  refine ⟨_, exec_dataWriteAck_accepted hf hx (by omega) hh (fun _ => inside), fun j hj => ?_, fun a ha => ?_, fun hp j hj free => ?_, ?_⟩
  · rw [State.pkgFixed_of_mem mem, State.pkgFixed_land hs]
    cases x.spent (x.addr + j) with
    | false => rw [if_pos ⟨by omega, rfl⟩, Nat.add_sub_cancel_left, if_neg Bool.false_ne_true]
    | true =>
      rw [if_neg (fun h => Bool.false_ne_true h.2.symm), if_pos rfl]
      rfl
  · rw [State.pkgFixed_of_mem mem, State.pkgFixed_land hs, if_neg (by omega)]
    rfl
  · rw [hp] at mem
    have bad := State.wordBad_land hs (s.covering q.toNat x) (s.qctx q.toNat).pasidOf (a := x.addr + j) (by omega) free
    unfold State.wordBad State.synOf at bad ⊢
    rwa [mem]
  · rw [mem]
    exact State.land_package_others hs _ _ _

theorem merge_stores {a : W64} {new : List Byte} {s : State} (h0 : 0 < new.length) (h8 : new.length < 8)
    (hw : a.toNat % 8 + new.length ≤ 8) (inside : s.pkgOut a.toNat new.length = false) :
    ∃ t, exec (.merge a new) s = .next t
      ∧ (∀ j, j < new.length → t.pkgFixed (a.toNat + j) = new.getD j 0)
      ∧ (∀ b, b < a.toNat ∨ a.toNat + new.length ≤ b → t.pkgFixed b = s.pkgFixed b)
      ∧ judgeSyn (t.synOf a.toNat) = (if s.wordBad (a.toNat / 8) then .poisoned else .sound)
      ∧ (∀ b, b / 8 ≠ a.toNat / 8 → t.synOf b = s.synOf b)
      ∧ t.f IZ_MEMP_STAT_merge_poison = satAdd IZ_MEMP_STAT_merge_poison.w (s.f IZ_MEMP_STAT_merge_poison) (b2n (s.wordBad (a.toNat / 8)))
      ∧ t.f IZ_MEMP_STAT_uncorrectable = satAdd IZ_MEMP_STAT_uncorrectable.w (s.f IZ_MEMP_STAT_uncorrectable) (b2n (s.wordBad (a.toNat / 8)))
      ∧ t.f IZ_MEMP_STAT_corrected = satAdd IZ_MEMP_STAT_corrected.w (s.f IZ_MEMP_STAT_corrected) (b2n (s.wordFixed (a.toNat / 8)))
      ∧ keepsRegs (fun o => o = IZ_MEMP_STAT) s t ∧ onlyChanges [.regs, .mem] s t := by
  have run : exec (.merge a new) s = .next (s.writeWord a.toNat new false) := by
    refine guarded_true ?_ _ _
    rw [decide_eq_true h0, decide_eq_true h8, decide_eq_true (show a.toNat % 8 + new.length < 9 by omega), inside]
    rfl
  have wrote := s.writeWord_wrotePkg false hw
  obtain ⟨syn, -⟩ := s.writeWord_stored false hw
  obtain ⟨poisoned, lost, mended⟩ := s.mergeCounts_counts (a.toNat / 8)
  have regs : (s.writeWord a.toNat new false).regs = (s.mergeCounts (a.toNat / 8)).regs := by
    rw [s.writeWord_part false (by omega)]
    show (State.putPkgs (State.putPkgs _ _ _) _ _).regs = _
    exact (onlyChanges_of_same (l := [.mem]) (fun _ hb => State.putPkgs_same hb _ _ _) .regs (by decide)).trans
      (onlyChanges_of_same (l := [.mem]) (fun _ hb => State.putPkgs_same hb _ _ _) .regs (by decide))
  refine ⟨_, run, fun j hj => ?_, fun b hb => ?_, ?_, fun b hb => ?_, (State.f_of_regs regs _).trans poisoned,
    (State.f_of_regs regs _).trans lost, (State.f_of_regs regs _).trans mended, ?_, wrote.frame⟩
  · rw [wrote.fixed, if_pos (by omega), Nat.add_sub_cancel_left]
  · rw [wrote.fixed, if_neg (by omega)]
  · have part : s.wordMarked (a.toNat / 8) new false = s.wordBad (a.toNat / 8) := by
      simp [State.wordMarked, show new.length ≠ 8 by omega]
    rw [syn, if_pos rfl, part, judgeSyn_written]
  · rw [syn, if_neg hb]
  · exact (s.mergeCounts_keepsRegs _).trans (keepsRegs_of_regs regs)

end Sys2Proof.Machine

open Sys2Proof Sys2Proof.Machine

/-- Settles O24: a write goes piece by piece and word by word, and each word that it touches is written whole or merged. -/
theorem packageMemoryWrites : Obligations.PackageMemoryWrites := by
  unfold Obligations.PackageMemoryWrites
  exact ⟨fun _ _ _ _ _ _ hf hm hx hs hh inside => dataWriteAck_package hf hm hx hs hh inside,
    fun _ _ _ h0 h8 hw inside => merge_stores h0 h8 hw inside⟩
end

section
/-!
PROOFS. A data read that returns sound to its stitch, and an engine that owns nothing (R104, R214, R260).
-/
namespace Sys2Proof.Machine

/-! ## An engine without channels goes nowhere -/

theorem State.turns_unowned {u : State} (h : u.arb.own = []) (n res : Nat) : u.turns n res = u := by
  cases n with
  | zero => rfl
  | succ n =>
    have none : u.owned res = [] := by
      unfold State.owned State.ownerOf
      rw [h]
      exact List.filterMap_eq_nil_iff.mpr (fun _ _ => rfl)
    unfold State.turns State.nextTurn
    simp only [none, List.filter_nil, List.append_nil, List.find?_nil, Option.map_none]

theorem State.bound.letBursts {u : State} {e : Nat} {f : Flight} {x : Stitch} (h : u.bound e f x) (hl : x.line = none) (n : Nat) :
    u.letBursts n f.q f.idx e = u := by
  cases n with
  | zero => rfl
  | succ n =>
    unfold State.letBursts
    simp only [h.flight, h.stitch, hl]

theorem State.bound.showPace {u : State} {e : Nat} {f : Flight} {x : Stitch} (h : u.bound e f x) (hl : x.line = none)
    (he : u.engSt e ≠ 2) : u.showPace f.q f.idx e = u := by
  unfold State.showPace
  simp only [h.flight, h.stitch, hl, he, if_false]

/-- Engine `e` holds stitch `x` of an entry that writes, which no line paces and no burst of which waits for its acknowledgement, and no
engine owns a channel. -/
structure State.idleWriter (u : State) (e : Nat) (f : Flight) (x : Stitch) : Prop where
  bound : u.bound e f x
  writes : f.e.writes = true
  line : x.line = none
  ends : x.ends = []
  eng : u.engSt e ≠ 2
  own : u.arb.own = []

section
variable {u : State} {e : Nat} {f : Flight} {x : Stitch} (h : u.idleWriter e f x)
include h

/-- It issues no unit: it owns no channel of the destination. -/
theorem State.idleWriter.issueUnits (n : Nat) : u.issueUnits n f.q f.idx e false = u := by
  cases n with
  | zero => rfl
  | succ n =>
    have no : u.ownsIssue f e = false := by
      unfold State.ownsIssue
      rw [State.owns_nothing h.own, h.writes]
      rfl
    unfold State.issueUnits
    simp only [h.bound.flight, h.bound.stitch, no, Bool.and_false, Bool.false_and, Bool.false_eq_true, if_false]

theorem State.idleWriter.askGet : u.askGet f.q f.idx e = u := by
  unfold State.askGet
  simp only [h.bound.flight, h.bound.stitch, State.owns_nothing h.own, Bool.and_false, Bool.false_and, Bool.false_eq_true, if_false]

theorem State.idleWriter.ackBursts : u.ackBursts f.q f.idx e = u.updStitch f.q f.idx e (u.acked f x) := by
  unfold State.ackBursts
  simp only [h.bound.flight, h.bound.stitch, h.ends, List.filter_nil, List.foldl_nil]
  rfl

theorem State.idleWriter.acked : (u.updStitch f.q f.idx e (u.acked f x)).idleWriter e (f.updStitch e (u.acked f x)) x := by
  have same : u.acked f x x = x := by
    show ({ x with ends := x.ends.filter _ } : Stitch) = x
    rw [h.ends, List.filter_nil, ← h.ends]
  have after := h.bound.updStitch (g := u.acked f x) (fun _ => rfl)
  rw [same] at after
  exact ⟨after, h.writes, h.line, h.ends, h.eng, h.own⟩

/-- What is left of a turn is that bursts held under its number are acknowledged. -/
theorem State.idleWriter.goBy : u.goBy 0 f.q f.idx e = u.updStitch f.q f.idx e (u.acked f x) := by
  have after := h.acked
  have bursts : (u.updStitch f.q f.idx e (u.acked f x)).letBursts 256 f.q f.idx e = _ := after.bound.letBursts after.line 256
  have pace : (u.updStitch f.q f.idx e (u.acked f x)).showPace f.q f.idx e = _ := after.bound.showPace after.line after.eng
  unfold State.goBy
  simp only [h.bound.letBursts h.line, h.bound.flight, h.bound.stitch, h.line, Option.isSome_none, Bool.and_false, Bool.false_eq_true,
    if_false, Nat.zero_sub, State.issueReads, h.askGet, h.ackBursts, bursts, pace]

theorem State.idleWriter.engineGo : u.engineGo e = u.updStitch f.q f.idx e (u.acked f x) := by
  unfold State.engineGo
  simp only [h.bound.on, h.issueUnits, h.goBy]
  exact List.foldl_fixed' (f := fun t k => State.turns stageBursts t (u.readRes f k)) (fun _ => State.turns_unowned h.acked.own _ _) _

/-- Going on once more changes nothing. -/
theorem State.idleWriter.engineGo_twice : (u.engineGo e).engineGo e = u.engineGo e := by
  rw [h.engineGo, h.acked.engineGo]
  exact State.updStitch_idem u f.q f.idx e (fun _ => rfl) (u.acked_idem f x)

end

/-! ## The answer to a read -/

/-- A sound answer does not fail, and counts in the memory's register alone. -/
theorem State.answer_sound (s : State) {space p a : Nat} {g : ReadOut} (hm : (g.marks space a .ok).any id = false)
    (hd : space ≠ 0 → s.pkgOut a g.bytes.length = false) :
    (s.answer space p a g .ok).2 = none ∧ keepsRegs (fun o => o = IZ_MEMP_STAT) s (s.answer space p a g .ok).1 := by
  unfold State.answer
  simp only [hm, Bool.false_eq_true, if_false]
  by_cases h0 : space = 0
  · rw [if_pos h0]
    exact ⟨rfl, keepsRegs.refl _ s⟩
  · rw [if_neg h0, if_neg (by simp [hd h0])]
    exact ⟨rfl, (State.setF_keepsRegs _ IZ_MEMP_STAT_corrected _).trans (State.setF_keepsRegs _ IZ_MEMP_STAT_uncorrectable _)⟩

theorem State.answer_onlyChanges (s : State) (space p a : Nat) (g : ReadOut) (ans : ReadAns) :
    onlyChanges [.regs] s (s.answer space p a g ans).1 := onlyChanges_of_same (fun _ hb => State.answer_same hb s space p a g ans)

/-- Bytes none of which is marked are staged as sound ones. -/
theorem ReadOut.staged_sound {g : ReadOut} {space a : Nat} {ans : ReadAns} (hm : (g.marks space a ans).any id = false) :
    (g.bytes.zip (g.marks space a ans)).map (fun y => SByte.mk y.1 y.2) = g.bytes.map (fun b => SByte.mk b false) := by
  have len : (g.marks space a ans).length = g.bytes.length := by simp [ReadOut.marks]
  refine List.ext_getElem (by simp [len]) (fun j h1 h2 => ?_)
  have unmarked : (g.marks space a ans)[j]'(by simp at h2; omega) = false :=
    Bool.eq_false_iff.mpr (fun h => List.any_eq_false.mp hm _ (List.getElem_mem _) h)
  simp only [List.getElem_map, List.getElem_zip, unmarked]

/-! ## The staging of a reader -/

theorem onReader_getD {α : Type} {n k j : Nat} (g : List α → List α) (l : List (List α)) (h : j < n) :
    (onReader n k g l).getD j [] = if j = k then g (l.getD j []) else l.getD j [] := by
  unfold onReader
  rw [List.getD_eq_getElem _ _ (by simpa using h), List.getElem_map, List.getElem_range]

/-- The stitch without the oldest read of reader `k`. -/
def Flight.drawn (f : Flight) (k : Nat) (x : Stitch) : Stitch := { x with rds := onReader f.e.readers k (·.drop 1) x.rds }

/-- The stitch with the bytes `l` staged for reader `k`. -/
def Flight.staging (f : Flight) (k : Nat) (l : List SByte) (x : Stitch) : Stitch :=
  f.sumUp { x with stage := onReader f.e.readers k (· ++ l) x.stage }

/-- The state in which the read `o` of reader `k` has come back, counted, from address `a`. -/
def State.returned (s : State) (e k : Nat) (f : Flight) (o : ReadOut) (a : Nat) : State :=
  (((s.updStitch f.q f.idx e (f.drawn k)).answer (f.e.space (f.reader k).1) (s.qctx f.q).port a o .ok).1).sat IZ_CHK_STAT_ecc_corrected o.fixes

/-- The state in which its bytes are staged. -/
def State.staged (s : State) (e k : Nat) (f : Flight) (o : ReadOut) (a : Nat) : State :=
  (s.returned e k f o a).updStitch f.q f.idx e (f.staging k (o.bytes.map (fun b => SByte.mk b false)))

section
variable {e k : Nat} {o : ReadOut} {l : List ReadOut} {s : State} {f : Flight} {x : Stitch} {r : Run} (h : s.bound e f x)
  (hm : (o.marks (f.e.space (f.reader k).1) r.addr .ok).any id = false)
include h hm

theorem State.stageRead_sound (hs : x.stop = false) (hr : s.run = true) (ho : x.rds.getD k [] = o :: l)
    (ha : runAt (f.reader k).2 (f.e.sideOfs (f.reader k).1 x.wr + (x.stage.getD k []).length) o.bytes.length = some r)
    (hd : f.e.space (f.reader k).1 ≠ 0 → s.pkgOut r.addr o.bytes.length = false) :
    s.stageRead f.q f.idx e k .ok = s.staged e k f o r.addr := by
  have sound := (State.answer_sound (s.updStitch f.q f.idx e (f.drawn k)) (p := (s.qctx f.q).port) hm hd).1
  unfold State.stageRead
  simp only [h.flight, h.stitch, ho, ha, ReadOut.staged_sound hm]
  generalize answered : State.answer _ _ _ _ _ _ = z
  have passed : z.2 = none := by
    rw [← answered]
    exact sound
  rw [passed]
  refine (if_neg ?_).trans ?_
  · rw [hs, show State.run (State.updStitch _ _ _ _ _) = s.run from rfl, hr]
    decide
  · rw [← answered]
    rfl

/-- What the staging leaves. -/
theorem State.staged_spec (hd : f.e.space (f.reader k).1 ≠ 0 → s.pkgOut r.addr o.bytes.length = false) :
    (∃ g, (s.staged e k f o r.addr).bound e g (f.staging k (o.bytes.map (fun b => SByte.mk b false)) (f.drawn k x))
      ∧ g.q = f.q ∧ g.idx = f.idx ∧ g.e = f.e) ∧ keepsFlights f.q f.idx s (s.staged e k f o r.addr)
      ∧ keepsRegs (fun o => o = IZ_MEMP_STAT ∨ o = IZ_CHK_STAT) s (s.staged e k f o r.addr)
      ∧ onlyChanges [.regs, .fl] s (s.staged e k f o r.addr) := by
  have drawn := h.updStitch (g := f.drawn k) (fun _ => rfl)
  have counted := (State.answer_sound (s.updStitch f.q f.idx e (f.drawn k)) (p := (s.qctx f.q).port) hm hd).2
  have frame : onlyChanges [.regs] (s.updStitch f.q f.idx e (f.drawn k)) (s.returned e k f o r.addr) :=
    (State.answer_onlyChanges _ _ _ _ _ _).trans (State.setF_onlyChanges _ _ _)
  have fl : (s.returned e k f o r.addr).fl = (s.updStitch f.q f.idx e (f.drawn k)).fl := frame .fl (by decide)
  have back := drawn.of_fl fl
  have staged := back.updStitch (g := f.staging k (o.bytes.map (fun b => SByte.mk b false))) (fun _ => rfl)
  refine ⟨⟨_, staged, rfl, rfl, rfl⟩, ?_, ?_, ?_⟩
  · have first : keepsFlights f.q f.idx s (s.updStitch f.q f.idx e (f.drawn k)) := s.updFl_keepsFlights _ _ _ (fun _ => ⟨rfl, rfl⟩)
    have last : keepsFlights f.q f.idx (s.returned e k f o r.addr) (s.staged e k f o r.addr) :=
      State.updFl_keepsFlights _ _ _ _ (fun _ => ⟨rfl, rfl⟩)
    exact (first.trans (keepsFlights_of_fl fl)).trans last
  · have answered := keepsRegs.mono (Q := fun o => o = IZ_MEMP_STAT ∨ o = IZ_CHK_STAT) counted (fun _ => .inl)
    have noted : keepsRegs (fun o => o = IZ_MEMP_STAT ∨ o = IZ_CHK_STAT) _ (s.returned e k f o r.addr) :=
      (State.setF_keepsRegs _ IZ_CHK_STAT_ecc_corrected _).mono (fun _ => .inr)
    exact (answered.trans noted : keepsRegs _ s (s.returned e k f o r.addr))
  · exact ((s.updFl_onlyChanges _ _ _).mono (by simp)).trans ((frame.mono (by simp)).trans ((State.updFl_onlyChanges _ _ _ _).mono (by simp)))

end

/-- The counts of reads are no row of an engine's state. -/
theorem State.engSt_of_counts {s t : State} (h : keepsRegs (fun o => o = IZ_MEMP_STAT ∨ o = IZ_CHK_STAT) s t) (e : Nat) :
    t.engSt e = s.engSt e :=
  State.f_of_reg _ (h _ (by
    show ¬ (0x1000 + 8 * e = 0x720 ∨ 0x1000 + 8 * e = 0x610)
    omega))

/-! ## The commands -/

theorem dataReadDone_stages {e k : Nat} {o : ReadOut} {l : List ReadOut} {s : State} {f : Flight} {x : Stitch} {r : Run}
    (back : s.arb.gone.find? (fun y => decide (y.eng = e) && decide (y.src = k)) = none) (on : s.onEngine e = some (f, x))
    (hf : s.flight? f.q f.idx = some f) (hs : x.stop = false) (hr : s.run = true) (hk : k < f.e.readers) (ho : x.rds.getD k [] = o :: l)
    (ha : runAt (f.reader k).2 (f.e.sideOfs (f.reader k).1 x.wr + (x.stage.getD k []).length) o.bytes.length = some r)
    (hm : (o.marks (f.e.space (f.reader k).1) r.addr .ok).any id = false)
    (hd : f.e.space (f.reader k).1 ≠ 0 → s.pkgOut r.addr o.bytes.length = false) :
    ∃ u g y, exec (.dataReadDone e k .ok) s = .next (u.engineGo e)
      ∧ u.flight? f.q f.idx = some g ∧ g.stitch? e = some y ∧ y.wr = x.wr ∧ y.hi = x.hi ∧ y.rds.getD k [] = l
      ∧ y.stage.getD k [] = x.stage.getD k [] ++ o.bytes.map (fun b => SByte.mk b false)
      ∧ (∀ j, j < f.e.readers → j ≠ k → y.stage.getD j [] = x.stage.getD j [])
      ∧ keepsFlights f.q f.idx s u ∧ onlyChanges [.regs, .fl] s u
      ∧ (x.line = none → x.ends = [] → s.engSt e ≠ 2 → s.arb.own = [] → f.e.writes = true → exec (.dataReadDone e k .ok) s = .next u) := by
  have h : s.bound e f x := ⟨on, hf⟩
  have run : exec (.dataReadDone e k .ok) s = .next ((s.staged e k f o r.addr).engineGo e) := by
    show execDataReadDone e k .ok s = _
    unfold execDataReadDone
    simp only [back, on, State.stageRead_sound h hm hs hr ho ha hd]
  obtain ⟨⟨g, staged, hq, hi, he⟩, keeps, regs, frame⟩ := State.staged_spec h hm hd
  have arb : (s.staged e k f o r.addr).arb = s.arb := frame .arb (by decide)
  have left : (f.drawn k x).rds.getD k [] = l := by
    show (onReader _ _ _ _).getD k [] = l
    rw [onReader_getD _ _ hk, if_pos rfl, ho]
    rfl
  have mine : (onReader f.e.readers k (· ++ o.bytes.map (fun b => SByte.mk b false)) x.stage).getD k []
      = x.stage.getD k [] ++ o.bytes.map (fun b => SByte.mk b false) := by rw [onReader_getD _ _ hk, if_pos rfl]
  have others : ∀ j, j < f.e.readers → j ≠ k →
      (onReader f.e.readers k (· ++ o.bytes.map (fun b => SByte.mk b false)) x.stage).getD j [] = x.stage.getD j [] :=
    fun j hj other => by rw [onReader_getD _ _ hj, if_neg other]
  by_cases quiet : x.line = none ∧ x.ends = [] ∧ s.engSt e ≠ 2 ∧ s.arb.own = [] ∧ f.e.writes = true
  · obtain ⟨line, ends, idle, own, writes⟩ := quiet
    have engine := State.engSt_of_counts regs e
    generalize s.staged e k f o r.addr = t at run staged keeps frame arb engine
    have writer : t.idleWriter e g (f.staging k (o.bytes.map (fun b => SByte.mk b false)) (f.drawn k x)) :=
      ⟨staged, by rwa [he], line, ends, by rwa [engine], by rwa [arb]⟩
    have after := writer.acked.bound
    have still := writer.engineGo_twice
    rw [← writer.engineGo] at after
    have flight := after.flight
    rw [show (g.updStitch e _).q = f.q from hq, show (g.updStitch e _).idx = f.idx from hi] at flight
    refine ⟨t.engineGo e, _, _, by rw [run, still], flight, after.stitch, rfl, rfl, left, mine, others, keeps.trans ?_, frame.trans ?_,
      fun _ _ _ _ _ => run⟩
    · rw [writer.engineGo, hq, hi]
      exact State.updFl_keepsFlights _ _ _ _ (fun _ => ⟨rfl, rfl⟩)
    · rw [writer.engineGo]
      exact (State.updFl_onlyChanges _ _ _ _).mono (by simp)
  · have flight := staged.flight
    rw [hq, hi] at flight
    exact ⟨_, g, _, run, flight, staged.stitch, rfl, rfl, left, mine, others, keeps, frame,
      fun h1 h2 h3 h4 h5 => absurd ⟨h1, h2, h3, h4, h5⟩ quiet⟩

theorem dataWriteAck_host {q : BitVec 22} {i : W32} {w : Nat} {s : State} {f : Flight} {x : DataWrite}
    (hf : s.flight? q.toNat i = some f) (hm : f.status ≠ stMalformed) (hx : f.writes.find? (fun y => decide (y.w = w)) = some x)
    (hs : x.space = 0) (hh : s.pair.hard = false) (top : x.addr + x.bytes.length ≤ 2 ^ 64) :
    ∃ t u, exec (.dataWriteAck q i w) s = .next t ∧ t = (u.settle q.toNat i).reap q.toNat i
      ∧ (∀ j, j < x.bytes.length → t.hostByte (s.qctx q.toNat).pasidOf (x.addr + j)
          = if x.spent (x.addr + j) then s.hostByte (s.qctx q.toNat).pasidOf (x.addr + j) else x.bytes.getD j 0)
      ∧ (∀ p a, (∀ j, j < x.bytes.length → hostKey p a ≠ hostKey (s.qctx q.toNat).pasidOf (x.addr + j)) → t.hostByte p a = s.hostByte p a)
      ∧ t.mem.pkg = s.mem.pkg ∧ t.mem.syn = s.mem.syn ∧ t.mem.flash = s.mem.flash
      ∧ (s.writesAlone q.toNat i x → u.flight? q.toNat i = some { f with
            writes := f.writes.filter (fun y => decide (y.w ≠ w)), done := if x.lo < x.hi then f.done ++ [(x.lo, x.hi)] else f.done }
          ∧ keepsFlights q.toNat i s u) ∧ onlyChanges [.fl, .mem] s u := by
  have mem := State.accepted_settles hf x hm
  obtain ⟨pkg, syn, flash, frame⟩ := State.land_host_others hs (s.covering q.toNat x) (s.qctx q.toNat).pasidOf x.poison
  have name : x.w = w := by simpa using List.find?_some hx
  refine ⟨_, s.accepted q.toNat i x, exec_dataWriteAck_accepted hf hx (by omega) hh (fun h => by omega), rfl, fun j hj => ?_, fun p a other => ?_,
    (congrArg Memory.pkg mem).trans pkg, (congrArg Memory.syn mem).trans syn, (congrArg Memory.flash mem).trans flash, fun alone => ?_, ?_⟩
  · rw [State.hostByte_of_host (congrArg Memory.host mem), State.hostByte_land hs _ _ _ top hj]
    rfl
  · rw [State.hostByte_of_host (congrArg Memory.host mem), State.hostByte_land_of_ne hs _ _ _ other]
    rfl
  · obtain ⟨flight, keeps⟩ := State.accepted_alone hf x alone
    subst name
    exact ⟨flight, keeps⟩
  · have covered : onlyChanges [.fl] s (s.covering q.toNat x) := onlyChanges_of_same (fun _ hb => hb.on .fl (by decide) _ _)
    exact (covered.mono (by simp)).trans ((frame.mono (by simp)).trans ((State.updFl_onlyChanges _ _ _ _).mono (by simp)))

end Sys2Proof.Machine

open Sys2Proof Sys2Proof.Machine

/-- Settles O23: a sound read's bytes are staged before its engine goes on, and a host write goes to memory piece by piece as its entry
gains its range. -/
theorem dataReadsAndHostWrites : Obligations.DataReadsAndHostWrites := by
  unfold Obligations.DataReadsAndHostWrites
  exact ⟨fun _ _ _ _ _ _ _ _ back on hf hs hr hk ho ha hm hd => dataReadDone_stages back on hf hs hr hk ho ha hm hd,
    fun _ _ _ _ _ _ hf hm hx hs hh top => dataWriteAck_host hf hm hx hs hh top⟩
end

section
/-!
PROOFS. Mover Time's samples, their absence, and the second pulses (R143 to R145, R453, R454).
-/
namespace Sys2Proof.Machine

/-- A command that answers `t` under a frame law of every projection changes the parts of its law only. -/
theorem onlyChanges_of_sameR {l : List Part} {r : Res} {s t : State} (h : ∀ {β : Type} (π : State → β), Blind π l → SameR π r s)
    (e : r = .next t) : onlyChanges l s t :=
  onlyChanges_of_same (fun π hb => (h π hb).on t e)

theorem State.fb_false {s : State} {d : Fld} : s.fb d = false ↔ s.f d = 0 := by
  simp [State.fb]

theorem State.emit_out (s : State) (o : Out) : (s.emit o).out = s.out ++ [o] := rfl

theorem State.reg_cnt_ne (s : State) {d : Fld} {o : Nat} (h : o ≠ d.ofs) : (s.cnt d).reg o = s.reg o :=
  State.reg_setF_ne s d _ o h

theorem State.reg_peak_ne (s : State) {d : Fld} {o : Nat} (n : Nat) (h : o ≠ d.ofs) : (s.peak d n).reg o = s.reg o :=
  State.reg_setF_ne s d _ o h

theorem State.fb_of_reg {s t : State} (d : Fld) (h : t.reg d.ofs = s.reg d.ofs) : t.fb d = s.fb d := by
  unfold State.fb
  rw [State.f_of_reg d h]

/-! ## The status word -/

/-- What two writes to holdover and valid leave of the status word. -/
theorem State.f_setStat (s : State) (h v : Nat) :
    ((s.setF TB_STAT_holdover h).setF TB_STAT_valid v).f TB_STAT_valid = v % 2
      ∧ ((s.setF TB_STAT_holdover h).setF TB_STAT_valid v).f TB_STAT_holdover = h % 2
      ∧ ∀ d, d.lo + d.w ≤ 64 → (d.ofs ≠ TB_STAT ∨ 16 ≤ d.lo) → ((s.setF TB_STAT_holdover h).setF TB_STAT_valid v).f d = s.f d := by
  refine ⟨State.f_setF_self _ _ _ (by decide), ?_, fun d hd apart => ?_⟩
  · rw [State.f_setF_ne _ _ _ _ (by decide) (.inr (.inr (by decide))), State.f_setF_self _ _ _ (by decide)]
    rfl
  · have ne : ∀ e : Fld, e.ofs = TB_STAT → e.lo + e.w ≤ 16 → d.ofs ≠ e.ofs ∨ d.lo + d.w ≤ e.lo ∨ e.lo + e.w ≤ d.lo :=
      fun e he hw => apart.imp (fun k => by rwa [he]) (fun k => .inr (hw.trans k))
    rw [State.f_setF_ne _ _ _ _ hd (ne TB_STAT_valid rfl (by decide)), State.f_setF_ne _ _ _ _ hd (ne TB_STAT_holdover rfl (by decide))]

/-! ## Samples -/

theorem State.enterHoldover_onlyChanges (s : State) : onlyChanges [.regs, .ic, .out] s s.enterHoldover :=
  onlyChanges_of_same (fun _ hb => State.enterHoldover_same hb s)

theorem State.enterHoldover_tb (s : State) : s.enterHoldover.tb = s.tb := s.enterHoldover_onlyChanges .tb (by decide)

theorem State.enterHoldover_stat (s : State) : s.enterHoldover.f TB_STAT_valid = 0 ∧ s.enterHoldover.f TB_STAT_holdover = 1 :=
  ⟨(State.f_setStat _ 1 0).1, (State.f_setStat _ 1 0).2.1⟩

/-- A holdover that begins is counted and raises source 52. -/
theorem State.enterHoldover_begins {s : State} (h : s.f TB_STAT_holdover = 0) :
    s.enterHoldover.f TB_STAT_holdovers = satAdd TB_STAT_holdovers.w (s.f TB_STAT_holdovers) 1
      ∧ s.enterHoldover.f (IC_CNT_count 52) = min 255 (s.f (IC_CNT_count 52) + 1) := by
  unfold State.enterHoldover
  simp only [State.fb_false.mpr h, Bool.false_eq_true, if_false]
  obtain ⟨-, -, rest⟩ := State.f_setStat ((s.cnt TB_STAT_holdovers).raise 52) 1 0
  refine ⟨?_, ?_⟩
  · rw [rest _ (by decide) (.inr (by decide)), State.f_raise _ _ _ (by decide) (by decide), State.f_cnt_self _ _ (by decide)]
  · rw [rest _ (by decide) (.inl (by decide)), State.f_raise_count _ _ (by decide) (by decide),
      State.f_cnt_ne _ _ _ (by decide) (.inl (by decide))]

/-- A step forward and one backward against the sample before are counted. -/
theorem State.f_judgeStep {s : State} {x p : W64} (h : s.tb.prev = some p) :
    (p.toNat + 52 ≤ x.toNat → (s.judgeStep x).f TB_STAT_fwd_steps = satAdd TB_STAT_fwd_steps.w (s.f TB_STAT_fwd_steps) 1)
      ∧ (x.toNat < p.toNat → (s.judgeStep x).f TB_STAT_back_steps = satAdd TB_STAT_back_steps.w (s.f TB_STAT_back_steps) 1) := by
  unfold State.judgeStep
  simp only [h]
  refine ⟨fun far => ?_, fun back => ?_⟩
  · rw [if_pos far, State.f_cnt_self _ _ (by decide)]
  · rw [if_neg (by omega), if_pos back, State.f_cnt_self _ _ (by decide)]

/-- The state in which a valid sample is judged: the end of a holdover raises source 52. -/
def State.sampled (s : State) : State := if s.fb TB_STAT_holdover then s.raise 52 else s

theorem State.sampled_onlyChanges (s : State) : onlyChanges [.regs, .ic, .out] s s.sampled := by
  unfold State.sampled
  split
  · exact s.raise_onlyChanges 52
  · exact onlyChanges.refl _ s

theorem State.f_sampled (s : State) (d : Fld) (h : ¬ icReg d.ofs) : s.sampled.f d = s.f d := by
  unfold State.sampled
  split
  · exact State.f_raise s 52 d (by decide) h
  · rfl

theorem tsSample_valid (x : W64) (s : State) :
    ∃ t, exec (.tsSample x true) s = .next t ∧ t.mt = (if s.mt.toNat < x.toNat then x else s.mt) ∧ t.tb.sample = x ∧ t.tb.fabric = x
      ∧ t.tb.prev = some x ∧ t.f TB_STAT_valid = 1 ∧ t.f TB_STAT_holdover = 0
      ∧ (∀ p, s.tb.prev = some p → p.toNat + 52 ≤ x.toNat →
          t.f TB_STAT_fwd_steps = satAdd TB_STAT_fwd_steps.w (s.f TB_STAT_fwd_steps) 1)
      ∧ (∀ p, s.tb.prev = some p → x.toNat < p.toNat →
          t.f TB_STAT_back_steps = satAdd TB_STAT_back_steps.w (s.f TB_STAT_back_steps) 1)
      ∧ onlyChanges [.regs, .ic, .tb, .out] s t := by
  have tb : s.sampled.tb = s.tb := s.sampled_onlyChanges .tb (by decide)
  have judged : ((s.sampled.judgeStep x).setF TB_STAT_holdover 0 |>.setF TB_STAT_valid 1).tb = s.tb :=
    (State.judgeStep_same (Blind.tb.sub (by decide)) s.sampled x).trans tb
  obtain ⟨valid, hold, rest⟩ := State.f_setStat (s.sampled.judgeStep x) 0 1
  have steps : ∀ p, s.tb.prev = some p → _ := fun p hp => State.f_judgeStep (s := s.sampled) (x := x) (by rw [tb]; exact hp)
  refine ⟨_, rfl, ?_, rfl, rfl, rfl, valid, hold, fun p hp far => ?_, fun p hp back => ?_,
    onlyChanges_of_sameR (fun _ hb => execTsSample_same hb x true s) rfl⟩
  · show (if (State.tb (((s.sampled.judgeStep x).setF TB_STAT_holdover 0).setF TB_STAT_valid 1)).mt.toNat < x.toNat then x
      else (State.tb (((s.sampled.judgeStep x).setF TB_STAT_holdover 0).setF TB_STAT_valid 1)).mt) = _
    rw [judged]
    rfl
  · exact (rest _ (by decide) (.inr (by decide))).trans (((steps p hp).1 far).trans (by rw [s.f_sampled _ (by decide)]))
  · exact (rest _ (by decide) (.inr (by decide))).trans (((steps p hp).2 back).trans (by rw [s.f_sampled _ (by decide)]))

theorem tsSample_invalid (x : W64) (s : State) :
    ∃ t, exec (.tsSample x false) s = .next t ∧ t.mt = s.mt ∧ t.tb.prev = none ∧ t.f TB_STAT_valid = 0 ∧ t.f TB_STAT_holdover = 1
      ∧ (s.f TB_STAT_holdover = 0 → t.f TB_STAT_holdovers = satAdd TB_STAT_holdovers.w (s.f TB_STAT_holdovers) 1
          ∧ t.f (IC_CNT_count 52) = min 255 (s.f (IC_CNT_count 52) + 1))
      ∧ onlyChanges [.regs, .ic, .tb, .out] s t := by
  have tb := (s.withTb { s.tb with prev := none }).enterHoldover_tb
  rw [State.withTb_tb] at tb
  obtain ⟨valid, hold⟩ := (s.withTb { s.tb with prev := none }).enterHoldover_stat
  exact ⟨_, rfl, (congrArg TbState.mt tb :), (congrArg TbState.prev tb :), valid, hold,
    State.enterHoldover_begins (s := s.withTb { s.tb with prev := none }),
    onlyChanges_of_sameR (fun _ hb => execTsSample_same hb x false s) rfl⟩

theorem tsSampleMissing_counts (s : State) :
    ∃ t, exec .tsSampleMissing s = .next t ∧ t.mt = s.mt ∧ t.tb.prev = none ∧ t.tb.missing = min 4 (s.tb.missing + 1)
      ∧ (3 ≤ s.tb.missing → s.f TB_STAT_holdover = 0 → t.f TB_STAT_holdover = 1 ∧ t.f TB_STAT_valid = 0
          ∧ t.f TB_STAT_holdovers = satAdd TB_STAT_holdovers.w (s.f TB_STAT_holdovers) 1
          ∧ t.f (IC_CNT_count 52) = min 255 (s.f (IC_CNT_count 52) + 1))
      ∧ (s.tb.missing < 3 → t.regs = s.regs) ∧ onlyChanges [.regs, .ic, .tb, .out] s t := by
  by_cases due : min 4 (s.tb.missing + 1) = 4 ∧ ¬ s.fb TB_STAT_holdover
  · have e : exec .tsSampleMissing s
        = .next (s.withTb { s.tb with prev := none, missing := min 4 (s.tb.missing + 1) }).enterHoldover := congrArg _ (if_pos due)
    have tb := (s.withTb { s.tb with prev := none, missing := min 4 (s.tb.missing + 1) }).enterHoldover_tb
    rw [State.withTb_tb] at tb
    obtain ⟨valid, hold⟩ := (s.withTb { s.tb with prev := none, missing := min 4 (s.tb.missing + 1) }).enterHoldover_stat
    refine ⟨_, e, (congrArg TbState.mt tb :), (congrArg TbState.prev tb :), (congrArg TbState.missing tb :), fun _ out => ⟨hold, valid, ?_⟩,
      fun few => ?_, onlyChanges_of_sameR (fun _ hb => execTsSampleMissing_same hb s) e⟩
    · exact State.enterHoldover_begins (s := s.withTb { s.tb with prev := none, missing := min 4 (s.tb.missing + 1) }) out
    · omega
  · have e : exec .tsSampleMissing s
        = .next (s.withTb { s.tb with prev := none, missing := min 4 (s.tb.missing + 1) }) := congrArg _ (if_neg due)
    refine ⟨_, e, rfl, rfl, rfl, fun many out => ?_, fun _ => rfl, onlyChanges_of_sameR (fun _ hb => execTsSampleMissing_same hb s) e⟩
    exact absurd ⟨by omega, by simp [State.fb_false.mpr out]⟩ due

/-! ## Second pulses -/

/-- A pulse that comes in is stamped `v`, counted and passed on (R453). -/
def State.stamped (s : State) (v : W64) : State :=
  ((s.setReg TB_PPS_STAMP v).cnt TB_PPS_CFG_edges).emit (.ppsStamp v)

theorem State.stamped_spec (s : State) (v : W64) :
    (s.stamped v).reg TB_PPS_STAMP = v
      ∧ (s.stamped v).f TB_PPS_CFG_edges = satAdd TB_PPS_CFG_edges.w (s.f TB_PPS_CFG_edges) 1
      ∧ (s.stamped v).out = s.out ++ [.ppsStamp v] := by
  unfold State.stamped
  refine ⟨?_, ?_, by rw [State.emit_out, State.cnt_out, State.setReg_out]⟩
  · rw [State.reg_emit, State.reg_cnt_ne _ (by decide), State.reg_setReg, if_pos rfl]
  · rw [State.f_of_reg _ (State.reg_emit _ _ _), State.f_cnt_self _ _ (by decide), State.f_setReg_ne _ _ _ _ (by decide)]

theorem ppsIn_stamps {s : State} (h : s.fb TB_PPS_CFG_in_en = true) (hp : 7 ≤ s.phase) :
    ∃ t, exec .ppsIn s = .next t ∧ t.reg TB_PPS_STAMP = s.mtIn 7 - 80
      ∧ t.f TB_PPS_CFG_edges = satAdd TB_PPS_CFG_edges.w (s.f TB_PPS_CFG_edges) 1 ∧ t.out = s.out ++ [.ppsStamp (s.mtIn 7 - 80)]
      ∧ onlyChanges [.regs, .out] s t := by
  have e : exec .ppsIn s = .next (s.stamped (s.mtIn 7 - 80)) := if_pos ⟨h, hp⟩
  obtain ⟨stamp, edges, out⟩ := s.stamped_spec (s.mtIn 7 - 80)
  exact ⟨_, e, stamp, edges, out, onlyChanges_of_sameR (fun _ hb => execPpsIn_same hb s) e⟩

/-- MT plus lead has not reached the second boundary that comes next. -/
theorem State.before_nextSecond (s : State) : s.mt.toNat + s.f TB_PPS_CFG_lead < s.nextSecond * 4000000000 := by
  unfold State.nextSecond secondMt
  omega

theorem ppsOut_rises {s : State} (h : s.fb TB_PPS_CFG_out_en = true) (hr : s.run = true) (low : s.pins.ppsOut = false)
    (due : s.tb.second * 4000000000 ≤ s.mt.toNat + s.f TB_PPS_CFG_lead) :
    ∃ t, exec (.ppsOut true) s = .next t ∧ t.pins = { s.pins with ppsOut := true }
      ∧ s.mt.toNat + s.f TB_PPS_CFG_lead < t.tb.second * 4000000000 ∧ t.mt = s.mt ∧ onlyChanges [.pins, .tb] s t := by
  have e : exec (.ppsOut true) s
      = .next ((s.withPins { s.pins with ppsOut := true }).withTb { s.tb with second := s.nextSecond }) := by
    show execPpsOut true s = _
    unfold execPpsOut
    rw [if_pos ⟨h, hr⟩, if_pos rfl, if_pos ⟨due, by simp [low]⟩]
  refine ⟨_, e, rfl, s.before_nextSecond, rfl, ?_⟩
  exact (onlyChanges_of_sameR (fun _ hb => execPpsOut_same hb true s) e : onlyChanges [.tb, .pins] s _).mono (by simp)

theorem ppsOut_falls {s : State} (h : s.fb TB_PPS_CFG_out_en = true) (hr : s.run = true) :
    ∃ t, exec (.ppsOut false) s = .next t ∧ t.pins = { s.pins with ppsOut := false } ∧ onlyChanges [.pins] s t := by
  have e : exec (.ppsOut false) s = .next (s.withPins { s.pins with ppsOut := false }) :=
    if_pos ⟨h, hr⟩
  exact ⟨_, e, rfl, onlyChanges_of_same (fun _ hb => State.withPins_same hb s _)⟩

end Sys2Proof.Machine

open Sys2Proof Sys2Proof.Machine

/-- Settles O30: samples valid, invalid and missing, the stamp of a pulse that comes in, and the pulse that goes out. -/
theorem timeSamples : Obligations.TimeSamples := by
  unfold Obligations.TimeSamples
  exact ⟨fun x s => ⟨tsSample_valid x s, tsSample_invalid x s⟩, tsSampleMissing_counts, fun _ h hp => ppsIn_stamps h hp,
    fun _ h hr => ⟨fun low due => ppsOut_rises h hr low due, ppsOut_falls h hr⟩⟩
end

section
/-!
PROOFS. A ring that breaks, and the time after which a ring's source is raised (R138, R141, R142, R152).
-/
namespace Sys2Proof.Machine

theorem State.setC_onlyChanges (s : State) (c : Nat) (x : CqCtx) : onlyChanges [.cq] s (s.setC c x) :=
  onlyChanges_of_same (fun _ hb => State.setC_same hb s c x)

theorem State.cctx_setC_self (s : State) (c : Nat) (x : CqCtx) : (s.setC c x).cctx c = x := by
  rw [State.cctx_setC, if_pos rfl]

theorem State.setC_keepsRings (s : State) (c : Nat) (x : CqCtx) : keepsRings c s (s.setC c x) :=
  fun k hk => by rw [State.cctx_setC, if_neg hk]

theorem State.raiseVia_onlyChanges (s : State) (p : Option Nat) (n : Nat) : onlyChanges [.regs, .ic, .out] s (s.raiseVia p n) :=
  onlyChanges_of_same (fun _ hb => State.raiseVia_same hb s p n)

/-! ## What a trace event leaves while no clear runs (R341) -/

theorem State.touchBlock_still {s : State} (n : Nat) (h : s.fb PAT_STAT_clearing = false) : s.touchBlock n = s := by
  unfold State.touchBlock
  rw [if_neg (by simp [h])]

theorem State.traceEv_mem {s : State} (m code unit aux a b : Nat) (h : s.fb PAT_STAT_clearing = false) :
    (s.traceEv m code unit aux a b).mem = s.mem := by
  unfold State.traceEv State.traceIn
  dsimp only
  rw [State.touchBlock_still _ h]
  split_ifs
  · rw [State.withTrace_mem]
  · rw [State.cnt_mem, State.withTrace_mem]
  · rfl

/-! ## The break of a ring (R141) -/

/-- The records of ring `c` that are issued and not yet accepted. -/
def State.unaccepted (s : State) (c : Nat) : List Held := (s.cqs.issued.filter (fun y => decide (y.2.c = c))).map (·.2)

/-- Ring `c` is BROKEN: its records that are not accepted are held again, and its write-backs given up. -/
def State.ringBroken (s : State) (c : Nat) : State :=
  (s.withCqs { issued := s.cqs.issued.filter (fun y => decide (y.2.c ≠ c)),
               spill := (s.unaccepted c).take (spillCap - s.spillLevel (cqGroup c)) ++ s.cqs.spill,
               waiting := (s.unaccepted c).drop (spillCap - s.spillLevel (cqGroup c)) ++ s.cqs.waiting,
               wbs := s.cqs.wbs.filter (fun y => decide (y.1 ≠ c)) }).setC c { s.cctx c with state := .broken }

theorem State.ringBroken_onlyChanges (s : State) (c : Nat) : onlyChanges [.cq, .cqs] s (s.ringBroken c) :=
  onlyChanges_of_same (fun _ hb => (State.setC_same (hb.sub (by decide)) _ c _).trans (State.withCqs_same (hb.sub (by decide)) s _))

theorem State.ringBroken_keepsRings (s : State) (c : Nat) : keepsRings c s (s.ringBroken c) := fun k hk =>
  (State.setC_keepsRings _ c _ k hk).trans rfl

/-- The break is traced where the ring leaves FULL, logged and raised. -/
def State.breakTold (s : State) (c : Nat) (mem : Bool) (x : CqCtx) : State :=
  let s := s.peak (CQ_SPILL_peak (cqGroup c)) (s.spillLevel (cqGroup c))
  let s := if x.state = .full then s.traceEv 4 0x31 0 0 c x.pi.toNat else s
  (s.logIn (if mem then 3 else 1) 0x08 3 c (b2n mem) 0 x.pi.toNat).raise 36

theorem State.breakRing_eq (s : State) (c : Nat) (mem : Bool) :
    s.breakRing c mem = ((s.ringBroken c).breakTold c mem (s.cctx c)).stallQueues c := rfl

/-- The registers that telling of a broken ring may change: the peak of its group's spill, those of trace, log and interrupts. -/
abbrev breakReg (c o : Nat) : Prop :=
  o = CQ_SPILL (cqGroup c) ∨ o = TB_TRACE_LOST ∨ o = PAT_CLEAR ∨ errReg o

theorem State.breakTraced_reg (s : State) {c o : Nat} (x : CqCtx) (h : ¬ breakReg c o) :
    (if x.state = .full then s.traceEv 4 0x31 0 0 c x.pi.toNat else s).reg o = s.reg o := by
  unfold breakReg at h
  push Not at h
  obtain ⟨-, hlost, hclear, -⟩ := h
  split
  · exact s.traceEv_reg _ _ _ _ _ _ _ hlost hclear
  · rfl

theorem State.breakLogged_reg (s : State) {c o : Nat} (mem : Bool) (x : CqCtx) (h : ¬ breakReg c o) :
    State.reg (State.logIn (if x.state = .full then
        (s.peak (CQ_SPILL_peak (cqGroup c)) (s.spillLevel (cqGroup c))).traceEv 4 0x31 0 0 c x.pi.toNat
      else s.peak (CQ_SPILL_peak (cqGroup c)) (s.spillLevel (cqGroup c))) (if mem then 3 else 1) 0x08 3 c (b2n mem) 0 x.pi.toNat) o
      = s.reg o := by
  rw [State.logIn_reg _ _ _ _ _ _ _ _ _ (by decide) (fun k => h (.inr (.inr (.inr k)))), State.breakTraced_reg _ x h]
  exact State.reg_setF_ne _ _ _ _ (fun e => h (.inl e))

theorem State.breakTold_reg (s : State) {c o : Nat} (mem : Bool) (x : CqCtx) (h : ¬ breakReg c o) (hi : ¬ icReg o) :
    (s.breakTold c mem x).reg o = s.reg o := by
  unfold State.breakTold
  rw [State.raise_reg _ _ _ (by decide) hi]
  exact s.breakLogged_reg mem x h

theorem icCount_not_break (c n : Nat) (h : n < 1024) : ¬ breakReg c (IC_CNT_count n).ofs := by
  unfold breakReg errReg cqGroup IC_CNT_count IC_CNT CQ_SPILL TB_TRACE_LOST PAT_CLEAR
  simp only
  omega

theorem State.f_breakTold_count (s : State) (c : Nat) (mem : Bool) (x : CqCtx) :
    (s.breakTold c mem x).f (IC_CNT_count 36) = min 255 (s.f (IC_CNT_count 36) + 1) := by
  unfold State.breakTold
  rw [State.f_raise_count _ _ (by decide) (by decide),
    State.f_of_reg (s := s) (IC_CNT_count 36) (s.breakLogged_reg mem x (icCount_not_break c 36 (by decide)))]

theorem State.breakTold_onlyChanges (s : State) (c : Nat) (mem : Bool) (x : CqCtx) :
    onlyChanges [.regs, .trace, .pat, .mem, .err, .ic, .out] s (s.breakTold c mem x) := by
  have traced : ∀ u : State, onlyChanges [.regs, .trace, .pat, .mem] u (if x.state = .full then u.traceEv 4 0x31 0 0 c x.pi.toNat else u) :=
    fun u => onlyChanges_of_same (fun _ hb => Same.ite (State.traceEv_same hb u _ _ _ _ _ _) (Same.refl u))
  have logged : ∀ (u : State) (d : Nat), onlyChanges [.regs, .err] u (u.logIn d 0x08 3 c (b2n mem) 0 x.pi.toNat) :=
    fun u d => onlyChanges_of_same (fun _ hb => State.logIn_same hb u _ _ _ _ _ _ _)
  exact ((s.setF_onlyChanges _ _).mono (by simp)).trans (((traced _).mono (by simp)).trans
    (((logged _ _).mono (by simp)).trans ((State.raise_onlyChanges _ 36).mono (by simp))))

theorem State.breakTold_mem {s : State} (c : Nat) (mem : Bool) (x : CqCtx) (h : s.fb PAT_STAT_clearing = false) :
    (s.breakTold c mem x).mem = s.mem := by
  have clear : (s.peak (CQ_SPILL_peak (cqGroup c)) (s.spillLevel (cqGroup c))).fb PAT_STAT_clearing = false := by
    have other : PAT_STAT ≠ CQ_SPILL (cqGroup c) := by unfold PAT_STAT CQ_SPILL cqGroup; omega
    rw [State.fb_of_reg (s := s) PAT_STAT_clearing (State.reg_peak_ne s (d := CQ_SPILL_peak (cqGroup c)) _ other), h]
  have logged : ∀ (u : State) (d : Nat), onlyChanges [.regs, .err] u (u.logIn d 0x08 3 c (b2n mem) 0 x.pi.toNat) :=
    fun u d => onlyChanges_of_same (fun _ hb => State.logIn_same hb u _ _ _ _ _ _ _)
  refine ((State.raise_onlyChanges _ 36) .mem (by decide)).trans (((logged _ _) .mem (by decide)).trans ?_)
  split
  · rw [State.traceEv_mem _ _ _ _ _ _ clear, State.peak_mem]
  · rw [State.peak_mem]

theorem State.stallQueues_onlyChanges (s : State) (c : Nat) : onlyChanges [.q, .fl, .arb, .pair, .lace, .out] s (s.stallQueues c) :=
  onlyChanges_of_same (fun _ hb => State.stallQueues_same hb s c)

theorem hostpXlat_not_break (c : Nat) (b : Bool) :
    ¬ breakReg c (IZ_HOSTP_STAT_xlat (b2n b)).ofs ∧ ¬ icReg (IZ_HOSTP_STAT_xlat (b2n b)).ofs := by
  have small : b2n b < 2 := by cases b <;> decide
  unfold breakReg icReg errReg cqGroup IZ_HOSTP_STAT_xlat IZ_HOSTP_STAT CQ_SPILL TB_TRACE_LOST PAT_CLEAR
  simp only
  omega

/-- What a break leaves: the ring BROKEN, its records held again, its source raised. -/
theorem State.breakRing_spec (s : State) (c : Nat) (mem : Bool) :
    (s.breakRing c mem).cctx c = { s.cctx c with state := .broken } ∧ keepsRings c s (s.breakRing c mem)
      ∧ (s.breakRing c mem).f (IC_CNT_count 36) = min 255 (s.f (IC_CNT_count 36) + 1)
      ∧ (s.breakRing c mem).cqs = (s.ringBroken c).cqs
      ∧ (s.fb PAT_STAT_clearing = false → (s.breakRing c mem).mem = s.mem)
      ∧ (∀ o, ¬ breakReg c o → ¬ icReg o → (s.breakRing c mem).reg o = s.reg o) := by
  rw [State.breakRing_eq]
  have broken := s.ringBroken_onlyChanges c
  have told := (s.ringBroken c).breakTold_onlyChanges c mem (s.cctx c)
  have stalled := ((s.ringBroken c).breakTold c mem (s.cctx c)).stallQueues_onlyChanges c
  have rings : ∀ k, _ = (s.ringBroken c).cctx k := fun k =>
    (State.cctx_of_cq (stalled .cq (by decide)) k).trans (State.cctx_of_cq (told .cq (by decide)) k)
  have regs := stalled .regs (by decide)
  refine ⟨(rings c).trans (State.cctx_setC_self _ c _), fun k hk => (rings k).trans (s.ringBroken_keepsRings c k hk), ?_,
    (stalled .cqs (by decide)).trans (told .cqs (by decide)), fun clear => ?_, fun o hb hi => ?_⟩
  · rw [State.f_of_regs regs, State.f_breakTold_count, State.f_of_regs (broken .regs (by decide))]
  · refine (stalled .mem (by decide)).trans ((State.breakTold_mem c mem _ ?_).trans (broken .mem (by decide)))
    rw [State.fb_of_reg PAT_STAT_clearing (State.reg_of_regs (broken .regs (by decide)) _), clear]
  · rw [State.reg_of_regs regs, State.breakTold_reg _ _ _ hb hi, State.reg_of_regs (broken .regs (by decide))]

theorem ringBroken_breaks {c : Nat} {mem : Bool} {s : State} (hs : (s.cctx c).state = .active ∨ (s.cctx c).state = .full)
    (hr : s.run = true) (hm : (s.cctx c).device = mem) :
    ∃ t, exec (.ringBroken c mem) s = .next t ∧ t.cctx c = { s.cctx c with state := .broken } ∧ keepsRings c s t
      ∧ t.f (IC_CNT_count 36) = min 255 (s.f (IC_CNT_count 36) + 1)
      ∧ t.cqs.issued = s.cqs.issued.filter (fun y => decide (y.2.c ≠ c)) ∧ t.cqs.wbs = s.cqs.wbs.filter (fun y => decide (y.1 ≠ c))
      ∧ t.cqs.spill = ((s.cqs.issued.filter (fun y => decide (y.2.c = c))).map (·.2)).take (spillCap - s.spillLevel (cqGroup c)) ++ s.cqs.spill
      ∧ t.cqs.waiting = ((s.cqs.issued.filter (fun y => decide (y.2.c = c))).map (·.2)).drop (spillCap - s.spillLevel (cqGroup c)) ++ s.cqs.waiting
      ∧ (mem = false → t.f (IZ_HOSTP_STAT_xlat (b2n (s.cctx c).hostpSel))
          = satAdd (IZ_HOSTP_STAT_xlat 0).w (s.f (IZ_HOSTP_STAT_xlat (b2n (s.cctx c).hostpSel))) 1)
      ∧ (s.fb PAT_STAT_clearing = false → t.mem = s.mem)
      ∧ onlyChanges [.regs, .q, .fl, .cq, .cqs, .ic, .arb, .trace, .pat, .pair, .lace, .err, .mem, .out] s t := by
  obtain ⟨u, hu, regs, count⟩ : ∃ u, u = (if mem then s else s.cnt (IZ_HOSTP_STAT_xlat (b2n (s.cctx c).hostpSel)))
      ∧ onlyChanges [.regs] s u ∧ (∀ o, o ≠ IZ_HOSTP_STAT (b2n (s.cctx c).hostpSel) → u.reg o = s.reg o) := by
    refine ⟨_, rfl, ?_, fun o ho => ?_⟩
    · split
      · exact onlyChanges.refl _ s
      · exact s.setF_onlyChanges _ _
    · split
      · rfl
      · exact State.reg_setF_ne s _ _ o ho
  have small : b2n (s.cctx c).hostpSel < 2 := by cases (s.cctx c).hostpSel <;> decide
  have e : exec (.ringBroken c mem) s = .next (u.breakRing c mem) := by
    rw [hu]
    exact if_pos ⟨hs, hr, by rw [hm]⟩
  obtain ⟨ring, rings, raised, cqs, clear, kept⟩ := u.breakRing_spec c mem
  have same := State.cctx_of_cq (regs .cq (by decide))
  have held : u.cqs = s.cqs := regs .cqs (by decide)
  have level : ∀ g, u.spillLevel g = s.spillLevel g := fun g => by unfold State.spillLevel; rw [held]
  have parts : (u.breakRing c mem).cqs = (s.ringBroken c).cqs := by
    rw [cqs]
    unfold State.ringBroken State.unaccepted
    rw [State.setC_cqs, State.withCqs_cqs, State.setC_cqs, State.withCqs_cqs, held, level]
  refine ⟨_, e, ring.trans (by rw [same]), fun k hk => (rings k hk).trans (same k), ?_, ?_, ?_, ?_, ?_, fun host => ?_, fun quiet => ?_,
    onlyChanges_of_sameR (fun _ hb => execRingBroken_same (hb.sub (by decide)) c mem s) e⟩
  · rw [raised, State.f_of_reg (s := s) (IC_CNT_count 36) (count _ (by simp only [IC_CNT_count, IC_CNT, IZ_HOSTP_STAT]; omega))]
  · rw [parts]; rfl
  · rw [parts]; rfl
  · rw [parts]; rfl
  · rw [parts]; rfl
  · obtain ⟨hb, hi⟩ := hostpXlat_not_break c (s.cctx c).hostpSel
    rw [State.f_of_reg (s := u) _ (kept _ hb hi), hu, if_neg (by simp [host]), State.f_cnt_self _ _ (by simp [IZ_HOSTP_STAT_xlat])]
    rfl
  · have still : u.fb PAT_STAT_clearing = false := by
      rw [State.fb_of_reg (s := s) PAT_STAT_clearing (count _ (by simp only [PAT_STAT_clearing, PAT_STAT, IZ_HOSTP_STAT]; omega)), quiet]
    exact (clear still).trans (regs .mem (by decide))

theorem cqCoalTimer_raises {c : Nat} {s : State} (hi : (s.cctx c).irqEn = true) (ht : (s.cctx c).coalTime ≠ 0)
    (hu : 0 < (s.cctx c).uncovered) (hr : s.run = true) (h0 : 0 < (s.cctx c).irqSrc) (h1 : (s.cctx c).irqSrc < 1024) :
    ∃ t, exec (.cqCoalTimer c) s = .next t ∧ t.cctx c = { s.cctx c with uncovered := 0 } ∧ keepsRings c s t
      ∧ t.f (IC_CNT_count (s.cctx c).irqSrc) = min 255 (s.f (IC_CNT_count (s.cctx c).irqSrc) + 1)
      ∧ onlyChanges [.regs, .cq, .ic, .out] s t := by
  have stored := s.setC_onlyChanges c { s.cctx c with uncovered := 0 }
  have raised := (s.setC c { s.cctx c with uncovered := 0 }).raiseVia_onlyChanges (s.cctx c).port (s.cctx c).irqSrc
  have rings := State.cctx_of_cq (raised .cq (by decide))
  refine ⟨_, guarded_true (by simp [hi, ht, hu, hr]) _ _, (rings c).trans (State.cctx_setC_self _ _ _),
    fun k hk => (rings k).trans (State.setC_keepsRings _ _ _ k hk), ?_, (stored.mono (by simp)).trans (raised.mono (by simp))⟩
  rw [State.f_raiseVia_count _ _ _ h1 h0.ne', State.f_of_regs (stored .regs (by decide))]

end Sys2Proof.Machine

open Sys2Proof Sys2Proof.Machine

/-- Settles O28: the break of a ring, told and with its queues stopped, and the raise at the end of a coalescing time. -/
theorem ringsBreakAndCoalesce : Obligations.RingsBreakAndCoalesce := by
  unfold Obligations.RingsBreakAndCoalesce
  exact ⟨fun _ _ _ hs hr hm => ringBroken_breaks hs hr hm, fun _ _ hi ht hu hr h0 h1 => cqCoalTimer_raises hi ht hu hr h0 h1⟩
end

section
/-!
PROOFS. The trace drain: a copy into host memory, and its consumer index (R151, R153).
-/
namespace Sys2Proof.Machine

theorem flatMap_wordBytes_length {l : List (List W64)} (h : ∀ r ∈ l, r.length = 4) : (l.flatMap wordBytes).length = 32 * l.length := by
  induction l with
  | nil => rfl
  | cons r l ih =>
    have words : (wordBytes r).length = 8 * r.length := by
      unfold wordBytes
      rw [List.length_flatMap, List.map_congr_left (g := fun _ => 8) (fun w _ => by simp [leBytes]), List.map_const', List.sum_replicate,
        smul_eq_mul, Nat.mul_comm]
    rw [List.flatMap_cons, List.length_append, words, h r (by simp), ih (fun x hx => h x (List.mem_cons_of_mem _ hx)), List.length_cons]
    omega

theorem State.copyLen_le (s : State) : s.copyLen ≤ s.trace.recs.length := by
  unfold State.copyLen
  dsimp only
  split_ifs with h k
  · exact k.1
  · exact Nat.zero_le _
  · omega

/-- What a copy of `n` records to host address `a` leaves: their bytes in memory, and the ring and PI moved on. -/
def State.copied (s : State) (a n : Nat) : State :=
  let v := (s.arbBusy resCstore 76).arbBusy s.traceRes 76
  let u := v.writeHost none a ((v.trace.recs.take n).flatMap wordBytes) false
  (u.withTrace { u.trace with recs := u.trace.recs.drop n }).wrapAdd TB_TRACE_PI_pi n

theorem exec_traceCopy_host {s : State} (h0 : 0 < s.copyLen) (hr : s.run = true) (hf : s.trace.failed = false)
    (hd : s.trace.device = false) (hc : s.owns resCstore 76 = true) (hp : s.owns s.traceRes 76 = true)
    (hi : s.fb IZ_CHK_INJ_armed = false) :
    exec .traceCopy s = .next (s.copied (s.trace.base.toNat + s.f TB_TRACE_PI_pi % s.drainRecs * 32) s.copyLen) := by
  have unarmed : ((s.arbBusy resCstore 76).arbBusy s.traceRes 76).fb IZ_CHK_INJ_armed = false :=
    State.unarmed_of_reg (s := s) rfl hi
  show execTraceCopy s = _
  unfold execTraceCopy
  rw [if_pos ⟨h0, hr, by simp [hf], hc, hp⟩, if_neg (by simp [hd]), State.ctlHops_unarmed unarmed]
  simp only [hd, spaceOf, State.writeBytes, Bool.false_eq_true, if_false, if_true]
  rfl

theorem State.copied_spec (s : State) (a n : Nat) (hb : ((s.trace.recs.take n).flatMap wordBytes).length ≤ 2 ^ 64) :
    (s.copied a n).trace.recs = s.trace.recs.drop n
      ∧ (s.copied a n).f TB_TRACE_PI_pi = (s.f TB_TRACE_PI_pi + n) % 2 ^ TB_TRACE_PI_pi.w
      ∧ (s.copied a n).hostBytes none a ((s.trace.recs.take n).flatMap wordBytes).length = (s.trace.recs.take n).flatMap wordBytes
      ∧ (s.copied a n).mem.pkg = s.mem.pkg ∧ keepsRegs (fun o => o = TB_TRACE_PI) s (s.copied a n)
      ∧ onlyChanges [.regs, .trace, .mem, .arb] s (s.copied a n) := by
  have busy := (s.arbBusy_onlyChanges resCstore 76).trans (State.arbBusy_onlyChanges _ s.traceRes 76)
  unfold State.copied
  generalize (s.arbBusy resCstore 76).arbBusy s.traceRes 76 = v at busy
  have ring : v.trace = s.trace := busy .trace (by decide)
  simp only [ring]
  have wrote : onlyChanges [.mem] v (v.writeHost none a ((s.trace.recs.take n).flatMap wordBytes) false) :=
    onlyChanges_of_same (fun _ hb => State.writeHost_same hb v _ _ _ _)
  have bytes := State.hostBytes_writeHost v none a ((s.trace.recs.take n).flatMap wordBytes) false hb
  have pkg := (v.writeHost_mem none a ((s.trace.recs.take n).flatMap wordBytes) false).2.1
  generalize v.writeHost none a ((s.trace.recs.take n).flatMap wordBytes) false = u at wrote bytes pkg
  have moved : onlyChanges [.regs, .trace] u ((u.withTrace { u.trace with recs := u.trace.recs.drop n }).wrapAdd TB_TRACE_PI_pi n) :=
    onlyChanges_of_same (fun _ hb => (State.wrapAdd_same (hb.sub (by decide)) _ _ _).trans (State.withTrace_same (hb.sub (by decide)) _ _))
  have regs : ∀ o, (u.withTrace { u.trace with recs := u.trace.recs.drop n }).reg o = s.reg o := fun o =>
    (State.reg_of_regs (State.withTrace_regs u _) o).trans
      ((State.reg_of_regs (wrote .regs (by decide)) o).trans (State.reg_of_regs (busy .regs (by decide)) o))
  have mem : Memory.host _ = _ ∧ Memory.pkg _ = _ := ⟨congrArg Memory.host (moved .mem (by decide)), congrArg Memory.pkg (moved .mem (by decide))⟩
  refine ⟨?_, ?_, ?_, ?_, fun o ho => ?_, (busy.mono (by simp)).trans ((wrote.mono (by simp)).trans (moved.mono (by simp)))⟩
  · rw [State.wrapAdd_trace, State.withTrace_trace, show u.trace = s.trace from (wrote .trace (by decide)).trans ring]
  · unfold State.wrapAdd
    rw [State.f_setF_self _ _ _ (by decide), State.f_of_reg (s := s) _ (regs _)]
  · exact (State.hostBytes_of_host mem.1 _ _ _).trans bytes
  · exact mem.2.trans (pkg.trans (congrArg Memory.pkg (busy .mem (by decide))))
  · exact (State.reg_setF_ne _ TB_TRACE_PI_pi _ _ ho).trans (regs o)

theorem traceCopy_drains {s : State} (h0 : 0 < s.copyLen) (hr : s.run = true) (hf : s.trace.failed = false)
    (hd : s.trace.device = false) (hc : s.owns resCstore 76 = true) (hp : s.owns s.traceRes 76 = true)
    (hi : s.fb IZ_CHK_INJ_armed = false)
    (top : s.trace.base.toNat + s.f TB_TRACE_PI_pi % s.drainRecs * 32 + 32 * s.copyLen ≤ 2 ^ 64) (hw : ∀ r ∈ s.trace.recs, r.length = 4) :
    ∃ t, exec .traceCopy s = .next t ∧ t.trace.recs = s.trace.recs.drop s.copyLen
      ∧ t.f TB_TRACE_PI_pi = (s.f TB_TRACE_PI_pi + s.copyLen) % 2 ^ TB_TRACE_PI_pi.w
      ∧ t.hostBytes none (s.trace.base.toNat + s.f TB_TRACE_PI_pi % s.drainRecs * 32) (32 * s.copyLen)
          = (s.trace.recs.take s.copyLen).flatMap wordBytes
      ∧ t.mem.pkg = s.mem.pkg ∧ keepsRegs (fun o => o = TB_TRACE_PI) s t ∧ onlyChanges [.regs, .trace, .mem, .arb] s t := by
  have length : ((s.trace.recs.take s.copyLen).flatMap wordBytes).length = 32 * s.copyLen := by
    rw [flatMap_wordBytes_length (fun r hr => hw r (List.mem_of_mem_take hr)), List.length_take, Nat.min_eq_left s.copyLen_le]
  obtain ⟨recs, pi, bytes, pkg, regs, frame⟩ := s.copied_spec
    (s.trace.base.toNat + s.f TB_TRACE_PI_pi % s.drainRecs * 32) s.copyLen (by omega)
  rw [length] at bytes
  exact ⟨_, exec_traceCopy_host h0 hr hf hd hc hp hi, recs, pi, bytes, pkg, regs, frame⟩

theorem traceCiWrite_judged {v : W32} {s : State} (hs : s.served = true) :
    ∃ t, exec (.traceCiWrite v) s = .next t ∧ onlyChanges [.regs] s t
      ∧ (idxDiff (BitVec.ofNat 32 (s.f TB_TRACE_PI_pi)) v ≤ idxDiff (BitVec.ofNat 32 (s.f TB_TRACE_PI_pi)) (BitVec.ofNat 32 (s.f TB_TRACE_CI_ci))
          → t.f TB_TRACE_CI_ci = v.toNat ∧ keepsRegs (fun o => o = TB_TRACE_CI) s t)
      ∧ (idxDiff (BitVec.ofNat 32 (s.f TB_TRACE_PI_pi)) (BitVec.ofNat 32 (s.f TB_TRACE_CI_ci)) < idxDiff (BitVec.ofNat 32 (s.f TB_TRACE_PI_pi)) v
          → t.f TB_TRACE_CI_ci = s.f TB_TRACE_CI_ci ∧ t.f TB_TRACE_LOST_ci_bad = satAdd TB_TRACE_LOST_ci_bad.w (s.f TB_TRACE_LOST_ci_bad) 1) := by
  refine ⟨_, guarded_true hs _ _, onlyChanges_of_same (fun _ hb => State.writeTraceCi_same hb s v), fun within => ?_, fun beyond => ?_⟩
  · unfold State.writeTraceCi
    rw [if_pos within]
    exact ⟨(State.f_setF_self _ _ _ (by decide)).trans (Nat.mod_eq_of_lt v.isLt), s.setF_keepsRegs TB_TRACE_CI_ci _⟩
  · unfold State.writeTraceCi
    rw [if_neg (not_le.mpr beyond)]
    exact ⟨State.f_cnt_ne _ _ _ (by decide) (.inl (by decide)), State.f_cnt_self _ _ (by decide)⟩

end Sys2Proof.Machine

open Sys2Proof Sys2Proof.Machine

/-- Settles O31: a copy to host memory, and a consumer index that is judged. -/
theorem traceDrainCopiesAndIsConsumed : Obligations.TraceDrainCopiesAndIsConsumed := by
  unfold Obligations.TraceDrainCopiesAndIsConsumed
  exact ⟨fun _ h0 hr hf hd hc hp hi top hw => traceCopy_drains h0 hr hf hd hc hp hi top hw, fun _ _ hs => traceCiWrite_judged hs⟩
end

section
/-!
PROOFS. Consumer indices of rings, and aperture accesses of no accepted form (R30 to R32, R134, R135).
-/
namespace Sys2Proof.Machine

/-! ## Indices are judged (R134, R135) -/

theorem State.actWaits_not (s : State) : s.actWaits false = false := rfl

/-- A ring that holds nothing back drains nothing. -/
theorem State.drainHeld_none {s : State} {c : Nat} (hs : s.spilledOf c = 0) (hw : s.waitsFor c = false) (n : Nat) : s.drainHeld n c = s := by
  have spill : s.cqs.spill.find? (fun h => decide (h.c = c)) = none := by
    rw [List.find?_eq_none]
    exact List.filter_eq_nil_iff.mp (List.length_eq_zero_iff.mp hs)
  have waiting : s.cqs.waiting.find? (fun h => decide (h.c = c)) = none := by
    rw [List.find?_eq_none]
    simpa [State.waitsFor] using hw
  cases n with
  | zero => rfl
  | succ n =>
    unfold State.drainHeld
    rw [spill, waiting]
    exact ite_self s

theorem State.leaveFull_not {s : State} {c : Nat} (h : (s.cctx c).state ≠ .full) : s.leaveFull c = s :=
  if_neg (fun k => h k.1)

theorem State.drainRing_none {s : State} {c : Nat} (hf : (s.cctx c).state ≠ .full) (hs : s.spilledOf c = 0) (hw : s.waitsFor c = false) :
    s.drainRing c = s := by
  unfold State.drainRing
  rw [State.drainHeld_none hs hw, State.leaveFull_not hf]
  exact ite_self s

/-- A legal index of a ring that is not FULL, holds nothing back and is not mirrored is taken. -/
theorem State.judgeCi_legal {s : State} {c : Nat} {v : W32} (t : W64) (ha : s.pair.acts = [])
    (hv : idxDiff (s.cctx c).pi v ≤ idxDiff (s.cctx c).pi (s.cctx c).ci) (hf : (s.cctx c).state ≠ .full) (hs : s.spilledOf c = 0)
    (hw : s.waitsFor c = false) (hm : s.cMirrored c = false) : s.judgeCi c v t = s.setC c { s.cctx c with ci := v } := by
  have now : s.judgeCi c v t = s.judgeCiNow c v t := by
    unfold State.judgeCi
    simp [ha, hm, State.actWaits_not]
  have ctx := s.cctx_setC_self c { s.cctx c with ci := v }
  have frame := s.setC_onlyChanges c { s.cctx c with ci := v }
  have judged : s.judgeCiNow c v t = State.mirrorCqci (State.drainRing (s.setC c { s.cctx c with ci := v }) c) c t :=
    if_pos (decide_eq_true hv)
  rw [now, judged]
  have cqs : (s.setC c { s.cctx c with ci := v }).cqs = s.cqs := frame .cqs (by decide)
  rw [State.drainRing_none (by rw [ctx]; exact hf) (by unfold State.spilledOf; rw [cqs]; exact hs) (by unfold State.waitsFor; rw [cqs]; exact hw)]
  unfold State.mirrorCqci
  rw [if_neg]
  rw [State.cMirrored_congr (frame .q (by decide)), hm]
  exact Bool.false_ne_true

/-- An index that goes back is counted at its ring and in CQ_CI_BAD (R135). -/
def State.ciRefused (s : State) (c : Nat) (v : W32) : State :=
  let x := s.cctx c
  let s := s.setC c { x with ciErrors := satAdd 16 x.ciErrors 1 }
  let s := ((s.cnt CQ_CI_BAD_count).setF CQ_CI_BAD_last_cqid (c % 2 ^ 18)).setF CQ_CI_BAD_last_ahead
    (if idxDiff v x.pi < 2 ^ 31 then 1 else 0)
  s.raise 35

theorem State.judgeCi_illegal {s : State} {c : Nat} {v : W32} (t : W64) (ha : s.pair.acts = [])
    (hv : idxDiff (s.cctx c).pi (s.cctx c).ci < idxDiff (s.cctx c).pi v) : s.judgeCi c v t = s.ciRefused c v := by
  have bad : (s.cctx c).ciLegal v = false := decide_eq_false (not_le.mpr hv)
  have now : s.judgeCi c v t = s.judgeCiNow c v t := by
    unfold State.judgeCi
    simp [ha, bad, State.actWaits_not]
  exact now.trans (if_neg (by simp [bad]))

theorem State.ciRefused_spec (s : State) (c : Nat) (v : W32) :
    (s.ciRefused c v).cctx c = { s.cctx c with ciErrors := satAdd 16 (s.cctx c).ciErrors 1 }
      ∧ (s.ciRefused c v).f CQ_CI_BAD_count = satAdd CQ_CI_BAD_count.w (s.f CQ_CI_BAD_count) 1
      ∧ (s.ciRefused c v).f CQ_CI_BAD_last_cqid = c % 2 ^ 18
      ∧ (s.ciRefused c v).f CQ_CI_BAD_last_ahead = (if idxDiff v (s.cctx c).pi < 2 ^ 31 then 1 else 0)
      ∧ (s.ciRefused c v).f (IC_CNT_count 35) = min 255 (s.f (IC_CNT_count 35) + 1)
      ∧ keepsRings c s (s.ciRefused c v) ∧ onlyChanges [.regs, .cq, .ic, .out] s (s.ciRefused c v) := by
  have stored := s.setC_onlyChanges c { s.cctx c with ciErrors := satAdd 16 (s.cctx c).ciErrors 1 }
  have ctx := s.cctx_setC_self c { s.cctx c with ciErrors := satAdd 16 (s.cctx c).ciErrors 1 }
  have kept := s.setC_keepsRings c { s.cctx c with ciErrors := satAdd 16 (s.cctx c).ciErrors 1 }
  unfold State.ciRefused
  dsimp only
  generalize s.setC c { s.cctx c with ciErrors := satAdd 16 (s.cctx c).ciErrors 1 } = u at stored ctx kept
  have counted : onlyChanges [.regs] u (((u.cnt CQ_CI_BAD_count).setF CQ_CI_BAD_last_cqid (c % 2 ^ 18)).setF CQ_CI_BAD_last_ahead
      (if idxDiff v (s.cctx c).pi < 2 ^ 31 then 1 else 0)) :=
    (u.setF_onlyChanges _ _).trans ((State.setF_onlyChanges _ _ _).trans (State.setF_onlyChanges _ _ _))
  have regs := stored .regs (by decide)
  have rings := fun k => State.cctx_of_cq (((counted.mono (by simp)).trans (State.raise_onlyChanges _ 35)) .cq (by decide)) k
  refine ⟨(rings c).trans ctx, ?_, ?_, ?_, ?_, fun k hk => (rings k).trans (kept k hk),
    (stored.mono (by simp)).trans ((counted.mono (by simp)).trans ((State.raise_onlyChanges _ 35).mono (by simp)))⟩
  · rw [State.f_raise _ _ _ (by decide) (by decide), State.f_setF_ne _ _ _ _ (by decide) (.inr (.inl (by decide))),
      State.f_setF_ne _ _ _ _ (by decide) (.inr (.inl (by decide))), State.f_cnt_self _ _ (by decide), State.f_of_regs regs]
  · rw [State.f_raise _ _ _ (by decide) (by decide), State.f_setF_ne _ _ _ _ (by decide) (.inr (.inl (by decide))),
      State.f_setF_self _ _ _ (by decide)]
    exact Nat.mod_mod _ _
  · rw [State.f_raise _ _ _ (by decide) (by decide), State.f_setF_self _ _ _ (by decide)]
    split <;> rfl
  · rw [State.f_raise_count _ _ (by decide) (by decide), State.f_setF_ne _ _ _ _ (by decide) (.inl (by decide)),
      State.f_setF_ne _ _ _ _ (by decide) (.inl (by decide)), State.f_cnt_ne _ _ _ (by decide) (.inl (by decide)), State.f_of_regs regs]

/-! ## An intake command whose contexts are at hand -/

/-- A context that the command needs and that is there is hot. -/
theorem State.hot_of_needed {s : State} {c : Instr} (h : s.cold [] c = false) {x : CtxKind × Nat} (hx : x ∈ s.needs c)
    (he : s.ctxExists x.1 x.2 = true) : s.hot x.1 x.2 = true := by
  have warm : ∀ x ∈ s.needs c, ¬ ((s.ctxExists x.1 x.2 && !s.hot x.1 x.2 && decide (x ∉ ([] : List (CtxKind × Nat)))) = true) :=
    List.any_eq_false.mp h
  simpa [he] using warm x hx

/-- Whether a command waits for a context shows in what it needs and in the cache. -/
theorem State.cold_congr {s t : State} {c : Instr} (hn : t.needs c = s.needs c) (hk : onlyChanges [.regs] s t)
    (hr : ∀ b, t.reg (SPR_ARRAY b) = s.reg (SPR_ARRAY b)) : t.cold [] c = s.cold [] c := by
  have one : ∀ x : CtxKind × Nat, t.ctxExists x.1 x.2 = s.ctxExists x.1 x.2 ∧ t.hot x.1 x.2 = s.hot x.1 x.2 := fun x =>
    ⟨State.ctxExists_congr _ _ (hk .q (by decide)) (hk .cq (by decide)) (hk .ctr (by decide)) (hk .pair (by decide)),
      State.hot_congr _ _ (congrArg Cache.ways (hk .cache (by decide))) (hr _)⟩
  unfold State.cold
  rw [hn]
  exact congrArg _ (funext (fun x => by rw [(one x).1, (one x).2]))

/-- The lookup of the queue that a command needs first counts a hit where the queue is hot. -/
theorem State.countLookup_hits {s : State} {c : Instr} {q : Nat} {l : List (CtxKind × Nat)} (hn : s.needs c = (.queue, q) :: l)
    (h : s.cold [] c = false) : keepsRegs hitReg s (s.countLookup c) := by
  unfold State.countLookup
  rw [hn]
  dsimp only
  split
  · next he => rw [State.hot_of_needed h (x := (.queue, q)) (by rw [hn]; exact List.mem_cons_self) he]; exact s.countCtx_keepsRegs .queue
  · exact keepsRegs.refl _ s

/-- A command of the intake that neither waits nor is discarded is looked up, counted and applied. -/
theorem State.intake_now {s : State} {c : Instr} {q : Nat} {l : List (CtxKind × Nat)}
    (hn : ∀ t : State, t.q = s.q → t.needs c = (.queue, q) :: l) (hd : s.discards c = false) (hb : blocked s.cache.waits c = false)
    (h : s.cold [] c = false) : s.intake c = (s.countLookup c).applyIntake c (s.mtIn 1) := by
  have looked := s.countLookup_onlyChanges c
  have warm : (s.countLookup c).cold [] c = false := by
    rw [State.cold_congr ((hn _ (looked .q (by decide))).trans (hn s rfl).symm) looked
      (fun b => s.countLookup_hits (hn s rfl) h _ (spr_not_hit b)), h]
  unfold State.intake State.intakeAt
  rw [if_neg (by simp [hd]), if_neg (by simp [hb])]
  simp only [warm, Bool.false_eq_true, if_false]

/-- Each of the contexts `l` that is hot becomes the most recently used way of its set. -/
def State.touchAll (s : State) (l : List (CtxKind × Nat)) : State := l.foldl (fun s x => if s.hot x.1 x.2 then s.touch x.1 x.2 else s) s

theorem State.touchAll_onlyChanges (s : State) (l : List (CtxKind × Nat)) : onlyChanges [.cache] s (s.touchAll l) :=
  onlyChanges_of_same (fun _ hb => Same.foldl _ _ _ (fun s _ => Same.ite (State.touch_same hb s _ _) (Same.refl s)))

/-! ## CQ_CI_WRITE -/

theorem cqCiBad_not_arrival {p : Nat} (h : p < 2) : ¬ arrivalReg p CQ_CI_BAD_count.ofs := by
  have : CQ_CI_BAD_count.ofs = CQ_CI_BAD := rfl
  unfold arrivalReg CQ_CI_BAD WQ_INTAKE_LEVEL WQ_CTX_HIT at *
  omega

theorem icCnt_not_arrival {p : Nat} (h : p < 2) : ¬ arrivalReg p (IC_CNT_count 35).ofs := by
  have : (IC_CNT_count 35).ofs = IC_CNT 35 := rfl
  unfold arrivalReg IC_CNT WQ_INTAKE_LEVEL WQ_CTX_HIT at *
  omega

/-- An index that is applied as it comes is judged in a state that differs in the counts of its arrival and the cache alone. -/
theorem exec_cqCiWrite {p : Fin 2} {q : BitVec 21} {v : W32} {s : State} (h : s.takesNow p.val (.cqCiWrite p q v true))
    (ho : s.slotClosed q.toNat = false) (hc : (s.cctx (s.qctx q.toNat).cqid).state ≠ .free) :
    ∃ w : State, exec (.cqCiWrite p q v true) s = .next (w.judgeCi (s.qctx q.toNat).cqid v (s.mtIn 1))
      ∧ onlyChanges [.regs, .cache] s w ∧ keepsRegs (arrivalReg p.val) s w := by
  obtain ⟨served, running, room, free, first, warm⟩ := h
  have accepted : s.aperture p.val true (.cqCiWrite p q v true)
      = (s.peak (WQ_INTAKE_LEVEL_peak p.val) (s.intakeLevel p.val + 1)).intake (.cqCiWrite p q v true) := by
    unfold State.aperture State.accept
    rw [if_neg (by simp [served]), if_pos (by simp [State.portOpen, room, free]), if_neg (by simp [running])]
    simp only [isDoorbell, if_true, Bool.not_true, Bool.false_eq_true, if_false]
  have peak : onlyChanges [.regs] s (s.peak (WQ_INTAKE_LEVEL_peak p.val) (s.intakeLevel p.val + 1)) := s.setF_onlyChanges _ _
  have level : keepsRegs (arrivalReg p.val) s (s.peak (WQ_INTAKE_LEVEL_peak p.val) (s.intakeLevel p.val + 1)) :=
    (s.setF_keepsRegs (WQ_INTAKE_LEVEL_peak p.val) _).mono (fun _ => .inl)
  generalize s.peak (WQ_INTAKE_LEVEL_peak p.val) (s.intakeLevel p.val + 1) = u at accepted peak level
  have needs : ∀ t : State, t.q = u.q → t.needs (.cqCiWrite p q v true) = [(.queue, q.toNat), (.ring, (s.qctx q.toNat).cqid)] := fun t ht => by
    show [(CtxKind.queue, q.toNat), (CtxKind.ring, (t.qctx q.toNat).cqid)] = _
    rw [State.qctx_of_q (ht.trans (peak .q (by decide)))]
  have warmer : u.cold [] (.cqCiWrite p q v true) = false := by
    rw [State.cold_congr ((needs u rfl).trans (by rfl)) peak
      (fun b => level _ (by rintro (e | e); exacts [spr_not_intake p.val _ p.isLt e, spr_not_hit _ e])), warm]
  have discards : u.discards (.cqCiWrite p q v true) = false := by
    simp [State.discards, slotOf, State.slotClosed_congr q.toNat (peak .q (by decide)) (level _ (admCfg_not_arrival p.isLt)), ho]
  have time : u.mtIn 1 = s.mtIn 1 := by unfold State.mtIn; rw [show u.tb = s.tb from peak .tb (by decide)]
  have taken := State.intake_now needs discards (by rw [show u.cache = s.cache from peak .cache (by decide)]; exact first) warmer
  have looked := u.countLookup_onlyChanges (.cqCiWrite p q v true)
  have regs := level.trans ((u.countLookup_hits (needs u rfl) warmer).mono (fun _ => .inr))
  generalize u.countLookup (.cqCiWrite p q v true) = w at taken looked regs
  have both := peak.trans looked
  have touched := w.touchAll_onlyChanges (w.needs (.cqCiWrite p q v true))
  have frame : onlyChanges [.regs, .cache] s (w.touchAll (w.needs (.cqCiWrite p q v true))) := (both.mono (by simp)).trans (touched.mono (by simp))
  have still := regs.trans (keepsRegs_of_regs (P := arrivalReg p.val) (touched .regs (by decide)))
  refine ⟨_, ?_, frame, still⟩
  show Host.Outcome.next (s.aperture p.val true (.cqCiWrite p q v true)) = _
  rw [accepted, taken, time]
  unfold State.applyIntake
  rw [if_neg (by simp [State.halted_congr (regs _ (patStat_not_arrival p.isLt)), running])]
  change Host.Outcome.next (if (w.touchAll _).slotClosed q.toNat = true then _ else
    if ((w.touchAll _).cctx ((w.touchAll _).qctx q.toNat).cqid).state = .free then _
    else (w.touchAll _).judgeCi ((w.touchAll _).qctx q.toNat).cqid v (s.mtIn 1)) = _
  rw [if_neg (by rw [State.slotClosed_congr q.toNat (frame .q (by decide)) (still _ (admCfg_not_arrival p.isLt)), ho]; exact Bool.false_ne_true),
    State.qctx_of_q (frame .q (by decide)), State.cctx_of_cq (frame .cq (by decide)), if_neg hc]


/-- A legal index that is applied as it comes to a ring that is not FULL, holds nothing back and is not mirrored. -/
theorem exec_cqCiWrite_legal {p : Fin 2} {q : BitVec 21} {v : W32} {s : State} {c : Nat} (h : s.takesNow p.val (.cqCiWrite p q v true))
    (ho : s.slotClosed q.toNat = false) (hn : (s.qctx q.toNat).cqid = c) (hc : (s.cctx c).state ≠ .free)
    (hv : idxDiff (s.cctx c).pi v ≤ idxDiff (s.cctx c).pi (s.cctx c).ci) (hf : (s.cctx c).state ≠ .full)
    (hs : s.spilledOf c = 0) (hw : s.waitsFor c = false) (hm : s.cMirrored c = false) (ha : s.pair.acts = []) :
    ∃ t, exec (.cqCiWrite p q v true) s = .next t ∧ t.cctx c = { s.cctx c with ci := v } ∧ keepsRings c s t
      ∧ onlyChanges [.regs, .cq, .cache] s t := by
  subst hn
  obtain ⟨w, run, frame, -⟩ := exec_cqCiWrite h ho hc
  have ring : ∀ c, w.cctx c = s.cctx c := fun c => State.cctx_of_cq (frame .cq (by decide)) c
  have cqs := frame .cqs (by decide)
  rw [State.judgeCi_legal _ (by rw [frame .pair (by decide), ha]) (by rw [ring]; exact hv) (by rw [ring]; exact hf)
    (by unfold State.spilledOf; rw [cqs]; exact hs) (by unfold State.waitsFor; rw [cqs]; exact hw)
    (by rw [State.cMirrored_congr (frame .q (by decide)), hm])] at run
  refine ⟨_, run, ?_, ?_, (frame.mono (by simp)).trans ((w.setC_onlyChanges _ _).mono (by simp))⟩
  · rw [State.cctx_setC_self, ring]
  · exact fun k hk => (w.setC_keepsRings _ _ k hk).trans (ring k)

/-- An illegal index that is applied as it comes is counted, and CI stays. -/
theorem exec_cqCiWrite_illegal {p : Fin 2} {q : BitVec 21} {v : W32} {s : State} {c : Nat} (h : s.takesNow p.val (.cqCiWrite p q v true))
    (ho : s.slotClosed q.toNat = false) (hn : (s.qctx q.toNat).cqid = c) (hb : c < 2 ^ 18) (hc : (s.cctx c).state ≠ .free)
    (hv : idxDiff (s.cctx c).pi (s.cctx c).ci < idxDiff (s.cctx c).pi v) (ha : s.pair.acts = []) :
    ∃ t, exec (.cqCiWrite p q v true) s = .next t
      ∧ t.cctx c = { s.cctx c with ciErrors := satAdd 16 (s.cctx c).ciErrors 1 }
      ∧ t.f CQ_CI_BAD_count = satAdd CQ_CI_BAD_count.w (s.f CQ_CI_BAD_count) 1 ∧ t.f CQ_CI_BAD_last_cqid = c
      ∧ t.f CQ_CI_BAD_last_ahead = (if idxDiff v (s.cctx c).pi < 2 ^ 31 then 1 else 0)
      ∧ t.f (IC_CNT_count 35) = min 255 (s.f (IC_CNT_count 35) + 1) ∧ keepsRings c s t
      ∧ onlyChanges [.regs, .cq, .cache, .ic, .out] s t := by
  subst hn
  obtain ⟨w, run, frame, regs⟩ := exec_cqCiWrite h ho hc
  have ring : ∀ c, w.cctx c = s.cctx c := fun c => State.cctx_of_cq (frame .cq (by decide)) c
  have counts : w.f CQ_CI_BAD_count = s.f CQ_CI_BAD_count := State.f_of_reg _ (regs _ (cqCiBad_not_arrival p.isLt))
  have events : w.f (IC_CNT_count 35) = s.f (IC_CNT_count 35) := State.f_of_reg _ (regs _ (icCnt_not_arrival p.isLt))
  obtain ⟨ctx, count, named, ahead, raised, rings, changed⟩ := w.ciRefused_spec (s.qctx q.toNat).cqid v
  rw [State.judgeCi_illegal _ (by rw [frame .pair (by decide), ha]) (by rw [ring]; exact hv)] at run
  refine ⟨_, run, by rw [ctx, ring], by rw [count, counts], by rw [named, Nat.mod_eq_of_lt hb], by rw [ahead, ring],
    by rw [raised, events], fun k hk => (rings k hk).trans (ring k), (frame.mono (by simp)).trans (changed.mono (by simp))⟩

/-! ## Accesses of no accepted form (R31, R32, R440) -/

theorem State.beginRead_empty (s : State) : s.beginRead.lastRead = [] := rfl

theorem State.ret_word (s : State) (v : W64) : (s.ret v).lastRead = s.lastRead ++ [v] := rfl

theorem State.beginRead_onlyChanges (s : State) : onlyChanges [.lastRead] s s.beginRead :=
  onlyChanges_of_same (fun _ hb => State.beginRead_same hb s)

theorem State.ret_onlyChanges (s : State) (v : W64) : onlyChanges [.lastRead] s (s.ret v) :=
  onlyChanges_of_same (fun _ hb => State.ret_same hb s v)

theorem State.stray_spec (s : State) (q cause : Nat) :
    (s.stray q cause).f WQ_DB_STRAY_count = satAdd WQ_DB_STRAY_count.w (s.f WQ_DB_STRAY_count) 1
      ∧ (s.stray q cause).f WQ_DB_STRAY_last_qid = q % 2 ^ 21 ∧ (s.stray q cause).f WQ_DB_STRAY_last_cause = cause % 2 ^ 2
      ∧ (s.stray q cause).f (IC_CNT_count 32) = min 255 (s.f (IC_CNT_count 32) + 1)
      ∧ onlyChanges [.regs, .ic, .out] s (s.stray q cause) := by
  refine ⟨?_, ?_, ?_, ?_, onlyChanges_of_same (fun _ hb => State.stray_same hb s q cause)⟩ <;> unfold State.stray
  · rw [State.f_raise _ _ _ (by decide) (by decide), State.f_setF_ne _ _ _ _ (by decide) (.inr (.inl (by decide))),
      State.f_setF_ne _ _ _ _ (by decide) (.inr (.inl (by decide))), State.f_cnt_self _ _ (by decide)]
  · rw [State.f_raise _ _ _ (by decide) (by decide), State.f_setF_ne _ _ _ _ (by decide) (.inr (.inl (by decide))),
      State.f_setF_self _ _ _ (by decide)]
    exact congrArg (fun w => q % 2 ^ w) (by decide : WQ_DB_STRAY_last_qid.w = 21)
  · rw [State.f_raise _ _ _ (by decide) (by decide), State.f_setF_self _ _ _ (by decide)]
    exact congrArg (fun w => cause % 2 ^ w) (by decide : WQ_DB_STRAY_last_cause.w = 2)
  · rw [State.f_raise_count _ _ (by decide) (by decide), State.f_setF_ne _ _ _ _ (by decide) (.inl (by decide)),
      State.f_setF_ne _ _ _ _ (by decide) (.inl (by decide)), State.f_cnt_ne _ _ _ (by decide) (.inl (by decide))]

theorem exec_misformedWrite {p : Fin 2} {q : BitVec 21} {ofs n : Nat} {s : State} (hs : s.served = true) (hr : s.halted = false)
    (room : s.intakeLevel p.val < 1024) (free : s.heldBack p.val = false) (hf : writeForm ofs n = false) :
    exec (.apertureMisformedAccess p q (.write true) ofs n) s
      = .next (s.stray q.toNat (if s.slotClosed q.toNat then 0 else strayCause true ofs n)) := by
  have accepted : s.aperture p.val true (.apertureMisformedAccess p q (.write true) ofs n)
      = s.stray q.toNat (if s.slotClosed q.toNat then 0 else strayCause true ofs n) := by
    unfold State.aperture State.accept
    rw [if_neg (by simp [hs]), if_pos (by simp [State.portOpen, room, free]), if_neg (by simp [hr])]
    simp only [isDoorbell, Bool.not_true, Bool.false_eq_true, if_false]
  show guarded (!writeForm ofs n) s (s.aperture p.val true (.apertureMisformedAccess p q (.write true) ofs n)) = _
  rw [accepted, guarded_true (by simp [hf])]

/-- A read at the offset of CI that is answered now reads the queue in a state that differs in the lookup count and the cache alone. -/
theorem exec_readCi {p : Fin 2} {q : BitVec 21} {n : Nat} {s : State}
    (h : s.halted = true ∨ (blocked s.cache.waits (.apertureMisformedAccess p q .read 0x10 n) = false
      ∧ s.cold [] (.apertureMisformedAccess p q .read 0x10 n) = false)) :
    ∃ w : State, exec (.apertureMisformedAccess p q .read 0x10 n) s = .next (w.readCi q.toNat n) ∧ w.lastRead = []
      ∧ onlyChanges [.regs, .cache, .lastRead] s w ∧ keepsRegs hitReg s w := by
  have opened := s.beginRead_onlyChanges
  have regs := keepsRegs_of_regs (P := hitReg) s.beginRead_regs
  by_cases halted : s.halted = true
  · refine ⟨s.beginRead, ?_, s.beginRead_empty, opened.mono (by simp), regs⟩
    show execApertureMisformedAccess p q .read 0x10 n s = _
    unfold execApertureMisformedAccess
    simp [halted]
  obtain ⟨first, warm⟩ := h.resolve_left halted
  have needs : ∀ t : State, t.needs (.apertureMisformedAccess p q .read 0x10 n) = [(.queue, q.toNat)] := fun _ => rfl
  have exists_ : ∀ x : CtxKind × Nat, s.beginRead.ctxExists x.1 x.2 = s.ctxExists x.1 x.2 := fun x =>
    State.ctxExists_congr _ _ (opened .q (by decide)) (opened .cq (by decide)) (opened .ctr (by decide)) (opened .pair (by decide))
  have hot : ∀ x : CtxKind × Nat, s.beginRead.hot x.1 x.2 = s.hot x.1 x.2 := fun x =>
    State.hot_congr _ _ (congrArg Cache.ways (opened .cache (by decide))) (regs _ (spr_not_hit _))
  have cold : s.beginRead.cold [] (.apertureMisformedAccess p q .read 0x10 n) = false := by
    rw [← warm]
    unfold State.cold
    rw [needs, needs]
    exact congrArg _ (funext (fun x => by rw [exists_, hot]))
  have taken := State.intake_now (s := s.beginRead) (fun t _ => needs t) (Bool.false_and _) (by rw [s.beginRead_cache]; exact first) cold
  have looked := s.beginRead.countLookup_onlyChanges (.apertureMisformedAccess p q .read 0x10 n)
  have hits := State.countLookup_hits (needs s.beginRead) cold
  have run : exec (.apertureMisformedAccess p q .read 0x10 n) s
      = .next (s.beginRead.intake (.apertureMisformedAccess p q .read 0x10 n)) := by
    show execApertureMisformedAccess p q .read 0x10 n s = _
    unfold execApertureMisformedAccess
    simp [halted]
  rw [taken] at run
  generalize s.beginRead.countLookup (.apertureMisformedAccess p q .read 0x10 n) = u at run looked hits
  have touched := u.touchAll_onlyChanges [(.queue, q.toNat)]
  have frame : onlyChanges [.regs, .cache, .lastRead] s u := (opened.mono (by simp)).trans (looked.mono (by simp))
  refine ⟨u.touchAll [(.queue, q.toNat)], ?_, ?_, frame.trans (touched.mono (by simp)), ?_⟩
  · rw [run]
    unfold State.applyIntake
    rw [if_neg (by simp [isDoorbell]), needs]
    rfl
  · rw [show (u.touchAll _).lastRead = u.lastRead from touched .lastRead (by decide),
      show u.lastRead = s.beginRead.lastRead from looked .lastRead (by decide), s.beginRead_empty]
  · exact (regs.trans hits).trans (keepsRegs_of_regs (touched .regs (by decide)))

theorem State.readCi_word (s : State) (q : Nat) {n : Nat} (h : n = 4 ∨ n = 8) :
    s.readCi q n = s.ret (BitVec.ofNat 64 (s.qctx q).ci.toNat) := if_pos h

/-- The stray read is counted, and its answer is a free value (log entry 21). -/
theorem State.readCi_stray (s : State) (q : Nat) {n : Nat} (h4 : n ≠ 4) (h8 : n ≠ 8) :
    s.readCi q n = State.ret ((s.stray q (if s.slotClosed q then 0 else 1)).withFree (s.free + 1)) (Config.freeWord s.free) :=
  if_neg (by simp [h4, h8])

end Sys2Proof.Machine

open Sys2Proof Sys2Proof.Machine

/-- Settles O9: an access that is applied as it comes reaches the judgement of its index (R134, R135), the stray count (R31, R32)
or the answer of a read in a state that differs in its arrival's counts and the cache alone. -/
theorem consumerIndexWrites : Obligations.ConsumerIndexWrites := by
  unfold Obligations.ConsumerIndexWrites
  refine ⟨fun p q v s h ho hb hc => ⟨fun hv hf hs hw hm ha => exec_cqCiWrite_legal h ho rfl hc hv hf hs hw hm ha,
    fun hv ha => exec_cqCiWrite_illegal h ho rfl hb hc hv ha⟩, fun p q ofs n s => ⟨?_, ?_, ?_⟩⟩
  · intro hs hr room free hf
    obtain ⟨count, named, cause, raised, changed⟩ := s.stray_spec q.toNat (if s.slotClosed q.toNat then 0 else strayCause true ofs n)
    refine ⟨_, exec_misformedWrite hs hr room free hf, count, ?_, ?_, raised, changed⟩
    · rw [named, Nat.mod_eq_of_lt q.isLt]
    · rw [cause]
      unfold strayCause
      rw [Bool.true_and]
      split
      · rfl
      · split <;> rfl
  · intro h
    obtain ⟨w, run, empty, frame, regs⟩ := exec_readCi h
    refine ⟨fun hn => ?_, fun h4 h8 => ?_⟩
    · rw [w.readCi_word q.toNat hn, State.qctx_of_q (frame .q (by decide))] at run
      refine ⟨_, run, ?_, frame.trans ((w.ret_onlyChanges _).mono (by simp)), regs.trans (keepsRegs_of_regs (w.ret_regs _))⟩
      rw [State.ret_word, empty, List.nil_append]
    · obtain ⟨count, named, cause, raised, changed⟩ := w.stray_spec q.toNat (if w.slotClosed q.toNat then 0 else 1)
      rw [w.readCi_stray q.toNat h4 h8, show w.free = s.free from frame .free (by decide)] at run
      have closed : w.slotClosed q.toNat = s.slotClosed q.toNat :=
        State.slotClosed_congr q.toNat (frame .q (by decide)) (regs _ (by decide))
      have strayFree : ∀ (u : State) (k : Nat) (x : W64) (d : Fld), (State.ret (u.withFree k) x).f d = u.f d :=
        fun u k x d => State.f_of_regs ((State.ret_regs _ x).trans (u.withFree_regs k)) d
      refine ⟨_, run, ?_, ?_, ?_, ?_, ?_, ?_, ?_⟩
      · rw [State.ret_word, State.withFree_lastRead, show (w.stray _ _).lastRead = w.lastRead from changed .lastRead (by decide), empty,
          List.nil_append]
      · rw [State.ret_free, State.withFree_free]
      · rw [strayFree, count, State.f_of_reg WQ_DB_STRAY_count (regs _ (by decide))]
      · rw [strayFree, named, Nat.mod_eq_of_lt q.isLt]
      · rw [strayFree, cause, closed]
        split <;> rfl
      · rw [strayFree, raised, State.f_of_reg (IC_CNT_count 32) (regs _ (by decide))]
      · exact (frame.mono (by simp)).trans ((changed.mono (by simp)).trans (onlyChanges_of_same (fun _ hb =>
          (State.ret_same (hb.sub (by decide)) _ _).trans (State.withFree_same (hb.sub (by decide)) _ _))))
  · intro ho
    refine ⟨s.beginRead.ret 0, if_neg ho, ?_, (s.beginRead_onlyChanges).trans (s.beginRead.ret_onlyChanges 0)⟩
    rw [State.ret_word, State.beginRead_empty, List.nil_append]
end

section
/-!
PROOFS. An idle step: the stages of a cycle that find nothing to do (R143, R145, R270 and log entries 3 and 70).
-/
namespace Sys2Proof.Machine

/-! ## Rest outlasts the time base, the arbiters and the order of the admin streams -/

theorem State.resting_withTb {s : State} (h : s.resting) (a : TbState) : (s.withTb a).resting := h
theorem State.resting_withArb {s : State} (h : s.resting) (a : ArbState) : (s.withArb a).resting := h
theorem State.resting_withAdm {s : State} (h : s.resting) (a : AdmState) : (s.withAdm a).resting := h

/-! ## A stage of the cycle that finds nothing to do changes nothing -/

theorem State.serveElog_resting {s : State} (h : s.resting) : s.serveElog = s := by
  obtain ⟨-, -, -, -, -, -, -, -, -, -, now, wait, reads, -⟩ := h
  have same : ({ s.err with reads := [] } : ErrState) = s.err := by rw [← reads]
  have empty : ({ s.err with wait := [] } : ErrState) = s.err := by rw [← wait]
  have flushed : s.flushLog = s := by
    unfold State.flushLog
    rw [if_pos (.inl now)]
    show forEach s.err.wait (fun r s => s.putLog r) (s.withErr { s.err with wait := [] }) = s
    rw [wait, empty]
    rfl
  unfold State.serveElog
  dsimp only
  rw [same, reads]
  show (if s.elogOpen = true then s.flushLog else s) = s
  rw [flushed, ite_self]

theorem State.haltTick_resting {s : State} (h : s.resting) : s.haltTick = s := by
  obtain ⟨running, left, -⟩ := h
  unfold State.haltTick
  rw [left]
  simp [running]

theorem State.retireBanks_resting {s : State} (h : s.resting) : s.retireBanks = s := by
  obtain ⟨-, -, banks, -⟩ := h
  unfold State.retireBanks
  rw [banks]
  rfl

theorem State.decodeTick_resting {s : State} (h : s.resting) : s.decodeTick = s := by
  obtain ⟨-, -, -, entries, -⟩ := h
  exact forEach_still _ (fun q _ => State.decodeRun_none 4 (fun f hf => (entries f (List.mem_of_mem_filter hf)).1))

theorem State.landMsgs_resting {s : State} (h : s.resting) : s.landMsgs = s := by
  obtain ⟨-, -, -, -, -, -, -, -, msgs, -⟩ := h
  have none : s.ic.msgs.filter (fun m => !m.landed) = [] := by
    rw [List.filter_eq_nil_iff]
    exact fun m hm => by simp [msgs m hm]
  unfold State.landMsgs
  rw [none]
  rfl

theorem State.landBacks_resting {s : State} (h : s.resting) : s.landBacks = s := by
  obtain ⟨-, -, -, -, -, -, -, wbs, -⟩ := h
  unfold State.landBacks
  rw [wbs]
  rfl

theorem State.mirrorTick_resting {s : State} (h : s.resting) : s.mirrorTick = s := by
  obtain ⟨-, -, -, entries, -, -, -, -, -, -, -, -, -, -, -, acts, rings, plain⟩ := h
  have waiting : s.fl.any (fun f => decide (f.phase = .mirrorWait) && s.sending f.q) = false := by
    rw [List.any_eq_false]
    exact fun f hf => by simp [(entries f hf).2]
  have mirrored : ∀ m : Nat → Bool, s.queues.any (fun q => s.qMirrored q && m q) = false := fun m => by
    rw [List.any_eq_false]
    exact fun q hq => by simp [plain q hq]
  unfold State.mirrorTick
  dsimp only
  rw [acts, rings, waiting, mirrored]
  simp

theorem State.sendFlushes_resting {s : State} (h : s.resting) : s.sendFlushes = s := by
  obtain ⟨-, -, -, -, -, -, -, -, -, unread, -⟩ := h
  unfold State.sendFlushes
  rw [unread]
  rfl

theorem State.sendOwn_resting {s : State} (h : s.resting) : s.sendOwn = s := by
  obtain ⟨-, -, -, -, due, sought, issued, -⟩ := h
  have fill : s.fillDue = [] := by unfold State.fillDue; rw [sought]; rfl
  have recs : s.sendRecs = s := by unfold State.sendRecs; rw [issued]; rfl
  unfold State.sendOwn
  rw [due, fill]
  show (if s.run = true then s.sendRecs else s) = s
  rw [recs, ite_self]

theorem State.laceTick_resting {s : State} (h : s.resting) : s.laceTick = s := by
  obtain ⟨-, -, -, -, -, -, -, -, -, -, -, -, -, -, up, -⟩ := h
  unfold State.laceTick
  rw [up]
  rfl

theorem State.heldTick_resting {s : State} (h : s.resting) : s.heldTick = s := by
  obtain ⟨-, -, -, -, -, -, -, -, -, -, -, -, -, accs, -⟩ := h
  unfold State.heldTick
  rw [accs]
  rfl

/-! ## The cycle -/

/-- Of the stages of a resting mover's cycle Mover Time, the idle counts and the order of the streams are left. -/
theorem tick_resting {s : State} (h : s.resting) : tick s = .next s.tbTick.arbTick.lineUp := by
  have timed : s.tbTick.resting := State.resting_withTb h _
  have counted : s.tbTick.arbTick.resting := State.resting_withArb timed _
  have ordered : s.tbTick.arbTick.lineUp.resting := State.resting_withAdm counted _
  unfold tick
  dsimp only
  rw [State.serveElog_resting timed, State.haltTick_resting timed, State.retireBanks_resting counted, State.decodeTick_resting counted,
    State.landMsgs_resting ordered, State.landBacks_resting ordered, State.mirrorTick_resting ordered, State.sendFlushes_resting ordered,
    State.sendOwn_resting ordered, State.laceTick_resting ordered, State.heldTick_resting ordered]

theorem State.lineNow_idle (s : State) : s.tbTick.arbTick.lineNow = s.lineNow := rfl

/-- MT after one cycle between samples: 2 or 3 units on in holdover, else at fabric time, which it never precedes. -/
theorem State.tbTick_mt (s : State) :
    s.tbTick.mt = (if s.fb TB_STAT_holdover then s.mt + (if s.tb.odd then 3 else 2)
      else BitVec.ofNat 64 (max s.mt.toNat (min (s.tb.fabric.toNat + (if s.tb.odd then 3 else 2)) (s.tb.sample.toNat + 25)))) := by
  show BitVec.ofNat 64 (if s.fb TB_STAT_holdover then s.tb.mt.toNat + (if s.tb.odd then 3 else 2) else _) = _
  split
  · cases s.tb.odd <;> simp [State.mt, BitVec.ofNat_add]
  · rfl

end Sys2Proof.Machine

open Sys2Proof Sys2Proof.Machine

/-- Settles O2: every other stage of the cycle finds nothing to do while the mover rests. -/
theorem idleStepAdvancesMoverTime : Obligations.IdleStepAdvancesMoverTime := by
  unfold Obligations.IdleStepAdvancesMoverTime
  intro s none rests
  have run : step s = tick s := by unfold step; rw [none]
  refine ⟨_, run.trans (tick_resting rests), ?_, ?_, rfl, rfl, rfl, s.tbTick_mt⟩
  · exact onlyChanges_of_same (fun _ hb => (State.lineUp_same (hb.sub (by decide)) _).trans
      ((State.arbTick_same (hb.sub (by decide)) _).trans (State.tbTick_same (hb.sub (by decide)) s)))
  · show { s.adm with line := s.tbTick.arbTick.lineNow } = _
    rw [State.lineNow_idle]
end

section
/-!
PROOFS. The spare that takes a failed reduction unit's place is a shadow that does not exist (R421, R424, R431).
-/
namespace Sys2Proof.Machine

/-- The number beyond the 17 reduction units whose row of IZ_RED_STATE would stand at SPR_UNIT_RETIRED. -/
def strayShadow : Nat := 98182

/-- A mover in RUN with auto_spare on and no SPARE reduction unit, where a SPARE that shadows unit 1 bears the stray number. -/
def shadowedState : State :=
  let s := ((State.reset.setF PAT_STAT_phase 7).setF SPR_POLICY_auto_spare 1).setF (IZ_RED_STATE_state 16) 5
  s.withSpr { s.spr with shadow := some (1, strayShadow, 4) }

/-- Unit 0 is IDLE, and the shadow is another unit than it. -/
theorem shadowedState_serves : shadowedState.run = true ∧ shadowedState.redSt 0 = 0 ∧ shadowedState.spr.shadow = some (1, strayShadow, 4) :=
  ⟨by decide +kernel, by decide +kernel, rfl⟩

/-- The bit of unit 0 in SPR_UNIT_RETIRED once unit 0 has failed. -/
def retiredBit : Option Bool :=
  match exec (.controlStateParityError true 0) shadowedState with
  | .next t => some (t.fb ⟨SPR_UNIT_RETIRED, 0, 1⟩)
  | _ => none

/-- The state IDLE of the stray spare has overwritten it. -/
theorem retiredBit_eq : retiredBit = some false := by decide +kernel

end Sys2Proof.Machine

open Sys2Proof Sys2Proof.Machine

/-- Refutes O58, in the clause on a reduction unit in service whose control state fails parity: the clause keeps only the failing
unit itself from being the running shadow, and no hypothesis keeps the shadow's number below 17. Where a SPARE that shadows bears
the number whose row would stand at SPR_UNIT_RETIRED, its state IDLE, as it takes the failed unit's place, clears the bit that has
just been set. -/
theorem not_errorLogAndFailures : ¬ Obligations.ErrorLogAndFailures := by
  unfold Obligations.ErrorLogAndFailures
  intro h
  obtain ⟨-, -, -, -, -, parity⟩ := h
  obtain ⟨running, idle, shadow⟩ := shadowedState_serves
  obtain ⟨-, fails⟩ := parity 0 shadowedState running
  obtain ⟨t, run, -, bit, -⟩ := fails (by decide) (by rw [idle]; decide) (fun _ y hy => by
    rw [shadow] at hy
    cases hy
    decide)
  have retired : retiredBit = some true := by
    unfold retiredBit
    rw [run]
    exact congrArg some bit
  rw [retiredBit_eq] at retired
  cases retired
end

section
/-!
PROOFS. What sending on the link leaves of the pair's state (R259, R349 to R352, R356, R393).
-/
namespace Sys2Proof.Machine

/-- The pair's state without what waits to be sent: what the Lace transmitter leaves of it. -/
def PairState.unpumped (p : PairState) : PairState := { p with ctrl := [], queue := [], lastSent := 0 }

/-- The pair's state without what sending mirror records changes. -/
def PairState.unsent (p : PairState) : PairState :=
  { p with seq := 0, queue := [], owed := [], ctrl := [], snaps := [], heldBack := [], lastSent := 0, locks := [], ciSent := [], endSeq := none }

theorem PairState.unsent_of_unpumped {p r : PairState} (h : p.unpumped = r.unpumped) : p.unsent = r.unsent := by
  show p.unpumped.unsent = r.unpumped.unsent
  rw [h]

/-! ## The transmitter -/

theorem State.ctrlNext_unpumped {s t : State} (h : s.ctrlNext = some t) : t.pair.unpumped = s.pair.unpumped := by
  unfold State.ctrlNext at h
  split at h
  · cases h
    exact congrArg PairState.unpumped (State.sendBytes_same (Blind.pair.sub (by decide)) _ _)
  · split at h
    · cases h
    · split at h
      · cases h
        rw [State.sendPkt_pair]
        rfl
      · cases h

theorem State.mirrorNext_unpumped {s t : State} {v : Nat} (h : s.mirrorNext v = some t) : t.pair.unpumped = s.pair.unpumped := by
  unfold State.mirrorNext at h
  split at h
  · cases h
  · split at h
    · cases h
      rw [State.sendPkt_pair]
      rfl
    · cases h

theorem State.laceNext_unpumped {s t : State} {r : Nat} (h : s.laceNext r = some t) : t.pair.unpumped = s.pair.unpumped := by
  unfold State.laceNext at h
  split at h
  · cases h
  split at h
  · exact State.ctrlNext_unpumped h
  · obtain ⟨x, -, rfl⟩ := Option.map_eq_some_iff.mp h
    exact congrArg PairState.unpumped (State.sendReplay_same (Blind.pair.sub (by decide)) _ _ _ _)
  · exact State.mirrorNext_unpumped h
  · exact State.mirrorNext_unpumped h
  · cases h

theorem State.pumpN_unpumped (n : Nat) (s : State) : (s.pumpN n).pair.unpumped = s.pair.unpumped := by
  induction n generalizing s with
  | zero => rfl
  | succ n ih =>
    unfold State.pumpN
    split
    · next r t h =>
      obtain ⟨x, -, hx⟩ := List.exists_of_findSome?_eq_some h
      obtain ⟨u, hu, e⟩ := Option.map_eq_some_iff.mp hx
      cases e
      rw [ih, ← State.laceNext_unpumped hu]
      rfl
    · rfl

theorem State.pump_unpumped (s : State) : s.pump.pair.unpumped = s.pair.unpumped := State.pumpN_unpumped _ s

theorem State.ctrlMsg_unpumped (s : State) (code : Nat) (qid : BitVec 22) (a : W32) (b : W64) :
    (s.ctrlMsg code qid a b).pair.unpumped = s.pair.unpumped := State.pump_unpumped _

theorem State.ctrlMsg_onlyChanges (s : State) (code : Nat) (qid : BitVec 22) (a : W32) (b : W64) :
    onlyChanges [.arb, .pair, .lace, .out] s (s.ctrlMsg code qid a b) := onlyChanges_of_same (fun _ hb => State.ctrlMsg_same hb s code qid a b)

theorem State.consume_onlyChanges (s : State) (v n : Nat) (p : List Byte → Bool) : onlyChanges [.lace] s (s.consume v n p) :=
  onlyChanges_of_same (fun _ hb => State.consume_same hb s v n p)

/-! ## Mirror records -/

theorem State.mirrorRec_onlyChanges (s : State) (code item cc qid : Nat) (a : W32) (b : W64) (l : List W64) :
    onlyChanges [.arb, .pair, .lace, .out] s (s.mirrorRec code item cc qid a b l) :=
  onlyChanges_of_same (fun _ hb => State.mirrorRec_same hb s code item cc qid a b l)

theorem State.mirrorNow_unsent (s : State) (code dom : Nat) (x : MRec) (l : List W64) :
    (s.mirrorNow code dom x l).pair.unsent = s.pair.unsent :=
  (PairState.unsent_of_unpumped (State.pump_unpumped _)).trans rfl

theorem State.mirrorRecAt_unsent (s : State) (t : W64) (dom code item cc qid : Nat) (a : W32) (b : W64) (l : List W64) :
    (s.mirrorRecAt t dom code item cc qid a b l).pair.unsent = s.pair.unsent := by
  unfold State.mirrorRecAt
  dsimp only
  split_ifs
  · exact State.mirrorNow_unsent _ _ _ _ _
  all_goals rfl

theorem State.mirrorRec_unsent (s : State) (code item cc qid : Nat) (a : W32) (b : W64) (l : List W64) :
    (s.mirrorRec code item cc qid a b l).pair.unsent = s.pair.unsent := State.mirrorRecAt_unsent ..

theorem State.mirrorDelta_unsent (s : State) (k : CtxKind) (n code cc qid : Nat) (a : W32) (b : W64) (l : List W64) :
    (s.mirrorDelta k n code cc qid a b l).pair.unsent = s.pair.unsent := by
  unfold State.mirrorDelta State.mirrorDeltaAt
  split_ifs
  · rfl
  · exact State.mirrorRecAt_unsent ..
  · rfl

theorem State.snapObj_unsent (s : State) (k : CtxKind) (n : Nat) : (s.snapObj k n).pair.unsent = s.pair.unsent := by
  cases k <;> exact State.mirrorRec_unsent ..

theorem State.snapObj_onlyChanges (s : State) (k : CtxKind) (n : Nat) : onlyChanges [.arb, .pair, .lace, .out] s (s.snapObj k n) :=
  onlyChanges_of_same (fun _ hb => State.snapObj_same hb s k n)

/-- Only SYNC_END notes its own seq, and sending any other record leaves the one noted. -/
theorem State.mirrorRec_endSeq (s : State) {code : Nat} (item cc qid : Nat) (a : W32) (b : W64) (l : List W64) (h : code ≠ 0x0B) :
    (s.mirrorRec code item cc qid a b l).pair.endSeq = s.pair.endSeq := by
  unfold State.mirrorRec State.mirrorRecAt
  dsimp only
  split_ifs
  · exact (congrArg PairState.endSeq (State.pump_unpumped _)).trans (if_neg h)
  all_goals rfl

theorem State.snapObj_endSeq (s : State) (k : CtxKind) (n : Nat) : (s.snapObj k n).pair.endSeq = s.pair.endSeq := by
  cases k <;> exact State.mirrorRec_endSeq _ _ _ _ _ _ _ (by decide)

end Sys2Proof.Machine
end

section
/-!
PROOFS. The mirror record that the keeper takes next (R124, R207, R350, R352, R353, R359).
-/
namespace Sys2Proof.Machine

/-! ## The mirror's tables (R346, R353) -/

theorem State.mqOf_of_mq {s t : State} (h : t.pair.mq = s.pair.mq) (q : Nat) : t.mqOf q = s.mqOf q := by
  unfold State.mqOf
  rw [h]

theorem State.mcqOf_of_mcq {s t : State} (h : t.pair.mcq = s.pair.mcq) (c : Nat) : t.mcqOf c = s.mcqOf c := by
  unfold State.mcqOf
  rw [h]

theorem State.logOf_of_log {s t : State} (h : t.pair.log = s.pair.log) (q : Nat) (i : W32) : t.logOf q i = s.logOf q i := by
  unfold State.logOf
  rw [h]

theorem State.present_of_mq {s t : State} (h : t.pair.mq = s.pair.mq) (q : Nat) : t.present q = s.present q := by
  unfold State.present
  rw [State.mqOf_of_mq h]

theorem State.mqOf_setMq (s : State) (q k : Nat) (x : QCtx) : (s.setMq q x).mqOf k = if k = q then x else s.mqOf k :=
  Tbl.get_set _ _ _ _ _

theorem State.mcqOf_setMcq (s : State) (c k : Nat) (x : CqCtx) : (s.setMcq c x).mcqOf k = if k = c then x else s.mcqOf k :=
  Tbl.get_set _ _ _ _ _

theorem State.warm_pair (s : State) (k : CtxKind) (n : Nat) : (s.warm k n).pair = s.pair := State.warm_same (Blind.pair.sub (by decide)) s k n

theorem State.warm_ctr (s : State) (k : CtxKind) (n : Nat) : (s.warm k n).ctr = s.ctr := State.warm_same (Blind.ctr.sub (by decide)) s k n

theorem State.chill_pair (s : State) (k : CtxKind) (n : Nat) : (s.chill k n).pair = s.pair := State.chill_same (Blind.pair.sub (by decide)) s k n

theorem mQueue_lt (r : MRec) : mQueue r < 2 ^ 21 := Nat.mod_lt _ (by decide)

/-- A change of a mirrored queue touches no other table of the mirror. -/
theorem State.updMq_pair (s : State) (q : Nat) (g : QCtx → QCtx) :
    (s.updMq q g).pair = { s.pair with mq := (s.updMq q g).pair.mq } := by
  unfold State.updMq
  split
  · rw [State.warm_pair]
    rfl
  · rfl

theorem State.mqOf_updMq (s : State) (q k : Nat) (g : QCtx → QCtx) :
    (s.updMq q g).mqOf k = if k = q ∧ s.present q = true then g (s.mqOf q) else s.mqOf k := by
  unfold State.updMq
  split
  · next h =>
    rw [State.mqOf_of_mq (congrArg PairState.mq (State.warm_pair _ _ _)), State.mqOf_setMq]
    simp [h]
  · next h => simp [h]

theorem State.updMcq_pair (s : State) (c : Nat) (g : CqCtx → CqCtx) :
    (s.updMcq c g).pair = { s.pair with mcq := (s.updMcq c g).pair.mcq } := by
  unfold State.updMcq
  split
  · rfl
  · rw [State.warm_pair]
    rfl

theorem State.mcqOf_updMcq (s : State) (c k : Nat) (g : CqCtx → CqCtx) :
    (s.updMcq c g).mcqOf k = if k = c ∧ (s.mcqOf c).state ≠ .free then g (s.mcqOf c) else s.mcqOf k := by
  unfold State.updMcq
  split
  · next h => simp [h]
  · next h =>
    rw [State.mcqOf_of_mcq (congrArg PairState.mcq (State.warm_pair _ _ _)), State.mcqOf_setMcq]
    simp [h]

/-- The done log keeps the entries of different queues and indices apart (R353). -/
theorem logKey_inj {q k : Nat} {i j : W32} (hq : q < 2 ^ 21) (hk : k < 2 ^ 21) (h : logKey k j = logKey q i) : k = q ∧ j = i := by
  unfold logKey at h
  rw [Nat.mod_eq_of_lt hq, Nat.mod_eq_of_lt hk] at h
  have hi := i.isLt
  have hj := j.isLt
  exact ⟨by omega, BitVec.eq_of_toNat_eq (by omega)⟩

theorem State.logOf_updLog_self (s : State) (q : Nat) (i : W32) (g : DoneLog → DoneLog) : (s.updLog q i g).logOf q i = g (s.logOf q i) :=
  Tbl.get_upd_self _ _ _ _

theorem State.updLog_keepsLog (s : State) {q : Nat} (hq : q < 2 ^ 21) (i : W32) (g : DoneLog → DoneLog) : keepsLog q i s (s.updLog q i g) :=
  fun _ _ hk h => Tbl.get_upd_ne _ _ _ (fun e => h (logKey_inj hq hk e))

theorem keepsLog_of_log {q : Nat} {i : W32} {s t : State} (h : t.pair.log = s.pair.log) : keepsLog q i s t :=
  fun _ _ _ _ => State.logOf_of_log h _ _

/-- Of a table without the keys that `p` names, what stands under the others is left. -/
theorem Tbl.get_without {α : Type} (d : Nat → α) (t : Tbl α) (p : Nat → Bool) (k : Nat) :
    Tbl.get d (t.filter (fun x => !p x.1)) k = if p k then d k else Tbl.get d t k := by
  induction t with
  | nil => simp [Tbl.get]
  | cons x r ih =>
    obtain ⟨a, v⟩ := x
    by_cases e : k = a
    · subst e
      cases hp : p k <;> simp [Tbl.get, hp] at ih ⊢
      exact ih
    · cases hp : p a <;> simp [Tbl.get, hp, e, ih]

/-! ## Effects (R350, R353) -/

/-- What no record's effect changes of the pair, the error log, and the phase of a takeover. -/
def State.aside (s : State) : PairState × ErrState × Nat := ({ s.pair with mq := [], mcq := [], log := [] }, s.err, s.f PAIR_STAT_phase)

theorem Blind.aside : Blind State.aside [.ctr, .cache] :=
  ⟨fun x hx => by
    simp only [List.mem_cons, List.not_mem_nil, or_false] at hx
    rcases hx with rfl | rfl <;> exact fun _ _ => rfl⟩

theorem State.setMq_aside (s : State) (q : Nat) (x : QCtx) : Same State.aside (s.setMq q x) s := rfl

theorem State.setMcq_aside (s : State) (c : Nat) (x : CqCtx) : Same State.aside (s.setMcq c x) s := rfl

theorem State.withLog_aside (s : State) (l : Tbl DoneLog) : Same State.aside (s.withPair { s.pair with log := l }) s := rfl

theorem State.warm_aside (s : State) (k : CtxKind) (n : Nat) : Same State.aside (s.warm k n) s :=
  State.warm_same (Blind.aside.sub (by decide)) s k n

theorem State.chill_aside (s : State) (k : CtxKind) (n : Nat) : Same State.aside (s.chill k n) s :=
  State.chill_same (Blind.aside.sub (by decide)) s k n

theorem State.updMq_aside (s : State) (q : Nat) (g : QCtx → QCtx) : Same State.aside (s.updMq q g) s := by
  unfold State.updMq
  exact Same.ite ((State.warm_aside _ _ _).trans (s.setMq_aside _ _)) (Same.refl s)

theorem State.updMcq_aside (s : State) (c : Nat) (g : CqCtx → CqCtx) : Same State.aside (s.updMcq c g) s := by
  unfold State.updMcq
  exact Same.ite (Same.refl s) ((State.warm_aside _ _ _).trans (s.setMcq_aside _ _))

theorem State.updLog_aside (s : State) (q : Nat) (i : W32) (g : DoneLog → DoneLog) : Same State.aside (s.updLog q i g) s := rfl

theorem State.addMirror_aside (s : State) (n : Nat) (v : W64) : Same State.aside (s.addMirror n v) s :=
  State.addMirror_same (Blind.aside.sub (by decide)) s n v

theorem State.recStart_aside (s : State) (r : MRec) : Same State.aside (s.recStart r) s := by
  unfold State.recStart
  exact Same.ite (State.updLog_aside _ _ _ _) ((State.addMirror_aside _ _ _).trans (State.updLog_aside _ _ _ _))

theorem State.recComplete_aside (s : State) (r : MRec) (rec : List W64) : Same State.aside (s.recComplete r rec) s := by
  unfold State.recComplete
  exact Same.ite ((State.addMirror_aside _ _ _).trans (State.updLog_aside _ _ _ _)) (State.updLog_aside _ _ _ _)

/-- The mirrored counter that a CTR record sets. -/
def State.recValue (s : State) (r : MRec) : State :=
  let n := r.item % 2 ^ 20 + 2 ^ 20
  if (s.ctrOf n).valid then (s.setCtr n { s.ctrOf n with value := r.b }).warm .counter n else s

theorem State.recCtr_eq (s : State) (r : MRec) : s.recCtr r = (if r.ccause < 2 then
    (s.recValue r).updLog (mQueue r) r.a (fun (g : DoneLog) => { g with signalled := true, own := g.own || decide (r.ccause = 0) })
    else s.recValue r) := rfl

theorem State.recCtr_aside (s : State) (r : MRec) : Same State.aside (s.recCtr r) s := by
  have value : Same State.aside (s.recValue r) s := by
    unfold State.recValue
    exact Same.ite ((State.warm_aside _ _ _).trans (State.setCtr_same (Blind.aside.sub (by decide)) _ _ _)) (Same.refl s)
  rw [State.recCtr_eq]
  exact Same.ite ((State.updLog_aside _ _ _ _).trans value) value

theorem State.recCi_aside (s : State) (r : MRec) : Same State.aside (s.recCi r) s := by
  unfold State.recCi
  exact (State.withLog_aside _ _).trans (State.updMq_aside _ _ _)

theorem State.endSync_aside (s : State) : Same State.aside ((s.setKeep 2).raise 50) s := by
  have phase : ((s.setKeep 2).raise 50).f PAIR_STAT_phase = s.f PAIR_STAT_phase := by
    rw [State.f_raise _ _ _ (by decide) (by decide)]
    exact State.f_setF_ne _ _ _ _ (by decide) (.inr (.inr (by decide)))
  have pair : ((s.setKeep 2).raise 50).pair = s.pair := State.raise_same (Blind.pair.sub (by decide)) _ _
  have err : ((s.setKeep 2).raise 50).err = s.err := State.raise_same (Blind.err.sub (by decide)) _ _
  unfold Same State.aside
  rw [phase, pair, err]

theorem State.recEffect_aside (s : State) (c : Instr) : Same State.aside (s.recEffect c) s := by
  unfold State.recEffect
  split
  case h_1 => exact State.updMq_aside _ _ _
  case h_2 => exact s.recCi_aside _
  case h_3 => exact s.recStart_aside _
  case h_4 => exact s.recComplete_aside _ _
  case h_5 => exact State.updMcq_aside _ _ _
  case h_6 => exact State.updMcq_aside _ _ _
  case h_7 => exact s.recCtr_aside _
  case h_8 => exact (State.chill_aside _ _ _).trans (s.setMq_aside _ _)
  case h_9 => exact (State.chill_aside _ _ _).trans (s.setMcq_aside _ _)
  case h_10 => exact Same.ite s.endSync_aside (Same.refl s)
  case h_11 => exact (State.warm_aside _ _ _).trans (s.setMq_aside _ _)
  case h_12 => exact (State.warm_aside _ _ _).trans (s.setMcq_aside _ _)
  case h_13 => exact (State.warm_aside _ _ _).trans (State.setCtr_same (Blind.aside.sub (by decide)) _ _ _)
  case h_14 => exact Same.refl s

theorem State.recEffect_onlyChanges (s : State) (c : Instr) : onlyChanges [.regs, .ctr, .cache, .ic, .pair, .out] s (s.recEffect c) := by
  have frame : onlyChanges [.regs, .ctr, .cache, .ic, .pair, .err, .out] s (s.recEffect c) :=
    onlyChanges_of_same (fun _ hb => State.recEffect_same hb s c)
  intro x hx
  by_cases e : x = .err
  · subst e
    exact congrArg (fun y => y.2.1) (s.recEffect_aside c)
  · exact frame x (by simp at hx ⊢; tauto)

/-! ## The record that is next in order (R44, R352, R395) -/

/-- A lookup for a command that finds its contexts hot counts at most a hit. -/
theorem State.countLookup_warm {s : State} {c : Instr} (h : s.cold [] c = false) : keepsRegs hitReg s (s.countLookup c) := by
  cases hn : s.needs c with
  | nil =>
    unfold State.countLookup
    rw [hn]
    exact keepsRegs.refl _ s
  | cons x l =>
    obtain ⟨k, n⟩ := x
    cases k with
    | queue => exact State.countLookup_hits hn h
    | ring | counter =>
      unfold State.countLookup
      rw [hn]
      exact keepsRegs.refl _ s

theorem needs_of_record {c : Instr} (h : (recShape c).isSome = true) (s t : State) : t.needs c = s.needs c := by
  unfold recShape at h
  split at h
  case h_14 => cases h
  all_goals rfl

/-- The record after the one just applied is awaited. -/
def State.awaitNext (s : State) : State := s.withPair { s.pair with applied := s.pair.applied + 1 }

theorem State.awaitNext_onlyChanges (s : State) : onlyChanges [.pair] s s.awaitNext :=
  onlyChanges_of_same (fun _ hb => State.withPair_same hb s _)

/-- The state after record `r` of command `c`, next in order and in `n` slots of channel `v`, that ends no drain. -/
def State.recordTaken (s : State) (c : Instr) (v n code : Nat) (r : MRec) : State :=
  ((s.recEffect c).awaitNext.consume v n (slotIs code r)).ctrlMsg 0x32 0 r.seq 0

/-- What has come of a record that was taken from `s`: it took effect in a state `w` that differs from `s` in the lookup count alone,
and the next one is awaited. -/
structure takenAs (c : Instr) (r : MRec) (s w t : State) : Prop where
  applied : recordApplied r s t
  queues : t.pair.mq = (w.recEffect c).pair.mq
  rings : t.pair.mcq = (w.recEffect c).pair.mcq
  log : t.pair.log = (w.recEffect c).pair.log
  counters : t.ctr = (w.recEffect c).ctr
  regs : t.regs = (w.recEffect c).regs
  lookup : onlyChanges [.regs] s w
  hits : keepsRegs hitReg s w

theorem State.recordTaken_spec (s : State) (c : Instr) (v n code : Nat) (r : MRec) :
    ((s.recordTaken c v n code r).pair.applied = s.pair.applied + 1 ∧ (s.recordTaken c v n code r).pair.drainTo = s.pair.drainTo)
      ∧ ((s.recordTaken c v n code r).pair.mq = (s.recEffect c).pair.mq ∧ (s.recordTaken c v n code r).pair.mcq = (s.recEffect c).pair.mcq
        ∧ (s.recordTaken c v n code r).pair.log = (s.recEffect c).pair.log)
      ∧ (s.recordTaken c v n code r).ctr = (s.recEffect c).ctr ∧ (s.recordTaken c v n code r).regs = (s.recEffect c).regs
      ∧ onlyChanges [.regs, .ctr, .cache, .ic, .arb, .pair, .lace, .out] s (s.recordTaken c v n code r) := by
  have effect := s.recEffect_onlyChanges c
  have aside := s.recEffect_aside c
  have same : (s.recEffect c).pair.applied = s.pair.applied := congrArg (fun y : PairState × ErrState × Nat => y.1.applied) aside
  have drains : (s.recEffect c).pair.drainTo = s.pair.drainTo := congrArg (fun y : PairState × ErrState × Nat => y.1.drainTo) aside
  unfold State.recordTaken
  generalize s.recEffect c = t at effect same drains
  have taken := t.awaitNext.consume_onlyChanges v n (slotIs code r)
  generalize t.awaitNext.consume v n (slotIs code r) = u at taken
  have after : onlyChanges [.arb, .pair, .lace, .out] t (u.ctrlMsg 0x32 0 r.seq 0) :=
    (t.awaitNext_onlyChanges.mono (by simp)).trans ((taken.mono (by simp)).trans (u.ctrlMsg_onlyChanges 0x32 0 r.seq 0))
  have rest := u.ctrlMsg_unpumped 0x32 0 r.seq 0
  rw [show u.pair = t.awaitNext.pair from taken .pair (by decide)] at rest
  exact ⟨⟨(congrArg PairState.applied rest :).trans (congrArg (· + 1) same), (congrArg PairState.drainTo rest :).trans drains⟩,
    ⟨(congrArg PairState.mq rest :), (congrArg PairState.mcq rest :), (congrArg PairState.log rest :)⟩, after .ctr (by decide), after .regs (by decide),
    (effect.mono (by simp)).trans (after.mono (by simp))⟩

theorem State.keeps_congr {s t : State} (hp : t.pair = s.pair) (ha : t.reg PAT_STAT = s.reg PAT_STAT) (hr : t.reg PAIR_STAT = s.reg PAIR_STAT) :
    t.keeps = s.keeps := by
  unfold State.keeps State.run State.phase
  rw [hp, State.f_of_reg PAT_STAT_phase ha, State.f_of_reg PAIR_STAT_keep_state hr, State.f_of_reg PAIR_STAT_phase hr]

theorem State.drained_not {s : State} (h : ∀ sq, s.pair.drainTo = some sq → idxBefore sq s.pair.applied = false) : s.drained = false := by
  unfold State.drained
  split
  · next sq e => exact h sq e
  · rfl

theorem State.checkDrain_not {s : State} (h : s.f PAIR_STAT_phase = 0 ∨ s.drained = false) : s.checkDrain = s := by
  refine if_neg (fun k => ?_)
  obtain ⟨phase, drained⟩ := k
  rcases h with h | h
  · rw [h] at phase
    cases phase
  · rw [h] at drained
    cases drained

/-- The record that the keeper takes next is applied at once. -/
theorem State.takeRec_taken {s : State} {c : Instr} {r : MRec} {v code n : Nat} (hs : recShape c = some (v, code, n, r))
    (h : s.takesRecord c r) : ∃ w, takenAs c r s w (s.takeRec c) := by
  obtain ⟨keeps, none, next, warm, drain⟩ := h
  have looked := s.countLookup_onlyChanges c
  have hits := State.countLookup_warm warm
  have warmer : (s.countLookup c).cold [] c = false := by
    rw [State.cold_congr (needs_of_record (by rw [hs]; rfl) _ _) looked (fun b => hits _ (spr_not_hit b)), warm]
  have taken : s.takeRec c = (s.countLookup c).applyRec c := by
    unfold State.takeRec
    rw [hs]
    simp [keeps, none, next, warmer]
  generalize s.countLookup c = w at looked hits warmer taken
  have pair : w.pair = s.pair := looked .pair (by decide)
  have still : w.keeps = true := by rw [State.keeps_congr pair (hits _ (by decide)) (hits _ (by decide)), keeps]
  obtain ⟨⟨awaited, drains⟩, ⟨queues, rings, log⟩, ctr, regs, frame⟩ := w.recordTaken_spec c v n code r
  rw [pair, ← next] at awaited
  rw [pair] at drains
  have phase : (w.recordTaken c v n code r).f PAIR_STAT_phase = s.f PAIR_STAT_phase := by
    rw [State.f_of_regs regs]
    exact (congrArg (fun y : PairState × ErrState × Nat => y.2.2) (w.recEffect_aside c)).trans
      (State.f_of_reg PAIR_STAT_phase (hits _ (by decide)))
  have done : w.applyRec c = (w.recordTaken c v n code r).checkDrain := by
    unfold State.applyRec
    rw [hs]
    dsimp only
    rw [if_pos (by simp [still, next, pair])]
    rfl
  have applied : w.applyRec c = w.recordTaken c v n code r := by
    rw [done]
    refine State.checkDrain_not (drain.imp (fun h => phase.trans h) (fun h => State.drained_not (fun sq e => ?_)))
    rw [awaited]
    exact h sq (drains.symm.trans e)
  rw [taken, applied]
  exact ⟨w, ⟨awaited, (looked.mono (by simp)).trans frame⟩, queues, rings, log, ctr, regs, looked, hits⟩

/-! ## Deltas on queues and rings -/

theorem State.updMq_ctr (s : State) (q : Nat) (g : QCtx → QCtx) : (s.updMq q g).ctr = s.ctr :=
  State.updMq_same (Blind.ctr.sub (by decide)) s q g

theorem State.updMcq_ctr (s : State) (c : Nat) (g : CqCtx → CqCtx) : (s.updMcq c g).ctr = s.ctr :=
  State.updMcq_same (Blind.ctr.sub (by decide)) s c g

theorem takenAs.pair {c : Instr} {r : MRec} {s w t : State} (h : takenAs c r s w t) : w.pair = s.pair := h.lookup .pair (by decide)

theorem takenAs.ctr {c : Instr} {r : MRec} {s w t : State} (h : takenAs c r s w t) : w.ctr = s.ctr := h.lookup .ctr (by decide)

theorem takenAs.mqOf {c : Instr} {r : MRec} {s w t : State} (h : takenAs c r s w t) (q : Nat) : w.mqOf q = s.mqOf q :=
  State.mqOf_of_mq (congrArg PairState.mq h.pair) q

theorem takenAs.present {c : Instr} {r : MRec} {s w t : State} (h : takenAs c r s w t) (q : Nat) : w.present q = s.present q :=
  State.present_of_mq (congrArg PairState.mq h.pair) q

theorem takenAs.mcqOf {c : Instr} {r : MRec} {s w t : State} (h : takenAs c r s w t) (k : Nat) : w.mcqOf k = s.mcqOf k :=
  State.mcqOf_of_mcq (congrArg PairState.mcq h.pair) k

theorem takenAs.logOf {c : Instr} {r : MRec} {s w t : State} (h : takenAs c r s w t) (q : Nat) (i : W32) : w.logOf q i = s.logOf q i :=
  State.logOf_of_log (congrArg PairState.log h.pair) q i

theorem takenAs.ctrOf {c : Instr} {r : MRec} {s w t : State} (h : takenAs c r s w t) (n : Nat) : w.ctrOf n = s.ctrOf n :=
  State.ctrOf_of_ctr h.ctr n

/-- The context of a mirrored queue after SNAP. -/
def QCtx.snapped (c : QCtx) (r : MRec) : QCtx := { c with snap := r.a, accepts := c.accepts ++ [{ old := c.snap, new := r.a, mt := r.mt }] }

/-- The context of a mirrored queue after CI. -/
def QCtx.ciMoved (c : QCtx) (r : MRec) : QCtx :=
  { c with ci := r.a, mirroredCi := r.a, accepts := c.accepts.filter (fun x => idxBefore r.a x.new) }

theorem State.recEffect_snap (s : State) (r : MRec) : s.recEffect (.snap r) = s.updMq (mQueue r) (fun c => c.snapped r) := rfl

theorem exec_snap {r : MRec} {s : State} (h : s.takesRecord (.snap r) r) :
    ∃ t, exec (.snap r) s = .next t ∧ recordApplied r s t ∧ keepsMirrorQueues (mQueue r) s t ∧ t.pair.mcq = s.pair.mcq
      ∧ t.pair.log = s.pair.log ∧ t.ctr = s.ctr
      ∧ t.mqOf (mQueue r) = (if s.present (mQueue r) = true then (s.mqOf (mQueue r)).snapped r else s.mqOf (mQueue r)) := by
  obtain ⟨w, taken⟩ := State.takeRec_taken rfl h
  obtain ⟨applied, queues, rings, log, counters, -, -, -⟩ := id taken
  rw [w.recEffect_snap] at queues rings log counters
  have rest := w.updMq_pair (mQueue r) (fun c => c.snapped r)
  rw [taken.pair] at rest
  have queue : ∀ k, (s.takeRec (.snap r)).mqOf k
      = if k = mQueue r ∧ s.present (mQueue r) = true then (s.mqOf (mQueue r)).snapped r else s.mqOf k := fun k => by
    rw [State.mqOf_of_mq queues, State.mqOf_updMq, taken.present, taken.mqOf, taken.mqOf]
  refine ⟨_, rfl, applied, fun k hk => ?_, rings.trans (congrArg PairState.mcq rest :), log.trans (congrArg PairState.log rest :),
    counters.trans ((w.updMq_ctr _ _).trans taken.ctr), ?_⟩
  · rw [queue, if_neg (fun e => hk e.1)]
  · rw [queue]
    simp only [true_and]

theorem State.recEffect_cqpi (s : State) (r : MRec) : s.recEffect (.cqpi r) = s.updMcq (mRing r) (fun c => { c with pi := r.a }) := rfl

theorem State.recEffect_cqci (s : State) (r : MRec) : s.recEffect (.cqci r) = s.updMcq (mRing r) (fun c => { c with ci := r.a }) := rfl

/-- Of a ring delta the ring changes where it is present, and no other table does. -/
theorem takenAs.ringDelta {c : Instr} {r : MRec} {s w t : State} (h : takenAs c r s w t) {k : Nat} {g : CqCtx → CqCtx}
    (hc : w.recEffect c = w.updMcq k g) : keepsMirrorRings k s t ∧ t.pair.mq = s.pair.mq ∧ t.pair.log = s.pair.log ∧ t.ctr = s.ctr
      ∧ t.mcqOf k = (if (s.mcqOf k).state = CqState.free then s.mcqOf k else g (s.mcqOf k)) := by
  have ring : ∀ j, t.mcqOf j = if j = k ∧ (s.mcqOf k).state ≠ .free then g (s.mcqOf k) else s.mcqOf j := fun j => by
    rw [State.mcqOf_of_mcq h.rings, hc, State.mcqOf_updMcq, h.mcqOf, h.mcqOf]
  have rest := w.updMcq_pair k g
  rw [h.pair] at rest
  refine ⟨fun j hj => ?_, ?_, ?_, ?_, ?_⟩
  · rw [ring, if_neg (fun e => hj e.1)]
  · rw [h.queues, hc]
    exact (congrArg PairState.mq rest :)
  · rw [h.log, hc]
    exact (congrArg PairState.log rest :)
  · rw [h.counters, hc, w.updMcq_ctr, h.ctr]
  · rw [ring]
    by_cases e : (s.mcqOf k).state = .free <;> simp [e]

/-! ## CI and the done log -/

theorem logKey_queue {q : Nat} (hq : q < 2 ^ 21) (i : W32) : logKey q i / 2 ^ 32 = q := by
  unfold logKey
  rw [Nat.mod_eq_of_lt hq]
  have := i.isLt
  omega

theorem logKey_index (q : Nat) (i : W32) : BitVec.ofNat 32 (logKey q i) = i := by
  apply BitVec.eq_of_toNat_eq
  have := i.isLt
  unfold logKey
  rw [BitVec.toNat_ofNat]
  omega

/-- What CI does to the mirror: it changes its queue where that is present, and frees the done log entries that it passes. -/
theorem State.recEffect_ci (s : State) (r : MRec) :
    (s.recEffect (.ci r)).pair.mq = (s.updMq (mQueue r) (fun c => c.ciMoved r)).pair.mq ∧ (s.recEffect (.ci r)).pair.mcq = s.pair.mcq
      ∧ (s.recEffect (.ci r)).pair.log
        = s.pair.log.filter (fun x => !(decide (x.1 / 2 ^ 32 = mQueue r) && idxBefore (BitVec.ofNat 32 x.1) r.a)) := by
  have rest := s.updMq_pair (mQueue r) (fun c => c.ciMoved r)
  have kept : (s.updMq (mQueue r) (fun c => c.ciMoved r)).pair.log = s.pair.log := (congrArg PairState.log rest :)
  refine ⟨rfl, (congrArg PairState.mcq rest :), ?_⟩
  rw [← kept]
  rfl

theorem State.recEffect_ci_ctr (s : State) (r : MRec) : (s.recEffect (.ci r)).ctr = s.ctr :=
  State.updMq_ctr s (mQueue r) (fun c => c.ciMoved r)

theorem exec_ci {r : MRec} {s : State} (h : s.takesRecord (.ci r) r) :
    ∃ t, exec (.ci r) s = .next t ∧ recordApplied r s t ∧ keepsMirrorQueues (mQueue r) s t ∧ t.pair.mcq = s.pair.mcq ∧ t.ctr = s.ctr
      ∧ (s.present (mQueue r) = true → (t.mqOf (mQueue r)).ci = r.a ∧ (t.mqOf (mQueue r)).snap = (s.mqOf (mQueue r)).snap)
      ∧ (s.present (mQueue r) = false → t.mqOf (mQueue r) = s.mqOf (mQueue r))
      ∧ (∀ i, idxBefore i r.a = true → t.logOf (mQueue r) i = DoneLog.zero)
      ∧ (∀ q i, q < 2 ^ 21 → (q ≠ mQueue r ∨ idxBefore i r.a = false) → t.logOf q i = s.logOf q i) := by
  obtain ⟨w, taken⟩ := State.takeRec_taken rfl h
  obtain ⟨applied, queues, rings, log, counters, -, -, -⟩ := id taken
  obtain ⟨mq, mcq, passed⟩ := w.recEffect_ci r
  rw [w.recEffect_ci_ctr, taken.ctr] at counters
  have run : exec (.ci r) s = .next (s.takeRec (.ci r)) := rfl
  generalize s.takeRec (.ci r) = t at *
  have queue : ∀ k, t.mqOf k = if k = mQueue r ∧ s.present (mQueue r) = true then (s.mqOf (mQueue r)).ciMoved r else s.mqOf k := fun k => by
    rw [State.mqOf_of_mq (queues.trans mq), State.mqOf_updMq, taken.present,
      taken.mqOf, taken.mqOf]
  have entry : ∀ q i, q < 2 ^ 21 → t.logOf q i = if q = mQueue r ∧ idxBefore i r.a = true then DoneLog.zero else s.logOf q i := fun q i hq => by
    unfold State.logOf
    rw [log, passed, taken.pair, Tbl.get_without _ _ (fun k => decide (k / 2 ^ 32 = mQueue r) && idxBefore (BitVec.ofNat 32 k) r.a),
      logKey_queue hq, logKey_index]
    simp
  refine ⟨t, run, applied, fun k hk => ?_, (rings.trans mcq).trans (congrArg PairState.mcq taken.pair), counters, fun hp => ?_, fun hp => ?_,
    fun i hi => ?_, fun q i hq hi => ?_⟩
  · rw [queue, if_neg (fun e => hk e.1)]
  · rw [queue, if_pos ⟨rfl, hp⟩]
    exact ⟨rfl, rfl⟩
  · rw [queue, if_neg (by simp [hp])]
  · rw [entry _ i (mQueue_lt r), if_pos ⟨rfl, hi⟩]
  · rw [entry q i hq, if_neg]
    rintro ⟨e, k⟩
    rcases hi with hi | hi
    · exact hi e
    · rw [hi] at k
      cases k

/-! ## Records of entries and counters -/

theorem State.updLog_pair (s : State) (q : Nat) (i : W32) (g : DoneLog → DoneLog) :
    (s.updLog q i g).pair.mq = s.pair.mq ∧ (s.updLog q i g).pair.mcq = s.pair.mcq ∧ (s.updLog q i g).ctr = s.ctr := ⟨rfl, rfl, rfl⟩

theorem State.ctrOf_addMirror (s : State) (n k : Nat) (v : W64) :
    (s.addMirror n v).ctrOf k = if k = n % 2 ^ 20 + 2 ^ 20
      then { s.ctrOf (n % 2 ^ 20 + 2 ^ 20) with value := (s.ctrOf (n % 2 ^ 20 + 2 ^ 20)).value + v } else s.ctrOf k :=
  s.ctrOf_setCtr _ _ _

/-- A record that marks the done log entry of its queue and index, and may change a counter besides. -/
theorem takenAs.marks {c : Instr} {r : MRec} {s w t u : State} {g : DoneLog → DoneLog} (h : takenAs c r s w t) (hu : u.pair = s.pair)
    (hg : (w.recEffect c).pair = (u.updLog (mQueue r) r.a g).pair) :
    t.pair.mq = s.pair.mq ∧ t.pair.mcq = s.pair.mcq ∧ keepsLog (mQueue r) r.a s t ∧ t.logOf (mQueue r) r.a = g (s.logOf (mQueue r) r.a) := by
  obtain ⟨mq, mcq, -⟩ := u.updLog_pair (mQueue r) r.a g
  have log := h.log.trans (congrArg PairState.log hg)
  have same := fun q i => State.logOf_of_log (congrArg PairState.log hu) q i
  refine ⟨?_, ?_, fun k j hk hj => ?_, ?_⟩
  · rw [h.queues, hg, mq, hu]
  · rw [h.rings, hg, mcq, hu]
  · rw [State.logOf_of_log log, u.updLog_keepsLog (mQueue_lt r) r.a g k j hk hj, same]
  · rw [State.logOf_of_log log, u.logOf_updLog_self, same]

/-- The done log entry after START. -/
def DoneLog.begun (g : DoneLog) (r : MRec) : DoneLog := { g with started := true, signalled := g.signalled || decide (r.b ≠ 0) }

theorem State.recEffect_start (s : State) (r : MRec) : s.recEffect (.start r)
    = if r.b = 0 then s.updLog (mQueue r) r.a (fun g => g.begun r) else (s.updLog (mQueue r) r.a (fun g => g.begun r)).addMirror r.item r.b := rfl

theorem exec_start {r : MRec} {s : State} (h : s.takesRecord (.start r) r) :
    ∃ t, exec (.start r) s = .next t ∧ recordApplied r s t ∧ t.pair.mq = s.pair.mq ∧ t.pair.mcq = s.pair.mcq ∧ keepsLog (mQueue r) r.a s t
      ∧ t.logOf (mQueue r) r.a = (s.logOf (mQueue r) r.a).begun r
      ∧ (t.ctrOf (r.item % 2 ^ 20 + 2 ^ 20)).value = (s.ctrOf (r.item % 2 ^ 20 + 2 ^ 20)).value + r.b
      ∧ keepsCounters (r.item % 2 ^ 20 + 2 ^ 20) s t := by
  obtain ⟨w, taken⟩ := State.takeRec_taken rfl h
  have pair : (w.recEffect (.start r)).pair = (w.updLog (mQueue r) r.a (fun g => g.begun r)).pair := by
    rw [w.recEffect_start]
    split <;> rfl
  obtain ⟨mq, mcq, others, entry⟩ := taken.marks taken.pair pair
  have counter := fun k => State.ctrOf_of_ctr taken.counters k
  rw [w.recEffect_start] at counter
  have same : ∀ k, (w.updLog (mQueue r) r.a (fun g => g.begun r)).ctrOf k = s.ctrOf k := taken.ctrOf
  refine ⟨_, rfl, taken.applied, mq, mcq, others, entry, ?_, fun k hk => ?_⟩
  · rw [counter]
    split
    · next zero => rw [same, zero]; exact (BitVec.add_zero _).symm
    · rw [State.ctrOf_addMirror, if_pos rfl, same]
  · rw [counter]
    split
    · exact same k
    · rw [State.ctrOf_addMirror, if_neg hk, same]

/-- The done log entry after COMPLETE. -/
def DoneLog.completed (g : DoneLog) (r : MRec) (rec : List W64) : DoneLog :=
  { g with done := true, record := rec, signalled := g.signalled || bit r.b.toNat 50, own := g.own || bit r.b.toNat 50 }

theorem State.recEffect_complete (s : State) (r : MRec) (rec : List W64) : s.recEffect (.complete r rec)
    = if bit r.b.toNat 50 = true
      then (s.updLog (mQueue r) r.a (fun g => g.completed r rec)).addMirror (bits r.b.toNat 18 20) (BitVec.ofNat 64 (bits r.b.toNat 38 12))
      else s.updLog (mQueue r) r.a (fun g => g.completed r rec) := rfl

theorem bits_lt (x lo w : Nat) : bits x lo w < 2 ^ w := Nat.mod_lt _ (Nat.two_pow_pos w)

theorem exec_complete {r : MRec} {rec : List W64} {s : State} (h : s.takesRecord (.complete r rec) r) :
    ∃ t, exec (.complete r rec) s = .next t ∧ recordApplied r s t ∧ t.pair.mq = s.pair.mq ∧ t.pair.mcq = s.pair.mcq
      ∧ keepsLog (mQueue r) r.a s t ∧ t.logOf (mQueue r) r.a = (s.logOf (mQueue r) r.a).completed r rec
      ∧ (bit r.b.toNat 50 = false → t.ctr = s.ctr)
      ∧ (bit r.b.toNat 50 = true → (t.ctrOf (bits r.b.toNat 18 20 + 2 ^ 20)).value
            = (s.ctrOf (bits r.b.toNat 18 20 + 2 ^ 20)).value + BitVec.ofNat 64 (bits r.b.toNat 38 12)
          ∧ keepsCounters (bits r.b.toNat 18 20 + 2 ^ 20) s t) := by
  obtain ⟨w, taken⟩ := State.takeRec_taken rfl h
  have pair : (w.recEffect (.complete r rec)).pair = (w.updLog (mQueue r) r.a (fun g => g.completed r rec)).pair := by
    rw [w.recEffect_complete]
    split <;> rfl
  obtain ⟨mq, mcq, others, entry⟩ := taken.marks taken.pair pair
  have counters := taken.counters
  rw [w.recEffect_complete] at counters
  have same : ∀ k, (w.updLog (mQueue r) r.a (fun g => g.completed r rec)).ctrOf k = s.ctrOf k := taken.ctrOf
  have small : bits r.b.toNat 18 20 % 2 ^ 20 = bits r.b.toNat 18 20 := Nat.mod_eq_of_lt (bits_lt _ _ _)
  refine ⟨_, rfl, taken.applied, mq, mcq, others, entry, fun silent => ?_, fun signals => ⟨?_, fun k hk => ?_⟩⟩
  · rw [counters, if_neg (by simp [silent])]
    exact taken.ctr
  · rw [if_pos signals] at counters
    rw [State.ctrOf_of_ctr counters, State.ctrOf_addMirror, small, if_pos rfl, same]
  · rw [if_pos signals] at counters
    rw [State.ctrOf_of_ctr counters, State.ctrOf_addMirror, small, if_neg hk, same]

/-- The done log entry after CTR. -/
def DoneLog.counted (g : DoneLog) (r : MRec) : DoneLog := { g with signalled := true, own := g.own || decide (r.ccause = 0) }

theorem State.recEffect_ctr (s : State) (r : MRec) : s.recEffect (.ctr r)
    = if r.ccause < 2 then (s.recValue r).updLog (mQueue r) r.a (fun g => g.counted r) else s.recValue r := rfl

theorem State.recValue_pair (s : State) (r : MRec) : (s.recValue r).pair = s.pair := by
  unfold State.recValue
  dsimp only
  split
  · rw [State.warm_pair]
    rfl
  · rfl

theorem State.ctrOf_recValue (s : State) (r : MRec) (k : Nat) :
    (s.recValue r).ctrOf k = if k = r.item % 2 ^ 20 + 2 ^ 20 ∧ (s.ctrOf (r.item % 2 ^ 20 + 2 ^ 20)).valid = true
      then { s.ctrOf (r.item % 2 ^ 20 + 2 ^ 20) with value := r.b } else s.ctrOf k := by
  unfold State.recValue
  dsimp only
  split
  · next valid =>
    rw [State.ctrOf_of_ctr (State.warm_ctr _ _ _), State.ctrOf_setCtr]
    exact if_congr (by simp only [valid, and_true]) rfl rfl
  · next invalid => rw [if_neg (fun e => invalid e.2)]

theorem exec_ctr {r : MRec} {s : State} (h : s.takesRecord (.ctr r) r) :
    ∃ t, exec (.ctr r) s = .next t ∧ recordApplied r s t ∧ t.pair.mq = s.pair.mq ∧ t.pair.mcq = s.pair.mcq ∧ keepsLog (mQueue r) r.a s t
      ∧ t.logOf (mQueue r) r.a = (if r.ccause < 2 then (s.logOf (mQueue r) r.a).counted r else s.logOf (mQueue r) r.a)
      ∧ t.ctrOf (r.item % 2 ^ 20 + 2 ^ 20) = (if (s.ctrOf (r.item % 2 ^ 20 + 2 ^ 20)).valid = true
          then { s.ctrOf (r.item % 2 ^ 20 + 2 ^ 20) with value := r.b } else s.ctrOf (r.item % 2 ^ 20 + 2 ^ 20))
      ∧ keepsCounters (r.item % 2 ^ 20 + 2 ^ 20) s t := by
  obtain ⟨w, taken⟩ := State.takeRec_taken rfl h
  have value : (w.recEffect (.ctr r)).ctr = (w.recValue r).ctr := by
    rw [w.recEffect_ctr]
    split <;> rfl
  have counter : ∀ k, (s.takeRec (.ctr r)).ctrOf k = if k = r.item % 2 ^ 20 + 2 ^ 20 ∧ (s.ctrOf (r.item % 2 ^ 20 + 2 ^ 20)).valid = true
      then { s.ctrOf (r.item % 2 ^ 20 + 2 ^ 20) with value := r.b } else s.ctrOf k := fun k => by
    rw [State.ctrOf_of_ctr (taken.counters.trans value), State.ctrOf_recValue, taken.ctrOf, taken.ctrOf]
  have mine : (s.takeRec (.ctr r)).pair.mq = s.pair.mq ∧ (s.takeRec (.ctr r)).pair.mcq = s.pair.mcq
      ∧ keepsLog (mQueue r) r.a s (s.takeRec (.ctr r)) ∧ (s.takeRec (.ctr r)).logOf (mQueue r) r.a
        = (if r.ccause < 2 then (s.logOf (mQueue r) r.a).counted r else s.logOf (mQueue r) r.a) := by
    have kept := (w.recValue_pair r).trans taken.pair
    by_cases named : r.ccause < 2
    · rw [if_pos named]
      exact taken.marks (g := fun g => g.counted r) kept (by rw [w.recEffect_ctr, if_pos named])
    · rw [if_neg named]
      have all : (w.recEffect (.ctr r)).pair = s.pair := by rw [w.recEffect_ctr, if_neg named, kept]
      have log := taken.log.trans (congrArg PairState.log all)
      exact ⟨taken.queues.trans (congrArg PairState.mq all), taken.rings.trans (congrArg PairState.mcq all), keepsLog_of_log log,
        State.logOf_of_log log _ _⟩
  obtain ⟨mq, mcq, others, entry⟩ := mine
  refine ⟨_, rfl, taken.applied, mq, mcq, others, entry, ?_, fun k hk => ?_⟩
  · rw [counter]
    simp only [true_and]
  · rw [counter, if_neg (fun e => hk e.1)]

/-! ## Objects that come and go, and the end of a full sync -/

theorem State.recEffect_qGone (s : State) (r : MRec) :
    s.recEffect (.qGone r) = (s.setMq (mQueue r) QCtx.zero).chill .queue (mQueue r + 2 ^ 21) := rfl

theorem State.recEffect_cqGone (s : State) (r : MRec) :
    s.recEffect (.cqGone r) = (s.setMcq (mRing r) CqCtx.zero).chill .ring (mRing r + 2 ^ 18) := rfl

/-- The context of a mirrored queue after its snapshot `x`: the MTs of its RINGs stay known. -/
def QCtx.renewed (old x : QCtx) : QCtx := { x with accepts := old.accepts.filter (fun y => idxBefore x.ci y.new) }

theorem State.recEffect_qCtx (s : State) (r : MRec) (l : List W64) : s.recEffect (.qCtx r l)
    = (s.setMq (mQueue r) ((s.mqOf (mQueue r)).renewed (QCtx.ofWords l))).warm .queue (mQueue r + 2 ^ 21) := rfl

theorem State.recEffect_cqCtx (s : State) (r : MRec) (l : List W64) :
    s.recEffect (.cqCtx r l) = (s.setMcq (mRing r) (CqCtx.ofWords l)).warm .ring (mRing r + 2 ^ 18) := rfl

theorem State.recEffect_ctrCtx (s : State) (r : MRec) (l : List W64) : s.recEffect (.ctrCtx r l)
    = (s.setCtr (r.item % 2 ^ 20 + 2 ^ 20) (Counter.ofWords l)).warm .counter (r.item % 2 ^ 20 + 2 ^ 20) := rfl

/-- A record that replaces one mirrored queue leaves every other object of the mirror. -/
theorem takenAs.setsQueue {c : Instr} {r : MRec} {s w t : State} {x : QCtx} (h : takenAs c r s w t)
    (hp : (w.recEffect c).pair = (w.setMq (mQueue r) x).pair) (hc : (w.recEffect c).ctr = w.ctr) :
    t.mqOf (mQueue r) = x ∧ keepsMirrorQueues (mQueue r) s t ∧ t.pair.mcq = s.pair.mcq ∧ t.pair.log = s.pair.log ∧ t.ctr = s.ctr := by
  have queue : ∀ k, t.mqOf k = if k = mQueue r then x else s.mqOf k := fun k => by
    rw [State.mqOf_of_mq (h.queues.trans (congrArg PairState.mq hp)), State.mqOf_setMq, h.mqOf]
  refine ⟨by rw [queue, if_pos rfl], fun k hk => by rw [queue, if_neg hk], ?_, ?_, by rw [h.counters, hc, h.ctr]⟩
  · rw [h.rings, hp, ← h.pair]
    rfl
  · rw [h.log, hp, ← h.pair]
    rfl

/-- A record that replaces one mirrored ring leaves every other object of the mirror. -/
theorem takenAs.setsRing {c : Instr} {r : MRec} {s w t : State} {x : CqCtx} (h : takenAs c r s w t)
    (hp : (w.recEffect c).pair = (w.setMcq (mRing r) x).pair) (hc : (w.recEffect c).ctr = w.ctr) :
    t.mcqOf (mRing r) = x ∧ keepsMirrorRings (mRing r) s t ∧ t.pair.mq = s.pair.mq ∧ t.pair.log = s.pair.log ∧ t.ctr = s.ctr := by
  have ring : ∀ k, t.mcqOf k = if k = mRing r then x else s.mcqOf k := fun k => by
    rw [State.mcqOf_of_mcq (h.rings.trans (congrArg PairState.mcq hp)), State.mcqOf_setMcq, h.mcqOf]
  refine ⟨by rw [ring, if_pos rfl], fun k hk => by rw [ring, if_neg hk], ?_, ?_, by rw [h.counters, hc, h.ctr]⟩
  · rw [h.queues, hp, ← h.pair]
    rfl
  · rw [h.log, hp, ← h.pair]
    rfl

/-- SYNC_END leaves the mirror SYNCED, which it was if it was not SYNCING. -/
theorem State.recEffect_syncEnd {s : State} (h : s.keeps = true) (r : MRec) :
    (s.recEffect (.syncEnd r)).f PAIR_STAT_keep_state = 2 ∧ (s.recEffect (.syncEnd r)).pair = s.pair ∧ (s.recEffect (.syncEnd r)).ctr = s.ctr := by
  have effect : s.recEffect (.syncEnd r) = if s.f PAIR_STAT_keep_state = 1 then (s.setKeep 2).raise 50 else s := rfl
  rw [effect]
  split
  · refine ⟨?_, State.raise_same (Blind.pair.sub (by decide)) _ _, State.raise_same (Blind.ctr.sub (by decide)) _ _⟩
    rw [State.f_raise _ _ _ (by decide) (by decide)]
    exact State.f_setF_self _ _ _ (by decide)
  · next open_ =>
    refine ⟨?_, rfl, rfl⟩
    unfold State.keeps at h
    simp [open_] at h
    exact h.1.2

theorem exec_syncEnd {r : MRec} {s : State} (h : s.takesRecord (.syncEnd r) r) :
    ∃ t, exec (.syncEnd r) s = .next t ∧ recordApplied r s t ∧ t.f PAIR_STAT_keep_state = 2 ∧ t.pair.mq = s.pair.mq
      ∧ t.pair.mcq = s.pair.mcq ∧ t.pair.log = s.pair.log ∧ t.ctr = s.ctr := by
  obtain ⟨w, taken⟩ := State.takeRec_taken rfl h
  have keeps : w.keeps = true := by
    rw [State.keeps_congr taken.pair (taken.hits _ (by decide)) (taken.hits _ (by decide))]
    exact h.1
  obtain ⟨synced, pair, ctr⟩ := State.recEffect_syncEnd keeps r
  rw [taken.pair] at pair
  exact ⟨_, rfl, taken.applied, (State.f_of_regs taken.regs _).trans synced, taken.queues.trans (congrArg PairState.mq pair),
    taken.rings.trans (congrArg PairState.mcq pair), taken.log.trans (congrArg PairState.log pair), (taken.counters.trans ctr).trans taken.ctr⟩

theorem exec_qGone {r : MRec} {s : State} (h : s.takesRecord (.qGone r) r) :
    ∃ t, exec (.qGone r) s = .next t ∧ recordApplied r s t ∧ t.present (mQueue r) = false ∧ keepsMirrorQueues (mQueue r) s t
      ∧ t.pair.mcq = s.pair.mcq ∧ t.pair.log = s.pair.log ∧ t.ctr = s.ctr := by
  obtain ⟨w, taken⟩ := State.takeRec_taken rfl h
  obtain ⟨gone, rest⟩ := taken.setsQueue (x := QCtx.zero) (by rw [w.recEffect_qGone, State.chill_pair])
    (State.chill_same (Blind.ctr.sub (by decide)) (w.setMq (mQueue r) QCtx.zero) _ _)
  refine ⟨_, rfl, taken.applied, ?_, rest⟩
  unfold State.present
  rw [gone]
  rfl

theorem exec_ctrCtx {r : MRec} {l : List W64} {s : State} (h : s.takesRecord (.ctrCtx r l) r) :
    ∃ t, exec (.ctrCtx r l) s = .next t ∧ recordApplied r s t ∧ t.ctrOf (r.item % 2 ^ 20 + 2 ^ 20) = Counter.ofWords l
      ∧ keepsCounters (r.item % 2 ^ 20 + 2 ^ 20) s t ∧ t.pair.mq = s.pair.mq ∧ t.pair.mcq = s.pair.mcq ∧ t.pair.log = s.pair.log := by
  obtain ⟨w, taken⟩ := State.takeRec_taken rfl h
  have pair : (w.recEffect (.ctrCtx r l)).pair = s.pair := by rw [w.recEffect_ctrCtx, State.warm_pair, State.setCtr_pair, taken.pair]
  have counter : ∀ k, (s.takeRec (.ctrCtx r l)).ctrOf k = if k = r.item % 2 ^ 20 + 2 ^ 20 then Counter.ofWords l else s.ctrOf k := fun k => by
    rw [State.ctrOf_of_ctr taken.counters, w.recEffect_ctrCtx, State.ctrOf_of_ctr (State.warm_ctr _ _ _), State.ctrOf_setCtr, taken.ctrOf]
  exact ⟨_, rfl, taken.applied, by rw [counter, if_pos rfl], fun k hk => by rw [counter, if_neg hk],
    taken.queues.trans (congrArg PairState.mq pair), taken.rings.trans (congrArg PairState.mcq pair), taken.log.trans (congrArg PairState.log pair)⟩

end Sys2Proof.Machine

open Sys2Proof Sys2Proof.Machine

/-- Settles O51: a record next in order is looked up, takes its effect on the mirror's tables, and is acknowledged; the acknowledgement
and the slots that it frees touch no table. -/
theorem mirrorRecordsAreApplied : Obligations.MirrorRecordsAreApplied := by
  unfold Obligations.MirrorRecordsAreApplied
  intro r s
  refine ⟨exec_snap, exec_ci, exec_start, fun rec => exec_complete, fun h => ?_, fun h => ?_, exec_ctr, exec_qGone, fun h => ?_, exec_syncEnd,
    fun l => ⟨fun h => ?_, fun h => ?_, exec_ctrCtx⟩⟩
  · obtain ⟨w, taken⟩ := State.takeRec_taken rfl h
    exact ⟨_, rfl, taken.applied, taken.ringDelta (w.recEffect_cqpi r)⟩
  · obtain ⟨w, taken⟩ := State.takeRec_taken rfl h
    exact ⟨_, rfl, taken.applied, taken.ringDelta (w.recEffect_cqci r)⟩
  · obtain ⟨w, taken⟩ := State.takeRec_taken rfl h
    exact ⟨_, rfl, taken.applied, taken.setsRing (by rw [w.recEffect_cqGone, State.chill_pair])
      (State.chill_same (Blind.ctr.sub (by decide)) (w.setMcq (mRing r) CqCtx.zero) _ _)⟩
  · obtain ⟨w, taken⟩ := State.takeRec_taken rfl h
    obtain ⟨context, others, rest⟩ := taken.setsQueue (x := (w.mqOf (mQueue r)).renewed (QCtx.ofWords l))
      (by rw [w.recEffect_qCtx, State.warm_pair]) (by rw [w.recEffect_qCtx]; exact State.warm_ctr _ _ _)
    obtain ⟨mcq, log, ctr⟩ := rest
    refine ⟨_, rfl, taken.applied, others, mcq, log, ctr, ?_⟩
    rw [context]
    rfl
  · obtain ⟨w, taken⟩ := State.takeRec_taken rfl h
    exact ⟨_, rfl, taken.applied, taken.setsRing (by rw [w.recEffect_cqCtx, State.warm_pair])
      (by rw [w.recEffect_cqCtx]; exact State.warm_ctr _ _ _)⟩
end

section
/-!
PROOFS. What the owner hears of its records: acknowledgements and READY (R26, R352, R354, R359).
-/
namespace Sys2Proof.Machine

/-! ## The send state (R358, R373) -/

theorem State.announce_onlyChanges (s : State) : onlyChanges [.arb, .pair, .lace, .out] s s.announce :=
  onlyChanges_of_same (fun _ hb => State.announce_same hb s)

theorem State.announce_unpumped (s : State) : s.announce.pair.unpumped = s.pair.unpumped := by
  unfold State.announce
  split
  · exact State.ctrlMsg_unpumped _ _ _ _ _
  · rfl

theorem State.setSend_already {s : State} {st : Nat} (e : s.f PAIR_STAT_send_state = st) : s.setSend st = s := if_pos e

theorem State.setSend_eq_live {s : State} {st : Nat} (e : s.f PAIR_STAT_send_state ≠ st) (h : st = 1 ∨ st = 2) :
    s.setSend st = (s.setF PAIR_STAT_send_state st).announce := by
  unfold State.setSend
  simp only [if_neg e, if_pos h]

/-- A change between the states that send records drops none that wait. -/
theorem State.setSend_live (s : State) {st : Nat} (h : st = 1 ∨ st = 2) :
    (s.setSend st).f PAIR_STAT_send_state = st ∧ (s.setSend st).f PAIR_STAT_keep_state = s.f PAIR_STAT_keep_state
      ∧ (s.setSend st).pair.unpumped = s.pair.unpumped ∧ onlyChanges [.regs, .arb, .pair, .lace, .out] s (s.setSend st) := by
  by_cases e : s.f PAIR_STAT_send_state = st
  · rw [State.setSend_already e]
    exact ⟨e, rfl, rfl, onlyChanges_of_same (fun _ _ => Same.refl s)⟩
  rw [State.setSend_eq_live e h]
  have told := State.announce_onlyChanges (s.setF PAIR_STAT_send_state st)
  refine ⟨?_, ?_, ?_, ((s.setF_onlyChanges _ _).mono (by simp)).trans (told.mono (by simp))⟩
  · rw [State.f_of_regs (told .regs (by decide)), State.f_setF_self _ _ _ (by decide)]
    rcases h with rfl | rfl <;> rfl
  · rw [State.f_of_regs (told .regs (by decide)), State.f_setF_ne _ _ _ _ (by decide) (.inr (.inr (by decide)))]
  · rw [State.announce_unpumped, State.setF_pair]

/-! ## MIRROR_ACK (R26, R352, R354) -/

/-- The full sync ends with the acknowledgement of every seq before `k`. -/
def PairState.endsBy (p : PairState) (k : W32) : Bool := match p.endSeq with | some sq => idxBefore sq k | none => false

/-- What an acknowledgement of every seq before `k` leaves noted of the records sent; `again` are the snapshots to be sent again. -/
def PairState.coveredTo (p : PairState) (k : W32) (again : List (CtxKind × Nat)) : PairState :=
  { p with acked := k, snaps := p.snaps.filter (fun x => !idxBefore x.2.2 k), heldBack := p.heldBack.filter (fun x => !decide (x ∈ again)),
           ciSent := p.ciSent.filter (fun x => !idxBefore x.2.1 k), locks := p.locks.filter (fun x => !idxBefore x.2.2 k),
           endSeq := if p.endsBy k then none else p.endSeq }

/-- The objects whose snapshots an acknowledgement covers and that have deltas held back. -/
def PairState.snapAgain (p : PairState) (k : W32) : List (CtxKind × Nat) :=
  ((p.snaps.filter (fun x => idxBefore x.2.2 k)).map (fun x => (x.1, x.2.1))).filter (fun x => decide (x ∈ p.heldBack))

/-- The CIs that an acknowledgement confirms. -/
def PairState.cisTo (p : PairState) (k : W32) : List (Nat × W32 × W32) := p.ciSent.filter (fun x => idxBefore x.2.1 k)

/-- The state after the CIs that an acknowledgement of seq `a` confirms are noted. -/
def State.cisNoted (s : State) (a : W32) : State :=
  forEach (s.pair.cisTo (a + 1)) (fun x s => s.mirroredTo x.1 x.2.2) (s.withPair (s.pair.coveredTo (a + 1) (s.pair.snapAgain (a + 1))))

/-- Mode changes that wait for no snapshot any more are done. -/
def State.clearModes (s : State) : State := s.withPair { s.pair with modeAcks := s.pair.modeAcks.filter (fun q => s.snapOpen .queue q) }

/-- The state after an acknowledgement of seq `a`, when its snapshots are sent again. -/
def State.snapsAgain (s : State) (a : W32) : State :=
  (forEach (s.pair.snapAgain (a + 1)) (fun x s => s.snapObj x.1 x.2) (s.cisNoted a)).clearModes

/-- The state after an acknowledgement of seq `a`, before what waited goes on. -/
def State.ackTaken (s : State) (a : W32) : State :=
  if s.pair.endsBy (a + 1) then ((s.snapsAgain a).setSend 2).raise 50 else s.snapsAgain a

theorem State.takeAck_eq (s : State) (a : W32) : s.takeAck a = (s.ackTaken a).mirrorRetry := rfl

theorem State.mirroredTo_onlyChanges (s : State) (q : Nat) (v : W32) : onlyChanges [.q, .pair] s (s.mirroredTo q v) :=
  onlyChanges_of_same (fun _ hb => State.mirroredTo_same hb s q v)

theorem State.qctx_mirroredTo (s : State) (q k : Nat) (v : W32) :
    ((s.mirroredTo q v).qctx k).mirroredCi = if q = k then v else (s.qctx k).mirroredCi := by
  have set : (s.mirroredTo q v).qctx k = if k = q then { s.qctx q with mirroredCi := v } else s.qctx k := s.qctx_setQ _ _ _
  rw [set]
  by_cases e : q = k
  · rw [if_pos e.symm, if_pos e]
  · rw [if_neg (fun h => e h.symm), if_neg e]

/-- What sending records and the CIs of an acknowledgement leave of the sequence numbers noted. -/
def State.ackNotes (s : State) : W32 × Option W32 := (s.pair.acked, s.pair.endSeq)

theorem State.snapObj_ackNotes (s : State) (k : CtxKind) (n : Nat) : (s.snapObj k n).ackNotes = s.ackNotes :=
  Prod.ext (congrArg PairState.acked (s.snapObj_unsent k n) :) (s.snapObj_endSeq k n)

theorem PairState.endsBy_of {p : PairState} {k sq : W32} (h : p.endSeq = some sq) (hk : idxBefore sq k = true) : p.endsBy k = true := by
  unfold PairState.endsBy
  rw [h]
  exact hk

theorem State.cisNoted_spec (s : State) (a : W32) :
    (s.cisNoted a).pair.acked = a + 1 ∧ (∀ sq, s.pair.endSeq = some sq → idxBefore sq (a + 1) = true → (s.cisNoted a).pair.endSeq = none)
      ∧ (∀ x ∈ s.pair.ciSent, idxBefore x.2.1 (a + 1) = true → (∀ y ∈ s.pair.ciSent, y.1 = x.1 → y = x) →
        ((s.cisNoted a).qctx x.1).mirroredCi = x.2.2)
      ∧ onlyChanges [.q, .pair] s (s.cisNoted a) := by
  have notes : (s.cisNoted a).ackNotes = (a + 1, (s.pair.coveredTo (a + 1) (s.pair.snapAgain (a + 1))).endSeq) :=
    forEach_keeps (P := fun t => t.ackNotes = (a + 1, (s.pair.coveredTo (a + 1) (s.pair.snapAgain (a + 1))).endSeq))
      (g := fun (x : Nat × W32 × W32) t => t.mirroredTo x.1 x.2.2) (fun _ _ h => h) _ rfl
  have frame : onlyChanges [.q, .pair] s (s.cisNoted a) :=
    forEach_keeps (P := onlyChanges [.q, .pair] s) (fun x t h => h.trans (t.mirroredTo_onlyChanges _ _)) _
      (onlyChanges_of_same (fun _ hb => State.withPair_same (hb.sub (by decide)) s _))
  refine ⟨congrArg Prod.fst notes, fun sq hsq hk => ?_, fun x hx hk only => ?_, frame⟩
  · exact (congrArg Prod.snd notes).trans (if_pos (PairState.endsBy_of hsq hk))
  · have mem : x ∈ s.pair.cisTo (a + 1) := List.mem_filter.mpr ⟨hx, hk⟩
    have read := forEach_reads (g := fun (y : Nat × W32 × W32) t => t.mirroredTo y.1 y.2.2) (rd := fun t => (t.qctx x.1).mirroredCi) (v := x.2.2)
      (hit := fun y => y.1 = x.1) (s.pair.cisTo (a + 1)) (fun y hy t => by
        rw [State.qctx_mirroredTo]
        by_cases e : y.1 = x.1
        · rw [if_pos e, if_pos e, only y (List.mem_filter.mp hy).1 e]
        · rw [if_neg e, if_neg e]) (s.withPair (s.pair.coveredTo (a + 1) (s.pair.snapAgain (a + 1))))
    exact read.trans (if_pos ⟨x, mem, rfl⟩)

theorem State.snapsAgain_spec (s : State) (a : W32) :
    (s.snapsAgain a).ackNotes = (s.cisNoted a).ackNotes ∧ onlyChanges [.arb, .pair, .lace, .out] (s.cisNoted a) (s.snapsAgain a) := by
  have notes : (forEach (s.pair.snapAgain (a + 1)) (fun x s => s.snapObj x.1 x.2) (s.cisNoted a)).ackNotes = (s.cisNoted a).ackNotes :=
    forEach_keeps (P := fun t => t.ackNotes = (s.cisNoted a).ackNotes) (g := fun (x : CtxKind × Nat) t => t.snapObj x.1 x.2)
      (fun x t h => (t.snapObj_ackNotes x.1 x.2).trans h) _ rfl
  have frame : onlyChanges [.arb, .pair, .lace, .out] (s.cisNoted a)
      (forEach (s.pair.snapAgain (a + 1)) (fun x s => s.snapObj x.1 x.2) (s.cisNoted a)) :=
    onlyChanges_of_same (fun _ hb => Same.forEach _ _ _ (fun x t => State.snapObj_same hb t x.1 x.2))
  exact ⟨notes, frame.trans (onlyChanges_of_same (fun _ hb => State.withPair_same (hb.sub (by decide)) _ _))⟩

theorem State.ackTaken_spec (s : State) (a : W32) :
    (s.ackTaken a).pair.acked = a + 1
      ∧ (∀ x ∈ s.pair.ciSent, idxBefore x.2.1 (a + 1) = true → (∀ y ∈ s.pair.ciSent, y.1 = x.1 → y = x) →
        ((s.ackTaken a).qctx x.1).mirroredCi = x.2.2)
      ∧ (∀ sq, s.pair.endSeq = some sq → idxBefore sq (a + 1) = true →
        (s.ackTaken a).f PAIR_STAT_send_state = 2 ∧ (s.ackTaken a).pair.endSeq = none)
      ∧ onlyChanges [.regs, .q, .ic, .arb, .pair, .lace, .out] s (s.ackTaken a) := by
  obtain ⟨acked, ended, noted, frame⟩ := s.cisNoted_spec a
  obtain ⟨notes, again⟩ := s.snapsAgain_spec a
  have acked' : (s.snapsAgain a).pair.acked = a + 1 := (congrArg Prod.fst notes :).trans acked
  have ended' : ∀ sq, s.pair.endSeq = some sq → idxBefore sq (a + 1) = true → (s.snapsAgain a).pair.endSeq = none :=
    fun sq h k => (congrArg Prod.snd notes :).trans (ended sq h k)
  have both : onlyChanges [.q, .arb, .pair, .lace, .out] s (s.snapsAgain a) := (frame.mono (by simp)).trans (again.mono (by simp))
  have queue : ∀ k, (s.snapsAgain a).qctx k = (s.cisNoted a).qctx k := fun k => State.qctx_of_q (again .q (by decide)) k
  unfold State.ackTaken
  split
  · obtain ⟨synced, -, rest, live⟩ := (s.snapsAgain a).setSend_live (.inr rfl)
    have raised := ((s.snapsAgain a).setSend 2).raise_onlyChanges 50
    have pair : (((s.snapsAgain a).setSend 2).raise 50).pair = ((s.snapsAgain a).setSend 2).pair := raised .pair (by decide)
    have q : (((s.snapsAgain a).setSend 2).raise 50).q = (s.snapsAgain a).q := (raised .q (by decide)).trans (live .q (by decide))
    refine ⟨?_, fun x hx hk only => ?_, fun sq h k => ⟨?_, ?_⟩, (both.mono (by simp)).trans ((live.mono (by simp)).trans (raised.mono (by simp)))⟩
    · rw [pair]
      exact (congrArg PairState.acked rest :).trans acked'
    · rw [State.qctx_of_q q, queue, noted x hx hk only]
    · rw [State.f_raise _ _ _ (by decide) (by decide), synced]
    · rw [pair]
      exact (congrArg PairState.endSeq rest :).trans (ended' sq h k)
  · next open_ =>
    refine ⟨acked', fun x hx hk only => ?_, fun sq h k => absurd (PairState.endsBy_of h k) open_, both.mono (by simp)⟩
    rw [queue, noted x hx hk only]

/-- A current acknowledgement is taken, and what waited goes on. -/
theorem exec_mirrorAck_current {a : W32} {s : State} (hm : s.mirrorOn = true) (hr : s.run = true)
    (hi : idxDiff a s.pair.acked < idxDiff s.pair.seq s.pair.acked) :
    exec (.mirrorAck a) s = .next ((s.consume 0 1 (slotMsg 0x32 0 a 0)).ackTaken a).mirrorRetry := by
  have taken := s.consume_onlyChanges 0 1 (slotMsg 0x32 0 a 0)
  show execMirrorAck a s = _
  unfold execMirrorAck
  dsimp only
  generalize s.consume 0 1 (slotMsg 0x32 0 a 0) = t at taken
  have regs : t.regs = s.regs := taken .regs (by decide)
  have pair : t.pair = s.pair := taken .pair (by decide)
  have on : t.mirrorOn = true := (State.mirrorOn_congr (State.reg_of_regs regs _)).trans hm
  have run : t.run = true := (State.run_congr (State.reg_of_regs regs _)).trans hr
  rw [if_pos ⟨on, run, by rw [pair]; exact hi⟩, State.takeAck_eq]

theorem exec_mirrorAck_old {a : W32} {s : State}
    (h : ¬ (s.mirrorOn = true ∧ s.run = true ∧ idxDiff a s.pair.acked < idxDiff s.pair.seq s.pair.acked)) :
    exec (.mirrorAck a) s = .next (s.consume 0 1 (slotMsg 0x32 0 a 0)) := by
  have taken := s.consume_onlyChanges 0 1 (slotMsg 0x32 0 a 0)
  show execMirrorAck a s = _
  unfold execMirrorAck
  dsimp only
  generalize s.consume 0 1 (slotMsg 0x32 0 a 0) = t at taken
  have regs : t.regs = s.regs := taken .regs (by decide)
  have pair : t.pair = s.pair := taken .pair (by decide)
  refine if_neg (fun k => h ?_)
  rwa [State.mirrorOn_congr (State.reg_of_regs regs _), State.run_congr (State.reg_of_regs regs _), pair] at k

/-! ## READY (R359) -/

/-- A queue of held-back deltas that is empty stays so: only a delta enters it. -/
theorem State.mirrorRec_heldBack {s : State} (code item cc qid : Nat) (a : W32) (b : W64) (l : List W64) (h : s.pair.heldBack = []) :
    (s.mirrorRec code item cc qid a b l).pair.heldBack = [] := by
  unfold State.mirrorRec State.mirrorRecAt
  dsimp only
  split_ifs
  · refine (congrArg PairState.heldBack (State.pump_unpumped _) :).trans ?_
    show s.pair.heldBack.filter _ = []
    rw [h, List.filter_nil]
  all_goals exact h

theorem State.snapObj_heldBack {s : State} (k : CtxKind) (n : Nat) (h : s.pair.heldBack = []) : (s.snapObj k n).pair.heldBack = [] := by
  cases k <;> exact State.mirrorRec_heldBack _ _ _ _ _ _ _ h

theorem State.mirrorNow_seq (s : State) (code dom : Nat) (x : MRec) (l : List W64) : (s.mirrorNow code dom x l).pair.seq = s.pair.seq + 1 :=
  (congrArg PairState.seq (State.pump_unpumped _) :)

theorem State.mirrorNow_endSeq (s : State) (code dom : Nat) (x : MRec) (l : List W64) :
    (s.mirrorNow code dom x l).pair.endSeq = if code = 0x0B then some s.pair.seq else s.pair.endSeq :=
  (congrArg PairState.endSeq (State.pump_unpumped _) :)

/-- While records leave, SYNC_END takes the next seq, or waits for room. -/
theorem State.syncEnd_endSeq {s : State} (live : s.mirrorLive = true) (on : s.halted = false)
    (sent : (s.mirrorRec 0x0B 0 0 0 0 0 []).pair.owed = []) :
    (s.mirrorRec 0x0B 0 0 0 0 0 []).pair.endSeq = some ((s.mirrorRec 0x0B 0 0 0 0 0 []).pair.seq - 1) := by
  revert sent
  unfold State.mirrorRec State.mirrorRecAt
  rw [if_pos (by rw [live, on]; rfl)]
  dsimp only
  split_ifs with room
  · intro _
    rw [State.mirrorNow_seq, State.mirrorNow_endSeq, if_pos rfl]
    exact congrArg some (BitVec.add_sub_cancel _ _).symm
  · next h => exact absurd h Bool.false_ne_true
  · exact fun sent => absurd sent (List.append_ne_nil_of_right_ne_nil _ (List.cons_ne_nil _ _))

/-- What holds of a state while the snapshots of a full sync are sent: READY is in, and no delta is held back. -/
def State.Syncing (s t : State) : Prop :=
  t.pair.readyIn = s.pair.readyIn ∧ t.pair.heldBack = [] ∧ onlyChanges [.arb, .pair, .lace, .out] s t

theorem State.Syncing.snapObj {s t : State} (h : s.Syncing t) (k : CtxKind) (n : Nat) : s.Syncing (t.snapObj k n) := by
  obtain ⟨ready, held, frame⟩ := h
  exact ⟨(congrArg PairState.readyIn (t.snapObj_unsent k n) :).trans ready, State.snapObj_heldBack k n held,
    frame.trans (t.snapObj_onlyChanges k n)⟩

theorem State.Syncing.snapObjs {s t : State} (h : s.Syncing t) (k : CtxKind) (l : List Nat) :
    s.Syncing (forEach l (fun n t => t.snapObj k n) t) :=
  forEach_keeps (P := s.Syncing) (fun n _ h => h.snapObj k n) l h

/-- The state after the snapshots of a full sync. -/
def State.snapshotsSent (s : State) : State :=
  let qs := (s.queues.filter (fun x => decide (x < 2 ^ 21))).filter s.qMirrored
  let cs := ((s.cq.map (·.1)).filter (fun x => decide (x < 2 ^ 18))).filter s.cMirrored
  let ns := ((s.ctr.map (·.1)).filter (fun x => decide (x < 2 ^ 20))).filter (fun n => (s.ctrOf n).valid)
  forEach ns (fun n t => t.snapObj .counter n) (forEach cs (fun n t => t.snapObj .ring n) (forEach qs (fun n t => t.snapObj .queue n) s))

theorem State.sendSnapshots_eq (s : State) : s.sendSnapshots = s.snapshotsSent.mirrorRec 0x0B 0 0 0 0 0 [] := rfl

theorem State.snapshotsSent_syncing {s : State} (h : s.pair.heldBack = []) : s.Syncing s.snapshotsSent :=
  State.Syncing.snapObjs (State.Syncing.snapObjs (State.Syncing.snapObjs
    ⟨rfl, h, onlyChanges_of_same (fun _ _ => Same.refl s)⟩ .queue _) .ring _) .counter _

/-- The state when READY is in and nothing is held back. -/
def State.readyCame (s : State) : State := s.withPair { s.pair with readyIn := true, heldBack := [] }

theorem State.sendSnapshots_spec {s : State} (run : s.run = true) (st : s.f PAIR_STAT_send_state = 1) :
    s.readyCame.sendSnapshots.pair.readyIn = true
      ∧ (s.readyCame.sendSnapshots.pair.owed = [] →
        s.readyCame.sendSnapshots.pair.endSeq = some (s.readyCame.sendSnapshots.pair.seq - 1))
      ∧ s.readyCame.sendSnapshots.pair.heldBack = [] ∧ onlyChanges [.arb, .pair, .lace, .out] s s.readyCame.sendSnapshots := by
  obtain ⟨ready, held, frame⟩ := State.snapshotsSent_syncing (s := s.readyCame) rfl
  rw [State.sendSnapshots_eq]
  generalize s.readyCame.snapshotsSent = t at ready held frame
  have regs : t.regs = s.regs := frame .regs (by decide)
  have live : t.mirrorLive = true := by
    unfold State.mirrorLive State.mirrorOn
    rw [State.f_of_regs regs, st, ready]
    rfl
  have on : t.halted = false := by
    unfold State.halted State.phase
    unfold State.run State.phase at run
    rw [State.f_of_regs regs, of_decide_eq_true run]
    rfl
  have sent := t.mirrorRec_onlyChanges 0x0B 0 0 0 0 0 []
  have came : onlyChanges [.arb, .pair, .lace, .out] s s.readyCame := onlyChanges_of_same (fun _ hb => State.withPair_same (hb.sub (by decide)) s _)
  exact ⟨(congrArg PairState.readyIn (t.mirrorRec_unsent 0x0B 0 0 0 0 0 []) :).trans ready, State.syncEnd_endSeq live on,
    State.mirrorRec_heldBack _ _ _ _ _ _ _ held, came.trans (frame.trans sent)⟩

theorem exec_ready_eq (s : State) :
    exec .ready s = if s.run = true ∧ s.f PAIR_STAT_send_state = 1 ∧ s.pair.readyIn = false
      then .next (s.consume 0 1 (slotMsg 0x33 0 0 0)).readyCame.sendSnapshots else .next (s.consume 0 1 (slotMsg 0x33 0 0 0)) := by
  have taken := s.consume_onlyChanges 0 1 (slotMsg 0x33 0 0 0)
  show execReady s = _
  unfold execReady
  dsimp only
  generalize s.consume 0 1 (slotMsg 0x33 0 0 0) = t at taken
  have regs : t.regs = s.regs := taken .regs (by decide)
  have pair : t.pair = s.pair := taken .pair (by decide)
  refine if_congr ?_ rfl rfl
  rw [State.run_congr (State.reg_of_regs regs _), State.f_of_regs regs, pair, Bool.not_eq_true]

/-- READY while a full sync waits for it sends the snapshots, and SYNC_END where it finds room. -/
theorem exec_ready_syncing {s : State} (run : s.run = true) (st : s.f PAIR_STAT_send_state = 1) (wait : s.pair.readyIn = false) :
    ∃ t, exec .ready s = .next t ∧ t.pair.readyIn = true ∧ (t.pair.owed = [] → t.pair.endSeq = some (t.pair.seq - 1))
      ∧ t.pair.heldBack = [] ∧ onlyChanges [.arb, .pair, .lace, .out] s t := by
  have taken := s.consume_onlyChanges 0 1 (slotMsg 0x33 0 0 0)
  rw [exec_ready_eq, if_pos ⟨run, st, wait⟩]
  have regs : (s.consume 0 1 (slotMsg 0x33 0 0 0)).regs = s.regs := taken .regs (by decide)
  obtain ⟨ready, last, held, frame⟩ := State.sendSnapshots_spec (s := s.consume 0 1 (slotMsg 0x33 0 0 0))
    ((State.run_congr (State.reg_of_regs regs _)).trans run) ((State.f_of_regs regs _).trans st)
  exact ⟨_, rfl, ready, last, held, (taken.mono (by simp)).trans frame⟩

theorem exec_ready_else {s : State} (h : ¬ (s.run = true ∧ s.f PAIR_STAT_send_state = 1 ∧ s.pair.readyIn = false)) :
    ∃ t, exec .ready s = .next t ∧ onlyChanges [.lace] s t :=
  ⟨_, (exec_ready_eq s).trans (if_neg h), s.consume_onlyChanges _ _ _⟩

/-- What a current acknowledgement brings about, before what waited goes on. -/
theorem exec_mirrorAck_spec {a : W32} {s : State} (hm : s.mirrorOn = true) (hr : s.run = true)
    (hi : idxDiff a s.pair.acked < idxDiff s.pair.seq s.pair.acked) :
    ∃ u, exec (.mirrorAck a) s = .next u.mirrorRetry ∧ u.pair.acked = a + 1
      ∧ (∀ x ∈ s.pair.ciSent, idxBefore x.2.1 (a + 1) = true → (∀ y ∈ s.pair.ciSent, y.1 = x.1 → y = x) → (u.qctx x.1).mirroredCi = x.2.2)
      ∧ (∀ sq, s.pair.endSeq = some sq → idxBefore sq (a + 1) = true → u.f PAIR_STAT_send_state = 2 ∧ u.pair.endSeq = none)
      ∧ onlyChanges [.regs, .q, .ic, .arb, .pair, .lace, .out] s u := by
  have taken := s.consume_onlyChanges 0 1 (slotMsg 0x32 0 a 0)
  rw [exec_mirrorAck_current hm hr hi]
  generalize s.consume 0 1 (slotMsg 0x32 0 a 0) = t at taken
  have pair : t.pair = s.pair := taken .pair (by decide)
  obtain ⟨acked, cis, ends, frame⟩ := t.ackTaken_spec a
  rw [pair] at cis ends
  exact ⟨_, rfl, acked, cis, ends, (taken.mono (by simp)).trans frame⟩

end Sys2Proof.Machine
end

section
/-!
PROOFS. What the owner does on its fellow's send state (R346, R358, R359, R373).
-/
namespace Sys2Proof.Machine

/-! ## Nothing waits for the mirror -/

/-- Neither mirrored nor about to change its mode: nothing of queue `q` waits for the mirror. -/
def State.modeless (s : State) (q : Nat) : Prop := s.qMirrored q = false ∧ (s.qctx q).newMirror = none

theorem State.retryMode_modeless {s : State} {q : Nat} (h : s.modeless q) : s.retryMode q = s := by
  have apply : s.applyMode q = s := by
    unfold State.applyMode
    rw [h.2]
  unfold State.retryMode State.orWait
  rw [apply, ite_self, ite_self]

theorem State.inOrder_none {s : State} {p : Flight → Bool} (h : ∀ f ∈ s.fl, p f = false) : s.inOrder p = [] := by
  have none : s.fl.filter p = [] := List.filter_eq_nil_iff.mpr (fun f hf => by rw [h f hf]; exact Bool.false_ne_true)
  unfold State.inOrder
  rw [none]
  rfl

/-- With no work that waits for the mirror, and no record that waits for room, nothing goes on. -/
theorem State.mirrorRetry_idle {s : State} (h : s.mirrorIdle) (none : s.pair.owed = []) : s.mirrorRetry = s := by
  obtain ⟨rings, acts, modes, flights⟩ := h
  have mirrored : s.queues.filter s.qMirrored = [] :=
    List.filter_eq_nil_iff.mpr (fun q hq => by rw [(modes q hq).1]; exact Bool.false_ne_true)
  have order : s.inOrder (fun f => decide (f.phase = .mirrorWait)) = [] :=
    State.inOrder_none (fun f hf => decide_eq_false (flights f hf))
  unfold State.mirrorRetry
  dsimp only
  rw [none, List.length_nil, State.serveOwed, acts, List.length_nil, State.serveActs, rings, List.length_nil, State.serveRings, mirrored]
  rw [show forEach [] (fun q s => State.advanceCi s q) s = s from rfl, forEach_still s.queues (fun q hq => State.retryMode_modeless (modes q hq)),
    order]
  rfl

theorem State.mirrorIdle_of {s t : State} (q : t.q = s.q) (fl : t.fl = s.fl) (rings : t.pair.ringWait = s.pair.ringWait)
    (acts : t.pair.acts = s.pair.acts) (h : s.mirrorIdle) : t.mirrorIdle := by
  obtain ⟨noRing, noAct, modes, flights⟩ := h
  refine ⟨rings.trans noRing, acts.trans noAct, fun k hk => ?_, fun f hf => flights f (fl ▸ hf)⟩
  unfold State.queues at hk modes
  rw [q] at hk
  rw [State.qMirrored_congr q, State.qctx_of_q q]
  exact modes k hk

theorem State.modeless_setQ {s : State} {q k : Nat} {c : QCtx} (mirror : c.mirror = (s.qctx q).mirror) (state : c.state = (s.qctx q).state)
    (mode : c.newMirror = (s.qctx q).newMirror) (h : s.modeless k) : (s.setQ q c).modeless k := by
  by_cases e : k = q
  · subst e
    exact ⟨(State.qMirrored_setQ mirror state).trans h.1, by rw [State.qctx_setQ_self, mode, h.2]⟩
  · have same : (s.setQ q c).qctx k = s.qctx k := (s.qctx_setQ q k c).trans (if_neg e)
    have mirrored := h.1
    unfold State.qMirrored at mirrored
    unfold State.modeless State.qMirrored
    rw [same]
    exact ⟨mirrored, h.2⟩

theorem State.queues_setQ {s : State} {q k : Nat} {c : QCtx} (h : k ∈ (s.setQ q c).queues) : k = q ∨ k ∈ s.queues := by
  unfold State.queues at h
  obtain ⟨x, hx, rfl⟩ := List.mem_map.mp h
  obtain ⟨mem, there⟩ := List.mem_filter.mp hx
  have mem : x ∈ Tbl.set (fun _ => QCtx.zero) s.q q c := mem
  rcases Tbl.mem_set mem with rfl | old
  · exact .inl rfl
  · exact .inr (List.mem_map.mpr ⟨x, List.mem_filter.mpr ⟨old, there⟩, rfl⟩)

/-- No queue of `l` has work for the mirror, and no other queue is there. -/
def State.modelessAll (s : State) (l : List Nat) : Prop := (∀ q ∈ l, s.modeless q) ∧ ∀ q ∈ s.queues, q ∈ l

theorem State.modelessAll_setQ {s : State} {l : List Nat} {q : Nat} {c : QCtx} (hq : q ∈ l) (mirror : c.mirror = (s.qctx q).mirror)
    (state : c.state = (s.qctx q).state) (mode : c.newMirror = (s.qctx q).newMirror) (h : s.modelessAll l) : (s.setQ q c).modelessAll l :=
  ⟨fun k hk => State.modeless_setQ mirror state mode (h.1 k hk), fun k hk => (State.queues_setQ hk).elim (fun e => e ▸ hq) (h.2 k)⟩

/-! ## A stream ends -/

/-- What a stream that ends leaves of the pair's state. -/
def PairState.dropped (p : PairState) : PairState :=
  { p with queue := [], owed := [], passed := [], modeAcks := [], snaps := [], heldBack := [], deferCi := [], deferCqci := [], ciSent := [],
           locks := [], readyIn := false, endSeq := none }

/-- mirrored_ci follows CI. -/
def QCtx.caughtUp (c : QCtx) : QCtx := { c with mirroredCi := c.ci }

theorem State.dropMirror_eq (s : State) :
    s.dropMirror = forEach s.queues (fun q s => s.setQ q (s.qctx q).caughtUp) (s.withPair s.pair.dropped) := rfl

theorem State.dropMirror_pair (s : State) : s.dropMirror.pair = s.pair.dropped :=
  forEach_keeps (P := fun t => t.pair = s.pair.dropped) (g := fun q (t : State) => t.updQ q QCtx.caughtUp) (fun _ _ h => h) _ rfl

theorem State.dropMirror_onlyChanges (s : State) : onlyChanges [.q, .pair] s s.dropMirror :=
  onlyChanges_of_same (fun _ hb => State.dropMirror_same hb s)

theorem State.dropMirror_idle {s : State} (h : s.mirrorIdle) : s.dropMirror.mirrorIdle := by
  obtain ⟨rings, acts, modes, flights⟩ := h
  have all : s.dropMirror.modelessAll s.queues := by
    rw [State.dropMirror_eq]
    exact List.foldlRecOn (motive := fun t : State => t.modelessAll s.queues) s.queues _ ⟨modes, fun _ hq => hq⟩
      (fun t ht q hq => State.modelessAll_setQ hq rfl rfl rfl ht)
  have pair := s.dropMirror_pair
  refine ⟨?_, ?_, fun q hq => all.1 q (all.2 q hq), fun f hf => flights f (?_ : f ∈ s.fl)⟩
  · rw [pair]
    exact rings
  · rw [pair]
    exact acts
  · rwa [s.dropMirror_onlyChanges .fl (by decide)] at hf

/-! ## The send state -/

/-- What a change of the send state to `st` leaves: the keep state and the losses counted, and what of the pair no stream holds. -/
def State.sendIs (s t : State) (st : Nat) : Prop :=
  t.f PAIR_STAT_send_state = st ∧ t.f PAIR_STAT_keep_state = s.f PAIR_STAT_keep_state ∧ t.f PAIR_STAT_losses = s.f PAIR_STAT_losses
    ∧ t.pair.fellowSend = s.pair.fellowSend ∧ onlyChanges [.regs, .q, .arb, .pair, .lace, .out] s t

theorem State.setSend_eq_stop {s : State} {st : Nat} (e : s.f PAIR_STAT_send_state ≠ st) (h : ¬ (st = 1 ∨ st = 2)) :
    s.setSend st = (s.setF PAIR_STAT_send_state st).dropMirror.mirrorRetry.announce := by
  unfold State.setSend
  simp only [if_neg e, if_neg h]

/-- A state that sends no records drops those that wait, and with nothing that waits for them that is all. -/
theorem State.setSend_stop {s : State} {st : Nat} (h : s.mirrorIdle) (e : s.f PAIR_STAT_send_state ≠ st) (stop : ¬ (st = 1 ∨ st = 2))
    (fit : st < 8) : s.sendIs (s.setSend st) st := by
  have set := s.setF_onlyChanges PAIR_STAT_send_state st
  have drop := (s.setF PAIR_STAT_send_state st).dropMirror_onlyChanges
  have pair := (s.setF PAIR_STAT_send_state st).dropMirror_pair
  have idle := State.dropMirror_idle (State.mirrorIdle_of (t := s.setF PAIR_STAT_send_state st) rfl rfl rfl rfl h)
  have still := State.mirrorRetry_idle idle (congrArg PairState.owed pair)
  rw [State.setSend_eq_stop e stop, still]
  generalize (s.setF PAIR_STAT_send_state st).dropMirror = u at drop pair
  have told := u.announce_onlyChanges
  have fields : ∀ d, u.announce.f d = (s.setF PAIR_STAT_send_state st).f d :=
    fun d => State.f_of_regs ((told .regs (by decide)).trans (drop .regs (by decide))) d
  refine ⟨?_, ?_, ?_, ?_, (set.mono (by simp)).trans ((drop.mono (by simp)).trans (told.mono (by simp)))⟩
  · rw [fields, State.f_setF_self _ _ _ (by decide)]
    exact Nat.mod_eq_of_lt fit
  · rw [fields, State.f_setF_ne _ _ _ _ (by decide) (.inr (.inr (by decide)))]
  · rw [fields, State.f_setF_ne _ _ _ _ (by decide) (.inr (.inr (by decide)))]
  · refine (congrArg PairState.fellowSend u.announce_unpumped :).trans ?_
    rw [pair]
    rfl

/-- What ends with neither a mirror sent nor one kept. -/
def State.isOff (s t : State) : Prop :=
  t.f PAIR_STAT_send_state = 0 ∧ t.f PAIR_STAT_keep_state = 0 ∧ t.pair.fellowSend = s.pair.fellowSend
    ∧ onlyChanges [.regs, .q, .arb, .pair, .lace, .out] s t

theorem State.goOff_spec {s : State} (h : s.mirrorIdle) : s.isOff s.goOff := by
  have set := s.setF_onlyChanges PAIR_STAT_keep_state 0
  have keep : (s.setKeep 0).f PAIR_STAT_keep_state = 0 := State.f_setF_self _ _ _ (by decide)
  have idle : (s.setKeep 0).mirrorIdle := State.mirrorIdle_of (t := s.setKeep 0) rfl rfl rfl rfl h
  have same : (s.setKeep 0).pair = s.pair := rfl
  have kept : onlyChanges [.regs, .q, .arb, .pair, .lace, .out] s (s.setKeep 0) := set.mono (by simp)
  unfold State.goOff
  dsimp only
  generalize s.setKeep 0 = u at keep idle same kept
  split
  · next off =>
    have told := u.announce_onlyChanges
    have fields : ∀ d, u.announce.f d = u.f d := fun d => State.f_of_regs (told .regs (by decide)) d
    refine ⟨(fields _).trans off, (fields _).trans keep, ?_, kept.trans (told.mono (by simp))⟩
    exact (congrArg PairState.fellowSend u.announce_unpumped :).trans (congrArg PairState.fellowSend same :)
  · next on =>
    obtain ⟨sends, keeps, -, fellow, frame⟩ := State.setSend_stop idle on (by decide) (by decide)
    exact ⟨sends, keeps.trans keep, fellow.trans (congrArg PairState.fellowSend same :), kept.trans frame⟩

/-! ## A full sync starts (R359) -/

/-- The state in which a full sync starts, before its send state is told. -/
def State.syncStarts (s : State) : State :=
  (s.dropMirror.withPair { s.dropMirror.pair with seq := 0, acked := 0, applied := 0, clears := 0, lastSent := 0 }).setKeep 1

theorem State.startSync_barred {s : State} (phase : s.f PAIR_STAT_phase = 0) (h : s.mirrorBarred = true) : s.startSync = s.goOff := by
  unfold State.startSync
  rw [if_neg (not_not_intro phase), if_pos h]

theorem State.startSync_waits {s : State} (phase : s.f PAIR_STAT_phase = 0) (h : s.mirrorBarred = false)
    (wait : s.laceUp = false ∨ s.pair.noticed = true ∨ s.fb PAIR_STAT_halt_in = true) : s.startSync = s := by
  unfold State.startSync
  rw [if_neg (not_not_intro phase), if_neg (by rw [h]; exact Bool.false_ne_true), if_neg ?_]
  rintro ⟨-, up, noNotice, noHalt⟩
  rcases wait with down | notice | halt
  · exact absurd up (by rw [down]; exact Bool.false_ne_true)
  · exact noNotice notice
  · exact noHalt halt

theorem State.startSync_starts {s : State} (run : s.run = true) (phase : s.f PAIR_STAT_phase = 0) (h : s.mirrorBarred = false)
    (up : s.laceUp = true) (notice : s.pair.noticed = false) (halt : s.fb PAIR_STAT_halt_in = false) :
    s.startSync = if s.syncStarts.f PAIR_STAT_send_state = 1 then s.syncStarts.announce else s.syncStarts.setSend 1 := by
  unfold State.startSync
  rw [if_neg (not_not_intro phase), if_neg (by rw [h]; exact Bool.false_ne_true),
    if_pos ⟨run, up, by rw [notice]; exact Bool.false_ne_true, by rw [halt]; exact Bool.false_ne_true⟩]
  rfl

/-- What the start of a full sync leaves: both states are SYNCING, and the numbers of the records start again. -/
def State.isSyncing (s t : State) : Prop :=
  t.f PAIR_STAT_send_state = 1 ∧ t.f PAIR_STAT_keep_state = 1 ∧ t.pair.seq = 0 ∧ t.pair.applied = 0 ∧ t.pair.clears = 0
    ∧ t.pair.fellowSend = s.pair.fellowSend ∧ onlyChanges [.regs, .q, .arb, .pair, .lace, .out] s t

/-- The numbers of the records of a pair's state, and its fellow's send state. -/
def PairState.restart (p : PairState) : W32 × W32 × Nat × Nat := (p.seq, p.applied, p.clears, p.fellowSend)

theorem PairState.restart_of_unpumped {p r : PairState} (h : p.unpumped = r.unpumped) : p.restart = r.restart := by
  show p.unpumped.restart = r.unpumped.restart
  rw [h]

theorem State.syncStarts_spec (s : State) :
    s.syncStarts.f PAIR_STAT_keep_state = 1 ∧ s.syncStarts.pair.restart = (0, 0, 0, s.pair.fellowSend)
      ∧ onlyChanges [.regs, .q, .arb, .pair, .lace, .out] s s.syncStarts := by
  have drop := s.dropMirror_onlyChanges
  have pair := s.dropMirror_pair
  unfold State.syncStarts
  generalize s.dropMirror = u at drop pair
  refine ⟨State.f_setF_self _ _ _ (by decide), ?_, ?_⟩
  · show (0, 0, 0, u.pair.fellowSend) = _
    rw [pair]
    rfl
  · have set : onlyChanges [.regs, .pair] u ((u.withPair { u.pair with seq := 0, acked := 0, applied := 0, clears := 0, lastSent := 0 }).setKeep 1) :=
      onlyChanges_of_same (fun _ hb => (State.setKeep_same (hb.sub (by decide)) _ _).trans (State.withPair_same (hb.sub (by decide)) u _))
    exact (drop.mono (by simp)).trans (set.mono (by simp))

theorem State.startSync_spec {s : State} (run : s.run = true) (phase : s.f PAIR_STAT_phase = 0) (h : s.mirrorBarred = false)
    (up : s.laceUp = true) (notice : s.pair.noticed = false) (halt : s.fb PAIR_STAT_halt_in = false) : s.isSyncing s.startSync := by
  rw [State.startSync_starts run phase h up notice halt]
  obtain ⟨keep, numbers, frame⟩ := s.syncStarts_spec
  generalize s.syncStarts = u at keep numbers frame
  have ends : ∀ t : State, t.f PAIR_STAT_send_state = 1 → t.f PAIR_STAT_keep_state = u.f PAIR_STAT_keep_state →
      t.pair.unpumped = u.pair.unpumped → onlyChanges [.regs, .arb, .pair, .lace, .out] u t → s.isSyncing t := by
    intro t sends keeps rest told
    have same : t.pair.restart = (0, 0, 0, s.pair.fellowSend) := (PairState.restart_of_unpumped rest).trans numbers
    exact ⟨sends, keeps.trans keep, congrArg (·.1) same, congrArg (·.2.1) same, congrArg (·.2.2.1) same, congrArg (·.2.2.2) same,
      frame.trans (told.mono (by simp))⟩
  split
  · next syncing =>
    have told := u.announce_onlyChanges
    have fields : ∀ d, u.announce.f d = u.f d := fun d => State.f_of_regs (told .regs (by decide)) d
    exact ends _ ((fields _).trans syncing) (fields _) u.announce_unpumped (told.mono (by simp))
  · obtain ⟨sends, keeps, rest, told⟩ := u.setSend_live (st := 1) (.inl rfl)
    exact ends _ sends keeps rest told

/-! ## SEND_STATE -/

/-- The state when the fellow's send state is noted. -/
def State.heardSend (s : State) (st : BitVec 3) : State :=
  (s.consume 0 1 (slotMsg 0x34 0 0 (BitVec.ofNat 64 st.toNat))).withPair
    { (s.consume 0 1 (slotMsg 0x34 0 0 (BitVec.ofNat 64 st.toNat))).pair with fellowSend := st.toNat }

theorem State.heardSend_pair (s : State) (st : BitVec 3) : (s.heardSend st).pair = { s.pair with fellowSend := st.toNat } := by
  have taken : (s.consume 0 1 (slotMsg 0x34 0 0 (BitVec.ofNat 64 st.toNat))).pair = s.pair := s.consume_onlyChanges _ _ _ .pair (by decide)
  unfold State.heardSend
  rw [taken]
  rfl

theorem State.heardSend_onlyChanges (s : State) (st : BitVec 3) : onlyChanges [.pair, .lace] s (s.heardSend st) :=
  onlyChanges_of_same (fun _ hb => (State.withPair_same (hb.sub (by decide)) _ _).trans (State.consume_same (hb.sub (by decide)) s _ _ _))

theorem State.heardSend_regs (s : State) (st : BitVec 3) : (s.heardSend st).regs = s.regs := s.heardSend_onlyChanges st .regs (by decide)

theorem State.heardSend_run (s : State) (st : BitVec 3) : (s.heardSend st).run = s.run :=
  State.run_congr (State.reg_of_regs (s.heardSend_regs st) _)

theorem State.heardSend_idle {s : State} (st : BitVec 3) (h : s.mirrorIdle) : (s.heardSend st).mirrorIdle :=
  State.mirrorIdle_of (s.heardSend_onlyChanges st .q (by decide)) (s.heardSend_onlyChanges st .fl (by decide))
    (congrArg PairState.ringWait (s.heardSend_pair st) :) (congrArg PairState.acts (s.heardSend_pair st) :) h

theorem State.heardSend_fellow (s : State) (st : BitVec 3) : (s.heardSend st).pair.fellowSend = st.toNat :=
  congrArg PairState.fellowSend (s.heardSend_pair st)

theorem exec_sendState_eq (st : BitVec 3) (s : State) :
    exec (.sendState st) s =
      if ¬ s.run = true then .next (s.heardSend st)
      else if st.toNat = 3 ∧ s.f PAIR_STAT_send_state ≠ 4 ∧ s.f PAIR_STAT_phase = 0 then .next ((s.heardSend st).setSend 4).countLoss
      else if st.toNat = 0 ∧ s.f PAIR_STAT_phase = 0 then
        .next (if s.f PAIR_STAT_send_state = 0 then s.heardSend st else (s.heardSend st).goOff)
      else if st.toNat ≠ 3 ∧ s.f PAIR_STAT_send_state = 4 then .next (s.heardSend st).startSync
      else if st.toNat = 1 ∧ (s.f PAIR_STAT_send_state = 0 ∨ s.f PAIR_STAT_send_state = 2) then .next (s.heardSend st).startSync
      else .next (s.heardSend st) := by
  have run := s.heardSend_run st
  have fields : ∀ d, (s.heardSend st).f d = s.f d := State.f_of_regs (s.heardSend_regs st)
  rw [← run, ← fields PAIR_STAT_send_state, ← fields PAIR_STAT_phase]
  rfl

theorem exec_sendState_idle (st : BitVec 3) {s : State} (run : s.run = false) : exec (.sendState st) s = .next (s.heardSend st) := by
  rw [exec_sendState_eq, if_pos (by rw [run]; exact Bool.false_ne_true)]

/-- A fellow that is LOST makes this mover BLOCKED, and the loss is counted. -/
theorem exec_sendState_lost {s : State} (run : s.run = true) (idle : s.mirrorIdle) (on : s.f PAIR_STAT_send_state ≠ 4)
    (phase : s.f PAIR_STAT_phase = 0) :
    ∃ t, exec (.sendState 3) s = .next t ∧ t.f PAIR_STAT_send_state = 4 ∧ t.pair.fellowSend = 3
      ∧ t.f PAIR_STAT_losses = satAdd PAIR_STAT_losses.w (s.f PAIR_STAT_losses) 1
      ∧ onlyChanges [.regs, .q, .ic, .arb, .pair, .lace, .out] s t := by
  rw [exec_sendState_eq, if_neg (not_not_intro run), if_pos ⟨rfl, on, phase⟩]
  have fields : ∀ d, (s.heardSend 3).f d = s.f d := State.f_of_regs (s.heardSend_regs 3)
  have heard := s.heardSend_onlyChanges 3
  obtain ⟨sends, -, losses, fellow, frame⟩ :=
    State.setSend_stop (st := 4) (State.heardSend_idle 3 idle) (by rw [fields]; exact on) (by decide) (by decide)
  have told := fellow.trans (s.heardSend_fellow 3)
  rw [fields] at losses
  generalize (s.heardSend 3).setSend 4 = u at sends losses told frame
  have counted : onlyChanges [.regs, .ic, .out] u u.countLoss := onlyChanges_of_same (fun _ hb => State.countLoss_same hb u)
  refine ⟨_, rfl, ?_, ?_, ?_, (heard.mono (by simp)).trans ((frame.mono (by simp)).trans (counted.mono (by simp)))⟩
  · unfold State.countLoss
    rw [State.f_raise _ _ _ (by decide) (by decide), State.f_cnt_ne _ _ _ (by decide) (.inr (.inl (by decide))), sends]
  · rw [counted .pair (by decide), told]
    rfl
  · unfold State.countLoss
    rw [State.f_raise _ _ _ (by decide) (by decide), State.f_cnt_self _ _ (by decide), losses]

/-- A fellow that is OFF makes it OFF. -/
theorem exec_sendState_off {s : State} (run : s.run = true) (idle : s.mirrorIdle) (on : s.f PAIR_STAT_send_state ≠ 0)
    (phase : s.f PAIR_STAT_phase = 0) :
    ∃ t, exec (.sendState 0) s = .next t ∧ t.pair.fellowSend = 0 ∧ t.f PAIR_STAT_send_state = 0 ∧ t.f PAIR_STAT_keep_state = 0
      ∧ onlyChanges [.regs, .q, .arb, .pair, .lace, .out] s t := by
  rw [exec_sendState_eq, if_neg (not_not_intro run), if_neg (fun k => absurd k.1 (by decide)), if_pos ⟨rfl, phase⟩, if_neg on]
  obtain ⟨sends, keeps, fellow, frame⟩ := State.goOff_spec (State.heardSend_idle 0 idle)
  exact ⟨_, rfl, fellow.trans (s.heardSend_fellow 0), sends, keeps, ((s.heardSend_onlyChanges 0).mono (by simp)).trans frame⟩

/-- The end of BLOCKED, and a fellow that starts a full sync, start one. -/
theorem exec_sendState_sync {st : BitVec 3} {s : State} (run : s.run = true)
    (h : (st ≠ 3 ∧ st ≠ 0 ∧ s.f PAIR_STAT_send_state = 4) ∨ (st = 1 ∧ (s.f PAIR_STAT_send_state = 0 ∨ s.f PAIR_STAT_send_state = 2))) :
    exec (.sendState st) s = .next (s.heardSend st).startSync := by
  have num : ∀ k : BitVec 3, st.toNat = k.toNat → st = k := fun k e => BitVec.eq_of_toNat_eq e
  rw [exec_sendState_eq, if_neg (not_not_intro run)]
  rcases h with ⟨lost, off, blocked⟩ | ⟨rfl, start⟩
  · rw [if_neg (fun k => lost (num 3 k.1)), if_neg (fun k => off (num 0 k.1)), if_pos ⟨fun k => lost (num 3 k), blocked⟩]
  · rw [if_neg (fun k => absurd k.1 (by decide)), if_neg (fun k => absurd k.1 (by decide)),
      if_neg (fun k => by rcases start with e | e <;> exact absurd (e.symm.trans k.2) (by decide)), if_pos ⟨rfl, start⟩]

theorem State.heardSend_sync_same {s : State} (st : BitVec 3) :
    (s.heardSend st).mirrorBarred = s.mirrorBarred ∧ (s.heardSend st).laceUp = s.laceUp
      ∧ (s.heardSend st).pair.noticed = s.pair.noticed ∧ (s.heardSend st).fb PAIR_STAT_halt_in = s.fb PAIR_STAT_halt_in := by
  have reg : ∀ o, (s.heardSend st).reg o = s.reg o := State.reg_of_regs (s.heardSend_regs st)
  have fields : ∀ d, (s.heardSend st).f d = s.f d := State.f_of_regs (s.heardSend_regs st)
  have bits : ∀ d, (s.heardSend st).fb d = s.fb d := fun d => State.fb_of_reg d (reg _)
  have hard : (s.heardSend st).pair.hard = s.pair.hard := (congrArg PairState.hard (s.heardSend_pair st) :)
  refine ⟨?_, ?_, (congrArg PairState.noticed (s.heardSend_pair st) :), bits _⟩
  · unfold State.mirrorBarred State.mirrorBase
    rw [bits, bits, fields]
  · unfold State.laceUp State.laceSt
    rw [fields, hard]

/-- A full sync starts where one may run; where none may, mirroring ends; with the link not up, or a halted fellow, the states stay. -/
theorem exec_sendState_restarts {st : BitVec 3} {s : State} (run : s.run = true) (idle : s.mirrorIdle) (phase : s.f PAIR_STAT_phase = 0)
    (h : (st ≠ 3 ∧ st ≠ 0 ∧ s.f PAIR_STAT_send_state = 4) ∨ (st = 1 ∧ (s.f PAIR_STAT_send_state = 0 ∨ s.f PAIR_STAT_send_state = 2))) :
    ∃ t, exec (.sendState st) s = .next t ∧ t.pair.fellowSend = st.toNat ∧ onlyChanges [.regs, .q, .arb, .pair, .lace, .out] s t
      ∧ (s.mirrorBarred = true → t.f PAIR_STAT_send_state = 0 ∧ t.f PAIR_STAT_keep_state = 0)
      ∧ (s.mirrorBarred = false → s.laceUp = true → s.pair.noticed = false → s.fb PAIR_STAT_halt_in = false →
        t.f PAIR_STAT_send_state = 1 ∧ t.f PAIR_STAT_keep_state = 1 ∧ t.pair.seq = 0 ∧ t.pair.applied = 0 ∧ t.pair.clears = 0)
      ∧ (s.mirrorBarred = false → (s.laceUp = false ∨ s.pair.noticed = true ∨ s.fb PAIR_STAT_halt_in = true) → t.regs = s.regs) := by
  rw [exec_sendState_sync run h]
  obtain ⟨barred, up, noticed, halt⟩ := s.heardSend_sync_same st
  have fellow := s.heardSend_fellow st
  have heard : onlyChanges [.regs, .q, .arb, .pair, .lace, .out] s (s.heardSend st) := (s.heardSend_onlyChanges st).mono (by simp)
  have regs := s.heardSend_regs st
  have idle' := State.heardSend_idle st idle
  have run' := (s.heardSend_run st).trans run
  rw [← barred, ← up, ← noticed, ← halt, ← regs, ← fellow]
  have phase' : (s.heardSend st).f PAIR_STAT_phase = 0 := (State.f_of_regs regs _).trans phase
  generalize s.heardSend st = u at *
  refine ⟨_, rfl, ?_⟩
  by_cases may : u.mirrorBarred = true
  · rw [State.startSync_barred phase' may]
    obtain ⟨sends, keeps, same, frame⟩ := State.goOff_spec idle'
    have not : ¬ u.mirrorBarred = false := by rw [may]; exact Bool.noConfusion
    exact ⟨same, heard.trans frame, fun _ => ⟨sends, keeps⟩, fun k => absurd k not, fun k => absurd k not⟩
  have may' : u.mirrorBarred = false := Bool.eq_false_iff.mpr may
  by_cases wait : u.laceUp = false ∨ u.pair.noticed = true ∨ u.fb PAIR_STAT_halt_in = true
  · rw [State.startSync_waits phase' may' wait]
    refine ⟨rfl, heard, fun k => absurd k may, fun _ on noNotice noHalt => ?_, fun _ _ => rfl⟩
    rw [on, noNotice, noHalt] at wait
    simp at wait
  · obtain ⟨on, rest⟩ := not_or.mp wait
    obtain ⟨noNotice, noHalt⟩ := not_or.mp rest
    obtain ⟨sends, keeps, seq, applied, clears, same, frame⟩ := State.startSync_spec run' phase' may'
      (Bool.not_eq_false _ |>.mp on) (Bool.not_eq_true _ |>.mp noNotice) (Bool.not_eq_true _ |>.mp noHalt)
    exact ⟨same, heard.trans frame, fun k => absurd k may, fun _ _ _ _ => ⟨sends, keeps, seq, applied, clears⟩, fun _ k => absurd k wait⟩

end Sys2Proof.Machine
end

section
/-!
PROOFS. What the owner does on its own registers and when its intervals end: mirror modes, deferred CI records, and the consumer indices
of adopted rings (R351, R357, R371, R376).
-/
namespace Sys2Proof.Machine

/-! ## Mode changes (R357) -/

theorem State.mirrorRec_off {s : State} (code item cc qid : Nat) (a : W32) (b : W64) (l : List W64) (h : s.mirrorOn = false) :
    s.mirrorRec code item cc qid a b l = s := by
  unfold State.mirrorRec State.mirrorRecAt State.mirrorLive
  rw [h, Bool.false_and, Bool.false_and, if_neg Bool.false_ne_true]

/-- Queue `q` has the mode and the pending mode of context `x` and the other queues are as they were; while no records are sent, none
more waits for room. -/
def State.modeSet (s t : State) (q : Nat) (x : QCtx) : Prop :=
  (t.qctx q).mirror = x.mirror ∧ (t.qctx q).newMirror = x.newMirror ∧ keepsQueues q s t
    ∧ (s.mirrorOn = false → t.mirrorOn = false ∧ t.pair.owed.length ≤ s.pair.owed.length)

section
variable {s t : State} {q : Nat} {x : QCtx}

theorem State.modeSet.of_same (h : s.modeSet t q x) {u : State} (ctx : u.q = t.q) (regs : u.regs = t.regs)
    (owed : t.mirrorOn = false → u.pair.owed.length ≤ t.pair.owed.length) : s.modeSet u q x := by
  obtain ⟨mode, pending, rest, off⟩ := h
  refine ⟨?_, ?_, fun k hk => (State.qctx_of_q ctx k).trans (rest k hk), fun no => ?_⟩
  · rw [State.qctx_of_q ctx, mode]
  · rw [State.qctx_of_q ctx, pending]
  · obtain ⟨still, few⟩ := off no
    exact ⟨(State.mirrorOn_congr (State.reg_of_regs regs _)).trans still, (owed still).trans few⟩

theorem State.modeSet.mirrorRec (h : s.modeSet t q x) (code item cc qid : Nat) (a : W32) (b : W64) (l : List W64) :
    s.modeSet (t.mirrorRec code item cc qid a b l) q x := by
  have frame := t.mirrorRec_onlyChanges code item cc qid a b l
  refine h.of_same (frame .q (by decide)) (frame .regs (by decide)) (fun off => ?_)
  rw [State.mirrorRec_off _ _ _ _ _ _ _ off]

theorem State.modeSet.snapObj (h : s.modeSet t q x) (k : CtxKind) (n : Nat) : s.modeSet (t.snapObj k n) q x := by
  cases k <;> exact h.mirrorRec _ _ _ _ _ _ _

theorem State.modeSet.forgetQ (h : s.modeSet t q x) : s.modeSet (t.forgetQ q) q x :=
  h.of_same rfl rfl (fun _ => List.length_filter_le _ _)

theorem State.modeSet.caughtUp (h : s.modeSet t q x) : s.modeSet (t.setQ q (t.qctx q).caughtUp) q x := by
  obtain ⟨mode, pending, rest, off⟩ := h
  refine ⟨?_, ?_, fun k hk => ?_, off⟩
  · rw [State.qctx_setQ_self]
    exact mode
  · rw [State.qctx_setQ_self]
    exact pending
  · rw [State.setQ_keepsQueues t q _ k hk, rest k hk]

theorem State.modeSet.ite {u : State} {c : Prop} [Decidable c] (h : s.modeSet t q x) (k : s.modeSet u q x) :
    s.modeSet (if c then t else u) q x := by
  split_ifs
  · exact h
  · exact k

theorem State.modeSet_setQ (s : State) (q : Nat) (c : QCtx) : s.modeSet (s.setQ q c) q c := by
  refine ⟨?_, ?_, s.setQ_keepsQueues q c, fun off => ⟨off, le_rfl⟩⟩ <;> rw [State.qctx_setQ_self]

end

/-- The snapshots and the end of a queue's mirror leave its new mode and the other queues. -/
theorem State.changeMirror_spec (s : State) (q : Nat) (g : QCtx → QCtx) : s.modeSet (s.changeMirror q g) q (g (s.qctx q)) := by
  have set : s.modeSet (s.updQ q g) q (g (s.qctx q)) := s.modeSet_setQ q (g (s.qctx q))
  have gone := ((set.mirrorRec 0x09 q 0 q 0 0 []).forgetQ).caughtUp
  have ring {t : State} (c : Nat) {b : Bool} (h : s.modeSet t q (g (s.qctx q))) :
      s.modeSet (if b = true then t.snapObj .ring c else t) q (g (s.qctx q)) := (h.snapObj .ring c).ite h
  have ringGone {t : State} (c : Nat) {b : Bool} (h : s.modeSet t q (g (s.qctx q))) :
      s.modeSet (if b = true then t.mirrorRec 0x0A c 0 0 0 0 [] else t) q (g (s.qctx q)) := (h.mirrorRec 0x0A c 0 0 0 0 []).ite h
  exact ringGone _ (ring _ ((set.snapObj .queue q).ite (gone.ite set)))

/-- The mode that a queue is to have. -/
def QCtx.inMode (c : QCtx) (m : MirrorMode) : QCtx := { c with mirror := m, newMirror := none }

theorem State.applyMode_spec {s : State} {q : Nat} {m : MirrorMode} (h : (s.qctx q).newMirror = some m) :
    s.modeSet (s.applyMode q) q ((s.qctx q).inMode m) := by
  have made := s.changeMirror_spec q (fun c => c.inMode m)
  have snap {t : State} {b : Bool} (k : s.modeSet t q ((s.qctx q).inMode m)) :
      s.modeSet (if b = true then t.snapObj .queue q else t) q ((s.qctx q).inMode m) := (k.snapObj .queue q).ite k
  have acks {t : State} {b : Bool} (k : s.modeSet t q ((s.qctx q).inMode m)) :
      s.modeSet (if b = true then t.withPair { t.pair with modeAcks := addNew t.pair.modeAcks q } else t) q ((s.qctx q).inMode m) :=
    State.modeSet.ite (k.of_same rfl rfl (fun _ => le_rfl)) k
  unfold State.applyMode
  rw [h]
  exact acks (snap made)

/-- Where the records that the change sends find room, it does not wait for them. -/
theorem State.orWait_goes {s t : State} {q : Nat} {x : QCtx} (h : s.modeSet t q x) (go : s.recordsGo) : s.orWait t = t := by
  obtain ⟨-, -, -, off⟩ := h
  refine if_neg (fun ⟨more, wait⟩ => ?_)
  rcases go with no | none
  · exact absurd more (not_lt.mpr (off no).2)
  · exact wait none

theorem State.hasStitch_iff (s : State) (q : Nat) : s.hasStitch q = true ↔ ∃ f ∈ s.flsOf q, f.stitches ≠ [] := by
  unfold State.hasStitch
  simp only [List.any_eq_true, Bool.not_eq_true', List.isEmpty_eq_false_iff]

/-- The state when the mode that queue `q` is to have is noted. -/
def State.modeAsked (s : State) (q : Nat) (m : MirrorMode) : State := s.updQ q (fun c => { c with newMirror := some m })

theorem State.qctx_modeAsked (s : State) (q : Nat) (m : MirrorMode) : (s.modeAsked q m).qctx q = { s.qctx q with newMirror := some m } :=
  s.qctx_setQ_self q _

theorem State.modeAsked_keepsQueues (s : State) (q : Nat) (m : MirrorMode) : keepsQueues q s (s.modeAsked q m) := s.setQ_keepsQueues q _

theorem exec_pairQmode_reserved {w : W64} {s : State} (h : bits w.toNat 21 2 = 3) : exec (.pairQmode w) s = .next s := by
  show execPairQmode w s = _
  unfold execPairQmode
  rw [h]
  rfl

theorem exec_pairQmode_eq {w : W64} {m : MirrorMode} {s : State} (hm : modeOf (bits w.toNat 21 2) = some m) (run : s.run = true)
    (own : bits w.toNat 0 21 ≠ 0) (there : (s.qctx (bits w.toNat 0 21)).state ≠ .free) :
    exec (.pairQmode w) s = .next ((s.modeAsked (bits w.toNat 0 21) m).retryMode (bits w.toNat 0 21)).mirrorRetry := by
  show execPairQmode w s = _
  unfold execPairQmode
  rw [hm]
  exact guarded_true (by simp [run, own, there]) _ _

theorem State.retryMode_bound {s : State} {q : Nat} (h : ∃ f ∈ s.flsOf q, f.stitches ≠ []) : s.retryMode q = s :=
  if_pos ((s.hasStitch_iff q).mpr h)

theorem State.retryMode_unbound {s : State} {q : Nat} {m : MirrorMode} (h : ∀ f ∈ s.flsOf q, f.stitches = []) (go : s.recordsGo)
    (asked : (s.qctx q).newMirror = some m) : s.retryMode q = s.applyMode q := by
  have free : ¬ s.hasStitch q = true := fun k => by
    obtain ⟨f, hf, bound⟩ := (s.hasStitch_iff q).mp k
    exact bound (h f hf)
  exact (if_neg free).trans (State.orWait_goes (State.applyMode_spec asked) go)

/-- A mode change takes effect at once without a bound stitch where its records find room, else waits. -/
theorem State.modeAsked_retried {s : State} {q : Nat} (m : MirrorMode) (go : s.recordsGo) :
    keepsQueues q s ((s.modeAsked q m).retryMode q)
      ∧ ((∀ f ∈ s.flsOf q, f.stitches = []) →
        (((s.modeAsked q m).retryMode q).qctx q).mirror = m ∧ (((s.modeAsked q m).retryMode q).qctx q).newMirror = none)
      ∧ ((∃ f ∈ s.flsOf q, f.stitches ≠ []) → (((s.modeAsked q m).retryMode q).qctx q).mirror = (s.qctx q).mirror
        ∧ (((s.modeAsked q m).retryMode q).qctx q).newMirror = some m) := by
  have asked := s.qctx_modeAsked q m
  have rest := s.modeAsked_keepsQueues q m
  by_cases bound : ∃ f ∈ s.flsOf q, f.stitches ≠ []
  · rw [State.retryMode_bound (s := s.modeAsked q m) bound]
    refine ⟨rest, fun none => ?_, fun _ => ?_⟩
    · obtain ⟨f, hf, some⟩ := bound
      exact absurd (none f hf) some
    · rw [asked]
      exact ⟨rfl, rfl⟩
  · have free : ∀ f ∈ s.flsOf q, f.stitches = [] := fun f hf => by_contra (fun k => bound ⟨f, hf, k⟩)
    have pending : ((s.modeAsked q m).qctx q).newMirror = some m := by rw [asked]
    rw [State.retryMode_unbound (s := s.modeAsked q m) free go pending]
    obtain ⟨mode, done, others, -⟩ := State.applyMode_spec pending
    exact ⟨fun k hk => (others k hk).trans (rest k hk), fun _ => ⟨mode, done⟩, fun k => absurd k bound⟩

theorem State.modeAsked_onlyChanges (s : State) (q : Nat) (m : MirrorMode) :
    onlyChanges [.q, .arb, .pair, .lace, .out] s ((s.modeAsked q m).retryMode q) :=
  onlyChanges_of_same (fun _ hb => (State.retryMode_same hb _ q).trans (State.updQ_same (hb.sub (by decide)) s q _))

/-! ## Deferred CI records (R351) -/

theorem State.sendCi_deferCi (s : State) (q : Nat) : (s.sendCi q).pair.deferCi = s.pair.deferCi :=
  (congrArg PairState.deferCi (State.mirrorDelta_unsent s .queue q 0x02 0 q (s.qctx q).ci 0 []) :)

theorem State.mirrorDelta_deferCqci (s : State) (k : CtxKind) (n code cc qid : Nat) (a : W32) (b : W64) (l : List W64) :
    (s.mirrorDelta k n code cc qid a b l).pair.deferCqci = s.pair.deferCqci :=
  (congrArg PairState.deferCqci (s.mirrorDelta_unsent k n code cc qid a b l) :)

theorem State.sendCi_onlyChanges (s : State) (q : Nat) : onlyChanges [.arb, .pair, .lace, .out] s (s.sendCi q) :=
  onlyChanges_of_same (fun _ hb => State.sendCi_same hb s q)

theorem State.mirrorDelta_onlyChanges (s : State) (k : CtxKind) (n code cc qid : Nat) (a : W32) (b : W64) (l : List W64) :
    onlyChanges [.arb, .pair, .lace, .out] s (s.mirrorDelta k n code cc qid a b l) :=
  onlyChanges_of_same (fun _ hb => State.mirrorDelta_same hb s k n code cc qid a b l)

/-- The deferred records when that of object `n` goes: the interval starts again. -/
def sentDefer (n : Nat) (l : List (Nat × Bool)) : List (Nat × Bool) := updWhere (fun y => decide (y.1 = n)) (fun y => (y.1, false)) l

theorem mem_sentDefer {n : Nat} {l : List (Nat × Bool)} {x : Nat × Bool} (h : l.find? (fun x => decide (x.1 = n)) = some x) :
    (n, false) ∈ sentDefer n l := by
  have num : x.1 = n := of_decide_eq_true (List.find?_some h :)
  refine List.mem_map.mpr ⟨x, List.mem_of_find?_eq_some h, ?_⟩
  simp [num]

theorem exec_ciInterval (n : Nat) {s : State} (run : s.run = true) : exec (.ciRecordInterval false n) s = .next (s.ciInterval n) :=
  guarded_true run _ _

theorem exec_cqciInterval (n : Nat) {s : State} (run : s.run = true) : exec (.ciRecordInterval true n) s = .next (s.cqciInterval n) :=
  guarded_true run _ _

theorem State.ciInterval_ends {s : State} {n : Nat} (h : s.pair.deferCi.find? (fun x => decide (x.1 = n)) = some (n, false)) :
    s.ciInterval n = s.withPair { s.pair with deferCi := s.pair.deferCi.filter (fun y => decide (y.1 ≠ n)) } := by
  unfold State.ciInterval
  simp only [h]
  rfl

theorem State.ciInterval_sends {s : State} {n : Nat} (h : s.pair.deferCi.find? (fun x => decide (x.1 = n)) = some (n, true))
    (room : s.mirrorRoom 1 = true) :
    s.ciInterval n = (s.withPair { s.pair with deferCi := sentDefer n s.pair.deferCi }).sendCi n := by
  unfold State.ciInterval
  simp only [h, room]
  rfl

theorem State.cqciInterval_ends {s : State} {n : Nat} (h : s.pair.deferCqci.find? (fun x => decide (x.1 = n)) = some (n, false)) :
    s.cqciInterval n = s.withPair { s.pair with deferCqci := s.pair.deferCqci.filter (fun y => decide (y.1 ≠ n)) } := by
  unfold State.cqciInterval
  simp only [h]
  rfl

theorem State.cqciInterval_sends {s : State} {n : Nat} (h : s.pair.deferCqci.find? (fun x => decide (x.1 = n)) = some (n, true))
    (room : s.mirrorRoom 1 = true) :
    s.cqciInterval n
      = (s.withPair { s.pair with deferCqci := sentDefer n s.pair.deferCqci }).mirrorDelta .ring n 0x07 0 0 (s.cctx n).ci 0 [] := by
  unfold State.cqciInterval
  simp only [h, room]
  rfl

/-! ## The consumer index of an adopted ring (R134, R371) -/

theorem exec_pairCqCi {w : W64} {s : State} (run : s.run = true) (there : (s.cctx (bits w.toNat 0 18 + 2 ^ 18)).state ≠ CqState.free) :
    exec (.pairCqCi w) s = .next (s.judgeCi (bits w.toNat 0 18 + 2 ^ 18) (BitVec.ofNat 32 (bits w.toNat 18 32)) s.mt) := by
  have may : (s.run && decide ((s.cctx (bits w.toNat 0 18 + 2 ^ 18)).state ≠ CqState.free)) = true := by
    rw [run, decide_eq_true there]
    rfl
  exact guarded_true may _ _

theorem exec_pairCqCi_legal {w : W64} {c : Nat} {v : W32} {s : State} (hc : c = bits w.toNat 0 18 + 2 ^ 18)
    (hv : v = BitVec.ofNat 32 (bits w.toNat 18 32)) (run : s.run = true) (acts : s.pair.acts = []) (there : (s.cctx c).state ≠ CqState.free)
    (legal : idxDiff (s.cctx c).pi v ≤ idxDiff (s.cctx c).pi (s.cctx c).ci) (full : (s.cctx c).state ≠ .full)
    (mirrored : s.cMirrored c = false) (spilled : s.spilledOf c = 0) (waits : s.waitsFor c = false) :
    ∃ t, exec (.pairCqCi w) s = .next t ∧ t.cctx c = { s.cctx c with ci := v } ∧ keepsRings c s t ∧ onlyChanges [.cq] s t := by
  subst hc hv
  rw [exec_pairCqCi run there, State.judgeCi_legal s.mt acts legal full spilled waits mirrored]
  exact ⟨_, rfl, s.cctx_setC_self _ _, s.setC_keepsRings _ _, s.setC_onlyChanges _ _⟩

theorem exec_pairCqCi_illegal {w : W64} {c : Nat} {v : W32} {s : State} (hc : c = bits w.toNat 0 18 + 2 ^ 18)
    (hv : v = BitVec.ofNat 32 (bits w.toNat 18 32)) (run : s.run = true) (acts : s.pair.acts = []) (there : (s.cctx c).state ≠ CqState.free)
    (bad : idxDiff (s.cctx c).pi (s.cctx c).ci < idxDiff (s.cctx c).pi v) :
    ∃ t, exec (.pairCqCi w) s = .next t ∧ t.cctx c = { s.cctx c with ciErrors := satAdd 16 (s.cctx c).ciErrors 1 } ∧ keepsRings c s t
      ∧ t.f CQ_CI_BAD_count = satAdd CQ_CI_BAD_count.w (s.f CQ_CI_BAD_count) 1 ∧ t.f CQ_CI_BAD_last_cqid = bits w.toNat 0 18
      ∧ t.f (IC_CNT_count 35) = min 255 (s.f (IC_CNT_count 35) + 1) ∧ onlyChanges [.regs, .cq, .ic, .out] s t := by
  subst hc hv
  rw [exec_pairCqCi run there, State.judgeCi_illegal s.mt acts bad]
  obtain ⟨ctx, count, last, -, event, rest, frame⟩ :=
    s.ciRefused_spec (bits w.toNat 0 18 + 2 ^ 18) (BitVec.ofNat 32 (bits w.toNat 18 32))
  have num : (bits w.toNat 0 18 + 2 ^ 18) % 2 ^ 18 = bits w.toNat 0 18 := by
    rw [Nat.add_mod_right]
    exact Nat.mod_eq_of_lt (Nat.mod_lt _ (by decide))
  exact ⟨_, rfl, ctx, rest, count, last.trans num, event, frame⟩

/-- A deferred CI record goes when its interval ends, and the interval starts again. -/
theorem exec_ciInterval_sends {n : Nat} {s : State} (run : s.run = true)
    (due : s.pair.deferCi.find? (fun x => decide (x.1 = n)) = some (n, true)) (room : s.mirrorRoom 1 = true) :
    ∃ t, exec (.ciRecordInterval false n) s = .next t ∧ (n, false) ∈ t.pair.deferCi ∧ onlyChanges [.arb, .pair, .lace, .out] s t := by
  rw [exec_ciInterval n run, State.ciInterval_sends due room]
  have noted : onlyChanges [.arb, .pair, .lace, .out] s (s.withPair { s.pair with deferCi := sentDefer n s.pair.deferCi }) :=
    onlyChanges_of_same (fun _ hb => State.withPair_same (hb.sub (by decide)) s _)
  refine ⟨_, rfl, ?_, noted.trans (State.sendCi_onlyChanges _ n)⟩
  rw [State.sendCi_deferCi]
  exact mem_sentDefer due

/-- A deferred CQCI record goes when its interval ends, and the interval starts again. -/
theorem exec_cqciInterval_sends {n : Nat} {s : State} (run : s.run = true)
    (due : s.pair.deferCqci.find? (fun x => decide (x.1 = n)) = some (n, true)) (room : s.mirrorRoom 1 = true) :
    ∃ t, exec (.ciRecordInterval true n) s = .next t ∧ (n, false) ∈ t.pair.deferCqci ∧ onlyChanges [.arb, .pair, .lace, .out] s t := by
  rw [exec_cqciInterval n run, State.cqciInterval_sends due room]
  have noted : onlyChanges [.arb, .pair, .lace, .out] s (s.withPair { s.pair with deferCqci := sentDefer n s.pair.deferCqci }) :=
    onlyChanges_of_same (fun _ hb => State.withPair_same (hb.sub (by decide)) s _)
  refine ⟨_, rfl, ?_, noted.trans (State.mirrorDelta_onlyChanges _ _ _ _ _ _ _ _ _)⟩
  rw [State.mirrorDelta_deferCqci]
  exact mem_sentDefer due

theorem State.withPair_onlyChanges (s : State) (p : PairState) : onlyChanges [.pair] s (s.withPair p) :=
  onlyChanges_of_same (fun _ hb => State.withPair_same hb s p)

end Sys2Proof.Machine

open Sys2Proof Sys2Proof.Machine

/-- Settles O52: an acknowledgement is noted record by record before what waited goes on; a change of the send state that ends a stream
leaves nothing to go on where nothing waits for the mirror; and sending records leaves all that the clauses name. -/
theorem ownerFollowsItsKeeper : Obligations.OwnerFollowsItsKeeper := by
  unfold Obligations.OwnerFollowsItsKeeper
  refine ⟨fun seq s => ⟨exec_mirrorAck_spec, fun h => ⟨_, exec_mirrorAck_old h, s.consume_onlyChanges _ _ _⟩⟩,
    fun s => ⟨exec_ready_syncing, exec_ready_else⟩, fun st s => ⟨?_, ?_, ?_, ?_⟩, fun w s => ⟨exec_pairQmode_reserved, ?_⟩,
    fun n s run => ⟨?_, exec_ciInterval_sends run, ?_, exec_cqciInterval_sends run⟩, ?_⟩
  case refine_1 => exact fun run => ⟨_, exec_sendState_idle st run, s.heardSend_pair st, s.heardSend_onlyChanges st⟩
  case refine_2 =>
    rintro run idle rfl
    exact exec_sendState_lost run idle
  case refine_3 =>
    rintro run idle rfl
    exact exec_sendState_off run idle
  case refine_4 => exact exec_sendState_restarts
  case refine_5 =>
    intro m hm run own there go
    obtain ⟨rest, free, bound⟩ := State.modeAsked_retried (q := bits w.toNat 0 21) m go
    exact ⟨_, exec_pairQmode_eq hm run own there, rest, free, bound, s.modeAsked_onlyChanges _ m⟩
  case refine_6 =>
    intro ended
    rw [exec_ciInterval n run, State.ciInterval_ends ended]
    exact ⟨_, rfl, rfl, s.withPair_onlyChanges _⟩
  case refine_7 =>
    intro ended
    rw [exec_cqciInterval n run, State.cqciInterval_ends ended]
    exact ⟨_, rfl, rfl, s.withPair_onlyChanges _⟩
  case refine_8 =>
    intro w c v s hc hv run acts there
    exact ⟨exec_pairCqCi_legal hc hv run acts there, exec_pairCqCi_illegal hc hv run acts there⟩
end
